-- ==== Sys2Proof/Word.lean ====
section
/-!
DEFINITION. The machine's plainest values: bytes, 64-bit words and the field reader used by every layout table of the spec.
-/

namespace Sys2Proof

/-- One byte of any memory. -/
abbrev Byte := BitVec 8

/-- One scalar register: 64 bits (R27). -/
abbrev Word := BitVec 64

/-- A pair index of the instruction store (R83): 14 bits. -/
abbrev Pair := BitVec 14

/-- `field x lo n` is the number held by bits [lo + n - 1 : lo] of `x`, the way every layout table of the spec names bits. -/
def field {w : Nat} (x : BitVec w) (lo n : Nat) : Nat := (x.toNat >>> lo) % 2 ^ n

/-- `bitOf x i` is bit [i] of `x`. -/
def bitOf {w : Nat} (x : BitVec w) (i : Nat) : Bool := x.toNat.testBit i

/-- The two's complement value of the low `n` bits of the number `x`. -/
def signedOf (n x : Nat) : Int :=
  let y := x % 2 ^ n
  if 2 * y < 2 ^ n then (y : Int) else (y : Int) - (2 ^ n : Nat)

/-- The `n`-bit pattern of an integer, modulo 2^n. -/
def patternOf (n : Nat) (x : Int) : Nat := (x % (2 ^ n : Nat)).toNat

end Sys2Proof
end

