-- ==== Sys2Proof/Word/Payload.lean ====
section
/-!
DEFINITION. What the constructors of Instr carry: the headers of the two word kinds, and the data that an event brings.
-/

namespace Sys2Proof

/-- The header of a C-word (R87): end of bundle, guard negate, guard predicate, side. -/
structure CHdr where
  /-- E: the bundle ends with this pair. -/
  e : Bool
  /-- GN: the guard is negated. -/
  n : Bool
  /-- GP: the guard predicate within the side. -/
  g : BitVec 4
  /-- SD: the side. -/
  s : Bool
  deriving DecidableEq, Repr

/-- The header of an A-word (R89): side, guard negate, guard predicate. -/
structure AHdr where
  /-- SD: the side. -/
  s : Bool
  /-- GN: the guard is negated. -/
  n : Bool
  /-- GP: the guard predicate within the side. -/
  g : BitVec 4
  deriving DecidableEq, Repr

/-- The number of a residency of the core, 0 to 3 (R17). -/
abbrev ResNo := Fin 4

/-- The number of a context of a residency, 0 to 10 (R12). -/
abbrev CtxNo := Fin 11

/-- A rank: package [26:11], logical core or endpoint [10:0] (R254, R313). -/
abbrev Rank := BitVec 27

/-- The package of a rank. -/
def Rank.pkg (r : Rank) : Nat := field r 11 16

/-- The core or endpoint number of a rank. -/
def Rank.core (r : Rank) : Nat := field r 0 11

/-- A matched message: its envelope (R314), where it goes, and its data when they travel behind the envelope. -/
structure Message where
  /-- SRC of the envelope. -/
  src : Rank
  /-- The destination rank. -/
  dst : Rank
  tag : BitVec 32
  group : BitVec 16
  /-- LEN of the envelope: data bytes, and for an N4 message its scale bytes too (R258). -/
  len : Nat
  /-- CLS: 0 data, 1 multicast copy, 2 reduction partials, 3 reserved. -/
  cls : BitVec 2
  rdv : Bool
  pkt : Bool
  retry : Bool
  fin : Bool
  /-- A reserved bit of the envelope is set (R314). -/
  bad : Bool
  seq : BitVec 16
  /-- The block-length log2 of an N4 message, 0 for any other (R258). -/
  blg : BitVec 3
  /-- The sequence number stamped on the scale bytes of an N4 message (R63). -/
  scaleSeq : BitVec 16
  /-- The sender's work order. -/
  order : Nat
  /-- The sender's number for the send, echoed by every notice (R327). -/
  sendId : Nat
  /-- The multicast number of a class 1 copy (R269). -/
  mcast : BitVec 16
  /-- The data that travel with the envelope. -/
  data : List Byte
  /-- The age its packet carries on arrival, and the router port by which it came (R424). -/
  age : Nat
  port : Nat
  deriving DecidableEq, Repr

/-- An event record (R356). -/
structure EventRec where
  /-- Weight, FP32. -/
  w : BitVec 32
  tick : BitVec 32
  row : BitVec 8
  col : BitVec 8
  fld : BitVec 3
  src : Rank
  deriving DecidableEq, Repr

/-- A matrix command on its way to its target core (R229 to R231). -/
structure MatrixCommand where
  /-- The rank of the target. -/
  dst : Rank
  /-- The capability. -/
  cap : Word
  /-- The MMA body for the target: descriptor, tile A, tile B, V and rounding mode. -/
  ad : BitVec 3
  ta : BitVec 4
  tb : BitVec 4
  v : Bool
  rm : BitVec 3
  /-- NE and the sender's mailbox, from the notice word. -/
  notice : Option (BitVec 4)
  src : Rank
  order : Nat
  /-- The sender's context and pair index. -/
  ctx : CtxNo
  pair : Pair
  /-- Its age, and the port by which it came to the target's router (R316, R424). -/
  age : Nat
  port : Nat
  deriving DecidableEq, Repr

/-- A buffer-free token (R341). -/
structure FreeToken where
  /-- The multicast's sender, and its work order. -/
  sender : Rank
  order : Nat
  group : BitVec 16
  num : BitVec 16
  weight : Nat
  /-- The receivers that the weight stands for. -/
  who : List Rank
  deriving DecidableEq, Repr

/-- What a clear-to-send carries: the bytes permitted, and the buffer's core and address (R326). -/
structure Clearance where
  n : Nat
  core : Nat
  addr : Word
  deriving DecidableEq, Repr

/-- Where an event goes: a rank of a work order. -/
structure Addressee where
  rank : Rank
  order : Nat
  /-- Its age, and the port by which it came to the core's router (R316, R424). -/
  age : Nat
  port : Nat
  deriving DecidableEq, Repr

/-- A router's children on a multicast tree, and the one that a token comes from (R341). -/
structure Branch where
  children : Nat
  child : Nat
  deriving DecidableEq, Repr

/-- An atomic operation of R123: code, width in bytes, operands. -/
structure Atomic where
  op : BitVec 4
  bytes : Nat
  /-- The operand, or the new value of a compare and swap. -/
  val : Nat
  /-- The comparand of a compare and swap. -/
  cmp : Nat
  deriving DecidableEq, Repr

/-- What a request asks of a memory server (R431). -/
inductive ServerOp where
  /-- Read of n bytes. -/
  | read (n : Nat)
  /-- Write of these bytes. -/
  | write (data : List Byte)
  /-- An atomic, at server or package scope. -/
  | atomic (a : Atomic)
  deriving DecidableEq, Repr

/-- Where a request of another party stands in that party's program: what must be performed before it (R292, R296, R298). -/
structure PartyOrder where
  /-- The party, and the place of the request in its program order. -/
  party : Nat
  no : Nat
  /-- The party is a core of this core's cluster, whose store buffer it shares (R293). -/
  near : Bool
  /-- A release at die scope or wider, an acquire, and a release or full fence at any scope, lie between it and the party's earlier accesses. -/
  rel : Bool
  acq : Bool
  narrow : Bool
  /-- The package and the work order of a requester of another package, whose request comes in by a gateway (R440). -/
  gate : Option (Nat × Nat)
  deriving DecidableEq, Repr

/-- The order of a request of the core under view: its own state orders it. -/
def PartyOrder.own : PartyOrder := ⟨0, 0, true, false, false, false, none⟩

/-- A request at a memory server: who asked, where, and what. -/
structure ServerReq where
  /-- The number the requester gave it. -/
  id : Nat
  /-- Which part of the request, where a granule boundary splits it (R191, R193). -/
  part : Nat
  /-- It was made by the core under view; its answer comes back to it. -/
  own : Bool
  /-- The package whose memory it names. -/
  pkg : Nat
  /-- Address in that package's server space: HBM from 0, LPDDR 6 from 0x80_0000_0000 (R430). -/
  addr : Nat
  op : ServerOp
  /-- For a request of another party. -/
  order : PartyOrder
  deriving DecidableEq, Repr

/-- Why a server access fails (R374), with the low bits of word 24. -/
inductive ServerFail where
  /-- EXTENT_MISS. -/
  | extentMiss
  /-- EXTENT_RIGHTS: the missing right and the covering entry. -/
  | extentRights (right : BitVec 3) (entry : BitVec 4)
  /-- SERVER_ERROR: 1 uncorrectable data, 2 integrity failure on the path. -/
  | serverError (code : BitVec 8)
  /-- NOT_IMPLEMENTED by a revision A server. -/
  | notImplemented
  /-- PEER_DEAD, found by source timeout or by a synthesised response. -/
  | peerDead (timeout : Bool)
  /-- SCALE_SEQUENCE: the two sequence numbers of an N4 transfer differ. -/
  | scaleSequence
  /-- A landing that R199 calls an error: a core outside the work order, or bytes outside the user scratchpad; its local address. -/
  | landing (addr : Nat)
  /-- SCHEDULE_VIOLATION: a landing met the event engine at one bank; its local address (R365). -/
  | schedule (addr : Nat)
  deriving DecidableEq, Repr

/-- A copy at a Porter (R433). -/
structure PorterCopy where
  /-- The issuing core's number for the copy. -/
  id : Nat
  /-- The copy was issued by the core under view. -/
  own : Bool
  /-- CPYD, rather than CPY. -/
  deal : Bool
  /-- The Porter: its server's endpoint, with the package, as a rank; endpoint 0 where no byte of the source relocates (R198, R429). -/
  porter : Rank
  deriving DecidableEq, Repr

/-- Bytes landing in a core's local memory: local address and the bytes from there. -/
structure Landing where
  /-- The copy they belong to. -/
  id : Nat
  /-- The copy was issued by the core under view. -/
  own : Bool
  /-- The residency they land in, and its work order: a later owner of its slot gets none of them (R490). -/
  res : ResNo
  order : Nat
  /-- First local offset (R46). -/
  addr : Nat
  /-- The bytes. -/
  data : List Byte
  /-- Added on write, in words of four bytes (R199). -/
  add : Bool
  /-- The mailbox to which CPYD counts the bytes. -/
  mbox : Option (BitVec 4)
  /-- They are a CPYD's, which lands in the user scratchpad alone (R199). -/
  deal : Bool
  deriving DecidableEq, Repr

end Sys2Proof
end

