-- ==== Sys2Proof/Syntax.lean ====
section
/-!
DEFINITION. The instructions and events of the machine: one constructor for each row of the opcode table.
Word rows carry the header of their word (R87, R89) and their fields; event rows carry what the event brings with it.
-/

namespace Sys2Proof

/-- The one list of steps of the machine: every row of the opcode table. -/
inductive Instr where
  /-- NOP (R86): empty control word that occupies no slot and has no effect. -/
  | nop (h : CHdr)
  /-- BR (R155): branches to the bundle address plus a signed pair offset when the guard is true. -/
  | br (h : CHdr) (o : BitVec 16)
  /-- BRI (R155): branches to the pair index in a register plus a signed immediate. -/
  | bri (h : CHdr) (a : BitVec 5) (i : BitVec 6)
  /-- CALL (R155): branches by pair offset and writes the return pair index to s31. -/
  | call (h : CHdr) (o : BitVec 16)
  /-- CALLI (R155): indirect call to a register target plus an immediate, linking to s31. -/
  | calli (h : CHdr) (a : BitVec 5) (i : BitVec 6)
  /-- RET (R155): branches to the pair index held in a register, s31 by default. -/
  | ret (h : CHdr) (a : BitVec 5)
  /-- JTAB (R156): reads a 16-bit offset from a table by index and branches, or falls through when the index is out of range. -/
  | jtab (h : CHdr) (a : BitVec 5) (b : BitVec 5) (len : BitVec 16)
  /-- LOOP (R159): starts a zero-overhead loop over a nest of up to six dimensions with stepped stream registers. -/
  | loop (h : CHdr) (k : BitVec 3) (cnt : BitVec 5)
  /-- LOOPX (R162): ends the active loop and transfers to the exit target. -/
  | loopx (h : CHdr) (o : BitVec 16)
  /-- WAIT_FULL (R163): holds the bundle until a scratchpad word is full. -/
  | waitFull (h : CHdr) (a : BitVec 5)
  /-- WAIT_EMPTY (R163): holds the bundle until a scratchpad word is empty. -/
  | waitEmpty (h : CHdr) (a : BitVec 5)
  /-- WAIT_FTIME (R163): holds the bundle until an event field's time reaches a tick. -/
  | waitFtime (h : CHdr) (a : BitVec 5) (f : BitVec 3)
  /-- WAIT_ERRQ (R163): holds the bundle until the residency's error queue holds an entry. -/
  | waitErrq (h : CHdr)
  /-- WAIT_CYC (R163): holds the bundle until a number of cycles has passed. -/
  | waitCyc (h : CHdr) (a : BitVec 5)
  /-- WAIT_HELPERS (R163): holds the bundle until every selected helper context is FREE. -/
  | waitHelpers (h : CHdr) (a : BitVec 5)
  /-- WAIT_LIMIT (R164): any WAIT kind with a time limit in EXT, writing 1 if the condition held or 0 if the limit lapsed. -/
  | waitLimit (h : CHdr) (a : BitVec 5) (t : BitVec 4) (k : BitVec 7) (lim : BitVec 32)
  /-- WAITCH (R165): waits until every transfer on a channel up to a given ID has completed, with acquire meaning. -/
  | waitch (h : CHdr) (a : BitVec 5) (c : BitVec 3)
  /-- WAITMB (R166): waits for a pending mailbox trip and consumes it. -/
  | waitmb (h : CHdr) (m : BitVec 4)
  /-- START (R167): context 0 starts a FREE helper context at an entry pair. -/
  | start (h : CHdr) (a : BitVec 5) (k : BitVec 4)
  /-- HEND (R168): A helper lands its in-flight results and becomes FREE. -/
  | hend (h : CHdr)
  /-- COUPLE (R171): waits until every member of the gang set issues COUPLE of the same width, then forms the gang. -/
  | couple (h : CHdr) (w : BitVec 4)
  /-- UNCOUPLE (R172): disbands the gang; each member continues with its own fetch. -/
  | uncouple (h : CHdr)
  /-- BELL (R173): arrives at a die bell and waits for its release. -/
  | bell (h : CHdr) (k : BitVec 4)
  /-- BELL_D (R173): arrives at a cross-die bell through the I/O die and waits for its release. -/
  | bellD (h : CHdr) (k : BitVec 4)
  /-- BELL_X (R174): arrives at a die bell with the exchange flag, entering exchange mode at release. -/
  | bellX (h : CHdr) (k : BitVec 4) (d : Bool)
  /-- EXCH (R174): opens the core's exchange phase on the die crossbar. -/
  | exch (h : CHdr)
  /-- EXCHEND (R174): waits for the phase's transfers, closes the phase, releases helpers and resumes the slice timer. -/
  | exchend (h : CHdr)
  /-- ROUND (R175): sends round marker n on every output channel and waits for marker n on every input channel. -/
  | round (h : CHdr)
  /-- YIELD (R170): gives way to the residency's other ready contexts, or ends the slice if none is ready. -/
  | yield (h : CHdr)
  /-- HALT (R169): waits for helpers, tasks, channels and acknowledgements, then ends the residency. -/
  | halt (h : CHdr)
  /-- LD (R176): loads 1 to 8 bytes from local memory with a short scaled offset. -/
  | ld (h : CHdr) (a : BitVec 5) (b : BitVec 5) (z : BitVec 2) (k : Bool) (o : BitVec 3)
  /-- LD_EXT (R176): loads 1 to 8 bytes from local memory with a 32-bit byte offset in EXT. -/
  | ldExt (h : CHdr) (a : BitVec 5) (b : BitVec 5) (z : BitVec 2) (k : Bool) (off : BitVec 32)
  /-- ST (R176): stores 1 to 8 bytes to local memory with a short scaled offset. -/
  | st (h : CHdr) (a : BitVec 5) (b : BitVec 5) (z : BitVec 2) (o : BitVec 3)
  /-- ST_EXT (R176): stores 1 to 8 bytes to local memory with a 32-bit byte offset in EXT. -/
  | stExt (h : CHdr) (a : BitVec 5) (b : BitVec 5) (z : BitVec 2) (off : BitVec 32)
  /-- LDP (R178): loads two 8-byte words into a register pair as one access. -/
  | ldp (h : CHdr) (a : BitVec 5) (b : BitVec 5) (o : BitVec 3)
  /-- LDP_EXT (R178): LDP with a 32-bit byte offset in EXT. -/
  | ldpExt (h : CHdr) (a : BitVec 5) (b : BitVec 5) (off : BitVec 32)
  /-- STP (R178): stores two 8-byte words from a register pair as one access. -/
  | stp (h : CHdr) (a : BitVec 5) (b : BitVec 5) (o : BitVec 3)
  /-- STP_EXT (R178): STP with a 32-bit byte offset in EXT. -/
  | stpExt (h : CHdr) (a : BitVec 5) (b : BitVec 5) (off : BitVec 32)
  /-- LDFE (R179): waits until a word is full, loads it and sets it empty. -/
  | ldfe (h : CHdr) (a : BitVec 5) (b : BitVec 5) (o : BitVec 3)
  /-- LDFE_EXT (R179): LDFE with a 32-bit byte offset in EXT. -/
  | ldfeExt (h : CHdr) (a : BitVec 5) (b : BitVec 5) (off : BitVec 32)
  /-- LDFF (R179): waits until a word is full and loads it, leaving it full. -/
  | ldff (h : CHdr) (a : BitVec 5) (b : BitVec 5) (o : BitVec 3)
  /-- LDFF_EXT (R179): LDFF with a 32-bit byte offset in EXT. -/
  | ldffExt (h : CHdr) (a : BitVec 5) (b : BitVec 5) (off : BitVec 32)
  /-- STFE (R179): waits until a word is empty, stores it and sets it full. -/
  | stfe (h : CHdr) (a : BitVec 5) (b : BitVec 5) (o : BitVec 3)
  /-- STFE_EXT (R179): STFE with a 32-bit byte offset in EXT. -/
  | stfeExt (h : CHdr) (a : BitVec 5) (b : BitVec 5) (off : BitVec 32)
  /-- STF (R179): stores a word and sets it full without waiting. -/
  | stf (h : CHdr) (a : BitVec 5) (b : BitVec 5) (o : BitVec 3)
  /-- STF_EXT (R179): STF with a 32-bit byte offset in EXT. -/
  | stfExt (h : CHdr) (a : BitVec 5) (b : BitVec 5) (off : BitVec 32)
  /-- LAT (R180): performs an atomic read-modify-write on a local scratchpad or accumulator word. -/
  | lat (h : CHdr) (a : BitVec 5) (b : BitVec 5) (c : BitVec 5) (x : Bool) (w : BitVec 2) (op : BitVec 4)
  /-- TLD (R183): enters a task that copies a memory area into a tile register. -/
  | tld (h : CHdr) (a : BitVec 5) (t : BitVec 4) (ch : BitVec 3) (need : BitVec 4) (hnd : BitVec 4) (he : Bool) (stride : BitVec 16)
  /-- TST (R183): enters a task that copies a tile register into a memory area. -/
  | tst (h : CHdr) (a : BitVec 5) (t : BitVec 4) (ch : BitVec 3) (need : BitVec 4) (hnd : BitVec 4) (he : Bool) (stride : BitVec 16)
  /-- ACCRD (R187): enters a task that reads an accumulator rectangle into a tile with conversion. -/
  | accrd (h : CHdr) (t : BitVec 4) (d : BitVec 3) (v : Bool) (r : BitVec 3)
  /-- ACCWR (R188): enters a task that writes a tile into an accumulator rectangle. -/
  | accwr (h : CHdr) (d : BitVec 3) (t : BitVec 4)
  /-- ACCWR_ADD (R188): enters a task that adds a tile into an accumulator rectangle with RNE rounding. -/
  | accwrAdd (h : CHdr) (d : BitVec 3) (t : BitVec 4)
  /-- XLD (R191): loads up to 256 bytes from server memory into the scratchpad through a reply slot. -/
  | xld (h : CHdr) (a : BitVec 5) (b : BitVec 5) (c : BitVec 5) (x : Bool) (ch : BitVec 3) (len : BitVec 9)
  /-- XST (R193): stores up to 256 bytes from the scratchpad to server memory. -/
  | xst (h : CHdr) (a : BitVec 5) (b : BitVec 5) (c : BitVec 5) (x : Bool) (ch : BitVec 3) (len : BitVec 9)
  /-- XAT (R194): performs an atomic at a server or the Weighhouse without returning a result. -/
  | xat (h : CHdr) (a : BitVec 5) (b : BitVec 5) (c : BitVec 5) (x : Bool) (pk : Bool) (w : BitVec 2) (op : BitVec 4)
  /-- XATR (R195): performs an atomic at a server or the Weighhouse and returns the old value. -/
  | xatr (h : CHdr) (a : BitVec 5) (b : BitVec 5) (c : BitVec 5) (x : Bool) (pk : Bool) (w : BitVec 2) (op : BitVec 4)
  /-- CPY (R197): sends an active message to a Porter to copy a run or nest from server memory. -/
  | cpy (h : CHdr) (a : BitVec 5) (b : BitVec 5) (c : BitVec 5) (x : Bool) (aw : Bool) (nest : BitVec 3) (ne : Bool) (ch : BitVec 3)
  /-- CPYD (R199): sends an active message to a Porter to deal a copy block-cyclically over cores' scratchpads. -/
  | cpyd (h : CHdr) (a : BitVec 5) (b : BitVec 5) (c : BitVec 5) (x : Bool) (core : BitVec 11) (mb : BitVec 4) (me : Bool) (dt : BitVec 2) (nest : BitVec 3) (ne : Bool) (ch : BitVec 3)
  /-- NDLD (R201): loads a nest descriptor from a 64-byte record. -/
  | ndld (h : CHdr) (a : BitVec 5) (k : BitVec 3)
  /-- FENCE_ACQ (R202): waits until every earlier server read and atomic of the context has returned. -/
  | fenceAcq (h : CHdr) (k : BitVec 4)
  /-- FENCE_REL (R202): waits until earlier server writes have entered the store buffer or been acknowledged, by scope. -/
  | fenceRel (h : CHdr) (k : BitVec 4)
  /-- FENCE_FULL (R202): waits for both the acquire and the release condition of its scope. -/
  | fenceFull (h : CHdr) (k : BitVec 4)
  /-- FENCE_EXT (R203): waits for accesses relocated under the current extent table, then installs the pending extents. -/
  | fenceExt (h : CHdr)
  /-- MMA (R227): enters a matrix-multiply task that accumulates a product of two tiles into an accumulator rectangle. -/
  | mma (h : CHdr) (k : BitVec 3) (a : BitVec 4) (b : BitVec 4) (r : BitVec 3)
  /-- MMA_X (R228): enters an N4 task that writes unscaled block products and exponents into accumulator words. -/
  | mmaX (h : CHdr) (k : BitVec 3) (a : BitVec 4) (b : BitVec 4) (r : BitVec 3)
  /-- MMAR (R229): sends a capability-checked matrix command to another core of the crew. -/
  | mmar (h : CHdr) (a : BitVec 5) (b : BitVec 5) (c : BitVec 5) (x : Bool) (k : BitVec 3) (ta : BitVec 4) (tb : BitVec 4) (v : Bool) (r : BitVec 3)
  /-- ACCZ (R232): waits for users of the banks, then clears an accumulator rectangle in one cycle. -/
  | accz (h : CHdr) (k : BitVec 3)
  /-- ACCX_SEND (R234): enters a task that sends a rectangle's (S, E) pairs as one reduction message. -/
  | accxSend (h : CHdr) (a : BitVec 5) (k : BitVec 3) (tag : BitVec 32)
  /-- ACCX_OPEN (R235): enters a task that binds a rectangle to a tag as an exponent-aligned reduction state. -/
  | accxOpen (h : CHdr) (a : BitVec 5) (k : BitVec 3) (tag : BitVec 32)
  /-- ACCX_CLOSE (R236): enters a task that rounds each reduction state to FP32 once all expected messages are applied. -/
  | accxClose (h : CHdr) (k : BitVec 3) (r : BitVec 3)
  /-- SEND (R257): sends a buffer as an eager or rendezvous message to a rank. -/
  | send (h : CHdr) (a : BitVec 5) (b : BitVec 5) (c : BitVec 5) (x : Bool) (tag : BitVec 32)
  /-- SENDP (R261): gathers a buffer into the core's packet buffer, sending the packet at its end bit. -/
  | sendp (h : CHdr) (a : BitVec 5) (b : BitVec 5) (c : BitVec 5) (x : Bool) (fin : Bool) (tag : BitVec 31)
  /-- SENDX (R260): sends to the least-loaded live replica chosen from the die's expert dispatch table. -/
  | sendx (h : CHdr) (a : BitVec 5) (b : BitVec 5) (c : BitVec 5) (x : Bool) (tag : BitVec 32)
  /-- RECV (R265): posts a receive to the Postmaster and sets its status record empty. -/
  | recv (h : CHdr) (a : BitVec 5) (b : BitVec 5) (c : BitVec 5) (x : Bool) (tag : BitVec 32)
  /-- PROBE (R267): reports the earliest matching unexpected message in a status record without consuming it. -/
  | probe (h : CHdr) (a : BitVec 5) (b : BitVec 5) (c : BitVec 5) (x : Bool) (tag : BitVec 32)
  /-- CANCEL (R268): removes an unmatched posted receive and reports 0, 1 or 2. -/
  | cancel (h : CHdr) (a : BitVec 5) (b : BitVec 5)
  /-- MCAST (R269): sends an eager copy of a buffer to every other member of a group. -/
  | mcast (h : CHdr) (a : BitVec 5) (b : BitVec 5) (c : BitVec 5) (x : Bool) (mb : BitVec 4) (tag : BitVec 28)
  /-- FREE (R270): removes a multicast copy entry and sends a buffer-free token back along the tree. -/
  | free (h : CHdr) (a : BitVec 5) (b : BitVec 5)
  /-- RING_CW (R271): enters a task rotating one handle slot clockwise round the cluster. -/
  | ringCw (h : CHdr) (a : BitVec 4) (b : BitVec 4)
  /-- RING_CCW (R271): enters a task rotating one handle slot counter-clockwise round the cluster. -/
  | ringCcw (h : CHdr) (a : BitVec 4) (b : BitVec 4)
  /-- XSND (R273): schedules flits to be sent on the exchange crossbar at a phase cycle. -/
  | xsnd (h : CHdr) (a : BitVec 5) (t : BitVec 4) (flits : BitVec 8) (cyc : BitVec 20)
  /-- XRCV (R273): schedules acceptance of crossbar flits arriving from a receive slot at phase cycles. -/
  | xrcv (h : CHdr) (a : BitVec 5) (t : BitVec 4) (flits : BitVec 8) (cyc : BitVec 20)
  /-- EXCH_FLIT (R273): in a phase cycle the crossbar carries a flit and delivers it 16 cycles later, discarding colliding flits. -/
  | exchFlit (peer cycle : Nat) (data : List Byte)
  /-- EXPECT (R277): posts a byte target on a mailbox and trips it at once if reached. -/
  | expect (h : CHdr) (a : BitVec 5) (m : BitVec 4)
  /-- MBADD (R277): adds a byte count to a mailbox as an arrival. -/
  | mbadd (h : CHdr) (a : BitVec 5) (m : BitVec 4)
  /-- HSET (R279): defines a circular-buffer handle and zeroes its counts. -/
  | hset (h : CHdr) (a : BitVec 5) (t : BitVec 4) (cnt : BitVec 8) (size : BitVec 13)
  /-- HWAIT_PROD (R280): waits until a handle has at least the needed free slots. -/
  | hwaitProd (h : CHdr) (hn : BitVec 4) (q : BitVec 4)
  /-- HWAIT_CONS (R280): waits until a handle has at least the needed filled slots. -/
  | hwaitCons (h : CHdr) (hn : BitVec 4) (q : BitVec 4)
  /-- HADV_PROD (R280): advances a handle's producer count after earlier writers of those slots complete. -/
  | hadvProd (h : CHdr) (hn : BitVec 4) (q : BitVec 4)
  /-- HADV_CONS (R280): advances a handle's consumer count after earlier readers of those slots complete. -/
  | hadvCons (h : CHdr) (hn : BitVec 4) (q : BitVec 4)
  /-- FIELD (R281): binds an event field to a descriptor and a parameter block and sets its time. -/
  | field (h : CHdr) (a : BitVec 5) (f : BitVec 3) (k : BitVec 3)
  /-- EVSEND (R282): sends one weighted, timestamped event to an element of a field at a rank. -/
  | evsend (h : CHdr) (a : BitVec 5) (b : BitVec 5) (c : BitVec 5) (x : Bool) (fld : BitVec 3) (col : BitVec 8) (row : BitVec 8)
  /-- EVRUN (R283): raises a field's run target. -/
  | evrun (h : CHdr) (a : BitVec 5) (f : BitVec 3)
  /-- EVCTL_UNBIND (R284): unbinds a field and discards its queued events. -/
  | evctlUnbind (h : CHdr) (f : BitVec 3)
  /-- EVCTL_TIME (R284): reads a field's time. -/
  | evctlTime (h : CHdr) (a : BitVec 5) (f : BitVec 3)
  /-- EVCTL_LATE (R284): reads and clears a field's late count and sticky flag. -/
  | evctlLate (h : CHdr) (a : BitVec 5) (f : BitVec 3)
  /-- EVCTL_QLEN (R284): reads the number of events queued for a field. -/
  | evctlQlen (h : CHdr) (a : BitVec 5) (f : BitVec 3)
  /-- EVCTL_FIRES (R284): reads a field's fire count since binding. -/
  | evctlFires (h : CHdr) (a : BitVec 5) (f : BitVec 3)
  /-- SFT (R237): enters a task applying a special function elementwise to a tile through the cluster SFU. -/
  | sft (h : CHdr) (d : BitVec 4) (a : BitVec 4) (r : BitVec 3) (u : BitVec 4)
  /-- SFS (R239): places one scalar special-function request in the context's SFU FIFO and waits for its result. -/
  | sfs (h : CHdr) (a : BitVec 5) (b : BitVec 5) (r : BitVec 3) (fn : BitVec 4)
  /-- TRAP (R204): raises USER_TRAP after its bundle executes, passing a number and a register value. -/
  | trap (h : CHdr) (a : BitVec 5) (i : BitVec 7)
  /-- SYSRET (R205): lands supervisor results, returns to user mode at TRAP.PC and resumes any suspended loop. -/
  | sysret (h : CHdr)
  /-- CSRR (R206): reads a control register into a scalar register. -/
  | csrr (h : CHdr) (a : BitVec 5) (reg : BitVec 12)
  /-- CSRW (R206): writes a control register that has no behaviour of its own. -/
  | csrw (h : CHdr) (a : BitVec 5) (reg : BitVec 12)
  /-- CSRS (R206): sets bits of RW and SV fields of a control register. -/
  | csrs (h : CHdr) (a : BitVec 5) (reg : BitVec 12)
  /-- CSRC (R206): clears bits of RW and SV fields of a control register. -/
  | csrc (h : CHdr) (a : BitVec 5) (reg : BitVec 12)
  /-- ERRQ (R209): pops the oldest error-queue entry to memory and returns the queue status. -/
  | errq (h : CHdr) (a : BitVec 5) (b : BitVec 5)
  /-- CTXSV (R210): saves a context's full state as a 1 KiB record. -/
  | ctxsv (h : CHdr) (a : BitVec 5) (k : BitVec 4)
  /-- CTXLD (R210): loads a context's full state from a 1 KiB record. -/
  | ctxld (h : CHdr) (a : BitVec 5) (k : BitVec 4)
  /-- ACCSPILL (R211): writes an accumulator rectangle to memory, whoever owns the group. -/
  | accspill (h : CHdr) (a : BitVec 5) (k : BitVec 3)
  /-- ACCFILL (R211): reads an accumulator rectangle from memory, whoever owns the group. -/
  | accfill (h : CHdr) (a : BitVec 5) (k : BitVec 3)
  /-- PEERCLR (R212): clears a package's bit in the residency's dead-peer bitmap. -/
  | peerclr (h : CHdr) (a : BitVec 5)
  /-- BKPT (R204): raises BREAKPOINT precisely before its bundle has any effect. -/
  | bkpt (h : CHdr)
  /-- LIMM (R213): writes a 32-bit immediate to a register, zero- or sign-extended. -/
  | limm (h : CHdr) (a : BitVec 5) (sx : Bool) (imm : BitVec 32)
  /-- LIMM_HI (R213): writes a 32-bit immediate into the high half of a register. -/
  | limmHi (h : CHdr) (a : BitVec 5) (imm : BitVec 32)
  /-- ADD (R136): integer add. -/
  | add (h : AHdr) (d : BitVec 5) (a : BitVec 5) (b : BitVec 5) (x : Bool) (w : BitVec 3)
  /-- SUB (R136): integer subtract. -/
  | sub (h : AHdr) (d : BitVec 5) (a : BitVec 5) (b : BitVec 5) (x : Bool) (w : BitVec 3)
  /-- ADDI (R136): adds a signed 9-bit immediate. -/
  | addi (h : AHdr) (d : BitVec 5) (a : BitVec 5) (i : BitVec 9)
  /-- MUL (R136): low bits of the product. -/
  | mul (h : AHdr) (d : BitVec 5) (a : BitVec 5) (b : BitVec 5) (x : Bool) (w : BitVec 3)
  /-- MULH (R136): high 64 bits of the signed product. -/
  | mulh (h : AHdr) (d : BitVec 5) (a : BitVec 5) (b : BitVec 5) (x : Bool)
  /-- MULHU (R136): high 64 bits of the unsigned product. -/
  | mulhu (h : AHdr) (d : BitVec 5) (a : BitVec 5) (b : BitVec 5) (x : Bool)
  /-- DIV (R137): signed quotient that never traps. -/
  | div (h : AHdr) (d : BitVec 5) (a : BitVec 5) (b : BitVec 5) (x : Bool) (w : BitVec 3)
  /-- DIVU (R137): unsigned quotient that never traps. -/
  | divu (h : AHdr) (d : BitVec 5) (a : BitVec 5) (b : BitVec 5) (x : Bool) (w : BitVec 3)
  /-- REM (R137): signed remainder that never traps. -/
  | rem (h : AHdr) (d : BitVec 5) (a : BitVec 5) (b : BitVec 5) (x : Bool) (w : BitVec 3)
  /-- REMU (R137): unsigned remainder that never traps. -/
  | remu (h : AHdr) (d : BitVec 5) (a : BitVec 5) (b : BitVec 5) (x : Bool) (w : BitVec 3)
  /-- AND (R136): bitwise AND. -/
  | and (h : AHdr) (d : BitVec 5) (a : BitVec 5) (b : BitVec 5) (x : Bool)
  /-- OR (R136): bitwise OR. -/
  | or (h : AHdr) (d : BitVec 5) (a : BitVec 5) (b : BitVec 5) (x : Bool)
  /-- XOR (R136): bitwise XOR. -/
  | xor (h : AHdr) (d : BitVec 5) (a : BitVec 5) (b : BitVec 5) (x : Bool)
  /-- ANDN (R136): AND with the complement of the second source. -/
  | andn (h : AHdr) (d : BitVec 5) (a : BitVec 5) (b : BitVec 5) (x : Bool)
  /-- SHL (R136): shift left by a register amount. -/
  | shl (h : AHdr) (d : BitVec 5) (a : BitVec 5) (b : BitVec 5) (x : Bool) (w : BitVec 3)
  /-- SHR (R136): logical shift right by a register amount. -/
  | shr (h : AHdr) (d : BitVec 5) (a : BitVec 5) (b : BitVec 5) (x : Bool) (w : BitVec 3)
  /-- SAR (R136): arithmetic shift right by a register amount. -/
  | sar (h : AHdr) (d : BitVec 5) (a : BitVec 5) (b : BitVec 5) (x : Bool) (w : BitVec 3)
  /-- ROL (R136): rotate left by a register amount. -/
  | rol (h : AHdr) (d : BitVec 5) (a : BitVec 5) (b : BitVec 5) (x : Bool) (w : BitVec 3)
  /-- SHLI (R136): shift left by an immediate amount. -/
  | shli (h : AHdr) (d : BitVec 5) (a : BitVec 5) (w : Bool) (sh : BitVec 6)
  /-- SHRI (R136): logical shift right by an immediate amount. -/
  | shri (h : AHdr) (d : BitVec 5) (a : BitVec 5) (w : Bool) (sh : BitVec 6)
  /-- SARI (R136): arithmetic shift right by an immediate amount. -/
  | sari (h : AHdr) (d : BitVec 5) (a : BitVec 5) (w : Bool) (sh : BitVec 6)
  /-- CLZ (R136): counts leading zero bits. -/
  | clz (h : AHdr) (d : BitVec 5) (a : BitVec 5) (w : BitVec 3)
  /-- CTZ (R136): counts trailing zero bits. -/
  | ctz (h : AHdr) (d : BitVec 5) (a : BitVec 5) (w : BitVec 3)
  /-- POPC (R136): counts set bits. -/
  | popc (h : AHdr) (d : BitVec 5) (a : BitVec 5) (w : BitVec 3)
  /-- BFX (R138): extracts a bit field, optionally sign-extended. -/
  | bfx (h : AHdr) (d : BitVec 5) (a : BitVec 5) (b : BitVec 5) (x : Bool)
  /-- BFI (R138): inserts a bit field into the destination register. -/
  | bfi (h : AHdr) (d : BitVec 5) (a : BitVec 5) (b : BitVec 5) (x : Bool)
  /-- MIN (R136): signed minimum. -/
  | min (h : AHdr) (d : BitVec 5) (a : BitVec 5) (b : BitVec 5) (x : Bool) (w : BitVec 3)
  /-- MAX (R136): signed maximum. -/
  | max (h : AHdr) (d : BitVec 5) (a : BitVec 5) (b : BitVec 5) (x : Bool) (w : BitVec 3)
  /-- MINU (R136): unsigned minimum. -/
  | minu (h : AHdr) (d : BitVec 5) (a : BitVec 5) (b : BitVec 5) (x : Bool) (w : BitVec 3)
  /-- MAXU (R136): unsigned maximum. -/
  | maxu (h : AHdr) (d : BitVec 5) (a : BitVec 5) (b : BitVec 5) (x : Bool) (w : BitVec 3)
  /-- SEL (R139): selects one of two registers by a predicate. -/
  | sel (h : AHdr) (d : BitVec 5) (a : BitVec 5) (b : BitVec 5) (x : Bool) (p : BitVec 3)
  /-- MOV (R139): copies a register within one side. -/
  | mov (h : AHdr) (d : BitVec 5) (a : BitVec 5)
  /-- CMP (R140): writes an integer comparison of two registers to a predicate. -/
  | cmp (h : AHdr) (p : BitVec 4) (a : BitVec 5) (b : BitVec 5) (x : Bool) (c : BitVec 4)
  /-- CMPI (R140): writes an integer comparison with a 5-bit immediate to a predicate. -/
  | cmpi (h : AHdr) (p : BitVec 4) (a : BitVec 5) (i : BitVec 5) (c : BitVec 4)
  /-- PLOG (R141): combines two predicates by a 4-bit truth table. -/
  | plog (h : AHdr) (p : BitVec 4) (a : BitVec 4) (b : BitVec 4) (t : BitVec 4)
  /-- PMOV_GET (R142): copies the side's 16 predicates into a register. -/
  | pmovGet (h : AHdr) (d : BitVec 5)
  /-- PMOV_PUT (R142): writes predicates 1 to 15 of the side from a register. -/
  | pmovPut (h : AHdr) (a : BitVec 5)
  /-- XMOV (R143): moves a scalar register from the other side. -/
  | xmov (h : AHdr) (d : BitVec 5) (b : BitVec 5)
  /-- XMOV_P (R143): moves a predicate from the other side. -/
  | xmovP (h : AHdr) (d : BitVec 4) (b : BitVec 4)
  /-- ADDP (R144): steps a pointer's offset by a number of bytes. -/
  | addp (h : AHdr) (d : BitVec 5) (a : BitVec 5) (b : BitVec 5) (x : Bool)
  /-- ADDP_E (R144): steps a pointer's offset by a number of elements of its format. -/
  | addpE (h : AHdr) (d : BitVec 5) (a : BitVec 5) (b : BitVec 5) (x : Bool)
  /-- PFMT (R145): sets a pointer's FMT and BLG bits from an immediate. -/
  | pfmt (h : AHdr) (d : BitVec 5) (a : BitVec 5) (i : BitVec 8)
  /-- PFLD (R145): extracts the FMT, BLG, WIN or OFF field of a pointer. -/
  | pfld (h : AHdr) (d : BitVec 5) (a : BitVec 5) (f : BitVec 2)
  /-- GDIST_CORE (R147): computes the owning logical core of a coordinate under a distribution table. -/
  | gdistCore (h : AHdr) (d : BitVec 5) (a : BitVec 5) (b : BitVec 5) (x : Bool) (t : BitVec 2)
  /-- GDIST_OFF (R147): computes the local pointer of a coordinate under a distribution table. -/
  | gdistOff (h : AHdr) (d : BitVec 5) (a : BitVec 5) (b : BitVec 5) (x : Bool) (t : BitVec 2)
  /-- FADD (R149): FP32 add with one rounding. -/
  | fadd (h : AHdr) (d : BitVec 5) (a : BitVec 5) (b : BitVec 5) (x : Bool) (r : BitVec 3)
  /-- FSUB (R149): FP32 subtract with one rounding. -/
  | fsub (h : AHdr) (d : BitVec 5) (a : BitVec 5) (b : BitVec 5) (x : Bool) (r : BitVec 3)
  /-- FMUL (R149): FP32 multiply with one rounding. -/
  | fmul (h : AHdr) (d : BitVec 5) (a : BitVec 5) (b : BitVec 5) (x : Bool) (r : BitVec 3)
  /-- FFMA (R149): FP32 fused multiply-add into the destination. -/
  | ffma (h : AHdr) (d : BitVec 5) (a : BitVec 5) (b : BitVec 5) (x : Bool) (r : BitVec 3)
  /-- FMIN (R149): FP32 minimum. -/
  | fmin (h : AHdr) (d : BitVec 5) (a : BitVec 5) (b : BitVec 5) (x : Bool)
  /-- FMAX (R149): FP32 maximum. -/
  | fmax (h : AHdr) (d : BitVec 5) (a : BitVec 5) (b : BitVec 5) (x : Bool)
  /-- FCMP (R150): writes an FP32 comparison to a predicate. -/
  | fcmp (h : AHdr) (p : BitVec 4) (a : BitVec 5) (b : BitVec 5) (x : Bool) (c : BitVec 4)
  /-- FCVT (R151): converts between FP32, integers and narrow float formats by a conversion code. -/
  | fcvt (h : AHdr) (d : BitVec 5) (a : BitVec 5) (k : BitVec 5) (r : BitVec 3)
  /-- FCLASS (R152): classifies an FP32 value into one of nine classes. -/
  | fclass (h : AHdr) (d : BitVec 5) (a : BitVec 5)
  /-- TADD (R242): elementwise tile add. -/
  | tadd (h : AHdr) (d : BitVec 4) (a : BitVec 4) (b : BitVec 4) (m : BitVec 3) (v : Bool) (r : BitVec 3)
  /-- TSUB (R242): elementwise tile subtract. -/
  | tsub (h : AHdr) (d : BitVec 4) (a : BitVec 4) (b : BitVec 4) (m : BitVec 3) (v : Bool) (r : BitVec 3)
  /-- TMUL (R242): elementwise tile multiply. -/
  | tmul (h : AHdr) (d : BitVec 4) (a : BitVec 4) (b : BitVec 4) (m : BitVec 3) (v : Bool) (r : BitVec 3)
  /-- TFMA (R242): elementwise tile multiply-add into the destination. -/
  | tfma (h : AHdr) (d : BitVec 4) (a : BitVec 4) (b : BitVec 4) (m : BitVec 3) (v : Bool) (r : BitVec 3)
  /-- TMAX (R242): elementwise tile maximum. -/
  | tmax (h : AHdr) (d : BitVec 4) (a : BitVec 4) (b : BitVec 4) (m : BitVec 3)
  /-- TMIN (R242): elementwise tile minimum. -/
  | tmin (h : AHdr) (d : BitVec 4) (a : BitVec 4) (b : BitVec 4) (m : BitVec 3)
  /-- TABS (R242): elementwise absolute value. -/
  | tabs (h : AHdr) (d : BitVec 4) (a : BitVec 4) (m : BitVec 3)
  /-- TNEG (R242): elementwise negation. -/
  | tneg (h : AHdr) (d : BitVec 4) (a : BitVec 4) (m : BitVec 3)
  /-- TCVT (R243): converts a tile to a target format. -/
  | tcvt (h : AHdr) (d : BitVec 4) (a : BitVec 4) (k : BitVec 4) (m : BitVec 3) (r : BitVec 3)
  /-- TQNT (R244): quantises a tile to N4 blocks with chosen scale bytes. -/
  | tqnt (h : AHdr) (d : BitVec 4) (a : BitVec 4) (t : BitVec 2) (m : BitVec 3) (r : BitVec 3)
  /-- TDQ (R243): converts an N4 tile to floating point. -/
  | tdq (h : AHdr) (d : BitVec 4) (a : BitVec 4) (k : BitVec 4) (m : BitVec 3) (r : BitVec 3)
  /-- TSCL (R245): scales rows or columns by per-row or per-column factors. -/
  | tscl (h : AHdr) (d : BitVec 4) (a : BitVec 4) (b : BitVec 4) (m : BitVec 3) (v : Bool) (r : BitVec 3)
  /-- TAND (R242): elementwise bitwise AND. -/
  | tand (h : AHdr) (d : BitVec 4) (a : BitVec 4) (b : BitVec 4) (m : BitVec 3)
  /-- TOR (R242): elementwise bitwise OR. -/
  | tor (h : AHdr) (d : BitVec 4) (a : BitVec 4) (b : BitVec 4) (m : BitVec 3)
  /-- TXOR (R242): elementwise bitwise XOR. -/
  | txor (h : AHdr) (d : BitVec 4) (a : BitVec 4) (b : BitVec 4) (m : BitVec 3)
  /-- TSHL (R242): elementwise shift left by counts from a tile. -/
  | tshl (h : AHdr) (d : BitVec 4) (a : BitVec 4) (b : BitVec 4) (m : BitVec 3)
  /-- TSHR (R242): elementwise logical or arithmetic shift right by counts from a tile. -/
  | tshr (h : AHdr) (d : BitVec 4) (a : BitVec 4) (b : BitVec 4) (m : BitVec 3) (k : Bool)
  /-- TCMP (R246): writes an elementwise comparison into a mask tile. -/
  | tcmp (h : AHdr) (k : BitVec 3) (a : BitVec 4) (b : BitVec 4) (m : BitVec 3) (c : BitVec 4)
  /-- TSEL (R246): selects elements of two tiles by a mask. -/
  | tsel (h : AHdr) (d : BitVec 4) (a : BitVec 4) (b : BitVec 4) (m : BitVec 3)
  /-- TCAS (R247): performs one compare-and-swap sorting stage in place with a companion tile. -/
  | tcas (h : AHdr) (d : BitVec 4) (a : BitVec 4) (b : BitVec 4) (m : BitVec 3) (o : Bool) (c : Bool)
  /-- TMAXI (R248): chooses the maximum value and its index per row or column. -/
  | tmaxi (h : AHdr) (d : BitVec 4) (a : BitVec 4) (b : BitVec 4) (m : BitVec 3) (c : Bool)
  /-- TMINI (R248): chooses the minimum value and its index per row or column. -/
  | tmini (h : AHdr) (d : BitVec 4) (a : BitVec 4) (b : BitVec 4) (m : BitVec 3) (c : Bool)
  /-- TRED_SUM (R249): sums each row or column by the fixed pairwise tree. -/
  | tredSum (h : AHdr) (d : BitVec 4) (a : BitVec 4) (c : Bool) (m : BitVec 3) (r : BitVec 3)
  /-- TRED_MAX (R249): reduces each row or column to its maximum. -/
  | tredMax (h : AHdr) (d : BitVec 4) (a : BitVec 4) (c : Bool) (m : BitVec 3) (r : BitVec 3)
  /-- TRED_MIN (R249): reduces each row or column to its minimum. -/
  | tredMin (h : AHdr) (d : BitVec 4) (a : BitVec 4) (c : Bool) (m : BitVec 3) (r : BitVec 3)
  /-- TBC (R250): broadcasts row 0 or column 0 of a tile. -/
  | tbc (h : AHdr) (d : BitVec 4) (a : BitVec 4) (m : BitVec 3) (c : Bool)
  /-- TTR (R250): transposes a tile. -/
  | ttr (h : AHdr) (d : BitVec 4) (a : BitVec 4) (m : BitVec 3)
  /-- TSLC (R250): copies a slice of a tile at offsets read from another tile. -/
  | tslc (h : AHdr) (d : BitVec 4) (a : BitVec 4) (b : BitVec 4) (m : BitVec 3)
  /-- TIDX (R250): writes column or row indices into a tile. -/
  | tidx (h : AHdr) (d : BitVec 4) (m : BitVec 3) (c : Bool)
  /-- TMOV (R242): copies a tile bit for bit, with N4 scales and tags. -/
  | tmov (h : AHdr) (d : BitVec 4) (a : BitVec 4) (m : BitVec 3)
  /-- TFILL (R242): fills a tile with zeros. -/
  | tfill (h : AHdr) (d : BitVec 4) (m : BitVec 3)
  /-- MLOG (R251): combines two mask tiles by a truth table. -/
  | mlog (h : AHdr) (j : BitVec 3) (k : BitVec 3) (l : BitVec 3) (m : BitVec 3) (t : BitVec 4)
  /-- MCNT (R251): counts true mask bits per row into a tile. -/
  | mcnt (h : AHdr) (d : BitVec 4) (k : BitVec 3) (m : BitVec 3)
  /-- SPLIM_WRITE (R20): A write to SPLIM is checked and refused if sizes are illegal or held pigeonholes would move. -/
  | splimWrite (h : CHdr) (op : BitVec 2) (a : BitVec 5)
  /-- SPBASE_WRITE (R322): A write to SPBASE is refused while an eager message is held in the pigeonholes. -/
  | spbaseWrite (h : CHdr) (op : BitVec 2) (a : BitVec 5)
  /-- TSHAPE_WRITE (R33): A write to a tile shape is checked and refused if the shape is illegal. -/
  | tshapeWrite (h : CHdr) (op : BitVec 2) (a : BitVec 5) (k : BitVec 4)
  /-- AD_WRITE (R186): A write to an accumulator descriptor is refused if the rectangle leaves accumulator memory. -/
  | adWrite (h : CHdr) (op : BitVec 2) (a : BitVec 5) (k : BitVec 3)
  /-- ACCOWN_WRITE (R37): A write to ACCOWN grants or clears ownership, refusing a second owner and clearing on tenant change. -/
  | accownWrite (h : CHdr) (op : BitVec 2) (a : BitVec 5)
  /-- TILEOWN_WRITE (R37): A write to TILEOWN grants or clears tile ownership under the same rules. -/
  | tileownWrite (h : CHdr) (op : BitVec 2) (a : BitVec 5)
  /-- TRESTART_WRITE (R222): A write to TRESTART moves a stopped task's restart position or discards the task. -/
  | trestartWrite (h : CHdr) (op : BitVec 2) (a : BitVec 5)
  /-- EXTENT_WRITE (R190): A write to an extent register is held pending until the next FENCE.ext. -/
  | extentWrite (h : CHdr) (op : BitVec 2) (a : BitVec 5) (t : BitVec 2) (k : BitVec 4)
  /-- ERRQS_WRITE (R208): writing 1 to ERRQS.OVF clears the overflow bit. -/
  | errqsWrite (h : CHdr) (op : BitVec 2) (a : BitVec 5)
  /-- SRLFSR_WRITE (R67): A write to SRLFSR sets the LFSR state, storing 1 in place of 0. -/
  | srlfsrWrite (h : CHdr) (op : BitVec 2) (a : BitVec 5)
  /-- VSHARE_WRITE (R206): A write to VSHARE sets the vector share weight, refusing 0. -/
  | vshareWrite (h : CHdr) (op : BitVec 2) (a : BitVec 5)
  /-- CAPKEY_WRITE (R206): A write to CAPKEY sets half of the capability key, which can never be read. -/
  | capkeyWrite (h : CHdr) (op : BitVec 2) (a : BitVec 5) (hi : Bool)
  /-- RELEASE_ACC (R389): writing bit 0 of a residency view's RELEASE clears its ACCOWN.OWN and LIVE bits. -/
  | releaseAcc (k : ResNo)
  /-- RELEASE_TILE (R389): writing bit 1 of a residency view's RELEASE clears its TILEOWN.OWN and liveness bits. -/
  | releaseTile (k : ResNo)
  /-- DPTIMEOUT_WRITE (R389): A write to DPTIMEOUT sets the source timeout, discarding 0. -/
  | dptimeoutWrite (v : Word)
  /-- PENDING_RESULT_WRITE (R388): A write to a pending-result tag or value on the control page changes or discards what later lands. -/
  | pendingResultWrite (k : CtxNo) (value : Bool) (i : BitVec 5) (v : Word)
  /-- TASK_STEP_END (R220): A tile task's step ends and its held results are written together. -/
  | taskStepEnd (id : Nat)
  /-- XLD_RESPONSE (R191): A server response arrives on VC1 into a reply slot. -/
  | xldResponse (id part : Nat) (data : List Byte) (fail : Option ServerFail)
  /-- XATR_RESPONSE (R195): an atomic result returns, writing the old value or raising the failure at the next bundle. -/
  | xatrResponse (id old : Nat) (fail : Option ServerFail)
  /-- SERVER_ACK (R193): A server acknowledges a write or atomic, freeing the store buffer entry and completing the ID or posting an error. -/
  | serverAck (id part : Nat) (fail : Option ServerFail)
  /-- SERVER_REQUEST (R431): A memory server performs a request for a granule in arrival order. -/
  | serverRequest (q : ServerReq)
  /-- WEIGHHOUSE_ATOMIC (R435): the Weighhouse takes a package-scope atomic in arrival order and sends a lock-read. -/
  | weighhouseAtomic (q : ServerReq)
  /-- PORTER_ACTIVE_MESSAGE (R433): A Porter takes a CPY or CPYD active message and begins the copy. -/
  | porterActiveMessage (p : PorterCopy)
  /-- PORTER_LANDING (R434): bytes of a Porter copy land in a core's scratchpad or accumulators, with mailbox counts for CPYD. -/
  | porterLanding (d : Landing)
  /-- PORTER_COMPLETION_REPORT (R434): the Porter's completion report reaches the issuing core and the channel completes. -/
  | porterCompletionReport (id : Nat) (fail : Option ServerFail)
  /-- PEER_DEAD_RESPONSE (R392): A synthesised PEER_DEAD response completes a request towards a failed part. -/
  | peerDeadResponse (id : Nat)
  /-- EAGER_ARRIVAL (R321): an eager envelope is accepted and matched, held in the pigeonholes, demoted or refused. -/
  | eagerArrival (m : Message)
  /-- RENDEZVOUS_ARRIVAL (R326): A rendezvous or retry envelope is accepted and matched with a clear-to-send, held or refused. -/
  | rendezvousArrival (m : Message)
  /-- LANDING_COMPLETE (R265): the last delivered byte of a receive lands; the record is written full and the mailbox credited. -/
  | landingComplete (r : ResNo) (no : Nat) (data : List Byte) (scaleSeq : BitVec 16)
  /-- ACCEPTANCE_NOTICE (R333): A sender learns its envelope was accepted. -/
  | acceptanceNotice (id : Nat)
  /-- DEMOTION_NOTICE (R333): A sender learns its eager message was demoted and awaits a clear-to-send. -/
  | demotionNotice (id : Nat)
  /-- REFUSAL_NOTICE (R324): A sender learns of a refusal and starts its retry count. -/
  | refusalNotice (id : Nat)
  /-- CLEAR_TO_SEND (R326): A clear-to-send reaches the sender, which moves the permitted bytes once. -/
  | clearToSend (id : Nat) (x : Clearance)
  /-- SEND_ACKNOWLEDGED (R257): the destination accepts a send's last byte and the send is acknowledged. -/
  | sendAcknowledged (id : Nat)
  /-- DEST_ENDED (R330): A sender whose pooled envelope was discarded at a residency end receives DEST_ENDED. -/
  | destEnded (id : Nat)
  /-- MARKER_ARRIVAL (R348): A round marker is accepted on an input, which then holds further items until the round edge. -/
  | markerArrival (r : ResNo) (peer : Rank) (n : BitVec 32) (closing : Bool)
  /-- EVENT_ARRIVAL (R356): an event record is accepted and queued, or refused with EVENT_REFUSED. -/
  | eventArrival (e : EventRec) (d : Addressee)
  /-- MMAR_COMMAND_ARRIVAL (R231): A matrix command is checked at the target and entered as a task or refused. -/
  | mmarCommandArrival (c : MatrixCommand)
  /-- ACCX_MESSAGE_ARRIVAL (R235): A reduction message is applied whole to its open reduction, or held unexpected. -/
  | accxMessageArrival (m : Message)
  /-- FREE_TOKEN_COMBINE (R341): A router combines buffer-free tokens of one multicast and forwards the summed weight. -/
  | freeTokenCombine (router : Nat) (b : Branch) (t : FreeToken)
  /-- FREE_TOKEN_ARRIVAL (R341): A buffer-free token reaches the sender, which adds its weight and makes finished multicasts' mailbox increments in order. -/
  | freeTokenArrival (t : FreeToken)
  /-- SENDER_ERROR_REPORT (R282): A refusal from a remote core, such as EVENT_REFUSED, CAPABILITY_REFUSED, a command first-use refusal or an ACCX delivery error, reaches the sender and is appended to its error queue. -/
  | senderErrorReport (r : ResNo) (cause : BitVec 7) (ctx : CtxNo) (pair : Pair) (ptr : Word) (peer : Rank) (info : Word)
  /-- WAIT_LIMIT_LAPSE (R164): the time limit of a limited WAIT expires and the WAIT completes writing 0. -/
  | waitLimitLapse
  /-- BELL_RELEASE (R336): A fixed latency after the last arrival, the bell releases every participant and starts a new episode. -/
  | bellRelease
  /-- RING_TRANSFER (R271): once all four RING tasks are dispatched, they copy together and advance their handles, or fail with RING_MISMATCH. -/
  | ringTransfer
  /-- GROUP_CLEAR_DONE (R36): the clear of a tile or accumulator group for a new tenant ends and the stalled touch proceeds. -/
  | groupClearDone
  /-- FOREMAN_DISPATCH (R410): an engine dispatches its oldest task whose inputs and handle counts are ready. -/
  | foremanDispatch
  /-- LEAVE_GRANT (R416): four cycles after a request or a freed unit, the controller grants leave to the queue head within the limits. -/
  | leaveGrant
  /-- SFU_SERVE (R414): the cluster SFU takes the head request of the next non-empty FIFO in rotation. -/
  | sfuServe
  /-- SFU_REQUEST_DONE (R238): the SFU finishes a request and returns its results. -/
  | sfuRequestDone
  /-- VECTOR_BIND (R413): A free lane group is bound to a core's vector queue head by weighted round-robin. -/
  | vectorBind
  /-- SLICE_EXPIRY (R403): the slice timer reaches the slice length and the slice ends, possibly extended to a round edge. -/
  | sliceExpiry
  /-- SLICE_IDLE (R403): A residency has had no ready context for 256 cycles and its slice ends. -/
  | sliceIdle
  /-- ROUND_SLICE_LIMIT (R404): A round-sliced extension reaches seven further slice lengths and the switch happens at once. -/
  | roundSliceLimit
  /-- RESIDENCY_SWITCH (R384): the core stops issue and tasks and writes the outgoing residency's save area. -/
  | residencySwitch
  /-- RESIDENCY_SWITCH_DONE (R384): the incoming residency's save area is loaded and its tasks reloaded, and it begins to issue. -/
  | residencySwitchDone
  /-- SLOT_COPY_DONE (R481): the reply slot's copy to the destination ends, releasing the slot and range entry and completing the ID. -/
  | slotCopyDone
  /-- SERVER_LOCK_READ (R435): A server locks a granule and returns its data to the Weighhouse. -/
  | serverLockRead
  /-- SERVER_WRITE_UNLOCK (R435): A server writes the Weighhouse's result and unlocks the granule. -/
  | serverWriteUnlock
  /-- SCRUB (R431): each server scrubs its whole capacity once every 24 hours. -/
  | scrub
  /-- WEIGHHOUSE_LOCK_DATA (R435): lock-read data return to the Weighhouse, which computes the result and sends a write-unlock. -/
  | weighhouseLockData
  /-- SOURCE_TIMEOUT (R393): A remote request's source timer expires, setting the dead-peer bit and failing every outstanding request to the package. -/
  | sourceTimeout
  /-- CORE_MACHINE_CHECK (R378): an uncorrectable error in core state stops every residency of the core. -/
  | coreMachineCheck
  /-- PIGEONHOLE_COPY_DONE (R321): A held message's copy from the pigeonholes ends and its units are freed. -/
  | pigeonholeCopyDone
  /-- RETRY_TIMER (R324): A backoff wait elapses and the sender sends the next retry. -/
  | retryTimer
  /-- LOCAL_COMPLETION (R257): A send's last byte leaves its buffer; the range entry is removed and the mailbox credited. -/
  | localCompletion
  /-- EVENT_DELIVER (R359): the event engine applies one queued event to a field element, firing if the threshold is reached. -/
  | eventDeliver
  /-- FIELD_ADVANCE (R360): the event engine advances a field by one tick, leaking every element. -/
  | fieldAdvance
  /-- DISPATCHER_LAUNCH (R396): the dispatcher launches the first eligible head that has a placement. -/
  | dispatcherLaunch
  /-- HEAD_RESERVING (R397): A head unplaced for 2 ms becomes reserving and requests pre-emption of lower crews. -/
  | headReserving
  /-- CREW_DRAINED (R406): every frozen member has drained, and the crew's state is written to the eviction area. -/
  | crewDrained
  /-- CREW_START (R400): when every start store is acknowledged, start messages are sent to the crew's members. -/
  | crewStart
  /-- START_MESSAGE (R306): A start message reaches a core and context 0 begins at the entry pair. -/
  | startMessage
  /-- WORK_ORDER_COMPLETE (R469): A work order's last crew completes; the completion record, counter and interrupt follow. -/
  | workOrderComplete
  /-- WORK_ORDER_TIMEOUT (R470): A work order's time limit lapses and it ends TIMED_OUT. -/
  | workOrderTimeout
  /-- RECORD_FETCH (R466): the dispatcher fetches covered records into the queue store, rejecting those that fail. -/
  | recordFetch
  /-- QTAIL_WRITE (R466): A host tail write is accepted, or discarded with OVF set. -/
  | qtailWrite
  /-- QCTL_WRITE (R465): A host write to QCTL configures the queue, refusing illegal or locked changes, and clearing EN cancels fetched records. -/
  | qctlWrite
  /-- QSTAT_WRITE (R465): A host write of 1s clears QSTAT's CFGERR and OVF bits. -/
  | qstatWrite
  /-- COUNTER_WRITE (R468): A host write sets a completion counter and re-evaluates waits. -/
  | counterWrite
  /-- RECOVERY_COMMIT (R473): the commit word triggers a signature check of the new image, then a cold start or continued recovery. -/
  | recoveryCommit
  /-- PACKAGE_RESET (R471): power-on or an I/O die reset runs the cold or warm start sequence. -/
  | packageReset
  /-- DIE_RESET_EXIT (R448): A die leaves reset and presents attestation flits. -/
  | dieResetExit
  /-- ATTESTATION_START (R444): the Assayer begins a die's SPDM flow when its wave reaches it. -/
  | attestationStart
  /-- VERSION (R445): the VERSION response is checked for SPDM 1.3. -/
  | version
  /-- CAPABILITIES (R445): the CAPABILITIES response is checked for the required capabilities. -/
  | capabilities
  /-- ALGORITHMS (R445): the ALGORITHMS response is checked for the offered selections. -/
  | algorithms
  /-- DIGESTS (R445): the DIGESTS response is checked, and compared with the cache at warm start. -/
  | digests
  /-- CERTIFICATE (R445): A CERTIFICATE portion is collected and the chain verified to the fused root hash. -/
  | certificate
  /-- CHALLENGE_AUTH (R445): the challenge signature is verified over the transcript. -/
  | challengeAuth
  /-- MEASUREMENTS (R445): measurements are verified against the reference manifest and the link position. -/
  | measurements
  /-- KEY_EXCHANGE_RSP (R445): the key exchange response's signature and HMAC are verified. -/
  | keyExchangeRsp
  /-- FINISH_RSP (R445): the FINISH response completes the secure session and the die moves to KEYING. -/
  | finishRsp
  /-- SPDM_TIMEOUT (R445): A response not received within 100 ms quarantines the die. -/
  | spdmTimeout
  /-- KEY_INSTALL (R453): A die installs a new link key generation and returns KEY_ACK. -/
  | keyInstall
  /-- KEY_ACK (R453): the Assayer receives KEY_ACK and sends LINK_OPEN or KEY_SWITCH. -/
  | keyAck
  /-- LINK_OPEN (R446): both ends start sending flits under the flit layer from sequence 0. -/
  | linkOpen
  /-- KEY_SWITCH (R453): the sender installs the new key and builds later flits under it. -/
  | keySwitch
  /-- KEY_RETIRED (R453): KEY_RETIRED reaches the sender side, which destroys the old key. -/
  | keyRetired
  /-- KEY_ACK_TIMEOUT (R453): KEY_ACK missing after 1 ms quarantines the receiving die. -/
  | keyAckTimeout
  /-- KEY_RETIRED_TIMEOUT (R453): KEY_RETIRED missing after 1 ms quarantines the sending die. -/
  | keyRetiredTimeout
  /-- ROLLOVER_TRIGGER (R452): A direction has sent ROLLINT flits, or reports 2^40, and the Assayer starts a rollover. -/
  | rolloverTrigger
  /-- GENERATION_LIMIT (R452): A direction reaching 2^44 flits under one generation closes its link. -/
  | generationLimit
  /-- FLIT_RECEIVE (R428): A flit's tag is checked and the flit delivered in sequence, or discarded and replay requested. -/
  | flitReceive
  /-- REPLAY_REQUEST (R428): A sender replays flits from its replay buffer under their original generations. -/
  | replayRequest
  /-- IDLE_FLIT (R453): A direction idle for 256 cycles sends an idle flit. -/
  | idleFlit
  /-- LINK_DOWN (R450): loss of link training closes the link and quarantines a die. -/
  | linkDown
  /-- LONE_RESET (R448): A die resets while the package does not, and it is quarantined. -/
  | loneReset
  /-- ACTL_RESET (R449): damilaril asks a die's reset controller to reset the die alone. -/
  | actlReset
  /-- ACTL_REATTEST (R449): damilaril starts a fresh attestation flow for a quarantined die. -/
  | actlReattest
  /-- HOST_SPDM_REQUEST (R454): the Assayer answers a host SPDM request over the DOE mailbox. -/
  | hostSpdmRequest
  /-- LOCK_INTERFACE_REQUEST (R456): A tenant interface moves to CONFIG_LOCKED and registers its tenant key. -/
  | lockInterfaceRequest
  /-- GET_DEVICE_INTERFACE_REPORT (R456): returns the tenant's queues, vectors and doorbell range. -/
  | getDeviceInterfaceReport
  /-- START_INTERFACE_REQUEST (R456): A locked tenant interface moves to RUN and may launch work. -/
  | startInterfaceRequest
  /-- STOP_INTERFACE_REQUEST (R456): A tenant interface returns to CONFIG_UNLOCKED, ending its running work orders FAULTED. -/
  | stopInterfaceRequest
  /-- TDISP_ERROR (R456): A change to a locked resource or an IDE failure puts the tenant in ERROR and ends its work. -/
  | tdispError
  /-- EXTENT_GRANT (R457): A signed extent grant is verified by the Assayer before extents and CAPKEY are written. -/
  | extentGrant
  /-- ENCLAVE_MANIFEST (R458): A manifest is verified and the Assayer attests the other member packages. -/
  | enclaveManifest
  /-- REVOCATION_STATEMENT (R460): A valid revocation raises the epoch, destroys the participant's key and cuts it off. -/
  | revocationStatement
  /-- JUNCTION_OVERHEAT (R472): A die above 105 °C has its die leave limit forced to 1. -/
  | junctionOverheat
  /-- JUNCTION_COOLED (R472): A die below 100 °C regains its leave limit. -/
  | junctionCooled
  /-- THERMAL_SHUTDOWN (R472): above 115 °C the package turns itself off. -/
  | thermalShutdown
  /-- XST_SOURCE_READ (R193): the network interface has read the last byte of an XST's local source, and the source's TRAP range entry is removed. -/
  | xstSourceRead
  /-- SERVER_CLEAR_DONE (R451): A rejoining server die or gateway finishes clearing its whole capacity to zero, and its links may then open. -/
  | serverClearDone
  /-- START_TABLE_STEP_END (R471): A step of the start table that takes time, such as link training, memory training, server clear or SRAM scrub, ends and the next step begins, with READY set after step 11. -/
  | startTableStepEnd
  /-- PORT_FAILURE (R439): A scale-up port fails, and its ordered delivery contexts move to the next live port, or to the other gateway when the gateway has no live port left. -/
  | portFailure
  /-- LIMIT_WRITE (R461): damilaril writes the package power limit, the die leave limit or the cluster leave limit, and a value above the fused cap is clamped to the cap. -/
  | limitWrite
  deriving DecidableEq, Repr

end Sys2Proof
end

