-- ==== Sys2Proof/WellFormed.lean ====
section
/-!
DEFINITION. Which instructions are well formed: no reserved value in any field (checks 4 and 6 of R104).
Index limits of R115 are in the widths of the fields, so only the value limits stand here.
-/

namespace Sys2Proof

/-- A rounding mode of R64: codes 5 to 7 are reserved. -/
def rmOk (r : BitVec 3) : Bool := decide (r.toNat ≤ 4)

/-- An integer width of R117: 0 is 64-bit, 1 is 32-bit, the rest reserved. -/
def iwOk (w : BitVec 3) : Bool := decide (w.toNat ≤ 1)

/-- The widths R123 lists for an atomic operation. -/
def xatOk (op : BitVec 4) (w : BitVec 2) : Bool :=
  if op.toNat ≤ 8 then decide (w.toNat ≤ 1)
  else if op.toNat = 9 then decide (w.toNat = 1 ∨ w.toNat = 2)
  else if op.toNat ≤ 12 then decide (w.toNat = 0)
  else false

/-- R123 for LAT: neither 128 bits nor codes 11 and 12. -/
def latOk (op : BitVec 4) (w : BitVec 2) : Bool :=
  xatOk op w && decide (op.toNat ≤ 10) && decide (w.toNat ≤ 1)

/-- R194: the operand group of a compare and swap stays within s31 of its side. -/
def groupOk (op : BitVec 4) (w : BitVec 2) (b : BitVec 5) : Bool :=
  if op.toNat = 9 then (if w.toNat = 2 then decide (b.toNat ≤ 28) else decide (b.toNat ≤ 30)) else true

/-- R194: the result pair of a 128-bit XATR stays within s31 of its side. -/
def resultOk (w : BitVec 2) (a : BitVec 5) : Bool := decide (w.toNat = 2 → a.toNat ≤ 30)

/-- R163: the wait kinds, and the t operand each allows; WAIT.errq with a limit takes any ra, which R163 fixes at 0 and R164 names as the destination of the limit's outcome (DESIGN CHOICE, log entry 35). -/
def waitOk (k : BitVec 7) (t : BitVec 4) : Bool :=
  if k.toNat = 2 then decide (t.toNat < 8) else decide (k.toNat ≤ 5) && decide (t.toNat = 0)

/-- The control registers whose write is a row of its own (R206 with R20, R33, R37, R67, R186, R190, R208, R222). -/
def ownRow (r : BitVec 12) : Bool :=
  let n := r.toNat
  n == 0x008 || n == 0x009 || n == 0x00A || n == 0x050 || n == 0x110 || n == 0x111 || n == 0x112 || n == 0x113 ||
  n == 0x118 || n == 0x119 || (decide (0x010 ≤ n) && decide (n < 0x028)) || (decide (0x180 ≤ n) && decide (n < 0x1B0))

/-- A well-formed instruction: every field holds a value the spec assigns. Events have no words and are always well formed. -/
def Instr.wf : Instr → Bool

  | .nop .. => true
  | .br .. => true
  | .bri .. => true
  | .call .. => true
  | .calli .. => true
  | .ret .. => true
  | .jtab .. => true
  | .loop .. => true
  | .loopx .. => true
  | .waitFull .. => true
  | .waitEmpty .. => true
  | .waitFtime .. => true
  | .waitErrq .. => true
  | .waitCyc .. => true
  | .waitHelpers .. => true
  | .waitLimit _ _ t k _ => waitOk k t
  | .waitch .. => true
  | .waitmb .. => true
  | .start _ _ k => decide (1 ≤ k.toNat ∧ k.toNat ≤ 10)
  | .hend .. => true
  | .couple _ w => decide (1 ≤ w.toNat ∧ w.toNat ≤ 3)
  | .uncouple .. => true
  | .bell .. => true
  | .bellD .. => true
  | .bellX .. => true
  | .exch .. => true
  | .exchend .. => true
  | .round .. => true
  | .yield .. => true
  | .halt .. => true
  | .ld _ _ _ z k _ => (!k || decide (z.toNat < 3))
  | .ldExt _ _ _ z k _ => (!k || decide (z.toNat < 3))
  | .st .. => true
  | .stExt .. => true
  | .ldp _ a _ _ => decide (a.toNat ≠ 31)
  | .ldpExt _ a _ _ => decide (a.toNat ≠ 31)
  | .stp _ a _ _ => decide (a.toNat ≠ 31)
  | .stpExt _ a _ _ => decide (a.toNat ≠ 31)
  | .ldfe .. => true
  | .ldfeExt .. => true
  | .ldff .. => true
  | .ldffExt .. => true
  | .stfe .. => true
  | .stfeExt .. => true
  | .stf .. => true
  | .stfExt .. => true
  | .lat _ _ _ _ _ w op => latOk op w
  | .tld _ _ _ _ need hnd he _ => (he || decide (hnd.toNat = 0 ∧ need.toNat = 0))
  | .tst _ _ _ _ need hnd he _ => (he || decide (hnd.toNat = 0 ∧ need.toNat = 0))
  | .accrd _ _ _ _ r => rmOk r
  | .accwr .. => true
  | .accwrAdd .. => true
  | .xld _ _ _ _ _ _ len => decide (len.toNat ≤ 256)
  | .xst _ _ _ _ _ _ len => decide (len.toNat ≤ 256)
  | .xat _ _ b _ _ _ w op => xatOk op w && groupOk op w b
  | .xatr _ a b _ _ _ w op => xatOk op w && groupOk op w b && resultOk w a
  | .cpy _ _ _ _ _ _ nest ne _ => (ne || decide (nest.toNat = 0))
  | .cpyd _ _ _ _ _ _ _ _ _ nest ne _ => (ne || decide (nest.toNat = 0))
  | .ndld .. => true
  | .fenceAcq _ k => decide (k.toNat ≤ 5)
  | .fenceRel _ k => decide (k.toNat ≤ 5)
  | .fenceFull _ k => decide (k.toNat ≤ 5)
  | .fenceExt .. => true
  | .mma _ _ _ _ r => rmOk r
  | .mmaX _ _ _ _ r => rmOk r
  | .mmar _ _ _ _ _ _ _ _ _ r => rmOk r
  | .accz .. => true
  | .accxSend .. => true
  | .accxOpen .. => true
  | .accxClose _ _ r => rmOk r
  | .send .. => true
  | .sendp .. => true
  | .sendx .. => true
  | .recv .. => true
  | .probe .. => true
  | .cancel .. => true
  | .mcast .. => true
  | .free .. => true
  | .ringCw .. => true
  | .ringCcw .. => true
  | .xsnd .. => true
  | .xrcv .. => true
  | .exchFlit .. => true
  | .expect .. => true
  | .mbadd .. => true
  | .hset .. => true
  | .hwaitProd .. => true
  | .hwaitCons .. => true
  | .hadvProd .. => true
  | .hadvCons .. => true
  | .field .. => true
  | .evsend .. => true
  | .evrun .. => true
  | .evctlUnbind .. => true
  | .evctlTime .. => true
  | .evctlLate .. => true
  | .evctlQlen .. => true
  | .evctlFires .. => true
  | .sft _ _ _ r u => rmOk r && decide (u.toNat ≤ 8)
  | .sfs _ _ _ r fn => rmOk r && decide (fn.toNat ≤ 8)
  | .trap .. => true
  | .sysret .. => true
  | .csrr .. => true
  | .csrw _ _ reg => !ownRow reg
  | .csrs _ _ reg => !ownRow reg
  | .csrc _ _ reg => !ownRow reg
  | .errq .. => true
  | .ctxsv _ _ k => decide (k.toNat ≤ 10)
  | .ctxld _ _ k => decide (k.toNat ≤ 10)
  | .accspill .. => true
  | .accfill .. => true
  | .peerclr .. => true
  | .bkpt .. => true
  | .limm .. => true
  | .limmHi .. => true
  | .add _ _ _ _ _ w => iwOk w
  | .sub _ _ _ _ _ w => iwOk w
  | .addi .. => true
  | .mul _ _ _ _ _ w => iwOk w
  | .mulh .. => true
  | .mulhu .. => true
  | .div _ _ _ _ _ w => iwOk w
  | .divu _ _ _ _ _ w => iwOk w
  | .rem _ _ _ _ _ w => iwOk w
  | .remu _ _ _ _ _ w => iwOk w
  | .and .. => true
  | .or .. => true
  | .xor .. => true
  | .andn .. => true
  | .shl _ _ _ _ _ w => iwOk w
  | .shr _ _ _ _ _ w => iwOk w
  | .sar _ _ _ _ _ w => iwOk w
  | .rol _ _ _ _ _ w => iwOk w
  | .shli _ _ _ w sh => (!w || decide (sh.toNat < 32))
  | .shri _ _ _ w sh => (!w || decide (sh.toNat < 32))
  | .sari _ _ _ w sh => (!w || decide (sh.toNat < 32))
  | .clz _ _ _ w => iwOk w
  | .ctz _ _ _ w => iwOk w
  | .popc _ _ _ w => iwOk w
  | .bfx .. => true
  | .bfi .. => true
  | .min _ _ _ _ _ w => iwOk w
  | .max _ _ _ _ _ w => iwOk w
  | .minu _ _ _ _ _ w => iwOk w
  | .maxu _ _ _ _ _ w => iwOk w
  | .sel .. => true
  | .mov .. => true
  | .cmp _ _ _ _ _ c => decide (c.toNat ≤ 9)
  | .cmpi _ _ _ _ c => decide (c.toNat ≤ 9)
  | .plog .. => true
  | .pmovGet .. => true
  | .pmovPut .. => true
  | .xmov .. => true
  | .xmovP .. => true
  | .addp .. => true
  | .addpE .. => true
  | .pfmt .. => true
  | .pfld .. => true
  | .gdistCore .. => true
  | .gdistOff .. => true
  | .fadd _ _ _ _ _ r => rmOk r
  | .fsub _ _ _ _ _ r => rmOk r
  | .fmul _ _ _ _ _ r => rmOk r
  | .ffma _ _ _ _ _ r => rmOk r
  | .fmin .. => true
  | .fmax .. => true
  | .fcmp _ _ _ _ _ c => decide (c.toNat ≤ 7)
  | .fcvt _ _ _ k r => rmOk r && decide (k.toNat ≤ 16)
  | .fclass .. => true
  | .tadd _ _ _ _ _ _ r => rmOk r
  | .tsub _ _ _ _ _ _ r => rmOk r
  | .tmul _ _ _ _ _ _ r => rmOk r
  | .tfma _ _ _ _ _ _ r => rmOk r
  | .tmax .. => true
  | .tmin .. => true
  | .tabs .. => true
  | .tneg .. => true
  | .tcvt _ _ _ k _ r => rmOk r && decide (k.toNat ≤ 9)
  | .tqnt _ _ _ _ _ r => rmOk r
  | .tdq _ _ _ k _ r => rmOk r && decide (k.toNat ≤ 9)
  | .tscl _ _ _ _ _ _ r => rmOk r
  | .tand .. => true
  | .tor .. => true
  | .txor .. => true
  | .tshl .. => true
  | .tshr .. => true
  | .tcmp _ _ _ _ _ c => decide (c.toNat ≤ 9)
  | .tsel .. => true
  | .tcas .. => true
  | .tmaxi .. => true
  | .tmini .. => true
  | .tredSum _ _ _ _ _ r => rmOk r
  | .tredMax _ _ _ _ _ r => rmOk r
  | .tredMin _ _ _ _ _ r => rmOk r
  | .tbc .. => true
  | .ttr .. => true
  | .tslc .. => true
  | .tidx .. => true
  | .tmov .. => true
  | .tfill .. => true
  | .mlog .. => true
  | .mcnt .. => true
  | .splimWrite _ op _ => decide (op.toNat ≤ 2)
  | .spbaseWrite _ op _ => decide (op.toNat ≤ 2)
  | .tshapeWrite _ op _ _ => decide (op.toNat ≤ 2)
  | .adWrite _ op _ _ => decide (op.toNat ≤ 2)
  | .accownWrite _ op _ => decide (op.toNat ≤ 2)
  | .tileownWrite _ op _ => decide (op.toNat ≤ 2)
  | .trestartWrite _ op _ => decide (op.toNat ≤ 2)
  | .extentWrite _ op _ t _ => decide (op.toNat ≤ 2) && decide (t.toNat ≤ 2)
  | .errqsWrite _ op _ => decide (op.toNat ≤ 2)
  | .srlfsrWrite _ op _ => decide (op.toNat ≤ 2)
  | .vshareWrite _ op _ => decide (op.toNat ≤ 2)
  | .capkeyWrite _ op _ _ => decide (op.toNat ≤ 2)
  | .releaseAcc .. => true
  | .releaseTile .. => true
  | .dptimeoutWrite .. => true
  | .pendingResultWrite .. => true
  | .taskStepEnd .. => true
  | .xldResponse .. => true
  | .xatrResponse .. => true
  | .serverAck .. => true
  | .serverRequest .. => true
  | .weighhouseAtomic .. => true
  | .porterActiveMessage .. => true
  | .porterLanding .. => true
  | .porterCompletionReport .. => true
  | .peerDeadResponse .. => true
  | .eagerArrival .. => true
  | .rendezvousArrival .. => true
  | .landingComplete .. => true
  | .acceptanceNotice .. => true
  | .demotionNotice .. => true
  | .refusalNotice .. => true
  | .clearToSend .. => true
  | .sendAcknowledged .. => true
  | .destEnded .. => true
  | .markerArrival .. => true
  | .eventArrival .. => true
  | .mmarCommandArrival .. => true
  | .accxMessageArrival .. => true
  | .freeTokenCombine .. => true
  | .freeTokenArrival .. => true
  | .senderErrorReport .. => true
  | .waitLimitLapse .. => true
  | .bellRelease .. => true
  | .ringTransfer .. => true
  | .groupClearDone .. => true
  | .foremanDispatch .. => true
  | .leaveGrant .. => true
  | .sfuServe .. => true
  | .sfuRequestDone .. => true
  | .vectorBind .. => true
  | .sliceExpiry .. => true
  | .sliceIdle .. => true
  | .roundSliceLimit .. => true
  | .residencySwitch .. => true
  | .residencySwitchDone .. => true
  | .slotCopyDone .. => true
  | .serverLockRead .. => true
  | .serverWriteUnlock .. => true
  | .scrub .. => true
  | .weighhouseLockData .. => true
  | .sourceTimeout .. => true
  | .coreMachineCheck .. => true
  | .pigeonholeCopyDone .. => true
  | .retryTimer .. => true
  | .localCompletion .. => true
  | .eventDeliver .. => true
  | .fieldAdvance .. => true
  | .dispatcherLaunch .. => true
  | .headReserving .. => true
  | .crewDrained .. => true
  | .crewStart .. => true
  | .startMessage .. => true
  | .workOrderComplete .. => true
  | .workOrderTimeout .. => true
  | .recordFetch .. => true
  | .qtailWrite .. => true
  | .qctlWrite .. => true
  | .qstatWrite .. => true
  | .counterWrite .. => true
  | .recoveryCommit .. => true
  | .packageReset .. => true
  | .dieResetExit .. => true
  | .attestationStart .. => true
  | .version .. => true
  | .capabilities .. => true
  | .algorithms .. => true
  | .digests .. => true
  | .certificate .. => true
  | .challengeAuth .. => true
  | .measurements .. => true
  | .keyExchangeRsp .. => true
  | .finishRsp .. => true
  | .spdmTimeout .. => true
  | .keyInstall .. => true
  | .keyAck .. => true
  | .linkOpen .. => true
  | .keySwitch .. => true
  | .keyRetired .. => true
  | .keyAckTimeout .. => true
  | .keyRetiredTimeout .. => true
  | .rolloverTrigger .. => true
  | .generationLimit .. => true
  | .flitReceive .. => true
  | .replayRequest .. => true
  | .idleFlit .. => true
  | .linkDown .. => true
  | .loneReset .. => true
  | .actlReset .. => true
  | .actlReattest .. => true
  | .hostSpdmRequest .. => true
  | .lockInterfaceRequest .. => true
  | .getDeviceInterfaceReport .. => true
  | .startInterfaceRequest .. => true
  | .stopInterfaceRequest .. => true
  | .tdispError .. => true
  | .extentGrant .. => true
  | .enclaveManifest .. => true
  | .revocationStatement .. => true
  | .junctionOverheat .. => true
  | .junctionCooled .. => true
  | .thermalShutdown .. => true
  | .xstSourceRead .. => true
  | .serverClearDone .. => true
  | .startTableStepEnd .. => true
  | .portFailure .. => true
  | .limitWrite .. => true

end Sys2Proof
end

