-- ==== Sys2Proof/Decode.lean ====
section
/-!
DEFINITION. From bits to instructions and back (R83 to R93, R104, R127 to R133).
The tables below give each row's opcode, its fixed body bits and where its fields stand; a word that no row takes is rejected by name.
-/

namespace Sys2Proof

/-- Why a word is rejected (checks 2 to 6 of R104). -/
inductive DecodeError where
  /-- ILLEGAL_OPCODE: an unassigned opcode, a reserved value, or a set bit that must be zero. -/
  | illegalOpcode
  /-- ILLEGAL_EXTENSION: EXT given to an instruction that forbids it, or missing from one that requires it. -/
  | illegalExtension
  deriving DecidableEq, Repr

/-- The words of one instruction: an A-word, a C-word alone, or a C-word with its extension (R83). -/
inductive Code where
  /-- A word 2 that is an A-word. -/
  | a (w : BitVec 32)
  /-- A C-word with L clear. -/
  | c (w : BitVec 32)
  /-- A C-word with L set, and its EXT. -/
  | l (w x : BitVec 32)
  deriving DecidableEq, Repr

/-- A row of the C-word tables without EXT: class and opcode, fixed body bits, and the instruction. -/
structure WordRow where
  /-- CL and OP, bits [29:22]. -/
  op : BitVec 8
  /-- The fixed body bits hold. -/
  fits : BitVec 32 → Bool
  /-- The instruction the word encodes. -/
  build : BitVec 32 → Instr

/-- A row of the A-word tables: VT and OP, fixed body bits, and the instruction. -/
structure ARow where
  /-- VT and OP, bits [30:24]. -/
  op : BitVec 7
  /-- The fixed body bits hold. -/
  fits : BitVec 32 → Bool
  /-- The instruction the word encodes. -/
  build : BitVec 32 → Instr

/-- A row of the C-word tables with EXT. -/
structure PairRow where
  /-- CL and OP, bits [29:22]. -/
  op : BitVec 8
  /-- The fixed bits of the C-word and of EXT hold. -/
  fits : BitVec 32 → BitVec 32 → Bool
  /-- The instruction the two words encode. -/
  build : BitVec 32 → BitVec 32 → Instr

/-- The header of a C-word (R87). -/
def cHdr (w : BitVec 32) : CHdr := ⟨w.getLsbD 30, w.getLsbD 21, w.extractLsb' 17 4, w.getLsbD 16⟩

/-- The header of an A-word (R89). -/
def aHdr (w : BitVec 32) : AHdr := ⟨w.getLsbD 31, w.getLsbD 23, w.extractLsb' 19 4⟩

/-- A C-word from its L bit, header, class and opcode, and body (R87). -/
def cWord (l : BitVec 1) (h : CHdr) (op : BitVec 8) (body : BitVec 16) : BitVec 32 :=
  l ++ BitVec.ofBool h.e ++ op ++ BitVec.ofBool h.n ++ h.g ++ BitVec.ofBool h.s ++ body

/-- An A-word from its header, VT and opcode, and body (R89). -/
def aWord (h : AHdr) (op : BitVec 7) (body : BitVec 19) : BitVec 32 :=
  BitVec.ofBool h.s ++ op ++ BitVec.ofBool h.n ++ h.g ++ body


/-- The C-word rows without an extension (R127 to R130), part 1. -/
def cRows0 : List WordRow := [
  ⟨0x00#8, fun w => w.extractLsb' 0 16 == 0#16, fun w => .nop (cHdr w)⟩,
  ⟨0x01#8, fun _ => true, fun w => .br (cHdr w) (w.extractLsb' 0 16)⟩,
  ⟨0x02#8, fun w => w.extractLsb' 6 5 == 0#5, fun w => .bri (cHdr w) (w.extractLsb' 11 5) (w.extractLsb' 0 6)⟩,
  ⟨0x03#8, fun _ => true, fun w => .call (cHdr w) (w.extractLsb' 0 16)⟩,
  ⟨0x04#8, fun w => w.extractLsb' 6 5 == 0#5, fun w => .calli (cHdr w) (w.extractLsb' 11 5) (w.extractLsb' 0 6)⟩,
  ⟨0x05#8, fun w => w.extractLsb' 0 11 == 0#11, fun w => .ret (cHdr w) (w.extractLsb' 11 5)⟩,
  ⟨0x08#8, fun _ => true, fun w => .loopx (cHdr w) (w.extractLsb' 0 16)⟩,
  ⟨0x09#8, fun w => w.extractLsb' 0 11 == 0#11, fun w => .waitFull (cHdr w) (w.extractLsb' 11 5)⟩,
  ⟨0x09#8, fun w => w.extractLsb' 0 11 == 1#11, fun w => .waitEmpty (cHdr w) (w.extractLsb' 11 5)⟩,
  ⟨0x09#8, fun w => w.extractLsb' 10 1 == 0#1 && w.extractLsb' 0 7 == 2#7, fun w => .waitFtime (cHdr w) (w.extractLsb' 11 5) (w.extractLsb' 7 3)⟩,
  ⟨0x09#8, fun w => w.extractLsb' 0 16 == 3#16, fun w => .waitErrq (cHdr w)⟩,
  ⟨0x09#8, fun w => w.extractLsb' 0 11 == 4#11, fun w => .waitCyc (cHdr w) (w.extractLsb' 11 5)⟩,
  ⟨0x09#8, fun w => w.extractLsb' 0 11 == 5#11, fun w => .waitHelpers (cHdr w) (w.extractLsb' 11 5)⟩,
  ⟨0x0A#8, fun w => w.extractLsb' 10 1 == 0#1 && w.extractLsb' 0 7 == 0#7, fun w => .waitch (cHdr w) (w.extractLsb' 11 5) (w.extractLsb' 7 3)⟩,
  ⟨0x0B#8, fun w => w.extractLsb' 0 12 == 0#12, fun w => .waitmb (cHdr w) (w.extractLsb' 12 4)⟩,
  ⟨0x0C#8, fun w => w.extractLsb' 0 7 == 0#7, fun w => .start (cHdr w) (w.extractLsb' 11 5) (w.extractLsb' 7 4)⟩]

/-- The C-word rows without an extension (R127 to R130), part 2. -/
def cRows1 : List WordRow := [
  ⟨0x0D#8, fun w => w.extractLsb' 0 16 == 0#16, fun w => .hend (cHdr w)⟩,
  ⟨0x0E#8, fun w => w.extractLsb' 4 12 == 0#12, fun w => .couple (cHdr w) (w.extractLsb' 0 4)⟩,
  ⟨0x0F#8, fun w => w.extractLsb' 0 16 == 0#16, fun w => .uncouple (cHdr w)⟩,
  ⟨0x10#8, fun w => w.extractLsb' 0 12 == 0#12, fun w => .bell (cHdr w) (w.extractLsb' 12 4)⟩,
  ⟨0x10#8, fun w => w.extractLsb' 0 12 == 2#12, fun w => .bellD (cHdr w) (w.extractLsb' 12 4)⟩,
  ⟨0x10#8, fun w => w.extractLsb' 2 10 == 0#10 && w.extractLsb' 0 1 == 1#1, fun w => .bellX (cHdr w) (w.extractLsb' 12 4) (w.getLsbD 1)⟩,
  ⟨0x11#8, fun w => w.extractLsb' 0 16 == 0#16, fun w => .exch (cHdr w)⟩,
  ⟨0x12#8, fun w => w.extractLsb' 0 16 == 0#16, fun w => .exchend (cHdr w)⟩,
  ⟨0x13#8, fun w => w.extractLsb' 0 16 == 0#16, fun w => .round (cHdr w)⟩,
  ⟨0x14#8, fun w => w.extractLsb' 0 16 == 0#16, fun w => .yield (cHdr w)⟩,
  ⟨0x15#8, fun w => w.extractLsb' 0 16 == 0#16, fun w => .halt (cHdr w)⟩,
  ⟨0x40#8, fun _ => true, fun w => .ld (cHdr w) (w.extractLsb' 11 5) (w.extractLsb' 6 5) (w.extractLsb' 4 2) (w.getLsbD 3) (w.extractLsb' 0 3)⟩,
  ⟨0x41#8, fun w => w.extractLsb' 3 1 == 0#1, fun w => .st (cHdr w) (w.extractLsb' 11 5) (w.extractLsb' 6 5) (w.extractLsb' 4 2) (w.extractLsb' 0 3)⟩,
  ⟨0x42#8, fun w => w.extractLsb' 3 3 == 0#3, fun w => .ldp (cHdr w) (w.extractLsb' 11 5) (w.extractLsb' 6 5) (w.extractLsb' 0 3)⟩,
  ⟨0x43#8, fun w => w.extractLsb' 3 3 == 0#3, fun w => .stp (cHdr w) (w.extractLsb' 11 5) (w.extractLsb' 6 5) (w.extractLsb' 0 3)⟩,
  ⟨0x44#8, fun w => w.extractLsb' 3 3 == 0#3, fun w => .ldfe (cHdr w) (w.extractLsb' 11 5) (w.extractLsb' 6 5) (w.extractLsb' 0 3)⟩]

/-- The C-word rows without an extension (R127 to R130), part 3. -/
def cRows2 : List WordRow := [
  ⟨0x45#8, fun w => w.extractLsb' 3 3 == 0#3, fun w => .ldff (cHdr w) (w.extractLsb' 11 5) (w.extractLsb' 6 5) (w.extractLsb' 0 3)⟩,
  ⟨0x46#8, fun w => w.extractLsb' 3 3 == 0#3, fun w => .stfe (cHdr w) (w.extractLsb' 11 5) (w.extractLsb' 6 5) (w.extractLsb' 0 3)⟩,
  ⟨0x47#8, fun w => w.extractLsb' 3 3 == 0#3, fun w => .stf (cHdr w) (w.extractLsb' 11 5) (w.extractLsb' 6 5) (w.extractLsb' 0 3)⟩,
  ⟨0x4B#8, fun w => w.extractLsb' 11 1 == 0#1 && w.extractLsb' 4 4 == 0#4, fun w => .accrd (cHdr w) (w.extractLsb' 12 4) (w.extractLsb' 8 3) (w.getLsbD 3) (w.extractLsb' 0 3)⟩,
  ⟨0x4C#8, fun w => w.extractLsb' 15 1 == 0#1 && w.extractLsb' 0 8 == 0#8, fun w => .accwr (cHdr w) (w.extractLsb' 12 3) (w.extractLsb' 8 4)⟩,
  ⟨0x4C#8, fun w => w.extractLsb' 15 1 == 0#1 && w.extractLsb' 0 8 == 1#8, fun w => .accwrAdd (cHdr w) (w.extractLsb' 12 3) (w.extractLsb' 8 4)⟩,
  ⟨0x53#8, fun w => w.extractLsb' 10 1 == 0#1 && w.extractLsb' 0 7 == 0#7, fun w => .ndld (cHdr w) (w.extractLsb' 11 5) (w.extractLsb' 7 3)⟩,
  ⟨0x54#8, fun w => w.extractLsb' 0 12 == 0#12, fun w => .fenceAcq (cHdr w) (w.extractLsb' 12 4)⟩,
  ⟨0x54#8, fun w => w.extractLsb' 0 12 == 1#12, fun w => .fenceRel (cHdr w) (w.extractLsb' 12 4)⟩,
  ⟨0x54#8, fun w => w.extractLsb' 0 12 == 2#12, fun w => .fenceFull (cHdr w) (w.extractLsb' 12 4)⟩,
  ⟨0x54#8, fun w => w.extractLsb' 0 16 == 4099#16, fun w => .fenceExt (cHdr w)⟩,
  ⟨0x80#8, fun w => w.extractLsb' 15 1 == 0#1 && w.extractLsb' 3 1 == 0#1, fun w => .mma (cHdr w) (w.extractLsb' 12 3) (w.extractLsb' 8 4) (w.extractLsb' 4 4) (w.extractLsb' 0 3)⟩,
  ⟨0x80#8, fun w => w.extractLsb' 15 1 == 0#1 && w.extractLsb' 3 1 == 1#1, fun w => .mmaX (cHdr w) (w.extractLsb' 12 3) (w.extractLsb' 8 4) (w.extractLsb' 4 4) (w.extractLsb' 0 3)⟩,
  ⟨0x82#8, fun w => w.extractLsb' 15 1 == 0#1 && w.extractLsb' 0 12 == 0#12, fun w => .accz (cHdr w) (w.extractLsb' 12 3)⟩,
  ⟨0x89#8, fun w => w.extractLsb' 0 6 == 0#6, fun w => .cancel (cHdr w) (w.extractLsb' 11 5) (w.extractLsb' 6 5)⟩,
  ⟨0x8B#8, fun w => w.extractLsb' 0 6 == 0#6, fun w => .free (cHdr w) (w.extractLsb' 11 5) (w.extractLsb' 6 5)⟩]

/-- The C-word rows without an extension (R127 to R130), part 4. -/
def cRows3 : List WordRow := [
  ⟨0x8C#8, fun w => w.extractLsb' 0 8 == 0#8, fun w => .ringCw (cHdr w) (w.extractLsb' 12 4) (w.extractLsb' 8 4)⟩,
  ⟨0x8C#8, fun w => w.extractLsb' 0 8 == 1#8, fun w => .ringCcw (cHdr w) (w.extractLsb' 12 4) (w.extractLsb' 8 4)⟩,
  ⟨0x8F#8, fun w => w.extractLsb' 0 7 == 0#7, fun w => .expect (cHdr w) (w.extractLsb' 11 5) (w.extractLsb' 7 4)⟩,
  ⟨0x90#8, fun w => w.extractLsb' 0 7 == 0#7, fun w => .mbadd (cHdr w) (w.extractLsb' 11 5) (w.extractLsb' 7 4)⟩,
  ⟨0x92#8, fun w => w.extractLsb' 4 8 == 0#8, fun w => .hwaitProd (cHdr w) (w.extractLsb' 12 4) (w.extractLsb' 0 4)⟩,
  ⟨0x92#8, fun w => w.extractLsb' 4 8 == 16#8, fun w => .hwaitCons (cHdr w) (w.extractLsb' 12 4) (w.extractLsb' 0 4)⟩,
  ⟨0x93#8, fun w => w.extractLsb' 4 8 == 0#8, fun w => .hadvProd (cHdr w) (w.extractLsb' 12 4) (w.extractLsb' 0 4)⟩,
  ⟨0x93#8, fun w => w.extractLsb' 4 8 == 16#8, fun w => .hadvCons (cHdr w) (w.extractLsb' 12 4) (w.extractLsb' 0 4)⟩,
  ⟨0x94#8, fun w => w.extractLsb' 10 1 == 0#1 && w.extractLsb' 3 4 == 0#4, fun w => .field (cHdr w) (w.extractLsb' 11 5) (w.extractLsb' 7 3) (w.extractLsb' 0 3)⟩,
  ⟨0x96#8, fun w => w.extractLsb' 10 1 == 0#1 && w.extractLsb' 0 7 == 0#7, fun w => .evrun (cHdr w) (w.extractLsb' 11 5) (w.extractLsb' 7 3)⟩,
  ⟨0x97#8, fun w => w.extractLsb' 10 6 == 0#6 && w.extractLsb' 0 7 == 0#7, fun w => .evctlUnbind (cHdr w) (w.extractLsb' 7 3)⟩,
  ⟨0x97#8, fun w => w.extractLsb' 10 1 == 0#1 && w.extractLsb' 0 7 == 1#7, fun w => .evctlTime (cHdr w) (w.extractLsb' 11 5) (w.extractLsb' 7 3)⟩,
  ⟨0x97#8, fun w => w.extractLsb' 10 1 == 0#1 && w.extractLsb' 0 7 == 2#7, fun w => .evctlLate (cHdr w) (w.extractLsb' 11 5) (w.extractLsb' 7 3)⟩,
  ⟨0x97#8, fun w => w.extractLsb' 10 1 == 0#1 && w.extractLsb' 0 7 == 3#7, fun w => .evctlQlen (cHdr w) (w.extractLsb' 11 5) (w.extractLsb' 7 3)⟩,
  ⟨0x97#8, fun w => w.extractLsb' 10 1 == 0#1 && w.extractLsb' 0 7 == 4#7, fun w => .evctlFires (cHdr w) (w.extractLsb' 11 5) (w.extractLsb' 7 3)⟩,
  ⟨0x98#8, fun w => w.extractLsb' 7 1 == 0#1, fun w => .sft (cHdr w) (w.extractLsb' 12 4) (w.extractLsb' 8 4) (w.extractLsb' 4 3) (w.extractLsb' 0 4)⟩]

/-- The C-word rows without an extension (R127 to R130), part 5. -/
def cRows4 : List WordRow := [
  ⟨0xC0#8, fun w => w.extractLsb' 7 4 == 0#4, fun w => .trap (cHdr w) (w.extractLsb' 11 5) (w.extractLsb' 0 7)⟩,
  ⟨0xC1#8, fun w => w.extractLsb' 0 16 == 0#16, fun w => .sysret (cHdr w)⟩,
  ⟨0xC6#8, fun w => w.extractLsb' 0 6 == 0#6, fun w => .errq (cHdr w) (w.extractLsb' 11 5) (w.extractLsb' 6 5)⟩,
  ⟨0xC7#8, fun w => w.extractLsb' 0 7 == 0#7, fun w => .ctxsv (cHdr w) (w.extractLsb' 11 5) (w.extractLsb' 7 4)⟩,
  ⟨0xC8#8, fun w => w.extractLsb' 0 7 == 0#7, fun w => .ctxld (cHdr w) (w.extractLsb' 11 5) (w.extractLsb' 7 4)⟩,
  ⟨0xC9#8, fun w => w.extractLsb' 10 1 == 0#1 && w.extractLsb' 0 7 == 0#7, fun w => .accspill (cHdr w) (w.extractLsb' 11 5) (w.extractLsb' 7 3)⟩,
  ⟨0xCA#8, fun w => w.extractLsb' 10 1 == 0#1 && w.extractLsb' 0 7 == 0#7, fun w => .accfill (cHdr w) (w.extractLsb' 11 5) (w.extractLsb' 7 3)⟩,
  ⟨0xCB#8, fun w => w.extractLsb' 0 11 == 0#11, fun w => .peerclr (cHdr w) (w.extractLsb' 11 5)⟩,
  ⟨0xCC#8, fun w => w.extractLsb' 0 16 == 0#16, fun w => .bkpt (cHdr w)⟩]

/-- The C-word rows without an extension (R127 to R130). -/
def cRows : List WordRow :=
  cRows0 ++ cRows1 ++ cRows2 ++ cRows3 ++ cRows4

/-- The A-word rows (R131, R133), part 1. -/
def aRows0 : List ARow := [
  ⟨0x00#7, fun _ => true, fun w => .add (aHdr w) (w.extractLsb' 14 5) (w.extractLsb' 9 5) (w.extractLsb' 4 5) (w.getLsbD 3) (w.extractLsb' 0 3)⟩,
  ⟨0x01#7, fun _ => true, fun w => .sub (aHdr w) (w.extractLsb' 14 5) (w.extractLsb' 9 5) (w.extractLsb' 4 5) (w.getLsbD 3) (w.extractLsb' 0 3)⟩,
  ⟨0x02#7, fun _ => true, fun w => .addi (aHdr w) (w.extractLsb' 14 5) (w.extractLsb' 9 5) (w.extractLsb' 0 9)⟩,
  ⟨0x03#7, fun _ => true, fun w => .mul (aHdr w) (w.extractLsb' 14 5) (w.extractLsb' 9 5) (w.extractLsb' 4 5) (w.getLsbD 3) (w.extractLsb' 0 3)⟩,
  ⟨0x04#7, fun w => w.extractLsb' 0 3 == 0#3, fun w => .mulh (aHdr w) (w.extractLsb' 14 5) (w.extractLsb' 9 5) (w.extractLsb' 4 5) (w.getLsbD 3)⟩,
  ⟨0x05#7, fun w => w.extractLsb' 0 3 == 0#3, fun w => .mulhu (aHdr w) (w.extractLsb' 14 5) (w.extractLsb' 9 5) (w.extractLsb' 4 5) (w.getLsbD 3)⟩,
  ⟨0x06#7, fun _ => true, fun w => .div (aHdr w) (w.extractLsb' 14 5) (w.extractLsb' 9 5) (w.extractLsb' 4 5) (w.getLsbD 3) (w.extractLsb' 0 3)⟩,
  ⟨0x07#7, fun _ => true, fun w => .divu (aHdr w) (w.extractLsb' 14 5) (w.extractLsb' 9 5) (w.extractLsb' 4 5) (w.getLsbD 3) (w.extractLsb' 0 3)⟩,
  ⟨0x08#7, fun _ => true, fun w => .rem (aHdr w) (w.extractLsb' 14 5) (w.extractLsb' 9 5) (w.extractLsb' 4 5) (w.getLsbD 3) (w.extractLsb' 0 3)⟩,
  ⟨0x09#7, fun _ => true, fun w => .remu (aHdr w) (w.extractLsb' 14 5) (w.extractLsb' 9 5) (w.extractLsb' 4 5) (w.getLsbD 3) (w.extractLsb' 0 3)⟩,
  ⟨0x0A#7, fun w => w.extractLsb' 0 3 == 0#3, fun w => .and (aHdr w) (w.extractLsb' 14 5) (w.extractLsb' 9 5) (w.extractLsb' 4 5) (w.getLsbD 3)⟩,
  ⟨0x0B#7, fun w => w.extractLsb' 0 3 == 0#3, fun w => .or (aHdr w) (w.extractLsb' 14 5) (w.extractLsb' 9 5) (w.extractLsb' 4 5) (w.getLsbD 3)⟩,
  ⟨0x0C#7, fun w => w.extractLsb' 0 3 == 0#3, fun w => .xor (aHdr w) (w.extractLsb' 14 5) (w.extractLsb' 9 5) (w.extractLsb' 4 5) (w.getLsbD 3)⟩,
  ⟨0x0D#7, fun w => w.extractLsb' 0 3 == 0#3, fun w => .andn (aHdr w) (w.extractLsb' 14 5) (w.extractLsb' 9 5) (w.extractLsb' 4 5) (w.getLsbD 3)⟩,
  ⟨0x0E#7, fun _ => true, fun w => .shl (aHdr w) (w.extractLsb' 14 5) (w.extractLsb' 9 5) (w.extractLsb' 4 5) (w.getLsbD 3) (w.extractLsb' 0 3)⟩,
  ⟨0x0F#7, fun _ => true, fun w => .shr (aHdr w) (w.extractLsb' 14 5) (w.extractLsb' 9 5) (w.extractLsb' 4 5) (w.getLsbD 3) (w.extractLsb' 0 3)⟩]

/-- The A-word rows (R131, R133), part 2. -/
def aRows1 : List ARow := [
  ⟨0x10#7, fun _ => true, fun w => .sar (aHdr w) (w.extractLsb' 14 5) (w.extractLsb' 9 5) (w.extractLsb' 4 5) (w.getLsbD 3) (w.extractLsb' 0 3)⟩,
  ⟨0x11#7, fun _ => true, fun w => .rol (aHdr w) (w.extractLsb' 14 5) (w.extractLsb' 9 5) (w.extractLsb' 4 5) (w.getLsbD 3) (w.extractLsb' 0 3)⟩,
  ⟨0x12#7, fun w => w.extractLsb' 7 2 == 0#2, fun w => .shli (aHdr w) (w.extractLsb' 14 5) (w.extractLsb' 9 5) (w.getLsbD 6) (w.extractLsb' 0 6)⟩,
  ⟨0x13#7, fun w => w.extractLsb' 7 2 == 0#2, fun w => .shri (aHdr w) (w.extractLsb' 14 5) (w.extractLsb' 9 5) (w.getLsbD 6) (w.extractLsb' 0 6)⟩,
  ⟨0x14#7, fun w => w.extractLsb' 7 2 == 0#2, fun w => .sari (aHdr w) (w.extractLsb' 14 5) (w.extractLsb' 9 5) (w.getLsbD 6) (w.extractLsb' 0 6)⟩,
  ⟨0x15#7, fun w => w.extractLsb' 3 6 == 0#6, fun w => .clz (aHdr w) (w.extractLsb' 14 5) (w.extractLsb' 9 5) (w.extractLsb' 0 3)⟩,
  ⟨0x16#7, fun w => w.extractLsb' 3 6 == 0#6, fun w => .ctz (aHdr w) (w.extractLsb' 14 5) (w.extractLsb' 9 5) (w.extractLsb' 0 3)⟩,
  ⟨0x17#7, fun w => w.extractLsb' 3 6 == 0#6, fun w => .popc (aHdr w) (w.extractLsb' 14 5) (w.extractLsb' 9 5) (w.extractLsb' 0 3)⟩,
  ⟨0x18#7, fun w => w.extractLsb' 0 3 == 0#3, fun w => .bfx (aHdr w) (w.extractLsb' 14 5) (w.extractLsb' 9 5) (w.extractLsb' 4 5) (w.getLsbD 3)⟩,
  ⟨0x19#7, fun w => w.extractLsb' 0 3 == 0#3, fun w => .bfi (aHdr w) (w.extractLsb' 14 5) (w.extractLsb' 9 5) (w.extractLsb' 4 5) (w.getLsbD 3)⟩,
  ⟨0x1A#7, fun _ => true, fun w => .min (aHdr w) (w.extractLsb' 14 5) (w.extractLsb' 9 5) (w.extractLsb' 4 5) (w.getLsbD 3) (w.extractLsb' 0 3)⟩,
  ⟨0x1B#7, fun _ => true, fun w => .max (aHdr w) (w.extractLsb' 14 5) (w.extractLsb' 9 5) (w.extractLsb' 4 5) (w.getLsbD 3) (w.extractLsb' 0 3)⟩,
  ⟨0x1C#7, fun _ => true, fun w => .minu (aHdr w) (w.extractLsb' 14 5) (w.extractLsb' 9 5) (w.extractLsb' 4 5) (w.getLsbD 3) (w.extractLsb' 0 3)⟩,
  ⟨0x1D#7, fun _ => true, fun w => .maxu (aHdr w) (w.extractLsb' 14 5) (w.extractLsb' 9 5) (w.extractLsb' 4 5) (w.getLsbD 3) (w.extractLsb' 0 3)⟩,
  ⟨0x1E#7, fun _ => true, fun w => .sel (aHdr w) (w.extractLsb' 14 5) (w.extractLsb' 9 5) (w.extractLsb' 4 5) (w.getLsbD 3) (w.extractLsb' 0 3)⟩,
  ⟨0x1F#7, fun w => w.extractLsb' 0 9 == 0#9, fun w => .mov (aHdr w) (w.extractLsb' 14 5) (w.extractLsb' 9 5)⟩]

/-- The A-word rows (R131, R133), part 3. -/
def aRows2 : List ARow := [
  ⟨0x20#7, fun _ => true, fun w => .cmp (aHdr w) (w.extractLsb' 15 4) (w.extractLsb' 10 5) (w.extractLsb' 5 5) (w.getLsbD 4) (w.extractLsb' 0 4)⟩,
  ⟨0x21#7, fun w => w.extractLsb' 4 1 == 0#1, fun w => .cmpi (aHdr w) (w.extractLsb' 15 4) (w.extractLsb' 10 5) (w.extractLsb' 5 5) (w.extractLsb' 0 4)⟩,
  ⟨0x22#7, fun w => w.extractLsb' 14 1 == 0#1 && w.extractLsb' 9 1 == 0#1 && w.extractLsb' 4 1 == 0#1, fun w => .plog (aHdr w) (w.extractLsb' 15 4) (w.extractLsb' 10 4) (w.extractLsb' 5 4) (w.extractLsb' 0 4)⟩,
  ⟨0x23#7, fun w => w.extractLsb' 0 14 == 0#14, fun w => .pmovGet (aHdr w) (w.extractLsb' 14 5)⟩,
  ⟨0x23#7, fun w => w.extractLsb' 14 5 == 0#5 && w.extractLsb' 0 9 == 1#9, fun w => .pmovPut (aHdr w) (w.extractLsb' 9 5)⟩,
  ⟨0x24#7, fun w => w.extractLsb' 9 5 == 0#5 && w.extractLsb' 0 4 == 8#4, fun w => .xmov (aHdr w) (w.extractLsb' 14 5) (w.extractLsb' 4 5)⟩,
  ⟨0x24#7, fun w => w.extractLsb' 18 1 == 0#1 && w.extractLsb' 8 6 == 0#6 && w.extractLsb' 0 4 == 9#4, fun w => .xmovP (aHdr w) (w.extractLsb' 14 4) (w.extractLsb' 4 4)⟩,
  ⟨0x25#7, fun w => w.extractLsb' 0 3 == 0#3, fun w => .addp (aHdr w) (w.extractLsb' 14 5) (w.extractLsb' 9 5) (w.extractLsb' 4 5) (w.getLsbD 3)⟩,
  ⟨0x25#7, fun w => w.extractLsb' 0 3 == 1#3, fun w => .addpE (aHdr w) (w.extractLsb' 14 5) (w.extractLsb' 9 5) (w.extractLsb' 4 5) (w.getLsbD 3)⟩,
  ⟨0x26#7, fun w => w.extractLsb' 8 1 == 0#1, fun w => .pfmt (aHdr w) (w.extractLsb' 14 5) (w.extractLsb' 9 5) (w.extractLsb' 0 8)⟩,
  ⟨0x27#7, fun w => w.extractLsb' 2 7 == 0#7, fun w => .pfld (aHdr w) (w.extractLsb' 14 5) (w.extractLsb' 9 5) (w.extractLsb' 0 2)⟩,
  ⟨0x28#7, fun w => w.extractLsb' 2 1 == 0#1, fun w => .gdistCore (aHdr w) (w.extractLsb' 14 5) (w.extractLsb' 9 5) (w.extractLsb' 4 5) (w.getLsbD 3) (w.extractLsb' 0 2)⟩,
  ⟨0x28#7, fun w => w.extractLsb' 2 1 == 1#1, fun w => .gdistOff (aHdr w) (w.extractLsb' 14 5) (w.extractLsb' 9 5) (w.extractLsb' 4 5) (w.getLsbD 3) (w.extractLsb' 0 2)⟩,
  ⟨0x29#7, fun _ => true, fun w => .fadd (aHdr w) (w.extractLsb' 14 5) (w.extractLsb' 9 5) (w.extractLsb' 4 5) (w.getLsbD 3) (w.extractLsb' 0 3)⟩,
  ⟨0x2A#7, fun _ => true, fun w => .fsub (aHdr w) (w.extractLsb' 14 5) (w.extractLsb' 9 5) (w.extractLsb' 4 5) (w.getLsbD 3) (w.extractLsb' 0 3)⟩,
  ⟨0x2B#7, fun _ => true, fun w => .fmul (aHdr w) (w.extractLsb' 14 5) (w.extractLsb' 9 5) (w.extractLsb' 4 5) (w.getLsbD 3) (w.extractLsb' 0 3)⟩]

/-- The A-word rows (R131, R133), part 4. -/
def aRows3 : List ARow := [
  ⟨0x2C#7, fun _ => true, fun w => .ffma (aHdr w) (w.extractLsb' 14 5) (w.extractLsb' 9 5) (w.extractLsb' 4 5) (w.getLsbD 3) (w.extractLsb' 0 3)⟩,
  ⟨0x2D#7, fun w => w.extractLsb' 0 3 == 0#3, fun w => .fmin (aHdr w) (w.extractLsb' 14 5) (w.extractLsb' 9 5) (w.extractLsb' 4 5) (w.getLsbD 3)⟩,
  ⟨0x2E#7, fun w => w.extractLsb' 0 3 == 0#3, fun w => .fmax (aHdr w) (w.extractLsb' 14 5) (w.extractLsb' 9 5) (w.extractLsb' 4 5) (w.getLsbD 3)⟩,
  ⟨0x2F#7, fun _ => true, fun w => .fcmp (aHdr w) (w.extractLsb' 15 4) (w.extractLsb' 10 5) (w.extractLsb' 5 5) (w.getLsbD 4) (w.extractLsb' 0 4)⟩,
  ⟨0x30#7, fun w => w.extractLsb' 3 1 == 0#1, fun w => .fcvt (aHdr w) (w.extractLsb' 14 5) (w.extractLsb' 9 5) (w.extractLsb' 4 5) (w.extractLsb' 0 3)⟩,
  ⟨0x31#7, fun w => w.extractLsb' 0 9 == 0#9, fun w => .fclass (aHdr w) (w.extractLsb' 14 5) (w.extractLsb' 9 5)⟩,
  ⟨0x40#7, fun _ => true, fun w => .tadd (aHdr w) (w.extractLsb' 15 4) (w.extractLsb' 11 4) (w.extractLsb' 7 4) (w.extractLsb' 4 3) (w.getLsbD 3) (w.extractLsb' 0 3)⟩,
  ⟨0x41#7, fun _ => true, fun w => .tsub (aHdr w) (w.extractLsb' 15 4) (w.extractLsb' 11 4) (w.extractLsb' 7 4) (w.extractLsb' 4 3) (w.getLsbD 3) (w.extractLsb' 0 3)⟩,
  ⟨0x42#7, fun _ => true, fun w => .tmul (aHdr w) (w.extractLsb' 15 4) (w.extractLsb' 11 4) (w.extractLsb' 7 4) (w.extractLsb' 4 3) (w.getLsbD 3) (w.extractLsb' 0 3)⟩,
  ⟨0x43#7, fun _ => true, fun w => .tfma (aHdr w) (w.extractLsb' 15 4) (w.extractLsb' 11 4) (w.extractLsb' 7 4) (w.extractLsb' 4 3) (w.getLsbD 3) (w.extractLsb' 0 3)⟩,
  ⟨0x44#7, fun w => w.extractLsb' 0 4 == 0#4, fun w => .tmax (aHdr w) (w.extractLsb' 15 4) (w.extractLsb' 11 4) (w.extractLsb' 7 4) (w.extractLsb' 4 3)⟩,
  ⟨0x45#7, fun w => w.extractLsb' 0 4 == 0#4, fun w => .tmin (aHdr w) (w.extractLsb' 15 4) (w.extractLsb' 11 4) (w.extractLsb' 7 4) (w.extractLsb' 4 3)⟩,
  ⟨0x46#7, fun w => w.extractLsb' 7 4 == 0#4 && w.extractLsb' 0 4 == 0#4, fun w => .tabs (aHdr w) (w.extractLsb' 15 4) (w.extractLsb' 11 4) (w.extractLsb' 4 3)⟩,
  ⟨0x47#7, fun w => w.extractLsb' 7 4 == 0#4 && w.extractLsb' 0 4 == 0#4, fun w => .tneg (aHdr w) (w.extractLsb' 15 4) (w.extractLsb' 11 4) (w.extractLsb' 4 3)⟩,
  ⟨0x48#7, fun w => w.extractLsb' 3 1 == 0#1, fun w => .tcvt (aHdr w) (w.extractLsb' 15 4) (w.extractLsb' 11 4) (w.extractLsb' 7 4) (w.extractLsb' 4 3) (w.extractLsb' 0 3)⟩,
  ⟨0x49#7, fun w => w.extractLsb' 9 2 == 0#2 && w.extractLsb' 3 1 == 0#1, fun w => .tqnt (aHdr w) (w.extractLsb' 15 4) (w.extractLsb' 11 4) (w.extractLsb' 7 2) (w.extractLsb' 4 3) (w.extractLsb' 0 3)⟩]

/-- The A-word rows (R131, R133), part 5. -/
def aRows4 : List ARow := [
  ⟨0x4A#7, fun w => w.extractLsb' 3 1 == 0#1, fun w => .tdq (aHdr w) (w.extractLsb' 15 4) (w.extractLsb' 11 4) (w.extractLsb' 7 4) (w.extractLsb' 4 3) (w.extractLsb' 0 3)⟩,
  ⟨0x4B#7, fun _ => true, fun w => .tscl (aHdr w) (w.extractLsb' 15 4) (w.extractLsb' 11 4) (w.extractLsb' 7 4) (w.extractLsb' 4 3) (w.getLsbD 3) (w.extractLsb' 0 3)⟩,
  ⟨0x4C#7, fun w => w.extractLsb' 0 4 == 0#4, fun w => .tand (aHdr w) (w.extractLsb' 15 4) (w.extractLsb' 11 4) (w.extractLsb' 7 4) (w.extractLsb' 4 3)⟩,
  ⟨0x4D#7, fun w => w.extractLsb' 0 4 == 0#4, fun w => .tor (aHdr w) (w.extractLsb' 15 4) (w.extractLsb' 11 4) (w.extractLsb' 7 4) (w.extractLsb' 4 3)⟩,
  ⟨0x4E#7, fun w => w.extractLsb' 0 4 == 0#4, fun w => .txor (aHdr w) (w.extractLsb' 15 4) (w.extractLsb' 11 4) (w.extractLsb' 7 4) (w.extractLsb' 4 3)⟩,
  ⟨0x4F#7, fun w => w.extractLsb' 0 4 == 0#4, fun w => .tshl (aHdr w) (w.extractLsb' 15 4) (w.extractLsb' 11 4) (w.extractLsb' 7 4) (w.extractLsb' 4 3)⟩,
  ⟨0x50#7, fun w => w.extractLsb' 1 3 == 0#3, fun w => .tshr (aHdr w) (w.extractLsb' 15 4) (w.extractLsb' 11 4) (w.extractLsb' 7 4) (w.extractLsb' 4 3) (w.getLsbD 0)⟩,
  ⟨0x51#7, fun w => w.extractLsb' 18 1 == 0#1, fun w => .tcmp (aHdr w) (w.extractLsb' 15 3) (w.extractLsb' 11 4) (w.extractLsb' 7 4) (w.extractLsb' 4 3) (w.extractLsb' 0 4)⟩,
  ⟨0x52#7, fun w => w.extractLsb' 0 4 == 0#4, fun w => .tsel (aHdr w) (w.extractLsb' 15 4) (w.extractLsb' 11 4) (w.extractLsb' 7 4) (w.extractLsb' 4 3)⟩,
  ⟨0x53#7, fun w => w.extractLsb' 2 2 == 0#2, fun w => .tcas (aHdr w) (w.extractLsb' 15 4) (w.extractLsb' 11 4) (w.extractLsb' 7 4) (w.extractLsb' 4 3) (w.getLsbD 1) (w.getLsbD 0)⟩,
  ⟨0x54#7, fun w => w.extractLsb' 1 3 == 0#3, fun w => .tmaxi (aHdr w) (w.extractLsb' 15 4) (w.extractLsb' 11 4) (w.extractLsb' 7 4) (w.extractLsb' 4 3) (w.getLsbD 0)⟩,
  ⟨0x55#7, fun w => w.extractLsb' 1 3 == 0#3, fun w => .tmini (aHdr w) (w.extractLsb' 15 4) (w.extractLsb' 11 4) (w.extractLsb' 7 4) (w.extractLsb' 4 3) (w.getLsbD 0)⟩,
  ⟨0x56#7, fun w => w.extractLsb' 10 1 == 0#1 && w.extractLsb' 7 2 == 0#2 && w.extractLsb' 3 1 == 0#1, fun w => .tredSum (aHdr w) (w.extractLsb' 15 4) (w.extractLsb' 11 4) (w.getLsbD 9) (w.extractLsb' 4 3) (w.extractLsb' 0 3)⟩,
  ⟨0x56#7, fun w => w.extractLsb' 10 1 == 0#1 && w.extractLsb' 7 2 == 1#2 && w.extractLsb' 3 1 == 0#1, fun w => .tredMax (aHdr w) (w.extractLsb' 15 4) (w.extractLsb' 11 4) (w.getLsbD 9) (w.extractLsb' 4 3) (w.extractLsb' 0 3)⟩,
  ⟨0x56#7, fun w => w.extractLsb' 10 1 == 0#1 && w.extractLsb' 7 2 == 2#2 && w.extractLsb' 3 1 == 0#1, fun w => .tredMin (aHdr w) (w.extractLsb' 15 4) (w.extractLsb' 11 4) (w.getLsbD 9) (w.extractLsb' 4 3) (w.extractLsb' 0 3)⟩,
  ⟨0x57#7, fun w => w.extractLsb' 7 4 == 0#4 && w.extractLsb' 1 3 == 0#3, fun w => .tbc (aHdr w) (w.extractLsb' 15 4) (w.extractLsb' 11 4) (w.extractLsb' 4 3) (w.getLsbD 0)⟩]

/-- The A-word rows (R131, R133), part 6. -/
def aRows5 : List ARow := [
  ⟨0x58#7, fun w => w.extractLsb' 7 4 == 0#4 && w.extractLsb' 0 4 == 0#4, fun w => .ttr (aHdr w) (w.extractLsb' 15 4) (w.extractLsb' 11 4) (w.extractLsb' 4 3)⟩,
  ⟨0x59#7, fun w => w.extractLsb' 0 4 == 0#4, fun w => .tslc (aHdr w) (w.extractLsb' 15 4) (w.extractLsb' 11 4) (w.extractLsb' 7 4) (w.extractLsb' 4 3)⟩,
  ⟨0x5A#7, fun w => w.extractLsb' 7 8 == 0#8 && w.extractLsb' 1 3 == 0#3, fun w => .tidx (aHdr w) (w.extractLsb' 15 4) (w.extractLsb' 4 3) (w.getLsbD 0)⟩,
  ⟨0x5B#7, fun w => w.extractLsb' 7 4 == 0#4 && w.extractLsb' 0 4 == 0#4, fun w => .tmov (aHdr w) (w.extractLsb' 15 4) (w.extractLsb' 11 4) (w.extractLsb' 4 3)⟩,
  ⟨0x5C#7, fun w => w.extractLsb' 7 8 == 0#8 && w.extractLsb' 0 4 == 0#4, fun w => .tfill (aHdr w) (w.extractLsb' 15 4) (w.extractLsb' 4 3)⟩,
  ⟨0x5D#7, fun w => w.extractLsb' 18 1 == 0#1 && w.extractLsb' 14 1 == 0#1 && w.extractLsb' 10 1 == 0#1, fun w => .mlog (aHdr w) (w.extractLsb' 15 3) (w.extractLsb' 11 3) (w.extractLsb' 7 3) (w.extractLsb' 4 3) (w.extractLsb' 0 4)⟩,
  ⟨0x5E#7, fun w => w.extractLsb' 14 1 == 0#1 && w.extractLsb' 7 4 == 0#4 && w.extractLsb' 0 4 == 0#4, fun w => .mcnt (aHdr w) (w.extractLsb' 15 4) (w.extractLsb' 11 3) (w.extractLsb' 4 3)⟩]

/-- The A-word rows (R131, R133). -/
def aRows : List ARow :=
  aRows0 ++ aRows1 ++ aRows2 ++ aRows3 ++ aRows4 ++ aRows5

/-- The C-word rows that take an extension (R127 to R130), part 1. -/
def lRows0 : List PairRow := [
  ⟨0x06#8, fun w x => w.extractLsb' 0 6 == 0#6 && x.extractLsb' 16 16 == 0#16, fun w x => .jtab (cHdr w) (w.extractLsb' 11 5) (w.extractLsb' 6 5) (x.extractLsb' 0 16)⟩,
  ⟨0x07#8, fun w x => w.extractLsb' 15 1 == 0#1 && w.extractLsb' 0 12 == 0#12 && x.extractLsb' 5 27 == 0#27, fun w x => .loop (cHdr w) (w.extractLsb' 12 3) (x.extractLsb' 0 5)⟩,
  ⟨0x09#8, fun _ _ => true, fun w x => .waitLimit (cHdr w) (w.extractLsb' 11 5) (w.extractLsb' 7 4) (w.extractLsb' 0 7) (x.extractLsb' 0 32)⟩,
  ⟨0x40#8, fun w _ => w.extractLsb' 0 3 == 0#3, fun w x => .ldExt (cHdr w) (w.extractLsb' 11 5) (w.extractLsb' 6 5) (w.extractLsb' 4 2) (w.getLsbD 3) (x.extractLsb' 0 32)⟩,
  ⟨0x41#8, fun w _ => w.extractLsb' 0 4 == 0#4, fun w x => .stExt (cHdr w) (w.extractLsb' 11 5) (w.extractLsb' 6 5) (w.extractLsb' 4 2) (x.extractLsb' 0 32)⟩,
  ⟨0x42#8, fun w _ => w.extractLsb' 0 6 == 0#6, fun w x => .ldpExt (cHdr w) (w.extractLsb' 11 5) (w.extractLsb' 6 5) (x.extractLsb' 0 32)⟩,
  ⟨0x43#8, fun w _ => w.extractLsb' 0 6 == 0#6, fun w x => .stpExt (cHdr w) (w.extractLsb' 11 5) (w.extractLsb' 6 5) (x.extractLsb' 0 32)⟩,
  ⟨0x44#8, fun w _ => w.extractLsb' 0 6 == 0#6, fun w x => .ldfeExt (cHdr w) (w.extractLsb' 11 5) (w.extractLsb' 6 5) (x.extractLsb' 0 32)⟩,
  ⟨0x45#8, fun w _ => w.extractLsb' 0 6 == 0#6, fun w x => .ldffExt (cHdr w) (w.extractLsb' 11 5) (w.extractLsb' 6 5) (x.extractLsb' 0 32)⟩,
  ⟨0x46#8, fun w _ => w.extractLsb' 0 6 == 0#6, fun w x => .stfeExt (cHdr w) (w.extractLsb' 11 5) (w.extractLsb' 6 5) (x.extractLsb' 0 32)⟩,
  ⟨0x47#8, fun w _ => w.extractLsb' 0 6 == 0#6, fun w x => .stfExt (cHdr w) (w.extractLsb' 11 5) (w.extractLsb' 6 5) (x.extractLsb' 0 32)⟩,
  ⟨0x48#8, fun _ x => x.extractLsb' 6 26 == 0#26, fun w x => .lat (cHdr w) (w.extractLsb' 11 5) (w.extractLsb' 6 5) (w.extractLsb' 1 5) (w.getLsbD 0) (x.extractLsb' 4 2) (x.extractLsb' 0 4)⟩,
  ⟨0x49#8, fun w x => w.extractLsb' 3 4 == 0#4 && x.extractLsb' 25 7 == 0#7, fun w x => .tld (cHdr w) (w.extractLsb' 11 5) (w.extractLsb' 7 4) (w.extractLsb' 0 3) (x.extractLsb' 21 4) (x.extractLsb' 17 4) (x.getLsbD 16) (x.extractLsb' 0 16)⟩,
  ⟨0x4A#8, fun w x => w.extractLsb' 3 4 == 0#4 && x.extractLsb' 25 7 == 0#7, fun w x => .tst (cHdr w) (w.extractLsb' 11 5) (w.extractLsb' 7 4) (w.extractLsb' 0 3) (x.extractLsb' 21 4) (x.extractLsb' 17 4) (x.getLsbD 16) (x.extractLsb' 0 16)⟩,
  ⟨0x4D#8, fun _ x => x.extractLsb' 12 20 == 0#20, fun w x => .xld (cHdr w) (w.extractLsb' 11 5) (w.extractLsb' 6 5) (w.extractLsb' 1 5) (w.getLsbD 0) (x.extractLsb' 9 3) (x.extractLsb' 0 9)⟩,
  ⟨0x4E#8, fun _ x => x.extractLsb' 12 20 == 0#20, fun w x => .xst (cHdr w) (w.extractLsb' 11 5) (w.extractLsb' 6 5) (w.extractLsb' 1 5) (w.getLsbD 0) (x.extractLsb' 9 3) (x.extractLsb' 0 9)⟩]

/-- The C-word rows that take an extension (R127 to R130), part 2. -/
def lRows1 : List PairRow := [
  ⟨0x4F#8, fun _ x => x.extractLsb' 7 25 == 0#25, fun w x => .xat (cHdr w) (w.extractLsb' 11 5) (w.extractLsb' 6 5) (w.extractLsb' 1 5) (w.getLsbD 0) (x.getLsbD 6) (x.extractLsb' 4 2) (x.extractLsb' 0 4)⟩,
  ⟨0x50#8, fun _ x => x.extractLsb' 7 25 == 0#25, fun w x => .xatr (cHdr w) (w.extractLsb' 11 5) (w.extractLsb' 6 5) (w.extractLsb' 1 5) (w.getLsbD 0) (x.getLsbD 6) (x.extractLsb' 4 2) (x.extractLsb' 0 4)⟩,
  ⟨0x51#8, fun _ x => x.extractLsb' 8 24 == 0#24, fun w x => .cpy (cHdr w) (w.extractLsb' 11 5) (w.extractLsb' 6 5) (w.extractLsb' 1 5) (w.getLsbD 0) (x.getLsbD 7) (x.extractLsb' 4 3) (x.getLsbD 3) (x.extractLsb' 0 3)⟩,
  ⟨0x52#8, fun _ x => x.extractLsb' 10 6 == 0#6 && x.extractLsb' 7 1 == 0#1, fun w x => .cpyd (cHdr w) (w.extractLsb' 11 5) (w.extractLsb' 6 5) (w.extractLsb' 1 5) (w.getLsbD 0) (x.extractLsb' 21 11) (x.extractLsb' 17 4) (x.getLsbD 16) (x.extractLsb' 8 2) (x.extractLsb' 4 3) (x.getLsbD 3) (x.extractLsb' 0 3)⟩,
  ⟨0x81#8, fun _ x => x.extractLsb' 15 17 == 0#17, fun w x => .mmar (cHdr w) (w.extractLsb' 11 5) (w.extractLsb' 6 5) (w.extractLsb' 1 5) (w.getLsbD 0) (x.extractLsb' 12 3) (x.extractLsb' 8 4) (x.extractLsb' 4 4) (x.getLsbD 3) (x.extractLsb' 0 3)⟩,
  ⟨0x83#8, fun w _ => w.extractLsb' 10 1 == 0#1 && w.extractLsb' 0 7 == 0#7, fun w x => .accxSend (cHdr w) (w.extractLsb' 11 5) (w.extractLsb' 7 3) (x.extractLsb' 0 32)⟩,
  ⟨0x83#8, fun w _ => w.extractLsb' 10 1 == 0#1 && w.extractLsb' 5 2 == 0#2 && w.extractLsb' 3 2 == 1#2 && w.extractLsb' 0 3 == 0#3, fun w x => .accxOpen (cHdr w) (w.extractLsb' 11 5) (w.extractLsb' 7 3) (x.extractLsb' 0 32)⟩,
  ⟨0x83#8, fun w x => w.extractLsb' 10 6 == 0#6 && w.extractLsb' 5 2 == 0#2 && w.extractLsb' 3 2 == 2#2 && x.extractLsb' 0 32 == 0#32, fun w _ => .accxClose (cHdr w) (w.extractLsb' 7 3) (w.extractLsb' 0 3)⟩,
  ⟨0x84#8, fun _ _ => true, fun w x => .send (cHdr w) (w.extractLsb' 11 5) (w.extractLsb' 6 5) (w.extractLsb' 1 5) (w.getLsbD 0) (x.extractLsb' 0 32)⟩,
  ⟨0x85#8, fun _ _ => true, fun w x => .sendp (cHdr w) (w.extractLsb' 11 5) (w.extractLsb' 6 5) (w.extractLsb' 1 5) (w.getLsbD 0) (x.getLsbD 31) (x.extractLsb' 0 31)⟩,
  ⟨0x86#8, fun _ _ => true, fun w x => .sendx (cHdr w) (w.extractLsb' 11 5) (w.extractLsb' 6 5) (w.extractLsb' 1 5) (w.getLsbD 0) (x.extractLsb' 0 32)⟩,
  ⟨0x87#8, fun _ _ => true, fun w x => .recv (cHdr w) (w.extractLsb' 11 5) (w.extractLsb' 6 5) (w.extractLsb' 1 5) (w.getLsbD 0) (x.extractLsb' 0 32)⟩,
  ⟨0x88#8, fun _ _ => true, fun w x => .probe (cHdr w) (w.extractLsb' 11 5) (w.extractLsb' 6 5) (w.extractLsb' 1 5) (w.getLsbD 0) (x.extractLsb' 0 32)⟩,
  ⟨0x8A#8, fun _ _ => true, fun w x => .mcast (cHdr w) (w.extractLsb' 11 5) (w.extractLsb' 6 5) (w.extractLsb' 1 5) (w.getLsbD 0) (x.extractLsb' 28 4) (x.extractLsb' 0 28)⟩,
  ⟨0x8D#8, fun w x => w.extractLsb' 0 7 == 0#7 && x.extractLsb' 28 4 == 0#4, fun w x => .xsnd (cHdr w) (w.extractLsb' 11 5) (w.extractLsb' 7 4) (x.extractLsb' 20 8) (x.extractLsb' 0 20)⟩,
  ⟨0x8E#8, fun w x => w.extractLsb' 0 7 == 0#7 && x.extractLsb' 28 4 == 0#4, fun w x => .xrcv (cHdr w) (w.extractLsb' 11 5) (w.extractLsb' 7 4) (x.extractLsb' 20 8) (x.extractLsb' 0 20)⟩]

/-- The C-word rows that take an extension (R127 to R130), part 3. -/
def lRows2 : List PairRow := [
  ⟨0x91#8, fun w x => w.extractLsb' 0 7 == 0#7 && x.extractLsb' 21 11 == 0#11, fun w x => .hset (cHdr w) (w.extractLsb' 11 5) (w.extractLsb' 7 4) (x.extractLsb' 13 8) (x.extractLsb' 0 13)⟩,
  ⟨0x95#8, fun _ x => x.extractLsb' 19 13 == 0#13, fun w x => .evsend (cHdr w) (w.extractLsb' 11 5) (w.extractLsb' 6 5) (w.extractLsb' 1 5) (w.getLsbD 0) (x.extractLsb' 16 3) (x.extractLsb' 8 8) (x.extractLsb' 0 8)⟩,
  ⟨0x99#8, fun w x => w.extractLsb' 0 6 == 0#6 && x.extractLsb' 7 25 == 0#25, fun w x => .sfs (cHdr w) (w.extractLsb' 11 5) (w.extractLsb' 6 5) (x.extractLsb' 4 3) (x.extractLsb' 0 4)⟩,
  ⟨0xC2#8, fun w x => w.extractLsb' 0 11 == 0#11 && x.extractLsb' 12 20 == 0#20, fun w x => .csrr (cHdr w) (w.extractLsb' 11 5) (x.extractLsb' 0 12)⟩,
  ⟨0xC3#8, fun w x => w.extractLsb' 0 11 == 0#11 && x.extractLsb' 12 20 == 0#20, fun w x => .csrw (cHdr w) (w.extractLsb' 11 5) (x.extractLsb' 0 12)⟩,
  ⟨0xC4#8, fun w x => w.extractLsb' 0 11 == 0#11 && x.extractLsb' 12 20 == 0#20, fun w x => .csrs (cHdr w) (w.extractLsb' 11 5) (x.extractLsb' 0 12)⟩,
  ⟨0xC5#8, fun w x => w.extractLsb' 0 11 == 0#11 && x.extractLsb' 12 20 == 0#20, fun w x => .csrc (cHdr w) (w.extractLsb' 11 5) (x.extractLsb' 0 12)⟩,
  ⟨0xCD#8, fun w _ => w.extractLsb' 7 4 == 0#4 && w.extractLsb' 1 6 == 0#6, fun w x => .limm (cHdr w) (w.extractLsb' 11 5) (w.getLsbD 0) (x.extractLsb' 0 32)⟩,
  ⟨0xCD#8, fun w _ => w.extractLsb' 7 4 == 0#4 && w.extractLsb' 2 5 == 0#5 && w.extractLsb' 0 2 == 2#2, fun w x => .limmHi (cHdr w) (w.extractLsb' 11 5) (x.extractLsb' 0 32)⟩]

/-- The C-word rows that take an extension (R127 to R130). -/
def lRows : List PairRow :=
  lRows0 ++ lRows1 ++ lRows2

/-- The control registers whose write is a row of its own: the row that a CSRW (op 0), CSRS (1) or CSRC (2) of register `r` is. -/
def ownRowOf (h : CHdr) (op : BitVec 2) (a : BitVec 5) (r : BitVec 12) : Option Instr :=
  if r.extractLsb' 0 12 == 273#12 then some (.splimWrite h op a)
  else if r.extractLsb' 0 12 == 272#12 then some (.spbaseWrite h op a)
  else if r.extractLsb' 4 8 == 1#8 then some (.tshapeWrite h op a (r.extractLsb' 0 4))
  else if r.extractLsb' 3 9 == 4#9 then some (.adWrite h op a (r.extractLsb' 0 3))
  else if r.extractLsb' 0 12 == 274#12 then some (.accownWrite h op a)
  else if r.extractLsb' 0 12 == 275#12 then some (.tileownWrite h op a)
  else if r.extractLsb' 0 12 == 10#12 then some (.trestartWrite h op a)
  else if r.extractLsb' 6 6 == 6#6 && r.extractLsb' 4 2 != 3#2 then some (.extentWrite h op a (r.extractLsb' 4 2) (r.extractLsb' 0 4))
  else if r.extractLsb' 0 12 == 80#12 then some (.errqsWrite h op a)
  else if r.extractLsb' 0 12 == 8#12 then some (.srlfsrWrite h op a)
  else if r.extractLsb' 0 12 == 9#12 then some (.vshareWrite h op a)
  else if r.extractLsb' 1 11 == 140#11 then some (.capkeyWrite h op a (r.getLsbD 0))
  else none

/-- A CSRW, CSRS or CSRC of a register whose write is a row of its own is that row. -/
def ownRowFix : Instr → Instr
  | .csrw h a r => (ownRowOf h 0#2 a r).getD (.csrw h a r)
  | .csrs h a r => (ownRowOf h 1#2 a r).getD (.csrs h a r)
  | .csrc h a r => (ownRowOf h 2#2 a r).getD (.csrc h a r)
  | i => i

/-- The last check: no field holds a reserved value (checks 4 and 6 of R104). -/
def accept (i : Instr) : Except DecodeError Instr :=
  if i.wf then .ok i else .error .illegalOpcode

/-- The instruction of a C-word with L clear (checks 2 to 4 of R104). -/
def decodeC (w : BitVec 32) : Except DecodeError Instr :=
  let op := w.extractLsb' 22 8
  match cRows.find? fun r => r.op == op && r.fits w with
  | some r => accept (r.build w)
  | none =>
    if cRows.any fun r => r.op == op then .error .illegalOpcode
    else if lRows.any fun r => r.op == op then .error .illegalExtension
    else .error .illegalOpcode

/-- The instruction of a C-word with L set and its EXT (checks 2 to 4 of R104). -/
def decodeL (w x : BitVec 32) : Except DecodeError Instr :=
  let op := w.extractLsb' 22 8
  match lRows.find? fun r => r.op == op && r.fits w x with
  | some r => accept (ownRowFix (r.build w x))
  | none =>
    if lRows.any fun r => r.op == op then .error .illegalOpcode
    else if cRows.any fun r => r.op == op then .error .illegalExtension
    else .error .illegalOpcode

/-- The instruction of an A-word (checks 5 and 6 of R104). -/
def decodeA (w : BitVec 32) : Except DecodeError Instr :=
  let op := w.extractLsb' 24 7
  match aRows.find? fun r => r.op == op && r.fits w with
  | some r => accept (r.build w)
  | none => .error .illegalOpcode

/-- The decoder: total on any words, rejecting by name. A C-word's L bit must agree with its form. -/
def decode : Code → Except DecodeError Instr
  | .a w => decodeA w
  | .c w => if w.getLsbD 31 then .error .illegalExtension else decodeC w
  | .l w x => if w.getLsbD 31 then decodeL w x else .error .illegalExtension

/-- The C-word of a CSRW (op 0), CSRS (1) or CSRC (2) of register s[a] (R130). -/
def csrWord (h : CHdr) (op : BitVec 2) (a : BitVec 5) : BitVec 32 :=
  cWord 1#1 h (0xC3#8 + op.zeroExtend 8) (a ++ 0#11)

/-- The encoder: the words of an instruction, and none for an event, which has no words. -/
def encode : Instr → Option Code

  | .nop h => some (.c (cWord 0#1 h 0x00#8 (0#16)))
  | .br h o => some (.c (cWord 0#1 h 0x01#8 (o)))
  | .bri h a i => some (.c (cWord 0#1 h 0x02#8 (a ++ 0#5 ++ i)))
  | .call h o => some (.c (cWord 0#1 h 0x03#8 (o)))
  | .calli h a i => some (.c (cWord 0#1 h 0x04#8 (a ++ 0#5 ++ i)))
  | .ret h a => some (.c (cWord 0#1 h 0x05#8 (a ++ 0#11)))
  | .jtab h a b len => some (.l (cWord 1#1 h 0x06#8 (a ++ b ++ 0#6)) (0#16 ++ len))
  | .loop h k cnt => some (.l (cWord 1#1 h 0x07#8 (0#1 ++ k ++ 0#12)) (0#27 ++ cnt))
  | .loopx h o => some (.c (cWord 0#1 h 0x08#8 (o)))
  | .waitFull h a => some (.c (cWord 0#1 h 0x09#8 (a ++ 0#11)))
  | .waitEmpty h a => some (.c (cWord 0#1 h 0x09#8 (a ++ 1#11)))
  | .waitFtime h a f => some (.c (cWord 0#1 h 0x09#8 (a ++ 0#1 ++ f ++ 2#7)))
  | .waitErrq h => some (.c (cWord 0#1 h 0x09#8 (3#16)))
  | .waitCyc h a => some (.c (cWord 0#1 h 0x09#8 (a ++ 4#11)))
  | .waitHelpers h a => some (.c (cWord 0#1 h 0x09#8 (a ++ 5#11)))
  | .waitLimit h a t k lim => some (.l (cWord 1#1 h 0x09#8 (a ++ t ++ k)) (lim))
  | .waitch h a c => some (.c (cWord 0#1 h 0x0A#8 (a ++ 0#1 ++ c ++ 0#7)))
  | .waitmb h m => some (.c (cWord 0#1 h 0x0B#8 (m ++ 0#12)))
  | .start h a k => some (.c (cWord 0#1 h 0x0C#8 (a ++ k ++ 0#7)))
  | .hend h => some (.c (cWord 0#1 h 0x0D#8 (0#16)))
  | .couple h w => some (.c (cWord 0#1 h 0x0E#8 (0#12 ++ w)))
  | .uncouple h => some (.c (cWord 0#1 h 0x0F#8 (0#16)))
  | .bell h k => some (.c (cWord 0#1 h 0x10#8 (k ++ 0#12)))
  | .bellD h k => some (.c (cWord 0#1 h 0x10#8 (k ++ 2#12)))
  | .bellX h k d => some (.c (cWord 0#1 h 0x10#8 (k ++ 0#10 ++ BitVec.ofBool d ++ 1#1)))
  | .exch h => some (.c (cWord 0#1 h 0x11#8 (0#16)))
  | .exchend h => some (.c (cWord 0#1 h 0x12#8 (0#16)))
  | .round h => some (.c (cWord 0#1 h 0x13#8 (0#16)))
  | .yield h => some (.c (cWord 0#1 h 0x14#8 (0#16)))
  | .halt h => some (.c (cWord 0#1 h 0x15#8 (0#16)))
  | .ld h a b z k o => some (.c (cWord 0#1 h 0x40#8 (a ++ b ++ z ++ BitVec.ofBool k ++ o)))
  | .ldExt h a b z k off => some (.l (cWord 1#1 h 0x40#8 (a ++ b ++ z ++ BitVec.ofBool k ++ 0#3)) (off))
  | .st h a b z o => some (.c (cWord 0#1 h 0x41#8 (a ++ b ++ z ++ 0#1 ++ o)))
  | .stExt h a b z off => some (.l (cWord 1#1 h 0x41#8 (a ++ b ++ z ++ 0#4)) (off))
  | .ldp h a b o => some (.c (cWord 0#1 h 0x42#8 (a ++ b ++ 0#3 ++ o)))
  | .ldpExt h a b off => some (.l (cWord 1#1 h 0x42#8 (a ++ b ++ 0#6)) (off))
  | .stp h a b o => some (.c (cWord 0#1 h 0x43#8 (a ++ b ++ 0#3 ++ o)))
  | .stpExt h a b off => some (.l (cWord 1#1 h 0x43#8 (a ++ b ++ 0#6)) (off))
  | .ldfe h a b o => some (.c (cWord 0#1 h 0x44#8 (a ++ b ++ 0#3 ++ o)))
  | .ldfeExt h a b off => some (.l (cWord 1#1 h 0x44#8 (a ++ b ++ 0#6)) (off))
  | .ldff h a b o => some (.c (cWord 0#1 h 0x45#8 (a ++ b ++ 0#3 ++ o)))
  | .ldffExt h a b off => some (.l (cWord 1#1 h 0x45#8 (a ++ b ++ 0#6)) (off))
  | .stfe h a b o => some (.c (cWord 0#1 h 0x46#8 (a ++ b ++ 0#3 ++ o)))
  | .stfeExt h a b off => some (.l (cWord 1#1 h 0x46#8 (a ++ b ++ 0#6)) (off))
  | .stf h a b o => some (.c (cWord 0#1 h 0x47#8 (a ++ b ++ 0#3 ++ o)))
  | .stfExt h a b off => some (.l (cWord 1#1 h 0x47#8 (a ++ b ++ 0#6)) (off))
  | .lat h a b c x w op => some (.l (cWord 1#1 h 0x48#8 (a ++ b ++ c ++ BitVec.ofBool x)) (0#26 ++ w ++ op))
  | .tld h a t ch need hnd he stride => some (.l (cWord 1#1 h 0x49#8 (a ++ t ++ 0#4 ++ ch)) (0#7 ++ need ++ hnd ++ BitVec.ofBool he ++ stride))
  | .tst h a t ch need hnd he stride => some (.l (cWord 1#1 h 0x4A#8 (a ++ t ++ 0#4 ++ ch)) (0#7 ++ need ++ hnd ++ BitVec.ofBool he ++ stride))
  | .accrd h t d v r => some (.c (cWord 0#1 h 0x4B#8 (t ++ 0#1 ++ d ++ 0#4 ++ BitVec.ofBool v ++ r)))
  | .accwr h d t => some (.c (cWord 0#1 h 0x4C#8 (0#1 ++ d ++ t ++ 0#8)))
  | .accwrAdd h d t => some (.c (cWord 0#1 h 0x4C#8 (0#1 ++ d ++ t ++ 1#8)))
  | .xld h a b c x ch len => some (.l (cWord 1#1 h 0x4D#8 (a ++ b ++ c ++ BitVec.ofBool x)) (0#20 ++ ch ++ len))
  | .xst h a b c x ch len => some (.l (cWord 1#1 h 0x4E#8 (a ++ b ++ c ++ BitVec.ofBool x)) (0#20 ++ ch ++ len))
  | .xat h a b c x pk w op => some (.l (cWord 1#1 h 0x4F#8 (a ++ b ++ c ++ BitVec.ofBool x)) (0#25 ++ BitVec.ofBool pk ++ w ++ op))
  | .xatr h a b c x pk w op => some (.l (cWord 1#1 h 0x50#8 (a ++ b ++ c ++ BitVec.ofBool x)) (0#25 ++ BitVec.ofBool pk ++ w ++ op))
  | .cpy h a b c x aw nest ne ch => some (.l (cWord 1#1 h 0x51#8 (a ++ b ++ c ++ BitVec.ofBool x)) (0#24 ++ BitVec.ofBool aw ++ nest ++ BitVec.ofBool ne ++ ch))
  | .cpyd h a b c x core mb me dt nest ne ch => some (.l (cWord 1#1 h 0x52#8 (a ++ b ++ c ++ BitVec.ofBool x)) (core ++ mb ++ BitVec.ofBool me ++ 0#6 ++ dt ++ 0#1 ++ nest ++ BitVec.ofBool ne ++ ch))
  | .ndld h a k => some (.c (cWord 0#1 h 0x53#8 (a ++ 0#1 ++ k ++ 0#7)))
  | .fenceAcq h k => some (.c (cWord 0#1 h 0x54#8 (k ++ 0#12)))
  | .fenceRel h k => some (.c (cWord 0#1 h 0x54#8 (k ++ 1#12)))
  | .fenceFull h k => some (.c (cWord 0#1 h 0x54#8 (k ++ 2#12)))
  | .fenceExt h => some (.c (cWord 0#1 h 0x54#8 (4099#16)))
  | .mma h k a b r => some (.c (cWord 0#1 h 0x80#8 (0#1 ++ k ++ a ++ b ++ 0#1 ++ r)))
  | .mmaX h k a b r => some (.c (cWord 0#1 h 0x80#8 (0#1 ++ k ++ a ++ b ++ 1#1 ++ r)))
  | .mmar h a b c x k ta tb v r => some (.l (cWord 1#1 h 0x81#8 (a ++ b ++ c ++ BitVec.ofBool x)) (0#17 ++ k ++ ta ++ tb ++ BitVec.ofBool v ++ r))
  | .accz h k => some (.c (cWord 0#1 h 0x82#8 (0#1 ++ k ++ 0#12)))
  | .accxSend h a k tag => some (.l (cWord 1#1 h 0x83#8 (a ++ 0#1 ++ k ++ 0#7)) (tag))
  | .accxOpen h a k tag => some (.l (cWord 1#1 h 0x83#8 (a ++ 0#1 ++ k ++ 0#2 ++ 1#2 ++ 0#3)) (tag))
  | .accxClose h k r => some (.l (cWord 1#1 h 0x83#8 (0#6 ++ k ++ 0#2 ++ 2#2 ++ r)) (0#32))
  | .send h a b c x tag => some (.l (cWord 1#1 h 0x84#8 (a ++ b ++ c ++ BitVec.ofBool x)) (tag))
  | .sendp h a b c x fin tag => some (.l (cWord 1#1 h 0x85#8 (a ++ b ++ c ++ BitVec.ofBool x)) (BitVec.ofBool fin ++ tag))
  | .sendx h a b c x tag => some (.l (cWord 1#1 h 0x86#8 (a ++ b ++ c ++ BitVec.ofBool x)) (tag))
  | .recv h a b c x tag => some (.l (cWord 1#1 h 0x87#8 (a ++ b ++ c ++ BitVec.ofBool x)) (tag))
  | .probe h a b c x tag => some (.l (cWord 1#1 h 0x88#8 (a ++ b ++ c ++ BitVec.ofBool x)) (tag))
  | .cancel h a b => some (.c (cWord 0#1 h 0x89#8 (a ++ b ++ 0#6)))
  | .mcast h a b c x mb tag => some (.l (cWord 1#1 h 0x8A#8 (a ++ b ++ c ++ BitVec.ofBool x)) (mb ++ tag))
  | .free h a b => some (.c (cWord 0#1 h 0x8B#8 (a ++ b ++ 0#6)))
  | .ringCw h a b => some (.c (cWord 0#1 h 0x8C#8 (a ++ b ++ 0#8)))
  | .ringCcw h a b => some (.c (cWord 0#1 h 0x8C#8 (a ++ b ++ 1#8)))
  | .xsnd h a t flits cyc => some (.l (cWord 1#1 h 0x8D#8 (a ++ t ++ 0#7)) (0#4 ++ flits ++ cyc))
  | .xrcv h a t flits cyc => some (.l (cWord 1#1 h 0x8E#8 (a ++ t ++ 0#7)) (0#4 ++ flits ++ cyc))
  | .exchFlit .. => none
  | .expect h a m => some (.c (cWord 0#1 h 0x8F#8 (a ++ m ++ 0#7)))
  | .mbadd h a m => some (.c (cWord 0#1 h 0x90#8 (a ++ m ++ 0#7)))
  | .hset h a t cnt size => some (.l (cWord 1#1 h 0x91#8 (a ++ t ++ 0#7)) (0#11 ++ cnt ++ size))
  | .hwaitProd h hn q => some (.c (cWord 0#1 h 0x92#8 (hn ++ 0#8 ++ q)))
  | .hwaitCons h hn q => some (.c (cWord 0#1 h 0x92#8 (hn ++ 16#8 ++ q)))
  | .hadvProd h hn q => some (.c (cWord 0#1 h 0x93#8 (hn ++ 0#8 ++ q)))
  | .hadvCons h hn q => some (.c (cWord 0#1 h 0x93#8 (hn ++ 16#8 ++ q)))
  | .field h a f k => some (.c (cWord 0#1 h 0x94#8 (a ++ 0#1 ++ f ++ 0#4 ++ k)))
  | .evsend h a b c x fld col row => some (.l (cWord 1#1 h 0x95#8 (a ++ b ++ c ++ BitVec.ofBool x)) (0#13 ++ fld ++ col ++ row))
  | .evrun h a f => some (.c (cWord 0#1 h 0x96#8 (a ++ 0#1 ++ f ++ 0#7)))
  | .evctlUnbind h f => some (.c (cWord 0#1 h 0x97#8 (0#6 ++ f ++ 0#7)))
  | .evctlTime h a f => some (.c (cWord 0#1 h 0x97#8 (a ++ 0#1 ++ f ++ 1#7)))
  | .evctlLate h a f => some (.c (cWord 0#1 h 0x97#8 (a ++ 0#1 ++ f ++ 2#7)))
  | .evctlQlen h a f => some (.c (cWord 0#1 h 0x97#8 (a ++ 0#1 ++ f ++ 3#7)))
  | .evctlFires h a f => some (.c (cWord 0#1 h 0x97#8 (a ++ 0#1 ++ f ++ 4#7)))
  | .sft h d a r u => some (.c (cWord 0#1 h 0x98#8 (d ++ a ++ 0#1 ++ r ++ u)))
  | .sfs h a b r fn => some (.l (cWord 1#1 h 0x99#8 (a ++ b ++ 0#6)) (0#25 ++ r ++ fn))
  | .trap h a i => some (.c (cWord 0#1 h 0xC0#8 (a ++ 0#4 ++ i)))
  | .sysret h => some (.c (cWord 0#1 h 0xC1#8 (0#16)))
  | .csrr h a reg => some (.l (cWord 1#1 h 0xC2#8 (a ++ 0#11)) (0#20 ++ reg))
  | .csrw h a reg => some (.l (cWord 1#1 h 0xC3#8 (a ++ 0#11)) (0#20 ++ reg))
  | .csrs h a reg => some (.l (cWord 1#1 h 0xC4#8 (a ++ 0#11)) (0#20 ++ reg))
  | .csrc h a reg => some (.l (cWord 1#1 h 0xC5#8 (a ++ 0#11)) (0#20 ++ reg))
  | .errq h a b => some (.c (cWord 0#1 h 0xC6#8 (a ++ b ++ 0#6)))
  | .ctxsv h a k => some (.c (cWord 0#1 h 0xC7#8 (a ++ k ++ 0#7)))
  | .ctxld h a k => some (.c (cWord 0#1 h 0xC8#8 (a ++ k ++ 0#7)))
  | .accspill h a k => some (.c (cWord 0#1 h 0xC9#8 (a ++ 0#1 ++ k ++ 0#7)))
  | .accfill h a k => some (.c (cWord 0#1 h 0xCA#8 (a ++ 0#1 ++ k ++ 0#7)))
  | .peerclr h a => some (.c (cWord 0#1 h 0xCB#8 (a ++ 0#11)))
  | .bkpt h => some (.c (cWord 0#1 h 0xCC#8 (0#16)))
  | .limm h a sx imm => some (.l (cWord 1#1 h 0xCD#8 (a ++ 0#4 ++ 0#6 ++ BitVec.ofBool sx)) (imm))
  | .limmHi h a imm => some (.l (cWord 1#1 h 0xCD#8 (a ++ 0#4 ++ 0#5 ++ 2#2)) (imm))
  | .add h d a b x w => some (.a (aWord h 0x00#7 (d ++ a ++ b ++ BitVec.ofBool x ++ w)))
  | .sub h d a b x w => some (.a (aWord h 0x01#7 (d ++ a ++ b ++ BitVec.ofBool x ++ w)))
  | .addi h d a i => some (.a (aWord h 0x02#7 (d ++ a ++ i)))
  | .mul h d a b x w => some (.a (aWord h 0x03#7 (d ++ a ++ b ++ BitVec.ofBool x ++ w)))
  | .mulh h d a b x => some (.a (aWord h 0x04#7 (d ++ a ++ b ++ BitVec.ofBool x ++ 0#3)))
  | .mulhu h d a b x => some (.a (aWord h 0x05#7 (d ++ a ++ b ++ BitVec.ofBool x ++ 0#3)))
  | .div h d a b x w => some (.a (aWord h 0x06#7 (d ++ a ++ b ++ BitVec.ofBool x ++ w)))
  | .divu h d a b x w => some (.a (aWord h 0x07#7 (d ++ a ++ b ++ BitVec.ofBool x ++ w)))
  | .rem h d a b x w => some (.a (aWord h 0x08#7 (d ++ a ++ b ++ BitVec.ofBool x ++ w)))
  | .remu h d a b x w => some (.a (aWord h 0x09#7 (d ++ a ++ b ++ BitVec.ofBool x ++ w)))
  | .and h d a b x => some (.a (aWord h 0x0A#7 (d ++ a ++ b ++ BitVec.ofBool x ++ 0#3)))
  | .or h d a b x => some (.a (aWord h 0x0B#7 (d ++ a ++ b ++ BitVec.ofBool x ++ 0#3)))
  | .xor h d a b x => some (.a (aWord h 0x0C#7 (d ++ a ++ b ++ BitVec.ofBool x ++ 0#3)))
  | .andn h d a b x => some (.a (aWord h 0x0D#7 (d ++ a ++ b ++ BitVec.ofBool x ++ 0#3)))
  | .shl h d a b x w => some (.a (aWord h 0x0E#7 (d ++ a ++ b ++ BitVec.ofBool x ++ w)))
  | .shr h d a b x w => some (.a (aWord h 0x0F#7 (d ++ a ++ b ++ BitVec.ofBool x ++ w)))
  | .sar h d a b x w => some (.a (aWord h 0x10#7 (d ++ a ++ b ++ BitVec.ofBool x ++ w)))
  | .rol h d a b x w => some (.a (aWord h 0x11#7 (d ++ a ++ b ++ BitVec.ofBool x ++ w)))
  | .shli h d a w sh => some (.a (aWord h 0x12#7 (d ++ a ++ 0#2 ++ BitVec.ofBool w ++ sh)))
  | .shri h d a w sh => some (.a (aWord h 0x13#7 (d ++ a ++ 0#2 ++ BitVec.ofBool w ++ sh)))
  | .sari h d a w sh => some (.a (aWord h 0x14#7 (d ++ a ++ 0#2 ++ BitVec.ofBool w ++ sh)))
  | .clz h d a w => some (.a (aWord h 0x15#7 (d ++ a ++ 0#6 ++ w)))
  | .ctz h d a w => some (.a (aWord h 0x16#7 (d ++ a ++ 0#6 ++ w)))
  | .popc h d a w => some (.a (aWord h 0x17#7 (d ++ a ++ 0#6 ++ w)))
  | .bfx h d a b x => some (.a (aWord h 0x18#7 (d ++ a ++ b ++ BitVec.ofBool x ++ 0#3)))
  | .bfi h d a b x => some (.a (aWord h 0x19#7 (d ++ a ++ b ++ BitVec.ofBool x ++ 0#3)))
  | .min h d a b x w => some (.a (aWord h 0x1A#7 (d ++ a ++ b ++ BitVec.ofBool x ++ w)))
  | .max h d a b x w => some (.a (aWord h 0x1B#7 (d ++ a ++ b ++ BitVec.ofBool x ++ w)))
  | .minu h d a b x w => some (.a (aWord h 0x1C#7 (d ++ a ++ b ++ BitVec.ofBool x ++ w)))
  | .maxu h d a b x w => some (.a (aWord h 0x1D#7 (d ++ a ++ b ++ BitVec.ofBool x ++ w)))
  | .sel h d a b x p => some (.a (aWord h 0x1E#7 (d ++ a ++ b ++ BitVec.ofBool x ++ p)))
  | .mov h d a => some (.a (aWord h 0x1F#7 (d ++ a ++ 0#9)))
  | .cmp h p a b x c => some (.a (aWord h 0x20#7 (p ++ a ++ b ++ BitVec.ofBool x ++ c)))
  | .cmpi h p a i c => some (.a (aWord h 0x21#7 (p ++ a ++ i ++ 0#1 ++ c)))
  | .plog h p a b t => some (.a (aWord h 0x22#7 (p ++ 0#1 ++ a ++ 0#1 ++ b ++ 0#1 ++ t)))
  | .pmovGet h d => some (.a (aWord h 0x23#7 (d ++ 0#14)))
  | .pmovPut h a => some (.a (aWord h 0x23#7 (0#5 ++ a ++ 1#9)))
  | .xmov h d b => some (.a (aWord h 0x24#7 (d ++ 0#5 ++ b ++ 8#4)))
  | .xmovP h d b => some (.a (aWord h 0x24#7 (0#1 ++ d ++ 0#6 ++ b ++ 9#4)))
  | .addp h d a b x => some (.a (aWord h 0x25#7 (d ++ a ++ b ++ BitVec.ofBool x ++ 0#3)))
  | .addpE h d a b x => some (.a (aWord h 0x25#7 (d ++ a ++ b ++ BitVec.ofBool x ++ 1#3)))
  | .pfmt h d a i => some (.a (aWord h 0x26#7 (d ++ a ++ 0#1 ++ i)))
  | .pfld h d a f => some (.a (aWord h 0x27#7 (d ++ a ++ 0#7 ++ f)))
  | .gdistCore h d a b x t => some (.a (aWord h 0x28#7 (d ++ a ++ b ++ BitVec.ofBool x ++ 0#1 ++ t)))
  | .gdistOff h d a b x t => some (.a (aWord h 0x28#7 (d ++ a ++ b ++ BitVec.ofBool x ++ 1#1 ++ t)))
  | .fadd h d a b x r => some (.a (aWord h 0x29#7 (d ++ a ++ b ++ BitVec.ofBool x ++ r)))
  | .fsub h d a b x r => some (.a (aWord h 0x2A#7 (d ++ a ++ b ++ BitVec.ofBool x ++ r)))
  | .fmul h d a b x r => some (.a (aWord h 0x2B#7 (d ++ a ++ b ++ BitVec.ofBool x ++ r)))
  | .ffma h d a b x r => some (.a (aWord h 0x2C#7 (d ++ a ++ b ++ BitVec.ofBool x ++ r)))
  | .fmin h d a b x => some (.a (aWord h 0x2D#7 (d ++ a ++ b ++ BitVec.ofBool x ++ 0#3)))
  | .fmax h d a b x => some (.a (aWord h 0x2E#7 (d ++ a ++ b ++ BitVec.ofBool x ++ 0#3)))
  | .fcmp h p a b x c => some (.a (aWord h 0x2F#7 (p ++ a ++ b ++ BitVec.ofBool x ++ c)))
  | .fcvt h d a k r => some (.a (aWord h 0x30#7 (d ++ a ++ k ++ 0#1 ++ r)))
  | .fclass h d a => some (.a (aWord h 0x31#7 (d ++ a ++ 0#9)))
  | .tadd h d a b m v r => some (.a (aWord h 0x40#7 (d ++ a ++ b ++ m ++ BitVec.ofBool v ++ r)))
  | .tsub h d a b m v r => some (.a (aWord h 0x41#7 (d ++ a ++ b ++ m ++ BitVec.ofBool v ++ r)))
  | .tmul h d a b m v r => some (.a (aWord h 0x42#7 (d ++ a ++ b ++ m ++ BitVec.ofBool v ++ r)))
  | .tfma h d a b m v r => some (.a (aWord h 0x43#7 (d ++ a ++ b ++ m ++ BitVec.ofBool v ++ r)))
  | .tmax h d a b m => some (.a (aWord h 0x44#7 (d ++ a ++ b ++ m ++ 0#4)))
  | .tmin h d a b m => some (.a (aWord h 0x45#7 (d ++ a ++ b ++ m ++ 0#4)))
  | .tabs h d a m => some (.a (aWord h 0x46#7 (d ++ a ++ 0#4 ++ m ++ 0#4)))
  | .tneg h d a m => some (.a (aWord h 0x47#7 (d ++ a ++ 0#4 ++ m ++ 0#4)))
  | .tcvt h d a k m r => some (.a (aWord h 0x48#7 (d ++ a ++ k ++ m ++ 0#1 ++ r)))
  | .tqnt h d a t m r => some (.a (aWord h 0x49#7 (d ++ a ++ 0#2 ++ t ++ m ++ 0#1 ++ r)))
  | .tdq h d a k m r => some (.a (aWord h 0x4A#7 (d ++ a ++ k ++ m ++ 0#1 ++ r)))
  | .tscl h d a b m v r => some (.a (aWord h 0x4B#7 (d ++ a ++ b ++ m ++ BitVec.ofBool v ++ r)))
  | .tand h d a b m => some (.a (aWord h 0x4C#7 (d ++ a ++ b ++ m ++ 0#4)))
  | .tor h d a b m => some (.a (aWord h 0x4D#7 (d ++ a ++ b ++ m ++ 0#4)))
  | .txor h d a b m => some (.a (aWord h 0x4E#7 (d ++ a ++ b ++ m ++ 0#4)))
  | .tshl h d a b m => some (.a (aWord h 0x4F#7 (d ++ a ++ b ++ m ++ 0#4)))
  | .tshr h d a b m k => some (.a (aWord h 0x50#7 (d ++ a ++ b ++ m ++ 0#3 ++ BitVec.ofBool k)))
  | .tcmp h k a b m c => some (.a (aWord h 0x51#7 (0#1 ++ k ++ a ++ b ++ m ++ c)))
  | .tsel h d a b m => some (.a (aWord h 0x52#7 (d ++ a ++ b ++ m ++ 0#4)))
  | .tcas h d a b m o c => some (.a (aWord h 0x53#7 (d ++ a ++ b ++ m ++ 0#2 ++ BitVec.ofBool o ++ BitVec.ofBool c)))
  | .tmaxi h d a b m c => some (.a (aWord h 0x54#7 (d ++ a ++ b ++ m ++ 0#3 ++ BitVec.ofBool c)))
  | .tmini h d a b m c => some (.a (aWord h 0x55#7 (d ++ a ++ b ++ m ++ 0#3 ++ BitVec.ofBool c)))
  | .tredSum h d a c m r => some (.a (aWord h 0x56#7 (d ++ a ++ 0#1 ++ BitVec.ofBool c ++ 0#2 ++ m ++ 0#1 ++ r)))
  | .tredMax h d a c m r => some (.a (aWord h 0x56#7 (d ++ a ++ 0#1 ++ BitVec.ofBool c ++ 1#2 ++ m ++ 0#1 ++ r)))
  | .tredMin h d a c m r => some (.a (aWord h 0x56#7 (d ++ a ++ 0#1 ++ BitVec.ofBool c ++ 2#2 ++ m ++ 0#1 ++ r)))
  | .tbc h d a m c => some (.a (aWord h 0x57#7 (d ++ a ++ 0#4 ++ m ++ 0#3 ++ BitVec.ofBool c)))
  | .ttr h d a m => some (.a (aWord h 0x58#7 (d ++ a ++ 0#4 ++ m ++ 0#4)))
  | .tslc h d a b m => some (.a (aWord h 0x59#7 (d ++ a ++ b ++ m ++ 0#4)))
  | .tidx h d m c => some (.a (aWord h 0x5A#7 (d ++ 0#8 ++ m ++ 0#3 ++ BitVec.ofBool c)))
  | .tmov h d a m => some (.a (aWord h 0x5B#7 (d ++ a ++ 0#4 ++ m ++ 0#4)))
  | .tfill h d m => some (.a (aWord h 0x5C#7 (d ++ 0#8 ++ m ++ 0#4)))
  | .mlog h j k l m t => some (.a (aWord h 0x5D#7 (0#1 ++ j ++ 0#1 ++ k ++ 0#1 ++ l ++ m ++ t)))
  | .mcnt h d k m => some (.a (aWord h 0x5E#7 (d ++ 0#1 ++ k ++ 0#4 ++ m ++ 0#4)))
  | .splimWrite h op a => some (.l (csrWord h op a) (0#20 ++ (273#12 : BitVec 12)))
  | .spbaseWrite h op a => some (.l (csrWord h op a) (0#20 ++ (272#12 : BitVec 12)))
  | .tshapeWrite h op a k => some (.l (csrWord h op a) (0#20 ++ (1#8 ++ k : BitVec 12)))
  | .adWrite h op a k => some (.l (csrWord h op a) (0#20 ++ (4#9 ++ k : BitVec 12)))
  | .accownWrite h op a => some (.l (csrWord h op a) (0#20 ++ (274#12 : BitVec 12)))
  | .tileownWrite h op a => some (.l (csrWord h op a) (0#20 ++ (275#12 : BitVec 12)))
  | .trestartWrite h op a => some (.l (csrWord h op a) (0#20 ++ (10#12 : BitVec 12)))
  | .extentWrite h op a t k => some (.l (csrWord h op a) (0#20 ++ (6#6 ++ t ++ k : BitVec 12)))
  | .errqsWrite h op a => some (.l (csrWord h op a) (0#20 ++ (80#12 : BitVec 12)))
  | .srlfsrWrite h op a => some (.l (csrWord h op a) (0#20 ++ (8#12 : BitVec 12)))
  | .vshareWrite h op a => some (.l (csrWord h op a) (0#20 ++ (9#12 : BitVec 12)))
  | .capkeyWrite h op a hi => some (.l (csrWord h op a) (0#20 ++ (140#11 ++ BitVec.ofBool hi : BitVec 12)))
  | .releaseAcc .. => none
  | .releaseTile .. => none
  | .dptimeoutWrite .. => none
  | .pendingResultWrite .. => none
  | .taskStepEnd .. => none
  | .xldResponse .. => none
  | .xatrResponse .. => none
  | .serverAck .. => none
  | .serverRequest .. => none
  | .weighhouseAtomic .. => none
  | .porterActiveMessage .. => none
  | .porterLanding .. => none
  | .porterCompletionReport .. => none
  | .peerDeadResponse .. => none
  | .eagerArrival .. => none
  | .rendezvousArrival .. => none
  | .landingComplete .. => none
  | .acceptanceNotice .. => none
  | .demotionNotice .. => none
  | .refusalNotice .. => none
  | .clearToSend .. => none
  | .sendAcknowledged .. => none
  | .destEnded .. => none
  | .markerArrival .. => none
  | .eventArrival .. => none
  | .mmarCommandArrival .. => none
  | .accxMessageArrival .. => none
  | .freeTokenCombine .. => none
  | .freeTokenArrival .. => none
  | .senderErrorReport .. => none
  | .waitLimitLapse .. => none
  | .bellRelease .. => none
  | .ringTransfer .. => none
  | .groupClearDone .. => none
  | .foremanDispatch .. => none
  | .leaveGrant .. => none
  | .sfuServe .. => none
  | .sfuRequestDone .. => none
  | .vectorBind .. => none
  | .sliceExpiry .. => none
  | .sliceIdle .. => none
  | .roundSliceLimit .. => none
  | .residencySwitch .. => none
  | .residencySwitchDone .. => none
  | .slotCopyDone .. => none
  | .serverLockRead .. => none
  | .serverWriteUnlock .. => none
  | .scrub .. => none
  | .weighhouseLockData .. => none
  | .sourceTimeout .. => none
  | .coreMachineCheck .. => none
  | .pigeonholeCopyDone .. => none
  | .retryTimer .. => none
  | .localCompletion .. => none
  | .eventDeliver .. => none
  | .fieldAdvance .. => none
  | .dispatcherLaunch .. => none
  | .headReserving .. => none
  | .crewDrained .. => none
  | .crewStart .. => none
  | .startMessage .. => none
  | .workOrderComplete .. => none
  | .workOrderTimeout .. => none
  | .recordFetch .. => none
  | .qtailWrite .. => none
  | .qctlWrite .. => none
  | .qstatWrite .. => none
  | .counterWrite .. => none
  | .recoveryCommit .. => none
  | .packageReset .. => none
  | .dieResetExit .. => none
  | .attestationStart .. => none
  | .version .. => none
  | .capabilities .. => none
  | .algorithms .. => none
  | .digests .. => none
  | .certificate .. => none
  | .challengeAuth .. => none
  | .measurements .. => none
  | .keyExchangeRsp .. => none
  | .finishRsp .. => none
  | .spdmTimeout .. => none
  | .keyInstall .. => none
  | .keyAck .. => none
  | .linkOpen .. => none
  | .keySwitch .. => none
  | .keyRetired .. => none
  | .keyAckTimeout .. => none
  | .keyRetiredTimeout .. => none
  | .rolloverTrigger .. => none
  | .generationLimit .. => none
  | .flitReceive .. => none
  | .replayRequest .. => none
  | .idleFlit .. => none
  | .linkDown .. => none
  | .loneReset .. => none
  | .actlReset .. => none
  | .actlReattest .. => none
  | .hostSpdmRequest .. => none
  | .lockInterfaceRequest .. => none
  | .getDeviceInterfaceReport .. => none
  | .startInterfaceRequest .. => none
  | .stopInterfaceRequest .. => none
  | .tdispError .. => none
  | .extentGrant .. => none
  | .enclaveManifest .. => none
  | .revocationStatement .. => none
  | .junctionOverheat .. => none
  | .junctionCooled .. => none
  | .thermalShutdown .. => none
  | .xstSourceRead .. => none
  | .serverClearDone .. => none
  | .startTableStepEnd .. => none
  | .portFailure .. => none
  | .limitWrite .. => none

/-- The number whose low 8n bits are the bytes of a list, lowest address first (R4). -/
def ofBytes : List (BitVec 8) → Nat
  | [] => 0
  | b :: t => b.toNat + 256 * ofBytes t

/-- The `n` bytes of a number, lowest address first (R4). -/
def toBytes : Nat → Nat → List (BitVec 8)
  | 0, _ => []
  | n + 1, x => BitVec.ofNat 8 x :: toBytes n (x / 256)

/-- The instruction that a table word stands for: the word's bytes laid out as the store holds them and read by the decoder.
A 32-bit word is read as word 1 of a pair, a C-word, and where no C-word row takes it as word 2, an A-word (log entry 4).
A longer one is the pair: the C-word first, then word 2 as its L bit says. -/
def decodeTableWord (nbits w : Nat) : Option Instr :=
  let bytes := toBytes 8 w
  let lo := BitVec.ofNat 32 (ofBytes (bytes.take 4))
  let hi := BitVec.ofNat 32 (ofBytes (bytes.drop 4))
  if nbits ≤ 32 then
    match (if lo.getLsbD 31 then decode (.l lo 0#32) else decode (.c lo)) with
    | .ok i => some i
    | .error _ => (decode (.a lo)).toOption
  else if lo.getLsbD 31 then (decode (.l lo hi)).toOption
  else (decode (.c lo)).toOption

end Sys2Proof
end

