-- ==== Sys2Proof/Config.lean ====
section
/-!
DEFINITION. What an implementation fixes and the values the spec leaves open.
An open value is a constant with no body, so nothing can evaluate it and a statement about it holds for every value.
-/

namespace Sys2Proof.Config

/-- The FP32 value the special-function unit returns for function `fn` and input `x` where R81 states no exact result (R80). Log entry 7. -/
opaque sfuValue (fn : BitVec 4) (x : BitVec 32) : BitVec 32

/-- Whether package `p` is of silicon revision B (R437). Log entry 9. -/
opaque revisionB (p : Nat) : Bool

/-- The identity seed fused into die `d` at manufacture (R441). Log entry 39. -/
opaque identitySeed (d : Nat) : BitVec 256

/-- Certificate `i` of the chain stored in die `d`, the root first (R442). Log entry 39. -/
opaque certificate (d i : Nat) : List Byte

/-- The SHA-512 hash of the root certificate, fused into die `d` (R442). Log entry 39. -/
opaque rootHash (d : Nat) : List Byte

/-- Serial number and silicon revision that the certificate of die `d` carries (R442). Log entry 39. -/
opaque dieSerial (d : Nat) : Word
opaque dieRevision (d : Nat) : Nat

/-- Places of a Porter's read buffer beyond the first (R422, which gives no number). Log entry 68. -/
opaque porterBuffer : Nat

/-- A value the spec does not state, fresh for each value of the counter. Log entry 8. -/
opaque freeValue : Nat → Word

end Sys2Proof.Config
end

