-- ==== Sys2Proof/Machine/Parts.lean ====
section
/-!
DEFINITION. The parts of the state that a core holds and shares, as plain data: contexts, residencies, the core, and the units of its cluster, die and servers, with their values after reset.
One core is under view with its four residencies; beside it stand the units of its cluster, die and package, and the queue of arrivals that come from outside (log entry 1).
-/

namespace Sys2Proof.Machine

open Sys2Proof

/-! ### One context (R27) -/

/-- The destination of a scalar or predicate result. -/
inductive Dest where
  /-- s0 to s63. -/
  | s (r : BitVec 6)
  /-- p0 to p31. -/
  | p (r : BitVec 5)
  deriving DecidableEq, Repr

/-- A result in flight (R99): it lands at the `rem`-th bundle of its context from now. -/
structure Flight where
  dest : Dest
  val : Word
  rem : Nat
  deriving DecidableEq, Repr

/-- FREE, LIVE or HELD. -/
inductive CtxStatus where
  | free
  | live
  | held
  deriving DecidableEq, Repr

/-- A nest descriptor (R201): six bounds, six strides, four stream words. -/
structure Nest where
  bound : Vector (BitVec 16) 6
  stride : Vector (BitVec 32) 6
  stream : Vector (BitVec 16) 4
  deriving DecidableEq, Repr

/-- The loop-buffer state (R159, R386). -/
structure LoopBuf where
  nest : Nest
  idx : Vector (BitVec 16) 6
  base : Vector Word 4
  /-- First pair of the body. -/
  first : Pair
  /-- Body length less one. -/
  count : BitVec 5
  active : Bool
  /-- Bundles of the current pass already executed. -/
  done : Nat
  deriving DecidableEq, Repr

/-- The trap record (R206): CAUSE, PC, FROM, INFO0, INFO1. -/
structure TrapRec where
  cause : BitVec 7
  pc : Pair
  frm : Pair
  info0 : Word
  info1 : Word
  deriving DecidableEq, Repr

/-- A cause of kind N waiting for the next bundle of its context (R368). -/
structure PendingCause where
  cause : BitVec 7
  info0 : Word
  info1 : Word
  deriving DecidableEq, Repr

/-- The SFU replay record (R386). -/
structure SfuReplay where
  pair : Pair
  /-- It is a request of SFS, rather than of an SFT task. -/
  scalar : Bool
  mode : BitVec 3
  fn : BitVec 4
  rowBlock : Nat
  operand : Word
  sup : Bool
  /-- The scalar register that an SFS writes. -/
  dest : BitVec 6
  /-- The LFSR value that an SFS under SR took at issue (R68). -/
  lfsr : Option (BitVec 32)
  deriving DecidableEq, Repr

/-- A request in an SFU FIFO (R238). -/
structure SfuReq where
  pair : Pair
  scalar : Bool
  mode : BitVec 3
  fn : BitVec 4
  rowBlock : Nat
  operand : Word
  /-- MODE at issue, for a request of SFS. -/
  sup : Bool
  /-- The scalar register that an SFS writes. -/
  dest : BitVec 6
  /-- The LFSR value that an SFS under SR took at issue (R68). -/
  lfsr : Option (BitVec 32)
  deriving DecidableEq, Repr

/-- A response for which the context's next bundle waits (R195, R239). -/
structure Await where
  /-- The request's number. -/
  id : Nat
  /-- Where the result goes. -/
  dest : Dest
  /-- The second register of a 128-bit result. -/
  dest2 : Option Dest
  /-- MODE at issue. -/
  mode : Bool
  /-- The result of an SFS. -/
  sfu : Bool
  deriving DecidableEq, Repr

/-- What a context waits for before its next bundle, once its BELL or ROUND has issued (R173, R175). -/
inductive Block where
  /-- The release of hardware bell k of the die, or of the I/O die. -/
  | bell (cross : Bool) (k : BitVec 5)
  /-- The round edge. -/
  | round
  deriving DecidableEq, Repr

/-- One context. -/
structure Ctx where
  s : Vector Word 64
  p : Vector Bool 32
  pc : Pair
  /-- 1 in supervisor mode. -/
  mode : Bool
  status : CtxStatus
  loop : LoopBuf
  /-- The user loop that a trap suspended (R161). -/
  aside : Option LoopBuf
  trap : TrapRec
  /-- First pair of the bundle issued last (R98). -/
  last : Pair
  /-- Results in flight of the present mode. -/
  flight : List Flight
  /-- User results frozen while MODE is 1 (R102). -/
  frozen : List Flight
  pending : List PendingCause
  replay : Option SfuReplay
  /-- Requests of SFS behind the recorded one, kept over a switch. -/
  sfuKept : List SfuReq
  awaits : List Await
  /-- Cycle in which the WAIT at the present bundle was first held (R163, R164). -/
  heldAt : Option (BitVec 64)
  /-- What came first at a timed WAIT that has been held: its condition (true) or its limit (R164). -/
  verdict : Option Bool
  /-- The user bundle that a trap interrupted while it was held, the cycle in which its wait began, and what had come first there (R164, R368). -/
  heldAside : Option (Pair × BitVec 64 × Option Bool)
  /-- The yield set (R170). -/
  yields : List CtxNo
  /-- Cycle before which the context issues nothing: a packet copy (R261), a spill (R211). -/
  busyUntil : BitVec 64
  /-- The present bundle's coupling has been announced (R171). -/
  arrived : Bool
  /-- The releases and the edge for which its next bundle of a mode waits, with MODE at issue: a handler that interrupts the wait may begin one of its own. -/
  blocked : List (Block × Bool)
  /-- Buffered writes from which its loads were served (R202). -/
  served : List Nat
  scratch : Vector Word 16
  /-- How many frozen results and results in flight the last save of the residency wrote (R386, log entry 20). -/
  saved : Nat × Nat
  deriving DecidableEq, Repr

/-! ### One residency (R29, R31) -/

/-- The fields of TSHAPE.n (R32). -/
structure Shape where
  ew : BitVec 3
  rows : BitVec 9
  cols : BitVec 10
  deriving DecidableEq, Repr

/-- The fields of ADn (R186). -/
structure AccDesc where
  rblk : BitVec 3
  cblk : BitVec 3
  rows : BitVec 9
  cols : BitVec 9
  deriving DecidableEq, Repr

/-- A circular-buffer handle (R278). -/
structure Handle where
  base : Word
  /-- SLOT ÷ 8. -/
  slot8 : BitVec 13
  /-- NSLOT − 1. -/
  nslot1 : BitVec 8
  prod : BitVec 32
  cons : BitVec 32
  defined : Bool
  deriving DecidableEq, Repr

/-- A transfer channel (R185). -/
structure Chan where
  next : BitVec 32
  done : BitVec 32
  /-- IDs completed above CHDONE. -/
  ahead : List (BitVec 32)
  deriving DecidableEq, Repr

/-- A byte-counting mailbox (R275). -/
structure Mbox where
  count : BitVec 48
  target : BitVec 48
  posted : Bool
  trips : BitVec 4
  excess : Bool
  deriving DecidableEq, Repr

/-- An event field (R353) with its parameters (R354). -/
structure EvField where
  bound : Bool
  ad : BitVec 3
  rect : AccDesc
  leak : BitVec 32
  theta : BitVec 32
  reset : BitVec 2
  out : BitVec 2
  mb : BitVec 4
  ref : BitVec 8
  delay : BitVec 32
  tpr : BitVec 32
  ptr : Word
  t : BitVec 32
  run : BitVec 32
  late : BitVec 32
  sticky : Bool
  fires : BitVec 32
  deriving DecidableEq, Repr

/-- One extent entry: its three registers (R189). -/
structure Extent where
  a : Word
  b : Word
  c : Word
  deriving DecidableEq, Repr

/-- An error-queue entry: its four words (R209). -/
structure ErrEntry where
  w0 : Word
  w8 : Word
  w16 : Word
  w24 : Word
  deriving DecidableEq, Repr

/-- A deferred error (R192): where it was recorded and the information it raises. -/
structure Deferred where
  cause : BitVec 7
  pair : Pair
  chan : BitVec 3
  tid : BitVec 32
  addr : Word
  /-- The range-table entry that stays, marked failed. -/
  range : Option (Fin 32)
  /-- The tile whose data were not written. -/
  tile : Option (BitVec 4)
  /-- Its place among the errors recorded on the core: of several, the first recorded is raised (R302). -/
  no : Nat
  deriving DecidableEq, Repr

/-- A mesh router: its die, row and column (R420). -/
structure RouterAt where
  die : Nat
  row : Nat
  col : Nat
  deriving DecidableEq, Repr

/-- A group of the residency's group table (R255). -/
structure Group where
  num : BitVec 16
  members : List Rank
  /-- The multicast tree of the residency's own core: the routers on it (R340). -/
  tree : List RouterAt
  /-- The eager threshold in bytes. -/
  eager : Nat
  deriving DecidableEq, Repr

/-- A receive, posted or matched (R265). -/
structure Recv where
  /-- The source word. -/
  srcWord : Word
  tag : BitVec 32
  group : BitVec 16
  buf : Word
  len : Nat
  mbox : Option (BitVec 4)
  deriving DecidableEq, Repr

/-- A matched receive, its message, and how its data come. -/
structure Landed where
  recv : Recv
  msg : Message
  /-- Units of the pigeonholes still held by the message (R321). -/
  units : List Nat
  /-- The STALL entry of the buffer, once the range table had room. -/
  range : Option (Fin 32)
  /-- The message's number in arrival order. -/
  no : Nat
  /-- Its landing has begun, or its clear-to-send has gone. -/
  started : Bool
  /-- Cycle in which its copy from the pigeonholes ends (R321). -/
  due : Option (BitVec 64)
  /-- Its residency has ended with the data in flight: they are discarded (R490). -/
  dropped : Bool
  deriving DecidableEq, Repr

/-- An unexpected message (R317): in the pigeonholes when it holds units, else in the envelope pool. -/
structure Held where
  no : Nat
  msg : Message
  units : List Nat
  deriving DecidableEq, Repr

/-- An open reduction (R235). -/
structure Reduction where
  ad : BitVec 3
  rect : AccDesc
  tag : BitVec 32
  expect : Nat
  got : Nat
  /-- The ACCX.open has been dispatched. -/
  bound : Bool
  /-- Its ACCX.close has issued. -/
  closing : Bool
  deriving DecidableEq, Repr

/-- A stream's sequence numbers: the next SEQ sent or accepted, a refused SEQ that holds the stream, and the last SEQ refused behind it (R315, R324, R325). -/
structure Stream where
  src : Rank
  dst : Rank
  group : BitVec 16
  seq : BitVec 16
  refused : Option (BitVec 16)
  owed : Option (BitVec 16)
  deriving DecidableEq, Repr

/-- A multicast not yet finished (R269, R342). -/
structure Mcast where
  group : BitVec 16
  num : BitVec 16
  mbox : BitVec 4
  tag : BitVec 32
  /-- Receivers that still owe their token. -/
  owed : List Rank
  deriving DecidableEq, Repr

/-- An entry of the multicast copy table (R270). -/
structure Copied where
  sender : Rank
  group : BitVec 16
  num : BitVec 16
  buf : Word
  deriving DecidableEq, Repr

/-- An input of the residency's channel set, and how far its markers have come (R347, R352). -/
structure Input where
  peer : Rank
  /-- Marker accepted for the present round; nothing more is accepted until the edge. -/
  marked : Bool
  closed : Bool
  deriving DecidableEq, Repr

/-- Where a residency stands. -/
inductive Phase where
  /-- No residency. -/
  | absent
  /-- Its messaging state is live and its start message has not come (R400). -/
  | placed
  /-- Started and not ended. -/
  | live
  /-- Frozen at a round edge for pre-emption (R406). -/
  | frozen
  /-- Ended by HALT. -/
  | halted
  /-- Ended by a fault. -/
  | faulted
  /-- Ended by its time limit. -/
  | timedOut
  deriving DecidableEq, Repr

/-- One residency. -/
structure Res where
  phase : Phase
  /-- It has issued before, so a switch reloads its save area (R384). -/
  issued : Bool
  /-- Its work order and crew. -/
  order : Nat
  crew : BitVec 16
  /-- Logical cores of the crew, and of the work order (R52). -/
  members : List Nat
  orderCores : List Nat
  level : BitVec 2
  spbase : BitVec 9
  splimit : BitVec 10
  phsz : BitVec 5
  accOwn : Bool
  accLive : BitVec 8
  tileOwn : Bool
  tlive : BitVec 16
  /-- Bits 1 to 7. -/
  mlive : BitVec 8
  tenant : BitVec 6
  codeFirst : Pair
  codeLast : Pair
  handler : Pair
  capkey : BitVec 128
  extents : Vector Extent 16
  extentsPending : Vector Extent 16
  rank : BitVec 27
  errq : List ErrEntry
  errOvf : Bool
  deadPeers : List Nat
  ctx : Vector Ctx 11
  tshape : Vector Shape 16
  ad : Vector AccDesc 8
  handles : Vector Handle 16
  chans : Vector Chan 8
  mboxes : Vector Mbox 16
  fields : Vector EvField 8
  nests : Vector Nest 8
  dt : Vector Word 16
  lfsr : BitVec 32
  vshare : BitVec 4
  round : BitVec 32
  /-- Hardware bells of the crew's bells (R335). -/
  bellOf : Vector (BitVec 4) 16
  crossOf : Vector (BitVec 5) 16
  /-- The round at whose edge a pre-emption freezes it (R406). -/
  preempt : Option (BitVec 32)
  /-- The crew's channel set is not empty, so the residency is round-sliced (R404). -/
  channels : Bool
  inputs : List Input
  outputs : List Rank
  deferred : List Deferred
  groups : List Group
  /-- Exchange send and receive slots: the other core's logical number (R272). -/
  sendSlots : Vector (Option Nat) 16
  recvSlots : Vector (Option Nat) 16
  /-- Declared phase length L (R415). -/
  phaseLen : Nat
  posted : List Recv
  matched : List Landed
  held : List Held
  /-- Messages accepted so far. -/
  arrivals : Nat
  copies : List Copied
  mcasts : List Mcast
  mcastNext : List (BitVec 16 × BitVec 16)
  reductions : List Reduction
  /-- Reply to a first-use trap raised for a task: no task dispatches until the handler returns (R37, R221). -/
  tasksHeld : Bool
  /-- The event engine waits for the handler of a first-use trap (R358). -/
  engineHeld : Bool
  /-- Cycles of the present slice, and of its round extension (R403, R404). -/
  slice : Nat
  extended : Bool
  idle : Nat
  /-- The channel, mailbox and header words of its save area as they were last written (R384). -/
  savedOwn : List Nat
  deriving DecidableEq, Repr

/-! ### The core -/

/-- STALL or TRAP (R302). -/
inductive RangeKind where
  | stall
  | trap
  deriving DecidableEq, Repr

/-- A range-table entry (R302, R388). -/
structure RangeEnt where
  kind : RangeKind
  /-- First and last byte, as offsets of the local map. -/
  lo : Nat
  hi : Nat
  /-- The first byte where it stood at registration: a physical scratchpad byte, or the offset elsewhere. -/
  phys : Nat
  res : ResNo
  failed : Bool
  deriving DecidableEq, Repr

/-- A tile task in the Foreman (R215, R387). -/
structure Task where
  instr : Instr
  pair : Pair
  ctx : CtxNo
  res : ResNo
  /-- Shape snapshots in operand order. -/
  shapes : List Shape
  desc : AccDesc
  /-- Format and block-length tags per tile, in operand order. -/
  fmts : List (BitVec 5)
  blgs : List (BitVec 3)
  /-- Scalar operand taken at issue: area address, rank or tick. -/
  operand : Word
  /-- The transfer ID of a TLD or TST. -/
  tid : BitVec 32
  /-- The sequence number stamped on the scale bytes of an N4 transfer, where the side band has changed it (R63). -/
  scaleSeq : Option (BitVec 16)
  range : Option (Fin 32)
  dispatched : Bool
  stopped : Bool
  /-- It waits for a lane group, power leave or the SFU, and may not step. -/
  parked : Bool
  /-- Restart position (R220). -/
  pos : Nat
  jb : Nat
  kb : Nat
  /-- Where the notice of an MMAR command goes. -/
  notice : Option (Rank × BitVec 4)
  /-- It is an MMAR command of another core. -/
  remote : Bool
  /-- It holds power leave (R415). -/
  heavy : Bool
  /-- The send that an ACCX.send will fill (R234). -/
  sendId : Nat
  /-- The lane group it is bound to (R412). -/
  lane : Option (BitVec 2)
  /-- Its place in the order of dispatch (R221, R387), and the LFSR from which its steps take their values (R68). -/
  seq : Nat
  lfsr : BitVec 32
  /-- The LFSR as its dispatch left it, from which a stopped task gives its values back (R68). -/
  lfsrEnd : BitVec 32
  /-- Its number, in issue order, by which later steps name it. -/
  id : Nat
  deriving DecidableEq, Repr

/-- A server access in progress (R191 to R200). -/
structure Req where
  id : Nat
  res : ResNo
  /-- The work order of its residency. -/
  order : Nat
  ctx : CtxNo
  pair : Pair
  /-- XLD 0, XST 1, XAT 2, XATR 3, CPY 4, CPYD 5. -/
  kind : BitVec 3
  chan : Option (BitVec 3 × BitVec 32)
  /-- The tenant pointer. -/
  ptr : Word
  /-- Package that holds the memory, that of a copy's destination in server memory, and peer endpoint once routed. -/
  pkg : Nat
  dpkg : Nat
  endpoint : Nat
  /-- The server bytes it touches: first key and length, the package included. -/
  spans : List (Nat × Nat)
  /-- Of these, the bytes that a copy writes. -/
  dspans : List (Nat × Nat)
  /-- The atomic of an XAT or XATR, once relocated. -/
  atom : Option Atomic
  /-- The other end: destination of an XLD or CPY, source of an XST, as a local offset or tenant address. -/
  local_ : Word
  len : Nat
  /-- Parts still to answer or to land, and bytes returned by offset. -/
  parts : Nat
  got : List (Nat × Byte)
  fail : Option ServerFail
  range : Option (Fin 32)
  slot : Bool
  ack : Bool
  /-- It is held in the cluster store buffer (R293). -/
  buffered : Bool
  /-- The copy to the destination is under way (R481); a copy is held at its Porter (R433). -/
  copying : Bool
  /-- Word of EXT, reported with NOT_IMPLEMENTED. -/
  ext : BitVec 32
  /-- The residency ended with this transfer in flight: its data are discarded (R490). -/
  dropped : Bool
  /-- For a copy: nest, distribution word, first core, mailbox, add-on-write. -/
  nest : Option Nest
  dt0 : Word
  core0 : Nat
  mbox : Option (BitVec 4)
  add : Bool
  total : Nat
  extents : Vector Extent 16
  dst : Word
  /-- Its Porter, and the binding of the work order that it carries: logical and physical cores (R429, R433). -/
  porter : Rank
  binding : List (Nat × Nat)
  /-- Source pieces whose reads have been sent, those still unanswered, and the answers that wait for the rest of their chunk (R422, R434). -/
  next : Nat
  out : Nat
  answers : List (Nat × List Byte × Option ServerFail)
  /-- Cycle in which its source timer expires; none within the package (R393). -/
  due : Option (BitVec 64)
  deriving DecidableEq, Repr

/-- A write, an atomic or a copy to server memory in the cluster store buffer (R202, R293, R432). -/
structure Buffered where
  id : Nat
  /-- It is the core's under view, rather than another core's of the cluster. -/
  own : Bool
  part : Nat
  pkg : Nat
  addr : Nat
  data : List Byte
  /-- An atomic or a copy: it serves no read, and an access to its bytes waits until it is acknowledged. -/
  atomic : Bool
  deriving DecidableEq, Repr

/-- Where a send stands (R333). -/
inductive SendState where
  /-- Waiting for the release of R299 before its envelope leaves. -/
  | waiting
  | eagerOut
  | rdvOut
  | backoff
  | waitCts
  | dataOut
  deriving DecidableEq, Repr

/-- A send in progress (R257, R333). -/
structure Send where
  id : Nat
  res : ResNo
  ctx : CtxNo
  pair : Pair
  msg : Message
  buf : Word
  state : SendState
  range : Option (Fin 32)
  mbox : Option (BitVec 4)
  /-- Local completion has been reached. -/
  local_ : Bool
  /-- Retries sent (R324). -/
  tries : Nat
  /-- Cycle in which its source timer expires (R393), and in which its next retry leaves (R324). -/
  due : Option (BitVec 64)
  retryAt : Option (BitVec 64)
  /-- The expert table's rank whose counter is charged (R344). -/
  charged : Bool
  /-- Its data stand in its message: a packet, or the partials of a reduction (R234, R261). -/
  kept : Bool
  /-- It has been acknowledged (R257). -/
  acked : Bool
  /-- A report has come for it, by its number (R330). -/
  reported : Bool
  deriving DecidableEq, Repr

/-- The open packet (R261). -/
structure Packet where
  owner : CtxNo
  res : ResNo
  dest : Rank
  group : BitVec 16
  tag : BitVec 32
  data : List Byte
  blg : BitVec 3
  scales : List Byte
  mbox : Option (BitVec 4)
  /-- Bundles the owner has issued since the opening one, it counted (R262). -/
  bundles : Nat
  /-- Pair of the opening SENDP. -/
  pair : Pair
  deriving DecidableEq, Repr

/-- A queued event (R357). -/
structure QEvent where
  res : ResNo
  ev : EventRec
  deriving DecidableEq, Repr

/-- An advance of a field in progress: the field as it stood at its beginning, and the cycles that have been written (R360). -/
structure EngineRun where
  fld : EvField
  done : Nat
  deriving DecidableEq, Repr

/-- A transfer of the open exchange phase (R273). -/
structure Exch where
  send : Bool
  /-- The other core. -/
  peer : Nat
  cycle : Nat
  flits : Nat
  addr : Nat
  range : Option (Fin 32)
  done : Nat
  deriving DecidableEq, Repr

/-- The exchange mode of the core (R174). -/
structure Phase2 where
  /-- An exchange bell has been released and not yet closed. -/
  mode : Bool
  /-- The phase is open (EXCH). -/
  opened : Bool
  /-- Cycle in which the phase clock reads 0. -/
  zero : BitVec 64
  moves : List Exch
  /-- The residency whose BELL.x has arrived and asks for leave for its phase (R417). -/
  asked : Option ResNo
  /-- Flits that have reached the core's port, by sender and phase cycle. -/
  flits : List (Nat × Nat × List Byte)
  /-- First collision: phase cycle and the port's logical core. -/
  collision : Option (Nat × Nat)
  /-- The logical core of the phase's residency, whose port this is. -/
  me : Nat
  deriving DecidableEq, Repr

/-- Where a packet goes, as the routers see it: a physical core or a server of this package, the I/O die's units, another package (R418 to R420). -/
inductive Target where
  | core (core : Nat)
  | server (endpoint : Nat)
  | ioDie
  /-- Another package, with the gateway by which it is to be entered (R419). -/
  | package (pkg via : Nat)
  deriving DecidableEq, Repr

/-- A receiver of a multicast copy: its rank and place, the copy's SEQ in the stream, and the number of its send (R340). -/
structure CastDst where
  dst : Rank
  seq : BitVec 16
  sendId : Nat
  place : Target
  deriving DecidableEq, Repr

/-- An algorithm of SPDM negotiation (R445). -/
inductive Alg where
  | ed25519
  | sha512
  | p384
  | aes256gcm
  | spdmSchedule
  | other
  deriving DecidableEq, Repr

/-- An SPDM 1.3 request with its parameters (R445). -/
inductive SpdmRequest where
  | getVersion
  /-- CERT, CHAL, KEY_EX, ENCRYPT, MAC, MUT_AUTH of the requester; its data transfer size in bytes. -/
  | getCapabilities (cert chal keyEx encrypt mac mutAuth : Bool) (size : Nat)
  /-- Asymmetric algorithm of both roles, hash, DHE, AEAD, measurement hash, key schedule. -/
  | negotiate (req rsp hash dhe aead meas schedule : Alg)
  | getDigests
  /-- Slot, offset and length of a portion of the chain. -/
  | getCertificate (slot offset length : Nat)
  /-- Slot; a measurement summary of all indices is wanted. -/
  | challenge (slot : Nat) (all : Bool)
  /-- All indices; a signature is wanted. -/
  | getMeasurements (all signed : Bool)
  /-- Group of the exchange; mutual authentication is wanted. -/
  | keyExchange (dhe : Alg) (both : Bool)
  /-- The die whose identity key signs. -/
  | finish (signer : Nat)
  deriving DecidableEq, Repr

/-- What the I/O die answers to an SPDM request of the host (R454); signatures and exchanged keys are not followed (log entry 10). -/
inductive SpdmAnswer where
  | version (offered : List (BitVec 8))
  | capabilities (cert chal meas keyEx encrypt mac mutAuth : Bool)
  | algorithms (req rsp hash dhe aead meas schedule : Alg)
  /-- Slot 0, and the bytes of its digest. -/
  | digests (slot0 : Bool) (digest : List Byte)
  /-- A portion of the chain, and the bytes that remain. -/
  | certificate (portion : List Byte) (left : Nat)
  | challengeAuth
  /-- The I/O die's indices 1 to 6, and indices 16 to 33: the summaries of dies 0 to 17. -/
  | measurements (own : List Nat) (summaries : List Nat)
  | keyExchangeRsp
  | finishRsp
  | error
  deriving DecidableEq, Repr

/-- An item that leaves the core for another unit. -/
inductive Out where
  /-- An envelope, with eager data or without. -/
  | message (m : Message)
  /-- One multicast copy, with the receivers it is still to reach (R340). -/
  | cast (m : Message) (dsts : List CastDst)
  /-- A clear-to-send for a send of a rank: the buffer's core and address, and the bytes permitted (R326). -/
  | clearToSend (dst : Rank) (id : Nat) (core : Nat) (addr : Word) (n : Nat)
  /-- Rendezvous data of a send, to a buffer of a core, with the number stamped on the side band (R63, R421). -/
  | bulk (dst : Rank) (id : Nat) (core : Nat) (addr : Word) (data : List Byte) (seq : BitVec 16)
  /-- A server request of the core, one for the Weighhouse among them, and the active message of a copy (R421). -/
  | request (q : ServerReq) (wh : Bool)
  | copyRequest (p : PorterCopy)
  /-- What a server, the Weighhouse or a Porter returns to the core, or lands in it: the event that it brings. -/
  | answer (ev : Instr)
  /-- Acceptance, demotion, refusal or completion acknowledgement (R327). -/
  | notice (dst : Rank) (id : Nat) (code : BitVec 3)
  /-- A report to a sender's error queue: of a send, by its number, with the information word. -/
  | report (dst : Rank) (id : Nat) (cause : BitVec 7) (info : Word)
  /-- A refused command or event: its issuer's context and pair, the target's rank and the information word (R231, R282). -/
  | refusal (dst : Rank) (cause : BitVec 7) (ctx : CtxNo) (pair : Pair) (peer : Rank) (info : Word)
  /-- A round marker, or a closing one. -/
  | marker (src dst : Rank) (n : BitVec 32) (closing : Bool)
  /-- An event. -/
  | event (dst : Rank) (e : EventRec)
  /-- To a sender: room again in the receive buffer of residency `d`, by virtual channel and bytes (R423). -/
  | room (sender d : Rank) (vc : Nat) (n : Nat)
  /-- A matrix command to a logical core. -/
  | command (dst : Nat) (c : MatrixCommand)
  /-- A notice of a finished matrix command to a mailbox of a rank. -/
  | credit (dst : Rank) (mb : BitVec 4)
  /-- A buffer-free token. -/
  | token (t : FreeToken)
  /-- A flit of the exchange crossbar to a core, by phase cycle of delivery. -/
  | flit (dst : Nat) (cycle : Nat) (data : List Byte)
  /-- A landing of a Porter copy in another core, by the copy's number. -/
  | landing (id : Nat) (core : Nat) (addr : Nat) (data : List Byte) (mb : Option (BitVec 4))
  /-- The answer of a server or of the store buffer to a request of another party: bytes read, an atomic's old value, a write's acknowledgement; or why it failed. -/
  | served (id : Nat) (data : List Byte) (fail : Option ServerFail)
  | servedAtomic (id : Nat) (old : Nat) (fail : Option ServerFail)
  | servedWrite (id part : Nat) (fail : Option ServerFail)
  /-- To the other crew members on the die: a collision at this core's port (R274); this core lacks leave for its phase, or no longer does (R337). -/
  | collision (cycle : Nat) (core : Nat)
  | lackLeave (k : BitVec 5) (on : Bool)
  /-- To another core of the die: the replica that the dispatch unit has chosen for its SENDX, if one is left (R344). -/
  | expertChoice (core : Nat) (dst : Option Rank)
  /-- An arrival at a bell of the die (false) or the I/O die (true). -/
  | bell (cross : Bool) (k : BitVec 5) (exch : Bool)
  /-- A coupling request to the members of the gang set. -/
  | couple (w : BitVec 4)
  /-- To the other members of the gang: the bundle the leader has fetched; this core stalls in this cycle; its next bundle; and its leaving, at once or after the present bundle (R24, R25, R158). -/
  | gangBundle (pairs : List (BitVec 64))
  | gangStall
  | gangNext (p : Pair)
  | gangEnd (atOnce : Bool)
  /-- To the other cores of the cluster: this core's RING is dispatched, with its direction and slot size; a slot of a ring sent to the next position (R271). -/
  | ringReady (cw : Bool) (size : Nat)
  | ring (pos : Nat) (data : List Byte)
  /-- A completion record to host memory, and an interrupt to the host, each on the selective stream of a tenant where it must travel on one (R455, R469). -/
  | completion (addr : Nat) (words : List Word) (stream : Option (BitVec 6))
  | interrupt (vector : Nat) (stream : Option (BitVec 6))
  /-- What a host read returns, none for Unsupported Request; what Damilaril reads (R8, R449, R463). -/
  | hostData (offset : Nat) (value : Option Word)
  | mgmtData (actl : Bool) (d : Nat) (value : Word)
  /-- An answer to the host over the Data Object Exchange mailbox (R454). -/
  | hostSpdm (a : SpdmAnswer)
  /-- The device interface report of a tenant: queues, first and last vector, and its doorbells, the tail registers, by offset (R456). -/
  | interfaceReport (tenant : BitVec 6) (queues : List Nat) (vectors : Nat × Nat) (doorbells : List Nat)
  /-- A start message, or a pre-emption request for a round, to a member on another physical core (R400, R406). -/
  | start (core : Nat)
  | preemptCrew (core : Nat) (n : BitVec 32)
  /-- An SPDM request to a die 0 to 18, or to a peer package's Assayer (R445, R458). -/
  | spdm (package : Bool) (target : Nat) (r : SpdmRequest)
  /-- A link packet that the receiving end of a die-to-die link has whole, by link and direction (R427, R450). -/
  | linkPacket (link : Nat) (up : Bool) (bytes : List Byte)
  /-- A scale-up port takes a trimmed packet for a negative acknowledgement: it is sent again (R438). -/
  | resend (port peer : Nat)
  /-- A participant key of an enclave to a member's Assayer (R459). -/
  | participantKey (pkg : Nat) (enclave : Nat) (key : Nat)
  /-- A revocation statement forwarded to a member (R460). -/
  | revoke (pkg : Nat) (enclave : Nat) (participant : Nat) (epoch : Nat)
  deriving DecidableEq, Repr

/-- A delivery mode of the transport: reliable ordered, reliable unordered, the same for idempotent operations, unreliable (R438). -/
inductive UetMode where
  | rod
  | rud
  | rudi
  | uud
  deriving DecidableEq, Repr

/-- An item that waits at the network interface for credit: bytes not yet injected (R423). -/
structure Inject where
  item : Out
  order : Nat
  left : Nat
  deriving DecidableEq, Repr

/-- A packet at a router: the receivers it is for, the port by which it came, its age then, and the cycle (R424). -/
structure Parcel where
  item : Out
  order : Nat
  vc : Nat
  dst : Target
  port : Nat
  age : Nat
  since : BitVec 64
  deriving DecidableEq, Repr

/-- An arrival in the receive buffer. A marker that comes next of its channel names the refused stream places that it follows, by group and SEQ (R325, R348). -/
structure Waiting where
  ev : Instr
  after : Option (List (BitVec 16 × BitVec 16))
  deriving DecidableEq, Repr

/-- An item that waits to leave the core behind earlier ones, and the server writes that must be acknowledged first (R299). -/
structure Leaving where
  item : Out
  after : List Nat
  res : ResNo
  /-- Its data are there: false for a reduction message whose task has not been dispatched. -/
  ready : Bool
  deriving DecidableEq, Repr

/-- What the other members of a gang have told this core (R24, R25, R158; log entry 1). -/
structure GangIn where
  /-- The bundle that the leader has fetched, for a member that is not the leader. -/
  fetched : Option (List (BitVec 64))
  /-- Members that stall. -/
  stalled : List Nat
  /-- The next bundle each member computes after the present one, where it may differ from this core's. -/
  nexts : List (Nat × Pair)
  /-- A member has trapped at the present bundle, or has uncoupled in it. -/
  ending : Bool
  /-- The present bundle has been sent to the members, if this core leads. -/
  sent : Bool
  deriving DecidableEq, Repr

def GangIn.reset : GangIn := ⟨none, [], [], false, false⟩

/-- The residency switch in progress (R384). -/
structure Switch where
  outgoing : Option ResNo
  incoming : ResNo
  /-- Cycle in which the incoming residency begins to issue. -/
  due : BitVec 64
  deriving DecidableEq, Repr

/-- A participant's view of a bell (R336): arrivals of others this episode and their flag. -/
structure Bell where
  /-- Arrivals counted, of the participants other than this core. -/
  others : Nat
  /-- Participants, this core counted; 0 when the crew names no such bell. -/
  parties : Nat
  /-- The exchange flag of the episode's first arrival. -/
  first : Option Bool
  /-- This core has arrived. -/
  here : Bool
  /-- Other participants that lack leave for the phase (R337, R417). -/
  lacking : List Nat
  /-- Cycle of the release, once the last participant has arrived. -/
  due : Option (BitVec 64)
  deriving DecidableEq, Repr

/-- The state held once per core. -/
structure CoreSt where
  /-- Local memory in one canonical form: model keys of R46 (scratchpad physical from 0, accumulators, store, tiles), then scale stores and masks. -/
  mem : List Host.Cell
  /-- Physical offsets of the scratchpad words whose full/empty bit is full (R15), rising. -/
  full : List Nat
  fmt : Vector (BitVec 5) 16
  blg : Vector (BitVec 3) 16
  /-- The pair that holds the instruction being carried out (R222, R369). -/
  atPair : Pair
  /-- Tags that the present bundle writes: tile, format, and block length where it writes one (R214). -/
  tagWrites : List (BitVec 4 × BitVec 5 × Option (BitVec 3))
  /-- Words with an uncorrectable error (R378), by memory key. -/
  bad : List Nat
  accTenant : Option (BitVec 6)
  tileTenant : Option (BitVec 6)
  /-- A group is being cleared, until this cycle (R36). -/
  accClear : Option (BitVec 64)
  tileClear : Option (BitVec 64)
  issuing : Option ResNo
  lastCtx : CtxNo
  cycle : BitVec 64
  /-- The contexts of the issuing residency, and the other residencies, that are ready in the present cycle (R170, R403). -/
  ready : List CtxNo
  readyRes : List ResNo
  range : Vector (Option RangeEnt) 32
  reqs : List Req
  sends : List Send
  packet : Option Packet
  /-- Envelopes, commands and markers in issue order, until they leave. -/
  leaving : List Leaving
  /-- Sequence numbers of the streams from and to the core's ranks (R315). -/
  streamsOut : List Stream
  streamsIn : List Stream
  /-- The receive buffer: arrivals on VC2 that wait (R316, R348, R423); and an envelope has been accepted in the present cycle. -/
  inbox : List Waiting
  accepted : Bool
  /-- The network interface: what waits for credit, and the bytes in flight by residency and virtual channel (R423). -/
  ni : List Inject
  inFlight : List (Rank × Nat × Nat)
  /-- Packets at the core's own router; its output ports and virtual channels whose next hop has no room (R422, R424). -/
  router : List Parcel
  portFull : List (Nat × Nat)
  /-- Sends whose demoted packet keeps the packet buffer. -/
  packetKept : Option Nat
  tasks : List Task
  events : List QEvent
  exch : Phase2
  switch : Option Switch
  gang : Option (BitVec 4)
  gangIn : GangIn
  /-- The context that issued last as it stood before its bundle, which CTXSV of the issuing context saves (R210). -/
  before : Ctx
  /-- The nest descriptors of its residency as they stood then, which a copy of the same bundle reads (R97). -/
  nestsBefore : Vector Nest 8
  /-- Widths of the couplings that the other members of the gang set have issued, by logical core. -/
  coupling : List (Nat × BitVec 4)
  dptimeout : BitVec 16
  fwPage : BitVec 9
  fwEn : Bool
  fwRes : BitVec 2
  auxPage : BitVec 2
  auxKind : BitVec 3
  auxN : BitVec 4
  /-- This core holds a unit of power leave; the cycle of its request while it holds none; the cycle in which a grant takes effect; copies withheld meanwhile (R415 to R417). -/
  leaveHeld : Bool
  leaveAsked : Option (BitVec 64)
  leaveDue : Option (BitVec 64)
  leaveCopies : List Nat
  /-- Heavy operations in progress under the unit. -/
  leaveUse : Nat
  /-- Engines that have dispatched a task in the present cycle (R410). -/
  engineDone : List (BitVec 3)
  /-- No residency of the core was ready in the cycle before (R403). -/
  quiet : Bool
  /-- A Porter landing has been accepted in the present cycle (R365). -/
  landedNow : Bool
  /-- Saved parts of the tasks of residencies that are switched out, for which the save area has no place. -/
  tasksAside : List Task
  /-- Banks whose write port the event engine, and a landing, has used in the present cycle (R365). -/
  engineBanks : List Nat
  /-- Cycle in which the event engine's present step ends (R360). -/
  engineUntil : BitVec 64
  /-- The rectangle of that step's field (R366). -/
  engineRect : AccDesc
  /-- An advance of which some rows have not been written yet. -/
  engineRun : Option EngineRun
  landingBanks : List Nat
  /-- Banks that the sequencer of the matrix and reduction units has written in the present cycle (R365). -/
  seqBanks : List Nat
  /-- The unit in which an uncorrectable error has been detected: 1 registers, 2 Foreman, 3 Postmaster, 4 range table (R377). -/
  faultUnit : BitVec 4
  nextId : Nat
  deriving DecidableEq, Repr

/-- The units of the cluster: store buffer, SFU, vector arbiter. -/
structure Cluster where
  buffer : List Buffered
  /-- Reads of the cluster's other cores that buffered writes have served: party, place in its program, the write's number (R298). -/
  served : List (Nat × Nat × Nat)
  /-- FIFOs of this core's contexts; the requests of the other cores' 33 FIFOs, each by its number of results. -/
  fifos : Vector (List SfuReq) 11
  otherFifos : Vector (List Nat) 33
  /-- FIFO served last, 0 to 43, and the request in service. -/
  sfuLast : Nat
  sfuBusy : Option Nat
  /-- Cycle in which the request in service ends. -/
  sfuDue : BitVec 64
  /-- Lane groups: the pair of this core's task bound there, or another core's. -/
  lanes : Vector (Option (BitVec 2)) 4
  quota : Vector Nat 4
  shares : Vector (BitVec 4) 4
  waiting : Vector Nat 4
  boundLast : BitVec 2
  /-- Ring tasks the other three positions have dispatched: position, clockwise, slot size; and the slot that has come from the position before this core's. -/
  ringPeers : List (BitVec 2 × Bool × Nat)
  ringData : Option (List Byte)
  deriving DecidableEq, Repr

/-- A SENDX of another core at the die's dispatch unit: logical core, work order, expert, LEN, packages its dead-peer bitmap excludes (R260, R344). -/
structure ExpertCall where
  core : Nat
  order : Nat
  expert : Nat
  len : Nat
  dead : List Nat
  deriving DecidableEq, Repr

/-- A router's record of one multicast's tokens: the sum that waits in its combining table, and the children whose tokens have come; one that is not open holds no entry of the table, and later tokens pass it (R341; log entry 67). -/
structure Combine where
  router : Nat
  sum : FreeToken
  children : List Nat
  holds : Bool
  deriving DecidableEq, Repr

/-- A request for power leave: the core's place on the die, its logical core, the cycle (R416). -/
structure LeaveAsk where
  core : Nat
  logical : Nat
  cycle : BitVec 64
  deriving DecidableEq, Repr

/-- The units of the die: bells, combining tables, expert tables, power controller. -/
structure Die where
  bells : Vector Bell 16
  crossBells : Vector Bell 32
  /-- The routers' records of the tokens of multicasts (R341). -/
  combining : List Combine
  /-- Expert tables by work order: for each expert its replicas. -/
  experts : List (Nat × List (List Rank))
  /-- Unacknowledged-byte counters by work order and rank (R344). -/
  unacked : List (Nat × Rank × Nat)
  /-- SENDX of other cores waiting at the dispatch unit; and the unit has made its choice of the present cycle (R344). -/
  expertWaiting : List ExpertCall
  expertServed : Bool
  dieLimit : Nat
  clusterLimit : Nat
  /-- The cores of the die that hold a unit of leave, or have been granted one, by their place on the die (R416). -/
  leaveUnits : List Nat
  /-- The leave queue, in order (R416). -/
  leaveQueue : List LeaveAsk
  deriving DecidableEq, Repr

/-- Where an atomic in the Weighhouse stands (R435). -/
inductive WeighStep where
  /-- Taken, waiting for its granule inside the Weighhouse. -/
  | waiting
  /-- The lock-read has been sent. -/
  | locking
  /-- The granule is locked and its data returned. -/
  | locked (old : Nat)
  /-- The write-unlock has been sent, with the value to write. -/
  | writing (old new : Nat)
  deriving DecidableEq, Repr

/-- A package-scope atomic in the Weighhouse. -/
structure Weigh where
  req : ServerReq
  step : WeighStep
  deriving DecidableEq, Repr

/-- A copy that a Porter holds: one of this core's, or of another (R433). -/
structure PorterJob where
  porter : Rank
  id : Nat
  own : Bool
  deriving DecidableEq, Repr

/-- A landing that a Porter has injected towards a physical core and that has not left its receive buffer: the copy, the core, the work order, its bytes (R423). -/
structure Flying where
  id : Nat
  core : Nat
  order : Nat
  n : Nat
  deriving DecidableEq, Repr

/-- A gateway's admission: the package whose memory it is, the requester's package, and its work order (R440). -/
structure Admission where
  pkg : Nat
  src : Nat
  order : Nat
  deriving DecidableEq, Repr

/-- The memory servers, the Porters and the Weighhouse (R429 to R437). -/
structure Servers where
  /-- Server memory of every package, keyed by package and address. -/
  mem : List Host.Cell
  /-- Words with an uncorrectable error (R431). -/
  bad : List Nat
  /-- Requests that have reached their servers, in arrival order. -/
  pending : List ServerReq
  /-- Locked granules and the atomic that locked each. -/
  locks : List (Nat × Nat)
  weigh : List Weigh
  /-- Work orders that a gateway admits to window 3 (R440). -/
  admits : List Admission
  /-- The package's own number. -/
  pkg : Nat
  /-- Words with one flipped bit, and soft errors corrected so far, counted for Damilaril (R431). -/
  soft : List Nat
  corrected : Nat
  /-- Copies at the Porters, and active messages that wait for a place there, in order of arrival (R433). -/
  porters : List PorterJob
  porterWait : List PorterCopy
  /-- Landings that a Porter has to inject, with the physical core, and those in flight (R423, R434). -/
  toLand : List (Landing × Nat)
  flying : List Flying
  deriving DecidableEq, Repr

/-- The end of a residency, as a core reports it: order, crew, logical core, 0 halted or 1 faulted, the cause that ended it, and what its release must wait for. -/
structure End where
  order : Nat
  crew : BitVec 16
  core : Nat
  faulted : Bool
  cause : Option (BitVec 7)
  /-- Buffered writes that served its loads (R297). -/
  served : List Nat
  deriving DecidableEq, Repr

/-- A pre-empted residency as the dispatcher takes it (R406): its state, its partition and owned groups by offset, full words, tile tags, queued events. -/
structure Evicted where
  res : Res
  part : List Host.Cell
  full : List Nat
  groups : List Host.Cell
  fmt : Vector (BitVec 5) 16
  blg : Vector (BitVec 3) 16
  events : List EventRec
  tasks : List Task
  /-- The streams from its rank, and to it (R315). -/
  streamsOut : List Stream
  streamsIn : List Stream
  deriving DecidableEq, Repr

/-- What other cores and the host do to the core under view and for which the opcode table has no row (log entry 1). -/
inductive Outside where
  /-- Another core waits at a COUPLE of width w; it waits there no longer (R171). -/
  | couple (core : Nat) (w : BitVec 4)
  | coupleGone (core : Nat)
  /-- Of a gang: the leader's bundle, a member that stalls or no longer does, a member's next bundle, and the end of the gang by a member (R24, R25, R158). -/
  | gangFetch (pairs : List (BitVec 64))
  | gangStall (core : Nat) (on : Bool)
  | gangNext (core : Nat) (p : Pair)
  | gangEnd (atOnce : Bool)
  /-- A write or atomic of another core of the cluster enters the store buffer and goes to its server, or to the Weighhouse (R293). -/
  | clusterWrite (q : ServerReq) (wh : Bool)
  /-- A landing of a copy in another core has been made or has failed (R434); a copy of another core leaves its Porter (R433). -/
  | landingDone (id : Nat) (fail : Option ServerFail)
  | porterDone (id : Nat)
  /-- Of the members of crews on other cores: one ends; one holds a round counter; one is frozen and has drained, with all that its eviction takes (R401, R406). -/
  | memberEnd (e : End)
  | memberRound (order crew : Nat) (n : BitVec 32)
  | memberDrained (order crew core : Nat) (e : Evicted)
  /-- One bit of a word of server memory flips (R431); Damilaril installs the gateways' admissions (R440). -/
  | softError (word : Nat)
  | admissions (l : List Admission)
  /-- The scale bytes of a tile transfer carry another sequence number than its data (R63). -/
  | sideBand (task : Nat) (seq : BitVec 16)
  /-- Another core of the cluster has dispatched its RING; a slot comes from the position before this core's (R271). -/
  | ringReady (pos : BitVec 2) (cw : Bool) (size : Nat)
  | ringData (data : List Byte)
  /-- Of the cluster's other cores: a task reaches the head of the vector queue of a position; a task of theirs gives up a lane group; a position's VSHARE; an SFU request of so many results enters a FIFO (R412 to R414). -/
  | vectorTask (pos : BitVec 2)
  | laneFree (g : BitVec 2)
  | share (pos : BitVec 2) (w : BitVec 4)
  | sfuRequest (fifo : Nat) (results : Nat)
  /-- Another core of the die asks for power leave, or returns its unit: its place on the die and its logical core (R415, R416). -/
  | leaveAsk (core logical : Nat)
  | leaveBack (core : Nat)
  /-- A packet reaches the core's own router by a port (R424); room comes back in a receiver's buffer (R423). -/
  | packet (p : Parcel)
  | room (dst : Rank) (vc : Nat) (n : Nat)
  /-- The next hop of an output port has no room for a virtual channel, or has room again (R422, R424). -/
  | portFull (port vc : Nat) (full : Bool)
  /-- Another participant arrives at a bell of the die (false) or of the I/O die (true); it lacks leave for its phase, or no longer does (R336, R337). -/
  | bell (cross : Bool) (k : BitVec 5) (exch : Bool)
  | lackLeave (k : BitVec 5) (core : Nat) (on : Bool)
  /-- The crossbar has found a collision at another member's port (R274). -/
  | collision (cycle : Nat) (core : Nat)
  /-- A SENDX of another core of the die waits at issue; one of its sends has been acknowledged or has failed (R344). -/
  | expertCall (c : ExpertCall)
  | expertDone (order : Nat) (dst : Rank) (len : Nat)
  /-- A die puts mesh packets on a link, by link and direction (R427). -/
  | linkTraffic (link : Nat) (up : Bool) (packets : List (List Byte))
  /-- A transport packet comes to a scale-up port: its delivery mode and peer package, whether it is IPv4, trimmed, or fails the authentication of the security sublayer, and the link packet it carries for the core's router (R438, R459). -/
  | portPacket (port : Nat) (mode : UetMode) (peer : Nat) (v4 trimmed authFail : Bool) (p : Option Parcel)
  /-- Damilaril's transport options: link-level retry of a port, congestion control of the pod (R438). -/
  | portRetry (port : Nat) (on : Bool)
  | congestion (credit : Bool)
  /-- IDE_KM programs the keys of a stream, the link stream or a tenant's (R455). -/
  | ideKeys (tenant : Option (BitVec 6))
  /-- A write to EXTA, EXTB, EXTC or CAPKEY by the management path or the host port that carries no grant (R457). -/
  | bareGrant
  /-- A host store of 8 bytes to the instruction store (R306). -/
  | codeStore (p : Pair) (v : BitVec 64)
  /-- A host read through BAR0: offset, size, selective IDE stream; Damilaril's read of ACTL.d or ASTAT.d, and its write of ROLLINT (R8, R449, R452, R463). -/
  | hostRead (offset size : Nat) (stream : Option (BitVec 6))
  | mgmtRead (actl : Bool) (d : Nat)
  | rollintWrite (k : Nat)
  deriving DecidableEq, Repr

/-- The model's own part: the arrivals to come and the items that have left (log entries 1 and 8). -/
structure Env where
  /-- Arrivals waiting to be applied. -/
  agenda : List Instr
  /-- The order in which the next steps take them: none is an issue cycle, a number an entry of the agenda. -/
  turns : List (Option Nat)
  /-- Arrivals due at a later cycle. -/
  timers : List (BitVec 64 × Instr)
  /-- What other cores and the host do, and the cycle from which each is taken. -/
  outside : List (BitVec 64 × Outside)
  out : List Out
  /-- Packets that the core's own router has forwarded: the output port and the packet (R424). -/
  packets : List (Nat × Parcel)
  /-- The counter that makes each free value fresh. -/
  free : Nat
  deriving DecidableEq, Repr

/-! ### Reset (R27, R29, R471) -/

def TrapRec.reset : TrapRec := ⟨0, 0, 0, 0, 0⟩

def Nest.reset : Nest := ⟨Vector.replicate 6 0, Vector.replicate 6 0, Vector.replicate 4 0⟩

def LoopBuf.reset : LoopBuf := ⟨Nest.reset, Vector.replicate 6 0, Vector.replicate 4 0, 0, 0, false, 0⟩

/-- The start value of a context: every register 0 but p0 and p16, which read true (R27, R28). -/
def Ctx.reset : Ctx where
  s := Vector.replicate 64 0
  p := ((Vector.replicate 32 false).set 0 true).set 16 true
  pc := 0
  mode := false
  status := .free
  loop := LoopBuf.reset
  aside := none
  trap := TrapRec.reset
  last := 0
  flight := []
  frozen := []
  pending := []
  replay := none
  sfuKept := []
  awaits := []
  heldAt := none
  verdict := none
  heldAside := none
  yields := []
  busyUntil := 0
  arrived := false
  blocked := []
  served := []
  scratch := Vector.replicate 16 0
  saved := (0, 0)

def EvField.unbound : EvField := ⟨false, 0, ⟨0, 0, 0, 0⟩, 0, 0, 0, 0, 0, 0, 0, 0, 0, 0, 0, 0, false, 0⟩

/-- A residency that is not there; R29 and R31 give the start values. -/
def Res.reset : Res where
  phase := .absent
  issued := false
  order := 0
  crew := 0
  members := []
  orderCores := []
  level := 3
  spbase := 0
  splimit := 0
  phsz := 4
  accOwn := false
  accLive := 0
  tileOwn := false
  tlive := 0
  mlive := 0
  tenant := 0
  codeFirst := 0
  codeLast := 0
  handler := 0
  capkey := 0
  extents := Vector.replicate 16 ⟨0, 0, 0⟩
  extentsPending := Vector.replicate 16 ⟨0, 0, 0⟩
  rank := 0
  errq := []
  errOvf := false
  deadPeers := []
  ctx := Vector.replicate 11 Ctx.reset
  tshape := Vector.replicate 16 ⟨0, 0, 0⟩
  ad := Vector.replicate 8 ⟨0, 0, 0, 0⟩
  handles := Vector.replicate 16 ⟨0, 0, 0, 0, 0, false⟩
  chans := Vector.replicate 8 ⟨0, 0, []⟩
  mboxes := Vector.replicate 16 ⟨0, 0, false, 0, false⟩
  fields := Vector.replicate 8 EvField.unbound
  nests := Vector.replicate 8 Nest.reset
  dt := Vector.replicate 16 0
  lfsr := 0x5EED0000
  vshare := 1
  round := 0
  bellOf := Vector.ofFn fun i => BitVec.ofNat 4 i.val
  crossOf := Vector.ofFn fun i => BitVec.ofNat 5 i.val
  preempt := none
  channels := false
  inputs := []
  outputs := []
  deferred := []
  groups := []
  sendSlots := Vector.replicate 16 none
  recvSlots := Vector.replicate 16 none
  phaseLen := 0
  posted := []
  matched := []
  held := []
  arrivals := 0
  copies := []
  mcasts := []
  mcastNext := []
  reductions := []
  tasksHeld := false
  engineHeld := false
  slice := 0
  extended := false
  idle := 0
  savedOwn := []

def CoreSt.reset : CoreSt where
  mem := []
  full := []
  fmt := Vector.replicate 16 0
  blg := Vector.replicate 16 0
  atPair := 0
  tagWrites := []
  bad := []
  accTenant := none
  tileTenant := none
  accClear := none
  tileClear := none
  issuing := none
  lastCtx := 10
  cycle := 0
  ready := []
  readyRes := []
  range := Vector.replicate 32 none
  reqs := []
  sends := []
  packet := none
  leaving := []
  streamsOut := []
  streamsIn := []
  inbox := []
  accepted := false
  ni := []
  inFlight := []
  router := []
  portFull := []
  packetKept := none
  tasks := []
  events := []
  exch := ⟨false, false, 0, [], none, [], none, 0⟩
  switch := none
  gang := none
  gangIn := GangIn.reset
  before := Ctx.reset
  nestsBefore := Vector.replicate 8 Nest.reset
  coupling := []
  dptimeout := 50
  fwPage := 0
  fwEn := false
  fwRes := 0
  auxPage := 0
  auxKind := 0
  auxN := 0
  leaveHeld := false
  leaveAsked := none
  leaveDue := none
  leaveCopies := []
  leaveUse := 0
  engineDone := []
  quiet := false
  landedNow := false
  tasksAside := []
  engineBanks := []
  engineUntil := 0
  engineRect := ⟨0, 0, 0, 0⟩
  engineRun := none
  landingBanks := []
  seqBanks := []
  faultUnit := 0
  nextId := 0

def Cluster.reset : Cluster where
  buffer := []
  served := []
  fifos := Vector.replicate 11 []
  otherFifos := Vector.replicate 33 []
  sfuLast := 43
  sfuBusy := none
  sfuDue := 0
  lanes := Vector.replicate 4 none
  quota := Vector.replicate 4 0
  shares := Vector.replicate 4 1
  waiting := Vector.replicate 4 0
  boundLast := 3
  ringPeers := []
  ringData := none

def Die.reset : Die where
  bells := Vector.replicate 16 ⟨0, 0, none, false, [], none⟩
  crossBells := Vector.replicate 32 ⟨0, 0, none, false, [], none⟩
  combining := []
  experts := []
  unacked := []
  expertWaiting := []
  expertServed := false
  dieLimit := 144
  clusterLimit := 4
  leaveUnits := []
  leaveQueue := []

def Servers.reset : Servers := ⟨[], [], [], [], [], [], 0, [], 0, [], [], [], []⟩

def Env.reset : Env := ⟨[], [], [], [], [], [], 0⟩

end Sys2Proof.Machine
end

