-- ==== Sys2Proof/Machine/Package.lean ====
section
/-!
DEFINITION. The state of the I/O die and of the package: the host's registers and queues, the dispatcher, the Assayer's dies and links, tenants, enclaves, the scale-up ports and the power limits, with their values after reset.
What reaches these units from outside the package's cores stands in an inbox of arrivals (log entry 1).
-/

namespace Sys2Proof.Machine

open Sys2Proof

/-! ### Images and work orders (R111, R467) -/

/-- One `.timetable` entry (R111). -/
structure Timing where
  sender : Nat
  receiver : Nat
  cycle : Option Nat
  flits : Nat
  deriving DecidableEq, Repr

/-- What an image holds for one logical core, placed by Ezwald: its pairs are absolute (R488). -/
structure ImageCore where
  core : Nat
  entry : Pair
  handler : Pair
  first : Pair
  code : List (BitVec 64)
  data : List Byte
  tiles : List (BitVec 4 × Shape)
  deriving DecidableEq, Repr

/-- A crew as its image declares it. -/
structure ImageCrew where
  members : List Nat
  /-- Partition size in 4 KiB units, and PHSZ. -/
  pages : Nat
  phsz : BitVec 5
  /-- Crew bells named by BELL or BELL.x, and by BELL.d (R335). -/
  bells : List (BitVec 4)
  crossBells : List (BitVec 4)
  timetable : List Timing
  /-- Its `.group` entries: number and logical cores. -/
  groups : List (BitVec 16 × List Nat)
  /-- It uses width-8 coupling (R51). -/
  wide : Bool
  /-- It declares a SENDX, or an MCAST to a group reaching outside the crew (R405). -/
  outside : Bool
  /-- Bytes of state that R406 writes. -/
  stateSize : Nat
  deriving DecidableEq, Repr

/-- An image that `chasm` built. -/
structure Image where
  crews : List ImageCrew
  cores : List ImageCore
  /-- It uses SENDX. -/
  sendx : Bool
  /-- It passes the checks of R111. -/
  ok : Bool
  deriving DecidableEq, Repr

/-- A pod-wide group of a work order: number, member ranks, eager threshold (R255). -/
structure GroupDecl where
  num : BitVec 16
  members : List Rank
  eager : Nat
  deriving DecidableEq, Repr

/-- What the host's pointers in a work-order record lead to: the image, the bytes of the expert dispatch record where one is named (R343), and the pod-wide groups (R255). -/
structure Load where
  image : Image
  experts : Option (List Byte)
  groups : List GroupDecl
  deriving DecidableEq, Repr

/-- The binding of a crew's logical cores to physical ones (R51). -/
structure Binding where
  dieRow : Bool
  dieCol : Bool
  mirRow : Bool
  mirCol : Bool
  row : Int
  col : Int
  deriving DecidableEq, Repr

/-- A residency that the dispatcher has reserved: physical core, logical core, residency number, partition base and size in 4 KiB units (R399). -/
structure Place where
  core : Nat
  logical : Nat
  res : ResNo
  base : Nat
  pages : Nat
  deriving DecidableEq, Repr

/-- Where a crew stands (R398, R400, R406). -/
inductive CrewStage where
  /-- Not launched. -/
  | waiting
  /-- Residencies and bells reserved, stores under way. -/
  | reserved
  | running
  /-- Pre-emption has been requested for this round. -/
  | preempting (n : BitVec 32)
  | evicted
  | done
  deriving DecidableEq, Repr

/-- One crew of a work order. -/
structure Crew where
  stage : CrewStage
  binding : Binding
  slots : List Place
  /-- Die, crew bell, die bell; and crew bell, cross-die bell (R335). -/
  bells : List (Nat × BitVec 4 × BitVec 4)
  crossBells : List (BitVec 4 × BitVec 5)
  /-- Logical cores whose start stores have all been acknowledged. -/
  acked : List Nat
  halted : List Nat
  /-- Members on other physical cores that are frozen and have drained, by logical core, and the largest round counter that any of them has reported (R406). -/
  drained : List (Nat × Evicted)
  rounds : BitVec 32
  /-- Cycle in which it last became resident. -/
  since : BitVec 64
  /-- Pre-empted members by logical core, as they were written (R406, R407). -/
  evicted : List (Nat × Evicted)
  /-- It is placed again after a pre-emption (R407). -/
  again : Bool
  deriving DecidableEq, Repr

/-- A work order in the dispatcher (R467). -/
structure WorkOrder where
  id : Nat
  queue : Nat
  index : Nat
  phase : Bool
  tenant : BitVec 6
  /-- LIMIT in milliseconds. -/
  limit : Nat
  counter : Option (BitVec 12)
  tag : Word
  waits : List (BitVec 12 × Word)
  masks : List (BitVec 16)
  evictPtr : Word
  evictSize : Word
  image : Image
  /-- The bytes of the expert dispatch record (R343), and the pod-wide groups (R255). -/
  experts : Option (List Byte)
  groups : List GroupDecl
  launched : Option (BitVec 64)
  crews : List Crew
  /-- Core-cycles resident so far. -/
  cycles : Nat
  /-- Windows of which some residency has a valid extent entry (R451). -/
  windows : List Nat
  /-- Buffered writes that served loads of its ended residencies (R297, R301). -/
  served : List Nat
  /-- Core dies that hold an expert dispatch table for it, to the end of its life (R343). -/
  tables : List Nat
  /-- Cycle since which it has stood first among the heads without a placement; it is reserving (R397). -/
  unplaced : Option (BitVec 64)
  reserving : Bool
  /-- It has ended with a status and a cause, and its completion waits for its release (R301). -/
  closing : Option (Nat × Option (BitVec 7))
  deriving DecidableEq, Repr

/-! ### Queues (R465, R466) -/

/-- Where a pending record stands. -/
inductive RecStage where
  | toFetch
  /-- Fetched, as the work order of this number. -/
  | fetched (id : Nat)
  | done
  deriving DecidableEq, Repr

/-- A pending record: its index, the PHASE of its pass through the ring, its stage. -/
structure Rec where
  index : Nat
  phase : Bool
  stage : RecStage
  deriving DecidableEq, Repr

/-- One queue block, with the dispatcher's part of the queue. -/
structure Queue where
  vec : BitVec 5
  tenant : BitVec 6
  log2n : BitVec 4
  weight : BitVec 6
  level : BitVec 2
  ien : Bool
  en : Bool
  ring : BitVec 56
  cring : BitVec 59
  tail : BitVec 12
  head : BitVec 12
  cfgerr : Bool
  ovf : Bool
  /-- Pending records, oldest first. -/
  recs : List Rec
  /-- PHASE of the next record to be covered. -/
  pass : Bool
  /-- The service value V (R396). -/
  value : Nat
  deriving DecidableEq, Repr

def Queue.reset : Queue where
  vec := 0
  tenant := 0
  log2n := 4
  weight := 0
  level := 3
  ien := false
  en := false
  ring := 0
  cring := 0
  tail := 0
  head := 0
  cfgerr := false
  ovf := false
  recs := []
  pass := true
  value := 0

/-! ### Dies and links (R427, R445 to R453) -/

/-- STATE of ASTAT (R449). -/
inductive DieState where
  | reset
  | closed
  | attesting
  | keying
  | opened
  | quarantined
  deriving DecidableEq, Repr

/-- What an SPDM response of step 1 to 9 brings, the verdicts of its cryptographic checks among it (log entry 10). -/
inductive SpdmBody where
  /-- Versions offered. -/
  | version (offered : List (BitVec 8))
  /-- CERT, CHAL, MEAS with signature, KEY_EX, ENCRYPT, MAC, MUT_AUTH. -/
  | capabilities (cert chal meas keyEx encrypt mac mutAuth : Bool)
  /-- Asymmetric algorithm of both roles, hash, DHE, AEAD, measurement hash, key schedule. -/
  | algorithms (req rsp hash dhe aead meas schedule : Alg)
  /-- Slot 0 is present; its digest. -/
  | digests (slot0 : Bool) (digest : Nat)
  /-- A portion: its length; it is the last; the digest of the whole; the chain verifies to the fused root hash; identity hash. -/
  | certificate (length : Nat) (last : Bool) (digest : Nat) (chainOk : Bool) (identity : Nat)
  | challenge (signatureOk : Bool)
  /-- Signature valid; die kind and revision; the digests of indices 1 to 4; the die number of index 3; summary. -/
  | measurements (signatureOk : Bool) (kind revision : Nat) (digests : List Nat) (position : Nat) (summary : Nat)
  | keyExchange (signatureOk hmacOk : Bool)
  | finish (accepted hmacOk : Bool)
  deriving DecidableEq, Repr

/-- The party at the other end of an SPDM flow: a die, or a peer package's Assayer. -/
inductive Party where
  | die (d : Nat)
  | package (p : Nat)
  deriving DecidableEq, Repr

/-- A flow of R445 in progress. -/
structure Flow where
  party : Party
  /-- The step whose response is awaited, 1 to 9. -/
  step : Nat
  /-- Cycle by which the response must come. -/
  due : BitVec 64
  /-- The digest of step 4. -/
  digest : Nat
  /-- Certificate fetch may be skipped when the digest matches the cache. -/
  warm : Bool
  /-- Bytes of the chain that have come (step 5), and the identity hash of the certificate. -/
  got : Nat
  identity : Nat
  /-- Its measurement summary (R454). -/
  summary : Nat
  deriving DecidableEq, Repr

/-- The Assayer's record of a die (R448, R449). -/
structure DieRec where
  state : DieState
  reason : BitVec 8
  epoch : BitVec 16
  session : Bool
  /-- Cached digest of its certificate chain (R445, R471). -/
  digest : Option Nat
  summary : Nat
  /-- Its servers are clearing their capacity before its links open (R451). -/
  clearing : Bool
  /-- It has been quarantined since the package started: it rejoins through a full run (R450). -/
  rejoins : Bool
  deriving DecidableEq, Repr

def DieRec.reset : DieRec := ⟨.reset, 0, 0, false, none, 0, false, false⟩

/-- What one-time-programmable memory gives a die: its chain of three certificates, and what its own carries beside its key: kind (0 core, 1 server, 2 gateway, 3 I/O), serial number and revision (R442). -/
structure DieCert where
  chain : List (List Byte)
  kind : Nat
  serial : Word
  revision : Nat
  /-- The fused hash of the root certificate. -/
  rootHash : List Byte
  deriving DecidableEq, Repr

/-- The kind of die d (R449). -/
def dieKind (d : Nat) : Nat := if d < 8 then 0 else if d < 16 then 1 else if d < 18 then 2 else 3

/-- The chain of die d as manufactured (R442). -/
def DieCert.made (d : Nat) : DieCert := ⟨[Config.certificate d 0, Config.certificate d 1, Config.certificate d 2], dieKind d, Config.dieSerial d, Config.dieRevision d, Config.rootHash d⟩

/-- The attestation engine of a die: the fused identity seed, the Ed25519 key pair that it derives, private and public key, and the die's certificates (R441, R442). -/
structure AttestEngine where
  seed : BitVec 256
  keys : Option (List Byte × List Byte)
  cert : DieCert
  deriving DecidableEq, Repr

/-- One accepted digest of the reference manifest: die kind, revision, index, digest (R443). -/
structure RefEntry where
  kind : Nat
  revision : Nat
  index : Nat
  digest : Nat
  deriving DecidableEq, Repr

/-- A stretch of a mesh packet in a flit; the packet ends with it (R427). -/
structure Piece where
  bytes : List Byte
  last : Bool
  deriving DecidableEq, Repr

/-- A flit in a replay buffer: sequence number, generation and payload of up to 240 bytes (R427, R428). -/
structure Flit where
  seq : Nat
  gen : Nat
  payload : List Piece
  deriving DecidableEq, Repr

/-- A rollover in progress (R453): the new key, the cycle of step 1, and that of step 3 once it has come. -/
structure Roll where
  key : Nat
  start : BitVec 64
  switched : Option (BitVec 64)
  deriving DecidableEq, Repr

/-- One direction of a link. -/
structure LinkDir where
  /-- Generation under which the sender builds, and how many flits it has sent under it. -/
  gen : Nat
  sent : Nat
  /-- Sequence number of the next flit. -/
  seq : Nat
  replay : List Flit
  /-- Sequence number that the receiver delivers next, and its failed attempts in a row. -/
  want : Nat
  fails : Nat
  /-- The bytes of a packet of which the receiver does not have all flits yet. -/
  part : List Byte
  /-- Keys at the sender and at the receiver: generation and key. -/
  txKeys : List (Nat × Nat)
  rxKeys : List (Nat × Nat)
  roll : Option Roll
  /-- Cycle of the last flit. -/
  last : BitVec 64
  deriving DecidableEq, Repr

def LinkDir.reset : LinkDir := ⟨0, 0, 0, [], 0, 0, [], [], [], none, 0⟩

/-- One of the 26 links. -/
structure Link where
  opened : Bool
  /-- Ends that have returned KEY_ACK, and that have had LINK_OPEN. -/
  acks : List Nat
  ready : List Nat
  /-- Cycle of the KEY_INSTALL at generation 0, while it is not acknowledged. -/
  start : Option (BitVec 64)
  /-- From the lower-numbered die to the higher, and back. -/
  up : LinkDir
  down : LinkDir
  deriving DecidableEq, Repr

def Link.reset : Link := ⟨false, [], [], none, LinkDir.reset, LinkDir.reset⟩

/-- A message of the Assayer to a die, or back: link, the end it concerns, direction, generation, keys. -/
inductive KeyMsg where
  /-- Both keys at generation 0, for both directions. -/
  | installBoth (link : Nat) (die : Nat) (up down : Nat)
  | install (link : Nat) (up : Bool) (gen key : Nat)
  | ackBoth (link : Nat) (die : Nat)
  | ack (link : Nat) (up : Bool) (gen : Nat)
  | linkOpen (link : Nat) (die : Nat)
  | switch (link : Nat) (up : Bool) (gen key : Nat)
  | retired (link : Nat) (up : Bool) (gen : Nat)
  /-- A participant key of an enclave for this package's gateways, and the retirement of a generation (R459). -/
  | participant (enclave index gen key : Nat)
  | participantRetired (enclave index gen : Nat)
  deriving DecidableEq, Repr

/-! ### Tenants, enclaves, ports -/

/-- The TDISP state of a tenant's interface (R456). -/
inductive TdispState where
  | unlocked
  | locked
  | run
  | error
  deriving DecidableEq, Repr

/-- A tenant. -/
structure Tenant where
  state : TdispState
  /-- The tenant key; a tenant that has registered one is confidential (R457). -/
  key : Option Nat
  /-- Transactions outside its stream, and refused grants, counted for Damilaril (R455, R457). -/
  dropped : Nat
  /-- IDE_KM has programmed the keys of its selective stream (R455). -/
  ide : Bool
  deriving DecidableEq, Repr

def Tenant.reset : Tenant := ⟨.unlocked, none, 0, false⟩

/-- A participant of an enclave (R458, R459). -/
structure Participant where
  index : Nat
  pkgs : List Nat
  /-- Identity hashes of its packages. -/
  identities : List Nat
  /-- Its n quorum keys. -/
  quorum : List Nat
  /-- Its participant keys held: generation and key. -/
  keys : List (Nat × Nat)
  deriving DecidableEq, Repr

/-- An enclave (R458, R460). -/
structure Enclave where
  num : Nat
  threshold : Nat
  epoch : Nat
  parts : List Participant
  /-- Peer packages whose flow of R445 has succeeded. -/
  members : List Nat
  /-- Index of the participant that owns this package. -/
  own : Nat
  revoked : List Nat
  deriving DecidableEq, Repr

/-- A packet delivery context: the peer package, class 0 request, 1 response, 2 message, 3 management, and the port it is pinned to (R439). -/
structure PortCtx where
  peer : Nat
  cls : Nat
  port : Nat
  deriving DecidableEq, Repr

/-! ### The inbox -/

/-- A host write through BAR0: offset, size in bytes, value, and the tenant of the selective IDE stream it came on (R455, R463). -/
structure HostWrite where
  offset : Nat
  size : Nat
  value : Word
  stream : Option (BitVec 6)
  deriving DecidableEq, Repr

/-- What reaches the units of the I/O die: the data of the events that carry none. -/
inductive Arrival where
  | hostWrite (w : HostWrite)
  /-- A fetched record of a queue: its 256 bytes, or none where PCIe failed, and what it names. -/
  | record (queue index : Nat) (bytes : Option (List Byte)) (load : Load)
  /-- The commit word of the recovery window: the image's signature and manifest verify. -/
  | commit (signed : Bool)
  /-- Power-on, or a reset of the I/O die; whether the retained state passes its check. -/
  | packageReset (power retained : Bool)
  /-- The running step of the start table ends; dies that failed in it (links for step 5), and for step 4 whether signature and manifest verify, the I/O die's measurements of indices 1 to 6 and the manifest's accepted digests. -/
  | stepEnd (failed : List Nat) (image manifest : Bool) (measured : List Nat) (accepted : List RefEntry)
  | dieExit (d : Nat)
  | loneReset (d : Nat)
  | actl (d : Nat) (resetBit reattest : Bool)
  | spdm (p : Party) (b : SpdmBody)
  | key (m : KeyMsg)
  /-- A flit at the end of a link: direction, its bytes 0 to 3, whether its tag verifies, and its payload (R427). -/
  | flit (link : Nat) (up : Bool) (head : BitVec 32) (tagOk : Bool) (payload : List Piece)
  | replay (link : Nat) (up : Bool) (seq : Nat)
  | linkDown (link : Nat)
  /-- An SPDM request of the host (R454). -/
  | hostSpdm (r : SpdmRequest)
  | lock (t : BitVec 6) (key : Option Nat)
  | getReport (t : BitVec 6)
  | startInterface (t : BitVec 6)
  | stopInterface (t : BitVec 6)
  /-- An IDE failure, or a change to a locked resource. -/
  | tdispFault (t : BitVec 6)
  /-- The last of the start stores of a member: extents and CAPKEY, whether the Assayer has verified a signed grant, and the selective stream it came on. -/
  | grant (order : Nat) (crew : BitVec 16) (core : Nat) (extents : Vector Extent 16) (capkey : BitVec 128) (signed : Bool) (stream : Option (BitVec 6))
  /-- A manifest, the valid quorum signatures by participant and number of the quorum key, the admissions to window 3 that Damilaril installs from it (R440). -/
  | manifest (e : Enclave) (signatures : List (Nat × Nat)) (admits : List Admission)
  | revocation (enclave participant epoch : Nat) (signatures : List (Nat × Nat))
  /-- A junction temperature in °C. -/
  | junction (d : Nat) (temp : Nat)
  | portFail (p : Nat)
  /-- A limit written by Damilaril: 0 package power, 1 die leave limit of die d, 2 cluster leave limit. -/
  | limit (which d v : Nat)
  deriving DecidableEq, Repr

/-! ### The package -/

/-- The I/O die and what is kept once per package. -/
structure Package where
  /-- Physical number of the core under view. -/
  self : Nat
  inbox : List Arrival
  /-- PSTAT (R464). -/
  step : BitVec 4
  ready : Bool
  recovery : Bool
  warm : Bool
  /-- The package has turned itself off (R472). -/
  off : Bool
  /-- Queues and counters that differ from their reset values, by number. -/
  queues : List (Nat × Queue)
  counters : List (Nat × Word)
  orders : List WorkOrder
  nextOrder : Nat
  lastLaunch : Option (BitVec 64)
  /-- Crews reserved and not yet started, work order and crew, in the order in which they launch (R396, R400). -/
  launching : List (Nat × Nat)
  ends : List End
  tenants : Vector Tenant 64
  dies : Vector DieRec 19
  engines : Vector AttestEngine 19
  /-- The I/O die's measurements, indices 1 to 6 (R443, R454). -/
  measured : List Nat
  /-- The reference manifest: it has verified, and its accepted digests (R443). -/
  manifestOk : Bool
  accepted : List RefEntry
  flows : List Flow
  links : Vector Link 26
  /-- Draws of the Assayer's generator: each key is the number of its draw (R447). -/
  draws : Nat
  /-- Draws since the generator was last reseeded, and how often it was (R446). -/
  sinceSeed : Nat
  reseeds : Nat
  /-- ROLLINT is 2^rollint flits (R452). -/
  rollint : Nat
  /-- Soft errors and refused packets of the links, counted for Damilaril (R428). -/
  linkErrors : Nat
  enclaves : List Enclave
  /-- Scale-up ports that are live, and the ordered contexts pinned to them (R439). -/
  ports : Vector Bool 72
  contexts : List PortCtx
  /-- Transport: link-level retry by port, receiver-credit congestion control in place of network-signalled, packets of modes not supported or without authentication that were dropped, bulk packets sent by port (R438, R439, R459). -/
  portRetry : Vector Bool 72
  receiverCredit : Bool
  portDropped : Nat
  bulkSent : Vector Nat 72
  /-- The link IDE stream has its keys; writes of extents and CAPKEY refused without a grant (R455, R457). -/
  linkIde : Bool
  grantsRefused : Nat
  /-- Package power limit in watts, die leave limits as set, dies held at limit 1 (R461, R472). -/
  power : Nat
  limits : Vector Nat 8
  hot : Vector Bool 8
  deriving DecidableEq, Repr

/-- The package at power-on: register fields at the Reset values of R449, R464 and R465, limits at their fused caps (R461). -/
def Package.reset : Package where
  self := 0
  inbox := []
  step := 0
  ready := false
  recovery := false
  warm := false
  off := false
  queues := []
  counters := []
  orders := []
  nextOrder := 0
  lastLaunch := none
  launching := []
  ends := []
  tenants := Vector.replicate 64 Tenant.reset
  dies := Vector.replicate 19 DieRec.reset
  engines := Vector.ofFn fun d => ⟨Config.identitySeed d.val, none, DieCert.made d.val⟩
  measured := []
  manifestOk := false
  accepted := []
  flows := []
  links := Vector.replicate 26 Link.reset
  draws := 0
  sinceSeed := 0
  reseeds := 0
  rollint := 36
  linkErrors := 0
  enclaves := []
  ports := Vector.replicate 72 true
  contexts := []
  portRetry := Vector.replicate 72 false
  receiverCredit := false
  portDropped := 0
  bulkSent := Vector.replicate 72 0
  linkIde := false
  grantsRefused := 0
  power := 2000
  limits := Vector.replicate 8 144
  hot := Vector.replicate 8 false

end Sys2Proof.Machine
end

