-- ==== Sys2Proof/Machine/State.lean ====
section
/-!
DEFINITION. The state of the machine, the names of faults and refusals, and the state after reset.
-/

namespace Sys2Proof.Machine

open Sys2Proof

/-- Why a run stops with a fault. The spec describes every failure as a trap or an error record, so no meaning raises one. Safe. -/
inductive Fault where
  /-- Never raised: no rule of the spec stops the machine. Safe. -/
  | stopped
  deriving DecidableEq, Repr

/-- Why a step is refused. -/
inductive Refusal where
  /-- Raised by the dispatch of an instruction that has no meaning yet. Safe: the run stops. -/
  | notModelled (mnemonic : String)
  deriving DecidableEq, Repr

/-- The machine. -/
structure State where
  res : Vector Res 4
  /-- The residency and the context whose bundle the present step concerns. -/
  curRes : ResNo
  curCtx : CtxNo
  /-- Pairs of the bundle the present step concerns. -/
  bundleLen : Nat
  core : CoreSt
  cl : Cluster
  die : Die
  srv : Servers
  pkg : Package
  env : Env
  deriving DecidableEq, Repr

/-- The machine at power-on: registers at their reset values, no residency on the core, nothing of the start table run (R7, R27, R29, R464, R471). -/
def State.reset : State where
  res := Vector.replicate 4 Res.reset
  curRes := 0
  curCtx := 0
  bundleLen := 1
  core := CoreSt.reset
  cl := Cluster.reset
  die := Die.reset
  srv := Servers.reset
  pkg := Package.reset
  env := Env.reset

end Sys2Proof.Machine
end

