-- ==== Sys2Proof/Machine/Fabric.lean ====
section
/-!
DEFINITION. The fabric as a core meets it: where the routers stand, the way of a packet from router to router, the virtual channel of each item, credit, and the grant of a router's output ports (R418 to R424, R327).
-/

namespace Sys2Proof.Machine

open Sys2Proof

/-! ### Dies, routers and ports (R50, R418 to R420) -/

/-- The router of a physical core. -/
def routerOf (core : Nat) : RouterAt := ⟨core / 144, core % 144 / 12, core % 12⟩

/-- Physical core of a logical one: die permutation, then mirror, then translation (R51, which states no order; DESIGN CHOICE, log entry 34). -/
def Binding.map (b : Binding) (x : Nat) : Option Nat :=
  let d := x / 144
  let dr := if b.dieRow then 1 - d / 4 else d / 4
  let dc := if b.dieCol then 3 - d % 4 else d % 4
  let r : Int := ((if b.mirRow then 11 - x % 144 / 12 else x % 144 / 12 : Nat) : Int) + b.row
  let c : Int := ((if b.mirCol then 11 - x % 12 else x % 12 : Nat) : Int) + b.col
  if 8 ≤ d ∨ r < 0 ∨ 12 ≤ r ∨ c < 0 ∨ 12 ≤ c then none else some ((4 * dr + dc) * 144 + r.toNat * 12 + c.toNat)

/-! ### Memory servers (R429, R430) -/

/-- The server number of a granule of the HBM and of the LPDDR 6 (R430). -/
def hbmServer (g : Nat) : Nat := ([(0, 7), (7, 7), (14, 7), (21, 6)] : List (Nat × Nat)).foldl (fun x p => x ^^^ (g >>> p.1) % 2 ^ p.2) 0
def lpddrServer (g : Nat) : Nat :=
  ([(0, 5), (5, 5), (10, 5), (15, 5), (20, 5), (25, 3)] : List (Nat × Nat)).foldl (fun x p => x ^^^ (g >>> p.1) % 2 ^ p.2) 0

/-- The endpoint of the server that holds an address of a package's server space (R429, R430). -/
def endpointAt (a : Nat) : Nat := if a < 0x8000000000 then 1536 + hbmServer (a / 4096) else 1664 + lpddrServer ((a - 0x8000000000) / 4096)

/-- The gateway of the half of a package that an endpoint belongs to: that of the die's columns, or that which carries the server (R419). -/
def halfOf (endpoint : Nat) : Nat := if endpoint < 1536 then endpoint / 144 % 4 / 2 else if endpoint < 1664 then (endpoint - 1536) / 16 % 4 / 2 else if endpoint < 1696 then (endpoint - 1664) / 16 else 0

/-! ### The way of a packet (R418 to R420) -/

/-- Ports of a router, in the order of R424. -/
def portLocal : Nat := 0
def portNorth : Nat := 1
def portEast : Nat := 2
def portSouth : Nat := 3
def portWest : Nat := 4
def portEdge : Nat := 5

/-- An edge of a die. -/
inductive Edge where
  | north
  | east
  | south
  | west
  deriving DecidableEq, Repr

/-- What a packet makes for on the die where it is: a router of this die, or an edge (R419). -/
inductive Heading where
  | here (row col : Nat)
  | leave (e : Edge)
  deriving DecidableEq, Repr

/-- The edge of a core die that faces the I/O die (R418). -/
def innerEdge (die : Nat) : Edge := if die < 4 then .south else .north

/-- The edge towards the server die of the same number (R418). -/
def outerEdge (die : Nat) : Edge := if die < 4 then .north else .south

/-- The next die along the die row. -/
def alongRow (die d : Nat) : Nat := if die % 4 < d % 4 then die + 1 else die - 1

/-- Towards core die `d`: along the die row, or through the I/O die, as it is where the packet would pass through a quarantined die (R419, R451). -/
def towardsDie (dead : List Nat) (die d : Nat) : Edge :=
  if die / 4 = d / 4 ∧ !(alongRow die d != d && dead.contains (alongRow die d)) then (if die % 4 < d % 4 then .east else .west) else innerEdge die

/-- The core die next to gateway `g` by which the packets of a die leave: that of its own row, or the other one where the first is quarantined (R419, R451). -/
def gatewayDie (dead : List Nat) (g die : Nat) : Nat :=
  let d := die / 4 * 4 + 3 * g
  if dead.contains d then (d + 4) % 8 else d

/-- The gateway that packets of a half use: its own, or the other where its own is quarantined or has no live port (R419, R439). -/
def liveGateway (dead : List Nat) (g : Nat) : Nat := if dead.contains (16 + g) && !dead.contains (16 + (1 - g)) then 1 - g else g

/-- The core die that a target is reached through; none on the I/O die (R419). -/
def throughDie (dead : List Nat) (die : Nat) : Target → Option Nat
  | .core c => some (c / 144)
  | .server e => some (if e < 1664 then (e - 1536) / 16 else gatewayDie dead ((e - 1664) / 16) die)
  | .ioDie => none
  | .package _ _ => some (gatewayDie dead (liveGateway dead (if die % 4 < 2 then 0 else 1)) die)

/-- What a packet makes for on the die that its target is reached through. -/
def lastLeg (die : Nat) : Target → Heading
  | .core c => .here (c % 144 / 12) (c % 12)
  | .server e => .leave (if e < 1664 then outerEdge die else if die % 4 < 2 then .west else .east)
  | .ioDie => .leave (innerEdge die)
  | .package _ _ => .leave (if die % 4 < 2 then .west else .east)

/-- What a packet makes for on core die `die`, while some core dies are quarantined and some gateways closed (R419, R439, R451). -/
def heading (dead : List Nat) (die : Nat) (t : Target) : Heading :=
  match throughDie dead die t with
  | none => .leave (innerEdge die)
  | some d => if d = die then lastLeg die t else .leave (towardsDie dead die d)

/-- The target router of R420: the destination's, or that of the edge in the packet's row or column. -/
def targetRouter (at_ : RouterAt) : Heading → Nat × Nat
  | .here r c => (r, c)
  | .leave .east => (at_.row, 11)
  | .leave .west => (at_.row, 0)
  | .leave .north => (0, at_.col)
  | .leave .south => (11, at_.col)

/-- The output port of a packet at a router: first along X, then along Y (R420). -/
def outPort (dead : List Nat) (at_ : RouterAt) (t : Target) : Nat :=
  let h := heading dead at_.die t
  let g := targetRouter at_ h
  if at_.col < g.2 then portEast
  else if g.2 < at_.col then portWest
  else if at_.row < g.1 then portSouth
  else if g.1 < at_.row then portNorth
  else match h with
    | .here _ _ => portLocal
    | .leave _ => portEdge

/-- The column at which a packet from the I/O die enters core die `d`: that of its destination core, or of its outbound edge router; a packet for the server die keeps its column (R420; log entry 36). -/
def entryColumn (dead : List Nat) (d col : Nat) (t : Target) : Nat :=
  match heading dead d t with
  | .here _ c => c
  | .leave .east => 11
  | .leave .west => 0
  | .leave _ => col

/-- The router after this one, with the port by which the packet enters it; none where the packet leaves the core dies or has arrived (R420). -/
def hop (dead : List Nat) (at_ : RouterAt) (t : Target) : Option (RouterAt × Nat) :=
  let p := outPort dead at_ t
  if p = portEast then some (⟨at_.die, at_.row, at_.col + 1⟩, portWest)
  else if p = portWest then some (⟨at_.die, at_.row, at_.col - 1⟩, portEast)
  else if p = portSouth then some (⟨at_.die, at_.row + 1, at_.col⟩, portNorth)
  else if p = portNorth then some (⟨at_.die, at_.row - 1, at_.col⟩, portSouth)
  else if p = portLocal then none
  else match heading dead at_.die t with
    | .leave .east => if at_.die % 4 < 3 then some (⟨at_.die + 1, at_.row, 0⟩, portEdge) else none
    | .leave .west => if 0 < at_.die % 4 then some (⟨at_.die - 1, at_.row, 11⟩, portEdge) else none
    | .leave e =>
      match throughDie dead at_.die t with
      | some d =>
        if e = innerEdge at_.die then some (⟨d, if d < 4 then 11 else 0, entryColumn dead d at_.col t⟩, portEdge) else none
      | none => none
    | .here _ _ => none

/-- The routers that a packet passes after this one, on fuel (R340, R420). -/
def routeFrom (dead : List Nat) : Nat → RouterAt → Target → List RouterAt
  | 0, _, _ => []
  | n + 1, a, t => match hop dead a t with
    | none => []
    | some b => b.1 :: routeFrom dead n b.1 t

/-- The routers of the way from one core to another, the first one left out. -/
def route (a b : Nat) : List RouterAt := routeFrom [] 256 (routerOf a) (.core b)

/-- The routers of the way from one router to a target, with the port by which the last one is entered, on fuel (R340, R420). -/
def wayIn (dead : List Nat) : Nat → RouterAt → Target → Nat → List RouterAt × Nat
  | 0, a, _, p => ([a], p)
  | n + 1, a, t, p => match hop dead a t with
    | none => ([a], p)
    | some b => let r := wayIn dead n b.1 t b.2; (a :: r.1, r.2)

/-- The router of the core dies at which an answer to the core at `me` enters from a server, the I/O die or a gateway: in the row and column by which the requests left (R419, R420; log entry 36). -/
def answerFrom (dead : List Nat) (me : RouterAt) : Target → RouterAt
  | .core c => routerOf c
  | .server e => if e < 1664 then ⟨(e - 1536) / 16, if (e - 1536) / 16 < 4 then 0 else 11, me.col⟩
      else ⟨gatewayDie dead ((e - 1664) / 16) me.die, me.row, if e < 1680 then 0 else 11⟩
  | .ioDie => ⟨me.die, if me.die < 4 then 11 else 0, me.col⟩
  | .package _ _ => let g := liveGateway dead (if me.die % 4 < 2 then 0 else 1); ⟨gatewayDie dead g me.die, me.row, 11 * g⟩

/-! ### Virtual channels, delivery and sizes (R327, R421, R423) -/

/-- The virtual channel of what a server or a Porter returns: landings are bulk data (R421). -/
def answerVc : Instr → Nat
  | .porterLanding _ => 3
  | _ => 1

/-- The virtual channel of an item (R421, R327); none of an item that is no packet of the mesh. -/
def Out.vc : Out → Option Nat
  | .message _ => some 2
  | .cast _ _ => some 2
  | .clearToSend .. => some 2
  | .bulk .. => some 3
  | .notice .. => some 1
  | .report .. => some 1
  | .refusal .. => some 1
  | .marker .. => some 2
  | .event .. => some 2
  | .room .. => some 1
  | .command .. => some 2
  | .credit .. => some 1
  | .token _ => some 2
  | .landing .. => some 3
  | .request .. => some 0
  | .copyRequest _ => some 0
  | .answer i => some (answerVc i)
  | .served .. => some 1
  | .servedAtomic .. => some 1
  | .servedWrite .. => some 1
  | .start _ => some 0
  | .preemptCrew .. => some 0
  | .spdm .. => some 4
  | .participantKey .. => some 4
  | .revoke .. => some 4
  | _ => none

/-- Ultra Ethernet delivers the item in order (R327). -/
def Out.ordered : Out → Bool
  | .bulk .. => false
  | .landing .. => false
  | _ => true

/-- The rank that an item of the core's network interface goes to. -/
def Out.to : Out → Option Rank
  | .message m => some m.dst
  | .clearToSend d .. => some d
  | .bulk d .. => some d
  | .notice d .. => some d
  | .report d .. => some d
  | .refusal d .. => some d
  | .marker _ d .. => some d
  | .event d _ => some d
  | .room d .. => some d
  | .credit d _ => some d
  | .token t => some t.sender
  | .command c m => some (BitVec.ofNat 27 (Rank.pkg m.src <<< 11 + c))
  | _ => none

/-- Every rank that an item goes to. -/
def Out.tos : Out → List Rank
  | .cast _ ds => ds.map (·.dst)
  | o => o.to.toList

/-- Bytes that an item takes of a receive buffer: its header of 16 bytes and its data (R314, R356; log entry 36). -/
def Out.size : Out → Nat
  | .message m => 16 + m.data.length
  | .cast m _ => 16 + m.data.length
  | .bulk _ _ _ _ d _ => d.length
  | .request q _ => 16 + match q.op with | .write d => d.length | _ => 0
  | _ => 16

/-- Items for which 512 bytes of a VC2 buffer are reserved (R423). -/
def Out.reserved : Out → Bool
  | .clearToSend .. => true
  | .marker .. => true
  | .token _ => true
  | _ => false

/-- Items that wait behind nothing else of their residency at the network interface; a marker stays behind what it follows (R347, R423). -/
def Out.bypasses : Out → Bool
  | .clearToSend .. => true
  | .token _ => true
  | _ => false

/-- Bytes that may be in flight towards a residency on a virtual channel; none where no credit is kept (R423). -/
def Out.limit (o : Out) : Option Nat :=
  match o.vc with
  | some 2 => some (if o.reserved then 16384 else 15872)
  | some 3 => some 16384
  | _ => none

/-- Bytes in flight towards a rank on a channel. -/
def flying (l : List (Rank × Nat × Nat)) (d : Rank) (vc : Nat) : Nat :=
  ((l.find? fun x => x.1 == d && x.2.1 == vc).map (·.2.2)).getD 0

/-- The same after a change. -/
def flyingSet (l : List (Rank × Nat × Nat)) (d : Rank) (vc n : Nat) : List (Rank × Nat × Nat) :=
  let rest := l.filter fun x => !(x.1 == d && x.2.1 == vc)
  if n = 0 then rest else rest ++ [(d, vc, n)]

/-! ### The grant of an output port (R424) -/

/-- The age of a packet now: 1 more for every 16 cycles that it has waited, 1,023 at most. -/
def Parcel.ageNow (p : Parcel) (now : BitVec 64) : Nat := min 1023 (p.age + (now - p.since).toNat / 16)

/-- Whether a packet goes before another: the larger age, then the lower input port, then the lower virtual channel. -/
def Parcel.beats (now : BitVec 64) (p q : Parcel) : Bool :=
  if p.ageNow now ≠ q.ageNow now then decide (q.ageNow now < p.ageNow now)
  else if p.port ≠ q.port then decide (p.port < q.port)
  else decide (p.vc < q.vc)

/-- The packet that a port grants among a list: an earlier one stays unless a later one goes before it. -/
def grantOf (now : BitVec 64) : List Parcel → Option Parcel
  | [] => none
  | p :: t => match grantOf now t with
    | none => some p
    | some q => if q.beats now p then some q else some p

/-- A packet as the router forwards it: 1 is added to its age. -/
def Parcel.forwarded (p : Parcel) (now : BitVec 64) : Parcel := { p with age := min 1023 (p.ageNow now + 1) }

end Sys2Proof.Machine
end

