-- ==== Sys2Proof/Machine/Numeric.lean ====
section
/-!
DEFINITION. Number formats and arithmetic (02_numbers.md): exact values, rounding, conversion and the matrix and reduction rules.
A finite value is held exactly as sign, natural mantissa and power of two, so every operation is exact until it is rounded.
-/

namespace Sys2Proof.Machine

open Sys2Proof

/-- The floating-point formats (R54). -/
inductive FpFmt where
  | fp32
  | fp16
  | bf16
  | e4m3
  | e5m2
  deriving DecidableEq, Repr

def FpFmt.fbits : FpFmt → Nat
  | .fp32 => 23
  | .fp16 => 10
  | .bf16 => 7
  | .e4m3 => 3
  | .e5m2 => 2

def FpFmt.ebits : FpFmt → Nat
  | .fp32 => 8
  | .fp16 => 5
  | .bf16 => 8
  | .e4m3 => 4
  | .e5m2 => 5

def FpFmt.bias : FpFmt → Nat
  | .fp32 => 127
  | .fp16 => 15
  | .bf16 => 127
  | .e4m3 => 7
  | .e5m2 => 15

def FpFmt.width (f : FpFmt) : Nat := 1 + f.ebits + f.fbits

/-- The encoding of the largest finite value. -/
def FpFmt.maxBits : FpFmt → Nat
  | .fp32 => 0x7F7FFFFF
  | .fp16 => 0x7BFF
  | .bf16 => 0x7F7F
  | .e4m3 => 0x7E
  | .e5m2 => 0x7B

/-- The canonical NaN (R54, R56). -/
def FpFmt.nan : FpFmt → Nat
  | .fp32 => 0x7FC00000
  | .fp16 => 0x7E00
  | .bf16 => 0x7FC0
  | .e4m3 => 0x7F
  | .e5m2 => 0x7E

/-- A value: NaN, an infinity, or (−1)^neg × m × 2^e. -/
inductive Val where
  | nan
  | inf (neg : Bool)
  | fin (neg : Bool) (m : Nat) (e : Int)
  deriving DecidableEq, Repr

/-- Value(bits, fmt) of R106. -/
def valueOf (f : FpFmt) (bits : Nat) : Val :=
  let fr := bits % 2 ^ f.fbits
  let ex := (bits >>> f.fbits) % 2 ^ f.ebits
  let neg := bits.testBit (f.ebits + f.fbits)
  let top := 2 ^ f.ebits - 1
  if f = .e4m3 then
    if ex = top ∧ fr = 7 then .nan
    else if ex = 0 then .fin neg fr (1 - (f.bias : Int) - f.fbits)
    else .fin neg (2 ^ f.fbits + fr) ((ex : Int) - f.bias - f.fbits)
  else if ex = top then (if fr = 0 then .inf neg else .nan)
  else if ex = 0 then .fin neg fr (1 - (f.bias : Int) - f.fbits)
  else .fin neg (2 ^ f.fbits + fr) ((ex : Int) - f.bias - f.fbits)

def Val.isNaN : Val → Bool
  | .nan => true
  | _ => false

def Val.isInf : Val → Bool
  | .inf _ => true
  | _ => false

def Val.isZero : Val → Bool
  | .fin _ 0 _ => true
  | _ => false

def Val.neg? : Val → Bool
  | .nan => false
  | .inf n => n
  | .fin n _ _ => n

def Val.negate : Val → Val
  | .nan => .nan
  | .inf n => .inf (!n)
  | .fin n m e => .fin (!n) m e

def Val.abs : Val → Val
  | .nan => .nan
  | .inf _ => .inf false
  | .fin _ m e => .fin false m e

/-- The exact value of an integer. -/
def Val.ofInt (x : Int) : Val := .fin (decide (x < 0)) x.natAbs 0

/-- The mantissas of two finite values over their common power of two, and that power. -/
def align (n1 : Bool) (m1 : Nat) (e1 : Int) (n2 : Bool) (m2 : Nat) (e2 : Int) : Int × Int × Int :=
  let e := min e1 e2
  let a := m1 <<< (e1 - e).toNat
  let b := m2 <<< (e2 - e).toNat
  ((if n1 then -(a : Int) else a), (if n2 then -(b : Int) else b), e)

/-- Exact sum; `rd` says whether a zero sum of opposite signs is −0 (R57). -/
def Val.add (rd : Bool) : Val → Val → Val
  | .nan, _ => .nan
  | _, .nan => .nan
  | .inf a, .inf b => if a = b then .inf a else .nan
  | .inf a, _ => .inf a
  | _, .inf b => .inf b
  | .fin n1 m1 e1, .fin n2 m2 e2 =>
    let r := align n1 m1 e1 n2 m2 e2
    let s := r.1 + r.2.1
    if s = 0 then .fin (if n1 = n2 then n1 else rd) 0 r.2.2
    else .fin (decide (s < 0)) s.natAbs r.2.2

/-- Exact product (R56, R57). -/
def Val.mul : Val → Val → Val
  | .nan, _ => .nan
  | _, .nan => .nan
  | .inf a, .inf b => .inf (a != b)
  | .inf a, .fin n m _ => if m = 0 then .nan else .inf (a != n)
  | .fin n m _, .inf b => if m = 0 then .nan else .inf (n != b)
  | .fin n1 m1 e1, .fin n2 m2 e2 => .fin (n1 != n2) (m1 * m2) (e1 + e2)

/-- Multiplication by 2^k, exact. -/
def Val.scale (k : Int) : Val → Val
  | .fin n m e => .fin n m (e + k)
  | v => v

/-- Ordered a < b; false where either is NaN (R57). -/
def Val.lt : Val → Val → Bool
  | .nan, _ => false
  | _, .nan => false
  | .inf a, .inf b => a && !b
  | .inf a, .fin .. => a
  | .fin .., .inf b => !b
  | .fin n1 m1 e1, .fin n2 m2 e2 => let r := align n1 m1 e1 n2 m2 e2; decide (r.1 < r.2.1)

/-- Ordered and equal; −0 equals +0 (R57). -/
def Val.eq : Val → Val → Bool
  | .nan, _ => false
  | _, .nan => false
  | .inf a, .inf b => a == b
  | .inf _, .fin .. => false
  | .fin .., .inf _ => false
  | .fin n1 m1 e1, .fin n2 m2 e2 => let r := align n1 m1 e1 n2 m2 e2; decide (r.1 = r.2.1)

/-- One step of the rounding LFSR (R67). -/
def lfsrStep (l : BitVec 32) : BitVec 32 := if l.getLsbD 0 then (l >>> 1) ^^^ 0x80200003#32 else l >>> 1

/-- Whether a mode rounds a magnitude away from zero, from the parity of the truncated value and the remainder r of 2^k (R64, R66). -/
def roundUp (rm : BitVec 3) (neg odd : Bool) (r k : Nat) (l : BitVec 32) : Bool :=
  if r = 0 then false
  else match rm.toNat with
    | 0 => decide (2 * r > 2 ^ k) || (decide (2 * r = 2 ^ k) && odd)
    | 1 => false
    | 2 => !neg
    | 3 => neg
    | _ => decide (((r <<< 32) >>> k) > l.toNat)

/-- What a magnitude beyond the largest finite value becomes (R65); E4M3 gives its largest value in every mode. -/
def overflowBits (f : FpFmt) (rm : BitVec 3) (neg : Bool) : Nat :=
  let away := match rm.toNat with
    | 1 => false
    | 2 => !neg
    | 3 => neg
    | _ => true
  if f = .e4m3 then f.maxBits else if away then f.maxBits + 1 else f.maxBits

/-- The magnitude bits of a rounded positive value m × 2^e (R64 to R66). -/
def roundMag (f : FpFmt) (rm : BitVec 3) (neg : Bool) (m : Nat) (e : Int) (l : BitVec 32) : Nat :=
  if m = 0 then 0
  else
    let top := e + (Nat.log2 m : Int)
    let emin := 1 - (f.bias : Int)
    let q := max top emin - f.fbits
    let k := (q - e).toNat
    let t := if q ≤ e then m <<< (e - q).toNat else m >>> k
    let r := if q ≤ e then 0 else m % 2 ^ k
    let be := (q + f.fbits + f.bias).toNat
    let enc (n : Nat) : Nat := (be - 1) * 2 ^ f.fbits + n
    if enc t > f.maxBits then overflowBits f rm neg
    else
      let b := enc (t + (roundUp rm neg (t % 2 == 1) r k l).toNat)
      if b > f.maxBits then overflowBits f rm neg else b

/-- Round(x, fmt, rm) of R106: the encoding of a value rounded to a format. Infinities of E4M3 are NaN (R69). -/
def roundTo (f : FpFmt) (rm : BitVec 3) (l : BitVec 32) : Val → Nat
  | .nan => f.nan
  | .inf n => if f = .e4m3 then f.nan else (if n then 2 ^ (f.width - 1) else 0) + f.maxBits + 1
  | .fin n m e => (if n then 2 ^ (f.width - 1) else 0) + roundMag f rm n m e l

/-- A rounding under SR takes one LFSR value and one step; the other modes take none (R66, R68). -/
def lfsrAfter (rm : BitVec 3) (l : BitVec 32) : BitVec 32 := if rm.toNat = 4 then lfsrStep l else l

/-- A mode rounds towards −∞, so an exactly zero sum of opposite signs is −0 (R57). -/
def isRd (rm : BitVec 3) : Bool := rm.toNat == 3

/-- An exact value rounded to an integer under a mode. -/
def roundInt (rm : BitVec 3) (l : BitVec 32) (n : Bool) (m : Nat) (e : Int) : Int :=
  let k := (-e).toNat
  let t := if 0 ≤ e then m <<< e.toNat else m >>> k
  let r := if 0 ≤ e then 0 else m % 2 ^ k
  let x : Nat := t + (roundUp rm n (t % 2 == 1) r k l).toNat
  if n then -(x : Int) else x

/-- SatS(x, n) of R106. -/
def satS (n : Nat) (x : Int) : Int := max (-(2 ^ (n - 1) : Int)) (min (2 ^ (n - 1) - 1) x)

/-- SatU(x, n) of R106. -/
def satU (n : Nat) (x : Int) : Int := max 0 (min (2 ^ n - 1) x)

/-- A floating-point value converted to an integer of n bits (R69): rounded, then saturated; NaN gives 0. -/
def toInt (rm : BitVec 3) (l : BitVec 32) (signed : Bool) (n : Nat) : Val → Int
  | .nan => 0
  | .inf neg =>
    if signed then (if neg then -(2 ^ (n - 1) : Int) else 2 ^ (n - 1) - 1)
    else (if neg then 0 else 2 ^ n - 1)
  | .fin s m e => let x := roundInt rm l s m e; if signed then satS n x else satU n x

/-- IntRNE(x ÷ 2^k) of R76. -/
def intRNE (x : Int) (k : Nat) : Int := roundInt 0 0 (decide (x < 0)) x.natAbs (-(k : Int))

/-- Minimum and maximum of R78, on values. -/
def maxVal (a b : Val) : Val :=
  if a.isNaN || b.isNaN then .nan
  else if a.isZero && b.isZero then (if a.neg? then b else a)
  else if a.lt b then b else a

def minVal (a b : Val) : Val :=
  if a.isNaN || b.isNaN then .nan
  else if a.isZero && b.isZero then (if a.neg? then a else b)
  else if b.lt a then b else a

/-- The rank order of R79: NaN lowest, then −∞ up to +∞ with −0 below +0. -/
def rankLt (a b : Val) : Bool :=
  if a.isNaN then !b.isNaN
  else if b.isNaN then false
  else if a.isZero && b.isZero then a.neg? && !b.neg?
  else a.lt b

/-- The comparison conditions of floating point (R120). -/
def fpCond (c : Nat) (a b : Val) : Bool :=
  let un := a.isNaN || b.isNaN
  match c with
  | 0 => a.eq b
  | 1 => un || !a.eq b
  | 2 => a.lt b
  | 3 => !un && !a.lt b
  | 4 => !un && !b.lt a
  | 5 => b.lt a
  | 6 => un
  | _ => !un

/-- The comparison conditions of integers (R119), on n-bit patterns. -/
def intCond (n c a b : Nat) : Bool :=
  let sa := signedOf n a
  let sb := signedOf n b
  match c with
  | 0 => a == b
  | 1 => a != b
  | 2 => decide (sa < sb)
  | 3 => decide (sb ≤ sa)
  | 4 => decide (sa ≤ sb)
  | 5 => decide (sb < sa)
  | 6 => decide (a < b)
  | 7 => decide (b ≤ a)
  | 8 => decide (a ≤ b)
  | _ => decide (b < a)

/-! ### Square root -/

/-- One digit step of a restoring square root, on fuel. -/
def isqrtGo : Nat → Nat → Nat → Nat
  | 0, _, r => r
  | k + 1, x, r => let t := r + 2 ^ k; if t * t ≤ x then isqrtGo k x t else isqrtGo k x r

/-- The integer square root, rounded down. -/
def isqrt (x : Nat) : Nat := isqrtGo (Nat.log2 x / 2 + 1) x 0

/-- The square root of m × 2^e with 80 bits below it and a sticky bit, enough for every rounding mode to be exact (R80). -/
def sqrtVal (m : Nat) (e : Int) : Val :=
  let odd := (e % 2).toNat
  let m2 := (m <<< odd) <<< 160
  let r := isqrt m2
  let sticky := if r * r = m2 then 0 else 1
  .fin false (2 * r + sticky) ((e - odd) / 2 - 81)

/-- The exponent n where a finite value is ±2^n exactly. -/
def powerOf (m : Nat) (e : Int) : Option Int := if m ≠ 0 ∧ 2 ^ Nat.log2 m = m then some (e + Nat.log2 m) else none

/-! ### The N4 family (R58 to R60, R70) -/

/-- The magnitude of the integer form q of a code of N4 type T (R59), N4.I apart. -/
def n4Mag (t c : Nat) : Nat :=
  let k := c % 8
  match t with
  | 1 => [0, 1, 2, 3, 4, 6, 8, 12].getD k 0
  | 2 => [0, 1, 2, 4, 8, 16, 32, 64].getD k 0
  | _ => [0, 1, 2, 3, 4, 8, 16, 32].getD k 0

/-- The integer form q of a code (R59). -/
def n4Int (t c : Nat) : Int :=
  if t = 0 then signedOf 4 c
  else if 8 ≤ c % 16 then -(n4Mag t c : Int) else n4Mag t c

/-- The unit exponent u of a type (R59). -/
def n4Unit (t : Nat) : Int :=
  match t with
  | 1 => -1
  | 2 => -6
  | _ => 0

/-- The value of a code under a scale byte (R60). Code 0x8 is −0 but for N4.I. -/
def n4Value (scale c : Nat) : Val :=
  let t := scale / 64 % 4
  let x := scale % 64
  if x = 63 then .nan
  else
    let q := n4Int t c
    .fin (if t = 0 then decide (q < 0) else decide (8 ≤ c % 16)) q.natAbs (n4Unit t + x - 32)

/-- Max(T) as an exact value (R106). -/
def n4Max (t : Nat) : Val :=
  match t with
  | 0 => Val.ofInt 7
  | 1 => Val.ofInt 6
  | 2 => Val.ofInt 1
  | _ => Val.ofInt 32

/-- The greatest of a list of codes whose magnitude is at most the value, and the next one. -/
def n4Adjacent (t : Nat) (v : Val) : Nat × Option Nat :=
  let le (k : Nat) : Bool := !(v.lt (.fin false (n4Mag t k) (n4Unit t)))
  let lo : Nat := if t = 0 then ((List.range 8).filter fun (k : Nat) => !(v.lt (Val.ofInt k))).getLastD 0
    else ((List.range 8).filter le).getLastD 0
  (lo, if lo < 7 then some (lo + 1) else none)

/-- The magnitude of code k (0 to 7) of a type, as an exact value. -/
def n4MagVal (t k : Nat) : Val := if t = 0 then Val.ofInt k else .fin false (n4Mag t k) (n4Unit t)

/-- The code of a value already divided by the block scale (R70); the LFSR value is used under SR. -/
def n4Encode (t : Nat) (rm : BitVec 3) (l : BitVec 32) (v : Val) : Nat :=
  let neg := v.neg?
  let codeOf (k : Nat) : Nat :=
    if k = 0 then 0
    else if t = 0 then (if neg then 16 - k else k)
    else (if neg then 8 + k else k)
  let sat : Nat := if t = 0 then (if neg then 8 else 7) else (if neg then 15 else 7)
  match v with
  | .nan => 0
  | .inf _ => sat
  | .fin _ m e =>
    let a := Val.fin false m e
    -- N4.I reaches −8
    if t = 0 ∧ neg ∧ !(a.lt (Val.ofInt 7)) then
      if !(a.lt (Val.ofInt 8)) then 8
      else
        let r := align false m e false 7 0
        let d := (r.1 - r.2.1).toNat
        let k := (-r.2.2).toNat
        if roundUp rm neg true d k l then 8 else 9
    else match n4Adjacent t a with
      | (lo, none) => if (n4MagVal t lo).eq a then codeOf lo else sat
      | (lo, some hi) =>
        match n4MagVal t lo, n4MagVal t hi with
        | .fin _ ml el, .fin _ mh eh =>
          let ea := min e (min el eh)
          let x := m <<< (e - ea).toNat
          let xl := ml <<< (el - ea).toNat
          let xh := mh <<< (eh - ea).toNat
          let d := x - xl
          let g := xh - xl
          let up : Bool :=
            if d = 0 then false
            else match rm.toNat with
              | 0 => decide (2 * d > g) || (decide (2 * d = g) && hi % 2 == 0)
              | 1 => false
              | 2 => !neg
              | 3 => neg
              | _ => decide (d * 2 ^ 32 / g > l.toNat)
          codeOf (if up then hi else lo)
        | _, _ => 0

/-! ### Reduction trees (R77) -/

/-- One level of the pairwise tree: an absent right child passes the left one unchanged. The nodes take their LFSR values level by level, lowest node first (DESIGN CHOICE, log entry 28). -/
def treeLevel {α : Type} (op : α → α → BitVec 32 → α × BitVec 32) : List α → BitVec 32 → List α × BitVec 32
  | a :: b :: t, l =>
    let r := op a b l
    let q := treeLevel op t r.2
    (r.1 :: q.1, q.2)
  | [a], l => ([a], l)
  | [], l => ([], l)

/-- The whole tree, on fuel of at least its number of levels. -/
def treeFold {α : Type} (op : α → α → BitVec 32 → α × BitVec 32) : Nat → List α → BitVec 32 → List α × BitVec 32
  | 0, xs, l => (xs, l)
  | k + 1, xs, l =>
    match xs with
    | _ :: _ :: _ => let r := treeLevel op xs l; treeFold op k r.1 r.2
    | _ => (xs, l)

/-! ### The exponent-aligned sum (R76) -/

/-- The state of one element of a reduction: mantissa, exponent, empty, NaN. -/
structure AccxState where
  m : Int
  e : Int
  empty : Bool
  nan : Bool
  deriving DecidableEq, Repr

/-- Halving until the mantissa is below 2^62, on fuel. -/
def accxNorm : Nat → Int → Int → Int × Int
  | 0, m, e => (m, e)
  | k + 1, m, e => if m.natAbs ≥ 2 ^ 62 then accxNorm k (intRNE m 1) (e + 1) else (m, e)

/-- A shift of a mantissa right by d places, with ties to even; 64 places or more give 0. -/
def accxShift (x : Int) (d : Nat) : Int := if 64 ≤ d then 0 else intRNE x d

/-- One arrival (S, E) applied to an element (R76). -/
def accxApply (st : AccxState) (s : Int) (ew : BitVec 32) : AccxState :=
  if ew = 0x80000000 ∨ st.nan then { st with nan := true, empty := false }
  else
    let e := ew.toInt
    if st.empty then ⟨s, e, false, false⟩
    else
      let m0 := if st.e < e then accxShift st.m (e - st.e).toNat else st.m
      let e0 := max st.e e
      let ad := if st.e < e then s else accxShift s (st.e - e).toNat
      let r := accxNorm 4 (m0 + ad) e0
      ⟨r.1, r.2, false, false⟩

end Sys2Proof.Machine
end

