-- ==== Sys2Proof/Machine/Special.lean ====
section
/-!
DEFINITION. The special-function unit (R80 to R82): the stated results, the band of permitted results, and a free value in that band that is monotone.
Real numbers stand as integers of 2^-256 here.
-/

namespace Sys2Proof.Machine

open Sys2Proof

/-! ### Stated results (R81) -/

/-- The result that R81 states for a function; none where R80 bounds it, and for the square root of a positive number. -/
def sfuStated (fn : BitVec 4) (v : Val) : Option (BitVec 32) :=
  let one : BitVec 32 := 0x3F800000
  let inf (n : Bool) : BitVec 32 := if n then 0xFF800000 else 0x7F800000
  let zero (n : Bool) : BitVec 32 := if n then 0x80000000 else 0
  let nan : BitVec 32 := 0x7FC00000
  let rne (w : Val) : BitVec 32 := BitVec.ofNat 32 (roundTo .fp32 0 0 w)
  match v with
  | .nan => some nan
  | .inf n => some (match fn.toNat with
    | 0 => if n then zero false else inf false
    | 1 => if n then nan else inf false
    | 2 => zero n
    | 3 => if n then nan else zero false
    | 4 => if n then nan else inf false
    | 5 => if n then 0xBF800000 else one
    | 6 => if n then zero false else one
    | _ => nan)
  | .fin n m e =>
    if m = 0 then some (match fn.toNat with
      | 0 => one
      | 1 => inf true
      | 2 => inf n
      | 3 => inf n
      | 4 => zero n
      | 5 => zero n
      | 6 => 0x3F000000
      | 7 => zero n
      | _ => one)
    else match fn.toNat with
      | 0 =>
        let i := roundInt 1 0 n m e
        if !(v.lt (Val.ofInt 128)) then some (inf false)
        else if v.lt (Val.ofInt (-150)) then some (zero false)
        else if (Val.ofInt i).eq v ∧ -149 ≤ i then some (rne (.fin false 1 i))
        else none
      | 1 => if n then some nan else (powerOf m e).map fun k => rne (Val.ofInt k)
      | 2 => (powerOf m e).map fun k => if -127 ≤ k then rne (.fin n 1 (-k)) else inf n
      | 3 => if n then some nan else match powerOf m e with
        | some k => if k % 2 = 0 then some (rne (.fin false 1 (-(k / 2)))) else none
        | none => none
      | 4 => if n then some nan else none
      | 5 => if v.abs.lt (.fin false 73 (-3)) then none else some (if n then 0xBF800000 else one)
      | 6 =>
        if !(v.lt (Val.ofInt 17)) then some one
        else if !((Val.ofInt (-104)).lt v) then some (zero false)
        else none
      | _ => none

/-! ### The exact functions to within 2^-196 -/

def fixOne : Nat := 2 ^ 256
/-- π at 2^-512, and the natural logarithm of 2 at 2^-256. -/
def fixPi : Nat := 0x3243f6a8885a308d313198a2e03707344a4093822299f31d0082efa98ec4e6c89452821e638d01377be5466cf34e90c6cc0ac29b7c97c50dd3f84d5b5b5470917
def fixLn2 : Nat := 0xb17217f7d1cf79abc9e3b39803f2f6af40f343267298b62d8a0d175b8baafa2b

/-- Terms of the series of e^t: fuel, t, index of the next term, the present term, the sum. -/
def expSeries : Nat → Nat → Nat → Nat → Nat → Nat
  | 0, _, _, _, a => a
  | n + 1, t, k, u, a => expSeries n t (k + 1) (u * t / fixOne / k) (a + u)

/-- A number squared over and over. -/
def fixSquares : Nat → Nat → Nat
  | 0, y => y
  | n + 1, y => fixSquares n (y * y / fixOne)

/-- e^x for x ≥ 0, and for any x. -/
def fixExp (x : Nat) : Nat := fixSquares 8 (expSeries 64 (x >>> 8) 1 fixOne 0)
def fixExpInt (x : Int) : Nat := if 0 ≤ x then fixExp x.toNat else fixOne * fixOne / fixExp (-x).toNat

/-- Binary digits of the logarithm of y in [1, 2), held at 2^-512. -/
def logDigits : Nat → Nat → Nat → Nat
  | 0, _, a => a
  | n + 1, y, a =>
    let z := (y * y) >>> 512
    if 2 ^ 513 ≤ z then logDigits n (z >>> 1) (2 * a + 1) else logDigits n z (2 * a)

/-- Alternating series of sine and cosine: fuel, the square of the argument, index, term, sum and its next sign. -/
def trigSeries : Nat → Nat → Nat → Nat → Int → Bool → Int
  | 0, _, _, _, a, _ => a
  | n + 1, r2, k, u, a, neg => trigSeries n r2 (k + 2) (u * r2 / fixOne / ((k + 1) * (k + 2))) (if neg then a - u else a + u) (!neg)

/-- m × 2^e at a scale of 2^-k. -/
def fixScale (k : Int) (m : Nat) (e : Int) : Nat := if 0 ≤ e + k then m <<< (e + k).toNat else m >>> (-(e + k)).toNat

/-- With the sign of the argument. -/
def signed (n : Bool) (x : Int) : Int := if n then -x else x

/-- Sine, or cosine, of a positive number by its remainder modulo π. -/
def fixTrig (cosine : Bool) (m : Nat) (e : Int) : Int :=
  let x := fixScale 512 m e
  let r := (x % fixPi) >>> 256
  signed (x / fixPi % 2 == 1) (trigSeries 48 (r * r / fixOne) (if cosine then 0 else 1) (if cosine then fixOne else r) 0 false)

/-- The exact value of a function at (−1)^n × m × 2^e, m not 0. -/
def sfuExact (fn : BitVec 4) (n : Bool) (m : Nat) (e : Int) : Int :=
  let x : Int := signed n (fixScale 256 m e)
  match fn.toNat with
  | 0 => fixExpInt (signed n (fixScale 0 (m * fixLn2) e))
  | 1 => (e + Nat.log2 m) * 2 ^ 256 + logDigits 200 (m <<< (512 - Nat.log2 m)) 0 * 2 ^ 56
  | 2 => signed n (2 ^ (256 - e).toNat / m : Nat)
  | 3 => isqrt (2 ^ (512 - e).toNat / m)
  | 5 => signed n (fixOne - (2 * fixOne * fixOne / (fixExp (2 * fixScale 256 m e) + fixOne) : Nat))
  | 6 => fixOne * fixOne / (fixOne + fixExpInt (-x))
  | 7 => signed n (fixTrig false m e)
  | _ => fixTrig true m e

/-! ### The band of R80 and the range of R82 -/

/-- One unit in the last place at a value; the spacing of the subnormal grid below 2^-126. -/
def fixUlp (v : Nat) : Nat := 2 ^ (max (Nat.log2 v) 130 - 23)

/-- How far a result may lie from the exact value: the larger of the two bounds, and the error of this file's arithmetic. -/
def sfuBound (fn : BitVec 4) (x : Val) (v : Nat) : Nat :=
  let ulps := (if fn.toNat = 2 then 1 else 2) * fixUlp v
  let most := if fn.toNat = 1 then (if !(x.lt (.fin false 1 (-1))) && !((Val.ofInt 2).lt x) then 2 ^ 234 else 0)
    else if 5 ≤ fn.toNat then 2 ^ 232 else 0
  max ulps most + 2 ^ 60 + (v >>> 128)

/-- The least and the greatest value of a function's range, where it is bounded (R82). -/
def sfuFloor (fn : BitVec 4) : Option Int :=
  match fn.toNat with
  | 0 => some 0
  | 3 => some 0
  | 5 => some (-fixOne)
  | 6 => some 0
  | 7 => some (-fixOne)
  | 8 => some (-fixOne)
  | _ => none
def sfuCeil (fn : BitVec 4) : Option Int := if 5 ≤ fn.toNat then some fixOne else none

/-- The greatest FP32 value not above a number, and the least not below it; infinite from 2^128 on. -/
def fpBelow (x : Int) : BitVec 32 :=
  if 2 ^ 384 ≤ x then 0x7F800000 else BitVec.ofNat 32 (roundTo .fp32 3 0 (.fin (decide (x < 0)) x.natAbs (-256)))
def fpAbove (x : Int) : BitVec 32 := if x = 0 then 0 else fpBelow (-x) ^^^ 0x80000000

/-- The FP32 results that R80 to R82 permit at an input: the least and the greatest. -/
def sfuBand (fn : BitVec 4) (x : BitVec 32) : BitVec 32 × BitVec 32 :=
  match sfuStated fn (valueOf .fp32 x.toNat), valueOf .fp32 x.toNat with
  | some r, _ => (r, r)
  | none, .fin n m e =>
    let v := sfuExact fn n m e
    let b : Int := sfuBound fn (.fin n m e) v.natAbs
    (fpAbove (match sfuFloor fn with | some f => max f (v - b) | none => v - b),
     fpBelow (match sfuCeil fn with | some c => min c (v + b) | none => v + b))
  | none, _ => (0, 0)

/-! ### Monotone results (R82) -/

/-- FP32 encodings in the order of their values, as integers, and back. -/
def fpKey (c : BitVec 32) : Int := if c.getLsbD 31 then -1 - (c.toNat % 2 ^ 31 : Nat) else c.toNat
def fpOfKey (k : Int) : BitVec 32 := if k < 0 then BitVec.ofNat 32 (2 ^ 31 + (-1 - k).toNat) else BitVec.ofNat 32 k.toNat

/-- The interval of inputs, by number, on which a function is monotone around an input, and whether it rises there. -/
def sfuPiece (fn : BitVec 4) : Val → Option (Int × Bool)
  | .fin n m e =>
    let half : Int := fixPi / 2
    match fn.toNat with
    | 0 => some (0, true)
    | 1 => if n ∨ m = 0 then none else some (0, true)
    | 2 => if m = 0 then none else some (if n then 1 else 0, false)
    | 3 => if n ∨ m = 0 then none else some (0, false)
    | 5 => some (0, true)
    | 6 => some (0, true)
    | 7 => let q := Int.fdiv (signed n (fixScale 512 m e) + half) fixPi; some (q, q % 2 == 0)
    | 8 => let q := Int.fdiv (signed n (fixScale 512 m e)) fixPi; some (q, q % 2 == 1)
    | _ => none
  | _ => none

/-- Two inputs stand in one interval, and the function's value at the first is not above that at the second. -/
def sfuBefore (fn : BitVec 4) (y z : BitVec 32) : Bool :=
  match sfuPiece fn (valueOf .fp32 y.toNat), sfuPiece fn (valueOf .fp32 z.toNat) with
  | some p, some q => p == q && (if p.2 then decide (fpKey y ≤ fpKey z) else decide (fpKey z ≤ fpKey y))
  | _, _ => false

/-- Fold over the first `n` encodings. -/
def foldCodes (f : Int → BitVec 32 → Int) : Nat → Int → Int
  | 0, a => a
  | n + 1, a => foldCodes f n (f a (BitVec.ofNat 32 n))

/-- The greatest permitted result at an input that no later input's band contradicts. -/
def sfuTop (fn : BitVec 4) (y : BitVec 32) : Int :=
  foldCodes (fun a z => if sfuBefore fn y z then min a (fpKey (sfuBand fn z).2) else a) (2 ^ 32) (fpKey (sfuBand fn y).2)

/-- The free value of an input moved into its band. -/
def sfuInBand (fn : BitVec 4) (y : BitVec 32) : Int := min (max (fpKey (Config.sfuValue fn y)) (fpKey (sfuBand fn y).1)) (sfuTop fn y)

/-- A result that R81 does not state: free within the band, and monotone as the greatest of the values at the inputs before it (R80, R82, log entry 7). -/
def sfuFree (fn : BitVec 4) (x : BitVec 32) : BitVec 32 :=
  fpOfKey (foldCodes (fun a y => if sfuBefore fn y x then max a (sfuInBand fn y) else a) (2 ^ 32) (fpKey (sfuBand fn x).1))

/-- A special function of R80 to R82 on an FP32 value; SQRT is rounded under the mode. -/
def sfu (fn : BitVec 4) (rm : BitVec 3) (l : BitVec 32) (x : BitVec 32) : BitVec 32 :=
  match sfuStated fn (valueOf .fp32 x.toNat) with
  | some r => r
  | none =>
    if fn.toNat = 4 then
      match valueOf .fp32 x.toNat with
      | .fin _ m e => BitVec.ofNat 32 (roundTo .fp32 rm l (sqrtVal m e))
      | _ => 0
    else sfuFree fn x

end Sys2Proof.Machine
end

