-- ==== Sys2Proof/Machine/Ops.lean ====
section
/-!
DEFINITION. The named operations over registers, local memory and the shared structures of a core, and taking a trap.
-/

namespace Sys2Proof.Machine

open Sys2Proof

/-! ### Reaching the parts of the state -/

/-- The residency whose bundle the step concerns. -/
def State.r (s : State) : Res := s.res.get s.curRes

/-- The context whose bundle the step concerns. -/
def State.c (s : State) : Ctx := s.r.ctx.get s.curCtx

/-- Change residency `k`. -/
def State.modRes (s : State) (k : ResNo) (f : Res → Res) : State :=
  { s with res := s.res.set k.val (f (s.res.get k)) k.isLt }

/-- Change the present residency. -/
def State.modR (s : State) (f : Res → Res) : State := s.modRes s.curRes f

/-- Change context `k` of a residency. -/
def Res.modCtx (r : Res) (k : CtxNo) (f : Ctx → Ctx) : Res :=
  { r with ctx := r.ctx.set k.val (f (r.ctx.get k)) k.isLt }

/-- Change context `k` of the present residency. -/
def State.modCtx (s : State) (k : CtxNo) (f : Ctx → Ctx) : State := s.modR fun r => r.modCtx k f

/-- Change the present context. -/
def State.modC (s : State) (f : Ctx → Ctx) : State := s.modCtx s.curCtx f

/-- Change what the core holds once. -/
def State.modCore (s : State) (f : CoreSt → CoreSt) : State := { s with core := f s.core }

/-- Change what the model itself holds. -/
def State.modEnv (s : State) (f : Env → Env) : State := { s with env := f s.env }

/-- Add an arrival to the agenda. -/
def State.post (s : State) (i : Instr) : State := s.modEnv fun e => { e with agenda := e.agenda ++ [i] }

/-- Add an arrival due `n` cycles from now. -/
def State.after (s : State) (n : Nat) (i : Instr) : State :=
  s.modEnv fun e => { e with timers := e.timers ++ [(s.core.cycle + BitVec.ofNat 64 n, i)] }

/-- A fresh number for a request, a send or a task. -/
def State.fresh (s : State) : Nat := s.core.nextId

/-- The counter of such numbers moves on. -/
def State.bump (s : State) : State := s.modCore fun c => { c with nextId := c.nextId + 1 }

/-- A context number from a four-bit field. -/
def ctxOf (k : BitVec 4) : CtxNo := ⟨k.toNat % 11, Nat.mod_lt _ (by decide)⟩

/-- A residency number from a two-bit field. -/
def resOf (k : BitVec 2) : ResNo := ⟨k.toNat % 4, Nat.mod_lt _ (by decide)⟩

/-! ### Registers (R27, R28, R91) -/

/-- The register a five-bit field names on a side. -/
def regOf (side : Bool) (x : BitVec 5) : BitVec 6 := BitVec.ofBool side ++ x

/-- The predicate a four-bit field names on a side. -/
def predOf (side : Bool) (x : BitVec 4) : BitVec 5 := BitVec.ofBool side ++ x

/-- A scalar register: s0 and s32 read zero (R28). -/
def Ctx.readS (c : Ctx) (r : BitVec 6) : Word :=
  if r.toNat % 32 = 0 then 0 else c.s.get ⟨r.toNat, r.isLt⟩

/-- A predicate: p0 and p16 read true (R28). -/
def Ctx.readP (c : Ctx) (r : BitVec 5) : Bool :=
  if r.toNat % 16 = 0 then true else c.p.get ⟨r.toNat, r.isLt⟩

/-- Land a result in its register; writes to s0, s32, p0 and p16 are discarded (R28). -/
def Ctx.write (c : Ctx) (d : Dest) (v : Word) : Ctx :=
  match d with
  | .s r => if r.toNat % 32 = 0 then c else { c with s := c.s.set r.toNat v r.isLt }
  | .p r => if r.toNat % 16 = 0 then c else { c with p := c.p.set r.toNat (v.getLsbD 0) r.isLt }

/-- Whether a destination discards what is written to it. -/
def Dest.void : Dest → Bool
  | .s r => r.toNat % 32 == 0
  | .p r => r.toNat % 16 == 0

/-- The results still in flight after one more bundle of the context issues (R99). -/
def flightLeft : List Flight → List Flight
  | [] => []
  | f :: t => if f.rem ≤ 1 then flightLeft t else { f with rem := f.rem - 1 } :: flightLeft t

/-- Land, oldest first, the results that become visible at this bundle; the later-issued one stands (R99, R100). -/
def landDue : List Flight → Ctx → Ctx
  | [], c => c
  | f :: t, c => landDue t (if f.rem ≤ 1 then c.write f.dest f.val else c)

/-- The context as its next bundle sees it (R99). -/
def Ctx.landed (c : Ctx) : Ctx := { landDue c.flight c with flight := flightLeft c.flight }

/-- Land every result of a list at once, in order (R101). -/
def landList : List Flight → Ctx → Ctx
  | [], c => c
  | f :: t, c => landList t (c.write f.dest f.val)

/-- Land all results of the present mode at once (R101). -/
def Ctx.landAll (c : Ctx) : Ctx := { landList c.flight c with flight := [] }

/-- Schedule a result of latency `n` (R99). -/
def Ctx.schedule (c : Ctx) (d : Dest) (v : Word) (n : Nat) : Ctx := { c with flight := c.flight ++ [⟨d, v, n⟩] }

/-! ### Memory as cells -/

/-- The byte at a key; an unlisted key reads 0 (R29, R471). -/
def memGet : List Host.Cell → Nat → Byte
  | [], _ => 0
  | (k, b) :: t, a => if k = a then b else memGet t a

/-- Write one byte, keeping the canonical form: rising keys, no zero byte listed. -/
def memSet : List Host.Cell → Nat → Byte → List Host.Cell
  | [], a, v => if v = 0 then [] else [(a, v)]
  | (k, b) :: t, a, v =>
    if a < k then (if v = 0 then (k, b) :: t else (a, v) :: (k, b) :: t)
    else if a = k then (if v = 0 then t else (a, v) :: t)
    else (k, b) :: memSet t a v

/-- The canonical form of a memory: keys above `lo` and rising, no zero byte listed. -/
def memWfFrom : Option Nat → List Host.Cell → Bool
  | _, [] => true
  | lo, (k, b) :: t => (match lo with | none => true | some l => decide (l < k)) && b != 0 && memWfFrom (some k) t

/-- The canonical form of a memory. -/
def Memory.wf (m : List Host.Cell) : Bool := memWfFrom none m

/-- The `n` bytes from a key. -/
def memBytes (m : List Host.Cell) (a : Nat) : Nat → List Byte
  | 0 => []
  | n + 1 => memGet m a :: memBytes m (a + 1) n

/-- Write bytes from a key on. -/
def memPut (m : List Host.Cell) (a : Nat) : List Byte → List Host.Cell
  | [] => m
  | b :: t => memPut (memSet m a b) (a + 1) t

/-- The number held by a list of bytes, lowest address first (R4). -/
def leNat : List Byte → Nat
  | [] => 0
  | b :: t => b.toNat + 256 * leNat t

/-- The `n` bytes of a number, lowest address first (R4). -/
def leBytes : Nat → Nat → List Byte
  | 0, _ => []
  | n + 1, x => BitVec.ofNat 8 x :: leBytes n (x / 256)

/-- The number in the `n` bytes from a key. -/
def memNat (m : List Host.Cell) (a n : Nat) : Nat := leNat (memBytes m a n)

/-- Every listed cell with a key in [lo, hi) removed: those bytes then read 0. -/
def memZero (m : List Host.Cell) (lo hi : Nat) : List Host.Cell := m.filter fun x => x.1 < lo || hi ≤ x.1

/-- Insert a number into a rising list without repeats. -/
def setAdd : List Nat → Nat → List Nat
  | [], x => [x]
  | k :: t, x => if x < k then x :: k :: t else if x = k then k :: t else k :: setAdd t x

/-- Change the core's memory. -/
def State.modMem (s : State) (f : List Host.Cell → List Host.Cell) : State :=
  s.modCore fun c => { c with mem := f c.mem }

/-! ### Model keys of the core's memories -/

/-- Accumulator word (row, column) (R186). -/
def accKey (row col : Nat) : Nat := 0x200000 + 1024 * row + 4 * col

/-- Byte `o` of tile register `n`. -/
def tileKey (n o : Nat) : Nat := 0x400000 + 0x8000 * n + o

/-- Byte `o` of the scale store of tile register `n` (R62). -/
def scaleKey (n o : Nat) : Nat := 0x500000 + 0x1000 * n + o

/-- Byte `o` of mask tile `m`, 64 bytes a row (R389). -/
def maskKey (m o : Nat) : Nat := 0x600000 + 0x4000 * m + o

/-- The pair at an index of the instruction store (R83). -/
def State.pairAt (s : State) (p : Pair) : BitVec 64 := BitVec.ofNat 64 (memNat s.core.mem (0x300000 + 8 * p.toNat) 8)

/-! ### Causes (R370 to R377) -/

namespace Cause
def illegalOpcode : BitVec 7 := 0x01
def illegalExtension : BitVec 7 := 0x02
def illegalBundle : BitVec 7 := 0x03
def illegalOperand : BitVec 7 := 0x04
def fetchFault : BitVec 7 := 0x05
def userTrap : BitVec 7 := 0x06
def breakpoint : BitVec 7 := 0x07
def windowFault : BitVec 7 := 0x10
def blockLength : BitVec 7 := 0x11
def formatReserved : BitVec 7 := 0x12
def unmapped : BitVec 7 := 0x13
def straddle : BitVec 7 := 0x14
def misaligned : BitVec 7 := 0x15
def rangeLock : BitVec 7 := 0x16
def formatMismatch : BitVec 7 := 0x20
def accFirstUse : BitVec 7 := 0x21
def tileFirstUse : BitVec 7 := 0x22
def scheduleViolation : BitVec 7 := 0x23
def scaleSequence : BitVec 7 := 0x24
def capabilityRefused : BitVec 7 := 0x25
def accxMismatch : BitVec 7 := 0x26
def poolExhausted : BitVec 7 := 0x30
def noGroup : BitVec 7 := 0x31
def packetOverrun : BitVec 7 := 0x32
def packetAborted : BitVec 7 := 0x33
def malformed : BitVec 7 := 0x34
def destEnded : BitVec 7 := 0x35
def extentMiss : BitVec 7 := 0x40
def extentRights : BitVec 7 := 0x41
def serverError : BitVec 7 := 0x42
def notImplemented : BitVec 7 := 0x43
def peerDead : BitVec 7 := 0x44
def eventRefused : BitVec 7 := 0x50
def exchCollision : BitVec 7 := 0x51
def exchMissed : BitVec 7 := 0x52
def bellMismatch : BitVec 7 := 0x53
def ringMismatch : BitVec 7 := 0x54
def privilege : BitVec 7 := 0x60
def nestedTrap : BitVec 7 := 0x61
def memoryUncorrectable : BitVec 7 := 0x70
def fetchUncorrectable : BitVec 7 := 0x71
def machineCheck : BitVec 7 := 0x72
end Cause

/-- A cause to raise, its information words, and the deferred error it uses up, if it is one (R192). -/
structure TrapReq where
  cause : BitVec 7
  info0 : Word
  info1 : Word
  drop : Option Deferred
  deriving DecidableEq, Repr

/-- A cause that uses up no deferred error. -/
def trapWith (cause : BitVec 7) (i0 i1 : Word) : TrapReq := ⟨cause, i0, i1, none⟩

/-- The Issue layout of R369: slot, and the value of the ra register or 0. -/
def issueTrap (cause : BitVec 7) (slot : Nat) (ra : Word) : TrapReq := ⟨cause, BitVec.ofNat 64 slot, ra, none⟩

/-- The Deferred layout of R369. -/
def Deferred.trap (d : Deferred) : TrapReq :=
  ⟨d.cause, BitVec.ofNat 64 (d.pair.toNat + d.chan.toNat <<< 16 + d.tid.toNat <<< 32), d.addr, some d⟩

/-! ### Causes of kind N (R368) -/

/-- Record an N cause against a context; context 0 where that one is FREE. -/
def State.pendN (s : State) (k : ResNo) (c : CtxNo) (cause : BitVec 7) (i0 i1 : Word) : State :=
  s.modRes k fun r =>
    let n : CtxNo := if (r.ctx.get c).status = .free then 0 else c
    r.modCtx n fun x => { x with pending := x.pending ++ [⟨cause, i0, i1⟩] }

/-! ### The error queue (R208, R209) -/

/-- PostError: append an entry, or set OVF where the queue is full (R106, R208). -/
def Res.postError (r : Res) (e : ErrEntry) : Res :=
  if r.errq.length < 32 then { r with errq := r.errq ++ [e] } else { r with errOvf := true }

/-- An entry of R209. -/
def errEntry (cause : BitVec 7) (ctx : CtxNo) (pair : Pair) (tid : BitVec 32) (ptr : Word) (peer : Nat) (chan : Nat) (info : Word) : ErrEntry :=
  ⟨BitVec.ofNat 64 (cause.toNat + ctx.val <<< 8 + pair.toNat <<< 16 + tid.toNat <<< 32), ptr,
   BitVec.ofNat 64 (peer % 2 ^ 27 + chan <<< 32), info⟩

/-! ### Mailboxes (R276) and channels (R185) -/

/-- The trip test after a change (R276). -/
def Mbox.trip (m : Mbox) : Mbox :=
  if m.posted ∧ m.target.toNat ≤ m.count.toNat then
    { m with count := m.count - m.target, posted := false, trips := m.trips + 1,
             excess := m.excess || decide (m.count.toNat - m.target.toNat > 0) }
  else m

/-- An arrival of `n` bytes (R276). -/
def Mbox.arrive (m : Mbox) (n : Nat) : Mbox :=
  (if m.count.toNat + n < 2 ^ 48 then { m with count := m.count + BitVec.ofNat 48 n }
   else { m with count := BitVec.allOnes 48, excess := true }).trip

/-- Change mailbox `k` of a residency. -/
def Res.modMbox (r : Res) (k : BitVec 4) (f : Mbox → Mbox) : Res :=
  { r with mboxes := r.mboxes.set k.toNat (f (r.mboxes.get ⟨k.toNat, k.isLt⟩)) k.isLt }

/-- An arrival at a mailbox, where one is named. -/
def Res.credit (r : Res) (k : Option (BitVec 4)) (n : Nat) : Res :=
  match k with
  | none => r
  | some m => r.modMbox m (·.arrive n)

/-- CHDONE moves over IDs that completed early, on fuel. -/
def chanSettle : Nat → Chan → Chan
  | 0, c => c
  | k + 1, c => if c.ahead.contains c.done then chanSettle k { c with done := c.done + 1, ahead := c.ahead.filter (· != c.done) } else c

/-- The completion of one transfer ID (R185). -/
def Chan.complete (c : Chan) (id : BitVec 32) : Chan :=
  chanSettle (c.ahead.length + 1) { c with ahead := if c.ahead.contains id then c.ahead else id :: c.ahead }

/-- Change channel `k` of a residency. -/
def Res.modChan (r : Res) (k : BitVec 3) (f : Chan → Chan) : Res :=
  { r with chans := r.chans.set k.toNat (f (r.chans.get ⟨k.toNat, k.isLt⟩)) k.isLt }

/-- The next transfer ID of a channel of the present residency. -/
def State.nextTid (s : State) (k : BitVec 3) : BitVec 32 := (s.r.chans.get ⟨k.toNat, k.isLt⟩).next

/-- A transfer takes its ID (R185). -/
def State.takeTid (s : State) (k : BitVec 3) : State := s.modR (·.modChan k fun c => { c with next := c.next + 1 })

/-! ### Items that leave the core, and their way to a core (R52, R419, R423) -/

/-- A residency that has been placed and has not ended. -/
def Phase.alive : Phase → Bool
  | .placed => true
  | .live => true
  | .frozen => true
  | _ => false

/-- The binding of a crew that has been placed, for its logical core x: that of its slots, or the last one of a crew that holds none now (R51, R52). -/
def Crew.bound (c : Crew) (ic : ImageCrew) (x : Nat) : Option Nat :=
  match c.slots.find? fun p => p.logical == x with
  | some p => some p.core
  | none => if c.stage != .waiting && ic.members.contains x then c.binding.map x else none

/-- The physical core to which the binding of a work order takes a logical core (R51, R52). The core of a crew that has not been placed yet, or of a work order that the dispatcher does not know, keeps its number (DESIGN CHOICE, log entry 74). -/
def State.physicalOf (s : State) (order x : Nat) : Nat :=
  if (List.finRange 4).any fun k => (s.res.get k).phase.alive && (s.res.get k).order == order && Rank.core (s.res.get k).rank == x then s.pkg.self
  else match s.pkg.orders.find? fun w => w.id == order with
  | none => x
  | some w => ((w.crews.zip w.image.crews).findSome? fun p => p.1.bound p.2 x).getD x

/-- Where a rank of a work order is; another package is to be entered by the gateway of the rank's half (R52, R419; log entry 36). -/
def State.targetOf (s : State) (order : Nat) (d : Rank) : Target :=
  if Rank.pkg d ≠ s.srv.pkg then .package (Rank.pkg d) (halfOf (Rank.core d)) else .core (s.physicalOf order (Rank.core d))

/-- Where a server request goes: to its server, to the Weighhouse on the I/O die, or to another package (R419, R429, R435). -/
def State.requestTarget (s : State) (q : ServerReq) (wh : Bool) : Target :=
  if q.pkg ≠ s.srv.pkg then .package q.pkg (if wh then 0 else halfOf (endpointAt q.addr)) else if wh then .ioDie else .server (endpointAt q.addr)

/-- Where the active message of a copy goes: to its Porter (R429, R433). -/
def State.porterTarget (s : State) (p : PorterCopy) : Target :=
  if Rank.pkg p.porter ≠ s.srv.pkg then .package (Rank.pkg p.porter) (halfOf (Rank.core p.porter)) else .server (Rank.core p.porter)

/-- Where an item of the network interface goes; none of an item that does not pass it. -/
def State.itemTarget (s : State) (order : Nat) (o : Out) : Option Target :=
  match o with
  | .request q wh => some (s.requestTarget q wh)
  | .copyRequest p => some (s.porterTarget p)
  | o => o.to.map (s.targetOf order)

/-- The residency of this core that has a rank in a work order. -/
def State.resByRank (s : State) (order : Nat) (d : Rank) : Option ResNo :=
  (List.finRange 4).find? fun k => (s.res.get k).phase.alive && (s.res.get k).rank == d && (s.res.get k).order == order

/-- The event by which an envelope reaches its receiver. -/
def arrivalOf (m : Message) : Instr := if m.cls = 2 then .accxMessageArrival m else if m.rdv then .rendezvousArrival m else .eagerArrival m

/-- Room comes back: bytes are no longer in flight towards a residency (R423). -/
def State.giveRoom (s : State) (d : Rank) (vc n : Nat) : State :=
  s.modCore fun c => { c with inFlight := flyingSet c.inFlight d vc (flying c.inFlight d vc - n) }

/-- The event of a notice to a sender (R327). -/
def noticeEvent (id : Nat) (code : BitVec 3) : Instr :=
  if code = 0 then .acceptanceNotice id else if code = 1 then .demotionNotice id else if code = 2 then .refusalNotice id else .sendAcknowledged id

/-- The cause DEST_ENDED (R373). -/
def destEndedCause : BitVec 7 := 0x35

/-- The address that the clear-to-send of a matched message names: its buffer, or the number of a reduction message, which has none (R326). -/
def Landed.addr (l : Landed) : Word := if l.msg.cls = 2 then BitVec.ofNat 64 l.no else l.recv.buf

/-- An item that has reached this core arrives there. -/
def State.deliverHere (s : State) (order : Nat) (o : Out) : State :=
  match o with
  | .message m => s.post (arrivalOf m)
  | .cast m ds => ds.foldl (fun s x => s.post (arrivalOf { m with dst := x.dst, seq := x.seq, scaleSeq := x.seq, sendId := x.sendId })) s
  | .clearToSend _ id core addr n => s.post (.clearToSend id ⟨n, core, addr⟩)
  | .bulk d id core addr bs n =>
    match (List.finRange 4).findSome? fun k => ((s.res.get k).matched.find? fun l =>
        l.msg.rdv && l.started && l.msg.sendId == id && l.msg.dst == d && l.addr == addr && Rank.core d == core).map fun l => (k, l) with
    | some (k, l) => s.post (.landingComplete k l.no bs n)
    | none => s
  | .notice _ id code => s.post (noticeEvent id code)
  | .report _ id cause info =>
    match s.core.sends.find? fun q => q.id == id with
    | some q =>
      if cause = destEndedCause then s.post (.destEnded id)
      else (s.modCore fun c => { c with sends := c.sends.map fun x => if x.id = id then { x with reported := true } else x }).post
        (.senderErrorReport q.res cause q.ctx q.pair q.buf q.msg.dst info)
    | none => s
  | .refusal d cause c p peer info => match s.resByRank order d with | some k => s.post (.senderErrorReport k cause c p 0 peer info) | none => s
  | .marker src d n closing => match s.resByRank order d with | some k => s.post (.markerArrival k src n closing) | none => s
  | .event d e => s.post (.eventArrival e ⟨d, order, 0, portLocal⟩)
  | .room _ d vc n => s.giveRoom d vc n
  | .command _ c => s.post (.mmarCommandArrival c)
  | .credit d mb => match s.resByRank order d with | some k => s.modRes k fun r => r.credit (some mb) 1 | none => s
  | .token t => s.post (.freeTokenArrival t)
  | .answer ev => s.post ev
  | _ => s

/-- An item that comes out of the core's router arrives with its age and port (R316, R424). -/
def State.deliverAged (s : State) (order age port : Nat) (o : Out) : State :=
  match o with
  | .message m => s.deliverHere order (.message { m with age := age, port := port })
  | .cast m ds => s.deliverHere order (.cast { m with age := age, port := port } ds)
  | .event d e => s.post (.eventArrival e ⟨d, order, age, port⟩)
  | .command _ c => s.post (.mmarCommandArrival { c with age := age, port := port })
  | o => s.deliverHere order o

/-- An item of a work order leaves: one for a core that is this core itself arrives here; another one waits at the network interface; what is no packet of the core goes out (R52, R254, R423). -/
def State.emitFor (s : State) (order : Nat) (o : Out) : State :=
  match s.itemTarget order o with
  | none => s.modEnv fun e => { e with out := e.out ++ [o] }
  | some t =>
    if t = .core s.pkg.self then s.deliverHere order o
    else s.modCore fun c => { c with ni := c.ni ++ [⟨o, order, o.size⟩] }

/-- An item of the present residency's work order leaves. -/
def State.emit (s : State) (o : Out) : State := s.emitFor s.r.order o

/-- One multicast copy leaves for several receivers: those on this core receive it here (R340). -/
def State.emitCast (s : State) (m : Message) (ds : List CastDst) : State :=
  let here := ds.filter fun x => x.place == .core s.pkg.self
  let away := ds.filter fun x => x.place != .core s.pkg.self
  let s1 := if here.isEmpty then s else s.deliverHere m.order (.cast m here)
  if away.isEmpty then s1 else s1.modCore fun c => { c with ni := c.ni ++ [⟨.cast m away, m.order, (Out.cast m away).size⟩] }

/-! ### The range table (R302 to R304) -/

/-- The first free entry of the range table. -/
def State.rangeFree (s : State) : Option (Fin 32) := (List.finRange 32).find? fun i => (s.core.range.get i).isNone

/-- How many entries are free. -/
def State.rangeRoom (s : State) : Nat := ((List.finRange 32).filter fun i => (s.core.range.get i).isNone).length

/-- A local offset of residency `k` as physical scratchpad byte, through the foreign window too, or the offset itself elsewhere: where two ranges are compared (R302, R391). -/
def State.physOf (s : State) (k : ResNo) (o : Nat) : Nat :=
  if o < 0x200000 then 4096 * (s.res.get k).spbase.toNat + o
  else if 0x80F000 ≤ o ∧ o < 0x810000 then 4096 * (s.res.get (resOf s.core.fwRes)).spbase.toNat + 4096 * s.core.fwPage.toNat + (o - 0x80F000)
  else o

/-- Register an entry, at the bytes as they stand now; the bundle has waited until there was room (R304). -/
def State.rangeAdd (s : State) (k : RangeKind) (lo hi : Nat) (r : ResNo) : State × Option (Fin 32) :=
  match s.rangeFree with
  | none => (s, none)
  | some i => (s.modCore fun c => { c with range := c.range.set i.val (some ⟨k, lo, hi, s.physOf r lo, r, false⟩) i.isLt }, some i)

/-- Remove an entry. -/
def State.rangeRemove (s : State) (i : Option (Fin 32)) : State :=
  match i with
  | none => s
  | some i => s.modCore fun c => { c with range := c.range.set i.val none i.isLt }

/-- Mark an entry failed (R192). -/
def State.rangeFail (s : State) (i : Option (Fin 32)) : State :=
  match i with
  | none => s
  | some i => s.modCore fun c => { c with range := c.range.set i.val ((c.range.get i).map fun e => { e with failed := true }) i.isLt }

/-! ### The local map (R20, R22, R46) -/

/-- The regions of window 0. -/
inductive Region where
  | user
  | pigeon
  | save
  | acc
  | store
  | tile
  | control
  | aux
  | foreign
  deriving DecidableEq, Repr

/-- The effective limit in bytes of a residency's partition (R20). -/
def Res.limit (r : Res) : Nat := min (4096 * r.splimit.toNat) (0x200000 - 4096 * r.spbase.toNat)

/-- The end U of the user scratchpad (R22). -/
def Res.userEnd (r : Res) : Nat := r.limit - 0x4000 - 0x10000 * r.phsz.toNat

/-- The region of a local offset, with the region's first and last bytes (R22, R46, R388). -/
def State.regionOf (s : State) (o : Nat) : Option (Region × Nat × Nat) :=
  let r := s.r
  if o < r.userEnd then some (.user, 0, r.userEnd - 1)
  else if o < r.limit - 0x4000 then some (.pigeon, r.userEnd, r.limit - 0x4001)
  else if o < r.limit then some (.save, r.limit - 0x4000, r.limit - 1)
  else if 0x200000 ≤ o ∧ o < 0x240000 then some (.acc, 0x200000, 0x23FFFF)
  else if 0x300000 ≤ o ∧ o < 0x320000 then some (.store, 0x300000, 0x31FFFF)
  else if 0x400000 ≤ o ∧ o < 0x480000 then some (.tile, 0x400000, 0x47FFFF)
  else if 0x800000 ≤ o ∧ o < 0x80E000 then some (.control, 0x800000, 0x80DFFF)
  else if 0x80E000 ≤ o ∧ o < 0x80F000 then
    (if s.core.auxKind.toNat ≤ 2 ∧ (s.core.auxKind.toNat = 1 → 1 ≤ s.core.auxN.toNat ∧ s.core.auxN.toNat ≤ 7)
     then some (.aux, 0x80E000, 0x80EFFF) else none)
  else if 0x80F000 ≤ o ∧ o < 0x810000 then
    (if s.core.fwEn ∧ 4096 * s.core.fwPage.toNat < (s.res.get (resOf s.core.fwRes)).limit
     then some (.foreign, 0x80F000, 0x80FFFF) else none)
  else none

/-- The model key of a local offset that is not on the control page (R18, R46, R389). -/
def State.keyOf (s : State) (g : Region) (o : Nat) : Nat :=
  match g with
  | .user => 4096 * s.r.spbase.toNat + o
  | .pigeon => 4096 * s.r.spbase.toNat + o
  | .save => 4096 * s.r.spbase.toNat + o
  | .acc => o
  | .store => o
  | .tile => o
  | .control => o
  | .aux =>
    if s.core.auxKind.toNat = 0 then scaleKey s.core.auxN.toNat (o - 0x80E000)
    else maskKey s.core.auxN.toNat (4096 * s.core.auxPage.toNat + (o - 0x80E000))
  | .foreign => 4096 * (s.res.get (resOf s.core.fwRes)).spbase.toNat + 4096 * s.core.fwPage.toNat + (o - 0x80F000)

/-- Whether [lo, hi] as seen by the present residency overlaps a range-table entry, at the bytes that it has held since its registration (R302, R490). -/
def State.overlaps (s : State) (lo hi : Nat) (e : RangeEnt) : Bool :=
  decide (s.physOf s.curRes lo ≤ e.phys + (e.hi - e.lo)) && decide (e.phys ≤ s.physOf s.curRes hi)

/-! ### Access checks (R42, R43, R47 to R49) -/

/-- The fields of a pointer (R42). -/
def ptrFmt (p : Word) : Nat := field p 59 5
def ptrBlg (p : Word) : Nat := field p 56 3
def ptrWin (p : Word) : Nat := field p 48 8
def ptrOff (p : Word) : Nat := field p 0 48

/-- The element width in bits of a format code (R43, R106). -/
def fmtWidth (f : Nat) : Nat :=
  match f with
  | 0x03 => 16
  | 0x04 => 32
  | 0x05 => 64
  | 0x08 => 32
  | 0x09 => 16
  | 0x0A => 16
  | 0x10 => 4
  | _ => 8

/-- A format code that R43 assigns. -/
def fmtKnown (f : Nat) : Bool := decide (f ≤ 5) || (decide (8 ≤ f) && decide (f ≤ 0x0C)) || f == 0x10

/-- Pointer stepping (R44): only OFF moves, and wraps. -/
def ptrAdd (p : Word) (n : Int) : Word :=
  (p.extractLsb' 48 16) ++ (BitVec.ofInt 48 ((ptrOff p : Int) + n))

/-- What an instruction may reach with an access and how it is aligned. -/
structure Access where
  ptr : Word
  len : Nat
  write : Bool
  atomic : Bool
  slot : Nat
  /-- Alignment required at step 7, in bytes. -/
  align : Nat
  /-- A copy, which may reach accumulator memory in multiples of four bytes (R199). -/
  words : Bool
  deriving DecidableEq, Repr

/-- The Access layout of R369, with the range-table entry of a RANGE_LOCK; an atomic access writes too (DEDUCED, log entry 23). -/
def Access.trap (a : Access) (cause : BitVec 7) (entry : Nat) : TrapReq :=
  ⟨cause, a.ptr, BitVec.ofNat 64 (a.slot + (a.write || a.atomic).toNat <<< 3 + a.atomic.toNat <<< 4 + min a.len (2 ^ 24 - 1) <<< 8 + entry <<< 32), none⟩

/-- Steps 1 to 3 of R49, for a pointer that may (`server`) or may not reach windows 1 to 3. -/
def Access.form (a : Access) (server : Bool) : Option TrapReq :=
  let w := ptrWin a.ptr
  let b := ptrBlg a.ptr
  if w > 3 ∨ (w ≠ 0 ∧ !server) then some (a.trap Cause.windowFault 0)
  else if (b ≠ 0 ∧ b ≠ 4 ∧ b ≠ 5 ∧ b ≠ 6) ∨ (b ≠ 0 ∧ ptrFmt a.ptr ≠ 0x10) then some (a.trap Cause.blockLength 0)
  else if !fmtKnown (ptrFmt a.ptr) then some (a.trap Cause.formatReserved 0)
  else none

/-- The last byte of an access; a zero length is checked as one byte (R49). -/
def Access.last (a : Access) : Nat := ptrOff a.ptr + max a.len 1 - 1

/-- The residency that owns a group, if one does (R36). -/
def State.accOwner (s : State) : Option ResNo := (List.finRange 4).find? fun k => (s.res.get k).accOwn
def State.tileOwner (s : State) : Option ResNo := (List.finRange 4).find? fun k => (s.res.get k).tileOwn

/-- The ACCOWN and TILEOWN registers (R34, R35). -/
def Res.accown (r : Res) : Word := BitVec.ofNat 64 (r.accLive.toNat + r.accOwn.toNat <<< 8)
def Res.tileown (r : Res) : Word := BitVec.ofNat 64 (r.tlive.toNat + (r.mlive.toNat / 2 * 2) <<< 16 + r.tileOwn.toNat <<< 24)

/-- The first-use trap of a touch of the accumulator group (R36, R372). -/
def State.accTouch (s : State) : Option TrapReq :=
  match s.accOwner with
  | none => none
  | some k =>
    if k = s.curRes then none
    else
      let o := s.res.get k
      some (trapWith Cause.accFirstUse (BitVec.ofNat 64 (k.val + (decide (o.tenant ≠ s.r.tenant)).toNat <<< 8)) o.accown)

/-- The first-use trap of a touch of the tile group (R36, R372). -/
def State.tileTouch (s : State) : Option TrapReq :=
  match s.tileOwner with
  | none => none
  | some k =>
    if k = s.curRes then none
    else
      let o := s.res.get k
      some (trapWith Cause.tileFirstUse (BitVec.ofNat 64 (k.val + (decide (o.tenant ≠ s.r.tenant)).toNat <<< 8)) o.tileown)

/-- The handler of a first-use trap reaches the group's windows without touching it (R391). -/
def State.handling (s : State) (cause : BitVec 7) : Bool := s.c.mode && s.c.trap.cause == cause

/-- The groups an access touches: accumulator, tile. -/
def State.touches (s : State) (g : Region) : Bool × Bool :=
  match g with
  | .acc => (!s.handling Cause.accFirstUse, false)
  | .tile => (false, !s.handling Cause.tileFirstUse)
  | .aux => (false, !s.handling Cause.tileFirstUse)
  | _ => (false, false)

/-- What user mode may not reach (R41); the instruction store only where the access is not a load inside the code range. -/
def Region.denied (g : Region) (storeBad : Bool) : Bool :=
  match g with
  | .user => false
  | .acc => false
  | .store => storeBad
  | _ => true

/-- Steps 4 to 8 of R49 for a local access. -/
def State.placeCheck (s : State) (a : Access) : Option TrapReq :=
  match s.regionOf (ptrOff a.ptr) with
  | none => some (a.trap Cause.unmapped 0)
  | some (g, _, hi) =>
    let o := ptrOff a.ptr
    let super := s.c.mode
    let code := decide (0x300000 + 8 * s.r.codeFirst.toNat ≤ o) && decide (a.last < 0x300000 + 8 * (s.r.codeLast.toNat + 1))
    if a.last > hi then some (a.trap Cause.straddle 0)
    else if !super && g.denied (a.write || a.atomic || !code) then some (a.trap Cause.privilege 0)
    else if (a.align ≠ 0 ∧ o % a.align ≠ 0) ∨
        (g = .acc ∧ !(if a.words then a.align = 1 ∨ (a.len % 4 = 0 ∧ o % 4 = 0) else a.len = 4 ∧ o % 4 = 0)) ∨
        (g = .control ∧ !((a.len ≤ 1 ∨ a.len = 2 ∨ a.len = 4 ∨ a.len = 8) ∧ o % max a.len 1 = 0)) then
      some (a.trap Cause.misaligned 0)
    else
      let t := s.touches g
      (if t.1 then s.accTouch else none) <|> (if t.2 then s.tileTouch else none)

/-- The deferred errors of the core's residencies that some range-table entry of a list holds. -/
def State.deferredIn (s : State) (l : List (Fin 32)) : List Deferred :=
  ((List.finRange 4).flatMap fun k => (s.res.get k).deferred).filter fun d => match d.range with | some i => l.contains i | none => false

/-- The error recorded first. -/
def firstRecorded : List Deferred → Option Deferred
  | [] => none
  | d :: t => match firstRecorded t with
    | some e => some (if e.no < d.no then e else d)
    | none => some d

/-- Step 9 of R49, and the failed entries of R302; a supervisor access passes a failed entry (R381). -/
def State.rangeCheck (s : State) (a : Access) : Option TrapReq :=
  let hit := (List.finRange 32).filter fun i =>
    match s.core.range.get i with
    | none => false
    | some e => s.overlaps (ptrOff a.ptr) a.last e
  let failed := hit.filter fun i => ((s.core.range.get i).map (·.failed)).getD false
  match (if s.c.mode then none else firstRecorded (s.deferredIn failed)) with
  | some d => some d.trap
  | none =>
    match hit.find? fun i => ((s.core.range.get i).map fun e => e.kind == .trap && !e.failed).getD false with
    | some i => some (a.trap Cause.rangeLock i.val)
    | none => none

/-- CheckAccess for a local access: R49 from step 1 to step 9. -/
def State.checkAccess (s : State) (a : Access) : Option TrapReq :=
  a.form false <|> s.placeCheck a <|> s.rangeCheck a

/-- The access overlaps a STALL entry and its bundle waits (R49, R302). -/
def State.stalled (s : State) (a : Access) : Bool :=
  (List.finRange 32).any fun i =>
    match s.core.range.get i with
    | none => false
    | some e => e.kind == .stall && !e.failed && s.overlaps (ptrOff a.ptr) a.last e

/-- The region of a checked access. -/
def State.accessRegion (s : State) (a : Access) : Region := ((s.regionOf (ptrOff a.ptr)).map (·.1)).getD .user

/-! ### Group grants (R36, R390) -/

/-- Clear a group to zero: contents, and for tiles their scale stores, masks and tags (R36, R214). -/
def CoreSt.clearAcc (c : CoreSt) : CoreSt := { c with mem := memZero c.mem 0x200000 0x240000 }
def CoreSt.clearTiles (c : CoreSt) : CoreSt :=
  { c with mem := memZero c.mem 0x400000 0x700000, fmt := Vector.replicate 16 0, blg := Vector.replicate 16 0 }

/-- Grant the accumulator group to a residency when no one owns it; a change of tenant clears it first, 512 cycles (R36, R390). -/
def State.grantAcc (s : State) (k : ResNo) : State :=
  let s1 := s.modRes k fun r => { r with accOwn := true }
  if s.core.accTenant = some (s.res.get k).tenant then s1
  else (s1.modCore fun c => { c.clearAcc with accTenant := some (s.res.get k).tenant, accClear := some (s.core.cycle + 512) }).after 512 .groupClearDone

/-- Grant the tile group, clearing it in 1,024 cycles on a change of tenant (R36, R390). -/
def State.grantTile (s : State) (k : ResNo) : State :=
  let s1 := s.modRes k fun r => { r with tileOwn := true }
  if s.core.tileTenant = some (s.res.get k).tenant then s1
  else (s1.modCore fun c => { c.clearTiles with tileTenant := some (s.res.get k).tenant, tileClear := some (s.core.cycle + 1024) }).after 1024 .groupClearDone

/-- Resolve a touch that has passed its check: grant a group that no one owns (R36 step 2). -/
def State.resolve (s : State) (acc tile : Bool) : State :=
  let s1 := if acc && s.accOwner.isNone then s.grantAcc s.curRes else s
  if tile && s1.tileOwner.isNone then s1.grantTile s1.curRes else s1

/-- A touched group is still being cleared, so the touching bundle waits (R36). -/
def State.clearing (s : State) (acc tile : Bool) : Bool :=
  (acc && s.core.accClear.isSome) || (tile && s.core.tileClear.isSome)

/-! ### Entries for server accesses (R191, R422, R432) -/

/-- Reply slots, acknowledgement entries and store-buffer entries held (R191, R422, R432). -/
def State.slotsHeld (s : State) : Nat := (s.core.reqs.filter (·.slot)).length
def State.acksHeld (s : State) : Nat := (s.core.reqs.filter (·.ack)).length
/-- A request that is a server write or atomic, or a copy to server memory. -/
def Req.writes (q : Req) : Bool := q.kind == 1 || q.kind == 2 || q.kind == 3 || (q.kind == 4 && ptrWin q.dst != 0)
/-- A write of the core that has not entered the store buffer, in issue order. -/
def Req.unentered (q : Req) : Bool := q.writes && !q.buffered

/-- Entries of the store buffer that an own write takes: one for each server that it writes; one for an atomic, or for an active message (R432). -/
def Req.entries (q : Req) : Nat := if q.kind = 1 then max 1 q.parts else 1

/-- Entries held: own ones from issue until each is acknowledged, and those of the cluster's other cores that stand in the buffer (R432). -/
def State.bufferHeld (s : State) : Nat := ((s.core.reqs.filter Req.writes).map Req.entries).sum + (s.cl.buffer.filter fun b => !b.own).length
/-- A buffered write's number among those of the whole cluster. -/
def Buffered.key (b : Buffered) : Nat := 2 * b.id + b.own.toNat

/-! ### Sends and packets given up -/

/-- A round marker. -/
def Out.isMarker : Out → Bool
  | .marker .. => true
  | _ => false

/-- A packet of residency k is over: its end, of the given send, goes before the markers that it has delayed, and they may leave (R175). -/
def markersGo (k : ResNo) (end_ : Option Nat) (l : List Leaving) : List Leaving :=
  let held (x : Leaving) : Bool := x.res == k && x.item.isMarker && !x.ready
  let ends (x : Leaving) : Bool := match x.item with | .message m => end_ == some m.sendId | _ => false
  let rest := l.dropWhile fun x => !held x
  (l.takeWhile fun x => !held x) ++ rest.filter ends ++ (rest.filter fun x => !ends x).map fun x => if held x then { x with ready := true } else x

/-- Discard the open packet with PACKET_ABORTED to the error queue (R262). -/
def State.abortPacket (s : State) : State :=
  match s.core.packet with
  | none => s
  | some p =>
    (s.modCore fun c => { c with packet := none, leaving := markersGo p.res none c.leaving }).modRes p.res fun r =>
      r.postError (errEntry Cause.packetAborted p.owner p.pair 0 0 p.dest.toNat 0
        (BitVec.ofNat 64 (p.tag.toNat + p.data.length <<< 32)))

/-- The open packet belongs to this context. -/
def State.ownsPacket (s : State) : Bool :=
  match s.core.packet with
  | none => false
  | some p => p.owner == s.curCtx && p.res == s.curRes

/-! ### Gangs (R24, R25) -/

/-- Helpers stay HELD for an exchange phase or for a round edge (R174, R349). -/
def State.stillHeld (s : State) : Bool := s.core.exch.mode || ((s.r.ctx.get 0).blocked.any fun b => b.1 == .round)

/-- A gang disbands, at once or after the present bundle as the members hear it: the helpers that were LIVE resume (R25). -/
def State.disband (s : State) (atOnce : Bool) : State :=
  match s.core.gang with
  | none => s
  | some _ =>
    let s1 := (s.modCore fun c => { c with gang := none, gangIn := GangIn.reset }).emit (.gangEnd atOnce)
    if s.stillHeld then s1
    else s1.modR fun r => { r with ctx := r.ctx.map fun c => if c.status = .held then { c with status := .live } else c }

/-! ### Power leave and lane groups (R412, R415, R416) -/

/-- The core's place on its die. -/
def State.diePlace (s : State) : Nat := s.pkg.self % 144

/-- The cluster of a place on the die, a block of two rows and two columns. -/
def clusterOf (p : Nat) : Nat × Nat := (p / 24, p % 12 / 2)

/-- Units granted in the cluster of a place (R416). -/
def Die.clusterUnits (d : Die) (p : Nat) : Nat := (d.leaveUnits.filter fun q => clusterOf q == clusterOf p).length

/-- A request joins the queue in cycle order, and in logical-core order within a cycle (R416). -/
def insertAsk (a : LeaveAsk) : List LeaveAsk → List LeaveAsk
  | [] => [a]
  | b :: t => if b.cycle = a.cycle ∧ a.logical < b.logical then a :: b :: t else b :: insertAsk a t

/-- A core asks its die's controller for a unit of leave, once (R415, R416). -/
def Die.ask (d : Die) (a : LeaveAsk) : Die :=
  if (d.leaveQueue.any fun x => x.core == a.core) || d.leaveUnits.contains a.core then d else { d with leaveQueue := insertAsk a d.leaveQueue }

/-- A core returns its unit. -/
def Die.giveBack (d : Die) (core : Nat) : Die := { d with leaveUnits := d.leaveUnits.erase core }

/-- The head of the queue is granted as long as the die and its own cluster stay within their limits, on fuel; a grant takes effect 4 cycles later (R416). -/
def decideOn : Nat → State → State
  | 0, s => s
  | n + 1, s =>
    match s.die.leaveQueue with
    | [] => s
    | h :: t =>
      if s.die.leaveUnits.length + 1 ≤ s.die.dieLimit ∧ s.die.clusterUnits h.core + 1 ≤ s.die.clusterLimit then
        let s1 := { s with die := { s.die with leaveQueue := t, leaveUnits := s.die.leaveUnits ++ [h.core] } }
        decideOn n (if h.core = s.diePlace then (s1.modCore fun c => { c with leaveDue := some (c.cycle + 4) }).after 4 .leaveGrant else s1)
      else s

/-- The power controller decides at the end of each cycle, on all the requests and returns of the cycle (R416). -/
def State.decideLeave (s : State) : State := decideOn s.die.leaveQueue.length s

/-- The core asks for a unit of leave, unless it has asked (R415, R416). -/
def State.askLeave (s : State) : State :=
  if s.core.leaveAsked.isSome then s
  else { s with die := s.die.ask ⟨s.diePlace, Rank.core (s.res.get (s.core.issuing.getD 0)).rank, s.core.cycle⟩ }.modCore fun c => { c with leaveAsked := some c.cycle }

/-- The core returns its unit. -/
def State.giveLeave (s : State) : State :=
  { s with die := s.die.giveBack s.diePlace }.modCore fun c => { c with leaveUse := 0, leaveHeld := false }

/-- The core's last heavy operation gives back the unit of leave (R415). -/
def State.leaveDone (s : State) (heavy : Bool) : State :=
  if heavy then
    if s.core.leaveUse ≤ 1 then s.giveLeave
    else s.modCore fun c => { c with leaveUse := c.leaveUse - 1 }
  else s

/-- A task gives up its lane group (R412). -/
def State.freeLane (s : State) (t : Task) : State :=
  match t.lane with
  | none => s
  | some g => ({ s with cl := { s.cl with lanes := s.cl.lanes.set g.toNat none g.isLt } }).post .vectorBind

/-- Discard the tasks of a list: their lane groups and leave come back (R490). -/
def State.dropTasks (s : State) : List Task → State
  | [] => s
  | t :: ts => ((s.freeLane t).leaveDone t.heavy).dropTasks ts

/-! ### The end of a residency (R169, R330, R401, R490) -/


/-- Write an 8-byte word of the scratchpad by physical key and set its full/empty bit full. -/
def CoreSt.putFull (c : CoreSt) (key : Nat) (v : Nat) : CoreSt :=
  { c with mem := memPut c.mem key (leBytes 8 v), full := setAdd c.full key }

/-- Word 0 of a status record (R264). -/
def recordWord0 (mlen dlen status : Nat) : Nat := mlen <<< 40 + dlen <<< 16 + status

/-- Complete a receive: word 8, then word 0, set full (R264, R265). -/
def State.writeRecord (s : State) (k : ResNo) (buf : Word) (mlen dlen status tag src : Nat) : State :=
  let key := 4096 * (s.res.get k).spbase.toNat + (ptrOff buf - 16)
  s.modCore fun c => ({ c with mem := memPut c.mem (key + 8) (leBytes 8 (tag <<< 32 + src)) }).putFull key (recordWord0 mlen dlen status)

/-- Each posted receive of an ended residency is written REFUSED and set full (R266, R330). -/
def refuseAll (k : ResNo) : List Recv → State → State
  | [], s => s
  | v :: t, s => refuseAll k t (s.writeRecord k v.buf 0 0 5 0 0)

/-- The message was sent by a residency of this core. -/
def State.ownMessage (s : State) (m : Message) : Bool := s.core.sends.any fun q => q.id == m.sendId && q.msg.src == m.src && q.msg.order == m.order

/-- Answer a sender: an event of this core, or an item for another (R327). -/
def State.answer (s : State) (m : Message) (own : Instr) (o : Out) : State := if s.ownMessage m then s.post own else s.emitFor m.order o

/-- The information word of a send's failure (R259). -/
def sendInfo (m : Message) (timeout : Bool) : Word := BitVec.ofNat 64 (m.tag.toNat + m.group.toNat <<< 32 + timeout.toNat <<< 48)

/-- DEST_ENDED goes to the sender of each envelope held in the pool (R330). -/
def endHeld : List Held → State → State
  | [], s => s
  | h :: t, s => endHeld t (if h.units.isEmpty then s.answer h.msg (.destEnded h.msg.sendId) (.report h.msg.src h.msg.sendId Cause.destEnded (sendInfo h.msg false)) else s)

/-- A closing marker on each output, behind everything the core has queued (R352). -/
def closeOutputs (k : ResNo) : List Rank → State → State
  | [], s => s
  | o :: t, s => closeOutputs k t (s.modCore fun c => { c with leaving := c.leaving ++ [⟨.marker (s.res.get k).rank o 0 true, [], k, true⟩] })

/-- The sends and matched receives of a residency that end with it give their range entries up; a rendezvous receive under way keeps its entry (R490). -/
def Landed.stays (l : Landed) : Bool := l.msg.rdv && l.started && l.range.isSome

/-- Range entries that stay when residency `k` ends: those of inbound transfers still in flight (R490). -/
def State.rangesKept (s : State) (k : ResNo) : List (Fin 32) :=
  (s.core.reqs.filterMap fun q => if q.res = k ∧ !q.unentered then q.range else none) ++ ((s.res.get k).matched.filterMap fun l => if l.stays then l.range else none)

/-- Remove the range entries of residency `k` but those of a list. -/
def State.dropRanges (s : State) (k : ResNo) (keep : List (Fin 32)) : State :=
  s.modCore fun c => { c with range := Vector.ofFn fun i => match c.range.get i with
    | some e => if e.res = k ∧ !keep.contains i then none else some e
    | none => none }

/-- A residency with nothing left of its tasks, receives, fields and groups, its results landed (R37, R101, R330). A matched rendezvous message whose clear-to-send has not gone is dropped, and its sender is told nothing (DESIGN CHOICE, log entry 71). -/
def Res.ended (r : Res) (ph : Phase) : Res :=
  { r with phase := ph, accOwn := false, accLive := 0, tileOwn := false, tlive := 0, mlive := 0,
           posted := [], held := [], matched := (r.matched.filter Landed.stays).map fun l => { l with dropped := true }, reductions := [], inputs := [], copies := [],
           preempt := none, tasksHeld := false, engineHeld := false,
           fields := r.fields.map fun f => { f with bound := false },
           ctx := r.ctx.map fun c => let d := landList (c.frozen ++ c.flight) c
             { d with flight := [], frozen := [], status := .free, pending := [], awaits := [], blocked := [], replay := none, sfuKept := [],
                                        loop := { d.loop with active := false }, aside := none } }

/-- A residency that halts or faults reports its end to the dispatcher (R401). -/
def State.reportEnd (s : State) (r : Res) (ph : Phase) (cause : Option (BitVec 7)) : State :=
  if ph = .timedOut then s
  else { s with pkg := { s.pkg with ends := s.pkg.ends ++ [⟨r.order, r.crew, field r.rank 0 11, ph != .halted, cause, r.ctx.toList.flatMap (·.served)⟩] } }

/-- The exchange phase of residency k takes part in the unit of leave that the core holds (R415). -/
def State.phaseUnit (s : State) (k : ResNo) : Bool :=
  s.core.exch.asked == some k && s.core.issuing == some k && s.core.leaveHeld && decide (256 < (s.res.get k).phaseLen)

/-- An idle SFU looks for the next request (R414). -/
def State.sfuKick (s : State) : State :=
  if s.cl.sfuBusy.isNone && !s.env.agenda.contains .sfuServe then s.post .sfuServe else s

/-- The FIFOs of this core's contexts are emptied; a request of theirs in service is abandoned, and the SFU moves on (R238, R414). -/
def State.clearFifos (s : State) : State :=
  let own := match s.cl.sfuBusy with | some w => decide (w < 11) | none => false
  let s1 := { s with cl := { s.cl with fifos := Vector.replicate 11 [], sfuBusy := if own then none else s.cl.sfuBusy } }
  if own then s1.sfuKick else s1

/-- End residency `k`: its receives are refused, its groups are given up, its tasks and unsent messages go, its transfers are suppressed, and the dispatcher is told (R169, R330, R352, R401, R490). -/
def State.endRes (s : State) (k : ResNo) (ph : Phase) (cause : Option (BitVec 7)) : State :=
  let r := s.res.get k
  let s1 := endHeld r.held (refuseAll k r.posted s)
  let s2 := if ph = .halted then closeOutputs k r.outputs s1 else s1
  let s3 := (s2.dropRanges k (s2.rangesKept k)).modRes k (·.ended ph)
  let s4 := s3.modCore fun c =>
    { c with tasks := c.tasks.filter fun t => t.res != k,
             tasksAside := c.tasksAside.filter fun t => t.res != k,
             events := c.events.filter fun e => e.res != k,
             sends := c.sends.filter fun q => q.res != k,
             leaving := if ph = .halted then markersGo k none c.leaving else c.leaving.filter fun l => l.res != k,
             packet := match c.packet with | some p => if p.res = k then none else some p | none => none,
             exch := if c.issuing = some k then { c.exch with mode := false, opened := false, moves := [], flits := [], asked := none } else c.exch,
             reqs := (c.reqs.filter fun q => !(q.res == k && (q.unentered || c.leaveCopies.contains q.id))).map fun q => if q.res = k then { q with dropped := true } else q,
             leaveCopies := c.leaveCopies.filter fun i => !(c.reqs.any fun q => q.id == i && q.res == k),
             gang := if c.issuing = some k then none else c.gang,
             gangIn := if c.issuing = some k then GangIn.reset else c.gangIn }
  let s4 := (s4.dropTasks (s.core.tasks.filter fun t => t.res == k)).leaveDone (s.phaseUnit k)
  let s5 := if s.core.issuing = some k then s4.clearFifos else s4
  (s5.reportEnd r ph cause).post .residencySwitch

/-! ### Taking a trap (R379 to R381) and returning from it (R205) -/

/-- A trap in supervisor mode at bundle `b` ends the residency FAULTED (R40, R376). -/
def State.nestedTrap (s : State) (b : Pair) (q : TrapReq) : State :=
  let s1 := s.modC fun c => { c with trap :=
    { c.trap with cause := Cause.nestedTrap, info0 := BitVec.ofNat 64 (q.cause.toNat + b.toNat <<< 8), info1 := q.info0 } }
  s1.endRes s.curRes .faulted (some Cause.nestedTrap)

/-- A deferred error that is raised is used up, and its failed range-table entry goes (R192). -/
def State.useUp (s : State) (d : Option Deferred) : State :=
  match d with
  | none => s
  | some d =>
    let drop (r : Res) : Res := { r with deferred := r.deferred.erase d }
    { s with res := s.res.map drop }.rangeRemove d.range

/-- Replace the FIFO of context `k`. -/
def State.setFifo (s : State) (k : CtxNo) (l : List SfuReq) : State :=
  { s with cl := { s.cl with fifos := s.cl.fifos.set k.val l k.isLt } }

/-- A request as the replay record keeps it, and back. -/
def SfuReq.record (q : SfuReq) : SfuReplay := ⟨q.pair, q.scalar, q.mode, q.fn, q.rowBlock, q.operand, q.sup, q.dest, q.lfsr⟩
def SfuReplay.request (q : SfuReplay) : SfuReq := ⟨q.pair, q.scalar, q.mode, q.fn, q.rowBlock, q.operand, q.sup, q.dest, q.lfsr⟩

/-- Cancel the context's SFU head request and keep it for replay; a request being served is abandoned (R238, R414). -/
def State.cancelSfu (s : State) (k : CtxNo) : State :=
  if (s.r.ctx.get k).replay.isSome then s
  else match s.cl.fifos.get k with
    | [] => s
    | q :: t =>
      let s1 := (s.setFifo k t).modCtx k fun c => { c with replay := some q.record }
      if s.cl.sfuBusy = some k.val then { s1 with cl := { s1.cl with sfuBusy := none } }.sfuKick else s1

/-- The SFT tasks that a replay record may belong to. -/
def State.sftOf (s : State) (k : CtxNo) (p : Pair) : List Task :=
  s.core.tasks.filter fun t => t.res == s.curRes && t.ctx == k && t.pair == p && (match t.instr with | .sft .. => true | _ => false)

/-- When the present context next issues, the recorded request goes back to the head of its FIFO (R238); one of a task that is to be dispatched anew waits for that. -/
def State.replayBack (s : State) : State :=
  let k := s.curCtx
  match s.c.replay with
  | none => if s.c.sfuKept.isEmpty then s
    else ((s.setFifo k (s.c.sfuKept ++ s.cl.fifos.get k)).modC fun c => { c with sfuKept := [] }).sfuKick
  | some q =>
    let s1 := s.modC fun c => { c with replay := none, sfuKept := [] }
    if q.scalar || (s.sftOf k q.pair).any (·.dispatched) then (s1.setFifo k (q.request :: s.c.sfuKept ++ s.cl.fifos.get k)).sfuKick
    else if (s.sftOf k q.pair).isEmpty then s1.setFifo k (s.c.sfuKept ++ s.cl.fifos.get k)
    else s

/-- Entering the handler: the one operation by which every cause of kind P, A, N, D or X is taken (R379). -/
def State.takeTrap (s : State) (q : TrapReq) : State :=
  if s.c.mode then s.nestedTrap s.c.pc q
  else
    let s0 := s.useUp q.drop
    let s1 := if s0.ownsPacket then s0.abortPacket else s0
    let s2 := (s1.cancelSfu s1.curCtx).disband false
    s2.modC fun c =>
      { c with trap := ⟨q.cause, c.pc, c.last, q.info0, q.info1⟩, frozen := c.frozen ++ c.flight, flight := [],
               aside := some c.loop, loop := { c.loop with active := false, done := 0 }, mode := true, pc := s.r.handler,
               heldAt := none, verdict := none, heldAside := c.heldAt.map fun t => (c.pc, t, c.verdict) }

/-- The context after SYSRET (R205): results of supervisor mode land, user results go on, MODE 0, the suspended loop resumes; the pc is the bundle's target. -/
def Ctx.back (c : Ctx) : Ctx :=
  let d := c.landAll
  { d with flight := d.frozen, frozen := [], mode := false, loop := d.aside.getD d.loop, aside := none }

/-- The context's loop is active for its bundles; a trap has put the user loop aside (R161). -/
def Ctx.looping (c : Ctx) : Bool := c.loop.active

/-! ### Tasks entering the Foreman (R106, R409) -/

/-- The engine of a task (R410). -/
def engineOf : Instr → BitVec 3
  | .tld .. => 0
  | .tst .. => 0
  | .accrd .. => 0
  | .accwr .. => 0
  | .accwrAdd .. => 0
  | .mma .. => 1
  | .mmaX .. => 1
  | .accxSend .. => 2
  | .accxOpen .. => 2
  | .accxClose .. => 2
  | .sft .. => 4
  | .ringCw .. => 5
  | .ringCcw .. => 5
  | _ => 3

/-- The instructions that the Foreman runs as tasks (R215). -/
def isTask : Instr → Bool
  | .tadd .. => true
  | .tsub .. => true
  | .tmul .. => true
  | .tfma .. => true
  | .tmax .. => true
  | .tmin .. => true
  | .tabs .. => true
  | .tneg .. => true
  | .tcvt .. => true
  | .tqnt .. => true
  | .tdq .. => true
  | .tscl .. => true
  | .tand .. => true
  | .tor .. => true
  | .txor .. => true
  | .tshl .. => true
  | .tshr .. => true
  | .tsel .. => true
  | .tbc .. => true
  | .ttr .. => true
  | .tslc .. => true
  | .tidx .. => true
  | .tmov .. => true
  | .tfill .. => true
  | .tredSum .. => true
  | .tredMax .. => true
  | .tredMin .. => true
  | .tcas .. => true
  | .tmaxi .. => true
  | .tmini .. => true
  | .tcmp .. => true
  | .mlog .. => true
  | .mcnt .. => true
  | i => engineOf i != 3

/-- EnqueueTask: the task enters the Foreman behind the others and its engine looks for work. -/
def State.enqueue (s : State) (t : Task) : State :=
  ((s.modCore fun c => { c with tasks := c.tasks ++ [{ t with id := c.nextId }] }).bump).post .foremanDispatch

/-- Free entries of the Foreman (R409). -/
def State.taskRoom (s : State) : Nat := 64 - (s.core.tasks.filter fun t => t.res == s.curRes).length

end Sys2Proof.Machine
end

