-- ==== Sys2Proof/Machine/Crypto.lean ====
section
/-!
DEFINITION. SHA-512, HMAC and HKDF over byte strings (FIPS 180-4, FIPS 198-1, RFC 5869), as the spec names them (R230, R441).
-/

namespace Sys2Proof.Machine

open Sys2Proof

/-! ### SHA-512 -/

/-- A byte string read most significant byte first, and back. -/
def beNat (bs : List Byte) : Nat := bs.foldl (fun a b => 256 * a + b.toNat) 0
def beBytes (n x : Nat) : List Byte := (List.range n).map fun i => BitVec.ofNat 8 (x / 256 ^ (n - 1 - i))

/-- The k-th root of a number, rounded down: its bits from 2^n down, kept while the power does not exceed the number. -/
def rootBelow (k x : Nat) : Nat → Nat → Nat
  | 0, r => r
  | n + 1, r => rootBelow k x n (if (r + 2 ^ n) ^ k ≤ x then r + 2 ^ n else r)

/-- The primes below 410, 80 of them. -/
def shaPrimes : List Nat := (List.range 410).filter fun n => decide (2 ≤ n) && (List.range 21).all fun d => decide (d < 2) || decide (n ≤ d) || n % d != 0

/-- The first 64 bits of the fraction of a k-th root. -/
def rootBits (k p : Nat) : Word := BitVec.ofNat 64 (rootBelow k (p * 2 ^ (64 * k)) 70 0)

/-- The constants of FIPS 180-4: a word for each round from a cube root, and the eight words at the start from square roots. -/
def shaRoundWords : List Word := shaPrimes.map (rootBits 3)
def shaStart : List Word := (shaPrimes.take 8).map (rootBits 2)

/-- The exclusive or of the rotations of a word by some counts. -/
def turns (counts : List Nat) (x : Word) : Word := counts.foldl (fun a n => a ^^^ x.rotateRight n) 0

/-- Word t of the message schedule, from the words before it. -/
def nextWord (t : Nat) (w : List Word) : Word :=
  let back (n : Nat) : Word := w.getD (t - n) 0
  back 16 + (turns [1, 8] (back 15) ^^^ back 15 >>> 7) + back 7 + (turns [19, 61] (back 2) ^^^ back 2 >>> 6)

/-- The schedule of a block of sixteen words: 64 words are added. -/
def schedule (block : List Word) : List Word := (List.range 64).foldl (fun w i => w ++ [nextWord (16 + i) w]) block

/-- One round on the working words: a new word in front, the fifth one raised, the last one dropped. -/
def mixWord (v : List Word) (x : Word) : List Word :=
  match v with
  | [a, b, c, d, e, f, g, h] =>
    let up := h + x + turns [14, 18, 41] e + (g ^^^ (e &&& (f ^^^ g)))
    [up + turns [28, 34, 39] a + ((a &&& (b ||| c)) ||| (b &&& c)), a, b, c, d + up, e, f, g]
  | _ => v

/-- A block of 128 bytes mixed into the digest so far. -/
def absorb (h : List Word) (block : List Byte) : List Word :=
  let words := (List.range 16).map fun i => BitVec.ofNat 64 (beNat ((block.drop (8 * i)).take 8))
  h.zipWith (· + ·) ((shaRoundWords.zipWith (· + ·) (schedule words)).foldl mixWord h)

/-- A message with its padding: a one bit, zeros, and the length in bits in the last 16 bytes. -/
def padded (m : List Byte) : List Byte := m ++ [0x80] ++ List.replicate ((239 - m.length % 128) % 128) 0 ++ beBytes 16 (8 * m.length)

/-- The digest of a byte string, 64 bytes. -/
def sha512 (m : List Byte) : List Byte :=
  let bs := padded m
  let blocks := (List.range (bs.length / 128)).map fun i => (bs.drop (128 * i)).take 128
  (blocks.foldl absorb shaStart).flatMap fun w => beBytes 8 w.toNat

/-! ### HMAC and HKDF -/

/-- HMAC-SHA-512. -/
def hmac512 (key m : List Byte) : List Byte :=
  let k0 := if 128 < key.length then sha512 key else key
  let k := k0 ++ List.replicate (128 - k0.length) 0
  sha512 (k.map (· ^^^ 0x5C) ++ sha512 (k.map (· ^^^ 0x36) ++ m))

/-- The output blocks of HKDF-Expand, on fuel: the key, the info, the block before, its number. -/
def hkdfBlocks (prk info : List Byte) : Nat → List Byte → Nat → List Byte
  | 0, _, _ => []
  | n + 1, t, i =>
    let u := hmac512 prk (t ++ info ++ [BitVec.ofNat 8 i])
    u ++ hkdfBlocks prk info n u (i + 1)

/-- HKDF with SHA-512: `n` bytes from a salt, a key and an info string. -/
def hkdf512 (salt ikm info : List Byte) (n : Nat) : List Byte :=
  (hkdfBlocks (hmac512 salt ikm) info ((n + 63) / 64) [] 1).take n

/-! ### Ed25519 (R441; RFC 8032) -/

/-- The field prime, and a power modulo it, on the bits of the exponent. -/
def edP : Nat := 2 ^ 255 - 19
def powMod : Nat → Nat → Nat → Nat
  | 0, _, _ => 1
  | n + 1, x, e => let h := powMod n (x * x % edP) (e / 2); if e % 2 = 1 then x * h % edP else h

/-- The inverse modulo the prime. -/
def edInv (x : Nat) : Nat := powMod 255 x (edP - 2)

/-- The curve constant. -/
def edD : Nat := (edP - 121665) * edInv 121666 % edP

/-- A point in extended coordinates. -/
structure EdPoint where
  x : Nat
  y : Nat
  z : Nat
  t : Nat

/-- A square root modulo the prime, if there is one: the power (p + 3) / 8, or that times a root of −1. -/
def edRoot (u : Nat) : Nat :=
  let r := powMod 255 u ((edP + 3) / 8)
  if r * r % edP = u % edP then r else r * powMod 255 2 ((edP - 1) / 4) % edP

/-- The base point: y is 4/5, and x the even root of its square. -/
def edBase : EdPoint :=
  let y := 4 * edInv 5 % edP
  let x := edRoot ((y * y + edP - 1) * edInv (edD * y * y + 1) % edP)
  let x := if x % 2 = 0 then x else edP - x
  ⟨x, y, 1, x * y % edP⟩

/-- The sum of two points. -/
def edAdd (p q : EdPoint) : EdPoint :=
  let a := (p.y + (edP - p.x)) * (q.y + (edP - q.x)) % edP
  let b := (p.y + p.x) * (q.y + q.x) % edP
  let c := 2 * p.t * q.t % edP * edD % edP
  let d := 2 * p.z * q.z % edP
  let e := b + (edP - a)
  let f := d + (edP - c)
  let g := d + c
  let h := b + a
  ⟨e * f % edP, g * h % edP, f * g % edP, e * h % edP⟩

/-- A multiple of a point, on the bits of the scalar. -/
def edMul : Nat → Nat → EdPoint → EdPoint
  | 0, _, _ => ⟨0, 1, 1, 0⟩
  | n + 1, k, p =>
    let h := edMul n (k / 2) (edAdd p p)
    if k % 2 = 1 then edAdd h p else h

/-- The public key of a 32-byte private key. -/
def ed25519Public (priv : List Byte) : List Byte :=
  let k := leNat ((sha512 priv).take 32) % 2 ^ 254 / 8 * 8 + 2 ^ 254
  let p := edMul 255 k edBase
  let i := edInv p.z
  leBytes 32 (p.y * i % edP + (p.x * i % edP % 2) <<< 255)

/-- The label of a die's identity key, in ASCII: BVK9 die identity (R441). -/
def dieLabel : List Byte :=
  [0x42, 0x56, 0x4B, 0x39, 0x20, 0x64, 0x69, 0x65, 0x20, 0x69, 0x64, 0x65, 0x6E, 0x74, 0x69, 0x74, 0x79]

/-! ### Capabilities (R230) -/

/-- The check field of a capability whose CHECK is zero: bits [28:0] of the HMAC keyed with the 128-bit CAPKEY over its eight bytes; bit 0 is the lowest bit of the digest's first byte (DEDUCED from R4, log entry 10). -/
def capabilityCheck (key : BitVec 128) (cap : Word) : BitVec 29 :=
  BitVec.ofNat 29 (leNat ((hmac512 (leBytes 16 key.toNat) (leBytes 8 cap.toNat)).take 4))

end Sys2Proof.Machine
end

