-- ==== Sys2Proof/Machine/Bundle.lean ====
section
/-!
DEFINITION. A bundle executing as a unit (R94 to R102): what one instruction brings to its bundle, and the steps of R97.
-/

namespace Sys2Proof.Machine

open Sys2Proof

/-- The slots of R94; the number of each is that of R369. -/
inductive Slot where
  | k
  | m0
  | m1
  | n
  | a0
  | a1
  | v
  deriving DecidableEq, Repr

/-- Numbers of reply slots, acknowledgement entries and store-buffer entries. -/
structure Units where
  slots : Nat
  acks : Nat
  buffer : Nat

/-- What one instruction brings to its bundle. Every function reads the state before the bundle, with the results due at it landed (R97 step 2). -/
structure Op where
  slot : Slot
  /-- Guard negate and guard predicate (R92). -/
  neg : Bool
  guard : BitVec 5
  /-- Scalar and predicate destinations (R95). -/
  dests : List Dest
  /-- The issue checks, given the slot's number (R97 step 3). -/
  check : Nat → State → Option TrapReq
  /-- The groups it touches, accumulator and tile (R36). -/
  touch : State → Bool × Bool
  /-- Explicit-port accesses, by bank (R96). -/
  banks : State → List Nat
  /-- Foreman and range-table entries it needs (R304, R409). -/
  tasks : Nat
  ranges : State → Nat
  /-- Reply slots, acknowledgement entries and store-buffer entries it needs (R191, R195, R422, R432). -/
  units : State → Units
  /-- It waits at issue. -/
  wait : State → Bool
  /-- What it does when its bundle is held. -/
  ask : State → State
  /-- The full/empty word it names, and the value of its ra register (R179). -/
  word : State → Option (Nat × Word)
  /-- Its effects in slot order (R97 step 4). -/
  eff : State → State
  /-- Effects at the end of the bundle: control-register writes, handle counts, returns (R101, R206, R280). -/
  late : State → State
  /-- The target of a taken transfer (R154). -/
  next : State → Option Pair
  /-- A cause raised after the whole bundle: kind A or X (R368). -/
  after : State → Option TrapReq
  /-- It is a SENDP that closes the packet (R261). -/
  closes : Bool

/-- An instruction of slot K, M or N with its guard and nothing else. -/
def Op.base (sl : Slot) (neg : Bool) (guard : BitVec 5) : Op where
  slot := sl
  neg := neg
  guard := guard
  dests := []
  check := fun _ _ => none
  touch := fun _ => (false, false)
  banks := fun _ => []
  tasks := 0
  ranges := fun _ => 0
  units := fun _ => ⟨0, 0, 0⟩
  wait := fun _ => false
  ask := fun s => s
  word := fun _ => none
  eff := fun s => s
  late := fun s => s
  next := fun _ => none
  after := fun _ => none
  closes := false

/-- The guard of a C-word header. -/
def cGuard (h : CHdr) : BitVec 5 := predOf h.s h.g

/-- An instruction of slot K: CTL and SYS (R112). -/
def opK (h : CHdr) : Op := Op.base .k h.n (cGuard h)

/-- An instruction of slot M0 or M1: MEM (R93, R112). -/
def opM (h : CHdr) : Op := Op.base (if h.s then .m1 else .m0) h.n (cGuard h)

/-- An instruction of slot N: ENG (R112). -/
def opN (h : CHdr) : Op := Op.base .n h.n (cGuard h)

/-- A scalar A-word (R112). -/
def opA (h : AHdr) : Op := Op.base (if h.s then .a1 else .a0) h.n (predOf h.s h.g)

/-- A tile-vector A-word (R112). -/
def opV (h : AHdr) : Op := Op.base .v h.n (predOf h.s h.g)

/-- An instruction at its place in the bundle: slot number, pair and word within the bundle. -/
structure Placed where
  op : Op
  num : Nat
  pair : Nat
  word : Nat

/-- The guard of an instruction holds (R92). -/
def Op.live (o : Op) (s : State) : Bool := s.c.readP o.guard != o.neg

/-- The number of a slot (R369); tile-vector words take 6 and 7 by pair order. -/
def Slot.num (v : Nat) : Slot → Nat
  | .k => 0
  | .m0 => 1
  | .m1 => 2
  | .n => 3
  | .a0 => 4
  | .a1 => 5
  | .v => 6 + v

/-- The placed instructions of one slot number. -/
def inSlot (ps : List Placed) (n : Nat) : List Placed := ps.filter fun p => p.num == n

/-- Slot order K, M0, M1, N, A0, A1, V0, V1 (R97 step 3). -/
def slotOrder (ps : List Placed) : List Placed := (List.range 8).flatMap (inSlot ps)

/-- The bank-port fault of R96 and R105. -/
def bankTrap (s : State) (p : Placed) (bank : Nat) : TrapReq :=
  trapWith Cause.illegalBundle (BitVec.ofNat 64 (p.pair + p.word <<< 2 + 4 <<< 4 + bank <<< 8))
    (s.pairAt (s.c.pc + BitVec.ofNat 14 p.pair))

/-- The first bank that an access takes past two (R96). -/
def bankOver (used new : List Nat) : Option Nat :=
  (List.range 8).find? fun b => decide (used.count b + new.count b > 2) && new.contains b

/-- Two full/empty instructions of one bundle may not name the same word (R179). -/
def wordTwice (s : State) (p : Placed) (words : List Nat) : Option TrapReq :=
  match p.op.word s with
  | some (k, ra) => if words.contains k then some (issueTrap Cause.illegalOperand p.num ra) else none
  | none => none

/-- The first failing issue check in slot order, the port count among them (R96, R97 step 3). -/
def firstTrap (s : State) : List Placed → List Nat → List Nat → Option TrapReq
  | [], _, _ => none
  | p :: t, used, words =>
    match p.op.check p.num s <|> wordTwice s p words with
    | some q => some q
    | none =>
      match bankOver used (p.op.banks s) with
      | some b => some (bankTrap s p b)
      | none => firstTrap s t (used ++ p.op.banks s) (words ++ ((p.op.word s).map (·.1)).toList)

/-- Packet rule of R262: the owner's sixteenth bundle must close the packet. -/
def packetOver (s : State) (ps : List Placed) : Option TrapReq :=
  match s.core.packet with
  | none => none
  | some p =>
    if s.ownsPacket ∧ 15 ≤ p.bundles ∧ !(ps.any fun q => q.op.closes) then
      some (trapWith Cause.packetOverrun (BitVec.ofNat 64 (p.pair.toNat + p.data.length <<< 16)) (BitVec.ofNat 64 p.dest.toNat))
    else none

/-- Resolve every touch of the bundle, as the values it reads give them (R36, R97 step 2). -/
def resolveAll (v s : State) (ps : List Placed) : State :=
  s.resolve (ps.any fun p => (p.op.touch v).1) (ps.any fun p => (p.op.touch v).2)

/-- The context waits for a release or an edge: its next bundle is not tried until then (R173, R175, R337; DEDUCED, log entry 63). -/
def Ctx.barred (c : Ctx) : Bool := c.blocked.any fun b => b.2 == c.mode

/-- The context's next bundle waits, whatever it is: for a response, a release or an edge, or for words that are still moving (R173, R175, R195, R211, R239, R261). -/
def Ctx.waiting (c : Ctx) (now : BitVec 64) : Bool :=
  (c.awaits.any fun a => a.mode == c.mode) || c.barred || decide (now.toNat < c.busyUntil.toNat)

/-! ### The loop unit (R160) -/

/-- The indices after a step, and whether every one wrapped; `c` counts the dimensions left. -/
def loopCarry (n : Nest) : Nat → Vector (BitVec 16) 6 → Vector (BitVec 16) 6 × Bool
  | 0, i => (i, true)
  | k + 1, i =>
    let d : Fin 6 := ⟨(5 - k) % 6, Nat.mod_lt _ (by decide)⟩
    let x := i.get d + 1
    if (i.get d).toNat + 1 < (n.bound.get d).toNat then (i.set d.val x d.isLt, false)
    else loopCarry n k (i.set d.val 0 d.isLt)

/-- The offset of R160: the sum over the dimensions of index times stride. -/
def nestOffset (n : Nest) (i : Vector (BitVec 16) 6) : Int :=
  ((List.finRange 6).map fun d => ((i.get d).toNat : Int) * (n.stride.get d).toInt).sum

/-- A stream's register, shift and enable (R201). -/
def streamReg (w : BitVec 16) : BitVec 6 := w.extractLsb' 0 6
def streamShift (w : BitVec 16) : Nat := field w 8 2
def streamOn (w : BitVec 16) : Bool := w.getLsbD 15

/-- The stream writes of a step, scheduled at ALU latency (R160). -/
def streamWrites (n : Nest) (i : Vector (BitVec 16) 6) (base : Vector Word 4) (c : Ctx) : Ctx :=
  { c with flight := c.flight ++ ((List.finRange 4).filterMap fun j =>
      let w := n.stream.get j
      if streamOn w then
        some ⟨.s (streamReg w), base.get j + BitVec.ofInt 64 (nestOffset n i * 2 ^ streamShift w), 1⟩
      else none) }

/-- The loop unit's step after the last bundle of a pass; `l` is the pair after that bundle (R160). -/
def loopStep (l : Pair) (c : Ctx) : Ctx :=
  let lp := c.loop
  let r := loopCarry lp.nest 6 lp.idx
  if r.2 then { c with loop := { lp with active := false, done := 0 }, pc := l }
  else
    let d := streamWrites lp.nest r.1 lp.base c
    { d with loop := { lp with idx := r.1, done := 0 }, pc := lp.first }

/-- How many stream writes the loop unit schedules after the context's next bundle (R160). -/
def Ctx.stepResults (c : Ctx) : Nat :=
  if c.looping && c.loop.done == c.loop.count.toNat && !(loopCarry c.loop.nest 6 c.loop.idx).2 then
    ((List.finRange 4).filter fun j => streamOn (c.loop.nest.stream.get j)).length
  else 0

/-! ### Waits at issue (R13, R97) -/

/-- The first taken transfer of the bundle. -/
def firstNext (s : State) : List Placed → Option Pair
  | [] => none
  | p :: t => match p.op.next s with
    | some q => some q
    | none => firstNext s t

/-- The results that a bundle brings beside its instructions': the stream writes of the loop unit, where the bundle ends a pass (R160). -/
def stepResults (s : State) (ps : List Placed) : Nat := if (firstNext s ps).isNone then s.c.stepResults else 0

/-- A unit of `cap` entries, `used` of them held, has `n` free. -/
def unitFree (used cap n : Nat) : Bool := n == 0 || decide (used + n ≤ cap)

/-- The reply slots, acknowledgement entries and store-buffer entries that the bundle needs are free (R191, R195, R422, R432). -/
def unitsFree (s : State) (ps : List Placed) : Bool :=
  unitFree s.slotsHeld 8 (ps.map fun p => (p.op.units s).slots).sum &&
  unitFree s.acksHeld 64 (ps.map fun p => (p.op.units s).acks).sum &&
  unitFree s.bufferHeld 64 (ps.map fun p => (p.op.units s).buffer).sum

/-- Whether the bundle waits at issue, for entries, for its results' room or for a wait of one of its instructions (R97).
Every result counts toward the 32 of R101: those to s0, s32, p0 and p16, the frozen ones, and the stream writes of a pass that the bundle ends, which are scheduled as if by a bundle of their own that cannot wait (DEDUCED, log entry 25). -/
def mustWait (s : State) (ps : List Placed) : Bool :=
  decide ((ps.map fun p => p.op.tasks).sum > s.taskRoom) ||
  decide ((ps.map fun p => p.op.ranges s).sum > s.rangeRoom) ||
  !unitsFree s ps ||
  decide (s.c.flight.length + s.c.frozen.length + (ps.flatMap fun p => p.op.dests).length + stepResults s ps > 32) ||
  ps.any fun p => p.op.wait s

/-- A group that the bundle touches is being cleared, which holds it but is no wait (R13, R36). -/
def held (s : State) (ps : List Placed) : Bool := s.clearing (ps.any fun p => (p.op.touch s).1) (ps.any fun p => (p.op.touch s).2)

/-- The bundle waits: only the cycle in which the wait began is noted (R163, R164). -/
def State.hold (s : State) : State :=
  s.modC fun c => { c with heldAt := some (c.heldAt.getD s.core.cycle) }

/-- What the held instructions ask for. -/
def applyAsk : List Placed → State → State
  | [], s => s
  | p :: t, s => applyAsk t (p.op.ask s)

/-- Turn to the pair of an instruction of the present bundle. -/
def State.atPlace (s : State) (p : Placed) : State := s.modCore fun c => { c with atPair := s.c.pc + BitVec.ofNat 14 p.pair }

/-- The effects of the placed instructions, one after another. -/
def applyEff : List Placed → State → State
  | [], s => s
  | p :: t, s => applyEff t (p.op.eff (s.atPlace p))

/-- The effects at the end of the bundle. -/
def applyLate : List Placed → State → State
  | [], s => s
  | p :: t, s => applyLate t (p.op.late s)

/-- The pair after the present bundle (R155). -/
def State.pairAfter (s : State) : Pair := s.c.pc + BitVec.ofNat 14 s.bundleLen

/-- A return to a user bundle that a trap interrupted resumes its wait (R368); any other bundle has not been held yet. -/
def Ctx.heldAgain (c : Ctx) (p : Pair) : Option (BitVec 64 × Option Bool) :=
  match c.heldAside with
  | some (q, t) => if c.mode = false ∧ q = p then some t else none
  | none => none

/-- The next bundle of the context (R97 step 6, R154, R160): the target, or the pair after, and the loop's count of bundles. -/
def State.advance (s : State) (was : Bool) (target : Option Pair) : State :=
  let l := s.pairAfter
  s.modC fun c =>
    let d := { c with last := c.pc, pc := target.getD l, heldAt := (c.heldAgain (target.getD l)).map (·.1),
                      verdict := (c.heldAgain (target.getD l)).bind (·.2),
                      heldAside := if c.mode then c.heldAside else none, arrived := false }
    if was && c.loop.active && target.isNone then
      if c.loop.done + 1 = c.loop.count.toNat + 1 then loopStep l d
      else { d with loop := { d.loop with done := c.loop.done + 1 } }
    else d

/-- Note the issue: the round-robin place, the context and the nests before its bundle, the yield sets, the packet's bundles (R12, R97, R170, R210, R262); no tag is noted yet. -/
def State.noteIssue (s : State) : State :=
  let s1 := s.modCore fun c => { c with lastCtx := s.curCtx, tagWrites := [], before := s.c, nestsBefore := s.r.nests, atPair := s.c.pc }
  let s2 := s1.modR fun r => { r with ctx := r.ctx.map fun c => { c with yields := c.yields.filter (· != s.curCtx) } }
  if s.ownsPacket then s2.modCore fun c => { c with packet := c.packet.map fun p => { p with bundles := p.bundles + 1 } } else s2

/-- The first cause raised after the bundle. -/
def firstAfter (s : State) : List Placed → Option TrapReq
  | [] => none
  | p :: t => match p.op.after s with
    | some q => some q
    | none => firstAfter s t

/-- Issue a bundle that passes every check and waits for nothing (R97 steps 4 to 6). -/
def State.issue (s : State) (ps : List Placed) : State :=
  let s0 := s.noteIssue.modC Ctx.landed
  let was := s.c.looping
  let s1 := applyEff (slotOrder ps) s0
  let s2 := applyLate (slotOrder ps) s1
  let s3 := s2.advance was (firstNext s1 ps)
  match firstAfter s1 ps with
  | some q => if s3.c.mode then s3.nestedTrap s3.c.last q else s3.takeTrap q
  | none => s3

/-- The pending N cause that is due at this bundle (R368, R381). -/
def State.pendingTrap (s : State) : Option PendingCause := if s.c.mode then none else s.c.pending.head?

/-- The first cause that the bundle's checks raise, on the values that it would read (R97 step 3). -/
def bundleTrap (v : State) (live : List Placed) : Option TrapReq := packetOver v live <|> firstTrap v (slotOrder live) [] []

/-- The instructions whose guards hold (R92). -/
def liveOps (v : State) (ps : List Placed) : List Placed := ps.filter fun p => p.op.live v

/-- One bundle of the present context: a pending cause, the release or edge that the context waits for, the checks, its other waits, the bundle's own, the clears, then the issue (R97, R380). -/
def runPlaced (ps : List Placed) (s : State) : State :=
  match s.pendingTrap with
  | some p => (s.modC fun c => { c with pending := c.pending.tail }).takeTrap (trapWith p.cause p.info0 p.info1)
  | none =>
    let v := s.modC Ctx.landed
    let live := liveOps v ps
    match (if s.c.barred then none else bundleTrap v live) with
    | some q => s.takeTrap q
    | none =>
      if s.c.waiting s.core.cycle then s.replayBack
      else if mustWait v live then (applyAsk (slotOrder live) s.replayBack).hold
      else
        let g := resolveAll v s.replayBack live
        if held (g.modC Ctx.landed) live then g else g.issue live

/-- The word of its pair in which a slot's instructions stand (R83, R85). -/
def Slot.word : Slot → Nat
  | .a0 => 1
  | .a1 => 1
  | .v => 1
  | _ => 0

/-- A bundle that holds one instruction. -/
def runOne (o : Op) (s : State) : Host.Outcome State Fault Refusal :=
  .next (runPlaced [⟨o, o.slot.num 0, 0, o.slot.word⟩] s)

end Sys2Proof.Machine
end

