-- ==== Sys2Proof/Machine/Operands.lean ====
section
/-!
DEFINITION. The operand forms: side registers, the crossing operand, widths, and the ways a result is scheduled.
-/

namespace Sys2Proof.Machine

open Sys2Proof

/-- A register of the instruction's side (R91). -/
def Ctx.reg (c : Ctx) (side : Bool) (a : BitVec 5) : Word := c.readS (regOf side a)

/-- The crossing operand: the other side's register when X is set (R91). -/
def Ctx.regX (c : Ctx) (side : Bool) (b : BitVec 5) (x : Bool) : Word := c.readS (regOf (side != x) b)

/-- A predicate of the instruction's side. -/
def Ctx.pred (c : Ctx) (side : Bool) (a : BitVec 4) : Bool := c.readP (predOf side a)

/-- The width in bits that an IW field selects (R117). -/
def iwBits (w : BitVec 3) : Nat := if w = 0 then 64 else 32

/-- A result of n bits written sign-extended from its top bit (R135); for 64 bits, the value itself. -/
def widen (n : Nat) (x : Int) : Word := BitVec.ofInt 64 (signedOf n (patternOf n x))

/-- The signed value of a register's low n bits. -/
def sval (n : Nat) (x : Word) : Int := signedOf n x.toNat

/-- The unsigned value of a register's low n bits. -/
def uval (n : Nat) (x : Word) : Nat := x.toNat % 2 ^ n

/-- Latencies of R99. -/
def latAlu : Nat := 1
def latCross : Nat := 2
def latMul : Nat := 3
def latFp : Nat := 4
def latLoad : Nat := 4
def latDiv : Nat := 18

/-- The rounding LFSR's value where a mode takes one (R68). -/
def State.lfsr (s : State) : BitVec 32 := s.r.lfsr

/-- The residency's LFSR after one rounding under a mode (R68). -/
def State.stepLfsr (s : State) (rm : BitVec 3) : State := s.modR fun r => { r with lfsr := lfsrAfter rm r.lfsr }

/-- Schedule a result of the present context (R99). -/
def State.result (s : State) (d : Dest) (v : Word) (n : Nat) : State := s.modC fun c => c.schedule d v n

/-- A scalar A-word with one register result, computed from the context's registers at issue (R134). -/
def opAlu (h : AHdr) (d : BitVec 5) (n : Nat) (f : Ctx → Word) : Op :=
  { opA h with dests := [.s (regOf h.s d)], eff := fun s => s.result (.s (regOf h.s d)) (f s.c) n }

/-- A scalar A-word with one predicate result. -/
def opPred (h : AHdr) (p : BitVec 4) (n : Nat) (f : Ctx → Bool) : Op :=
  { opA h with dests := [.p (predOf h.s p)],
               eff := fun s => s.result (.p (predOf h.s p)) (BitVec.ofNat 64 (f s.c).toNat) n }

/-- A binary integer operation at the width of an IW field (R135). -/
def opInt (h : AHdr) (d a b : BitVec 5) (x : Bool) (w : BitVec 3) (n : Nat) (f : Nat → Word → Word → Int) : Op :=
  opAlu h d n fun c => widen (iwBits w) (f (iwBits w) (c.reg h.s a) (c.regX h.s b x))

/-- A unary integer operation at the width of an IW field. -/
def opInt1 (h : AHdr) (d a : BitVec 5) (w : BitVec 3) (f : Nat → Word → Int) : Op :=
  opAlu h d latAlu fun c => widen (iwBits w) (f (iwBits w) (c.reg h.s a))

/-- A full 64-bit operation on two registers. -/
def opWord (h : AHdr) (d a b : BitVec 5) (x : Bool) (n : Nat) (f : Word → Word → Word) : Op :=
  opAlu h d n fun c => f (c.reg h.s a) (c.regX h.s b x)

/-- The FP32 value in the low half of a register (R148). -/
def fpOf (x : Word) : Val := valueOf .fp32 (x.toNat % 2 ^ 32)

/-- A scalar A-word whose result is rounded under a mode, with the LFSR of the residency (R148, R68). -/
def opRounded (h : AHdr) (d : BitVec 5) (rm : BitVec 3) (steps : Bool) (f : BitVec 32 → Ctx → Word) : Op :=
  { opA h with dests := [.s (regOf h.s d)],
               eff := fun s => (s.result (.s (regOf h.s d)) (f s.lfsr s.c) latFp).stepLfsr (if steps then rm else 0) }

/-- Round(x, FP32, rm), zero-extended (R148). -/
def roundWord (rm : BitVec 3) (l : BitVec 32) (v : Val) : Word := BitVec.ofNat 64 (roundTo .fp32 rm l v)

end Sys2Proof.Machine
end

