-- ==== Sys2Proof/Machine/Flags.lean ====
section
/-!
DEFINITION. What is written to predicates: the machine's only flags. Conditions of R119 and R120, truth tables of R132, predicate images of R142.
-/

namespace Sys2Proof.Machine

open Sys2Proof

/-- The integer condition of CMP between two registers (R119, R140). -/
def cmpCond (c : BitVec 4) (a b : Word) : Bool := intCond 64 c.toNat a.toNat b.toNat

/-- The immediate of CMPI, sign-extended to 64 bits (R140). -/
def cmpImm (i : BitVec 5) : Word := i.signExtend 64

/-- The truth table of PLOG: bit 2a + b (R132). -/
def truth (t : BitVec 4) (a b : Bool) : Bool := t.getLsbD (2 * a.toNat + b.toNat)

/-- The 16-bit image of a side's predicates (R142). -/
def predImage (c : Ctx) (side : Bool) : Word :=
  BitVec.ofNat 64 (((List.range 16).map fun j => if c.pred side (BitVec.ofNat 4 j) then 2 ^ j else 0).sum)

/-- The predicates p1 to p15 of a side as destinations (R142). -/
def predDests (side : Bool) : List Dest := (List.range 15).map fun j => .p (predOf side (BitVec.ofNat 4 (j + 1)))

/-- Schedule bits 1 to 15 of a word in the predicates of a side (R142). -/
def schedPreds (side : Bool) (v : Word) (c : Ctx) : Ctx :=
  { c with flight := c.flight ++ (List.range 15).map fun j =>
      ⟨.p (predOf side (BitVec.ofNat 4 (j + 1))), BitVec.ofNat 64 (v.getLsbD (j + 1)).toNat, latAlu⟩ }

/-- The class of an FP32 value as one bit of nine (R152). -/
def fclassOf (x : Nat) : Nat :=
  let e := (x / 2 ^ 23) % 2 ^ 8
  let f := x % 2 ^ 23
  let n := (x / 2 ^ 31) % 2 == 1
  if e = 255 then (if f ≠ 0 then 256 else if n then 1 else 128)
  else if e ≠ 0 then (if n then 2 else 64)
  else if f ≠ 0 then (if n then 4 else 32)
  else (if n then 8 else 16)

end Sys2Proof.Machine
end

