-- ==== Sys2Proof/Machine/Scalar.lean ====
section
/-!
DEFINITION. The scalar A-words: integer, predicate, pointer, distribution and floating-point instructions (R134 to R152).
-/

namespace Sys2Proof.Machine

open Sys2Proof

/-- The outcome of an instruction alone in its bundle. -/
abbrev Result := Host.Outcome State Fault Refusal

/-! ### Integer arithmetic and logic (R136, R137) -/

def opAdd (h : AHdr) (d a b : BitVec 5) (x : Bool) (w : BitVec 3) : Op :=
  opInt h d a b x w latAlu fun n u v => sval n u + sval n v

/-- ADD (R136). -/
def execAdd (h : AHdr) (d a b : BitVec 5) (x : Bool) (w : BitVec 3) (s : State) : Result := runOne (opAdd h d a b x w) s

def opSub (h : AHdr) (d a b : BitVec 5) (x : Bool) (w : BitVec 3) : Op :=
  opInt h d a b x w latAlu fun n u v => sval n u - sval n v

/-- SUB (R136). -/
def execSub (h : AHdr) (d a b : BitVec 5) (x : Bool) (w : BitVec 3) (s : State) : Result := runOne (opSub h d a b x w) s

def opAddi (h : AHdr) (d a : BitVec 5) (i : BitVec 9) : Op :=
  opAlu h d latAlu fun c => c.reg h.s a + i.signExtend 64

/-- ADDI, always 64-bit (R136). -/
def execAddi (h : AHdr) (d a : BitVec 5) (i : BitVec 9) (s : State) : Result := runOne (opAddi h d a i) s

def opMul (h : AHdr) (d a b : BitVec 5) (x : Bool) (w : BitVec 3) : Op :=
  opInt h d a b x w latMul fun n u v => sval n u * sval n v

/-- MUL (R136). -/
def execMul (h : AHdr) (d a b : BitVec 5) (x : Bool) (w : BitVec 3) (s : State) : Result := runOne (opMul h d a b x w) s

def opMulh (h : AHdr) (d a b : BitVec 5) (x : Bool) : Op :=
  opWord h d a b x latMul fun u v => BitVec.ofInt 64 ((u.toInt * v.toInt) / 2 ^ 64)

/-- MULH (R136). -/
def execMulh (h : AHdr) (d a b : BitVec 5) (x : Bool) (s : State) : Result := runOne (opMulh h d a b x) s

def opMulhu (h : AHdr) (d a b : BitVec 5) (x : Bool) : Op :=
  opWord h d a b x latMul fun u v => BitVec.ofNat 64 ((u.toNat * v.toNat) / 2 ^ 64)

/-- MULHU (R136). -/
def execMulhu (h : AHdr) (d a b : BitVec 5) (x : Bool) (s : State) : Result := runOne (opMulhu h d a b x) s

/-- The signed quotient, truncated towards zero; −1 for a zero divisor (R137). -/
def divS (a b : Int) : Int := if b = 0 then -1 else Int.tdiv a b

/-- The signed remainder, with the sign of a; a for a zero divisor (R137). -/
def remS (a b : Int) : Int := if b = 0 then a else Int.tmod a b

/-- The unsigned quotient: all ones for a zero divisor (R137). -/
def divU (a b : Nat) : Int := if b = 0 then -1 else ((a / b : Nat) : Int)

/-- The unsigned remainder: a for a zero divisor (R137). -/
def remU (a b : Nat) : Int := if b = 0 then (a : Int) else ((a % b : Nat) : Int)

def opDiv (h : AHdr) (d a b : BitVec 5) (x : Bool) (w : BitVec 3) : Op :=
  opInt h d a b x w latDiv fun n u v => divS (sval n u) (sval n v)

/-- DIV (R136, R137). -/
def execDiv (h : AHdr) (d a b : BitVec 5) (x : Bool) (w : BitVec 3) (s : State) : Result := runOne (opDiv h d a b x w) s

def opDivu (h : AHdr) (d a b : BitVec 5) (x : Bool) (w : BitVec 3) : Op :=
  opInt h d a b x w latDiv fun n u v => divU (uval n u) (uval n v)

/-- DIVU (R136, R137). -/
def execDivu (h : AHdr) (d a b : BitVec 5) (x : Bool) (w : BitVec 3) (s : State) : Result := runOne (opDivu h d a b x w) s

def opRem (h : AHdr) (d a b : BitVec 5) (x : Bool) (w : BitVec 3) : Op :=
  opInt h d a b x w latDiv fun n u v => remS (sval n u) (sval n v)

/-- REM (R136, R137). -/
def execRem (h : AHdr) (d a b : BitVec 5) (x : Bool) (w : BitVec 3) (s : State) : Result := runOne (opRem h d a b x w) s

def opRemu (h : AHdr) (d a b : BitVec 5) (x : Bool) (w : BitVec 3) : Op :=
  opInt h d a b x w latDiv fun n u v => remU (uval n u) (uval n v)

/-- REMU (R136, R137). -/
def execRemu (h : AHdr) (d a b : BitVec 5) (x : Bool) (w : BitVec 3) (s : State) : Result := runOne (opRemu h d a b x w) s

def opAnd (h : AHdr) (d a b : BitVec 5) (x : Bool) : Op := opWord h d a b x latAlu fun u v => u &&& v

/-- AND (R136). -/
def execAnd (h : AHdr) (d a b : BitVec 5) (x : Bool) (s : State) : Result := runOne (opAnd h d a b x) s

def opOr (h : AHdr) (d a b : BitVec 5) (x : Bool) : Op := opWord h d a b x latAlu fun u v => u ||| v

/-- OR (R136). -/
def execOr (h : AHdr) (d a b : BitVec 5) (x : Bool) (s : State) : Result := runOne (opOr h d a b x) s

def opXor (h : AHdr) (d a b : BitVec 5) (x : Bool) : Op := opWord h d a b x latAlu fun u v => u ^^^ v

/-- XOR (R136). -/
def execXor (h : AHdr) (d a b : BitVec 5) (x : Bool) (s : State) : Result := runOne (opXor h d a b x) s

def opAndn (h : AHdr) (d a b : BitVec 5) (x : Bool) : Op := opWord h d a b x latAlu fun u v => u &&& ~~~v

/-- ANDN (R136). -/
def execAndn (h : AHdr) (d a b : BitVec 5) (x : Bool) (s : State) : Result := runOne (opAndn h d a b x) s

/-! ### Shifts (R136) -/

/-- The amount of a register shift: b[5:0], or b[4:0] at 32 bits. -/
def shiftBy (n : Nat) (b : Word) : Nat := b.toNat % n

/-- Shift left. -/
def shlOf (n : Nat) (a : Word) (k : Nat) : Int := ((uval n a * 2 ^ k : Nat) : Int)

/-- Logical shift right. -/
def shrOf (n : Nat) (a : Word) (k : Nat) : Int := ((uval n a / 2 ^ k : Nat) : Int)

/-- Arithmetic shift right. -/
def sarOf (n : Nat) (a : Word) (k : Nat) : Int := sval n a / 2 ^ k

/-- Rotation left. -/
def rolOf (n : Nat) (a : Word) (k : Nat) : Int := ((uval n a * 2 ^ k + uval n a / 2 ^ (n - k) : Nat) : Int)

def opShl (h : AHdr) (d a b : BitVec 5) (x : Bool) (w : BitVec 3) : Op :=
  opInt h d a b x w latAlu fun n u v => shlOf n u (shiftBy n v)

/-- SHL (R136). -/
def execShl (h : AHdr) (d a b : BitVec 5) (x : Bool) (w : BitVec 3) (s : State) : Result := runOne (opShl h d a b x w) s

def opShr (h : AHdr) (d a b : BitVec 5) (x : Bool) (w : BitVec 3) : Op :=
  opInt h d a b x w latAlu fun n u v => shrOf n u (shiftBy n v)

/-- SHR (R136). -/
def execShr (h : AHdr) (d a b : BitVec 5) (x : Bool) (w : BitVec 3) (s : State) : Result := runOne (opShr h d a b x w) s

def opSar (h : AHdr) (d a b : BitVec 5) (x : Bool) (w : BitVec 3) : Op :=
  opInt h d a b x w latAlu fun n u v => sarOf n u (shiftBy n v)

/-- SAR (R136). -/
def execSar (h : AHdr) (d a b : BitVec 5) (x : Bool) (w : BitVec 3) (s : State) : Result := runOne (opSar h d a b x w) s

def opRol (h : AHdr) (d a b : BitVec 5) (x : Bool) (w : BitVec 3) : Op :=
  opInt h d a b x w latAlu fun n u v => rolOf n u (shiftBy n v)

/-- ROL (R136). -/
def execRol (h : AHdr) (d a b : BitVec 5) (x : Bool) (w : BitVec 3) (s : State) : Result := runOne (opRol h d a b x w) s

/-- A shift by an immediate, with the width bit of imm9[6] (R117). -/
def opShiftImm (h : AHdr) (d a : BitVec 5) (w : Bool) (k : BitVec 6) (f : Nat → Word → Nat → Int) : Op :=
  opAlu h d latAlu fun c => let n := if w then 32 else 64; widen n (f n (c.reg h.s a) k.toNat)

def opShli (h : AHdr) (d a : BitVec 5) (w : Bool) (sh : BitVec 6) : Op := opShiftImm h d a w sh shlOf

/-- SHLI (R136). -/
def execShli (h : AHdr) (d a : BitVec 5) (w : Bool) (sh : BitVec 6) (s : State) : Result := runOne (opShli h d a w sh) s

def opShri (h : AHdr) (d a : BitVec 5) (w : Bool) (sh : BitVec 6) : Op := opShiftImm h d a w sh shrOf

/-- SHRI (R136). -/
def execShri (h : AHdr) (d a : BitVec 5) (w : Bool) (sh : BitVec 6) (s : State) : Result := runOne (opShri h d a w sh) s

def opSari (h : AHdr) (d a : BitVec 5) (w : Bool) (sh : BitVec 6) : Op := opShiftImm h d a w sh sarOf

/-- SARI (R136). -/
def execSari (h : AHdr) (d a : BitVec 5) (w : Bool) (sh : BitVec 6) (s : State) : Result := runOne (opSari h d a w sh) s

/-! ### Counts, bit fields, minima and selection (R136, R138, R139) -/

/-- Leading zeros of an n-bit number, counted down from bit n − 1. -/
def clzOf : Nat → Nat → Nat
  | 0, _ => 0
  | k + 1, x => if x.testBit k then 0 else 1 + clzOf k x

/-- Trailing zeros of an n-bit number. -/
def ctzOf : Nat → Nat → Nat
  | 0, _ => 0
  | k + 1, x => if x % 2 = 1 then 0 else 1 + ctzOf k (x / 2)

/-- Set bits among the low n of a number. -/
def popOf : Nat → Nat → Nat
  | 0, _ => 0
  | k + 1, x => x % 2 + popOf k (x / 2)

def opClz (h : AHdr) (d a : BitVec 5) (w : BitVec 3) : Op := opInt1 h d a w fun n u => clzOf n (uval n u)

/-- CLZ (R136). -/
def execClz (h : AHdr) (d a : BitVec 5) (w : BitVec 3) (s : State) : Result := runOne (opClz h d a w) s

def opCtz (h : AHdr) (d a : BitVec 5) (w : BitVec 3) : Op := opInt1 h d a w fun n u => ctzOf n (uval n u)

/-- CTZ (R136). -/
def execCtz (h : AHdr) (d a : BitVec 5) (w : BitVec 3) (s : State) : Result := runOne (opCtz h d a w) s

def opPopc (h : AHdr) (d a : BitVec 5) (w : BitVec 3) : Op := opInt1 h d a w fun n u => popOf n (uval n u)

/-- POPC (R136). -/
def execPopc (h : AHdr) (d a : BitVec 5) (w : BitVec 3) (s : State) : Result := runOne (opPopc h d a w) s

/-- The length of the control word of R138: above 64 acts as 64. -/
def bfLen (b : Word) : Nat := min (field b 8 7) 64

/-- The field BFX extracts (R138). -/
def bfxOf (a b : Word) : Word :=
  let n := bfLen b
  let x := (a.toNat >>> field b 0 6) % 2 ^ n
  if b.getLsbD 15 ∧ n ≠ 0 then BitVec.ofInt 64 (signedOf n x) else BitVec.ofNat 64 x

/-- The register BFI writes: bits [POS + LEN − 1 : POS] of d replaced (R138). -/
def bfiOf (a b d : Word) : Word :=
  let m : Word := BitVec.ofNat 64 ((2 ^ bfLen b - 1) <<< field b 0 6)
  (d &&& ~~~m) ||| ((a <<< field b 0 6) &&& m)

def opBfx (h : AHdr) (d a b : BitVec 5) (x : Bool) : Op := opWord h d a b x latAlu bfxOf

/-- BFX (R138). -/
def execBfx (h : AHdr) (d a b : BitVec 5) (x : Bool) (s : State) : Result := runOne (opBfx h d a b x) s

def opBfi (h : AHdr) (d a b : BitVec 5) (x : Bool) : Op :=
  opAlu h d latAlu fun c => bfiOf (c.reg h.s a) (c.regX h.s b x) (c.reg h.s d)

/-- BFI (R138). -/
def execBfi (h : AHdr) (d a b : BitVec 5) (x : Bool) (s : State) : Result := runOne (opBfi h d a b x) s

def opMin (h : AHdr) (d a b : BitVec 5) (x : Bool) (w : BitVec 3) : Op :=
  opInt h d a b x w latAlu fun n u v => min (sval n u) (sval n v)

/-- MIN (R136). -/
def execMin (h : AHdr) (d a b : BitVec 5) (x : Bool) (w : BitVec 3) (s : State) : Result := runOne (opMin h d a b x w) s

def opMax (h : AHdr) (d a b : BitVec 5) (x : Bool) (w : BitVec 3) : Op :=
  opInt h d a b x w latAlu fun n u v => max (sval n u) (sval n v)

/-- MAX (R136). -/
def execMax (h : AHdr) (d a b : BitVec 5) (x : Bool) (w : BitVec 3) (s : State) : Result := runOne (opMax h d a b x w) s

def opMinu (h : AHdr) (d a b : BitVec 5) (x : Bool) (w : BitVec 3) : Op :=
  opInt h d a b x w latAlu fun n u v => ((min (uval n u) (uval n v) : Nat) : Int)

/-- MINU (R136). -/
def execMinu (h : AHdr) (d a b : BitVec 5) (x : Bool) (w : BitVec 3) (s : State) : Result := runOne (opMinu h d a b x w) s

def opMaxu (h : AHdr) (d a b : BitVec 5) (x : Bool) (w : BitVec 3) : Op :=
  opInt h d a b x w latAlu fun n u v => ((max (uval n u) (uval n v) : Nat) : Int)

/-- MAXU (R136). -/
def execMaxu (h : AHdr) (d a b : BitVec 5) (x : Bool) (w : BitVec 3) (s : State) : Result := runOne (opMaxu h d a b x w) s

def opSel (h : AHdr) (d a b : BitVec 5) (x : Bool) (p : BitVec 3) : Op :=
  opAlu h d latAlu fun c => if c.pred h.s (p.zeroExtend 4) then c.reg h.s a else c.regX h.s b x

/-- SEL (R139). -/
def execSel (h : AHdr) (d a b : BitVec 5) (x : Bool) (p : BitVec 3) (s : State) : Result := runOne (opSel h d a b x p) s

def opMov (h : AHdr) (d a : BitVec 5) : Op := opAlu h d latAlu fun c => c.reg h.s a

/-- MOV (R139). -/
def execMov (h : AHdr) (d a : BitVec 5) (s : State) : Result := runOne (opMov h d a) s

/-! ### Comparisons and predicates (R140 to R143) -/

def opCmp (h : AHdr) (p : BitVec 4) (a b : BitVec 5) (x : Bool) (c : BitVec 4) : Op :=
  opPred h p latAlu fun k => cmpCond c (k.reg h.s a) (k.regX h.s b x)

/-- CMP (R140). -/
def execCmp (h : AHdr) (p : BitVec 4) (a b : BitVec 5) (x : Bool) (c : BitVec 4) (s : State) : Result := runOne (opCmp h p a b x c) s

def opCmpi (h : AHdr) (p : BitVec 4) (a i : BitVec 5) (c : BitVec 4) : Op :=
  opPred h p latAlu fun k => cmpCond c (k.reg h.s a) (cmpImm i)

/-- CMPI (R140). -/
def execCmpi (h : AHdr) (p : BitVec 4) (a i : BitVec 5) (c : BitVec 4) (s : State) : Result := runOne (opCmpi h p a i c) s

def opPlog (h : AHdr) (p a b t : BitVec 4) : Op := opPred h p latAlu fun c => truth t (c.pred h.s a) (c.pred h.s b)

/-- PLOG (R141, R132). -/
def execPlog (h : AHdr) (p a b t : BitVec 4) (s : State) : Result := runOne (opPlog h p a b t) s

def opPmovGet (h : AHdr) (d : BitVec 5) : Op := opAlu h d latAlu fun c => predImage c h.s

/-- PMOV.get (R142). -/
def execPmovGet (h : AHdr) (d : BitVec 5) (s : State) : Result := runOne (opPmovGet h d) s

def opPmovPut (h : AHdr) (a : BitVec 5) : Op :=
  { opA h with dests := predDests h.s, eff := fun s => s.modC fun c => schedPreds h.s (c.reg h.s a) c }

/-- PMOV.put (R142). -/
def execPmovPut (h : AHdr) (a : BitVec 5) (s : State) : Result := runOne (opPmovPut h a) s

def opXmov (h : AHdr) (d b : BitVec 5) : Op := opAlu h d latCross fun c => c.reg (!h.s) b

/-- XMOV of a register (R143). -/
def execXmov (h : AHdr) (d b : BitVec 5) (s : State) : Result := runOne (opXmov h d b) s

def opXmovP (h : AHdr) (d b : BitVec 4) : Op := opPred h d latCross fun c => c.pred (!h.s) b

/-- XMOV of a predicate (R143). -/
def execXmovP (h : AHdr) (d b : BitVec 4) (s : State) : Result := runOne (opXmovP h d b) s

/-! ### Pointers (R144, R145) -/

def opAddp (h : AHdr) (d a b : BitVec 5) (x : Bool) : Op :=
  opWord h d a b x latAlu fun u v => ptrAdd u v.toInt

/-- ADDP (R144). -/
def execAddp (h : AHdr) (d a b : BitVec 5) (x : Bool) (s : State) : Result := runOne (opAddp h d a b x) s

def opAddpE (h : AHdr) (d a b : BitVec 5) (x : Bool) : Op :=
  opWord h d a b x latAlu fun u v => ptrAdd u ((v.toInt * fmtWidth (ptrFmt u)) / 8)

/-- ADDP.e (R144). -/
def execAddpE (h : AHdr) (d a b : BitVec 5) (x : Bool) (s : State) : Result := runOne (opAddpE h d a b x) s

def opPfmt (h : AHdr) (d a : BitVec 5) (i : BitVec 8) : Op :=
  opAlu h d latAlu fun c => i ++ (c.reg h.s a).extractLsb' 0 56

/-- PFMT (R145). -/
def execPfmt (h : AHdr) (d a : BitVec 5) (i : BitVec 8) (s : State) : Result := runOne (opPfmt h d a i) s

/-- The field PFLD writes (R145). -/
def pfldOf (f : BitVec 2) (p : Word) : Nat :=
  match f.toNat with
  | 0 => ptrFmt p
  | 1 => ptrBlg p
  | 2 => ptrWin p
  | _ => ptrOff p

def opPfld (h : AHdr) (d a : BitVec 5) (f : BitVec 2) : Op :=
  opAlu h d latAlu fun c => BitVec.ofNat 64 (pfldOf f (c.reg h.s a))

/-- PFLD (R145). -/
def execPfld (h : AHdr) (d a : BitVec 5) (f : BitVec 2) (s : State) : Result := runOne (opPfld h d a f) s

/-! ### Block-cyclic distribution (R146, R147) -/

/-- Owner step and local offset of one dimension: register DTn.d and coordinate (R147). -/
def distDim (dt : Word) (x : Nat) : Nat × Nat :=
  let block := field dt 0 16
  let grid := field dt 18 11
  let own := if block = 0 ∨ grid = 0 then 0 else (x / block) % grid
  let l := if block = 0 ∨ grid = 0 then x else (x / block / grid) * block + x % block
  (own * field dt 29 11, l * field dt 40 24)

/-- Core and local offset of a coordinate word under the table whose registers `dt` gives (R147). -/
def distOf (dt : Nat → Word) (a : Word) : Nat × Nat :=
  ((List.range 4).map fun k => (distDim (dt k) (field a (16 * k) 16)).1).sum |> fun core =>
  (core, ((List.range 4).map fun k => (distDim (dt k) (field a (16 * k) 16)).2).sum)

/-- Register DTn.d. -/
def Res.dtReg (r : Res) (n : BitVec 2) (k : Nat) : Word := r.dt.get ⟨(4 * n.toNat + k) % 16, Nat.mod_lt _ (by decide)⟩

/-- A result of GDIST from the table n. -/
def opDist (h : AHdr) (d a b : BitVec 5) (x : Bool) (t : BitVec 2) (f : Nat × Nat → Word → Word) : Op :=
  { opA h with dests := [.s (regOf h.s d)],
               eff := fun s => s.result (.s (regOf h.s d)) (f (distOf (s.r.dtReg t) (s.c.reg h.s a)) (s.c.regX h.s b x)) latMul }

def opGdistCore (h : AHdr) (d a b : BitVec 5) (x : Bool) (t : BitVec 2) : Op :=
  opDist h d a b x t fun p v => v + BitVec.ofNat 64 p.1

/-- GDIST.core (R147). -/
def execGdistCore (h : AHdr) (d a b : BitVec 5) (x : Bool) (t : BitVec 2) (s : State) : Result := runOne (opGdistCore h d a b x t) s

def opGdistOff (h : AHdr) (d a b : BitVec 5) (x : Bool) (t : BitVec 2) : Op :=
  opDist h d a b x t fun p v => ptrAdd v p.2

/-- GDIST.off (R147). -/
def execGdistOff (h : AHdr) (d a b : BitVec 5) (x : Bool) (t : BitVec 2) (s : State) : Result := runOne (opGdistOff h d a b x t) s

/-! ### Floating point (R148 to R152) -/

def opFadd (h : AHdr) (d a b : BitVec 5) (x : Bool) (r : BitVec 3) : Op :=
  opRounded h d r true fun l c => roundWord r l (Val.add (isRd r) (fpOf (c.reg h.s a)) (fpOf (c.regX h.s b x)))

/-- FADD (R149). -/
def execFadd (h : AHdr) (d a b : BitVec 5) (x : Bool) (r : BitVec 3) (s : State) : Result := runOne (opFadd h d a b x r) s

def opFsub (h : AHdr) (d a b : BitVec 5) (x : Bool) (r : BitVec 3) : Op :=
  opRounded h d r true fun l c => roundWord r l (Val.add (isRd r) (fpOf (c.reg h.s a)) (fpOf (c.regX h.s b x)).negate)

/-- FSUB (R149). -/
def execFsub (h : AHdr) (d a b : BitVec 5) (x : Bool) (r : BitVec 3) (s : State) : Result := runOne (opFsub h d a b x r) s

def opFmul (h : AHdr) (d a b : BitVec 5) (x : Bool) (r : BitVec 3) : Op :=
  opRounded h d r true fun l c => roundWord r l (Val.mul (fpOf (c.reg h.s a)) (fpOf (c.regX h.s b x)))

/-- FMUL (R149). -/
def execFmul (h : AHdr) (d a b : BitVec 5) (x : Bool) (r : BitVec 3) (s : State) : Result := runOne (opFmul h d a b x r) s

def opFfma (h : AHdr) (d a b : BitVec 5) (x : Bool) (r : BitVec 3) : Op :=
  opRounded h d r true fun l c => roundWord r l
    (Val.add (isRd r) (Val.mul (fpOf (c.reg h.s a)) (fpOf (c.regX h.s b x))) (fpOf (c.reg h.s d)))

/-- FFMA: the exact sum is rounded once (R149). -/
def execFfma (h : AHdr) (d a b : BitVec 5) (x : Bool) (r : BitVec 3) (s : State) : Result := runOne (opFfma h d a b x r) s

def opFmin (h : AHdr) (d a b : BitVec 5) (x : Bool) : Op :=
  opWord h d a b x latFp fun u v => roundWord 0 0 (minVal (fpOf u) (fpOf v))

/-- FMIN (R149, R78). -/
def execFmin (h : AHdr) (d a b : BitVec 5) (x : Bool) (s : State) : Result := runOne (opFmin h d a b x) s

def opFmax (h : AHdr) (d a b : BitVec 5) (x : Bool) : Op :=
  opWord h d a b x latFp fun u v => roundWord 0 0 (maxVal (fpOf u) (fpOf v))

/-- FMAX (R149, R78). -/
def execFmax (h : AHdr) (d a b : BitVec 5) (x : Bool) (s : State) : Result := runOne (opFmax h d a b x) s

def opFcmp (h : AHdr) (p : BitVec 4) (a b : BitVec 5) (x : Bool) (c : BitVec 4) : Op :=
  opPred h p latFp fun k => fpCond c.toNat (fpOf (k.reg h.s a)) (fpOf (k.regX h.s b x))

/-- FCMP (R150). -/
def execFcmp (h : AHdr) (p : BitVec 4) (a b : BitVec 5) (x : Bool) (c : BitVec 4) (s : State) : Result := runOne (opFcmp h p a b x c) s

/-- The conversions that are exact by their kind and leave the LFSR alone (R151). -/
def fcvtExact (k : BitVec 5) : Bool := k.toNat == 9 || k.toNat == 11 || k.toNat == 13 || k.toNat == 15

/-- An FP32 value rounded to an integral value; a zero result keeps the sign (R151, code 16). -/
def integralOf (rm : BitVec 3) (l : BitVec 32) : Val → Val
  | .nan => .nan
  | .inf n => .inf n
  | .fin n m e => .fin n (roundInt rm l n m e).natAbs 0

/-- The result of a conversion code (R151). -/
def fcvtOf (k : BitVec 5) (rm : BitVec 3) (l : BitVec 32) (a : Word) : Word :=
  let v := fpOf a
  let toFp (f : FpFmt) (x : Val) : Word := BitVec.ofNat 64 (roundTo f rm l x)
  match k.toNat with
  | 0 => BitVec.ofInt 64 (toInt rm l true 32 v)
  | 1 => BitVec.ofInt 64 (toInt rm l true 64 v)
  | 2 => BitVec.ofInt 64 (toInt rm l false 32 v)
  | 3 => BitVec.ofInt 64 (toInt rm l false 64 v)
  | 4 => toFp .fp32 (Val.ofInt (sval 32 a))
  | 5 => toFp .fp32 (Val.ofInt (sval 64 a))
  | 6 => toFp .fp32 (Val.ofInt (uval 32 a))
  | 7 => toFp .fp32 (Val.ofInt (uval 64 a))
  | 8 => toFp .fp16 v
  | 9 => toFp .fp32 (valueOf .fp16 (a.toNat % 2 ^ 16))
  | 10 => toFp .bf16 v
  | 11 => toFp .fp32 (valueOf .bf16 (a.toNat % 2 ^ 16))
  | 12 => toFp .e4m3 v
  | 13 => toFp .fp32 (valueOf .e4m3 (a.toNat % 2 ^ 8))
  | 14 => toFp .e5m2 v
  | 15 => toFp .fp32 (valueOf .e5m2 (a.toNat % 2 ^ 8))
  | _ => toFp .fp32 (integralOf rm l v)

def opFcvt (h : AHdr) (d a k : BitVec 5) (r : BitVec 3) : Op :=
  opRounded h d r (!fcvtExact k) fun l c => fcvtOf k r l (c.reg h.s a)

/-- FCVT (R151, R69). -/
def execFcvt (h : AHdr) (d a k : BitVec 5) (r : BitVec 3) (s : State) : Result := runOne (opFcvt h d a k r) s

def opFclass (h : AHdr) (d a : BitVec 5) : Op :=
  opAlu h d latFp fun c => BitVec.ofNat 64 (fclassOf (uval 32 (c.reg h.s a)))

/-- FCLASS (R152). -/
def execFclass (h : AHdr) (d a : BitVec 5) (s : State) : Result := runOne (opFclass h d a) s

end Sys2Proof.Machine
end

