-- ==== Sys2Proof/Machine/Tiles.lean ====
section
/-!
DEFINITION. Tile data and what one step of a tile task computes from its snapshots (R214 to R252, R71 to R74, R187, R188).
-/

namespace Sys2Proof.Machine

open Sys2Proof

/-! ### Formats -/

/-- FMT codes of R43. -/
def fmtUntyped : BitVec 5 := 0x00
def fmtI8 : BitVec 5 := 0x01
def fmtU8 : BitVec 5 := 0x02
def fmtI16 : BitVec 5 := 0x03
def fmtI32 : BitVec 5 := 0x04
def fmtI64 : BitVec 5 := 0x05
def fmtF32 : BitVec 5 := 0x08
def fmtBf16 : BitVec 5 := 0x09
def fmtF16 : BitVec 5 := 0x0A
def fmtE4 : BitVec 5 := 0x0B
def fmtE5 : BitVec 5 := 0x0C
def fmtN4 : BitVec 5 := 0x10

/-- The format group FL of R241. -/
def isFl (f : BitVec 5) : Bool := f == fmtF32 || f == fmtBf16 || f == fmtF16 || f == fmtE4 || f == fmtE5

/-- The format group IN of R241. -/
def isIn (f : BitVec 5) : Bool := f == fmtI8 || f == fmtU8 || f == fmtI16 || f == fmtI32 || f == fmtI64

/-- The floating-point format of a tag of FL. -/
def fpOfFmt (f : BitVec 5) : FpFmt :=
  if f = fmtF32 then .fp32 else if f = fmtBf16 then .bf16 else if f = fmtF16 then .fp16
  else if f = fmtE4 then .e4m3 else .e5m2

/-- The width in bits of a tag; an untyped tile has the width of its shape. -/
def tagWidth (f : BitVec 5) : Nat := fmtWidth f.toNat

/-- An integer element's value: signed, or unsigned for UINT8. -/
def intElem (f : BitVec 5) (x : Nat) : Int := if f = fmtU8 then (x : Int) else signedOf (tagWidth f) x

/-- An element's exact value in FL or IN. -/
def elemVal (f : BitVec 5) (x : Nat) : Val := if isFl f then valueOf (fpOfFmt f) x else Val.ofInt (intElem f x)

/-- The least and greatest integers of a tag. -/
def intMin (f : BitVec 5) : Int := if f = fmtU8 then 0 else -(2 ^ (tagWidth f - 1) : Int)
def intMax (f : BitVec 5) : Int := if f = fmtU8 then 255 else 2 ^ (tagWidth f - 1) - 1

/-- An exact integer narrowed to a tag: saturated, or modulo 2^width (R242). -/
def intFit (f : BitVec 5) (sat : Bool) (x : Int) : Nat :=
  patternOf (tagWidth f) (if sat then max (intMin f) (min (intMax f) x) else x)

/-! ### Shapes and elements (R32, R218) -/

/-- Element width in bits of an EW code (R32). -/
def Shape.width (sh : Shape) : Nat := 4 <<< sh.ew.toNat

/-- Row bytes of a shape (R33). -/
def Shape.rowBytes (sh : Shape) : Nat := (sh.cols.toNat * sh.width + 7) / 8

/-- Element (i, j) lies inside the shape (R218). -/
def Shape.has (sh : Shape) (i j : Nat) : Bool := decide (i < sh.rows.toNat) && decide (j < sh.cols.toNat)

/-- Element (i, j) of tile n; zero outside the shape (R218). -/
def tileGet (m : List Host.Cell) (n : Nat) (sh : Shape) (i j : Nat) : Nat :=
  if sh.has i j then
    if sh.ew = 0 then
      (memGet m (tileKey n (i * sh.rowBytes + j / 2))).toNat / (if j % 2 = 0 then 1 else 16) % 16
    else memNat m (tileKey n (i * sh.rowBytes + j * (sh.width / 8))) (sh.width / 8)
  else 0

/-- Write element (i, j) of tile n; nothing outside the shape (R218). -/
def tilePut (n : Nat) (sh : Shape) (i j v : Nat) (m : List Host.Cell) : List Host.Cell :=
  if sh.has i j then
    if sh.ew = 0 then
      let k := tileKey n (i * sh.rowBytes + j / 2)
      let old := (memGet m k).toNat
      memSet m k (BitVec.ofNat 8 (if j % 2 = 0 then old / 16 * 16 + v % 16 else v % 16 * 16 + old % 16))
    else memPut m (tileKey n (i * sh.rowBytes + j * (sh.width / 8))) (leBytes (sh.width / 8) v)
  else m

/-- Bit (i, j) of mask k; m0 reads as all-true (R30). -/
def maskGet (m : List Host.Cell) (k i j : Nat) : Bool :=
  if k = 0 then true else (memGet m (maskKey k (64 * i + j / 8))).getLsbD (j % 8)

/-- Write bit (i, j) of mask k; a write to m0 is discarded (R30). -/
def maskPut (k i j : Nat) (v : Bool) (m : List Host.Cell) : List Host.Cell :=
  if k = 0 then m
  else
    let a := maskKey k (64 * i + j / 8)
    let old := memGet m a
    let bit : Byte := 1 <<< (j % 8)
    memSet m a (if v then old ||| bit else old &&& ~~~bit)

/-- Block length of an N4 tile from its tag (R62); 32 where the tag names none. -/
def blockLen (blg : BitVec 3) : Nat := if blg.toNat = 4 then 16 else if blg.toNat = 6 then 64 else 32

/-- Scale byte of the block that holds column j of row i (R61, R62). -/
def scaleGet (m : List Host.Cell) (n : Nat) (sh : Shape) (blg : BitVec 3) (i j : Nat) : Nat :=
  let b := blockLen blg
  (memGet m (scaleKey n (i * ((sh.cols.toNat + b - 1) / b) + j / b))).toNat

/-- The exact value of an element of an N4 tile; +0 outside the shape. -/
def n4Elem (m : List Host.Cell) (n : Nat) (sh : Shape) (blg : BitVec 3) (i j : Nat) : Val :=
  if sh.has i j then n4Value (scaleGet m n sh blg i j) (tileGet m n sh i j) else Val.ofInt 0

/-! ### Conversion between tags (R69, R243) -/

/-- A conversion that is never rounded, so that it takes no LFSR value (R68); one between equal formats is of that kind (DEDUCED, log entry 30). -/
def cvtExact (src tgt : BitVec 5) : Bool :=
  if isIn src || isIn tgt then isIn src && isIn tgt
  else src == tgt || tgt == fmtF32 || ((tgt == fmtF16 || tgt == fmtBf16) && (src == fmtE4 || src == fmtE5))

/-- An exact value rounded or saturated to a target tag. -/
def cvtVal (tgt : BitVec 5) (rm : BitVec 3) (l : BitVec 32) (v : Val) : Nat :=
  if isFl tgt then roundTo (fpOfFmt tgt) rm l v
  else patternOf (tagWidth tgt) (toInt rm l (tgt != fmtU8) (tagWidth tgt) v)

/-- An element converted between tags, and the LFSR after it. -/
def cvtElem (src tgt : BitVec 5) (rm : BitVec 3) (l : BitVec 32) (x : Nat) : Nat × BitVec 32 :=
  if isIn src && isIn tgt then (intFit tgt true (intElem src x), l)
  else (cvtVal tgt rm l (elemVal src x), if cvtExact src tgt then l else lfsrAfter rm l)

/-- The target format of TCVT and TDQ (R243). -/
def cvtTarget (k : BitVec 4) : BitVec 5 :=
  match k.toNat with
  | 0 => fmtI8 | 1 => fmtU8 | 2 => fmtI16 | 3 => fmtI32 | 4 => fmtI64
  | 5 => fmtF32 | 6 => fmtBf16 | 7 => fmtF16 | 8 => fmtE4 | _ => fmtE5

/-! ### One element of a tile-vector result -/

/-- Snapshots of a task by operand: tile number, shape, tag and block-length tag. -/
structure Opnd where
  n : Nat
  sh : Shape
  fmt : BitVec 5
  blg : BitVec 3
  deriving DecidableEq, Repr

/-- Operand k of a task, whose register is n. -/
def Task.opnd (t : Task) (k : Nat) (n : BitVec 4) : Opnd :=
  ⟨n.toNat, t.shapes.getD k ⟨0, 0, 0⟩, t.fmts.getD k 0, t.blgs.getD k 0⟩

/-- Element (i, j) of an operand. -/
def Opnd.get (o : Opnd) (m : List Host.Cell) (i j : Nat) : Nat := tileGet m o.n o.sh i j

/-- One operation of the arithmetic group on elements a, b and the old d (R242). -/
inductive Arith where
  | add
  | sub
  | mul
  | fma
  deriving DecidableEq, Repr

/-- A rounded or integer result in format f, and the LFSR after it (R242). -/
def arithElem (k : Arith) (f : BitVec 5) (rm : BitVec 3) (sat : Bool) (l : BitVec 32) (a b d : Nat) : Nat × BitVec 32 :=
  if isFl f then
    let x := elemVal f a
    let y := elemVal f b
    let v := match k with
      | .add => Val.add (isRd rm) x y
      | .sub => Val.add (isRd rm) x y.negate
      | .mul => Val.mul x y
      | .fma => Val.add (isRd rm) (Val.mul x y) (elemVal f d)
    (roundTo (fpOfFmt f) rm l v, lfsrAfter rm l)
  else
    let x := intElem f a
    let y := intElem f b
    (intFit f sat (match k with
      | .add => x + y
      | .sub => x - y
      | .mul => x * y
      | .fma => x * y + intElem f d), l)

/-- Maximum (or minimum) of two elements (R78, R242). -/
def extreme (mx : Bool) (f : BitVec 5) (a b : Nat) : Nat :=
  if isFl f then
    roundTo (fpOfFmt f) 0 0 (if mx then maxVal (elemVal f a) (elemVal f b) else minVal (elemVal f a) (elemVal f b))
  else if mx then (if intElem f a < intElem f b then b else a)
  else (if intElem f b < intElem f a then b else a)

/-- Element a ranks below element b (R79, R247). Untyped elements rank as unsigned. -/
def elemLt (f : BitVec 5) (a b : Nat) : Bool :=
  if isFl f then rankLt (elemVal f a) (elemVal f b)
  else if f = fmtUntyped then decide (a < b)
  else decide (intElem f a < intElem f b)

/-- A shift of an integer element by an unsigned count (R242). -/
def shiftElem (f : BitVec 5) (left arith : Bool) (a c : Nat) : Nat :=
  let w := tagWidth f
  if left then (if w ≤ c then 0 else (a <<< c) % 2 ^ w)
  else if arith then patternOf w (intElem f a / 2 ^ min c w)
  else (if w ≤ c then 0 else a >>> c)

/-- The comparison of TCMP (R246): UINT8 compares unsigned under the signed conditions too. -/
def cmpElem (f : BitVec 5) (cc : BitVec 4) (a b : Nat) : Bool :=
  if isFl f then fpCond cc.toNat (elemVal f a) (elemVal f b)
  else
    let c := if f = fmtU8 ∧ 2 ≤ cc.toNat ∧ cc.toNat ≤ 5 then cc.toNat + 4 else cc.toNat
    intCond (tagWidth f) c a b

/-- The values of one row or column of an operand, over its extent. -/
def Opnd.line (o : Opnd) (m : List Host.Cell) (col : Bool) (i : Nat) : List Nat :=
  if col then (List.range o.sh.rows.toNat).map fun k => o.get m k i
  else (List.range o.sh.cols.toNat).map fun k => o.get m i k

/-- Both infinities stand among the elements of a line (R75). -/
def bothInf (f : BitVec 5) (xs : List Nat) : Bool :=
  isFl f && (xs.any fun x => elemVal f x == .inf true) && xs.any fun x => elemVal f x == .inf false

/-- TRED of one line: operation 0 sum, 1 maximum, 2 minimum, nodes in format g (R77, R249); NaN where both infinities are among its elements (R75). An empty maximum or minimum in E4M3, which has no infinity, is that format's NaN 0x7F (DESIGN CHOICE, log entry 29). -/
def reduceLine (op : Nat) (f g : BitVec 5) (rm : BitVec 3) (l : BitVec 32) (xs : List Nat) : Nat × BitVec 32 :=
  let node (a b : Nat) (l : BitVec 32) : Nat × BitVec 32 :=
    if op = 0 then arithElem .add g rm true l a b 0 else (extreme (op == 1) g a b, l)
  let leaves := xs.map fun x => if isFl f then roundTo (fpOfFmt g) 0 0 (elemVal f x) else x
  let r := treeFold node 10 leaves l
  match r.1 with
  | x :: _ => (if bothInf f xs then (fpOfFmt g).nan else x, r.2)
  | [] =>
    (if isFl g then roundTo (fpOfFmt g) 0 0 (if op = 0 then Val.ofInt 0 else .inf (op == 1))
     else patternOf (tagWidth g) (if op = 0 then 0 else if op = 1 then intMin g else intMax g), l)

/-- The index TMAXI or TMINI chooses among a line's values (R79). -/
def chooseIdx (mx : Bool) (f : BitVec 5) : List Nat → Nat → Option (Nat × Nat) → Option (Nat × Nat)
  | [], _, best => best
  | x :: t, k, best =>
    let isNan (y : Nat) : Bool := isFl f && (elemVal f y).isNaN
    let better : Bool := match best with
      | none => true
      | some (b, _) => if mx then elemLt f b x
        else (isNan b && !isNan x) || (!isNan b && !isNan x && elemLt f x b)
    chooseIdx mx f t (k + 1) (if better then some (x, k) else best)

/-- A value as it is written by TMAXI and TMINI: a NaN is canonical. -/
def canonElem (f : BitVec 5) (x : Nat) : Nat := if isFl f ∧ (elemVal f x).isNaN then (fpOfFmt f).nan else x

/-- The result of a tile-vector instruction for destination element (i, j), from the memory before the step: its bits, or nothing where the element is not written (R242 to R251). A square root of SFT to a format narrower than FP32 under SR takes two LFSR values, its own and the conversion's (DEDUCED, log entry 31). -/
def vecElem (t : Task) (m : List Host.Cell) (l : BitVec 32) (i j : Nat) : Option Nat × BitVec 32 :=
  let two (d a b : BitVec 4) (f : Opnd → Opnd → Opnd → Option Nat × BitVec 32) : Option Nat × BitVec 32 :=
    f (t.opnd 0 d) (t.opnd 1 a) (t.opnd 2 b)
  let arith (k : Arith) (d a b : BitVec 4) (v : Bool) (rm : BitVec 3) : Option Nat × BitVec 32 :=
    two d a b fun od oa ob =>
      let r := arithElem k oa.fmt rm v l (oa.get m i j) (ob.get m i j) (od.get m i j)
      (some r.1, r.2)
  let bin (d a b : BitVec 4) (f : BitVec 5 → Nat → Nat → Nat) : Option Nat × BitVec 32 :=
    two d a b fun _ oa ob => (some (f oa.fmt (oa.get m i j) (ob.get m i j)), l)
  match t.instr with
  | .tadd _ d a b _ v r => arith .add d a b v r
  | .tsub _ d a b _ v r => arith .sub d a b v r
  | .tmul _ d a b _ v r => arith .mul d a b v r
  | .tfma _ d a b _ v r => arith .fma d a b v r
  | .tmax _ d a b _ => bin d a b fun f x y => extreme true f x y
  | .tmin _ d a b _ => bin d a b fun f x y => extreme false f x y
  | .tabs _ d a _ => bin d a a fun f x _ =>
      if isFl f then roundTo (fpOfFmt f) 0 0 (elemVal f x).abs else intFit f true (intElem f x).natAbs
  | .tneg _ d a _ => bin d a a fun f x _ =>
      if isFl f then roundTo (fpOfFmt f) 0 0 (elemVal f x).negate else intFit f true (-(intElem f x))
  | .tand _ d a b _ => bin d a b fun _ x y => x &&& y
  | .tor _ d a b _ => bin d a b fun _ x y => x ||| y
  | .txor _ d a b _ => bin d a b fun _ x y => x ^^^ y
  | .tshl _ d a b _ => bin d a b fun f x y => shiftElem f true false x y
  | .tshr _ d a b _ k => bin d a b fun f x y => shiftElem f false k x y
  | .tmov _ d a _ => bin d a a fun _ x _ => x
  | .tfill .. => (some 0, l)
  | .tcvt _ d a k _ r => two d a a fun _ oa _ =>
      let x := cvtElem oa.fmt (cvtTarget k) r l (oa.get m i j)
      (some x.1, x.2)
  | .tdq _ d a k _ r => two d a a fun _ oa _ =>
      (some (cvtVal (cvtTarget k) r l (n4Elem m oa.n oa.sh oa.blg i j)),
       if cvtTarget k = fmtF32 then l else lfsrAfter r l)
  | .tscl _ d a b _ v r => two d a b fun _ oa ob =>
      let x := arithElem .mul oa.fmt r false l (oa.get m i j) (if v then ob.get m 0 j else ob.get m i 0) 0
      (some x.1, x.2)
  | .tsel _ d a b k => two d a b fun _ oa ob =>
      (some (if maskGet m k.toNat i j then oa.get m i j else ob.get m i j), l)
  | .tbc _ d a _ c => two d a a fun _ oa _ => (some (if c then oa.get m i 0 else oa.get m 0 j), l)
  | .ttr _ d a _ => two d a a fun _ oa _ => (some (oa.get m j i), l)
  | .tslc _ d a b _ => two d a b fun _ oa ob => (some (oa.get m (ob.get m 0 0 + i) (ob.get m 0 1 + j)), l)
  | .tidx _ d _ c => (some ((if c then i else j) % 2 ^ (t.opnd 0 d).sh.width), l)
  | .mcnt _ d k _ =>
      if j = 0 then (some (((List.range (t.opnd 0 d).sh.cols.toNat).filter fun x => maskGet m k.toNat i x).length), l)
      else (none, l)
  | .tredSum _ d a c _ r => two d a a fun od oa _ =>
      if (if c then i = 0 ∧ j < oa.sh.cols.toNat else j = 0 ∧ i < oa.sh.rows.toNat) then
        let x := reduceLine 0 oa.fmt od.fmt r l (oa.line m c (if c then j else i))
        (some x.1, x.2)
      else (none, l)
  | .tredMax _ d a c _ r => two d a a fun od oa _ =>
      if (if c then i = 0 ∧ j < oa.sh.cols.toNat else j = 0 ∧ i < oa.sh.rows.toNat) then
        let x := reduceLine 1 oa.fmt od.fmt r l (oa.line m c (if c then j else i))
        (some x.1, x.2)
      else (none, l)
  | .tredMin _ d a c _ r => two d a a fun od oa _ =>
      if (if c then i = 0 ∧ j < oa.sh.cols.toNat else j = 0 ∧ i < oa.sh.rows.toNat) then
        let x := reduceLine 2 oa.fmt od.fmt r l (oa.line m c (if c then j else i))
        (some x.1, x.2)
      else (none, l)
  | .sft _ d a r fn => two d a a fun od oa _ =>
      let x := BitVec.ofNat 32 (roundTo .fp32 0 0 (elemVal oa.fmt (oa.get m i j)))
      let y := sfu fn r l x
      let l1 := if fn.toNat = 4 then lfsrAfter r l else l
      let z := cvtElem fmtF32 od.fmt r l1 y.toNat
      (some z.1, z.2)
  | _ => (none, l)

/-- The gating mask of a tile-vector instruction (R218); TSEL and SFT have none. -/
def gateOf : Instr → Nat
  | .tadd _ _ _ _ m _ _ => m.toNat
  | .tsub _ _ _ _ m _ _ => m.toNat
  | .tmul _ _ _ _ m _ _ => m.toNat
  | .tfma _ _ _ _ m _ _ => m.toNat
  | .tmax _ _ _ _ m => m.toNat
  | .tmin _ _ _ _ m => m.toNat
  | .tabs _ _ _ m => m.toNat
  | .tneg _ _ _ m => m.toNat
  | .tcvt _ _ _ _ m _ => m.toNat
  | .tqnt _ _ _ _ m _ => m.toNat
  | .tdq _ _ _ _ m _ => m.toNat
  | .tscl _ _ _ _ m _ _ => m.toNat
  | .tand _ _ _ _ m => m.toNat
  | .tor _ _ _ _ m => m.toNat
  | .txor _ _ _ _ m => m.toNat
  | .tshl _ _ _ _ m => m.toNat
  | .tshr _ _ _ _ m _ => m.toNat
  | .tcmp _ _ _ _ m _ => m.toNat
  | .tcas _ _ _ _ m _ _ => m.toNat
  | .tmaxi _ _ _ _ m _ => m.toNat
  | .tmini _ _ _ _ m _ => m.toNat
  | .tredSum _ _ _ _ m _ => m.toNat
  | .tredMax _ _ _ _ m _ => m.toNat
  | .tredMin _ _ _ _ m _ => m.toNat
  | .tbc _ _ _ m _ => m.toNat
  | .ttr _ _ _ m => m.toNat
  | .tslc _ _ _ _ m => m.toNat
  | .tidx _ _ m _ => m.toNat
  | .tmov _ _ _ m => m.toNat
  | .tfill _ _ m => m.toNat
  | .mlog _ _ _ _ m _ => m.toNat
  | .mcnt _ _ _ m => m.toNat
  | _ => 0

/-- A memory being written by a step, and the LFSR. -/
abbrev Work := List Host.Cell × BitVec 32

/-- The positions of row block b: eight rows of a number of columns, row-major. -/
def rowBlock (b rows cols : Nat) : List (Nat × Nat) :=
  ((List.range 8).map (8 * b + ·)).filter (· < rows) |>.flatMap fun i => (List.range cols).map fun j => (i, j)

/-- Write the gated results of a list of positions, all read from the memory before the step. -/
def vecWrite (t : Task) (d : Opnd) (m : List Host.Cell) : List (Nat × Nat) → Work → Work
  | [], w => w
  | p :: ps, w =>
    let r := vecElem t m w.2 p.1 p.2
    let m1 := match r.1 with
      | some v => if maskGet m (gateOf t.instr) p.1 p.2 then tilePut d.n d.sh p.1 p.2 v w.1 else w.1
      | none => w.1
    vecWrite t d m ps (m1, r.2)

/-- Row block b of a tile-vector task whose result is a tile element by element. -/
def vecStep (t : Task) (d : BitVec 4) (b : Nat) (w : Work) : Work :=
  let o := t.opnd 0 d
  vecWrite t o w.1 (rowBlock b o.sh.rows.toNat o.sh.cols.toNat) w

/-! ### The steps with a form of their own -/

/-- Copy the scale bytes of eight rows from tile a to tile d (TMOV of N4, R242). -/
def movScales (a d : Opnd) (b : Nat) (m : List Host.Cell) : List Host.Cell :=
  let per := (a.sh.cols.toNat + blockLen a.blg - 1) / blockLen a.blg
  let n := (min (8 * b + 8) a.sh.rows.toNat - 8 * b) * per
  memPut m (scaleKey d.n (8 * b * per)) (memBytes m (scaleKey a.n (8 * b * per)) n)

/-- The least X in 0 to 62 with amax ÷ 2^(X − 32) at most Max(T), else 62 (R244). -/
def pickX (t : Nat) (amax : Val) : Nat :=
  ((List.range 63).find? fun (x : Nat) => !((n4Max t).lt (amax.scale (32 - (x : Int))))).getD 62

/-- The largest magnitude of a list of values. -/
def amaxOf (vs : List Val) : Val := vs.foldl (fun a v => if a.lt v.abs then v.abs else a) (Val.ofInt 0)

/-- One block of TQNT: columns from j0, in row i (R244, R70). -/
def qntBlock (d a : Opnd) (k : Nat) (t : Nat) (rm : BitVec 3) (m : List Host.Cell) (i jb : Nat) (w : Work) : Work :=
  let bl := blockLen d.blg
  let js := (List.range bl).map fun x => jb * bl + x
  let vals := js.map fun j => elemVal a.fmt (a.get m i j)
  let amax := amaxOf vals
  let x := if vals.any Val.isNaN then 63 else if amax.isZero then 0 else pickX t amax
  let r := js.foldl (fun (acc : Work × Bool) j =>
      let v := elemVal a.fmt (a.get m i j)
      let c := if x = 63 then 0 else n4Encode t rm acc.1.2 (v.scale (32 - (x : Int)))
      let l := if x = 63 then acc.1.2 else lfsrAfter rm acc.1.2
      if maskGet m k i j then ((tilePut d.n d.sh i j c acc.1.1, l), true) else ((acc.1.1, l), acc.2)) (w, false)
  if r.2 then (memSet r.1.1 (scaleKey d.n (i * (d.sh.cols.toNat / bl) + jb)) (BitVec.ofNat 8 (t * 64 + x)), r.1.2) else r.1

/-- Row block b of TQNT. -/
def qntStep (t : Task) (d a : BitVec 4) (ty : BitVec 2) (rm : BitVec 3) (b : Nat) (w : Work) : Work :=
  let od := t.opnd 0 d
  let nb := od.sh.cols.toNat / blockLen od.blg
  (rowBlock b od.sh.rows.toNat nb).foldl (fun acc p => qntBlock od (t.opnd 1 a) (gateOf t.instr) ty.toNat rm w.1 p.1 p.2 acc) w

/-- Row block b of TCMP: positions outside ta's shape are cleared (R246). -/
def cmpStep (t : Task) (k : BitVec 3) (a b : BitVec 4) (cc : BitVec 4) (blk : Nat) (w : Work) : Work :=
  let oa := t.opnd 0 a
  let ob := t.opnd 1 b
  ((rowBlock blk 256 512).foldl (fun acc p =>
    if !oa.sh.has p.1 p.2 then maskPut k.toNat p.1 p.2 false acc
    else if maskGet w.1 (gateOf t.instr) p.1 p.2 then
      maskPut k.toNat p.1 p.2 (cmpElem oa.fmt cc (oa.get w.1 p.1 p.2) (ob.get w.1 p.1 p.2)) acc
    else acc) w.1, w.2)

/-- Row block b of MLOG (R251). -/
def mlogStep (t : Task) (j k l : BitVec 3) (tt : BitVec 4) (blk : Nat) (w : Work) : Work :=
  ((rowBlock blk 256 512).foldl (fun acc p =>
    if maskGet w.1 (gateOf t.instr) p.1 p.2 then
      maskPut j.toNat p.1 p.2 (truth tt (maskGet w.1 k.toNat p.1 p.2) (maskGet w.1 l.toNat p.1 p.2)) acc
    else acc) w.1, w.2)

/-- One pair of TCAS (R247): exchange the elements, and the companions, when out of order. -/
def casPair (a c : Opnd) (comp asc : Bool) (p q : Nat × Nat) (m : List Host.Cell) : List Host.Cell :=
  let x := a.get m p.1 p.2
  let y := a.get m q.1 q.2
  let cx := c.get m p.1 p.2
  let cy := c.get m q.1 q.2
  -- whether x ranks above y, and y above x; a smaller companion ranks higher between equals
  let above (u v cu cv : Nat) : Bool :=
    elemLt a.fmt v u || (!elemLt a.fmt u v && comp && decide (cu < cv))
  let swap := if asc then above x y cx cy else above y x cy cx
  if swap then
    let m1 := tilePut a.n a.sh q.1 q.2 x (tilePut a.n a.sh p.1 p.2 y m)
    if comp then tilePut c.n c.sh q.1 q.2 cx (tilePut c.n c.sh p.1 p.2 cy m1) else m1
  else m

/-- Row block b of TCAS. -/
def casStep (t : Task) (d a : BitVec 4) (e : BitVec 4) (asc col : Bool) (b : Nat) (w : Work) : Work :=
  let oc := t.opnd 0 d
  let oa := t.opnd 1 a
  let s := 2 ^ e.toNat
  ((rowBlock b oa.sh.rows.toNat oa.sh.cols.toNat).foldl (fun acc p =>
    let x := if col then p.1 else p.2
    let q := if col then (p.1 + s, p.2) else (p.1, p.2 + s)
    if x / s % 2 = 0 ∧ oa.sh.has q.1 q.2 ∧ maskGet w.1 (gateOf t.instr) p.1 p.2 then
      casPair oa oc (d != a) asc p q acc
    else acc) w.1, w.2)

/-- Row block b of TMAXI or TMINI (R248). -/
def idxStep (t : Task) (d a b : BitVec 4) (mx col : Bool) (blk : Nat) (w : Work) : Work :=
  let od := t.opnd 0 d
  let oa := t.opnd 1 a
  let ob := t.opnd 2 b
  let rows := max od.sh.rows.toNat ob.sh.rows.toNat
  let cols := if col then oa.sh.cols.toNat else 1
  ((rowBlock blk rows cols).foldl (fun acc p =>
    if (if col then p.1 = 0 else p.1 < oa.sh.rows.toNat) ∧ maskGet w.1 (gateOf t.instr) p.1 p.2 then
      match chooseIdx mx oa.fmt (oa.line w.1 col (if col then p.2 else p.1)) 0 none with
      | none => acc
      | some (x, k) => tilePut ob.n ob.sh p.1 p.2 (k % 2 ^ ob.sh.width) (tilePut od.n od.sh p.1 p.2 (canonElem oa.fmt x) acc)
    else acc) w.1, w.2)

/-! ### Accumulator steps -/

/-- The word of element (i, j) of a descriptor's rectangle (R186). -/
def AccDesc.key (d : AccDesc) (i j : Nat) : Nat := accKey (32 * d.rblk.toNat + i) (32 * d.cblk.toNat + j)

/-- Element (i, j) lies inside the rectangle. -/
def AccDesc.has (d : AccDesc) (i j : Nat) : Bool := decide (i < d.rows.toNat) && decide (j < d.cols.toNat)

/-- The rectangle is empty (R186). -/
def AccDesc.empty (d : AccDesc) : Bool := d.rows.toNat == 0 || d.cols.toNat == 0

/-- The word at (i, j) of a rectangle. -/
def accGet (m : List Host.Cell) (d : AccDesc) (i j : Nat) : Nat := memNat m (d.key i j) 4

/-- Write the word at (i, j) of a rectangle. -/
def accPut (d : AccDesc) (i j v : Nat) (m : List Host.Cell) : List Host.Cell := memPut m (d.key i j) (leBytes 4 v)

/-- Row i of ACCRD (R187). -/
def accrdStep (t : Task) (n : BitVec 4) (v : Bool) (rm : BitVec 3) (i : Nat) (w : Work) : Work :=
  let o := t.opnd 0 n
  (List.range o.sh.cols.toNat).foldl (fun acc j =>
    if t.desc.has i j then
      let x := accGet w.1 t.desc i j
      let r : Nat × BitVec 32 := match o.sh.ew.toNat, v with
        | 2, false => (roundTo .bf16 rm acc.2 (valueOf .fp32 x), lfsrAfter rm acc.2)
        | 1, false => (roundTo .e4m3 rm acc.2 (valueOf .fp32 x), lfsrAfter rm acc.2)
        | 2, true => (intFit fmtI16 true (signedOf 32 x), acc.2)
        | 1, true => (intFit fmtI8 true (signedOf 32 x), acc.2)
        | _, _ => (x, acc.2)
      (tilePut o.n o.sh i j r.1 acc.1, r.2)
    else (tilePut o.n o.sh i j 0 acc.1, acc.2)) w

/-- An accumulator word plus an FP32 value, under RNE (R188, R199, R75). -/
def accAdd (word : Nat) (v : Val) : Nat := roundTo .fp32 0 0 (Val.add false (valueOf .fp32 word) v)

/-- Row i of ACCWR (R188). -/
def accwrStep (t : Task) (n : BitVec 4) (add : Bool) (i : Nat) (w : Work) : Work :=
  let o := t.opnd 0 n
  ((List.range (min t.desc.cols.toNat o.sh.cols.toNat)).foldl (fun acc j =>
    if t.desc.has i j && o.sh.has i j then
      let x := o.get w.1 i j
      let bits := match o.sh.ew.toNat with
        | 3 => x
        | 2 => roundTo .fp32 0 0 (valueOf .bf16 x)
        | _ => roundTo .fp32 0 0 (valueOf .e4m3 x)
      accPut t.desc i j (if add then accAdd (accGet w.1 t.desc i j) (valueOf .fp32 bits) else bits) acc
    else acc) w.1, w.2)

/-! ### Matrix steps (R225 to R228, R71 to R74) -/

/-- A k-block's length by the format of tile a (R225). -/
def kBlock (f : BitVec 5) : Nat :=
  if f = fmtN4 then 128 else if f = fmtBf16 ∨ f = fmtF16 then 32 else 64

/-- Products per cycle (R225). -/
def kRate (f : BitVec 5) : Nat := if f = fmtN4 then 4 else if f = fmtBf16 ∨ f = fmtF16 then 1 else 2

/-- M, Nout and K of a matrix task (R226, R227, R228). -/
def mmaDims (t : Task) (a b : BitVec 4) (x : Bool) : Nat × Nat × Nat :=
  let oa := t.opnd 0 a
  let ob := t.opnd 1 b
  let n := if oa.fmt = fmtN4 then ob.sh.rows.toNat else ob.sh.cols.toNat
  (min oa.sh.rows.toNat t.desc.rows.toNat, min n (if x then t.desc.cols.toNat / 2 else t.desc.cols.toNat), oa.sh.cols.toNat)

/-- The exact integer dot product and the scale bytes of k-block kb of an N4 product (R73). -/
def n4Dot (oa ob : Opnd) (m : List Host.Cell) (i j kb : Nat) : Int × Nat × Nat :=
  let bl := blockLen oa.blg
  let sa := scaleGet m oa.n oa.sh oa.blg i (kb * bl)
  let sb := scaleGet m ob.n ob.sh ob.blg j (kb * bl)
  let q (s c : Nat) : Int := n4Int (s / 64 % 4) c
  ((((List.range bl).map (kb * bl + ·)).filter (· < oa.sh.cols.toNat)).foldl
    (fun acc k => acc + q sa (oa.get m i k) * q sb (ob.get m j k)) 0, sa, sb)

/-- The exponent Xa + Xb + ua + ub of a block pair, or none where either is NaN (R73, R228). -/
def n4Exp (sa sb : Nat) : Option Int :=
  if sa % 64 = 63 ∨ sb % 64 = 63 then none
  else some ((sa % 64 : Nat) + (sb % 64 : Nat) + n4Unit (sa / 64 % 4) + n4Unit (sb / 64 % 4))

/-- One accumulation of a floating-point word under a mode. -/
def accTerm (rm : BitVec 3) (acc : Nat × BitVec 32) (term : Val) : Nat × BitVec 32 :=
  (roundTo .fp32 rm acc.2 (Val.add (isRd rm) (valueOf .fp32 acc.1) term), lfsrAfter rm acc.2)

/-- Apply k values [k0, k1) to one output word, by the rule of the operand formats (R71 to R74). -/
def mmaElem (oa ob : Opnd) (rm : BitVec 3) (m : List Host.Cell) (i j k0 k1 : Nat) (acc : Nat × BitVec 32) : Nat × BitVec 32 :=
  let av (k : Nat) := elemVal oa.fmt (oa.get m i k)
  let bv (k : Nat) := elemVal ob.fmt (ob.get m k j)
  let ks := (List.range (k1 - k0)).map (k0 + ·)
  if oa.fmt = fmtN4 then
    let bl := blockLen oa.blg
    ((List.range ((k1 - k0 + bl - 1) / bl)).map (k0 / bl + ·)).foldl (fun c kb =>
      let d := n4Dot oa ob m i j kb
      match n4Exp d.2.1 d.2.2 with
      | none => (FpFmt.nan .fp32, c.2)
      | some e => accTerm rm c ((Val.ofInt d.1).scale (e - 64))) acc
  else if isIn oa.fmt then
    ks.foldl (fun c k =>
      (patternOf 32 (satS 32 (signedOf 32 c.1 + intElem oa.fmt (oa.get m i k) * intElem ob.fmt (ob.get m k j))), c.2)) acc
  else if kRate oa.fmt = 1 then ks.foldl (fun c k => accTerm rm c (Val.mul (av k) (bv k))) acc
  else (ks.filter fun k => k % 2 = 0).foldl (fun c k =>
    accTerm rm c (if k + 1 < k1 then Val.add (isRd rm) (Val.mul (av k) (bv k)) (Val.mul (av (k + 1)) (bv (k + 1)))
      else Val.mul (av k) (bv k))) acc

/-- The elements of output block (ib, jb) within M × N, row-major. -/
def blockElems (ib jb m n : Nat) : List (Nat × Nat) :=
  (((List.range 32).map (32 * ib + ·)).filter (· < m)).flatMap fun i =>
    (((List.range 32).map (32 * jb + ·)).filter (· < n)).map fun j => (i, j)

/-- One step of a matrix task (R227). -/
def mmaStep (t : Task) (a b : BitVec 4) (rm : BitVec 3) (w : Work) : Work :=
  let oa := t.opnd 0 a
  let ob := t.opnd 1 b
  let d := mmaDims t a b false
  let kl := kBlock oa.fmt
  (blockElems t.pos t.jb d.1 d.2.1).foldl (fun acc p =>
    let r := mmaElem oa ob rm w.1 p.1 p.2 (t.kb * kl) (min d.2.2 ((t.kb + 1) * kl)) (accGet w.1 t.desc p.1 p.2, acc.2)
    (accPut t.desc p.1 p.2 r.1 acc.1, r.2)) w

/-- One step of MMA.x: the unscaled products and exponents are written (R228). -/
def mmaXStep (t : Task) (a b : BitVec 4) (w : Work) : Work :=
  let oa := t.opnd 0 a
  let ob := t.opnd 1 b
  let d := mmaDims t a b true
  ((blockElems t.pos t.jb d.1 d.2.1).foldl (fun acc p =>
    let q := n4Dot oa ob w.1 p.1 p.2 0
    match n4Exp q.2.1 q.2.2 with
    | none => accPut t.desc p.1 (2 * p.2 + 1) 0x80000000 (accPut t.desc p.1 (2 * p.2) 0 acc)
    | some e => accPut t.desc p.1 (2 * p.2 + 1) (patternOf 32 e) (accPut t.desc p.1 (2 * p.2) (patternOf 32 q.1) acc)) w.1, w.2)

/-! ### Exponent-aligned reductions (R235, R236) -/

/-- The state words of element j of row i (R235). -/
def accxRead (m : List Host.Cell) (d : AccDesc) (i j : Nat) : AccxState :=
  ⟨signedOf 64 (accGet m d i (4 * j) + 2 ^ 32 * accGet m d i (4 * j + 1)), signedOf 32 (accGet m d i (4 * j + 2)),
   (accGet m d i (4 * j + 3)).testBit 0, (accGet m d i (4 * j + 3)).testBit 1⟩

/-- Write the state words of element j of row i. -/
def accxWrite (d : AccDesc) (i j : Nat) (st : AccxState) (m : List Host.Cell) : List Host.Cell :=
  accPut d i (4 * j + 3) (st.empty.toNat + 2 * st.nan.toNat)
    (accPut d i (4 * j + 2) (patternOf 32 st.e)
      (accPut d i (4 * j + 1) (patternOf 64 st.m / 2 ^ 32) (accPut d i (4 * j) (patternOf 64 st.m % 2 ^ 32) m)))

/-- The elements of a reduction's rectangle, row-major. -/
def accxElems (d : AccDesc) : List (Nat × Nat) :=
  (List.range d.rows.toNat).flatMap fun i => (List.range (d.cols.toNat / 4)).map fun j => (i, j)

/-- The state at open (R235). -/
def accxInit (d : AccDesc) (m : List Host.Cell) : List Host.Cell :=
  (accxElems d).foldl (fun acc p => accxWrite d p.1 p.2 ⟨0, 0, true, false⟩ acc) m

/-- Apply one message of (S, E) pairs, 8 bytes each, in row-major order (R235, R76). -/
def accxMessage (d : AccDesc) : List (Nat × Nat) → List Byte → List Host.Cell → List Host.Cell
  | [], _, m => m
  | p :: t, bs, m =>
    accxMessage d t (bs.drop 8)
      (accxWrite d p.1 p.2 (accxApply (accxRead m d p.1 p.2) (signedOf 32 (leNat (bs.take 4)))
        (BitVec.ofNat 32 (leNat ((bs.drop 4).take 4)))) m)

/-- The results of ACCX.close (R236). -/
def accxClose (d : AccDesc) (rm : BitVec 3) (w : Work) : Work :=
  (List.range d.rows.toNat).foldl (fun acc i =>
    let q := d.cols.toNat / 4
    let r := (List.range q).foldl (fun (c : Work) j =>
      let st := accxRead w.1 d i j
      if st.nan then (accPut d i j (FpFmt.nan .fp32) c.1, c.2)
      else if st.empty then (accPut d i j 0 c.1, c.2)
      else (accPut d i j (roundTo .fp32 rm c.2 ((Val.ofInt st.m).scale (st.e - 64))) c.1, lfsrAfter rm c.2)) acc
    ((List.range (d.cols.toNat - q)).foldl (fun c k => accPut d i (q + k) 0 c) r.1, r.2)) w

/-- The bytes of an ACCX.send: the rectangle's words, row-major (R234). -/
def accxBytes (d : AccDesc) (m : List Host.Cell) : List Byte :=
  (List.range d.rows.toNat).flatMap fun i => memBytes m (d.key i 0) (4 * d.cols.toNat)

end Sys2Proof.Machine
end

