-- ==== Sys2Proof/Machine/Local.lean ====
section
/-!
DEFINITION. Reading and writing the local address map: memory regions, the control page with its windows, and uncorrectable words (R46, R377, R385, R388, R389).
-/

namespace Sys2Proof.Machine

open Sys2Proof

/-- Run an operation as another residency and come back. -/
def State.as (s : State) (k : ResNo) (f : State → State) : State :=
  { f { s with curRes := k } with curRes := s.curRes }

/-- Write bytes by key; a written byte is no longer in error (R378). -/
def CoreSt.put (c : CoreSt) (key : Nat) (bs : List Byte) : CoreSt :=
  { c with mem := memPut c.mem key bs, bad := c.bad.filter fun k => k < key || key + bs.length ≤ k }

/-! ### Pending results (R102, R386, R388) -/

/-- The results that the pending-result record shows: the frozen ones in supervisor mode, else those in flight. -/
def Ctx.shown (c : Ctx) : List Flight := if c.mode then c.frozen else c.flight

/-- Replace the results that the record shows. -/
def Ctx.setShown (c : Ctx) (l : List Flight) : Ctx := if c.mode then { c with frozen := l } else { c with flight := l }

/-- The tag of a pending result (R386). -/
def Flight.tag (f : Flight) : Nat :=
  2 ^ 15 + (f.rem % 32) * 2 ^ 7 + (match f.dest with | .s r => r.toNat | .p r => 64 + r.toNat)

/-- A pending result from its tag and value; none where V is 0. -/
def flightOf (tag : Nat) (v : Word) : Option Flight :=
  if tag.testBit 15 then
    some ⟨if tag.testBit 6 then .p (BitVec.ofNat 5 tag) else .s (BitVec.ofNat 6 tag), v, tag / 2 ^ 7 % 32⟩
  else none

/-- The tag and the value at index i of a list of results. -/
def tagAt (l : List Flight) (i : Nat) : Nat := ((l.drop i).head?.map Flight.tag).getD 0
def valueAt (l : List Flight) (i : Nat) : Word := ((l.drop i).head?.map (·.val)).getD 0

/-- The list after a write of tag i: clearing V discards the result (R388). -/
def setTag (l : List Flight) (i : Nat) (tag : Nat) : List Flight :=
  if i < l.length then
    match flightOf tag (valueAt l i) with
    | some f => l.set i f
    | none => l.eraseIdx i
  else match flightOf tag 0 with
    | some f => l ++ [f]
    | none => l

/-- The list after a write of value i. -/
def setValue (l : List Flight) (i : Nat) (v : Word) : List Flight :=
  match (l.drop i).head? with
  | some f => l.set i { f with val := v }
  | none => l

/-! ### Words of the control page (R388, R389) -/

/-- Word 0 of a mailbox (R385). -/
def Mbox.word0 (m : Mbox) : Nat :=
  m.count.toNat + m.posted.toNat <<< 48 + m.excess.toNat <<< 49 + m.trips.toNat <<< 52

/-- A mailbox from its two words. -/
def mboxOf (w0 w8 : Nat) : Mbox :=
  ⟨BitVec.ofNat 48 w0, BitVec.ofNat 48 w8, w0.testBit 48, BitVec.ofNat 4 (w0 / 2 ^ 52), w0.testBit 49⟩

/-- The AD register's value (R186). -/
def AccDesc.word (d : AccDesc) : Nat :=
  d.rblk.toNat <<< 29 + d.cblk.toNat <<< 25 + d.rows.toNat <<< 16 + d.cols.toNat

/-- A descriptor from a register value. -/
def accDescOf (x : Nat) : AccDesc :=
  ⟨BitVec.ofNat 3 (x >>> 29), BitVec.ofNat 3 (x >>> 25), BitVec.ofNat 9 (x >>> 16), BitVec.ofNat 9 x⟩

/-- The TSHAPE register's value (R32). -/
def Shape.word (sh : Shape) : Nat := sh.ew.toNat <<< 28 + sh.rows.toNat <<< 16 + sh.cols.toNat

/-- A shape from a register value. -/
def shapeOf (x : Nat) : Shape := ⟨BitVec.ofNat 3 (x >>> 28), BitVec.ofNat 9 (x >>> 16), BitVec.ofNat 10 x⟩

/-- SPLIM and SPBASE (R18, R19). -/
def Res.splim (r : Res) : Word := BitVec.ofNat 64 (r.splimit.toNat <<< 12 + r.phsz.toNat <<< 24)
def Res.spbaseReg (r : Res) : Word := BitVec.ofNat 64 (r.spbase.toNat <<< 12)

/-- The view of a residency (R389); AD values of one that is not issuing stand in its save area. -/
def State.viewWord (s : State) (k : ResNo) (o : Nat) : Nat :=
  let r := s.res.get k
  match o / 8 with
  | 0 => r.accown.toNat
  | 1 => r.tileown.toNat
  | 2 => r.tenant.toNat
  | 3 => r.spbaseReg.toNat
  | 4 => r.splim.toNat
  | 5 => 0
  | n =>
    if 8 ≤ n ∧ n < 16 then
      if s.core.issuing = some k then (r.ad.get ⟨(n - 8) % 8, Nat.mod_lt _ (by decide)⟩).word
      else memNat s.core.mem (4096 * r.spbase.toNat + (r.limit - 0x4000) + 0x2C40 + 4 * (n - 8)) 4
    else 0

/-- A range-table entry's word 8 and word 0 (R388). -/
def rangeWord (e : Option RangeEnt) (hi : Bool) : Nat :=
  match e with
  | none => 0
  | some e =>
    if hi then (if e.kind = .stall then 1 else 2) + e.failed.toNat <<< 2 + e.res.val <<< 4
    else e.lo + e.hi <<< 32

/-- FWSEL and AUXSEL (R389). -/
def CoreSt.fwsel (c : CoreSt) : Nat := c.fwPage.toNat <<< 12 + c.fwEn.toNat <<< 2 + c.fwRes.toNat
def CoreSt.auxsel (c : CoreSt) : Nat := c.auxPage.toNat <<< 8 + c.auxKind.toNat <<< 4 + c.auxN.toNat

/-- The aligned 8-byte word at offset o of the control page, below the windows (R388). -/
def State.ctrlWord (s : State) (o : Nat) : Nat :=
  if o < 0x2C00 then
    let c := s.r.ctx.get ⟨o / 0x400 % 11, Nat.mod_lt _ (by decide)⟩
    let p := o % 0x400
    if p < 0x80 then (c.scratch.get ⟨p / 8 % 16, Nat.mod_lt _ (by decide)⟩).toNat
    else if p < 0xC0 then
      ((List.range 4).map fun j => tagAt c.shown ((p - 0x80) / 2 + j) * 2 ^ (16 * j)).sum
    else if 0x100 ≤ p ∧ p < 0x200 then (valueAt c.shown ((p - 0x100) / 8)).toNat
    else 0
  else if 0x3000 ≤ o ∧ o < 0x3100 then
    let m := s.r.mboxes.get ⟨(o - 0x3000) / 16 % 16, Nat.mod_lt _ (by decide)⟩
    if o % 16 = 0 then m.word0 else m.target.toNat
  else if 0x3100 ≤ o ∧ o < 0x3300 then
    rangeWord (s.core.range.get ⟨(o - 0x3100) / 16 % 32, Nat.mod_lt _ (by decide)⟩) (o % 16 != 0)
  else if o = 0x3300 then s.core.dptimeout.toNat
  else if o = 0x3308 then s.core.fwsel
  else if o = 0x3310 then s.core.auxsel
  else if 0x3400 ≤ o ∧ o < 0x3600 then
    s.viewWord ⟨(o - 0x3400) / 0x80 % 4, Nat.mod_lt _ (by decide)⟩ ((o - 0x3400) % 0x80)
  else 0

/-- RELEASE of a residency's accumulator group (R389, R37). -/
def State.releaseAcc (s : State) (k : ResNo) : State := s.modRes k fun r => { r with accOwn := false, accLive := 0 }

/-- RELEASE of a residency's tile group. -/
def State.releaseTile (s : State) (k : ResNo) : State :=
  s.modRes k fun r => { r with tileOwn := false, tlive := 0, mlive := 0 }

/-- A write to DPTIMEOUT; 0 is discarded (R389). -/
def State.setDptimeout (s : State) (v : BitVec 16) : State :=
  if v = 0 then s else s.modCore fun c => { c with dptimeout := v }

/-- Four pending-result tags written as one word, first to last (R388). -/
def setTags (l : List Flight) (i : Nat) (w : Nat) : List Flight :=
  (List.range 4).foldr (fun j l => if tagAt l (i + j) = w / 2 ^ (16 * j) % 2 ^ 16 then l else setTag l (i + j) (w / 2 ^ (16 * j) % 2 ^ 16)) l

/-- Write the aligned 8-byte word at offset o of the control page (R388, R9). -/
def State.setCtrlWord (s : State) (o : Nat) (v : Nat) : State :=
  if o < 0x2C00 then
    let k : CtxNo := ⟨o / 0x400 % 11, Nat.mod_lt _ (by decide)⟩
    let p := o % 0x400
    if p < 0x80 then s.modCtx k fun c => { c with scratch := c.scratch.set (p / 8 % 16) (BitVec.ofNat 64 v) (Nat.mod_lt _ (by decide)) }
    else if p < 0xC0 then s.modCtx k fun c => c.setShown (setTags c.shown ((p - 0x80) / 2) v)
    else if 0x100 ≤ p ∧ p < 0x200 then s.modCtx k fun c => c.setShown (setValue c.shown ((p - 0x100) / 8) (BitVec.ofNat 64 v))
    else s
  else if 0x3000 ≤ o ∧ o < 0x3100 then
    s.modR fun r => r.modMbox (BitVec.ofNat 4 ((o - 0x3000) / 16)) fun m =>
      (if o % 16 = 0 then mboxOf v m.target.toNat else { m with target := BitVec.ofNat 48 v }).trip
  else if o = 0x3300 then s.setDptimeout (BitVec.ofNat 16 v)
  else if o = 0x3308 then
    s.modCore fun c => { c with fwPage := BitVec.ofNat 9 (v >>> 12), fwEn := v.testBit 2, fwRes := BitVec.ofNat 2 v }
  else if o = 0x3310 then
    s.modCore fun c => { c with auxPage := BitVec.ofNat 2 (v >>> 8), auxKind := BitVec.ofNat 3 (v >>> 4), auxN := BitVec.ofNat 4 v }
  else if 0x3400 ≤ o ∧ o < 0x3600 ∧ (o - 0x3400) % 0x80 = 0x28 then
    let k : ResNo := ⟨(o - 0x3400) / 0x80 % 4, Nat.mod_lt _ (by decide)⟩
    let s1 := if v.testBit 0 then s.releaseAcc k else s
    if v.testBit 1 then s1.releaseTile k else s1
  else s

/-! ### Tags through the auxiliary window (R389) -/

/-- Byte o of the window of tags. -/
def CoreSt.tagByte (c : CoreSt) (o : Nat) : Byte :=
  if o < 16 then (c.fmt.get ⟨o % 16, Nat.mod_lt _ (by decide)⟩).zeroExtend 8
  else if o < 32 then (c.blg.get ⟨o % 16, Nat.mod_lt _ (by decide)⟩).zeroExtend 8
  else 0

/-- Write byte o of the window of tags. -/
def CoreSt.setTagByte (c : CoreSt) (o : Nat) (b : Byte) : CoreSt :=
  if o < 16 then { c with fmt := c.fmt.set (o % 16) (b.truncate 5) (Nat.mod_lt _ (by decide)) }
  else if o < 32 then { c with blg := c.blg.set (o % 16) (b.truncate 3) (Nat.mod_lt _ (by decide)) }
  else c

/-- The auxiliary window shows the tags. -/
def State.auxTags (s : State) (g : Region) : Bool := g == .aux && s.core.auxKind.toNat == 2

/-! ### The accesses themselves (R106) -/

/-- ReadLocal: n bytes at a checked local offset. -/
def State.readBytes (s : State) (o n : Nat) : List Byte :=
  match s.regionOf o with
  | none => List.replicate n 0
  | some (g, _, _) =>
    if g = .control then
      let p := o - 0x800000
      leBytes n (s.ctrlWord (p / 8 * 8) >>> (8 * (p % 8)))
    else if s.auxTags g then (List.range n).map fun k => s.core.tagByte (o - 0x80E000 + k)
    else memBytes s.core.mem (s.keyOf g o) n

/-- ReadLocal as a number (R4). -/
def State.readLocal (s : State) (o n : Nat) : Nat := leNat (s.readBytes o n)

/-- The tiles of which some byte among n from offset o of the local map is, as bits. -/
def tilesOf (o n : Nat) : BitVec 16 :=
  (List.range 16).foldl (fun m k => if 0x400000 + 0x8000 * k < o + n ∧ o < 0x400000 + 0x8000 * (k + 1) then m ||| (1 <<< k) else m) 0

/-- Liveness of what a store of n bytes to a tile window writes (R35). -/
def State.windowLive (s : State) (g : Region) (o n : Nat) : State :=
  if !s.r.tileOwn then s
  else match g with
    | .tile => s.modR fun r => { r with tlive := r.tlive ||| tilesOf o n }
    | .aux =>
      if s.core.auxKind.toNat = 1 then s.modR fun r => { r with mlive := r.mlive ||| (1 <<< s.core.auxN.toNat) }
      else if s.core.auxKind.toNat = 0 then s.modR fun r => { r with tlive := r.tlive ||| (1 <<< s.core.auxN.toNat) }
      else s
    | _ => s

/-- A control-page word with the bytes of an access put into it. -/
def mergeWord (old o : Nat) (bs : List Byte) : Nat :=
  let sh := 8 * (o % 8)
  let m := (2 ^ (8 * bs.length) - 1) <<< sh
  (old &&& (2 ^ 64 - 1 - m)) ||| ((leNat bs <<< sh) &&& m)

/-- A write on the control page. -/
def State.writeCtrl (s : State) (p : Nat) (bs : List Byte) : State :=
  s.setCtrlWord (p / 8 * 8) (mergeWord (s.ctrlWord (p / 8 * 8)) p bs)

/-- A write to the tag bytes of the auxiliary window. -/
def State.writeTags (s : State) (k0 : Nat) (bs : List Byte) : State :=
  s.modCore fun c => (List.range bs.length).foldl (fun c k => c.setTagByte (k0 + k) (bs.getD k 0)) c

/-- WriteLocal: bytes at a checked local offset. -/
def State.writeBytes (s : State) (o : Nat) (bs : List Byte) : State :=
  match s.regionOf o with
  | none => s
  | some (g, _, _) =>
    if bs.isEmpty then s
    else if g = .control then s.writeCtrl (o - 0x800000) bs
    else if s.auxTags g then s.writeTags (o - 0x80E000) bs
    else (s.modCore fun c => c.put (s.keyOf g o) bs).windowLive g o bs.length

/-- WriteLocal of the low n bytes of a number. -/
def State.writeLocal (s : State) (o n v : Nat) : State := s.writeBytes o (leBytes n v)

/-- An uncorrectable byte among those an access reads (R377). -/
def State.badAt (s : State) (o n : Nat) : Bool :=
  match s.regionOf o with
  | none => false
  | some (g, _, _) =>
    if g = .control ∨ s.auxTags g then false
    else let k := s.keyOf g o; s.core.bad.any fun b => k ≤ b && b < k + n

/-- The checks of a load, with MEMORY_UNCORRECTABLE where it reads a bad word (R49, R377). -/
def State.checkLoad (s : State) (a : Access) : Option TrapReq :=
  s.checkAccess a <|> (if !s.stalled a && s.badAt (ptrOff a.ptr) a.len then some (a.trap Cause.memoryUncorrectable 0) else none)

/-- The key of an aligned scratchpad word, for its full/empty bit, through the foreign window too (R15, R388). -/
def State.fullKey (s : State) (o : Nat) : Nat := s.physOf s.curRes o

/-- The word at a scratchpad offset is full (R15). -/
def State.isFull (s : State) (o : Nat) : Bool := s.core.full.contains (s.fullKey o)

/-- Set the full/empty bit of a word. -/
def State.setFull (s : State) (o : Nat) (v : Bool) : State :=
  let k := s.fullKey o
  s.modCore fun c => { c with full := if v then setAdd c.full k else c.full.filter (· != k) }

end Sys2Proof.Machine
end

