-- ==== Sys2Proof/Machine/Tasks.lean ====
section
/-!
DEFINITION. Tile tasks in the Foreman: what each reads and writes, when one is ready, its steps, its restart position and its completion (R215 to R223, R409, R410).
-/

namespace Sys2Proof.Machine

open Sys2Proof

/-! ### Inputs and outputs (R216) -/

/-- The tiles, masks and rectangles a task reads and writes. -/
structure Uses where
  tr : List Nat
  tw : List Nat
  mr : List Nat
  mw : List Nat
  ar : List AccDesc
  aw : List AccDesc
  deriving DecidableEq, Repr

/-- Uses of a tile-vector task with a tile destination. -/
def vecUses (d : BitVec 4) (src : List (BitVec 4)) (m : Nat) : Uses :=
  ⟨src.map (·.toNat), [d.toNat], if m = 0 then [] else [m], [], [], []⟩

/-- What a task reads and writes (R216). -/
def taskUses (t : Task) : Uses :=
  let g := gateOf t.instr
  match t.instr with
  | .tadd _ d a b _ _ _ => vecUses d [a, b] g
  | .tsub _ d a b _ _ _ => vecUses d [a, b] g
  | .tmul _ d a b _ _ _ => vecUses d [a, b] g
  | .tfma _ d a b _ _ _ => vecUses d [a, b, d] g
  | .tmax _ d a b _ => vecUses d [a, b] g
  | .tmin _ d a b _ => vecUses d [a, b] g
  | .tabs _ d a _ => vecUses d [a] g
  | .tneg _ d a _ => vecUses d [a] g
  | .tcvt _ d a _ _ _ => vecUses d [a] g
  | .tqnt _ d a _ _ _ => vecUses d [a] g
  | .tdq _ d a _ _ _ => vecUses d [a] g
  | .tscl _ d a b _ _ _ => vecUses d [a, b] g
  | .tand _ d a b _ => vecUses d [a, b] g
  | .tor _ d a b _ => vecUses d [a, b] g
  | .txor _ d a b _ => vecUses d [a, b] g
  | .tshl _ d a b _ => vecUses d [a, b] g
  | .tshr _ d a b _ _ => vecUses d [a, b] g
  | .tsel _ d a b m => vecUses d [a, b] m.toNat
  | .tbc _ d a _ _ => vecUses d [a] g
  | .ttr _ d a _ => vecUses d [a] g
  | .tslc _ d a b _ => vecUses d [a, b] g
  | .tidx _ d _ _ => vecUses d [] g
  | .tmov _ d a _ => vecUses d [a] g
  | .tfill _ d _ => vecUses d [] g
  | .tredSum _ d a _ _ _ => vecUses d [a] g
  | .tredMax _ d a _ _ _ => vecUses d [a] g
  | .tredMin _ d a _ _ _ => vecUses d [a] g
  | .tcas _ d a _ _ _ _ => { vecUses d [a, d] g with tw := [d.toNat, a.toNat] }
  | .tmaxi _ d a b _ _ => { vecUses d [a] g with tw := [d.toNat, b.toNat] }
  | .tmini _ d a b _ _ => { vecUses d [a] g with tw := [d.toNat, b.toNat] }
  | .tcmp _ k a b _ _ => ⟨[a.toNat, b.toNat], [], if g = 0 then [] else [g], if k.toNat = 0 then [] else [k.toNat], [], []⟩
  | .mlog _ j k l _ _ => ⟨[], [], ([k.toNat, l.toNat, g]).filter (· != 0), if j.toNat = 0 then [] else [j.toNat], [], []⟩
  | .mcnt _ d k _ => ⟨[], [d.toNat], ([k.toNat, g]).filter (· != 0), [], [], []⟩
  | .sft _ d a _ _ => vecUses d [a] 0
  | .tld _ _ n _ _ _ _ _ => ⟨[], [n.toNat], [], [], [], []⟩
  | .tst _ _ n _ _ _ _ _ => ⟨[n.toNat], [], [], [], [], []⟩
  | .accrd _ n _ _ _ => ⟨[], [n.toNat], [], [], [t.desc], []⟩
  | .accwr _ _ n => ⟨[n.toNat], [], [], [], [], [t.desc]⟩
  | .accwrAdd _ _ n => ⟨[n.toNat], [], [], [], [t.desc], [t.desc]⟩
  | .mma _ _ a b _ => ⟨[a.toNat, b.toNat], [], [], [], [t.desc], [t.desc]⟩
  | .mmaX _ _ a b _ => ⟨[a.toNat, b.toNat], [], [], [], [], [t.desc]⟩
  | .accxSend .. => ⟨[], [], [], [], [t.desc], []⟩
  | .accxOpen .. => ⟨[], [], [], [], [], [t.desc]⟩
  | .accxClose .. => ⟨[], [], [], [], [t.desc], [t.desc]⟩
  | _ => ⟨[], [], [], [], [], []⟩

/-- Two rectangles share a word (R216). -/
def AccDesc.meets (a b : AccDesc) : Bool :=
  decide (32 * a.rblk.toNat < 32 * b.rblk.toNat + b.rows.toNat) && decide (32 * b.rblk.toNat < 32 * a.rblk.toNat + a.rows.toNat) &&
  decide (32 * a.cblk.toNat < 32 * b.cblk.toNat + b.cols.toNat) && decide (32 * b.cblk.toNat < 32 * a.cblk.toNat + a.cols.toNat) &&
  !a.empty && !b.empty

/-- The accumulator word (row, column) lies in a rectangle. -/
def AccDesc.word? (d : AccDesc) (row col : Nat) : Bool :=
  decide (32 * d.rblk.toNat ≤ row) && decide (row < 32 * d.rblk.toNat + d.rows.toNat) &&
  decide (32 * d.cblk.toNat ≤ col) && decide (col < 32 * d.cblk.toNat + d.cols.toNat)

/-- The banks a rectangle spans (R96); none where it is empty. -/
def AccDesc.banks (d : AccDesc) : List Nat :=
  if d.empty then [] else (List.range 8).filter fun b => decide (d.rblk.toNat ≤ b) && decide (32 * b < 32 * d.rblk.toNat + d.rows.toNat)

/-- Two lists of registers share one. -/
def share (a b : List Nat) : Bool := a.any fun x => b.contains x

/-- Two lists of rectangles share a word. -/
def shareAcc (a b : List AccDesc) : Bool := a.any fun x => b.any fun y => x.meets y

/-- A later task must wait for an earlier one (R216). -/
def conflicts (e t : Uses) : Bool :=
  share t.tr e.tw || share t.tw (e.tr ++ e.tw) || share t.mr e.mw || share t.mw (e.mr ++ e.mw) ||
  shareAcc t.ar e.aw || shareAcc t.aw (e.ar ++ e.aw)

/-- A task names a group: accumulator, tile (R36). -/
def Uses.groups (u : Uses) : Bool × Bool :=
  (!(u.ar.isEmpty && u.aw.isEmpty), !(u.tr.isEmpty && u.tw.isEmpty && u.mr.isEmpty && u.mw.isEmpty))

/-- The accumulator bank of a landing, if it lands there. -/
def landBank (d : Landing) : Option Nat :=
  if 0x200000 ≤ d.addr ∧ d.addr < 0x240000 then some ((d.addr - 0x200000) / 0x8000) else none

/-- An arrival that may write an accumulator bank in this cycle. -/
def writesBank : Instr → Bool
  | .eventDeliver => true
  | .fieldAdvance => true
  | .porterLanding d => (landBank d).isSome
  | _ => false

/-- A task has stopped with a cause, and waits for the handler (R223, R252). -/
def Task.failed (t : Task) : Bool := t.stopped && t.parked

/-- The incomplete tasks for which an access of the present context waits: those of its residency, in its save area too (R13, R217, R221); a handler may mend what a failed one reads (R252; log entry 65). -/
def State.ownTasks (s : State) : List Task := (s.core.tasks ++ s.core.tasksAside).filter fun t => t.res == s.curRes && !(s.c.mode && t.failed)

/-- A thread access to a word of the accumulator window waits for the tasks that name it, and for a step of a field that holds it (R217, R366). -/
def State.accBusy (s : State) (o : Nat) : Bool :=
  let row := (o - 0x200000) / 1024
  let col := (o - 0x200000) % 1024 / 4
  (s.ownTasks.any fun t => ((taskUses t).ar ++ (taskUses t).aw).any fun d => d.word? row col) ||
  (decide (s.core.cycle.toNat < s.core.engineUntil.toNat) && s.core.engineRect.word? row col)

/-- An access to the tile window waits for the tasks that name the tile (R217). -/
def State.tileBusy (s : State) (o : Nat) (n : Nat) : Bool :=
  s.ownTasks.any fun t => ((taskUses t).tr ++ (taskUses t).tw).any fun k => decide (0x400000 + 0x8000 * k < o + n) && decide (o < 0x400000 + 0x8000 * (k + 1))

/-- A thread access waits for tasks (R217). -/
def State.busy (s : State) (o n : Nat) : Bool :=
  match s.regionOf o with
  | some (.acc, _, _) => (List.range ((n + 3) / 4)).any fun k => s.accBusy (o + 4 * k)
  | some (.tile, _, _) => s.tileBusy o n
  | _ => false

/-! ### Handles (R278) -/

/-- Slots filled and free, the slot size and count. -/
def Handle.filled (h : Handle) : Nat := (h.prod - h.cons).toNat
def Handle.nslot (h : Handle) : Nat := h.nslot1.toNat + 1
def Handle.spare (h : Handle) : Nat := h.nslot - h.filled
def Handle.slot (h : Handle) : Nat := 8 * h.slot8.toNat

/-- The slot addresses (R278). -/
def Handle.prodPtr (h : Handle) : Word := ptrAdd h.base ((h.prod.toNat % h.nslot * h.slot : Nat) : Int)
def Handle.consPtr (h : Handle) : Word := ptrAdd h.base ((h.cons.toNat % h.nslot * h.slot : Nat) : Int)

/-- Handle n of a residency. -/
def Res.handle (r : Res) (n : BitVec 4) : Handle := r.handles.get ⟨n.toNat, n.isLt⟩

/-- Change handle n. -/
def Res.modHandle (r : Res) (n : BitVec 4) (f : Handle → Handle) : Res :=
  { r with handles := r.handles.set n.toNat (f (r.handle n)) n.isLt }

/-- The handles a task names (R279). -/
def taskHandles : Instr → List (BitVec 4)
  | .tld _ _ _ _ _ h he _ => if he then [h] else []
  | .tst _ _ _ _ _ h he _ => if he then [h] else []
  | .ringCw _ a b => [a, b]
  | .ringCcw _ a b => [a, b]
  | _ => []

/-- Scale bytes of an N4 area (R61). -/
def scaleBytes (p : Word) (sh : Shape) : Nat := if ptrFmt p = 0x10 then sh.rows.toNat * sh.cols.toNat / 2 ^ ptrBlg p else 0

/-- The bytes of a transfer's area: to the last row's last byte, and the scale array (R182). -/
def areaLen (p : Word) (sh : Shape) (stride : BitVec 16) : Nat :=
  if sh.rows = 0 ∨ sh.cols = 0 then 0
  else (sh.rows.toNat - 1) * (if stride = 0 then sh.rowBytes else stride.toNat) + sh.rowBytes + scaleBytes p sh

/-- The area of a TLD or TST as offset and length. -/
def Task.area (t : Task) (stride : BitVec 16) : Nat × Nat := (ptrOff t.operand, areaLen t.operand (t.shapes.getD 0 ⟨0, 0, 0⟩) stride)

/-- `n` slots of a handle from the count `k` on, as offsets and lengths (R278). -/
def Handle.slots (h : Handle) (k : BitVec 32) (n : Nat) : List (Nat × Nat) :=
  (List.range n).map fun i => (ptrOff h.base + (k.toNat + i) % h.nslot * h.slot, h.slot)

/-- The handle slots that a task reads and writes: the NEED slots and the area of TLD and TST, one slot each of RING's handles (R183, R216, R271). -/
def Res.slotUses (r : Res) (t : Task) : List (Nat × Nat) × List (Nat × Nat) :=
  match t.instr with
  | .tld _ _ _ _ need h true st => (t.area st :: (r.handle h).slots (r.handle h).cons need.toNat, [])
  | .tst _ _ _ _ need h true st => ([], t.area st :: (r.handle h).slots (r.handle h).prod need.toNat)
  | .ringCw _ a b => ((r.handle a).slots (r.handle a).cons 1, (r.handle b).slots (r.handle b).prod 1)
  | .ringCcw _ a b => ((r.handle a).slots (r.handle a).cons 1, (r.handle b).slots (r.handle b).prod 1)
  | _ => ([], [])

/-- Two lists of ranges share a byte. -/
def shareBytes (a b : List (Nat × Nat)) : Bool :=
  a.any fun x => b.any fun y => decide (x.1 < y.1 + y.2) && decide (y.1 < x.1 + x.2)

/-- A later task must wait for an earlier one because of a handle slot (R216). -/
def slotConflict (e t : List (Nat × Nat) × List (Nat × Nat)) : Bool := shareBytes t.1 e.2 || shareBytes t.2 (e.1 ++ e.2)

/-- The handle counts of a task suffice (R183, R271, R410). -/
def Res.handlesOk (r : Res) (t : Task) : Bool :=
  match t.instr with
  | .tld _ _ _ _ need h he _ => !he || decide (need.toNat ≤ (r.handle h).filled)
  | .tst _ _ _ _ need h he _ => !he || decide (need.toNat ≤ (r.handle h).spare)
  | .ringCw _ a b => decide (1 ≤ (r.handle a).filled) && decide (1 ≤ (r.handle b).spare)
  | .ringCcw _ a b => decide (1 ≤ (r.handle a).filled) && decide (1 ≤ (r.handle b).spare)
  | .accxClose _ k _ => match r.reductions.find? fun x => x.ad == k && x.closing with
    | some x => x.bound && decide (x.expect ≤ x.got)
    | none => false
  | _ => true

/-! ### Steps and positions (R220, R227) -/

/-- Destination rows of a vector task (R220). -/
def destRows (t : Task) : Nat :=
  match t.instr with
  | .tcmp .. => 256
  | .mlog .. => 256
  | .tcas _ _ a _ _ _ _ => (t.opnd 1 a).sh.rows.toNat
  | .tmaxi _ d _ b _ _ => max (t.opnd 0 d).sh.rows.toNat (t.opnd 2 b).sh.rows.toNat
  | .tmini _ d _ b _ _ => max (t.opnd 0 d).sh.rows.toNat (t.opnd 2 b).sh.rows.toNat
  | _ => (t.shapes.getD 0 ⟨0, 0, 0⟩).rows.toNat

/-- The number of steps of a task whose position is POS alone. -/
def stepCount (t : Task) : Nat :=
  let sh := t.shapes.getD 0 ⟨0, 0, 0⟩
  match engineOf t.instr with
  | 0 =>
    if sh.cols.toNat = 0 then 0
    else match t.instr with
      | .accwr .. => if t.desc.cols = 0 then 0 else min sh.rows.toNat t.desc.rows.toNat
      | .accwrAdd .. => if t.desc.cols = 0 then 0 else min sh.rows.toNat t.desc.rows.toNat
      | _ => sh.rows.toNat
  | 2 => 1
  | 5 => 1
  | _ => (destRows t + 7) / 8

/-- The tiles and variant of a matrix task. -/
def mmaTiles : Instr → Option (BitVec 4 × BitVec 4 × Bool)
  | .mma _ _ a b _ => some (a, b, false)
  | .mmaX _ _ a b _ => some (a, b, true)
  | _ => none

/-- Blocks of a matrix task: i-blocks, j-blocks, k-blocks; none where it writes nothing. -/
def mmaBlocks (t : Task) (a b : BitVec 4) (x : Bool) : Nat × Nat × Nat :=
  let d := mmaDims t a b x
  let kl := kBlock (t.opnd 0 a).fmt
  if d.1 = 0 ∨ d.2.1 = 0 ∨ d.2.2 = 0 then (0, 0, 0)
  else ((d.1 + 31) / 32, (d.2.1 + 31) / 32, if x then 1 else (d.2.2 + kl - 1) / kl)

/-- The first step at or after the task's position, in step order; none where no step is left (R222). -/
def normPos (t : Task) : Option Task :=
  match mmaTiles t.instr with
  | some (a, b, x) =>
    let n := mmaBlocks t a b x
    let (p, j, k) :=
      if n.2.1 ≤ t.jb then (t.pos + 1, 0, 0)
      else if n.2.2 ≤ t.kb then (if t.jb + 1 < n.2.1 then (t.pos, t.jb + 1, 0) else (t.pos + 1, 0, 0))
      else (t.pos, t.jb, t.kb)
    if p < n.1 then some { t with pos := p, jb := j, kb := k } else none
  | none => if t.pos < stepCount t then some t else none

/-- The position after the present step. -/
def nextPos (t : Task) : Option Task :=
  match mmaTiles t.instr with
  | some _ => normPos { t with kb := t.kb + 1 }
  | none => normPos { t with pos := t.pos + 1 }

/-- Cycles of one matrix step (R227). -/
def mmaCycles (t : Task) (a b : BitVec 4) (x : Bool) (kb : Nat) : Nat :=
  let d := mmaDims t a b x
  let f := (t.opnd 0 a).fmt
  let kl := kBlock f
  (min d.2.2 ((kb + 1) * kl) - kb * kl + kRate f - 1) / kRate f

/-- Cycles of the steps from the present position on (R415). -/
def mmaTotal (t : Task) (a b : BitVec 4) (x : Bool) : Nat :=
  let n := mmaBlocks t a b x
  let per (k0 : Nat) : Nat := (((List.range n.2.2).filter (k0 ≤ ·)).map (mmaCycles t a b x)).sum
  per t.kb + (n.1 * n.2.1 - (t.pos * n.2.1 + t.jb) - 1) * per 0

/-- A task is heavy: a matrix task of more than 256 cycles (R227, R415). -/
def isHeavy (t : Task) : Bool :=
  match mmaTiles t.instr with
  | some (a, b, x) => decide (256 < mmaTotal t a b x)
  | none => false

/-- Destination elements a lane group processes in a cycle, by width (R240). -/
def laneRate (w : Nat) : Nat := if w = 64 then 32 else if w = 32 then 64 else if w = 16 then 128 else 256

/-- Cycles of the present step (R227, R271, R412, log entry 3). -/
def stepCycles (t : Task) : Nat :=
  match t.instr with
  | .mma _ _ a b _ => mmaCycles t a b false t.kb
  | .mmaX _ _ a b _ => mmaCycles t a b true t.kb
  | .tcmp _ _ a _ _ _ => (4096 + laneRate (tagWidth (t.opnd 0 a).fmt) - 1) / laneRate (tagWidth (t.opnd 0 a).fmt)
  | .mlog .. => 16
  | _ =>
    if engineOf t.instr = 3 then
      let sh := t.shapes.getD 0 ⟨0, 0, 0⟩
      max 1 ((min 8 (destRows t - 8 * t.pos) * sh.cols.toNat + laneRate sh.width - 1) / laneRate sh.width)
    else 1

/-! ### What a step does -/

/-- The pointer of row i of a transfer's area. -/
def rowPtr (t : Task) (stride : BitVec 16) (i : Nat) : Nat :=
  let sh := t.shapes.getD 0 ⟨0, 0, 0⟩
  ptrOff t.operand + i * (if stride.toNat = 0 then sh.rowBytes else stride.toNat)

/-- The offset of the scale array of an N4 transfer (R182). -/
def scalePtr (t : Task) : Nat :=
  let sh := t.shapes.getD 0 ⟨0, 0, 0⟩
  ptrOff t.operand + sh.rows.toNat * sh.rowBytes

/-- Scale bytes of one row. -/
def scalePer (t : Task) : Nat :=
  let sh := t.shapes.getD 0 ⟨0, 0, 0⟩
  sh.cols.toNat / blockLen (t.blgs.getD 0 0)

/-- A transfer through an N4 pointer moves scales too. -/
def Task.scaled (t : Task) : Bool := ptrFmt t.operand == 0x10

/-- One row of TLD (R183). -/
def tldRow (t : Task) (n : BitVec 4) (stride : BitVec 16) (s : State) : State :=
  let sh := t.shapes.getD 0 ⟨0, 0, 0⟩
  let row := s.readBytes (rowPtr t stride t.pos) sh.rowBytes
  let s1 := s.modCore fun c => c.put (tileKey n.toNat (t.pos * sh.rowBytes)) row
  if t.scaled then
    let sc := s.readBytes (scalePtr t + t.pos * scalePer t) (scalePer t)
    s1.modCore fun c => c.put (scaleKey n.toNat (t.pos * scalePer t)) sc
  else s1

/-- One row of TST (R183). -/
def tstRow (t : Task) (n : BitVec 4) (stride : BitVec 16) (s : State) : State :=
  let sh := t.shapes.getD 0 ⟨0, 0, 0⟩
  let s1 := s.writeBytes (rowPtr t stride t.pos) (memBytes s.core.mem (tileKey n.toNat (t.pos * sh.rowBytes)) sh.rowBytes)
  if t.scaled then
    s1.writeBytes (scalePtr t + t.pos * scalePer t) (memBytes s.core.mem (scaleKey n.toNat (t.pos * scalePer t)) (scalePer t))
  else s1

/-- What a step computes over the memory and the LFSR alone. -/
def taskWork (t : Task) (w : Work) : Work :=
  match t.instr with
  | .tmov _ d a _ =>
    let w1 := vecStep t d t.pos w
    if (t.opnd 1 a).fmt = fmtN4 then (movScales (t.opnd 1 a) (t.opnd 0 d) t.pos w1.1, w1.2) else w1
  | .tqnt _ d a ty _ r => qntStep t d a ty r t.pos w
  | .tcmp _ k a b _ c => cmpStep t k a b c t.pos w
  | .mlog _ j k l _ tt => mlogStep t j k l tt t.pos w
  | .tcas _ d a e _ o c => casStep t d a e o c t.pos w
  | .tmaxi _ d a b _ c => idxStep t d a b true c t.pos w
  | .tmini _ d a b _ c => idxStep t d a b false c t.pos w
  | .mma _ _ a b r => mmaStep t a b r w
  | .mmaX _ _ a b _ => mmaXStep t a b w
  | .accrd _ n _ v r => accrdStep t n v r t.pos w
  | .accwr _ _ n => accwrStep t n false t.pos w
  | .accwrAdd _ _ n => accwrStep t n true t.pos w
  | .accxOpen .. => (accxInit t.desc w.1, w.2)
  | .accxClose _ _ r => accxClose t.desc r w
  | i => match (taskUses t).tw with
    | d :: _ => if engineOf i = 3 ∨ engineOf i = 4 then vecStep t (BitVec.ofNat 4 d) t.pos w else w
    | [] => w

/-- The LIVE bits of what a task writes (R34, R35). -/
def markLive (t : Task) (k : Option (BitVec 3)) (r : Res) : Res :=
  let u := taskUses t
  { r with tlive := u.tw.foldl (fun b n => b ||| (1 <<< n)) r.tlive,
           mlive := u.mw.foldl (fun b n => b ||| (1 <<< n)) r.mlive,
           accLive := match k with | some d => if u.aw.all AccDesc.empty then r.accLive else r.accLive ||| (1 <<< d.toNat) | none => r.accLive }

/-- The descriptor number of a task. -/
def taskDesc : Instr → Option (BitVec 3)
  | .accrd _ _ d _ _ => some d
  | .accwr _ d _ => some d
  | .accwrAdd _ d _ => some d
  | .mma _ k _ _ _ => some k
  | .mmaX _ k _ _ _ => some k
  | .accxSend _ _ k _ => some k
  | .accxOpen _ _ k _ => some k
  | .accxClose _ k _ => some k
  | _ => none

/-- The rounding mode of a task's instruction; RNE where it has none. -/
def taskMode : Instr → BitVec 3
  | .tadd _ _ _ _ _ _ r => r
  | .tsub _ _ _ _ _ _ r => r
  | .tmul _ _ _ _ _ _ r => r
  | .tfma _ _ _ _ _ _ r => r
  | .tcvt _ _ _ _ _ r => r
  | .tqnt _ _ _ _ _ r => r
  | .tdq _ _ _ _ _ r => r
  | .tscl _ _ _ _ _ _ r => r
  | .tredSum _ _ _ _ _ r => r
  | .tredMax _ _ _ _ _ r => r
  | .tredMin _ _ _ _ _ r => r
  | .mma _ _ _ _ r => r
  | .mmaX _ _ _ _ r => r
  | .accrd _ _ _ _ r => r
  | .accxClose _ _ r => r
  | .sft _ _ _ r _ => r
  | _ => 0

/-- The LFSR after every step that a task has left, on fuel. -/
def lfsrThrough : Nat → Task → Work → BitVec 32
  | 0, _, w => w.2
  | n + 1, t, w => match nextPos t with
    | some u => lfsrThrough n u (taskWork t w)
    | none => (taskWork t w).2

/-- No more than this many steps are left. -/
def stepBound (t : Task) : Nat :=
  match mmaTiles t.instr with
  | some (a, b, x) => let n := mmaBlocks t a b x; n.1 * n.2.1 * n.2.2
  | none => stepCount t

/-- Change the task of a number. -/
def State.modTask (s : State) (id : Nat) (f : Task → Task) : State :=
  s.modCore fun c => { c with tasks := c.tasks.map fun t => if t.id = id then f t else t }

/-- As a task is dispatched it takes all the LFSR values of the steps it has left, so that tasks take values in dispatch order; its inputs change no more (R68, R216). -/
def State.takeLfsr (s : State) (t : Task) : State :=
  if (taskMode t.instr).toNat = 4 then
    let l := (s.res.get t.res).lfsr
    let l1 := match normPos t with
      | some u => lfsrThrough (stepBound t) u (s.core.mem, l)
      | none => l
    (s.modTask t.id fun x => { x with lfsr := l, lfsrEnd := l1 }).modRes t.res fun r => { r with lfsr := l1 }
  else s

/-- A task that stops gives back the LFSR values that it took for the steps it has left, where no later result has taken any (R68; log entry 31). -/
def State.giveLfsr (s : State) (t : Task) : State :=
  if t.dispatched ∧ (taskMode t.instr).toNat = 4 ∧ (s.res.get t.res).lfsr = t.lfsrEnd then s.modRes t.res fun r => { r with lfsr := t.lfsr } else s

/-- The results of a step are written together (R220); its LFSR values are the task's own (R68). -/
def State.stepWrites (s : State) (t : Task) : State :=
  let s1 := match t.instr with
    | .tld _ _ n _ _ _ _ st => s.as t.res (tldRow t n st)
    | .tst _ _ n _ _ _ _ st => s.as t.res (tstRow t n st)
    | _ =>
      let w := taskWork t (s.core.mem, t.lfsr)
      (s.modCore fun c => { c with mem := w.1 }).modTask t.id fun x => { x with lfsr := w.2 }
  s1.modRes t.res (markLive t (taskDesc t.instr))

/-! ### What a step reads (R252, R377) -/

/-- Bytes of elements (i, j) to (i, j + n − 1) of a tile operand that lie inside its shape, as key and length. -/
def Opnd.span (o : Opnd) (i j n : Nat) : Nat × Nat :=
  let hi := min (j + n) o.sh.cols.toNat
  if o.sh.rows.toNat ≤ i ∨ hi ≤ j then (0, 0)
  else
    let lo := j * o.sh.width / 8
    (tileKey o.n (i * o.sh.rowBytes + lo), (hi * o.sh.width + 7) / 8 - lo)

/-- Such bytes of `k` rows from row i. -/
def Opnd.spans (o : Opnd) (i k j n : Nat) : List (Nat × Nat) := (List.range k).map fun x => o.span (i + x) j n

/-- Scale bytes of `k` rows from row i, for an N4 operand. -/
def Opnd.scaleSpans (o : Opnd) (i k : Nat) : List (Nat × Nat) :=
  let per := (o.sh.cols.toNat + blockLen o.blg - 1) / blockLen o.blg
  if o.fmt = fmtN4 then [(scaleKey o.n (i * per), (min (i + k) o.sh.rows.toNat - i) * per)] else []

/-- Eight rows of a mask from row i; m0 holds no bits. -/
def maskSpan (m i : Nat) : List (Nat × Nat) := if m = 0 then [] else [(maskKey m (64 * i), 512)]

/-- Columns j to j + n − 1 of row i of a rectangle. -/
def AccDesc.span (d : AccDesc) (i j n : Nat) : Nat × Nat :=
  if d.rows.toNat ≤ i then (0, 0) else (d.key i j, 4 * (min (j + n) d.cols.toNat - j))

/-- Every word of a rectangle. -/
def AccDesc.all (d : AccDesc) : List (Nat × Nat) := (List.range d.rows.toNat).map fun i => d.span i 0 d.cols.toNat

/-- The tile, mask and accumulator bytes that the present step of a task reads (R220, R252). -/
def stepReads (t : Task) (m : List Host.Cell) : List (Nat × Nat) :=
  let b := 8 * t.pos
  let d := t.opnd 0 0
  let rows (k : Nat) (a : BitVec 4) : List (Nat × Nat) :=
    (t.opnd k a).spans b (min 8 (d.sh.rows.toNat - b)) 0 d.sh.cols.toNat ++ (t.opnd k a).scaleSpans b 8
  let line (k : Nat) (a : BitVec 4) (col : Bool) : List (Nat × Nat) :=
    let o := t.opnd k a
    if col then (if t.pos = 0 then o.spans 0 o.sh.rows.toNat 0 o.sh.cols.toNat else []) else o.spans b 8 0 o.sh.cols.toNat
  let gate := maskSpan (gateOf t.instr) b
  match t.instr with
  | .tadd _ _ a x _ _ _ => rows 1 a ++ rows 2 x ++ gate
  | .tsub _ _ a x _ _ _ => rows 1 a ++ rows 2 x ++ gate
  | .tmul _ _ a x _ _ _ => rows 1 a ++ rows 2 x ++ gate
  | .tfma _ e a x _ _ _ => rows 0 e ++ rows 1 a ++ rows 2 x ++ gate
  | .tmax _ _ a x _ => rows 1 a ++ rows 2 x ++ gate
  | .tmin _ _ a x _ => rows 1 a ++ rows 2 x ++ gate
  | .tabs _ _ a _ => rows 1 a ++ gate
  | .tneg _ _ a _ => rows 1 a ++ gate
  | .tcvt _ _ a _ _ _ => rows 1 a ++ gate
  | .tqnt _ _ a _ _ _ => rows 1 a ++ gate
  | .tdq _ _ a _ _ _ => rows 1 a ++ gate
  | .tscl _ _ a x _ v _ => rows 1 a ++ (if v then [(t.opnd 2 x).span 0 0 d.sh.cols.toNat] else (t.opnd 2 x).spans b (min 8 (d.sh.rows.toNat - b)) 0 1) ++ gate
  | .tand _ _ a x _ => rows 1 a ++ rows 2 x ++ gate
  | .tor _ _ a x _ => rows 1 a ++ rows 2 x ++ gate
  | .txor _ _ a x _ => rows 1 a ++ rows 2 x ++ gate
  | .tshl _ _ a x _ => rows 1 a ++ rows 2 x ++ gate
  | .tshr _ _ a x _ _ => rows 1 a ++ rows 2 x ++ gate
  | .tsel _ _ a x k => rows 1 a ++ rows 2 x ++ maskSpan k.toNat b
  | .tmov _ _ a _ => rows 1 a ++ gate
  | .tbc _ _ a _ c => (if c then (t.opnd 1 a).spans b (min 8 (d.sh.rows.toNat - b)) 0 1 else [(t.opnd 1 a).span 0 0 d.sh.cols.toNat]) ++ gate
  | .ttr _ _ a _ => (t.opnd 1 a).spans 0 d.sh.cols.toNat b (min 8 (d.sh.rows.toNat - b)) ++ gate
  | .tslc _ _ a x _ =>
    let r0 := (t.opnd 2 x).get m 0 0
    let c0 := (t.opnd 2 x).get m 0 1
    (t.opnd 2 x).span 0 0 2 :: ((t.opnd 1 a).spans (r0 + b) (min 8 (d.sh.rows.toNat - b)) c0 d.sh.cols.toNat ++ gate)
  | .tidx .. => gate
  | .tfill .. => gate
  | .tredSum _ _ a c _ _ => line 1 a c ++ gate
  | .tredMax _ _ a c _ _ => line 1 a c ++ gate
  | .tredMin _ _ a c _ _ => line 1 a c ++ gate
  | .tmaxi _ _ a _ _ c => line 1 a c ++ gate
  | .tmini _ _ a _ _ c => line 1 a c ++ gate
  | .tcas _ e a x _ _ c =>
    let pairRows (o : Opnd) : List Nat := ((List.range 8).map (b + ·)).filter fun i => i / 2 ^ x.toNat % 2 == 0 && decide (i + 2 ^ x.toNat < o.sh.rows.toNat)
    let both (k : Nat) (n : BitVec 4) : List (Nat × Nat) :=
      if c then (pairRows (t.opnd k n)).flatMap fun i => [(t.opnd k n).span i 0 512, (t.opnd k n).span (i + 2 ^ x.toNat) 0 512] else (t.opnd k n).spans b 8 0 512
    both 1 a ++ (if e = a then [] else both 0 e) ++ gate
  | .tcmp _ _ a x _ _ => (t.opnd 0 a).spans b 8 0 512 ++ (t.opnd 1 x).spans b (min 8 (d.sh.rows.toNat - b)) 0 d.sh.cols.toNat ++ gate
  | .mlog _ _ k l _ _ => maskSpan k.toNat b ++ maskSpan l.toNat b ++ gate
  | .mcnt _ _ k _ => maskSpan k.toNat b ++ gate
  | .sft _ _ a _ _ => rows 1 a
  | .tst _ _ n _ _ _ _ _ => (t.opnd 0 n).span t.pos 0 512 :: (t.opnd 0 n).scaleSpans t.pos 1
  | .accrd .. => [t.desc.span t.pos 0 d.sh.cols.toNat]
  | .accwr _ _ n => [(t.opnd 0 n).span t.pos 0 t.desc.cols.toNat]
  | .accwrAdd _ _ n => [(t.opnd 0 n).span t.pos 0 t.desc.cols.toNat, t.desc.span t.pos 0 d.sh.cols.toNat]
  | .mma _ _ a x _ =>
    let oa := t.opnd 0 a
    let ox := t.opnd 1 x
    let kl := kBlock oa.fmt
    let q := mmaDims t a x false
    let own := min 32 (q.1 - 32 * t.pos)
    let out := min 32 (q.2.1 - 32 * t.jb)
    oa.spans (32 * t.pos) own (t.kb * kl) kl ++ oa.scaleSpans (32 * t.pos) own ++
    (if oa.fmt = fmtN4 then ox.spans (32 * t.jb) out (t.kb * kl) kl ++ ox.scaleSpans (32 * t.jb) out else ox.spans (t.kb * kl) kl (32 * t.jb) out) ++
    (List.range own).map fun i => t.desc.span (32 * t.pos + i) (32 * t.jb) out
  | .accxSend .. => t.desc.all
  | .accxClose .. => t.desc.all
  | .mmaX _ _ a x _ =>
    let q := mmaDims t a x true
    (t.opnd 0 a).spans (32 * t.pos) (min 32 (q.1 - 32 * t.pos)) 0 512 ++ (t.opnd 0 a).scaleSpans (32 * t.pos) 32 ++
    (t.opnd 1 x).spans (32 * t.jb) (min 32 (q.2.1 - 32 * t.jb)) 0 512 ++ (t.opnd 1 x).scaleSpans (32 * t.jb) 32
  | _ => []

/-! ### Waking engines, completing and stopping tasks -/

/-- The engines look again for a task that is ready (R410). -/
def State.wake (s : State) : State :=
  if (s.core.tasks.any fun t => !t.dispatched) && !s.env.agenda.contains .foremanDispatch then s.post .foremanDispatch else s

/-- The channel a transfer task took its ID from. -/
def taskChan : Instr → Option (BitVec 3)
  | .tld _ _ _ c _ _ _ _ => some c
  | .tst _ _ _ c _ _ _ _ => some c
  | _ => none

/-- The notice of a finished matrix command: 1 to the sender's mailbox (R231, R276). -/
def State.sendNotice (s : State) (order : Nat) (dst : Rank) (mb : BitVec 4) : State := s.emitFor order (.credit dst mb)

/-- A task completes: its entry and its range entry go, its transfer ID is done, a remote sender is told, and waiting tasks look again. -/
def State.finishTask (s : State) (t : Task) : State :=
  let s1 := ((s.modCore fun c => { c with tasks := c.tasks.filter fun x => x.id != t.id }).rangeRemove t.range).freeLane t
  let s2 := match taskChan t.instr with
    | some c => s1.modRes t.res fun r => r.modChan c (·.complete t.tid)
    | none => s1
  let s3 := match t.notice with
    | some (dst, mb) => s2.sendNotice (s2.res.get t.res).order dst mb
    | none => s2
  (s3.leaveDone t.heavy).wake

/-- A task stops at its current step (R221): it frees its engine, its lane group and its leave; one that has raised a cause is parked until the handler returns (R223). -/
def State.stopTask (s : State) (t : Task) (fault : Bool) : State :=
  ((((s.giveLfsr t).modTask t.id fun x => { x with dispatched := false, stopped := true, parked := fault, heavy := false, lane := none }).freeLane t).leaveDone t.heavy).wake

/-- Insert a task by its place in the order of dispatch. -/
def insertTask (t : Task) : List Task → List Task
  | [] => [t]
  | u :: us => if t.seq < u.seq then t :: u :: us else u :: insertTask t us

/-- The dispatched tasks of a list stop, the last first (R68, R221). -/
def stopTasks : List Task → State → State
  | [], s => s
  | t :: ts, s => stopTasks ts (if t.dispatched then s.stopTask t t.stopped else s)

/-- Every dispatched task that meets a condition stops at its step, the last dispatched first (R68, R221). -/
def State.stopAll (s : State) (p : Task → Bool) : State := stopTasks ((s.core.tasks.filter p).foldr insertTask []).reverse s

/-! ### TRESTART (R222) -/

/-- The oldest-issued task of a list. -/
def oldestTask : List Task → Option Task
  | [] => none
  | t :: ts => match oldestTask ts with
    | some u => some (if u.id < t.id then u else t)
    | none => some t

/-- The stopped task that a context's TRESTART shows: the oldest-issued one (R222). -/
def State.stoppedOf (s : State) (k : CtxNo) : Option Task :=
  oldestTask (s.core.tasks.filter fun t => t.res == s.curRes && t.stopped &&
    (t.ctx == k || (k == 0 && (s.r.ctx.get t.ctx).status == .free)))

/-- A restart position in the layout of TRESTART [31:0]. -/
def Task.posWord (t : Task) : Nat := (t.kb % 256) <<< 24 + (t.jb % 256) <<< 16 + t.pos % 512

/-- The value of a context's TRESTART. -/
def State.trestart (s : State) (k : CtxNo) : Nat :=
  match s.stoppedOf k with
  | none => 0
  | some t => 2 ^ 63 + t.pair.toNat <<< 48 + t.posWord

/-- A write to a context's TRESTART (R222). -/
def State.setTrestart (s : State) (k : CtxNo) (v : Word) : State :=
  match s.stoppedOf k with
  | none => s
  | some t =>
    if v.getLsbD 63 then
      let u := { t with pos := field v 0 9, jb := field v 16 8, kb := field v 24 8 }
      (match normPos u with
       | some u => s.modTask t.id fun _ => u
       | none => s.finishTask t)
    else s.finishTask t

end Sys2Proof.Machine
end

