-- ==== Sys2Proof/Machine/Csr.lean ====
section
/-!
DEFINITION. The control registers: their values, which writes are refused, what a write changes, and the CSR instructions (R206 to R208).
-/

namespace Sys2Proof.Machine

open Sys2Proof

/-- An index into a table of n registers, from a register number. -/
def idx (n x : Nat) (h : 0 < n := by decide) : Fin n := ⟨x % n, Nat.mod_lt _ h⟩

/-- The present residency has a heavy operation that awaits leave (R417). -/
def State.awaitsLeave (s : State) : Bool :=
  (!s.core.leaveHeld && match s.core.leaveAsked with | some a => decide (a.toNat + 4 ≤ s.core.cycle.toNat) | none => false) &&
  ((s.core.tasks.any fun t => t.res == s.curRes && t.dispatched && t.parked && engineOf t.instr == 1) ||
   (s.core.reqs.any fun q => q.res == s.curRes && s.core.leaveCopies.contains q.id) ||
   (s.core.exch.asked == some s.curRes && decide (256 < s.r.phaseLen)))

/-- CSTAT of the present context (R207). -/
def State.cstat (s : State) : Nat :=
  s.c.mode.toNat + s.core.exch.mode.toNat <<< 1 + s.c.looping.toNat <<< 2 + s.core.gang.isSome.toNat <<< 3 + s.awaitsLeave.toNat <<< 4

/-- Register n of extent entry k (R189): 0 EXTA, 1 EXTB, 2 EXTC. -/
def Extent.reg (e : Extent) (n : Nat) : Word := if n = 0 then e.a else if n = 1 then e.b else e.c

/-- The bits of an extent register that are not reserved (R189). -/
def extentMask (n : Nat) : Word := if n = 0 then 0x0000FFFFFFFFF03F else 0x0000FFFFFFFFF000

/-- An extent entry after a write of one register. -/
def Extent.set (e : Extent) (n : Nat) (v : Word) : Extent :=
  let w := v &&& extentMask n
  if n = 0 then { e with a := w } else if n = 1 then { e with b := w } else { e with c := w }

/-- The register numbers of R206. -/
def csrKnown (n : Nat) : Bool :=
  decide (n ≤ 3) || n == 8 || n == 9 || n == 0xA || (decide (0x10 ≤ n) && decide (n < 0x38)) ||
  (decide (0x40 ≤ n) && decide (n ≤ 0x50)) || (decide (0x100 ≤ n) && decide (n ≤ 0x104)) || n == 0x108 ||
  (decide (0x110 ≤ n) && decide (n ≤ 0x115)) || n == 0x118 || n == 0x119 ||
  (decide (0x180 ≤ n) && decide (n < 0x1B0))

/-- A number of the supervisor's range (R206). -/
def csrSuper (n : Nat) : Bool := decide (0x100 ≤ n) && decide (n < 0x200)

/-- The value of a control register, as the present context reads it (R206). -/
def State.csrRead (s : State) (n : Nat) : Word :=
  let r := s.r
  let c := s.c
  if n = 0 then BitVec.ofNat 64 s.cstat
  else if n = 1 then r.rank.zeroExtend 64
  else if n = 2 then s.core.cycle
  else if n = 3 then BitVec.ofNat 64 s.curCtx.val
  else if n = 8 then r.lfsr.zeroExtend 64
  else if n = 9 then r.vshare.zeroExtend 64
  else if n = 0xA then BitVec.ofNat 64 (s.trestart s.curCtx)
  else if 0x10 ≤ n ∧ n < 0x20 then BitVec.ofNat 64 (r.tshape.get (idx 16 n)).word
  else if 0x20 ≤ n ∧ n < 0x28 then BitVec.ofNat 64 (r.ad.get (idx 8 n)).word
  else if 0x28 ≤ n ∧ n < 0x30 then (r.chans.get (idx 8 n)).done.zeroExtend 64
  else if 0x30 ≤ n ∧ n < 0x38 then (r.chans.get (idx 8 n)).next.zeroExtend 64
  else if 0x40 ≤ n ∧ n < 0x50 then r.dt.get (idx 16 n)
  else if n = 0x50 then BitVec.ofNat 64 (r.errq.length + r.errOvf.toNat <<< 7)
  else if n = 0x100 then c.trap.cause.zeroExtend 64
  else if n = 0x101 then c.trap.pc.zeroExtend 64
  else if n = 0x102 then c.trap.frm.zeroExtend 64
  else if n = 0x103 then c.trap.info0
  else if n = 0x104 then c.trap.info1
  else if n = 0x108 then r.handler.zeroExtend 64
  else if n = 0x110 then r.spbaseReg
  else if n = 0x111 then r.splim
  else if n = 0x112 then r.accown
  else if n = 0x113 then r.tileown
  else if n = 0x114 then r.tenant.zeroExtend 64
  else if n = 0x115 then BitVec.ofNat 64 (r.codeFirst.toNat + r.codeLast.toNat <<< 16)
  else if 0x180 ≤ n ∧ n < 0x1B0 then (r.extentsPending.get (idx 16 n)).reg ((n - 0x180) / 16)
  else 0

/-- The value a write forms: CSRW 0, CSRS 1, CSRC 2 (R206). -/
def csrNew (kind : BitVec 2) (old v : Word) : Word :=
  if kind = 0 then v else if kind = 1 then old ||| v else old &&& ~~~v

/-- Eager messages are held in the pigeonholes (R322). -/
def Res.eagerHeld (r : Res) : Bool := r.held.any (fun h => !h.units.isEmpty) || r.matched.any (fun l => !l.units.isEmpty)

/-- A shape that R33 refuses. -/
def Shape.refused (sh : Shape) : Bool :=
  decide (4 < sh.ew.toNat) || decide (256 < sh.rows.toNat) || decide (256 < sh.rowBytes) || decide (32768 < sh.rows.toNat * sh.rowBytes)

/-- A partition of so many 4 KiB units with so many pigeonhole units that R20 refuses. -/
def partRefused (pages : Nat) (ph : BitVec 5) : Bool :=
  decide (ph.toNat = 0) || decide (16 < ph.toNat) || decide (512 < pages) || decide (4096 * pages < 0x4000 + 0x10000 * ph.toNat + 0x1000)

/-- The write of a register is refused (R20, R33, R37, R186, R206, R322). -/
def State.csrRefused (s : State) (n : Nat) (new : Word) : Bool :=
  let x := new.toNat
  if n = 9 then x % 16 = 0
  else if 0x10 ≤ n ∧ n < 0x20 then
    (shapeOf x).refused
  else if 0x20 ≤ n ∧ n < 0x28 then
    let d := accDescOf x
    decide (256 < 32 * d.rblk.toNat + d.rows.toNat) || decide (256 < 32 * d.cblk.toNat + d.cols.toNat)
  else if n = 0x110 then
    (s.r.eagerHeld && (BitVec.ofNat 9 (x >>> 12) != s.r.spbase))
  else if n = 0x111 then
    let ph : BitVec 5 := BitVec.ofNat 5 (x >>> 24)
    let lim : BitVec 10 := BitVec.ofNat 10 (x >>> 12)
    partRefused lim.toNat ph || (s.r.eagerHeld && (ph != s.r.phsz || lim != s.r.splimit))
  else if n = 0x112 then x.testBit 8 && s.accOwner.isSome && s.accOwner != some s.curRes
  else if n = 0x113 then x.testBit 24 && s.tileOwner.isSome && s.tileOwner != some s.curRes
  else false

/-- What a write changes: each field by its access code (R8, R9, R206). With OWN 0 the LIVE bits become 0 even where OWN was 0 before and the value written has them set (R8, R37; DESIGN CHOICE, log entry 71). -/
def State.csrPut (s : State) (n : Nat) (new : Word) : State :=
  let x := new.toNat
  if n = 8 then s.modR fun r => { r with lfsr := if new.truncate 32 = (0 : BitVec 32) then 1 else new.truncate 32 }
  else if n = 9 then s.modR fun r => { r with vshare := new.truncate 4 }
  else if n = 0xA then s.setTrestart s.curCtx new
  else if 0x10 ≤ n ∧ n < 0x20 then s.modR fun r => { r with tshape := r.tshape.set (n % 16) (shapeOf x) (Nat.mod_lt _ (by decide)) }
  else if 0x20 ≤ n ∧ n < 0x28 then s.modR fun r => { r with ad := r.ad.set (n % 8) (accDescOf x) (Nat.mod_lt _ (by decide)) }
  else if 0x40 ≤ n ∧ n < 0x50 then
    s.modR fun r => { r with dt := r.dt.set (n % 16) (new &&& 0xFFFFFFFFFFFCFFFF) (Nat.mod_lt _ (by decide)) }
  else if n = 0x100 then s.modC fun c => { c with trap := { c.trap with cause := new.truncate 7 } }
  else if n = 0x101 then s.modC fun c => { c with trap := { c.trap with pc := new.truncate 14 } }
  else if n = 0x102 then s.modC fun c => { c with trap := { c.trap with frm := new.truncate 14 } }
  else if n = 0x103 then s.modC fun c => { c with trap := { c.trap with info0 := new } }
  else if n = 0x104 then s.modC fun c => { c with trap := { c.trap with info1 := new } }
  else if n = 0x108 then s.modR fun r => { r with handler := new.truncate 14 }
  else if n = 0x110 then s.modR fun r => { r with spbase := BitVec.ofNat 9 (x >>> 12) }
  else if n = 0x111 then s.modR fun r => { r with splimit := BitVec.ofNat 10 (x >>> 12), phsz := BitVec.ofNat 5 (x >>> 24) }
  else if n = 0x112 then
    s.modR fun r => { r with accOwn := x.testBit 8, accLive := if x.testBit 8 then BitVec.ofNat 8 x else 0 }
  else if n = 0x113 then
    s.modR fun r => { r with tileOwn := x.testBit 24, tlive := if x.testBit 24 then BitVec.ofNat 16 x else 0,
                             mlive := if x.testBit 24 then BitVec.ofNat 8 (x >>> 16) &&& 0xFE else 0 }
  else if n = 0x114 then s.modR fun r => { r with tenant := new.truncate 6 }
  else if n = 0x115 then s.modR fun r => { r with codeFirst := BitVec.ofNat 14 x, codeLast := BitVec.ofNat 14 (x >>> 16) }
  else if 0x180 ≤ n ∧ n < 0x1B0 then
    s.modR fun r => { r with extentsPending := r.extentsPending.set (n % 16) ((r.extentsPending.get (idx 16 n)).set ((n - 0x180) / 16) new) (Nat.mod_lt _ (by decide)) }
  else s

/-- The checks every CSR instruction makes (R206): privilege first, then the number. -/
def csrCheck (h : CHdr) (a : BitVec 5) (n : Nat) (slot : Nat) (s : State) : Option TrapReq :=
  let ra := s.c.reg h.s a
  if csrSuper n && !s.c.mode then some (issueTrap Cause.privilege slot ra)
  else if !csrKnown n then some (issueTrap Cause.illegalOperand slot ra)
  else none

/-- The value that a write instruction forms for register n. -/
def csrValue (h : CHdr) (kind : BitVec 2) (a : BitVec 5) (n : Nat) (s : State) : Word :=
  csrNew kind (s.csrRead n) (s.c.reg h.s a)

/-- A write of a control register: W1C and WO fields are written by CSRW alone (R206). -/
def opCsrWrite (h : CHdr) (kind : BitVec 2) (a : BitVec 5) (n : Nat) : Op :=
  { opK h with
    check := fun slot s => csrCheck h a n slot s <|>
      (if s.csrRefused n (csrValue h kind a n s) then some (issueTrap Cause.illegalOperand slot (s.c.reg h.s a)) else none)
    touch := fun s => (n == 0x112 && (csrValue h kind a n s).getLsbD 8, n == 0x113 && (csrValue h kind a n s).getLsbD 24)
    late := fun s =>
      if n = 0x50 then (if kind = 0 ∧ (s.c.reg h.s a).getLsbD 7 then s.modR fun r => { r with errOvf := false } else s)
      else if n = 0x118 then (if kind = 0 then s.modR fun r => { r with capkey := r.capkey.extractLsb' 64 64 ++ s.c.reg h.s a } else s)
      else if n = 0x119 then (if kind = 0 then s.modR fun r => { r with capkey := s.c.reg h.s a ++ r.capkey.extractLsb' 0 64 } else s)
      else s.csrPut n (csrValue h kind a n s) }

/-- CSRR (R206). -/
def opCsrr (h : CHdr) (a : BitVec 5) (reg : BitVec 12) : Op :=
  { opK h with
    dests := [.s (regOf h.s a)]
    check := csrCheck h a reg.toNat
    eff := fun s => s.result (.s (regOf h.s a)) (s.csrRead reg.toNat) latLoad }

def execCsrr (h : CHdr) (a : BitVec 5) (reg : BitVec 12) (s : State) : Result := runOne (opCsrr h a reg) s

def opCsrw (h : CHdr) (a : BitVec 5) (reg : BitVec 12) : Op := opCsrWrite h 0 a reg.toNat

/-- CSRW (R206). -/
def execCsrw (h : CHdr) (a : BitVec 5) (reg : BitVec 12) (s : State) : Result := runOne (opCsrw h a reg) s

def opCsrs (h : CHdr) (a : BitVec 5) (reg : BitVec 12) : Op := opCsrWrite h 1 a reg.toNat

/-- CSRS (R206). -/
def execCsrs (h : CHdr) (a : BitVec 5) (reg : BitVec 12) (s : State) : Result := runOne (opCsrs h a reg) s

def opCsrc (h : CHdr) (a : BitVec 5) (reg : BitVec 12) : Op := opCsrWrite h 2 a reg.toNat

/-- CSRC (R206). -/
def execCsrc (h : CHdr) (a : BitVec 5) (reg : BitVec 12) (s : State) : Result := runOne (opCsrc h a reg) s

/-! ### Registers whose write has a row of its own -/

def opSplimWrite (h : CHdr) (op : BitVec 2) (a : BitVec 5) : Op := opCsrWrite h op a 0x111

/-- A write to SPLIM (R20, R322). -/
def execSplimWrite (h : CHdr) (op : BitVec 2) (a : BitVec 5) (s : State) : Result := runOne (opSplimWrite h op a) s

def opSpbaseWrite (h : CHdr) (op : BitVec 2) (a : BitVec 5) : Op := opCsrWrite h op a 0x110

/-- A write to SPBASE (R18, R322). -/
def execSpbaseWrite (h : CHdr) (op : BitVec 2) (a : BitVec 5) (s : State) : Result := runOne (opSpbaseWrite h op a) s

def opTshapeWrite (h : CHdr) (op : BitVec 2) (a : BitVec 5) (k : BitVec 4) : Op := opCsrWrite h op a (0x10 + k.toNat)

/-- A write to TSHAPE.n (R33). -/
def execTshapeWrite (h : CHdr) (op : BitVec 2) (a : BitVec 5) (k : BitVec 4) (s : State) : Result := runOne (opTshapeWrite h op a k) s

def opAdWrite (h : CHdr) (op : BitVec 2) (a : BitVec 5) (k : BitVec 3) : Op := opCsrWrite h op a (0x20 + k.toNat)

/-- A write to ADn (R186). -/
def execAdWrite (h : CHdr) (op : BitVec 2) (a : BitVec 5) (k : BitVec 3) (s : State) : Result := runOne (opAdWrite h op a k) s

def opAccownWrite (h : CHdr) (op : BitVec 2) (a : BitVec 5) : Op := opCsrWrite h op a 0x112

/-- A write to ACCOWN (R37, R390). -/
def execAccownWrite (h : CHdr) (op : BitVec 2) (a : BitVec 5) (s : State) : Result := runOne (opAccownWrite h op a) s

def opTileownWrite (h : CHdr) (op : BitVec 2) (a : BitVec 5) : Op := opCsrWrite h op a 0x113

/-- A write to TILEOWN (R37, R390). -/
def execTileownWrite (h : CHdr) (op : BitVec 2) (a : BitVec 5) (s : State) : Result := runOne (opTileownWrite h op a) s

def opTrestartWrite (h : CHdr) (op : BitVec 2) (a : BitVec 5) : Op := opCsrWrite h op a 0xA

/-- A write to TRESTART (R222). -/
def execTrestartWrite (h : CHdr) (op : BitVec 2) (a : BitVec 5) (s : State) : Result := runOne (opTrestartWrite h op a) s

def opExtentWrite (h : CHdr) (op : BitVec 2) (a : BitVec 5) (t : BitVec 2) (k : BitVec 4) : Op :=
  opCsrWrite h op a (0x180 + 16 * t.toNat + k.toNat)

/-- A write to an extent register, pending until FENCE.ext (R190). -/
def execExtentWrite (h : CHdr) (op : BitVec 2) (a : BitVec 5) (t : BitVec 2) (k : BitVec 4) (s : State) : Result :=
  runOne (opExtentWrite h op a t k) s

def opErrqsWrite (h : CHdr) (op : BitVec 2) (a : BitVec 5) : Op := opCsrWrite h op a 0x50

/-- A write to ERRQS (R208). -/
def execErrqsWrite (h : CHdr) (op : BitVec 2) (a : BitVec 5) (s : State) : Result := runOne (opErrqsWrite h op a) s

def opSrlfsrWrite (h : CHdr) (op : BitVec 2) (a : BitVec 5) : Op := opCsrWrite h op a 8

/-- A write to SRLFSR (R67). -/
def execSrlfsrWrite (h : CHdr) (op : BitVec 2) (a : BitVec 5) (s : State) : Result := runOne (opSrlfsrWrite h op a) s

def opVshareWrite (h : CHdr) (op : BitVec 2) (a : BitVec 5) : Op := opCsrWrite h op a 9

/-- A write to VSHARE (R206). -/
def execVshareWrite (h : CHdr) (op : BitVec 2) (a : BitVec 5) (s : State) : Result := runOne (opVshareWrite h op a) s

def opCapkeyWrite (h : CHdr) (op : BitVec 2) (a : BitVec 5) (hi : Bool) : Op := opCsrWrite h op a (0x118 + hi.toNat)

/-- A write to CAPKEY (R206). -/
def execCapkeyWrite (h : CHdr) (op : BitVec 2) (a : BitVec 5) (hi : Bool) (s : State) : Result := runOne (opCapkeyWrite h op a hi) s

/-! ### Control-page writes with a row of their own (R388, R389) -/

/-- A supervisor store of eight bytes to an offset of the control page, in slot M0. -/
def opCtrl (o : Nat) (v : State → Nat) : Op :=
  let a (slot : Nat) : Access := ⟨BitVec.ofNat 64 (0x800000 + o), 8, true, false, slot, 8, false⟩
  { Op.base .m0 false 0 with
    check := fun slot s => s.checkAccess (a slot)
    eff := fun s => s.writeLocal (0x800000 + o) 8 (v s) }

def opReleaseAcc (k : ResNo) : Op := opCtrl (0x3400 + 0x80 * k.val + 0x28) fun _ => 1

/-- A write of bit 0 of a view's RELEASE (R389). -/
def execReleaseAcc (k : ResNo) (s : State) : Result := runOne (opReleaseAcc k) s

def opReleaseTile (k : ResNo) : Op := opCtrl (0x3400 + 0x80 * k.val + 0x28) fun _ => 2

/-- A write of bit 1 of a view's RELEASE (R389). -/
def execReleaseTile (k : ResNo) (s : State) : Result := runOne (opReleaseTile k) s

def opDptimeoutWrite (v : Word) : Op := opCtrl 0x3300 fun _ => v.toNat

/-- A write of DPTIMEOUT (R389). -/
def execDptimeoutWrite (v : Word) (s : State) : Result := runOne (opDptimeoutWrite v) s

/-- Offset of the word that a pending-result write names: four tags, or one value, of context k (R388). -/
def pendingOff (k : CtxNo) (value : Bool) (i : BitVec 5) : Nat :=
  0x400 * k.val + (if value then 0x100 + 8 * i.toNat else 0x80 + 8 * (i.toNat / 4))

def opPendingResultWrite (k : CtxNo) (value : Bool) (i : BitVec 5) (v : Word) : Op := opCtrl (pendingOff k value i) fun _ => v.toNat

/-- A write of the pending-result tags or of a value of a context (R388). -/
def execPendingResultWrite (k : CtxNo) (value : Bool) (i : BitVec 5) (v : Word) (s : State) : Result :=
  runOne (opPendingResultWrite k value i v) s

end Sys2Proof.Machine
end

