-- ==== Sys2Proof/Machine/Fetch.lean ====
section
/-!
DEFINITION. Fetching and decoding a bundle: the pairs up to E, the slot and the destinations of each word, and the decode faults (R84 to R86, R94, R95, R104, R105).
-/

namespace Sys2Proof.Machine

open Sys2Proof

/-- The slot of a word that is not empty, from its class, side and VT bits (R87, R89, R94). -/
def slotOf : Code → Slot
  | .a w => if w.getLsbD 30 then .v else if w.getLsbD 31 then .a1 else .a0
  | .c w | .l w _ =>
    if w.getLsbD 29 then (if w.getLsbD 28 then .k else .n)
    else if w.getLsbD 28 then (if w.getLsbD 16 then .m1 else .m0)
    else .k

/-- The two empty words (R86). -/
def isEmpty (w : BitVec 32) : Code → Bool
  | .a _ => w == 0
  | .c _ => w.extractLsb' 22 8 == 0
  | .l _ _ => false

/-- The scalar and predicate destinations a decoded instruction names (R95). -/
def destsOf : Instr → List Dest
  | .call .. | .calli .. => [.s 31]
  | .waitLimit h a .. => [.s (regOf h.s a)]
  | .ld h a .. | .ldExt h a .. | .ldfe h a .. | .ldfeExt h a .. | .ldff h a .. | .ldffExt h a .. => [.s (regOf h.s a)]
  | .ldp h a .. | .ldpExt h a .. => [.s (regOf h.s a), .s (regOf h.s (a + 1))]
  | .lat h a .. => [.s (regOf h.s a)]
  | .xatr h a _ _ _ _ w _ => if w = 2 then [.s (regOf h.s a), .s (regOf h.s (a + 1))] else [.s (regOf h.s a)]
  | .cancel h _ b => [.s (regOf h.s b)]
  | .evctlTime h a _ | .evctlLate h a _ | .evctlQlen h a _ | .evctlFires h a _ => [.s (regOf h.s a)]
  | .sfs h a .. | .csrr h a _ | .errq h a _ | .limm h a .. | .limmHi h a _ => [.s (regOf h.s a)]
  | .add h d .. | .sub h d .. | .addi h d .. | .mul h d .. | .mulh h d .. | .mulhu h d .. => [.s (regOf h.s d)]
  | .div h d .. | .divu h d .. | .rem h d .. | .remu h d .. => [.s (regOf h.s d)]
  | .and h d .. | .or h d .. | .xor h d .. | .andn h d .. => [.s (regOf h.s d)]
  | .shl h d .. | .shr h d .. | .sar h d .. | .rol h d .. | .shli h d .. | .shri h d .. | .sari h d .. => [.s (regOf h.s d)]
  | .clz h d .. | .ctz h d .. | .popc h d .. | .bfx h d .. | .bfi h d .. => [.s (regOf h.s d)]
  | .min h d .. | .max h d .. | .minu h d .. | .maxu h d .. | .sel h d .. | .mov h d .. => [.s (regOf h.s d)]
  | .cmp h p .. | .cmpi h p .. | .plog h p .. | .fcmp h p .. => [.p (predOf h.s p)]
  | .pmovGet h d => [.s (regOf h.s d)]
  | .pmovPut h _ => predDests h.s
  | .xmov h d _ => [.s (regOf h.s d)]
  | .xmovP h d _ => [.p (predOf h.s d)]
  | .addp h d .. | .addpE h d .. | .pfmt h d .. | .pfld h d .. | .gdistCore h d .. | .gdistOff h d .. => [.s (regOf h.s d)]
  | .fadd h d .. | .fsub h d .. | .fmul h d .. | .ffma h d .. | .fmin h d .. | .fmax h d .. => [.s (regOf h.s d)]
  | .fcvt h d .. | .fclass h d .. => [.s (regOf h.s d)]
  | _ => []

/-- A word of a fetched bundle: the instruction, and where it stands. -/
structure FWord where
  instr : Instr
  slot : Slot
  pair : Nat
  word : Nat

/-- TRAP.INFO0 and INFO1 of a decode fault (R105). -/
def decodeTrap (cause : BitVec 7) (rule pair word : Nat) (w : BitVec 64) : TrapReq :=
  trapWith cause (BitVec.ofNat 64 (pair + word <<< 2 + rule <<< 4)) w

/-- The cause of a word the decoder rejects. -/
def causeOf : DecodeError → BitVec 7
  | .illegalOpcode => Cause.illegalOpcode
  | .illegalExtension => Cause.illegalExtension

/-- The two halves of a pair: the C-word stands at the lower address (R83). -/
def cHalf (p : BitVec 64) : BitVec 32 := p.extractLsb' 0 32
def aHalf (p : BitVec 64) : BitVec 32 := p.extractLsb' 32 32

/-- The pair lies in the code range of the present residency (R26, R84). -/
def Res.inRange (r : Res) (p : Pair) : Bool := decide (r.codeFirst.toNat ≤ p.toNat) && decide (p.toNat ≤ r.codeLast.toNat)

/-- A pair of the store with an uncorrectable error (R377). -/
def State.badPair (s : State) (p : Pair) : Bool :=
  s.core.bad.any fun k => decide (0x300000 + 8 * p.toNat ≤ k) && decide (k < 0x300000 + 8 * p.toNat + 8)

/-- Read pairs from `p` up to E: at most `n` of them, and whether E was found (R84). -/
def State.fetchPairs (s : State) : Nat → Pair → Except TrapReq (List (BitVec 64) × Bool)
  | 0, _ => .ok ([], false)
  | n + 1, p =>
    if !s.r.inRange p then
      .error (trapWith Cause.fetchFault (p.zeroExtend 64) (BitVec.ofNat 64 (s.r.codeFirst.toNat + s.r.codeLast.toNat <<< 16)))
    else if s.badPair p then .error (trapWith Cause.fetchUncorrectable (p.zeroExtend 64) 0)
    else
      let w := s.pairAt p
      if w.getLsbD 30 then .ok ([w], true)
      else match s.fetchPairs n (p + 1) with
        | .error q => .error q
        | .ok r => .ok (w :: r.1, r.2)

/-- The code of word 1 of a pair. -/
def firstCode (w : BitVec 64) : Code := if w.getLsbD 31 then .l (cHalf w) (aHalf w) else .c (cHalf w)

/-- The word of its pair that a fault of checks 2 to 4 lies in: EXT, word 2, where the C-word decodes with an EXT of zeros (R104, R105; DEDUCED, log entry 22). -/
def faultWord (c : Code) (word : Nat) : Nat :=
  match c with
  | .l w _ => if (decode (.l w 0#32)).isOk then 1 else word
  | _ => word

/-- Decode one word, an empty one to nothing (checks 2 to 6 of R104). -/
def decodeWord (c : Code) (w : BitVec 32) (pair word : Nat) (whole : BitVec 64) : Except TrapReq (List FWord) :=
  match decode c with
  | .error e => .error (decodeTrap (causeOf e) 0 pair (faultWord c word) whole)
  | .ok i => .ok (if isEmpty w c then [] else [⟨i, slotOf c, pair, word⟩])

/-- Decode pair after pair, the C-word before word 2; EXT is no word of its own (R85, R104). -/
def decodePairs : Nat → List (BitVec 64) → Except TrapReq (List FWord)
  | _, [] => .ok []
  | k, w :: t =>
    match decodeWord (firstCode w) (cHalf w) k 0 w with
    | .error q => .error q
    | .ok a =>
      match (if w.getLsbD 31 then .ok [] else decodeWord (.a (aHalf w)) (aHalf w) k 1 w) with
      | .error q => .error q
      | .ok b =>
        match decodePairs (k + 1) t with
        | .error q => .error q
        | .ok c => .ok (a ++ b ++ c)

/-- How many words of a bundle a slot takes (R94). -/
def Slot.limit : Slot → Nat
  | .v => 2
  | _ => 1

/-- The first word that takes its slot past its limit (check 7 of R104). -/
def slotOver : List Slot → List FWord → Option FWord
  | _, [] => none
  | used, f :: t => if f.slot.limit ≤ used.count f.slot then some f else slotOver (f.slot :: used) t

/-- The first word that names a destination already named (check 8 of R104, R95). -/
def destTwice : List Dest → List FWord → Option FWord
  | _, [] => none
  | used, f :: t =>
    let ds := (destsOf f.instr).filter fun d => !d.void
    if ds.any used.contains then some f else destTwice (ds ++ used) t

/-- Checks 7 and 8 over the whole bundle. -/
def bundleFault (ws : List (BitVec 64)) (fs : List FWord) : Option TrapReq :=
  match slotOver [] fs with
  | some f => some (decodeTrap Cause.illegalBundle 2 f.pair f.word (ws.getD f.pair 0))
  | none =>
    match destTwice [] fs with
    | some f => some (decodeTrap Cause.illegalBundle 3 f.pair f.word (ws.getD f.pair 0))
    | none => none

/-- Decode the pairs of a bundle, checks 2 to 8 (R104). -/
def decodeBundle (ws : List (BitVec 64)) : Except TrapReq (List FWord × Nat) :=
  match decodePairs 0 ws with
  | .error q => .error q
  | .ok fs =>
    match bundleFault ws fs with
    | some q => .error q
    | none => .ok (fs, ws.length)

/-- Fetch and decode the bundle at `p`: its words and its pairs (R84, R104).
For check 1 R105 gives INFO1 alone; INFO0 names the C-word of the fourth pair (DESIGN CHOICE, log entry 26). -/
def State.fetchBundle (s : State) (p : Pair) : Except TrapReq (List FWord × Nat) :=
  match s.fetchPairs 4 p with
  | .error q => .error q
  | .ok (ws, found) =>
    if !found then .error (decodeTrap Cause.illegalBundle 1 3 0 (ws.getD 3 0))
    else decodeBundle ws

/-- The member set of a width for a logical core: die × 144 + row × 12 + col (R23, R50). -/
def gangSet (w : BitVec 4) (me : Nat) : List Nat :=
  let d := me / 144 * 144
  let row := me % 144 / 12
  let col := me % 12
  if w = 1 then [d + 12 * row + col / 2 * 2, d + 12 * row + col / 2 * 2 + 1]
  else
    let r0 := d + 12 * (row / 2 * 2)
    let cols := if w = 2 then (List.range 2).map (col / 2 * 2 + ·) else (List.range 4).map (col / 4 * 4 + ·)
    cols.map (r0 + ·) ++ cols.map (r0 + 12 + ·)

/-- This core leads its gang: it is the member with the lowest logical number (R23). -/
def State.leads (s : State) : Bool :=
  match s.core.gang, s.core.issuing with
  | some w, some k => (gangSet w (Rank.core (s.res.get k).rank)).all fun m => decide (Rank.core (s.res.get k).rank ≤ m)
  | _, _ => false

/-- The present context takes its bundles from the leader of its gang (R24). -/
def State.follows (s : State) : Bool :=
  s.core.gang.isSome && s.core.issuing == some s.curRes && s.curCtx == 0 && !s.leads

/-- A gang waits: a member stalls, or the leader's bundle has not come (R24). -/
def State.gangStalled (s : State) : Bool :=
  s.core.gang.isSome && (!s.core.gangIn.stalled.isEmpty || (!s.leads && s.core.gangIn.fetched.isNone))

/-- The present context's next bundle: its own fetch, or the leader's (R24, R84). -/
def State.nextBundle (s : State) : Except TrapReq (List FWord × Nat) :=
  if s.follows then decodeBundle (s.core.gangIn.fetched.getD []) else s.fetchBundle s.c.pc

/-- The numbers of the slots of a bundle's words, in scan order: the second tile-vector word takes V1 (R369). -/
def slotNums : Nat → List FWord → List (FWord × Nat)
  | _, [] => []
  | v, f :: t => (f, f.slot.num v) :: slotNums (if f.slot = .v then v + 1 else v) t

/-- The first pair after `n` bundles from `p`, or the first of them that faults (R159). -/
def State.skipBundles (s : State) : Nat → Pair → Pair
  | 0, p => p
  | n + 1, p => match s.fetchBundle p with
    | .error _ => p
    | .ok r => s.skipBundles n (p + BitVec.ofNat 14 r.2)

end Sys2Proof.Machine
end

