-- ==== Sys2Proof/Machine/Control.lean ====
section
/-!
DEFINITION. Scalar control: transfers, loops, waits, helper contexts, gangs, YIELD and HALT (R153 to R172).
-/

namespace Sys2Proof.Machine

open Sys2Proof

/-- The ILLEGAL_OPERAND check shared by every instruction: raised where the condition holds. -/
def illegalIf (bad : Bool) (slot : Nat) (ra : Word) : Option TrapReq :=
  if bad then some (issueTrap Cause.illegalOperand slot ra) else none

/-- The context is not context 0 (R153). -/
def State.notControl (s : State) : Bool := s.curCtx != 0

/-! ### Transfers (R154 to R157) -/

/-- NOP (R86). -/
def opNop (h : CHdr) : Op := opK h

def execNop (h : CHdr) (s : State) : Result := runOne (opNop h) s

/-- The target of a C.off transfer (R88). -/
def State.offTarget (s : State) (o : BitVec 16) : Pair := s.c.pc + o.truncate 14

/-- The target of an indirect transfer (R155). -/
def State.regTarget (s : State) (h : CHdr) (a : BitVec 5) (i : BitVec 6) : Pair :=
  (s.c.reg h.s a + i.signExtend 64).truncate 14

/-- A taken transfer: not inside an active loop (R161). -/
def opJump (h : CHdr) (ra : State → Word) (t : State → Pair) : Op :=
  { opK h with
    check := fun slot s => illegalIf s.c.looping slot (ra s)
    next := fun s => some (t s) }

/-- The link write of CALL and CALLI (R155). -/
def withLink (o : Op) : Op :=
  { o with dests := [.s 31], eff := fun s => s.result (.s 31) (s.pairAfter.zeroExtend 64) latAlu }

def opBr (h : CHdr) (o : BitVec 16) : Op := opJump h (fun _ => 0) fun s => s.offTarget o

/-- BR (R155). -/
def execBr (h : CHdr) (o : BitVec 16) (s : State) : Result := runOne (opBr h o) s

def opBri (h : CHdr) (a : BitVec 5) (i : BitVec 6) : Op := opJump h (fun s => s.c.reg h.s a) fun s => s.regTarget h a i

/-- BRI (R155). -/
def execBri (h : CHdr) (a : BitVec 5) (i : BitVec 6) (s : State) : Result := runOne (opBri h a i) s

def opCall (h : CHdr) (o : BitVec 16) : Op := withLink (opJump h (fun _ => 0) fun s => s.offTarget o)

/-- CALL (R155). -/
def execCall (h : CHdr) (o : BitVec 16) (s : State) : Result := runOne (opCall h o) s

def opCalli (h : CHdr) (a : BitVec 5) (i : BitVec 6) : Op :=
  withLink (opJump h (fun s => s.c.reg h.s a) fun s => s.regTarget h a i)

/-- CALLI (R155). -/
def execCalli (h : CHdr) (a : BitVec 5) (i : BitVec 6) (s : State) : Result := runOne (opCalli h a i) s

def opRet (h : CHdr) (a : BitVec 5) : Op := opJump h (fun s => s.c.reg h.s a) fun s => s.regTarget h a 0

/-- RET (R155). -/
def execRet (h : CHdr) (a : BitVec 5) (s : State) : Result := runOne (opRet h a) s

/-- The access of JTAB to its table entry (R156). -/
def jtabAccess (h : CHdr) (a b : BitVec 5) (slot : Nat) (s : State) : Access :=
  ⟨ptrAdd (s.c.reg h.s a) (2 * (s.c.reg h.s b).toNat : Nat), 2, false, false, slot, 2, false⟩

/-- The index lies in the table (R156). -/
def jtabIn (h : CHdr) (b : BitVec 5) (len : BitVec 16) (s : State) : Bool := decide ((s.c.reg h.s b).toNat < len.toNat)

def opJtab (h : CHdr) (a b : BitVec 5) (len : BitVec 16) : Op :=
  { opK h with
    check := fun slot s =>
      if jtabIn h b len s then illegalIf s.c.looping slot (s.c.reg h.s a) <|> s.checkLoad (jtabAccess h a b slot s) else none
    touch := fun s => if jtabIn h b len s then s.touches (s.accessRegion (jtabAccess h a b 0 s)) else (false, false)
    wait := fun s => jtabIn h b len s &&
      (s.stalled (jtabAccess h a b 0 s) || s.busy (ptrOff (jtabAccess h a b 0 s).ptr) 2)
    next := fun s =>
      if jtabIn h b len s then
        some (s.c.pc + (BitVec.ofNat 16 (s.readLocal (ptrOff (jtabAccess h a b 0 s).ptr) 2)).truncate 14)
      else none }

/-- JTAB (R156). -/
def execJtab (h : CHdr) (a b : BitVec 5) (len : BitVec 16) (s : State) : Result := runOne (opJtab h a b len) s

/-! ### Loops (R159 to R162) -/

/-- A nest of the residency (R201). -/
def Res.nest (r : Res) (k : BitVec 3) : Nest := r.nests.get ⟨k.toNat, k.isLt⟩

/-- Some bound of the nest is 0, so the body runs zero times. -/
def Nest.zero (n : Nest) : Bool := (List.finRange 6).any fun d => n.bound.get d == 0

/-- The base of each stream: the register's value at issue (R159). -/
def Ctx.streamBase (c : Ctx) (n : Nest) : Vector Word 4 :=
  n.stream.map fun w => if streamOn w then c.readS (streamReg w) else 0

def opLoop (h : CHdr) (k : BitVec 3) (cnt : BitVec 5) : Op :=
  { opK h with
    check := fun slot s => illegalIf s.c.looping slot 0
    eff := fun s =>
      let n := s.r.nest k
      s.modC fun c => { c with loop := ⟨n, Vector.replicate 6 0, c.streamBase n, s.pairAfter, cnt, !n.zero, 0⟩ }
    next := fun s => if s.c.looping then none else some (s.skipBundles (cnt.toNat + 1) s.pairAfter) }

/-- LOOP (R159). -/
def execLoop (h : CHdr) (k : BitVec 3) (cnt : BitVec 5) (s : State) : Result := runOne (opLoop h k cnt) s

def opLoopx (h : CHdr) (o : BitVec 16) : Op :=
  { opK h with
    check := fun slot s => illegalIf (!s.c.looping) slot 0
    eff := fun s => s.modC fun c => { c with loop := { c.loop with active := false, done := 0 } }
    next := fun s => some (s.offTarget o) }

/-- LOOPX (R162). -/
def execLoopx (h : CHdr) (o : BitVec 16) (s : State) : Result := runOne (opLoopx h o) s

/-! ### Waits (R163 to R166) -/

/-- Cycles since the present bundle was first held (R163, R164). -/
def State.heldFor (s : State) : Nat :=
  match s.c.heldAt with
  | none => 0
  | some t => (s.core.cycle - t).toNat

/-- The access by which WAIT.full and WAIT.empty are checked (R163). -/
def waitAccess (h : CHdr) (a : BitVec 5) (slot : Nat) (s : State) : Access :=
  ⟨s.c.reg h.s a, 8, false, false, slot, 8, false⟩

/-- The time of event field f. -/
def Res.evField (r : Res) (f : BitVec 3) : EvField := r.fields.get ⟨f.toNat, f.isLt⟩

/-- The condition of a WAIT kind, and its issue checks (R163). -/
structure WaitKind where
  check : Nat → State → Option TrapReq
  stall : State → Bool
  cond : State → Bool

/-- WAIT.full (true) and WAIT.empty (false). -/
def waitWord (h : CHdr) (a : BitVec 5) (v : Bool) : WaitKind where
  check := fun slot s => s.checkAccess (waitAccess h a slot s) <|>
    illegalIf (s.accessRegion (waitAccess h a slot s) != .user) slot (s.c.reg h.s a)
  stall := fun s => s.stalled (waitAccess h a 0 s)
  cond := fun s => s.isFull (ptrOff (s.c.reg h.s a)) == v

/-- A kind without checks of its own. -/
def waitPlain (cond : State → Bool) : WaitKind := ⟨fun _ _ => none, fun _ => false, cond⟩

/-- WAIT.ftime. -/
def waitTime (h : CHdr) (a : BitVec 5) (f : BitVec 3) : WaitKind where
  check := fun slot s => illegalIf (!(s.r.evField f).bound) slot (s.c.reg h.s a)
  stall := fun _ => false
  cond := fun s => decide ((s.c.reg h.s a).toNat % 2 ^ 32 ≤ (s.r.evField f).t.toNat)

/-- WAIT.errq, WAIT.cyc, WAIT.helpers. -/
def waitErr : WaitKind := waitPlain fun s => !s.r.errq.isEmpty
def waitCycles (h : CHdr) (a : BitVec 5) : WaitKind := waitPlain fun s => decide ((s.c.reg h.s a).toNat ≤ s.heldFor)
def waitFree (h : CHdr) (a : BitVec 5) : WaitKind := waitPlain fun s =>
  (List.finRange 11).all fun k => k == 0 || !(s.c.reg h.s a).getLsbD k.val || (s.r.ctx.get k).status == .free

/-- The kind that imm7 selects. -/
def waitKind (h : CHdr) (a : BitVec 5) (t : BitVec 4) (k : BitVec 7) : WaitKind :=
  match k.toNat with
  | 0 => waitWord h a true
  | 1 => waitWord h a false
  | 2 => waitTime h a (t.truncate 3)
  | 3 => waitErr
  | 4 => waitCycles h a
  | _ => waitFree h a

/-- The owner of an open packet may not wait (R262). -/
def ownerBar (ra : State → Word) (slot : Nat) (s : State) : Option TrapReq := illegalIf s.ownsPacket slot (ra s)

/-- An instruction that holds its bundle until a condition holds (R163). -/
def opWait (h : CHdr) (ra : State → Word) (k : WaitKind) : Op :=
  { opK h with
    check := fun slot s => ownerBar ra slot s <|> k.check slot s
    wait := fun s => k.stall s || !k.cond s }

def opWaitFull (h : CHdr) (a : BitVec 5) : Op := opWait h (fun s => s.c.reg h.s a) (waitWord h a true)

/-- WAIT.full (R163). -/
def execWaitFull (h : CHdr) (a : BitVec 5) (s : State) : Result := runOne (opWaitFull h a) s

def opWaitEmpty (h : CHdr) (a : BitVec 5) : Op := opWait h (fun s => s.c.reg h.s a) (waitWord h a false)

/-- WAIT.empty (R163). -/
def execWaitEmpty (h : CHdr) (a : BitVec 5) (s : State) : Result := runOne (opWaitEmpty h a) s

def opWaitFtime (h : CHdr) (a : BitVec 5) (f : BitVec 3) : Op := opWait h (fun s => s.c.reg h.s a) (waitTime h a f)

/-- WAIT.ftime (R163). -/
def execWaitFtime (h : CHdr) (a : BitVec 5) (f : BitVec 3) (s : State) : Result := runOne (opWaitFtime h a f) s

def opWaitErrq (h : CHdr) : Op := opWait h (fun s => s.c.reg h.s 0) waitErr

/-- WAIT.errq (R163). -/
def execWaitErrq (h : CHdr) (s : State) : Result := runOne (opWaitErrq h) s

def opWaitCyc (h : CHdr) (a : BitVec 5) : Op := opWait h (fun s => s.c.reg h.s a) (waitCycles h a)

/-- WAIT.cyc (R163). -/
def execWaitCyc (h : CHdr) (a : BitVec 5) (s : State) : Result := runOne (opWaitCyc h a) s

def opWaitHelpers (h : CHdr) (a : BitVec 5) : Op := opWait h (fun s => s.c.reg h.s a) (waitFree h a)

/-- WAIT.helpers (R163). -/
def execWaitHelpers (h : CHdr) (a : BitVec 5) (s : State) : Result := runOne (opWaitHelpers h a) s

/-- The limit of a WAIT has lapsed (R164). -/
def State.lapsed (s : State) (lim : BitVec 32) : Bool := decide (lim.toNat ≤ s.heldFor)

def opWaitLimit (h : CHdr) (a : BitVec 5) (t : BitVec 4) (k : BitVec 7) (lim : BitVec 32) : Op :=
  let w := waitKind h a t k
  { opWait h (fun s => s.c.reg h.s a) w with
    dests := [.s (regOf h.s a)]
    wait := fun s => !s.lapsed lim && (w.stall s || !w.cond s)
    eff := fun s => s.result (.s (regOf h.s a)) (BitVec.ofNat 64 (s.c.verdict.getD (!w.stall s && w.cond s)).toNat) latLoad }

/-- WAIT with a time limit (R164). -/
def execWaitLimit (h : CHdr) (a : BitVec 5) (t : BitVec 4) (k : BitVec 7) (lim : BitVec 32) (s : State) : Result :=
  runOne (opWaitLimit h a t k lim) s

/-- A signed 32-bit difference is not negative: IDs compare modulo 2^32 (R165). -/
def idLe (a b : BitVec 32) : Bool := !(b - a).getLsbD 31

/-- The deferred error of a channel for an ID up to `id`, which user mode raises (R165, R192, R381). -/
def State.chanError (s : State) (c : BitVec 3) (id : BitVec 32) : Option TrapReq :=
  if s.c.mode then none
  else (s.r.deferred.find? fun d => d.chan == c && idLe d.tid id).map Deferred.trap

/-- Every transfer of a channel up to an ID is complete (R165). -/
def Res.chanDone (r : Res) (c : BitVec 3) (id : BitVec 32) : Bool :=
  idLe (id + 1) (r.chans.get ⟨c.toNat, c.isLt⟩).done

def opWaitch (h : CHdr) (a : BitVec 5) (c : BitVec 3) : Op :=
  { opK h with
    check := fun slot s => ownerBar (fun s => s.c.reg h.s a) slot s <|> s.chanError c ((s.c.reg h.s a).truncate 32)
    wait := fun s => !s.r.chanDone c ((s.c.reg h.s a).truncate 32) }

/-- WAITCH (R165). -/
def execWaitch (h : CHdr) (a : BitVec 5) (c : BitVec 3) (s : State) : Result := runOne (opWaitch h a c) s

/-- Mailbox m of a residency. -/
def Res.mbox (r : Res) (m : BitVec 4) : Mbox := r.mboxes.get ⟨m.toNat, m.isLt⟩

def opWaitmb (h : CHdr) (m : BitVec 4) : Op :=
  { opK h with
    check := ownerBar fun _ => 0
    wait := fun s => (s.r.mbox m).trips == 0
    eff := fun s => s.modR fun r => r.modMbox m fun b => { b with trips := b.trips - 1 } }

/-- WAITMB (R166). -/
def execWaitmb (h : CHdr) (m : BitVec 4) (s : State) : Result := runOne (opWaitmb h m) s

/-! ### Helper contexts (R167, R168) -/

/-- A helper as START leaves it (R167); while a gang or an exchange phase holds helpers it is HELD (R24, R174). -/
def Ctx.started (c : Ctx) (entry : Pair) (held : Bool) : Ctx :=
  { c with pc := entry, mode := false, loop := { c.loop with active := false, done := 0 }, aside := none,
           trap := TrapRec.reset, replay := none, sfuKept := [], status := if held then .held else .live,
           heldAt := none, verdict := none, heldAside := none, yields := [], blocked := [] }

/-- Helpers of the present residency are HELD (R24, R174, R349). -/
def State.holding (s : State) : Bool :=
  s.core.gang.isSome || s.stillHeld

def opStart (h : CHdr) (a : BitVec 5) (k : BitVec 4) : Op :=
  { opK h with
    check := fun slot s =>
      illegalIf (s.notControl || (s.r.ctx.get (ctxOf k)).status != .free || !s.r.inRange ((s.c.reg h.s a).truncate 14))
        slot (s.c.reg h.s a)
    eff := fun s => s.modCtx (ctxOf k) (·.started ((s.c.reg h.s a).truncate 14) s.holding) }

/-- START (R167). -/
def execStart (h : CHdr) (a : BitVec 5) (k : BitVec 4) (s : State) : Result := runOne (opStart h a k) s

/-- A context gives its pending N causes to context 0 when it becomes FREE (R368). -/
def Res.passPending (r : Res) (k : CtxNo) : Res :=
  let p := (r.ctx.get k).pending
  (r.modCtx k fun c => { c with pending := [] }).modCtx 0 fun c => { c with pending := c.pending ++ p }

/-- A helper as HEND leaves it (R101, R168). -/
def Ctx.ended (c : Ctx) : Ctx :=
  let d := landList (c.frozen ++ c.flight) c
  { d with flight := [], frozen := [], status := .free, loop := { d.loop with active := false, done := 0 }, aside := none }

def opHend (h : CHdr) : Op :=
  { opK h with
    check := fun slot s => illegalIf (!s.notControl) slot 0 <|> ownerBar (fun _ => 0) slot s
    late := fun s => (s.modC Ctx.ended).modR (·.passPending s.curCtx) }

/-- HEND (R168). -/
def execHend (h : CHdr) (s : State) : Result := runOne (opHend h) s

/-! ### Gangs (R23, R24, R171, R172) -/

/-- The logical core number of the issuing core. -/
def State.logical (s : State) : Nat := Rank.core s.r.rank

/-- The other members of the set. -/
def State.gangOthers (s : State) (w : BitVec 4) : List Nat := (gangSet w s.logical).filter (· != s.logical)

/-- COUPLE is illegal (R171): a core outside the crew, an odd cluster column for width 8, a gang already formed, or two cores waiting at different widths of which one lies in the other's set.
R171's second case is taken by its words, so the cores of the eastern cluster, which R23 makes members of the gang, are refused at width 8 too (DESIGN CHOICE, log entry 24). -/
def State.coupleBad (s : State) (w : BitVec 4) : Bool :=
  (s.gangOthers w).any (fun k => !s.r.members.contains k) ||
  (w == 3 && s.logical % 12 / 2 % 2 == 1) || s.core.gang.isSome ||
  (s.core.coupling.any fun p => p.2 != w && ((s.gangOthers w).contains p.1 || (gangSet p.2 p.1).contains s.logical))

/-- Every other member has issued COUPLE of this width. -/
def State.coupled (s : State) (w : BitVec 4) : Bool := (s.gangOthers w).all fun k => s.core.coupling.contains (k, w)

/-- Hold the helpers that are LIVE, and let them resume (R24, R25). -/
def Res.holdHelpers (r : Res) : Res :=
  { r with ctx := (List.finRange 11).foldl (fun v k =>
      if k ≠ 0 ∧ (v.get k).status = .live then v.set k.val { v.get k with status := .held } k.isLt else v) r.ctx }
def Res.freeHelpers (r : Res) : Res :=
  { r with ctx := r.ctx.map fun c => if c.status = .held then { c with status := .live } else c }

def opCouple (h : CHdr) (w : BitVec 4) : Op :=
  { opK h with
    check := fun slot s => illegalIf (s.notControl || s.coupleBad w) slot 0
    wait := fun s => !s.coupled w
    ask := fun s => if s.c.arrived then s else (s.modC fun c => { c with arrived := true }).emit (.couple w)
    eff := fun s =>
      let s1 := if s.c.arrived then s else s.emit (.couple w)
      (s1.modCore fun c => { c with gang := some w, gangIn := GangIn.reset, coupling := [] }).modR Res.holdHelpers }

/-- COUPLE (R171). -/
def execCouple (h : CHdr) (w : BitVec 4) (s : State) : Result := runOne (opCouple h w) s

def opUncouple (h : CHdr) : Op := { opK h with eff := fun s => s.disband false }

/-- UNCOUPLE (R172). -/
def execUncouple (h : CHdr) (s : State) : Result := runOne (opUncouple h) s

/-! ### YIELD and HALT (R169, R170) -/

def opYield (h : CHdr) : Op :=
  { opK h with
    check := ownerBar fun _ => 0
    eff := fun s =>
      if s.core.gang.isSome then s
      else
        let others := s.core.ready.filter (· != s.curCtx)
        if others.isEmpty then (if s.core.readyRes.isEmpty then s else s.post .residencySwitch)
        else s.modC fun c => { c with yields := others } }

/-- YIELD (R170). -/
def execYield (h : CHdr) (s : State) : Result := runOne (opYield h) s

/-- A request of the residency whose acknowledgement HALT awaits: XST 1, XAT 2 (R169). -/
def Req.awaitsAck (q : Req) (k : ResNo) : Bool := q.res == k && (q.kind == 1 || q.kind == 2)

/-- What HALT waits for (R169). -/
def State.haltReady (s : State) : Bool :=
  ((List.finRange 11).all fun k => k == 0 || (s.r.ctx.get k).status == .free) &&
  !(s.core.tasks.any fun t => t.res == s.curRes) &&
  ((List.finRange 8).all fun k => (s.r.chans.get k).next == (s.r.chans.get k).done) &&
  !(s.core.reqs.any fun q => q.awaitsAck s.curRes) &&
  !(s.core.sends.any fun q => q.res == s.curRes)

/-- The first deferred error of the residency, which user mode raises at HALT (R169, R381). -/
def State.anyError (s : State) : Option TrapReq :=
  if s.c.mode then none else s.r.deferred.head?.map Deferred.trap

def opHalt (h : CHdr) : Op :=
  { opK h with
    check := fun slot s => illegalIf s.notControl slot 0 <|> ownerBar (fun _ => 0) slot s <|> s.anyError
    wait := fun s => !s.haltReady
    late := fun s => (s.disband false).endRes s.curRes .halted none }

/-- HALT (R169). -/
def execHalt (h : CHdr) (s : State) : Result := runOne (opHalt h) s

end Sys2Proof.Machine
end

