-- ==== Sys2Proof/Machine/Memory.lean ====
section
/-!
DEFINITION. Local loads and stores, full/empty words, local atomics and nests (R176 to R180, R201).
-/

namespace Sys2Proof.Machine

open Sys2Proof

/-! ### One local access of slot M0 or M1 -/

/-- The bank of an accumulator access (R96). -/
def State.bankOf (s : State) (a : Access) : List Nat :=
  if s.accessRegion a = .acc then [(ptrOff a.ptr - 0x200000) / 0x8000 % 8] else []

/-- What every instruction with one local access shares: the touch, the port, the waits (R36, R49, R96, R217). -/
def withAccess (o : Op) (a : Nat → State → Access) : Op :=
  { o with
    touch := fun s => s.touches (s.accessRegion (a 0 s))
    banks := fun s => s.bankOf (a 0 s)
    wait := fun s => s.stalled (a 0 s) || s.busy (ptrOff (a 0 s).ptr) (a 0 s).len }

/-- A load of the bytes of an access, into what `put` makes of them. -/
def opLoad (o : Op) (a : Nat → State → Access) (put : List Byte → State → State) : Op :=
  { withAccess o a with
    check := fun slot s => s.checkLoad (a slot s)
    eff := fun s => put (s.readBytes (ptrOff (a 0 s).ptr) (a 0 s).len) s }

/-- A store of bytes at an access. -/
def opStore (o : Op) (a : Nat → State → Access) (v : State → List Byte) : Op :=
  { withAccess o a with
    check := fun slot s => s.checkAccess (a slot s)
    eff := fun s => s.writeBytes (ptrOff (a 0 s).ptr) (v s) }

/-- The access at s[rb] plus an offset, as ADDP steps it (R176). -/
def memAccess (h : CHdr) (b : BitVec 5) (off : Int) (len align : Nat) (write : Bool) (slot : Nat) (s : State) : Access :=
  ⟨ptrAdd (s.c.reg h.s b) off, len, write, false, slot, align, false⟩

/-- The offset of a short form: a count of units (R176, R178, R179). -/
def shortOff (o : BitVec 3) (unit : Nat) : Int := (o.toNat * unit : Nat)

/-- LD in either form: size code z, sign flag k (R176). -/
def opLdAt (h : CHdr) (a b : BitVec 5) (z : BitVec 2) (k : Bool) (off : Int) : Op :=
  let n := 2 ^ z.toNat
  { opLoad (opM h) (memAccess h b off n n false) (fun bs s =>
      s.result (.s (regOf h.s a)) (if k then BitVec.ofInt 64 (signedOf (8 * n) (leNat bs)) else BitVec.ofNat 64 (leNat bs)) latLoad) with
    dests := [.s (regOf h.s a)] }

/-- ST in either form (R176). -/
def opStAt (h : CHdr) (a b : BitVec 5) (z : BitVec 2) (off : Int) : Op :=
  let n := 2 ^ z.toNat
  opStore (opM h) (memAccess h b off n n true) fun s => leBytes n (s.c.reg h.s a).toNat

def opLd (h : CHdr) (a b : BitVec 5) (z : BitVec 2) (k : Bool) (o : BitVec 3) : Op := opLdAt h a b z k (shortOff o (2 ^ z.toNat))

/-- LD, short form (R176). -/
def execLd (h : CHdr) (a b : BitVec 5) (z : BitVec 2) (k : Bool) (o : BitVec 3) (s : State) : Result := runOne (opLd h a b z k o) s

def opLdExt (h : CHdr) (a b : BitVec 5) (z : BitVec 2) (k : Bool) (off : BitVec 32) : Op := opLdAt h a b z k off.toInt

/-- LD, long form (R176). -/
def execLdExt (h : CHdr) (a b : BitVec 5) (z : BitVec 2) (k : Bool) (off : BitVec 32) (s : State) : Result :=
  runOne (opLdExt h a b z k off) s

def opSt (h : CHdr) (a b : BitVec 5) (z : BitVec 2) (o : BitVec 3) : Op := opStAt h a b z (shortOff o (2 ^ z.toNat))

/-- ST, short form (R176). -/
def execSt (h : CHdr) (a b : BitVec 5) (z : BitVec 2) (o : BitVec 3) (s : State) : Result := runOne (opSt h a b z o) s

def opStExt (h : CHdr) (a b : BitVec 5) (z : BitVec 2) (off : BitVec 32) : Op := opStAt h a b z off.toInt

/-- ST, long form (R176). -/
def execStExt (h : CHdr) (a b : BitVec 5) (z : BitVec 2) (off : BitVec 32) (s : State) : Result := runOne (opStExt h a b z off) s

/-! ### Register pairs (R178) -/

/-- LDP in either form. -/
def opLdpAt (h : CHdr) (a b : BitVec 5) (off : Int) : Op :=
  { opLoad (opM h) (memAccess h b off 16 8 false) (fun bs s =>
      (s.result (.s (regOf h.s a)) (BitVec.ofNat 64 (leNat (bs.take 8))) latLoad).result
        (.s (regOf h.s (a + 1))) (BitVec.ofNat 64 (leNat (bs.drop 8))) latLoad) with
    dests := [.s (regOf h.s a), .s (regOf h.s (a + 1))] }

/-- STP in either form. -/
def opStpAt (h : CHdr) (a b : BitVec 5) (off : Int) : Op :=
  opStore (opM h) (memAccess h b off 16 8 true) fun s =>
    leBytes 8 (s.c.reg h.s a).toNat ++ leBytes 8 (s.c.reg h.s (a + 1)).toNat

def opLdp (h : CHdr) (a b : BitVec 5) (o : BitVec 3) : Op := opLdpAt h a b (shortOff o 16)

/-- LDP, short form (R178). -/
def execLdp (h : CHdr) (a b : BitVec 5) (o : BitVec 3) (s : State) : Result := runOne (opLdp h a b o) s

def opLdpExt (h : CHdr) (a b : BitVec 5) (off : BitVec 32) : Op := opLdpAt h a b off.toInt

/-- LDP, long form (R178). -/
def execLdpExt (h : CHdr) (a b : BitVec 5) (off : BitVec 32) (s : State) : Result := runOne (opLdpExt h a b off) s

def opStp (h : CHdr) (a b : BitVec 5) (o : BitVec 3) : Op := opStpAt h a b (shortOff o 16)

/-- STP, short form (R178). -/
def execStp (h : CHdr) (a b : BitVec 5) (o : BitVec 3) (s : State) : Result := runOne (opStp h a b o) s

def opStpExt (h : CHdr) (a b : BitVec 5) (off : BitVec 32) : Op := opStpAt h a b off.toInt

/-- STP, long form (R178). -/
def execStpExt (h : CHdr) (a b : BitVec 5) (off : BitVec 32) (s : State) : Result := runOne (opStpExt h a b off) s

/-! ### Full/empty words (R179) -/

/-- The regions whose words have a full/empty bit that the mode may use: the foreign window shows scratchpad words, the auxiliary window none (R15, R179, R388; DEDUCED, log entry 64). -/
def State.feRegion (s : State) (g : Region) : Bool :=
  match g with
  | .user => true
  | .pigeon => s.c.mode
  | .save => s.c.mode
  | .foreign => s.c.mode
  | _ => false

/-- What the four full/empty instructions share: the region check, the word they name and the wait for its bit. -/
def withFe (h : CHdr) (a b : BitVec 5) (off : Int) (o : Op) (want : Option Bool) : Op :=
  { o with
    check := fun slot s => o.check slot s <|>
      illegalIf (!s.feRegion (s.accessRegion (memAccess h b off 8 8 false slot s))) slot (s.c.reg h.s a)
    word := fun s => some (s.fullKey (ptrOff (ptrAdd (s.c.reg h.s b) off)), s.c.reg h.s a)
    wait := fun s => o.wait s || match want with
      | none => false
      | some v => s.isFull (ptrOff (ptrAdd (s.c.reg h.s b) off)) != v }

/-- LDFE (the bit becomes empty) and LDFF in either form. -/
def opLdFe (h : CHdr) (a b : BitVec 5) (off : Int) (empty : Bool) : Op :=
  let o := opLoad (opM h) (memAccess h b off 8 8 false) (fun bs s =>
    let s1 := s.result (.s (regOf h.s a)) (BitVec.ofNat 64 (leNat bs)) latLoad
    if empty then s1.setFull (ptrOff (ptrAdd (s.c.reg h.s b) off)) false else s1)
  withFe h a b off { o with dests := [.s (regOf h.s a)] } (some true)

/-- STFE (which waits until empty) and STF in either form. -/
def opStFe (h : CHdr) (a b : BitVec 5) (off : Int) (waits : Bool) : Op :=
  let o := opStore (opM h) (memAccess h b off 8 8 true) fun s => leBytes 8 (s.c.reg h.s a).toNat
  withFe h a b off { o with eff := fun s => (o.eff s).setFull (ptrOff (ptrAdd (s.c.reg h.s b) off)) true }
    (if waits then some false else none)

def opLdfe (h : CHdr) (a b : BitVec 5) (o : BitVec 3) : Op := opLdFe h a b (shortOff o 8) true

/-- LDFE, short form (R179). -/
def execLdfe (h : CHdr) (a b : BitVec 5) (o : BitVec 3) (s : State) : Result := runOne (opLdfe h a b o) s

def opLdfeExt (h : CHdr) (a b : BitVec 5) (off : BitVec 32) : Op := opLdFe h a b off.toInt true

/-- LDFE, long form (R179). -/
def execLdfeExt (h : CHdr) (a b : BitVec 5) (off : BitVec 32) (s : State) : Result := runOne (opLdfeExt h a b off) s

def opLdff (h : CHdr) (a b : BitVec 5) (o : BitVec 3) : Op := opLdFe h a b (shortOff o 8) false

/-- LDFF, short form (R179). -/
def execLdff (h : CHdr) (a b : BitVec 5) (o : BitVec 3) (s : State) : Result := runOne (opLdff h a b o) s

def opLdffExt (h : CHdr) (a b : BitVec 5) (off : BitVec 32) : Op := opLdFe h a b off.toInt false

/-- LDFF, long form (R179). -/
def execLdffExt (h : CHdr) (a b : BitVec 5) (off : BitVec 32) (s : State) : Result := runOne (opLdffExt h a b off) s

def opStfe (h : CHdr) (a b : BitVec 5) (o : BitVec 3) : Op := opStFe h a b (shortOff o 8) true

/-- STFE, short form (R179). -/
def execStfe (h : CHdr) (a b : BitVec 5) (o : BitVec 3) (s : State) : Result := runOne (opStfe h a b o) s

def opStfeExt (h : CHdr) (a b : BitVec 5) (off : BitVec 32) : Op := opStFe h a b off.toInt true

/-- STFE, long form (R179). -/
def execStfeExt (h : CHdr) (a b : BitVec 5) (off : BitVec 32) (s : State) : Result := runOne (opStfeExt h a b off) s

def opStf (h : CHdr) (a b : BitVec 5) (o : BitVec 3) : Op := opStFe h a b (shortOff o 8) false

/-- STF, short form (R179). -/
def execStf (h : CHdr) (a b : BitVec 5) (o : BitVec 3) (s : State) : Result := runOne (opStf h a b o) s

def opStfExt (h : CHdr) (a b : BitVec 5) (off : BitVec 32) : Op := opStFe h a b off.toInt false

/-- STF, long form (R179). -/
def execStfExt (h : CHdr) (a b : BitVec 5) (off : BitVec 32) (s : State) : Result := runOne (opStfExt h a b off) s

/-! ### Atomics (R123, R180) -/

/-- The packed elements of a word, each added under RNE and packed again. -/
def packAdd (f : FpFmt) (w n x y : Nat) : Nat :=
  ((List.range n).map fun k =>
    let a := valueOf f (x / 2 ^ (w * k) % 2 ^ w)
    let b := valueOf f (y / 2 ^ (w * k) % 2 ^ w)
    roundTo f 0 0 (Val.add false a b) * 2 ^ (w * k)).sum

/-- The new value of an atomic on n bytes: operand v, comparand c (R123, R180). -/
def atomicNew (op : BitVec 4) (n old v c : Nat) : Nat :=
  let b := 8 * n
  let x := v % 2 ^ b
  match op.toNat with
  | 0 => (old + x) % 2 ^ b
  | 1 => if signedOf b x < signedOf b old then x else old
  | 2 => if signedOf b old < signedOf b x then x else old
  | 3 => if x < old then x else old
  | 4 => if old < x then x else old
  | 5 => old &&& x
  | 6 => old ||| x
  | 7 => old ^^^ x
  | 8 => x
  | 9 => if old = c % 2 ^ b then x else old
  | 10 => packAdd .fp32 32 1 old x
  | 11 => packAdd .bf16 16 2 old x
  | _ => packAdd .e4m3 8 4 old x

/-- The access of LAT (R180). -/
def latAccess (h : CHdr) (b : BitVec 5) (w : BitVec 2) (slot : Nat) (s : State) : Access :=
  let n := 4 * 2 ^ w.toNat
  ⟨s.c.reg h.s b, n, false, true, slot, n, false⟩

/-- The regions a local atomic may reach, the windows that take every access to the scratchpad among them (R180, R388). -/
def latRegion (g : Region) (w : BitVec 2) : Bool :=
  match g with
  | .user => true
  | .pigeon => true
  | .save => true
  | .acc => w == 0
  | .aux => true
  | .foreign => true
  | _ => false

def opLat (h : CHdr) (a b c : BitVec 5) (x : Bool) (w : BitVec 2) (op : BitVec 4) : Op :=
  let n := 4 * 2 ^ w.toNat
  { withAccess (opM h) (latAccess h b w) with
    dests := [.s (regOf h.s a)]
    check := fun slot s => s.checkLoad (latAccess h b w slot s) <|>
      illegalIf (!latRegion (s.accessRegion (latAccess h b w slot s)) w) slot (s.c.reg h.s a)
    eff := fun s =>
      let o := ptrOff (s.c.reg h.s b)
      let old := s.readLocal o n
      (s.writeLocal o n (atomicNew op n old (s.c.regX h.s c x).toNat (s.c.reg h.s a).toNat)).result
        (.s (regOf h.s a)) (BitVec.ofNat 64 old) latLoad }

/-- LAT (R180). -/
def execLat (h : CHdr) (a b c : BitVec 5) (x : Bool) (w : BitVec 2) (op : BitVec 4) (s : State) : Result :=
  runOne (opLat h a b c x w op) s

/-! ### Nests (R201) -/

/-- A nest descriptor from its 64-byte record. -/
def nestOf (bs : List Byte) : Nest :=
  ⟨Vector.ofFn fun d => BitVec.ofNat 16 (leNat ((bs.drop (2 * d.val)).take 2)),
   Vector.ofFn fun d => BitVec.ofNat 32 (leNat ((bs.drop (16 + 4 * d.val)).take 4)),
   Vector.ofFn fun j => BitVec.ofNat 16 (leNat ((bs.drop (40 + 2 * j.val)).take 2)) &&& 0x833F⟩

/-- An operand address that the instruction requires aligned: a misaligned one is an illegal operand after the checks of R49 (R48). -/
def misplaced (p : Word) (n slot : Nat) (ra : Word) : Option TrapReq := illegalIf (ptrOff p % n != 0) slot ra

/-- The access of NDLD to its record. -/
def ndldAccess (h : CHdr) (a : BitVec 5) (slot : Nat) (s : State) : Access := ⟨s.c.reg h.s a, 64, false, false, slot, 0, false⟩

def opNdld (h : CHdr) (a : BitVec 5) (k : BitVec 3) : Op :=
  { opLoad (opM h) (ndldAccess h a) (fun bs s =>
      s.modR fun r => { r with nests := r.nests.set k.toNat (nestOf bs) k.isLt }) with
    check := fun slot s => s.checkLoad (ndldAccess h a slot s) <|> misplaced (s.c.reg h.s a) 8 slot (s.c.reg h.s a) }

/-- NDLD (R201). -/
def execNdld (h : CHdr) (a : BitVec 5) (k : BitVec 3) (s : State) : Result := runOne (opNdld h a k) s

end Sys2Proof.Machine
end

