-- ==== Sys2Proof/Machine/Interface.lean ====
section
/-!
DEFINITION. The core's network interface and its router: injection against credit, replication of a multicast copy, and the grant of each output port once a cycle (R340, R420, R423, R424).
-/

namespace Sys2Proof.Machine

open Sys2Proof

/-! ### The router (R340, R424) -/

/-- The core's own router. -/
def State.routerHere (s : State) : RouterAt := routerOf s.pkg.self

/-- Live ports of a gateway, in port order; a quarantined gateway has none (R439, R451). -/
def Package.livePorts (p : Package) (g : Nat) : List Nat :=
  if (p.dies[16 + g]?).any fun d => d.state == .quarantined then []
  else ((List.range 36).map (36 * g + ·)).filter fun i => (p.ports[i]?).getD false

/-- The core dies that are quarantined, and the gateways, 16 and 17, that have no live port (R439, R451). -/
def State.deadDies (s : State) : List Nat :=
  ((List.range 8).filter fun d => (s.pkg.dies[d]?).any fun x => x.state == .quarantined) ++ ([16, 17].filter fun d => (s.pkg.livePorts (d - 16)).isEmpty)

/-- No port leads to another package (R439). -/
def State.noPort (s : State) : Target → Bool
  | .package _ _ => (s.pkg.livePorts 0).isEmpty && (s.pkg.livePorts 1).isEmpty
  | _ => false

/-- A multicast copy goes once towards each port that some of its receivers lie behind (R340). -/
def splitCast (dead : List Nat) (at_ : RouterAt) (p : Parcel) (m : Message) (ds : List CastDst) : List Parcel :=
  (List.range 6).filterMap fun o =>
    match ds.filter fun x => outPort dead at_ x.place == o with
    | [] => none
    | x :: t => some { p with item := .cast m (x :: t), dst := x.place }

/-! ### Buffer-free tokens at a router (R341) -/

/-- A token belongs to a record's multicast. -/
def Combine.isOf (x : Combine) (router : Nat) (t : FreeToken) : Bool :=
  x.router == router && x.sum.sender == t.sender && x.sum.order == t.order && x.sum.group == t.group && x.sum.num == t.num

/-- The record is of an earlier multicast of the same sender and group than any that can still be unfinished: a sender has at most 16 (R269). -/
def Combine.stale (x : Combine) (t : FreeToken) : Bool :=
  x.sum.sender == t.sender && x.sum.order == t.order && x.sum.group == t.group && decide (16 ≤ (t.num - x.sum.num).toNat) && decide ((t.num - x.sum.num).toNat < 2 ^ 15)

/-- A token reaches a router from a child: it waits there until tokens from all its children have come, and one token with the sum of the weights goes on; it passes uncombined where the table of 64 entries is full, or behind such a one (R341; log entry 67). -/
def combineAt (router children child : Nat) (t : FreeToken) (l : List Combine) : List Combine × Option FreeToken :=
  let l := l.filter fun x => !x.stale t
  match l.find? (·.isOf router t) with
  | none =>
    if children ≤ 1 then (l, some t)
    else if 64 ≤ (l.filter fun x => x.router == router && x.holds).length then (l ++ [⟨router, { t with weight := 0, who := [] }, [child], false⟩], some t)
    else (l ++ [⟨router, t, [child], true⟩], none)
  | some x =>
    let rest := l.filter fun y => !y.isOf router t
    let u := { t with weight := x.sum.weight + t.weight, who := x.sum.who ++ t.who }
    let cs := setAdd x.children child
    if !x.holds then (rest ++ [{ x with children := cs }], some t)
    else if children ≤ cs.length then (rest ++ [⟨router, { t with weight := 0, who := [] }, cs, false⟩], some u)
    else (rest ++ [⟨router, u, cs, true⟩], none)

/-- The members of a token's multicast, as a group table of this core has them. -/
def State.tokenMembers (s : State) (t : FreeToken) : List Rank :=
  ((List.finRange 4).findSome? fun k =>
    let r := s.res.get k
    if r.phase.alive && r.order == t.order then (r.groups.find? fun g => g.num == t.group).map (·.members) else none).getD []

/-- The children of the core's own router on a multicast's tree: the ports by which the sender's copies for some receiver leave it; none where the sender is in another package, or no residency of this core has the group (R340, R341; log entry 67). -/
def State.tokenChildren (s : State) (t : FreeToken) : List Nat :=
  match s.targetOf t.order t.sender with
  | .core a =>
    let places := ((s.tokenMembers t).filter (· != t.sender)).map (s.targetOf t.order)
    (List.range 6).filter fun o => places.any fun x => ((wayIn s.deadDies 256 (routerOf a) x portLocal).1.contains s.routerHere) && outPort s.deadDies s.routerHere x == o
  | _ => []

/-- The port by which a packet leaves the router: a token goes back the way the sender's copies come, any other by R420 (R341). -/
def State.portFor (s : State) (p : Parcel) : Nat :=
  match p.item, p.dst with
  | .token _, .core a => (wayIn s.deadDies 256 (routerOf a) (.core s.pkg.self) portLocal).2
  | _, t => outPort s.deadDies s.routerHere t

/-- A packet reaches the core's router; a multicast copy is replicated there, and a buffer-free token combined with those of its siblings (R340, R341). -/
def State.enterRouter (s : State) (p : Parcel) : State :=
  let enter (s : State) (ps : List Parcel) : State := s.modCore fun c => { c with router := c.router ++ ps }
  match p.item with
  | .cast m ds => enter s (splitCast s.deadDies s.routerHere p m ds)
  | .token t =>
    let r := combineAt s.pkg.self (s.tokenChildren t).length p.port t s.die.combining
    enter { s with die := { s.die with combining := r.1 } } (r.2.toList.map fun u => { p with item := .token u })
  | _ => enter s [p]

/-- A packet for this core leaves the router by its local port: an envelope, an event and a command carry their age and port (R316, R424). -/
def State.eject (s : State) (p : Parcel) : State :=
  s.deliverAged p.order p.age p.port p.item

/-- A packet that has left the core's router for a server, the Weighhouse or a Porter comes to it; nothing reaches another package while no port is live (R439; log entry 36). -/
def State.arriveFar (s : State) (p : Parcel) : State :=
  if s.noPort p.dst then s
  else match p.item with
    | .request q wh => s.post (if wh then .weighhouseAtomic q else .serverRequest q)
    | .copyRequest c => s.post (.porterActiveMessage c)
    | _ => s

/-- One output port grants one packet among those that have credit for it (R424). -/
def State.grantPort (s : State) (o : Nat) : State :=
  match grantOf s.core.cycle (s.core.router.filter fun p => s.portFor p == o && !s.core.portFull.contains (o, p.vc)) with
  | none => s
  | some p =>
    let q := p.forwarded s.core.cycle
    let s1 := s.modCore fun c => { c with router := c.router.erase p }
    if o = portLocal then s1.eject q else (s1.modEnv fun e => { e with packets := e.packets ++ [(o, q)] }).arriveFar q

/-- One cycle of the router. -/
def State.routerStep (s : State) : State := (List.range 6).foldl State.grantPort s

/-- What a server, the Weighhouse or a Porter returns to the core, or lands in it, comes to its router; an earlier router has added 1 to its age each (R420, R421, R424). -/
def State.answerUp (s : State) (src : Target) (ev : Instr) : State :=
  let w := wayIn s.deadDies 256 (answerFrom s.deadDies s.routerHere src) (.core s.pkg.self) portEdge
  s.enterRouter ⟨.answer ev, 0, answerVc ev, .core s.pkg.self, w.2, w.1.length - 1, s.core.cycle⟩

/-! ### Delivery contexts of the scale-up ports (R439) -/

/-- The ports a context may use: those of the gateway of the core's own half, or of the other where it has none (R419, R439). -/
def Package.portsFor (p : Package) (g : Nat) : List Nat := let l := p.livePorts g; if l.isEmpty then p.livePorts (1 - g) else l

/-- The gateway of the column half of the core under view (R419). -/
def Package.gateway (p : Package) : Nat := if p.self / 144 % 4 < 2 then 0 else 1

/-- Open the packet delivery context of a peer and a class, pinned by the package number (R439). -/
def State.pin (s : State) (peer cls : Nat) : State :=
  let l := s.pkg.portsFor s.pkg.gateway
  if l.isEmpty || s.pkg.contexts.any fun c => c.peer == peer && c.cls == cls then s
  else { s with pkg := { s.pkg with contexts := s.pkg.contexts ++ [⟨peer, cls, (l[peer % l.length]?).getD 0⟩] } }

/-- A bulk packet is spread over every live port of the gateway; which one takes it the spec does not state (R439, log entry 8). -/
def State.spread (s : State) : State :=
  let l := s.pkg.portsFor s.pkg.gateway
  let i := (l[(Config.freeValue s.env.free).toNat % l.length]?).getD 0
  if l.isEmpty then s
  else { s with pkg := { s.pkg with bulkSent := s.pkg.bulkSent.mapFinIdx fun j n _ => if j = i then n + 1 else n },
                env := { s.env with free := s.env.free + 1 } }

/-- An item for another package opens the delivery context of its class, whose number is that of its virtual channel; bulk data have none, spread over every live port. -/
def State.openContext (s : State) (o : Out) : Target → State
  | .package p _ => match o.ordered, o.vc with
    | true, some vc => s.pin p vc
    | false, some _ => s.spread
    | _, none => s
  | _ => s

end Sys2Proof.Machine
end

