-- ==== Sys2Proof/Machine/Requests.lean ====
section
/-!
DEFINITION. The server requests of a core: relocation and routing, their failures and completion, the cluster store buffer, and injection at the network interface (R189 to R195, R202, R291 to R293, R297, R298, R393, R423, R430, R432).
-/

namespace Sys2Proof.Machine

open Sys2Proof

/-! ### Relocation and routing (R190, R430) -/

/-- The right an access needs, by its bit in EXTA: load 0, store 1, atomic 2; a cause's word has the bit itself, 1, 2 or 4 (R374). -/
abbrev Right := Nat

/-- Entry n covers bytes [first, last] of window w. -/
def Extent.covers (e : Extent) (w first last : Nat) : Bool :=
  e.a.getLsbD 3 && field e.a 4 2 == w && decide (field e.a 12 36 * 4096 ≤ first) &&
  decide (last < (field e.a 12 36 + field e.b 12 36) * 4096)

/-- The server address of a tenant range, or why it fails (R190). -/
def relocate (es : Vector Extent 16) (w : Nat) (right : Right) (first last : Nat) : Except ServerFail Nat :=
  match (List.finRange 16).find? fun n => (es.get n).covers w first last with
  | none => .error .extentMiss
  | some n =>
    let e := es.get n
    if e.a.getLsbD right then .ok (field e.c 12 36 * 4096 + (first - field e.a 12 36 * 4096))
    else .error (.extentRights (BitVec.ofNat 3 (2 ^ right)) (BitVec.ofNat 4 n.val))

/-- Where a server address leads: the address in its package's server space and the endpoint; none outside the valid range (R430). -/
def routeTo (w a last : Nat) : Option (Nat × Nat) :=
  let hbm := 0x6000000000
  let lp := 0x8000000000
  if w = 1 ∨ (w = 3 ∧ a < hbm) then (if last < hbm then some (a, 1536 + hbmServer (a / 4096)) else none)
  else if w = 2 then (if last < 2 ^ 40 then some (lp + a, 1664 + lpddrServer (a / 4096)) else none)
  else if w = 3 ∧ lp ≤ a ∧ last < lp + 2 ^ 40 then some (a, 1664 + lpddrServer ((a - lp) / 4096))
  else none

/-- The key of a byte of a package's server memory. -/
def serverKey (pkg a : Nat) : Nat := pkg * 2 ^ 41 + a

/-- The package that an access in a window names (R43). -/
def State.pkgOf (s : State) (ptr : Word) (named : Nat) : Nat := if ptrWin ptr = 3 then named else s.srv.pkg

/-- A gateway admits a work order of a package to the memory of another (R440). -/
def Servers.admitted (v : Servers) (pkg src order : Nat) : Bool := v.admits.contains ⟨pkg, src, order⟩

/-- Relocate and route `len` bytes at a tenant pointer under a table: address and endpoint (R190, R430, R440). -/
def State.place (s : State) (es : Vector Extent 16) (ptr : Word) (right : Right) (pkg len order : Nat) : Except ServerFail (Nat × Nat) :=
  let first := ptrOff ptr
  let last := first + max len 1 - 1
  match relocate es (ptrWin ptr) right first last with
  | .error f => .error f
  | .ok a =>
    match routeTo (ptrWin ptr) a (a + max len 1 - 1) with
    | none => .error .extentMiss
    | some r =>
      if pkg ≠ s.srv.pkg ∧ !s.srv.admitted pkg s.srv.pkg order then .error (.extentRights (BitVec.ofNat 3 (2 ^ right)) 0) else .ok r

/-- The pieces of `len` bytes at a server address, cut at granule boundaries, on fuel: offset, address and length (R191, R193, R430). -/
def pieces : Nat → Nat → Nat → Nat → List (Nat × Nat × Nat)
  | 0, _, _, _ => []
  | k + 1, off, a, len =>
    let n := min len (4096 - a % 4096)
    if len ≤ n then [(off, a, len)] else (off, a, n) :: pieces k (off + n) (a + n) (len - n)

/-! ### Failures and their reports (R192, R195, R209, R374) -/

/-- The cause of a failure. -/
def failCause : ServerFail → BitVec 7
  | .extentMiss => Cause.extentMiss
  | .extentRights _ _ => Cause.extentRights
  | .serverError _ => Cause.serverError
  | .notImplemented => Cause.notImplemented
  | .peerDead _ => Cause.peerDead
  | .scaleSequence => Cause.scaleSequence
  | .landing _ => Cause.illegalOperand
  | .schedule _ => Cause.scheduleViolation

/-- The information word of a failure in the error queue (R374). -/
def Req.info (q : Req) : ServerFail → Word
  | .extentMiss => 0
  | .extentRights r n => BitVec.ofNat 64 (r.toNat + n.toNat <<< 8)
  | .serverError c => BitVec.ofNat 64 (c.toNat + q.endpoint <<< 16)
  | .notImplemented => q.ext.zeroExtend 64
  | .peerDead t => BitVec.ofNat 64 t.toNat
  | .scaleSequence => 0
  | .landing _ => 0
  | .schedule _ => 0

/-- The address of a failure in the Deferred layout: the local one of a landing, else the tenant address (R369). -/
def Req.faultAddr (q : Req) : ServerFail → Word
  | .landing a => BitVec.ofNat 64 a
  | .schedule a => BitVec.ofNat 64 a
  | _ => q.ptr

/-- The request as one part of it sees it: the endpoint is that of the part's server, or the Weighhouse's (R209). -/
def Req.atPart (q : Req) (part : Nat) : Req :=
  match q.spans with
  | [] => q
  | p :: _ => if q.endpoint = 2032 then q else
    { q with endpoint := endpointAt (((pieces 3 0 (p.1 % 2 ^ 41) p.2).getD part (0, p.1 % 2 ^ 41, 0)).2.1) }

/-- The endpoint of a failure: 0 where it arose before routing (R209). -/
def Req.peer (q : Req) : ServerFail → Nat
  | .extentMiss => q.pkg <<< 11
  | .extentRights _ _ => q.pkg <<< 11
  | _ => q.pkg <<< 11 + q.endpoint

/-- The channel and transfer ID of a request, 0 where it took none. -/
def Req.chanNo (q : Req) : BitVec 3 := (q.chan.map (·.1)).getD 0
def Req.tid (q : Req) : BitVec 32 := (q.chan.map (·.2)).getD 0

/-- A failure appended to the error queue (R193, R195). -/
def State.queueFail (s : State) (q : Req) (f : ServerFail) : State :=
  if q.dropped then s
  else s.modRes q.res fun r => r.postError (errEntry (failCause f) q.ctx q.pair q.tid q.ptr (q.peer f) q.chanNo.toNat (q.info f))

/-- RaiseDeferred (R106, R192): record a cause against a request's range and channel; the range stays, marked failed. -/
def State.deferFail (s : State) (q : Req) (cause : BitVec 7) (addr : Word) : State :=
  if q.dropped then s.rangeRemove q.range
  else ((s.modRes q.res fun r =>
    { r with deferred := r.deferred ++ [⟨cause, q.pair, q.chanNo, q.tid, addr, q.range, none, s.fresh⟩] }).rangeFail q.range).bump

/-! ### Requests in progress -/

/-- Change, remove, find a request. -/
def State.modReq (s : State) (id : Nat) (f : Req → Req) : State :=
  s.modCore fun c => { c with reqs := c.reqs.map fun q => if q.id = id then f q else q }
def State.dropReq (s : State) (id : Nat) : State := s.modCore fun c => { c with reqs := c.reqs.filter fun q => q.id != id }
def State.reqOf (s : State) (id : Nat) : Option Req := s.core.reqs.find? fun q => q.id == id

/-- The transfer ID of a request completes (R185). -/
def State.doneTid (s : State) (q : Req) : State :=
  match q.chan with
  | none => s
  | some c => s.modRes q.res fun r => r.modChan c.1 (·.complete c.2)

/-- The request's entries leave the cluster store buffer (R293, R432). -/
def State.leaveBuffer (s : State) (id : Nat) : State :=
  { s with cl := { s.cl with buffer := s.cl.buffer.filter fun b => !(b.own && b.id == id) } }

/-- Every byte of an XLD is present or a part has failed (R191, R192). -/
def State.settleLoad (s : State) (q : Req) : State :=
  if q.dropped then (s.dropReq q.id).rangeRemove q.range
  else match q.fail with
    | some f => ((s.dropReq q.id).doneTid q).deferFail q (failCause f) (q.faultAddr f)
    | none => (s.modReq q.id fun x => { x with copying := true }).post .slotCopyDone

/-- Every part of an XST or XAT is acknowledged (R193, R195). -/
def State.settleWrite (s : State) (q : Req) : State :=
  (((s.dropReq q.id).leaveBuffer q.id).doneTid q).rangeRemove q.range

/-- The old value that an XATR returns lands by its latency, where it has not failed; the context no longer waits for it (R195). -/
def Ctx.took (c : Ctx) (id old : Nat) (failed : Bool) : Ctx :=
  match c.awaits.find? fun a => a.id == id with
  | none => c
  | some a =>
    let fs := ⟨a.dest, BitVec.ofNat 64 old, latLoad⟩ :: (a.dest2.map fun d => (⟨d, BitVec.ofNat 64 (old / 2 ^ 64), latLoad⟩ : Flight)).toList
    let c1 := { c with awaits := c.awaits.filter fun x => x.id != id }
    if failed then c1 else if c1.mode && !a.mode then { c1 with frozen := c1.frozen ++ fs } else { c1 with flight := c1.flight ++ fs }

/-- An XATR has its answer: the old value lands, or the failure is raised at the next bundle (R195, R368). -/
def State.settleAtomic (s : State) (q : Req) (old : Nat) (f : Option ServerFail) : State :=
  let s1 := (s.dropReq q.id).leaveBuffer q.id
  if q.dropped then s1
  else
    let s2 := s1.modRes q.res fun r => r.modCtx q.ctx fun c => c.took q.id old f.isSome
    match f with
    | some e => s2.pendN q.res q.ctx (failCause e) (q.pair.zeroExtend 64) q.ptr
    | none => s2

/-- A Porter has done with a copy: the next one that waits for a place there takes it (R433). -/
def State.leavePorter (s : State) (own : Bool) (id : Nat) : State :=
  match s.srv.porters.find? fun j => j.own == own && j.id == id with
  | none => s
  | some j =>
    let s1 := { s with srv := { s.srv with porters := s.srv.porters.erase j } }
    match s1.srv.porterWait.find? fun p => p.porter == j.porter with
    | none => s1
    | some p => s1.post (.porterActiveMessage p)

/-- A copy is complete: its report reached the core (R192, R434). -/
def State.settleCopy (s : State) (q : Req) (f : Option ServerFail) : State :=
  let s1 := ((((s.dropReq q.id).leaveBuffer q.id).leavePorter true q.id).doneTid q).leaveDone (decide (q.kind = 5) && decide (16384 < q.total) && !s.core.leaveCopies.contains q.id)
  let s2 := s1.modCore fun c => { c with leaveCopies := c.leaveCopies.filter (· != q.id) }
  match f with
  | none => s2.rangeRemove q.range
  | some e => s2.deferFail q (failCause e) (q.faultAddr e)

/-- Complete a request with a failure at once, whatever its state (R392, R393). -/
def State.failReq (s : State) (q : Req) (f : ServerFail) : State :=
  match q.kind.toNat with
  | 0 => s.settleLoad { q with fail := some f }
  | 1 => (s.queueFail q f).settleWrite q
  | 2 => (s.queueFail q f).settleWrite q
  | 3 => s.settleAtomic q 0 (some f)
  | _ => s.settleCopy q (some f)

/-- The cycle in which a source timer that starts now expires; none within the package (R393). -/
def State.timerEnd (s : State) (pkg : Nat) : Option (BitVec 64) :=
  if pkg = s.srv.pkg then none else some (s.core.cycle + BitVec.ofNat 64 (2250 * s.core.dptimeout.toNat))

/-- The die that holds a server address: server die 8 + s ÷ 16, or gateway 16 + s ÷ 16 (R429, R430, R449). -/
def serverDie (a : Nat) : Nat := if a < 0x8000000000 then 8 + hbmServer (a / 4096) / 16 else 16 + lpddrServer ((a - 0x8000000000) / 4096) / 16

/-- The server of an address of this package lies on a quarantined die (R451). -/
def State.serverGone (s : State) (pkg a : Nat) : Bool :=
  decide (pkg = s.srv.pkg) && match s.pkg.dies[serverDie a]? with | some d => d.state == .quarantined | none => false

/-- A package that an accepted revocation statement has cut off (R460). -/
def State.cutOff (s : State) (pkg : Nat) : Bool :=
  s.pkg.enclaves.any fun e => e.parts.any fun p => e.revoked.contains p.index && p.pkgs.contains pkg

/-- What has number id and leaves for a package that is cut off is answered PEER_DEAD (R392, R460). -/
def State.answerCut (s : State) (id pkg : Nat) : State := if s.cutOff pkg then s.post (.peerDeadResponse id) else s

/-- A request of number id leaves for another package, in the delivery context of its class (R439). -/
def State.goesOut (s : State) (id pkg cls : Nat) : State := (s.pin pkg cls).answerCut id pkg

/-- The package towards which a request is timed: a copy's source, or its destination where only that lies elsewhere (R393). -/
def State.farPkg (s : State) (q : Req) : Nat := if q.pkg = s.srv.pkg then q.dpkg else q.pkg

/-- A request leaves the core: its source timer starts, where it goes to another package (R393). -/
def State.startTimer (s : State) (id : Nat) : State :=
  match s.reqOf id with
  | none => s
  | some q =>
    if s.farPkg q = s.srv.pkg ∨ q.due.isSome then s
    else ((s.modReq id fun q => { q with due := s.timerEnd (s.farPkg q) }).after (2250 * s.core.dptimeout.toNat) .sourceTimeout).goesOut id (s.farPkg q) 0

/-- A request as it is made at issue, with nothing answered. -/
def State.newReq (s : State) (h : CHdr) (kind : BitVec 3) (a b : BitVec 5) : Req where
  id := s.fresh
  res := s.curRes
  ctx := s.curCtx
  pair := s.core.atPair
  kind := kind
  chan := none
  ptr := s.c.reg h.s a
  pkg := s.srv.pkg
  dpkg := s.srv.pkg
  order := s.r.order
  endpoint := 0
  spans := []
  dspans := []
  atom := none
  local_ := s.c.reg h.s b
  len := 0
  parts := 1
  got := []
  fail := none
  range := none
  slot := false
  ack := false
  buffered := false
  copying := false
  ext := 0
  dropped := false
  nest := none
  dt0 := 0
  core0 := 0
  mbox := none
  add := false
  total := 0
  extents := s.r.extents
  dst := 0
  porter := 0
  binding := []
  next := 0
  out := 0
  answers := []
  due := none

/-- Enter a request. -/
def State.enterReq (s : State) (q : Req) : State := (s.modCore fun c => { c with reqs := c.reqs ++ [q] }).bump

/-! ### The cluster store buffer (R202, R292, R293, R297, R298, R432) -/

/-- Two byte ranges, first and length, share a byte. -/
def meets (a b : Nat × Nat) : Bool := decide (a.1 < b.1 + b.2) && decide (b.1 < a.1 + a.2)

/-- Bytes a server operation touches. -/
def reqSize (q : ServerReq) : Nat :=
  match q.op with
  | .read n => n
  | .write d => d.length
  | .atomic a => a.bytes
def reqSpan (q : ServerReq) : Nat × Nat := (serverKey q.pkg q.addr, reqSize q)

/-- The granule of a request. -/
def reqGranule (q : ServerReq) : Nat := serverKey q.pkg q.addr / 4096

/-- The server bytes of a buffered write. -/
def Buffered.span (b : Buffered) : Nat × Nat := (serverKey b.pkg b.addr, b.data.length)

/-- A request that reads without writing, and one that writes without reading. -/
def reqIsRead (q : ServerReq) : Bool := match q.op with | .read _ => true | _ => false
def reqIsWrite (q : ServerReq) : Bool := match q.op with | .write _ => true | _ => false

/-- The entries of the cluster's buffer that a request finds there: none for a party outside the cluster (R293). -/
def State.bufferFor (s : State) (q : ServerReq) : List Buffered :=
  if q.own then s.cl.buffer
  else if q.order.near then s.cl.buffer.takeWhile fun b => b.own || b.id != q.id
  else []

/-- The entries before a request's own, for a write; all of them for a read, which has none. -/
def State.bufferBefore (s : State) (q : ServerReq) : List Buffered :=
  (s.bufferFor q).takeWhile fun b => !(b.own == q.own && b.id == q.id)

/-- The requests of other parties that have not been performed; those of the cluster that have not reached the buffer. -/
def State.otherReqs (s : State) : List ServerReq :=
  ((s.env.agenda ++ s.env.timers.map (·.2)).filterMap fun i => match i with
    | .serverRequest q => some q
    | .weighhouseAtomic q => some q
    | _ => none) ++ s.srv.pending ++ s.srv.weigh.map (·.req)
def State.unheard (s : State) : List ServerReq := s.env.outside.filterMap fun x => match x.2 with | .clusterWrite q _ => some q | _ => none

/-- A write that served a read of the party, before the release of a request, still stands in the buffer (R297, R298). -/
def State.carries (s : State) (q : ServerReq) : Bool :=
  q.order.rel && s.cl.served.any fun x => x.1 == q.order.party && decide (x.2.1 < q.order.no) && s.cl.buffer.any fun b => b.key == x.2.2

/-- A request of another party waits behind an earlier one of that party: to a common location, a write before its release, a read or atomic before its acquire, a write that has not reached the buffer before a release of any scope, and what the release carries (R292, R296 to R298). -/
def State.behindParty (s : State) (q : ServerReq) : Bool :=
  (s.otherReqs.any fun e => !e.own && e.order.party == q.order.party && decide (e.order.no < q.order.no) &&
    (meets (reqSpan e) (reqSpan q) || (q.order.rel && !reqIsRead e) || (q.order.acq && !reqIsWrite e))) ||
  (s.unheard.any fun e => e.order.party == q.order.party && decide (e.order.no < q.order.no) &&
    (meets (reqSpan e) (reqSpan q) || q.order.narrow || q.order.rel)) || s.carries q

/-- A write of another core of the cluster does not enter the buffer yet: behind an earlier one of its party, an earlier read of the location, or what its release or acquire waits for (R292, R293, R296 to R298). -/
def State.entryWaits (s : State) (q : ServerReq) : Bool :=
  (s.otherReqs.any fun e => !e.own && e.order.party == q.order.party && decide (e.order.no < q.order.no) &&
    ((meets (reqSpan e) (reqSpan q) && reqIsRead e) || (q.order.rel && !reqIsRead e) || (q.order.acq && !reqIsWrite e))) ||
  (s.unheard.any fun e => e.order.party == q.order.party && decide (e.order.no < q.order.no)) || s.carries q

/-- An earlier access of the request's own context to a common location has not been performed; a read behind an XST that the buffer holds is served from there (R292, R293). -/
def State.behindOwn (s : State) (q : ServerReq) : Bool :=
  match s.reqOf q.id with
  | none => false
  | some me => s.core.reqs.any fun e => decide (e.id < q.id) && e.res == me.res && e.ctx == me.ctx &&
      !(reqIsRead q && e.kind == 1 && e.buffered) && e.spans.any fun p => meets p (reqSpan q)

/-- A request is held: behind an earlier access of its party (R292), behind a buffered atomic or copy, or behind an older buffered write of the location (R293). -/
def State.heldBack (s : State) (q : ServerReq) : Bool :=
  (if q.own then s.behindOwn q else s.behindParty q) ||
  (s.bufferBefore q).any fun b => (b.atomic || !reqIsRead q) && meets b.span (reqSpan q)

/-- The newest buffered write that holds a byte, with its number (R293). -/
def forward (buf : List Buffered) (k : Nat) : Option (Nat × Byte) :=
  buf.foldl (fun r b =>
    let a := serverKey b.pkg b.addr
    if !b.atomic && decide (a ≤ k) && decide (k < a + b.data.length) then some (b.key, b.data.getD (k - a) 0) else r) none

/-- A copy is held at the network interface: an earlier entry of the buffer touches its bytes, or an earlier access of its context does (R292, R293, R297). -/
def State.copyWaits (s : State) (q : Req) : Bool :=
  ((s.cl.buffer.takeWhile fun b => !(b.own && b.id == q.id)).any fun b => q.spans.any (meets b.span)) ||
  (s.core.reqs.any fun e => decide (e.id < q.id) && e.res == q.res && e.ctx == q.ctx && e.spans.any fun a => q.spans.any fun b => meets a b)

/-! ### Injection (R292, R293, R393, R423, R481) -/

/-- The network interface holds an item: a request or a copy that an earlier access must precede (R292, R293). -/
def State.holds (s : State) (o : Out) : Bool :=
  match o with
  | .request q _ => s.heldBack q
  | .copyRequest p => (s.reqOf p.id).any s.copyWaits
  | _ => false

/-- An item whose last byte has credit enters the router by the local port, with age 0. -/
def State.toRouter (s : State) (x : Inject) : State :=
  let place := match x.item with
    | .cast _ (d :: _) => some d.place
    | o => s.itemTarget x.order o
  match place, x.item.vc with
  | some t, some vc => (s.openContext x.item t).enterRouter ⟨x.item, x.order, vc, t, portLocal, 0, s.core.cycle⟩
  | _, _ => s

/-- The offset of a part of a request. -/
def Req.partOff (q : Req) (part : Nat) : Nat :=
  match q.spans with
  | [] => 0
  | p :: _ => ((pieces 3 0 p.1 q.len).getD part (0, 0, 0)).1

/-- A read finds some of its bytes in the cluster's buffer: it is served those, with the numbers of the writes; true where it finds all of them (R202, R293). -/
def State.forwardRead (s : State) (q : ServerReq) (n : Nat) : State × Bool :=
  match s.reqOf q.id with
  | none => (s, true)
  | some me =>
    let got := (List.range n).filterMap fun o => (forward s.cl.buffer (serverKey q.pkg q.addr + o)).map fun x => (o, x)
    let s1 := s.modRes me.res fun r => r.modCtx me.ctx fun c => { c with served := (got.map fun x => x.2.1).foldl setAdd c.served }
    if n ≠ 0 ∧ got.length = n then (s1.post (.xldResponse q.id q.part (got.map fun x => x.2.2) none), true)
    else (s1.modReq q.id fun x => { x with got := x.got ++ got.map fun y => (me.partOff q.part + y.1, y.2.2) }, false)

/-- An item leaves the network interface. A read that the store buffer serves whole goes no further; a request of an access that is over goes nowhere. -/
def State.leaveNi (s : State) (x : Inject) : State :=
  match x.item with
  | .request q _ =>
    match s.reqOf q.id with
    | none => s
    | some _ =>
      match q.op with
      | .read n => if (s.forwardRead q n).2 then (s.forwardRead q n).1 else ((s.forwardRead q n).1.startTimer q.id).toRouter x
      | _ => (s.startTimer q.id).toRouter x
  | .copyRequest p => (s.startTimer p.id).toRouter x
  | _ => s.toRouter x

/-- A request or a copy leaves in the cycle in which it is made, unless it is held (R481). -/
def State.sendOut (s : State) (o : Out) : State :=
  if s.holds o then s.modCore fun c => { c with ni := c.ni ++ [⟨o, 0, o.size⟩] } else s.leaveNi ⟨o, 0, o.size⟩

/-- Bytes that a list of residencies has room for on a channel. -/
def roomFor (l : List (Rank × Nat × Nat)) (limit vc : Nat) (ds : List Rank) : Option Nat :=
  (ds.map fun d => limit - flying l d vc).min?

/-- Bytes that go into flight towards each of a list of residencies. -/
def takeRoom (vc n : Nat) : List Rank → List (Rank × Nat × Nat) → List (Rank × Nat × Nat)
  | [], l => l
  | d :: t, l => takeRoom vc n t (flyingSet l d vc (flying l d vc + n))

/-- Inject what nothing holds and credit allows, each residency's and channel's items in order. -/
def injectAll : List Inject → List (Rank × Nat) → State → State
  | [], _, s => s
  | x :: t, held, s =>
    let ds := x.item.tos
    let keep (y : Inject) (s : State) : State := s.modCore fun c => { c with ni := c.ni ++ [y] }
    if s.holds x.item then injectAll t held (keep x s)
    else match x.item.limit, x.item.vc with
    | some l, some vc =>
      let keys := ds.map fun d => (d, vc)
      if !x.item.bypasses && keys.any held.contains then injectAll t (held ++ keys) (keep x s)
      else
        let n := min x.left ((roomFor s.core.inFlight l vc ds).getD x.left)
        let s1 := s.modCore fun c => { c with inFlight := takeRoom vc n ds c.inFlight }
        if n = x.left then injectAll t held (s1.toRouter x)
        else injectAll t (held ++ keys) (keep { x with left := x.left - n } s1)
    | _, _ => injectAll t held (s.leaveNi x)

/-- One cycle of the network interface. -/
def State.injectStep (s : State) : State := injectAll s.core.ni [] (s.modCore fun c => { c with ni := [] })

/-- Send the pieces of a request to the servers (R191, R193). -/
def State.sendPieces (s : State) (q : Req) (op : Nat → Nat → ServerOp) : List (Nat × Nat × Nat) → Nat → State
  | [], _ => s
  | p :: t, k => (s.sendOut (.request ⟨q.id, k, true, q.pkg, p.2.1, op p.1 p.2.2, .own⟩ false)).sendPieces q op t (k + 1)

/-- Send the active message of a copy to its Porter; one of which no source byte relocates goes no further than the network interface. -/
def State.sendCopy (s : State) (q : Req) : State :=
  let p : PorterCopy := ⟨q.id, true, q.kind == 5, q.porter⟩
  if Rank.core q.porter = 0 then s.post (.porterActiveMessage p) else s.sendOut (.copyRequest p)

/-! ### Entering the store buffer (R202, R292, R293) -/

/-- The buffer's entries of an atomic, or of a copy to server memory: they hold the bytes they will touch. -/
def Req.holdEntries (q : Req) : List Buffered :=
  (if q.kind = 4 then q.dspans else q.spans).zipIdx.map fun p => ⟨q.id, true, p.2, p.1.1 / 2 ^ 41, p.1.1 % 2 ^ 41, List.replicate p.1.2 0, true⟩

/-- A write stays out of the buffer while an earlier read of its context at a common location has not been performed (R292). -/
def State.readsBefore (s : State) (q : Req) : Bool :=
  s.core.reqs.any fun e => decide (e.id < q.id) && e.res == q.res && e.ctx == q.ctx &&
    ((e.kind == 0 && e.parts != 0) || 4 ≤ e.kind.toNat) && e.spans.any fun a => q.spans.any fun b => meets a b

/-- Atomics and copies enter the buffer in issue order, behind the stores issued before them, on fuel; a store enters when its source has been read (R293). -/
def State.enterUpTo : Nat → State → State
  | 0, s => s
  | n + 1, s =>
    match s.core.reqs.find? Req.unentered with
    | none => s
    | some q =>
      if q.kind = 1 ∨ s.readsBefore q then s
      else
        let s1 := (s.modReq q.id fun x => { x with buffered := true })
        let s2 := { s1 with cl := { s1.cl with buffer := s1.cl.buffer ++ q.holdEntries } }
        let s3 := match q.atom, q.spans with
          | some a, p :: _ => s2.sendOut (.request ⟨q.id, 0, true, q.pkg, p.1 % 2 ^ 41, .atomic a, .own⟩ (q.endpoint == 2032))
          | _, _ => s2.sendCopy q
        s3.enterUpTo n

/-- Every atomic and copy whose turn has come enters the buffer. -/
def State.enterWrites (s : State) : State := s.enterUpTo s.core.reqs.length

end Sys2Proof.Machine
end

