-- ==== Sys2Proof/Machine/Server.lean ====
section
/-!
DEFINITION. Server accesses of a core: relocation, routing, requests, their completion, and the fences (R189 to R196, R202, R203, R291 to R293, R422, R430, R432).
-/

namespace Sys2Proof.Machine

open Sys2Proof

/-! ### Issue checks shared by the server instructions -/

/-- Steps 1 to 3 of R49 for a tenant pointer, which window 0 fails. -/
def tenantForm (p : Word) (len : Nat) (write atomic : Bool) (slot : Nat) : Option TrapReq :=
  let a : Access := ⟨p, len, write, atomic, slot, 0, false⟩
  if ptrWin p = 0 then some (a.trap Cause.windowFault 0) else a.form true

/-- The dead-peer bitmap's PEER_DEAD, found at issue (R191, R374). -/
def State.deadAt (s : State) (pkg slot : Nat) : Option TrapReq :=
  if pkg ≠ s.srv.pkg ∧ s.r.deadPeers.contains pkg then some (trapWith Cause.peerDead (BitVec.ofNat 64 slot) (BitVec.ofNat 64 pkg)) else none

/-- The regions that serve as scratchpad for a transfer (R191, R388). -/
def scratchRegion : Region → Bool
  | .user => true
  | .pigeon => true
  | .save => true
  | .aux => true
  | .foreign => true
  | _ => false

/-- The package number in an operand's low 16 bits (R43). -/
def pkgWord (x : Word) : Nat := field x 0 16

/-! ### XLD and XST (R191, R193) -/

/-- The local access of XLD (a store at s[ra]) and of XST (a load at s[rb]). -/
def moveAccess (h : CHdr) (r : BitVec 5) (len : BitVec 9) (write : Bool) (slot : Nat) (s : State) : Access :=
  ⟨s.c.reg h.s r, len.toNat, write, false, slot, 0, false⟩

/-- The checks of XLD and XST: the local end, then the tenant end. -/
def moveCheck (h : CHdr) (a loc ten c : BitVec 5) (x : Bool) (len : BitVec 9) (load : Bool) (slot : Nat) (s : State) : Option TrapReq :=
  let t := s.c.reg h.s ten
  s.checkAccess (moveAccess h loc len load slot s) <|>
  illegalIf (!scratchRegion (s.accessRegion (moveAccess h loc len load slot s))) slot (s.c.reg h.s a) <|>
  tenantForm t len.toNat (!load) false slot <|>
  (if ptrWin t = 3 then s.deadAt (pkgWord (s.c.regX h.s c x)) slot else none)

/-- Register the local end of a transfer of n bytes in the range table (R200). -/
def State.guardArea (s : State) (k : RangeKind) (p : Word) (n : Nat) : State × Option (Fin 32) :=
  if n = 0 then (s, none) else s.rangeAdd k (ptrOff p) (ptrOff p + n - 1) s.curRes

def opXld (h : CHdr) (a b c : BitVec 5) (x : Bool) (ch : BitVec 3) (len : BitVec 9) : Op :=
  { withAccess (opM h) (moveAccess h a len true) with
    check := moveCheck h a a b c x len true
    ranges := fun _ => if len = 0 then 0 else 1
    units := fun _ => ⟨1, 0, 0⟩
    wait := fun s => s.stalled (moveAccess h a len true 0 s)
    banks := fun _ => []
    eff := fun s =>
      let src := s.c.reg h.s b
      let pkg := s.pkgOf src (pkgWord (s.c.regX h.s c x))
      let g := s.guardArea .stall (s.c.reg h.s a) len.toNat
      let q := { s.newReq h 0 b a with chan := some (ch, s.nextTid ch), pkg := pkg, len := len.toNat, range := g.2, slot := true }
      let s1 := g.1.takeTid ch
      match s.place s.r.extents src 0 pkg len.toNat s.r.order with
      | .error f => (s1.enterReq q).post (.xldResponse q.id 0 [] (some f))
      | .ok p =>
        let ps := pieces 3 0 p.1 len.toNat
        let q1 := { q with endpoint := p.2, parts := ps.length, spans := [(serverKey pkg p.1, len.toNat)] }
        (s1.enterReq q1).sendPieces q1 (fun _ n => .read n) ps 0 }

/-- XLD (R191). -/
def execXld (h : CHdr) (a b c : BitVec 5) (x : Bool) (ch : BitVec 3) (len : BitVec 9) (s : State) : Result :=
  runOne (opXld h a b c x ch len) s

def opXst (h : CHdr) (a b c : BitVec 5) (x : Bool) (ch : BitVec 3) (len : BitVec 9) : Op :=
  { withAccess (opM h) (moveAccess h b len false) with
    check := moveCheck h a b a c x len false
    ranges := fun _ => if len = 0 then 0 else 1
    units := fun s => ⟨0, 1, (pieces 3 0 (ptrOff (s.c.reg h.s a)) len.toNat).length⟩
    wait := fun s => s.stalled (moveAccess h b len false 0 s)
    banks := fun _ => []
    eff := fun s =>
      let dst := s.c.reg h.s a
      let pkg := s.pkgOf dst (pkgWord (s.c.regX h.s c x))
      let g := s.guardArea .trap (s.c.reg h.s b) len.toNat
      let q := { s.newReq h 1 a b with chan := some (ch, s.nextTid ch), pkg := pkg, len := len.toNat, range := g.2, ack := true }
      let q1 := match s.place s.r.extents dst 1 pkg len.toNat s.r.order with
        | .error f => { q with fail := some f }
        | .ok p => { q with endpoint := p.2, parts := (pieces 3 0 p.1 len.toNat).length, spans := [(serverKey pkg p.1, len.toNat)] }
      ((g.1.takeTid ch).enterReq q1).post .xstSourceRead }

/-- XST (R193). -/
def execXst (h : CHdr) (a b c : BitVec 5) (x : Bool) (ch : BitVec 3) (len : BitVec 9) (s : State) : Result :=
  runOne (opXst h a b c x ch len) s

/-! ### XAT and XATR (R194, R195) -/

/-- The width in bytes of an atomic's width code (R123). -/
def atomBytes (w : BitVec 2) : Nat := 4 * 2 ^ w.toNat

/-- The checks of XAT and XATR, in the order of R194. -/
def atomCheck (h : CHdr) (a c : BitVec 5) (x : Bool) (w : BitVec 2) (slot : Nat) (s : State) : Option TrapReq :=
  let t := s.c.reg h.s a
  let acc : Access := ⟨t, atomBytes w, false, true, slot, atomBytes w, false⟩
  tenantForm t (atomBytes w) false true slot <|>
  (if ptrOff t % atomBytes w ≠ 0 then some (acc.trap Cause.misaligned 0) else none) <|>
  (if ptrWin t = 3 then s.deadAt (pkgWord (s.c.regX h.s c x)) slot else none)

/-- The atomic that an operand group names (R194). -/
def atomOf (h : CHdr) (b : BitVec 5) (w : BitVec 2) (op : BitVec 4) (c : Ctx) : Atomic :=
  let r (k : BitVec 5) : Nat := (c.reg h.s (b + k)).toNat
  if op = 9 then
    (if w = 2 then ⟨op, 16, r 2 + 2 ^ 64 * r 3, r 0 + 2 ^ 64 * r 1⟩ else ⟨op, 8, r 1, r 0⟩)
  else ⟨op, atomBytes w, r 0, 0⟩

/-- The extension word of an atomic, as NOT_IMPLEMENTED reports it (R123). -/
def atomExt (pk : Bool) (w : BitVec 2) (op : BitVec 4) : BitVec 32 := BitVec.ofNat 32 (op.toNat + w.toNat <<< 4 + pk.toNat <<< 6)

/-- A relocated atomic takes its turn to enter the store buffer; one that does not relocate is answered at once (R190, R194). -/
def State.sendAtomic (s : State) (h : CHdr) (q : Req) (a b : BitVec 5) (pk : Bool) (w : BitVec 2) (op : BitVec 4) : State :=
  match s.place s.r.extents (s.c.reg h.s a) 2 q.pkg (atomBytes w) s.r.order with
  | .error f =>
    let s1 := s.enterReq { q with buffered := true }
    if q.kind = 3 then s1.post (.xatrResponse q.id 0 (some f)) else s1.post (.serverAck q.id 0 (some f))
  | .ok p =>
    let q1 := { q with endpoint := if pk then 2032 else p.2, spans := [(serverKey q.pkg p.1, atomBytes w)], atom := some (atomOf h b w op s.c) }
    (s.enterReq q1).enterWrites

def opXat (h : CHdr) (a b c : BitVec 5) (x pk : Bool) (w : BitVec 2) (op : BitVec 4) : Op :=
  { opM h with
    check := atomCheck h a c x w
    units := fun _ => ⟨0, 1, 1⟩
    eff := fun s =>
      let q := { s.newReq h 2 a b with
        pkg := s.pkgOf (s.c.reg h.s a) (pkgWord (s.c.regX h.s c x)), len := atomBytes w, ack := true, ext := atomExt pk w op }
      s.sendAtomic h q a b pk w op }

/-- XAT (R194, R195). -/
def execXat (h : CHdr) (a b c : BitVec 5) (x pk : Bool) (w : BitVec 2) (op : BitVec 4) (s : State) : Result :=
  runOne (opXat h a b c x pk w op) s

def opXatr (h : CHdr) (a b c : BitVec 5) (x pk : Bool) (w : BitVec 2) (op : BitVec 4) : Op :=
  { opM h with
    dests := if w = 2 then [.s (regOf h.s a), .s (regOf h.s (a + 1))] else [.s (regOf h.s a)]
    check := atomCheck h a c x w
    units := fun _ => ⟨1, 0, 1⟩
    eff := fun s =>
      let q := { s.newReq h 3 a b with
        pkg := s.pkgOf (s.c.reg h.s a) (pkgWord (s.c.regX h.s c x)), len := atomBytes w, slot := true, ext := atomExt pk w op }
      let s1 := s.modC fun c =>
        { c with awaits := c.awaits ++ [⟨q.id, .s (regOf h.s a), if w = 2 then some (.s (regOf h.s (a + 1))) else none, c.mode, false⟩] }
      s1.sendAtomic h q a b pk w op }

/-- XATR (R194, R195). -/
def execXatr (h : CHdr) (a b c : BitVec 5) (x pk : Bool) (w : BitVec 2) (op : BitVec 4) (s : State) : Result :=
  runOne (opXatr h a b c x pk w op) s

/-! ### Porter copies (R197 to R199) -/

/-- The byte offsets of a nest's runs in LOOP order, dimension 0 fastest (R199). -/
def Nest.runs (n : Nest) : List Int :=
  (List.finRange 6).reverse.foldl (fun acc d => acc.flatMap fun o =>
    (List.range (n.bound.get d).toNat).map fun i => o + (i : Int) * (n.stride.get d).toInt) [0]

/-- The runs of a copy: the whole source where it names no nest. -/
def copyRuns (n : Option Nest) : List Int := match n with | none => [0] | some n => n.runs

/-- A piece of a copy: stream offset, source offset within its window, and length. -/
structure Chunk where
  x : Nat
  src : Nat
  len : Nat

/-- The line of the destination that a piece does not cross: 16 words of the accumulators, which a landing writes in one cycle, or 256 bytes elsewhere (R365). -/
def lineOf (o : Nat) : Nat := if 0x200000 ≤ o ∧ o < 0x240000 then 64 else 256

/-- Cut one run into pieces that cross no line of the destination and no dealt block, on fuel: no aligned word of a run is torn (R199, R287). `toOff` gives the destination offset of a stream byte. -/
def cutRun (toOff : Nat → Nat) : Nat → Nat → Nat → Nat → Nat → List Chunk
  | 0, _, _, _, _ => []
  | k + 1, x, src, len, block =>
    if len = 0 then []
    else
      let n := min len (min (lineOf (toOff x) - toOff x % lineOf (toOff x)) (if block = 0 then 256 else block - x % block))
      ⟨x, src, n⟩ :: cutRun toOff k (x + n) (src + n) (len - n) block

/-- The pieces of a copy in stream order. -/
def copyChunks (src : Word) (toOff : Nat → Nat) (run : Nat) (nest : Option Nest) (block : Nat) : List Chunk :=
  (((copyRuns nest).zipIdx).map fun p => cutRun toOff run (p.2 * run) (ptrOff (ptrAdd src p.1)) run block).flatten

/-- The server bytes of ranges that relocate, for R292. -/
def State.chunkSpans (s : State) (p : Word) (pkg right : Nat) (cs : List (Nat × Nat)) : List (Nat × Nat) :=
  (cs.flatMap fun c => pieces 3 0 c.1 c.2).filterMap fun c =>
    match s.place s.r.extents (ptrAdd p ((c.2.1 : Int) - ptrOff p)) right pkg c.2.2 s.r.order with
    | .ok a => some (serverKey pkg a.1, c.2.2)
    | .error _ => none

/-- The Porter of a copy: it stands beside the server of the source's first granule, of the first one that relocates; endpoint 0 where none does (R198, R429). -/
def State.porterOf (s : State) (src : Word) (pkg run : Nat) (nest : Option Nest) : Rank :=
  let first := fun (p : Word) => match s.place s.r.extents p 0 pkg 1 s.r.order with | .ok a => some a.2 | .error _ => none
  let granules := (copyRuns nest).flatMap fun o => (List.range (run / 4096 + 1)).map fun k => ptrAdd src (o + (4096 * k : Nat))
  BitVec.ofNat 27 (pkg <<< 11 + (((src :: granules).findSome? first).getD 0))

/-- The product of a nest's bounds. -/
def Nest.volume (n : Nest) : Nat := ((List.finRange 6).map fun d => (n.bound.get d).toNat).foldl (· * ·) 1

/-- The total length of a copy (R198). -/
def copyTotal (n : Option Nest) (run : Nat) : Nat := match n with | none => run | some n => run * n.volume

/-- The nest that a copy names. -/
def Res.nestIf (r : Res) (ne : Bool) (k : BitVec 3) : Option Nest := if ne then some (r.nest k) else none

/-- The same as the bundle of the copy found it, whatever an NDLD beside the copy has loaded (R97). -/
def State.nestAt (s : State) (ne : Bool) (k : BitVec 3) : Option Nest := if ne then some (s.core.nestsBefore.get ⟨k.toNat, k.isLt⟩) else none

/-- The control word of a copy: run length and package (R197). -/
def copyRun (x : Word) : Nat := field x 0 32
def copyPkg (x : Word) : Nat := field x 32 16

/-- A copy's checks 1 to 3 (R198), after the window forms of R49. -/
def copyCheck (h : CHdr) (a b : BitVec 5) (rc : Word) (slot : Nat) (s : State) : Option TrapReq :=
  let src := s.c.reg h.s b
  let dst := s.c.reg h.s a
  let acc (p : Word) (w : Bool) : Access := ⟨p, copyRun rc, w, false, slot, 0, true⟩
  (if ptrWin src = 0 then some (issueTrap Cause.illegalOperand slot dst) else (acc src false).form true) <|>
  illegalIf (field rc 48 16 != 0) slot dst <|>
  (if ptrWin src = 3 ∨ ptrWin dst = 3 then s.deadAt (copyPkg rc) slot else none)

/-- The local destination of CPY as an access of the total length; the alignment that AW requires is an operand check, after those of R49 (R48, R198). -/
def cpyAccess (h : CHdr) (a : BitVec 5) (aw : Bool) (total slot : Nat) (s : State) : Access := ⟨s.c.reg h.s a, total, true, false, slot, aw.toNat, true⟩

/-- The total of a CPY from its operands. -/
def cpyTotal (h : CHdr) (c : BitVec 5) (x : Bool) (nest : BitVec 3) (ne : Bool) (s : State) : Nat :=
  copyTotal (s.r.nestIf ne nest) (copyRun (s.c.regX h.s c x))

/-- The destination of CPY is local. -/
def cpyLocal (h : CHdr) (a : BitVec 5) (s : State) : Bool := ptrWin (s.c.reg h.s a) == 0

def opCpy (h : CHdr) (a b c : BitVec 5) (x aw : Bool) (nest : BitVec 3) (ne : Bool) (ch : BitVec 3) : Op :=
  let acc (slot : Nat) (s : State) := cpyAccess h a aw (cpyTotal h c x nest ne s) slot s
  { opM h with
    check := fun slot s =>
      let rc := s.c.regX h.s c x
      let dst := s.c.reg h.s a
      copyCheck h a b rc slot s <|>
      (if cpyLocal h a s then s.checkAccess (acc slot s) else (acc slot s).form true) <|>
      illegalIf (aw && !(cpyLocal h a s && s.accessRegion (acc slot s) == .acc && copyRun rc % 4 == 0 && ptrOff dst % 4 == 0)) slot dst
    touch := fun s => if cpyLocal h a s then s.touches (s.accessRegion (acc 0 s)) else (false, false)
    ranges := fun s => if cpyLocal h a s && cpyTotal h c x nest ne s != 0 then 1 else 0
    units := fun s => ⟨0, 1, if cpyLocal h a s then 0 else 1⟩
    wait := fun s => cpyLocal h a s && (s.stalled (acc 0 s) || s.busy (ptrOff (acc 0 s).ptr) (acc 0 s).len)
    eff := fun s =>
      let rc := s.c.regX h.s c x
      let total := copyTotal (s.nestAt ne nest) (copyRun rc)
      let g := if cpyLocal h a s then s.guardArea .stall (s.c.reg h.s a) total else (s, none)
      let q := { s.newReq h 4 b a with
        chan := some (ch, s.nextTid ch), pkg := s.pkgOf (s.c.reg h.s b) (copyPkg rc), dpkg := s.pkgOf (s.c.reg h.s a) (copyPkg rc),
        len := copyRun rc, range := g.2, ack := true, buffered := cpyLocal h a s, nest := s.nestAt ne nest, add := aw, total := total,
        dst := s.c.reg h.s a, porter := s.porterOf (s.c.reg h.s b) (s.pkgOf (s.c.reg h.s b) (copyPkg rc)) (copyRun rc) (s.nestAt ne nest) }
      let cs := copyChunks q.ptr (fun x => ptrOff q.dst + x) q.len q.nest 0
      let d := if cpyLocal h a s then [] else s.chunkSpans q.dst q.dpkg 1 (cs.map fun c => (ptrOff q.dst + c.x, c.len))
      let q := { q with spans := s.chunkSpans q.ptr q.pkg 0 (cs.map fun c => (c.src, c.len)) ++ d, dspans := d }
      let s1 := (g.1.takeTid ch).enterReq q
      if cpyLocal h a s then s1.sendCopy q else s1.enterWrites }

/-- CPY (R197 to R199). -/
def execCpy (h : CHdr) (a b c : BitVec 5) (x aw : Bool) (nest : BitVec 3) (ne : Bool) (ch : BitVec 3) (s : State) : Result :=
  runOne (opCpy h a b c x aw nest ne ch) s

/-- The fields of a distribution word (R146). -/
def dtBlock (w : Word) : Nat := field w 0 16
def dtGrid (w : Word) : Nat := field w 18 11
def dtCstep (w : Word) : Nat := field w 29 11

/-- Dimension d of table n. -/
def Res.dist (r : Res) (n : BitVec 2) (d : Nat) : Word := r.dt.get ⟨(4 * n.toNat + d) % 16, Nat.mod_lt _ (by decide)⟩

/-- A copy that must ask for leave (R199, R415). -/
def heavyCopy (total : Nat) : Bool := decide (16384 < total)

/-- Send a dealt copy to its Porter, once it holds leave where it is heavy (R415, R417). -/
def State.sendDeal (s : State) (q : Req) : State :=
  if !heavyCopy q.total then s.sendCopy q
  else if s.core.leaveHeld then (s.modCore fun c => { c with leaveUse := c.leaveUse + 1 }).sendCopy q
  else (s.modCore fun c => { c with leaveCopies := c.leaveCopies ++ [q.id] }).askLeave

/-- The table of a CPYD deals by dimension 0 alone (R198). -/
def Res.dealable (r : Res) (n : BitVec 2) : Bool :=
  (dtBlock (r.dist n 0) != 0 && dtGrid (r.dist n 0) != 0) &&
  ([1, 2, 3].all fun d => dtBlock (r.dist n d) == 0 || dtGrid (r.dist n d) == 0)

def opCpyd (h : CHdr) (a b c : BitVec 5) (x : Bool) (core : BitVec 11) (mb : BitVec 4) (me : Bool) (dt : BitVec 2) (nest : BitVec 3) (ne : Bool) (ch : BitVec 3) : Op :=
  { opM h with
    check := fun slot s =>
      copyCheck h a b (s.c.regX h.s c x) slot s <|>
      illegalIf (!(ptrWin (s.c.reg h.s a) == 0 && s.r.dealable dt)) slot (s.c.reg h.s a)
    units := fun _ => ⟨0, 1, 0⟩
    eff := fun s =>
      let rc := s.c.regX h.s c x
      let q := { s.newReq h 5 b a with
        chan := some (ch, s.nextTid ch), pkg := s.pkgOf (s.c.reg h.s b) (copyPkg rc),
        len := copyRun rc, ack := true, nest := s.nestAt ne nest, dt0 := s.r.dist dt 0, core0 := core.toNat,
        mbox := if me then some mb else none, total := copyTotal (s.nestAt ne nest) (copyRun rc), dst := s.c.reg h.s a,
        porter := s.porterOf (s.c.reg h.s b) (s.pkgOf (s.c.reg h.s b) (copyPkg rc)) (copyRun rc) (s.nestAt ne nest),
        binding := s.r.orderCores.map fun x => (x, s.physicalOf s.r.order x) }
      let q := { q with spans := s.chunkSpans q.ptr q.pkg 0 ((copyChunks q.ptr (fun x => x) q.len q.nest (dtBlock q.dt0)).map fun c => (c.src, c.len)) }
      ((s.takeTid ch).enterReq q).sendDeal q }

/-- CPYD (R197 to R199). -/
def execCpyd (h : CHdr) (a b c : BitVec 5) (x : Bool) (core : BitVec 11) (mb : BitVec 4) (me : Bool) (dt : BitVec 2) (nest : BitVec 3) (ne : Bool) (ch : BitVec 3) (s : State) : Result :=
  runOne (opCpyd h a b c x core mb me dt nest ne ch) s

/-! ### Fences (R202, R203, R298, R299) -/

/-- The requests of the present context. -/
def State.mine (s : State) : List Req := s.core.reqs.filter fun q => q.res == s.curRes && q.ctx == s.curCtx

/-- Every earlier XLD and XATR has returned its data or recorded its error. -/
def State.acquired (s : State) : Bool := s.mine.all fun q => !((q.kind == 0 || q.kind == 3) && q.parts != 0)

/-- Every earlier server write has entered the store buffer; at die scope and above, every one is acknowledged and so is every write that served a load. -/
def State.released (s : State) (wide : Bool) : Bool :=
  if wide then
    (s.mine.all fun q => !q.writes) && !(s.cl.buffer.any fun b => s.c.served.contains b.key)
  else s.mine.all fun q => !q.writes || q.buffered

/-- A FENCE that waits for a condition. -/
def opFence (h : CHdr) (ok : State → Bool) : Op := { opM h with wait := fun s => !ok s }

def opFenceAcq (h : CHdr) (_k : BitVec 4) : Op := opFence h State.acquired

/-- FENCE.acq (R202). -/
def execFenceAcq (h : CHdr) (k : BitVec 4) (s : State) : Result := runOne (opFenceAcq h k) s

def opFenceRel (h : CHdr) (k : BitVec 4) : Op := opFence h fun s => s.released (decide (3 ≤ k.toNat))

/-- FENCE.rel (R202). -/
def execFenceRel (h : CHdr) (k : BitVec 4) (s : State) : Result := runOne (opFenceRel h k) s

def opFenceFull (h : CHdr) (k : BitVec 4) : Op := opFence h fun s => s.acquired && s.released (decide (3 ≤ k.toNat))

/-- FENCE.full (R202). -/
def execFenceFull (h : CHdr) (k : BitVec 4) (s : State) : Result := runOne (opFenceFull h k) s

def opFenceExt (h : CHdr) : Op :=
  { opFence h (fun s => !(s.core.reqs.any fun q => q.res == s.curRes)) with
    eff := fun s => s.modR fun r => { r with extents := r.extentsPending } }

/-- FENCE.ext (R203). -/
def execFenceExt (h : CHdr) (s : State) : Result := runOne (opFenceExt h) s

end Sys2Proof.Machine
end

