-- ==== Sys2Proof/Machine/Fields.lean ====
section
/-!
DEFINITION. Event fields: the event queue, the engine's steps, firing, and the instructions FIELD, EVSEND, EVRUN and EVCTL (R281 to R284, R353 to R367).
-/

namespace Sys2Proof.Machine

open Sys2Proof

/-! ### Ranks (R254, R52) -/

/-- A rank operand's layout: reserved bits and core number. -/
def rankBad (x : Word) : Bool := field x 27 37 != 0 || decide (1151 < field x 0 11)

/-- The rank in an operand. -/
def rankOf (x : Word) : Rank := x.truncate 27

/-- The checks of a rank operand at issue (R254). -/
def State.rankCheck (s : State) (x : Word) (slot : Nat) (ra : Word) : Option TrapReq :=
  if rankBad x then some (issueTrap Cause.illegalOperand slot ra) else s.deadAt (Rank.pkg (rankOf x)) slot

/-- The rank names a core of this package outside every crew of the residency's work order, so the send is refused (R52). -/
def State.outsideOrder (s : State) (k : ResNo) (d : Rank) : Bool :=
  Rank.pkg d == s.srv.pkg && !(s.res.get k).orderCores.contains (Rank.core d)

/-- The residency of a work order that a message, event or command of that order reaches at this core (R282, R316). -/
def State.resOf (s : State) (order : Nat) : Option ResNo :=
  (List.finRange 4).find? fun k => (s.res.get k).phase.alive && (s.res.get k).order == order

/-! ### Fields and elements (R353) -/

/-- Change field f of a residency. -/
def Res.modField (r : Res) (f : BitVec 3) (g : EvField → EvField) : Res :=
  { r with fields := r.fields.set f.toNat (g (r.evField f)) f.isLt }

/-- ROWS′ and COLS′. -/
def EvField.rows (f : EvField) : Nat := f.rect.rows.toNat
def EvField.cols (f : EvField) : Nat := if f.ref = 0 then f.rect.cols.toNat else f.rect.cols.toNat / 2

/-- The memory keys of an element's v and of its refractory count. -/
def EvField.keyV (f : EvField) (r c : Nat) : Nat := f.rect.key r (if f.ref = 0 then c else 2 * c)
def EvField.keyRem (f : EvField) (r c : Nat) : Nat := f.rect.key r (2 * c + 1)

/-- The FP32 value of a 32-bit pattern. -/
def f32 (x : Nat) : Val := valueOf .fp32 x

/-- RoundRNE(x, FP32). -/
def rne32 (v : Val) : Nat := roundTo .fp32 0 0 v

/-- The event names an element of a bound field (R356). -/
def Res.evOk (r : Res) (e : EventRec) : Bool :=
  let f := r.evField e.fld
  f.bound && decide (e.row.toNat < f.rows) && decide (e.col.toNat < f.cols)

/-! ### The event queue (R357) -/

/-- Insert by TICK, behind entries of equal tick. -/
def queueIn : List QEvent → QEvent → List QEvent
  | [], q => [q]
  | x :: t, q => if x.ev.tick.toNat ≤ q.ev.tick.toNat then x :: queueIn t q else q :: x :: t

/-- The queue holds 4,096 entries. -/
def State.queueFull (s : State) : Bool := decide (4096 ≤ s.core.events.length)

/-- The information word of EVENT_REFUSED (R375). -/
def eventInfo (e : EventRec) : Word :=
  BitVec.ofNat 64 (e.tick.toNat + e.row.toNat <<< 32 + e.col.toNat <<< 40 + e.fld.toNat <<< 48)

/-- Put an event in the queue. -/
def State.enqueueEvent (s : State) (k : ResNo) (e : EventRec) : State :=
  s.modCore fun c => { c with events := queueIn c.events ⟨k, e⟩ }

/-- Post an error about an event to a residency's queue. -/
def State.eventError (s : State) (k : ResNo) (cause : BitVec 7) (c : CtxNo) (p : Pair) (dst : Rank) (info : Word) : State :=
  s.modRes k fun r => r.postError (errEntry cause c p 0 0 dst.toNat 0 info)

/-- Send an event of residency k towards a rank, as EVSEND and a firing do (R282, R361): this core's own goes to its queue, another's behind everything the core has queued to leave. A core number that R52 refuses is reported with the event itself in word 24, for which the spec gives no word (DESIGN CHOICE, log entry 71). -/
def State.sendEvent (s : State) (k : ResNo) (dst : Rank) (e : EventRec) (c : CtxNo) (p : Pair) : State :=
  if s.outsideOrder k dst then s.eventError k Cause.illegalOperand c p dst (eventInfo e)
  else if dst = (s.res.get k).rank then
    (if (s.res.get k).evOk e && !s.queueFull then s.enqueueEvent k e else s.eventError k Cause.eventRefused c p dst (eventInfo e))
  else s.modCore fun x => { x with leaving := x.leaving ++ [⟨.event dst e, [], k, true⟩] }

/-! ### The engine's steps (R358 to R361) -/

/-- What the engine does next. -/
inductive EngineStep where
  /-- Deliver an entry. -/
  | deliver (q : QEvent)
  /-- Advance a field. -/
  | advance (f : BitVec 3)
  deriving DecidableEq, Repr

/-- A dispatched task shares a word with the field's rectangle, so no step of the field starts (R366). -/
def State.fieldBlocked (s : State) (k : ResNo) (f : EvField) : Bool :=
  s.core.tasks.any fun t => t.res == k && t.dispatched && shareAcc ((taskUses t).ar ++ (taskUses t).aw) [f.rect]

/-- The earliest entry that its field has reached. -/
def State.dueEvent (s : State) (k : ResNo) : Option QEvent :=
  s.core.events.find? fun q =>
    let f := (s.res.get k).evField q.ev.fld
    q.res == k && f.bound && decide (q.ev.tick.toNat ≤ f.t.toNat) && !s.fieldBlocked k f

/-- The lowest field that may advance. -/
def State.dueField (s : State) (k : ResNo) : Option (BitVec 3) :=
  ((List.range 8).map (BitVec.ofNat 3)).find? fun n =>
    let f := (s.res.get k).evField n
    f.bound && decide (f.t.toNat < f.run.toNat) && decide ((f.t.toNat + 1) / f.tpr.toNat ≤ (s.res.get k).round.toNat) && !s.fieldBlocked k f

/-- The next step of the engine for the issuing residency (R358). -/
def State.engineDue (s : State) : Option (ResNo × EngineStep) :=
  match s.core.issuing with
  | none => none
  | some k =>
    if s.core.switch.isSome ∨ (s.res.get k).engineHeld ∨ (s.res.get k).phase ≠ .live then none
    else match s.dueEvent k with
      | some q => some (k, .deliver q)
      | none => (s.dueField k).map fun f => (k, .advance f)

/-- A step is in progress (R366). -/
def State.engineBusy (s : State) : Bool := decide (s.core.cycle.toNat < s.core.engineUntil.toNat)

/-- The event that is a step. -/
def EngineStep.event : EngineStep → Instr
  | .deliver _ => .eventDeliver
  | .advance _ => .fieldAdvance

/-- The engine looks for its next step, once the present one has ended. -/
def State.kick (s : State) : State :=
  match s.engineDue with
  | none => s
  | some (_, d) => if s.engineBusy || s.env.agenda.contains d.event then s else s.post d.event

/-- A fan-out entry's target (R355): none where the entry is not sent. -/
def fanTarget (lo hi : Nat) : Option (Rank × EventRec) :=
  if lo >>> 30 % 4 ≠ 0 ∨ lo >>> 48 ≠ 0 ∨ hi >>> 32 ≠ 0 ∨ 1151 < lo % 2 ^ 11 then none
  else some (BitVec.ofNat 27 lo,
    ⟨BitVec.ofNat 32 hi, 0, BitVec.ofNat 8 (lo >>> 32), BitVec.ofNat 8 (lo >>> 40), BitVec.ofNat 3 (lo >>> 27), 0⟩)

/-- Add one to a field's late count (R359). -/
def EvField.countLate (f : EvField) : EvField :=
  { f with late := BitVec.ofNat 32 (min (f.late.toNat + 1) (2 ^ 32 - 1)), sticky := true }

/-- One fan-out event of field n (R361): entry `i` of the table; one whose tick passes 2³² − 1 is counted late at the firing field. -/
def State.fanOut (s : State) (k : ResNo) (n : BitVec 3) (f : EvField) (nent row col i : Nat) (tick : Nat) : State :=
  let base := ptrOff f.ptr + 16 + 16 * ((4 * (f.rows * f.cols) + 15) / 16) + 16 * i
  let t := { s with curRes := k }
  let bad : State := s.eventError k Cause.illegalOperand 0 0 0 (BitVec.ofNat 64 (row + col <<< 8))
  if nent ≤ i then bad
  else match fanTarget (t.readLocal base 8) (t.readLocal (base + 8) 8) with
    | none => bad
    | some (dst, e) =>
      if 2 ^ 32 ≤ tick then s.modRes k fun r => r.modField n EvField.countLate
      else if Rank.pkg dst ≠ s.srv.pkg ∧ (s.res.get k).deadPeers.contains (Rank.pkg dst) then s.eventError k Cause.peerDead 0 0 dst 1
      else s.sendEvent k dst { e with tick := BitVec.ofNat 32 tick, src := (s.res.get k).rank } 0 0

/-- The entries of a firing, one after another. -/
def fanAll (k : ResNo) (n : BitVec 3) (f : EvField) (nent row col tick : Nat) : List Nat → State → State
  | [], s => s
  | i :: t, s => fanAll k n f nent row col tick t (s.fanOut k n f nent row col i tick)

/-- The index word of an element: FIRST and COUNT (R355). -/
def State.indexWord (s : State) (k : ResNo) (f : EvField) (row col : Nat) : Nat × Nat :=
  let w := ({ s with curRes := k }).readLocal (ptrOff f.ptr + 16 + 4 * (row * f.cols + col)) 4
  (w % 2 ^ 20, w >>> 20 % 2 ^ 12)

/-- NENT of a field's fan-out table. -/
def State.entries (s : State) (k : ResNo) (f : EvField) : Nat := ({ s with curRes := k }).readLocal (ptrOff f.ptr) 4

/-- Fire (R361): element (row, col) of field n with v before reset. -/
def State.fire (s : State) (k : ResNo) (n : BitVec 3) (row col v : Nat) : State :=
  let f := (s.res.get k).evField n
  let s1 := s.modRes k fun r => r.modField n fun f => { f with fires := BitVec.ofNat 32 (min (f.fires.toNat + 1) (2 ^ 32 - 1)) }
  if f.out = 0 then
    let x := s.indexWord k f row col
    fanAll k n f (s.entries k f) row col (f.t.toNat + f.delay.toNat) ((List.range x.2).map (x.1 + ·)) s1
  else if f.out = 1 then
    let o := ptrOff f.ptr + 8 * (row * f.cols + col)
    s1.as k fun s => (s.writeLocal o 8 (f.t.toNat + v <<< 32)).setFull o true
  else if f.out = 2 then s1.modRes k fun r => r.credit (some f.mb) 1
  else s1

/-- The value v of an element after an event is added, before any reset, and whether it fires; none where the element is refractory (R359). -/
def State.integrate (s : State) (f : EvField) (e : EventRec) : Option (Nat × Bool) :=
  let row := e.row.toNat
  let col := e.col.toNat
  if f.ref ≠ 0 ∧ memNat s.core.mem (f.keyRem row col) 4 > 0 then none
  else
    let v := accAdd (memNat s.core.mem (f.keyV row col) 4) (f32 e.w.toNat)
    some (v, !(f32 f.theta.toNat).isInf && !(f32 v).isNaN && !((f32 v).lt (f32 f.theta.toNat)))

/-- The value that a firing leaves (R359). -/
def EvField.afterFire (f : EvField) (v : Nat) : Nat :=
  if f.reset = 0 then 0 else if f.reset = 1 then rne32 (Val.add false (f32 v) (f32 f.theta.toNat).negate) else v

/-- Deliver (R359): the entry leaves the queue last. -/
def State.deliver (s : State) (k : ResNo) (q : QEvent) : State :=
  let n := q.ev.fld
  let row := q.ev.row.toNat
  let col := q.ev.col.toNat
  let f := (s.res.get k).evField n
  let s1 := if q.ev.tick.toNat < f.t.toNat then s.modRes k fun r => r.modField n EvField.countLate else s
  let s2 := match s.integrate f q.ev with
    | none => s1
    | some (v, false) => s1.modCore fun c => c.put (f.keyV row col) (leBytes 4 v)
    | some (v, true) =>
      (s1.fire k n row col v).modCore fun c =>
        let c1 := c.put (f.keyV row col) (leBytes 4 (f.afterFire v))
        if f.ref = 0 then c1 else c1.put (f.keyRem row col) (leBytes 4 f.ref.toNat)
  s2.modCore fun c => { c with events := c.events.erase q }

/-- One tick's leak of the elements of a list (R360). -/
def leakAll (f : EvField) : List (Nat × Nat) → CoreSt → CoreSt
  | [], c => c
  | x :: t, c =>
    let v := rne32 (Val.mul (f32 f.leak.toNat) (f32 (memNat c.mem (f.keyV x.1 x.2) 4)))
    let c1 := c.put (f.keyV x.1 x.2) (leBytes 4 v)
    let rem := memNat c1.mem (f.keyRem x.1 x.2) 4
    leakAll f t (if f.ref ≠ 0 ∧ 0 < rem then c1.put (f.keyRem x.1 x.2) (leBytes 4 (rem - 1)) else c1)

/-- Cycles that one row of a field takes, and the whole field: 32 words a cycle (R360). -/
def EvField.rowCycles (f : EvField) : Nat := (f.rect.cols.toNat + 31) / 32
def EvField.cycles (f : EvField) : Nat := f.rows * f.rowCycles

/-- The elements that cycle i of an advance writes (R360). -/
def EvField.part (f : EvField) (i : Nat) : List (Nat × Nat) :=
  ((List.range f.cols).filter fun c => (if f.ref = 0 then c else 2 * c) / 32 == i % f.rowCycles).map fun c => (i / f.rowCycles, c)

/-- The bank that holds a row of a field. -/
def EvField.bank (f : EvField) (row : Nat) : Nat := f.rect.rblk.toNat + row / 32

/-- One cycle of an advance: up to 32 words of one row, through the bank's write port (R360, R365). -/
def EngineRun.cycle (x : EngineRun) (c : CoreSt) : CoreSt :=
  let c1 := leakAll x.fld (x.fld.part x.done) c
  { c1 with engineBanks := c1.engineBanks ++ [x.fld.bank (x.done / x.fld.rowCycles)],
            engineRun := if x.done + 1 < x.fld.cycles then some { x with done := x.done + 1 } else none }

/-- An advance in progress goes on in the cycle that begins. -/
def CoreSt.engineTick (c : CoreSt) : CoreSt := match c.engineRun with | some x => x.cycle c | none => c

/-- Advance (R360): the field time steps, and the first words are written. -/
def State.advanceField (s : State) (k : ResNo) (n : BitVec 3) : State :=
  (s.modCore (EngineRun.cycle ⟨(s.res.get k).evField n, 0⟩)).modRes k fun r => r.modField n fun f => { f with t := f.t + 1 }

/-- The fan-out entries that a delivery reads: those of a firing that lie in the table (R360, R361). -/
def State.entriesRead (s : State) (k : ResNo) (q : QEvent) : Nat :=
  let f := (s.res.get k).evField q.ev.fld
  match s.integrate f q.ev with
  | some (_, true) =>
    if f.out = 0 then
      let x := s.indexWord k f q.ev.row.toNat q.ev.col.toNat
      min x.2 (s.entries k f - x.1)
    else 0
  | _ => 0

/-- Cycles of a step (R360), and the bank it writes in its first cycle; a delivery writes in that one alone (DESIGN CHOICE, log entry 37). -/
def State.engineCost (s : State) (k : ResNo) : EngineStep → Nat
  | .deliver q => 1 + s.entriesRead k q
  | .advance f => ((s.res.get k).evField f).cycles
def State.engineUses (s : State) (k : ResNo) : EngineStep → Nat
  | .deliver q => ((s.res.get k).evField q.ev.fld).bank q.ev.row.toNat
  | .advance f => ((s.res.get k).evField f).bank 0

/-- The field of a step. -/
def EngineStep.fld : EngineStep → BitVec 3
  | .deliver q => q.ev.fld
  | .advance f => f

/-- Make a step that the residency owns the group for; a delivery to a refractory element writes nothing, and the Foreman looks again when the step ends (R359, R365, R366). -/
def State.engineMake (s : State) (k : ResNo) (d : EngineStep) : State :=
  let f := (s.res.get k).evField d.fld
  let s1 := match d with
    | .deliver q => (s.deliver k q).modCore fun c => { c with engineBanks := c.engineBanks ++ (if (s.integrate f q.ev).isSome then [s.engineUses k d] else []) }
    | .advance f => s.advanceField k f
  ((s1.modRes k fun r => { r with accLive := r.accLive ||| (1 <<< f.ad.toNat) }).modCore fun c =>
    { c with engineUntil := c.cycle + BitVec.ofNat 64 (s.engineCost k d), engineRect := f.rect }).after (s.engineCost k d) .foremanDispatch

/-- The step's touch of the accumulator group (R358): granted, cleared, or ACC_FIRST_USE at context 0. -/
def State.engineTouch (s : State) (k : ResNo) (d : EngineStep) : State :=
  match s.accOwner with
  | none => (s.grantAcc k).kick
  | some o =>
    if o ≠ k then
      (s.pendN k 0 Cause.accFirstUse
        (BitVec.ofNat 64 (o.val + (decide ((s.res.get o).tenant ≠ (s.res.get k).tenant)).toNat <<< 8)) (s.res.get o).accown).modRes k
        fun r => { r with engineHeld := true }
    else if s.core.accClear.isSome || (s.core.landingBanks ++ s.core.seqBanks).contains (s.engineUses k d) then s
    else s.engineMake k d

/-- EVENT_DELIVER (R358, R359, R365): a step whose bank has been written in this cycle waits for the next one. -/
def execEventDeliver (s : State) : Result :=
  match s.engineDue with
  | some (k, .deliver q) => .next (if s.engineBusy then s else s.engineTouch k (.deliver q))
  | _ => .next s.kick

/-- FIELD_ADVANCE (R358, R360, R365). -/
def execFieldAdvance (s : State) : Result :=
  match s.engineDue with
  | some (k, .advance f) => .next (if s.engineBusy then s else s.engineTouch k (.advance f))
  | _ => .next s.kick

/-- An input that has delivered its marker, or is closed to it, takes nothing more until the round edge (R348). -/
def Res.inputShut (r : Res) (peer : Rank) : Bool := r.inputs.any fun i => i.peer == peer && i.marked

/-! ### FIELD (R281, R354) -/

/-- The access of FIELD to its block. -/
def fieldAccess (h : CHdr) (a : BitVec 5) (slot : Nat) (s : State) : Access := ⟨s.c.reg h.s a, 64, false, false, slot, 0, false⟩

/-- A field as a block gives it (R354). -/
def fieldOfBlock (bs : List Byte) : EvField :=
  let n (o k : Nat) := leNat ((bs.drop o).take k)
  { EvField.unbound with
    bound := true
    leak := BitVec.ofNat 32 (n 0 4), theta := BitVec.ofNat 32 (n 4 4)
    reset := BitVec.ofNat 2 (n 8 1), out := BitVec.ofNat 2 (n 8 1 >>> 2), mb := BitVec.ofNat 4 (n 8 1 >>> 4)
    ref := BitVec.ofNat 8 (n 9 1), delay := BitVec.ofNat 32 (n 12 4), tpr := BitVec.ofNat 32 (n 16 4), ptr := BitVec.ofNat 64 (n 24 8) }

/-- A parameter of the block lies outside its legal values, but for PTR (R354). -/
def blockBad (bs : List Byte) : Bool :=
  let n (o k : Nat) := leNat ((bs.drop o).take k)
  let f := fieldOfBlock bs
  let l := f32 f.leak.toNat
  let th := f32 f.theta.toNat
  l.isNaN || l.lt (Val.ofInt 0) || (Val.ofInt 1).lt l || th.isNaN || (th.isInf && f.theta.getLsbD 31) || f.reset == 3 ||
  (f.mb != 0 && f.out != 2) || n 10 2 != 0 || (if f.out = 0 then decide (f.delay.toNat < f.tpr.toNat) else f.delay != 0) ||
  decide (f.tpr.toNat < 1) || decide (2 ^ 24 < f.tpr.toNat) || n 20 4 != 0 || n 32 32 != 0

/-- The bytes of the fan-out table, or of the full-word array (R355, R361). -/
def State.fieldArea (s : State) (f : EvField) : Nat :=
  let e := f.rows * f.cols
  if f.out = 0 then 16 + 16 * ((4 * e + 15) / 16) + 16 * s.readLocal (ptrOff f.ptr) 4 else 8 * e

/-- An area that PTR names passes R49, lies in the user scratchpad and is 8-byte aligned. -/
def State.ptrAreaOk (s : State) (p : Word) (len : Nat) (write : Bool) : Bool :=
  let a : Access := ⟨p, len, write, false, 0, 0, false⟩
  ptrWin p == 0 && (s.checkAccess a).isNone && s.accessRegion a == .user && ptrOff p % 8 == 0

/-- PTR breaks R354. -/
def State.ptrBad (s : State) (f : EvField) : Bool :=
  if f.out = 0 then !(s.ptrAreaOk f.ptr 16 false) || !(s.ptrAreaOk f.ptr (s.fieldArea f) false)
  else if f.out = 1 then !(s.ptrAreaOk f.ptr (s.fieldArea f) true)
  else f.ptr != 0

/-- The field that FIELD would bind. -/
def State.newField (s : State) (h : CHdr) (a : BitVec 5) (k : BitVec 3) : EvField :=
  let f := fieldOfBlock (s.readBytes (ptrOff (s.c.reg h.s a)) 64)
  let t := BitVec.ofNat 32 (s.r.round.toNat * f.tpr.toNat)
  { f with ad := k, rect := s.r.ad.get ⟨k.toNat, k.isLt⟩, t := t, run := t }

/-- Another bound field shares a word with a rectangle (R354). -/
def Res.fieldMeets (r : Res) (d : AccDesc) : Bool := r.fields.any fun f => f.bound && f.rect.meets d

/-- FIELD is refused (R281, R354). -/
def State.fieldBad (s : State) (h : CHdr) (a : BitVec 5) (f k : BitVec 3) : Bool :=
  let bs := s.readBytes (ptrOff (s.c.reg h.s a)) 64
  let g := s.newField h a k
  (s.r.evField f).bound || g.rect.empty || blockBad bs || s.ptrBad g || s.r.fieldMeets g.rect ||
  (g.ref != 0 && decide (g.rect.cols.toNat % 2 = 1)) || decide (2 ^ 32 ≤ s.r.round.toNat * g.tpr.toNat)

def opField (h : CHdr) (a : BitVec 5) (f k : BitVec 3) : Op :=
  { opN h with
    check := fun slot s =>
      let ra := s.c.reg h.s a
      s.accTouch <|> s.checkLoad (fieldAccess h a slot s) <|> illegalIf (ptrOff ra % 8 != 0) slot ra <|> illegalIf (s.fieldBad h a f k) slot ra
    touch := fun s => (true, (s.touches (s.accessRegion (fieldAccess h a 0 s))).2)
    wait := fun s => s.stalled (fieldAccess h a 0 s) || s.busy (ptrOff (s.c.reg h.s a)) 64
    eff := fun s => s.modR fun r => r.modField f fun _ => s.newField h a k
    late := State.kick }

/-- FIELD (R281). -/
def execField (h : CHdr) (a : BitVec 5) (f k : BitVec 3) (s : State) : Result := runOne (opField h a f k) s

/-! ### EVSEND, EVRUN and EVCTL (R282 to R284) -/

/-- The event of an EVSEND. -/
def State.evsendRec (s : State) (h : CHdr) (b c : BitVec 5) (x : Bool) (fld : BitVec 3) (col row : BitVec 8) : EventRec :=
  ⟨(s.c.reg h.s b).truncate 32, (s.c.regX h.s c x).truncate 32, row, col, fld, s.r.rank⟩

def opEvsend (h : CHdr) (a b c : BitVec 5) (x : Bool) (fld : BitVec 3) (col row : BitVec 8) : Op :=
  { opN h with
    check := fun slot s =>
      let ra := s.c.reg h.s a
      s.rankCheck ra slot ra <|> illegalIf (field (s.c.reg h.s b) 32 32 != 0 || field (s.c.regX h.s c x) 32 32 != 0) slot ra
    wait := fun s => rankOf (s.c.reg h.s a) == s.r.rank && s.queueFull
    eff := fun s => s.sendEvent s.curRes (rankOf (s.c.reg h.s a)) (s.evsendRec h b c x fld col row) s.curCtx s.core.atPair
    late := State.kick }

/-- EVSEND (R282). -/
def execEvsend (h : CHdr) (a b c : BitVec 5) (x : Bool) (fld : BitVec 3) (col row : BitVec 8) (s : State) : Result :=
  runOne (opEvsend h a b c x fld col row) s

/-- The check that a field is bound (R283, R284). -/
def boundCheck (h : CHdr) (a : BitVec 5) (f : BitVec 3) (slot : Nat) (s : State) : Option TrapReq :=
  illegalIf (!(s.r.evField f).bound) slot (s.c.reg h.s a)

def opEvrun (h : CHdr) (a : BitVec 5) (f : BitVec 3) : Op :=
  { opN h with
    check := boundCheck h a f
    eff := fun s => s.modR fun r => r.modField f fun x => { x with run := BitVec.ofNat 32 (max x.run.toNat ((s.c.reg h.s a).toNat % 2 ^ 32)) }
    late := State.kick }

/-- EVRUN (R283). -/
def execEvrun (h : CHdr) (a : BitVec 5) (f : BitVec 3) (s : State) : Result := runOne (opEvrun h a f) s

/-- The queued events of field f of a residency. -/
def QEvent.isOf (k : ResNo) (f : BitVec 3) (q : QEvent) : Bool := q.res == k && q.ev.fld == f

def opEvctlUnbind (h : CHdr) (f : BitVec 3) : Op :=
  { opN h with
    eff := fun s => (s.modR fun r => r.modField f fun x => { x with bound := false }).modCore fun c =>
      { c with events := c.events.filter fun q => !q.isOf s.curRes f } }

/-- EVCTL.unbind (R284, R367). -/
def execEvctlUnbind (h : CHdr) (f : BitVec 3) (s : State) : Result := runOne (opEvctlUnbind h f) s

/-- A read form of EVCTL. -/
def opEvRead (h : CHdr) (a : BitVec 5) (f : BitVec 3) (v : State → Word) : Op :=
  { opN h with
    dests := [.s (regOf h.s a)]
    check := boundCheck h a f
    eff := fun s => s.result (.s (regOf h.s a)) (v s) latLoad }

def opEvctlTime (h : CHdr) (a : BitVec 5) (f : BitVec 3) : Op := opEvRead h a f fun s => (s.r.evField f).t.zeroExtend 64

/-- EVCTL.time (R284). -/
def execEvctlTime (h : CHdr) (a : BitVec 5) (f : BitVec 3) (s : State) : Result := runOne (opEvctlTime h a f) s

def opEvctlLate (h : CHdr) (a : BitVec 5) (f : BitVec 3) : Op :=
  let o := opEvRead h a f fun s => BitVec.ofNat 64 ((s.r.evField f).late.toNat + (s.r.evField f).sticky.toNat <<< 32)
  { o with eff := fun s => (o.eff s).modR fun r => r.modField f fun x => { x with late := 0, sticky := false } }

/-- EVCTL.late (R284). -/
def execEvctlLate (h : CHdr) (a : BitVec 5) (f : BitVec 3) (s : State) : Result := runOne (opEvctlLate h a f) s

def opEvctlQlen (h : CHdr) (a : BitVec 5) (f : BitVec 3) : Op :=
  opEvRead h a f fun s => BitVec.ofNat 64 (s.core.events.filter fun q => q.isOf s.curRes f).length

/-- EVCTL.qlen (R284). -/
def execEvctlQlen (h : CHdr) (a : BitVec 5) (f : BitVec 3) (s : State) : Result := runOne (opEvctlQlen h a f) s

def opEvctlFires (h : CHdr) (a : BitVec 5) (f : BitVec 3) : Op := opEvRead h a f fun s => (s.r.evField f).fires.zeroExtend 64

/-- EVCTL.fires (R284). -/
def execEvctlFires (h : CHdr) (a : BitVec 5) (f : BitVec 3) (s : State) : Result := runOne (opEvctlFires h a f) s

end Sys2Proof.Machine
end

