-- ==== Sys2Proof/Machine/ServerEvents.lean ====
section
/-!
DEFINITION. What the network interface, the memory servers, the Weighhouse and the Porters do (R191 to R199, R291 to R293, R431 to R437, R481).
An event whose trigger does not hold leaves the state as it is (log entry 2); one that must wait comes back in the next cycle.
-/

namespace Sys2Proof.Machine

open Sys2Proof

/-! ### Responses (R191 to R195) -/

/-- A part of an XLD is answered. -/
def Req.answered (q : Req) (part : Nat) (data : List Byte) (fail : Option ServerFail) : Req :=
  { q with parts := q.parts - 1, fail := q.fail <|> fail,
           got := q.got ++ (data.zipIdx.map fun p => (q.partOff part + p.2, p.1)) }

/-- XLD_RESPONSE (R191, R192). -/
def execXldResponse (id part : Nat) (data : List Byte) (fail : Option ServerFail) (s : State) : Result :=
  match s.reqOf id with
  | none => .next s
  | some q =>
    if q.kind = 0 ∧ q.parts ≠ 0 then
      let q1 := q.answered part data fail
      let s1 := s.modReq id fun _ => q1
      .next (if q1.parts = 0 then s1.settleLoad q1 else s1)
    else .next s

/-- The bytes of a reply slot in address order (R191). -/
def Req.bytes (q : Req) : List Byte :=
  (List.range q.len).map fun o => ((q.got.find? fun p => p.1 == o).map (·.2)).getD 0

/-- SLOT_COPY_DONE (R191, R481): the first slot being copied. -/
def execSlotCopyDone (s : State) : Result :=
  match s.core.reqs.find? (fun q => q.kind == 0 && q.copying) with
  | none => .next s
  | some q =>
    let s1 := if q.dropped then s else s.as q.res fun s => s.writeBytes (ptrOff q.local_) q.bytes
    .next (((s1.dropReq q.id).rangeRemove q.range).doneTid q)

/-- The buffer entries of a write: one for each part (R293). -/
def State.buffered (s : State) (q : Req) (data : List Byte) (ps : List (Nat × Nat × Nat)) : State :=
  { s with cl := { s.cl with buffer := s.cl.buffer ++ (ps.zipIdx.map fun p =>
      (⟨q.id, true, p.2, q.pkg, p.1.2.1, (data.drop p.1.1).take p.1.2.2, false⟩ : Buffered)) } }

/-- XST_SOURCE_READ (R193): the oldest write that has not entered the store buffer, where it is an XST whose turn has come; else it is looked at again in the next cycle (R292, R293). -/
def execXstSourceRead (s : State) : Result :=
  match s.core.reqs.find? Req.unentered with
  | none => .next s
  | some q =>
    let off := ptrOff q.local_
    let t := { s with curRes := q.res }
    if q.kind ≠ 1 ∨ s.readsBefore q then .next (s.after 1 .xstSourceRead)
    else if t.badAt off q.len then .next (((s.dropReq q.id).doneTid q).deferFail q Cause.memoryUncorrectable q.ptr).enterWrites
    else
      let s1 := (s.rangeRemove q.range).modReq q.id fun x => { x with buffered := true, range := none }
      match q.spans with
      | [] => .next (s1.post (.serverAck q.id 0 q.fail)).enterWrites
      | p :: _ =>
        let ps := pieces 3 0 (p.1 % 2 ^ 41) q.len
        let data := t.readBytes off q.len
        .next ((s1.buffered q data ps).sendPieces q (fun o n => .write ((data.drop o).take n)) ps 0).enterWrites

/-- The Porter of a copy sends its report, and has a place again (R433, R434). -/
def State.report (s : State) (q : Req) (f : Option ServerFail) : State :=
  let s1 := s.leavePorter true q.id
  if Rank.core q.porter = 0 then s1.post (.porterCompletionReport q.id f)
  else s1.answerUp (s.porterTarget ⟨q.id, true, true, q.porter⟩) (.porterCompletionReport q.id f)

/-- A part of a copy has landed or failed; the last one brings the Porter's report (R434). -/
def State.copyPart (s : State) (id : Nat) (fail : Option ServerFail) : State :=
  match s.reqOf id with
  | none => s
  | some q =>
    let q1 := { q with parts := q.parts - 1, fail := q.fail <|> fail }
    let s1 := s.modReq id fun _ => q1
    if q1.parts = 0 then s1.report q1 q1.fail else s1

/-- SERVER_ACK (R193, R195). -/
def execServerAck (id part : Nat) (fail : Option ServerFail) (s : State) : Result :=
  match s.reqOf id with
  | none => .next s
  | some q =>
    if q.kind = 1 ∨ q.kind = 2 then
      let q1 := { q with parts := q.parts - 1 }
      let s1 := match fail with | some f => s.queueFail (q.atPart part) f | none => s
      let s2 := (s1.modReq id fun _ => q1)
      let s3 := { s2 with cl := { s2.cl with buffer := s2.cl.buffer.filter fun b => !(b.own && b.id == id && b.part == part) } }
      .next (if q1.parts = 0 then s3.settleWrite q1 else s3)
    else if 4 ≤ q.kind.toNat then .next (s.copyPart id fail)
    else .next s

/-- XATR_RESPONSE (R195). -/
def execXatrResponse (id old : Nat) (fail : Option ServerFail) (s : State) : Result :=
  match s.reqOf id with
  | none => .next s
  | some q => if q.kind = 3 then .next (s.settleAtomic q old fail) else .next s

/-! ### Servers (R431) -/

/-- A word of a range has an uncorrectable error; keys of 8-byte words (R431). -/
def Servers.badIn (v : Servers) (a n : Nat) : Bool := v.bad.any fun w => meets (w, 8) (a, n)

/-- A write covers only part of a word in error (R431). -/
def Servers.badPart (v : Servers) (a n : Nat) : Bool :=
  v.bad.any fun w => meets (w, 8) (a, n) && !(decide (a ≤ w) && decide (w + 8 ≤ a + n))

/-- A server's write; a word written whole is no longer in error (R431). -/
def Servers.put (v : Servers) (a : Nat) (d : List Byte) : Servers :=
  { v with mem := memPut v.mem a d, bad := v.bad.filter fun w => !(decide (a ≤ w) && decide (w + 8 ≤ a + d.length)) }

/-- Combinations that a revision A server lacks (R123, R437). -/
def atomicNeedsB (a : Atomic) : Bool := (a.op == 9 && a.bytes == 16) || a.op == 11 || a.op == 12

/-- A write of another core of the cluster leaves the store buffer: its server has performed it (R293). -/
def State.leaveOther (s : State) (q : ServerReq) : State :=
  { s with cl := { s.cl with buffer := s.cl.buffer.filter fun b => b.own || b.id != q.id } }

/-- A word of server memory with one flipped bit is corrected, and counted for Damilaril (R431). -/
def Servers.correct (v : Servers) (p : Nat → Bool) : Servers :=
  { v with soft := v.soft.filter fun w => !p w, corrected := v.corrected + (v.soft.filter p).length }

/-- What a server or the Weighhouse has for this core goes back to it. -/
def State.reply (s : State) (q : ServerReq) (wh : Bool) (ev : Instr) : State := s.answerUp (s.requestTarget q wh) ev

/-- Answer an atomic (R194, R195, R437). -/
def State.answerAtomic (s : State) (q : ServerReq) (old : Nat) (f : Option ServerFail) : State :=
  if !q.own then (s.leaveOther q).emit (.servedAtomic q.id old f)
  else match s.reqOf q.id with
    | none => s
    | some r => if r.kind = 3 then s.reply q (r.endpoint == 2032) (.xatrResponse q.id old f) else s.reply q (r.endpoint == 2032) (.serverAck q.id q.part f)

/-- Answer a write; the acknowledgement of a copy's write goes to its Porter (R193, R434). -/
def State.answerWrite (s : State) (q : ServerReq) (f : Option ServerFail) : State :=
  if !q.own then (s.leaveOther q).emit (.servedWrite q.id q.part f)
  else match s.reqOf q.id with
    | none => s
    | some r => if r.kind = 1 then s.reply q false (.serverAck q.id q.part f) else s.post (.serverAck q.id q.part f)

/-! ### Porters (R433, R434) -/

/-- The residency on this core of a work order, bound to a logical core (R199). -/
def State.resAt (s : State) (order core : Nat) : Option ResNo :=
  (List.finRange 4).find? fun k =>
    let r := s.res.get k
    r.phase != .absent && r.order == order && Rank.core r.rank == core

/-- Dealing (R199): the core and the offset of byte x. -/
def Req.dealTo (q : Req) (x : Nat) : Nat × Nat :=
  let b := dtBlock q.dt0
  (q.core0 + x / b % dtGrid q.dt0 * dtCstep q.dt0, x / b / dtGrid q.dt0 * b + x % b)

/-- The destination offset of stream byte x, in its core or in server memory. -/
def Req.toOff (q : Req) (x : Nat) : Nat := if q.kind = 5 then ptrOff (ptrAdd q.dst ((q.dealTo x).2 : Int)) else ptrOff (ptrAdd q.dst (x : Int))

/-- The whole words of a piece that is added on write (R199). -/
def addTrim (at0 : Nat) (data : List Byte) : Nat × List Byte :=
  let k := (4 - at0 % 4) % 4
  (at0 + k, (data.drop k).take ((data.length - k) / 4 * 4))

/-- A landing waits at its Porter for credit of the receive buffer of the core that it goes to (R423, R434). -/
def State.toLand (s : State) (d : Landing) (core : Nat) : State := { s with srv := { s.srv with toLand := s.srv.toLand ++ [(d, core)] } }

/-- What becomes of one piece of a copy that the Porter has read (R199, R434): a landing, a write to a server, or a failure. The core of a dealt piece is that of the binding that the copy carries (R52, R433). -/
def State.landPiece (s : State) (q : Req) (c : Chunk) (data : List Byte) : State :=
  if q.kind = 5 then
    let t := q.dealTo c.x
    match q.binding.find? fun b => b.1 == t.1 with
    | none => s.copyPart q.id (some (.landing (q.toOff c.x)))
    | some b =>
      if b.2 = s.pkg.self then match s.resAt q.order t.1 with
        | some k => s.toLand ⟨q.id, true, k, q.order, q.toOff c.x, data, false, q.mbox, true⟩ b.2
        | none => s.copyPart q.id none
      else s.toLand ⟨q.id, true, q.res, q.order, q.toOff c.x, data, false, q.mbox, true⟩ b.2
  else if ptrWin q.dst = 0 then
    let p := if q.add then addTrim (q.toOff c.x) data else (q.toOff c.x, data)
    s.toLand ⟨q.id, true, q.res, q.order, p.1, p.2, q.add, none, false⟩ s.pkg.self
  else
    match s.place q.extents (ptrAdd q.dst (c.x : Int)) 1 q.dpkg c.len q.order with
    | .error f => s.copyPart q.id (some f)
    | .ok p => s.post (.serverRequest ⟨q.id, 0, true, q.dpkg, p.1, .write data, .own⟩)

/-- The pieces of a request's copy. -/
def Req.chunks (q : Req) : List Chunk := copyChunks q.ptr q.toOff q.len q.nest (if q.kind = 5 then dtBlock q.dt0 else 0)

/-- The reads that a Porter makes for a copy: each piece of a chunk that lies in one granule, with the chunk's number (R434). -/
def Req.reads (q : Req) : List (Nat × Chunk) :=
  q.chunks.zipIdx.flatMap fun p => (pieces 3 0 p.1.src p.1.len).map fun x => (p.2, ⟨p.1.x + x.1, x.2.1, x.2.2⟩)

/-- The bytes of readings that all succeed, joined. -/
def joined : List (Chunk × List Byte × Option ServerFail) → Option (List Byte)
  | [] => some []
  | (_, _, some _) :: _ => none
  | (_, d, none) :: t => (joined t).map (d ++ ·)

/-- A chunk as read: whole where every source byte could be read, else granule by granule (R199). -/
def wholeOr (l : List (Chunk × List Byte × Option ServerFail)) : List (Chunk × List Byte × Option ServerFail) :=
  match joined l, l with
  | some d, (c, _, _) :: _ => [(⟨c.x, c.src, d.length⟩, d, none)]
  | _, _ => l

/-- Send what has been read on its way (R434). -/
def landAll (q : Req) : List (Chunk × List Byte × Option ServerFail) → State → State
  | [], s => s
  | (_, _, some f) :: t, s => landAll q t (s.copyPart q.id (some f))
  | (c, d, none) :: t, s => landAll q t (s.landPiece q c d)

/-- The answer to read k of a copy has come: once its whole chunk has been read, the chunk goes on (R434). -/
def State.pieceRead (s : State) (id k : Nat) (data : List Byte) (f : Option ServerFail) : State :=
  match s.reqOf id with
  | none => s
  | some q =>
    let l := q.reads
    let answers := q.answers ++ [(k, data, f)]
    let i := (l.getD k (0, ⟨0, 0, 0⟩)).1
    let mine := (l.zipIdx.filter fun p => p.1.1 == i).map fun p => (p.2, p.1.2)
    let got := mine.filterMap fun p => (answers.find? fun a => a.1 == p.1).map fun a => (p.2, a.2)
    if got.length < mine.length then s.modReq id fun x => { x with answers := answers, out := x.out - 1 }
    else
      let whole := wholeOr got
      let s1 := s.modReq id fun x => { x with answers := answers.filter (fun a => !(mine.any fun p => p.1 == a.1)), out := x.out - 1, parts := x.parts - (mine.length - whole.length) }
      landAll q whole s1

/-- Reads that the copies at a Porter have outstanding: each has its place in the Porter's read buffer (R422). -/
def State.readsOut (s : State) (porter : Rank) : Nat :=
  ((s.core.reqs.filter fun q => q.porter == porter && s.srv.porters.any fun j => j.own && j.id == q.id).map (·.out)).sum

/-- The next read of the copies of this core that a Porter holds, in the order of their arrival (R433). -/
def State.nextRead (s : State) (porter : Rank) : Option (Req × Nat × Chunk) :=
  s.srv.porters.findSome? fun j =>
    if j.own && j.porter == porter then (s.reqOf j.id).bind fun q => (q.reads[q.next]?).map fun r => (q, r) else none

/-- A Porter sends reads while its read buffer has room, on fuel; a piece that does not relocate, or relocates to a quarantined die, has failed (R422, R434). -/
def readMore : Nat → Rank → State → State
  | 0, _, s => s
  | n + 1, porter, s =>
    if Config.porterBuffer + 1 ≤ s.readsOut porter then s
    else match s.nextRead porter with
      | none => s
      | some (q, _, c) =>
        let s1 := s.modReq q.id fun x => { x with next := x.next + 1, out := x.out + 1 }
        readMore n porter (match s.place q.extents (ptrAdd q.ptr ((c.src : Int) - ptrOff q.ptr)) 0 q.pkg c.len q.order with
          | .error f => s1.pieceRead q.id q.next [] (some f)
          | .ok a => s1.post (.serverRequest ⟨q.id, q.next, true, q.pkg, a.1, .read c.len, .own⟩))

/-- A Porter goes on with the copies that it holds. -/
def State.readOn (s : State) (porter : Rank) : State := readMore ((s.core.reqs.map fun q => q.reads.length).sum) porter s

/-- Answer a read: of this core, of one of its copies at a Porter, or of another party (R191, R434). -/
def State.answerRead (s : State) (q : ServerReq) (data : List Byte) (f : Option ServerFail) : State :=
  if !q.own then s.emit (.served q.id data f)
  else match s.reqOf q.id with
    | none => s
    | some r => if r.kind = 0 then s.reply q false (.xldResponse q.id q.part data f) else (s.pieceRead q.id q.part data f).readOn r.porter

/-- A byte of a read has been served already, from the store buffer (R293). -/
def State.hasByte (s : State) (q : ServerReq) (o : Nat) : Bool :=
  (s.reqOf q.id).any fun r => r.kind == 0 && r.got.any fun x => x.1 == r.partOff q.part + o

/-- A read performed at its server: a party of the cluster other than this core finds what the store buffer holds (R293, R298, R431). -/
def State.serveRead (s : State) (q : ServerReq) (n : Nat) : State :=
  let k := serverKey q.pkg q.addr
  let buf := if q.own then [] else s.bufferFor q
  let got := (List.range n).map fun o => (k + o, forward buf (k + o))
  let missing := (List.range n).filter fun o => (forward buf (k + o)).isNone && !(q.own && s.hasByte q o)
  let f : Option ServerFail := if missing.any fun o => s.srv.badIn (k + o) 1 then some (.serverError 1) else none
  let data := got.map fun p => match p.2 with | some x => x.2 | none => memGet s.srv.mem p.1
  let seen := got.filterMap fun p => p.2.map fun x => (q.order.party, q.order.no, x.1)
  let s1 := { s with cl := { s.cl with served := (s.cl.served ++ seen).eraseDups } }
  s1.answerRead q (if f.isSome then [] else data) f

/-- A server performs one request (R431). -/
def State.serve (s : State) (q : ServerReq) : State :=
  let k := serverKey q.pkg q.addr
  let s := { s with srv := s.srv.correct fun w => meets (w, 8) (reqSpan q) }
  match q.op with
  | .read n => s.serveRead q n
  | .write d =>
    let f : Option ServerFail := if s.srv.badPart k d.length then some (.serverError 1) else none
    (if f.isSome then s else { s with srv := s.srv.put k d }).answerWrite q f
  | .atomic a =>
    if atomicNeedsB a && !Config.revisionB q.pkg then s.answerAtomic q 0 (some .notImplemented)
    else if s.srv.badIn k a.bytes then s.answerAtomic q 0 (some (.serverError 1))
    else
      let old := memNat s.srv.mem k a.bytes
      ({ s with srv := s.srv.put k (leBytes a.bytes (atomicNew a.op a.bytes old a.val a.cmp)) }).answerAtomic q old none

/-- A request that no server performs is answered with a failure. -/
def State.serveFail (s : State) (q : ServerReq) (f : ServerFail) : State :=
  match q.op with
  | .read _ => s.answerRead q [] (some f)
  | .write _ => s.answerWrite q (some f)
  | .atomic _ => s.answerAtomic q 0 (some f)

/-- The right that a request needs, as a cause's word has it (R374). -/
def reqRight (q : ServerReq) : BitVec 3 := match q.op with | .read _ => 1 | .write _ => 2 | .atomic _ => 4

/-- Why a request does not reach its server: the gateway does not admit its work order (R440), or the die is quarantined (R392, R450). -/
def State.turnedAway (s : State) (q : ServerReq) : Option ServerFail :=
  if q.order.gate.any fun g => !s.srv.admitted q.pkg g.1 g.2 then some (.extentRights (reqRight q) 0)
  else if s.serverGone q.pkg q.addr then some (.peerDead false)
  else none

/-- SERVER_REQUEST (R431, R435): behind a lock on its granule it waits in arrival order. What another party's order or the store buffer holds back has not left its own core (R292, R293). -/
def execServerRequest (q : ServerReq) (s : State) : Result :=
  match s.turnedAway q with
  | some f => .next (s.serveFail q f)
  | none =>
    if !q.own && s.heldBack q then .next (s.after 1 (.serverRequest q))
    else if s.srv.locks.any fun l => l.1 == reqGranule q then .next { s with srv := { s.srv with pending := s.srv.pending ++ [q] } }
    else .next (s.serve q)

/-- SCRUB (R431): every soft error is corrected and counted, which no program can see. -/
def execScrub (s : State) : Result := .next { s with srv := s.srv.correct fun _ => true }

/-! ### The Weighhouse (R435) -/

/-- Change the list of atomics in the Weighhouse. -/
def State.modWeigh (s : State) (f : List Weigh → List Weigh) : State := { s with srv := { s.srv with weigh := f s.srv.weigh } }

/-- Send the lock-reads of the atomics whose granule is free, at most 64 in progress in each package's Weighhouse, in arrival order; the places are those of its read buffer (R422). -/
def startWeigh (pkg : Nat) : Nat → List Nat → List Weigh → List Weigh
  | _, _, [] => []
  | n, busy, w :: t =>
    let g := reqGranule w.req
    if w.req.pkg = pkg ∧ w.step = .waiting then
      if n < 64 ∧ !busy.contains g then { w with step := .locking } :: startWeigh pkg (n + 1) (g :: busy) t
      else w :: startWeigh pkg n (g :: busy) t
    else w :: startWeigh pkg n busy t

/-- Start what can start in the Weighhouse of a package, and bring the lock-reads to the servers. -/
def State.startWeigh (s : State) (pkg : Nat) : State :=
  let live := s.srv.weigh.filter fun w => w.req.pkg == pkg && w.step != .waiting
  let next := Machine.startWeigh pkg live.length (live.map fun w => reqGranule w.req) s.srv.weigh
  let s1 := s.modWeigh fun _ => next
  if next.any fun w => w.step == .locking then s1.post .serverLockRead else s1

/-- WEIGHHOUSE_ATOMIC (R435). -/
def execWeighhouseAtomic (q : ServerReq) (s : State) : Result :=
  match s.turnedAway q with
  | some f => .next (s.serveFail q f)
  | none =>
    if !q.own && s.heldBack q then .next (s.after 1 (.weighhouseAtomic q))
    else .next ((s.modWeigh fun l => l ++ [⟨q, .waiting⟩]).startWeigh q.pkg)

/-- Replace the first atomic that stands at a step. -/
def stepFirst (p : WeighStep → Bool) (f : Weigh → Weigh) : List Weigh → List Weigh
  | [] => []
  | w :: t => if p w.step then f w :: t else w :: stepFirst p f t

/-- The width and operation of a Weighhouse request. -/
def reqAtom (q : ServerReq) : Atomic := match q.op with | .atomic a => a | _ => ⟨8, 0, 0, 0⟩

/-- Serve the requests that waited for a granule, in arrival order (R435). -/
def serveAll : List ServerReq → State → State
  | [], s => s
  | q :: t, s => serveAll t (s.serve q)

/-- An atomic leaves the Weighhouse. Its granule stays locked for the next one that waits there for it, whose place in the total order no reader may see passed; else what waited at the server is served (R435, R436). -/
def State.weighEnd (s : State) (w : Weigh) : State :=
  let g := reqGranule w.req
  let s1 := (s.modWeigh fun l => l.erase w).startWeigh w.req.pkg
  if s1.srv.weigh.any fun x => reqGranule x.req == g then
    { s1 with srv := { s1.srv with locks := s1.srv.locks.map fun l => if l.1 = g then (g, ((s1.srv.weigh.find? fun x => reqGranule x.req == g).map (·.req.id)).getD l.2) else l } }
  else
    serveAll (s1.srv.pending.filter fun q => reqGranule q == g)
      { s1 with srv := { s1.srv with locks := s1.srv.locks.filter fun l => l.1 != g, pending := s1.srv.pending.filter fun q => reqGranule q != g } }

/-- SERVER_LOCK_READ (R435): the first lock-read that waits at its server. -/
def execServerLockRead (s : State) : Result :=
  match s.srv.weigh.find? fun w => w.step == .locking with
  | none => .next s
  | some w =>
    let k := serverKey w.req.pkg w.req.addr
    let n := (reqAtom w.req).bytes
    let s := { s with srv := s.srv.correct fun x => meets (x, 8) (k, n) }
    if s.serverGone w.req.pkg w.req.addr then .next ((s.answerAtomic w.req 0 (some (.peerDead false))).weighEnd w)
    else if s.srv.badIn k n then .next ((s.answerAtomic w.req 0 (some (.serverError 1))).weighEnd w)
    else
      let s1 := s.modWeigh (stepFirst (· == .locking) fun w => { w with step := .locked (memNat s.srv.mem k n) })
      let locks := if s1.srv.locks.any fun l => l.1 == reqGranule w.req then s1.srv.locks else s1.srv.locks ++ [(reqGranule w.req, w.req.id)]
      .next (({ s1 with srv := { s1.srv with locks := locks } }).post .weighhouseLockData)

/-- An atomic whose granule is locked. -/
def WeighStep.isLocked : WeighStep → Bool | .locked _ => true | _ => false
def WeighStep.isWriting : WeighStep → Bool | .writing _ _ => true | _ => false

/-- WEIGHHOUSE_LOCK_DATA (R435): the Weighhouse computes the result. -/
def execWeighhouseLockData (s : State) : Result :=
  match s.srv.weigh.find? fun w => w.step.isLocked with
  | none => .next s
  | some _ =>
    let s1 := s.modWeigh (stepFirst (·.isLocked) fun w => match w.step with
      | .locked old => { w with step := .writing old (atomicNew (reqAtom w.req).op (reqAtom w.req).bytes old (reqAtom w.req).val (reqAtom w.req).cmp) }
      | _ => w)
    .next (s1.post .serverWriteUnlock)

/-- The write-unlock of an atomic may go: every earlier one has its granule locked, so that no party sees the later one alone (R435, R436). -/
def State.mayUnlock (s : State) (w : Weigh) : Bool :=
  (s.srv.weigh.takeWhile fun x => x != w).all fun x => x.req.pkg != w.req.pkg || s.srv.locks.any fun l => l.1 == reqGranule x.req

/-- SERVER_WRITE_UNLOCK (R435). -/
def execServerWriteUnlock (s : State) : Result :=
  match s.srv.weigh.find? fun w => w.step.isWriting && s.mayUnlock w with
  | none => .next (if s.srv.weigh.any fun w => w.step.isWriting then s.after 1 .serverWriteUnlock else s)
  | some w =>
    match w.step with
    | .writing old new =>
      let s1 := { s with srv := s.srv.put (serverKey w.req.pkg w.req.addr) (leBytes (reqAtom w.req).bytes new) }
      .next ((s1.answerAtomic w.req old none).weighEnd w)
    | _ => .next s

/-! ### Copies at their Porters (R433, R434) -/

/-- A zero-length copy is relocated at both ends, and can fault (R199). -/
def State.emptyCopy (s : State) (q : Req) : Option ServerFail :=
  match s.place q.extents q.ptr 0 q.pkg 0 q.order with
  | .error f => some f
  | .ok _ =>
    if q.kind = 5 ∨ ptrWin q.dst = 0 then none
    else match s.place q.extents q.dst 1 q.dpkg 0 q.order with
      | .error f => some f
      | .ok _ => none

/-- A Porter holds 32 copies (R433). -/
def State.porterFull (s : State) (p : Rank) : Bool := decide (32 ≤ (s.srv.porters.filter fun j => j.porter == p).length)

/-- PORTER_ACTIVE_MESSAGE (R433, R434): the copy takes a place at its Porter, or waits for one; a copy of another core touches nothing of this one until it lands. -/
def execPorterActiveMessage (p : PorterCopy) (s : State) : Result :=
  let first := s.srv.porterWait.find? fun x => x.porter == p.porter
  if s.porterFull p.porter ∨ (first.isSome ∧ first ≠ some p) then
    .next (if s.srv.porterWait.contains p then s else { s with srv := { s.srv with porterWait := s.srv.porterWait ++ [p] } })
  else
    let s1 := { s with srv := { s.srv with porters := s.srv.porters ++ [⟨p.porter, p.id, p.own⟩], porterWait := s.srv.porterWait.erase p } }
    if !p.own then .next s1
    else match s.reqOf p.id with
      | none => .next s
      | some q =>
        if q.kind.toNat < 4 ∨ q.copying then .next s
        else
          let s2 := s1.modReq q.id fun x => { x with copying := true, parts := q.reads.length, next := 0, out := 0, answers := [] }
          .next (if q.reads.isEmpty then s2.report q (s.emptyCopy q) else s2.readOn p.porter)

/-- Landings that a Porter has in flight towards a residency of a core (R423). -/
def State.flyingTo (s : State) (core order : Nat) : Nat := ((s.srv.flying.filter fun x => x.core == core && x.order == order).map (·.n)).sum

/-- The Porters inject the landings for which there is credit: 16 KiB towards each residency (R423, R434). One for this core comes up its router. -/
def pushLandings : List (Landing × Nat) → State → State
  | [], s => s
  | (d, core) :: t, s =>
    if s.flyingTo core d.order + d.data.length ≤ 16384 then
      let s1 : State := { s with srv := { s.srv with flying := s.srv.flying ++ [(⟨d.id, core, d.order, d.data.length⟩ : Flying)] } }
      let from_ := (s.reqOf d.id).map fun q => s.porterTarget ⟨q.id, true, true, q.porter⟩
      pushLandings t (if core = s.pkg.self then s1.answerUp (from_.getD .ioDie) (.porterLanding d)
        else s1.modEnv fun e => { e with out := e.out ++ [Out.landing d.id core d.addr d.data d.mbox] })
    else pushLandings t (s.toLand d core)

/-- One cycle of the Porters' injection. -/
def State.landStep (s : State) : State := pushLandings s.srv.toLand { s with srv := { s.srv with toLand := [] } }

/-- A landing has left the receive buffer of a core: its credit comes back (R423). -/
def State.landGone (s : State) (id : Nat) (here : Bool) : State :=
  match s.srv.flying.find? fun x => x.id == id && (x.core == s.pkg.self) == here with
  | none => s
  | some x => { s with srv := { s.srv with flying := s.srv.flying.erase x } }

/-- Words added into accumulator words (R199). -/
def addWords (m : List Host.Cell) (key : Nat) : Nat → List Byte → List Host.Cell
  | 0, _ => m
  | n + 1, bs =>
    addWords (memPut m key (leBytes 4 (accAdd (memNat m key 4) (valueOf .fp32 (leNat (bs.take 4)))))) (key + 4) n (bs.drop 4)

/-- Bytes written at their place in the residency they land in. -/
def State.landBytes (s : State) (d : Landing) (data : List Byte) : State :=
  if d.add then s.modMem fun m => addWords m d.addr (data.length / 4) data
  else s.as d.res fun s => s.writeBytes d.addr data

/-- A landing is over: its part of the copy is done, where the copy is this core's; one landing of the cycle has been accepted (R365). -/
def State.landed (s : State) (d : Landing) (f : Option ServerFail) : State :=
  let s1 := s.modCore fun c => { c with landedNow := true }
  if d.own then (s1.landGone d.id true).copyPart d.id f else s1

/-- A landing in an accumulator bank waits for another cycle: its residency is not issuing, the group is being cleared or is another residency's (DESIGN CHOICE, log entry 32), or the sequencer has written the bank (R36, R365). -/
def State.landWaits (s : State) (d : Landing) (b : Nat) : Bool :=
  s.core.issuing != some d.res || (s.accOwner.isSome && s.accOwner != some d.res) || s.core.accClear.isSome || s.core.seqBanks.contains b

/-- A step of the event engine is due in this cycle. -/
def engineEvent : Instr → Bool
  | .eventDeliver => true
  | .fieldAdvance => true
  | _ => false

/-- Nothing of a landing may be written: its residency has ended by a fault or a time limit, or its slot has another owner (R490). -/
def State.landSuppressed (s : State) (d : Landing) : Bool :=
  let r := s.res.get d.res
  r.order != d.order || r.phase == .absent || r.phase == .faulted || r.phase == .timedOut || (d.own && !d.deal && (s.reqOf d.id).any (·.dropped))

/-- PORTER_LANDING (R38, R199, R365, R434, R490): the core accepts one a cycle, and the event engine's steps of the cycle come first. -/
def execPorterLanding (d : Landing) (s : State) : Result :=
  if s.core.landedNow then .next (s.after 1 (.porterLanding d))
  else if s.landSuppressed d then .next (s.landed d none)
  else match (if d.deal then none else landBank d) with
  | some b =>
    if s.landWaits d b then .next (s.after 1 (.porterLanding d))
    else if s.accOwner.isNone then .next ((s.grantAcc d.res).after 1 (.porterLanding d))
    else if s.env.agenda.any engineEvent then .next (s.post (.porterLanding d))
    else if s.core.engineBanks.contains b then .next (s.landed d (some (.schedule d.addr)))
    else .next (((s.landBytes d d.data).modCore fun c => { c with landingBanks := [b] }).landed d none)
  | none =>
    let inside := if d.deal then d.data.take ((s.res.get d.res).userEnd - d.addr) else d.data
    let s1 := (s.landBytes d inside).modRes d.res fun r => r.credit d.mbox inside.length
    .next (s1.landed d (if inside.length < d.data.length then some (.landing (d.addr + inside.length)) else none))

/-- PORTER_COMPLETION_REPORT (R192, R434). -/
def execPorterCompletionReport (id : Nat) (fail : Option ServerFail) (s : State) : Result :=
  match s.reqOf id with
  | none => .next s
  | some q => if 4 ≤ q.kind.toNat then .next (s.settleCopy q (q.fail <|> fail)) else .next s

end Sys2Proof.Machine
end

