-- ==== Sys2Proof/Machine/Save.lean ====
section
/-!
DEFINITION. Context records and the save area: the images of R385 to R387, written and read back.
-/

namespace Sys2Proof.Machine

open Sys2Proof

/-- The number in `n` bytes of an image from offset `o` (R4). -/
def imageNat (bs : List Byte) (o n : Nat) : Nat := leNat ((bs.drop o).take n)

/-! ### The context record (R386) -/

/-- The code of a context status. -/
def CtxStatus.code : CtxStatus → Nat
  | .free => 0
  | .live => 1
  | .held => 2

/-- The status of a code. -/
def statusOf (n : Nat) : CtxStatus := if n = 1 then .live else if n = 2 then .held else .free

/-- The loop state that a record holds: the user's loop, which a trap has put aside (R161). -/
def Ctx.savedLoop (c : Ctx) : LoopBuf := if c.mode then c.aside.getD c.loop else c.loop

/-- Loop state, 96 bytes. -/
def LoopBuf.image (l : LoopBuf) : List Byte :=
  (l.nest.bound.toList.flatMap fun x => leBytes 2 x.toNat) ++ (l.nest.stream.toList.flatMap fun x => leBytes 2 x.toNat) ++
  (l.idx.toList.flatMap fun x => leBytes 2 x.toNat) ++ (l.nest.stride.toList.flatMap fun x => leBytes 4 x.toNat) ++
  (l.base.toList.flatMap fun x => leBytes 8 x.toNat) ++
  leBytes 8 (l.first.toNat + l.count.toNat <<< 14 + l.active.toNat <<< 19 + (l.done % 32) <<< 20)

/-- Loop state from its 96 bytes. -/
def loopOf (bs : List Byte) : LoopBuf where
  nest := ⟨Vector.ofFn fun i => BitVec.ofNat 16 (imageNat bs (2 * i.val) 2),
           Vector.ofFn fun i => BitVec.ofNat 32 (imageNat bs (32 + 4 * i.val) 4),
           Vector.ofFn fun i => BitVec.ofNat 16 (imageNat bs (12 + 2 * i.val) 2)⟩
  idx := Vector.ofFn fun i => BitVec.ofNat 16 (imageNat bs (20 + 2 * i.val) 2)
  base := Vector.ofFn fun i => BitVec.ofNat 64 (imageNat bs (56 + 8 * i.val) 8)
  first := BitVec.ofNat 14 (imageNat bs 88 4)
  count := BitVec.ofNat 5 (imageNat bs 88 4 >>> 14)
  active := (imageNat bs 88 4).testBit 19
  done := imageNat bs 88 4 >>> 20 % 32

/-- The SFU replay record, 32 bytes; the second operand word of an SFS holds its destination register, MODE at issue and the LFSR value that it took under SR (DESIGN CHOICE, log entry 20). -/
def replayImage : Option SfuReplay → List Byte
  | none => leBytes 32 0
  | some r =>
    leBytes 8 (2 ^ 63 + r.pair.toNat <<< 8 + r.scalar.toNat <<< 7 + r.mode.toNat <<< 4 + r.fn.toNat) ++
    leBytes 8 r.rowBlock ++ leBytes 8 r.operand.toNat ++ leBytes 8 (r.dest.toNat + r.sup.toNat <<< 6 + r.lfsr.isSome.toNat <<< 7 + (r.lfsr.getD 0).toNat <<< 32)

/-- The SFU replay record from its 32 bytes. -/
def replayOf (bs : List Byte) : Option SfuReplay :=
  let w := imageNat bs 0 8
  if w.testBit 63 then
    some ⟨BitVec.ofNat 14 (w >>> 8), w.testBit 7, BitVec.ofNat 3 (w >>> 4), BitVec.ofNat 4 w, imageNat bs 8 8, BitVec.ofNat 64 (imageNat bs 16 8),
          (imageNat bs 24 8).testBit 6, BitVec.ofNat 6 (imageNat bs 24 8), if (imageNat bs 24 8).testBit 7 then some (BitVec.ofNat 32 (imageNat bs 28 4)) else none⟩
  else none

/-- The pending results of a record, oldest first: those frozen, then those in flight. -/
def Ctx.results (c : Ctx) : List Flight := c.frozen ++ c.flight

/-- Word 0x208 of a record. -/
def Ctx.pcWord (c : Ctx) : Nat :=
  c.pc.toNat + c.mode.toNat <<< 14 + c.status.code <<< 15 + c.trap.cause.toNat <<< 17 + c.trap.pc.toNat <<< 24 + c.trap.frm.toNat <<< 38

/-- The record of context `k` of the present residency, 1 KiB (R210, R386). -/
def State.ctxImage (s : State) (k : CtxNo) : List Byte :=
  let c := s.r.ctx.get k
  ((List.finRange 64).flatMap fun i => leBytes 8 (c.readS (BitVec.ofNat 6 i.val)).toNat) ++
  leBytes 8 (((List.range 32).map fun i => if c.readP (BitVec.ofNat 5 i) then 2 ^ i else 0).sum) ++
  leBytes 8 c.pcWord ++ leBytes 8 (s.trestart k) ++ leBytes 8 c.trap.info0.toNat ++ leBytes 8 c.trap.info1.toNat ++
  c.savedLoop.image ++ replayImage c.replay ++
  ((List.range 32).flatMap fun i => leBytes 2 (tagAt c.results i)) ++
  ((List.range 32).flatMap fun i => leBytes 8 (valueAt c.results i).toNat) ++ leBytes 24 0

/-- The results of a record, in tag order. -/
def recordResults (bs : List Byte) : List Flight :=
  (List.range 32).filterMap fun i => flightOf (imageNat bs (0x2A8 + 2 * i) 2) (BitVec.ofNat 64 (imageNat bs (0x2E8 + 8 * i) 8))

/-- A context with the registers, modes, loop and SFU record of a record; its results are set by the caller. -/
def Ctx.loaded (c : Ctx) (bs : List Byte) : Ctx :=
  let w := imageNat bs 0x208 8
  let lp := loopOf ((bs.drop 0x228).take 96)
  let sup := w.testBit 14
  { c with
    s := Vector.ofFn fun i => if i.val % 32 = 0 then 0 else BitVec.ofNat 64 (imageNat bs (8 * i.val) 8)
    p := Vector.ofFn fun i => i.val % 16 == 0 || (imageNat bs 0x200 8).testBit i.val
    pc := BitVec.ofNat 14 w
    mode := sup
    status := statusOf (w >>> 15 % 4)
    trap := ⟨BitVec.ofNat 7 (w >>> 17), BitVec.ofNat 14 (w >>> 24), BitVec.ofNat 14 (w >>> 38),
             BitVec.ofNat 64 (imageNat bs 0x218 8), BitVec.ofNat 64 (imageNat bs 0x220 8)⟩
    loop := if sup then { c.loop with active := false, done := 0 } else lp
    aside := if sup then some lp else none
    replay := replayOf ((bs.drop 0x288).take 32) }

/-- A context after CTXLD (R210): the results of a supervisor record are the user's frozen ones (log entry 20). -/
def Ctx.restored (c : Ctx) (bs : List Byte) : Ctx :=
  let d := c.loaded bs
  let fs := recordResults bs
  { d with flight := if d.mode then [] else fs, frozen := if d.mode then fs else [],
           awaits := [], heldAt := none, verdict := none, heldAside := none, yields := [], arrived := false, blocked := [] }

/-- A context reloaded at a switch (R101, R384): the results that arrived meanwhile follow the saved ones, and a helper that a round edge has freed is LIVE. -/
def Ctx.reloaded (c : Ctx) (bs : List Byte) : Ctx :=
  let d := c.loaded bs
  let fs := recordResults bs
  { d with loop := if d.mode then c.loop else d.loop,
           status := if c.status = .live ∧ d.status = .held then .live else d.status,
           frozen := fs.take c.saved.1 ++ c.frozen.drop c.saved.1,
           flight := fs.drop c.saved.1 ++ c.flight.drop c.saved.2 }

/-! ### The residency's own words (R385) -/

/-- The bytes of one list of numbers, each of `n` bytes. -/
def words (n : Nat) (l : List Nat) : List Byte := l.flatMap (leBytes n)

/-- The parameter bytes 0 to 31 of a field (R354). -/
def EvField.params (f : EvField) : List Byte :=
  leBytes 8 (f.leak.toNat + f.theta.toNat <<< 32) ++
  leBytes 8 (f.reset.toNat + f.out.toNat <<< 2 + f.mb.toNat <<< 4 + f.ref.toNat <<< 8 + f.delay.toNat <<< 32) ++
  leBytes 8 f.tpr.toNat ++ leBytes 8 f.ptr.toNat

/-- A field's 64 bytes. -/
def EvField.image (f : EvField) : List Byte :=
  f.params ++ leBytes 4 f.rect.word ++ leBytes 4 f.t.toNat ++ leBytes 4 f.run.toNat ++ leBytes 4 f.late.toNat ++
  leBytes 4 (f.sticky.toNat + f.bound.toNat <<< 1) ++ leBytes 4 f.fires.toNat ++ leBytes 4 f.ad.toNat ++ leBytes 4 0

/-- A field from its 64 bytes. -/
def fieldOf (bs : List Byte) : EvField :=
  let n (o k : Nat) := imageNat bs o k
  { bound := (n 48 4).testBit 1, ad := BitVec.ofNat 3 (n 56 4), rect := accDescOf (n 32 4)
    leak := BitVec.ofNat 32 (n 0 4), theta := BitVec.ofNat 32 (n 4 4)
    reset := BitVec.ofNat 2 (n 8 4), out := BitVec.ofNat 2 (n 8 4 >>> 2), mb := BitVec.ofNat 4 (n 8 4 >>> 4)
    ref := BitVec.ofNat 8 (n 8 4 >>> 8), delay := BitVec.ofNat 32 (n 12 4), tpr := BitVec.ofNat 32 (n 16 4)
    ptr := BitVec.ofNat 64 (n 24 8), t := BitVec.ofNat 32 (n 36 4), run := BitVec.ofNat 32 (n 40 4)
    late := BitVec.ofNat 32 (n 44 4), sticky := (n 48 4).testBit 0, fires := BitVec.ofNat 32 (n 52 4) }

/-- A handle's 24 bytes. -/
def Handle.image (h : Handle) : List Byte :=
  leBytes 8 h.base.toNat ++ leBytes 4 (h.slot8.toNat + h.nslot1.toNat <<< 13 + h.defined.toNat <<< 21) ++
  leBytes 4 h.prod.toNat ++ leBytes 4 h.cons.toNat ++ leBytes 4 0

/-- A handle from its 24 bytes. -/
def handleOf (bs : List Byte) : Handle :=
  let w := imageNat bs 8 4
  ⟨BitVec.ofNat 64 (imageNat bs 0 8), BitVec.ofNat 13 w, BitVec.ofNat 8 (w >>> 13), BitVec.ofNat 32 (imageNat bs 12 4),
   BitVec.ofNat 32 (imageNat bs 16 4), w.testBit 21⟩

/-- Bytes 0 to 47 of the NDLD record (R201): bounds, stream words, strides in the record's order. -/
def Nest.image (n : Nest) : List Byte :=
  words 2 (n.bound.toList.map (·.toNat)) ++ leBytes 4 0 ++ words 4 (n.stride.toList.map (·.toNat)) ++
  words 2 (n.stream.toList.map (·.toNat))

/-- A channel as its word gives it; the IDs that completed out of order and lie beyond its CHDONE stay. -/
def Chan.loaded (c : Chan) (w : Nat) : Chan :=
  { next := BitVec.ofNat 32 w, done := BitVec.ofNat 32 (w >>> 32), ahead := c.ahead.filter fun i => decide (w >>> 32 % 2 ^ 32 < i.toNat) }

/-- The words of the save area that go on living while the residency is switched out: channels, mailboxes and the round counter (R17, R385). -/
def Res.livingWords (r : Res) : List Nat :=
  (r.chans.toList.map fun c => c.next.toNat + c.done.toNat <<< 32) ++ (r.mboxes.toList.flatMap fun m => [m.word0, m.target.toNat]) ++ [r.round.toNat]

/-- Those words as an image holds them. -/
def livingImage (bs : List Byte) : List Nat := ((List.range 40).map fun i => imageNat bs (0x2D00 + 8 * i) 8) ++ [imageNat bs 0x3348 4]

/-- A reload takes each of those words that has been changed in the area since it was saved, and leaves the living value of every other one (R17, R384, R387; log entry 20). -/
def Res.rejoin (r : Res) (bs : List Byte) : Res :=
  let img := livingImage bs
  let same (i : Nat) : Bool := img.getD i 0 == r.savedOwn.getD i 0
  { r with
    chans := r.chans.mapFinIdx fun i c _ => if same i then c else c.loaded (img.getD i 0)
    mboxes := r.mboxes.mapFinIdx fun i m _ => if same (8 + 2 * i) && same (9 + 2 * i) then m else mboxOf (img.getD (8 + 2 * i) 0) (img.getD (9 + 2 * i) 0)
    round := if same 40 then r.round else BitVec.ofNat 32 (img.getD 40 0) }

/-- The residency's own words, from 0x2C00 to 0x3380. -/
def State.ownImage (s : State) (tasks : Nat) : List Byte :=
  let r := s.r
  words 4 (r.tshape.toList.map Shape.word) ++ words 4 (r.ad.toList.map AccDesc.word) ++
  leBytes 32 (r.lfsr.toNat + r.vshare.toNat <<< 32) ++ words 8 (r.dt.toList.map (·.toNat)) ++
  (r.chans.toList.flatMap fun c => leBytes 8 (c.next.toNat + c.done.toNat <<< 32)) ++
  (r.mboxes.toList.flatMap fun m => leBytes 8 m.word0 ++ leBytes 8 m.target.toNat) ++
  r.handles.toList.flatMap Handle.image ++ r.nests.toList.flatMap Nest.image ++ r.fields.toList.flatMap EvField.image ++
  leBytes 8 (1 + tasks <<< 1) ++ leBytes 56 r.round.toNat ++ leBytes 128 0

/-! ### The task list (R387) -/

/-- The word and EXT of a decoded task. -/
def codeWord (i : Instr) : Nat :=
  match encode i with
  | some (.a w) => w.toNat
  | some (.c w) => w.toNat
  | some (.l w x) => w.toNat + x.toNat <<< 32
  | none => 0

/-- A task-list entry, 48 bytes. -/
def Task.image (t : Task) : List Byte :=
  leBytes 8 (codeWord t.instr) ++ leBytes 4 (t.pair.toNat + t.ctx.val <<< 14 + t.stopped.toNat <<< 18) ++ leBytes 4 t.posWord ++
  words 4 ((List.range 3).map fun i => ((t.shapes.drop i).head?.map Shape.word).getD 0) ++ leBytes 4 t.desc.word ++
  words 1 ((List.range 4).map fun i => (t.fmts.getD i 0).toNat + (t.blgs.getD i 0).toNat <<< 5) ++ leBytes 4 0 ++ leBytes 8 t.operand.toNat

/-- The ways in which a task-list word may be read: first as the kind of word that its place held, then as each other kind (log entry 20). -/
def codesOf (i : Instr) (w : Nat) : List Code :=
  let a : Code := .a (BitVec.ofNat 32 w)
  let l : Code := .l (BitVec.ofNat 32 w) (BitVec.ofNat 32 (w >>> 32))
  let c : Code := .c (BitVec.ofNat 32 w)
  match encode i with
  | some (.a _) => [a, l, c]
  | some (.l _ _) => [l, c, a]
  | _ => [c, l, a]

/-- The instruction of a task-list word (R387): the tile task that it decodes to; the old one where it decodes to none. -/
def recode (i : Instr) (w : Nat) : Instr :=
  ((codesOf i w).findSome? fun c => match decode c with
    | .ok j => if isTask j then some j else none
    | .error _ => none).getD i

/-- A task as its entry gives it; what the entry does not hold stays as it was. -/
def Task.reread (t : Task) (bs : List Byte) : Task :=
  let w := imageNat bs 8 4
  let p := imageNat bs 12 4
  let tag (i : Nat) := imageNat bs (32 + i) 1
  { t with
    instr := recode t.instr (imageNat bs 0 8)
    pair := BitVec.ofNat 14 w
    ctx := ⟨w >>> 14 % 16 % 11, Nat.mod_lt _ (by decide)⟩
    stopped := w.testBit 18
    pos := p % 512, jb := p >>> 16 % 256, kb := p >>> 24 % 256
    shapes := (List.range t.shapes.length).map fun i => shapeOf (imageNat bs (16 + 4 * i) 4)
    desc := accDescOf (imageNat bs 28 4)
    fmts := (List.range t.fmts.length).map fun i => BitVec.ofNat 5 (tag i)
    blgs := (List.range t.blgs.length).map fun i => BitVec.ofNat 3 (tag i >>> 5)
    operand := BitVec.ofNat 64 (imageNat bs 40 8)
    dispatched := false, heavy := false, lane := none }

/-- A task of which nothing is known but its residency, for an entry that has been added to the list. -/
def Task.blank (k : ResNo) : Task where
  instr := .mcnt ⟨0, 0, 0⟩ 0 0 0
  pair := 0
  ctx := 0
  res := k
  shapes := [⟨0, 0, 0⟩, ⟨0, 0, 0⟩, ⟨0, 0, 0⟩]
  desc := ⟨0, 0, 0, 0⟩
  fmts := [0, 0, 0, 0]
  blgs := [0, 0, 0, 0]
  operand := 0
  tid := 0
  scaleSeq := none
  range := none
  dispatched := false
  stopped := false
  parked := false
  pos := 0
  jb := 0
  kb := 0
  notice := none
  remote := false
  heavy := false
  sendId := 0
  lane := none
  seq := 0
  lfsr := 0
  lfsrEnd := 0
  id := 0

/-! ### Saving and reloading (R384, R385) -/

/-- The first byte of a residency's save area, as a memory key (R22). -/
def Res.saveKey (r : Res) : Nat := 4096 * r.spbase.toNat + (r.limit - 0x4000)

/-- The tasks of a residency in the order of its task list: stopped ones first, in dispatch order (R387). -/
def taskOrder (k : ResNo) (ts : List Task) : List Task :=
  (ts.filter fun t => t.res == k && t.stopped).foldr insertTask [] ++ (ts.filter fun t => t.res == k && !t.stopped)

/-- Write the save area of residency `k` and take its tasks out of the Foreman (R221, R384). -/
def State.saveRes (s : State) (k : ResNo) : State :=
  s.as k fun s =>
    let ts := taskOrder k s.core.tasks
    let img := ((List.finRange 11).flatMap s.ctxImage) ++ s.ownImage ts.length ++ ts.flatMap Task.image
    let s1 := s.modCore fun c =>
      { c.put s.r.saveKey img with tasks := c.tasks.filter fun t => t.res != k, tasksAside := (c.tasksAside.filter fun t => t.res != k) ++ ts }
    s1.modR fun r => { r with issued := true, savedOwn := r.livingWords, ctx := r.ctx.map fun c => { c with saved := (c.frozen.length, c.flight.length) } }

/-- The words of the save area that a reload brings back. -/
def Res.reread (r : Res) (bs : List Byte) : Res :=
  let n (o k : Nat) := imageNat bs o k
  { r.rejoin bs with
    tshape := Vector.ofFn fun i => shapeOf (n (0x2C00 + 4 * i.val) 4)
    ad := Vector.ofFn fun i => accDescOf (n (0x2C40 + 4 * i.val) 4)
    lfsr := BitVec.ofNat 32 (n 0x2C60 4)
    vshare := BitVec.ofNat 4 (n 0x2C64 4)
    dt := Vector.ofFn fun i => BitVec.ofNat 64 (n (0x2C80 + 8 * i.val) 8) &&& 0xFFFFFFFFFFFCFFFF
    handles := Vector.ofFn fun i => handleOf ((bs.drop (0x2E40 + 24 * i.val)).take 24)
    nests := Vector.ofFn fun i =>
      ⟨Vector.ofFn fun j => BitVec.ofNat 16 (n (0x2FC0 + 48 * i.val + 2 * j.val) 2),
       Vector.ofFn fun j => BitVec.ofNat 32 (n (0x2FC0 + 48 * i.val + 16 + 4 * j.val) 4),
       Vector.ofFn fun j => BitVec.ofNat 16 (n (0x2FC0 + 48 * i.val + 40 + 2 * j.val) 2)⟩
    fields := Vector.ofFn fun i => fieldOf ((bs.drop (0x3140 + 64 * i.val)).take 64)
    ctx := r.ctx.mapFinIdx fun i c _ => c.reloaded ((bs.drop (0x400 * i)).take 0x400) }

/-- The tasks of an image's list of n entries: those that were saved as their entries give them, and new ones for entries that have been added (R387). -/
def tasksOf (k : ResNo) (id : Nat) (saved : List Task) (bs : List Byte) (n : Nat) : List Task :=
  (List.range (min n 64)).map fun i =>
    let e := (bs.drop (0x3400 + 48 * i)).take 48
    match saved[i]? with
    | some t => t.reread e
    | none => { (Task.blank k).reread e with id := id + i }

/-- The TRESTART words of the context records that have been changed since they were saved act on the reloaded tasks as writes of that register do (R222, R386). -/
def restartAll (was : CtxNo → Nat) (bs : List Byte) : List CtxNo → State → State
  | [], s => s
  | c :: t, s =>
    let w := imageNat bs (0x400 * c.val + 0x210) 8
    restartAll was bs t (if w = was c then s else s.setTrestart c (BitVec.ofNat 64 w))

/-- Reload residency `k` from its save area, with its tasks. -/
def State.loadRes (s : State) (k : ResNo) : State :=
  let bs := memBytes s.core.mem (s.res.get k).saveKey 0x4000
  let ts := s.core.tasksAside.filter fun t => t.res == k
  let was (c : CtxNo) : Nat := ({ s with curRes := k }.modCore fun x => { x with tasks := ts }).trestart c
  let back := tasksOf k s.core.nextId ts bs (imageNat bs 0x3340 8 / 2 % 128)
  let s1 := (s.modRes k fun r => r.reread bs).modCore fun c =>
    { c with tasks := c.tasks ++ back, tasksAside := c.tasksAside.filter fun t => t.res != k, nextId := c.nextId + 64 }
  s1.as k (restartAll was bs (List.finRange 11))

end Sys2Proof.Machine
end

