-- ==== Sys2Proof/Machine/System.lean ====
section
/-!
DEFINITION. System instructions: entering and leaving the supervisor, the error queue, context records, accumulator spills, dead peers, immediates (R204, R205, R209 to R213).
-/

namespace Sys2Proof.Machine

open Sys2Proof

/-- PRIVILEGE_FAULT in user mode (R41, R130). -/
def supervisorOnly (ra : State → Word) (slot : Nat) (s : State) : Option TrapReq :=
  if s.c.mode then none else some (issueTrap Cause.privilege slot (ra s))

/-! ### TRAP, BKPT and SYSRET (R204, R205) -/

def opTrap (h : CHdr) (a : BitVec 5) (i : BitVec 7) : Op :=
  { opK h with after := fun s => some (trapWith Cause.userTrap (i.zeroExtend 64) (s.c.reg h.s a)) }

/-- TRAP (R204). -/
def execTrap (h : CHdr) (a : BitVec 5) (i : BitVec 7) (s : State) : Result := runOne (opTrap h a i) s

def opBkpt (h : CHdr) : Op := { opK h with check := fun _ _ => some (trapWith Cause.breakpoint 0 0) }

/-- BKPT (R204). -/
def execBkpt (h : CHdr) (s : State) : Result := runOne (opBkpt h) s

/-- A first-use cause. -/
def firstUse (c : BitVec 7) : Bool := c == Cause.accFirstUse || c == Cause.tileFirstUse

/-- The return from a first-use trap lets tasks and the event engine go on, once no other such trap is pending (R37, R358). -/
def State.letGo (s : State) : State :=
  if firstUse s.c.trap.cause && !(s.r.ctx.any fun c => c.pending.any fun p => firstUse p.cause) then
    (s.modR fun r => { r with tasksHeld := false, engineHeld := false })
  else s

/-- A cause that a task raises at its step. -/
def stepCause (c : BitVec 7) : Bool := c == Cause.scheduleViolation || c == Cause.memoryUncorrectable

/-- The return from a trap that a task raised lets the task go on (R223). -/
def State.unpark (s : State) : State :=
  if stepCause s.c.trap.cause then
    s.modCore fun c => { c with tasks := c.tasks.map fun t =>
      if t.res = s.curRes ∧ t.stopped ∧ t.pair = s.c.trap.info0.truncate 14 ∧ (t.ctx = s.curCtx ∨ (s.curCtx = 0 ∧ (s.r.ctx.get t.ctx).status = .free))
      then { t with parked := false } else t }
  else s

def opSysret (h : CHdr) : Op :=
  { opK h with
    check := supervisorOnly fun _ => 0
    next := fun s => some s.c.trap.pc
    late := fun s => (s.letGo.unpark.modC Ctx.back).wake.kick }

/-- SYSRET (R205). -/
def execSysret (h : CHdr) (s : State) : Result := runOne (opSysret h) s

/-! ### The error queue (R209) -/

/-- The store by which ERRQ is checked. -/
def errqAccess (h : CHdr) (b : BitVec 5) (slot : Nat) (s : State) : Access := ⟨s.c.reg h.s b, 32, true, false, slot, 0, false⟩

/-- An entry's 32 bytes. -/
def ErrEntry.image (e : ErrEntry) : List Byte :=
  leBytes 8 e.w0.toNat ++ leBytes 8 e.w8.toNat ++ leBytes 8 e.w16.toNat ++ leBytes 8 e.w24.toNat

def opErrq (h : CHdr) (a b : BitVec 5) : Op :=
  { opK h with
    dests := [.s (regOf h.s a)]
    check := fun slot s => s.checkAccess (errqAccess h b slot s) <|> misplaced (s.c.reg h.s b) 8 slot (s.c.reg h.s a)
    touch := fun s => s.touches (s.accessRegion (errqAccess h b 0 s))
    wait := fun s => s.stalled (errqAccess h b 0 s) || s.busy (ptrOff (s.c.reg h.s b)) 32
    eff := fun s =>
      let s1 := s.result (.s (regOf h.s a)) (BitVec.ofNat 64 (s.r.errq.length + s.r.errOvf.toNat <<< 6)) latLoad
      match s.r.errq with
      | [] => s1
      | e :: t => (s1.writeBytes (ptrOff (s.c.reg h.s b)) e.image).modR fun r => { r with errq := t, errOvf := false } }

/-- ERRQ (R209). -/
def execErrq (h : CHdr) (a b : BitVec 5) (s : State) : Result := runOne (opErrq h a b) s

/-! ### Context records (R210) -/

/-- The access of CTXSV and CTXLD to its record. -/
def recordAccess (h : CHdr) (a : BitVec 5) (write : Bool) (slot : Nat) (s : State) : Access :=
  ⟨s.c.reg h.s a, 1024, write, false, slot, 0, false⟩

/-- Context k may be named: FREE or HELD, or the issuing context where it may be saved. -/
def State.recordable (s : State) (k : BitVec 4) (own : Bool) : Bool :=
  (s.r.ctx.get (ctxOf k)).status == .free || (s.r.ctx.get (ctxOf k)).status == .held || (own && ctxOf k == s.curCtx)

/-- The requests in context k's SFU FIFO; of a residency that does not issue, those that it has kept (R13, R210, R384). -/
def State.sfuQueue (s : State) (k : CtxNo) : List SfuReq :=
  if s.core.issuing = some s.curRes then s.cl.fifos.get k
  else ((s.r.ctx.get k).replay.map SfuReplay.request).toList ++ (s.r.ctx.get k).sfuKept

/-- What CTXSV and CTXLD share: privilege, the access, the alignment, the context, and the wait for its SFU requests. -/
def opRecord (h : CHdr) (a : BitVec 5) (k : BitVec 4) (write : Bool) : Op :=
  let ra (s : State) := s.c.reg h.s a
  { opK h with
    check := fun slot s =>
      supervisorOnly ra slot s <|>
      (if write then s.checkAccess (recordAccess h a write slot s) else s.checkLoad (recordAccess h a write slot s)) <|>
      misplaced (ra s) 8 slot (ra s) <|> illegalIf (!s.recordable k write) slot (ra s)
    touch := fun s => s.touches (s.accessRegion (recordAccess h a write 0 s))
    wait := fun s => s.stalled (recordAccess h a write 0 s) || s.busy (ptrOff (ra s)) 1024 || !(s.sfuQueue (ctxOf k)).isEmpty }

def opCtxsv (h : CHdr) (a : BitVec 5) (k : BitVec 4) : Op :=
  { opRecord h a k true with
    eff := fun s => s.writeBytes (ptrOff (s.c.reg h.s a)) ((if ctxOf k = s.curCtx then s.modC fun _ => s.core.before else s).ctxImage (ctxOf k)) }

/-- CTXSV (R210). -/
def execCtxsv (h : CHdr) (a : BitVec 5) (k : BitVec 4) (s : State) : Result := runOne (opCtxsv h a k) s

/-- A loaded context whose replay record is of an SFS waits for that result again (R239, log entry 20). -/
def Ctx.withAwait (c : Ctx) : Ctx :=
  match c.replay with
  | none => c
  | some q => if q.scalar then { c with awaits := [⟨0, .s q.dest, none, q.sup, true⟩] } else c

def opCtxld (h : CHdr) (a : BitVec 5) (k : BitVec 4) : Op :=
  { opRecord h a k false with
    eff := fun s =>
      let bs := s.readBytes (ptrOff (s.c.reg h.s a)) 1024
      (s.modCtx (ctxOf k) fun c => (c.restored bs).withAwait).setTrestart (ctxOf k) (BitVec.ofNat 64 (imageNat bs 0x210 8)) }

/-- CTXLD (R210): the record's TRESTART acts on the context's stopped task as a write of that register does (log entry 20). -/
def execCtxld (h : CHdr) (a : BitVec 5) (k : BitVec 4) (s : State) : Result := runOne (opCtxld h a k) s

/-! ### Accumulator spill and fill (R211) -/

/-- Descriptor k of the present residency. -/
def State.adOf (s : State) (k : BitVec 3) : AccDesc := s.r.ad.get ⟨k.toNat, k.isLt⟩

/-- The bytes of a descriptor's rectangle. -/
def AccDesc.bytes (d : AccDesc) : Nat := 4 * (d.rows.toNat * d.cols.toNat)

/-- The access of a spill or a fill. -/
def spillAccess (h : CHdr) (a : BitVec 5) (k : BitVec 3) (write : Bool) (slot : Nat) (s : State) : Access :=
  ⟨s.c.reg h.s a, (s.adOf k).bytes, write, false, slot, 0, false⟩

/-- A landing that is due or waits, in a bank of a list. -/
def landsIn (l : List Nat) : Instr → Bool
  | .porterLanding d => match landBank d with | some b => l.contains b | none => false
  | _ => false

/-- A Foreman task, a step of the event engine or a landing uses a bank that the rectangle spans (R211, R232). -/
def State.banksUsed (s : State) (d : AccDesc) : Bool :=
  ((s.core.tasks ++ s.core.tasksAside.filter fun t => t.res == s.curRes).any fun t => ((taskUses t).ar ++ (taskUses t).aw).any fun x => share x.banks d.banks) ||
  share d.banks (s.core.engineBanks ++ s.core.landingBanks) ||
  (decide (s.core.cycle.toNat < s.core.engineUntil.toNat) && share d.banks s.core.engineRect.banks) ||
  s.env.agenda.any (landsIn d.banks) || s.env.timers.any fun t => landsIn d.banks t.2

/-- The words of a rectangle, row-major. -/
def AccDesc.words (d : AccDesc) : List (Nat × Nat) :=
  (List.range d.rows.toNat).flatMap fun i => (List.range d.cols.toNat).map fun j => (i, j)

/-- The bytes of a rectangle, row-major and packed. -/
def spillBytes (m : List Host.Cell) (d : AccDesc) : List Byte := d.words.flatMap fun x => memBytes m (d.key x.1 x.2) 4

/-- Fill a rectangle from its bytes. -/
def fillWords (d : AccDesc) : List (Nat × Nat) → List Byte → CoreSt → CoreSt
  | [], _, c => c
  | x :: t, bs, c => fillWords d t (bs.drop 4) (c.put (d.key x.1 x.2) (bs.take 4))

/-- What ACCSPILL and ACCFILL share. -/
def opSpillFill (h : CHdr) (a : BitVec 5) (k : BitVec 3) (write : Bool) : Op :=
  { opK h with
    check := fun slot s =>
      supervisorOnly (fun s => s.c.reg h.s a) slot s <|>
      (if write then s.checkAccess (spillAccess h a k write slot s) else s.checkLoad (spillAccess h a k write slot s)) <|>
      misplaced (s.c.reg h.s a) 4 slot (s.c.reg h.s a)
    touch := fun s => s.touches (s.accessRegion (spillAccess h a k write 0 s))
    wait := fun s => s.stalled (spillAccess h a k write 0 s) || s.busy (ptrOff (s.c.reg h.s a)) (s.adOf k).bytes || s.banksUsed (s.adOf k) }

/-- The context's next bundle issues after the words have moved, 32 bytes a cycle. -/
def State.spillTime (s : State) (k : BitVec 3) : State :=
  s.modC fun c => { c with busyUntil := s.core.cycle + BitVec.ofNat 64 (((s.adOf k).bytes + 31) / 32) }

/-- A word of descriptor k's rectangle is in error (R377). -/
def State.rectBad (s : State) (k : BitVec 3) : Bool := !s.core.bad.isEmpty && (s.adOf k).all.any fun p => s.core.bad.any fun b => decide (p.1 ≤ b) && decide (b < p.1 + p.2)

/-- The checks of ACCSPILL: those of the store, then the words that it reads (R211, R377). -/
def spillCheck (h : CHdr) (a : BitVec 5) (k : BitVec 3) (slot : Nat) (s : State) : Option TrapReq :=
  (opSpillFill h a k true).check slot s <|>
  (if s.rectBad k && !s.banksUsed (s.adOf k) then some ((spillAccess h a k true slot s).trap Cause.memoryUncorrectable 0) else none)

def opAccspill (h : CHdr) (a : BitVec 5) (k : BitVec 3) : Op :=
  { opSpillFill h a k true with
    check := spillCheck h a k
    eff := fun s => (s.writeBytes (ptrOff (s.c.reg h.s a)) (spillBytes s.core.mem (s.adOf k))).spillTime k }

/-- ACCSPILL (R211). -/
def execAccspill (h : CHdr) (a : BitVec 5) (k : BitVec 3) (s : State) : Result := runOne (opAccspill h a k) s

def opAccfill (h : CHdr) (a : BitVec 5) (k : BitVec 3) : Op :=
  { opSpillFill h a k false with
    eff := fun s =>
      (s.modCore (fillWords (s.adOf k) (s.adOf k).words (s.readBytes (ptrOff (s.c.reg h.s a)) (s.adOf k).bytes))).spillTime k }

/-- ACCFILL (R211). -/
def execAccfill (h : CHdr) (a : BitVec 5) (k : BitVec 3) (s : State) : Result := runOne (opAccfill h a k) s

/-! ### Peers and immediates (R212, R213) -/

def opPeerclr (h : CHdr) (a : BitVec 5) : Op :=
  { opK h with
    check := fun slot s =>
      supervisorOnly (fun s => s.c.reg h.s a) slot s <|> illegalIf (decide (65535 < (s.c.reg h.s a).toNat)) slot (s.c.reg h.s a)
    eff := fun s => s.modR fun r => { r with deadPeers := r.deadPeers.filter (· != (s.c.reg h.s a).toNat) } }

/-- PEERCLR (R212). -/
def execPeerclr (h : CHdr) (a : BitVec 5) (s : State) : Result := runOne (opPeerclr h a) s

def opLimm (h : CHdr) (a : BitVec 5) (sx : Bool) (imm : BitVec 32) : Op :=
  { opK h with
    dests := [.s (regOf h.s a)]
    eff := fun s => s.result (.s (regOf h.s a)) (if sx then imm.signExtend 64 else imm.zeroExtend 64) latAlu }

/-- LIMM (R213). -/
def execLimm (h : CHdr) (a : BitVec 5) (sx : Bool) (imm : BitVec 32) (s : State) : Result := runOne (opLimm h a sx imm) s

def opLimmHi (h : CHdr) (a : BitVec 5) (imm : BitVec 32) : Op :=
  { opK h with
    dests := [.s (regOf h.s a)]
    eff := fun s => s.result (.s (regOf h.s a)) (imm ++ (s.c.reg h.s a).extractLsb' 0 32) latAlu }

/-- LIMM.hi (R213). -/
def execLimmHi (h : CHdr) (a : BitVec 5) (imm : BitVec 32) (s : State) : Result := runOne (opLimmHi h a imm) s

end Sys2Proof.Machine
end

