-- ==== Sys2Proof/Machine/TileIssue.lean ====
section
/-!
DEFINITION. The issue of tile tasks: what each names, its checks in the order of the spec, its snapshots and the tags it writes (R181 to R183, R187, R188, R214, R215, R219, R224 to R228, R232 to R237, R239 to R252).
-/

namespace Sys2Proof.Machine

open Sys2Proof

/-! ### Tags and shapes at issue -/

/-- Format tag, block-length tag and shape of tile n. -/
def State.tag (s : State) (n : BitVec 4) : BitVec 5 := s.core.fmt.get ⟨n.toNat, n.isLt⟩
def State.blgTag (s : State) (n : BitVec 4) : BitVec 3 := s.core.blg.get ⟨n.toNat, n.isLt⟩
def State.shape (s : State) (n : BitVec 4) : Shape := s.r.tshape.get ⟨n.toNat, n.isLt⟩

/-- The tag is consistent with the tile's width (R214). -/
def State.consistent (s : State) (n : BitVec 4) : Bool := s.tag n == fmtUntyped || tagWidth (s.tag n) == (s.shape n).width

/-- The width of the operation format; an untyped tile has that of its shape. -/
def State.opWidth (s : State) (n : BitVec 4) : Nat := if s.tag n = fmtUntyped then (s.shape n).width else tagWidth (s.tag n)

/-- One tag to write: tile, format, and block length where the instruction writes one. -/
abbrev TagWrite := BitVec 4 × BitVec 5 × Option (BitVec 3)

/-- Write tags (R214). -/
def CoreSt.putTags (c : CoreSt) : List TagWrite → CoreSt
  | [] => c
  | (n, f, b) :: t => CoreSt.putTags { c with
      fmt := c.fmt.set n.toNat f n.isLt
      blg := match b with | some b => c.blg.set n.toNat b n.isLt | none => c.blg } t

/-- The tags noted by a bundle take effect at its end, after every snapshot of it (R97, R214). -/
def State.tagsLand (s : State) : State := s.modCore fun c => { c.putTags c.tagWrites with tagWrites := [] }

/-! ### The shared form of a tile-acting instruction (R215) -/

/-- What a tile-acting instruction names, and what is its own. -/
structure TileForm where
  instr : Instr
  /-- Tiles in operand order, a destination first; the places of those it writes. -/
  tiles : List (BitVec 4)
  outs : List Nat
  masks : List (BitVec 3)
  ad : Option (BitVec 3)
  /-- The operand checks. -/
  bad : Nat → State → Option TrapReq
  tags : State → List TagWrite

/-- It names the tile group: a tile, or a mask tile other than m0 (R36). -/
def TileForm.names (f : TileForm) : Bool := !f.tiles.isEmpty || f.masks.any (· != 0)

/-- The descriptor's value, an empty one where none is named. -/
def TileForm.desc (f : TileForm) (s : State) : AccDesc := match f.ad with | some k => s.adOf k | none => ⟨0, 0, 0, 0⟩

/-- The tag of operand i as the task will use it: a destination has the tag being written. -/
def TileForm.newTag (f : TileForm) (s : State) (i : Nat) (n : BitVec 4) : BitVec 5 × BitVec 3 :=
  match (if f.outs.contains i then (f.tags s).find? fun t => t.1 == n else none) with
  | some t => (t.2.1, t.2.2.getD (s.blgTag n))
  | none => (s.tag n, s.blgTag n)

/-- The task, with its snapshots (R215). -/
def TileForm.task (f : TileForm) (s : State) : Task where
  instr := f.instr
  pair := s.core.atPair
  ctx := s.curCtx
  res := s.curRes
  shapes := f.tiles.map s.shape
  desc := f.desc s
  fmts := f.tiles.zipIdx.map fun p => (f.newTag s p.2 p.1).1
  blgs := f.tiles.zipIdx.map fun p => (f.newTag s p.2 p.1).2
  operand := 0
  tid := 0
  scaleSeq := none
  range := none
  dispatched := false
  stopped := false
  parked := false
  pos := 0
  jb := 0
  kb := 0
  notice := none
  remote := false
  heavy := false
  sendId := 0
  lane := none
  seq := 0
  lfsr := 0
  lfsrEnd := 0
  id := 0

/-- A deferred error of a tile it names, which user mode raises (R184, R381). -/
def State.tileError (s : State) (ns : List (BitVec 4)) : Option TrapReq :=
  if s.c.mode then none
  else (s.r.deferred.find? fun d => match d.tile with | some n => ns.contains n | none => false).map Deferred.trap

/-- The checks of a tile-acting instruction: first use before any operand check (R215). -/
def TileForm.check (f : TileForm) (slot : Nat) (s : State) : Option TrapReq :=
  (if f.ad.isSome then s.accTouch else none) <|> (if f.names then s.tileTouch else none) <|> s.tileError f.tiles <|> f.bad slot s

/-- Note the tags to write. -/
def State.noteTags (s : State) (l : List TagWrite) : State := s.modCore fun c => { c with tagWrites := c.tagWrites ++ l }

/-- A tile-acting instruction (R215). -/
def opTile (o : Op) (f : TileForm) : Op :=
  { o with
    check := f.check
    touch := fun _ => (f.ad.isSome, f.names)
    tasks := 1
    eff := fun s => (s.enqueue (f.task s)).noteTags (f.tags s)
    late := State.tagsLand }

/-- A check that must hold, with the cause it raises otherwise. -/
abbrev Need := Bool × BitVec 7

/-- The first check that fails. -/
def needs (slot : Nat) : List Need → Option TrapReq
  | [] => none
  | (ok, c) :: t => if ok then needs slot t else some (issueTrap c slot 0)

/-! ### Tile-vector instructions (R241) -/

/-- The checks of R241 in their order: group, source tags, destination width, limits, the variant bit. -/
structure VecChecks where
  group : Bool
  srcs : Bool
  width : Bool
  limits : Bool
  variant : Bool

def VecChecks.run (c : VecChecks) (slot : Nat) : Option TrapReq :=
  needs slot [(c.group, Cause.formatMismatch), (c.srcs, Cause.formatMismatch), (c.width, Cause.formatMismatch),
    (c.limits, Cause.illegalOperand), (c.variant, Cause.illegalOperand)]

/-- A tile-vector instruction. -/
def opVec (h : AHdr) (i : Instr) (tiles : List (BitVec 4)) (outs : List Nat) (masks : List (BitVec 3)) (chk : State → VecChecks)
    (tags : State → List TagWrite) : Op :=
  opTile (opV h) ⟨i, tiles, outs, masks, none, fun slot s => (chk s).run slot, tags⟩

/-- Groups of R241. -/
def State.inFlIn (s : State) (n : BitVec 4) : Bool := isFl (s.tag n) || isIn (s.tag n)
def State.inAny (s : State) (n : BitVec 4) : Bool := s.tag n != fmtN4

/-- A further source has ta's tag, and both are consistent. -/
def State.sameTag (s : State) (a b : BitVec 4) : Bool := s.tag b == s.tag a && s.consistent a && s.consistent b

/-- The destination has the width of a format. -/
def State.hasWidth (s : State) (d : BitVec 4) (w : Nat) : Bool := (s.shape d).width == w

/-- TADD, TSUB, TMUL and TFMA (R242). -/
def opArith (h : AHdr) (i : Instr) (d a b : BitVec 4) (m : BitVec 3) (v fma : Bool) : Op :=
  opVec h i [d, a, b] [0] [m]
    (fun s => ⟨s.inFlIn a, s.sameTag a b && (!fma || s.sameTag a d), s.hasWidth d (s.opWidth a), true, !v || isIn (s.tag a)⟩)
    fun s => [(d, s.tag a, none)]

def opTadd (h : AHdr) (d a b : BitVec 4) (m : BitVec 3) (v : Bool) (r : BitVec 3) : Op := opArith h (.tadd h d a b m v r) d a b m v false

/-- TADD (R242). -/
def execTadd (h : AHdr) (d a b : BitVec 4) (m : BitVec 3) (v : Bool) (r : BitVec 3) (s : State) : Result := runOne (opTadd h d a b m v r) s

def opTsub (h : AHdr) (d a b : BitVec 4) (m : BitVec 3) (v : Bool) (r : BitVec 3) : Op := opArith h (.tsub h d a b m v r) d a b m v false

/-- TSUB (R242). -/
def execTsub (h : AHdr) (d a b : BitVec 4) (m : BitVec 3) (v : Bool) (r : BitVec 3) (s : State) : Result := runOne (opTsub h d a b m v r) s

def opTmul (h : AHdr) (d a b : BitVec 4) (m : BitVec 3) (v : Bool) (r : BitVec 3) : Op := opArith h (.tmul h d a b m v r) d a b m v false

/-- TMUL (R242). -/
def execTmul (h : AHdr) (d a b : BitVec 4) (m : BitVec 3) (v : Bool) (r : BitVec 3) (s : State) : Result := runOne (opTmul h d a b m v r) s

def opTfma (h : AHdr) (d a b : BitVec 4) (m : BitVec 3) (v : Bool) (r : BitVec 3) : Op := opArith h (.tfma h d a b m v r) d a b m v true

/-- TFMA (R242). -/
def execTfma (h : AHdr) (d a b : BitVec 4) (m : BitVec 3) (v : Bool) (r : BitVec 3) (s : State) : Result := runOne (opTfma h d a b m v r) s

def opTmax (h : AHdr) (d a b : BitVec 4) (m : BitVec 3) : Op := opArith h (.tmax h d a b m) d a b m false false

/-- TMAX (R242). -/
def execTmax (h : AHdr) (d a b : BitVec 4) (m : BitVec 3) (s : State) : Result := runOne (opTmax h d a b m) s

def opTmin (h : AHdr) (d a b : BitVec 4) (m : BitVec 3) : Op := opArith h (.tmin h d a b m) d a b m false false

/-- TMIN (R242). -/
def execTmin (h : AHdr) (d a b : BitVec 4) (m : BitVec 3) (s : State) : Result := runOne (opTmin h d a b m) s

/-- TABS and TNEG (R242). -/
def opSign (h : AHdr) (i : Instr) (d a : BitVec 4) (m : BitVec 3) : Op :=
  opVec h i [d, a] [0] [m] (fun s => ⟨s.inFlIn a, s.consistent a, s.hasWidth d (s.opWidth a), true, true⟩) fun s => [(d, s.tag a, none)]

def opTabs (h : AHdr) (d a : BitVec 4) (m : BitVec 3) : Op := opSign h (.tabs h d a m) d a m

/-- TABS (R242). -/
def execTabs (h : AHdr) (d a : BitVec 4) (m : BitVec 3) (s : State) : Result := runOne (opTabs h d a m) s

def opTneg (h : AHdr) (d a : BitVec 4) (m : BitVec 3) : Op := opSign h (.tneg h d a m) d a m

/-- TNEG (R242). -/
def execTneg (h : AHdr) (d a : BitVec 4) (m : BitVec 3) (s : State) : Result := runOne (opTneg h d a m) s

/-- TAND, TOR, TXOR and TSEL: equal tags and widths (R242, R246). -/
def opBits (h : AHdr) (i : Instr) (d a b : BitVec 4) (m : BitVec 3) : Op :=
  opVec h i [d, a, b] [0] [m]
    (fun s => ⟨s.inAny a, s.sameTag a b && s.hasWidth b (s.opWidth a), s.hasWidth d (s.opWidth a), true, true⟩)
    fun s => [(d, s.tag a, none)]

def opTand (h : AHdr) (d a b : BitVec 4) (m : BitVec 3) : Op := opBits h (.tand h d a b m) d a b m

/-- TAND (R242). -/
def execTand (h : AHdr) (d a b : BitVec 4) (m : BitVec 3) (s : State) : Result := runOne (opTand h d a b m) s

def opTor (h : AHdr) (d a b : BitVec 4) (m : BitVec 3) : Op := opBits h (.tor h d a b m) d a b m

/-- TOR (R242). -/
def execTor (h : AHdr) (d a b : BitVec 4) (m : BitVec 3) (s : State) : Result := runOne (opTor h d a b m) s

def opTxor (h : AHdr) (d a b : BitVec 4) (m : BitVec 3) : Op := opBits h (.txor h d a b m) d a b m

/-- TXOR (R242). -/
def execTxor (h : AHdr) (d a b : BitVec 4) (m : BitVec 3) (s : State) : Result := runOne (opTxor h d a b m) s

def opTsel (h : AHdr) (d a b : BitVec 4) (m : BitVec 3) : Op := opBits h (.tsel h d a b m) d a b m

/-- TSEL (R246): the mask selects; equal widths are required as for the bitwise forms. DEDUCED (log entry 21). -/
def execTsel (h : AHdr) (d a b : BitVec 4) (m : BitVec 3) (s : State) : Result := runOne (opTsel h d a b m) s

/-- TSHL and TSHR (R242). -/
def opShift (h : AHdr) (i : Instr) (d a b : BitVec 4) (m : BitVec 3) : Op :=
  opVec h i [d, a, b] [0] [m]
    (fun s => ⟨isIn (s.tag a), isIn (s.tag b) && s.consistent a && s.consistent b, s.hasWidth d (s.opWidth a), true, true⟩)
    fun s => [(d, s.tag a, none)]

def opTshl (h : AHdr) (d a b : BitVec 4) (m : BitVec 3) : Op := opShift h (.tshl h d a b m) d a b m

/-- TSHL (R242). -/
def execTshl (h : AHdr) (d a b : BitVec 4) (m : BitVec 3) (s : State) : Result := runOne (opTshl h d a b m) s

def opTshr (h : AHdr) (d a b : BitVec 4) (m : BitVec 3) (k : Bool) : Op := opShift h (.tshr h d a b m k) d a b m

/-- TSHR (R242). -/
def execTshr (h : AHdr) (d a b : BitVec 4) (m : BitVec 3) (k : Bool) (s : State) : Result := runOne (opTshr h d a b m k) s

def opTmov (h : AHdr) (d a : BitVec 4) (m : BitVec 3) : Op :=
  opVec h (.tmov h d a m) [d, a] [0] [m]
    (fun s => ⟨true, s.consistent a, s.hasWidth d (s.opWidth a), s.tag a != fmtN4 || (m == 0 && s.shape d == s.shape a), true⟩)
    fun s => [(d, s.tag a, if s.tag a = fmtN4 then some (s.blgTag a) else none)]

/-- TMOV (R242). -/
def execTmov (h : AHdr) (d a : BitVec 4) (m : BitVec 3) (s : State) : Result := runOne (opTmov h d a m) s

def opTfill (h : AHdr) (d : BitVec 4) (m : BitVec 3) : Op :=
  opVec h (.tfill h d m) [d] [0] [m] (fun _ => ⟨true, true, true, true, true⟩) fun _ => []

/-- TFILL (R242). -/
def execTfill (h : AHdr) (d : BitVec 4) (m : BitVec 3) (s : State) : Result := runOne (opTfill h d m) s

def opTcvt (h : AHdr) (d a : BitVec 4) (k : BitVec 4) (m : BitVec 3) (r : BitVec 3) : Op :=
  opVec h (.tcvt h d a k m r) [d, a] [0] [m]
    (fun s => ⟨s.inFlIn a, s.consistent a, s.hasWidth d (tagWidth (cvtTarget k)), true, true⟩) fun _ => [(d, cvtTarget k, none)]

/-- TCVT (R243). -/
def execTcvt (h : AHdr) (d a : BitVec 4) (k : BitVec 4) (m : BitVec 3) (r : BitVec 3) (s : State) : Result := runOne (opTcvt h d a k m r) s

def opTdq (h : AHdr) (d a : BitVec 4) (k : BitVec 4) (m : BitVec 3) (r : BitVec 3) : Op :=
  opVec h (.tdq h d a k m r) [d, a] [0] [m]
    (fun s => ⟨s.tag a == fmtN4, s.consistent a, decide (k.toNat < 5) || s.hasWidth d (tagWidth (cvtTarget k)), decide (5 ≤ k.toNat), true⟩)
    fun _ => [(d, cvtTarget k, none)]

/-- TDQ (R243). -/
def execTdq (h : AHdr) (d a : BitVec 4) (k : BitVec 4) (m : BitVec 3) (r : BitVec 3) (s : State) : Result := runOne (opTdq h d a k m r) s

/-- The block-length tag that TQNT writes (R244). -/
def qntBlg (b : BitVec 3) : BitVec 3 := if b.toNat = 4 ∨ b.toNat = 5 ∨ b.toNat = 6 then b else 5

/-- A shape holds whole blocks of 2^b columns, and its scales fit the store (R182, R244). -/
def Shape.blocksOk (sh : Shape) (b : BitVec 3) : Bool :=
  sh.cols.toNat % 2 ^ b.toNat == 0 && decide (sh.rows.toNat * sh.cols.toNat / 2 ^ b.toNat ≤ 4096)

def opTqnt (h : AHdr) (d a : BitVec 4) (t : BitVec 2) (m : BitVec 3) (r : BitVec 3) : Op :=
  opVec h (.tqnt h d a t m r) [d, a] [0] [m]
    (fun s => ⟨s.tag a == fmtF32 || s.tag a == fmtBf16 || s.tag a == fmtF16, s.consistent a, s.hasWidth d 4,
      d != a && (s.shape d).blocksOk (qntBlg (s.blgTag d)), true⟩)
    fun s => [(d, fmtN4, some (qntBlg (s.blgTag d)))]

/-- TQNT (R244). -/
def execTqnt (h : AHdr) (d a : BitVec 4) (t : BitVec 2) (m : BitVec 3) (r : BitVec 3) (s : State) : Result := runOne (opTqnt h d a t m r) s

def opTscl (h : AHdr) (d a b : BitVec 4) (m : BitVec 3) (v : Bool) (r : BitVec 3) : Op :=
  opVec h (.tscl h d a b m v r) [d, a, b] [0] [m]
    (fun s => ⟨isFl (s.tag a), s.sameTag a b, s.hasWidth d (s.opWidth a), d != b, true⟩) fun s => [(d, s.tag a, none)]

/-- TSCL (R245). -/
def execTscl (h : AHdr) (d a b : BitVec 4) (m : BitVec 3) (v : Bool) (r : BitVec 3) (s : State) : Result := runOne (opTscl h d a b m v r) s

def opTcmp (h : AHdr) (k : BitVec 3) (a b : BitVec 4) (m : BitVec 3) (c : BitVec 4) : Op :=
  opVec h (.tcmp h k a b m c) [a, b] [] [k, m] (fun s => ⟨s.inFlIn a, s.sameTag a b, true, !isFl (s.tag a) || decide (c.toNat ≤ 7), true⟩)
    fun _ => []

/-- TCMP (R246): on floating-point elements only the conditions 0 to 7 exist (R121). -/
def execTcmp (h : AHdr) (k : BitVec 3) (a b : BitVec 4) (m : BitVec 3) (c : BitVec 4) (s : State) : Result := runOne (opTcmp h k a b m c) s

/-- Two tiles have as many rows and columns: R247's "ta's shape", taken without the element width (DESIGN CHOICE, log entry 71). -/
def State.sameExtent (s : State) (a b : BitVec 4) : Bool := (s.shape a).rows == (s.shape b).rows && (s.shape a).cols == (s.shape b).cols

def opTcas (h : AHdr) (d a : BitVec 4) (b : BitVec 4) (m : BitVec 3) (o c : Bool) : Op :=
  opVec h (.tcas h d a b m o c) [d, a] [] [m]
    (fun s => ⟨s.inAny a, s.consistent a && (d == a || (s.inAny d && s.consistent d)), true,
      decide (b.toNat ≤ 8) && (d == a || s.sameExtent d a), true⟩)
    fun _ => []

/-- TCAS (R247). -/
def execTcas (h : AHdr) (d a : BitVec 4) (b : BitVec 4) (m : BitVec 3) (o c : Bool) (s : State) : Result := runOne (opTcas h d a b m o c) s

/-- The integer tag of an index tile by its width code (R248, R250, R251). -/
def indexTag (ew : BitVec 3) : BitVec 5 := if ew = 1 then fmtU8 else if ew = 2 then fmtI16 else fmtI32

/-- TMAXI and TMINI (R248). -/
def opIndex (h : AHdr) (i : Instr) (d a b : BitVec 4) (m : BitVec 3) : Op :=
  opVec h i [d, a, b] [0, 2] [m]
    (fun s => ⟨s.inFlIn a, s.sameTag a d && ((s.shape b).ew == 2 || (s.shape b).ew == 3), s.hasWidth d (s.opWidth a),
      a != d && a != b && d != b, true⟩)
    fun s => [(b, indexTag (s.shape b).ew, none)]

def opTmaxi (h : AHdr) (d a b : BitVec 4) (m : BitVec 3) (c : Bool) : Op := opIndex h (.tmaxi h d a b m c) d a b m

/-- TMAXI (R248). -/
def execTmaxi (h : AHdr) (d a b : BitVec 4) (m : BitVec 3) (c : Bool) (s : State) : Result := runOne (opTmaxi h d a b m c) s

def opTmini (h : AHdr) (d a b : BitVec 4) (m : BitVec 3) (c : Bool) : Op := opIndex h (.tmini h d a b m c) d a b m

/-- TMINI (R248). -/
def execTmini (h : AHdr) (d a b : BitVec 4) (m : BitVec 3) (c : Bool) (s : State) : Result := runOne (opTmini h d a b m c) s

/-- TRED (R249). -/
def opRed (h : AHdr) (i : Instr) (d a : BitVec 4) (m : BitVec 3) : Op :=
  opVec h i [d, a] [0] [m]
    (fun s => ⟨s.inFlIn a, s.consistent a && s.consistent d && (s.tag d == s.tag a || (isFl (s.tag a) && s.tag d == fmtF32)),
      s.hasWidth d (s.opWidth d), d != a, true⟩)
    fun s => [(d, s.tag d, none)]

def opTredSum (h : AHdr) (d a : BitVec 4) (c : Bool) (m : BitVec 3) (r : BitVec 3) : Op := opRed h (.tredSum h d a c m r) d a m

/-- TRED.sum (R249). -/
def execTredSum (h : AHdr) (d a : BitVec 4) (c : Bool) (m : BitVec 3) (r : BitVec 3) (s : State) : Result := runOne (opTredSum h d a c m r) s

def opTredMax (h : AHdr) (d a : BitVec 4) (c : Bool) (m : BitVec 3) (r : BitVec 3) : Op := opRed h (.tredMax h d a c m r) d a m

/-- TRED.max (R249). -/
def execTredMax (h : AHdr) (d a : BitVec 4) (c : Bool) (m : BitVec 3) (r : BitVec 3) (s : State) : Result := runOne (opTredMax h d a c m r) s

def opTredMin (h : AHdr) (d a : BitVec 4) (c : Bool) (m : BitVec 3) (r : BitVec 3) : Op := opRed h (.tredMin h d a c m r) d a m

/-- TRED.min (R249). -/
def execTredMin (h : AHdr) (d a : BitVec 4) (c : Bool) (m : BitVec 3) (r : BitVec 3) (s : State) : Result := runOne (opTredMin h d a c m r) s

/-- TBC and TTR (R250). -/
def opLayout (h : AHdr) (i : Instr) (d a : BitVec 4) (m : BitVec 3) : Op :=
  opVec h i [d, a] [0] [m] (fun s => ⟨s.inAny a, s.consistent a, s.hasWidth d (s.opWidth a), d != a, true⟩) fun s => [(d, s.tag a, none)]

def opTbc (h : AHdr) (d a : BitVec 4) (m : BitVec 3) (c : Bool) : Op := opLayout h (.tbc h d a m c) d a m

/-- TBC (R250). -/
def execTbc (h : AHdr) (d a : BitVec 4) (m : BitVec 3) (c : Bool) (s : State) : Result := runOne (opTbc h d a m c) s

def opTtr (h : AHdr) (d a : BitVec 4) (m : BitVec 3) : Op := opLayout h (.ttr h d a m) d a m

/-- TTR (R250). -/
def execTtr (h : AHdr) (d a : BitVec 4) (m : BitVec 3) (s : State) : Result := runOne (opTtr h d a m) s

def opTslc (h : AHdr) (d a b : BitVec 4) (m : BitVec 3) : Op :=
  opVec h (.tslc h d a b m) [d, a, b] [0] [m]
    (fun s => ⟨s.inAny a, isIn (s.tag b) && s.consistent a && s.consistent b, s.hasWidth d (s.opWidth a), d != a && d != b, true⟩)
    fun s => [(d, s.tag a, none)]

/-- TSLC (R250). -/
def execTslc (h : AHdr) (d a b : BitVec 4) (m : BitVec 3) (s : State) : Result := runOne (opTslc h d a b m) s

def opTidx (h : AHdr) (d : BitVec 4) (m : BitVec 3) (c : Bool) : Op :=
  opVec h (.tidx h d m c) [d] [0] [m]
    (fun s => ⟨true, true, true, (s.shape d).ew == 1 || (s.shape d).ew == 2 || (s.shape d).ew == 3, true⟩)
    fun s => [(d, indexTag (s.shape d).ew, none)]

/-- TIDX (R250). -/
def execTidx (h : AHdr) (d : BitVec 4) (m : BitVec 3) (c : Bool) (s : State) : Result := runOne (opTidx h d m c) s

def opMlog (h : AHdr) (j k l m : BitVec 3) (t : BitVec 4) : Op :=
  opVec h (.mlog h j k l m t) [] [] [j, k, l, m] (fun _ => ⟨true, true, true, true, true⟩) fun _ => []

/-- MLOG (R251). -/
def execMlog (h : AHdr) (j k l m : BitVec 3) (t : BitVec 4) (s : State) : Result := runOne (opMlog h j k l m t) s

def opMcnt (h : AHdr) (d : BitVec 4) (k m : BitVec 3) : Op :=
  opVec h (.mcnt h d k m) [d] [0] [k, m] (fun s => ⟨true, true, (s.shape d).ew == 2 || (s.shape d).ew == 3, true, true⟩)
    fun s => [(d, indexTag (s.shape d).ew, none)]

/-- MCNT (R251). -/
def execMcnt (h : AHdr) (d : BitVec 4) (k m : BitVec 3) (s : State) : Result := runOne (opMcnt h d k m) s

/-! ### Matrix multiply (R224 to R228) -/

/-- The pair of formats is one of R225. -/
def mmaFormats (a b : BitVec 5) : Bool :=
  (a == fmtBf16 && b == fmtBf16) || (a == fmtF16 && b == fmtF16) ||
  ((a == fmtE4 || a == fmtE5) && (b == fmtE4 || b == fmtE5)) ||
  ((a == fmtI8 || a == fmtU8) && (b == fmtI8 || b == fmtU8)) || (a == fmtN4 && b == fmtN4)

/-- The second operand's N (R226). -/
def State.mmaN (s : State) (a b : BitVec 4) : Nat := if s.tag a = fmtN4 then (s.shape b).rows.toNat else (s.shape b).cols.toNat

/-- K, N and the block lengths agree (R226 check 2). -/
def State.mmaShapes (s : State) (a b : BitVec 4) : Bool :=
  if s.tag a = fmtN4 then (s.shape a).cols == (s.shape b).cols && s.blgTag a == s.blgTag b
  else (s.shape a).cols.toNat == (s.shape b).rows.toNat

/-- The checks of R226, in their order, for the present residency; a tag that is not consistent raises FORMAT_MISMATCH, as R214 has it and R226 does not say (DEDUCED, log entry 73). -/
def State.mmaNeeds (s : State) (k : BitVec 3) (a b : BitVec 4) (v : Bool) : List Need :=
  [(mmaFormats (s.tag a) (s.tag b) && s.consistent a && s.consistent b, Cause.formatMismatch),
   (s.mmaShapes a b, Cause.illegalOperand),
   (!v || (s.tag a == fmtN4 && (s.shape a).cols.toNat == 2 ^ (s.blgTag a).toNat && decide (2 * s.mmaN a b ≤ (s.adOf k).cols.toNat)),
    Cause.illegalOperand)]

/-- The form of an MMA. -/
def mmaForm (i : Instr) (k : BitVec 3) (a b : BitVec 4) (v : Bool) : TileForm :=
  ⟨i, [a, b], [], [], some k, fun slot s => needs slot (s.mmaNeeds k a b v), fun _ => []⟩

def opMma (h : CHdr) (k : BitVec 3) (a b : BitVec 4) (r : BitVec 3) : Op := opTile (opN h) (mmaForm (.mma h k a b r) k a b false)

/-- MMA (R224 to R227). -/
def execMma (h : CHdr) (k : BitVec 3) (a b : BitVec 4) (r : BitVec 3) (s : State) : Result := runOne (opMma h k a b r) s

def opMmaX (h : CHdr) (k : BitVec 3) (a b : BitVec 4) (r : BitVec 3) : Op := opTile (opN h) (mmaForm (.mmaX h k a b r) k a b true)

/-- MMA.x (R226, R228). -/
def execMmaX (h : CHdr) (k : BitVec 3) (a b : BitVec 4) (r : BitVec 3) (s : State) : Result := runOne (opMmaX h k a b r) s

/-! ### Accumulator transfers (R187, R188, R232) -/

/-- A width that ACCRD and ACCWR move: 8, 16 or 32 bits. -/
def State.accWidth (s : State) (n : BitVec 4) : Bool := (s.shape n).ew == 1 || (s.shape n).ew == 2 || (s.shape n).ew == 3

/-- The format ACCRD writes (R187). -/
def accrdTag (ew : BitVec 3) (v : Bool) : BitVec 5 :=
  if v then (if ew = 1 then fmtI8 else if ew = 2 then fmtI16 else fmtI32)
  else if ew = 1 then fmtE4 else if ew = 2 then fmtBf16 else fmtF32

def opAccrd (h : CHdr) (n : BitVec 4) (d : BitVec 3) (v : Bool) (r : BitVec 3) : Op :=
  opTile (opM h) ⟨.accrd h n d v r, [n], [0], [], some d, fun slot s => needs slot [(s.accWidth n, Cause.illegalOperand)],
    fun s => [(n, accrdTag (s.shape n).ew v, none)]⟩

/-- ACCRD (R187). -/
def execAccrd (h : CHdr) (n : BitVec 4) (d : BitVec 3) (v : Bool) (r : BitVec 3) (s : State) : Result := runOne (opAccrd h n d v r) s

/-- ACCWR in either form. -/
def opAccStore (h : CHdr) (i : Instr) (d : BitVec 3) (n : BitVec 4) : Op :=
  opTile (opM h) ⟨i, [n], [], [], some d, fun slot s => needs slot [(s.accWidth n, Cause.illegalOperand)], fun _ => []⟩

def opAccwr (h : CHdr) (d : BitVec 3) (n : BitVec 4) : Op := opAccStore h (.accwr h d n) d n

/-- ACCWR (R188). -/
def execAccwr (h : CHdr) (d : BitVec 3) (n : BitVec 4) (s : State) : Result := runOne (opAccwr h d n) s

def opAccwrAdd (h : CHdr) (d : BitVec 3) (n : BitVec 4) : Op := opAccStore h (.accwrAdd h d n) d n

/-- ACCWR.add (R188). -/
def execAccwrAdd (h : CHdr) (d : BitVec 3) (n : BitVec 4) (s : State) : Result := runOne (opAccwrAdd h d n) s

/-- Zero the words of a rectangle, row by row. -/
def zeroRows (d : AccDesc) : List Nat → CoreSt → CoreSt
  | [], c => c
  | i :: t, c => zeroRows d t (c.put (d.key i 0) (List.replicate (4 * d.cols.toNat) 0))

def opAccz (h : CHdr) (k : BitVec 3) : Op :=
  { opN h with
    check := fun _ s => s.accTouch
    touch := fun _ => (true, false)
    banks := fun s => (s.adOf k).banks
    wait := fun s => s.banksUsed (s.adOf k)
    eff := fun s => (s.modCore (zeroRows (s.adOf k) (List.range (s.adOf k).rows.toNat))).modR fun r => { r with accLive := r.accLive ||| (1 <<< k.toNat) } }

/-- ACCZ (R232). -/
def execAccz (h : CHdr) (k : BitVec 3) (s : State) : Result := runOne (opAccz h k) s

/-! ### Special functions (R237 to R239) -/

/-- A tag that is not consistent raises FORMAT_MISMATCH, which R237 does not say (DEDUCED from R214, log entry 73). -/
def opSft (h : CHdr) (d a : BitVec 4) (r : BitVec 3) (u : BitVec 4) : Op :=
  opTile (opN h) ⟨.sft h d a r u, [d, a], [0], [], none,
    fun slot s => needs slot [(isFl (s.tag a) && isFl (s.tag d) && s.consistent a && s.consistent d, Cause.formatMismatch)], fun _ => []⟩

/-- SFT (R237). -/
def execSft (h : CHdr) (d a : BitVec 4) (r : BitVec 3) (u : BitVec 4) (s : State) : Result := runOne (opSft h d a r u) s

def opSfs (h : CHdr) (a b : BitVec 5) (r : BitVec 3) (fn : BitVec 4) : Op :=
  { opN h with
    dests := [.s (regOf h.s a)]
    wait := fun s => decide (32 ≤ (s.cl.fifos.get s.curCtx).length)
    eff := fun s =>
      let draws := decide (fn.toNat = 4) && decide (r.toNat = 4)
      let q : SfuReq := ⟨s.core.atPair, true, r, fn, 0, s.c.reg h.s b, s.c.mode, regOf h.s a, if draws then some s.r.lfsr else none⟩
      (((if draws then s.modR fun x => { x with lfsr := lfsrStep x.lfsr } else s).setFifo s.curCtx (s.cl.fifos.get s.curCtx ++ [q])).modC fun c =>
        { c with awaits := c.awaits ++ [⟨0, .s (regOf h.s a), none, c.mode, true⟩] }).sfuKick }

/-- SFS (R239); a square root under SR takes its LFSR value here, in issue order (R68). -/
def execSfs (h : CHdr) (a b : BitVec 5) (r : BitVec 3) (fn : BitVec 4) (s : State) : Result := runOne (opSfs h a b r fn) s

/-! ### TLD and TST (R181 to R183) -/

/-- Operands that TLD and TST share. -/
structure TileMove where
  a : BitVec 5
  n : BitVec 4
  ch : BitVec 3
  need : BitVec 4
  hnd : BitVec 4
  he : Bool
  stride : BitVec 16
  store : Bool

/-- The pointer of the area: with a handle, its slot address plus the offset (R182). -/
def TileMove.area (m : TileMove) (h : CHdr) (s : State) : Word :=
  let p := s.c.reg h.s m.a
  let hn := s.r.handle m.hnd
  if m.he then p.extractLsb' 48 16 ++ BitVec.ofNat 48 (ptrOff (if m.store then hn.prodPtr else hn.consPtr) + ptrOff p) else p

/-- The bytes of the area: to the last row's last byte, and the scale array (R182). -/
def TileMove.len (m : TileMove) (h : CHdr) (s : State) : Nat := areaLen (s.c.reg h.s m.a) (s.shape m.n) m.stride

/-- The area as one access (R182 check 6). -/
def TileMove.access (m : TileMove) (h : CHdr) (slot : Nat) (s : State) : Access := ⟨m.area h s, m.len h s, m.store, false, slot, 0, false⟩

/-- The pointer's format matches the tile (R182 check 2). -/
def TileMove.formatOk (m : TileMove) (h : CHdr) (s : State) : Bool :=
  let p := s.c.reg h.s m.a
  !fmtKnown (ptrFmt p) || ptrFmt p == 0 ||
  (fmtWidth (ptrFmt p) == (s.shape m.n).width &&
   (ptrFmt p != 0x10 || (ptrBlg p != 0 && (!m.store || ptrBlg p == (s.blgTag m.n).toNat))))

/-- The stride suits the format and the shape (R182 check 4). -/
def TileMove.strideOk (m : TileMove) (h : CHdr) (s : State) : Bool :=
  let sh := s.shape m.n
  let rb := sh.rowBytes
  m.stride == 0 || ((ptrFmt (s.c.reg h.s m.a) != 0x10 || m.stride.toNat == rb) &&
    (!m.store || decide (sh.rows.toNat ≤ 1) || decide (rb ≤ m.stride.toNat)))

/-- The area lies inside the handle's ring (R182 check 5). -/
def TileMove.ringOk (m : TileMove) (h : CHdr) (s : State) : Bool :=
  let hn := s.r.handle m.hnd
  !m.he || (hn.defined && decide (ptrOff hn.base ≤ ptrOff (m.area h s)) && decide (ptrOff (m.area h s) + max (m.len h s) 1 ≤ ptrOff hn.base + hn.slot * hn.nslot))

/-- The checks of R182. -/
def TileMove.check (m : TileMove) (h : CHdr) (slot : Nat) (s : State) : Option TrapReq :=
  let p := s.c.reg h.s m.a
  (if ptrWin p ≠ 0 then some ((m.access h slot s).trap Cause.windowFault 0) else none) <|>
  (if !m.formatOk h s then some (issueTrap Cause.formatMismatch slot p) else none) <|>
  illegalIf (ptrFmt p == 0x10 && !(s.shape m.n).blocksOk (BitVec.ofNat 3 (ptrBlg p))) slot p <|>
  illegalIf (!m.strideOk h s) slot p <|> illegalIf (!m.ringOk h s) slot p <|> s.checkAccess (m.access h slot s)

/-- The tags that a TLD writes (R214). -/
def TileMove.tags (m : TileMove) (h : CHdr) (s : State) : List TagWrite :=
  let p := s.c.reg h.s m.a
  if m.store || ptrFmt p == 0 then []
  else [(m.n, BitVec.ofNat 5 (ptrFmt p), if ptrFmt p = 0x10 then some (BitVec.ofNat 3 (ptrBlg p)) else none)]

/-- TLD or TST (R181 to R183). -/
def opMove (h : CHdr) (i : Instr) (m : TileMove) : Op :=
  let f : TileForm := ⟨i, [m.n], if m.store then [] else [0], [], none, m.check h, m.tags h⟩
  { opTile (opM h) f with
    touch := fun s => ((s.touches (s.accessRegion (m.access h 0 s))).1, true)
    ranges := fun s => if m.len h s = 0 then 0 else 1
    wait := fun s => s.stalled (m.access h 0 s) || s.busy (ptrOff (m.area h s)) (m.len h s)
    eff := fun s =>
      let g := s.guardArea .trap (m.area h s) (m.len h s)
      let t := { f.task s with operand := m.area h s, tid := s.nextTid m.ch, range := g.2 }
      ((g.1.takeTid m.ch).enqueue t).noteTags (f.tags s) }

def opTld (h : CHdr) (a : BitVec 5) (t : BitVec 4) (ch : BitVec 3) (need hnd : BitVec 4) (he : Bool) (stride : BitVec 16) : Op :=
  opMove h (.tld h a t ch need hnd he stride) ⟨a, t, ch, need, hnd, he, stride, false⟩

/-- TLD (R181 to R183). -/
def execTld (h : CHdr) (a : BitVec 5) (t : BitVec 4) (ch : BitVec 3) (need hnd : BitVec 4) (he : Bool) (stride : BitVec 16) (s : State) : Result :=
  runOne (opTld h a t ch need hnd he stride) s

def opTst (h : CHdr) (a : BitVec 5) (t : BitVec 4) (ch : BitVec 3) (need hnd : BitVec 4) (he : Bool) (stride : BitVec 16) : Op :=
  opMove h (.tst h a t ch need hnd he stride) ⟨a, t, ch, need, hnd, he, stride, true⟩

/-- TST (R181 to R183). -/
def execTst (h : CHdr) (a : BitVec 5) (t : BitVec 4) (ch : BitVec 3) (need hnd : BitVec 4) (he : Bool) (stride : BitVec 16) (s : State) : Result :=
  runOne (opTst h a t ch need hnd he stride) s

end Sys2Proof.Machine
end

