-- ==== Sys2Proof/Machine/Sending.lean ====
section
/-!
DEFINITION. How messages, commands and markers leave a core, and how a send goes on and ends (R255, R257 to R259, R299, R315, R324, R333, R393).
-/

namespace Sys2Proof.Machine

open Sys2Proof

/-! ### Groups, streams, lengths -/

/-- The group of a number in a residency's group table (R255). -/
def Res.groupOf (r : Res) (g : BitVec 16) : Option Group := r.groups.find? fun x => x.num == g

/-- The stream of a list by source, destination and group (R315). -/
def streamOf (l : List Stream) (src dst : Rank) (g : BitVec 16) : Stream :=
  (l.find? fun x => x.src == src && x.dst == dst && x.group == g).getD ⟨src, dst, g, 0, none, none⟩

/-- Replace a stream in a list. -/
def setStream (l : List Stream) (x : Stream) : List Stream := x :: l.filter fun y => !(y.src == x.src && y.dst == x.dst && y.group == x.group)

/-- The stream of a message at its sender, and at its receiver (R315). -/
def State.streamOut (s : State) (m : Message) : Stream := streamOf s.core.streamsOut m.src m.dst m.group
def State.streamIn (s : State) (m : Message) : Stream := streamOf s.core.streamsIn m.src m.dst m.group

/-- Change a stream of the core's. -/
def State.putOut (s : State) (x : Stream) : State := s.modCore fun c => { c with streamsOut := setStream c.streamsOut x }
def State.putIn (s : State) (x : Stream) : State := s.modCore fun c => { c with streamsIn := setStream c.streamsIn x }

/-- Bytes of a block with its scale byte, less the scale: data bytes per block of an N4 message (R258). -/
def blockData (blg : BitVec 3) : Nat := 2 ^ (blg.toNat - 1)

/-- The data bytes of a message, scales not counted (R258). -/
def dataLen (blg : BitVec 3) (len : Nat) : Nat := if blg = 0 then len else len / (blockData blg + 1) * blockData blg

/-- The bytes that a receive of length n takes of a message: whole blocks of an N4 message (R258, R326). -/
def takeLen (blg : BitVec 3) (len n : Nat) : Nat :=
  if blg = 0 then min n len else min (n / (blockData blg + 1)) (len / (blockData blg + 1)) * (blockData blg + 1)

/-- Those bytes of a message: data blocks, then their scales (R258). -/
def takeBytes (blg : BitVec 3) (len n : Nat) (bs : List Byte) : List Byte :=
  if blg = 0 then bs.take n
  else
    let k := n / (blockData blg + 1)
    bs.take (k * blockData blg) ++ (bs.drop (dataLen blg len)).take k

/-! ### Sends (R257, R259) -/

/-- Change, find and remove a send. -/
def State.modSend (s : State) (id : Nat) (f : Send → Send) : State :=
  s.modCore fun c => { c with sends := c.sends.map fun q => if q.id = id then f q else q }
def State.sendOf (s : State) (id : Nat) : Option Send := s.core.sends.find? fun q => q.id == id

/-- Lower the unacknowledged-byte counter of a rank in the table of a work order (R344). -/
def State.lowerCount (s : State) (order : Nat) (d : Rank) (n : Nat) : State :=
  { s with die := { s.die with unacked := s.die.unacked.map fun x => if x.1 = order ∧ x.2.1 = d then (x.1, x.2.1, x.2.2 - n) else x } }

/-- Lower the counter that a SENDX has charged (R344). -/
def State.uncharge (s : State) (q : Send) : State := if q.charged then s.lowerCount q.msg.order q.msg.dst (dataLen q.msg.blg q.msg.len) else s

/-- A send is over: acknowledged or failed (R257). -/
def State.closeSend (s : State) (q : Send) : State :=
  (s.modCore fun c => { c with sends := c.sends.filter fun x => x.id != q.id,
                               packetKept := if c.packetKept = some q.id then none else c.packetKept }).uncharge q

/-- Local completion: the range entry goes with its last copy, and the mailbox counts LEN (R257, R269, R276). -/
def State.localDone (s : State) (q : Send) : State :=
  if q.local_ then s
  else
    let s1 := s.modSend q.id fun x => { x with local_ := true, range := none }
    let shared := s1.core.sends.any fun x => x.range == q.range
    let s2 := if q.range.isSome && shared then s1 else s1.rangeRemove q.range
    let s2 := s2.modCore fun c => { c with packetKept := if c.packetKept = some q.id then none else c.packetKept }
    s2.modRes q.res fun r => r.credit q.mbox (dataLen q.msg.blg q.msg.len)

/-- The error-queue entry of a failed send (R259). -/
def State.sendError (s : State) (q : Send) (cause : BitVec 7) (info : Word) : State :=
  s.modRes q.res fun r => r.postError (errEntry cause q.ctx q.pair 0 q.buf q.msg.dst.toNat 0 info)

/-- A rank of a residency's work order stands on a quarantined die of this package (R329). -/
def State.onQuarantined (s : State) (k : ResNo) (d : Rank) : Bool :=
  Rank.pkg d == s.srv.pkg && match s.pkg.dies[s.physicalOf (s.res.get k).order (Rank.core d) / 144]? with
    | some x => x.state == .quarantined
    | none => false

/-- A rank is dead to a residency: its package's dead-peer bit is set, or its die is quarantined (R270, R329). -/
def State.goneFor (s : State) (k : ResNo) (d : Rank) : Bool :=
  (Rank.pkg d != s.srv.pkg && (s.res.get k).deadPeers.contains (Rank.pkg d)) || s.onQuarantined k d

/-- An envelope or its data have left: a source timer starts towards another package (R393), and what goes to a quarantined die, or over no live port, is answered with PEER_DEAD (R392). -/
def State.timeSend (s : State) (q : Send) : State :=
  if s.onQuarantined q.res q.msg.dst then s.post (.peerDeadResponse q.id)
  else if Rank.pkg q.msg.dst = s.srv.pkg then s
  else ((s.modSend q.id fun x => { x with due := s.timerEnd (Rank.pkg q.msg.dst) }).after (2250 * s.core.dptimeout.toNat) .sourceTimeout).answerCut q.id (Rank.pkg q.msg.dst)

/-- The envelope of a send is on its way. -/
def State.underWay (s : State) (q : Send) (rdv : Bool) : State :=
  s.modSend q.id fun x => { x with state := if rdv then .rdvOut else .eagerOut, retryAt := none }

/-- An envelope goes out: to this core's own Postmaster, or into the fabric (R254). -/
def State.transmit (s : State) (q : Send) (m : Message) : State := ((s.underWay q m.rdv).emitFor m.order (.message m)).timeSend q

/-- The bytes of a send: with its message, or in its buffer. -/
def State.sendBytes (s : State) (q : Send) : List Byte :=
  if q.kept then q.msg.data else ({ s with curRes := q.res }).readBytes (ptrOff q.buf) q.msg.len

/-- Its buffer holds a word in error (R377). -/
def State.sendBad (s : State) (q : Send) : Bool := !q.kept && ({ s with curRes := q.res }).badAt (ptrOff q.buf) q.msg.len

/-- The first attempt of a numbered envelope: eager data travel behind it (R320). -/
def State.firstAttempt (s : State) (q : Send) : State :=
  s.transmit q { q.msg with data := if q.msg.rdv then [] else s.sendBytes q }

/-- The send whose envelope leaves now: none where it waits for its refused stream (R324), or where a word in error has failed it (R377). -/
def State.goesNow (s : State) (id : Nat) : Option Send :=
  match s.sendOf id with
  | none => none
  | some q => if (s.streamOut q.msg).refused.isSome || (!q.msg.rdv && s.sendBad q) then none else some q

/-- A send that may go but has a word in error fails (R377). -/
def State.failBad (s : State) (id : Nat) : State :=
  match s.sendOf id with
  | none => s
  | some q =>
    if (s.streamOut q.msg).refused.isNone && !q.msg.rdv && s.sendBad q then
      ((s.localDone q).sendError q Cause.memoryUncorrectable (BitVec.ofNat 64 (ptrOff q.buf))).closeSend q
    else s

/-- A send takes the next SEQ of its stream (R63, R315). -/
def State.number (s : State) (q : Send) : State × Send :=
  let st := s.streamOut q.msg
  let f (x : Send) : Send := { x with msg := { x.msg with seq := st.seq, scaleSeq := st.seq } }
  ((s.modSend q.id f).putOut { st with seq := st.seq + 1 }, f q)

/-- An envelope leaves: it is numbered, unless its stream is refused and it waits (R315, R324); a word in error fails the send. -/
def State.envelopeOut (s : State) (id : Nat) : State :=
  match s.goesNow id with
  | none => s.failBad id
  | some q => (s.number q).1.firstAttempt (s.number q).2

/-- The copies of one multicast are numbered, each in its stream; those that leave, with their receivers (R340). -/
def numberCopies : List Nat → State → State × List Send
  | [], s => (s, [])
  | id :: t, s => match s.goesNow id with
    | none => numberCopies t (s.failBad id)
    | some q =>
      let n := s.number q
      let r := numberCopies t n.1
      (r.1, n.2 :: r.2)

/-- Sends of a list are on their way, each with its source timer. -/
def allUnderWay : List Send → State → State
  | [], s => s
  | q :: t, s => allUnderWay t ((s.underWay q q.msg.rdv).timeSend q)

/-- A multicast leaves as one copy (R340). -/
def State.castOut (s : State) (ids : List Nat) : State :=
  let r := numberCopies ids s
  match r.2 with
  | [] => r.1
  | q :: t =>
    let m := { q.msg with data := if q.msg.rdv then [] else r.1.sendBytes q }
    (allUnderWay (q :: t) r.1).emitCast m ((q :: t).map fun x => ⟨x.msg.dst, x.msg.seq, x.id, r.1.targetOf x.msg.order x.msg.dst⟩)

/-- A queued item is the envelope of a send. -/
def Out.carries (o : Out) (id : Nat) : Bool :=
  match o with
  | .message m => m.sendId == id
  | .cast _ ds => ds.any fun x => x.sendId == id
  | _ => false

/-- A send of the stream that waits for it: refused after its head, or not yet numbered and not in the queue (R324). -/
def State.waitsStream (s : State) (src dst : Rank) (g : BitVec 16) (q : Send) : Bool :=
  q.msg.src == src && q.msg.dst == dst && q.msg.group == g &&
  ((q.state == .backoff && q.retryAt.isNone) || (q.state == .waiting && !(s.core.leaving.any fun l => l.item.carries q.id)))

/-- Send the waiting ones again, in order. -/
def sendAgain : List Send → State → State
  | [], s => s
  | q :: t, s => sendAgain t (if q.state = .waiting then s.envelopeOut q.id else s.firstAttempt q)

/-- The refused head of a stream is accepted or given up: the later messages follow (R324). -/
def State.resumeStream (s : State) (q : Send) : State :=
  let st := s.streamOut q.msg
  if st.refused = some q.msg.seq then
    let s1 := s.putOut { st with refused := none }
    sendAgain (s1.core.sends.filter (s1.waitsStream q.msg.src q.msg.dst q.msg.group)) s1
  else s

/-- A send fails: its cause goes to the error queue with an information word, it is locally complete and over (R257, R259). -/
def State.failSendWith (s : State) (q : Send) (cause : BitVec 7) (info : Word) : State :=
  (((s.localDone q).sendError q cause info).closeSend q).resumeStream q

/-- The same with the information word of R259. -/
def State.failSend (s : State) (q : Send) (cause : BitVec 7) (timeout : Bool) : State := s.failSendWith q cause (sendInfo q.msg timeout)

/-- A send that is locally complete and acknowledged is over. -/
def State.settleSend (s : State) (id : Nat) : State :=
  match s.sendOf id with
  | none => s
  | some q => if q.local_ && q.acked then s.closeSend q else s

/-! ### The queue of what leaves (R299, R315, R175) -/

/-- Server writes that a release at system scope of the present context waits for, by their numbers in the cluster (R202, R299). -/
def State.releaseIds (s : State) : List Nat :=
  ((s.mine.filter Req.writes).map fun q => 2 * q.id + 1) ++ ((s.cl.buffer.filter fun b => s.c.served.contains b.key).map (·.key))

/-- A write of that number is not yet acknowledged. -/
def State.unacked (s : State) (key : Nat) : Bool := (s.core.reqs.any fun q => 2 * q.id + 1 == key && q.writes) || (s.cl.buffer.any fun b => b.key == key)

/-- An item leaves the core. -/
def State.depart (s : State) (l : Leaving) : State :=
  match l.item with
  | .message m => s.envelopeOut m.sendId
  | .cast _ ds => s.castOut (ds.map (·.sendId))
  | o => s.emitFor (s.res.get l.res).order o

/-- The item's server writes are acknowledged. -/
def State.mayLeave (s : State) (l : Leaving) : Bool := !(l.after.any s.unacked)

/-- A marker whose channel has a message that its refused stream still holds at this end (R324, R347). -/
def State.markerStuck (s : State) (l : Leaving) : Bool :=
  match l.item with
  | .marker src dst _ _ => s.core.sends.any fun q => q.msg.src == src && q.msg.dst == dst && q.state == .waiting && !(s.core.leaving.any fun x => x.item.carries q.id)
  | _ => false

/-- The first item that may leave, in the core's issue order: a reduction message whose task has not been dispatched holds every later one; a marker, which is no envelope, behind an open packet or a refused stream holds those of its own residency alone (R175, R299, R315, R347). -/
def State.nextOut (s : State) : List ResNo → List Leaving → Option Leaving
  | _, [] => none
  | held, l :: t =>
    if held.contains l.res then s.nextOut held t
    else if !l.ready && !l.item.isMarker then none
    else if !l.ready || s.markerStuck l then s.nextOut (l.res :: held) t
    else if s.mayLeave l then some l
    else none

/-- Let out what may leave, on fuel. -/
def flushOut : Nat → State → State
  | 0, s => s
  | n + 1, s => match s.nextOut [] s.core.leaving with
    | none => s
    | some l => flushOut n ((s.modCore fun c => { c with leaving := c.leaving.erase l }).depart l)

/-- Let out whatever may leave, in order (R315). -/
def State.flush (s : State) : State := flushOut s.core.leaving.length s

/-- Queue an item behind the others of the present residency. -/
def State.queueOut (s : State) (o : Out) (after : List Nat) (ready : Bool) : State :=
  s.modCore fun c => { c with leaving := c.leaving ++ [⟨o, after, s.curRes, ready⟩] }

/-! ### Starting a send -/

/-- A send at issue, before its envelope leaves. -/
def State.newSend (s : State) (dst : Rank) (buf : Word) (group : BitVec 16) (tag : BitVec 32) (len : Nat) (blg : BitVec 3) : Send where
  id := s.fresh
  res := s.curRes
  ctx := s.curCtx
  pair := s.core.atPair
  msg := { src := s.r.rank, dst := dst, tag := tag, group := group, len := len, cls := 0, rdv := false, pkt := false, retry := false, fin := false,
           bad := false, seq := 0, blg := blg, scaleSeq := 0, order := s.r.order, sendId := s.fresh, mcast := 0, data := [], age := 0, port := 0 }
  buf := buf
  state := .waiting
  range := none
  mbox := none
  local_ := false
  tries := 0
  due := none
  retryAt := none
  charged := false
  kept := false
  acked := false
  reported := false

/-- Enter a send and queue its envelope (R299). -/
def State.enterSend (s : State) (q : Send) (ready : Bool) : State :=
  ((s.modCore fun c => { c with sends := c.sends ++ [q] }).bump.queueOut (.message q.msg) s.releaseIds ready)

/-- A send to a core outside every crew of the work order is refused at once (R52). -/
def State.startSend (s : State) (q : Send) : State :=
  if s.outsideOrder s.curRes q.msg.dst then
    let s1 := (s.modCore fun c => { c with sends := c.sends ++ [q] }).bump
    s1.failSend q Cause.illegalOperand false
  else (s.enterSend q true).flush

/-- Sends in one stream from the present residency's rank that are not yet acknowledged (R315). -/
def State.inStream (s : State) (dst : Rank) (g : BitVec 16) : Nat :=
  (s.core.sends.filter fun q => q.msg.src == s.r.rank && q.msg.dst == dst && q.msg.group == g && !q.acked).length

end Sys2Proof.Machine
end

