-- ==== Sys2Proof/Machine/Matching.lean ====
section
/-!
DEFINITION. The Postmaster's matching: receives, unexpected messages, the pigeonholes and the landing of a matched message (R263 to R266, R303, R317 to R326).
-/

namespace Sys2Proof.Machine

open Sys2Proof

/-! ### Matching (R263, R318) -/

/-- The fields of a source word (R263). -/
def srcAny (w : Word) : Bool := w.getLsbD 31
def srcMask (w : Word) : BitVec 32 := w.extractLsb' 32 32

/-- A receive matches a message (R318). -/
def Recv.accepts (v : Recv) (m : Message) : Bool :=
  (srcAny v.srcWord || rankOf v.srcWord == m.src) && ((m.tag ^^^ v.tag) &&& srcMask v.srcWord) == 0 && v.group == m.group &&
  decide (m.cls.toNat ≤ 1)

/-- The first element that satisfies a test, and the others in their order. -/
def takeFirst {α : Type} (p : α → Bool) : List α → Option (α × List α)
  | [] => none
  | x :: t => if p x then some (x, t) else (takeFirst p t).map fun r => (r.1, x :: r.2)

/-! ### Answers to the sender -/

/-- Codes of the notices to a sender. -/
def noticeAccept : BitVec 3 := 0
def noticeDemote : BitVec 3 := 1
def noticeRefuse : BitVec 3 := 2
def noticeDone : BitVec 3 := 3

/-- Acceptance, demotion, refusal, acknowledgement of completion. -/
def State.sayAccepted (s : State) (m : Message) : State := s.answer m (.acceptanceNotice m.sendId) (.notice m.src m.sendId noticeAccept)
def State.sayDemoted (s : State) (m : Message) : State := s.answer m (.demotionNotice m.sendId) (.notice m.src m.sendId noticeDemote)
def State.sayRefused (s : State) (m : Message) : State := s.answer m (.refusalNotice m.sendId) (.notice m.src m.sendId noticeRefuse)
def State.sayDone (s : State) (m : Message) : State := s.answer m (.sendAcknowledged m.sendId) (.notice m.src m.sendId noticeDone)

/-- The envelope's word at offset 8 (R314). -/
def messageWord8 (m : Message) : Nat :=
  m.group.toNat + m.len <<< 16 + m.cls.toNat <<< 40 + m.rdv.toNat <<< 42 + m.pkt.toNat <<< 43 + m.retry.toNat <<< 44 + m.fin.toNat <<< 45 + m.seq.toNat <<< 48

/-- The information word of a cause reported for a message: the envelope's word under MALFORMED, else that of R259 (R373). -/
def failInfo (m : Message) (cause : BitVec 7) : Word := if cause = Cause.malformed then BitVec.ofNat 64 (messageWord8 m) else sendInfo m false

/-- A cause reported to the sender of a message (R314, R255). -/
def State.sayFailed (s : State) (m : Message) (cause : BitVec 7) : State :=
  match s.sendOf m.sendId with
  | some q => if s.ownMessage m then s.failSendWith q cause (failInfo m cause) else s.emitFor m.order (.report m.src m.sendId cause (failInfo m cause))
  | none => s.emitFor m.order (.report m.src m.sendId cause (failInfo m cause))

/-! ### Pigeonholes (R321) -/

/-- Units that messages of the residency hold, and its free ones. -/
def Res.unitsUsed (r : Res) : List Nat := r.held.flatMap (·.units) ++ r.matched.flatMap (·.units)
def Res.unitsFree (r : Res) : List Nat := (List.range (1024 * r.phsz.toNat)).filter fun u => !r.unitsUsed.contains u

/-- Units a message needs. -/
def unitsOf (len : Nat) : Nat := (16 + len + 63) / 64

/-- The memory key of a unit. -/
def Res.unitKey (r : Res) (u : Nat) : Nat := 4096 * r.spbase.toNat + r.userEnd + 64 * u

/-- The envelope's 16 bytes (R314). -/
def Message.envelope (m : Message) : List Byte :=
  leBytes 8 (m.src.toNat + m.tag.toNat <<< 32) ++ leBytes 8 (messageWord8 m)

/-- Write the units of a message: 64 bytes each. -/
def putUnits (r : Res) : List Nat → List Byte → CoreSt → CoreSt
  | [], _, c => c
  | u :: t, bs, c => putUnits r t (bs.drop 64) (c.put (r.unitKey u) (bs.take 64))

/-- The data bytes of a message in its units. -/
def State.unitBytes (s : State) (k : ResNo) (us : List Nat) (len : Nat) : List Byte :=
  ((us.flatMap fun u => memBytes s.core.mem ((s.res.get k).unitKey u) 64).drop 16).take len

/-! ### Binding and landing (R265, R303, R326) -/

/-- The bytes that will land of a matched message. -/
def Landed.take (l : Landed) : Nat := takeLen l.msg.blg l.msg.len l.recv.len

/-- Change landing `no` of a residency. -/
def Res.modLanded (r : Res) (no : Nat) (f : Landed → Landed) : Res :=
  { r with matched := r.matched.map fun l => if l.no = no then f l else l }

/-- A TRAP entry overlaps the buffer, so that the landing waits before its first byte (R303). -/
def State.bufferTrapped (s : State) (k : ResNo) (v : Recv) : Bool :=
  decide (0 < v.len) && (List.finRange 32).any fun i => match s.core.range.get i with
    | some e => e.kind == .trap && ({ s with curRes := k }).overlaps (ptrOff v.buf) (ptrOff v.buf + v.len - 1) e
    | none => false

/-- The multicast copy table has no room for one more copy (R270). -/
def Res.copiesFull (r : Res) : Bool := decide (64 ≤ r.copies.length + (r.matched.filter fun l => l.msg.cls == 1 && l.started && !l.dropped).length)

/-- Register the STALL entry of a matched receive where it needs one and there is room (R265, R304). -/
def State.guardLanding (s : State) (k : ResNo) (l : Landed) : State × Bool :=
  if l.recv.len = 0 ∨ l.range.isSome ∨ l.msg.cls = 2 then (s, true)
  else
    let g := s.rangeAdd .stall (ptrOff l.recv.buf) (ptrOff l.recv.buf + l.recv.len - 1) k
    (g.1.modRes k (·.modLanded l.no fun x => { x with range := g.2 }), g.2.isSome)

/-- Begin the landing of a matched message (R321, R326): the data that came with it, a copy from the pigeonholes, or a clear-to-send; the data of a reduction message stay with it until they are applied. -/
def State.beginLanding (s : State) (k : ResNo) (l : Landed) : State :=
  let s1 := s.modRes k (·.modLanded l.no fun x => { x with started := true })
  let n := l.take
  let done (bs : List Byte) : Instr := .landingComplete k l.no bs l.msg.scaleSeq
  if l.msg.rdv then
    let core := Rank.core (s.res.get k).rank
    let s2 := s1.answer l.msg (.clearToSend l.msg.sendId ⟨n, core, l.addr⟩) (.clearToSend l.msg.src l.msg.sendId core l.addr n)
    if n = 0 then s2.post (done []) else s2
  else if l.units.isEmpty then (if l.msg.cls = 2 then s1 else s1.post (done (takeBytes l.msg.blg l.msg.len n l.msg.data)))
  else (s1.modRes k (·.modLanded l.no fun x => { x with due := some (s.core.cycle + BitVec.ofNat 64 (max 1 ((n + 63) / 64))) })).after (max 1 ((n + 63) / 64)) .pigeonholeCopyDone

/-- One matched message that has not begun to land: begin if nothing holds it back. -/
def State.tryLanding (s : State) (k : ResNo) (l : Landed) : State :=
  if l.started || l.dropped then s
  else
    let g := s.guardLanding k l
    if !g.2 ∨ (l.msg.cls = 1 ∧ (s.res.get k).copiesFull) ∨ (l.msg.cls ≠ 2 ∧ s.bufferTrapped k l.recv) then g.1
    else g.1.beginLanding k l

/-- The matched messages of a residency, one after another. -/
def tryAll (k : ResNo) : List Landed → State → State
  | [], s => s
  | l :: t, s => tryAll k t (s.tryLanding k l)

/-- Every matched message that can begin to land does (R265, R303). -/
def State.startLandings (s : State) : State :=
  (List.finRange 4).foldl (fun s k => if (s.res.get k).phase.alive then tryAll k (s.res.get k).matched s else s) s

/-- Bind a message to a receive (R321, R326, R328). -/
def State.bindMsg (s : State) (k : ResNo) (v : Recv) (m : Message) (units : List Nat) (no : Nat) : State :=
  (s.modRes k fun r => { r with matched := r.matched ++ [⟨v, m, units, none, no, false, none, false⟩] }).startLandings

/-- Post a receive: it takes the earliest unexpected message that it matches, or joins the list (R318). -/
def State.postRecv (s : State) (k : ResNo) (v : Recv) : State :=
  match takeFirst (fun h => v.accepts h.msg) (s.res.get k).held with
  | some (h, rest) => (s.modRes k fun r => { r with held := rest }).bindMsg k v h.msg h.units h.no
  | none => s.modRes k fun r => { r with posted := r.posted ++ [v] }

end Sys2Proof.Machine
end

