-- ==== Sys2Proof/Machine/Postmaster.lean ====
section
/-!
DEFINITION. What reaches the Postmaster: envelopes, reduction messages, data, and the notices that come back to a sender (R235, R314 to R333, R341, R345, R346, R392, R393).
-/

namespace Sys2Proof.Machine

open Sys2Proof

/-! ### Reduction messages (R235, R345, R346) -/

/-- The open reduction to which the next message of a tag is applied (R235). -/
def Res.reductionOf (r : Res) (tag : BitVec 32) : Option Reduction :=
  r.reductions.find? fun x => x.tag == tag && x.bound && decide (x.got < x.expect)

/-- Messages of a tag that an open reduction has taken and that have not been applied (R331). -/
def Res.partials (r : Res) (tag : BitVec 32) : List Landed := r.matched.filter fun l => l.msg.cls == 2 && l.msg.tag == tag

/-- Messages of a tag that its open reductions may still take: up to the expected count (R318, R346). -/
def Res.reductionRoom (r : Res) (tag : BitVec 32) : Nat :=
  ((r.reductions.filter fun x => x.tag == tag && x.bound).map fun x => x.expect - x.got).sum - (r.partials tag).length

/-- Change the reduction that takes messages of a tag: one more arrival. -/
def countArrival (tag : BitVec 32) : List Reduction → List Reduction
  | [] => []
  | x :: t => if x.tag = tag ∧ x.bound ∧ x.got < x.expect then { x with got := x.got + 1 } :: t else x :: countArrival tag t

/-- Apply a reduction message whole; one of another pair count is discarded, and it counts all the same (R235). -/
def State.applyReduction (s : State) (k : ResNo) (m : Message) (data : List Byte) : State :=
  match (s.res.get k).reductionOf m.tag with
  | none => s
  | some x =>
    let pairs := data.length / 8
    let s1 := if pairs = (accxElems x.rect).length then s.modMem (accxMessage x.rect (accxElems x.rect) data)
      else s.modRes k fun r => r.postError (errEntry Cause.accxMismatch 0 0 0 0 m.src.toNat 0 (BitVec.ofNat 64 (m.tag.toNat + pairs <<< 32)))
    ((s1.modRes k fun r => { r with reductions := countArrival m.tag r.reductions }).modCore fun c => { c with seqBanks := c.seqBanks ++ x.rect.banks }).wake

/-- The receive that stands for the buffer of a reduction message. -/
def Message.whole (m : Message) : Recv := ⟨0, m.tag, 0, 0, m.len, none⟩

/-- The core can write a residency's accumulator words now (R36, R38). -/
def State.accReady (s : State) (k : ResNo) : Bool := s.core.issuing == some k && (s.res.get k).accOwn && s.core.accClear.isNone

/-- The banks that have been written in the present cycle, by whichever unit (R365). -/
def State.banksTaken (s : State) : List Nat := s.core.engineBanks ++ s.core.landingBanks ++ s.core.seqBanks

/-- A reduction's state cannot be written in this cycle: the group is not at hand, another write has one of its banks, or one that goes first may come (R235, R365). -/
def State.reductionBusy (s : State) (k : ResNo) (tag : BitVec 32) : Bool :=
  !s.accReady k || s.env.agenda.any writesBank || (match (s.res.get k).reductionOf tag with | some x => share x.rect.banks s.banksTaken | none => false)

/-- All the data of a matched reduction message are there (R331). -/
def Landed.ready (l : Landed) : Bool := l.started && l.units.isEmpty && !l.msg.rdv

/-- Apply the oldest message that the open reduction of a tag has taken, if its data are there and its banks free (R235, R345, R365). -/
def State.applyPartial (s : State) (k : ResNo) (tag : BitVec 32) : State :=
  match (s.res.get k).partials tag with
  | [] => s
  | l :: _ =>
    if l.ready && !s.reductionBusy k tag then
      (s.modRes k fun r => { r with matched := r.matched.filter fun y => y.no != l.no }).applyReduction k l.msg l.msg.data
    else s

/-- Each open reduction of the issuing residency applies what it can in this cycle. -/
def State.applyPartials (s : State) : State :=
  match s.core.issuing with
  | none => s
  | some k => ((s.res.get k).reductions.map (·.tag)).eraseDups.foldl (fun s t => s.applyPartial k t) s

/-- Hand the unexpected messages of a tag to its reductions, in arrival order and up to the expected count, on fuel (R318, R346). -/
def feedReduction (k : ResNo) (tag : BitVec 32) : Nat → State → State
  | 0, s => s
  | n + 1, s =>
    let r := s.res.get k
    if r.reductionRoom tag = 0 then s
    else match takeFirst (fun h => h.msg.cls == 2 && h.msg.tag == tag) r.held with
      | none => s
      | some (h, rest) =>
        feedReduction k tag n ((s.modRes k fun r => { r with held := rest }).bindMsg k (Message.whole h.msg) h.msg h.units h.no)

/-- Feed a reduction from the unexpected messages. -/
def State.feed (s : State) (k : ResNo) (tag : BitVec 32) : State := feedReduction k tag ((s.res.get k).held.length + 1) s

/-- Feed every open reduction of a residency. -/
def State.feedAll (s : State) (k : ResNo) : State := ((s.res.get k).reductions.map (·.tag)).eraseDups.foldl (fun s t => s.feed k t) s

/-! ### Accepting an envelope (R255, R315, R316, R321 to R324) -/

/-- The residency that takes a message (R255, R316). -/
def State.takerOf (s : State) (m : Message) : Option ResNo :=
  if m.cls = 2 then s.resOf m.order
  else (List.finRange 4).find? fun k =>
    (s.res.get k).phase.alive && (((s.res.get k).groupOf m.group).map fun g => g.members.contains m.src).getD false

/-- A SEQ comes before another of its stream, modulo 2¹⁶. -/
def seqBefore (a b : BitVec 16) : Bool := (a - b).getLsbD 15

/-- A stream after one of its SEQs has been accepted or given up (R315, R324). -/
def Stream.passed (x : Stream) (q : BitVec 16) : Stream :=
  { x with seq := q + 1, refused := none, owed := if x.owed = some q then none else x.owed }

/-- A stream after a refusal: its first refused SEQ holds it, and the last one is noted (R324, R325). -/
def Stream.shut (x : Stream) (q : BitVec 16) : Stream :=
  { x with refused := some (x.refused.getD q), owed := match x.owed with | some o => if seqBefore q o then some o else some q | none => some q }

/-- The SEQ of an envelope is accepted or given up. -/
def State.pass (s : State) (m : Message) : State := s.putIn ((s.streamIn m).passed m.seq)

/-- The envelope has been accepted for residency k: its SEQ and its place in arrival order are taken (R315, R325). -/
def State.accepted (s : State) (k : ResNo) (m : Message) : State := (s.pass m).modRes k fun r => { r with arrivals := r.arrivals + 1 }

/-- Refuse an envelope; one with FIN is given up (R324). -/
def State.refuse (s : State) (m : Message) : State :=
  (if m.fin then s.pass m else s.putIn ((s.streamIn m).shut m.seq)).sayRefused m

/-- Hold a message that nothing matches: in the pigeonholes, demoted in the pool, or refused (R321, R323, R324). -/
def State.holdMsg (s : State) (k : ResNo) (m : Message) : State :=
  let r := s.res.get k
  let free := r.unitsFree
  if !m.rdv && decide (unitsOf m.len ≤ free.length) then
    let us := free.take (unitsOf m.len)
    (((s.accepted k m).modCore (putUnits r us (Message.envelope m ++ m.data))).modRes k fun x =>
      { x with held := x.held ++ [⟨r.arrivals, { m with data := [] }, us⟩] }).sayAccepted m
  else if (r.held.filter fun h => h.units.isEmpty).length < 1024 then
    let s1 := (s.accepted k m).modRes k fun x => { x with held := x.held ++ [⟨r.arrivals, { m with rdv := true, data := [] }, []⟩] }
    if m.rdv then s1.sayAccepted m else s1.sayDemoted m
  else s.refuse m

/-- Match a message of class 0 or 1, or hold it (R318). -/
def State.matchMsg (s : State) (k : ResNo) (m : Message) : State :=
  match takeFirst (fun v => v.accepts m) (s.res.get k).posted with
  | some (v, rest) =>
    (((s.accepted k m).modRes k fun r => { r with posted := rest }).sayAccepted m).bindMsg k v m [] (s.res.get k).arrivals
  | none => s.holdMsg k m

/-- A reduction message goes to an open reduction of its tag, rather than behind held ones (R318, R346). -/
def Res.takesReduction (r : Res) (m : Message) : Bool :=
  decide (0 < r.reductionRoom m.tag) && !(r.held.any fun h => h.msg.cls == 2 && h.msg.tag == m.tag)

/-- Match a reduction message, and apply what can be applied, or hold it (R235, R317, R345, R346). -/
def State.matchReduction (s : State) (k : ResNo) (m : Message) : State :=
  let r := s.res.get k
  if r.takesReduction m then (((s.accepted k m).sayAccepted m).bindMsg k (Message.whole m) m [] r.arrivals).applyPartials
  else s.holdMsg k m

/-- What becomes of an envelope, by its SEQ (R315, R324). -/
inductive SeqFate where
  /-- It is early and waits. -/
  | wait
  /-- It has been accepted already. -/
  | drop
  /-- Its stream is refused. -/
  | refuse
  | take
  deriving DecidableEq, Repr

/-- The fate of an envelope by its SEQ (R315, R324). -/
def State.seqFate (s : State) (m : Message) : SeqFate :=
  let st := s.streamIn m
  match st.refused with
  | some q => if m.seq = q then (if m.retry then .take else .refuse) else .refuse
  | none => if m.seq = st.seq then .take else if seqBefore m.seq st.seq then .drop else .wait

/-- Nothing at residency k holds an envelope back: its input is open (R348). -/
def State.roomAt (s : State) (k : ResNo) (m : Message) : Bool := !(s.res.get k).inputShut m.src

/-- The Postmaster can take the envelope out of the receive buffer (R315, R348). -/
def State.takeable (s : State) (m : Message) : Bool :=
  s.seqFate m != .wait && (match s.takerOf m with | some k => s.roomAt k m | none => true)

/-- The Postmaster takes an envelope (R255, R314 to R318, R324). -/
def State.envelopeIn (s : State) (m : Message) : State :=
  if m.cls = 3 ∨ m.bad then (if s.seqFate m = .take then s.pass m else s).sayFailed m Cause.malformed
  else match s.seqFate m with
    | .wait => s
    | .drop => s
    | .refuse => s.refuse m
    | .take => match s.takerOf m with
      | none => (s.pass m).sayFailed m Cause.noGroup
      | some k => if m.cls = 2 then s.matchReduction k m else s.matchMsg k m

/-- The bytes of an envelope and its data leave the receive buffer, and its sender has room for as many (R423). -/
def State.freeRoom (s : State) (m : Message) : State :=
  if s.ownMessage m then s else s.emitFor m.order (.room m.src m.dst 2 (16 + m.data.length))

/-- The same for what no envelope is: n bytes of a channel of the buffer of rank `dst`, towards their sender (R423). -/
def State.backRoom (s : State) (order : Nat) (src dst : Rank) (vc n : Nat) : State :=
  if s.targetOf order src = .core s.pkg.self then s else s.emitFor order (.room src dst vc n)

/-! ### Landing and completion (R63, R258, R264 to R266, R321) -/

/-- The first landing of a residency whose copy from the pigeonholes has ended (R321). -/
def Res.copiedOut (r : Res) (now : BitVec 64) : Option Landed :=
  r.matched.find? fun l => l.started && !l.units.isEmpty && (match l.due with | some c => decide (c.toNat ≤ now.toNat) | none => false)

/-- A reduction message whose data are there. -/
def Landed.filled (l : Landed) (bs : List Byte) : Landed := { l with msg := { l.msg with data := bs, rdv := false } }

/-- PIGEONHOLE_COPY_DONE (R321, R331): the units are freed and the bytes are in the buffer, or with their reduction. -/
def execPigeonholeCopyDone (s : State) : Result :=
  match (List.finRange 4).findSome? fun k => ((s.res.get k).copiedOut s.core.cycle).map fun l => (k, l) with
  | none => .next s
  | some (k, l) =>
    let bs := takeBytes l.msg.blg l.msg.len l.take (s.unitBytes k l.units l.msg.len)
    let s1 := s.modRes k (·.modLanded l.no fun x => { x with units := [], due := none })
    .next (if l.msg.cls = 2 then (s1.modRes k (·.modLanded l.no (·.filled bs))).applyPartials else s1.post (.landingComplete k l.no bs l.msg.scaleSeq))

/-- A receive that completes: its data, record, range entry, mailbox and copy entry (R265, R270). -/
def State.completeRecv (s : State) (k : ResNo) (l : Landed) (data : List Byte) (scaleSeq : BitVec 16) : State :=
  let m := l.msg
  let bad := m.blg ≠ 0 ∧ scaleSeq ≠ m.seq
  let n := if bad then 0 else data.length
  let status := if bad then 6 else if l.recv.len < m.len then 1 else 0
  let s1 := if bad then s else s.as k fun s => s.writeBytes (ptrOff l.recv.buf) data
  let s2 := (s1.writeRecord k l.recv.buf m.len n status m.tag.toNat m.src.toNat).rangeRemove l.range
  s2.modRes k fun r =>
    let r1 := r.credit l.recv.mbox n
    if m.cls = 1 then { r1 with copies := r1.copies ++ [⟨m.src, m.group, m.mcast, l.recv.buf⟩] } else r1

/-- LANDING_COMPLETE (R235, R258, R265, R326, R331, R490): the last byte of matched message `no`, or the last of a rendezvous reduction message, which is then applied in its turn. -/
def execLandingComplete (r : ResNo) (no : Nat) (data : List Byte) (scaleSeq : BitVec 16) (s : State) : Result :=
  match (s.res.get r).matched.find? fun l => l.no == no && l.started && l.units.isEmpty && decide (data.length = l.take) with
  | none => .next s
  | some l =>
    let s1 := if l.msg.rdv then (s.sayDone l.msg).backRoom l.msg.order l.msg.src l.msg.dst 3 data.length else s
    if l.msg.cls = 2 ∧ (s.res.get r).phase.alive then .next (s1.modRes r (·.modLanded no (·.filled data))).applyPartials
    else
      let s2 := s1.modRes r fun x => { x with matched := x.matched.filter fun y => y.no != no }
      if l.dropped ∨ !(s.res.get r).phase.alive then .next (s2.rangeRemove l.range) else .next (s2.completeRecv r l data scaleSeq).startLandings

/-! ### Notices to a sender (R257, R324, R326, R330, R333) -/

/-- A send has its answer: its envelope's source timer stops (R393). -/
def Send.answered (q : Send) (st : SendState) : Send := { q with state := st, due := none }

/-- ACCEPTANCE_NOTICE (R315, R333). -/
def execAcceptanceNotice (id : Nat) (s : State) : Result :=
  match s.sendOf id with
  | none => .next s
  | some q =>
    if q.state = .eagerOut then
      .next (((s.modSend id fun x => { x.answered .dataOut with acked := true }).resumeStream q).post .localCompletion)
    else if q.state = .rdvOut then .next ((s.modSend id fun x => x.answered .waitCts).resumeStream q)
    else .next s

/-- DEMOTION_NOTICE (R323, R333): the buffer stays locked. -/
def execDemotionNotice (id : Nat) (s : State) : Result :=
  match s.sendOf id with
  | none => .next s
  | some q =>
    if q.state = .eagerOut then
      let s1 := (s.modSend id fun x => { x.answered .waitCts with msg := { x.msg with rdv := true } }).resumeStream q
      .next (if q.msg.pkt then s1.modCore fun c => { c with packetKept := some id } else s1)
    else .next s

/-- Cycles before retry k (R324). -/
def retryWait (k : Nat) : Nat := 256 * 2 ^ min (k - 1) 10

/-- REFUSAL_NOTICE (R324): the head of the refused stream retries; a later message waits for it. -/
def execRefusalNotice (id : Nat) (s : State) : Result :=
  match s.sendOf id with
  | none => .next s
  | some q =>
    if q.state ≠ .eagerOut ∧ q.state ≠ .rdvOut then .next s
    else
      let st := s.streamOut q.msg
      let head := st.refused.getD q.msg.seq = q.msg.seq
      if !head then .next (s.modSend id fun x => x.answered .backoff)
      else if 16 ≤ q.tries then .next (s.failSend q Cause.poolExhausted false)
      else
        let n := retryWait (q.tries + 1)
        let s1 := s.putOut { st with refused := some q.msg.seq }
        .next ((s1.modSend id fun x => { x.answered .backoff with retryAt := some (s.core.cycle + BitVec.ofNat 64 n) }).after n .retryTimer)

/-- Send the next retry: the envelope alone, with RDV and RETRY, and FIN on the sixteenth (R324). -/
def State.retry (s : State) (q : Send) : State :=
  let m := { q.msg with rdv := true, retry := true, fin := decide (q.tries + 1 = 16), data := [] }
  (s.modSend q.id fun x => { x with tries := x.tries + 1 }).transmit q m

/-- The sends of a list whose wait has elapsed retry. -/
def retryDue : List Send → State → State
  | [], s => s
  | q :: t, s =>
    retryDue t (match q.retryAt with
      | some c => if q.state = .backoff ∧ c.toNat ≤ s.core.cycle.toNat then s.retry q else s
      | none => s)

/-- RETRY_TIMER (R324). -/
def execRetryTimer (s : State) : Result := .next (retryDue s.core.sends s)

/-- The landing of this core that a send's data go to. -/
def State.landingOf (s : State) (q : Send) : Option (ResNo × Landed) :=
  (List.finRange 4).findSome? fun k =>
    ((s.res.get k).matched.find? fun l => l.msg.rdv && l.started && l.msg.sendId == q.id && l.msg.src == q.msg.src && s.ownMessage l.msg).map fun l => (k, l)

/-- Move the permitted bytes of a send once (R326). -/
def State.moveData (s : State) (q : Send) (n core : Nat) (addr : Word) : State :=
  let bs := takeBytes q.msg.blg q.msg.len n (s.sendBytes q)
  match s.landingOf q with
  | some (k, l) => s.post (.landingComplete k l.no bs q.msg.scaleSeq)
  | none => s.emitFor q.msg.order (.bulk q.msg.dst q.id core addr bs q.msg.scaleSeq)

/-- CLEAR_TO_SEND (R326, R333): n bytes leave for the buffer of a core; a word in error fails the send (R377). -/
def execClearToSend (id : Nat) (x : Clearance) (s : State) : Result :=
  match s.sendOf id with
  | none => .next s
  | some q =>
    let s := s.backRoom q.msg.order q.msg.dst q.msg.src 2 16
    if q.state ≠ .waitCts then .next s
    else if s.sendBad q then
      .next (((s.localDone q).sendError q Cause.memoryUncorrectable (BitVec.ofNat 64 (ptrOff q.buf))).closeSend q)
    else
      let s1 := s.modSend id fun y => { y with state := .dataOut }
      let s2 := if x.n = 0 then s1 else (s1.moveData q x.n x.core x.addr).timeSend q
      .next (s2.post .localCompletion)

/-- LOCAL_COMPLETION (R257): the oldest send whose last byte has left its buffer. -/
def execLocalCompletion (s : State) : Result :=
  match s.core.sends.find? fun q => q.state == .dataOut && !q.local_ with
  | none => .next s
  | some q => .next ((s.localDone q).settleSend q.id)

/-- SEND_ACKNOWLEDGED (R257). -/
def execSendAcknowledged (id : Nat) (s : State) : Result :=
  .next ((s.modSend id fun x => { x with acked := true, due := none }).settleSend id)

/-- DEST_ENDED (R330). -/
def execDestEnded (id : Nat) (s : State) : Result :=
  match s.sendOf id with
  | none => .next s
  | some q => .next (s.failSend q Cause.destEnded false)

/-- A cause that ends a send when it comes back (R259, R314, R330). -/
def endsSend (c : BitVec 7) : Bool := c == Cause.noGroup || c == Cause.malformed || c == Cause.poolExhausted || c == Cause.destEnded

/-- A cause that comes back goes to the error queue of a residency that has not ended. -/
def State.noteReport (s : State) (r : ResNo) (cause : BitVec 7) (ctx : CtxNo) (pair : Pair) (ptr : Word) (peer : Rank) (info : Word) : State :=
  s.modRes r fun x => if x.phase.alive then x.postError (errEntry cause ctx pair 0 ptr peer.toNat 0 info) else x

/-- The send that a report is of: the one that it has named by its number, else the first that it describes (R330). -/
def State.reportOf (s : State) (p : Send → Bool) : Option Send :=
  match s.core.sends.find? fun q => q.reported && p q with
  | some q => some q
  | none => s.core.sends.find? p

/-- SENDER_ERROR_REPORT (R52, R209, R231, R255, R259, R282): the cause goes to the error queue; one that ends a send is the failure of that send; NO_GROUP of no send is of a buffer-free token. -/
def execSenderErrorReport (r : ResNo) (cause : BitVec 7) (ctx : CtxNo) (pair : Pair) (ptr : Word) (peer : Rank) (info : Word) (s : State) : Result :=
  match s.reportOf fun q => q.res == r && q.ctx == ctx && q.pair == pair && q.buf == ptr && q.msg.dst == peer with
  | some q => if endsSend cause || cause == Cause.illegalOperand then .next (s.failSendWith q cause info) else .next (s.noteReport r cause ctx pair ptr peer info)
  | none => if endsSend cause && cause != Cause.noGroup then .next s else .next (s.noteReport r cause ctx pair ptr peer info)

/-! ### Multicast tokens (R269, R270, R341) -/

/-- Make the increments of finished multicasts, in number order for each group. -/
def settleMcasts : List (BitVec 16) → List Mcast → Res → Res
  | _, [], r => r
  | open_, m :: t, r =>
    if m.owed.isEmpty ∧ !open_.contains m.group then
      settleMcasts open_ t (Res.credit { r with mcasts := r.mcasts.erase m } (some m.mbox) 1)
    else settleMcasts (m.group :: open_) t r

/-- Settle a residency's multicasts. -/
def Res.settleCasts (r : Res) : Res := settleMcasts [] r.mcasts r

/-- Receivers of a multicast have freed their copies, or count as having done so; each counts once (R270, R341). -/
def Res.weigh (r : Res) (g n : BitVec 16) (who : List Rank) : Res :=
  Res.settleCasts { r with mcasts := r.mcasts.map fun m => if m.group = g ∧ m.num = n then { m with owed := m.owed.filter fun d => !who.contains d } else m }

/-- The residency that takes a token: the one whose group table holds the group and lists its senders (R255). -/
def State.tokenTaker (s : State) (t : FreeToken) : Option ResNo :=
  (List.finRange 4).find? fun k => (s.res.get k).phase.alive && (((s.res.get k).groupOf t.group).map fun g => t.who.all g.members.contains).getD false

/-- NO_GROUP goes back to each sender of a token that no residency takes (R255). -/
def refuseToken (t : FreeToken) : List Rank → State → State
  | [], s => s
  | d :: l, s => refuseToken t l (s.emitFor t.order (.refusal d Cause.noGroup 0 0 t.sender (BitVec.ofNat 64 (t.group.toNat <<< 32))))

/-- FREE_TOKEN_ARRIVAL (R255, R341, R423). -/
def execFreeTokenArrival (t : FreeToken) (s : State) : Result :=
  let s := t.who.foldl (fun s d => s.backRoom t.order d t.sender 2 16) s
  match s.tokenTaker t with
  | none => .next (refuseToken t t.who s)
  | some k => .next (s.modRes k (·.weigh t.group t.num t.who))

/-- FREE_TOKEN_COMBINE (R341): a token reaches a router of the die. -/
def execFreeTokenCombine (router : Nat) (b : Branch) (t : FreeToken) (s : State) : Result :=
  let r := combineAt router b.children b.child t s.die.combining
  let s1 := { s with die := { s.die with combining := r.1 } }
  .next (match r.2 with | some u => s1.emitFor u.order (.token u) | none => s1)

/-! ### A package that turns dead (R266, R270, R329, R392, R393) -/

/-- Complete receives of a list with PEER_DEAD (R266). -/
def deadRecvs (k : ResNo) : List (Recv × Option (Fin 32)) → State → State
  | [], s => s
  | v :: t, s => deadRecvs k t ((s.writeRecord k v.1.buf 0 0 4 0 0).rangeRemove v.2)

/-- A posted receive names a source among dead ranks (R329). -/
def Recv.fromDead (v : Recv) (p : Rank → Bool) : Bool := !srcAny v.srcWord && p (rankOf v.srcWord)

/-- A matched rendezvous message from a dead rank, whose data have not all landed. -/
def Landed.fromDead (l : Landed) (p : Rank → Bool) : Bool := l.msg.rdv && p l.msg.src

/-- Members of a group count as having freed, each with PEER_DEAD to the error queue in the layout of R259 (R270, R341, R374). -/
def deadMembers (timeout : Bool) (m : Mcast) : List Rank → Res → Res
  | [], r => r
  | d :: t, r => deadMembers timeout m t ((r.weigh m.group m.num [d]).postError
      (errEntry Cause.peerDead 0 0 0 0 d.toNat 0 (BitVec.ofNat 64 (m.tag.toNat + m.group.toNat <<< 32 + timeout.toNat <<< 48))))

/-- The multicasts of a list lose the dead receivers that have not freed. -/
def deadCasts (timeout : Bool) (p : Rank → Bool) : List Mcast → Res → Res
  | [], r => r
  | m :: t, r => deadCasts timeout p t (deadMembers timeout m (m.owed.filter p) r)

/-- Fail the sends of a list with PEER_DEAD. -/
def failSends (timeout : Bool) : List Send → State → State
  | [], s => s
  | q :: t, s => failSends timeout t (s.failSend q Cause.peerDead timeout)

/-- The Postmaster's part when ranks turn dead for residency k, by a source timeout or not: those of a package, or of a quarantined die (R266, R270, R329, R331). -/
def State.ranksGone (timeout : Bool) (s : State) (k : ResNo) (p : Rank → Bool) : State :=
  let r := s.res.get k
  let gone := (r.posted.filter (·.fromDead p)).map fun v => (v, none)
  let lost := r.matched.filter fun l => l.fromDead p && l.dropped
  let s := lost.foldl (fun s l => s.rangeRemove l.range) s
  let cut := ((r.matched.filter fun l => l.fromDead p && l.msg.cls != 2 && !l.dropped)).map fun l => (l.recv, l.range)
  let s1 := deadRecvs k (gone ++ cut) s
  let s2 := s1.modRes k fun r => (deadCasts timeout p r.mcasts
    { r with posted := r.posted.filter fun v => !v.fromDead p, matched := r.matched.filter fun l => !l.fromDead p,
             held := r.held.filter fun h => !(h.units.isEmpty && p h.msg.src) })
  (failSends false (s2.core.sends.filter fun q => q.res == k && q.state == .waitCts && p q.msg.dst) (s2.feedAll k)).startLandings

/-- The same without a timeout. -/
def State.ranksDead (s : State) (k : ResNo) (p : Rank → Bool) : State := s.ranksGone false k p

/-- A package turns dead for residency k (R329). -/
def State.packageDead (s : State) (k : ResNo) (p : Nat) : State := s.ranksDead k fun d => Rank.pkg d == p

/-- Fail the requests of a list with PEER_DEAD. -/
def failReqs (timeout : Bool) : List Req → State → State
  | [], s => s
  | q :: t, s => failReqs timeout t (s.failReq q (.peerDead timeout))

/-- A source timer of residency k towards a package has expired (R393). -/
def State.timedOut (s : State) (k : ResNo) (p : Nat) : State :=
  let s1 := s.modRes k fun r => { r with deadPeers := setAdd r.deadPeers p }
  let s2 := failReqs true (s1.core.reqs.filter fun q => q.res == k && (q.pkg == p || q.dpkg == p)) s1
  let s3 := failSends true (s2.core.sends.filter fun q => q.res == k && Rank.pkg q.msg.dst == p) s2
  s3.ranksGone true k fun d => Rank.pkg d == p

/-- Residency and package of every expired source timer. -/
def State.expired (s : State) : List (ResNo × Nat) :=
  let due (d : Option (BitVec 64)) : Bool := match d with | some c => decide (c.toNat ≤ s.core.cycle.toNat) | none => false
  ((s.core.reqs.filter fun q => due q.due).map fun q => (q.res, s.farPkg q)) ++ (s.core.sends.filter fun q => due q.due).map fun q => (q.res, Rank.pkg q.msg.dst)

/-- One expiry after another. -/
def timeOutAll : List (ResNo × Nat) → State → State
  | [], s => s
  | x :: t, s => timeOutAll t (s.timedOut x.1 x.2)

/-- SOURCE_TIMEOUT (R393). -/
def execSourceTimeout (s : State) : Result := .next (timeOutAll s.expired.eraseDups s)

/-- Another package has turned dead for residency k; the core's own never does (R329, R393). -/
def State.deadFor (s : State) (k : ResNo) (p : Nat) : State := if p = s.srv.pkg then s else s.packageDead k p

/-- PEER_DEAD_RESPONSE (R329, R392): the request or send it answers fails; no dead-peer bit is set. -/
def execPeerDeadResponse (id : Nat) (s : State) : Result :=
  match s.reqOf id, s.sendOf id with
  | some q, _ => .next ((s.failReq q (.peerDead false)).deadFor q.res (s.farPkg q))
  | none, some q => .next ((s.failSend q Cause.peerDead false).deadFor q.res (Rank.pkg q.msg.dst))
  | none, none => .next s

end Sys2Proof.Machine
end

