-- ==== Sys2Proof/Machine/Messages.lean ====
section
/-!
DEFINITION. Message instructions: SEND, SENDP, SENDX, RECV, PROBE, CANCEL, MCAST, FREE, and the other instructions that send: MMAR and ACCX (R229 to R236, R254 to R270, R342 to R344).
-/

namespace Sys2Proof.Machine

open Sys2Proof

/-! ### Control words and buffers (R256 to R258) -/

/-- The fields of a control word (R256). -/
def ctlLen (x : Word) : Nat := field x 0 24
def ctlGroup (x : Word) : BitVec 16 := x.extractLsb' 32 16
def ctlMbox (x : Word) : Option (BitVec 4) := if x.getLsbD 52 then some (x.extractLsb' 48 4) else none
def ctlBad (x : Word) : Bool := field x 53 11 != 0 || field x 24 8 != 0

/-- The block-length log2 of an N4 message, 0 for any other (R258). -/
def n4Blg (p : Word) : BitVec 3 := if ptrFmt p = 0x10 ∧ 4 ≤ ptrBlg p ∧ ptrBlg p ≤ 6 then BitVec.ofNat 3 (ptrBlg p) else 0

/-- LEN is not a whole number of blocks (R258). -/
def blocksBad (p : Word) (len : Nat) : Bool := n4Blg p != 0 && len % blockData (n4Blg p) != 0

/-- Data and scale bytes (R258). -/
def wholeLen (p : Word) (len : Nat) : Nat := if n4Blg p = 0 then len else len + len / blockData (n4Blg p)

/-- The access of a buffer (R257). -/
def bufAccess (p : Word) (len : Nat) (slot : Nat) : Access := ⟨p, max (wholeLen p len) 1, false, false, slot, 0, false⟩

/-- A group that the residency lacks, and the control word's and N4's limits (R255, R256, R258). -/
def State.ctlCheck (s : State) (ctl buf ra : Word) (slot : Nat) : Option TrapReq :=
  illegalIf ((s.r.groupOf (ctlGroup ctl)).isNone) slot ra <|> illegalIf (ctlBad ctl) slot ra <|> illegalIf (blocksBad buf (ctlLen ctl)) slot ra

/-- The buffer passes R49 as a load and lies in the user scratchpad (R257). -/
def State.bufCheck (s : State) (buf : Word) (len : Nat) (ra : Word) (slot : Nat) : Option TrapReq :=
  s.checkAccess (bufAccess buf len slot) <|> illegalIf (s.accessRegion (bufAccess buf len slot) != .user) slot ra

/-- The eager threshold of a group (R255). -/
def Res.eagerOf (r : Res) (g : BitVec 16) : Nat := ((r.groupOf g).map (·.eager)).getD 0

/-- The stream has 1,024 unacknowledged messages, so that one more waits (R315). -/
def State.streamFull (s : State) (dst : Rank) (g : BitVec 16) : Bool := decide (1024 ≤ s.inStream dst g)

/-! ### SEND (R257, R258) -/

/-- A send of a buffer to a rank, with its TRAP entry (R257). -/
def State.sendTo (s : State) (dst : Rank) (buf ctl : Word) (tag : BitVec 32) (charged : Bool) : State :=
  let n := wholeLen buf (ctlLen ctl)
  let g := s.guardArea .trap buf n
  let q := g.1.newSend dst buf (ctlGroup ctl) tag n (n4Blg buf)
  g.1.startSend { q with msg := { q.msg with rdv := decide (s.r.eagerOf (ctlGroup ctl) < n) },
                         range := g.2, mbox := ctlMbox ctl, charged := charged }

def opSend (h : CHdr) (a b c : BitVec 5) (x : Bool) (tag : BitVec 32) : Op :=
  { opN h with
    check := fun slot s =>
      let ra := s.c.reg h.s a
      let ctl := s.c.regX h.s c x
      let buf := s.c.reg h.s b
      s.rankCheck ra slot ra <|> s.ctlCheck ctl buf ra slot <|> s.bufCheck buf (ctlLen ctl) ra slot
    ranges := fun s => if ctlLen (s.c.regX h.s c x) = 0 then 0 else 1
    wait := fun s =>
      let ctl := s.c.regX h.s c x
      s.stalled (bufAccess (s.c.reg h.s b) (ctlLen ctl) 0) || s.streamFull (rankOf (s.c.reg h.s a)) (ctlGroup ctl)
    eff := fun s => s.sendTo (rankOf (s.c.reg h.s a)) (s.c.reg h.s b) (s.c.regX h.s c x) tag false }

/-- SEND (R257, R258). -/
def execSend (h : CHdr) (a b c : BitVec 5) (x : Bool) (tag : BitVec 32) (s : State) : Result := runOne (opSend h a b c x tag) s

/-! ### SENDX (R260, R344) -/

/-- The replicas of an expert for the residency's work order (R343). -/
def State.replicas (s : State) (e : Word) : List Rank :=
  match s.die.experts.find? fun t => t.1 == s.r.order with
  | none => []
  | some t => t.2.getD (field e 0 8) []

/-- The replicas that are not excluded (R260). -/
def State.liveReplicas (s : State) (e : Word) : List Rank :=
  (s.replicas e).filter fun d => !(Rank.pkg d != s.srv.pkg && s.r.deadPeers.contains (Rank.pkg d))

/-- The unacknowledged-byte counter of a rank in the table of a work order (R344). -/
def State.counterIn (s : State) (o : Nat) (d : Rank) : Nat := ((s.die.unacked.find? fun x => x.1 == o && x.2.1 == d).map (·.2.2)).getD 0

/-- The replica with the smallest counter, the lowest index on a tie (R344). -/
def State.chooseIn (s : State) (o : Nat) : List Rank → Option Rank
  | [] => none
  | d :: t => match s.chooseIn o t with
    | none => some d
    | some e => if s.counterIn o d ≤ s.counterIn o e then some d else some e

/-- Add to a rank's counter (R344). -/
def State.chargeIn (s : State) (o : Nat) (d : Rank) (n : Nat) : State :=
  let l := s.die.unacked
  let l1 := if l.any fun x => x.1 == o && x.2.1 == d then l.map fun x => if x.1 = o ∧ x.2.1 = d then (o, d, x.2.2 + n) else x
    else l ++ [(o, d, n)]
  { s with die := { s.die with unacked := l1 } }

/-- The same for the present residency's work order. -/
def State.counter (s : State) (d : Rank) : Nat := s.counterIn s.r.order d
def State.choose (s : State) (l : List Rank) : Option Rank := s.chooseIn s.r.order l
def State.charge (s : State) (d : Rank) (n : Nat) : State := s.chargeIn s.r.order d n

/-- The expert operand is refused: a reserved bit, no replica, or every replica dead (R260). -/
def State.expertCheck (s : State) (e : Word) (slot : Nat) : Option TrapReq :=
  illegalIf (field e 8 56 != 0 || (s.replicas e).isEmpty) slot e <|>
  (if (s.liveReplicas e).isEmpty then
    some (trapWith Cause.peerDead (BitVec.ofNat 64 slot) (BitVec.ofNat 64 (Rank.pkg ((s.replicas e).headD 0)))) else none)

/-- The unit has made its choice of this cycle. -/
def State.expertUsed (s : State) : State := { s with die := { s.die with expertServed := true } }

/-- The waiting call of the lowest logical core. -/
def lowestCall : List ExpertCall → Option ExpertCall
  | [] => none
  | c :: t => match lowestCall t with
    | none => some c
    | some d => if d.core < c.core then some d else some c

/-- The dispatch unit serves the lowest waiting core: its choice is charged, and goes back to it (R344). -/
def State.serveExpert (s : State) : State :=
  match lowestCall s.die.expertWaiting with
  | none => s
  | some c =>
    let reps := (((s.die.experts.find? fun t => t.1 == c.order).map fun t => t.2.getD c.expert []).getD []).filter fun d =>
      !(Rank.pkg d != s.srv.pkg && c.dead.contains (Rank.pkg d))
    let dst := s.chooseIn c.order reps
    let s1 := { s with die := { s.die with expertWaiting := s.die.expertWaiting.erase c, expertServed := true } }
    (match dst with | some d => s1.chargeIn c.order d c.len | none => s1).emit (.expertChoice c.core dst)

/-- The SENDX waits: the unit has made its choice of this cycle, or serves a lower core first (R344). -/
def State.mustQueue (s : State) : Bool := s.die.expertServed || s.die.expertWaiting.any fun c => decide (c.core < s.logical)

/-- The end of a cycle: a unit that has served no one serves the lowest waiting core (R344). -/
def State.expertTick (s : State) : State :=
  let s1 := if s.die.expertServed then s else s.serveExpert
  { s1 with die := { s1.die with expertServed := false } }

def opSendx (h : CHdr) (a b c : BitVec 5) (x : Bool) (tag : BitVec 32) : Op :=
  { opN h with
    check := fun slot s =>
      let ra := s.c.reg h.s a
      let ctl := s.c.regX h.s c x
      let buf := s.c.reg h.s b
      s.expertCheck ra slot <|> s.ctlCheck ctl buf ra slot <|> s.bufCheck buf (ctlLen ctl) ra slot
    ranges := fun s => if ctlLen (s.c.regX h.s c x) = 0 then 0 else 1
    wait := fun s =>
      let ctl := s.c.regX h.s c x
      let dst := (s.choose (s.liveReplicas (s.c.reg h.s a))).getD 0
      s.stalled (bufAccess (s.c.reg h.s b) (ctlLen ctl) 0) || s.streamFull dst (ctlGroup ctl) || s.mustQueue
    eff := fun s =>
      let dst := (s.choose (s.liveReplicas (s.c.reg h.s a))).getD 0
      let ctl := s.c.regX h.s c x
      (s.charge dst (ctlLen ctl)).expertUsed.sendTo dst (s.c.reg h.s b) ctl tag true }

/-- SENDX (R260, R344). -/
def execSendx (h : CHdr) (a b c : BitVec 5) (x : Bool) (tag : BitVec 32) (s : State) : Result := runOne (opSendx h a b c x tag) s

/-! ### SENDP (R261, R262) -/

/-- The packet that this context holds open. -/
def State.myPacket (s : State) : Option Packet := if s.ownsPacket then s.core.packet else none

/-- SENDP does not suit its open packet, or carries it past 4,096 bytes (R258, R261). -/
def State.packetBad (s : State) (dst : Rank) (buf ctl : Word) (tag : BitVec 32) : Bool :=
  match s.myPacket with
  | none => decide (4096 < ctlLen ctl)
  | some p => p.tag != tag || p.group != ctlGroup ctl || p.dest != dst || p.blg != n4Blg buf || decide (4096 < p.data.length + ctlLen ctl)

/-- The packet after one copy (R261). -/
def State.packetWith (s : State) (dst : Rank) (buf ctl : Word) (tag : BitVec 32) : Packet :=
  let p := s.myPacket.getD ⟨s.curCtx, s.curRes, dst, ctlGroup ctl, tag, [], n4Blg buf, [], none, 1, s.core.atPair⟩
  let len := ctlLen ctl
  { p with data := p.data ++ s.readBytes (ptrOff buf) len,
           scales := p.scales ++ s.readBytes (ptrOff buf + len) (wholeLen buf len - len) }

/-- Close a packet: one eager message of its data and scales, before the markers that it has delayed (R175, R261). -/
def State.closePacket (s : State) (p : Packet) (buf : Word) : State :=
  let bs := p.data ++ p.scales
  let q := s.newSend p.dest buf p.group p.tag bs.length p.blg
  let s1 := (s.modCore fun c => { c with packet := none, packetKept := some q.id }).startSend { q with msg := { q.msg with pkt := true, data := bs }, kept := true }
  (s1.modCore fun c => { c with leaving := markersGo s.curRes (some q.id) c.leaving }).flush

def opSendp (h : CHdr) (a b c : BitVec 5) (x : Bool) (fin : Bool) (tag : BitVec 31) : Op :=
  let t : BitVec 32 := tag.zeroExtend 32
  { opN h with
    closes := fin
    check := fun slot s =>
      let ra := s.c.reg h.s a
      let ctl := s.c.regX h.s c x
      let buf := s.c.reg h.s b
      s.rankCheck ra slot ra <|> s.ctlCheck ctl buf ra slot <|> illegalIf (s.packetBad (rankOf ra) buf ctl t) slot ra <|>
      s.bufCheck buf (ctlLen ctl) ra slot <|> s.checkLoad (bufAccess buf (ctlLen ctl) slot)
    wait := fun s =>
      let ctl := s.c.regX h.s c x
      s.stalled (bufAccess (s.c.reg h.s b) (ctlLen ctl) 0) || (s.core.packet.isSome && !s.ownsPacket) || s.core.packetKept.isSome ||
      (fin && s.streamFull (rankOf (s.c.reg h.s a)) (ctlGroup ctl))
    eff := fun s =>
      let ctl := s.c.regX h.s c x
      let buf := s.c.reg h.s b
      let p := s.packetWith (rankOf (s.c.reg h.s a)) buf ctl t
      let s1 := (s.modR (·.credit (ctlMbox ctl) (ctlLen ctl))).modC fun k =>
        { k with busyUntil := s.core.cycle + BitVec.ofNat 64 ((wholeLen buf (ctlLen ctl) + 63) / 64) }
      if fin then s1.closePacket p buf else s1.modCore fun k => { k with packet := some p } }

/-- SENDP (R261, R262). -/
def execSendp (h : CHdr) (a b c : BitVec 5) (x : Bool) (fin : Bool) (tag : BitVec 31) (s : State) : Result := runOne (opSendp h a b c x fin tag) s

/-! ### RECV, PROBE, CANCEL (R263 to R268) -/

/-- The checks of a source word (R263). -/
def State.sourceCheck (s : State) (w : Word) (slot : Nat) : Option TrapReq :=
  illegalIf (field w 27 4 != 0) slot w <|>
  (if srcAny w then none else s.rankCheck ((rankOf w).zeroExtend 64) slot w)

/-- A status record: it passes R49 as a store, is 8-byte aligned and lies in the user scratchpad (R264). -/
def State.statusCheck (s : State) (p : Word) (len slot : Nat) (ra : Word) : Option TrapReq :=
  let a : Access := ⟨p, len, true, false, slot, 0, false⟩
  s.checkAccess a <|> misplaced p 8 slot ra <|> illegalIf (s.accessRegion a != .user) slot ra

/-- The record of a receive lies 16 bytes before its buffer (R264). -/
def recordOf (buf : Word) : Word := ptrAdd buf (-16)

/-- The receive that RECV posts (R265). -/
def recvOf (src buf ctl : Word) (tag : BitVec 32) : Recv := ⟨src, tag, ctlGroup ctl, buf, ctlLen ctl, ctlMbox ctl⟩

/-- A posted receive with this buffer (R265, R268). -/
def Res.postedAt (r : Res) (buf : Word) : Option Recv := r.posted.find? fun v => ptrWin buf == 0 && ptrOff v.buf == ptrOff buf

def opRecv (h : CHdr) (a b c : BitVec 5) (x : Bool) (tag : BitVec 32) : Op :=
  { opN h with
    check := fun slot s =>
      let ra := s.c.reg h.s a
      let ctl := s.c.regX h.s c x
      let buf := s.c.reg h.s b
      s.sourceCheck ra slot <|> illegalIf ((s.r.groupOf (ctlGroup ctl)).isNone) slot ra <|> illegalIf (ctlBad ctl) slot ra <|>
      s.statusCheck (recordOf buf) (ctlLen ctl + 16) slot ra <|> illegalIf ((s.r.postedAt buf).isSome) slot ra
    wait := fun s =>
      s.stalled ⟨recordOf (s.c.reg h.s b), ctlLen (s.c.regX h.s c x) + 16, true, false, 0, 0, false⟩ || decide (512 ≤ s.r.posted.length)
    eff := fun s =>
      let buf := s.c.reg h.s b
      let v := recvOf (s.c.reg h.s a) buf (s.c.regX h.s c x) tag
      (s.setFull (ptrOff (recordOf buf)) false).postRecv s.curRes v }

/-- RECV (R263 to R265). -/
def execRecv (h : CHdr) (a b c : BitVec 5) (x : Bool) (tag : BitVec 32) (s : State) : Result := runOne (opRecv h a b c x tag) s

/-- The earliest unexpected message that a receive would match (R267). -/
def Res.probe (r : Res) (v : Recv) : Option Held := r.held.find? fun h => v.accepts h.msg

def opProbe (h : CHdr) (a b c : BitVec 5) (x : Bool) (tag : BitVec 32) : Op :=
  { opN h with
    check := fun slot s =>
      let ra := s.c.reg h.s a
      let ctl := s.c.regX h.s c x
      s.sourceCheck ra slot <|> illegalIf ((s.r.groupOf (ctlGroup ctl)).isNone) slot ra <|>
      illegalIf (ctlBad ctl || ctlLen ctl != 0 || field ctl 48 5 != 0) slot ra <|> s.statusCheck (s.c.reg h.s b) 16 slot ra
    wait := fun s => s.stalled ⟨s.c.reg h.s b, 16, true, false, 0, 0, false⟩
    eff := fun s =>
      let rec_ := s.c.reg h.s b
      let s1 := s.setFull (ptrOff rec_) false
      match s.r.probe (recvOf (s.c.reg h.s a) 0 (s.c.regX h.s c x) tag) with
      | some m => s1.writeRecord s.curRes (ptrAdd rec_ 16) m.msg.len 0 0 m.msg.tag.toNat m.msg.src.toNat
      | none => s1.writeRecord s.curRes (ptrAdd rec_ 16) 0 0 3 0 0 }

/-- PROBE (R267). -/
def execProbe (h : CHdr) (a b c : BitVec 5) (x : Bool) (tag : BitVec 32) (s : State) : Result := runOne (opProbe h a b c x tag) s

/-- What CANCEL answers: 0, 1 or 2 (R268). -/
def Res.cancelCode (r : Res) (buf : Word) : Nat :=
  if (r.postedAt buf).isSome then 0
  else if r.matched.any fun l => l.msg.cls != 2 && !l.dropped && ptrWin buf == 0 && ptrOff l.recv.buf == ptrOff buf then 1 else 2

def opCancel (h : CHdr) (a b : BitVec 5) : Op :=
  { opN h with
    dests := [.s (regOf h.s b)]
    eff := fun s =>
      let buf := s.c.reg h.s a
      let s1 := s.result (.s (regOf h.s b)) (BitVec.ofNat 64 (s.r.cancelCode buf)) latLoad
      match s.r.postedAt buf with
      | none => s1
      | some v => (s1.modR fun r => { r with posted := r.posted.erase v }).writeRecord s.curRes v.buf 0 0 2 0 0 }

/-- CANCEL (R268). -/
def execCancel (h : CHdr) (a b : BitVec 5) (s : State) : Result := runOne (opCancel h a b) s

/-! ### MCAST and FREE (R269, R270, R342) -/

/-- The other members of a group (R269). -/
def Res.others (r : Res) (g : BitVec 16) : List Rank := ((r.groupOf g).map fun x => x.members.filter (· != r.rank)).getD []

/-- The number of the next multicast to a group (R342). -/
def Res.castNext (r : Res) (g : BitVec 16) : BitVec 16 := ((r.mcastNext.find? fun x => x.1 == g).map (·.2)).getD 0

/-- The sends of a multicast, one for each receiver (R269, R333). -/
def castSends (q : Send) (n : Nat) : List Rank → List Send
  | [] => []
  | d :: t => { q with id := n, msg := { q.msg with dst := d, sendId := n } } :: castSends q (n + 1) t

/-- Copies to cores that the work order does not have are refused (R52). -/
def refuseCopies : List Send → State → State
  | [], s => s
  | q :: t, s => refuseCopies t (s.failSend q Cause.illegalOperand false)

/-- Enter the sends of a multicast, all before any of them goes on; one copy waits to leave (R269, R340). -/
def State.startCast (s : State) (qs : List Send) : State :=
  let out := qs.filter fun q => s.outsideOrder q.res q.msg.dst
  let go := qs.filter fun q => !s.outsideOrder q.res q.msg.dst
  let s1 := refuseCopies out (s.modCore fun c => { c with sends := c.sends ++ qs, nextId := c.nextId + qs.length })
  match go with
  | [] => s1
  | q :: _ => (s1.queueOut (.cast q.msg (go.map fun x => ⟨x.msg.dst, 0, x.id, .ioDie⟩)) s.releaseIds true).flush

/-- The members of a group that are dead to the residency: their package is, or their die is quarantined (R270). -/
def State.deadOthers (s : State) (g : BitVec 16) : List Rank := (s.r.others g).filter (s.goneFor s.curRes)

/-- MCAST sends its copies; dead members count as having freed (R269, R270). -/
def State.multicast (s : State) (gr buf len : Word) (mb : BitVec 4) (tag : BitVec 28) : State :=
  let g : BitVec 16 := gr.truncate 16
  let n := wholeLen buf (field len 0 24)
  let num := s.r.castNext g
  let live := (s.r.others g).filter fun d => !(s.deadOthers g).contains d
  let e := if live.isEmpty then (s, none) else s.guardArea .trap buf n
  let q := e.1.newSend 0 buf g (tag.zeroExtend 32) n (n4Blg buf)
  let q1 := { q with msg := { q.msg with cls := 1, mcast := num, rdv := decide (s.r.eagerOf g < n) }, range := e.2 }
  let s1 := e.1.modR fun r =>
    let m : Mcast := ⟨g, num, mb, tag.zeroExtend 32, s.r.others g⟩
    let r1 := { r with mcasts := r.mcasts ++ [m], mcastNext := (g, num + 1) :: r.mcastNext.filter fun x => x.1 != g }
    deadMembers false m (s.deadOthers g) r1.settleCasts
  s1.startCast (castSends q1 s1.fresh live)

def opMcast (h : CHdr) (a b c : BitVec 5) (x : Bool) (mb : BitVec 4) (tag : BitVec 28) : Op :=
  { opN h with
    check := fun slot s =>
      let ra := s.c.reg h.s a
      let len := s.c.regX h.s c x
      let buf := s.c.reg h.s b
      let g : BitVec 16 := ra.truncate 16
      illegalIf (field ra 16 48 != 0 || (s.r.groupOf g).isNone || field len 24 40 != 0 || decide (s.r.eagerOf g < field len 0 24) ||
        blocksBad buf (field len 0 24)) slot ra <|> s.bufCheck buf (field len 0 24) ra slot
    ranges := fun s => if field (s.c.regX h.s c x) 0 24 = 0 then 0 else 1
    wait := fun s =>
      let g : BitVec 16 := (s.c.reg h.s a).truncate 16
      s.stalled (bufAccess (s.c.reg h.s b) (field (s.c.regX h.s c x) 0 24) 0) ||
      decide (16 ≤ (s.r.mcasts.filter fun m => m.group == g).length) || (s.r.others g).any fun d => s.streamFull d g
    eff := fun s => s.multicast (s.c.reg h.s a) (s.c.reg h.s b) (s.c.regX h.s c x) mb tag }

/-- MCAST (R269). -/
def execMcast (h : CHdr) (a b c : BitVec 5) (x : Bool) (mb : BitVec 4) (tag : BitVec 28) (s : State) : Result := runOne (opMcast h a b c x mb tag) s

/-- The copy-table entry of a sender and a buffer (R270). -/
def Res.copyAt (r : Res) (d : Rank) (buf : Word) : Option Copied := r.copies.find? fun x => x.sender == d && ptrWin buf == 0 && ptrOff x.buf == ptrOff buf

def opFree (h : CHdr) (a b : BitVec 5) : Op :=
  { opN h with
    check := fun slot s =>
      let ra := s.c.reg h.s a
      s.rankCheck ra slot ra <|> illegalIf ((s.r.copyAt (rankOf ra) (s.c.reg h.s b)).isNone) slot ra
    eff := fun s => match s.r.copyAt (rankOf (s.c.reg h.s a)) (s.c.reg h.s b) with
      | none => s
      | some e => (s.modR fun r => { r with copies := r.copies.erase e }).emit (.token ⟨e.sender, s.r.order, e.group, e.num, 1, [s.r.rank]⟩) }

/-- FREE (R270, R341). -/
def execFree (h : CHdr) (a b : BitVec 5) (s : State) : Result := runOne (opFree h a b) s

/-! ### MMAR (R229) -/

/-- A capability with CHECK cleared (R231). -/
def capClear (cap : Word) : Word := cap &&& 0xFFFFFFFFE0000000

/-- The error-queue entry of a refused command (R231). -/
def commandError (c : MatrixCommand) (cause : BitVec 7) (target : Rank) : ErrEntry :=
  errEntry cause c.ctx c.pair 0 0 target.toNat 0 (capClear c.cap)

/-- The rank of a logical core of this package. -/
def State.rankHere (s : State) (core : Nat) : Rank := BitVec.ofNat 27 (s.srv.pkg <<< 11 + core)

def opMmar (h : CHdr) (a b c : BitVec 5) (x : Bool) (k : BitVec 3) (ta tb : BitVec 4) (v : Bool) (r : BitVec 3) : Op :=
  { opN h with
    check := fun slot s =>
      let ra := s.c.reg h.s a
      illegalIf (decide (1151 < (s.c.reg h.s b).toNat) || field (s.c.regX h.s c x) 5 59 != 0) slot ra
    eff := fun s =>
      let core := (s.c.reg h.s b).toNat
      let w := s.c.regX h.s c x
      let m : MatrixCommand := ⟨s.rankHere core, s.c.reg h.s a, k, ta, tb, v, r, if w.getLsbD 4 then some (w.truncate 4) else none, s.r.rank, s.r.order, s.curCtx, s.core.atPair, 0, portLocal⟩
      if s.outsideOrder s.curRes (s.rankHere core) then s.modR fun q => q.postError (commandError m Cause.illegalOperand (s.rankHere core))
      else (s.queueOut (.command core m) s.releaseIds true).flush }

/-- MMAR (R229). -/
def execMmar (h : CHdr) (a b c : BitVec 5) (x : Bool) (k : BitVec 3) (ta tb : BitVec 4) (v : Bool) (r : BitVec 3) (s : State) : Result :=
  runOne (opMmar h a b c x k ta tb v r) s

/-! ### ACCX (R233 to R236) -/

/-- The form of an ACCX task. -/
def accxForm (i : Instr) (k : BitVec 3) (bad : Nat → State → Option TrapReq) : TileForm := ⟨i, [], [], [], some k, bad, fun _ => []⟩

/-- The bytes of a reduction message (R234). -/
def AccDesc.partials (d : AccDesc) : Nat := 8 * (d.rows.toNat * d.cols.toNat / 2)

def opAccxSend (h : CHdr) (a : BitVec 5) (k : BitVec 3) (tag : BitVec 32) : Op :=
  let f := accxForm (.accxSend h a k tag) k fun slot s =>
    let ra := s.c.reg h.s a
    s.rankCheck ra slot ra <|> illegalIf ((s.adOf k).cols.toNat % 2 == 1) slot ra
  { opTile (opN h) f with
    wait := fun s => s.streamFull (rankOf (s.c.reg h.s a)) 0
    eff := fun s =>
      let n := (s.adOf k).partials
      let q := s.newSend (rankOf (s.c.reg h.s a)) 0 0 tag n 0
      let q1 := { q with msg := { q.msg with cls := 2, rdv := decide (8192 < n) }, kept := true }
      (s.enterSend q1 false).enqueue { f.task s with operand := s.c.reg h.s a, sendId := q.id } }

/-- ACCX.send (R234). -/
def execAccxSend (h : CHdr) (a : BitVec 5) (k : BitVec 3) (tag : BitVec 32) (s : State) : Result := runOne (opAccxSend h a k tag) s

/-- A second ACCX.open on a descriptor with an open reduction raises ILLEGAL_OPERAND: R235 gives only the limit of one (DESIGN CHOICE, log entry 71). -/
def opAccxOpen (h : CHdr) (a : BitVec 5) (k : BitVec 3) (tag : BitVec 32) : Op :=
  let f := accxForm (.accxOpen h a k tag) k fun slot s =>
    let n := (s.c.reg h.s a).toNat
    illegalIf ((s.adOf k).cols.toNat % 4 != 0 || n == 0 || decide (65535 < n) ||
      s.r.reductions.any fun x => !x.closing && (x.tag == tag || x.ad == k)) slot (s.c.reg h.s a)
  { opTile (opN h) f with
    eff := fun s =>
      let x : Reduction := ⟨k, s.adOf k, tag, (s.c.reg h.s a).toNat, 0, false, false⟩
      (s.modR fun r => { r with reductions := r.reductions ++ [x] }).enqueue (f.task s) }

/-- ACCX.open (R235). -/
def execAccxOpen (h : CHdr) (a : BitVec 5) (k : BitVec 3) (tag : BitVec 32) (s : State) : Result := runOne (opAccxOpen h a k tag) s

/-- The open reduction on a descriptor begins to close. -/
def closeReduction (k : BitVec 3) : List Reduction → List Reduction
  | [] => []
  | x :: t => if x.ad = k ∧ !x.closing then { x with closing := true } :: t else x :: closeReduction k t

/-- For the issue checks a reduction is open from the issue of its ACCX.open to the issue of its ACCX.close, though the tag is bound and unbound at dispatch (R235, R236; DEDUCED, log entry 73). -/
def opAccxClose (h : CHdr) (k : BitVec 3) (r : BitVec 3) : Op :=
  let f := accxForm (.accxClose h k r) k fun slot s => illegalIf (!(s.r.reductions.any fun x => x.ad == k && !x.closing)) slot 0
  { opTile (opN h) f with
    eff := fun s => (s.modR fun q => { q with reductions := closeReduction k q.reductions }).enqueue (f.task s) }

/-- ACCX.close (R236). -/
def execAccxClose (h : CHdr) (k : BitVec 3) (r : BitVec 3) (s : State) : Result := runOne (opAccxClose h k r) s

end Sys2Proof.Machine
end

