-- ==== Sys2Proof/Machine/Collectives.lean ====
section
/-!
DEFINITION. Bells, timed exchange, rounds, mailbox targets and circular-buffer handles (R173 to R175, R272 to R280, R335 to R339, R347 to R352, R362).
-/

namespace Sys2Proof.Machine

open Sys2Proof

/-! ### Bells (R173, R335 to R337) -/

/-- Change a bell of the die (false) or of the I/O die (true). -/
def Die.modBell (d : Die) (cross : Bool) (k : BitVec 5) (f : Bell → Bell) : Die :=
  if cross then { d with crossBells := d.crossBells.set k.toNat (f (d.crossBells.get ⟨k.toNat, k.isLt⟩)) k.isLt }
  else { d with bells := d.bells.set (k.toNat % 16) (f (d.bells.get ⟨k.toNat % 16, Nat.mod_lt _ (by decide)⟩)) (Nat.mod_lt _ (by decide)) }

/-- The state of a bell. -/
def Die.bell (d : Die) (cross : Bool) (k : BitVec 5) : Bell :=
  if cross then d.crossBells.get ⟨k.toNat, k.isLt⟩ else d.bells.get ⟨k.toNat % 16, Nat.mod_lt _ (by decide)⟩

/-- The hardware bell of crew bell n (R335). -/
def Res.bellNo (r : Res) (cross : Bool) (n : BitVec 4) : BitVec 5 :=
  if cross then r.crossOf.get ⟨n.toNat, n.isLt⟩ else (r.bellOf.get ⟨n.toNat, n.isLt⟩).zeroExtend 5

/-- The first arrival of the episode carried another exchange flag (R336). -/
def State.bellDiffers (s : State) (n : BitVec 4) (x : Bool) : Bool := (s.die.bell false (s.r.bellNo false n)).first == some (!x)

/-- Every participant's arrival has been counted. -/
def Bell.complete (b : Bell) : Bool := b.here && decide (b.parties ≤ b.others + 1)

/-- Cycles from the last arrival to the release (R173). -/
def bellLatency (cross : Bool) : Nat := if cross then 200 else 40

/-- The exchange phase asks for leave, or takes part in the unit that the core holds (R415, R417). -/
def State.askPhase (s : State) : State :=
  let s1 := s.modCore fun c => { c with exch := { c.exch with asked := some s.curRes } }
  if s.r.phaseLen ≤ 256 then s1
  else if s.core.leaveHeld then s1.modCore fun c => { c with leaveUse := c.leaveUse + 1 }
  else s1.askLeave

/-- Leave for the phase of residency k is lacking (R337, R417). -/
def State.lacksLeave (s : State) (k : ResNo) : Bool := decide (256 < (s.res.get k).phaseLen) && !s.core.leaveHeld

/-- An arrival at a bell after it has been counted: a die bell notes the flag of the episode's first one, and the last one sets the release (R173, R336). -/
def Bell.arrived (b : Bell) (cross x : Bool) (now : BitVec 64) : Bell :=
  let b1 := if cross then b else { b with first := some (b.first.getD x) }
  if b1.complete then { b1 with due := some (now + BitVec.ofNat 64 (bellLatency cross)) } else b1

/-- Count an arrival at a bell, this core's or another participant's (R336). -/
def State.countBell (s : State) (cross : Bool) (k : BitVec 5) (x : Bool) (f : Bell → Bell) : State :=
  let b := (f (s.die.bell cross k)).arrived cross x s.core.cycle
  let s1 := { s with die := s.die.modBell cross k fun _ => b }
  if b.complete then s1.after (bellLatency cross) .bellRelease else s1

/-- Another participant arrives; one that differs from the episode's first in its flag is not counted (R336). -/
def State.bellHeard (s : State) (cross : Bool) (k : BitVec 5) (x : Bool) : State :=
  if !cross && (s.die.bell false k).first == some (!x) then s
  else s.countBell cross k x fun b => { b with others := b.others + 1 }

/-- Arrive at a bell and wait for its release; for an exchange the phase asks for leave, and the others hear that it is lacking (R173, R336, R337). -/
def State.arriveBell (s : State) (cross : Bool) (n : BitVec 4) (x : Bool) : State :=
  let k := s.r.bellNo cross n
  let s1 := (s.countBell cross k x fun b => { b with here := true }).modC fun c => { c with blocked := c.blocked ++ [(.bell cross k, c.mode)] }
  let s2 := (if x then s1.askPhase else s1).emit (.bell cross k x)
  if x && s2.lacksLeave s2.curRes then s2.emit (.lackLeave k true) else s2

/-- What the three forms of BELL share. -/
def opBellAt (h : CHdr) (n : BitVec 4) (cross x bad : Bool) : Op :=
  { opK h with
    check := fun slot s =>
      illegalIf (s.notControl || bad) slot 0 <|> ownerBar (fun _ => 0) slot s <|>
      (if !cross && s.bellDiffers n x then some (trapWith Cause.bellMismatch (n.zeroExtend 64) 0) else none)
    eff := fun s => s.arriveBell cross n x }

def opBell (h : CHdr) (k : BitVec 4) : Op := opBellAt h k false false false

/-- BELL (R173). -/
def execBell (h : CHdr) (k : BitVec 4) (s : State) : Result := runOne (opBell h k) s

def opBellD (h : CHdr) (k : BitVec 4) : Op := opBellAt h k true false false

/-- BELL.d (R173). -/
def execBellD (h : CHdr) (k : BitVec 4) (s : State) : Result := runOne (opBellD h k) s

def opBellX (h : CHdr) (k : BitVec 4) (d : Bool) : Op := opBellAt h k false true d

/-- BELL.x (R173, R174). -/
def execBellX (h : CHdr) (k : BitVec 4) (d : Bool) (s : State) : Result := runOne (opBellX h k d) s

/-- A context is let go by the release of a bell: its next bundle issues in the cycle after (R173). -/
def Ctx.ring (b : Block) (now : BitVec 64) (c : Ctx) : Ctx :=
  if c.blocked.any (fun x => x.1 == b) then { c with blocked := c.blocked.filter (fun x => x.1 != b), busyUntil := now + 1 } else c

/-- Exchange mode begins for a residency: helpers HELD, the phase clock reads 0 (R174). -/
def State.enterExchange (s : State) (k : ResNo) : State :=
  (s.modCore fun c => { c with exch := { c.exch with mode := true, opened := false, zero := c.cycle, moves := [], collision := none, me := Rank.core (s.res.get k).rank } }).modRes k Res.holdHelpers

/-- The residency of this core that arrived at an exchange bell and waits for its release. -/
def State.phaseOf (s : State) (b : Bell) : Option ResNo := if b.first = some true then s.core.exch.asked else none

/-- Some participant still lacks leave for its phase, so the release waits (R337, R417). -/
def State.bellWaits (s : State) (cross : Bool) (b : Bell) : Bool :=
  !cross && (!b.lacking.isEmpty || (match s.phaseOf b with | some r => s.lacksLeave r | none => false))

/-- Release one bell (R336, R337). -/
def State.releaseBell (s : State) (cross : Bool) (k : BitVec 5) : State :=
  let b := s.die.bell cross k
  if s.bellWaits cross b then s.after 1 .bellRelease
  else
    let s1 := { s with die := s.die.modBell cross k fun b => { b with others := 0, first := none, here := false, lacking := [], due := none } }
    let s2 := { s1 with res := s1.res.map fun r => { r with ctx := r.ctx.map (Ctx.ring (.bell cross k) s.core.cycle) } }
    match (if cross then none else s.phaseOf b) with
    | some r => s2.enterExchange r
    | none => s2

/-- The bells whose release is due. -/
def State.bellsDue (s : State) : List (Bool × BitVec 5) :=
  let due (p : Bool × BitVec 5) : Bool := match (s.die.bell p.1 p.2).due with | some c => decide (c.toNat ≤ s.core.cycle.toNat) | none => false
  (((List.range 16).map fun k => (false, BitVec.ofNat 5 k)) ++ ((List.range 32).map fun k => (true, BitVec.ofNat 5 k))).filter due

/-- BELL_RELEASE (R336). -/
def execBellRelease (s : State) : Result := .next (s.bellsDue.foldl (fun s p => s.releaseBell p.1 p.2) s)

/-! ### Timed exchange (R174, R272 to R274) -/

/-- The phase clock. -/
def State.phaseClock (s : State) : Nat := (s.core.cycle - s.core.exch.zero).toNat

def opExch (h : CHdr) : Op :=
  { opK h with
    check := fun slot s => illegalIf (s.notControl || !s.core.exch.mode) slot 0 <|> ownerBar (fun _ => 0) slot s
    eff := fun s => s.modCore fun c => { c with exch := { c.exch with opened := true } } }

/-- EXCH (R174). -/
def execExch (h : CHdr) (s : State) : Result := runOne (opExch h) s

/-- Close the phase: helpers resume, the slice timer runs again, leave is returned (R174, R416). -/
def State.closePhase (s : State) : State :=
  let s1 := s.modCore fun c => { c with exch := { c.exch with mode := false, opened := false, asked := none, collision := none } }
  (if s1.holding then s1 else s1.modR Res.freeHelpers).leaveDone (decide (256 < s.r.phaseLen))

def opExchend (h : CHdr) : Op :=
  { opK h with
    check := fun slot s => illegalIf (s.notControl || !s.core.exch.opened) slot 0
    wait := fun s => !s.core.exch.moves.isEmpty
    late := State.closePhase
    after := fun s => s.core.exch.collision.map fun p => trapWith Cause.exchCollision (BitVec.ofNat 64 (p.1 % 2 ^ 20 + p.2 <<< 24)) 0 }

/-- EXCHEND (R174, R274). -/
def execExchend (h : CHdr) (s : State) : Result := runOne (opExchend h) s

/-- Exchange cycles of two transfers overlap. -/
def Exch.overlaps (m : Exch) (c n : Nat) : Bool := decide (m.cycle < c + n) && decide (c < m.cycle + m.flits)

/-- The area of an exchange transfer. -/
def exchAccess (h : CHdr) (a : BitVec 5) (n : Nat) (write : Bool) (slot : Nat) (s : State) : Access := ⟨s.c.reg h.s a, 64 * n, write, false, slot, 0, false⟩

/-- XSND and XRCV share everything but the direction (R273). -/
def opExchMove (h : CHdr) (a : BitVec 5) (t : BitVec 4) (flits : BitVec 8) (cyc : BitVec 20) (send : Bool) : Op :=
  let n := flits.toNat + 1
  let c := cyc.toNat
  let slots (s : State) := if send then s.r.sendSlots else s.r.recvSlots
  let peer (s : State) : Option Nat := (slots s).get ⟨t.toNat, t.isLt⟩
  let acc := exchAccess h a n (!send)
  { opN h with
    check := fun slot s =>
      let ra := s.c.reg h.s a
      illegalIf (!s.core.exch.opened || (peer s).isNone || decide (s.r.phaseLen ≤ (if send then c + n + 15 else c + n - 1))) slot ra <|>
      (if send then s.checkLoad (acc slot s) else s.checkAccess (acc slot s)) <|>
      illegalIf (s.accessRegion (acc slot s) != .user || ptrOff ra % 64 != 0) slot ra <|>
      (if c < s.phaseClock + 4 then some (trapWith Cause.exchMissed (BitVec.ofNat 64 s.phaseClock) (BitVec.ofNat 64 c)) else none) <|>
      illegalIf (s.core.exch.moves.any fun m => m.send == send && m.overlaps c n) slot ra
    ranges := fun _ => 1
    wait := fun s => decide (32 ≤ s.core.exch.moves.length) || s.stalled (acc 0 s)
    eff := fun s =>
      let g := s.guardArea (if send then .trap else .stall) (s.c.reg h.s a) (64 * n)
      let m : Exch := ⟨send, (peer s).getD 0, c, n, ptrOff (s.c.reg h.s a), g.2, 0⟩
      g.1.modCore fun k => { k with exch := { k.exch with moves := k.exch.moves ++ [m] } } }

def opXsnd (h : CHdr) (a : BitVec 5) (t : BitVec 4) (flits : BitVec 8) (cyc : BitVec 20) : Op := opExchMove h a t flits cyc true

/-- XSND (R273). -/
def execXsnd (h : CHdr) (a : BitVec 5) (t : BitVec 4) (flits : BitVec 8) (cyc : BitVec 20) (s : State) : Result := runOne (opXsnd h a t flits cyc) s

def opXrcv (h : CHdr) (a : BitVec 5) (t : BitVec 4) (flits : BitVec 8) (cyc : BitVec 20) : Op := opExchMove h a t flits cyc false

/-- XRCV (R273). -/
def execXrcv (h : CHdr) (a : BitVec 5) (t : BitVec 4) (flits : BitVec 8) (cyc : BitVec 20) (s : State) : Result := runOne (opXrcv h a t flits cyc) s

/-- Change the exchange state. -/
def State.modExch (s : State) (f : Phase2 → Phase2) : State := s.modCore fun c => { c with exch := f c.exch }

/-- The core's phase is marked with its first collision (R274). -/
def State.markPhase (s : State) (cycle core : Nat) : State :=
  if s.core.exch.mode then s.modExch fun e => { e with collision := some (e.collision.getD (cycle, core)) } else s

/-- A collision at this core's port marks the phase of every crew member on the die (R274, R339). -/
def State.collide (s : State) (cycle core : Nat) : State := (s.markPhase cycle core).emit (.collision cycle core)

/-- The flits of a pending XSND that are due leave through the crossbar, 16 cycles from their receiver (R273). -/
def sendFlits (me clock : Nat) : List Exch → State → State
  | [], s => s
  | m :: t, s =>
    let due := (List.range m.flits).filter fun i => decide (m.done ≤ i) && decide (m.cycle + i ≤ clock)
    let s1 := due.foldl (fun s i =>
      let bs := s.readBytes (m.addr + 64 * i) 64
      if m.peer = me then s.after 16 (.exchFlit me (m.cycle + i + 16) bs) else s.emit (.flit m.peer (m.cycle + i + 16) bs)) s
    let m1 := { m with done := m.done + due.length }
    let s2 := if m1.done = m1.flits then (s1.modExch fun e => { e with moves := e.moves.erase m }).rangeRemove m.range
      else s1.modExch fun e => { e with moves := e.moves.map fun x => if x = m then m1 else x }
    sendFlits me clock t (if due.isEmpty then s else s2)

/-- The XRCV that covers a flit. -/
def coveringMove (ms : List Exch) (cycle : Nat) : Option Exch :=
  ms.find? fun m => !m.send && decide (m.cycle ≤ cycle) && decide (cycle < m.cycle + m.flits)

/-- Judge the flits of one phase cycle at this core's port (R274). -/
def State.judgeFlits (s : State) (me cycle : Nat) : State :=
  let fs := s.core.exch.flits.filter fun f => f.2.1 == cycle
  let s1 := s.modExch fun e => { e with flits := e.flits.filter fun f => f.2.1 != cycle }
  match fs, coveringMove s.core.exch.moves cycle with
  | [f], some m => if f.1 = m.peer then s1.writeBytes (m.addr + 64 * (cycle - m.cycle)) f.2.2 else s1.collide cycle me
  | [], _ => s1
  | _, _ => s1.collide cycle me

/-- The XRCVs whose last arrival cycle has passed give up their areas (R273). -/
def endReceives (clock : Nat) : List Exch → State → State
  | [], s => s
  | m :: t, s =>
    endReceives clock t (if m.send ∨ clock < m.cycle + m.flits then s
      else (s.modExch fun e => { e with moves := e.moves.erase m }).rangeRemove m.range)

/-- The exchange at one cycle of the phase clock: flits leave, flits are judged, areas are given up (R273, R274). -/
def State.exchTick (s : State) : State :=
  match s.core.exch.asked, s.core.exch.mode with
  | some k, true => s.as k fun s =>
    let clock := s.phaseClock
    let me := s.logical
    let s1 := sendFlits me clock (s.core.exch.moves.filter (·.send)) s
    let cycles := ((s1.core.exch.flits.map (·.2.1)).filter (· ≤ clock)).eraseDups
    let s2 := cycles.foldl (fun s c => s.judgeFlits me c) s1
    endReceives clock s2.core.exch.moves s2
  | _, _ => s

/-- EXCH_FLIT (R273, R274, R339): a flit of core `peer` reaches the port in phase cycle `cycle`; once the core's own phase is closed it is a collision for the other members. -/
def execExchFlit (peer cycle : Nat) (data : List Byte) (s : State) : Result :=
  .next (if s.core.exch.mode then s.modExch fun e => { e with flits := e.flits ++ [(peer, cycle, data)] } else s.collide cycle s.core.exch.me)

/-! ### Mailbox targets (R277) -/

/-- The operand's upper bits are not 0 (R277). -/
def countBad (x : Word) : Bool := field x 48 16 != 0

def opExpect (h : CHdr) (a : BitVec 5) (m : BitVec 4) : Op :=
  { opN h with
    check := fun slot s => illegalIf (countBad (s.c.reg h.s a) || (s.r.mbox m).posted) slot (s.c.reg h.s a)
    wait := fun s => (s.r.mbox m).trips == 15
    eff := fun s => s.modR fun r => r.modMbox m fun b => { b with target := (s.c.reg h.s a).truncate 48, posted := true }.trip }

/-- EXPECT (R277). -/
def execExpect (h : CHdr) (a : BitVec 5) (m : BitVec 4) (s : State) : Result := runOne (opExpect h a m) s

def opMbadd (h : CHdr) (a : BitVec 5) (m : BitVec 4) : Op :=
  { opN h with
    check := fun slot s => illegalIf (countBad (s.c.reg h.s a)) slot (s.c.reg h.s a)
    eff := fun s => s.modR fun r => r.modMbox m (·.arrive (s.c.reg h.s a).toNat) }

/-- MBADD (R277). -/
def execMbadd (h : CHdr) (a : BitVec 5) (m : BitVec 4) (s : State) : Result := runOne (opMbadd h a m) s

/-! ### Handles (R278 to R280) -/

/-- The ring of a handle passes R49 as a store inside the user scratchpad (R279). -/
def State.ringOk (s : State) (base : Word) (len slot : Nat) : Bool :=
  let a : Access := ⟨base, len, true, false, slot, 0, false⟩
  (s.checkAccess a).isNone && s.accessRegion a == .user

def opHset (h : CHdr) (a : BitVec 5) (t : BitVec 4) (cnt : BitVec 8) (size : BitVec 13) : Op :=
  let len := 8 * size.toNat * (cnt.toNat + 1)
  { opN h with
    check := fun slot s =>
      let ra := s.c.reg h.s a
      illegalIf (size == 0 || decide (4096 < size.toNat) || ptrOff ra % 8 != 0 || !s.ringOk ra len slot) slot ra
    wait := fun s => (s.core.tasks.any fun k => k.res == s.curRes && (taskHandles k.instr).contains t) || s.stalled ⟨s.c.reg h.s a, len, true, false, 0, 0, false⟩
    late := fun s => (s.modR fun r => r.modHandle t fun _ => ⟨s.c.reg h.s a, size, cnt, 0, 0, true⟩).wake }

/-- HSET (R279). -/
def execHset (h : CHdr) (a : BitVec 5) (t : BitVec 4) (cnt : BitVec 8) (size : BitVec 13) (s : State) : Result := runOne (opHset h a t cnt size) s

/-- The free slots (producer) or the filled ones (consumer). -/
def Handle.room (x : Handle) (cons : Bool) : Nat := if cons then x.filled else x.spare

/-- HWAIT in either form (R280). -/
def opHwait (h : CHdr) (hn q : BitVec 4) (cons : Bool) : Op :=
  { opN h with
    check := fun slot s => illegalIf (!(s.r.handle hn).defined || decide ((s.r.handle hn).nslot < q.toNat)) slot 0
    wait := fun s => decide ((s.r.handle hn).room cons < q.toNat) }

def opHwaitProd (h : CHdr) (hn q : BitVec 4) : Op := opHwait h hn q false

/-- HWAIT.prod (R280). -/
def execHwaitProd (h : CHdr) (hn q : BitVec 4) (s : State) : Result := runOne (opHwaitProd h hn q) s

def opHwaitCons (h : CHdr) (hn q : BitVec 4) : Op := opHwait h hn q true

/-- HWAIT.cons (R280). -/
def execHwaitCons (h : CHdr) (hn q : BitVec 4) (s : State) : Result := runOne (opHwaitCons h hn q) s

/-- The bytes of a task's area that it reads, and those that it writes (R182, R271). -/
def Res.areas (r : Res) (t : Task) : List (Nat × Nat) × List (Nat × Nat) :=
  match t.instr with
  | .tld _ _ _ _ _ _ _ st => ([t.area st], [])
  | .tst _ _ _ _ _ _ _ st => ([], [t.area st])
  | _ => r.slotUses t

/-- A task whose area meets the slots that an HADV would release; for a producer, one that writes them (R280). -/
def Res.holdsSlots (r : Res) (x : Handle) (n : Nat) (cons : Bool) (t : Task) : Bool :=
  let w := x.slots (if cons then x.cons else x.prod) n
  shareBytes w (r.areas t).2 || (cons && shareBytes w (r.areas t).1)

/-- HADV in either form (R280). -/
def opHadv (h : CHdr) (hn q : BitVec 4) (cons : Bool) : Op :=
  { opN h with
    check := fun slot s => illegalIf (!(s.r.handle hn).defined || decide ((s.r.handle hn).room cons < q.toNat)) slot 0
    wait := fun s => q != 0 && s.core.tasks.any fun t => t.res == s.curRes && s.r.holdsSlots (s.r.handle hn) q.toNat cons t
    late := fun s => (s.modR fun r => r.modHandle hn fun x =>
      if cons then { x with cons := x.cons + q.zeroExtend 32 } else { x with prod := x.prod + q.zeroExtend 32 }).wake }

def opHadvProd (h : CHdr) (hn q : BitVec 4) : Op := opHadv h hn q false

/-- HADV.prod (R280). -/
def execHadvProd (h : CHdr) (hn q : BitVec 4) (s : State) : Result := runOne (opHadvProd h hn q) s

def opHadvCons (h : CHdr) (hn q : BitVec 4) : Op := opHadv h hn q true

/-- HADV.cons (R280). -/
def execHadvCons (h : CHdr) (hn q : BitVec 4) (s : State) : Result := runOne (opHadvCons h hn q) s

/-! ### RING (R271) -/

/-- RING in either direction: the crew holds the cluster, and the handles suit (R271). -/
def opRing (h : CHdr) (i : Instr) (a b : BitVec 4) : Op :=
  opTile (opN h) ⟨i, [], [], [], none, fun slot s =>
    illegalIf ((gangSet 2 s.logical).any (fun k => !s.r.members.contains k) || !(s.r.handle a).defined || !(s.r.handle b).defined ||
      (s.r.handle a).slot8 != (s.r.handle b).slot8) slot 0, fun _ => []⟩

def opRingCw (h : CHdr) (a b : BitVec 4) : Op := opRing h (.ringCw h a b) a b

/-- RING.cw (R271). -/
def execRingCw (h : CHdr) (a b : BitVec 4) (s : State) : Result := runOne (opRingCw h a b) s

def opRingCcw (h : CHdr) (a b : BitVec 4) : Op := opRing h (.ringCcw h a b) a b

/-- RING.ccw (R271). -/
def execRingCcw (h : CHdr) (a b : BitVec 4) (s : State) : Result := runOne (opRingCcw h a b) s

/-! ### Rounds (R175, R347 to R352, R362) -/

/-- Every input has delivered its marker, or is closed (R348, R352). -/
def Res.edgeReady (r : Res) : Bool := r.inputs.all fun i => i.marked || i.closed

/-- The residency after a round edge: the counter steps, markers are used up, context 0 goes on (R175). -/
def Res.edge (r : Res) : Res :=
  let r1 : Res := { r with round := r.round + 1, inputs := r.inputs.map fun i => ⟨i.peer, i.closed, i.closed⟩ }
  r1.modCtx 0 fun c => { c with blocked := c.blocked.filter fun b => b.1 != .round }

/-- The round edge of residency k: a member to be pre-empted is frozen and its tasks stop, but RING and ACCX ones, which run to their end; an extended slice ends in the next cycle (R175, R220, R349, R404, R406). -/
def State.roundEdge (s : State) (k : ResNo) : State :=
  let r := s.res.get k
  let s1 := s.modRes k Res.edge
  if r.preempt = some r.round then ((s1.modRes k fun r => { r with phase := .frozen }).stopAll fun t => t.res == k && engineOf t.instr != 2 && engineOf t.instr != 5).after 1 .residencySwitch
  else
    let s2 := if s.core.issuing = some k ∧ (s.core.gang.isSome ∨ s.core.exch.mode) then s1 else s1.modRes k Res.freeHelpers
    (if r.extended then s2.after 1 .residencySwitch else s2).kick

/-- The event fields let the round's marker go (R362). -/
def State.fieldsReady (s : State) : Bool :=
  (List.range 8).all fun n =>
    let f := s.r.evField (BitVec.ofNat 3 n)
    !f.bound || (decide (min f.run.toNat ((s.r.round.toNat + 1) * f.tpr.toNat - 1) ≤ f.t.toNat) &&
      !(s.core.events.any fun q => q.isOf s.curRes (BitVec.ofNat 3 n) && decide (q.ev.tick.toNat ≤ f.t.toNat)))

/-- Queue the markers of a round; an open packet delays them until its end (R175). -/
def sendMarkers (n : BitVec 32) : List Rank → State → State
  | [], s => s
  | d :: t, s => sendMarkers n t (s.queueOut (.marker s.r.rank d n false) [] (!(s.core.packet.any fun p => p.res == s.curRes)))

def opRound (h : CHdr) : Op :=
  { opK h with
    check := fun slot s => illegalIf s.notControl slot 0 <|> ownerBar (fun _ => 0) slot s
    wait := fun s => !s.fieldsReady
    late := fun s =>
      let s1 := (sendMarkers s.r.round s.r.outputs s).flush
      let s2 := (s1.modC fun c => { c with blocked := c.blocked ++ [(.round, c.mode)] }).modR Res.holdHelpers
      if s2.r.edgeReady then s2.roundEdge s2.curRes else s2 }

/-- ROUND (R175, R362). -/
def execRound (h : CHdr) (s : State) : Result := runOne (opRound h) s

/-- Accept a marker on an input (R348, R352). -/
def Res.mark (r : Res) (peer : Rank) (closing : Bool) : Res :=
  { r with inputs := r.inputs.map fun i => if i.peer = peer then { i with marked := true, closed := i.closed || closing } else i }

/-- A marker that comes next on an open input: it is the round's, or a closing one (R348, R352). -/
def State.markerIn (s : State) (k : ResNo) (peer : Rank) (n : BitVec 32) (closing : Bool) : State :=
  let x := s.res.get k
  if !x.phase.alive || !(x.inputs.any fun i => i.peer == peer && !i.closed) || (!closing && n != x.round) then s
  else
    let s1 := s.modRes k (·.mark peer closing)
    if (s1.res.get k).edgeReady && ((s1.res.get k).ctx.get 0).blocked.any (fun b => b.1 == .round) then s1.roundEdge k else s1

end Sys2Proof.Machine
end

