-- ==== Sys2Proof/Machine/Engines.lean ====
section
/-!
DEFINITION. The engines of a core: the Foreman's dispatch, the steps of tasks, the SFU, the vector arbiter, the ring, matrix commands of other cores, and power leave (R36, R37, R220 to R223, R231, R234 to R238, R271, R365, R366, R409 to R417).
-/

namespace Sys2Proof.Machine

open Sys2Proof

/-! ### Readiness (R216, R410) -/

/-- Tasks an engine holds at once (R410). -/
def engineCap (e : BitVec 3) : Nat := if e = 0 then 4 else if e = 3 then 16 else 1

/-- Dispatched tasks of an engine. -/
def State.engineLoad (s : State) (e : BitVec 3) : Nat := (s.core.tasks.filter fun t => t.dispatched && engineOf t.instr == e).length

/-- A step of a field that the task shares a word with is in progress (R366). -/
def State.fieldStep (s : State) (t : Task) : Bool :=
  decide (s.core.cycle.toNat < s.core.engineUntil.toNat) && shareAcc ((taskUses t).ar ++ (taskUses t).aw) [s.core.engineRect]

/-- The context's SFU FIFO takes every request that an SFT task has left (R414). -/
def State.sftRoom (s : State) (t : Task) : Bool :=
  engineOf t.instr != 4 || decide ((s.cl.fifos.get t.ctx).length + (stepCount t - t.pos) ≤ 32)

/-- The task may be dispatched behind the tasks issued before it (R216, R366, R410, R414). -/
def State.taskReady (s : State) (before : List Task) (t : Task) : Bool :=
  !t.dispatched && !t.parked && !(before.any fun e => conflicts (taskUses e) (taskUses t)) &&
  !(before.any fun e => slotConflict ((s.res.get t.res).slotUses e) ((s.res.get t.res).slotUses t)) && (s.res.get t.res).handlesOk t &&
  !s.fieldStep t && s.sftRoom t && !(s.clearing (taskUses t).groups.1 (taskUses t).groups.2)

/-- The oldest task of an engine that is ready. -/
def State.findReady (s : State) (e : BitVec 3) : List Task → List Task → Option Task
  | _, [] => none
  | before, t :: ts => if engineOf t.instr == e && s.taskReady before t then some t else s.findReady e (before ++ [t]) ts

/-! ### Dispatch (R37, R231, R234, R410, R414, R415) -/

/-- The send of an ACCX.send takes its data as the task is dispatched (R234); a core outside the work order refuses it (R52). -/
def State.fillSend (s : State) (t : Task) : State :=
  match s.sendOf t.sendId with
  | none => s
  | some q =>
    let mine (l : Leaving) : Bool := match l.item with | .message m => m.sendId == t.sendId | _ => false
    if s.outsideOrder q.res q.msg.dst then
      ((s.modCore fun c => { c with leaving := c.leaving.filter fun l => !mine l }).failSend q Cause.illegalOperand false).flush
    else
      ((s.modSend t.sendId fun x => { x with msg := { x.msg with data := accxBytes t.desc s.core.mem } }).modCore fun c =>
        { c with leaving := c.leaving.map fun l => if mine l then { l with ready := true } else l }).flush

/-- The requests of an SFT task enter its context's FIFO, a recorded one first (R238, R414). -/
def State.sftRequests (s : State) (t : Task) (r : BitVec 3) (fn : BitVec 4) : State :=
  let qs : List SfuReq := (List.range (stepCount t - t.pos)).map fun i => ⟨t.pair, false, r, fn, t.pos + i, 0, false, 0, none⟩
  let c := (s.res.get t.res).ctx.get t.ctx
  let again := c.replay.any fun q => !q.scalar && q.pair == t.pair
  let old := s.cl.fifos.get t.ctx
  if again then
    ((s.setFifo t.ctx (qs.take 1 ++ old ++ qs.drop 1)).modRes t.res fun r => r.modCtx t.ctx fun c => { c with replay := none }).sfuKick
  else (s.setFifo t.ctx (old ++ qs)).sfuKick

/-- The ring position of a logical core in its cluster (R271). -/
def ringPos (core : Nat) : BitVec 2 :=
  let row := core % 144 / 12
  let col := core % 12
  if row % 2 = 0 then (if col % 2 = 0 then 0 else 1) else (if col % 2 = 0 then 3 else 2)

/-- The core's own position in its cluster. -/
def State.position (s : State) : BitVec 2 := ringPos (match s.core.issuing with | some k => Rank.core (s.res.get k).rank | none => 0)

/-- The direction and the handles of a RING task. -/
def ringOf : Instr → Option (Bool × BitVec 4 × BitVec 4)
  | .ringCw _ a b => some (true, a, b)
  | .ringCcw _ a b => some (false, a, b)
  | _ => none

/-- The bytes of the consumer slot of a handle. -/
def State.slotBytes (s : State) (k : ResNo) (a : BitVec 4) : List Byte :=
  let h := (s.res.get k).handle a
  ({ s with curRes := k }).readBytes (ptrOff h.consPtr) h.slot

/-- The position that a ring sends to. -/
def ringNext (cw : Bool) (p : BitVec 2) : BitVec 2 := if cw then p + 1 else p - 1

/-- A heavy task takes part in the unit of leave (R415). -/
def State.useLeave (s : State) : State := s.modCore fun c => { c with leaveUse := c.leaveUse + 1 }

/-- Schedule the end of the present step of a task. -/
def State.runStep (s : State) (t : Task) : State := s.after (stepCycles t) (.taskStepEnd t.id)

/-- A matrix task starts, or waits for leave in the matrix unit (R415, R417). -/
def State.startMatrix (s : State) (t : Task) : State :=
  if !isHeavy t then s.runStep t
  else if s.core.leaveHeld then ((s.modTask t.id fun x => { x with heavy := true }).useLeave).runStep t
  else (s.modTask t.id fun x => { x with parked := true }).askLeave

/-- A RING task waits for those of the other cores, which are told of it (R271). -/
def State.startRing (s : State) (t : Task) (cw : Bool) (a : BitVec 4) : State :=
  ((s.modTask t.id fun x => { x with parked := true }).emit (.ringReady cw ((s.res.get t.res).handle a).slot)).post .ringTransfer

/-- A dispatched task starts at its engine (R410), with its place in the order of dispatch and its LFSR values (R68, R387). -/
def State.startTask (s : State) (t : Task) : State :=
  let s1 := ((s.modTask t.id fun x => { x with dispatched := true, stopped := false, seq := s.fresh }).bump).takeLfsr t
  if (normPos t).isNone then s1.finishTask t
  else match t.instr with
    | .sft _ _ _ r fn => s1.sftRequests t r fn
    | .accxSend .. => (s1.fillSend t).runStep t
    | .ringCw _ a _ => s1.startRing t true a
    | .ringCcw _ a _ => s1.startRing t false a
    | i =>
      if engineOf i = 1 then s1.startMatrix t
      else if engineOf i = 3 then (s1.modTask t.id fun x => { x with parked := true }).post .vectorBind
      else s1.runStep t

/-- The first-use cause of a dispatch: a group it names is another residency's (R37). -/
def State.dispatchTouch (s : State) (t : Task) : Option TrapReq :=
  let g := (taskUses t).groups
  let v := { s with curRes := t.res }
  (if g.1 then v.accTouch else none) <|> (if g.2 then v.tileTouch else none)

/-- Dispatch one task: a touch of each group it names (R37). -/
def State.dispatchTask (s : State) (t : Task) : State :=
  match s.dispatchTouch t with
  | some q => (s.pendN t.res t.ctx q.cause q.info0 q.info1).modRes t.res fun r => { r with tasksHeld := true }
  | none =>
    let g := (taskUses t).groups
    let s1 := s.as t.res fun s => s.resolve g.1 g.2
    if s1.clearing g.1 g.2 then s1 else s1.startTask t

/-- One engine dispatches at most one task in a cycle, and none for a residency that is frozen (R406, R410). -/
def State.dispatchEngine (s : State) (k : ResNo) (e : BitVec 3) : State :=
  if (s.res.get k).tasksHeld ∨ (s.res.get k).phase ≠ .live ∨ engineCap e ≤ s.engineLoad e ∨ s.core.engineDone.contains e then s
  else match s.findReady e [] (s.core.tasks.filter fun t => t.res == k) with
    | some t => (s.dispatchTask t).modCore fun c => { c with engineDone := c.engineDone ++ [e] }
    | none => s

/-- A task of the Foreman has not been dispatched. -/
def State.undispatched (s : State) : Bool := s.core.tasks.any fun t => !t.dispatched

/-- The Foreman looks again in the next cycle. -/
def State.lookAgain (s : State) : State :=
  if s.env.timers.contains (s.core.cycle + 1, .foremanDispatch) then s else s.after 1 .foremanDispatch

/-- FOREMAN_DISPATCH (R410): each engine with room dispatches its oldest ready task; the Foreman looks again in the next cycle. -/
def execForemanDispatch (s : State) : Result :=
  match s.core.issuing with
  | none => .next s
  | some k =>
    if s.core.switch.isSome then .next s
    else
      let s1 := ((List.range 6).map (BitVec.ofNat 3)).foldl (fun s e => s.dispatchEngine k e) s
      .next (if s1.undispatched && !s1.core.engineDone.isEmpty then s1.lookAgain else s1)

/-- GROUP_CLEAR_DONE (R36). -/
def execGroupClearDone (s : State) : Result :=
  let cut (d : Option (BitVec 64)) : Option (BitVec 64) := match d with
    | some c => if c.toNat ≤ s.core.cycle.toNat then none else some c
    | none => none
  .next ((s.modCore fun c => { c with accClear := cut c.accClear, tileClear := cut c.tileClear }).wake).kick

/-! ### Steps (R220, R221, R223, R365, R377) -/

/-- A bad word among those that the present step of a task reads (R252, R377, log entry 11). -/
def State.taskBad (s : State) (t : Task) : Bool :=
  let v := { s with curRes := t.res }
  let row : Bool := match t.instr with
    | .tld _ _ _ _ _ _ _ st => v.badAt (rowPtr t st t.pos) (t.shapes.getD 0 ⟨0, 0, 0⟩).rowBytes || (t.scaled && v.badAt (scalePtr t + t.pos * scalePer t) (scalePer t))
    | _ => false
  row || (!s.core.bad.isEmpty && (stepReads t s.core.mem).any fun p => s.core.bad.any fun k => decide (p.1 ≤ k) && decide (k < p.1 + p.2))

/-- A cause that a step raises: the task stops, and the next bundle of its context traps (R223). -/
def State.faultStep (s : State) (t : Task) (cause : BitVec 7) (bank : Nat) : State :=
  (s.stopTask t true).pendN t.res t.ctx cause (BitVec.ofNat 64 (t.pair.toNat + bank <<< 16)) (BitVec.ofNat 64 t.posWord)

/-- The accumulator banks that the present step of a task writes: a matrix step's block, or a reduction's rectangle (R235, R365). -/
def Task.stepBanks (t : Task) : List Nat :=
  if engineOf t.instr = 1 then [t.desc.rblk.toNat + t.pos]
  else match t.instr with
    | .accxOpen .. => t.desc.banks
    | .accxClose .. => t.desc.banks
    | _ => []

/-- The bank of a matrix step's block, if a landing or the event engine has used its write port in this cycle (R365). -/
def State.blockClash (s : State) (t : Task) : Option Nat :=
  if engineOf t.instr = 1 then (s.core.engineBanks ++ s.core.landingBanks).find? t.stepBanks.contains else none

/-- The step waits for a later cycle: the sequencer has written one of its banks in this one, or a reduction meets another kind of write (R365). -/
def State.portWaits (s : State) (t : Task) : Bool :=
  share t.stepBanks s.core.seqBanks || (engineOf t.instr == 2 && share t.stepBanks (s.core.engineBanks ++ s.core.landingBanks))

/-- What the reduction unit changes besides words: the tag is bound at open and unbound at close (R235, R236). -/
def bindFirst (d : BitVec 3) : List Reduction → List Reduction
  | [] => []
  | x :: t => if x.ad = d ∧ !x.bound then { x with bound := true } :: t else x :: bindFirst d t
def unbindFirst (d : BitVec 3) : List Reduction → List Reduction
  | [] => []
  | x :: t => if x.ad = d ∧ x.closing then t else x :: unbindFirst d t

/-- The copy of a RING: the slot that has come enters the producer slot of b, and both counts advance (R271). -/
def State.ringStep (s : State) (t : Task) : State :=
  match ringOf t.instr with
  | none => s
  | some (_, a, b) =>
    let bs := s.cl.ringData.getD []
    let dst := ptrOff ((s.res.get t.res).handle b).prodPtr
    let s1 := s.as t.res fun s => s.writeBytes dst bs
    let s2 := s1.modRes t.res fun r => (r.modHandle a fun h => { h with cons := h.cons + 1 }).modHandle b fun h => { h with prod := h.prod + 1 }
    { s2 with cl := { s2.cl with ringData := none } }

/-- The results of the present step, with what its engine does besides. -/
def State.doStep (s : State) (t : Task) : State :=
  match t.instr with
  | .accxOpen _ _ k tag => ((s.stepWrites t).modRes t.res fun r => { r with reductions := bindFirst k r.reductions }).feed t.res tag
  | .accxClose _ k _ => (s.stepWrites t).modRes t.res fun r => { r with reductions := unbindFirst k r.reductions }
  | .accxSend .. => s
  | .ringCw .. => s.ringStep t
  | .ringCcw .. => s.ringStep t
  | _ => s.stepWrites t

/-- A word in error that an ACCX task or a RING has read: the cause is recorded, and the task, which no step stops, goes on with the words as they stand (R220, R377; DESIGN CHOICE, log entry 66). -/
def State.noteBad (s : State) (t : Task) (bad : Bool) : State :=
  if bad then s.pendN t.res t.ctx Cause.memoryUncorrectable (BitVec.ofNat 64 t.pair.toNat) (BitVec.ofNat 64 t.posWord) else s

/-- The step after the present one, or the task's completion. -/
def State.nextStep (s : State) (t : Task) : State :=
  match nextPos t with
  | some u => (s.modTask t.id fun x => { x with pos := u.pos, jb := u.jb, kb := u.kb }).runStep u
  | none => s.finishTask t

/-- A tile transfer whose scale bytes carry another sequence number than its data writes neither: it completes, and its error is deferred to the first instruction that names the tile, waits for the ID or touches the area (R63, R184, R192). -/
def State.mispair (s : State) (t : Task) : State :=
  let n : BitVec 4 := match t.instr with | .tld _ _ n _ _ _ _ _ => n | .tst _ _ n _ _ _ _ _ => n | _ => 0
  let d : Deferred := ⟨Cause.scaleSequence, t.pair, (taskChan t.instr).getD 0, t.tid, n.zeroExtend 64, t.range, some n, s.fresh⟩
  (((s.modRes t.res fun r => { r with deferred := r.deferred ++ [d] }).rangeFail t.range).bump).finishTask { t with range := none }

/-- The two sequence numbers of a tile transfer differ (R63). -/
def Task.unpaired (t : Task) : Bool := engineOf t.instr == 0 && t.scaled && t.scaleSeq.isSome && t.scaleSeq != some (t.tid.truncate 16)

/-- A RING whose slot from the position before has not come yet (R271). -/
def State.ringWaits (s : State) (t : Task) : Bool := engineOf t.instr == 5 && s.cl.ringData.isNone

/-- TASK_STEP_END (R220, R221, R223, R365): the step's results are written together, unless a bank clash or a word in error stops it. -/
def execTaskStepEnd (id : Nat) (s : State) : Result :=
  match s.core.tasks.find? fun t => t.id == id && t.dispatched && !t.parked with
  | none => .next s
  | some t =>
    if !t.stepBanks.isEmpty ∧ s.env.agenda.any writesBank then .next (s.post (.taskStepEnd id))
    else if t.unpaired then .next (s.mispair t)
    else if s.ringWaits t then .next (s.after 1 (.taskStepEnd id))
    else match s.blockClash t with
      | some b => .next (s.faultStep t Cause.scheduleViolation b)
      | none =>
        if s.portWaits t then .next (s.after 1 (.taskStepEnd id))
        else if s.taskBad t ∧ engineOf t.instr ≠ 2 then .next (s.faultStep t Cause.memoryUncorrectable 0)
        else .next ((((s.noteBad t (s.taskBad t)).doStep t).modCore fun c => { c with seqBanks := c.seqBanks ++ t.stepBanks }).nextStep t)

/-! ### The special-function unit (R238, R239, R414) -/

/-- The FIFO at an index of the cluster's rotation: own context, or another core's (R414). -/
def State.fifoAt (s : State) (i : Nat) : Sum CtxNo (Fin 33) :=
  let p := i / 11
  let me := s.position.toNat
  if p = me then .inl ⟨i % 11, Nat.mod_lt _ (by decide)⟩
  else .inr ⟨((if p < me then p else p - 1) * 11 + i % 11) % 33, Nat.mod_lt _ (by decide)⟩

/-- A FIFO has a head to serve: one whose request is recorded for replay waits (R238). -/
def State.fifoReady (s : State) (i : Nat) : Bool :=
  match s.fifoAt i with
  | .inl k => !(s.cl.fifos.get k).isEmpty && ((match s.core.issuing with | some r => ((s.res.get r).ctx.get k).replay | none => none).isNone)
  | .inr j => !(s.cl.otherFifos.get j).isEmpty

/-- The next FIFO in rotation (R414). -/
def State.fifoNext (s : State) : Option Nat := ((List.range 44).map fun d => (s.cl.sfuLast + 1 + d) % 44).find? s.fifoReady

/-- The task of an SFT request. -/
def State.sftTask (s : State) (k : ResNo) (c : CtxNo) (q : SfuReq) : Option Task :=
  s.core.tasks.find? fun t => t.res == k && t.ctx == c && t.pair == q.pair && t.dispatched && engineOf t.instr == 4 && t.pos == q.rowBlock

/-- Cycles of a request: 16 results a cycle (R238). -/
def State.sfuCycles (s : State) (c : CtxNo) (q : SfuReq) : Nat :=
  if q.scalar then 1
  else match s.core.issuing with
    | none => 1
    | some k => match s.sftTask k c q with
      | none => 1
      | some t =>
        let sh := t.shapes.getD 0 ⟨0, 0, 0⟩
        max 1 ((min 8 (sh.rows.toNat - 8 * q.rowBlock) * sh.cols.toNat + 15) / 16)

/-- SFU_SERVE (R414). -/
def execSfuServe (s : State) : Result :=
  if s.cl.sfuBusy.isSome then .next s
  else match s.fifoNext with
    | none => .next s
    | some i =>
      let (who, n) : Nat × Nat := match s.fifoAt i with
        | .inl k => (k.val, match s.cl.fifos.get k with | q :: _ => s.sfuCycles k q | [] => 1)
        | .inr j => (11 + j.val, max 1 (((s.cl.otherFifos.get j).headD 1 + 15) / 16))
      let due := s.core.cycle + BitVec.ofNat 64 n
      .next (({ s with cl := { s.cl with sfuLast := i, sfuBusy := some who, sfuDue := due } }).after n .sfuRequestDone)

/-- The result of an SFS goes to its register, in the mode in which it was issued (R239). -/
def Ctx.sfuResult (c : Ctx) (q : SfuReq) (v : Word) : Ctx :=
  match c.awaits.find? fun a => a.sfu && a.mode == q.sup && a.dest == .s q.dest with
  | none => c
  | some a =>
    let c1 := { c with awaits := c.awaits.erase a }
    if c.mode && !q.sup then { c1 with frozen := c1.frozen ++ [⟨a.dest, v, latLoad⟩] } else c1.schedule a.dest v latLoad

/-- The request that was served has its result: a scalar, or a row block. A square root took its LFSR value at issue; one that a record brought back takes it here (R68, log entry 31). -/
def State.sfuFinish (s : State) (k : ResNo) (c : CtxNo) (q : SfuReq) : State :=
  if q.scalar then
    let l := (s.res.get k).lfsr
    let v := sfu q.fn q.mode (q.lfsr.getD l) (q.operand.truncate 32)
    s.modRes k fun r => ({ r with lfsr := if q.fn = 4 ∧ q.lfsr.isNone then lfsrAfter q.mode l else l }).modCtx c fun x => x.sfuResult q (v.zeroExtend 64)
  else match s.sftTask k c q with
    | none => s
    | some t =>
      if s.taskBad t then s.faultStep t Cause.memoryUncorrectable 0
      else
        let s1 := s.stepWrites t
        match nextPos t with
        | some u => s1.modTask t.id fun x => { x with pos := u.pos }
        | none => s1.finishTask t

/-- SFU_REQUEST_DONE (R238, R239): the head is served and the next FIFO is looked for. -/
def execSfuRequestDone (s : State) : Result :=
  match s.cl.sfuBusy, s.core.issuing with
  | some w, issuing =>
    if s.cl.sfuDue ≠ s.core.cycle then .next s
    else
      let s1 := { s with cl := { s.cl with sfuBusy := none } }
      if h : w < 11 then
        match s1.cl.fifos.get ⟨w, h⟩, issuing with
        | q :: t, some k => .next ((s1.setFifo ⟨w, h⟩ t).sfuFinish k ⟨w, h⟩ q).sfuKick
        | _, _ => .next s1.sfuKick
      else
        let j : Fin 33 := ⟨(w - 11) % 33, Nat.mod_lt _ (by decide)⟩
        .next ({ s1 with cl := { s1.cl with otherFifos := s1.cl.otherFifos.set j.val (s1.cl.otherFifos.get j).tail j.isLt } }).sfuKick
  | none, _ => .next s

/-! ### The vector arbiter (R412, R413) -/

/-- The first task of a list in the order of dispatch. -/
def firstSeq : List Task → Option Task
  | [] => none
  | t :: ts => match firstSeq ts with
    | some u => some (if u.seq < t.seq then u else t)
    | none => some t

/-- The head of the vector queue: of the tasks that wait to be bound, the one that entered first (R413). -/
def State.vectorHead (s : State) : Option Task := firstSeq (s.core.tasks.filter fun t => t.dispatched && t.parked && engineOf t.instr == 3)

/-- A core of the cluster has a head that waits. -/
def State.headWaits (s : State) (i : BitVec 2) : Bool :=
  if i = s.position then s.vectorHead.isSome else decide (0 < s.cl.waiting.get ⟨i.toNat, i.isLt⟩)

/-- A core's weight. -/
def State.weight (s : State) (i : Fin 4) : Nat :=
  if i.val = s.position.toNat then (match s.core.issuing with | some k => (s.res.get k).vshare.toNat | none => 1)
  else (s.cl.shares.get i).toNat

/-- The cores in the order of the search (R413). -/
def State.bindOrder (s : State) : List (BitVec 2) := (List.range 4).map fun d => s.cl.boundLast + BitVec.ofNat 2 (d + 1)

/-- Bind a head to a free lane group (R412, R413). -/
def State.bindLane (s : State) (g : Fin 4) : State :=
  if (s.cl.lanes.get g).isSome then s
  else
    let w := s.bindOrder.filter s.headWaits
    if w.isEmpty then s
    else
      let has (q : Vector Nat 4) (i : BitVec 2) : Bool := decide (0 < q.get ⟨i.toNat, i.isLt⟩)
      let q := if w.any (has s.cl.quota) then s.cl.quota else Vector.ofFn s.weight
      match w.find? (has q) with
      | none => s
      | some i =>
        let s1 := { s with cl := { s.cl with quota := q.set i.toNat (q.get ⟨i.toNat, i.isLt⟩ - 1) i.isLt, boundLast := i, lanes := s.cl.lanes.set g.val (some i) g.isLt } }
        if i = s.position then
          match s.vectorHead with
          | none => s1
          | some t => (s1.modTask t.id fun x => { x with parked := false, lane := some (BitVec.ofNat 2 g.val) }).runStep t
        else { s1 with cl := { s1.cl with waiting := s1.cl.waiting.set i.toNat (s1.cl.waiting.get ⟨i.toNat, i.isLt⟩ - 1) i.isLt } }

/-- VECTOR_BIND (R413). -/
def execVectorBind (s : State) : Result := .next ((List.finRange 4).foldl State.bindLane s)

/-! ### RING (R271) -/

/-- The RING task that waits for the others of the cluster. -/
def State.ringTask (s : State) : Option Task := s.core.tasks.find? fun t => t.dispatched && t.parked && engineOf t.instr == 5

/-- RING_TRANSFER (R271): the four tasks copy together, from the slots as they stand then, or fail together. -/
def execRingTransfer (s : State) : Result :=
  match s.ringTask with
  | none => .next s
  | some t => match ringOf t.instr with
    | none => .next s
    | some (cw, a, _) =>
      let others := ((List.range 4).map (BitVec.ofNat 2)).filter (· != s.position)
      if !(others.all fun p => s.cl.ringPeers.any fun x => x.1 == p) then .next (s.after 1 .ringTransfer)
      else
        let size := ((s.res.get t.res).handle a).slot
        let dir := s.cl.ringPeers.any fun x => x.2.1 != cw
        let len := s.cl.ringPeers.any fun x => x.2.2 != size
        if dir || len then
          let s1 := { s with cl := { s.cl with ringPeers := [] } }
          .next ((s1.finishTask t).pendN t.res t.ctx Cause.ringMismatch (BitVec.ofNat 64 (t.pair.toNat + dir.toNat <<< 16 + len.toNat <<< 17)) 0)
        else
          let bad := ({ s with curRes := t.res }).badAt (ptrOff ((s.res.get t.res).handle a).consPtr) size
          let s1 := ((s.noteBad t bad).modTask t.id fun x => { x with parked := false }).emit (.ring (ringNext cw s.position).toNat (s.slotBytes t.res a))
          .next ({ s1 with cl := { s1.cl with ringPeers := [] } }.after ((size + 63) / 64) (.taskStepEnd t.id))

/-! ### Matrix commands (R229 to R231) -/

/-- The MMA that a command stands for. -/
def commandInstr (c : MatrixCommand) : Instr :=
  let h : CHdr := ⟨false, false, 0, false⟩
  if c.v then .mmaX h c.ad c.ta c.tb c.rm else .mma h c.ad c.ta c.tb c.rm

/-- Refuse a command: its cause goes to the sender's error queue (R231). -/
def State.refuseCommand (s : State) (c : MatrixCommand) (cause : BitVec 7) (target : Rank) : State :=
  match s.resByRank c.order c.src with
  | some k => s.modRes k fun r => r.postError (commandError c cause target)
  | none => s.emitFor c.order (.refusal c.src cause c.ctx c.pair target (capClear c.cap))

/-- Checks 1 to 3 of R231: crew, core and right, check field. -/
def Res.admits (r : Res) (c : MatrixCommand) : Bool :=
  BitVec.ofNat 16 (field c.cap 48 16) == r.crew && field c.cap 29 11 == Rank.core r.rank && c.cap.getLsbD 40 &&
  capabilityCheck r.capkey (capClear c.cap) == c.cap.truncate 29

/-- Checks 4 and 5 of R231, for the present residency: both groups owned, the body legal. -/
def State.commandCheck (s : State) (c : MatrixCommand) : Option (BitVec 7) :=
  if !s.r.accOwn then some Cause.accFirstUse
  else if !s.r.tileOwn then some Cause.tileFirstUse
  else (needs 0 (s.mmaNeeds c.ad c.ta c.tb c.v)).map (·.cause)

/-- The task of a command, in the target's context 0 (R231). -/
def State.commandTask (s : State) (c : MatrixCommand) : Task :=
  let t := (mmaForm (commandInstr c) c.ad c.ta c.tb c.v).task { s with curCtx := 0 }
  { t with pair := c.pair, notice := c.notice.map fun mb => (c.src, mb), remote := true }

/-- A command of a residency can be taken now: it is not admitted, or the residency issues and its Foreman has room (R231, R409). -/
def State.commandRoom (s : State) (k : ResNo) (c : MatrixCommand) : Bool :=
  !(s.res.get k).admits c ||
  (s.core.issuing == some k && s.core.switch.isNone && decide ((s.core.tasks.filter fun t => t.res == k).length < 64))

/-- A command is checked, and enters the Foreman as a task or is refused (R231). -/
def State.commandIn (s : State) (c : MatrixCommand) : State :=
  match s.resOf c.order with
  | none => s.refuseCommand c Cause.capabilityRefused c.dst
  | some k =>
    if !(s.res.get k).admits c then s.refuseCommand c Cause.capabilityRefused (s.res.get k).rank
    else match ({ s with curRes := k }).commandCheck c with
      | some cause => s.refuseCommand c cause (s.res.get k).rank
      | none => s.enqueue (({ s with curRes := k }).commandTask c)

/-! ### Power leave (R415 to R417) -/

/-- The matrix tasks that wait for leave start. -/
def startHeavy : List Task → State → State
  | [], s => s
  | t :: ts, s =>
    startHeavy ts (if t.dispatched ∧ t.parked ∧ engineOf t.instr = 1 then
      ((s.modTask t.id fun x => { x with parked := false, heavy := true }).useLeave).runStep t else s)

/-- The copies that wait for leave are sent to their Porters. -/
def startCopies : List Nat → State → State
  | [], s => s
  | i :: t, s => startCopies t (match s.reqOf i with | some q => s.useLeave.sendCopy q | none => s)

/-- The other participants of the bell at which residency k waits hear that its phase has leave (R337). -/
def State.phaseLeave (s : State) (k : ResNo) : State :=
  match ((s.res.get k).ctx.get 0).blocked.findSome? fun x => match x.1 with | .bell false b => some b | _ => none with
  | some b => s.emit (.lackLeave b false)
  | none => s

/-- The grant takes effect: everything that waits for the unit starts; a unit that nothing waits for goes back (R415 to R417). -/
def State.takeLeave (s : State) : State :=
  let s1 := s.modCore fun c => { c with leaveHeld := true, leaveAsked := none, leaveDue := none, leaveCopies := [] }
  let s2 := startCopies s.core.leaveCopies (startHeavy s.core.tasks s1)
  let s3 := match s.core.exch.asked with
    | some k => if 256 < (s.res.get k).phaseLen ∧ !s.core.exch.mode then s2.useLeave.phaseLeave k else s2
    | none => s2
  if s3.core.leaveUse = 0 then s3.giveLeave else s3

/-- LEAVE_GRANT (R416, R417): a grant takes effect in its cycle. -/
def execLeaveGrant (s : State) : Result :=
  match s.core.leaveDue with
  | some d => .next (if d.toNat ≤ s.core.cycle.toNat then s.takeLeave else s)
  | none => .next s

end Sys2Proof.Machine
end

