-- ==== Sys2Proof/Machine/Inbox.lean ====
section
/-!
DEFINITION. The core's receive buffer: what arrives on the message channel waits there until the Postmaster takes it, one envelope a cycle, and markers behind what they follow (R231, R282, R316, R325, R347, R348, R356, R357, R423).
-/

namespace Sys2Proof.Machine

open Sys2Proof

/-! ### Items of the buffer -/

/-- The envelope of an arrival. -/
def envelopeOf : Instr → Option Message
  | .eagerArrival m => some m
  | .rendezvousArrival m => some m
  | .accxMessageArrival m => some m
  | _ => none

/-- The channel of an item: the rank it comes from and the rank it goes to. -/
def State.channelOf (s : State) : Instr → Option (Rank × Rank)
  | .eventArrival e d => some (e.src, d.rank)
  | .mmarCommandArrival c => (s.resOf c.order).map fun k => (c.src, (s.res.get k).rank)
  | .markerArrival r p _ _ => some (p, (s.res.get r).rank)
  | i => (envelopeOf i).map fun m => (m.src, m.dst)

/-- The item is a marker. -/
def isMarker : Instr → Bool
  | .markerArrival .. => true
  | _ => false

/-- Two items are of one channel. -/
def State.sameChannel (s : State) (i j : Instr) : Bool := (s.channelOf i).isSome && s.channelOf i == s.channelOf j

/-- Bytes of the buffer come free, and their sender has room for as many (R423). -/
def State.roomBack (s : State) (order : Nat) (src dst : Rank) (n : Nat) : State := s.emitFor order (.room src dst 2 n)

/-! ### Events, commands and markers (R282, R348, R356, R357) -/

/-- An event enters its residency's queue, or is refused; a residency of its work order is not there, or it names no element of a bound field (R282, R356). -/
def State.eventIn (s : State) (e : EventRec) (d : Rank) (order : Nat) : State :=
  let no := s.emitFor order (.refusal e.src Cause.eventRefused 0 0 d (eventInfo e))
  match s.resOf order with
  | none => no
  | some k => if (s.res.get k).evOk e then (s.enqueueEvent k e).kick else no

/-- The queue can take an event, or its refusal needs no room (R348, R357). -/
def State.eventRoom (s : State) (e : EventRec) (order : Nat) : Bool :=
  match s.resOf order with
  | none => true
  | some k => !(s.res.get k).inputShut e.src && (!(s.res.get k).evOk e || !s.queueFull)

/-- The places in the refused streams of a channel that a marker follows (R325). -/
def State.owedPlaces (s : State) (c : Rank × Rank) : List (BitVec 16 × BitVec 16) :=
  (s.core.streamsIn.filter fun x => x.src == c.1 && x.dst == c.2).filterMap fun x => x.owed.map fun q => (x.group, q)

/-- A stream place has been accepted or given up. -/
def State.placePassed (s : State) (c : Rank × Rank) (p : BitVec 16 × BitVec 16) : Bool :=
  seqBefore p.2 (streamOf s.core.streamsIn c.1 c.2 p.1).seq

/-- A marker before which nothing of its channel waits notes the stream places that it follows. -/
def State.noteMarker (s : State) (before : List Waiting) (x : Waiting) : Waiting :=
  if isMarker x.ev && x.after.isNone && !(before.any fun y => s.sameChannel y.ev x.ev) then { x with after := (s.channelOf x.ev).map s.owedPlaces } else x

/-- Every place that a marker follows has been passed. -/
def State.markerClear (s : State) (x : Waiting) : Bool :=
  match s.channelOf x.ev, x.after with
  | some c, some l => l.all (s.placePassed c)
  | _, _ => false

/-- The residency of a marker can take it: it has ended, or the input has no marker of the present round (R348). -/
def State.markerRoom (s : State) (r : ResNo) (peer : Rank) : Bool := !(s.res.get r).phase.alive || !(s.res.get r).inputShut peer

/-- An event or a command keeps its place behind whatever came before it on its channel (R282, R347, R348, R356). -/
def State.keepsPlace (s : State) (before : List Waiting) (i : Instr) : Bool := before.any fun y => s.sameChannel y.ev i

/-- A waiting marker of its channel that an envelope does not precede: it is not one of the refused stream places that the marker follows (R325, R348). -/
def State.behindMarker (s : State) (before : List Waiting) (i : Instr) (m : Message) : Bool :=
  before.any fun y => isMarker y.ev && s.sameChannel y.ev i &&
    !(y.after.any fun l => l.any fun p => p.1 == m.group && !seqBefore p.2 m.seq)

/-- An item of the buffer can be taken now. -/
def State.canTake (s : State) (before : List Waiting) (x : Waiting) : Bool :=
  match x.ev with
  | .eventArrival e d => !s.keepsPlace before x.ev && s.eventRoom e d.order
  | .mmarCommandArrival c =>
    !s.keepsPlace before x.ev && (match s.resOf c.order with | none => true | some k => !(s.res.get k).inputShut c.src && s.commandRoom k c)
  | .markerArrival r p _ _ => s.markerClear x && s.markerRoom r p
  | i => match envelopeOf i with
    | some m => s.takeable m && !s.behindMarker before i m
    | none => false

/-- Take an item that is no envelope. -/
def State.takeItem (s : State) (i : Instr) : State :=
  match i with
  | .eventArrival e d => (s.roomBack d.order e.src d.rank 16).eventIn e d.rank d.order
  | .mmarCommandArrival c =>
    (match s.channelOf i with | some x => s.roomBack c.order x.1 x.2 16 | none => s).commandIn c
  | .markerArrival r p n closing => (s.roomBack (s.res.get r).order p (s.res.get r).rank 16).markerIn r p n closing
  | _ => s

/-! ### The order of acceptance (R316, R347, R356) -/

/-- The age of an item and the port by which it came; a marker has none, and is taken as soon as it is clear. -/
def itemAge : Instr → Nat × Nat
  | .eventArrival _ d => (d.age, d.port)
  | .mmarCommandArrival c => (c.age, c.port)
  | .markerArrival .. => (1024, 0)
  | i => match envelopeOf i with | some m => (m.age, m.port) | none => (0, 0)

/-- The markers of the buffer note what they follow. -/
def State.noteMarkers (s : State) : List Waiting → List Waiting → List Waiting
  | _, [] => []
  | before, x :: t => let y := s.noteMarker before x; y :: s.noteMarkers (before ++ [y]) t

/-- The items that can be taken, in the order of the buffer. -/
def State.takeables (s : State) : List Waiting → List Waiting → List Waiting
  | _, [] => []
  | before, x :: t => (if s.canTake before x then [x] else []) ++ s.takeables (before ++ [x]) t

/-- The oldest item of a list: the largest age, then the lower port, then the first (R316, R424). -/
def oldest : List Waiting → Option Waiting
  | [] => none
  | x :: t => match oldest t with
    | none => some x
    | some y =>
      let a := itemAge x.ev
      let b := itemAge y.ev
      if a.1 < b.1 ∨ (a.1 = b.1 ∧ b.2 < a.2) then some y else some x

/-- Take an item out of the buffer. -/
def State.takeOut (s : State) (x : Waiting) : State :=
  let s1 := s.modCore fun c => { c with inbox := c.inbox.erase x }
  match envelopeOf x.ev with
  | some m => ((s1.modCore fun c => { c with accepted := true }).freeRoom m).envelopeIn m
  | none => s1.takeItem x.ev

/-- The Postmaster takes the oldest item that it can take, one after another, until an envelope would be the second of its cycle, on fuel (R316, R356). -/
def drainOn : Nat → State → State
  | 0, s => s
  | n + 1, s =>
    let s1 := s.modCore fun c => { c with inbox := s.noteMarkers [] c.inbox }
    match oldest (s1.takeables [] s1.core.inbox) with
    | none => s1
    | some x => if (envelopeOf x.ev).isSome && s1.core.accepted then s1 else drainOn n (s1.takeOut x)

/-- The buffer is looked at. -/
def State.drain (s : State) : State := drainOn s.core.inbox.length s

/-- An item enters the buffer; it is looked at once every envelope of the cycle has come. -/
def State.receive (s : State) (i : Instr) : State :=
  let s1 := s.modCore fun c => { c with inbox := c.inbox ++ [⟨i, none⟩] }
  if s.env.agenda.any fun j => (envelopeOf j).isSome then s1 else s1.drain

/-- EAGER_ARRIVAL (R315, R316, R321). -/
def execEagerArrival (m : Message) (s : State) : Result := .next (s.receive (.eagerArrival { m with rdv := false }))

/-- RENDEZVOUS_ARRIVAL (R315, R316, R323, R324). -/
def execRendezvousArrival (m : Message) (s : State) : Result := .next (s.receive (.rendezvousArrival { m with rdv := true }))

/-- ACCX_MESSAGE_ARRIVAL (R235, R316, R345). -/
def execAccxMessageArrival (m : Message) (s : State) : Result := .next (s.receive (.accxMessageArrival { m with cls := 2 }))

/-- EVENT_ARRIVAL (R282, R356, R357): a full queue or a shut input holds the event in the buffer. -/
def execEventArrival (e : EventRec) (d : Addressee) (s : State) : Result := .next (s.receive (.eventArrival e d))

/-- MMAR_COMMAND_ARRIVAL (R231, R348, R409). -/
def execMmarCommandArrival (c : MatrixCommand) (s : State) : Result := .next (s.receive (.mmarCommandArrival c))

/-- MARKER_ARRIVAL (R325, R347, R348, R352). -/
def execMarkerArrival (r : ResNo) (peer : Rank) (n : BitVec 32) (closing : Bool) (s : State) : Result :=
  .next (s.receive (.markerArrival r peer n closing))

end Sys2Proof.Machine
end

