-- ==== Sys2Proof/Machine/OpOf.lean ====
section
/-!
DEFINITION. What each instruction that has a word brings to its bundle; the other constructors are events.
-/

namespace Sys2Proof.Machine

open Sys2Proof

/-- The operation of an instruction of a bundle; none for an event. -/
def opOf : Instr → Option Op
  | .nop h => some (opNop h)
  | .br h o => some (opBr h o)
  | .bri h a i1 => some (opBri h a i1)
  | .call h o => some (opCall h o)
  | .calli h a i1 => some (opCalli h a i1)
  | .ret h a => some (opRet h a)
  | .jtab h a b len => some (opJtab h a b len)
  | .loop h k cnt => some (opLoop h k cnt)
  | .loopx h o => some (opLoopx h o)
  | .waitFull h a => some (opWaitFull h a)
  | .waitEmpty h a => some (opWaitEmpty h a)
  | .waitFtime h a f => some (opWaitFtime h a f)
  | .waitErrq h => some (opWaitErrq h)
  | .waitCyc h a => some (opWaitCyc h a)
  | .waitHelpers h a => some (opWaitHelpers h a)
  | .waitLimit h a t k lim => some (opWaitLimit h a t k lim)
  | .waitch h a c => some (opWaitch h a c)
  | .waitmb h m => some (opWaitmb h m)
  | .start h a k => some (opStart h a k)
  | .hend h => some (opHend h)
  | .couple h w => some (opCouple h w)
  | .uncouple h => some (opUncouple h)
  | .bell h k => some (opBell h k)
  | .bellD h k => some (opBellD h k)
  | .bellX h k d => some (opBellX h k d)
  | .exch h => some (opExch h)
  | .exchend h => some (opExchend h)
  | .round h => some (opRound h)
  | .yield h => some (opYield h)
  | .halt h => some (opHalt h)
  | .ld h a b z k o => some (opLd h a b z k o)
  | .ldExt h a b z k off => some (opLdExt h a b z k off)
  | .st h a b z o => some (opSt h a b z o)
  | .stExt h a b z off => some (opStExt h a b z off)
  | .ldp h a b o => some (opLdp h a b o)
  | .ldpExt h a b off => some (opLdpExt h a b off)
  | .stp h a b o => some (opStp h a b o)
  | .stpExt h a b off => some (opStpExt h a b off)
  | .ldfe h a b o => some (opLdfe h a b o)
  | .ldfeExt h a b off => some (opLdfeExt h a b off)
  | .ldff h a b o => some (opLdff h a b o)
  | .ldffExt h a b off => some (opLdffExt h a b off)
  | .stfe h a b o => some (opStfe h a b o)
  | .stfeExt h a b off => some (opStfeExt h a b off)
  | .stf h a b o => some (opStf h a b o)
  | .stfExt h a b off => some (opStfExt h a b off)
  | .lat h a b c x w op => some (opLat h a b c x w op)
  | .tld h a t ch need hnd he stride => some (opTld h a t ch need hnd he stride)
  | .tst h a t ch need hnd he stride => some (opTst h a t ch need hnd he stride)
  | .accrd h t d v r => some (opAccrd h t d v r)
  | .accwr h d t => some (opAccwr h d t)
  | .accwrAdd h d t => some (opAccwrAdd h d t)
  | .xld h a b c x ch len => some (opXld h a b c x ch len)
  | .xst h a b c x ch len => some (opXst h a b c x ch len)
  | .xat h a b c x pk w op => some (opXat h a b c x pk w op)
  | .xatr h a b c x pk w op => some (opXatr h a b c x pk w op)
  | .cpy h a b c x aw nest ne ch => some (opCpy h a b c x aw nest ne ch)
  | .cpyd h a b c x core mb me dt nest ne ch => some (opCpyd h a b c x core mb me dt nest ne ch)
  | .ndld h a k => some (opNdld h a k)
  | .fenceAcq h k => some (opFenceAcq h k)
  | .fenceRel h k => some (opFenceRel h k)
  | .fenceFull h k => some (opFenceFull h k)
  | .fenceExt h => some (opFenceExt h)
  | .mma h k a b r => some (opMma h k a b r)
  | .mmaX h k a b r => some (opMmaX h k a b r)
  | .mmar h a b c x k ta tb v r => some (opMmar h a b c x k ta tb v r)
  | .accz h k => some (opAccz h k)
  | .accxSend h a k tag => some (opAccxSend h a k tag)
  | .accxOpen h a k tag => some (opAccxOpen h a k tag)
  | .accxClose h k r => some (opAccxClose h k r)
  | .send h a b c x tag => some (opSend h a b c x tag)
  | .sendp h a b c x fin tag => some (opSendp h a b c x fin tag)
  | .sendx h a b c x tag => some (opSendx h a b c x tag)
  | .recv h a b c x tag => some (opRecv h a b c x tag)
  | .probe h a b c x tag => some (opProbe h a b c x tag)
  | .cancel h a b => some (opCancel h a b)
  | .mcast h a b c x mb tag => some (opMcast h a b c x mb tag)
  | .free h a b => some (opFree h a b)
  | .ringCw h a b => some (opRingCw h a b)
  | .ringCcw h a b => some (opRingCcw h a b)
  | .xsnd h a t flits cyc => some (opXsnd h a t flits cyc)
  | .xrcv h a t flits cyc => some (opXrcv h a t flits cyc)
  | .expect h a m => some (opExpect h a m)
  | .mbadd h a m => some (opMbadd h a m)
  | .hset h a t cnt size => some (opHset h a t cnt size)
  | .hwaitProd h hn q => some (opHwaitProd h hn q)
  | .hwaitCons h hn q => some (opHwaitCons h hn q)
  | .hadvProd h hn q => some (opHadvProd h hn q)
  | .hadvCons h hn q => some (opHadvCons h hn q)
  | .field h a f k => some (opField h a f k)
  | .evsend h a b c x fld col row => some (opEvsend h a b c x fld col row)
  | .evrun h a f => some (opEvrun h a f)
  | .evctlUnbind h f => some (opEvctlUnbind h f)
  | .evctlTime h a f => some (opEvctlTime h a f)
  | .evctlLate h a f => some (opEvctlLate h a f)
  | .evctlQlen h a f => some (opEvctlQlen h a f)
  | .evctlFires h a f => some (opEvctlFires h a f)
  | .sft h d a r u => some (opSft h d a r u)
  | .sfs h a b r fn => some (opSfs h a b r fn)
  | .trap h a i1 => some (opTrap h a i1)
  | .sysret h => some (opSysret h)
  | .csrr h a reg => some (opCsrr h a reg)
  | .csrw h a reg => some (opCsrw h a reg)
  | .csrs h a reg => some (opCsrs h a reg)
  | .csrc h a reg => some (opCsrc h a reg)
  | .errq h a b => some (opErrq h a b)
  | .ctxsv h a k => some (opCtxsv h a k)
  | .ctxld h a k => some (opCtxld h a k)
  | .accspill h a k => some (opAccspill h a k)
  | .accfill h a k => some (opAccfill h a k)
  | .peerclr h a => some (opPeerclr h a)
  | .bkpt h => some (opBkpt h)
  | .limm h a sx imm => some (opLimm h a sx imm)
  | .limmHi h a imm => some (opLimmHi h a imm)
  | .add h d a b x w => some (opAdd h d a b x w)
  | .sub h d a b x w => some (opSub h d a b x w)
  | .addi h d a i1 => some (opAddi h d a i1)
  | .mul h d a b x w => some (opMul h d a b x w)
  | .mulh h d a b x => some (opMulh h d a b x)
  | .mulhu h d a b x => some (opMulhu h d a b x)
  | .div h d a b x w => some (opDiv h d a b x w)
  | .divu h d a b x w => some (opDivu h d a b x w)
  | .rem h d a b x w => some (opRem h d a b x w)
  | .remu h d a b x w => some (opRemu h d a b x w)
  | .and h d a b x => some (opAnd h d a b x)
  | .or h d a b x => some (opOr h d a b x)
  | .xor h d a b x => some (opXor h d a b x)
  | .andn h d a b x => some (opAndn h d a b x)
  | .shl h d a b x w => some (opShl h d a b x w)
  | .shr h d a b x w => some (opShr h d a b x w)
  | .sar h d a b x w => some (opSar h d a b x w)
  | .rol h d a b x w => some (opRol h d a b x w)
  | .shli h d a w sh => some (opShli h d a w sh)
  | .shri h d a w sh => some (opShri h d a w sh)
  | .sari h d a w sh => some (opSari h d a w sh)
  | .clz h d a w => some (opClz h d a w)
  | .ctz h d a w => some (opCtz h d a w)
  | .popc h d a w => some (opPopc h d a w)
  | .bfx h d a b x => some (opBfx h d a b x)
  | .bfi h d a b x => some (opBfi h d a b x)
  | .min h d a b x w => some (opMin h d a b x w)
  | .max h d a b x w => some (opMax h d a b x w)
  | .minu h d a b x w => some (opMinu h d a b x w)
  | .maxu h d a b x w => some (opMaxu h d a b x w)
  | .sel h d a b x p => some (opSel h d a b x p)
  | .mov h d a => some (opMov h d a)
  | .cmp h p a b x c => some (opCmp h p a b x c)
  | .cmpi h p a i1 c => some (opCmpi h p a i1 c)
  | .plog h p a b t => some (opPlog h p a b t)
  | .pmovGet h d => some (opPmovGet h d)
  | .pmovPut h a => some (opPmovPut h a)
  | .xmov h d b => some (opXmov h d b)
  | .xmovP h d b => some (opXmovP h d b)
  | .addp h d a b x => some (opAddp h d a b x)
  | .addpE h d a b x => some (opAddpE h d a b x)
  | .pfmt h d a i1 => some (opPfmt h d a i1)
  | .pfld h d a f => some (opPfld h d a f)
  | .gdistCore h d a b x t => some (opGdistCore h d a b x t)
  | .gdistOff h d a b x t => some (opGdistOff h d a b x t)
  | .fadd h d a b x r => some (opFadd h d a b x r)
  | .fsub h d a b x r => some (opFsub h d a b x r)
  | .fmul h d a b x r => some (opFmul h d a b x r)
  | .ffma h d a b x r => some (opFfma h d a b x r)
  | .fmin h d a b x => some (opFmin h d a b x)
  | .fmax h d a b x => some (opFmax h d a b x)
  | .fcmp h p a b x c => some (opFcmp h p a b x c)
  | .fcvt h d a k r => some (opFcvt h d a k r)
  | .fclass h d a => some (opFclass h d a)
  | .tadd h d a b m v r => some (opTadd h d a b m v r)
  | .tsub h d a b m v r => some (opTsub h d a b m v r)
  | .tmul h d a b m v r => some (opTmul h d a b m v r)
  | .tfma h d a b m v r => some (opTfma h d a b m v r)
  | .tmax h d a b m => some (opTmax h d a b m)
  | .tmin h d a b m => some (opTmin h d a b m)
  | .tabs h d a m => some (opTabs h d a m)
  | .tneg h d a m => some (opTneg h d a m)
  | .tcvt h d a k m r => some (opTcvt h d a k m r)
  | .tqnt h d a t m r => some (opTqnt h d a t m r)
  | .tdq h d a k m r => some (opTdq h d a k m r)
  | .tscl h d a b m v r => some (opTscl h d a b m v r)
  | .tand h d a b m => some (opTand h d a b m)
  | .tor h d a b m => some (opTor h d a b m)
  | .txor h d a b m => some (opTxor h d a b m)
  | .tshl h d a b m => some (opTshl h d a b m)
  | .tshr h d a b m k => some (opTshr h d a b m k)
  | .tcmp h k a b m c => some (opTcmp h k a b m c)
  | .tsel h d a b m => some (opTsel h d a b m)
  | .tcas h d a b m o c => some (opTcas h d a b m o c)
  | .tmaxi h d a b m c => some (opTmaxi h d a b m c)
  | .tmini h d a b m c => some (opTmini h d a b m c)
  | .tredSum h d a c m r => some (opTredSum h d a c m r)
  | .tredMax h d a c m r => some (opTredMax h d a c m r)
  | .tredMin h d a c m r => some (opTredMin h d a c m r)
  | .tbc h d a m c => some (opTbc h d a m c)
  | .ttr h d a m => some (opTtr h d a m)
  | .tslc h d a b m => some (opTslc h d a b m)
  | .tidx h d m c => some (opTidx h d m c)
  | .tmov h d a m => some (opTmov h d a m)
  | .tfill h d m => some (opTfill h d m)
  | .mlog h j k l m t => some (opMlog h j k l m t)
  | .mcnt h d k m => some (opMcnt h d k m)
  | .splimWrite h op a => some (opSplimWrite h op a)
  | .spbaseWrite h op a => some (opSpbaseWrite h op a)
  | .tshapeWrite h op a k => some (opTshapeWrite h op a k)
  | .adWrite h op a k => some (opAdWrite h op a k)
  | .accownWrite h op a => some (opAccownWrite h op a)
  | .tileownWrite h op a => some (opTileownWrite h op a)
  | .trestartWrite h op a => some (opTrestartWrite h op a)
  | .extentWrite h op a t k => some (opExtentWrite h op a t k)
  | .errqsWrite h op a => some (opErrqsWrite h op a)
  | .srlfsrWrite h op a => some (opSrlfsrWrite h op a)
  | .vshareWrite h op a => some (opVshareWrite h op a)
  | .capkeyWrite h op a hi => some (opCapkeyWrite h op a hi)
  | _ => none

end Sys2Proof.Machine
end

