-- ==== Sys2Proof/Machine/HostRead.lean ====
section
/-!
DEFINITION. The tables of the I/O die, the registers that the host and Damilaril address there, and what they read (R8, R449, R455, R463 to R465, R468, R473).
-/

namespace Sys2Proof.Machine

open Sys2Proof

/-! ### The tables -/

/-- Change the package. -/
def State.modPkg (s : State) (f : Package → Package) : State := { s with pkg := f s.pkg }

/-- Read a table; an unlisted number has the default. -/
def tabGet {α : Type} (d : α) : List (Nat × α) → Nat → α
  | [], _ => d
  | x :: t, k => if x.1 = k then x.2 else tabGet d t k

/-- Write a table, in rising order of number, defaults unlisted. -/
def tabSet {α : Type} [DecidableEq α] (d : α) : List (Nat × α) → Nat → α → List (Nat × α)
  | [], k, v => if v = d then [] else [(k, v)]
  | x :: t, k, v =>
    if k < x.1 then (if v = d then x :: t else (k, v) :: x :: t)
    else if k = x.1 then (if v = d then t else (k, v) :: t)
    else x :: tabSet d t k v

/-- Queue q, and its change. -/
def State.queue (s : State) (q : Nat) : Queue := tabGet Queue.reset s.pkg.queues q
def State.modQueue (s : State) (q : Nat) (f : Queue → Queue) : State :=
  s.modPkg fun p => { p with queues := tabSet Queue.reset p.queues q (f (tabGet Queue.reset p.queues q)) }

/-- Completion counter of number 64 × tenant + counter (R468). -/
def State.counterAt (s : State) (c : Nat) : Word := tabGet 0 s.pkg.counters c
def State.setCounter (s : State) (c : Nat) (v : Word) : State := s.modPkg fun p => { p with counters := tabSet 0 p.counters c v }

/-- A tenant, and its change. -/
def State.tenant (s : State) (t : BitVec 6) : Tenant := s.pkg.tenants.get ⟨t.toNat, t.isLt⟩
def State.modTenant (s : State) (t : BitVec 6) (f : Tenant → Tenant) : State :=
  s.modPkg fun p => { p with tenants := p.tenants.set t.toNat (f (p.tenants.get ⟨t.toNat, t.isLt⟩)) t.isLt }

/-- Change a work order. -/
def State.modOrder (s : State) (id : Nat) (f : WorkOrder → WorkOrder) : State :=
  s.modPkg fun p => { p with orders := p.orders.map fun w => if w.id = id then f w else w }

/-- Change a crew. -/
def State.modCrew (s : State) (id i : Nat) (f : Crew → Crew) : State :=
  s.modOrder id fun w => { w with crews := w.crews.mapIdx fun j c => if j = i then f c else c }

/-- A confidential tenant has registered its key (R457). -/
def Tenant.confidential (t : Tenant) : Bool := t.key.isSome

/-! ### Host accesses (R455, R463) -/

/-- A host access the function takes: 8 bytes, naturally aligned (R463). -/
def HostWrite.legal (w : HostWrite) : Bool := w.size == 8 && w.offset % 8 == 0

/-- The queue block and the register offset that a write names. -/
def HostWrite.queueReg (w : HostWrite) : Option (Nat × Nat) :=
  if w.legal && decide (0x100000 ≤ w.offset) && decide (w.offset < 0x140000) then some ((w.offset - 0x100000) / 64, w.offset % 64) else none

/-- The counter that a write names: the offset numbers 64 × tenant + counter (R463). -/
def HostWrite.counterNo (w : HostWrite) : Option Nat :=
  if w.legal && decide (0x200000 ≤ w.offset) && decide (w.offset < 0x208000) then some ((w.offset - 0x200000) / 8) else none

/-- The transactions of a tenant travel on its selective stream: of a confidential tenant always, of any other in RUN (R455, R456, R463). -/
def State.onStream (s : State) (t : BitVec 6) : Bool := (s.tenant t).confidential || (s.tenant t).state == .run

/-- A transaction reaches a tenant: it comes on the stream that it must travel on (R455, R456, R463). -/
def State.streamGood (s : State) (t : BitVec 6) (stream : Option (BitVec 6)) : Bool := !s.onStream t || stream == some t
def State.streamOk (s : State) (t : BitVec 6) (w : HostWrite) : Bool := s.streamGood t w.stream

/-- The stream on which the package sends for a tenant (R455). -/
def State.streamOf (s : State) (t : BitVec 6) : Option (BitVec 6) := if s.onStream t then some t else none

/-- A transaction outside the stream is discarded and counted (R455). -/
def State.discard (s : State) (t : BitVec 6) : State := s.modTenant t fun x => { x with dropped := x.dropped + 1 }

/-! ### What a read returns (R8, R449, R464, R465, R468) -/

/-- PSTAT (R464). -/
def Package.pstat (p : Package) : Word :=
  BitVec.ofNat 64 (p.step.toNat + p.ready.toNat <<< 4 + p.recovery.toNat <<< 5 + p.warm.toNat <<< 6)

/-- Records are pending (R465, R466). -/
def Queue.busy (q : Queue) : Bool := q.recs.any fun r => r.stage != .done

/-- The register of a queue block at an offset (R465). -/
def Queue.reg (q : Queue) (o : Nat) : Option Word :=
  if o = 0 then some (BitVec.ofNat 64 (q.en.toNat + q.ien.toNat <<< 1 + q.level.toNat <<< 12 + q.weight.toNat <<< 14 + q.log2n.toNat <<< 20 +
    q.tenant.toNat <<< 26 + q.vec.toNat <<< 40))
  else if o = 0x08 then some (BitVec.ofNat 64 (q.ring.toNat <<< 8))
  else if o = 0x10 then some (BitVec.ofNat 64 (q.cring.toNat <<< 5))
  else if o = 0x18 then some (BitVec.ofNat 64 q.tail.toNat)
  else if o = 0x20 then some (BitVec.ofNat 64 q.head.toNat)
  else if o = 0x28 then some (BitVec.ofNat 64 (q.busy.toNat + q.ovf.toNat <<< 1 + q.cfgerr.toNat <<< 2))
  else none

/-- The tenant whose stream an access to its queues and counters must come on (R455). -/
def State.accessTenant (s : State) (w : HostWrite) : Option (BitVec 6) :=
  match w.queueReg, w.counterNo with
  | some (q, _), _ => some (s.queue q).tenant
  | none, some c => some (BitVec.ofNat 6 (c / 64))
  | none, none => none

/-- What the host reads at an offset: none is an Unsupported Request, as is every queue block and counter in recovery mode (R463, R473); the recovery window has no stated contents (log entry 8). -/
def State.hostValue (s : State) (w : HostWrite) : Option Word :=
  if !w.legal then none
  else if w.offset = 0 then some s.pkg.pstat
  else if 0x300000 ≤ w.offset ∧ w.offset < 0x310000 then some (Config.freeValue s.env.free)
  else if s.pkg.recovery then none
  else match w.queueReg, w.counterNo with
    | some (q, o), _ => (s.queue q).reg o
    | none, some c => some (s.counterAt c)
    | none, none => none

/-- A host read: its answer leaves; one outside the stream of a confidential tenant is discarded and counted (R455). -/
def State.hostRead (s : State) (w : HostWrite) : State :=
  match s.accessTenant w with
  | some t => if s.streamOk t w then s.emit (.hostData w.offset (s.hostValue w)) else s.discard t
  | none => (s.modEnv fun e => { e with free := e.free + 1 }).emit (.hostData w.offset (s.hostValue w))

/-- The code of a die's state (R449). -/
def DieState.code : DieState → Nat
  | .reset => 0
  | .closed => 1
  | .attesting => 2
  | .keying => 3
  | .opened => 4
  | .quarantined => 5

/-- ASTAT.d (R449). -/
def DieRec.astat (d : DieRec) : Word := BitVec.ofNat 64 (d.state.code + d.epoch.toNat <<< 24 + d.reason.toNat <<< 40)

/-- Damilaril reads ASTAT.d; ACTL.d reads zero (R8, R449). -/
def State.mgmtRead (s : State) (actl : Bool) (d : Nat) : State :=
  match s.pkg.dies[d]? with
  | some x => s.emit (.mgmtData actl d (if actl then 0 else x.astat))
  | none => s

/-- Damilaril writes k of ROLLINT; outside 24 to 40 the spec states no result (R452, log entry 8). -/
def State.rollintWrite (s : State) (k : Nat) : State :=
  (s.modEnv fun e => { e with free := e.free + 1 }).modPkg fun p =>
    { p with rollint := if 24 ≤ k ∧ k ≤ 40 then k else 24 + (Config.freeValue s.env.free).toNat % 17 }

end Sys2Proof.Machine
end

