-- ==== Sys2Proof/Machine/Flits.lean ====
section
/-!
DEFINITION. The flit layer of the die-to-die links: packing mesh packets into flits, building them, and delivering them in order (R427, R428, R450, R452).
-/

namespace Sys2Proof.Machine

open Sys2Proof

/-! ### The links -/

/-- Change link l. -/
def State.modLink (s : State) (l : Nat) (f : Link → Link) : State :=
  s.modPkg fun p => { p with links := p.links.mapFinIdx fun i x _ => if i = l then f x else x }

/-- Link l. -/
def State.link (s : State) (l : Nat) : Link := (s.pkg.links[l]?).getD Link.reset

/-- One direction of a link. -/
def Link.dir (x : Link) (up : Bool) : LinkDir := if up then x.up else x.down
def Link.setDir (x : Link) (up : Bool) (f : LinkDir → LinkDir) : Link := if up then { x with up := f x.up } else { x with down := f x.down }
def State.modDir (s : State) (l : Nat) (up : Bool) (f : LinkDir → LinkDir) : State := s.modLink l (·.setDir up f)

/-! ### Packets and flits (R427) -/

/-- What fits into a payload of so many bytes, and the packets that remain. -/
def packOne : Nat → List (List Byte) → List Piece × List (List Byte)
  | _, [] => ([], [])
  | n, p :: t =>
    if p.length ≤ n then (⟨p, true⟩ :: (packOne (n - p.length) t).1, (packOne (n - p.length) t).2)
    else if n = 0 then ([], p :: t) else ([⟨p.take n, false⟩], p.drop n :: t)

/-- Packets packed into payloads of 240 bytes, on fuel. -/
def payloads : Nat → List (List Byte) → List (List Piece)
  | 0, _ => []
  | _, [] => []
  | k + 1, l => (packOne 240 l).1 :: payloads k (packOne 240 l).2

/-- Bytes 0 to 3 of a flit: the generation bit and the low bits of the sequence number (R427). -/
def flitHead (seq gen : Nat) : BitVec 32 := BitVec.ofNat 32 (gen % 2 * 2 ^ 31 + seq % 2 ^ 28)

/-- The sequence number of which a receiver sees the low bits: the one nearest to what is due. -/
def seqNear (want : Nat) (head : BitVec 32) : Nat :=
  let d := (field head 0 28 + 2 ^ 28 - want % 2 ^ 28) % 2 ^ 28
  if d < 2 ^ 27 ∨ want + d < 2 ^ 28 then want + d else want + d - 2 ^ 28

/-- The sender builds one flit under its generation, whose number with the direction and the 48-bit sequence number makes the nonce, and keeps it for replay (R427, R428). -/
def LinkDir.build (x : LinkDir) (now : BitVec 64) (payload : List Piece) : LinkDir :=
  { x with seq := x.seq + 1, sent := x.sent + 1, last := now, replay := (x.replay ++ [(Flit.mk x.seq x.gen payload)]).drop ((x.replay.length + 1) - 64) }

/-- A flit leaves for the other end of its link. -/
def State.sendFlit (s : State) (l : Nat) (up : Bool) (payload : List Piece) : State :=
  let d := (s.link l).dir up
  (s.modDir l up fun x => x.build s.core.cycle payload).modPkg fun p => { p with inbox := p.inbox ++ [.flit l up (flitHead d.seq d.gen) true payload] }

/-- Packets go over an open link (R427). -/
def State.sendPackets (s : State) (l : Nat) (up : Bool) (ps : List (List Byte)) : State :=
  if !(s.link l).opened then s
  else (payloads (ps.flatten.length + ps.length) ps).foldl (fun s p => s.sendFlit l up p) s

/-- The pieces of a delivered flit: each packet that is whole goes on (R427, R450). -/
def State.takePieces (s : State) (l : Nat) (up : Bool) : List Piece → State
  | [] => s
  | p :: t =>
    let whole := ((s.link l).dir up).part ++ p.bytes
    let s1 := s.modDir l up fun x => { x with part := if p.last then [] else whole }
    (if p.last then s1.emit (.linkPacket l up whole) else s1).takePieces l up t

end Sys2Proof.Machine
end

