-- ==== Sys2Proof/Machine/Outside.lean ====
section
/-!
DEFINITION. What other cores and the host do to the core under view and for which the opcode table has no row, applied in order when its cycle comes (log entry 1).
-/

namespace Sys2Proof.Machine

open Sys2Proof

/-- Change what a gang's members have told. -/
def State.modGang (s : State) (f : GangIn → GangIn) : State := s.modCore fun c => { c with gangIn := f c.gangIn }

/-- A write, an atomic or a copy of another core of the cluster enters the store buffer, once what must precede it has been performed, and goes to its server or to the Weighhouse (R292, R293, R297, R298); only a write serves reads. -/
def State.hearWrite (s : State) (q : ServerReq) (wh : Bool) : State :=
  if q.own then s
  else if s.entryWaits q then s.modEnv fun e => { e with outside := e.outside ++ [(s.core.cycle + 1, .clusterWrite q wh)] }
  else
    let x : Bool × List Byte := match q.op with | .write d => (false, d) | _ => (true, List.replicate (reqSize q) 0)
    let b : Buffered := { id := q.id, own := false, part := q.part, pkg := q.pkg, addr := q.addr, data := x.2, atomic := x.1 }
    { s with cl := { s.cl with buffer := s.cl.buffer ++ [b] } }.post (if wh then .weighhouseAtomic q else .serverRequest q)

/-- A bit of a word flips: a second one in the same word can be corrected no more (R431). -/
def Servers.flip (v : Servers) (w : Nat) : Servers :=
  if v.bad.contains w then v else if v.soft.contains w then { v with soft := v.soft.erase w, bad := setAdd v.bad w } else { v with soft := setAdd v.soft w }

/-- A lane group that a task of another core held is free (R412). -/
def State.laneFree (s : State) (g : BitVec 2) : State :=
  if s.cl.lanes.get ⟨g.toNat, g.isLt⟩ = some s.position then s
  else { s with cl := { s.cl with lanes := s.cl.lanes.set g.toNat none g.isLt } }.post .vectorBind

/-- A request of another core enters its FIFO, which holds 32 (R414). -/
def State.sfuRequest (s : State) (i : Fin 33) (n : Nat) : State :=
  let l := s.cl.otherFifos.get i
  if 32 ≤ l.length then s else { s with cl := { s.cl with otherFifos := s.cl.otherFifos.set i.val (l ++ [n]) i.isLt } }.sfuKick

/-- A transport packet comes to a live port (R438, R459, R460): dropped where its network layer or delivery mode is not supported, its authentication fails or its package is cut off, sent again where it was trimmed, else its link packet goes on. -/
def State.portPacket (s : State) (port : Nat) (mode : UetMode) (peer : Nat) (v4 trimmed authFail : Bool) (p : Option Parcel) : State :=
  if !(s.pkg.ports[port]?).getD false then s
  else if v4 || mode == .rudi || mode == .uud || authFail || s.cutOff peer then s.modPkg fun k => { k with portDropped := k.portDropped + 1 }
  else if trimmed then s.emit (.resend port peer)
  else match p with
    | some x => s.enterRouter x
    | none => s

/-- IDE_KM programs the keys of the link stream, or of a tenant's (R455). -/
def State.ideKeys (s : State) : Option (BitVec 6) → State
  | none => s.modPkg fun p => { p with linkIde := true }
  | some t => s.modTenant t fun x => { x with ide := true }

/-- One such act. A tile's sequence numbers are judged before its first row, so a side band heard later changes nothing (R63). -/
def State.hear (s : State) : Outside → State
  | .couple k w => s.modCore fun c => { c with coupling := (c.coupling.filter fun p => p.1 != k) ++ [(k, w)] }
  | .coupleGone k => s.modCore fun c => { c with coupling := c.coupling.filter fun p => p.1 != k }
  | .gangFetch ws => s.modGang fun g => { g with fetched := some ws }
  | .gangStall k on => s.modGang fun g => { g with stalled := (g.stalled.filter (· != k)) ++ (if on then [k] else []) }
  | .gangNext k p => s.modGang fun g => { g with nexts := (g.nexts.filter fun x => x.1 != k) ++ [(k, p)] }
  | .gangEnd true => s.disband true
  | .gangEnd false => s.modGang fun g => { g with ending := true }
  | .clusterWrite q wh => s.hearWrite q wh
  | .landingDone id f => (s.landGone id false).copyPart id f
  | .porterDone id => s.leavePorter false id
  | .softError w => { s with srv := s.srv.flip w }
  | .memberEnd e => s.modPkg fun p => { p with ends := p.ends ++ [e] }
  | .memberRound o i n => s.modCrew o i fun c => { c with rounds := if c.rounds.toNat < n.toNat then n else c.rounds }
  | .memberDrained o i k e => s.modCrew o i fun c => { c with drained := (c.drained.filter fun x => x.1 != k) ++ [(k, e)] }
  | .admissions l => { s with srv := { s.srv with admits := l } }
  | .sideBand k n => s.modCore fun c => { c with tasks := c.tasks.map fun t => if t.id = k ∧ t.pos = 0 then { t with scaleSeq := some n } else t }
  | .ringReady p cw n => { s with cl := { s.cl with ringPeers := (s.cl.ringPeers.filter fun x => x.1 != p) ++ [(p, cw, n)] } }
  | .ringData d => { s with cl := { s.cl with ringData := some d } }
  | .vectorTask p => { s with cl := { s.cl with waiting := s.cl.waiting.set p.toNat (s.cl.waiting.get ⟨p.toNat, p.isLt⟩ + 1) p.isLt } }.post .vectorBind
  | .laneFree g => s.laneFree g
  | .share p w => { s with cl := { s.cl with shares := s.cl.shares.set p.toNat w p.isLt } }
  | .sfuRequest i n => s.sfuRequest ⟨i % 33, Nat.mod_lt _ (by decide)⟩ n
  | .leaveAsk p l => { s with die := s.die.ask ⟨p, l, s.core.cycle⟩ }
  | .leaveBack p => { s with die := s.die.giveBack p }
  | .packet p => s.enterRouter p
  | .room d vc n => s.giveRoom d vc n
  | .portFull p vc on => s.modCore fun c => { c with portFull := (c.portFull.filter (· != (p, vc))) ++ (if on then [(p, vc)] else []) }
  | .bell cross k x => s.bellHeard cross k x
  | .lackLeave k core on => { s with die := s.die.modBell false k fun b => { b with lacking := (b.lacking.filter (· != core)) ++ (if on then [core] else []) } }
  | .collision cycle core => s.markPhase cycle core
  | .expertCall c => { s with die := { s.die with expertWaiting := s.die.expertWaiting ++ [c] } }
  | .expertDone o d n => s.lowerCount o d n
  | .linkTraffic l up ps => s.sendPackets l up ps
  | .portPacket n mode peer v4 trimmed bad p => s.portPacket n mode peer v4 trimmed bad p
  | .portRetry n on => s.modPkg fun p => { p with portRetry := p.portRetry.mapFinIdx fun i x _ => if i = n then on else x }
  | .congestion c => s.modPkg fun p => { p with receiverCredit := c }
  | .ideKeys t => s.ideKeys t
  | .bareGrant => s.modPkg fun p => { p with grantsRefused := p.grantsRefused + 1 }
  | .codeStore a v => s.modCore fun c => c.put (0x300000 + 8 * a.toNat) (leBytes 8 v.toNat)
  | .hostRead offset size stream => s.hostRead ⟨offset, size, 0, stream⟩
  | .mgmtRead actl d => s.mgmtRead actl d
  | .rollintWrite k => s.rollintWrite k

/-- The acts of a list, in order. -/
def State.hearAll (s : State) : List Outside → State
  | [] => s
  | o :: t => (s.hear o).hearAll t

/-- Apply the acts whose cycle has come. -/
def State.hearOutside (s : State) : State :=
  let now := s.core.cycle.toNat
  let due := s.env.outside.filter fun t => decide (t.1.toNat ≤ now)
  (s.modEnv fun e => { e with outside := e.outside.filter fun t => !decide (t.1.toNat ≤ now) }).hearAll (due.map (·.2))

end Sys2Proof.Machine
end

