-- ==== Sys2Proof/Machine/Cycle.lean ====
section
/-!
DEFINITION. One issue cycle of the core: which contexts are ready, the bundle that issues, the units that run every cycle, and the slice counters (R12, R13, R170, R403, R408).
-/

namespace Sys2Proof.Machine

open Sys2Proof

/-! ### The bundle at the program counter -/

/-- The decoded words of a bundle at their places; the second tile-vector word takes slot V1 (R94, R369). -/
def placeAll : Nat → List FWord → List Placed
  | _, [] => []
  | v, f :: t => match opOf f.instr with
    | none => placeAll v t
    | some o => ⟨o, o.slot.num v, f.pair, f.word⟩ :: placeAll (if o.slot = .v then v + 1 else v) t

/-- The present context's next bundle: a pending cause comes before its fetch, and a fetch or decode cause before its other checks and every other wait than that for a release or an edge (R97, R380).
A leader whose fetch fails has no bundle to send, so its gang is over at once (R25; DESIGN CHOICE, log entry 24). -/
def State.runBundle (s : State) : State :=
  if s.pendingTrap.isSome || s.c.barred then runPlaced [] s
  else match s.nextBundle with
    | .error q => (if s.leads && (s.fetchPairs 4 s.c.pc).toOption.isNone then s.disband true else s).takeTrap q
    | .ok r => runPlaced (placeAll 0 r.1) { s with bundleLen := r.2 }

/-- Turn to a context. -/
def State.at (s : State) (k : ResNo) (c : CtxNo) : State := { s with curRes := k, curCtx := c }

/-- The present context has a bundle that no wait at issue holds: a cause is due, or the bundle passes its checks and nothing makes it wait (R13, R97). -/
def State.bundleReady (s : State) : Bool :=
  s.pendingTrap.isSome ||
  (!s.c.barred && match s.nextBundle with
   | .error _ => true
   | .ok r =>
     let v := { s with bundleLen := r.2 }.modC Ctx.landed
     let live := liveOps v (placeAll 0 r.1)
     (bundleTrap v live).isSome || (!(s.c.waiting s.core.cycle) && !mustWait v live))

/-- The present context's bundle waits for nothing and is held by the clear of a group that it touches, which is no wait (R13, R36). -/
def State.bundleHeld (s : State) : Bool :=
  s.pendingTrap.isNone && match s.nextBundle with
   | .error _ => false
   | .ok r =>
     let v := { s with bundleLen := r.2 }.modC Ctx.landed
     let live := liveOps v (placeAll 0 r.1)
     (bundleTrap v live).isNone && !(s.c.waiting s.core.cycle) && !mustWait v live && held (resolveAll v v live) live

/-- The contexts of a residency that are LIVE and whose bundle nothing holds; a gang waits for its leader's fetch and for every member (R24). -/
def State.baseReady (s : State) (k : ResNo) : List CtxNo :=
  if (s.res.get k).phase != .live || (s.core.issuing == some k && s.gangStalled) then []
  else (List.finRange 11).filter fun c => ((s.res.get k).ctx.get c).status == .live && (s.at k c).bundleReady

/-- Members of a list whose yield set holds no member of it (R170). -/
def Res.unyielded (r : Res) (l : List CtxNo) : List CtxNo := l.filter fun c => !((r.ctx.get c).yields.any l.contains)

/-- A context leaves every yield set in the first cycle in which it is not ready (R170). -/
def Res.pruneYields (r : Res) (l : List CtxNo) : Res := { r with ctx := r.ctx.map fun c => { c with yields := c.yields.filter l.contains } }

/-- The first ready context after the one that issued last, round-robin (R13). -/
def roundRobin (last : CtxNo) (l : List CtxNo) : Option CtxNo :=
  match l.find? fun c => decide (last.val < c.val) with
  | some c => some c
  | none => l.head?

/-- Bundles that wait at issue look at what they wait for, each as its own context. -/
def holdAll (k : ResNo) : List CtxNo → State → State
  | [], s => s
  | c :: t, s => holdAll k t (s.at k c).runBundle

/-- LIVE contexts whose bundles are held. -/
def State.heldCtxs (s : State) (k : ResNo) (base : List CtxNo) : List CtxNo :=
  (List.finRange 11).filter fun c => ((s.res.get k).ctx.get c).status == .live && !base.contains c && !(s.at k c).bundleReady

/-- The waiting bundles of residency k are looked at, and the ready context whose turn it is is chosen (R13, R170). -/
def State.poise (s : State) (k : ResNo) : State × Option CtxNo :=
  let base := s.baseReady k
  let s1 := s.modRes k (·.pruneYields ((s.res.get k).unyielded base))
  let ready := ((s1.res.get k).unyielded base).filter fun c => ((s1.res.get k).ctx.get c).yields.isEmpty
  let s2 := s1.modCore fun c => { c with ready := ready }
  let s3 := s2.modRes k fun r => { r with idle := if ready.isEmpty then r.idle + 1 else 0 }
  (holdAll k (s.heldCtxs k base) s3, roundRobin s.core.lastCtx ready)

/-! ### Timed waits and gangs (R24, R25, R158, R164) -/

/-- The words of a bundle whose guard holds and that are a WAIT with a limit. -/
def timedWait (v : State) (fs : List FWord) : Option (Bool × Bool) :=
  fs.findSome? fun f => match f.instr with
    | .waitLimit h a t k lim =>
      if v.c.readP (cGuard h) != h.n then
        let w := waitKind h a t k
        some (!w.stall v && w.cond v, v.lapsed lim)
      else none
    | _ => none

/-- Note what came first at the timed WAIT that holds the present context: its condition, which wins in the cycle of both, or its limit, on the values that its bundle reads (R99, R164). -/
def State.noteLimit (s : State) : State :=
  if s.c.heldAt.isNone || s.c.verdict.isSome then s
  else match s.nextBundle with
    | .error _ => s
    | .ok r => match timedWait (s.modC Ctx.landed) r.1 with
      | some (true, _) => s.modC fun c => { c with verdict := some true }
      | some (false, true) => s.modC fun c => { c with verdict := some false }
      | _ => s

/-- The same for every context of every residency, whether or not it is issuing. -/
def State.noteLimits (s : State) : State :=
  let t := ((List.finRange 4).flatMap fun k => (List.finRange 11).map fun c => (k, c)).foldl (fun s p => (s.at p.1 p.2).noteLimit) s
  t.at s.curRes s.curCtx

/-- A gang tells its members of this core: the bundle it fetches, once, where it leads, and that it stalls, for a wait or for a clear (R24). -/
def State.gangTell (s : State) : State :=
  match s.core.gang, s.core.issuing with
  | some _, some k =>
    let v := s.at k 0
    let s1 := if s.leads && !s.core.gangIn.sent then
        match v.fetchPairs 4 v.c.pc with
        | .error _ => s
        | .ok ws => (s.emit (.gangBundle ws.1)).modCore fun c => { c with gangIn := { c.gangIn with sent := true } }
      else s
    if v.bundleReady && !v.bundleHeld then s1 else s1.emit .gangStall
  | _, _ => s

/-- After a bundle of a gang: the members compare their next bundles, and the gang goes on or disbands (R25, R158). -/
def State.gangStep (s : State) : State :=
  match s.core.gang with
  | none => s
  | some _ =>
    let s1 := s.emit (.gangNext s.c.pc)
    if s.core.gangIn.ending || s.core.gangIn.nexts.any (fun p => p.2 != s.c.pc) then s1.disband false
    else s1.modCore fun c => { c with gangIn := { c.gangIn with fetched := none, nexts := [], sent := false } }

/-- Issue for residency k: the chosen context runs its next bundle, and its gang goes on unless a clear holds it (R25, R36, R408). -/
def State.issueFor (s : State) (k : ResNo) : State :=
  match (s.poise k).2 with
  | none => (s.poise k).1
  | some c =>
    let t := (s.poise k).1.at k c
    if t.bundleHeld then t.runBundle else t.runBundle.gangStep

/-! ### What runs every cycle -/

/-- The residencies, other than the issuing one, that have a ready context (R403). -/
def State.othersReady (s : State) : List ResNo :=
  (List.finRange 4).filter fun k => s.core.issuing != some k && !(s.baseReady k).isEmpty

/-- The units that look for work each cycle: what may enter the store buffer, what may leave, the Porters and the router, the receive buffer and landings, the exchange, the event engine. -/
def State.tend (s : State) : State := s.flush.enterWrites.injectStep.landStep.routerStep.drain.startLandings.applyPartials.exchTick.kick

/-- Slice length by level (R402). -/
def sliceLen (l : BitVec 2) : Nat := 131072 * 2 ^ (3 - l.toNat)

/-- The slice timer runs: not while an exchange phase defers it (R174, R337). -/
def State.countSlice (s : State) (k : ResNo) : State :=
  if s.core.exch.asked.isSome then s else s.modRes k fun r => { r with slice := r.slice + 1 }

/-- What ends the slice of residency k in this cycle (R403, R404). -/
def State.sliceEvent (s : State) (k : ResNo) : Option Instr :=
  let r := s.res.get k
  if r.phase != .live || s.core.switch.isSome then none
  else if 256 ≤ r.idle then some .sliceIdle
  else if r.extended then (if 8 * sliceLen r.level ≤ r.slice then some .roundSliceLimit else none)
  else if sliceLen r.level ≤ r.slice then some .sliceExpiry
  else none

/-- Post an event unless it stands in the agenda already. -/
def State.postOnce (s : State) (i : Instr) : State := if s.env.agenda.contains i then s else s.post i

/-- The slice is looked at, once a cycle. -/
def State.watchSlice (s : State) (k : ResNo) : State :=
  let s1 := s.countSlice k
  match s1.sliceEvent k with
  | some i => s1.postOnce i
  | none => s1

/-- The clock steps: the bank ports are free again, the Postmaster can accept an envelope, and an advance in progress writes its next words. -/
def CoreSt.tick (c : CoreSt) : CoreSt :=
  { c with cycle := c.cycle + 1, engineBanks := [], landingBanks := [], seqBanks := [], engineDone := [], landedNow := false, accepted := false }.engineTick

/-- The cycle ends: the die's dispatch unit has served one SENDX, the power controller decides, the clock steps, and what is due arrives. -/
def State.tick (s : State) : State :=
  let now := s.core.cycle + 1
  let due := s.env.timers.filter fun t => decide (t.1.toNat ≤ now.toNat)
  (s.expertTick.decideLeave.modCore CoreSt.tick).modEnv fun e =>
    { e with agenda := e.agenda ++ due.map (·.2), timers := e.timers.filter fun t => !decide (t.1.toNat ≤ now.toNat) }

/-- The residency that issues in this cycle, if no switch is under way. -/
def State.issuer (s : State) : Option ResNo :=
  if s.core.switch.isSome then none
  else match s.core.issuing with
    | some k => if (s.res.get k).phase == .live then some k else none
    | none => none

/-- A core on which no residency issues, or none was ready, looks for one that is ready (R403). -/
def State.seekRes (s : State) : State :=
  if s.core.switch.isNone && !s.core.readyRes.isEmpty then s.postOnce .residencySwitch else s

/-- No residency of the core is ready (R403). -/
def State.noneReady (s : State) : Bool := s.core.ready.isEmpty && s.core.readyRes.isEmpty

/-- After the issue of residency k: a core that had no ready residency switches in the first cycle in which another one is ready, and the slice is looked at (R403). -/
def State.watchRes (s : State) (k : ResNo) : State :=
  ((if s.core.quiet then s.seekRes else s).watchSlice k).modCore fun c => { c with quiet := s.noneReady }

/-- What other cores and the host have done arrives, the units look for work, the timed waits look at their conditions, a gang's members are told of this core, and the other residencies that are ready are noted (R24, R164, R403). -/
def State.cycleStart (s : State) : State :=
  let s1 := s.hearOutside.tend.noteLimits.gangTell
  s1.modCore fun c => { c with readyRes := s1.othersReady }

/-- One issue cycle (R408); a package that has turned itself off issues nothing (R472). -/
def State.issueCycle (s : State) : State :=
  if s.pkg.off then s
  else match s.cycleStart.issuer with
  | none => s.cycleStart.seekRes.tick
  | some k => ((s.cycleStart.issueFor k).watchRes k).tick

/-! ### What the next step does (log entries 3 and 5) -/

/-- The arrival that the next step applies, if one, and the state without it: the schedule of turns first, then the oldest arrival, then an issue cycle. -/
def State.turn (s : State) : Option Instr × State :=
  match s.env.turns, s.env.agenda with
  | none :: ts, _ => (none, s.modEnv fun e => { e with turns := ts })
  | some n :: ts, l => (l[n]?, s.modEnv fun e => { e with turns := ts, agenda := l.eraseIdx n })
  | [], i :: t => (some i, s.modEnv fun e => { e with agenda := t })
  | [], [] => (none, s)

/-- A package that is off hears of nothing but power-on (R471, R472). -/
def State.deaf (s : State) (i : Instr) : Bool := s.pkg.off && i != .packageReset

/-- The pairs that hold one table word: as a C-word with an empty A-word, or as an A-word behind an empty C-word; the bundle ends with it (log entry 4). -/
def tablePairs (nbits w : Nat) : List (BitVec 64) :=
  let x := BitVec.ofNat 64 w
  let lo := x.extractLsb' 0 32
  let nop : BitVec 64 := 0x40000000#64
  let whole : BitVec 64 :=
    if 32 < nbits then x
    else match (if lo.getLsbD 31 then decode (.l lo 0#32) else decode (.c lo)) with
      | .ok _ => lo.zeroExtend 64
      | .error _ => (lo ++ (0x40000000#32) : BitVec 64)
  [whole, nop]

/-- Store pairs in the instruction store from a pair on. -/
def putPairs : Pair → List (BitVec 64) → List Host.Cell → List Host.Cell
  | _, [], m => m
  | p, w :: t, m => putPairs (p + 1) t (memPut m (0x300000 + 8 * p.toNat) (leBytes 8 w.toNat))

/-- Context 0 with nothing that holds its next bundle. -/
def Ctx.freed (c : Ctx) : Ctx :=
  { c with status := .live, pending := [], awaits := [], blocked := [], busyUntil := 0, yields := [], heldAt := none, verdict := none, heldAside := none }

/-- A residency of which context 0 alone is LIVE, whose code range is the whole store. -/
def Res.fetching (r : Res) : Res :=
  { r with phase := .live, codeFirst := 0, codeLast := BitVec.allOnes 14,
           ctx := (r.ctx.map fun c => { c with status := if c.status = .live then .free else c.status }).set 0 (r.ctx.get 0).freed }

/-- The machine with context 0 of the issuing residency, or of residency 0, about to fetch the given pairs at its program counter. -/
def State.withPairs (s : State) (ps : List (BitVec 64)) : State :=
  let k : ResNo := s.core.issuing.getD 0
  let p := ((s.res.get k).ctx.get 0).pc
  let s1 := s.modRes k Res.fetching
  let s2 := s1.modCore fun c => { c with mem := putPairs p ps c.mem, issuing := some k, switch := none, bad := c.bad.filter fun a => a < 0x300000 }
  { s2 with env := { s2.env with agenda := [], turns := [] }, pkg := { s2.pkg with off := false } }

/-! ### The limit of a WAIT (R164) -/

/-- The present context is held at a WAIT whose limit has lapsed. -/
def State.limitLapsed (s : State) : Bool :=
  s.c.heldAt.isSome && match s.nextBundle with
    | .error _ => false
    | .ok r => match timedWait (s.modC Ctx.landed) r.1 with | some (_, true) => true | _ => false

/-- WAIT_LIMIT_LAPSE (R164): the first context of the issuing residency whose WAIT has reached its limit issues it. -/
def execWaitLimitLapse (s : State) : Result :=
  match s.issuer with
  | none => .next s
  | some k =>
    match (List.finRange 11).find? fun c => ((s.res.get k).ctx.get c).status == .live && (s.at k c).limitLapsed with
    | none => .next s
    | some c => .next (s.at k c).runBundle

end Sys2Proof.Machine
end

