-- ==== Sys2Proof/Machine/Scheduling.lean ====
section
/-!
DEFINITION. Slices and residency switches, and a core that fails (R377, R378, R383 to R385, R402 to R404).
-/

namespace Sys2Proof.Machine

open Sys2Proof

/-! ### Slices (R403, R404) -/

/-- A slice ends: a gang disbands, whether or not the core then switches (R25, R403). -/
def State.endSlice (s : State) (k : ResNo) : State := (s.as k fun t => t.disband true).postOnce .residencySwitch

/-- SLICE_EXPIRY (R403, R404): a round-sliced slice is extended to the round edge; any other ends. -/
def execSliceExpiry (s : State) : Result :=
  match s.core.issuing with
  | none => .next s
  | some k =>
    let r := s.res.get k
    if r.slice < sliceLen r.level ∨ r.extended then .next s
    else if r.channels then .next (s.modRes k fun r => { r with extended := true })
    else .next (s.endSlice k)

/-- SLICE_IDLE (R403): 256 cycles without a ready context end the slice. -/
def execSliceIdle (s : State) : Result :=
  match s.core.issuing with
  | none => .next s
  | some k => .next (if 256 ≤ (s.res.get k).idle then s.endSlice k else s)

/-- ROUND_SLICE_LIMIT (R404): seven further slice lengths end the extension. -/
def execRoundSliceLimit (s : State) : Result :=
  match s.core.issuing with
  | none => .next s
  | some k =>
    let r := s.res.get k
    .next (if r.extended ∧ 8 * sliceLen r.level ≤ r.slice then s.endSlice k else s)

/-! ### The switch (R383, R384) -/

/-- A switch away from residency k is deferred (R383). -/
def State.deferred (s : State) (k : ResNo) : Bool :=
  (s.res.get k).phase.alive &&
  ((s.core.packet.any fun p => p.res == k) || s.core.exch.mode || s.core.exch.asked == some k ||
   decide (s.core.cycle.toNat < s.core.engineUntil.toNat) ||
   s.core.tasks.any fun t => t.dispatched && (engineOf t.instr == 2 || engineOf t.instr == 5))

/-- The residency that is switched to: the first ready one in residency-number order after the present one (R403). -/
def State.nextRes (s : State) : Option ResNo :=
  match s.core.issuing with
  | none => s.core.readyRes.head?
  | some k => match s.core.readyRes.find? fun j => decide (k.val < j.val) with
    | some j => some j
    | none => s.core.readyRes.head?

/-- The SFU requests of a context at a switch: the head is kept for replay, requests of SFS behind it too, and those of SFT tasks are made anew (R238, R384). -/
def Ctx.keepSfu (c : Ctx) (l : List SfuReq) : Ctx :=
  match c.replay, l with
  | none, q :: t => { c with replay := some q.record, sfuKept := c.sfuKept ++ t.filter (·.scalar) }
  | _, l => { c with sfuKept := c.sfuKept ++ l.filter (·.scalar) }

/-- Cancel every SFU request of residency k (R384). -/
def State.cancelAll (s : State) (k : ResNo) : State :=
  let fs := s.cl.fifos
  let s1 := s.modRes k fun r => { r with ctx := r.ctx.mapFinIdx fun i c h => c.keepSfu (fs.get ⟨i, h⟩) }
  s1.clearFifos

/-- Phases 1 and 2: the outgoing residency stops and its save area is written; one that has ended has nothing to save (R384). -/
def State.leaveRes (s : State) (k : ResNo) : State :=
  let s1 := (s.as k fun t => t.disband true)
  if (s.res.get k).phase == .live || (s.res.get k).phase == .frozen then ((s1.stopAll fun _ => true).cancelAll k).saveRes k else s1

/-- Cycles of a switch (R384). -/
def State.switchCycles (s : State) (j : ResNo) : Nat :=
  let out : Bool := match s.core.issuing with
    | some k => (s.res.get k).phase == Phase.live || (s.res.get k).phase == Phase.frozen
    | none => false
  256 * (out.toNat + (s.res.get j).issued.toNat)

/-- Begin the switch to residency j. -/
def State.beginSwitch (s : State) (j : ResNo) : State :=
  let n := s.switchCycles j
  let s1 := match s.core.issuing with
    | some k => (s.leaveRes k).modRes k fun r => { r with slice := 0, extended := false, idle := 0 }
    | none => s
  (s1.modCore fun c => { c with issuing := none, switch := some ⟨s.core.issuing, j, c.cycle + BitVec.ofNat 64 n⟩ }).after n .residencySwitchDone

/-- The slice starts anew where no other residency is ready (R403); an ended residency no longer issues. -/
def State.noSwitch (s : State) : State :=
  match s.core.issuing with
  | none => s
  | some k => if (s.res.get k).phase == .live then s.modRes k fun r => { r with slice := 0, extended := false, idle := 0 }
    else s.modCore fun c => { c with issuing := if (s.res.get k).phase == .frozen then some k else none }

/-- RESIDENCY_SWITCH (R383, R384, R403). -/
def execResidencySwitch (s : State) : Result :=
  if s.core.switch.isSome then .next s
  else if s.core.issuing.any s.deferred then .next (s.after 1 .residencySwitch)
  else match s.nextRes with
    | none => .next s.noSwitch
    | some j => .next (s.beginSwitch j)

/-- The first reloaded task whose group another residency owns raises its first-use cause (R221). -/
def State.reloadTouch (s : State) (k : ResNo) : State :=
  match (s.core.tasks.filter fun t => t.res == k).findSome? fun t => (s.dispatchTouch t).map fun q => (t, q) with
  | none => s
  | some (t, q) => (s.pendN k t.ctx q.cause q.info0 q.info1).modRes k fun r => { r with tasksHeld := true }

/-- RESIDENCY_SWITCH_DONE (R384): the incoming residency is reloaded, or takes its start values, and issues. -/
def execResidencySwitchDone (s : State) : Result :=
  match s.core.switch with
  | none => .next s
  | some w =>
    if s.core.cycle.toNat < w.due.toNat then .next s
    else
      let j := w.incoming
      let s1 := s.modCore fun c => { c with switch := none }
      if (s.res.get j).phase != .live then .next (s1.postOnce .residencySwitch)
      else
        let s2 := if (s.res.get j).issued then s1.loadRes j else s1
        let s3 := (s2.modCore fun c => { c with issuing := some j }).modRes j fun r => { r with issued := true, slice := 0, extended := false, idle := 0 }
        .next ((s3.reloadTouch j).wake).kick

/-! ### A core that fails (R377, R378) -/

/-- The record of context 0 under CORE_MACHINE_CHECK (R377, R378). -/
def Res.checked (r : Res) (unit : BitVec 4) : Res :=
  r.modCtx 0 fun c => { c with trap := ⟨Cause.machineCheck, c.pc, c.last, unit.zeroExtend 64, 0⟩ }

/-- Stop residency k with status FAULTED, if it is there. -/
def State.failRes (s : State) (unit : BitVec 4) (k : ResNo) : State :=
  if (s.res.get k).phase.alive then (s.modRes k (·.checked unit)).endRes k .faulted (some Cause.machineCheck) else s

/-- CORE_MACHINE_CHECK (R377, R378): every residency of the core stops. -/
def execCoreMachineCheck (s : State) : Result :=
  if s.core.faultUnit = 0 then .next s
  else .next ((List.finRange 4).foldl (fun s k => s.failRes s.core.faultUnit k) s)

end Sys2Proof.Machine
end

