-- ==== Sys2Proof/Machine/Host.lean ====
section
/-!
DEFINITION. The host register space: queues, completion counters, the fetch and the checks of work-order records, and the completion of work orders (R394 to R396, R463 to R470, R473).
-/

namespace Sys2Proof.Machine

open Sys2Proof

/-! ### The inbox and the tables -/

/-- The first arrival of a kind, and the others. -/
def takeArrival {α : Type} (f : Arrival → Option α) : List Arrival → Option (α × List Arrival)
  | [] => none
  | a :: t => match f a with
    | some x => some (x, t)
    | none => (takeArrival f t).map fun r => (r.1, a :: r.2)

/-- Take the first arrival of a kind out of the inbox. -/
def State.take {α : Type} (s : State) (f : Arrival → Option α) : Option (α × State) :=
  (takeArrival f s.pkg.inbox).map fun r => (r.1, s.modPkg fun p => { p with inbox := r.2 })

/-- An arrival for a unit of the I/O die. -/
def State.arrive (s : State) (a : Arrival) : State := s.modPkg fun p => { p with inbox := p.inbox ++ [a] }

/-- A work order by number. -/
def State.order (s : State) (id : Nat) : Option WorkOrder := s.pkg.orders.find? fun w => w.id == id

/-! ### Host writes (R455, R463) -/

/-- Sorts of host writes, by the event that takes them. -/
inductive WriteKind where
  | tail (q : Nat)
  | stat (q : Nat)
  | counter (c : Nat)
  | other
  deriving DecidableEq, Repr

/-- The sort of a host write; configuration registers, read-only registers and unlisted offsets go together. -/
def HostWrite.kind (w : HostWrite) : WriteKind :=
  match w.queueReg, w.counterNo with
  | some (q, 0x18), _ => .tail q
  | some (q, 0x28), _ => .stat q
  | _, some c => .counter c
  | _, _ => .other

/-- The first host write of a sort. -/
def hostWriteOf {α : Type} (f : HostWrite → Option α) : Arrival → Option (HostWrite × α)
  | .hostWrite w => (f w).map fun x => (w, x)
  | _ => none

/-- A host write to counter c (R455, R468, R473). -/
def State.writeCounter (s : State) (c : Nat) (w : HostWrite) : State :=
  let t := BitVec.ofNat 6 (c / 64)
  if s.pkg.recovery then s else if !s.streamOk t w then s.discard t else s.setCounter c w.value

/-- The host writes that name counter c, by the number of arrivals to look at. -/
def applyCounter (c : Nat) : Nat → State → State
  | 0, s => s
  | n + 1, s => match s.take (hostWriteOf fun w => if w.kind = .counter c then some () else none) with
    | none => s
    | some ((w, _), s1) =>
      applyCounter c n (s1.writeCounter c w)

/-! ### Completion (R466, R469) -/

/-- STATUS of a completion record. -/
def statusOk : Nat := 0
def statusFaulted : Nat := 1
def statusTimedOut : Nat := 2
def statusRejected : Nat := 3
def statusCancelled : Nat := 4

/-- Drop the completed records at the front; HEAD stands after them (R469). -/
def dropDone (n : Nat) : List Rec → BitVec 12 → List Rec × BitVec 12
  | [], h => ([], h)
  | r :: t, h => if r.stage = .done then dropDone n t (BitVec.ofNat 12 ((r.index + 1) % n)) else (r :: t, h)

/-- A record's completion has been written: HEAD advances over the completed front (R469). -/
def Queue.finish (q : Queue) (index : Nat) : Queue :=
  let rs := q.recs.map fun r => if r.index = index then { r with stage := .done } else r
  let d := dropDone (2 ^ q.log2n.toNat) rs q.head
  { q with recs := d.1, head := d.2 }

/-- The completion record of a record: STATUS, cause, PHASE, tag, core-cycles, time (R469). -/
def completionWords (status : Nat) (cause : Option (BitVec 7)) (phase : Bool) (tag : Word) (cycles us : Nat) : List Word :=
  [BitVec.ofNat 64 (status + ((cause.map (·.toNat)).getD 0) <<< 8 + cause.isSome.toNat <<< 15 + phase.toNat <<< 16), tag,
   BitVec.ofNat 64 cycles, BitVec.ofNat 64 (min us (2 ^ 32 - 1))]

/-- Complete record index of queue q: the completion record, then the counter, a host write that meets the addition applied first, then the interrupt (R468, R469). -/
def State.completeRec (s : State) (q index : Nat) (words : List Word) (counter : Option (BitVec 12)) : State :=
  let b := s.queue q
  let s1 := s.emit (.completion (32 * b.cring.toNat + 32 * index) words (s.streamOf b.tenant))
  let s2 := match counter with
    | some c => let s2 := applyCounter c.toNat s1.pkg.inbox.length s1
      s2.setCounter c.toNat (s2.counterAt c.toNat + 1)
    | none => s1
  let s3 := if b.ien then s2.emit (.interrupt (32 * b.tenant.toNat + b.vec.toNat) (s.streamOf b.tenant)) else s2
  (s3.modQueue q (·.finish index))

/-- Cycles since the launch of a work order. -/
def State.sinceLaunch (s : State) (w : WorkOrder) : Nat :=
  match w.launched with
  | some t => (s.core.cycle - t).toNat
  | none => 0

/-- Cycles a resident crew has been resident, times its cores. -/
def State.coreCycles (s : State) (c : Crew) : Nat :=
  match c.stage with
  | .running => c.slots.length * (s.core.cycle - c.since).toNat
  | .preempting _ => c.slots.length * (s.core.cycle - c.since).toNat
  | _ => 0

/-- Complete a work order with a status, and forget it (R401, R469). -/
def State.completeOrder (s : State) (w : WorkOrder) (status : Nat) (cause : Option (BitVec 7)) : State :=
  let n := w.cycles + (w.crews.map s.coreCycles).sum
  let s1 := s.completeRec w.queue w.index (completionWords status cause w.phase w.tag n (s.sinceLaunch w / 2250)) w.counter
  let s2 := { s1 with die := { s1.die with experts := s1.die.experts.filter fun e => e.1 != w.id, unacked := s1.die.unacked.filter fun e => e.1 != w.id } }
  s2.modPkg fun p => { p with orders := p.orders.filter fun x => x.id != w.id, ends := p.ends.filter fun e => e.order != w.id }

/-- End every residency of a work order on this core (R470, R490). -/
def State.endOrderHere (s : State) (id : Nat) (ph : Phase) : State :=
  (List.finRange 4).foldl (fun s k =>
    if (s.res.get k).phase != .absent && (s.res.get k).order == id && ((s.res.get k).phase.alive || (s.res.get k).phase == .placed)
    then s.endRes k ph none else s) s

/-- The buffered writes that served loads of a work order's residencies on this core (R297). -/
def State.servedOf (s : State) (id : Nat) : List Nat :=
  (List.finRange 4).flatMap fun k => if (s.res.get k).phase.alive && (s.res.get k).order == id then (s.res.get k).ctx.toList.flatMap (·.served) else []

/-- The release of a work order's completion: its server writes are acknowledged, and so is every write that served one of its loads (R297, R301). -/
def State.orderReleased (s : State) (w : WorkOrder) : Bool :=
  !(s.core.reqs.any fun q => q.order == w.id && q.writes) && !(s.cl.buffer.any fun b => w.served.contains b.key)

/-- A work order has ended with a status: its residencies and bells are free, and it is complete once its release allows (R301, R401). -/
def State.closeOrder (s : State) (w : WorkOrder) (status : Nat) (cause : Option (BitVec 7)) : State :=
  let v : WorkOrder := { w with
    cycles := w.cycles + (w.crews.map s.coreCycles).sum
    crews := w.crews.map fun c => { c with stage := .done, slots := [], bells := [], crossBells := [] }
    closing := some (status, cause) }
  let s1 := (s.modOrder w.id fun _ => v).modPkg fun p => { p with ends := p.ends.filter fun e => e.order != w.id }
  if s1.orderReleased v then s1.completeOrder v status cause else s1

/-- End a running work order with a status (R401, R451, R456, R470). -/
def State.endOrder (s : State) (w : WorkOrder) (ph : Phase) (status : Nat) (cause : Option (BitVec 7)) : State :=
  (s.endOrderHere w.id ph).closeOrder { w with served := w.served ++ s.servedOf w.id } status cause

/-! ### Crews that end (R396, R401) -/

/-- The service value of a queue rises when a crew completes or is pre-empted (R396). -/
def State.riseValue (s : State) (q n : Nat) : State :=
  s.modQueue q fun b => { b with value := b.value + n / (b.weight.toNat + 1) }

/-- A crew that has halted wholly is complete: its residencies and bells are free (R401). -/
def Crew.finished (c : Crew) : Bool :=
  (match c.stage with | .running => true | .preempting _ => true | _ => false) && c.slots.all fun p => c.halted.contains p.logical

/-- A crew whose members have all halted gives up its residencies and bells. -/
def Crew.settle (c : Crew) : Crew := if c.finished then { c with stage := .done, slots := [], bells := [], crossBells := [] } else c

/-- Complete the crews of a work order whose members have all halted. -/
def State.finishCrews (s : State) (w : WorkOrder) : State :=
  let n := ((w.crews.filter Crew.finished).map s.coreCycles)
  let s1 := n.foldl (fun s x => s.riseValue w.queue x) s
  s1.modOrder w.id fun x => { x with cycles := x.cycles + n.sum, crews := x.crews.map Crew.settle }

/-- Enter the report of a halted residency in its crew. -/
def WorkOrder.note (w : WorkOrder) (e : End) : WorkOrder :=
  { w with served := w.served ++ e.served
           crews := w.crews.mapIdx fun i c => if i = e.crew.toNat ∧ !e.faulted then { c with halted := setAdd c.halted e.core } else c }

/-- Enter the reports of halted residencies; those of faulted ones stay for the completion of their work orders. -/
def State.settleEnds (s : State) : State :=
  let s1 := (s.pkg.ends.filter fun e => !e.faulted).foldl (fun s e => s.modOrder e.order (·.note e)) s
  let s2 := s1.modPkg fun p => { p with ends := p.ends.filter (·.faulted) }
  s2.pkg.orders.foldl (fun s w => s.finishCrews w) s2

/-- Every crew of a work order has completed. -/
def WorkOrder.complete (w : WorkOrder) : Bool := w.launched.isSome && w.closing.isNone && w.crews.all fun c => c.stage == .done

/-- A work order that has ended and whose release now allows its completion (R301). -/
def State.releasable (s : State) (w : WorkOrder) : Bool := w.closing.isSome && s.orderReleased w

/-- A work order that has not ended, by number. -/
def State.openOrder (s : State) (id : Nat) : Option WorkOrder := s.pkg.orders.find? fun w => w.id == id && w.closing.isNone

/-- A work order has a valid extent entry of window w in some residency (R451). -/
def State.opensWindow (s : State) (w : WorkOrder) (win : Nat) : Bool :=
  w.windows.contains win || (List.finRange 4).any fun k =>
    (s.res.get k).phase != .absent && (s.res.get k).order == w.id && (s.res.get k).extents.any fun e => e.a.getLsbD 3 && field e.a 4 2 == win

/-- The work orders that the quarantine of a die ends (R451). -/
def State.hitBy (s : State) (d : Nat) (w : WorkOrder) : Bool :=
  (w.crews.any fun c => !c.slots.isEmpty) &&
  (if d < 8 then (w.crews.any fun c => c.slots.any fun p => p.core / 144 == d) || s.opensWindow w 1
   else if d < 16 then s.opensWindow w 1
   else s.opensWindow w 2)

/-- A work order that cannot run, since a die that it needs is quarantined (R451). -/
def State.doomed (s : State) (w : WorkOrder) : Bool :=
  w.closing.isNone && (List.range 18).any fun d => (s.pkg.dies[d]?).any (fun x => x.state == .quarantined) && s.hitBy d w

/-- WORK_ORDER_COMPLETE (R301, R401, R451, R468, R469): the first work order that waits for its release no longer, or with a faulted residency, or whose crews have all completed, or that R451 ends. -/
def execWorkOrderComplete (s : State) : Result :=
  let s1 := s.settleEnds
  match s1.pkg.orders.find? s1.releasable with
  | some w => .next (s1.completeOrder w (w.closing.getD (statusOk, none)).1 (w.closing.getD (statusOk, none)).2)
  | none => match s1.pkg.ends.findSome? fun e => (s1.openOrder e.order).map fun w => (w, e) with
    | some (w, e) => .next (s1.endOrder { w with served := w.served ++ e.served } .faulted statusFaulted e.cause)
    | none => match s1.pkg.orders.find? WorkOrder.complete with
      | some w => .next (s1.closeOrder w statusOk none)
      | none => match s1.pkg.orders.find? s1.doomed with
        | some w => .next (s1.endOrder w .faulted statusFaulted none)
        | none => .next s1

/-- A work order's time limit has lapsed (R470). -/
def State.overdue (s : State) (w : WorkOrder) : Bool := w.launched.isSome && w.closing.isNone && decide (2250000 * w.limit ≤ s.sinceLaunch w)

/-- WORK_ORDER_TIMEOUT (R14, R470): where the last crew completes in the same cycle the status is OK. -/
def execWorkOrderTimeout (s : State) : Result :=
  let s1 := s.settleEnds
  match s1.pkg.orders.find? s1.overdue with
  | none => .next s1
  | some w => if w.complete then .next (s1.closeOrder w statusOk none) else .next (s1.endOrder w .timedOut statusTimedOut none)

/-! ### Writes to queues and counters (R465, R466, R468) -/

/-- Cover the records from one tail to the next (R466). -/
def cover (n : Nat) : Nat → Nat → Queue → Queue
  | 0, _, q => q
  | k + 1, i, q =>
    cover n k ((i + 1) % n) { q with recs := q.recs ++ [⟨i, q.pass, .toFetch⟩], pass := if (i + 1) % n = 0 then !q.pass else q.pass }

/-- The least service value among the other non-empty queues of a level (R396). -/
def State.leastValue (s : State) (q : Nat) (level : BitVec 2) : Nat :=
  (((s.pkg.queues.filter fun x => x.1 != q && x.2.level == level && !x.2.recs.isEmpty).map fun x => x.2.value).min?).getD 0

/-- Apply a tail write to queue q (R465, R466). -/
def State.tailWrite (s : State) (q : Nat) (v : Word) : State :=
  let b := s.queue q
  let n := 2 ^ b.log2n.toNat
  let t := v.toNat % n
  let had := (b.tail.toNat % n + n - b.head.toNat % n) % n
  let has := (t + n - b.head.toNat % n) % n
  if !b.en || (s.tenant b.tenant).state == .unlocked || decide (has < had) then s.modQueue q fun b => { b with ovf := true }
  else
    let v0 := if b.recs.isEmpty && decide (had < has) then max b.value (s.leastValue q b.level) else b.value
    s.modQueue q fun b => { cover n (has - had) (b.tail.toNat % n) b with tail := BitVec.ofNat 12 t, value := v0 }

/-- QTAIL_WRITE (R465, R466). -/
def execQtailWrite (s : State) : Result :=
  match s.take (hostWriteOf fun w => match w.kind with | .tail q => some q | _ => none) with
  | none => .next s
  | some ((w, q), s1) =>
    if s1.pkg.recovery then .next s1
    else if !s1.streamOk (s1.queue q).tenant w then .next (s1.discard (s1.queue q).tenant)
    else .next (s1.tailWrite q w.value)

/-- QSTAT_WRITE (R8, R465): 1s clear CFGERR and OVF. -/
def execQstatWrite (s : State) : Result :=
  match s.take (hostWriteOf fun w => match w.kind with | .stat q => some q | _ => none) with
  | none => .next s
  | some ((w, q), s1) =>
    if s1.pkg.recovery then .next s1
    else if !s1.streamOk (s1.queue q).tenant w then .next (s1.discard (s1.queue q).tenant)
    else .next (s1.modQueue q fun b => { b with cfgerr := b.cfgerr && !w.value.getLsbD 2, ovf := b.ovf && !w.value.getLsbD 1 })

/-- COUNTER_WRITE (R468): the waits that name it are looked at anew at the next launch. -/
def execCounterWrite (s : State) : Result :=
  match s.take (hostWriteOf fun w => match w.kind with | .counter c => some c | _ => none) with
  | none => .next s
  | some ((w, c), s1) => .next (s1.writeCounter c w)

/-- Cancel the fetched records of a queue that have not launched (R466). -/
def State.cancelRecs (s : State) (q : Nat) : State :=
  (s.pkg.orders.filter fun w => w.queue == q && w.launched.isNone && w.crews.all (·.stage == .waiting)).foldl
    (fun s w => s.completeOrder w statusCancelled none) s

/-- The effect of a QCTL write on queue q (R465, R466). -/
def State.qctlWrite (s : State) (q : Nat) (v : Word) : State :=
  let b := s.queue q
  let ten := BitVec.ofNat 6 (field v 26 6)
  let lg := BitVec.ofNat 4 (field v 20 4)
  let free (t : BitVec 6) : Bool := (s.tenant t).state == .unlocked
  if !s.pkg.ready then s
  else if lg.toNat < 4 ∨ 12 < lg.toNat ∨ (b.en ∧ (ten ≠ b.tenant ∨ lg ≠ b.log2n)) ∨ (ten ≠ b.tenant ∧ !(free b.tenant && free ten)) then
    s.modQueue q fun b => { b with cfgerr := true }
  else
    let s1 := s.modQueue q fun b => { b with vec := BitVec.ofNat 5 (field v 40 5), tenant := ten, log2n := lg, weight := BitVec.ofNat 6 (field v 14 6),
                                              level := BitVec.ofNat 2 (field v 12 2), ien := v.getLsbD 1, en := v.getLsbD 0 }
    if b.en && !v.getLsbD 0 then s1.cancelRecs q else s1

/-- A write to QRING or QCRING, which may change only while EN is 0 (R465). -/
def State.ringWrite (s : State) (q : Nat) (cring : Bool) (v : Word) : State :=
  let b := s.queue q
  let changed := if cring then v.extractLsb' 5 59 != b.cring else v.extractLsb' 8 56 != b.ring
  if b.en && changed then s.modQueue q fun b => { b with cfgerr := true }
  else if cring then s.modQueue q fun b => { b with cring := v.extractLsb' 5 59 }
  else s.modQueue q fun b => { b with ring := v.extractLsb' 8 56 }

/-- QCTL_WRITE (R463, R465, R466): a write to QCTL, QRING or QCRING; one to a read-only register or to an offset not listed has no effect. -/
def execQctlWrite (s : State) : Result :=
  match s.take (hostWriteOf fun w => if w.kind = .other then some () else none) with
  | none => .next s
  | some ((w, _), s1) =>
    match w.queueReg with
    | none => .next s1
    | some (q, o) =>
      if s1.pkg.recovery then .next s1
      else if !s1.streamOk (s1.queue q).tenant w then .next (s1.discard (s1.queue q).tenant)
      else if o = 0 then .next (s1.qctlWrite q w.value)
      else if o = 8 then .next (s1.ringWrite q false w.value)
      else if o = 0x10 then .next (s1.ringWrite q true w.value)
      else .next s1

/-! ### Records (R466, R467) -/

/-- Word at an offset of a record. -/
def recWord (bs : List Byte) (o : Nat) : Word := BitVec.ofNat 64 (imageNat bs o 8)

/-- The bits of the word at each offset that a record may set (R467). -/
def recMask (o : Nat) : Nat :=
  if o = 0 then 0xFFFFFFFF00000FFF
  else if o = 0x28 then 0x1FFF
  else if o = 0x38 then 0
  else if o < 0x40 then 2 ^ 64 - 1
  else if o < 0x80 then (if o % 16 = 0 then 0x1FFF else 2 ^ 64 - 1)
  else if o < 0xA0 then 2 ^ 64 - 1
  else 0

/-- The waits of a record that are valid. -/
def recWaits (bs : List Byte) : List (BitVec 12 × Word) :=
  (List.range 4).filterMap fun w =>
    let x := recWord bs (0x40 + 16 * w)
    if x.getLsbD 12 then some (x.extractLsb' 0 12, recWord bs (0x48 + 16 * w)) else none

/-- The wait masks of a record. -/
def recMasks (bs : List Byte) : List (BitVec 16) := (List.range 16).map fun k => BitVec.ofNat 16 (imageNat bs (0x80 + 2 * k) 2)

/-- A record meets every condition of R467. -/
def recordOk (bs : List Byte) (image : Image) (tenant : BitVec 6) : Bool :=
  let w0 := recWord bs 0
  let c := recWord bs 0x28
  decide (bs.length = 256) && field w0 0 8 == 1 && field w0 8 4 + 1 == image.crews.length && field w0 32 32 != 0 && image.ok &&
  (!image.sendx || recWord bs 0x20 != 0) && (!c.getLsbD 12 || field c 6 6 == tenant.toNat) &&
  ((recMasks bs).zipIdx.all fun m => decide (m.1.toNat < 2 ^ m.2)) &&
  ((List.range 32).all fun i => decide ((recWord bs (8 * i)).toNat &&& recMask (8 * i) = (recWord bs (8 * i)).toNat))

/-- The enabled counter of a record, where it is the tenant's own. -/
def recCounter (bs : List Byte) (tenant : BitVec 6) : Option (BitVec 12) :=
  let c := recWord bs 0x28
  if c.getLsbD 12 && field c 6 6 == tenant.toNat then some (c.extractLsb' 0 12) else none

/-- A crew before its launch. -/
def Crew.fresh : Crew := ⟨.waiting, ⟨false, false, false, false, 0, 0⟩, [], [], [], [], [], [], 0, 0, [], false⟩

/-- The work order of a record. -/
def orderOf (id q index : Nat) (phase : Bool) (tenant : BitVec 6) (bs : List Byte) (l : Load) : WorkOrder where
  id := id
  queue := q
  index := index
  phase := phase
  tenant := tenant
  limit := field (recWord bs 0) 32 32
  counter := recCounter bs tenant
  tag := recWord bs 0x30
  waits := recWaits bs
  masks := recMasks bs
  evictPtr := recWord bs 0x10
  evictSize := recWord bs 0x18
  image := l.image
  experts := l.experts
  groups := l.groups
  launched := none
  crews := l.image.crews.map fun _ => Crew.fresh
  cycles := 0
  windows := []
  served := []
  tables := []
  unplaced := none
  reserving := false
  closing := none

/-- The fetched record of an inbox. -/
def fetchedOf : Arrival → Option (Nat × Nat × Option (List Byte) × Load)
  | .record q i bs l => some (q, i, bs, l)
  | _ => none

/-- RECORD_FETCH (R466, R467): the oldest record to fetch of its queue; one that fails on PCIe or breaks a condition is REJECTED, and one of a queue that has been disabled is CANCELLED. -/
def execRecordFetch (s : State) : Result :=
  match s.take fetchedOf with
  | none => .next s
  | some ((q, i, bs, l), s1) =>
    let b := s1.queue q
    match b.recs.find? fun r => r.stage == .toFetch with
    | none => .next s1
    | some r =>
      if r.index ≠ i then .next s1
      else
        match bs with
        | none => .next (s1.completeRec q i (completionWords statusRejected none r.phase 0 0 0) none)
        | some bytes =>
          if !recordOk bytes l.image b.tenant then
            .next (s1.completeRec q i (completionWords statusRejected none r.phase (recWord bytes 0x30) 0 0) (recCounter bytes b.tenant))
          else
            let w := orderOf s1.pkg.nextOrder q i r.phase b.tenant bytes l
            if !b.en then .next (s1.completeRec q i (completionWords statusCancelled none r.phase w.tag 0 0) w.counter)
            else
              let s2 := s1.modPkg fun p => { p with orders := p.orders ++ [w], nextOrder := p.nextOrder + 1 }
              .next (s2.modQueue q fun b => { b with recs := b.recs.map fun x => if x = r then { x with stage := .fetched w.id } else x })

end Sys2Proof.Machine
end

