-- ==== Sys2Proof/Machine/Dispatcher.lean ====
section
/-!
DEFINITION. The dispatcher: bindings, placement, the launch and start of crews, reserving heads, and pre-emption (R50, R51, R111, R272, R306, R335, R343, R394 to R400, R405 to R407).
-/

namespace Sys2Proof.Machine

open Sys2Proof

/-! ### Bindings (R50, R51) -/

/-- Difference of two numbers. -/
def absDiff (a b : Nat) : Nat := (a - b) + (b - a)

/-- The distance between two cores, which R51 does not define: router hops and link crossings along the path of R419 and R420 (DESIGN CHOICE, log entry 33). -/
def coreDist (a b : Nat) : Nat :=
  let da := a / 144
  let db := b / 144
  let ra := a % 144 / 12
  let rb := b % 144 / 12
  if da / 4 = db / 4 then absDiff (12 * (da % 4) + a % 12) (12 * (db % 4) + b % 12) + absDiff ra rb
  else (if da < 4 then 11 - ra else ra) + (if db < 4 then 11 - rb else rb) + 2

/-- The four choices of a permutation or mirror, in the order of R399. -/
def fourWays : List (Bool × Bool) := [(false, false), (true, false), (false, true), (true, true)]

/-- Offsets from −10 to 10 by even steps, or by fours for columns under width-8 coupling (R51). -/
def offsets (wide : Bool) : List Int :=
  if wide then (List.range 5).map fun i => 4 * (i : Int) - 8 else (List.range 11).map fun i => 2 * (i : Int) - 10

/-- The bindings in the order in which the dispatcher tries them (R399). -/
def bindings (wide : Bool) : List Binding :=
  fourWays.flatMap fun p =>
    -- column reversal comes before row exchange, and mirrored rows before mirrored columns
    fourWays.flatMap fun m => (offsets false).flatMap fun r => (offsets wide).map fun c => ⟨p.2, p.1, m.1, m.2, r, c⟩

/-- A binding keeps the distances of a transfer schedule (R51). -/
def Binding.keeps (b : Binding) (l : List Timing) : Bool :=
  l.all fun t => match b.map t.sender, b.map t.receiver with
    | some x, some y => coreDist x y == coreDist t.sender t.receiver
    | _, _ => false

/-! ### Placement (R335, R343, R399) -/

/-- Every residency reserved in the package. -/
def State.places (s : State) : List Place := s.pkg.orders.flatMap fun w => w.crews.flatMap (·.slots)

/-- A residency slot that nothing holds; on the core under view its residency must have ended. -/
def State.slotFree (s : State) (core : Nat) (k : ResNo) : Bool :=
  !(s.places.any fun p => p.core == core && p.res == k) &&
  !(core == s.pkg.self && ((s.res.get k).phase.alive || (s.res.get k).phase == .placed))

/-- The lowest free region of a core for a partition of n units (R399). -/
def freeBase (here : List Place) (n : Nat) : Option Nat :=
  (List.range 512).find? fun b => decide (b + n ≤ 512) && here.all fun p => decide (b + n ≤ p.base) || decide (p.base + p.pages ≤ b)

/-- The die of a physical core works. -/
def State.dieUsable (s : State) (core : Nat) : Bool := match s.pkg.dies[core / 144]? with | some d => d.state != .quarantined | none => false

/-- The place of one member under a binding (R399). -/
def State.placeOf (s : State) (b : Binding) (pages : Nat) (x : Nat) : Option Place :=
  match b.map x with
  | none => none
  | some core =>
    if !s.dieUsable core then none
    else match (List.finRange 4).find? (s.slotFree core), freeBase (s.places.filter fun p => p.core == core) pages with
      | some k, some base => some ⟨core, x, k, base, pages⟩
      | _, _ => none

/-- Every element of a list mapped, or none. -/
def mapAll {α β : Type} (f : α → Option β) : List α → Option (List β)
  | [] => some []
  | x :: t => match f x, mapAll f t with
    | some y, some r => some (y :: r)
    | _, _ => none

/-- Pair crew bells with free bells, the lowest first. -/
def assignBells {n : Nat} : List (BitVec n) → List (BitVec 4) → Option (List (BitVec 4 × BitVec n))
  | _, [] => some []
  | [], _ :: _ => none
  | f :: fs, b :: bs => (assignBells fs bs).map fun r => (b, f) :: r

/-- Die bells of a die that no crew has. -/
def State.freeBells (s : State) (d : Nat) : List (BitVec 4) :=
  let used := s.pkg.orders.flatMap fun w => w.crews.flatMap fun c => (c.bells.filter fun x => x.1 == d).map fun x => x.2.2
  ((List.range 16).map (BitVec.ofNat 4)).filter fun k => !used.contains k

/-- Cross-die bells that no crew has. -/
def State.freeCross (s : State) : List (BitVec 5) :=
  let used := s.pkg.orders.flatMap fun w => w.crews.flatMap fun c => c.crossBells.map fun x => x.2
  ((List.range 32).map (BitVec.ofNat 5)).filter fun k => !used.contains k

/-- The core dies of a list of places. -/
def diesOf (l : List Place) : List Nat := (l.map fun p => p.core / 144).eraseDups

/-- A die has an expert dispatch table for the work order: it holds one already, or fewer than 8 work orders do (R343). -/
def State.tableFree (s : State) (w : WorkOrder) (d : Nat) : Bool :=
  w.tables.contains d || decide ((s.pkg.orders.filter fun x => x.tables.contains d).length < 8)

/-- The image's crews use width-8 coupling (R51). -/
def Image.wide (im : Image) : Bool := im.crews.any (·.wide)

/-- A pre-empted member that owns a tile or accumulator group returns to the core under view only where no residency owns that group (DESIGN CHOICE, log entry 57). -/
def State.canRestore (s : State) (c : Crew) (l : List Place) : Bool :=
  c.stage != .evicted || l.all fun p => p.core != s.pkg.self || match c.evicted.find? fun e => e.1 == p.logical with
    | some e => !(e.2.res.accOwn && s.accOwner.isSome) && !(e.2.res.tileOwn && s.tileOwner.isSome)
    | none => true

/-- The crew as a binding places it, where it meets every need (R399). -/
def State.tryBinding (s : State) (w : WorkOrder) (ic : ImageCrew) (c : Crew) (b : Binding) : Option Crew :=
  if !b.keeps ic.timetable then none
  else match mapAll (s.placeOf b ic.pages) ic.members with
    | none => none
    | some l =>
      let perDie := mapAll (fun d => (assignBells (s.freeBells d) ic.bells).map fun r => r.map fun x => (d, x.1, x.2)) (diesOf l)
      match perDie, assignBells s.freeCross ic.crossBells with
      | some bs, some xs =>
        if (w.image.sendx && !(diesOf l).all (s.tableFree w)) || !s.canRestore c l then none
        else some { c with stage := .reserved, binding := b, slots := l, bells := bs.flatten, crossBells := xs, acked := [], drained := [], again := c.stage == .evicted }
      | _, _ => none

/-- The first binding that meets every need (R399). -/
def State.placement (s : State) (w : WorkOrder) (ic : ImageCrew) (c : Crew) : Option Crew :=
  (bindings w.image.wide).findSome? (s.tryBinding w ic c)

/-! ### Heads (R394 to R398) -/

/-- A crew still to launch: its first start message has not left (R400). -/
def CrewStage.toLaunch : CrewStage → Bool
  | .waiting => true
  | .reserved => true
  | .evicted => true
  | _ => false

/-- The work order that stands first in the launch order of a queue's records (R394, R398). -/
def State.headOf (s : State) : List Rec → Option WorkOrder
  | [] => none
  | r :: t => match r.stage with
    | .toFetch => none
    | .done => s.headOf t
    | .fetched id => match s.order id with
      | none => s.headOf t
      | some w => if w.crews.any fun c => c.stage.toLaunch then some w else s.headOf t

/-- The waits of a work order are met (R395). -/
def State.waitsMet (s : State) (w : WorkOrder) : Bool := w.waits.all fun x => decide (x.2.toNat ≤ (s.counterAt x.1.toNat).toNat)

/-- Its work orders launch: the tenant's interface is in RUN (R456), and its waits are met, which only its first launch looks at (R395). -/
def State.eligible (s : State) (w : WorkOrder) : Bool :=
  (s.tenant w.tenant).state == .run && (w.crews.any (fun c => !(c.stage == .waiting)) || s.waitsMet w)

/-- The crew that is next to launch and has no placement yet, once those before it have launched and the crews its mask names have completed (R398). -/
def WorkOrder.nextCrew (w : WorkOrder) : Option (Nat × Crew × ImageCrew) :=
  match (w.crews.zipIdx.find? fun c => c.1.stage.toLaunch).filter fun c => c.1.stage != .reserved with
  | none => none
  | some (c, i) =>
    let mask := (w.masks[i]?).getD 0
    let met := w.crews.zipIdx.all fun d => !mask.getLsbD d.2 || d.1.stage == .done
    match w.image.crews[i]? with
    | some ic => if met then some (i, c, ic) else none
    | none => none

/-- Level, service value, queue number: lowest first (R396). -/
def before (a b : Queue × Nat) : Bool :=
  if a.1.level ≠ b.1.level then decide (a.1.level.toNat < b.1.level.toNat)
  else if a.1.value ≠ b.1.value then decide (a.1.value < b.1.value)
  else decide (a.2 < b.2)

/-- Insert a head in order. -/
def insertHead (x : (Queue × Nat) × WorkOrder) : List ((Queue × Nat) × WorkOrder) → List ((Queue × Nat) × WorkOrder)
  | [] => [x]
  | y :: t => if before x.1 y.1 then x :: y :: t else y :: insertHead x t

/-- Heads with their queues, in queue-number order. -/
def State.allHeads (s : State) : List ((Queue × Nat) × WorkOrder) :=
  s.pkg.queues.filterMap fun q => (s.headOf q.2.recs).map fun w => ((q.2, q.1), w)

/-- The eligible heads in the order of R396. -/
def State.heads (s : State) : List ((Queue × Nat) × WorkOrder) :=
  ((s.allHeads.filter fun h => s.eligible h.2).foldr insertHead [])

/-- The heads that may launch: none that stands after a reserving one (R397). -/
def untilReserving : List ((Queue × Nat) × WorkOrder) → List ((Queue × Nat) × WorkOrder)
  | [] => []
  | h :: t => if h.2.reserving then [h] else h :: untilReserving t

/-- A head with its placement. -/
def State.headPlacement (s : State) (h : (Queue × Nat) × WorkOrder) : Option (WorkOrder × Nat × Crew) :=
  match h.2.nextCrew with
  | none => none
  | some (i, c, ic) => (s.placement h.2 ic c).map fun p => (h.2, i, p)

/-! ### What ends a work order before it starts (R111, R272, R343, R395) -/

/-- A replica word breaks the layout of R343. -/
def badReplica (x : BitVec 32) : Bool := field x 27 4 != 0 || (x.getLsbD 31 && decide (1151 < field x 0 11))

/-- A crew's slot tables cannot be built (R272). -/
def ImageCrew.tablesBad (c : ImageCrew) : Bool :=
  let timed := c.timetable.filter fun t => t.cycle.isSome
  (timed.any fun t => t.sender / 144 != t.receiver / 144) ||
  c.members.any fun m => decide (16 < (timed.filter fun t => t.sender == m).length) || decide (16 < (timed.filter fun t => t.receiver == m).length)

/-- Replica word i of expert e in the bytes of an expert dispatch record (R343). -/
def replicaAt (bs : List Byte) (e i : Nat) : BitVec 32 := BitVec.ofNat 32 (imageNat bs (32 * e + 4 * i) 4)

/-- The replica words of an expert. -/
def replicasAt (bs : List Byte) (e : Nat) : List (BitVec 32) := (List.range 8).map (replicaAt bs e)

/-- An expert dispatch record that R343 refuses: not 8 KiB, or a word that breaks its layout. -/
def expertsBad (bs : List Byte) : Bool := bs.length != 8192 || (List.range 256).any fun e => (replicasAt bs e).any badReplica

/-- A crew's declarations pass a device limit: 1 to 1,152 cores each with an entry, a partition that R20 admits, flits of 1 to 256 (R20, R111, R272). -/
def ImageCrew.fails (c : ImageCrew) (cores : List ImageCore) : Bool :=
  c.tablesBad || c.members.isEmpty || decide (1152 < c.members.length) ||
  (c.members.any fun m => decide (1151 < m) || !(cores.any fun x => x.core == m)) ||
  partRefused c.pages c.phsz || c.timetable.any fun t => decide (t.flits < 1) || decide (256 < t.flits)

/-- What an image holds for a core passes a device limit: the instruction store, the user scratchpad, or a shape of R33 (R111). -/
def ImageCore.fails (x : ImageCore) (c : ImageCrew) : Bool :=
  decide (16384 < x.first.toNat + x.code.length) || decide (4096 * c.pages < x.data.length + 0x4000 + 0x10000 * c.phsz.toNat) ||
  x.tiles.any fun t => t.2.refused

/-- A pod-wide group whose eager threshold R255 does not admit. -/
def GroupDecl.bad (g : GroupDecl) : Bool := decide (g.eager < 256) || decide (65536 < g.eager) || g.eager % 256 != 0

/-- Loading the image fails (R111, R272, R343). -/
def WorkOrder.loadFails (w : WorkOrder) : Bool :=
  (w.image.crews.any fun c => c.fails w.image.cores || w.image.cores.any fun x => c.members.contains x.core && x.fails c) ||
  w.groups.any GroupDecl.bad || (w.image.sendx && match w.experts with | none => true | some bs => expertsBad bs)

/-- A wait names another tenant's counter (R395). -/
def WorkOrder.foreignWait (w : WorkOrder) : Bool := w.waits.any fun x => field x.1 6 6 != w.tenant.toNat

/-! ### Loading a member on the core under view (R31, R52, R272, R347, R400) -/

/-- The other end of each timed entry of a core, in source order, by slot (R272). -/
def slotTable (l : List Nat) : Vector (Option Nat) 16 := Vector.ofFn fun i => l[i.val]?

/-- Declared phase length (R415). -/
def phaseLength (l : List Timing) : Nat :=
  match (l.filterMap fun t => t.cycle.map fun c => c + t.flits).max? with
  | some m => m + 16
  | none => 0

/-- The bells of a crew as a residency on a die sees them (R335). -/
def Res.withBells (r : Res) (c : Crew) (die : Nat) : Res :=
  { r with bellOf := Vector.ofFn fun i => ((c.bells.find? fun x => x.1 == die && x.2.1.toNat == i.val).map fun x => x.2.2).getD 0,
           crossOf := Vector.ofFn fun i => ((c.crossBells.find? fun x => x.1.toNat == i.val).map fun x => x.2).getD 0 }

/-- Set the initial tile shapes of an image (R111). -/
def setShapes : List (BitVec 4 × Shape) → Vector Shape 16 → Vector Shape 16
  | [], v => v
  | x :: t, v => setShapes t (v.set x.1.toNat x.2 x.1.isLt)

/-- The multicast tree of this core towards the members of a group: the routers on the ways to them (R340). -/
def State.treeTo (s : State) (order : Nat) (members : List Rank) : List RouterAt :=
  (s.routerHere :: members.flatMap fun d => routeFrom [] 256 s.routerHere (s.targetOf order d)).eraseDups

/-- A residency's group table: the image's groups, with the default threshold of 8 KiB, and the work order's pod-wide ones (R255). -/
def State.groupTable (s : State) (w : WorkOrder) (ic : ImageCrew) : List Group :=
  ((ic.groups.map fun g => (⟨g.1, g.2.map s.rankHere, 8192⟩ : GroupDecl)) ++ w.groups).map fun g => ⟨g.num, g.members, s.treeTo w.id g.members, g.eager⟩

/-- A residency slot given to another residency: of the last one stay the landings whose data are still in flight, and the count that numbers them (R490). -/
def Res.vacated (r : Res) : Res := { Res.reset with matched := r.matched.filter (·.dropped), arrivals := r.arrivals }

/-- A restored residency behind what its slot keeps: its messages are numbered anew (R407, R490). -/
def Res.onto (r old : Res) : Res :=
  { r with matched := (old.matched.filter (·.dropped)) ++ r.matched.map fun l => { l with no := old.arrivals + l.no }
           held := r.held.map fun h => { h with no := old.arrivals + h.no }
           arrivals := old.arrivals + r.arrivals }

/-- A residency as Ezwald's stores leave it, its context 0 at the entry pair but not begun (R31, R67, R400). It keeps the LEVEL that its queue has now for its slices, whatever the host writes later (R402; DESIGN CHOICE, log entry 71). -/
def State.freshRes (s : State) (w : WorkOrder) (i : Nat) (c : Crew) (ic : ImageCrew) (co : ImageCore) (p : Place) : Res :=
  let tt : List Timing := ic.timetable
  let r : Res := { (s.res.get p.res).vacated with
    phase := .placed
    order := w.id
    crew := BitVec.ofNat 16 i
    members := ic.members
    orderCores := w.image.crews.flatMap (·.members)
    level := (s.queue w.queue).level
    spbase := BitVec.ofNat 9 p.base
    splimit := BitVec.ofNat 10 p.pages
    phsz := ic.phsz
    tenant := w.tenant
    codeFirst := co.first
    codeLast := co.first + BitVec.ofNat 14 co.code.length - 1
    handler := co.handler
    rank := s.rankHere p.logical
    tshape := setShapes co.tiles Res.reset.tshape
    channels := !tt.isEmpty
    inputs := ((tt.filter fun t => t.receiver == p.logical).map fun t => t.sender).eraseDups.map fun x => ⟨s.rankHere x, false, false⟩
    outputs := ((tt.filter fun t => t.sender == p.logical).map fun t => t.receiver).eraseDups.map s.rankHere
    groups := s.groupTable w ic
    lfsr := 0x5EED0000 ||| BitVec.ofNat 32 p.logical
    sendSlots := slotTable ((tt.filter fun t => t.cycle.isSome && t.sender == p.logical).map fun t => t.receiver)
    recvSlots := slotTable ((tt.filter fun t => t.cycle.isSome && t.receiver == p.logical).map fun t => t.sender)
    phaseLen := phaseLength tt
    ctx := Res.reset.ctx.set 0 { Ctx.reset with pc := co.entry } }
  r.withBells c (p.core / 144)

/-- Bytes of code pairs. -/
def codeBytes (l : List (BitVec 64)) : List Byte := l.flatMap fun x => leBytes 8 x.toNat

/-- The code image that Ezwald stores at its first pair (R306). -/
def State.storeCode (s : State) (co : ImageCore) : State := s.modCore fun c => c.put (0x300000 + 8 * co.first.toNat) (codeBytes co.code)

/-- A partition is assigned: each of its full/empty bits is empty (R15). -/
def CoreSt.emptyBits (c : CoreSt) (p : Place) : CoreSt :=
  { c with full := c.full.filter fun a => a < 4096 * p.base || 4096 * (p.base + p.pages) ≤ a }

/-- The images that Ezwald stores (R15, R111, R306): data at offset 0 of the partition, code at its first pair. -/
def State.storeImages (s : State) (co : ImageCore) (p : Place) : State :=
  (s.modCore fun c => (c.put (4096 * p.base) co.data).emptyBits p).storeCode co

/-- No other residency of the core has the rank. -/
def State.rankAlone (s : State) (k : ResNo) (d : Rank) : Bool := !((List.finRange 4).any fun j => j != k && (s.res.get j).phase.alive && (s.res.get j).rank == d)

/-- A new residency begins its streams anew, unless another residency of the core goes on under its rank (DESIGN CHOICE, log entry 38). -/
def State.freshStreams (s : State) (k : ResNo) (d : Rank) : State :=
  if s.rankAlone k d then
    s.modCore fun c => { c with streamsOut := c.streamsOut.filter fun x => x.src != d, streamsIn := c.streamsIn.filter fun x => x.dst != d }
  else s

/-- Reserve the bells of a crew on the die under view, and across the dies: every episode at zero (R335, R336). -/
def State.setBells (s : State) (c : Crew) (die : Nat) : State :=
  let here := (c.slots.filter fun p => p.core / 144 == die).length
  let d1 := (c.bells.filter fun x => x.1 == die).foldl (fun d x => d.modBell false (x.2.2.zeroExtend 5) fun _ => ⟨0, here, none, false, [], none⟩) s.die
  { s with die := c.crossBells.foldl (fun d x => d.modBell true x.2 fun _ => ⟨0, c.slots.length, none, false, [], none⟩) d1 }

/-- The expert table of a work order comes to the die under view when its first residency there starts (R343). -/
def State.setExperts (s : State) (w : WorkOrder) (c : Crew) : State :=
  if !w.image.sendx || !(diesOf c.slots).contains (s.pkg.self / 144) || s.die.experts.any fun e => e.1 == w.id then s
  else
    let bs := w.experts.getD []
    let t := (List.range 256).map fun e => ((replicasAt bs e).filter fun x => x.getLsbD 31).map fun x => (x.extractLsb' 0 27 : Rank)
    { s with die := { s.die with experts := s.die.experts ++ [(w.id, t)] } }

/-- Queue events of residency k in tick order (R357, R363). -/
def queueAll (k : ResNo) : List EventRec → List QEvent → List QEvent
  | [], l => l
  | e :: t, l => queueAll k t (queueIn l ⟨k, e⟩)

/-- Put a pre-empted member back as it was written, at its new place (R407). All its queued events come back, even where the core's queue then holds more than 4,096 (DESIGN CHOICE, log entry 71). -/
def State.restoreHere (s : State) (c : Crew) (p : Place) (e : Evicted) : State :=
  let r : Res := { e.res with phase := .placed, spbase := BitVec.ofNat 9 p.base, preempt := none
                              groups := e.res.groups.map fun g => { g with tree := s.treeTo e.res.order g.members } }
  let s1 := s.modRes p.res fun old => (r.withBells c (p.core / 144)).onto old
  s1.modCore fun k =>
    { k with mem := e.groups.foldl (fun m x => memSet m x.1 x.2) (e.part.foldl (fun m x => memSet m (4096 * p.base + x.1) x.2) (memZero k.mem (4096 * p.base) (4096 * (p.base + p.pages)))),
             full := (e.full.map (4096 * p.base + ·)).foldl setAdd (k.full.filter fun a => a < 4096 * p.base || 4096 * (p.base + p.pages) ≤ a),
             accTenant := if e.res.accOwn then some e.res.tenant else k.accTenant,
             tileTenant := if e.res.tileOwn then some e.res.tenant else k.tileTenant,
             fmt := if e.res.tileOwn then e.fmt else k.fmt,
             blg := if e.res.tileOwn then e.blg else k.blg,
             events := queueAll p.res e.events k.events,
             streamsOut := k.streamsOut ++ e.streamsOut,
             streamsIn := k.streamsIn ++ e.streamsIn,
             tasksAside := k.tasksAside ++ e.tasks.map fun t => { t with res := p.res } }

/-- Reserve a crew with its bells and tables, and load or restore its member on the core under view (R335, R343, R400, R407). -/
def State.reserve (s : State) (w : WorkOrder) (i : Nat) (c : Crew) : State :=
  let s1 := (s.modOrder w.id fun x =>
    { x with crews := x.crews.set i c, unplaced := none, reserving := false
             tables := if w.image.sendx then (x.tables ++ diesOf c.slots).eraseDups else x.tables }).setBells c (s.pkg.self / 144)
  let s2 := s1.modPkg fun p => { p with launching := p.launching ++ [(w.id, i)] }
  match c.slots.find? fun p => p.core == s.pkg.self, w.image.crews[i]? with
  | some p, some ic =>
    match c.evicted.find? fun e => e.1 == p.logical, w.image.cores.find? fun x => x.core == p.logical with
    | some e, some co => (s2.storeCode co).restoreHere c p e.2
    | some e, none => s2.restoreHere c p e.2
    | none, some co =>
      if c.again then s2 else ((s2.storeImages co p).freshStreams p.res (s.rankHere p.logical)).modRes p.res fun _ => s2.freshRes w i c ic co p
    | none, none => s2
  | _, _ => s2

/-! ### Launch (R394 to R400) -/

/-- A work order's count of consecutive cycles first in order without a placement (R397). -/
def WorkOrder.watch (w : WorkOrder) (at1 : Option Nat) (now : BitVec 64) : WorkOrder :=
  if at1 == some w.id then { w with unplaced := some (w.unplaced.getD now) }
  else { w with unplaced := if w.reserving then w.unplaced else none }

/-- Remember since when the head that stands first has found no placement; the count of every other head is not consecutive (R397). -/
def State.watchFirst (s : State) (hs : List ((Queue × Nat) × WorkOrder)) : State :=
  let at1 := (hs.head?.filter fun h => h.2.nextCrew.isSome).map fun h => h.2.id
  s.modPkg fun p => { p with orders := p.orders.map fun w => w.watch at1 s.core.cycle }

/-- Cycles until the next launch: at most one every 64 cycles (R396). -/
def State.untilLaunch (s : State) : Nat :=
  match s.pkg.lastLaunch with
  | none => 0
  | some t => 64 - (s.core.cycle - t).toNat

/-- DISPATCHER_LAUNCH (R394 to R399, R407): a head that may not start ends FAULTED; else the first eligible head with a placement has its next crew reserved. -/
def execDispatcherLaunch (s : State) : Result :=
  let s1 := s.settleEnds
  match s1.allHeads.find? fun h => h.2.launched.isNone && (h.2.foreignWait || h.2.loadFails) with
  | some h => .next (s1.endOrder h.2 .faulted statusFaulted none)
  | none =>
    let hs := untilReserving s1.heads
    match hs.findSome? s1.headPlacement with
    | none => .next (s1.watchFirst hs)
    | some (w, i, c) => .next ((s1.watchFirst hs).reserve w i c)

/-- Every start store of a crew has been acknowledged, or its members' state is back (R400, R407). -/
def Crew.loaded (c : Crew) : Bool := c.again || c.slots.all fun p => c.acked.contains p.logical

/-- The first crew that meets a test, with its work order and number. -/
def State.crewThat (s : State) (f : WorkOrder → Nat → Crew → Bool) : Option (WorkOrder × Nat × Crew) :=
  s.pkg.orders.findSome? fun w => (w.crews.zipIdx.find? fun c => f w c.2 c.1).map fun c => (w, c.2, c.1)

/-- A reserved crew by the numbers of its work order and itself. -/
def State.reservedCrew (s : State) (x : Nat × Nat) : Option (WorkOrder × Nat × Crew) :=
  match s.order x.1 with
  | none => none
  | some w => match w.crews[x.2]? with
    | some c => if c.stage == .reserved then some (w, x.2, c) else none
    | none => none

/-- Send a crew's start messages (R400). -/
def sendStarts (self : Nat) : List Place → State → State
  | [], s => s
  | p :: t, s => sendStarts self t (if p.core = self then s.post .startMessage else s.emit (.start p.core))

/-- Start a crew: its work order is launched with its first crew, and the die's expert table comes with it (R343, R394, R400). -/
def State.startCrew (s : State) (w : WorkOrder) (i : Nat) (c : Crew) : State :=
  let s1 := s.modCrew w.id i fun c => { c with stage := .running, since := s.core.cycle, evicted := [] }
  let s2 := s1.modOrder w.id fun x => { x with launched := some (x.launched.getD s.core.cycle) }
  let s3 := s2.modPkg fun p => { p with lastLaunch := some s.core.cycle, launching := p.launching.filter fun x => (s2.reservedCrew x).isSome }
  sendStarts s.pkg.self (c.slots.filter fun p => !c.halted.contains p.logical) (s3.setExperts w c)

/-- CREW_START (R394, R396, R400): crews launch in the order in which they found their placements (DEDUCED, log entry 72), 64 cycles apart. -/
def execCrewStart (s : State) : Result :=
  match s.pkg.launching.findSome? s.reservedCrew with
  | none => .next s
  | some (w, i, c) =>
    if !c.loaded then .next s
    else if 0 < s.untilLaunch then .next (s.after s.untilLaunch .crewStart)
    else .next (s.startCrew w i c)

/-- The crew of a residency has been started. -/
def State.started (s : State) (r : Res) : Bool :=
  match s.order r.order with
  | none => false
  | some w => match w.crews[r.crew.toNat]? with
    | some c => c.stage == .running || (match c.stage with | .preempting _ => true | _ => false)
    | none => false

/-- Context 0 begins at the entry pair, or goes on after its ROUND with its helpers (R306, R400, R407). -/
def Res.begin (r : Res) : Res :=
  if r.issued then Res.freeHelpers { r with phase := .live }
  else { r with phase := .live }.modCtx 0 fun c => { c with status := .live }

/-- START_MESSAGE (R27, R306, R400): the first residency placed whose crew has been started. -/
def execStartMessage (s : State) : Result :=
  match (List.finRange 4).find? fun k => (s.res.get k).phase == .placed && s.started (s.res.get k) with
  | none => .next s
  | some k =>
    let s1 := s.modRes k Res.begin
    .next (if s.core.issuing.isNone then s1.postOnce .residencySwitch else s1)

/-! ### Reserving heads and pre-emption (R397, R405, R406) -/

/-- Every group of a crew's table lists crew members alone (R405). -/
def State.groupsInside (s : State) (w : WorkOrder) (ic : ImageCrew) : Bool :=
  (ic.groups.all fun g => g.2.all ic.members.contains) &&
  w.groups.all fun g => g.members.all fun d => Rank.pkg d == s.srv.pkg && ic.members.contains (Rank.core d)

/-- A crew is pre-emptible (R405, R467). -/
def State.preemptible (s : State) (w : WorkOrder) (i : Nat) : Bool :=
  match w.image.crews[i]? with
  | none => false
  | some ic => !ic.timetable.isEmpty && !ic.outside && !w.image.sendx && decide (ic.stateSize ≤ w.evictSize.toNat) && s.groupsInside w ic

/-- Running pre-emptible crews of levels above a level. -/
def State.victims (s : State) (level : BitVec 2) : List (WorkOrder × Nat × Crew) :=
  s.pkg.orders.flatMap fun w =>
    if (s.queue w.queue).level.toNat ≤ level.toNat then []
    else (w.crews.zipIdx.filter fun c => c.1.stage == .running && s.preemptible w c.2).map fun c => (w, c.2, c.1)

/-- The crew whose pre-emption is requested next: the lowest priority, then the most recently launched (R397). -/
def State.victim (s : State) (level : BitVec 2) : Option (WorkOrder × Nat × Crew) :=
  (s.victims level).foldl (fun best x => match best with
    | none => some x
    | some b =>
      let lx := (s.queue x.1.queue).level.toNat
      let lb := (s.queue b.1.queue).level.toNat
      if lb < lx || (lb == lx && decide (b.2.2.since.toNat < x.2.2.since.toNat)) then some x else some b) none

/-- The round counter of the member on the core under view. -/
def State.roundHere (s : State) (c : Crew) : Nat :=
  match c.slots.find? fun p => p.core == s.pkg.self with
  | some p => (s.res.get p.res).round.toNat
  | none => 0

/-- Tell the members the round at whose edge they freeze (R406). -/
def tellMembers (self : Nat) (n : BitVec 32) : List Place → State → State
  | [], s => s
  | p :: t, s => tellMembers self n t (if p.core = self then s.modRes p.res fun r => { r with preempt := some n } else s.emit (.preemptCrew p.core n))

/-- Request the pre-emption of a crew (R406). -/
def State.requestPreempt (s : State) (w : WorkOrder) (i : Nat) (c : Crew) : State :=
  let n := BitVec.ofNat 32 (max c.rounds.toNat (s.roundHere c) + 1)
  tellMembers s.pkg.self n c.slots (s.modCrew w.id i fun c => { c with stage := .preempting n, drained := [] })

/-- A pre-emption is under way. -/
def State.preemptingAny (s : State) : Bool := (s.crewThat fun _ _ c => match c.stage with | .preempting _ => true | _ => false).isSome

/-- A head has stood first without a placement for 4,500,000 cycles (R397). -/
def State.waitedLong (s : State) (w : WorkOrder) : Bool := match w.unplaced with | some t => decide (4500000 ≤ (s.core.cycle - t).toNat) | none => false

/-- The first head becomes reserving, if its time has come and it finds no placement still (R397). -/
def State.markReserving (s : State) : State :=
  match s.heads with
  | [] => s
  | h :: _ => if s.waitedLong h.2 && h.2.nextCrew.isSome && (s.headPlacement h).isNone then s.modOrder h.2.id fun w => { w with reserving := true } else s

/-- HEAD_RESERVING (R397): the first head, long unplaced, becomes reserving; for the first reserving head that finds no placement one crew at a time is asked to give way. -/
def execHeadReserving (s : State) : Result :=
  let s1 := s.settleEnds.markReserving
  match s1.heads.find? fun h => h.2.reserving && h.2.nextCrew.isSome && (s1.headPlacement h).isNone with
  | none => .next s1
  | some h =>
    if s1.preemptingAny then .next s1
    else match s1.victim h.1.1.level with
      | none => .next s1
      | some (w, i, c) => .next (s1.requestPreempt w i c)

/-- Nothing of residency k waits to leave the core. -/
def State.sentAll (s : State) (k : ResNo) : Bool :=
  !(s.core.leaving.any fun l => l.res == k) && !(s.core.ni.any fun x => x.order == (s.res.get k).order)

/-- The frozen residency k of this core has drained (R406). -/
def State.drainedHere (s : State) (k : ResNo) : Bool :=
  let r := s.res.get k
  r.phase == .frozen && (r.chans.toList.all fun c => c.next == c.done) && !(s.core.sends.any fun q => q.res == k) &&
  !(s.core.reqs.any fun q => q.res == k) && s.sentAll k && decide (s.core.engineUntil.toNat ≤ s.core.cycle.toNat) &&
  !(s.core.tasks.any fun t => t.res == k && t.dispatched && (engineOf t.instr == 2 || engineOf t.instr == 5)) && s.core.switch.isNone

/-- A member counts as drained. -/
def State.memberDrained (s : State) (c : Crew) (p : Place) : Bool :=
  c.halted.contains p.logical || (if p.core = s.pkg.self then s.drainedHere p.res else c.drained.any fun x => x.1 == p.logical)

/-- What the eviction area takes of a residency of this core (R406). -/
def State.evictedRes (s : State) (k : ResNo) : Evicted :=
  let r := s.res.get k
  let lo := 4096 * r.spbase.toNat
  { res := { r with matched := r.matched.filter fun l => !l.dropped }
    part := (s.core.mem.filter fun x => decide (lo ≤ x.1) && decide (x.1 < lo + r.limit)).map fun x => (x.1 - lo, x.2)
    full := (s.core.full.filter fun a => decide (lo ≤ a) && decide (a < lo + r.limit)).map (· - lo)
    groups := s.core.mem.filter fun x => (r.accOwn && decide (0x200000 ≤ x.1) && decide (x.1 < 0x240000)) || (r.tileOwn && decide (0x400000 ≤ x.1) && decide (x.1 < 0x700000))
    fmt := s.core.fmt
    blg := s.core.blg
    events := (s.core.events.filter fun e => e.res == k).map (·.ev)
    tasks := (s.core.tasks ++ s.core.tasksAside).filter fun t => t.res == k
    streamsOut := s.core.streamsOut.filter fun x => x.src == r.rank
    streamsIn := s.core.streamsIn.filter fun x => x.dst == r.rank }

/-- n free bytes. -/
def freeBytes (k n : Nat) : List Byte := (List.range n).map fun i => (Config.freeValue (k + i)).extractLsb' 0 8

/-- The eviction area takes a residency's state, in a layout that the spec does not give: its bytes are free (R406, R467; DESIGN CHOICE, log entry 69). -/
def State.writeArea (s : State) (w : WorkOrder) (ic : ImageCrew) (es : Vector Extent 16) : State :=
  match s.place es w.evictPtr 1 s.srv.pkg ic.stateSize w.id with
  | .error _ => s
  | .ok r => { s with srv := s.srv.put (serverKey s.srv.pkg r.1) (freeBytes s.env.free ic.stateSize),
                      env := { s.env with free := s.env.free + ic.stateSize } }

/-- Take the member of this core for the eviction area and free its slot (R406). -/
def State.evictHere (s : State) (k : ResNo) : State × Evicted :=
  let s1 := if s.core.issuing = some k then (s.leaveRes k).modCore fun c => { c with issuing := none } else s
  let e := s1.evictedRes k
  (((s1.dropTasks (s1.core.tasks.filter fun t => t.res == k)).modRes k Res.vacated).modCore fun c =>
    { c with tasks := c.tasks.filter fun t => t.res != k, tasksAside := c.tasksAside.filter fun t => t.res != k,
             events := c.events.filter fun e => e.res != k,
             streamsOut := c.streamsOut.filter fun x => !e.streamsOut.contains x,
             streamsIn := c.streamsIn.filter fun x => !e.streamsIn.contains x }, e)

/-- The members of a crew are taken, that of this core first, and its eviction area is written (R406). -/
def State.evictCrew (s : State) (w : WorkOrder) (i : Nat) (c : Crew) : State × List (Nat × Evicted) :=
  match c.slots.find? fun p => p.core == s.pkg.self && !c.halted.contains p.logical with
  | some p =>
    let r := s.evictHere p.res
    ((match w.image.crews[i]? with | some ic => r.1.writeArea w ic r.2.res.extents | none => r.1), (p.logical, r.2) :: c.drained)
  | none => (s, c.drained)

/-- CREW_DRAINED (R396, R406): the crew is written out, its residencies and bells are free, and it is to be launched anew. -/
def execCrewDrained (s : State) : Result :=
  let s1 := s.settleEnds
  match s1.crewThat fun _ _ c => (match c.stage with | .preempting _ => true | _ => false) && c.slots.all (s1.memberDrained c) with
  | none => .next s1
  | some (w, i, c) =>
    let n := s1.coreCycles c
    let out := s1.evictCrew w i c
    let s2 := (out.1.modCrew w.id i fun c => { c with stage := .evicted, slots := [], bells := [], crossBells := [], drained := [], evicted := out.2 }).riseValue w.queue n
    .next (s2.modOrder w.id fun x => { x with cycles := x.cycles + n })

end Sys2Proof.Machine
end

