-- ==== Sys2Proof/Machine/Trust.lean ====
section
/-!
DEFINITION. The Assayer: die states, quarantine and what it ends, and the attestation flows (R418, R441 to R445, R448 to R451).
-/

namespace Sys2Proof.Machine

open Sys2Proof

/-! ### Dies and links (R418, R446, R449) -/

/-- The I/O die's number. -/
def ioDie : Nat := 18

/-- The dies at the ends of a link, the lower number first: 8 inner, 8 outer, 6 along the rows, 4 to gateways (R418, R446). -/
def linkEnds (l : Nat) : Nat × Nat :=
  if l < 8 then (l, 18)
  else if l < 16 then (l - 8, l)
  else if l < 19 then (l - 16, l - 15)
  else if l < 22 then (l - 15, l - 14)
  else ([(0, 16), (4, 16), (3, 17), (7, 17)].getD (l - 22) (0, 16))

/-- A link ends at a die. -/
def linkAt (d l : Nat) : Bool := (linkEnds l).1 == d || (linkEnds l).2 == d

/-- Link hops from the I/O die. -/
def hopsToIo (d : Nat) : Nat := if d = ioDie then 0 else if d < 8 then 1 else 2

/-- The die charged with a failed link: the farther from the I/O die, else the higher-numbered (R428). -/
def chargedDie (l : Nat) : Nat :=
  let e := linkEnds l
  if hopsToIo e.1 < hopsToIo e.2 then e.2 else if hopsToIo e.2 < hopsToIo e.1 then e.1 else max e.1 e.2

/-- The record of die d. -/
def State.dieRec (s : State) (d : Nat) : DieRec := (s.pkg.dies[d]?).getD DieRec.reset

/-- Change the record of die d. -/
def State.modDie (s : State) (d : Nat) (f : DieRec → DieRec) : State :=
  s.modPkg fun p => { p with dies := p.dies.mapFinIdx fun i x _ => if i = d then f x else x }

/-- Sender and receiver of a direction. -/
def sender (l : Nat) (up : Bool) : Nat := if up then (linkEnds l).1 else (linkEnds l).2
def receiver (l : Nat) (up : Bool) : Nat := if up then (linkEnds l).2 else (linkEnds l).1

/-- A die has been attested: KEYING or OPEN. -/
def DieState.attested : DieState → Bool
  | .keying => true
  | .opened => true
  | _ => false

/-- A die's end of a link may be keyed: it holds a live session, or it is the I/O die, and its servers are not being cleared (R446, R451). -/
def State.endLive (s : State) (d : Nat) : Bool := d == ioDie || ((s.dieRec d).state.attested && (s.dieRec d).session && !(s.dieRec d).clearing)

/-- The core dies through which the Assayer reaches a die of wave 2 (R444). -/
def pathsTo (d : Nat) : List Nat := if d < 16 then [d - 8] else if d = 16 then [0, 4] else [3, 7]

/-- A path to the die exists (R444, R448). -/
def State.hasPath (s : State) (d : Nat) : Bool := d < 8 || (d < ioDie && (pathsTo d).any fun c => (s.dieRec c).state.attested)

/-! ### Quarantine (R448, R450, R451) -/

/-- The link that a message about keys concerns. -/
def KeyMsg.link : KeyMsg → Option Nat
  | .installBoth l _ _ _ => some l
  | .install l _ _ _ => some l
  | .ackBoth l _ => some l
  | .ack l _ _ => some l
  | .linkOpen l _ => some l
  | .switch l _ _ _ => some l
  | .retired l _ _ => some l
  | .participant _ _ _ _ => none
  | .participantRetired _ _ _ => none

/-- An arrival that belongs to the session of a link: its keys, its flits. -/
def Arrival.onLink (l : Nat) : Arrival → Bool
  | .key m => m.link == some l
  | .flit k _ _ _ _ => k == l
  | .replay k _ _ => k == l
  | _ => false

/-- Close a link: both keys and the replay buffers are gone, a packet that has not come whole too, and what was under way for its session (R447, R450). -/
def State.closeLink (s : State) (l : Nat) : State :=
  (s.modLink l fun _ => Link.reset).modPkg fun p => { p with inbox := p.inbox.filter fun a => !a.onLink l }

/-- Close every link of a die. -/
def closeLinks (d : Nat) : List Nat → State → State
  | [], s => s
  | l :: t, s => closeLinks d t (if linkAt d l then s.closeLink l else s)

/-- End a list of work orders FAULTED. -/
def endOrders : List WorkOrder → State → State
  | [], s => s
  | w :: t, s => endOrders t (s.endOrder w .faulted statusFaulted none)

/-- A request of this core touches a server of a die of this package. -/
def State.touchesDie (s : State) (d : Nat) (q : Req) : Bool :=
  q.pkg == s.srv.pkg && q.spans.any fun p => serverDie (p.1 - serverKey s.srv.pkg 0) == d

/-- Requests of other parties are answered PEER_DEAD (R392). -/
def refuseDead : List ServerReq → State → State
  | [], s => s
  | q :: t, s => refuseDead t (s.serveFail q (.peerDead false))

/-- Requests outstanding towards a quarantined die are answered PEER_DEAD, those that wait at its servers or in the Weighhouse among them; its locks are gone (R392, R435, R450, R451). -/
def State.answerDead (s : State) (d : Nat) : State :=
  let gone (q : ServerReq) : Bool := q.pkg == s.srv.pkg && serverDie q.addr == d
  let s1 := (s.core.reqs.filter (s.touchesDie d)).foldl (fun s q => s.post (.peerDeadResponse q.id)) s
  let lost := (s1.srv.weigh.map (·.req)).filter gone
  let others := (s1.srv.pending.filter gone ++ lost).filter fun q => !q.own
  let s2 := { s1 with srv := { s1.srv with
    pending := s1.srv.pending.filter fun q => !gone q
    weigh := s1.srv.weigh.filter fun w => !gone w.req
    locks := s1.srv.locks.filter fun l => !lost.any fun q => reqGranule q == l.1 } }
  (refuseDead others s2).startWeigh s.srv.pkg

/-- The next live port of a context in port order, or one of the other gateway (R439). -/
def Package.movePort (p : Package) (c : PortCtx) : PortCtx :=
  let g := c.port / 36
  let l := p.livePorts g
  if l.contains c.port then c
  else match l.find? fun i => decide (c.port < i) with
    | some i => { c with port := i }
    | none => match l with
      | i :: _ => { c with port := i }
      | [] => let o := p.livePorts (1 - g)
        if o.isEmpty then c else { c with port := (o[c.peer % o.length]?).getD c.port }

/-- Every context stands on a live port, where there is one (R439, R451). -/
def State.repin (s : State) : State := s.modPkg fun p => { p with contexts := p.contexts.map p.movePort }

/-- A rank of residency k's work order stands on die d of this package. -/
def State.rankOnDie (s : State) (k : ResNo) (d : Nat) (x : Rank) : Bool :=
  Rank.pkg x == s.srv.pkg && s.physicalOf (s.res.get k).order (Rank.core x) / 144 == d

/-- Inputs whose peer meets a test are closed (R352). -/
def Res.closeInputs (r : Res) (p : Rank → Bool) : Res :=
  { r with inputs := r.inputs.map fun i => if p i.peer then { i with closed := true } else i }

/-- A residency whose inputs allow its round edge takes it. -/
def State.takeEdge (s : State) (k : ResNo) : State :=
  if (s.res.get k).edgeReady && ((s.res.get k).ctx.get 0).blocked.any (fun b => b.1 == .round) then s.roundEdge k else s

/-- The cores of a quarantined die count as a dead package for residency k: its receives, multicasts and sends end, and the inputs from them are closed (R329, R352, R450). -/
def State.dieGoneFor (s : State) (d : Nat) (k : ResNo) : State :=
  if !(s.res.get k).phase.alive then s
  else
    let p := s.rankOnDie k d
    (((s.ranksDead k p).modRes k (·.closeInputs p)).takeEdge k)

/-- Sends on their way to a quarantined die are answered PEER_DEAD (R392, R450). -/
def State.answerSends (s : State) (d : Nat) : State :=
  (s.core.sends.filter fun q => (q.state == .eagerOut || q.state == .rdvOut || q.state == .dataOut) && s.rankOnDie q.res d q.msg.dst).foldl
    (fun s q => s.post (.peerDeadResponse q.id)) s

/-- A core die is quarantined: for every residency of the core its cores are dead (R329, R450). -/
def State.dieGone (s : State) (d : Nat) : State := (List.finRange 4).foldl (fun s k => s.dieGoneFor d k) (s.answerSends d)

/-- One die enters QUARANTINED with a reason (R448 to R451). -/
def State.quarantineOne (s : State) (reason : BitVec 8) (d : Nat) : State :=
  let s1 := s.modDie d fun x => { x with state := .quarantined, reason := reason, session := false, clearing := false, rejoins := true }
  let s2 := closeLinks d (List.range 26) (s1.modPkg fun p => { p with flows := p.flows.filter fun f => f.party != .die d })
  let s3 := endOrders ((s2.dieGone d).pkg.orders.filter (s2.hitBy d)) (s2.dieGone d)
  (s3.answerDead d).repin

/-- Dies that lose their last path to the Assayer (R448). -/
def State.cutDies (s : State) : List Nat :=
  (List.range 18).filter fun d => ((s.dieRec d).state.attested || (s.dieRec d).state == .attesting) && !s.hasPath d

/-- A die enters QUARANTINED, and with it, for reason 12, the dies whose last path it was (R448); the I/O die never does. -/
def State.quarantine (s : State) (d : Nat) (reason : BitVec 8) : State :=
  if ioDie ≤ d then s
  else
    let s1 := s.quarantineOne reason d
    s1.cutDies.foldl (fun s e => s.quarantineOne 12 e) s1

/-- A link fails: it closes, and the die charged is quarantined where it is KEYING or OPEN (R428, R448). -/
def State.failLink (s : State) (l : Nat) : State :=
  let s1 := s.closeLink l
  let d := chargedDie l
  if (s1.dieRec d).state.attested then s1.quarantine d 9 else s1

/-! ### Flows (R444, R445, R458) -/

/-- 100 ms in core cycles. -/
def spdmCycles : Nat := 225000000

/-- One millisecond (R453). -/
def keyCycles : Nat := 2250000

/-- The request of a step, with the parameters of R445: a portion of the chain begins where the last one ended. -/
def Flow.request (f : Flow) : Nat → SpdmRequest
  | 1 => .getVersion
  | 2 => .getCapabilities true true true true true true 4096
  | 3 => .negotiate .ed25519 .ed25519 .sha512 .p384 .aes256gcm .sha512 .spdmSchedule
  | 4 => .getDigests
  | 5 => .getCertificate 0 f.got 1024
  | 6 => .challenge 0 true
  | 7 => .getMeasurements true true
  | 8 => .keyExchange .p384 true
  | _ => .finish ioDie

/-- Ask for the response of a step (R445). -/
def State.askStep (s : State) (f : Flow) (step : Nat) : State :=
  let g := { f with step := step, due := s.core.cycle + BitVec.ofNat 64 spdmCycles }
  let s1 := (s.modPkg fun p => { p with flows := (p.flows.filter fun x => x.party != f.party) ++ [g] }).after spdmCycles .spdmTimeout
  match f.party with
  | .die d => s1.emit (.spdm false d (g.request step))
  | .package p => s1.emit (.spdm true p (g.request step))

/-- The flow of a die begins; the certificate fetch may be skipped at a warm start only, and never by a die that rejoins (R445, R450). -/
def State.attest (s : State) (d : Nat) : State :=
  (s.modDie d fun x => { x with state := .attesting }).askStep ⟨.die d, 1, 0, 0, s.pkg.warm && !s.pkg.ready && !(s.dieRec d).rejoins, 0, 0, 0⟩ 1

/-- The Assayer attests: the start table has come to step 6, and the reference manifest has verified (R443, R471). -/
def State.attesting (s : State) : Bool := s.pkg.manifestOk && decide (6 ≤ s.pkg.step.toNat)

/-- A die that has left reset alone, or that Damilaril wants attested anew, goes to ATTESTING where a path exists; else to CLOSED (R448). -/
def State.attestAgain (s : State) (d : Nat) : State :=
  if s.attesting && s.hasPath d then s.attest d else s.modDie d fun x => { x with state := .closed }

/-- Wave 1 is over: no core die waits for its flow or is in it. -/
def State.wave1Over (s : State) : Bool := (List.range 8).all fun d => (s.dieRec d).state != .closed && (s.dieRec d).state != .attesting

/-- The attestation engine derives the die's key pair from its seed: no salt, and the key of 32 bytes (R441, log entry 39). -/
def AttestEngine.derive (e : AttestEngine) : AttestEngine :=
  let k := hkdf512 [] (leBytes 32 e.seed.toNat) dieLabel 32
  { e with keys := some (k, ed25519Public k) }

/-- The engine of die d derives its keys. -/
def State.deriveKeys (s : State) (d : Nat) : State :=
  s.modPkg fun p => { p with engines := p.engines.mapFinIdx fun i e _ => if i = d then e.derive else e }

/-- DIE_RESET_EXIT (R441, R448): a die leaves reset, at start or after a lone reset, with its key pair derived. -/
def execDieResetExit (s : State) : Result :=
  match s.take fun a => match a with | .dieExit d => some d | _ => none with
  | none => .next s
  | some (d, s0) =>
    let s1 := s0.deriveKeys d
    match (s1.dieRec d).state with
    | .reset => .next (s1.modDie d fun x => { x with state := .closed })
    | .quarantined => .next (s1.attestAgain d)
    | _ => .next s1

/-- ATTESTATION_START (R443, R444, R448): the first closed die that its wave has reached. -/
def execAttestationStart (s : State) : Result :=
  if !s.attesting then .next s
  else match (List.range 18).find? fun d => (s.dieRec d).state == .closed && s.hasPath d && (decide (d < 8) || s.wave1Over) with
  | none => .next s
  | some d => .next (s.attest d)

/-- The flow of a party. -/
def State.flowOf (s : State) (p : Party) : Option Flow := s.pkg.flows.find? fun f => f.party == p

/-- A check of R445 has failed, or a response has not come: the die is quarantined; a peer package is not accepted. -/
def State.failFlow (s : State) (f : Flow) (reason : BitVec 8) : State :=
  let s1 := s.modPkg fun p => { p with flows := p.flows.filter fun x => x.party != f.party }
  match f.party with
  | .die d => s1.quarantine d reason
  | .package _ => s1

/-- The response of a step: a check that holds asks for the next step, one that does not ends the flow. -/
def State.spdmStep (s : State) (step : Nat) (reason : BitVec 8) (body : SpdmBody → Option (Flow → State → Option (Flow × Nat))) : State :=
  match s.take fun a => match a with | .spdm p b => (body b).map fun g => (p, g) | _ => none with
  | none => s
  | some ((p, g), s1) => match s1.flowOf p with
    | none => s1
    | some f =>
      if f.step ≠ step then s1
      else match g f s1 with
        | none => s1.failFlow f reason
        | some (f1, n) => s1.askStep f1 n

/-- A check that decides between the next step and failure. -/
def checkStep (ok : Bool) (next : Nat) (f : Flow) (_ : State) : Option (Flow × Nat) := if ok then some (f, next) else none

/-- VERSION (R445 step 1). -/
def execVersion (s : State) : Result :=
  .next (s.spdmStep 1 1 fun b => match b with
    | .version l => some (checkStep (l.contains 0x13) 2)
    | _ => none)

/-- CAPABILITIES (R445 step 2). -/
def execCapabilities (s : State) : Result :=
  .next (s.spdmStep 2 2 fun b => match b with
    | .capabilities a b c d e f g => some (checkStep (a && b && c && d && e && f && g) 3)
    | _ => none)

/-- ALGORITHMS (R445 step 3): every selection as offered. -/
def execAlgorithms (s : State) : Result :=
  .next (s.spdmStep 3 3 fun b => match b with
    | .algorithms rq rs h dhe aead m k => some (checkStep (rq == .ed25519 && rs == .ed25519 && h == .sha512 && dhe == .p384 && aead == .aes256gcm && m == .sha512 && k == .spdmSchedule) 4)
    | _ => none)

/-- The cached digest of a flow's party (R445, R471). -/
def State.cachedDigest (s : State) (f : Flow) : Option Nat := match f.party with | .die d => (s.dieRec d).digest | .package _ => none

/-- DIGESTS (R445 step 4): at a warm start a digest that matches the cache skips step 5. -/
def execDigests (s : State) : Result :=
  .next (s.spdmStep 4 4 fun b => match b with
    | .digests slot0 g => some fun f s => if slot0 then some ({ f with digest := g }, if f.warm && s.cachedDigest f == some g then 6 else 5) else none
    | _ => none)

/-- A peer's identity hash stands in a manifest that this package has accepted (R458). -/
def State.identityOk (s : State) (f : Flow) (identity : Nat) : Bool :=
  match f.party with
  | .die _ => true
  | .package p => s.pkg.enclaves.any fun e => e.parts.any fun x => x.pkgs.contains p && x.identities.contains identity

/-- CERTIFICATE (R445 step 5): portions are collected until the last, and the chain is then checked. -/
def execCertificate (s : State) : Result :=
  .next (s.spdmStep 5 4 fun b => match b with
    | .certificate n last g ok id => some fun f s =>
      if 1024 < n then none
      else if !last then some ({ f with got := f.got + n }, 5)
      else if ok && g == f.digest && s.identityOk f id then some ({ f with identity := id }, 6) else none
    | _ => none)

/-- CHALLENGE_AUTH (R445 step 6). -/
def execChallengeAuth (s : State) : Result :=
  .next (s.spdmStep 6 5 fun b => match b with
    | .challenge ok => some (checkStep ok 7)
    | _ => none)

/-- Indices 1 to 4 of a die kind and revision stand in the reference manifest (R443). -/
def State.inManifest (s : State) (kind revision : Nat) (digests : List Nat) : Bool :=
  digests.length == 4 && digests.zipIdx.all fun x => s.pkg.accepted.contains ⟨kind, revision, x.2 + 1, x.1⟩

/-- The kind and position that the party of a flow must report: the die's, or an I/O die's (R443, R458). -/
def Party.placed : Party → Nat → Nat → Bool
  | .die d, kind, pos => kind == dieKind d && pos == d
  | .package _, kind, _ => kind == 3

/-- MEASUREMENTS (R443, R445 step 7): index 3 matches the position at which the die was reached. -/
def execMeasurements (s : State) : Result :=
  .next (s.spdmStep 7 6 fun b => match b with
    | .measurements sig kind rev ds pos x => some fun f s =>
      if sig && s.inManifest kind rev ds && f.party.placed kind pos then some ({ f with summary := x }, 8) else none
    | _ => none)

/-- KEY_EXCHANGE_RSP (R445 step 8). -/
def execKeyExchangeRsp (s : State) : Result :=
  .next (s.spdmStep 8 7 fun b => match b with
    | .keyExchange sig mac => some (checkStep (sig && mac) 9)
    | _ => none)

end Sys2Proof.Machine
end

