-- ==== Sys2Proof/Machine/Links.lean ====
section
/-!
DEFINITION. The links between dies: their keys, opening and rollover, their flits, failures, and Damilaril's access to the dies (R426 to R428, R446 to R453).
-/

namespace Sys2Proof.Machine

open Sys2Proof

/-! ### Link keys (R446, R447) -/

/-- Draw n keys: each is the number of its draw, so none comes twice; the generator is reseeded every 2^20 draws (R446, R447; log entry 10). -/
def State.draw (s : State) (n : Nat) : State :=
  s.modPkg fun p =>
    if p.sinceSeed + n < 2 ^ 20 then { p with draws := p.draws + n, sinceSeed := p.sinceSeed + n }
    else { p with draws := p.draws + n, sinceSeed := p.sinceSeed + n - 2 ^ 20, reseeds := p.reseeds + 1 }

/-- Key the link: two fresh keys to each end (R446). -/
def State.keyLink (s : State) (l : Nat) : State :=
  let e := linkEnds l
  let k := s.pkg.draws
  let s1 := ((s.draw 2).modLink l fun _ => { Link.reset with start := some s.core.cycle }).after keyCycles .keyAckTimeout
  (s1.arrive (.key (.installBoth l e.1 k (k + 1)))).arrive (.key (.installBoth l e.2 k (k + 1)))

/-- A link waits to be keyed: both ends hold live sessions, and it is neither open nor being keyed (R446). -/
def State.toKey (s : State) (l : Nat) : Bool :=
  s.endLive (linkEnds l).1 && s.endLive (linkEnds l).2 && !(s.link l).opened && (s.link l).start.isNone

/-- Key every link that waits. -/
def State.keyLinks (s : State) : State := ((List.range 26).filter s.toKey).foldl State.keyLink s

/-- A KEYING die whose links towards dies that are KEYING or OPEN, the I/O die among them, have all opened (R448). -/
def State.mayOpen (s : State) (d : Nat) : Bool :=
  (s.dieRec d).state == .keying && !(s.dieRec d).clearing &&
  (List.range 26).all fun l => !linkAt d l || (s.link l).opened ||
    !(let e := linkEnds l; let o := if e.1 = d then e.2 else e.1; o == ioDie || (s.dieRec o).state.attested)

/-- Dies become OPEN, and dies quarantined for a lost path are attested anew (R448). -/
def State.openDies (s : State) : State :=
  let up := (List.range 18).filter s.mayOpen
  let s1 := up.foldl (fun s d => s.modDie d fun x => { x with state := .opened }) s
  let back := (List.range 18).filter fun d => (s1.dieRec d).state == .quarantined && (s1.dieRec d).reason == 12 && 8 ≤ d && (pathsTo d).any up.contains
  back.foldl (fun s d => s.attest d) s1

/-- A package whose identity hash the enclave's manifest holds has been accepted: it is a member (R458). -/
def Enclave.accept (e : Enclave) (p identity : Nat) : Enclave :=
  if e.parts.any fun x => x.pkgs.contains p && x.identities.contains identity then { e with members := setAdd e.members p } else e

/-- Send this package's participant keys to a member it has accepted. -/
def sendKeys (p : Nat) : List Enclave → State → State
  | [], s => s
  | e :: t, s => sendKeys p t (match (if e.members.contains p then e.parts.find? fun x => x.index == e.own && x.pkgs.min? == some s.srv.pkg else none) with
    | some x => x.keys.foldl (fun s k => s.emit (.participantKey p e.num k.2)) s
    | none => s)

/-- FINISH_RSP (R445 step 9, R446, R448, R451): the die goes to KEYING, and a server die or gateway that rejoins clears its servers first. -/
def execFinishRsp (s : State) : Result :=
  match s.take fun a => match a with | .spdm p (.finish acc mac) => some (p, acc && mac) | _ => none with
  | none => .next s
  | some ((p, ok), s1) => match s1.flowOf p with
    | none => .next s1
    | some f =>
      if f.step ≠ 9 then .next s1
      else if !ok then .next (s1.failFlow f 7)
      else
        let s2 := s1.modPkg fun q => { q with flows := q.flows.filter fun x => x.party != p }
        match p with
        | .die d =>
          let s3 := s2.modDie d fun x => { x with state := .keying, session := true, digest := some f.digest,
                                                  epoch := if x.epoch = BitVec.allOnes 16 then x.epoch else x.epoch + 1, summary := f.summary,
                                                  clearing := (s.pkg.ready || x.rejoins) && decide (8 ≤ d) }
          .next s3.keyLinks.openDies
        | .package n =>
          let s3 := s2.modPkg fun q => { q with enclaves := q.enclaves.map (·.accept n f.identity) }
          .next (sendKeys n s3.pkg.enclaves s3)

/-- SPDM_TIMEOUT (R445, R449): reason 8. -/
def execSpdmTimeout (s : State) : Result :=
  match s.pkg.flows.find? fun f => decide (f.due.toNat ≤ s.core.cycle.toNat) with
  | none => .next s
  | some f => .next (s.failFlow f 8)

/-- A cell of server memory lies on a die of this package. -/
def State.onDie (s : State) (d : Nat) (key : Nat) : Bool :=
  let base := serverKey s.srv.pkg 0
  decide (base ≤ key) && decide (key < base + 2 ^ 41) && serverDie (key - base) == d

/-- SERVER_CLEAR_DONE (R451): the servers of the first die that clears read zero, and its links may be keyed. -/
def execServerClearDone (s : State) : Result :=
  match (List.range 18).find? fun d => (s.dieRec d).clearing with
  | none => .next s
  | some d =>
    let s1 := { s with srv := { s.srv with mem := s.srv.mem.filter fun x => !s.onDie d x.1, bad := s.srv.bad.filter fun a => !s.onDie d a } }
    .next ((s1.modDie d fun x => { x with clearing := false }).keyLinks).openDies

/-- Install a participant key in the gateways (R459). -/
def Enclave.install (e : Enclave) (num index gen key : Nat) : Enclave :=
  if e.num = num then { e with parts := e.parts.map fun p => if p.index = index ∧ !e.revoked.contains index then { p with keys := p.keys ++ [(gen, key)] } else p } else e

/-- KEY_INSTALL (R446, R453, R459): keys at an end, and the acknowledgement. -/
def execKeyInstall (s : State) : Result :=
  match s.take fun a => match a with
      | .key (.installBoth l d u v) => some (KeyMsg.installBoth l d u v)
      | .key (.install l up g k) => some (.install l up g k)
      | .key (.participant e i g k) => some (.participant e i g k)
      | _ => none with
  | some (.installBoth l d u v, s1) =>
    if (s1.link l).start.isNone then .next s1
    else
      let f (x : Link) : Link := if (linkEnds l).1 = d
        then { x with up := { x.up with txKeys := [(0, u)] }, down := { x.down with rxKeys := [(0, v)] } }
        else { x with up := { x.up with rxKeys := [(0, u)] }, down := { x.down with txKeys := [(0, v)] } }
      .next ((s1.modLink l f).arrive (.key (.ackBoth l d)))
  | some (.install l up g k, s1) =>
    if !(s1.link l).opened then .next s1
    else .next ((s1.modDir l up fun x => { x with rxKeys := x.rxKeys ++ [(g, k)] }).arrive (.key (.ack l up g)))
  | some (.participant e i g k, s1) => .next (s1.modPkg fun p => { p with enclaves := p.enclaves.map (·.install e i g k) })
  | some (_, s1) => .next s1
  | none => .next s

/-- KEY_ACK (R446, R453): once both ends have acknowledged, LINK_OPEN goes to each; in a rollover, KEY_SWITCH goes to the sender. -/
def execKeyAck (s : State) : Result :=
  match s.take fun a => match a with
      | .key (.ackBoth l d) => some (KeyMsg.ackBoth l d)
      | .key (.ack l up g) => some (.ack l up g)
      | _ => none with
  | some (.ackBoth l d, s1) =>
    if (s1.link l).start.isNone || (s1.link l).opened then .next s1
    else
      let s2 := s1.modLink l fun x => { x with acks := setAdd x.acks d }
      if (s2.link l).acks.length < 2 then .next s2
      else .next ((s2.arrive (.key (.linkOpen l (linkEnds l).1))).arrive (.key (.linkOpen l (linkEnds l).2)))
  | some (.ack l up g, s1) => match ((s1.link l).dir up).roll with
    | none => .next s1
    | some r =>
      if r.switched.isSome || g ≠ ((s1.link l).dir up).gen + 1 then .next s1
      else
      let s2 := (s1.modDir l up fun x => { x with roll := some { r with switched := some s.core.cycle } }).after keyCycles .keyRetiredTimeout
      .next (s2.arrive (.key (.switch l up g r.key)))
  | some (_, s1) => .next s1
  | none => .next s

/-- LINK_OPEN (R446): from it on an end sends flits, from sequence number 0. -/
def execLinkOpen (s : State) : Result :=
  match s.take fun a => match a with | .key (.linkOpen l d) => some (l, d) | _ => none with
  | none => .next s
  | some ((l, d), s1) =>
    if (s1.link l).acks.length < 2 then .next s1
    else
      let s2 := s1.modLink l fun x => { x with ready := setAdd x.ready d }
      if (s2.link l).ready.length < 2 then .next s2
      else
        let fresh (x : LinkDir) : LinkDir := { x with seq := 0, want := 0, sent := 0, last := s.core.cycle }
        .next ((s2.modLink l fun x => { x with opened := true, start := none, up := fresh x.up, down := fresh x.down }).openDies)

/-- KEY_SWITCH (R453): flits built from now on carry the new generation; those in the replay buffer keep theirs. -/
def execKeySwitch (s : State) : Result :=
  match s.take fun a => match a with | .key (.switch l up g k) => some (l, up, g, k) | _ => none with
  | none => .next s
  | some ((l, up, g, k), s1) =>
    let d := (s1.link l).dir up
    if !(s1.link l).opened || g ≠ d.gen + 1 || !(d.roll.any fun r => r.key == k && r.switched.isSome) then .next s1
    else .next (s1.modDir l up fun x => { x with txKeys := x.txKeys ++ [(g, k)], gen := g, sent := 0 })

/-- KEY_RETIRED (R453, R459): the sender destroys the old key, and the rollover is over. -/
def execKeyRetired (s : State) : Result :=
  match s.take fun a => match a with
      | .key (.retired l up g) => some (KeyMsg.retired l up g)
      | .key (.participantRetired e i g) => some (.participantRetired e i g)
      | _ => none with
  | some (.retired l up g, s1) => .next (s1.modDir l up fun x => { x with txKeys := x.txKeys.filter fun k => k.1 != g, roll := none })
  | some (.participantRetired e i g, s1) =>
    .next (s1.modPkg fun p => { p with enclaves := p.enclaves.map fun x => if x.num = e then { x with parts := x.parts.map fun y =>
      if y.index = i then { y with keys := y.keys.filter fun k => k.1 != g } else y } else x })
  | some (_, s1) => .next s1
  | none => .next s

/-- Links and directions. -/
def allDirs : List (Nat × Bool) := (List.range 26).flatMap fun l => [(l, true), (l, false)]

/-- 1 ms has passed since a cycle. -/
def State.late (s : State) (t : BitVec 64) : Bool := decide (keyCycles ≤ (s.core.cycle - t).toNat)

/-- The dies at the ends of a link being keyed that have not acknowledged (R448). -/
def State.silentEnds (s : State) (l : Nat) : List Nat :=
  [(linkEnds l).1, (linkEnds l).2].filter fun d => d != ioDie && !(s.link l).acks.contains d

/-- KEY_ACK_TIMEOUT (R448, R453): the receiver of a rollover, or ends of a link being keyed, have not acknowledged: reason 11. -/
def execKeyAckTimeout (s : State) : Result :=
  let rolled := allDirs.find? fun x => match ((s.link x.1).dir x.2).roll with
    | some r => r.switched.isNone && s.late r.start
    | none => false
  let keyed := (List.range 26).find? fun l => (match (s.link l).start with | some t => s.late t | none => false) && decide ((s.link l).acks.length < 2)
  match rolled, keyed with
  | some (l, up), _ => .next ((s.closeLink l).quarantine (receiver l up) 11)
  | none, some l => .next ((s.silentEnds l).foldl (fun s d => s.quarantine d 11) (s.closeLink l))
  | none, none => .next s

/-- KEY_RETIRED_TIMEOUT (R453): the sender is quarantined, reason 11. -/
def execKeyRetiredTimeout (s : State) : Result :=
  match allDirs.find? fun x => match ((s.link x.1).dir x.2).roll with
      | some r => (match r.switched with | some t => s.late t | none => false)
      | none => false with
  | none => .next s
  | some (l, up) => .next ((s.closeLink l).quarantine (sender l up) 11)

/-- ROLLOVER_TRIGGER (R452): a direction that has sent ROLLINT flits, or 2^40, under one generation, and has no rollover in progress. -/
def execRolloverTrigger (s : State) : Result :=
  match allDirs.find? fun x => (s.link x.1).opened && ((s.link x.1).dir x.2).roll.isNone &&
      decide (min (2 ^ s.pkg.rollint) (2 ^ 40) ≤ ((s.link x.1).dir x.2).sent) with
  | none => .next s
  | some (l, up) =>
    let k := s.pkg.draws
    let s1 := ((s.draw 1).modDir l up fun x => { x with roll := some { key := k, start := s.core.cycle, switched := none } }).after keyCycles .keyAckTimeout
    .next (s1.arrive (.key (.install l up (((s.link l).dir up).gen + 1) k)))

/-- GENERATION_LIMIT (R452): 2^44 flits under one generation close the link as a failed one. -/
def execGenerationLimit (s : State) : Result :=
  match allDirs.find? fun x => (s.link x.1).opened && decide (2 ^ 44 ≤ ((s.link x.1).dir x.2).sent) with
  | none => .next s
  | some (l, _) => .next (s.failLink l)

/-! ### Flits (R427, R428, R453) -/

/-- IDLE_FLIT (R453): the first direction that has carried nothing for 256 cycles. -/
def execIdleFlit (s : State) : Result :=
  match allDirs.find? fun x => (s.link x.1).opened && decide (256 ≤ (s.core.cycle - ((s.link x.1).dir x.2).last).toNat) with
  | none => .next s
  | some (l, up) => .next (s.sendFlit l up [])

/-- The key generation that a receiver reads from a flit's bit 31 (R453). -/
def LinkDir.genOf (x : LinkDir) (parity : Bool) : Option Nat := (x.rxKeys.find? fun k => (k.1 % 2 == 1) == parity).map (·.1)

/-- Discard a flit that failed and ask for the one that is due again; the eighth failure in a row of that one fails the link (R428). -/
def State.badFlit (s : State) (l : Nat) (up : Bool) (q : Nat) : State :=
  let s1 := (s.modDir l up fun x => if q = x.want then { x with fails := x.fails + 1 } else x).modPkg fun p => { p with linkErrors := p.linkErrors + 1 }
  let d := (s1.link l).dir up
  if 8 ≤ d.fails then s1.failLink l else s1.arrive (.replay l up d.want)

/-- Deliver the flit that is due with its packets; the first of a new generation retires the old key (R428, R453). -/
def State.deliverFlit (s : State) (l : Nat) (up : Bool) (g : Nat) (payload : List Piece) : State :=
  let old := ((s.link l).dir up).rxKeys.filter fun k => decide (k.1 < g)
  let s1 := s.modDir l up fun x => { x with want := x.want + 1, fails := 0, rxKeys := x.rxKeys.filter fun k => !decide (k.1 < g) }
  old.foldl (fun s k => s.arrive (.key (.retired l up k.1))) (s1.takePieces l up payload)

/-- FLIT_RECEIVE (R427, R428, R453): delivered in sequence order, or discarded. -/
def execFlitReceive (s : State) : Result :=
  match s.take fun a => match a with | .flit l up h ok ps => some (l, up, h, ok, ps) | _ => none with
  | none => .next s
  | some ((l, up, h, ok, ps), s1) =>
    let d := (s1.link l).dir up
    let q := seqNear d.want h
    if !(s1.link l).opened then .next s1
    else match d.genOf (h.getLsbD 31) with
      | none => .next (s1.badFlit l up q)
      | some g => if !ok then .next (s1.badFlit l up q) else if q ≠ d.want then .next s1 else .next (s1.deliverFlit l up g ps)

/-- REPLAY_REQUEST (R428, R453): the replay buffer from a sequence number on, each flit under its own generation. -/
def execReplayRequest (s : State) : Result :=
  match s.take fun a => match a with | .replay l up q => some (l, up, q) | _ => none with
  | none => .next s
  | some ((l, up, q), s1) =>
    if !(s1.link l).opened then .next s1
    else .next ((((s1.link l).dir up).replay.filter fun f => decide (q ≤ f.seq)).foldl (fun s f => s.arrive (.flit l up (flitHead f.seq f.gen) true f.payload)) s1)

/-! ### Lost links, lone resets, Damilaril (R448 to R450) -/

/-- LINK_DOWN (R428, R448, R450): a link loses its training. -/
def execLinkDown (s : State) : Result :=
  match s.take fun a => match a with | .linkDown l => some l | _ => none with
  | none => .next s
  | some (l, s1) => .next (s1.failLink l)

/-- ACTL_RESET (R449): the die's reset controller is asked to reset it alone. -/
def execActlReset (s : State) : Result :=
  match s.take fun a => match a with | .actl d true again => some (d, again) | _ => none with
  | none => .next s
  | some ((d, again), s1) =>
    let s2 := (s1.arrive (.loneReset d)).post .loneReset
    .next (if again then s2.arrive (.actl d false true) else s2)

/-- ACTL_REATTEST (R448, R449): a fresh flow for a quarantined die; in any other state discarded. -/
def execActlReattest (s : State) : Result :=
  match s.take fun a => match a with | .actl d false true => some d | _ => none with
  | none => .next s
  | some (d, s1) =>
    if (s1.dieRec d).state != .quarantined then .next s1
    else .next (s1.attestAgain d)

end Sys2Proof.Machine
end

