-- ==== Sys2Proof/Machine/Tenants.lean ====
section
/-!
DEFINITION. The host's attestation, tenants and their grants, enclaves, the start table, recovery, power, and the scale-up ports (R439, R454 to R461, R464, R471 to R473).
-/

namespace Sys2Proof.Machine

open Sys2Proof

/-! ### The host's SPDM requests and the TDISP states (R454 to R456) -/

/-- The I/O die's chain, whose SHA-512 hash is its digest (R442). -/
def State.hostChain (s : State) : List Byte := ((s.pkg.engines[ioDie]?).map fun e => e.cert.chain.flatten).getD []

/-- What the Assayer answers as the responder for the I/O die, with the algorithms of R445 (R454): its capabilities are those it asks of a die (log entry 10). -/
def State.answerHost (s : State) : SpdmRequest → SpdmAnswer
  | .getVersion => .version [0x13]
  | .getCapabilities _ _ _ _ _ _ _ => .capabilities true true true true true true true
  | .negotiate a b c d e f g =>
    if a = .ed25519 ∧ b = .ed25519 ∧ c = .sha512 ∧ d = .p384 ∧ e = .aes256gcm ∧ f = .sha512 ∧ g = .spdmSchedule then .algorithms a b c d e f g else .error
  | .getDigests => .digests true (sha512 s.hostChain)
  | .getCertificate slot o n => if slot = 0 then .certificate ((s.hostChain.drop o).take n) (s.hostChain.length - (o + n)) else .error
  | .challenge slot _ => if slot = 0 then .challengeAuth else .error
  | .getMeasurements _ _ => .measurements s.pkg.measured ((List.range 18).map fun d => if (s.dieRec d).state == .quarantined then 0 else (s.dieRec d).summary)
  | .keyExchange dhe _ => if dhe = .p384 then .keyExchangeRsp else .error
  | .finish _ => .finishRsp

/-- HOST_SPDM_REQUEST (R454). -/
def execHostSpdmRequest (s : State) : Result :=
  match s.take fun a => match a with | .hostSpdm r => some r | _ => none with
  | none => .next s
  | some (r, s1) => .next (s1.emit (.hostSpdm (s1.answerHost r)))

/-- The running work orders of a tenant. -/
def State.tenantOrders (s : State) (t : BitVec 6) : List WorkOrder :=
  s.pkg.orders.filter fun w => w.tenant == t && w.closing.isNone && w.crews.any fun c => !(c.stage == .waiting)

/-- LOCK_INTERFACE_REQUEST (R456, R457): from CONFIG_UNLOCKED; a confidential tenant registers its key. -/
def execLockInterfaceRequest (s : State) : Result :=
  match s.take fun a => match a with | .lock t k => some (t, k) | _ => none with
  | none => .next s
  | some ((t, k), s1) =>
    .next (if (s1.tenant t).state == .unlocked then s1.modTenant t fun x => { x with state := .locked, key := k } else s1)

/-- GET_DEVICE_INTERFACE_REPORT (R456): queues, vectors and doorbells of a tenant whose interface is in CONFIG_LOCKED. -/
def execGetDeviceInterfaceReport (s : State) : Result :=
  match s.take fun a => match a with | .getReport t => some t | _ => none with
  | none => .next s
  | some (t, s1) =>
    let qs := (List.range 4096).filter fun q => (s1.queue q).tenant == t
    .next (if (s1.tenant t).state == .locked
      then s1.emit (.interfaceReport t qs (32 * t.toNat, 32 * t.toNat + 31) (qs.map fun q => 0x100000 + 64 * q + 0x18)) else s1)

/-- START_INTERFACE_REQUEST (R456). -/
def execStartInterfaceRequest (s : State) : Result :=
  match s.take fun a => match a with | .startInterface t => some t | _ => none with
  | none => .next s
  | some (t, s1) => .next (if (s1.tenant t).state == .locked then s1.modTenant t fun x => { x with state := .run } else s1)

/-- STOP_INTERFACE_REQUEST (R456, R470): the tenant's running work orders end FAULTED. -/
def execStopInterfaceRequest (s : State) : Result :=
  match s.take fun a => match a with | .stopInterface t => some t | _ => none with
  | none => .next s
  | some (t, s1) => .next ((endOrders (s1.tenantOrders t) s1).modTenant t fun x => { x with state := .unlocked, key := none })

/-- The groups that a tenant's residencies own on this core are cleared (R390, R456). -/
def State.clearGroups (s : State) (t : BitVec 6) : State :=
  let own (f : Res → Bool) : Bool := (List.finRange 4).any fun k => (s.res.get k).tenant == t && f (s.res.get k)
  let s1 := if own (·.accOwn) then s.modCore fun c => { c.clearAcc with accTenant := none } else s
  if own (·.tileOwn) then s1.modCore fun c => { c.clearTiles with tileTenant := none } else s1

/-- TDISP_ERROR (R456, R470). -/
def execTdispError (s : State) : Result :=
  match s.take fun a => match a with | .tdispFault t => some t | _ => none with
  | none => .next s
  | some (t, s1) =>
    if (s1.tenant t).state == .unlocked then .next s1
    else .next ((endOrders ((s1.clearGroups t).tenantOrders t) (s1.clearGroups t)).modTenant t fun x => { x with state := .error })

/-! ### Grants (R400, R457) -/

/-- The windows of which a table has a valid entry. -/
def openWindows (es : Vector Extent 16) : List Nat := (es.toList.filterMap fun e => if e.a.getLsbD 3 then some (field e.a 4 2) else none).eraseDups

/-- The member of a crew that is loaded on this core. -/
def State.memberHere (s : State) (order : Nat) (crew : BitVec 16) (core : Nat) : Option ResNo :=
  (List.finRange 4).find? fun k =>
    let r := s.res.get k
    r.phase == .placed && r.order == order && r.crew == crew && Rank.core r.rank == core

/-- A grant that is refused changes nothing, and Damilaril counts it (R457). -/
def State.refuseGrant (s : State) : State := s.modPkg fun p => { p with grantsRefused := p.grantsRefused + 1 }

/-- A member's start stores are in: its extents and CAPKEY, the windows its work order opens, the acknowledgement (R400). -/
def State.takeGrant (s : State) (o : Nat) (c : BitVec 16) (m : Nat) (es : Vector Extent 16) (k : BitVec 128) : State :=
  let s1 := match s.memberHere o c m with
    | some j => s.modRes j fun r => { r with extents := es, extentsPending := es, capkey := k }
    | none => s
  (s1.modOrder o fun x => { x with windows := (x.windows ++ openWindows es).eraseDups }).modCrew o c.toNat fun x => { x with acked := setAdd x.acked m }

/-- A member of a reserved crew waits for its start stores. -/
def WorkOrder.stages (w : WorkOrder) (c : BitVec 16) (m : Nat) : Bool :=
  match w.crews[c.toNat]? with | some x => x.stage == .reserved && x.slots.any fun p => p.logical == m | none => false

/-- EXTENT_GRANT (R400, R451, R455, R457): extents and CAPKEY come with the start of a member; a confidential tenant's only under a grant that the Assayer has verified. A work order whose extents open a window onto a quarantined die ends FAULTED. -/
def execExtentGrant (s : State) : Result :=
  match s.take fun a => match a with | .grant o c m es k ok st => some (o, c, m, es, k, ok, st) | _ => none with
  | none => .next s
  | some ((o, c, m, es, k, ok, st), s1) => match s1.order o with
    | none => .next s1.refuseGrant
    | some w =>
      if !s1.streamGood w.tenant st then .next (s1.discard w.tenant)
      else if !w.stages c m || ((s1.tenant w.tenant).confidential && !ok) then .next s1.refuseGrant
      else
        let s2 := s1.takeGrant o c m es k
        .next (endOrders (((s2.order o).filter s2.doomed).toList) s2)

/-! ### Enclaves (R458 to R460) -/

/-- How many of a participant's quorum keys have signed (R458). -/
def signaturesOf (l : List (Nat × Nat)) (p : Participant) : Nat :=
  ((l.filter fun x => x.1 == p.index && decide (x.2 < p.quorum.length)).map (·.2)).eraseDups.length

/-- Every participant but one has signed with its quorum (R458, R460). -/
def Enclave.signed (e : Enclave) (l : List (Nat × Nat)) (but : Option Nat) : Bool :=
  e.parts.all fun p => some p.index == but || decide (e.threshold ≤ signaturesOf l p)

/-- Packages of an enclave. -/
def Enclave.pkgs (e : Enclave) : List Nat := e.parts.flatMap (·.pkgs)

/-- Begin the flow of R445 with each peer package (R458). -/
def attestPeers : List Nat → State → State
  | [], s => s
  | p :: t, s => attestPeers t (if p = s.srv.pkg then s else s.askStep ⟨.package p, 1, 0, 0, false, 0, 0, 0⟩ 1)

/-- The participant key that this package draws, where it is its participant's lowest-numbered (R459). -/
def Enclave.drawn (e : Enclave) (pkg key : Nat) : Enclave :=
  { e with parts := e.parts.map fun p => if p.index = e.own ∧ p.pkgs.min? = some pkg then { p with keys := [(0, key)] } else { p with keys := [] } }

/-- ENCLAVE_MANIFEST (R440, R458, R459): accepted with k valid signatures of every participant, of indices 0 to 63, in at most 4 enclaves. -/
def execEnclaveManifest (s : State) : Result :=
  match s.take fun a => match a with | .manifest e l r => some (e, l, r) | _ => none with
  | none => .next s
  | some ((e, l, r), s1) =>
    if !e.signed l none || (e.parts.any fun p => decide (63 < p.index)) || !e.pkgs.contains s1.srv.pkg || decide (4 ≤ s1.pkg.enclaves.length) || s1.pkg.enclaves.any fun x => x.num == e.num then .next s1
    else
      let k := s1.pkg.draws
      let s2 := (s1.draw 1).modPkg fun p => { p with enclaves := p.enclaves ++ [{ (e.drawn s1.srv.pkg k) with members := [], revoked := [] }] }
      let s3 := { s2 with srv := { s2.srv with admits := (s2.srv.admits ++ r).eraseDups } }
      .next (attestPeers e.pkgs s3)

/-- Requests and sends towards a package are answered PEER_DEAD, and each residency's Postmaster takes it for dead (R329, R392, R460). -/
def State.cutPackage (s : State) (p : Nat) : State :=
  let s1 := failReqs false (s.core.reqs.filter fun q => q.pkg == p || q.dpkg == p) s
  let s2 := failSends false (s1.core.sends.filter fun q => Rank.pkg q.msg.dst == p) s1
  (List.finRange 4).foldl (fun s k => if (s.res.get k).phase.alive then s.packageDead k p else s) s2

/-- Forward a statement to the other members (R460). -/
def forwardRevocation (e i n : Nat) : List Nat → State → State
  | [], s => s
  | p :: t, s => forwardRevocation e i n t (if p = s.srv.pkg then s else s.emit (.revoke p e i n))

/-- REVOCATION_STATEMENT (R460): a stale epoch or a bad signature discards it. -/
def execRevocationStatement (s : State) : Result :=
  match s.take fun a => match a with | .revocation e i n l => some (e, i, n, l) | _ => none with
  | none => .next s
  | some ((e, i, n, l), s1) => match s1.pkg.enclaves.find? fun x => x.num == e with
    | none => .next s1
    | some x =>
      if n ≤ x.epoch || !x.signed l (some i) || !x.parts.any fun p => p.index == i then .next s1
      else
        let y := { x with epoch := n, revoked := setAdd x.revoked i, parts := x.parts.map fun p => if p.index = i then { p with keys := [] } else p }
        let s2 := s1.modPkg fun p => { p with enclaves := p.enclaves.map fun z => if z.num = e then y else z }
        let gone := (x.parts.filter fun p => p.index == i).flatMap (·.pkgs)
        .next ((gone.filter (· != s.srv.pkg)).foldl State.cutPackage (forwardRevocation e i n x.pkgs s2))

/-! ### Limits and temperature (R416, R461, R472) -/

/-- The die of the core under view. -/
def State.ownDie (s : State) : Nat := s.pkg.self / 144

/-- The leave limit in force on the die under view: 1 while the die is too hot (R472). -/
def State.applyLimits (s : State) : State :=
  let n := if (s.pkg.hot[s.ownDie]?).getD false then 1 else (s.pkg.limits[s.ownDie]?).getD 144
  { s with die := { s.die with dieLimit := n } }

/-- A limit between 1 and its cap: a value above is clamped (R461); what a limit below 1 becomes the spec does not state (log entry 8). -/
def State.clampLimit (s : State) (v cap : Nat) : Nat := if v = 0 then 1 + (Config.freeValue s.env.free).toNat % cap else min v cap

/-- LIMIT_WRITE (R416, R461, R472). -/
def execLimitWrite (s : State) : Result :=
  match s.take fun a => match a with | .limit w d v => some (w, d, v) | _ => none with
  | none => .next s
  | some ((w, d, v), s0) =>
    let s1 := s0.modEnv fun e => { e with free := e.free + 1 }
    if w = 0 then .next (s1.modPkg fun p => { p with power := min v 2000 })
    else if w = 1 then .next ((s1.modPkg fun p => { p with limits := p.limits.mapFinIdx fun i x _ => if i = d then s0.clampLimit v 144 else x }).applyLimits)
    else .next { s1 with die := { s1.die with clusterLimit := s0.clampLimit v 4 } }

/-- Mark a core die hot or not. -/
def State.setHot (s : State) (d : Nat) (b : Bool) : State :=
  (s.modPkg fun p => { p with hot := p.hot.mapFinIdx fun i x _ => if i = d then b else x }).applyLimits

/-- JUNCTION_OVERHEAT (R472): above 105 °C. -/
def execJunctionOverheat (s : State) : Result :=
  match s.take fun a => match a with | .junction d t => if 105 < t ∧ t ≤ 115 then some d else none | _ => none with
  | none => .next s
  | some (d, s1) => .next (s1.setHot d true)

/-- JUNCTION_COOLED (R472): below 100 °C. -/
def execJunctionCooled (s : State) : Result :=
  match s.take fun a => match a with | .junction d t => if t < 100 then some d else none | _ => none with
  | none => .next s
  | some (d, s1) => .next (s1.setHot d false)

/-- THERMAL_SHUTDOWN (R472): above 115 °C the package turns itself off. -/
def execThermalShutdown (s : State) : Result :=
  match s.take fun a => match a with | .junction d t => if 115 < t then some d else none | _ => none with
  | none => .next s
  | some (_, s1) => .next (s1.modPkg fun p => { p with off := true })

/-! ### Ports (R439) -/

/-- PORT_FAILURE (R439): the contexts pinned to the port move. -/
def execPortFailure (s : State) : Result :=
  match s.take fun a => match a with | .portFail p => some p | _ => none with
  | none => .next s
  | some (n, s1) => .next ((s1.modPkg fun p => { p with ports := p.ports.mapFinIdx fun i x _ => if i = n then false else x }).repin)

/-! ### Start, recovery (R464, R471, R473) -/

/-- The package at the beginning of a start: what no reset clears is the count of draws, the fused seeds, the cached digests of a warm start, and what has yet to arrive; the I/O die's engine derives its keys (R7, R441). -/
def Package.restart (p : Package) (warm : Bool) : Package :=
  { Package.reset with
    self := p.self
    inbox := p.inbox
    step := 1
    warm := warm
    draws := p.draws
    sinceSeed := p.sinceSeed
    reseeds := p.reseeds
    engines := p.engines.mapFinIdx fun i e _ => if i = ioDie then e.derive else { e with keys := none }
    dies := if warm then p.dies.map fun d => { DieRec.reset with digest := d.digest } else Package.reset.dies }

/-- The machine at the beginning of a start: every unit at its reset value, the cycle counter too (R7); memories keep their bytes until the steps that clear them (R471). -/
def State.restart (s : State) (warm : Bool) : State :=
  { State.reset with
    core := { CoreSt.reset with mem := s.core.mem, full := s.core.full, fmt := s.core.fmt, blg := s.core.blg, bad := s.core.bad }
    srv := { Servers.reset with mem := s.srv.mem, bad := s.srv.bad, pkg := s.srv.pkg }
    pkg := s.pkg.restart warm
    env := { Env.reset with out := s.env.out, free := s.env.free, turns := s.env.turns } }

/-- LONE_RESET (R448 to R450): a die that resets alone is quarantined, reason 10; the I/O die's reset is the package's, warm where the retained state is intact, which nothing here tells (log entry 8). -/
def execLoneReset (s : State) : Result :=
  match s.take fun a => match a with | .loneReset d => some d | _ => none with
  | none => .next s
  | some (d, s1) =>
    if d = ioDie then
      .next (if s1.pkg.off then s1 else (s1.modEnv fun e => { e with free := e.free + 1 }).restart ((Config.freeValue s1.env.free).getLsbD 0))
    else .next (if (s1.dieRec d).state == .reset then s1 else s1.quarantine d 10)

/-- PACKAGE_RESET (R471): power-on, or an I/O die reset whose retained state fails its check, is a cold start; any other a warm start. -/
def execPackageReset (s : State) : Result :=
  match s.take fun a => match a with | .packageReset pw ok => some (pw, ok) | _ => none with
  | none => .next s
  | some ((pw, ok), s1) =>
    if s1.pkg.off && !pw then .next s1 else .next (s1.restart (!pw && ok && !s1.pkg.off))

/-- RECOVERY_COMMIT (R473): in recovery mode an image that passes its check is written, and a cold start follows; any other is discarded. -/
def execRecoveryCommit (s : State) : Result :=
  match s.take fun a => match a with | .commit ok => some ok | _ => none with
  | none => .next s
  | some (ok, s1) => .next (if s1.pkg.recovery && ok then s1.restart false else s1)

/-- The step after step n: a warm start skips 3, 5 and 8 (R471). -/
def tableNext (warm : Bool) (n : Nat) : Nat := if warm ∧ (n = 2 ∨ n = 4 ∨ n = 7) then n + 2 else n + 1

/-- Quarantine a list of dies for a failed step of the start table, for which the spec gives no reason code (log entry 8). -/
def quarantineAll : List Nat → State → State
  | [], s => s
  | d :: t, s => quarantineAll t ((s.modEnv fun e => { e with free := e.free + 1 }).quarantine d ((Config.freeValue s.env.free).extractLsb' 0 8))

/-- Links that fail to train: the die charged under R428 is quarantined (R471). -/
def failTraining : List Nat → State → State
  | [], s => s
  | l :: t, s => failTraining t ((s.closeLink l).quarantine (chargedDie l) 9)

/-- The attestation of step 6 is over: no die waits for a flow that a path allows, or is in one. -/
def State.attestOver (s : State) : Bool :=
  (List.range 18).all fun d => (s.dieRec d).state != .attesting && (s.dieRec d).state != .reset && !((s.dieRec d).state == .closed && s.hasPath d)

/-- The links of step 7 are open. -/
def State.linksOver (s : State) : Bool := (List.range 18).all fun d => (s.dieRec d).state != .keying

/-- The start table goes on; when attestation begins the I/O die, which holds the Assayer, counts as OPEN (R448; DESIGN CHOICE, log entry 70). -/
def State.toStep (s : State) (n : Nat) : State :=
  let s1 := s.modPkg fun p => { p with step := BitVec.ofNat 4 n }
  if n = 6 then s1.modDie ioDie fun x => { x with state := .opened } else s1

/-- What the end of a step of the start table does (R464, R471). -/
def State.endStep (s : State) (n : Nat) (failed : List Nat) (image manifest : Bool) (measured : List Nat) (accepted : List RefEntry) : State :=
  let go (s : State) : State := s.toStep (tableNext s.pkg.warm n)
  if n = 1 then (if failed.isEmpty then go s else s)
  else if n = 4 then
    -- without a valid manifest every die stays unattested, and the package in cold start (R443)
    let s1 := s.modPkg fun p => { p with measured := measured, manifestOk := image && manifest, accepted := accepted }
    (if !image then s1.modPkg fun p => { p with recovery := true } else if manifest then go s1 else s1)
  else if n = 5 then go (failTraining failed s)
  else if n = 6 then (if s.attestOver then go s else s)
  else if n = 7 then (if s.linksOver then go s else s)
  else if n = 9 then
    let base := serverKey s.srv.pkg 0
    let s1 := { s with srv := { s.srv with mem := memZero s.srv.mem base (base + 2 ^ 41), bad := s.srv.bad.filter fun a => a < base || base + 2 ^ 41 ≤ a } }
    go (quarantineAll failed s1)
  else if n = 10 then
    go (quarantineAll failed (s.modCore fun c =>
      { c with mem := [], full := [], bad := [], accTenant := none, tileTenant := none, fmt := Vector.replicate 16 0, blg := Vector.replicate 16 0 }))
  else if n = 11 then s.modPkg fun p => { p with queues := [], counters := [], orders := [], ends := [], lastLaunch := none, launching := [], step := 15, ready := true }
  else go (quarantineAll failed s)

/-- START_TABLE_STEP_END (R471). -/
def execStartTableStepEnd (s : State) : Result :=
  match s.take fun a => match a with | .stepEnd l i m ms es => some (l, i, m, ms, es) | _ => none with
  | none => .next s
  | some ((l, i, m, ms, es), s1) =>
    if s1.pkg.step.toNat = 0 ∨ 11 < s1.pkg.step.toNat ∨ s1.pkg.recovery ∨ s1.pkg.off then .next s1
    else .next (s1.endStep s1.pkg.step.toNat l i m ms es)

end Sys2Proof.Machine
end

