-- ==== Sys2Proof/Machine/Dispatch.lean ====
section
/-!
DEFINITION. One arm for each instruction and event: a direct call of its meaning.
-/

namespace Sys2Proof.Machine

open Sys2Proof

def exec (i : Instr) (s : State) : Host.Outcome State Fault Refusal :=
  match i with
  | .nop h => Sys2Proof.Machine.execNop h s
  | .br h o => Sys2Proof.Machine.execBr h o s
  | .bri h a i1 => Sys2Proof.Machine.execBri h a i1 s
  | .call h o => Sys2Proof.Machine.execCall h o s
  | .calli h a i1 => Sys2Proof.Machine.execCalli h a i1 s
  | .ret h a => Sys2Proof.Machine.execRet h a s
  | .jtab h a b len => Sys2Proof.Machine.execJtab h a b len s
  | .loop h k cnt => Sys2Proof.Machine.execLoop h k cnt s
  | .loopx h o => Sys2Proof.Machine.execLoopx h o s
  | .waitFull h a => Sys2Proof.Machine.execWaitFull h a s
  | .waitEmpty h a => Sys2Proof.Machine.execWaitEmpty h a s
  | .waitFtime h a f => Sys2Proof.Machine.execWaitFtime h a f s
  | .waitErrq h => Sys2Proof.Machine.execWaitErrq h s
  | .waitCyc h a => Sys2Proof.Machine.execWaitCyc h a s
  | .waitHelpers h a => Sys2Proof.Machine.execWaitHelpers h a s
  | .waitLimit h a t k lim => Sys2Proof.Machine.execWaitLimit h a t k lim s
  | .waitch h a c => Sys2Proof.Machine.execWaitch h a c s
  | .waitmb h m => Sys2Proof.Machine.execWaitmb h m s
  | .start h a k => Sys2Proof.Machine.execStart h a k s
  | .hend h => Sys2Proof.Machine.execHend h s
  | .couple h w => Sys2Proof.Machine.execCouple h w s
  | .uncouple h => Sys2Proof.Machine.execUncouple h s
  | .bell h k => Sys2Proof.Machine.execBell h k s
  | .bellD h k => Sys2Proof.Machine.execBellD h k s
  | .bellX h k d => Sys2Proof.Machine.execBellX h k d s
  | .exch h => Sys2Proof.Machine.execExch h s
  | .exchend h => Sys2Proof.Machine.execExchend h s
  | .round h => Sys2Proof.Machine.execRound h s
  | .yield h => Sys2Proof.Machine.execYield h s
  | .halt h => Sys2Proof.Machine.execHalt h s
  | .ld h a b z k o => Sys2Proof.Machine.execLd h a b z k o s
  | .ldExt h a b z k off => Sys2Proof.Machine.execLdExt h a b z k off s
  | .st h a b z o => Sys2Proof.Machine.execSt h a b z o s
  | .stExt h a b z off => Sys2Proof.Machine.execStExt h a b z off s
  | .ldp h a b o => Sys2Proof.Machine.execLdp h a b o s
  | .ldpExt h a b off => Sys2Proof.Machine.execLdpExt h a b off s
  | .stp h a b o => Sys2Proof.Machine.execStp h a b o s
  | .stpExt h a b off => Sys2Proof.Machine.execStpExt h a b off s
  | .ldfe h a b o => Sys2Proof.Machine.execLdfe h a b o s
  | .ldfeExt h a b off => Sys2Proof.Machine.execLdfeExt h a b off s
  | .ldff h a b o => Sys2Proof.Machine.execLdff h a b o s
  | .ldffExt h a b off => Sys2Proof.Machine.execLdffExt h a b off s
  | .stfe h a b o => Sys2Proof.Machine.execStfe h a b o s
  | .stfeExt h a b off => Sys2Proof.Machine.execStfeExt h a b off s
  | .stf h a b o => Sys2Proof.Machine.execStf h a b o s
  | .stfExt h a b off => Sys2Proof.Machine.execStfExt h a b off s
  | .lat h a b c x w op => Sys2Proof.Machine.execLat h a b c x w op s
  | .tld h a t ch need hnd he stride => Sys2Proof.Machine.execTld h a t ch need hnd he stride s
  | .tst h a t ch need hnd he stride => Sys2Proof.Machine.execTst h a t ch need hnd he stride s
  | .accrd h t d v r => Sys2Proof.Machine.execAccrd h t d v r s
  | .accwr h d t => Sys2Proof.Machine.execAccwr h d t s
  | .accwrAdd h d t => Sys2Proof.Machine.execAccwrAdd h d t s
  | .xld h a b c x ch len => Sys2Proof.Machine.execXld h a b c x ch len s
  | .xst h a b c x ch len => Sys2Proof.Machine.execXst h a b c x ch len s
  | .xat h a b c x pk w op => Sys2Proof.Machine.execXat h a b c x pk w op s
  | .xatr h a b c x pk w op => Sys2Proof.Machine.execXatr h a b c x pk w op s
  | .cpy h a b c x aw nest ne ch => Sys2Proof.Machine.execCpy h a b c x aw nest ne ch s
  | .cpyd h a b c x core mb me dt nest ne ch => Sys2Proof.Machine.execCpyd h a b c x core mb me dt nest ne ch s
  | .ndld h a k => Sys2Proof.Machine.execNdld h a k s
  | .fenceAcq h k => Sys2Proof.Machine.execFenceAcq h k s
  | .fenceRel h k => Sys2Proof.Machine.execFenceRel h k s
  | .fenceFull h k => Sys2Proof.Machine.execFenceFull h k s
  | .fenceExt h => Sys2Proof.Machine.execFenceExt h s
  | .mma h k a b r => Sys2Proof.Machine.execMma h k a b r s
  | .mmaX h k a b r => Sys2Proof.Machine.execMmaX h k a b r s
  | .mmar h a b c x k ta tb v r => Sys2Proof.Machine.execMmar h a b c x k ta tb v r s
  | .accz h k => Sys2Proof.Machine.execAccz h k s
  | .accxSend h a k tag => Sys2Proof.Machine.execAccxSend h a k tag s
  | .accxOpen h a k tag => Sys2Proof.Machine.execAccxOpen h a k tag s
  | .accxClose h k r => Sys2Proof.Machine.execAccxClose h k r s
  | .send h a b c x tag => Sys2Proof.Machine.execSend h a b c x tag s
  | .sendp h a b c x fin tag => Sys2Proof.Machine.execSendp h a b c x fin tag s
  | .sendx h a b c x tag => Sys2Proof.Machine.execSendx h a b c x tag s
  | .recv h a b c x tag => Sys2Proof.Machine.execRecv h a b c x tag s
  | .probe h a b c x tag => Sys2Proof.Machine.execProbe h a b c x tag s
  | .cancel h a b => Sys2Proof.Machine.execCancel h a b s
  | .mcast h a b c x mb tag => Sys2Proof.Machine.execMcast h a b c x mb tag s
  | .free h a b => Sys2Proof.Machine.execFree h a b s
  | .ringCw h a b => Sys2Proof.Machine.execRingCw h a b s
  | .ringCcw h a b => Sys2Proof.Machine.execRingCcw h a b s
  | .xsnd h a t flits cyc => Sys2Proof.Machine.execXsnd h a t flits cyc s
  | .xrcv h a t flits cyc => Sys2Proof.Machine.execXrcv h a t flits cyc s
  | .exchFlit peer cycle data => Sys2Proof.Machine.execExchFlit peer cycle data s
  | .expect h a m => Sys2Proof.Machine.execExpect h a m s
  | .mbadd h a m => Sys2Proof.Machine.execMbadd h a m s
  | .hset h a t cnt size => Sys2Proof.Machine.execHset h a t cnt size s
  | .hwaitProd h hn q => Sys2Proof.Machine.execHwaitProd h hn q s
  | .hwaitCons h hn q => Sys2Proof.Machine.execHwaitCons h hn q s
  | .hadvProd h hn q => Sys2Proof.Machine.execHadvProd h hn q s
  | .hadvCons h hn q => Sys2Proof.Machine.execHadvCons h hn q s
  | .field h a f k => Sys2Proof.Machine.execField h a f k s
  | .evsend h a b c x fld col row => Sys2Proof.Machine.execEvsend h a b c x fld col row s
  | .evrun h a f => Sys2Proof.Machine.execEvrun h a f s
  | .evctlUnbind h f => Sys2Proof.Machine.execEvctlUnbind h f s
  | .evctlTime h a f => Sys2Proof.Machine.execEvctlTime h a f s
  | .evctlLate h a f => Sys2Proof.Machine.execEvctlLate h a f s
  | .evctlQlen h a f => Sys2Proof.Machine.execEvctlQlen h a f s
  | .evctlFires h a f => Sys2Proof.Machine.execEvctlFires h a f s
  | .sft h d a r u => Sys2Proof.Machine.execSft h d a r u s
  | .sfs h a b r fn => Sys2Proof.Machine.execSfs h a b r fn s
  | .trap h a i1 => Sys2Proof.Machine.execTrap h a i1 s
  | .sysret h => Sys2Proof.Machine.execSysret h s
  | .csrr h a reg => Sys2Proof.Machine.execCsrr h a reg s
  | .csrw h a reg => Sys2Proof.Machine.execCsrw h a reg s
  | .csrs h a reg => Sys2Proof.Machine.execCsrs h a reg s
  | .csrc h a reg => Sys2Proof.Machine.execCsrc h a reg s
  | .errq h a b => Sys2Proof.Machine.execErrq h a b s
  | .ctxsv h a k => Sys2Proof.Machine.execCtxsv h a k s
  | .ctxld h a k => Sys2Proof.Machine.execCtxld h a k s
  | .accspill h a k => Sys2Proof.Machine.execAccspill h a k s
  | .accfill h a k => Sys2Proof.Machine.execAccfill h a k s
  | .peerclr h a => Sys2Proof.Machine.execPeerclr h a s
  | .bkpt h => Sys2Proof.Machine.execBkpt h s
  | .limm h a sx imm => Sys2Proof.Machine.execLimm h a sx imm s
  | .limmHi h a imm => Sys2Proof.Machine.execLimmHi h a imm s
  | .add h d a b x w => Sys2Proof.Machine.execAdd h d a b x w s
  | .sub h d a b x w => Sys2Proof.Machine.execSub h d a b x w s
  | .addi h d a i1 => Sys2Proof.Machine.execAddi h d a i1 s
  | .mul h d a b x w => Sys2Proof.Machine.execMul h d a b x w s
  | .mulh h d a b x => Sys2Proof.Machine.execMulh h d a b x s
  | .mulhu h d a b x => Sys2Proof.Machine.execMulhu h d a b x s
  | .div h d a b x w => Sys2Proof.Machine.execDiv h d a b x w s
  | .divu h d a b x w => Sys2Proof.Machine.execDivu h d a b x w s
  | .rem h d a b x w => Sys2Proof.Machine.execRem h d a b x w s
  | .remu h d a b x w => Sys2Proof.Machine.execRemu h d a b x w s
  | .and h d a b x => Sys2Proof.Machine.execAnd h d a b x s
  | .or h d a b x => Sys2Proof.Machine.execOr h d a b x s
  | .xor h d a b x => Sys2Proof.Machine.execXor h d a b x s
  | .andn h d a b x => Sys2Proof.Machine.execAndn h d a b x s
  | .shl h d a b x w => Sys2Proof.Machine.execShl h d a b x w s
  | .shr h d a b x w => Sys2Proof.Machine.execShr h d a b x w s
  | .sar h d a b x w => Sys2Proof.Machine.execSar h d a b x w s
  | .rol h d a b x w => Sys2Proof.Machine.execRol h d a b x w s
  | .shli h d a w sh => Sys2Proof.Machine.execShli h d a w sh s
  | .shri h d a w sh => Sys2Proof.Machine.execShri h d a w sh s
  | .sari h d a w sh => Sys2Proof.Machine.execSari h d a w sh s
  | .clz h d a w => Sys2Proof.Machine.execClz h d a w s
  | .ctz h d a w => Sys2Proof.Machine.execCtz h d a w s
  | .popc h d a w => Sys2Proof.Machine.execPopc h d a w s
  | .bfx h d a b x => Sys2Proof.Machine.execBfx h d a b x s
  | .bfi h d a b x => Sys2Proof.Machine.execBfi h d a b x s
  | .min h d a b x w => Sys2Proof.Machine.execMin h d a b x w s
  | .max h d a b x w => Sys2Proof.Machine.execMax h d a b x w s
  | .minu h d a b x w => Sys2Proof.Machine.execMinu h d a b x w s
  | .maxu h d a b x w => Sys2Proof.Machine.execMaxu h d a b x w s
  | .sel h d a b x p => Sys2Proof.Machine.execSel h d a b x p s
  | .mov h d a => Sys2Proof.Machine.execMov h d a s
  | .cmp h p a b x c => Sys2Proof.Machine.execCmp h p a b x c s
  | .cmpi h p a i1 c => Sys2Proof.Machine.execCmpi h p a i1 c s
  | .plog h p a b t => Sys2Proof.Machine.execPlog h p a b t s
  | .pmovGet h d => Sys2Proof.Machine.execPmovGet h d s
  | .pmovPut h a => Sys2Proof.Machine.execPmovPut h a s
  | .xmov h d b => Sys2Proof.Machine.execXmov h d b s
  | .xmovP h d b => Sys2Proof.Machine.execXmovP h d b s
  | .addp h d a b x => Sys2Proof.Machine.execAddp h d a b x s
  | .addpE h d a b x => Sys2Proof.Machine.execAddpE h d a b x s
  | .pfmt h d a i1 => Sys2Proof.Machine.execPfmt h d a i1 s
  | .pfld h d a f => Sys2Proof.Machine.execPfld h d a f s
  | .gdistCore h d a b x t => Sys2Proof.Machine.execGdistCore h d a b x t s
  | .gdistOff h d a b x t => Sys2Proof.Machine.execGdistOff h d a b x t s
  | .fadd h d a b x r => Sys2Proof.Machine.execFadd h d a b x r s
  | .fsub h d a b x r => Sys2Proof.Machine.execFsub h d a b x r s
  | .fmul h d a b x r => Sys2Proof.Machine.execFmul h d a b x r s
  | .ffma h d a b x r => Sys2Proof.Machine.execFfma h d a b x r s
  | .fmin h d a b x => Sys2Proof.Machine.execFmin h d a b x s
  | .fmax h d a b x => Sys2Proof.Machine.execFmax h d a b x s
  | .fcmp h p a b x c => Sys2Proof.Machine.execFcmp h p a b x c s
  | .fcvt h d a k r => Sys2Proof.Machine.execFcvt h d a k r s
  | .fclass h d a => Sys2Proof.Machine.execFclass h d a s
  | .tadd h d a b m v r => Sys2Proof.Machine.execTadd h d a b m v r s
  | .tsub h d a b m v r => Sys2Proof.Machine.execTsub h d a b m v r s
  | .tmul h d a b m v r => Sys2Proof.Machine.execTmul h d a b m v r s
  | .tfma h d a b m v r => Sys2Proof.Machine.execTfma h d a b m v r s
  | .tmax h d a b m => Sys2Proof.Machine.execTmax h d a b m s
  | .tmin h d a b m => Sys2Proof.Machine.execTmin h d a b m s
  | .tabs h d a m => Sys2Proof.Machine.execTabs h d a m s
  | .tneg h d a m => Sys2Proof.Machine.execTneg h d a m s
  | .tcvt h d a k m r => Sys2Proof.Machine.execTcvt h d a k m r s
  | .tqnt h d a t m r => Sys2Proof.Machine.execTqnt h d a t m r s
  | .tdq h d a k m r => Sys2Proof.Machine.execTdq h d a k m r s
  | .tscl h d a b m v r => Sys2Proof.Machine.execTscl h d a b m v r s
  | .tand h d a b m => Sys2Proof.Machine.execTand h d a b m s
  | .tor h d a b m => Sys2Proof.Machine.execTor h d a b m s
  | .txor h d a b m => Sys2Proof.Machine.execTxor h d a b m s
  | .tshl h d a b m => Sys2Proof.Machine.execTshl h d a b m s
  | .tshr h d a b m k => Sys2Proof.Machine.execTshr h d a b m k s
  | .tcmp h k a b m c => Sys2Proof.Machine.execTcmp h k a b m c s
  | .tsel h d a b m => Sys2Proof.Machine.execTsel h d a b m s
  | .tcas h d a b m o c => Sys2Proof.Machine.execTcas h d a b m o c s
  | .tmaxi h d a b m c => Sys2Proof.Machine.execTmaxi h d a b m c s
  | .tmini h d a b m c => Sys2Proof.Machine.execTmini h d a b m c s
  | .tredSum h d a c m r => Sys2Proof.Machine.execTredSum h d a c m r s
  | .tredMax h d a c m r => Sys2Proof.Machine.execTredMax h d a c m r s
  | .tredMin h d a c m r => Sys2Proof.Machine.execTredMin h d a c m r s
  | .tbc h d a m c => Sys2Proof.Machine.execTbc h d a m c s
  | .ttr h d a m => Sys2Proof.Machine.execTtr h d a m s
  | .tslc h d a b m => Sys2Proof.Machine.execTslc h d a b m s
  | .tidx h d m c => Sys2Proof.Machine.execTidx h d m c s
  | .tmov h d a m => Sys2Proof.Machine.execTmov h d a m s
  | .tfill h d m => Sys2Proof.Machine.execTfill h d m s
  | .mlog h j k l m t => Sys2Proof.Machine.execMlog h j k l m t s
  | .mcnt h d k m => Sys2Proof.Machine.execMcnt h d k m s
  | .splimWrite h op a => Sys2Proof.Machine.execSplimWrite h op a s
  | .spbaseWrite h op a => Sys2Proof.Machine.execSpbaseWrite h op a s
  | .tshapeWrite h op a k => Sys2Proof.Machine.execTshapeWrite h op a k s
  | .adWrite h op a k => Sys2Proof.Machine.execAdWrite h op a k s
  | .accownWrite h op a => Sys2Proof.Machine.execAccownWrite h op a s
  | .tileownWrite h op a => Sys2Proof.Machine.execTileownWrite h op a s
  | .trestartWrite h op a => Sys2Proof.Machine.execTrestartWrite h op a s
  | .extentWrite h op a t k => Sys2Proof.Machine.execExtentWrite h op a t k s
  | .errqsWrite h op a => Sys2Proof.Machine.execErrqsWrite h op a s
  | .srlfsrWrite h op a => Sys2Proof.Machine.execSrlfsrWrite h op a s
  | .vshareWrite h op a => Sys2Proof.Machine.execVshareWrite h op a s
  | .capkeyWrite h op a hi => Sys2Proof.Machine.execCapkeyWrite h op a hi s
  | .releaseAcc k => Sys2Proof.Machine.execReleaseAcc k s
  | .releaseTile k => Sys2Proof.Machine.execReleaseTile k s
  | .dptimeoutWrite v => Sys2Proof.Machine.execDptimeoutWrite v s
  | .pendingResultWrite k value i1 v => Sys2Proof.Machine.execPendingResultWrite k value i1 v s
  | .taskStepEnd id => Sys2Proof.Machine.execTaskStepEnd id s
  | .xldResponse id part data fail => Sys2Proof.Machine.execXldResponse id part data fail s
  | .xatrResponse id old fail => Sys2Proof.Machine.execXatrResponse id old fail s
  | .serverAck id part fail => Sys2Proof.Machine.execServerAck id part fail s
  | .serverRequest q => Sys2Proof.Machine.execServerRequest q s
  | .weighhouseAtomic q => Sys2Proof.Machine.execWeighhouseAtomic q s
  | .porterActiveMessage p => Sys2Proof.Machine.execPorterActiveMessage p s
  | .porterLanding d => Sys2Proof.Machine.execPorterLanding d s
  | .porterCompletionReport id fail => Sys2Proof.Machine.execPorterCompletionReport id fail s
  | .peerDeadResponse id => Sys2Proof.Machine.execPeerDeadResponse id s
  | .eagerArrival m => Sys2Proof.Machine.execEagerArrival m s
  | .rendezvousArrival m => Sys2Proof.Machine.execRendezvousArrival m s
  | .landingComplete r no data scaleSeq => Sys2Proof.Machine.execLandingComplete r no data scaleSeq s
  | .acceptanceNotice id => Sys2Proof.Machine.execAcceptanceNotice id s
  | .demotionNotice id => Sys2Proof.Machine.execDemotionNotice id s
  | .refusalNotice id => Sys2Proof.Machine.execRefusalNotice id s
  | .clearToSend id x => Sys2Proof.Machine.execClearToSend id x s
  | .sendAcknowledged id => Sys2Proof.Machine.execSendAcknowledged id s
  | .destEnded id => Sys2Proof.Machine.execDestEnded id s
  | .markerArrival r peer n closing => Sys2Proof.Machine.execMarkerArrival r peer n closing s
  | .eventArrival e d => Sys2Proof.Machine.execEventArrival e d s
  | .mmarCommandArrival c => Sys2Proof.Machine.execMmarCommandArrival c s
  | .accxMessageArrival m => Sys2Proof.Machine.execAccxMessageArrival m s
  | .freeTokenCombine router b t => Sys2Proof.Machine.execFreeTokenCombine router b t s
  | .freeTokenArrival t => Sys2Proof.Machine.execFreeTokenArrival t s
  | .senderErrorReport r cause ctx pair ptr peer info => Sys2Proof.Machine.execSenderErrorReport r cause ctx pair ptr peer info s
  | .waitLimitLapse => Sys2Proof.Machine.execWaitLimitLapse s
  | .bellRelease => Sys2Proof.Machine.execBellRelease s
  | .ringTransfer => Sys2Proof.Machine.execRingTransfer s
  | .groupClearDone => Sys2Proof.Machine.execGroupClearDone s
  | .foremanDispatch => Sys2Proof.Machine.execForemanDispatch s
  | .leaveGrant => Sys2Proof.Machine.execLeaveGrant s
  | .sfuServe => Sys2Proof.Machine.execSfuServe s
  | .sfuRequestDone => Sys2Proof.Machine.execSfuRequestDone s
  | .vectorBind => Sys2Proof.Machine.execVectorBind s
  | .sliceExpiry => Sys2Proof.Machine.execSliceExpiry s
  | .sliceIdle => Sys2Proof.Machine.execSliceIdle s
  | .roundSliceLimit => Sys2Proof.Machine.execRoundSliceLimit s
  | .residencySwitch => Sys2Proof.Machine.execResidencySwitch s
  | .residencySwitchDone => Sys2Proof.Machine.execResidencySwitchDone s
  | .slotCopyDone => Sys2Proof.Machine.execSlotCopyDone s
  | .serverLockRead => Sys2Proof.Machine.execServerLockRead s
  | .serverWriteUnlock => Sys2Proof.Machine.execServerWriteUnlock s
  | .scrub => Sys2Proof.Machine.execScrub s
  | .weighhouseLockData => Sys2Proof.Machine.execWeighhouseLockData s
  | .sourceTimeout => Sys2Proof.Machine.execSourceTimeout s
  | .coreMachineCheck => Sys2Proof.Machine.execCoreMachineCheck s
  | .pigeonholeCopyDone => Sys2Proof.Machine.execPigeonholeCopyDone s
  | .retryTimer => Sys2Proof.Machine.execRetryTimer s
  | .localCompletion => Sys2Proof.Machine.execLocalCompletion s
  | .eventDeliver => Sys2Proof.Machine.execEventDeliver s
  | .fieldAdvance => Sys2Proof.Machine.execFieldAdvance s
  | .dispatcherLaunch => Sys2Proof.Machine.execDispatcherLaunch s
  | .headReserving => Sys2Proof.Machine.execHeadReserving s
  | .crewDrained => Sys2Proof.Machine.execCrewDrained s
  | .crewStart => Sys2Proof.Machine.execCrewStart s
  | .startMessage => Sys2Proof.Machine.execStartMessage s
  | .workOrderComplete => Sys2Proof.Machine.execWorkOrderComplete s
  | .workOrderTimeout => Sys2Proof.Machine.execWorkOrderTimeout s
  | .recordFetch => Sys2Proof.Machine.execRecordFetch s
  | .qtailWrite => Sys2Proof.Machine.execQtailWrite s
  | .qctlWrite => Sys2Proof.Machine.execQctlWrite s
  | .qstatWrite => Sys2Proof.Machine.execQstatWrite s
  | .counterWrite => Sys2Proof.Machine.execCounterWrite s
  | .recoveryCommit => Sys2Proof.Machine.execRecoveryCommit s
  | .packageReset => Sys2Proof.Machine.execPackageReset s
  | .dieResetExit => Sys2Proof.Machine.execDieResetExit s
  | .attestationStart => Sys2Proof.Machine.execAttestationStart s
  | .version => Sys2Proof.Machine.execVersion s
  | .capabilities => Sys2Proof.Machine.execCapabilities s
  | .algorithms => Sys2Proof.Machine.execAlgorithms s
  | .digests => Sys2Proof.Machine.execDigests s
  | .certificate => Sys2Proof.Machine.execCertificate s
  | .challengeAuth => Sys2Proof.Machine.execChallengeAuth s
  | .measurements => Sys2Proof.Machine.execMeasurements s
  | .keyExchangeRsp => Sys2Proof.Machine.execKeyExchangeRsp s
  | .finishRsp => Sys2Proof.Machine.execFinishRsp s
  | .spdmTimeout => Sys2Proof.Machine.execSpdmTimeout s
  | .keyInstall => Sys2Proof.Machine.execKeyInstall s
  | .keyAck => Sys2Proof.Machine.execKeyAck s
  | .linkOpen => Sys2Proof.Machine.execLinkOpen s
  | .keySwitch => Sys2Proof.Machine.execKeySwitch s
  | .keyRetired => Sys2Proof.Machine.execKeyRetired s
  | .keyAckTimeout => Sys2Proof.Machine.execKeyAckTimeout s
  | .keyRetiredTimeout => Sys2Proof.Machine.execKeyRetiredTimeout s
  | .rolloverTrigger => Sys2Proof.Machine.execRolloverTrigger s
  | .generationLimit => Sys2Proof.Machine.execGenerationLimit s
  | .flitReceive => Sys2Proof.Machine.execFlitReceive s
  | .replayRequest => Sys2Proof.Machine.execReplayRequest s
  | .idleFlit => Sys2Proof.Machine.execIdleFlit s
  | .linkDown => Sys2Proof.Machine.execLinkDown s
  | .loneReset => Sys2Proof.Machine.execLoneReset s
  | .actlReset => Sys2Proof.Machine.execActlReset s
  | .actlReattest => Sys2Proof.Machine.execActlReattest s
  | .hostSpdmRequest => Sys2Proof.Machine.execHostSpdmRequest s
  | .lockInterfaceRequest => Sys2Proof.Machine.execLockInterfaceRequest s
  | .getDeviceInterfaceReport => Sys2Proof.Machine.execGetDeviceInterfaceReport s
  | .startInterfaceRequest => Sys2Proof.Machine.execStartInterfaceRequest s
  | .stopInterfaceRequest => Sys2Proof.Machine.execStopInterfaceRequest s
  | .tdispError => Sys2Proof.Machine.execTdispError s
  | .extentGrant => Sys2Proof.Machine.execExtentGrant s
  | .enclaveManifest => Sys2Proof.Machine.execEnclaveManifest s
  | .revocationStatement => Sys2Proof.Machine.execRevocationStatement s
  | .junctionOverheat => Sys2Proof.Machine.execJunctionOverheat s
  | .junctionCooled => Sys2Proof.Machine.execJunctionCooled s
  | .thermalShutdown => Sys2Proof.Machine.execThermalShutdown s
  | .xstSourceRead => Sys2Proof.Machine.execXstSourceRead s
  | .serverClearDone => Sys2Proof.Machine.execServerClearDone s
  | .startTableStepEnd => Sys2Proof.Machine.execStartTableStepEnd s
  | .portFailure => Sys2Proof.Machine.execPortFailure s
  | .limitWrite => Sys2Proof.Machine.execLimitWrite s

end Sys2Proof.Machine
end

