-- ==== Sys2Proof/Machine/Step.lean ====
section
/-!
DEFINITION. One step of the machine, and the placing of a word where the next step fetches it.
-/

namespace Sys2Proof.Machine

open Sys2Proof

/-- One step: an arrival is applied, or the core runs one issue cycle (R408). -/
def step (s : State) : Host.Outcome State Fault Refusal :=
  match s.turn with
  | (none, t) => .next t.issueCycle
  | (some i, t) => if s.deaf i then .next t else exec i t

/-- The machine with a table word stored where the next step fetches: context 0 of the issuing residency, or of residency 0, is about to fetch it, and no arrival comes first. -/
def State.withFetchWord (s : State) (nbits w : Nat) : State := s.withPairs (tablePairs nbits w)

end Sys2Proof.Machine
end

