-- ==== Sys2Proof/Safety.lean ====
section
/-!
DEFINITION. What a run keeps, and the terms in which the statements speak of an instruction that issues.
-/

namespace Sys2Proof.Machine

open Sys2Proof

/-- Both memories are in canonical form: keys rising, no byte listed that an unlisted address reads as. -/
def State.Inv (s : State) : Prop := Memory.wf s.core.mem = true ∧ Memory.wf s.srv.mem = true

/-! ### When an instruction issues (R97) -/

/-- The state whose registers a bundle reads: the results due at it have landed (R97 step 2, R99). -/
def State.seen (s : State) : State := s.modC Ctx.landed

/-- An instruction alone in its bundle. -/
def Op.alone (o : Op) : Placed := ⟨o, o.slot.num 0, 0, o.slot.word⟩

/-- No cause is pending for the present context, and it awaits no response, release or edge (R97 step 1, R173, R195, R380). -/
def State.unheld (s : State) : Bool := s.pendingTrap.isNone && !s.c.waiting s.core.cycle

/-- The instruction alone issues here: its guard holds, no check raises a cause, nothing makes it wait (R97 steps 2 and 3). -/
def Op.ready (o : Op) (s : State) : Bool :=
  s.unheld && o.live s.seen && (bundleTrap s.seen [o.alone]).isNone && !mustWait s.seen [o.alone] &&
  !held ((resolveAll s.seen s.replayBack [o.alone]).modC Ctx.landed) [o.alone]

/-- Turned to the first pair of the bundle. -/
def State.atFirst (s : State) : State := s.modCore fun c => { c with atPair := s.c.pc + 0#14 }

/-- The state in which the effects of an issuing instruction act: groups granted, due results landed, the issue noted. -/
def Op.begun (o : Op) (s : State) : State := (((resolveAll s.seen s.replayBack [o.alone]).noteIssue).modC Ctx.landed).atFirst

/-- The state after the bundle of a state `t` in which the effects have acted: the program counter moves on (R97 step 6). -/
def State.ended (s t : State) (target : Option Pair) : State := t.advance s.c.looping target

/-- The state after an instruction that issues alone. -/
def Op.issued (o : Op) (s : State) : State := s.ended (o.late (o.eff (o.begun s))) (o.next (o.eff (o.begun s)))

/-- The owner of an open packet may still issue a bundle that does not close it (R262). -/
def State.packetRoom (s : State) : Bool :=
  match s.core.packet with
  | none => true
  | some p => !s.ownsPacket || decide (p.bundles < 15)

/-- An instruction with `n` results, no checks and no waits of its own issues: its guard holds, and there is room for its results and for those of a pass that ends with it (R92, R97, R99, R101, R160, R262). -/
def State.free (s : State) (neg : Bool) (g : BitVec 5) (n : Nat) : Bool :=
  s.unheld && (s.seen.c.readP g != neg) && s.packetRoom && decide (s.seen.c.flight.length + s.c.frozen.length + n + s.seen.c.stepResults ≤ 32)

/-- The same for a C-word and for an A-word. -/
def State.freeC (s : State) (h : CHdr) (n : Nat) : Bool := s.free h.n (cGuard h) n
def State.freeA (s : State) (h : AHdr) (n : Nat) : Bool := s.free h.n (predOf h.s h.g) n

/-- A bundle has begun to issue: what is due has landed, and the issue is noted (R97, R99). -/
def State.noted (s : State) : State := s.replayBack.noteIssue.modC Ctx.landed

/-- The state in which the effects of an instruction that touches no group act. -/
def State.begun (s : State) : State := s.noted.atFirst

/-- An instruction whose one effect is a scalar or predicate result of latency `n` has issued (R97 step 5, R99). -/
def State.wrote (s : State) (d : Dest) (v : Word) (n : Nat) : State := s.ended (s.begun.result d v n) none

/-- Operand ra and the crossing operand rb as the bundle reads them (R91). -/
def State.opA (s : State) (side : Bool) (a : BitVec 5) : Word := s.begun.c.reg side a
def State.opB (s : State) (side : Bool) (b : BitVec 5) (x : Bool) : Word := s.begun.c.regX side b x

/-- The value an integer operation at the width of an IW field writes: the 64-bit value, or the 32-bit one sign-extended (R135). -/
def atWidth (w : BitVec 3) (f : Word → Word → Word) (g : BitVec 32 → BitVec 32 → BitVec 32) (u v : Word) : Word :=
  if w = 0 then f u v else (g (u.truncate 32) (v.truncate 32)).signExtend 64

/-- The integer conditions of R119 on two 64-bit values. -/
def condOf (c : BitVec 4) (p q : Word) : Bool :=
  match c.toNat with
  | 0 => p == q
  | 1 => p != q
  | 2 => p.slt q
  | 3 => q.sle p
  | 4 => p.sle q
  | 5 => q.slt p
  | 6 => decide (p < q)
  | 7 => decide (q ≤ p)
  | 8 => decide (p ≤ q)
  | _ => decide (q < p)

/-- The place of an index of a nest in the order of the passes, dimension 0 innermost. -/
def nestRank (n : Nest) (i : Vector (BitVec 16) 6) : Nat :=
  (List.finRange 6).foldr (fun d r => (i.get d).toNat + (n.bound.get d).toNat * r) 0

/-- The number of passes of a nest. -/
def Nest.passes (n : Nest) : Nat := (List.finRange 6).foldr (fun d r => (n.bound.get d).toNat * r) 1

/-- The instructions whose one effect, beside a transfer of control, is on scalar and predicate registers (FCVT and the rounded operations step the LFSR, R68). -/
def registersOnly : Instr → Bool
  | .nop .. | .br .. | .bri .. | .call .. | .calli .. | .ret .. | .waitErrq .. | .waitCyc .. | .waitFtime .. | .waitHelpers .. | .waitch ..
  | .limm .. | .limmHi .. | .csrr .. | .add .. | .sub .. | .addi .. | .mul .. | .mulh .. | .mulhu .. | .div .. | .divu .. | .rem ..
  | .remu .. | .and .. | .or .. | .xor .. | .andn .. | .shl .. | .shr .. | .sar .. | .rol .. | .shli .. | .shri .. | .sari .. | .clz ..
  | .ctz .. | .popc .. | .bfx .. | .bfi .. | .min .. | .max .. | .minu .. | .maxu .. | .sel .. | .mov .. | .cmp .. | .cmpi .. | .plog ..
  | .pmovGet .. | .pmovPut .. | .xmov .. | .xmovP .. | .addp .. | .addpE .. | .pfmt .. | .pfld .. | .gdistCore .. | .gdistOff .. | .fadd ..
  | .fsub .. | .fmul .. | .ffma .. | .fmin .. | .fmax .. | .fcmp .. | .fcvt .. | .fclass .. => true
  | _ => false

/-- The two instructions whose one effect, beside a transfer of control, is on the context's loop (R159, R162). -/
def loopsOnly : Instr → Bool
  | .loop .. | .loopx .. => true
  | _ => false

/-- The tile-acting instructions whose one effect at issue is a task for the Foreman, with the tags it will have (R215). -/
def tileTask : Instr → Bool
  | .tadd .. | .tsub .. | .tmul .. | .tfma .. | .tmax .. | .tmin .. | .tabs .. | .tneg .. | .tcvt .. | .tqnt .. | .tdq .. | .tscl ..
  | .tand .. | .tor .. | .txor .. | .tshl .. | .tshr .. | .tcmp .. | .tsel .. | .tcas .. | .tmaxi .. | .tmini .. | .tredSum .. | .tredMax ..
  | .tredMin .. | .tbc .. | .ttr .. | .tslc .. | .tidx .. | .tmov .. | .tfill .. | .mlog .. | .mcnt .. | .mma .. | .mmaX .. | .accrd ..
  | .accwr .. | .accwrAdd .. | .sft .. | .ringCw .. | .ringCcw .. => true
  | _ => false

/-- The instructions that store nothing in the core's memory and change no register but by a scheduled result: they hand work to another unit, or wait for it. -/
def handsOver : Instr → Bool
  | .xld .. | .xst .. | .xat .. | .xatr .. | .cpy .. | .cpyd .. | .fenceAcq .. | .fenceRel .. | .fenceFull .. | .fenceExt .. | .send .. | .sendp .. | .sendx .. | .mcast ..
  | .free .. | .mmar .. | .xsnd .. | .xrcv .. | .expect .. | .mbadd .. | .hset .. | .hwaitProd .. | .hwaitCons .. | .hadvProd .. | .hadvCons .. | .evsend .. | .evrun ..
  | .evctlUnbind .. | .evctlTime .. | .evctlLate .. | .evctlQlen .. | .evctlFires .. | .field .. | .tld .. | .tst .. | .sfs .. | .accxSend .. | .accxOpen .. | .accxClose ..
  | .bell .. | .bellD .. | .bellX .. | .exch .. | .waitFull .. | .waitEmpty .. | .waitmb .. | .waitLimit .. => true
  | i => tileTask i

end Sys2Proof.Machine
end

