-- ==== Sys2Proof/Certificates/Slice0/Obligations.lean ====
section
/-!
DEFINITION. The statements for the provers. Each docstring names the rules of the spec that the statement formalises; `ready` (Sys2Proof/Safety.lean) is the condition on the state and the operands under which an instruction issues alone in its bundle.
-/

open Sys2Proof Sys2Proof.Machine

/-- R80 to R96: decoding the words of a well-formed instruction gives the instruction back, for every instruction and every value of its operands. -/
def Obligations.EncodeDecodeRoundTrip : Prop :=
  (∀ (i : Instr) (code : Code), i.wf = true → encode i = some code → decode code = .ok i) ∧
  (∀ (i : Instr) (o : Op), opOf i = some o → (encode i).isSome = true)

/-- R1, R4: every step keeps both memories in canonical form. -/
def Obligations.StepKeepsCanonicalMemory : Prop :=
  ∀ s t : State, s.Inv → step s = .next t → t.Inv

/-- The memories after reset are in canonical form, and list nothing. -/
def Obligations.ResetMemoryCanonical : Prop :=
  State.reset.Inv ∧ State.reset.core.mem = [] ∧ State.reset.srv.mem = []

/-- R7, R19, R27, R28, R29, R32, R186, R206, R389, R449, R464, R465: what reset leaves, for the registers whose reset or start value the spec gives; the other registers of the reset state are the model's choice (log entries 8, 12, 13 and 14) and are not stated here. -/
def Obligations.ResetValues : Prop :=
  let s := State.reset
  (∀ k : ResNo, let r := s.res.get k
    r.phase = .absent ∧ r.errq = [] ∧ r.errOvf = false ∧ r.deadPeers = [] ∧ r.phsz = 4 ∧ r.splimit = 0 ∧ r.spbase = 0 ∧ r.vshare = 1 ∧ r.accOwn = false ∧ r.tileOwn = false ∧
      r.round = 0 ∧ (∀ i, r.tshape.get i = ⟨0, 0, 0⟩) ∧ (∀ i, r.ad.get i = ⟨0, 0, 0, 0⟩) ∧ (∀ i, (r.handles.get i).defined = false) ∧ (∀ i, (r.fields.get i).bound = false) ∧
      (∀ i, (r.chans.get i).next = 0 ∧ (r.chans.get i).done = 0) ∧ (∀ i, (r.mboxes.get i).count = 0 ∧ (r.mboxes.get i).posted = false ∧ (r.mboxes.get i).trips = 0) ∧
      ∀ c : CtxNo, let x := r.ctx.get c
        x.status = .free ∧ x.mode = false ∧ x.flight = [] ∧ x.looping = false ∧ (∀ i, x.readS i = 0) ∧ ∀ i, x.readP i = decide (i = 0 ∨ i = 16)) ∧
    s.core.full = [] ∧ s.core.dptimeout = 50 ∧ s.pkg.step = 0 ∧ s.pkg.ready = false ∧ s.pkg.recovery = false ∧ s.pkg.rollint = 36 ∧
    (∀ d, d < 19 → (s.dieRec d).state = .reset ∧ (s.dieRec d).reason = 0 ∧ (s.dieRec d).epoch = 0) ∧
    (∀ q, (s.queue q).en = false ∧ (s.queue q).log2n = 4 ∧ (s.queue q).level = 3 ∧ (s.queue q).head = 0 ∧ (s.queue q).tail = 0) ∧ ∀ c, s.counterAt c = 0

/-- The words that the spec writes out bit by bit decode to the instructions they stand for, and the words it gives as illegal are rejected by name (the decoding examples, and the words of the worked programs). -/
def Obligations.SpecWordsDecode : Prop :=
  let e : CHdr := ⟨true, false, 0, false⟩
  (∀ x ∈ ([
      (.c 0x0046FFFA, .br ⟨false, false, 3, false⟩ 0xFFFA), (.a 0x02014BFF, .addi ⟨false, false, 0⟩ 5 5 0x1FF),
      (.a 0x20929D16, .cmp ⟨false, true, 2⟩ 5 7 8 true 6), (.a 0x24014088, .xmov ⟨false, false, 0⟩ 5 8),
      (.c 0x4062_0003, .br ⟨true, true, 1, false⟩ 3), (.a 0x0205_5CA0, .addi ⟨false, false, 0⟩ 21 14 0xA0),
      (.l 0xC1802980 0xC, .jtab e 5 6 12), (.l 0xC1C00000 0, .loop e 0 0), (.c 0x42804080, .waitch e 8 1),
      (.c 0x44C00000, .round e), (.c 0x45400000, .halt e), (.l 0xF3402800 0x2000, .limm e 5 false 0x2000),
      (.l 0xF3402802 0x48000000, .limmHi e 5 0x48000000), (.l 0xD4002980 0xB, .xatr e 5 6 0 false false 0 11),
      (.l 0xD3403100 0x280, .xld e 6 4 0 false 1 128), (.l 0xD3802800 8, .xst e 5 0 0 false 0 8),
      (.c 0x55222001, .fenceRel ⟨true, true, 1, false⟩ 2), (.c 0x110052C0, .ldfe ⟨false, false, 0, false⟩ 10 11 0)] : List (Code × Instr)), decode x.1 = .ok x.2) ∧
  (∀ x ∈ ([
      (.c 0x60001230, .mma e 1 2 3 0), (.c 0x60841000, .accz ⟨true, false, 2, false⟩ 1), (.a 0x400091A0, .tadd ⟨false, false, 0⟩ 1 2 3 2 false 0),
      (.a 0x53088000, .tcas ⟨false, false, 1⟩ 1 0 0 0 false false), (.a 0xD3088042, .tcas ⟨true, false, 1⟩ 1 0 0 4 true false),
      (.a 0xD3188280, .tcas ⟨true, false, 3⟩ 1 0 5 0 false false), (.l 0xE100298E 0x2A, .send e 5 6 7 false 42),
      (.l 0xE1C04251 0x2A, .recv e 8 9 8 true 42), (.l 0xE1001820 0, .send e 3 0 16 false 0), (.l 0xE1C035A0 0, .recv e 6 22 16 false 0),
      (.c 0x65022881, .field ⟨true, false, 1, false⟩ 5 1 1), (.l 0xE5621574 0x302, .evsend ⟨true, true, 1, false⟩ 2 21 26 false 0 3 2),
      (.l 0xE54215B6 0x201, .evsend ⟨true, false, 1, false⟩ 2 22 27 false 0 2 1), (.c 0x65803000, .evrun e 6 0),
      (.c 0x65C06084, .evctlFires e 12 1)] : List (Code × Instr)), decode x.1 = .ok x.2) ∧
  (∀ x ∈ ([
      (.c 0x45800000, .illegalOpcode), (.c 0x52400000, .illegalExtension), (.c 0x66001209, .illegalOpcode), (.a 0x5F000000, .illegalOpcode),
      (.a 0x24014080, .illegalOpcode)] : List (Code × DecodeError)), decode x.1 = .error x.2)

/-- Where the next step fetches a bundle of one word, and its context waits for no release or edge, the step is exec of the decoded instruction at the context that issues (`t` is the state in which it issues), then the gang's comparison of next bundles (not where a clear holds the bundle), the slice counter and the end of the cycle; a member of a gang runs what its leader fetched. A step applies the arrival that the schedule of turns names, or else the oldest one (the schedule is the model's own, log entry 8); a package that has turned itself off hears of PACKAGE_RESET alone. -/
def Obligations.StepRunsDecodedInstruction : Prop :=
  (∀ (s : State) (k : ResNo) (c : CtxNo) (i : Instr), s.pkg.off = false → s.env.turns = [] → s.env.agenda = [] →
    s.cycleStart.issuer = some k → (s.cycleStart.poise k).2 = some c →
    let t : State := { (s.cycleStart.poise k).1.at k c with bundleLen := 1 }
    let reads (w : BitVec 64) : Prop := w.getLsbD 30 = true ∧
      ((decode (firstCode w) = .ok i ∧ (w.getLsbD 31 = true ∨ aHalf w = 0)) ∨ (cHalf w = 0x40000000 ∧ aHalf w ≠ 0 ∧ decode (.a (aHalf w)) = .ok i))
    t.pendingTrap = none → t.c.barred = false →
    ((t.follows = false ∧ t.r.inRange t.c.pc = true ∧ t.badPair t.c.pc = false ∧ reads (t.pairAt t.c.pc)) ∨
      (t.follows = true ∧ ∃ w, t.core.gangIn.fetched = some [w] ∧ reads w)) →
    ∃ u, exec i t = .next u ∧ step s = .next ((if t.bundleHeld then u else u.gangStep).watchRes k).tick) ∧
  (∀ (s : State) (i : Instr) (l : List Instr) (n : Nat) (ts : List (Option Nat)),
    (s.env.turns = [] → s.env.agenda = i :: l → (s.pkg.off = false ∨ i = .packageReset) → step s = exec i (s.modEnv fun e => { e with agenda := l })) ∧
    (s.env.turns = some n :: ts → s.env.agenda[n]? = some i → (s.pkg.off = false ∨ i = .packageReset) →
      step s = exec i (s.modEnv fun e => { e with turns := ts, agenda := s.env.agenda.eraseIdx n })) ∧
    (s.env.turns = [] → s.env.agenda = i :: l → s.pkg.off = true → i ≠ .packageReset → step s = .next (s.modEnv fun e => { e with agenda := l })) ∧
    (s.env.turns = [] → s.env.agenda = [] → s.pkg.off = true → step s = .next s) ∧
    (s.env.turns = none :: ts → s.pkg.off = false → ∃ t, step s = .next t ∧ step s = .next (s.modEnv fun e => { e with turns := ts }).issueCycle))

/-- No instruction and no arrival stops the machine: every exception is taken, and every step answers a next state. -/
def Obligations.EveryInstructionAnswersNext : Prop :=
  (∀ (i : Instr) (s : State), ∃ t, exec i s = .next t) ∧ (∀ s : State, ∃ t, step s = .next t)

/-- R92, R97, R368, R380: what a bundle of one instruction does, for every instruction that has a word: a pending cause first, then the release or edge that the context waits for, a cause its check raises, what else the context waits for, its own waits, and its effect; a bundle whose guard is false checks nothing and only goes on. That a bundle is not checked before the release or edge is the model's reading of R173 (log entry 63). -/
def Obligations.OneInstructionBundle : Prop :=
  ∀ (i : Instr) (o : Op) (s : State), opOf i = some o →
    (∀ p, s.pendingTrap = some p → exec i s = .next ((s.modC fun c => { c with pending := c.pending.tail }).takeTrap (trapWith p.cause p.info0 p.info1))) ∧
    (∀ q, s.pendingTrap = none → s.c.barred = false → s.packetRoom = true → o.live s.seen = true → o.check (o.slot.num 0) s.seen = some q → exec i s = .next (s.takeTrap q)) ∧
    (s.pendingTrap = none → (s.c.barred = true ∨ bundleTrap s.seen (liveOps s.seen [o.alone]) = none) → s.c.waiting s.core.cycle = true → exec i s = .next s.replayBack) ∧
    (s.unheld = true → s.packetRoom = true → s.seen.c.flight.length + s.c.frozen.length + s.seen.c.stepResults ≤ 32 → o.live s.seen = false →
      exec i s = .next (s.ended s.noted none)) ∧
    (s.unheld = true → o.live s.seen = true → bundleTrap s.seen [o.alone] = none → mustWait s.seen [o.alone] = true →
      exec i s = .next (o.ask s.replayBack).hold) ∧
    (o.ready s = true → o.after (o.eff (o.begun s)) = none → exec i s = .next (o.issued s))

/-- R28: the four hard-wired registers, and the link register of CALL. Every other register reads back what was written. -/
def Obligations.HardWiredRegisters : Prop :=
  ∀ (c : Ctx) (v : Word),
    (c.readS 0 = 0 ∧ c.readS 32 = 0 ∧ c.readP 0 = true ∧ c.readP 16 = true) ∧
    (c.write (.s 0) v = c ∧ c.write (.s 32) v = c ∧ c.write (.p 0) v = c ∧ c.write (.p 16) v = c) ∧
    (∀ r : BitVec 6, r ≠ 0 → r ≠ 32 → (c.write (.s r) v).readS r = v ∧ (∀ q, q ≠ r → (c.write (.s r) v).readS q = c.readS q)) ∧
    (∀ r : BitVec 5, r ≠ 0 → r ≠ 16 → (c.write (.p r) v).readP r = v.getLsbD 0 ∧ (∀ q, q ≠ r → (c.write (.p r) v).readP q = c.readP q)) ∧
    (∀ (h : CHdr) (o : BitVec 16) (s : State), s.freeC h 1 = true → s.c.looping = false →
      exec (.call h o) s = .next (s.ended (s.begun.result (.s 31) ((s.c.pc + BitVec.ofNat 14 s.bundleLen).zeroExtend 64) 1) (some (s.c.pc + o.truncate 14))))

/-- R99: a result of latency n becomes visible to the n-th bundle that its context issues after it, and not before. `landed` is what one more bundle sees. -/
def Obligations.ResultsBecomeVisibleAtTheirLatency : Prop :=
  ∀ (c : Ctx) (r : BitVec 6) (v : Word) (n k : Nat), r ≠ 0 → r ≠ 32 → 0 < n → (∀ f ∈ c.flight, f.dest ≠ .s r) →
    (k < n → ((Ctx.landed^[k]) (c.schedule (.s r) v n)).readS r = c.readS r) ∧
    (n ≤ k → ((Ctx.landed^[k]) (c.schedule (.s r) v n)).readS r = v)

/-- R100: of two results for one register that become visible at the same bundle, the later-issued one stands. -/
def Obligations.LaterResultStands : Prop :=
  ∀ (c : Ctx) (x y z : List Flight) (r : BitVec 6) (u v : Word) (n : Nat), r ≠ 0 → r ≠ 32 → 0 < n →
    c.flight = x ++ ⟨.s r, u, n⟩ :: y ++ ⟨.s r, v, n⟩ :: z → (∀ f ∈ z, f.dest ≠ .s r) → (∀ f ∈ x ++ y, f.dest = .s r → f.rem ≤ n) →
    ((Ctx.landed^[n]) c).readS r = v

/-- The frame of the instructions on registers alone, which complete wherever they are ready: nothing outside the present context's results, program counter and loop changes, but the note of the issue (the round-robin place, the bundle's pair, the context and the nests before it, the yield sets, an open packet's count), a request kept for replay (R238), and the residency's LFSR (R68). LOOP and LOOPX have the same frame. Forms that it completes: nop, br, bri, call, calli, ret, waitErrq, waitCyc, waitFtime, waitHelpers, waitch, limm, limmHi, csrr, add, sub, addi, mul, mulh, mulhu, div, divu, rem, remu, and, or, xor, andn, shl, shr, sar, rol, shli, shri, sari, clz, ctz, popc, bfx, bfi, min, max, minu, maxu, sel, mov, cmp, cmpi, plog, pmovGet, pmovPut, xmov, xmovP, addp, addpE, pfmt, pfld, gdistCore, gdistOff, fadd, fsub, fmul, ffma, fmin, fmax, fcmp, fcvt, fclass, loop, loopx. -/
def Obligations.RegisterInstructionFrame : Prop :=
  ∀ (i : Instr) (o : Op) (s : State), (registersOnly i = true ∨ loopsOnly i = true) → opOf i = some o → o.ready s = true → ∃ t, exec i s = .next t ∧
    t.srv = s.srv ∧ t.die = s.die ∧ t.pkg = s.pkg ∧ t.curRes = s.curRes ∧ t.curCtx = s.curCtx ∧
    t.core = { s.core with lastCtx := s.curCtx, packet := t.core.packet, tagWrites := [], before := t.core.before, nestsBefore := s.r.nests, atPair := s.c.pc } ∧
    (∀ k, { t.res.get k with ctx := (s.res.get k).ctx, lfsr := (s.res.get k).lfsr } = s.res.get k) ∧
    (∀ k c, ¬(k = s.curRes ∧ c = s.curCtx) → { (t.res.get k).ctx.get c with yields := ((s.res.get k).ctx.get c).yields } = (s.res.get k).ctx.get c) ∧
    (∀ k, k ≠ s.curRes → (t.res.get k).lfsr = (s.res.get k).lfsr) ∧
    t.c.s = s.c.landed.s ∧ t.c.p = s.c.landed.p ∧ t.c.mode = s.c.mode ∧ t.c.status = s.c.status ∧ t.c.trap = s.c.trap ∧
    t.c.aside = s.c.aside ∧ t.c.frozen = s.c.frozen ∧ t.c.pending = s.c.pending ∧ t.c.scratch = s.c.scratch ∧
    (∀ f ∈ t.c.flight, f ∈ s.c.landed.flight ∨ f.dest ∈ destsOf i ∨
      (s.c.looping = true ∧ ∃ j : Fin 4, streamOn (s.c.loop.nest.stream.get j) = true ∧ f.dest = .s (streamReg (s.c.loop.nest.stream.get j))))

/-- The frame of the loads: no byte of memory and no full/empty bit changes but the bit that LDFE clears; and of the stores: no byte outside the ones stored. -/
def Obligations.LoadStoreFrame : Prop :=
  ∀ (h : CHdr) (a b : BitVec 5) (z : BitVec 2) (k : Bool) (o : BitVec 3) (off : BitVec 32) (s t : State), s.Inv →
    let keeps (i : Instr) (op : Op) : Prop := op.ready s = true → exec i s = .next t →
      t.core.mem = s.core.mem ∧ t.core.full = s.core.full ∧ t.srv.mem = s.srv.mem
    let stores (i : Instr) (op : Op) (d : Int) (n : Nat) : Prop := op.ready s = true → exec i s = .next t →
      let p := ptrOff (ptrAdd ((op.begun s).c.reg h.s b) d)
      ∀ (g : Region) (lo hi : Nat), (op.begun s).regionOf p = some (g, lo, hi) → g ≠ .control → (op.begun s).auxTags g = false →
        ∀ x, (x < (op.begun s).keyOf g p ∨ (op.begun s).keyOf g p + n ≤ x) → memGet t.core.mem x = memGet s.core.mem x
    keeps (.ld h a b z k o) (opLd h a b z k o) ∧ keeps (.ldExt h a b z k off) (opLdExt h a b z k off) ∧
    keeps (.ldp h a b o) (opLdp h a b o) ∧ keeps (.ldpExt h a b off) (opLdpExt h a b off) ∧
    keeps (.ldff h a b o) (opLdff h a b o) ∧ keeps (.ldffExt h a b off) (opLdffExt h a b off) ∧
    stores (.st h a b z o) (opSt h a b z o) ((o.toNat * 2 ^ z.toNat : Nat)) (2 ^ z.toNat) ∧
    stores (.stExt h a b z off) (opStExt h a b z off) off.toInt (2 ^ z.toNat) ∧
    stores (.stp h a b o) (opStp h a b o) ((o.toNat * 16 : Nat)) 16 ∧ stores (.stpExt h a b off) (opStpExt h a b off) off.toInt 16 ∧
    stores (.stfe h a b o) (opStfe h a b o) ((o.toNat * 8 : Nat)) 8 ∧ stores (.stfeExt h a b off) (opStfeExt h a b off) off.toInt 8 ∧
    stores (.stf h a b o) (opStf h a b o) ((o.toNat * 8 : Nat)) 8 ∧ stores (.stfExt h a b off) (opStfExt h a b off) off.toInt 8

/-- The frame of the instructions that hand work to another unit or wait for it: no byte of the core's memory or of the servers changes, no register and no predicate of any context changes but by a result scheduled for a destination, and the present context's mode, record and suspended results stay. -/
def Obligations.HandOverFrame : Prop :=
  ∀ (i : Instr) (o : Op) (s t : State), handsOver i = true → opOf i = some o → o.ready s = true → exec i s = .next t →
    t.core.mem = s.core.mem ∧ t.srv.mem = s.srv.mem ∧
    (∀ k c, ¬(k = s.curRes ∧ c = s.curCtx) → ((t.res.get k).ctx.get c).s = ((s.res.get k).ctx.get c).s ∧ ((t.res.get k).ctx.get c).p = ((s.res.get k).ctx.get c).p ∧
      ((t.res.get k).ctx.get c).flight = ((s.res.get k).ctx.get c).flight ∧ ((t.res.get k).ctx.get c).pc = ((s.res.get k).ctx.get c).pc) ∧
    t.c.s = s.c.landed.s ∧ t.c.p = s.c.landed.p ∧ t.c.mode = s.c.mode ∧ t.c.trap = s.c.trap ∧ t.c.frozen = s.c.frozen ∧ t.c.aside = s.c.aside ∧
    (∀ f ∈ t.c.flight, f ∈ s.c.landed.flight ∨ f.dest ∈ destsOf i ∨
      (s.c.looping = true ∧ ∃ j : Fin 4, streamOn (s.c.loop.nest.stream.get j) = true ∧ f.dest = .s (streamReg (s.c.loop.nest.stream.get j))))

/-- R135, R136, R137: what the integer arithmetic instructions write, for every operand and width, the zero divisor and the overflow case of a division among them; division never traps. A register read at issue has its due results landed; the result is scheduled at the latency of R99. Forms that it completes: add, sub, addi, mul, mulh, mulhu, div, divu, rem, remu. -/
def Obligations.IntegerArithmeticResults : Prop :=
  (∀ (h : AHdr) (d a b : BitVec 5) (x : Bool) (w : BitVec 3) (imm : BitVec 9) (s : State), s.freeA h 1 = true →
    let u := s.opA h.s a
    let v := s.opB h.s b x
    let r (y : Word) (n : Nat) : Result := .next (s.wrote (.s (regOf h.s d)) y n)
    exec (.add h d a b x w) s = r (atWidth w (· + ·) (· + ·) u v) 1 ∧
    exec (.sub h d a b x w) s = r (atWidth w (· - ·) (· - ·) u v) 1 ∧
    exec (.addi h d a imm) s = r (u + imm.signExtend 64) 1 ∧
    exec (.mul h d a b x w) s = r (atWidth w (· * ·) (· * ·) u v) 3 ∧
    exec (.mulh h d a b x) s = r ((u.signExtend 128 * v.signExtend 128).extractLsb' 64 64) 3 ∧
    exec (.mulhu h d a b x) s = r ((u.zeroExtend 128 * v.zeroExtend 128).extractLsb' 64 64) 3) ∧
  (∀ (h : AHdr) (d a b : BitVec 5) (x : Bool) (w : BitVec 3) (s : State), s.freeA h 1 = true →
    let u := s.opA h.s a
    let v := s.opB h.s b x
    let r (f : Word → Word → Word) (g : BitVec 32 → BitVec 32 → BitVec 32) : Result :=
      .next (s.wrote (.s (regOf h.s d)) (atWidth w f g u v) 18)
    exec (.div h d a b x w) s = r (fun p q => if q = 0 then -1 else p.sdiv q) (fun p q => if q = 0 then -1 else p.sdiv q) ∧
    exec (.divu h d a b x w) s = r (fun p q => if q = 0 then -1 else p / q) (fun p q => if q = 0 then -1 else p / q) ∧
    exec (.rem h d a b x w) s = r (fun p q => if q = 0 then p else p.srem q) (fun p q => if q = 0 then p else p.srem q) ∧
    exec (.remu h d a b x w) s = r (fun p q => if q = 0 then p else p % q) (fun p q => if q = 0 then p else p % q))

/-- R135, R136, R138, R139: logic and shifts (a register shift takes the low 6 bits of its amount, or the low 5 at 32 bits), counts, bit fields, minima, maxima, selection and moves. Forms that it completes: and, or, xor, andn, shl, shr, sar, rol, shli, shri, sari, clz, ctz, popc, bfx, bfi, min, max, minu, maxu, sel, mov. -/
def Obligations.LogicAndFieldResults : Prop :=
  (∀ (h : AHdr) (d a b : BitVec 5) (x : Bool) (w : BitVec 3) (k : Bool) (sh : BitVec 6) (s : State), s.freeA h 1 = true →
    let u := s.opA h.s a
    let v := s.opB h.s b x
    let r (y : Word) : Result := .next (s.wrote (.s (regOf h.s d)) y 1)
    exec (.and h d a b x) s = r (u &&& v) ∧
    exec (.or h d a b x) s = r (u ||| v) ∧
    exec (.xor h d a b x) s = r (u ^^^ v) ∧
    exec (.andn h d a b x) s = r (u &&& ~~~v) ∧
    exec (.shl h d a b x w) s = r (atWidth w (fun p q => p <<< (q.toNat % 64)) (fun p q => p <<< (q.toNat % 32)) u v) ∧
    exec (.shr h d a b x w) s = r (atWidth w (fun p q => p >>> (q.toNat % 64)) (fun p q => p >>> (q.toNat % 32)) u v) ∧
    exec (.sar h d a b x w) s = r (atWidth w (fun p q => p.sshiftRight (q.toNat % 64)) (fun p q => p.sshiftRight (q.toNat % 32)) u v) ∧
    exec (.rol h d a b x w) s = r (atWidth w (fun p q => p.rotateLeft (q.toNat % 64)) (fun p q => p.rotateLeft (q.toNat % 32)) u v) ∧
    exec (.shli h d a k sh) s = r (if k then ((u.truncate 32 : BitVec 32) <<< sh.toNat).signExtend 64 else u <<< sh.toNat) ∧
    exec (.shri h d a k sh) s = r (if k then ((u.truncate 32 : BitVec 32) >>> sh.toNat).signExtend 64 else u >>> sh.toNat) ∧
    exec (.sari h d a k sh) s = r (if k then ((u.truncate 32 : BitVec 32).sshiftRight sh.toNat).signExtend 64 else u.sshiftRight sh.toNat)) ∧
  (∀ (h : AHdr) (d a b : BitVec 5) (x : Bool) (w : BitVec 3) (p : BitVec 3) (s : State), s.freeA h 1 = true →
    let u := s.opA h.s a
    let v := s.opB h.s b x
    let r (y : Word) : Result := .next (s.wrote (.s (regOf h.s d)) y 1)
    let pos := v.toNat % 64
    let len := min (v.toNat / 256 % 128) 64
    exec (.clz h d a w) s = r (BitVec.ofNat 64 (if w = 0 then u.clz.toNat else (u.truncate 32 : BitVec 32).clz.toNat)) ∧
    exec (.ctz h d a w) s = r (BitVec.ofNat 64 (if w = 0 then u.ctz.toNat else (u.truncate 32 : BitVec 32).ctz.toNat)) ∧
    exec (.popc h d a w) s = r (BitVec.ofNat 64 ((List.range (if w = 0 then 64 else 32)).countP fun j => u.getLsbD j)) ∧
    (∃ y : Word, exec (.bfx h d a b x) s = r y ∧
      ∀ j, j < 64 → y.getLsbD j = if j < len then u.getLsbD (pos + j) else v.getLsbD 15 && decide (len ≠ 0) && u.getLsbD (pos + len - 1)) ∧
    (∃ y : Word, exec (.bfi h d a b x) s = r y ∧
      ∀ j, j < 64 → y.getLsbD j = if pos ≤ j ∧ j < pos + len then u.getLsbD (j - pos) else (s.opA h.s d).getLsbD j) ∧
    exec (.min h d a b x w) s = r (atWidth w (fun p q => if p.slt q then p else q) (fun p q => if p.slt q then p else q) u v) ∧
    exec (.max h d a b x w) s = r (atWidth w (fun p q => if p.slt q then q else p) (fun p q => if p.slt q then q else p) u v) ∧
    exec (.minu h d a b x w) s = r (atWidth w (fun p q => if p < q then p else q) (fun p q => if p < q then p else q) u v) ∧
    exec (.maxu h d a b x w) s = r (atWidth w (fun p q => if p < q then q else p) (fun p q => if p < q then q else p) u v) ∧
    exec (.sel h d a b x p) s = r (if s.begun.c.pred h.s (p.zeroExtend 4) then u else v) ∧
    exec (.mov h d a) s = r u)

/-- R119, R132, R140 to R143: comparisons, predicate logic, predicate and cross-side moves; PMOV.put schedules bits 1 to 15 of its register in the predicates 1 to 15 of its side. Forms that it completes: cmp, cmpi, plog, pmovGet, pmovPut, xmov, xmovP, fcmp. -/
def Obligations.CompareAndPredicateResults : Prop :=
  (∀ (h : AHdr) (p q t cc : BitVec 4) (d a b i : BitVec 5) (x : Bool) (s : State), s.freeA h 1 = true →
    let u := s.opA h.s a
    let v := s.opB h.s b x
    let rp (y : Bool) (n : Nat) : Result := .next (s.wrote (.p (predOf h.s p)) (BitVec.ofNat 64 y.toNat) n)
    let rs (y : Word) (n : Nat) : Result := .next (s.wrote (.s (regOf h.s d)) y n)
    exec (.cmp h p a b x cc) s = rp (condOf cc u v) 1 ∧
    exec (.cmpi h p a i cc) s = rp (condOf cc u (i.signExtend 64)) 1 ∧
    exec (.plog h p q t cc) s = rp (cc.getLsbD (2 * (s.begun.c.pred h.s q).toNat + (s.begun.c.pred h.s t).toNat)) 1 ∧
    (∃ y : Word, exec (.pmovGet h d) s = rs y 1 ∧ ∀ j, j < 64 → y.getLsbD j = (decide (j < 16) && s.begun.c.pred h.s (BitVec.ofNat 4 j))) ∧
    exec (.xmov h d b) s = rs (s.begun.c.reg (!h.s) b) 2 ∧
    exec (.xmovP h p q) s = rp (s.begun.c.pred (!h.s) q) 2 ∧
    exec (.fcmp h p a b x cc) s = rp (fpCond cc.toNat (fpOf u) (fpOf v)) 4) ∧
  (∀ (h : AHdr) (a : BitVec 5) (s : State), s.freeA h 15 = true →
    ∃ f : List Flight, exec (.pmovPut h a) s = .next (s.ended (s.begun.modC fun c => { c with flight := c.flight ++ f }) none) ∧
      f.length = 15 ∧
      ∀ j, 1 ≤ j → j < 16 → f[j - 1]? = some ⟨.p (predOf h.s (BitVec.ofNat 4 j)), BitVec.ofNat 64 ((s.opA h.s a).getLsbD j).toNat, 1⟩)

/-- R144, R145, R147: pointer stepping and fields, and block-cyclic distribution. Forms that it completes: addp, addpE, pfmt, pfld, gdistCore, gdistOff. -/
def Obligations.PointerAndDistributionResults : Prop :=
  ∀ (h : AHdr) (d a b : BitVec 5) (x : Bool) (i : BitVec 8) (f n : BitVec 2) (s : State), s.freeA h 1 = true →
    let u := s.opA h.s a
    let v := s.opB h.s b x
    let r (y : Word) (l : Nat) : Result := .next (s.wrote (.s (regOf h.s d)) y l)
    let dt (k : Nat) : Word := s.begun.r.dtReg n k
    let coord (k : Nat) : Nat := field u (16 * k) 16
    let own (k : Nat) : Nat := if field (dt k) 0 16 = 0 ∨ field (dt k) 18 11 = 0 then 0 else coord k / field (dt k) 0 16 % field (dt k) 18 11
    let loc (k : Nat) : Nat := if field (dt k) 0 16 = 0 ∨ field (dt k) 18 11 = 0 then coord k
      else coord k / field (dt k) 0 16 / field (dt k) 18 11 * field (dt k) 0 16 + coord k % field (dt k) 0 16
    exec (.addp h d a b x) s = r (u.extractLsb' 48 16 ++ (u.extractLsb' 0 48 + v.truncate 48)) 1 ∧
    exec (.addpE h d a b x) s = r (u.extractLsb' 48 16 ++ (u.extractLsb' 0 48 + BitVec.ofInt 48 (v.toInt * fmtWidth (u.toNat / 2 ^ 59) / 8))) 1 ∧
    exec (.pfmt h d a i) s = r (i ++ u.extractLsb' 0 56) 1 ∧
    exec (.pfld h d a f) s = r (if f = 0 then u >>> 59 else if f = 1 then (u >>> 56) &&& 7 else if f = 2 then (u >>> 48) &&& 0xFF else u &&& 0xFFFFFFFFFFFF) 1 ∧
    exec (.gdistCore h d a b x n) s =
      r (v + BitVec.ofNat 64 (own 0 * field (dt 0) 29 11 + own 1 * field (dt 1) 29 11 + own 2 * field (dt 2) 29 11 + own 3 * field (dt 3) 29 11)) 3 ∧
    exec (.gdistOff h d a b x n) s =
      r (v.extractLsb' 48 16 ++ (v.extractLsb' 0 48 +
        BitVec.ofNat 48 (loc 0 * field (dt 0) 40 24 + loc 1 * field (dt 1) 40 24 + loc 2 * field (dt 2) 40 24 + loc 3 * field (dt 3) 40 24))) 3

/-- R148 to R152: scalar floating point, for every operand and mode. FADD, FSUB, FMUL and FFMA write the exact value of R149 rounded once to FP32 under the mode, and the LFSR takes the step of that mode (one under SR, none otherwise, R68); FMIN and FMAX write the minimum and maximum of R78, unrounded; FCVT writes the conversion of its code, and steps the LFSR under SR where the conversion is one that rounds; FCLASS sets the one bit of its operand's class. R56: FADD, FSUB, FMUL and FFMA with a NaN operand, and their invalid operations (a difference of equal infinities, zero times infinity), write the canonical NaN; so do FMIN and FMAX with a NaN operand. Forms that it completes: fadd, fsub, fmul, ffma, fmin, fmax, fcvt, fclass. -/
def Obligations.ScalarFloatResults : Prop :=
  (∀ (h : AHdr) (d a b k : BitVec 5) (x : Bool) (rm : BitVec 3) (s : State), s.freeA h 1 = true →
    let u := fpOf (s.opA h.s a)
    let v := fpOf (s.opB h.s b x)
    let w := fpOf (s.opA h.s d)
    let rounded (y : Word) : Result := .next (s.ended ((s.begun.result (.s (regOf h.s d)) y 4).stepLfsr rm) none)
    let plain (y : Word) : Result := .next (s.wrote (.s (regOf h.s d)) y 4)
    let fp (y : Val) : Word := BitVec.ofNat 64 (roundTo .fp32 rm s.begun.r.lfsr y)
    let bits := (s.opA h.s a).truncate 32
    let ex := bits.extractLsb' 23 8
    let fr := bits.extractLsb' 0 23
    let kind : Nat := if ex = 255 then (if fr ≠ 0 then 8 else if bits.msb then 0 else 7)
      else if ex ≠ 0 then (if bits.msb then 1 else 6) else if fr ≠ 0 then (if bits.msb then 2 else 5) else if bits.msb then 3 else 4
    exec (.fadd h d a b x rm) s = rounded (fp (Val.add (isRd rm) u v)) ∧
    exec (.fsub h d a b x rm) s = rounded (fp (Val.add (isRd rm) u v.negate)) ∧
    exec (.fmul h d a b x rm) s = rounded (fp (Val.mul u v)) ∧
    exec (.ffma h d a b x rm) s = rounded (fp (Val.add (isRd rm) (Val.mul u v) w)) ∧
    exec (.fmin h d a b x) s = plain (BitVec.ofNat 64 (roundTo .fp32 0 0 (minVal u v))) ∧
    exec (.fmax h d a b x) s = plain (BitVec.ofNat 64 (roundTo .fp32 0 0 (maxVal u v))) ∧
    exec (.fcvt h d a k rm) s = .next (s.ended ((s.begun.result (.s (regOf h.s d)) (fcvtOf k rm s.begun.r.lfsr (s.opA h.s a)) 4).stepLfsr
      (if fcvtExact k then 0 else rm)) none) ∧
    exec (.fclass h d a) s = plain (1#64 <<< kind)) ∧
  (∀ (h : AHdr) (d a b : BitVec 5) (x : Bool) (rm : BitVec 3) (s : State), s.freeA h 1 = true →
    let u := fpOf (s.opA h.s a)
    let v := fpOf (s.opB h.s b x)
    let w := fpOf (s.opA h.s d)
    let nan : Result := .next (s.ended ((s.begun.result (.s (regOf h.s d)) 0x7FC00000 4).stepLfsr rm) none)
    let zeroInf (p q : Val) : Prop := ∃ n m e, p = .inf n ∧ q = .fin m 0 e
    ((u = .nan ∨ v = .nan ∨ ∃ n, u = .inf n ∧ v = .inf (!n)) → exec (.fadd h d a b x rm) s = nan) ∧
    ((u = .nan ∨ v = .nan ∨ ∃ n, u = .inf n ∧ v = .inf n) → exec (.fsub h d a b x rm) s = nan) ∧
    ((u = .nan ∨ v = .nan ∨ zeroInf u v ∨ zeroInf v u) → exec (.fmul h d a b x rm) s = nan) ∧
    ((u = .nan ∨ v = .nan ∨ w = .nan ∨ zeroInf u v ∨ zeroInf v u ∨ ∃ n, Val.mul u v = .inf n ∧ w = .inf (!n)) → exec (.ffma h d a b x rm) s = nan) ∧
    ((u = .nan ∨ v = .nan) → exec (.fmin h d a b x) s = .next (s.wrote (.s (regOf h.s d)) 0x7FC00000 4) ∧
      exec (.fmax h d a b x) s = .next (s.wrote (.s (regOf h.s d)) 0x7FC00000 4)))

/-- R122, R176, R178: loads and stores, in both forms. A load takes the little-endian bytes at the address, extended as the instruction says, at the latency of a load; a store puts the low bytes of the register at the address, lowest first. Forms that it completes: ld, ldExt, st, stExt, ldp, ldpExt, stp, stpExt. -/
def Obligations.LoadAndStoreResults : Prop :=
  (∀ (h : CHdr) (a b : BitVec 5) (z : BitVec 2) (k : Bool) (o : BitVec 3) (off : BitVec 32) (s : State),
    let load (op : Op) (p : State → Word) : State := s.ended ((op.begun s).result (.s (regOf h.s a))
      (if k then (BitVec.ofNat (8 * 2 ^ z.toNat) ((op.begun s).readLocal (ptrOff (p (op.begun s))) (2 ^ z.toNat))).signExtend 64
       else BitVec.ofNat 64 ((op.begun s).readLocal (ptrOff (p (op.begun s))) (2 ^ z.toNat))) 4) none
    let pair (op : Op) (p : State → Word) : State := s.ended (((op.begun s).result (.s (regOf h.s a))
      (BitVec.ofNat 64 (leNat (((op.begun s).readBytes (ptrOff (p (op.begun s))) 16).take 8))) 4).result (.s (regOf h.s (a + 1)))
      (BitVec.ofNat 64 (leNat (((op.begun s).readBytes (ptrOff (p (op.begun s))) 16).drop 8))) 4) none
    let short (n : Nat) (t : State) : Word := ptrAdd (t.c.reg h.s b) (o.toNat * n : Nat)
    let long (t : State) : Word := ptrAdd (t.c.reg h.s b) off.toInt
    ((opLd h a b z k o).ready s = true → exec (.ld h a b z k o) s = .next (load (opLd h a b z k o) (short (2 ^ z.toNat)))) ∧
    ((opLdExt h a b z k off).ready s = true → exec (.ldExt h a b z k off) s = .next (load (opLdExt h a b z k off) long)) ∧
    ((opLdp h a b o).ready s = true → exec (.ldp h a b o) s = .next (pair (opLdp h a b o) (short 16))) ∧
    ((opLdpExt h a b off).ready s = true → exec (.ldpExt h a b off) s = .next (pair (opLdpExt h a b off) long))) ∧
  (∀ (h : CHdr) (a b : BitVec 5) (z : BitVec 2) (o : BitVec 3) (off : BitVec 32) (s : State),
    let store (op : Op) (p : State → Word) : State := s.ended ((op.begun s).writeBytes (ptrOff (p (op.begun s)))
      (leBytes (2 ^ z.toNat) ((op.begun s).c.reg h.s a).toNat)) none
    let pair (op : Op) (p : State → Word) : State := s.ended ((op.begun s).writeBytes (ptrOff (p (op.begun s)))
      (leBytes 8 ((op.begun s).c.reg h.s a).toNat ++ leBytes 8 ((op.begun s).c.reg h.s (a + 1)).toNat)) none
    let short (n : Nat) (t : State) : Word := ptrAdd (t.c.reg h.s b) (o.toNat * n : Nat)
    let long (t : State) : Word := ptrAdd (t.c.reg h.s b) off.toInt
    ((opSt h a b z o).ready s = true → exec (.st h a b z o) s = .next (store (opSt h a b z o) (short (2 ^ z.toNat)))) ∧
    ((opStExt h a b z off).ready s = true → exec (.stExt h a b z off) s = .next (store (opStExt h a b z off) long)) ∧
    ((opStp h a b o).ready s = true → exec (.stp h a b o) s = .next (pair (opStp h a b o) (short 16))) ∧
    ((opStpExt h a b off).ready s = true → exec (.stpExt h a b off) s = .next (pair (opStpExt h a b off) long)))

/-- R179: full/empty words, in both forms: LDFE and LDFF issue where the word is full and STFE where it is empty; LDFE leaves it empty, both stores leave it full. R123, R180, R201: the local atomic returns the old value and writes the new one, and NDLD loads a nest descriptor from its record. Forms that it completes: ldfe, ldfeExt, ldff, ldffExt, stfe, stfeExt, stf, stfExt, lat, ndld. -/
def Obligations.FullEmptyAndAtomicResults : Prop :=
  (∀ (h : CHdr) (a b : BitVec 5) (o : BitVec 3) (off : BitVec 32) (s : State),
    let at_ (t : State) (d : Int) : Nat := ptrOff (ptrAdd (t.c.reg h.s b) d)
    let got (op : Op) (d : Int) : State := (op.begun s).result (.s (regOf h.s a)) (BitVec.ofNat 64 ((op.begun s).readLocal (at_ (op.begun s) d) 8)) 4
    let put (op : Op) (d : Int) : State :=
      ((op.begun s).writeBytes (at_ (op.begun s) d) (leBytes 8 ((op.begun s).c.reg h.s a).toNat))
    let sh : Int := (o.toNat * 8 : Nat)
    let li : Int := off.toInt
    ((opLdfe h a b o).ready s = true → s.seen.isFull (at_ s.seen sh) = true ∧
      exec (.ldfe h a b o) s = .next (s.ended ((got (opLdfe h a b o) sh).setFull (at_ ((opLdfe h a b o).begun s) sh) false) none)) ∧
    ((opLdfeExt h a b off).ready s = true → s.seen.isFull (at_ s.seen li) = true ∧
      exec (.ldfeExt h a b off) s = .next (s.ended ((got (opLdfeExt h a b off) li).setFull (at_ ((opLdfeExt h a b off).begun s) li) false) none)) ∧
    ((opLdff h a b o).ready s = true → s.seen.isFull (at_ s.seen sh) = true ∧
      exec (.ldff h a b o) s = .next (s.ended (got (opLdff h a b o) sh) none)) ∧
    ((opLdffExt h a b off).ready s = true → s.seen.isFull (at_ s.seen li) = true ∧
      exec (.ldffExt h a b off) s = .next (s.ended (got (opLdffExt h a b off) li) none)) ∧
    ((opStfe h a b o).ready s = true → s.seen.isFull (at_ s.seen sh) = false ∧
      exec (.stfe h a b o) s = .next (s.ended ((put (opStfe h a b o) sh).setFull (at_ ((opStfe h a b o).begun s) sh) true) none)) ∧
    ((opStfeExt h a b off).ready s = true → s.seen.isFull (at_ s.seen li) = false ∧
      exec (.stfeExt h a b off) s = .next (s.ended ((put (opStfeExt h a b off) li).setFull (at_ ((opStfeExt h a b off).begun s) li) true) none)) ∧
    ((opStf h a b o).ready s = true →
      exec (.stf h a b o) s = .next (s.ended ((put (opStf h a b o) sh).setFull (at_ ((opStf h a b o).begun s) sh) true) none)) ∧
    ((opStfExt h a b off).ready s = true →
      exec (.stfExt h a b off) s = .next (s.ended ((put (opStfExt h a b off) li).setFull (at_ ((opStfExt h a b off).begun s) li) true) none))) ∧
  (∀ (h : CHdr) (a b c : BitVec 5) (x : Bool) (w : BitVec 2) (op : BitVec 4) (k : BitVec 3) (s : State),
    ((opLat h a b c x w op).ready s = true →
      let t := (opLat h a b c x w op).begun s
      let p := ptrOff (t.c.reg h.s b)
      let n := 4 * 2 ^ w.toNat
      exec (.lat h a b c x w op) s = .next (s.ended ((t.writeLocal p n (atomicNew op n (t.readLocal p n) (t.c.regX h.s c x).toNat (t.c.reg h.s a).toNat)).result
        (.s (regOf h.s a)) (BitVec.ofNat 64 (t.readLocal p n)) 4) none)) ∧
    ((opNdld h a k).ready s = true →
      let t := (opNdld h a k).begun s
      let bs := t.readBytes (ptrOff (t.c.reg h.s a)) 64
      ∃ n : Nest, exec (.ndld h a k) s = .next (s.ended (t.modR fun r => { r with nests := r.nests.set k.toNat n k.isLt }) none) ∧
        ∀ d : Fin 6, (n.bound.get d).toNat = leNat ((bs.drop (2 * d.val)).take 2) ∧ (n.stride.get d).toNat = leNat ((bs.drop (16 + 4 * d.val)).take 4)) ∧
    (∀ n old v cmp, old < 2 ^ (8 * n) → v < 2 ^ (8 * n) →
      atomicNew 0 n old v cmp = (old + v) % 2 ^ (8 * n) ∧ atomicNew 3 n old v cmp = min old v ∧ atomicNew 4 n old v cmp = max old v ∧
      atomicNew 5 n old v cmp = old &&& v ∧ atomicNew 6 n old v cmp = old ||| v ∧ atomicNew 7 n old v cmp = old ^^^ v ∧
      atomicNew 8 n old v cmp = v ∧ atomicNew 9 n old v cmp = if old = cmp % 2 ^ (8 * n) then v else old))

/-- R4, R46, R49, R106: a write to a memory region changes its bytes and no other byte of the core's memory, and the bytes read back. -/
def Obligations.LocalWriteChangesItsBytesAlone : Prop :=
  ∀ (s : State) (o : Nat) (bs : List Byte) (g : Region) (lo hi : Nat), s.Inv → s.regionOf o = some (g, lo, hi) → g ≠ .control → s.auxTags g = false →
    (∀ i, i < bs.length → memGet (s.writeBytes o bs).core.mem (s.keyOf g o + i) = bs.getD i 0) ∧
    (∀ a, (a < s.keyOf g o ∨ s.keyOf g o + bs.length ≤ a) → memGet (s.writeBytes o bs).core.mem a = memGet s.core.mem a)

/-- R20, R41, R46, R49, R176: an aligned access to the user scratchpad, with no range-table entry in the way, passes every check in user mode, so the load or store issues. -/
def Obligations.AlignedScratchpadAccessIssues : Prop :=
  ∀ (h : CHdr) (a b : BitVec 5) (z : BitVec 2) (k : Bool) (off : BitVec 32) (s : State),
    let p := ptrAdd (s.seen.c.reg h.s b) off.toInt
    s.freeC h 1 = true → ptrWin p = 0 → ptrBlg p = 0 → fmtKnown (ptrFmt p) = true →
    ptrOff p + 2 ^ z.toNat ≤ s.r.userEnd → ptrOff p % 2 ^ z.toNat = 0 →
    (∀ i, s.core.range.get i = none) → s.core.bad = [] →
    (opLdExt h a b z k off).ready s = true ∧ (opStExt h a b z off).ready s = true

/-- R86, R88, R154 to R156: transfers of control outside a loop. CALL and CALLI write the pair after their bundle to s31; JTAB falls through where the index is not in the table. LOOP outside a loop completes at the bundle after it, with the loop active, or with no loop active where a bound is 0; LOOPX inside one completes at its target. Where a transfer ends a bundle the context goes on at its target; where none does and no loop is active, at the pair after the bundle. Forms that it completes: nop, br, bri, call, calli, ret, jtab, loop, loopx. -/
def Obligations.TransferResults : Prop :=
  ((∀ (h : CHdr) (o len : BitVec 16) (a b : BitVec 5) (i : BitVec 6) (s : State), s.freeC h 1 = true → s.c.looping = false →
    let off : Pair := s.c.pc + o.truncate 14
    let reg : Pair := (s.begun.c.reg h.s a + i.signExtend 64).truncate 14
    let linked : State := s.begun.result (.s 31) ((s.c.pc + BitVec.ofNat 14 s.bundleLen).zeroExtend 64) 1
    exec (.nop h) s = .next (s.ended s.begun none) ∧
    exec (.br h o) s = .next (s.ended s.begun (some off)) ∧
    exec (.bri h a i) s = .next (s.ended s.begun (some reg)) ∧
    exec (.call h o) s = .next (s.ended linked (some off)) ∧
    exec (.calli h a i) s = .next (s.ended linked (some reg)) ∧
    exec (.ret h a) s = .next (s.ended s.begun (some ((s.begun.c.reg h.s a).truncate 14))) ∧
    (len.toNat ≤ (s.seen.c.reg h.s b).toNat → exec (.jtab h a b len) s = .next (s.ended s.begun none)) ∧
    ((s.seen.c.reg h.s b).toNat < len.toNat → (opJtab h a b len).ready s = true →
      let t := (opJtab h a b len).begun s
      exec (.jtab h a b len) s = .next (s.ended t (some (s.c.pc +
        (BitVec.ofNat 16 (t.readLocal (ptrOff (ptrAdd (t.c.reg h.s a) (2 * (t.c.reg h.s b).toNat : Nat))) 2)).truncate 14))))) ∧
  (∀ (h : CHdr) (o : BitVec 16) (k : BitVec 3) (cnt : BitVec 5) (s : State), s.freeC h 0 = true →
    (s.c.looping = false → ∃ t, exec (.loop h k cnt) s = .next t ∧ t.core.mem = s.core.mem ∧ t.c.last = s.c.pc ∧
      ((∀ d : Fin 6, (s.begun.r.nest k).bound.get d ≠ 0) → t.c.pc = s.begun.pairAfter ∧ t.c.loop.active = true ∧ t.c.loop.first = s.begun.pairAfter ∧ t.c.loop.count = cnt) ∧
      ((∃ d : Fin 6, (s.begun.r.nest k).bound.get d = 0) → t.c.loop.active = false)) ∧
    (s.c.looping = true → ∃ t, exec (.loopx h o) s = .next t ∧ t.core.mem = s.core.mem ∧ t.c.pc = s.c.pc + o.truncate 14 ∧ t.c.last = s.c.pc ∧ t.c.loop.active = false))) ∧
  (∀ (s t : State) (p : Pair), t.curRes = s.curRes → t.curCtx = s.curCtx → t.c.pc = s.c.pc → t.bundleLen = s.bundleLen →
    (s.ended t (some p)).c.pc = p ∧ (s.ended t (some p)).c.last = s.c.pc ∧
    (s.c.looping = false → (s.ended t none).c.pc = s.c.pc + BitVec.ofNat 14 s.bundleLen ∧ (s.ended t none).c.last = s.c.pc))

/-- R159, R162: LOOP starts at index 0 with the streams' bases, the body being the bundles after it, or skips the body where a bound is 0; LOOPX ends the loop and transfers. R153, R161: a taken BR, BRI, CALL, CALLI, RET or JTAB, or a LOOP, inside an active loop, and LOOPX outside one, raise ILLEGAL_OPERAND. The fetch and decode checks of a body that is skipped are not stated here. Forms that it completes: br, bri, call, calli, ret, jtab, loop, loopx. -/
def Obligations.LoopResults : Prop :=
  (∀ (h : CHdr) (o : BitVec 16) (k : BitVec 3) (cnt : BitVec 5) (s : State), s.freeC h 0 = true →
    (s.c.looping = false →
      let n := s.begun.r.nest k
      let begin_ (act : Bool) : State := s.begun.modC fun c =>
        { c with loop := ⟨n, Vector.replicate 6 0, c.streamBase n, s.begun.pairAfter, cnt, act, 0⟩ }
      ((∀ d : Fin 6, n.bound.get d ≠ 0) → exec (.loop h k cnt) s = .next (s.ended (begin_ true) none)) ∧
      ((∃ d : Fin 6, n.bound.get d = 0) →
        exec (.loop h k cnt) s = .next (s.ended (begin_ false) (some ((begin_ false).skipBundles (cnt.toNat + 1) (begin_ false).pairAfter))))) ∧
    (s.c.looping = true →
      exec (.loopx h o) s = .next (s.ended (s.begun.modC fun c => { c with loop := { c.loop with active := false, done := 0 } }) (some (s.c.pc + o.truncate 14))))) ∧
  (∀ (h : CHdr) (o len : BitVec 16) (a b : BitVec 5) (i : BitVec 6) (k : BitVec 3) (cnt : BitVec 5) (s : State), s.freeC h 1 = true →
    let bad (v : Word) : Result := .next (s.takeTrap (issueTrap Cause.illegalOperand 0 v))
    (s.c.looping = true →
      exec (.br h o) s = bad 0 ∧ exec (.bri h a i) s = bad (s.seen.c.reg h.s a) ∧ exec (.call h o) s = bad 0 ∧
      exec (.calli h a i) s = bad (s.seen.c.reg h.s a) ∧ exec (.ret h a) s = bad (s.seen.c.reg h.s a) ∧
      ((s.seen.c.reg h.s b).toNat < len.toNat → exec (.jtab h a b len) s = bad (s.seen.c.reg h.s a)) ∧ exec (.loop h k cnt) s = bad 0) ∧
    (s.c.looping = false → exec (.loopx h o) s = bad 0))

/-- R160: the loop unit runs a nest in order, dimension 0 innermost: from any index below the bounds a step goes to the index whose place is one higher, and it ends the loop exactly after the last place. -/
def Obligations.LoopRunsTheNestInOrder : Prop :=
  ∀ (n : Nest) (i : Vector (BitVec 16) 6), (∀ d, (i.get d).toNat < (n.bound.get d).toNat) →
    ((loopCarry n 6 i).2 = true ↔ nestRank n i + 1 = n.passes) ∧
    ((loopCarry n 6 i).2 = false → nestRank n (loopCarry n 6 i).1 = nestRank n i + 1 ∧
      ∀ d, ((loopCarry n 6 i).1.get d).toNat < (n.bound.get d).toNat)

/-- R163 to R166: a WAIT issues where its condition holds and then only goes on; with a limit it writes 1 where the condition held first, or in the same cycle, and 0 where the limit lapsed first; WAITMB takes one trip of its mailbox. Forms that it completes: waitFull, waitEmpty, waitFtime, waitErrq, waitCyc, waitHelpers, waitLimit, waitch, waitmb, free. -/
def Obligations.WaitResults : Prop :=
  ∀ (h : CHdr) (a : BitVec 5) (f c : BitVec 3) (m t : BitVec 4) (k : BitVec 7) (lim : BitVec 32) (s : State),
    let on (op : Op) : Result := .next (s.ended (op.begun s) none)
    let u := s.seen.c.reg h.s a
    ((opWaitFull h a).ready s = true → s.seen.isFull (ptrOff u) = true ∧ exec (.waitFull h a) s = on (opWaitFull h a)) ∧
    ((opWaitEmpty h a).ready s = true → s.seen.isFull (ptrOff u) = false ∧ exec (.waitEmpty h a) s = on (opWaitEmpty h a)) ∧
    ((opWaitFtime h a f).ready s = true → u.toNat % 2 ^ 32 ≤ (s.seen.r.evField f).t.toNat ∧ exec (.waitFtime h a f) s = on (opWaitFtime h a f)) ∧
    ((opWaitErrq h).ready s = true → s.seen.r.errq ≠ [] ∧ exec (.waitErrq h) s = on (opWaitErrq h)) ∧
    ((opWaitCyc h a).ready s = true → u.toNat ≤ s.seen.heldFor ∧ exec (.waitCyc h a) s = on (opWaitCyc h a)) ∧
    ((opWaitHelpers h a).ready s = true → (∀ j : CtxNo, j ≠ 0 → u.getLsbD j.val = true → (s.seen.r.ctx.get j).status = .free) ∧
      exec (.waitHelpers h a) s = on (opWaitHelpers h a)) ∧
    ((opWaitLimit h a t k lim).ready s = true →
      let w := waitKind h a t k
      let v := (opWaitLimit h a t k lim).begun s
      exec (.waitLimit h a t k lim) s = .next (s.ended (v.result (.s (regOf h.s a)) (if v.c.verdict = some true ∨ (v.c.verdict = none ∧ w.stall v = false ∧ w.cond v = true) then 1 else 0) 4) none) ∧
      (lim.toNat ≤ s.seen.heldFor ∨ (w.stall s.seen = false ∧ w.cond s.seen = true))) ∧
    ((opWaitch h a c).ready s = true →
      0 ≤ ((s.seen.r.chans.get ⟨c.toNat, c.isLt⟩).done - (u.truncate 32 + 1)).toInt ∧ exec (.waitch h a c) s = on (opWaitch h a c)) ∧
    ((opWaitmb h m).ready s = true → (s.seen.r.mbox m).trips ≠ 0 ∧
      exec (.waitmb h m) s = .next (s.ended (((opWaitmb h m).begun s).modR fun r => r.modMbox m fun b => { b with trips := b.trips - 1 }) none))

/-- R167 to R170: helper contexts start and end, a context yields to the others that are ready, and HALT ends the residency. Forms that it completes: start, hend, yield, halt, free, residencySwitch. -/
def Obligations.ContextLifeResults : Prop :=
  ∀ (h : CHdr) (a : BitVec 5) (k : BitVec 4) (s : State),
    ((opStart h a k).ready s = true → s.curCtx = 0 ∧ (s.seen.r.ctx.get (ctxOf k)).status = .free ∧
      let v := (opStart h a k).begun s
      exec (.start h a k) s = .next (s.ended (v.modCtx (ctxOf k) fun c => c.started ((v.c.reg h.s a).truncate 14) v.holding) none)) ∧
    ((opHend h).ready s = true → s.curCtx ≠ 0 ∧
      exec (.hend h) s = .next (s.ended ((((opHend h).begun s).modC Ctx.ended).modR (·.passPending ((opHend h).begun s).curCtx)) none)) ∧
    ((opYield h).ready s = true →
      let v := (opYield h).begun s
      let others := v.core.ready.filter (· != v.curCtx)
      exec (.yield h) s = .next (s.ended (if v.core.gang.isSome then v
        else if others = [] then (if v.core.readyRes = [] then v else v.post .residencySwitch)
        else v.modC fun c => { c with yields := others }) none)) ∧
    ((opHalt h).ready s = true → s.curCtx = 0 ∧ s.seen.haltReady = true ∧
      exec (.halt h) s = .next (s.ended ((((opHalt h).begun s).disband false).endRes ((opHalt h).begun s).curRes .halted none) none))

/-- R171 to R174, R336, R337: gangs form and disband, a bell counts this core's arrival and blocks its context, and an exchange phase opens and closes. Forms that it completes: couple, uncouple, bell, bellD, bellX, exch, exchend. -/
def Obligations.GangBellExchangeResults : Prop :=
  ∀ (h : CHdr) (w k : BitVec 4) (d : Bool) (s : State),
    ((opCouple h w).ready s = true →
      let v := (opCouple h w).begun s
      s.seen.coupled w = true ∧
      exec (.couple h w) s = .next (s.ended (((if v.c.arrived then v else v.emit (.couple w)).modCore fun c => { c with gang := some w, gangIn := GangIn.reset, coupling := [] }).modR Res.holdHelpers) none)) ∧
    (s.freeC h 0 = true → exec (.uncouple h) s = .next (s.ended (s.begun.disband false) none)) ∧
    ((opBell h k).ready s = true → exec (.bell h k) s = .next (s.ended (((opBell h k).begun s).arriveBell false k false) none)) ∧
    ((opBellD h k).ready s = true → exec (.bellD h k) s = .next (s.ended (((opBellD h k).begun s).arriveBell true k false) none)) ∧
    ((opBellX h k d).ready s = true → d = false ∧ exec (.bellX h k d) s = .next (s.ended (((opBellX h k d).begun s).arriveBell false k true) none)) ∧
    (∀ (t : State) (cross x : Bool), ((t.arriveBell cross k x).c.blocked = t.c.blocked ++ [(.bell cross (t.r.bellNo cross k), t.c.mode)]) ∧
      (t.arriveBell cross k x).c.barred = true ∧ ((t.arriveBell cross k x).die.bell cross (t.r.bellNo cross k)).here = true) ∧
    ((opExch h).ready s = true → s.seen.core.exch.mode = true ∧
      exec (.exch h) s = .next (s.ended (((opExch h).begun s).modCore fun c => { c with exch := { c.exch with opened := true } }) none)) ∧
    ((opExchend h).ready s = true → ((opExchend h).begun s).core.exch.collision = none →
      exec (.exchend h) s = .next (s.ended ((opExchend h).begun s).closePhase none) ∧ ((opExchend h).begun s).closePhase.core.exch.mode = false)

/-- R206: CSRR reads the register at the latency of a load; CSRW, CSRS and CSRC form their value from the old one and write it at the end of the bundle. R18, R19, R32, R37, R67, R186, R189, R208: so do the registers whose write has a row of its own, into the register's fields. Forms that it completes: csrr, csrw, csrs, csrc, splimWrite, spbaseWrite, tshapeWrite, adWrite, accownWrite, tileownWrite, trestartWrite, extentWrite, errqsWrite, srlfsrWrite, vshareWrite, capkeyWrite. -/
def Obligations.ControlRegisterWrites : Prop :=
  (∀ (h : CHdr) (a : BitVec 5) (reg : BitVec 12) (s : State),
    let n := reg.toNat
    let plain : Prop := n ≠ 0x50 ∧ n ≠ 0x118 ∧ n ≠ 0x119
    ((opCsrr h a reg).ready s = true → csrKnown n = true ∧ (csrSuper n = true → s.c.mode = true) ∧
      exec (.csrr h a reg) s = .next (s.ended (((opCsrr h a reg).begun s).result (.s (regOf h.s a)) (((opCsrr h a reg).begun s).csrRead n) 4) none)) ∧
    (plain → (opCsrw h a reg).ready s = true →
      let t := (opCsrw h a reg).begun s
      exec (.csrw h a reg) s = .next (s.ended (t.csrPut n (t.c.reg h.s a)) none)) ∧
    (plain → (opCsrs h a reg).ready s = true →
      let t := (opCsrs h a reg).begun s
      exec (.csrs h a reg) s = .next (s.ended (t.csrPut n (t.csrRead n ||| t.c.reg h.s a)) none)) ∧
    (plain → (opCsrc h a reg).ready s = true →
      let t := (opCsrc h a reg).begun s
      exec (.csrc h a reg) s = .next (s.ended (t.csrPut n (t.csrRead n &&& ~~~(t.c.reg h.s a))) none))) ∧
  (∀ (h : CHdr) (op : BitVec 2) (a : BitVec 5) (k : BitVec 4) (j : BitVec 3) (ty : BitVec 2) (hi : Bool) (s : State),
    let out (o : Op) (f : State → State) : Result := .next (s.ended (f (o.begun s)) none)
    let v (n : Nat) (t : State) : Word := csrNew op (t.csrRead n) (t.c.reg h.s a)
    ((opSplimWrite h op a).ready s = true → exec (.splimWrite h op a) s = out (opSplimWrite h op a) fun t =>
      t.modR fun r => { r with splimit := (v 0x111 t >>> 12).truncate 10, phsz := (v 0x111 t >>> 24).truncate 5 }) ∧
    ((opSpbaseWrite h op a).ready s = true → exec (.spbaseWrite h op a) s = out (opSpbaseWrite h op a) fun t =>
      t.modR fun r => { r with spbase := (v 0x110 t >>> 12).truncate 9 }) ∧
    ((opTshapeWrite h op a k).ready s = true → exec (.tshapeWrite h op a k) s = out (opTshapeWrite h op a k) fun t =>
      t.modR fun r => { r with tshape := r.tshape.set k.toNat (shapeOf (v (0x10 + k.toNat) t).toNat) k.isLt }) ∧
    ((opAdWrite h op a j).ready s = true → exec (.adWrite h op a j) s = out (opAdWrite h op a j) fun t =>
      t.modR fun r => { r with ad := r.ad.set j.toNat (accDescOf (v (0x20 + j.toNat) t).toNat) j.isLt }) ∧
    ((opAccownWrite h op a).ready s = true → exec (.accownWrite h op a) s = out (opAccownWrite h op a) fun t =>
      t.modR fun r => { r with accOwn := (v 0x112 t).getLsbD 8, accLive := if (v 0x112 t).getLsbD 8 then (v 0x112 t).truncate 8 else 0 }) ∧
    ((opTileownWrite h op a).ready s = true → exec (.tileownWrite h op a) s = out (opTileownWrite h op a) fun t =>
      t.modR fun r => { r with tileOwn := (v 0x113 t).getLsbD 24, tlive := if (v 0x113 t).getLsbD 24 then (v 0x113 t).truncate 16 else 0, mlive := if (v 0x113 t).getLsbD 24 then (v 0x113 t >>> 16).truncate 8 &&& 0xFE else 0 }) ∧
    ((opTrestartWrite h op a).ready s = true → exec (.trestartWrite h op a) s = out (opTrestartWrite h op a) fun t => t.setTrestart t.curCtx (v 0xA t)) ∧
    (ty ≠ 3 → (opExtentWrite h op a ty k).ready s = true → exec (.extentWrite h op a ty k) s = out (opExtentWrite h op a ty k) fun t =>
      t.modR fun r => { r with extentsPending := r.extentsPending.set k.toNat ((r.extentsPending.get ⟨k.toNat, k.isLt⟩).set ty.toNat (v (0x180 + 16 * ty.toNat + k.toNat) t)) k.isLt }) ∧
    ((opErrqsWrite h op a).ready s = true → exec (.errqsWrite h op a) s = out (opErrqsWrite h op a) fun t =>
      if op = 0 ∧ (t.c.reg h.s a).getLsbD 7 = true then t.modR fun r => { r with errOvf := false } else t) ∧
    ((opSrlfsrWrite h op a).ready s = true → exec (.srlfsrWrite h op a) s = out (opSrlfsrWrite h op a) fun t =>
      t.modR fun r => { r with lfsr := if (v 8 t).truncate 32 = (0 : BitVec 32) then 1 else (v 8 t).truncate 32 }) ∧
    ((opVshareWrite h op a).ready s = true → exec (.vshareWrite h op a) s = out (opVshareWrite h op a) fun t =>
      t.modR fun r => { r with vshare := (v 9 t).truncate 4 }) ∧
    ((opCapkeyWrite h op a hi).ready s = true → exec (.capkeyWrite h op a hi) s = out (opCapkeyWrite h op a hi) fun t =>
      if op ≠ 0 then t
      else if hi then t.modR fun r => { r with capkey := t.c.reg h.s a ++ r.capkey.extractLsb' 0 64 }
      else t.modR fun r => { r with capkey := r.capkey.extractLsb' 64 64 ++ t.c.reg h.s a }))

/-- R8, R9, R206: after a write, a register reads back the value in its writable bits and zero in the others; a read-only register is unchanged. -/
def Obligations.ControlRegisterReadBack : Prop :=
  ∀ (s : State) (v : Word) (k : Nat),
    (s.csrPut 9 v).csrRead 9 = v &&& 0xF ∧
    (k < 16 → (s.csrPut (0x40 + k) v).csrRead (0x40 + k) = v &&& 0xFFFFFFFFFFFCFFFF) ∧
    (k < 8 → (s.csrPut (0x20 + k) v).csrRead (0x20 + k) = v &&& 0xEFFF01FF) ∧
    (k < 16 → (s.csrPut (0x10 + k) v).csrRead (0x10 + k) = v &&& 0x71FF03FF) ∧
    (s.csrPut 0x100 v).csrRead 0x100 = v &&& 0x7F ∧ (s.csrPut 0x101 v).csrRead 0x101 = v &&& 0x3FFF ∧
    (s.csrPut 0x102 v).csrRead 0x102 = v &&& 0x3FFF ∧ (s.csrPut 0x103 v).csrRead 0x103 = v ∧ (s.csrPut 0x104 v).csrRead 0x104 = v ∧
    (s.csrPut 0x108 v).csrRead 0x108 = v &&& 0x3FFF ∧ (s.csrPut 0x110 v).csrRead 0x110 = v &&& 0x1FF000 ∧
    (s.csrPut 0x111 v).csrRead 0x111 = v &&& 0x1F3FF000 ∧
    (s.csrPut 0x112 v).csrRead 0x112 = (if v.getLsbD 8 then v &&& 0x1FF else 0) ∧
    (s.csrPut 0x113 v).csrRead 0x113 = (if v.getLsbD 24 then v &&& 0x1FEFFFF else 0) ∧
    (s.csrPut 0x114 v).csrRead 0x114 = v &&& 0x3F ∧ (s.csrPut 0x115 v).csrRead 0x115 = v &&& 0x3FFF3FFF ∧
    (k < 16 → (s.csrPut (0x180 + k) v).csrRead (0x180 + k) = v &&& 0x0000FFFFFFFFF03F ∧
      (s.csrPut (0x190 + k) v).csrRead (0x190 + k) = v &&& 0x0000FFFFFFFFF000 ∧ (s.csrPut (0x1A0 + k) v).csrRead (0x1A0 + k) = v &&& 0x0000FFFFFFFFF000) ∧
    (k < 4 → s.csrPut k v = s) ∧ (k < 16 → s.csrPut (0x28 + k) v = s)

/-- R204, R205, R209, R212, R213: TRAP raises USER_TRAP after its bundle and BKPT raises BREAKPOINT before any effect; SYSRET goes back to TRAP.PC in user mode with the user's results in flight and its loop; ERRQ takes the oldest entry; LIMM and PEERCLR. Forms that it completes: trap, sysret, errq, peerclr, bkpt, limm, limmHi. -/
def Obligations.SystemInstructionResults : Prop :=
  ∀ (h : CHdr) (a b : BitVec 5) (i : BitVec 7) (sx : Bool) (imm : BitVec 32) (s : State),
    (s.freeC h 1 = true → s.c.mode = false → exec (.trap h a i) s = .next ((s.ended s.begun none).takeTrap (trapWith Cause.userTrap (i.zeroExtend 64) (s.begun.c.reg h.s a)))) ∧
    (s.freeC h 1 = true → exec (.bkpt h) s = .next (s.takeTrap (trapWith Cause.breakpoint 0 0))) ∧
    (s.freeC h 1 = true → exec (.limm h a sx imm) s = .next (s.wrote (.s (regOf h.s a)) (if sx then imm.signExtend 64 else imm.zeroExtend 64) 1)) ∧
    (s.freeC h 1 = true → exec (.limmHi h a imm) s = .next (s.wrote (.s (regOf h.s a)) (imm ++ (s.begun.c.reg h.s a).extractLsb' 0 32) 1)) ∧
    (s.freeC h 1 = true → s.c.mode = true → ∃ t, exec (.sysret h) s = .next t ∧ t.c.mode = false ∧ t.c.pc = s.c.trap.pc ∧
      t.c.flight = s.c.frozen ∧ t.c.frozen = [] ∧ t.c.loop = s.c.aside.getD s.c.loop) ∧
    ((opErrq h a b).ready s = true →
      let t := (opErrq h a b).begun s
      let t1 := t.result (.s (regOf h.s a)) (BitVec.ofNat 64 (t.r.errq.length + if t.r.errOvf then 64 else 0)) 4
      (t.r.errq = [] → exec (.errq h a b) s = .next (s.ended t1 none)) ∧
      (∀ e l, t.r.errq = e :: l → exec (.errq h a b) s = .next (s.ended ((t1.writeBytes (ptrOff (t.c.reg h.s b))
        (leBytes 8 e.w0.toNat ++ leBytes 8 e.w8.toNat ++ leBytes 8 e.w16.toNat ++ leBytes 8 e.w24.toNat)).modR fun r => { r with errq := l, errOvf := false }) none))) ∧
    ((opPeerclr h a).ready s = true →
      let t := (opPeerclr h a).begun s
      s.c.mode = true ∧ exec (.peerclr h a) s = .next (s.ended (t.modR fun r => { r with deadPeers := r.deadPeers.filter (· != (t.c.reg h.s a).toNat) }) none))

/-- R210, R211: context records and accumulator spills. R389, R388, R102: supervisor writes to the control page that have a row of their own: RELEASE gives up a residency's group, DPTIMEOUT takes a value that is not 0, a pending-result word takes its tags or value. Forms that it completes: ctxsv, ctxld, accspill, accfill, releaseAcc, releaseTile, dptimeoutWrite, pendingResultWrite. -/
def Obligations.RecordSpillAndPageResults : Prop :=
  (∀ (h : CHdr) (a : BitVec 5) (k : BitVec 4) (j : BitVec 3) (s : State),
    let p (t : State) : Nat := ptrOff (t.c.reg h.s a)
    ((opCtxsv h a k).ready s = true →
      let t := (opCtxsv h a k).begun s
      s.c.mode = true ∧ exec (.ctxsv h a k) s = .next (s.ended (t.writeBytes (p t) ((if ctxOf k = s.curCtx then t.modC fun _ => t.core.before else t).ctxImage (ctxOf k))) none)) ∧
    ((opCtxld h a k).ready s = true →
      let t := (opCtxld h a k).begun s
      s.c.mode = true ∧ exec (.ctxld h a k) s = .next (s.ended ((t.modCtx (ctxOf k) fun c => (c.restored (t.readBytes (p t) 1024)).withAwait).setTrestart (ctxOf k)
        (BitVec.ofNat 64 (imageNat (t.readBytes (p t) 1024) 0x210 8))) none)) ∧
    ((opAccspill h a j).ready s = true →
      let t := (opAccspill h a j).begun s
      s.c.mode = true ∧ exec (.accspill h a j) s = .next (s.ended ((t.writeBytes (p t) (spillBytes t.core.mem (t.adOf j))).spillTime j) none)) ∧
    ((opAccfill h a j).ready s = true →
      let t := (opAccfill h a j).begun s
      s.c.mode = true ∧ exec (.accfill h a j) s = .next (s.ended
        ((t.modCore (fillWords (t.adOf j) (t.adOf j).words (t.readBytes (p t) (t.adOf j).bytes))).spillTime j) none))) ∧
  (∀ (k : ResNo) (c : CtxNo) (value : Bool) (i : BitVec 5) (v : Word) (s : State), s.r.limit ≤ 0x200000 →
    ((opReleaseAcc k).ready s = true → ∃ t, exec (.releaseAcc k) s = .next t ∧ (t.res.get k).accOwn = false ∧ (t.res.get k).accLive = 0 ∧ (t.res.get k).tileOwn = (s.res.get k).tileOwn ∧
      t.core.mem = s.core.mem) ∧
    ((opReleaseTile k).ready s = true → ∃ t, exec (.releaseTile k) s = .next t ∧ (t.res.get k).tileOwn = false ∧ (t.res.get k).tlive = 0 ∧ (t.res.get k).accOwn = (s.res.get k).accOwn ∧
      t.core.mem = s.core.mem) ∧
    ((opDptimeoutWrite v).ready s = true → ∃ t, exec (.dptimeoutWrite v) s = .next t ∧ t.core.mem = s.core.mem ∧
      t.core.dptimeout = if v.truncate 16 = (0 : BitVec 16) then s.core.dptimeout else v.truncate 16) ∧
    ((opPendingResultWrite c value i v).ready s = true → c ≠ s.curCtx → ∃ t, exec (.pendingResultWrite c value i v) s = .next t ∧ t.core.mem = s.core.mem ∧
      (t.r.ctx.get c).shown = if value then setValue (s.r.ctx.get c).shown i.toNat v else setTags (s.r.ctx.get c).shown (i.toNat / 4 * 4) v.toNat))

/-- R41, R130, R206: in user mode every supervisor instruction, and a CSR instruction that names a supervisor register, raises PRIVILEGE_FAULT. -/
def Obligations.SupervisorOnlyInstructionsTrap : Prop :=
  ∀ (h : CHdr) (a : BitVec 5) (k : BitVec 4) (j : BitVec 3) (reg : BitVec 12) (op ty : BitVec 2) (hi : Bool) (s : State), s.freeC h 1 = true → s.c.mode = false →
    let fault (v : Word) : Result := .next (s.takeTrap (issueTrap Cause.privilege 0 v))
    let u := s.seen.c.reg h.s a
    exec (.sysret h) s = fault 0 ∧ exec (.ctxsv h a k) s = fault u ∧ exec (.ctxld h a k) s = fault u ∧ exec (.accspill h a j) s = fault u ∧
    exec (.accfill h a j) s = fault u ∧ exec (.peerclr h a) s = fault u ∧
    (0x100 ≤ reg.toNat → reg.toNat < 0x200 →
      exec (.csrr h a reg) s = fault u ∧ exec (.csrw h a reg) s = fault u ∧ exec (.csrs h a reg) s = fault u ∧ exec (.csrc h a reg) s = fault u) ∧
    exec (.splimWrite h op a) s = fault u ∧ exec (.spbaseWrite h op a) s = fault u ∧ exec (.accownWrite h op a) s = fault u ∧
    exec (.tileownWrite h op a) s = fault u ∧ exec (.capkeyWrite h op a hi) s = fault u ∧ (ty ≠ 3 → exec (.extentWrite h op a ty k) s = fault u)

/-- R370, R379: taking a cause in user mode. The record takes the cause, the pair of the bundle, the pair of the bundle before it and the information words; the results in flight are frozen, the loop is put aside, and the context goes on at HANDLER in supervisor mode. R40, R376: a cause raised in supervisor mode is NESTED_TRAP: the record holds the first cause and its bundle, and the residency ends FAULTED. -/
def Obligations.TrapEntry : Prop :=
  (∀ (s : State) (q : TrapReq), s.c.mode = false →
    (s.takeTrap q).c.trap = ⟨q.cause, s.c.pc, s.c.last, q.info0, q.info1⟩ ∧ (s.takeTrap q).c.mode = true ∧ (s.takeTrap q).c.pc = s.r.handler ∧
    (s.takeTrap q).c.frozen = s.c.frozen ++ s.c.flight ∧ (s.takeTrap q).c.flight = [] ∧ (s.takeTrap q).c.aside = some s.c.loop ∧
    (s.takeTrap q).c.loop.active = false ∧ (s.takeTrap q).c.s = s.c.s ∧ (s.takeTrap q).c.p = s.c.p) ∧
  (∀ (s : State) (q : TrapReq), s.c.mode = true →
    (s.takeTrap q).c.trap.cause = Cause.nestedTrap ∧ (s.takeTrap q).c.trap.info0 = BitVec.ofNat 64 (q.cause.toNat + s.c.pc.toNat * 256) ∧
    (s.takeTrap q).c.trap.info1 = q.info0 ∧ (s.takeTrap q).r.phase = .faulted ∧
    ∀ k, ((s.takeTrap q).r.ctx.get k).status = .free)

/-- R215, R224, R232, R237, R241: a tile-acting instruction that issues enters one task, last in the Foreman's order, with its pair, context, shapes and rectangle as they stand at issue; no byte of memory changes, and the Foreman looks for work. R36, R186, R239: ACCZ zeroes its rectangle at once; SFS queues its request and its context waits for the answer; TLD and TST enter a task that takes its channel's next transfer ID; the reductions enter theirs. -/
def Obligations.TileInstructionsEnterATask : Prop :=
  (∀ (i : Instr) (o : Op) (s : State), tileTask i = true → opOf i = some o → o.ready s = true →
    ∃ (t : State) (x : Task), exec i s = .next t ∧ t.core.tasks = s.core.tasks ++ [x] ∧
      x.instr = i ∧ x.pair = s.c.pc ∧ x.ctx = s.curCtx ∧ x.res = s.curRes ∧ x.id = s.core.nextId ∧
      x.dispatched = false ∧ x.stopped = false ∧ x.parked = false ∧ (x.pos, x.jb, x.kb) = (0, 0, 0) ∧
      (∀ k, taskDesc i = some k → x.desc = s.r.ad.get ⟨k.toNat, k.isLt⟩) ∧ (∀ sh ∈ x.shapes, ∃ n : Fin 16, sh = s.r.tshape.get n) ∧
      t.core.mem = s.core.mem ∧ t.core.full = s.core.full ∧ Instr.foremanDispatch ∈ t.env.agenda) ∧
  (∀ (h : CHdr) (a b : BitVec 5) (n : BitVec 4) (k ch : BitVec 3) (need hnd fn : BitVec 4) (he : Bool) (st : BitVec 16) (tag : BitVec 32) (r : BitVec 3) (s : State),
    let d := s.r.ad.get ⟨k.toNat, k.isLt⟩
    let task (i : Instr) (o : Op) (more : State → Task → Prop) : Prop := o.ready s = true →
      ∃ (t : State) (x : Task), exec i s = .next t ∧ t.core.tasks = s.core.tasks ++ [x] ∧ x.instr = i ∧ x.ctx = s.curCtx ∧ x.res = s.curRes ∧ more t x
    ((opAccz h k).ready s = true → s.Inv → 32 * d.rblk.toNat + d.rows.toNat ≤ 256 → 32 * d.cblk.toNat + d.cols.toNat ≤ 256 →
      ∃ t, exec (.accz h k) s = .next t ∧ (∀ i j, d.has i j = true → accGet t.core.mem d i j = 0) ∧
        (∀ x, (∀ i j, d.has i j = true → x < d.key i j ∨ d.key i j + 4 ≤ x) → memGet t.core.mem x = memGet s.core.mem x)) ∧
    ((opSfs h a b r fn).ready s = true → ∃ t, exec (.sfs h a b r fn) s = .next t ∧
      (∃ q, q ∈ t.cl.fifos.get s.curCtx ∧ q.scalar = true ∧ q.fn = fn ∧ q.mode = r ∧ q.pair = s.c.pc ∧ q.operand = s.seen.c.reg h.s b) ∧
      (∃ w ∈ t.c.awaits, w.sfu = true ∧ w.dest = .s (regOf h.s a))) ∧
    task (.tld h a n ch need hnd he st) (opTld h a n ch need hnd he st) (fun t x =>
      x.tid = (s.r.chans.get ⟨ch.toNat, ch.isLt⟩).next ∧ (t.r.chans.get ⟨ch.toNat, ch.isLt⟩).next = x.tid + 1) ∧
    task (.tst h a n ch need hnd he st) (opTst h a n ch need hnd he st) (fun t x =>
      x.tid = (s.r.chans.get ⟨ch.toNat, ch.isLt⟩).next ∧ (t.r.chans.get ⟨ch.toNat, ch.isLt⟩).next = x.tid + 1) ∧
    task (.accxSend h a k tag) (opAccxSend h a k tag) (fun _ x => x.desc = d) ∧
    task (.accxOpen h a k tag) (opAccxOpen h a k tag) (fun t x => x.desc = d ∧
      ∃ y ∈ t.r.reductions, y.ad = k ∧ y.tag = tag ∧ y.expect = (s.seen.c.reg h.s a).toNat ∧ y.got = 0) ∧
    task (.accxClose h k r) (opAccxClose h k r) (fun t x => x.desc = d ∧ ∃ y ∈ t.r.reductions, y.ad = k ∧ y.closing = true))

/-- R187, R214, R242 to R251: the format tag that each tile instruction gives its destination, from the end of its bundle on; the other tiles keep theirs. Forms that it completes: accrd, accwr, accwrAdd, mma, mmaX, sft, tadd, tsub, tmul, tfma, tmax, tmin, tabs, tneg, tcvt, tqnt, tdq, tscl, tand, tor, txor, tshl, tshr, tcmp, tsel, tcas, tmaxi, tmini, tredSum, tredMax, tredMin, tbc, ttr, tslc, tidx, tmov, tfill, mlog, mcnt. -/
def Obligations.TileTagsAtIssue : Prop :=
  ∀ (h : AHdr) (g : CHdr) (d a b : BitVec 4) (k : BitVec 4) (m j : BitVec 3) (q : BitVec 2) (v c : Bool) (r : BitVec 3) (s : State),
    let sets (i : Instr) (o : Op) (n : BitVec 4) (f : BitVec 5) : Prop :=
      o.ready s = true → ∃ t, exec i s = .next t ∧ t.core.fmt = s.core.fmt.set n.toNat f n.isLt
    let keeps (i : Instr) (o : Op) : Prop := o.ready s = true → ∃ t, exec i s = .next t ∧ t.core.fmt = s.core.fmt ∧ t.core.blg = s.core.blg
    (sets (.tadd h d a b m v r) (opTadd h d a b m v r) d (s.tag a) ∧ sets (.tsub h d a b m v r) (opTsub h d a b m v r) d (s.tag a) ∧
     sets (.tmul h d a b m v r) (opTmul h d a b m v r) d (s.tag a) ∧ sets (.tfma h d a b m v r) (opTfma h d a b m v r) d (s.tag a) ∧
     sets (.tmax h d a b m) (opTmax h d a b m) d (s.tag a) ∧ sets (.tmin h d a b m) (opTmin h d a b m) d (s.tag a) ∧
     sets (.tabs h d a m) (opTabs h d a m) d (s.tag a) ∧ sets (.tneg h d a m) (opTneg h d a m) d (s.tag a) ∧
     sets (.tscl h d a b m v r) (opTscl h d a b m v r) d (s.tag a)) ∧
    (sets (.tand h d a b m) (opTand h d a b m) d (s.tag a) ∧ sets (.tor h d a b m) (opTor h d a b m) d (s.tag a) ∧
     sets (.txor h d a b m) (opTxor h d a b m) d (s.tag a) ∧ sets (.tsel h d a b m) (opTsel h d a b m) d (s.tag a) ∧
     sets (.tshl h d a b m) (opTshl h d a b m) d (s.tag a) ∧ sets (.tshr h d a b m c) (opTshr h d a b m c) d (s.tag a) ∧
     sets (.tbc h d a m c) (opTbc h d a m c) d (s.tag a) ∧ sets (.ttr h d a m) (opTtr h d a m) d (s.tag a) ∧
     sets (.tslc h d a b m) (opTslc h d a b m) d (s.tag a) ∧ sets (.tmov h d a m) (opTmov h d a m) d (s.tag a)) ∧
    (sets (.tcvt h d a k m r) (opTcvt h d a k m r) d (cvtTarget k) ∧ sets (.tdq h d a k m r) (opTdq h d a k m r) d (cvtTarget k) ∧
     sets (.tqnt h d a q m r) (opTqnt h d a q m r) d fmtN4 ∧ sets (.tmaxi h d a b m c) (opTmaxi h d a b m c) b (indexTag (s.shape b).ew) ∧
     sets (.tmini h d a b m c) (opTmini h d a b m c) b (indexTag (s.shape b).ew) ∧ sets (.tidx h d m c) (opTidx h d m c) d (indexTag (s.shape d).ew) ∧
     sets (.mcnt h d j m) (opMcnt h d j m) d (indexTag (s.shape d).ew) ∧ sets (.accrd g d j v r) (opAccrd g d j v r) d (accrdTag (s.shape d).ew v) ∧
     sets (.tredSum h d a c m r) (opTredSum h d a c m r) d (s.tag d) ∧ sets (.tredMax h d a c m r) (opTredMax h d a c m r) d (s.tag d) ∧
     sets (.tredMin h d a c m r) (opTredMin h d a c m r) d (s.tag d)) ∧
    (keeps (.tfill h d m) (opTfill h d m) ∧ keeps (.tcmp h j a b m k) (opTcmp h j a b m k) ∧ keeps (.tcas h d a b m v c) (opTcas h d a b m v c) ∧
     keeps (.mlog h j m r m k) (opMlog h j m r m k) ∧ keeps (.accwr g j d) (opAccwr g j d) ∧ keeps (.accwrAdd g j d) (opAccwrAdd g j d) ∧
     keeps (.mma g j a b r) (opMma g j a b r) ∧ keeps (.mmaX g j a b r) (opMmaX g j a b r) ∧ keeps (.sft g d a r k) (opSft g d a r k))

/-- R218, R220: a step of a tile-vector task writes the elements of its row block whose mask bit is set, each with its own result, and no other element and no byte outside the destination tile. R242, R246, R250: the elements that the integer and layout instructions compute, on snapshots of any integer format. Forms that it completes: tadd, tsub, tmul, tfma, tmax, tmin, tabs, tneg, tand, tor, txor, tshl, tshr, tsel, tbc, ttr, tslc, tmov, tfill. -/
def Obligations.TileElementResults : Prop :=
  (∀ (t : Task) (d : BitVec 4) (b : Nat) (m : List Host.Cell) (l : BitVec 32), Memory.wf m = true →
    let o := t.opnd 0 d
    let m' := (vecStep t d b (m, l)).1
    o.sh.ew.toNat ≤ 4 → o.sh.rows.toNat * o.sh.rowBytes ≤ 32768 →
    (∀ i j, o.sh.has i j = true →
      (i / 8 = b → maskGet m (gateOf t.instr) i j = true → ∀ v, (∀ x, (vecElem t m x i j).1 = some v) → tileGet m' o.n o.sh i j = v % 2 ^ o.sh.width) ∧
      ((i / 8 ≠ b ∨ maskGet m (gateOf t.instr) i j = false) → tileGet m' o.n o.sh i j = tileGet m o.n o.sh i j)) ∧
    (∀ k, (k < tileKey o.n 0 ∨ tileKey o.n 0x8000 ≤ k) → memGet m' k = memGet m k)) ∧
  (∀ (t : Task) (h : AHdr) (d a b : BitVec 4) (g : BitVec 3) (c : Bool) (r : BitVec 3) (m : List Host.Cell) (l : BitVec 32) (i j : Nat),
    let oa := t.opnd 1 a
    let f := oa.fmt
    let w := tagWidth f
    let x := oa.get m i j
    let y := (t.opnd 2 b).get m i j
    let z := (t.opnd 0 d).get m i j
    let el (k : Instr) : Option Nat := (vecElem { t with instr := k } m l i j).1
    isIn f = true → x < 2 ^ w →
    (y < 2 ^ w → z < 2 ^ w → el (.tadd h d a b g false r) = some ((x + y) % 2 ^ w) ∧ el (.tsub h d a b g false r) = some ((x + 2 ^ w - y) % 2 ^ w) ∧
     el (.tmul h d a b g false r) = some (x * y % 2 ^ w) ∧ el (.tfma h d a b g false r) = some ((x * y + z) % 2 ^ w)) ∧
    (∃ u, el (.tadd h d a b g true r) = some u ∧ intElem f u = max (intMin f) (min (intMax f) (intElem f x + intElem f y))) ∧
    (∃ u, el (.tsub h d a b g true r) = some u ∧ intElem f u = max (intMin f) (min (intMax f) (intElem f x - intElem f y))) ∧
    (∃ u, el (.tmax h d a b g) = some u ∧ intElem f u = max (intElem f x) (intElem f y)) ∧
    (∃ u, el (.tmin h d a b g) = some u ∧ intElem f u = min (intElem f x) (intElem f y)) ∧
    (∃ u, el (.tabs h d a g) = some u ∧ intElem f u = min (intMax f) (intElem f x).natAbs) ∧
    (∃ u, el (.tneg h d a g) = some u ∧ intElem f u = max (intMin f) (min (intMax f) (-intElem f x))) ∧
    (el (.tand h d a b g) = some (x &&& y) ∧ el (.tor h d a b g) = some (x ||| y) ∧ el (.txor h d a b g) = some (x ^^^ y)) ∧
    (el (.tshl h d a b g) = some (x <<< y % 2 ^ w) ∧ el (.tshr h d a b g false) = some (x >>> y)) ∧
    (∃ u, el (.tshr h d a b g true) = some u ∧ intElem f u = intElem f x / 2 ^ y) ∧
    (el (.tmov h d a g) = some x ∧ el (.tfill h d g) = some 0 ∧ el (.tsel h d a b g) = some (if maskGet m g.toNat i j then x else y)) ∧
    (el (.tbc h d a g c) = some (if c then oa.get m i 0 else oa.get m 0 j) ∧ el (.ttr h d a g) = some (oa.get m j i) ∧
     el (.tslc h d a b g) = some (oa.get m ((t.opnd 2 b).get m 0 0 + i) ((t.opnd 2 b).get m 0 1 + j))))

/-- R186, R220, R227, R228: a matrix step writes words of its block of the rectangle alone, each the accumulation of R71 to R74 of the word before it; no other byte changes. -/
def Obligations.MatrixStepWritesItsBlock : Prop :=
  ∀ (t : Task) (h : CHdr) (k : BitVec 3) (a b : BitVec 4) (rm : BitVec 3) (m : List Host.Cell) (l : BitVec 32), Memory.wf m = true →
    32 * t.desc.rblk.toNat + t.desc.rows.toNat ≤ 256 → 32 * t.desc.cblk.toNat + t.desc.cols.toNat ≤ 256 →
    let m' := (taskWork { t with instr := .mma h k a b rm } (m, l)).1
    let dims := mmaDims t a b false
    let kl := kBlock (t.opnd 0 a).fmt
    (∀ i j, i < dims.1 → j < dims.2.1 → i / 32 = t.pos → j / 32 = t.jb → rm ≠ 4 →
      accGet m' t.desc i j = (mmaElem (t.opnd 0 a) (t.opnd 1 b) rm m i j (t.kb * kl) (min dims.2.2 ((t.kb + 1) * kl)) (accGet m t.desc i j, l)).1 % 2 ^ 32) ∧
    (∀ x, (∀ i j, i < dims.1 → j < dims.2.1 → i / 32 = t.pos → j / 32 = t.jb → x < t.desc.key i j ∨ t.desc.key i j + 4 ≤ x) → memGet m' x = memGet m x)

/-- R36, R173, R216, R220, R231, R238, R271, R336, R410 to R417: what the units of a core do: the Foreman dispatches a ready task; a step writes its results and the next one starts; the vector arbiter binds a lane group; a ring copies when its four cores agree; the SFU serves its FIFOs in rotation; leave and bells are granted. Forms that it completes: bell, taskStepEnd, waitLimitLapse, bellRelease, ringTransfer, groupClearDone, foremanDispatch, leaveGrant, sfuServe, sfuRequestDone, vectorBind. -/
def Obligations.CoreUnitResults : Prop :=
  ∀ s : State,
    (∀ (k : ResNo) (u : Task), s.core.issuing = some k → s.core.switch = none → s.core.tasks = [u] → u.res = k → (s.res.get k).phase = .live → s.core.engineDone = [] →
      (s.res.get k).tasksHeld = false → s.taskReady [] u = true →
      s.dispatchTouch u = none → (s.as k fun v => v.resolve (taskUses u).groups.1 (taskUses u).groups.2).clearing (taskUses u).groups.1 (taskUses u).groups.2 = false →
      ∃ t, exec .foremanDispatch s = .next t ∧ ∀ y ∈ t.core.tasks, y.id = u.id → y.dispatched = true) ∧
    (∀ (id : Nat) (u : Task), (s.core.tasks.find? fun t => t.id == id && t.dispatched && !t.parked) = some u → (u.stepBanks ≠ [] → s.env.agenda.any writesBank = false) →
      u.unpaired = false → s.ringWaits u = false → s.blockClash u = none → s.portWaits u = false → (s.taskBad u = false ∨ engineOf u.instr = 2) →
      exec (.taskStepEnd id) s = .next ((((s.noteBad u (s.taskBad u)).doStep u).modCore fun c => { c with seqBanks := c.seqBanks ++ u.stepBanks }).nextStep u)) ∧
    (∀ u : Task, s.vectorHead = some u → s.cl.lanes.get 0 = none → (∀ i : BitVec 2, i ≠ s.position → s.cl.waiting.get ⟨i.toNat, i.isLt⟩ = 0) →
      0 < s.cl.quota.get ⟨s.position.toNat, s.position.isLt⟩ →
      ∃ t, exec .vectorBind s = .next t ∧ (∃ y ∈ t.core.tasks, y.id = u.id ∧ y.parked = false) ∧ t.cl.lanes.get 0 = some s.position ∧
        (s.core.cycle + BitVec.ofNat 64 (stepCycles u), Instr.taskStepEnd u.id) ∈ t.env.timers) ∧
    (∀ (u : Task) (cw : Bool) (a b : BitVec 4), s.ringTask = some u → ringOf u.instr = some (cw, a, b) → (∀ p : BitVec 2, p ≠ s.position → ∃ x ∈ s.cl.ringPeers, x.1 = p) →
      (∀ x ∈ s.cl.ringPeers, x.2.1 = cw ∧ x.2.2 = ((s.res.get u.res).handle a).slot) →
      let next := (if cw then s.position + 1 else s.position - 1).toNat
      ∃ t, exec .ringTransfer s = .next t ∧ Out.ring next (s.slotBytes u.res a) ∈ t.env.out ∧ t.cl.ringPeers = [] ∧ t.core.mem = s.core.mem ∧
        (∃ y ∈ t.core.tasks, y.id = u.id ∧ y.parked = false) ∧
        (s.core.cycle + BitVec.ofNat 64 ((((s.res.get u.res).handle a).slot + 63) / 64), Instr.taskStepEnd u.id) ∈ t.env.timers) ∧
    (∀ c, s.core.accClear = some c → ∃ t, exec .groupClearDone s = .next t ∧ t.core.mem = s.core.mem ∧ t.core.accClear = if c.toNat ≤ s.core.cycle.toNat then none else some c) ∧
    (∀ (i : Nat) (k : CtxNo) (q : SfuReq) (l : List SfuReq), s.cl.sfuBusy = none → s.fifoNext = some i → s.fifoAt i = .inl k → s.cl.fifos.get k = q :: l →
      ∃ t, exec .sfuServe s = .next t ∧ t.cl.sfuLast = i ∧ t.cl.sfuBusy = some k.val ∧ t.cl.sfuDue = s.core.cycle + BitVec.ofNat 64 (s.sfuCycles k q)) ∧
    (∀ (j : ResNo) (k : CtxNo) (q : SfuReq) (l : List SfuReq) (a : Await), let c := (s.res.get j).ctx.get k
      s.core.issuing = some j → s.cl.sfuBusy = some k.val → s.cl.sfuDue = s.core.cycle → s.cl.fifos.get k = q :: l → q.scalar = true → c.awaits = [a] → a.sfu = true → a.mode = q.sup → a.dest = .s q.dest → c.mode = q.sup →
      ∃ t, exec .sfuRequestDone s = .next t ∧ t.cl.sfuBusy = none ∧ t.cl.fifos.get k = l ∧ ((t.res.get j).ctx.get k).awaits = [] ∧
        ⟨a.dest, (sfu q.fn q.mode (q.lfsr.getD (s.res.get j).lfsr) (q.operand.truncate 32)).zeroExtend 64, 4⟩ ∈ ((t.res.get j).ctx.get k).flight) ∧
    (∀ x : LeaveAsk, s.die.leaveQueue = [x] →
      (s.die.leaveUnits.length + 1 ≤ s.die.dieLimit → s.die.clusterUnits x.core + 1 ≤ s.die.clusterLimit →
        s.decideLeave.die.leaveQueue = [] ∧ s.decideLeave.die.leaveUnits = s.die.leaveUnits ++ [x.core] ∧
        (x.core = s.diePlace → s.decideLeave.core.leaveDue = some (s.core.cycle + 4) ∧ (s.core.cycle + 4, Instr.leaveGrant) ∈ s.decideLeave.env.timers)) ∧
      ((s.die.dieLimit < s.die.leaveUnits.length + 1 ∨ s.die.clusterLimit < s.die.clusterUnits x.core + 1) → s.decideLeave = s)) ∧
    (∀ d, s.core.leaveDue = some d →
      (s.core.cycle.toNat < d.toNat → exec .leaveGrant s = .next s) ∧
      (d.toNat ≤ s.core.cycle.toNat → ∃ t, exec .leaveGrant s = .next t ∧ t.core.leaveAsked = none ∧ t.core.leaveDue = none ∧ t.core.mem = s.core.mem ∧
        (∀ u ∈ s.core.tasks, u.dispatched = true → u.parked = true → engineOf u.instr = 1 → t.core.leaveHeld = true ∧ ∃ y ∈ t.core.tasks, y.id = u.id ∧ y.parked = false ∧ y.heavy = true) ∧
        ((∀ u ∈ s.core.tasks, ¬(u.dispatched = true ∧ u.parked = true ∧ engineOf u.instr = 1)) → s.core.leaveCopies = [] → s.core.exch.asked = none → s.core.leaveUse = 0 →
          t.core.leaveHeld = false ∧ t.die.leaveUnits = s.die.leaveUnits.erase s.diePlace))) ∧
    (∀ (cross : Bool) (k : BitVec 5), s.bellsDue = [(cross, k)] → (cross = true ∨ s.phaseOf (s.die.bell cross k) = none) → s.bellWaits cross (s.die.bell cross k) = false → ∃ t, exec .bellRelease s = .next t ∧
      (t.die.bell cross k).others = 0 ∧ (t.die.bell cross k).here = false ∧ (t.die.bell cross k).due = none ∧
      ∀ (j : ResNo) (c : CtxNo) (m : Bool), (.bell cross k, m) ∈ ((s.res.get j).ctx.get c).blocked →
        (∀ n, (.bell cross k, n) ∉ ((t.res.get j).ctx.get c).blocked) ∧ (∀ x ∈ ((s.res.get j).ctx.get c).blocked, x.1 ≠ .bell cross k → x ∈ ((t.res.get j).ctx.get c).blocked) ∧
        ((t.res.get j).ctx.get c).busyUntil = s.core.cycle + 1) ∧
    (∀ (k : BitVec 5) (j : ResNo), s.bellsDue = [(false, k)] → s.phaseOf (s.die.bell false k) = some j → s.bellWaits false (s.die.bell false k) = false → ∃ t, exec .bellRelease s = .next t ∧
      t.core.exch.mode = true ∧ t.core.exch.opened = false ∧ t.core.exch.zero = s.core.cycle) ∧
    (∀ (cross : Bool) (k : BitVec 5), s.bellsDue = [(cross, k)] → s.bellWaits cross (s.die.bell cross k) = true → exec .bellRelease s = .next (s.after 1 .bellRelease)) ∧
    (∀ (k : ResNo) (c : CtxNo), s.issuer = some k → ((List.finRange 11).find? fun c => ((s.res.get k).ctx.get c).status == .live && (s.at k c).limitLapsed) = some c →
      exec .waitLimitLapse s = .next (s.at k c).runBundle)

/-- R185, R191, R193 to R198, R292, R293, R481: a server instruction that issues enters one request of its context, takes its channel's next transfer ID where it names one, and sends it on its way through the router, or holds it at the network interface behind an earlier access; an atomic or a copy to server memory once every earlier write of the core has entered the store buffer, and every earlier read of a common location has been performed; the core's memory does not change. R190, R374: relocation. A tenant range that an enabled entry covers goes to the entry's server address plus its place in the entry, where the entry gives the right; without it the missing right is reported as 1, 2 or 4; a range that no entry covers is EXTENT_MISS. R202, R203, R298: a fence issues once what it waits for is done, and then only goes on; FENCE.ext makes the pending extent registers current. -/
def Obligations.ServerInstructionsEnterRequests : Prop :=
  (∀ (h : CHdr) (a b c : BitVec 5) (x pk aw ne me : Bool) (ch nest : BitVec 3) (len : BitVec 9) (w dt : BitVec 2) (op mb : BitVec 4) (core : BitVec 11) (s : State),
    let enters (i : Instr) (o : Op) (kind : BitVec 3) (ptr : BitVec 5) (more : State → Req → Prop) : Prop := o.ready s = true →
      ∃ (t : State) (q : Req), exec i s = .next t ∧ q ∈ t.core.reqs ∧ q.id = s.core.nextId ∧ q.kind = kind ∧ q.res = s.curRes ∧ q.ctx = s.curCtx ∧ q.pair = s.c.pc ∧
        q.order = s.r.order ∧ q.ptr = s.seen.c.reg h.s ptr ∧ q.dropped = false ∧ t.core.mem = s.core.mem ∧ more t q
    let takes (t : State) (q : Req) : Prop :=
      q.chan = some (ch, (s.r.chans.get ⟨ch.toNat, ch.isLt⟩).next) ∧ (t.r.chans.get ⟨ch.toNat, ch.isLt⟩).next = (s.r.chans.get ⟨ch.toNat, ch.isLt⟩).next + 1
    let entered : Prop := ∀ y ∈ s.core.reqs, y.unentered = false
    let leaves (t : State) (o : Out) : Prop := (t.holds o = true → ∃ n ∈ t.core.ni, n.item = o) ∧ (t.holds o = false → ∃ p ∈ t.core.router, p.item = o ∧ p.vc = 0 ∧ p.port = portLocal)
    let atomic (t : State) (q : Req) : Prop := ∀ p, s.place s.r.extents q.ptr 2 q.pkg (atomBytes w) s.r.order = .ok p → entered → t.readsBefore q = false →
      leaves t (.request ⟨q.id, 0, true, q.pkg, p.1, .atomic (atomOf h b w op s.seen.c), .own⟩ pk)
    let copies (t : State) (q : Req) : Prop := let p : PorterCopy := ⟨q.id, true, q.kind == 5, q.porter⟩
      if Rank.core q.porter = 0 then Instr.porterActiveMessage p ∈ t.env.agenda else leaves t (.copyRequest p)
    enters (.xld h a b c x ch len) (opXld h a b c x ch len) 0 b (fun t q => takes t q ∧ q.len = len.toNat ∧ q.slot = true ∧
      (∀ f, s.place s.r.extents q.ptr 0 q.pkg len.toNat s.r.order = .error f → Instr.xldResponse q.id 0 [] (some f) ∈ t.env.agenda) ∧
      (∀ p, s.place s.r.extents q.ptr 0 q.pkg len.toNat s.r.order = .ok p → ∀ k y, (pieces 3 0 p.1 len.toNat)[k]? = some y →
        let r : ServerReq := ⟨q.id, k, true, q.pkg, y.2.1, .read y.2.2, .own⟩
        (t.heldBack r = true → ∃ n ∈ t.core.ni, n.item = .request r false) ∧
        (t.heldBack r = false → (∃ p ∈ t.core.router, p.item = .request r false ∧ p.vc = 0) ∨
          ∃ data, data.length = y.2.2 ∧ (∀ i, i < y.2.2 → (forward s.cl.buffer (serverKey q.pkg y.2.1 + i)).map (·.2) = some (data.getD i 0)) ∧
            Instr.xldResponse q.id k data none ∈ t.env.agenda))) ∧
    enters (.xst h a b c x ch len) (opXst h a b c x ch len) 1 a (fun t q => takes t q ∧ q.len = len.toNat ∧ q.ack = true ∧ Instr.xstSourceRead ∈ t.env.agenda) ∧
    enters (.xat h a b c x pk w op) (opXat h a b c x pk w op) 2 a (fun t q => q.ack = true ∧ atomic t q ∧
      (∀ f, s.place s.r.extents q.ptr 2 q.pkg (atomBytes w) s.r.order = .error f → Instr.serverAck q.id 0 (some f) ∈ t.env.agenda)) ∧
    enters (.xatr h a b c x pk w op) (opXatr h a b c x pk w op) 3 a (fun t q => q.slot = true ∧ (∃ y ∈ t.c.awaits, y.id = q.id ∧ y.dest = .s (regOf h.s a)) ∧ atomic t q ∧
      (∀ f, s.place s.r.extents q.ptr 2 q.pkg (atomBytes w) s.r.order = .error f → Instr.xatrResponse q.id 0 (some f) ∈ t.env.agenda)) ∧
    enters (.cpy h a b c x aw nest ne ch) (opCpy h a b c x aw nest ne ch) 4 b (fun t q => takes t q ∧ q.add = aw ∧ q.dst = s.seen.c.reg h.s a ∧
      q.nest = s.r.nestIf ne nest ∧ (ptrWin q.dst = 0 ∨ (entered ∧ t.readsBefore q = false) → copies t q)) ∧
    enters (.cpyd h a b c x core mb me dt nest ne ch) (opCpyd h a b c x core mb me dt nest ne ch) 5 b (fun t q => takes t q ∧ q.core0 = core.toNat ∧
      q.mbox = (if me then some mb else none) ∧ q.nest = s.r.nestIf ne nest ∧ q.binding = s.r.orderCores.map (fun x => (x, s.physicalOf s.r.order x)) ∧
      (q.total ≤ 16384 → copies t q))) ∧
  (∀ (es : Vector Extent 16) (w r first last : Nat),
    ((∀ n, (es.get n).covers w first last = false) → relocate es w r first last = .error .extentMiss) ∧
    (∀ n : Fin 16, (es.get n).covers w first last = true → (∀ m, m < n → (es.get m).covers w first last = false) →
      relocate es w r first last = if (es.get n).a.getLsbD r then .ok (field (es.get n).c 12 36 * 4096 + (first - field (es.get n).a 12 36 * 4096))
        else .error (.extentRights (BitVec.ofNat 3 (2 ^ r)) (BitVec.ofNat 4 n.val)))) ∧
  (∀ (h : CHdr) (k : BitVec 4) (s : State),
    let mine (q : Req) : Prop := q ∈ s.core.reqs ∧ q.res = s.curRes ∧ q.ctx = s.curCtx
    let answered : Prop := ∀ q, mine q → (q.kind = 0 ∨ q.kind = 3) → q.parts = 0
    let written : Prop := (∀ q, mine q → q.writes = true → k.toNat < 3 ∧ q.buffered = true) ∧ (3 ≤ k.toNat → ∀ b ∈ s.cl.buffer, b.key ∉ s.c.served)
    ((opFenceAcq h k).ready s = true → answered ∧ exec (.fenceAcq h k) s = .next (s.ended s.begun none)) ∧
    ((opFenceRel h k).ready s = true → written ∧ exec (.fenceRel h k) s = .next (s.ended s.begun none)) ∧
    ((opFenceFull h k).ready s = true → answered ∧ written ∧ exec (.fenceFull h k) s = .next (s.ended s.begun none)) ∧
    ((opFenceExt h).ready s = true → (∀ q ∈ s.core.reqs, q.res ≠ s.curRes) ∧
      exec (.fenceExt h) s = .next (s.ended (s.begun.modR fun r => { r with extents := r.extentsPending }) none)))

/-- R123, R293, R431, R435, R437, R440: what the servers and the Weighhouse do with a request that the gateway and its die let through: a read answers with its bytes, for another core of the cluster with the store buffer's where it finds them there; a write and an atomic change the bytes they name and no others; an atomic that the server lacks changes nothing and answers NOT_IMPLEMENTED, a write or an atomic on a word in error SERVER_ERROR. A request of another core that an earlier access or the store buffer holds comes back in the next cycle; one that finds its granule locked waits at the server. R431, R435, R436: the three steps of a Weighhouse atomic whose bytes are sound: lock and read, compute, write and unlock, the last once every earlier atomic of the package has its granule locked; a granule for which another atomic waits stays locked for it. SCRUB corrects and counts every soft error, and changes no byte. Forms that it completes: xldResponse, xatrResponse, serverAck, serverRequest, weighhouseAtomic, serverLockRead, serverWriteUnlock, scrub, weighhouseLockData. -/
def Obligations.ServerResults : Prop :=
  (∀ (s : State) (q : ServerReq),
    let k := serverKey q.pkg q.addr
    let goes (ev : Instr) (t : State) : Prop := ∃ p ∈ t.core.router, p.item = .answer ev ∧ p.vc = 1
    (∀ f, s.turnedAway q = some f → ∃ t, exec (.serverRequest q) s = .next t ∧ t.srv.mem = s.srv.mem ∧
      (q.own = false → (∀ n, q.op = .read n → Out.served q.id [] (some f) ∈ t.env.out) ∧ (∀ d, q.op = .write d → Out.servedWrite q.id q.part (some f) ∈ t.env.out) ∧
        ∀ a, q.op = .atomic a → Out.servedAtomic q.id 0 (some f) ∈ t.env.out)) ∧
    (s.turnedAway q = none →
    (q.own = false → s.heldBack q = true → exec (.serverRequest q) s = .next (s.after 1 (.serverRequest q)) ∧
      exec (.weighhouseAtomic q) s = .next (s.after 1 (.weighhouseAtomic q))) ∧
    ((q.own = true ∨ s.heldBack q = false) →
      ((∃ l ∈ s.srv.locks, l.1 = reqGranule q) → exec (.serverRequest q) s = .next { s with srv := { s.srv with pending := s.srv.pending ++ [q] } }) ∧
      ((∀ l ∈ s.srv.locks, l.1 ≠ reqGranule q) →
        (∀ n, q.op = .read n → s.srv.badIn k n = false → ∃ t data, exec (.serverRequest q) s = .next t ∧ t.srv.mem = s.srv.mem ∧ t.srv.bad = s.srv.bad ∧ t.core.mem = s.core.mem ∧
          data.length = n ∧ (q.own = false → Out.served q.id data none ∈ t.env.out) ∧
          (∀ r, q.own = true → s.reqOf q.id = some r → r.kind = 0 → goes (.xldResponse q.id q.part data none) t) ∧
          ∀ i, i < n → data.getD i 0 = (if q.own then none else (forward (s.bufferFor q) (k + i)).map (·.2)).getD (memGet s.srv.mem (k + i))) ∧
        (∀ d, q.op = .write d → ∃ t, exec (.serverRequest q) s = .next t ∧ t.core.mem = s.core.mem ∧
          (s.srv.badPart k d.length = false → t.srv.mem = memPut s.srv.mem k d ∧ t.srv.bad = s.srv.bad.filter fun x => !(decide (k ≤ x) && decide (x + 8 ≤ k + d.length))) ∧
          (s.srv.badPart k d.length = true → t.srv.mem = s.srv.mem ∧ t.srv.bad = s.srv.bad) ∧
          let f : Option ServerFail := if s.srv.badPart k d.length then some (.serverError 1) else none
          (q.own = false → Out.servedWrite q.id q.part f ∈ t.env.out) ∧ (∀ r, q.own = true → s.reqOf q.id = some r → r.kind = 1 → goes (.serverAck q.id q.part f) t)) ∧
        (∀ a, q.op = .atomic a → ∃ t, exec (.serverRequest q) s = .next t ∧ t.core.mem = s.core.mem ∧
          let old := memNat s.srv.mem k a.bytes
          let lacks := atomicNeedsB a = true ∧ Config.revisionB q.pkg = false
          let f : Option ServerFail := if atomicNeedsB a && !Config.revisionB q.pkg then some .notImplemented else if s.srv.badIn k a.bytes then some (.serverError 1) else none
          (f = none → t.srv.mem = memPut s.srv.mem k (leBytes a.bytes (atomicNew a.op a.bytes old a.val a.cmp))) ∧ (f ≠ none → t.srv.mem = s.srv.mem) ∧
          (lacks → f = some .notImplemented) ∧
          (q.own = false → Out.servedAtomic q.id (if f = none then old else 0) f ∈ t.env.out) ∧
          (∀ r, q.own = true → s.reqOf q.id = some r → (r.kind = 3 → goes (.xatrResponse q.id (if f = none then old else 0) f) t) ∧ (r.kind = 2 → goes (.serverAck q.id q.part f) t)))) ∧
      (∃ t, exec (.weighhouseAtomic q) s = .next t ∧ (t.srv.weigh.map (·.req)) = (s.srv.weigh.map (·.req)) ++ [q] ∧ t.srv.mem = s.srv.mem)))) ∧
  (∀ (s : State) (w : Weigh) (a : Atomic) (l r : List Weigh), w.req.op = .atomic a → s.srv.weigh = l ++ w :: r →
    let k := serverKey w.req.pkg w.req.addr
    ((∀ y ∈ l, y.step ≠ .locking) → w.step = .locking → s.serverGone w.req.pkg w.req.addr = false → s.srv.badIn k a.bytes = false →
      ∃ t, exec .serverLockRead s = .next t ∧ t.srv.weigh = l ++ { w with step := .locked (memNat s.srv.mem k a.bytes) } :: r ∧ (∃ y ∈ t.srv.locks, y.1 = reqGranule w.req) ∧
        ((∀ y ∈ s.srv.locks, y.1 ≠ reqGranule w.req) → t.srv.locks = s.srv.locks ++ [(reqGranule w.req, w.req.id)]) ∧ t.srv.mem = s.srv.mem ∧ Instr.weighhouseLockData ∈ t.env.agenda) ∧
    (∀ old, (∀ y ∈ l, y.step.isLocked = false) → w.step = .locked old →
      ∃ t, exec .weighhouseLockData s = .next t ∧ t.srv.weigh = l ++ { w with step := .writing old (atomicNew a.op a.bytes old a.val a.cmp) } :: r ∧
        t.srv.mem = s.srv.mem ∧ Instr.serverWriteUnlock ∈ t.env.agenda) ∧
    (∀ old new, (∀ y ∈ l, y.step.isWriting = false) → w.step = .writing old new → s.mayUnlock w = true → (∀ q ∈ s.srv.pending, reqGranule q ≠ reqGranule w.req) →
      ∃ t, exec .serverWriteUnlock s = .next t ∧ t.srv.mem = memPut s.srv.mem k (leBytes a.bytes new) ∧
        ((∀ y ∈ l ++ r, reqGranule y.req ≠ reqGranule w.req) → ∀ y ∈ t.srv.locks, y.1 ≠ reqGranule w.req) ∧
        ((∃ y ∈ l ++ r, reqGranule y.req = reqGranule w.req) → (∃ y ∈ s.srv.locks, y.1 = reqGranule w.req) → ∃ y ∈ t.srv.locks, y.1 = reqGranule w.req)) ∧
    (s.mayUnlock w = true ↔ ∀ y ∈ l.takeWhile (fun y => y != w), y.req.pkg = w.req.pkg → ∃ z ∈ s.srv.locks, z.1 = reqGranule y.req) ∧
    (∃ t, exec .scrub s = .next t ∧ t.srv.mem = s.srv.mem ∧ t.core = s.core ∧ t.res = s.res ∧ t.srv.soft = [] ∧ t.srv.corrected = s.srv.corrected + s.srv.soft.length))

/-- R191 to R195, R292, R481: what a core does with an answer: a read's last part lets its slot be copied, its bytes then standing at their place; an XST whose source is read enters the store buffer and goes on its way piece by piece, once no earlier read of the location is left; an acknowledgement ends the write or the atomic; an XATR's old value becomes a result of its context. Forms that it completes: xldResponse, xatrResponse, serverAck, slotCopyDone, xstSourceRead. -/
def Obligations.ServerResponseResults : Prop :=
  ∀ (s : State) (q : Req) (l r : List Req) (part old : Nat) (data : List Byte), s.core.reqs = l ++ q :: r → (∀ y ∈ l, y.id ≠ q.id) → q.dropped = false →
    let bytes := ({ s with curRes := q.res }).readBytes (ptrOff q.local_) q.len
    (q.kind = 0 → q.parts = 1 → q.fail = none → ∃ t, exec (.xldResponse q.id part data none) s = .next t ∧
      (∃ y ∈ t.core.reqs, y.id = q.id ∧ y.copying = true ∧ y.parts = 0 ∧ ∀ i, i < data.length → (q.partOff part + i, data.getD i 0) ∈ y.got) ∧ Instr.slotCopyDone ∈ t.env.agenda) ∧
    (q.kind = 0 → 1 < q.parts → ∃ t, exec (.xldResponse q.id part data none) s = .next t ∧ (∃ y ∈ t.core.reqs, y.id = q.id ∧ y.parts + 1 = q.parts ∧ y.copying = q.copying)) ∧
    (q.kind = 0 → q.copying = true → (∀ y ∈ l, y.kind ≠ 0 ∨ y.copying = false) → ∃ t, exec .slotCopyDone s = .next t ∧
      t.core.mem = (s.as q.res fun s => s.writeBytes (ptrOff q.local_) q.bytes).core.mem ∧ (∀ y ∈ t.core.reqs, y.id ≠ q.id)) ∧
    (q.kind = 1 → q.buffered = false → (∀ y ∈ l, y.unentered = false) →
      (s.readsBefore q = true → exec .xstSourceRead s = .next (s.after 1 .xstSourceRead)) ∧
      (s.readsBefore q = false → ({ s with curRes := q.res }).badAt (ptrOff q.local_) q.len = false →
        (q.spans = [] → ∃ t, exec .xstSourceRead s = .next t ∧ Instr.serverAck q.id 0 q.fail ∈ t.env.agenda) ∧
        (∀ p, q.spans = [p] → ∃ t, exec .xstSourceRead s = .next t ∧ t.core.mem = s.core.mem ∧ ∀ k y, (pieces 3 0 (p.1 % 2 ^ 41) q.len)[k]? = some y →
          let d := (bytes.drop y.1).take y.2.2
          let w : Out := .request ⟨q.id, k, true, q.pkg, y.2.1, .write d, .own⟩ false
          (⟨q.id, true, k, q.pkg, y.2.1, d, false⟩ : Buffered) ∈ t.cl.buffer ∧
          (t.holds w = true → ∃ n ∈ t.core.ni, n.item = w) ∧ (t.holds w = false → ∃ n ∈ t.core.router, n.item = w ∧ n.vc = 0)))) ∧
    ((q.kind = 1 ∨ q.kind = 2) → q.parts = 1 → ∃ t, exec (.serverAck q.id part none) s = .next t ∧ (∀ y ∈ t.core.reqs, y.id ≠ q.id) ∧ (∀ y ∈ t.cl.buffer, ¬(y.own = true ∧ y.id = q.id))) ∧
    (∀ w, q.kind = 3 → ((s.res.get q.res).ctx.get q.ctx).awaits = [w] → w.id = q.id → w.dest2 = none → w.mode = ((s.res.get q.res).ctx.get q.ctx).mode →
      ∃ t, exec (.xatrResponse q.id old none) s = .next t ∧ (∀ y ∈ t.core.reqs, y.id ≠ q.id) ∧
        ((t.res.get q.res).ctx.get q.ctx).awaits = [] ∧ ⟨w.dest, BitVec.ofNat 64 old, latLoad⟩ ∈ ((t.res.get q.res).ctx.get q.ctx).flight)

/-- R38, R192, R199, R365, R422, R423, R433, R434, R490: a copy takes one of its Porter's 32 places, or waits for one; the Porter reads its pieces, at most as many at a time as its read buffer holds, and sends each to where it lands, at most 16 KiB ahead towards a residency; a landing, one a cycle, writes its bytes, or adds its words into an accumulator bank; the completion report ends the copy. Forms that it completes: serverRequest, porterActiveMessage, porterLanding, porterCompletionReport. -/
def Obligations.PorterResults : Prop :=
  ∀ s : State,
    (∀ p : PorterCopy, s.srv.porterWait.contains p = false → (s.porterFull p.porter = true ∨ ∃ x ∈ s.srv.porterWait, x.porter = p.porter) →
      exec (.porterActiveMessage p) s = .next { s with srv := { s.srv with porterWait := s.srv.porterWait ++ [p] } }) ∧
    (∀ p : PorterCopy, s.porterFull p.porter = false → (∀ x ∈ s.srv.porterWait, x.porter ≠ p.porter) →
      (p.own = false → exec (.porterActiveMessage p) s = .next { s with srv := { s.srv with porters := s.srv.porters ++ [⟨p.porter, p.id, false⟩] } }) ∧
      (∀ (q : Req) (l r : List Req), p.own = true → s.core.reqs = l ++ q :: r → (∀ y ∈ l ++ r, y.id ≠ p.id) → q.id = p.id → 4 ≤ q.kind.toNat → q.copying = false →
        (∀ j ∈ s.srv.porters, ¬(j.own = true ∧ j.porter = p.porter)) → s.readsOut p.porter = 0 → q.reads ≠ [] →
        (∀ y ∈ q.reads, ∃ x, s.place q.extents (ptrAdd q.ptr ((y.2.src : Int) - ptrOff q.ptr)) 0 q.pkg y.2.len q.order = .ok x) →
        ∃ t, exec (.porterActiveMessage p) s = .next t ∧ t.core.mem = s.core.mem ∧ t.srv.mem = s.srv.mem ∧ ⟨p.porter, p.id, true⟩ ∈ t.srv.porters ∧
          ∀ n y x, n ≤ Config.porterBuffer → q.reads[n]? = some y → s.place q.extents (ptrAdd q.ptr ((y.2.src : Int) - ptrOff q.ptr)) 0 q.pkg y.2.len q.order = .ok x →
            Instr.serverRequest ⟨q.id, n, true, q.pkg, x.1, .read y.2.len, .own⟩ ∈ t.env.agenda)) ∧
    (∀ (q : Req) (n : Nat) (y : Nat × Chunk) (addr : Nat), let g : ServerReq := ⟨q.id, n, true, q.pkg, addr, .read y.2.len, .own⟩
      let data := memBytes s.srv.mem (serverKey q.pkg addr) y.2.len
      s.reqOf q.id = some q → 4 ≤ q.kind.toNat → s.turnedAway g = none → (∀ l ∈ s.srv.locks, l.1 ≠ reqGranule g) → s.srv.badIn (serverKey q.pkg addr) y.2.len = false →
      q.reads[n]? = some y → (∀ i z, q.reads[i]? = some z → z.1 = y.1 → i = n) → (∀ a ∈ q.answers, a.1 ≠ n) →
      ∃ t, exec (.serverRequest g) s = .next t ∧ t.core.mem = s.core.mem ∧ t.srv.mem = s.srv.mem ∧
        (q.kind = 4 → ptrWin q.dst = 0 → q.add = false → (⟨q.id, true, q.res, q.order, q.toOff y.2.x, data, false, none, false⟩, s.pkg.self) ∈ t.srv.toLand) ∧
        (q.kind = 4 → ptrWin q.dst = 0 → q.add = true → q.toOff y.2.x % 4 = 0 →
          (⟨q.id, true, q.res, q.order, q.toOff y.2.x, data.take (data.length / 4 * 4), true, none, false⟩, s.pkg.self) ∈ t.srv.toLand) ∧
        (∀ z, q.kind = 4 → ptrWin q.dst ≠ 0 → s.place q.extents (ptrAdd q.dst (y.2.x : Int)) 1 q.dpkg y.2.len q.order = .ok z →
          Instr.serverRequest ⟨q.id, 0, true, q.dpkg, z.1, .write data, .own⟩ ∈ t.env.agenda) ∧
        (∀ b, q.kind = 5 → q.binding.find? (fun b => b.1 == (q.dealTo y.2.x).1) = some b →
          (b.2 ≠ s.pkg.self → (⟨q.id, true, q.res, q.order, q.toOff y.2.x, data, false, q.mbox, true⟩, b.2) ∈ t.srv.toLand) ∧
          (∀ k, b.2 = s.pkg.self → s.resAt q.order b.1 = some k → (⟨q.id, true, k, q.order, q.toOff y.2.x, data, false, q.mbox, true⟩, b.2) ∈ t.srv.toLand))) ∧
    (∀ (d : Landing) (core : Nat), s.srv.toLand = [(d, core)] →
      (s.flyingTo core d.order + d.data.length ≤ 16384 → (core = s.pkg.self → ∃ p ∈ s.landStep.core.router, p.item = .answer (.porterLanding d) ∧ p.vc = 3) ∧
        (core ≠ s.pkg.self → Out.landing d.id core d.addr d.data d.mbox ∈ s.landStep.env.out) ∧ s.landStep.srv.toLand = []) ∧
      (16384 < s.flyingTo core d.order + d.data.length → s.landStep = s)) ∧
    (∀ d : Landing, let r := s.res.get d.res
      (s.core.landedNow = true → exec (.porterLanding d) s = .next (s.after 1 (.porterLanding d))) ∧
      (s.core.landedNow = false → s.landSuppressed d = true → ∃ t, exec (.porterLanding d) s = .next t ∧ t.core.mem = s.core.mem) ∧
      (s.core.landedNow = false → s.landSuppressed d = false →
        (d.deal = false → landBank d = none → ∃ t, exec (.porterLanding d) s = .next t ∧ t.core.mem = (s.landBytes d d.data).core.mem ∧ t.core.landedNow = true) ∧
        (d.deal = true → ∃ t, exec (.porterLanding d) s = .next t ∧ t.core.mem = (s.landBytes d (d.data.take (r.userEnd - d.addr))).core.mem ∧ t.core.landedNow = true ∧
          (t.res.get d.res).mboxes = (r.credit d.mbox (min (r.userEnd - d.addr) d.data.length)).mboxes) ∧
        (∀ b, d.deal = false → landBank d = some b → s.core.issuing = some d.res → s.accOwner = some d.res → s.core.accClear = none → b ∉ s.core.engineBanks → b ∉ s.core.seqBanks →
          s.env.agenda.any engineEvent = false → ∃ t, exec (.porterLanding d) s = .next t ∧ t.core.mem = (s.landBytes d d.data).core.mem ∧ t.core.landingBanks = [b]))) ∧
    (∀ d : Landing, (d.add = false → (s.landBytes d d.data).core.mem = (s.as d.res fun s => s.writeBytes d.addr d.data).core.mem) ∧
      (d.add = true → d.data.length = 4 → s.Inv → memNat (s.landBytes d d.data).core.mem d.addr 4 = accAdd (memNat s.core.mem d.addr 4) (valueOf .fp32 (leNat d.data)) % 2 ^ 32)) ∧
    (∀ (id : Nat) (fail : Option ServerFail) (q : Req), s.reqOf id = some q → 4 ≤ q.kind.toNat → ∃ t, exec (.porterCompletionReport id fail) s = .next t ∧ (∀ y ∈ t.core.reqs, y.id ≠ q.id) ∧
      (q.fail = none → fail = none → t.core.range = (s.rangeRemove q.range).core.range))

/-- R255 to R260, R269: SEND, SENDX and MCAST enter a send for each destination, with the fields of the control word, the sender's rank and order, and RDV above the group's threshold; a send to a core outside the work order leaves ILLEGAL_OPERAND in the error queue (R52). R261, R262: SENDP copies its data into the one open packet, which it opens where none is open, and with F set closes it: one eager send of its bytes. Forms that it completes: send, sendp, sendx, mcast. -/
def Obligations.SendInstructionResults : Prop :=
  (∀ (h : CHdr) (a b c : BitVec 5) (x : Bool) (mb : BitVec 4) (tag : BitVec 32) (tag28 : BitVec 28) (s : State), s.core.bad = [] →
    let buf := s.seen.c.reg h.s b
    let ctl := s.seen.c.regX h.s c x
    let n := if n4Blg buf = 0 then field ctl 0 24 else field ctl 0 24 + field ctl 0 24 / 2 ^ ((n4Blg buf).toNat - 1)
    let entered (t : State) (dst : Rank) (g : BitVec 16) (tg : BitVec 32) (cls : BitVec 2) (m : Option (BitVec 4)) : Prop :=
      ∃ q ∈ t.core.sends, s.core.nextId ≤ q.id ∧ q.res = s.curRes ∧ q.ctx = s.curCtx ∧ q.pair = s.c.pc ∧ q.buf = buf ∧ q.mbox = m ∧ q.msg.src = s.r.rank ∧ q.msg.order = s.r.order ∧
        q.msg.dst = dst ∧ q.msg.group = g ∧ q.msg.tag = tg ∧ q.msg.len = n ∧ q.msg.cls = cls ∧ q.msg.rdv = decide (s.r.eagerOf g < n) ∧ q.local_ = false
    let refused (t : State) (dst : Rank) : Prop := s.r.errq.length < 32 → errEntry Cause.illegalOperand s.curCtx s.c.pc 0 buf dst.toNat 0
      (BitVec.ofNat 64 (tag.toNat + (ctlGroup ctl).toNat <<< 32)) ∈ t.r.errq
    ((opSend h a b c x tag).ready s = true → ∃ t, exec (.send h a b c x tag) s = .next t ∧ t.core.mem = s.core.mem ∧
      let dst : Rank := (s.seen.c.reg h.s a).truncate 27
      if s.outsideOrder s.curRes dst then refused t dst else entered t dst (ctlGroup ctl) tag 0 (ctlMbox ctl)) ∧
    ((opSendx h a b c x tag).ready s = true → ∃ t dst, exec (.sendx h a b c x tag) s = .next t ∧ t.core.mem = s.core.mem ∧
      dst ∈ s.liveReplicas (s.seen.c.reg h.s a) ∧ (∀ d ∈ s.liveReplicas (s.seen.c.reg h.s a), s.counter dst ≤ s.counter d) ∧
      if s.outsideOrder s.curRes dst then refused t dst else entered t dst (ctlGroup ctl) tag 0 (ctlMbox ctl)) ∧
    ((opMcast h a b c x mb tag28).ready s = true → ∃ t, exec (.mcast h a b c x mb tag28) s = .next t ∧ t.core.mem = s.core.mem ∧
      let g : BitVec 16 := (s.seen.c.reg h.s a).truncate 16
      (∀ d ∈ s.r.others g, d ∉ s.deadOthers g → s.outsideOrder s.curRes d = false → entered t d g (tag28.zeroExtend 32) 1 none) ∧
      (s.deadOthers g = [] → s.r.others g ≠ [] → ⟨g, s.r.castNext g, mb, tag28.zeroExtend 32, s.r.others g⟩ ∈ t.r.mcasts) ∧ t.r.castNext g = s.r.castNext g + 1)) ∧
  (∀ (h : CHdr) (a b c : BitVec 5) (x : Bool) (tag : BitVec 31) (s : State),
    let buf := s.seen.c.reg h.s b
    let len := field (s.seen.c.regX h.s c x) 0 24
    let dst : Rank := (s.seen.c.reg h.s a).truncate 27
    let old : List Byte := (s.myPacket.map (·.data)).getD []
    let bytes (v : State) : List Byte := old ++ v.readBytes (ptrOff buf) len
    let whole := if n4Blg buf = 0 then len else len + len / 2 ^ ((n4Blg buf).toNat - 1)
    let busy (t : State) : Prop := t.c.busyUntil = s.core.cycle + BitVec.ofNat 64 ((whole + 63) / 64)
    s.core.bad = [] → ((opSendp h a b c x false tag).ready s = true → ∃ t p, exec (.sendp h a b c x false tag) s = .next t ∧ t.core.packet = some p ∧ t.core.mem = s.core.mem ∧
      busy t ∧ p.data = bytes ((opSendp h a b c x false tag).begun s) ∧ (s.myPacket = none → p.owner = s.curCtx ∧ p.res = s.curRes ∧ p.dest = dst ∧ p.tag = tag.zeroExtend 32)) ∧
    ((opSendp h a b c x true tag).ready s = true → s.outsideOrder s.curRes dst = false → ∃ t, exec (.sendp h a b c x true tag) s = .next t ∧ t.core.packet = none ∧
      t.core.packetKept = some s.core.nextId ∧ t.core.mem = s.core.mem ∧ busy t ∧ ∃ q ∈ t.core.sends, q.id = s.core.nextId ∧ q.kept = true ∧ q.msg.pkt = true ∧ q.msg.rdv = false ∧
        q.msg.dst = dst ∧ q.msg.tag = tag.zeroExtend 32 ∧ q.msg.len = q.msg.data.length ∧ (n4Blg buf = 0 → (∀ p, s.myPacket = some p → p.scales = []) →
          q.msg.data = bytes ((opSendp h a b c x true tag).begun s))))

/-- R263 to R268, R270, R318: RECV takes the earliest held message that it matches and else joins the posted receives in order, its record's word empty; PROBE and CANCEL write a record and answer; FREE gives up its copy and sends a token. Forms that it completes: recv, probe, cancel, free. -/
def Obligations.ReceiveInstructionResults : Prop :=
  ∀ (h : CHdr) (a b c : BitVec 5) (x : Bool) (tag : BitVec 32) (s : State),
    let u := s.seen.c.reg h.s a
    let buf := s.seen.c.reg h.s b
    let ctl := s.seen.c.regX h.s c x
    let v : Recv := ⟨u, tag, ctl.extractLsb' 32 16, buf, field ctl 0 24, if ctl.getLsbD 52 then some (ctl.extractLsb' 48 4) else none⟩
    let matched (m : Message) : Bool := (u.getLsbD 31 || u.truncate 27 == m.src) && ((m.tag ^^^ tag) &&& u.extractLsb' 32 32) == 0 && v.group == m.group && decide (m.cls.toNat ≤ 1)
    let recorded (t : State) (key mlen dlen status tg src : Nat) : Prop := memNat t.core.mem key 8 = (mlen <<< 40 + dlen <<< 16 + status) % 2 ^ 64 ∧
      memNat t.core.mem (key + 8) 8 = (tg <<< 32 + src) % 2 ^ 64 ∧ key ∈ t.core.full
    ((opRecv h a b c x tag).ready s = true → ∃ t, exec (.recv h a b c x tag) s = .next t ∧ t.core.mem = s.core.mem ∧
      ((∀ y ∈ s.r.held, matched y.msg = false) → t.r.posted = s.r.posted ++ [v] ∧ t.r.held = s.r.held ∧ s.fullKey (ptrOff (ptrAdd buf (-16))) ∉ t.core.full) ∧
      (∀ l y r, s.r.held = l ++ y :: r → (∀ z ∈ l, matched z.msg = false) → matched y.msg = true →
        t.r.posted = s.r.posted ∧ t.r.held = l ++ r ∧ ∃ m ∈ t.r.matched, m.recv = v ∧ m.msg = y.msg ∧ m.no = y.no)) ∧
    ((opProbe h a b c x tag).ready s = true → s.Inv → ∃ t, exec (.probe h a b c x tag) s = .next t ∧
      t.r.held = s.r.held ∧ t.r.posted = s.r.posted ∧
      ((∀ y ∈ s.r.held, matched y.msg = false) → recorded t (s.fullKey (ptrOff buf)) 0 0 3 0 0) ∧
      (∀ l y r, s.r.held = l ++ y :: r → (∀ z ∈ l, matched z.msg = false) → matched y.msg = true →
        recorded t (s.fullKey (ptrOff buf)) y.msg.len 0 0 y.msg.tag.toNat y.msg.src.toNat)) ∧
    ((opCancel h a b).ready s = true → ∃ t, exec (.cancel h a b) s = .next t ∧ (s.r.postedAt u = none → t.core.mem = s.core.mem ∧ t.r.posted = s.r.posted) ∧
      (∀ w, s.r.postedAt u = some w → t.r.posted = s.r.posted.erase w ∧ (s.Inv → 16 ≤ ptrOff w.buf → recorded t (s.fullKey (ptrOff w.buf - 16)) 0 0 2 0 0)) ∧
      t.c.flight = (((opCancel h a b).begun s).result (.s (regOf h.s b)) (if (s.r.postedAt u).isSome then 0
        else if s.r.matched.any fun l => l.msg.cls != 2 && !l.dropped && ptrWin u == 0 && ptrOff l.recv.buf == ptrOff u then 1 else 2) 4).c.flight) ∧
    ((opFree h a b).ready s = true → ∃ t e, exec (.free h a b) s = .next t ∧ s.r.copyAt (u.truncate 27) buf = some e ∧ t.r.copies = s.r.copies.erase e ∧
      t.core.mem = s.core.mem ∧ let token : FreeToken := ⟨e.sender, s.r.order, e.group, e.num, 1, [s.r.rank]⟩
      (s.targetOf s.r.order e.sender = .core s.pkg.self → Instr.freeTokenArrival token ∈ t.env.agenda) ∧
      (s.targetOf s.r.order e.sender ≠ .core s.pkg.self → ⟨.token token, s.r.order, 16⟩ ∈ t.core.ni))

/-- R229, R299: MMAR queues a matrix command, with the capability, the body and the sender's identity, behind the writes that a release waits for; one for a core outside the work order leaves ILLEGAL_OPERAND in the error queue and sends nothing. R231: the target enters an admitted command as a task of its context 0, and refuses one that fails a check; a core without a residency of the work order refuses it. Forms that it completes: mmar, mmarCommandArrival. -/
def Obligations.RemoteMatrixCommandResults : Prop :=
  (∀ (h : CHdr) (a b c : BitVec 5) (x : Bool) (k : BitVec 3) (ta tb : BitVec 4) (v : Bool) (r : BitVec 3) (s : State), (opMmar h a b c x k ta tb v r).ready s = true →
    let w := s.seen.c.regX h.s c x
    let core := (s.seen.c.reg h.s b).toNat
    let m : MatrixCommand := ⟨s.rankHere core, s.seen.c.reg h.s a, k, ta, tb, v, r, if w.getLsbD 4 then some (w.truncate 4) else none, s.r.rank, s.r.order, s.curCtx, s.c.pc, 0, portLocal⟩
    ∃ t, exec (.mmar h a b c x k ta tb v r) s = .next t ∧ t.core.mem = s.core.mem ∧
      (s.outsideOrder s.curRes (s.rankHere core) = true → t.core.ni = s.core.ni ∧ t.core.leaving = s.core.leaving ∧ (s.r.errq.length < 32 →
        errEntry Cause.illegalOperand s.curCtx s.c.pc 0 0 (s.rankHere core).toNat 0 (s.seen.c.reg h.s a &&& 0xFFFFFFFFE0000000) ∈ t.r.errq)) ∧
      (s.outsideOrder s.curRes (s.rankHere core) = false →
        (∃ l ∈ t.core.leaving, l.item = .command core m) ∨ (∃ y ∈ t.core.ni, y.item = .command core m) ∨ Instr.mmarCommandArrival m ∈ t.env.agenda)) ∧
  (∀ (c : MatrixCommand) (k : ResNo) (s : State),
    let r := s.res.get k
    let v : State := { s with curRes := k }
    let refuses (rank : Rank) (cause : BitVec 7) : Prop := ∃ t, exec (.mmarCommandArrival c) s = .next t ∧ t.core.tasks = s.core.tasks ∧ t.core.mem = s.core.mem ∧
      (∀ j, s.resByRank c.order c.src = some j → (t.res.get j).errq = ((s.res.get j).postError (errEntry cause c.ctx c.pair 0 0 rank.toNat 0 (c.cap &&& 0xFFFFFFFFE0000000))).errq) ∧
      (s.resByRank c.order c.src = none → s.targetOf c.order c.src ≠ .core s.pkg.self →
        ⟨.refusal c.src cause c.ctx c.pair rank (c.cap &&& 0xFFFFFFFFE0000000), c.order, 16⟩ ∈ t.core.ni)
    s.core.inbox = [] → (s.env.agenda.any fun j => (envelopeOf j).isSome) = false →
    (s.resOf c.order = none → refuses c.dst Cause.capabilityRefused) ∧
    (s.resOf c.order = some k → r.inputShut c.src = false →
     (r.admits c = true → s.core.issuing = some k → s.core.switch = none → (s.core.tasks.filter fun t => t.res == k).length < 64 →
      (v.commandCheck c = none → ∃ t x, exec (.mmarCommandArrival c) s = .next t ∧ t.core.tasks = s.core.tasks ++ [x] ∧ x.res = k ∧ x.ctx = 0 ∧ x.pair = c.pair ∧ x.remote = true ∧
        x.instr = commandInstr c ∧ t.core.mem = s.core.mem ∧ Instr.foremanDispatch ∈ t.env.agenda) ∧
      (∀ cause, v.commandCheck c = some cause → refuses r.rank cause)) ∧
    (r.admits c = false → refuses r.rank Cause.capabilityRefused)) ∧
    (r.admits c = true ↔ BitVec.ofNat 16 (field c.cap 48 16) = r.crew ∧ field c.cap 29 11 = Rank.core r.rank ∧ c.cap.getLsbD 40 = true ∧
      capabilityCheck r.capkey (c.cap &&& 0xFFFFFFFFE0000000) = c.cap.truncate 29))

/-- R235, R255, R314 to R326: an envelope that reaches an empty receive buffer is taken in the same cycle where it is next in its stream and its input is open: one with a bad field or no taker goes back with its cause; else it is matched with the first posted receive that accepts it, or held in arrival order: in the pigeonholes, demoted in the pool, or refused. A duplicate is dropped, a later one of a refused stream refused, an early one waits. A reduction message that an open reduction takes is applied whole where its data are there and the accumulators can be written, and waits matched otherwise; a landing writes the data and the status record. Forms that it completes: eagerArrival, rendezvousArrival, landingComplete, accxMessageArrival, pigeonholeCopyDone. -/
def Obligations.PostmasterResults : Prop :=
  ∀ (s : State) (k : ResNo) (m : Message),
    let r := s.res.get k
    let arrives (i : Instr) (p : State → Prop) : Prop :=
      s.core.inbox = [] → s.core.accepted = false → (s.env.agenda.any fun j => (envelopeOf j).isSome) = false → ∃ t, exec i s = .next t ∧ p t
    let inTurn (x : Message) : Prop := ((s.streamIn x).refused = none ∧ (s.streamIn x).seq = x.seq) ∨ ((s.streamIn x).refused = some x.seq ∧ x.retry = true)
    let next (x : Message) (t : State) (q : BitVec 16) (refused : Option (BitVec 16)) : Prop := (t.streamIn x).seq = q ∧ (t.streamIn x).refused = refused
    let tells (x : Message) (t : State) (own : Instr) (o : Out) : Prop := if s.ownMessage x then own ∈ t.env.agenda
      else s.targetOf x.order x.src ≠ .core s.pkg.self → ⟨o, x.order, 16⟩ ∈ t.core.ni
    let notice (x : Message) (t : State) (c : BitVec 3) : Prop := tells x t (noticeEvent x.sendId c) (.notice x.src x.sendId c)
    let holds (x : Message) (t : State) : Prop :=
      (t.res.get k).posted = r.posted ∧
      (x.rdv = false → unitsOf x.len ≤ r.unitsFree.length → next x t (x.seq + 1) none ∧ notice x t 0 ∧
        (t.res.get k).held = r.held ++ [⟨r.arrivals, { x with data := [] }, r.unitsFree.take (unitsOf x.len)⟩]) ∧
      ((x.rdv = true ∨ r.unitsFree.length < unitsOf x.len) → (r.held.filter fun h => h.units.isEmpty).length < 1024 →
        next x t (x.seq + 1) none ∧ t.core.mem = s.core.mem ∧ notice x t (if x.rdv then 0 else 1) ∧
        (t.res.get k).held = r.held ++ [⟨r.arrivals, { x with rdv := true, data := [] }, []⟩]) ∧
      ((x.rdv = true ∨ r.unitsFree.length < unitsOf x.len) → 1024 ≤ (r.held.filter fun h => h.units.isEmpty).length →
        next x t (if x.fin then x.seq + 1 else (s.streamIn x).seq) (if x.fin then none else some x.seq) ∧ (t.res.get k).held = r.held ∧ notice x t 2)
    let failed (x : Message) (t : State) (c : BitVec 7) : Prop := next x t (x.seq + 1) none ∧ t.res = s.res ∧ t.core.mem = s.core.mem ∧
      (s.ownMessage x = false → s.targetOf x.order x.src ≠ .core s.pkg.self → ⟨.report x.src x.sendId c (failInfo x c), x.order, 16⟩ ∈ t.core.ni)
    let plain (i : Instr) (x : Message) : Prop := x.cls.toNat ≤ 1 →
      (s.takerOf x = none → inTurn x → s.ownMessage x = false → arrives i fun t => failed x t (if x.bad then Cause.malformed else Cause.noGroup)) ∧
      (s.takerOf x = some k → r.inputShut x.src = true → arrives i fun t => t.res = s.res ∧ t.core.inbox = [⟨i, none⟩]) ∧
      (s.takerOf x = some k → r.inputShut x.src = false → x.bad = false →
        ((s.streamIn x).refused = none → seqBefore x.seq (s.streamIn x).seq = true → arrives i fun t => t.res = s.res ∧ t.core.mem = s.core.mem ∧ t.core.inbox = [] ∧ t.core.streamsIn = s.core.streamsIn) ∧
        ((s.streamIn x).refused = none → seqBefore x.seq (s.streamIn x).seq = false → x.seq ≠ (s.streamIn x).seq → arrives i fun t => t.res = s.res ∧ t.core.inbox = [⟨i, none⟩]) ∧
        (∀ q, (s.streamIn x).refused = some q → (x.seq ≠ q ∨ x.retry = false) → x.fin = false → arrives i fun t => t.res = s.res ∧ next x t (s.streamIn x).seq (some q) ∧ notice x t 2) ∧
        (inTurn x → (∀ l v p, r.posted = l ++ v :: p → (∀ y ∈ l, y.accepts x = false) → v.accepts x = true → arrives i fun t => (t.res.get k).posted = l ++ p ∧ next x t (x.seq + 1) none ∧
            ∃ y ∈ (t.res.get k).matched, y.recv = v ∧ y.msg = x ∧ y.units = [] ∧ y.no = r.arrivals) ∧
          ((∀ y ∈ r.posted, y.accepts x = false) → arrives i (holds x))))
    plain (.eagerArrival { m with rdv := false }) { m with rdv := false } ∧ plain (.rendezvousArrival { m with rdv := true }) { m with rdv := true } ∧
    (let x : Message := { m with cls := 2 };
      inTurn x → x.bad = false → s.takerOf x = some k → r.inputShut x.src = false →
      (r.takesReduction x = false → arrives (.accxMessageArrival x) (holds x)) ∧
      (r.takesReduction x = true → (∀ j, ∀ l ∈ (s.res.get j).matched, l.msg.cls ≠ 2) →
        (∀ d, r.reductionOf x.tag = some d → s.accReady k = true → s.env.agenda.any writesBank = false → share d.rect.banks s.banksTaken = false →
          x.rdv = false → x.data.length / 8 = (accxElems d.rect).length → arrives (.accxMessageArrival x) fun t =>
            t.core.mem = accxMessage d.rect (accxElems d.rect) x.data s.core.mem ∧ (t.res.get k).reductions = countArrival x.tag r.reductions ∧
            (∀ l ∈ (t.res.get k).matched, l.no ≠ r.arrivals) ∧ notice x t 0) ∧
        ((x.rdv = true ∨ s.accReady k = false) → arrives (.accxMessageArrival x) fun t => t.core.mem = s.core.mem ∧ t.core.inbox = [] ∧
          (t.res.get k).reductions = r.reductions ∧ (t.res.get k).held = r.held ∧ (∃ l ∈ (t.res.get k).matched, l.msg = x ∧ l.no = r.arrivals) ∧ notice x t 0))) ∧
    (∀ (no : Nat) (data : List Byte) (sc : BitVec 16) (l : Landed), (r.matched.find? fun l => l.no == no && l.started && l.units.isEmpty && decide (data.length = l.take)) = some l →
      l.msg.cls ≠ 2 → l.dropped = false → r.phase.alive = true → ∃ t, exec (.landingComplete k no data sc) s = .next t ∧ (∀ y ∈ (t.res.get k).matched, y.no ≠ no) ∧
        ((l.msg.blg = 0 ∨ sc = l.msg.seq) → t.core.mem = ((s.as k fun s => s.writeBytes (ptrOff l.recv.buf) data).writeRecord k l.recv.buf l.msg.len data.length
          (if l.recv.len < l.msg.len then 1 else 0) l.msg.tag.toNat l.msg.src.toNat).core.mem) ∧
        (l.msg.blg ≠ 0 → sc ≠ l.msg.seq → t.core.mem = (s.writeRecord k l.recv.buf l.msg.len 0 6 l.msg.tag.toNat l.msg.src.toNat).core.mem)) ∧
    (∀ l, r.copiedOut s.core.cycle = some l → (∀ j, j < k → (s.res.get j).copiedOut s.core.cycle = none) → l.msg.cls ≠ 2 → exec .pigeonholeCopyDone s =
      .next ((s.modRes k (·.modLanded l.no fun x => { x with units := [], due := none })).post
        (.landingComplete k l.no (takeBytes l.msg.blg l.msg.len l.take (s.unitBytes k l.units l.msg.len)) l.msg.scaleSeq)))

/-- R257, R259, R324, R326, R329, R330, R333, R393: what the notices and timers do with a send: it is acknowledged, demoted, retried up to sixteen times, given leave to move its data, locally complete, over, or failed with its cause in the error queue. R341: a buffer-free token takes its receivers off the multicast that it answers, and one that no residency takes goes back with NO_GROUP; tokens of one multicast are summed at a router until each child has sent, and later ones pass. Forms that it completes: peerDeadResponse, acceptanceNotice, demotionNotice, refusalNotice, clearToSend, sendAcknowledged, destEnded, freeTokenCombine, freeTokenArrival, senderErrorReport, sourceTimeout, retryTimer, localCompletion. -/
def Obligations.SendProgressResults : Prop :=
  ∀ s : State, s.core.bad = [] →
    (∀ (q : Send) (l r : List Send), s.core.sends = l ++ q :: r → (∀ y ∈ l ++ r, y.id ≠ q.id) →
      let becomes (i : Instr) (p : State → Send → Prop) : Prop := ∃ t, exec i s = .next t ∧ ∃ y ∈ t.core.sends, y.id = q.id ∧ p t y
      let gone (i : Instr) (p : State → Prop) : Prop := ∃ t, exec i s = .next t ∧ (∀ y ∈ t.core.sends, y.id ≠ q.id) ∧ p t
      let fails (i : Instr) (cause : BitVec 7) : Prop := gone i fun t => (s.res.get q.res).errq.length < 32 →
        errEntry cause q.ctx q.pair 0 q.buf q.msg.dst.toNat 0 (BitVec.ofNat 64 (q.msg.tag.toNat + q.msg.group.toNat <<< 32)) ∈ (t.res.get q.res).errq
      let head := (s.streamOut q.msg).refused
      let again : Message := { q.msg with rdv := true, retry := true, fin := decide (q.tries + 1 = 16), data := [] }
      let leaves (t : State) (o : Out) : Prop := ⟨o, q.msg.order, o.size⟩ ∈ t.core.ni
      (q.state = .eagerOut → becomes (.acceptanceNotice q.id) (fun t y => y.state = .dataOut ∧ y.acked = true ∧ y.due = none ∧ Instr.localCompletion ∈ t.env.agenda) ∧
        becomes (.demotionNotice q.id) (fun _ y => y.state = .waitCts ∧ y.msg.rdv = true ∧ y.due = none)) ∧
      (q.state = .rdvOut → becomes (.acceptanceNotice q.id) (fun _ y => y.state = .waitCts ∧ y.due = none)) ∧
      ((q.state = .eagerOut ∨ q.state = .rdvOut) →
        ((head = none ∨ head = some q.msg.seq) →
          (q.tries < 16 → becomes (.refusalNotice q.id) fun t y => y.state = .backoff ∧ y.retryAt = some (s.core.cycle + BitVec.ofNat 64 (256 * 2 ^ min q.tries 10)) ∧
            (s.core.cycle + BitVec.ofNat 64 (256 * 2 ^ min q.tries 10), Instr.retryTimer) ∈ t.env.timers) ∧
          (16 ≤ q.tries → fails (.refusalNotice q.id) Cause.poolExhausted)) ∧
        (∀ h, head = some h → h ≠ q.msg.seq → becomes (.refusalNotice q.id) fun t y => y.state = .backoff ∧ y.retryAt = q.retryAt ∧ t.env.timers = s.env.timers)) ∧
      (∀ c, q.state = .backoff → q.retryAt = some c → c.toNat ≤ s.core.cycle.toNat → becomes .retryTimer fun t y => y.state = .rdvOut ∧ y.tries = q.tries + 1 ∧ y.retryAt = none ∧
        (if s.targetOf q.msg.order q.msg.dst = .core s.pkg.self then arrivalOf again ∈ t.env.agenda else leaves t (.message again))) ∧
      (∀ x : Clearance, q.state = .waitCts → becomes (.clearToSend q.id x) fun t y => y.state = .dataOut ∧ Instr.localCompletion ∈ t.env.agenda ∧
        (0 < x.n → s.landingOf q = none → s.targetOf q.msg.order q.msg.dst ≠ .core s.pkg.self →
          leaves t (.bulk q.msg.dst q.id x.core x.addr (takeBytes q.msg.blg q.msg.len x.n (s.sendBytes q)) q.msg.scaleSeq))) ∧
      (q.state = .dataOut → q.local_ = false → (∀ y ∈ l, y.state ≠ .dataOut ∨ y.local_ = true) →
        let credited (t : State) : Prop := (t.res.get q.res).mboxes = ((s.res.get q.res).credit q.mbox (dataLen q.msg.blg q.msg.len)).mboxes
        (q.acked = false → becomes .localCompletion fun t y => y.local_ = true ∧ y.range = none ∧ credited t) ∧ (q.acked = true → gone .localCompletion credited)) ∧
      (q.local_ = false → becomes (.sendAcknowledged q.id) fun _ y => y.acked = true ∧ y.due = none) ∧ (q.local_ = true → gone (.sendAcknowledged q.id) fun _ => True) ∧
      fails (.destEnded q.id) Cause.destEnded ∧ (s.reqOf q.id = none → fails (.peerDeadResponse q.id) Cause.peerDead) ∧
      (∀ c info, (endsSend c = true ∨ c = Cause.illegalOperand) →
        let twin (y : Send) : Prop := y.res = q.res ∧ y.ctx = q.ctx ∧ y.pair = q.pair ∧ y.buf = q.buf ∧ y.msg.dst = q.msg.dst
        ((q.reported = true ∧ ∀ y ∈ l, twin y → y.reported = false) ∨ (q.reported = false ∧ (∀ y ∈ l, ¬ twin y) ∧ ∀ y ∈ r, twin y → y.reported = false)) →
        gone (.senderErrorReport q.res c q.ctx q.pair q.buf q.msg.dst info) fun t => (s.res.get q.res).errq.length < 32 →
          errEntry c q.ctx q.pair 0 q.buf q.msg.dst.toNat 0 info ∈ (t.res.get q.res).errq)) ∧
    (∀ (k : ResNo) (c : BitVec 7) (x : CtxNo) (p : Pair) (ptr info : Word) (peer : Rank), (s.res.get k).phase.alive = true → ((endsSend c = false ∧ c ≠ Cause.illegalOperand) ∨
        ((endsSend c = false ∨ c = Cause.noGroup) ∧ ∀ q ∈ s.core.sends, ¬ (q.res = k ∧ q.ctx = x ∧ q.pair = p ∧ q.buf = ptr ∧ q.msg.dst = peer))) →
      exec (.senderErrorReport k c x p ptr peer info) s = .next (s.modRes k fun r => r.postError (errEntry c x p 0 ptr peer.toNat 0 info))) ∧
    (∀ k p, (k, p) ∈ s.expired → ∃ t, exec .sourceTimeout s = .next t ∧ p ∈ (t.res.get k).deadPeers ∧ ∀ y ∈ t.core.sends, y.res = k → Rank.pkg y.msg.dst ≠ p) ∧
    (∀ (u : FreeToken) (k : ResNo) (m : Mcast), s.tokenTaker u = some k → (s.res.get k).mcasts = [m] → m.group = u.group → m.num = u.num → ∃ t, exec (.freeTokenArrival u) s = .next t ∧
        let owed := m.owed.filter fun d => !u.who.contains d
        (owed ≠ [] → (t.res.get k).mcasts = [{ m with owed := owed }] ∧ (t.res.get k).mboxes = (s.res.get k).mboxes) ∧
        (owed = [] → (t.res.get k).mcasts = [] ∧ (t.res.get k).mboxes = ((s.res.get k).credit (some m.mbox) 1).mboxes)) ∧
    (∀ u : FreeToken, s.tokenTaker u = none → ∃ t, exec (.freeTokenArrival u) s = .next t ∧ t.res = s.res ∧ ∀ d ∈ u.who, s.targetOf u.order d ≠ .core s.pkg.self →
      let o : Out := .refusal d Cause.noGroup 0 0 u.sender (BitVec.ofNat 64 (u.group.toNat <<< 32))
      ⟨o, u.order, o.size⟩ ∈ t.core.ni) ∧
    (∀ (a n c : Nat) (u v : FreeToken) (cs : List Nat) (holds : Bool), let table (l : List Combine) : State := { s with die := { s.die with combining := l } }
      let sum : FreeToken := { u with weight := v.weight + u.weight, who := v.who ++ u.who }
      let none_ : FreeToken := { u with weight := 0, who := [] }
      let all := setAdd cs c
      (s.die.combining = [] → exec (.freeTokenCombine a ⟨n, c⟩ u) s = .next (if n ≤ 1 then s.emitFor u.order (.token u) else table [⟨a, u, [c], true⟩])) ∧
      (s.die.combining = [⟨a, v, cs, holds⟩] → v.sender = u.sender → v.order = u.order → v.group = u.group → v.num = u.num →
        exec (.freeTokenCombine a ⟨n, c⟩ u) s = .next (
          if holds = false then (table [⟨a, v, all, false⟩]).emitFor u.order (.token u)
          else if n ≤ all.length then (table [⟨a, none_, all, false⟩]).emitFor u.order (.token sum) else table [⟨a, sum, all, true⟩])))

/-- R276 to R280: mailbox targets and counts, and the circular-buffer handles. A mailbox trips where the posted target is reached and keeps what is over; HWAIT goes on where the slots are there; HADV moves its count on. Forms that it completes: expect, mbadd, hset, hwaitProd, hwaitCons, hadvProd, hadvCons. -/
def Obligations.MailboxAndHandleResults : Prop :=
  ∀ (h : CHdr) (a : BitVec 5) (m q : BitVec 4) (cnt : BitVec 8) (size : BitVec 13) (s : State),
    let u := s.seen.c.reg h.s a
    let keepsMem (t : State) : Prop := t.core.mem = s.core.mem ∧ t.srv = s.srv
    ((opExpect h a m).ready s = true → (s.r.mbox m).posted = false ∧ (s.r.mbox m).trips ≠ 15 ∧ ∃ t, exec (.expect h a m) s = .next t ∧ keepsMem t ∧
      (u.toNat ≤ (s.r.mbox m).count.toNat → t.r.mbox m = ⟨(s.r.mbox m).count - u.truncate 48, u.truncate 48, false, (s.r.mbox m).trips + 1, (s.r.mbox m).excess || decide (u.toNat < (s.r.mbox m).count.toNat)⟩) ∧
      ((s.r.mbox m).count.toNat < u.toNat → t.r.mbox m = { s.r.mbox m with target := u.truncate 48, posted := true })) ∧
    ((opMbadd h a m).ready s = true → ∃ t, exec (.mbadd h a m) s = .next t ∧ keepsMem t ∧ (∀ k, k ≠ m → t.r.mbox k = s.r.mbox k) ∧
      ((s.r.mbox m).posted = false → (s.r.mbox m).count.toNat + u.toNat < 2 ^ 48 →
        t.r.mbox m = { s.r.mbox m with count := (s.r.mbox m).count + u.truncate 48 })) ∧
    ((opHset h a m cnt size).ready s = true → ∃ t, exec (.hset h a m cnt size) s = .next t ∧ t.core.mem = s.core.mem ∧ t.r.handle m = ⟨u, size, cnt, 0, 0, true⟩) ∧
    ((opHwaitProd h m q).ready s = true → q.toNat ≤ (s.r.handle m).nslot1.toNat + 1 - ((s.r.handle m).prod - (s.r.handle m).cons).toNat ∧
      exec (.hwaitProd h m q) s = .next (s.ended s.begun none)) ∧
    ((opHwaitCons h m q).ready s = true → q.toNat ≤ ((s.r.handle m).prod - (s.r.handle m).cons).toNat ∧ exec (.hwaitCons h m q) s = .next (s.ended s.begun none)) ∧
    ((opHadvProd h m q).ready s = true → ∃ t, exec (.hadvProd h m q) s = .next t ∧ t.core.mem = s.core.mem ∧
      t.r.handle m = { s.r.handle m with prod := (s.r.handle m).prod + q.zeroExtend 32 }) ∧
    ((opHadvCons h m q).ready s = true → ∃ t, exec (.hadvCons h m q) s = .next t ∧ t.core.mem = s.core.mem ∧
      t.r.handle m = { s.r.handle m with cons := (s.r.handle m).cons + q.zeroExtend 32 })

/-- R272 to R274, R339: XSND and XRCV enter a movement of the phase with its peer, cycle, length and area. A flit that reaches the port waits for the judgement of its phase cycle; once the core's own phase is closed it is a collision for the other members. At the judgement the one flit of the expected peer is written into its place; every other case is a collision, of which the first marks the phase and of which the other crew members on the die hear. R175, R347 to R352: ROUND sends this round's marker on every output, behind what the core has queued before it, and blocks the context until the edge. A marker that reaches the receive buffer and follows no refused message is accepted where the input has none of this round, and waits in the buffer where it has; one of another round changes nothing. When every input has delivered its marker or is closed, the round counter steps, context 0 goes on and the markers are used up. Forms that it completes: round, xsnd, xrcv, exchFlit, markerArrival. -/
def Obligations.ExchangeAndRoundResults : Prop :=
  (∀ (h : CHdr) (a : BitVec 5) (t4 : BitVec 4) (flits : BitVec 8) (cyc : BitVec 20) (peer cycle : Nat) (data : List Byte) (s : State),
    let moves (i : Instr) (o : Op) (send : Bool) (slots : Vector (Option Nat) 16) : Prop := o.ready s = true → s.core.exch.opened = true ∧ ∃ t m p, exec i s = .next t ∧
      slots.get ⟨t4.toNat, t4.isLt⟩ = some p ∧ t.core.exch.moves = s.core.exch.moves ++ [m] ∧ m.send = send ∧ m.peer = p ∧ m.cycle = cyc.toNat ∧ m.flits = flits.toNat + 1 ∧
      m.addr = ptrOff (s.seen.c.reg h.s a) ∧ m.done = 0 ∧ t.core.mem = s.core.mem
    let here := s.core.exch.flits.filter fun f => f.2.1 == cycle
    moves (.xsnd h a t4 flits cyc) (opXsnd h a t4 flits cyc) true s.r.sendSlots ∧
    moves (.xrcv h a t4 flits cyc) (opXrcv h a t4 flits cyc) false s.r.recvSlots ∧
    (s.core.exch.mode = true → exec (.exchFlit peer cycle data) s =
      .next { s with core := { s.core with exch := { s.core.exch with flits := s.core.exch.flits ++ [(peer, cycle, data)] } } }) ∧
    (s.core.exch.mode = false → exec (.exchFlit peer cycle data) s = .next { s with env := { s.env with out := s.env.out ++ [.collision cycle s.core.exch.me] } }) ∧
    (∀ me : Nat,
      let t := s.judgeFlits me cycle
      (∀ f ∈ t.core.exch.flits, f.2.1 ≠ cycle) ∧
      (∀ m, here = [(peer, cycle, data)] → coveringMove s.core.exch.moves cycle = some m → m.peer = peer →
        t.core.mem = (s.writeBytes (m.addr + 64 * (cycle - m.cycle)) data).core.mem ∧ t.core.exch.collision = s.core.exch.collision ∧ t.env.out = s.env.out) ∧
      ((2 ≤ here.length ∨ (here ≠ [] ∧ ∀ m f, coveringMove s.core.exch.moves cycle = some m → here = [f] → m.peer ≠ f.1)) →
        t.core.mem = s.core.mem ∧ t.env.out = s.env.out ++ [.collision cycle me] ∧
        (s.core.exch.mode = true → t.core.exch.collision = some (s.core.exch.collision.getD (cycle, me)))))) ∧
  (∀ (h : CHdr) (s : State), ((opRound h).ready s = true → s.curCtx = 0 ∧ ∃ t, exec (.round h) s = .next t ∧
      (∀ d ∈ s.r.outputs, s.targetOf s.r.order d ≠ .core s.pkg.self →
        (∃ l ∈ t.core.leaving, l.item = .marker s.r.rank d s.r.round false) ∨ (∃ y ∈ t.core.ni, y.item = .marker s.r.rank d s.r.round false)) ∧
      ((∃ i ∈ s.r.inputs, i.marked = false ∧ i.closed = false) → t.r.round = s.r.round ∧ (.round, s.c.mode) ∈ t.c.blocked ∧ t.c.barred = true) ∧
      ((∀ i ∈ s.r.inputs, i.marked = true ∨ i.closed = true) → t.r.round = s.r.round + 1 ∧ ∀ b ∈ t.c.blocked, b.1 ≠ .round)) ∧
    (∀ (k : ResNo) (peer : Rank) (n : BitVec 32) (closing : Bool), let r := s.res.get k
      r.phase.alive = true → s.core.inbox = [] → (s.env.agenda.any fun j => (envelopeOf j).isSome) = false →
      (∀ x ∈ s.core.streamsIn, x.src = peer → x.dst = r.rank → x.owed = none) →
      ∃ t, exec (.markerArrival k peer n closing) s = .next t ∧ t.core.mem = s.core.mem ∧
        (r.inputShut peer = true → t.res = s.res ∧ t.core.inbox.map (·.ev) = [.markerArrival k peer n closing]) ∧
        (r.inputShut peer = false → t.core.inbox = [] ∧
          (closing = false → n ≠ r.round → t.res = s.res) ∧
          ((∃ i ∈ r.inputs, i.peer = peer ∧ i.closed = false) → (closing = true ∨ n = r.round) →
            ((∃ i ∈ r.inputs, i.peer ≠ peer ∧ i.marked = false ∧ i.closed = false) → (t.res.get k).round = r.round ∧
              (∀ i ∈ (t.res.get k).inputs, i.peer = peer → i.marked = true) ∧ (closing = true → ∀ i ∈ (t.res.get k).inputs, i.peer = peer → i.closed = true)) ∧
            ((∀ i ∈ r.inputs, i.peer = peer ∨ i.marked = true ∨ i.closed = true) → (∃ m, (.round, m) ∈ (r.ctx.get 0).blocked) →
              (t.res.get k).round = r.round + 1 ∧ (∀ b ∈ ((t.res.get k).ctx.get 0).blocked, b.1 ≠ .round) ∧ ∀ i ∈ (t.res.get k).inputs, i.marked = i.closed)))))

/-- R281 to R284, R353, R367: FIELD binds a field with the block's parameters, at the tick of the present round; EVSEND puts an event for this core in its queue by tick, queues it to leave for another, or leaves an error where it is refused; EVRUN raises the run limit; the EVCTL forms unbind and read. Forms that it completes: field, evsend, evrun, evctlUnbind, evctlTime, evctlLate, evctlQlen, evctlFires. -/
def Obligations.FieldInstructionResults : Prop :=
  ∀ (h : CHdr) (a b c : BitVec 5) (x : Bool) (f k : BitVec 3) (col row : BitVec 8) (s : State),
    let u := s.seen.c.reg h.s a
    let fld := s.r.evField f
    let reads (i : Instr) (o : Op) (v : Word) : Prop := o.ready s = true → fld.bound = true ∧ exec i s = .next (s.ended ((o.begun s).result (.s (regOf h.s a)) v 4) none)
    ((opField h a f k).ready s = true → fld.bound = false ∧ ∃ t, exec (.field h a f k) s = .next t ∧ t.core.mem = s.core.mem ∧
      let g := t.r.evField f
      let n (o w : Nat) := leNat (((((opField h a f k).begun s).readBytes (ptrOff u) 64).drop o).take w)
      g.bound = true ∧ g.ad = k ∧ g.rect = s.r.ad.get ⟨k.toNat, k.isLt⟩ ∧ g.leak.toNat = n 0 4 ∧ g.theta.toNat = n 4 4 ∧ g.reset.toNat = n 8 1 % 4 ∧ g.out.toNat = n 8 1 / 4 % 4 ∧
      g.mb.toNat = n 8 1 / 16 % 16 ∧ g.ref.toNat = n 9 1 ∧ g.delay.toNat = n 12 4 ∧ g.tpr.toNat = n 16 4 ∧ g.ptr.toNat = n 24 8 ∧
      g.t.toNat = s.r.round.toNat * g.tpr.toNat ∧ g.run = g.t ∧ g.late = 0 ∧ g.fires = 0 ∧ g.sticky = false) ∧
    ((opEvsend h a b c x f col row).ready s = true → ∃ t, exec (.evsend h a b c x f col row) s = .next t ∧ t.core.mem = s.core.mem ∧
      let e : EventRec := ⟨(s.seen.c.reg h.s b).truncate 32, (s.seen.c.regX h.s c x).truncate 32, row, col, f, s.r.rank⟩
      let dst : Rank := u.truncate 27
      let wrong (cause : BitVec 7) : Prop := t.core.events = s.core.events ∧ t.core.leaving = s.core.leaving ∧
        t.r.errq = (s.r.postError (errEntry cause s.curCtx s.c.pc 0 0 dst.toNat 0 (eventInfo e))).errq
      (s.outsideOrder s.curRes dst = false → dst ≠ s.r.rank → t.core.leaving = s.core.leaving ++ [⟨.event dst e, [], s.curRes, true⟩] ∧ t.core.events = s.core.events) ∧
      (s.outsideOrder s.curRes dst = false → dst = s.r.rank → s.r.evOk e = true → t.core.events = queueIn s.core.events ⟨s.curRes, e⟩) ∧
      (s.outsideOrder s.curRes dst = false → dst = s.r.rank → s.r.evOk e = false → wrong Cause.eventRefused) ∧
      (s.outsideOrder s.curRes dst = true → wrong Cause.illegalOperand)) ∧
    ((opEvrun h a f).ready s = true → fld.bound = true ∧ ∃ t, exec (.evrun h a f) s = .next t ∧ t.core.mem = s.core.mem ∧ t.core.events = s.core.events ∧
      t.r.evField f = { fld with run := BitVec.ofNat 32 (max fld.run.toNat (u.toNat % 2 ^ 32)) }) ∧
    ((opEvctlUnbind h f).ready s = true → ∃ t, exec (.evctlUnbind h f) s = .next t ∧ t.core.mem = s.core.mem ∧ (t.r.evField f).bound = false ∧
      (∀ q, q ∈ t.core.events ↔ q ∈ s.core.events ∧ ¬(q.res = s.curRes ∧ q.ev.fld = f))) ∧
    reads (.evctlTime h a f) (opEvctlTime h a f) (fld.t.zeroExtend 64) ∧
    reads (.evctlQlen h a f) (opEvctlQlen h a f) (BitVec.ofNat 64 (s.core.events.filter fun q => q.res == s.curRes && q.ev.fld == f).length) ∧
    reads (.evctlFires h a f) (opEvctlFires h a f) (fld.fires.zeroExtend 64) ∧
    ((opEvctlLate h a f).ready s = true → ∃ t, exec (.evctlLate h a f) s = .next t ∧ (t.r.evField f).late = 0 ∧ (t.r.evField f).sticky = false ∧
      t.c.flight = (((opEvctlLate h a f).begun s).result (.s (regOf h.s a)) (BitVec.ofNat 64 (fld.late.toNat + fld.sticky.toNat <<< 32)) 4).c.flight) ∧
    (∀ (l : List QEvent) (q : QEvent), ∃ p r, l = p ++ r ∧ queueIn l q = p ++ q :: r ∧ (∀ y ∈ p, y.ev.tick.toNat ≤ q.ev.tick.toNat) ∧
      ∀ y ∈ r.head?, q.ev.tick.toNat < y.ev.tick.toNat)

/-- R356 to R361: an arriving event that nothing precedes joins the queue by tick, waits where the queue is full, or is refused to its sender where it names no element of a bound field. EVENT_DELIVER and FIELD_ADVANCE make the step that is due where the residency owns the group and the bank is free. A delivery adds the event's weight to the element, which fires at its threshold and is then reset as RESET says; an element in refraction takes nothing. An advance takes one tick; each of its cycles leaks at most 32 words of one row, and together they reach every element. Forms that it completes: eventArrival, eventDeliver, fieldAdvance. -/
def Obligations.FieldEngineResults : Prop :=
  ∀ (s : State) (k : ResNo),
    (∀ (e : EventRec) (d : Addressee), s.resOf d.order = some k → (s.res.get k).inputShut e.src = false → s.core.inbox = [] → (s.env.agenda.any fun j => (envelopeOf j).isSome) = false →
      ∃ t, exec (.eventArrival e d) s = .next t ∧ t.core.mem = s.core.mem ∧
        ((s.res.get k).evOk e = true → s.core.events.length < 4096 → t.core.events = queueIn s.core.events ⟨k, e⟩ ∧ t.core.inbox = []) ∧
        ((s.res.get k).evOk e = true → 4096 ≤ s.core.events.length → t.core.events = s.core.events ∧ t.core.inbox.map (·.ev) = [.eventArrival e d]) ∧
        ((s.res.get k).evOk e = false → t.core.events = s.core.events ∧ t.core.inbox = [] ∧
          (s.targetOf d.order e.src ≠ .core s.pkg.self → ⟨.refusal e.src Cause.eventRefused 0 0 d.rank (eventInfo e), d.order, 16⟩ ∈ t.core.ni))) ∧
    (∀ q : QEvent, s.engineDue = some (k, .deliver q) → s.core.engineUntil.toNat ≤ s.core.cycle.toNat → s.accOwner = some k → s.core.accClear = none →
      s.engineUses k (.deliver q) ∉ s.core.landingBanks ++ s.core.seqBanks → exec .eventDeliver s = .next (s.engineMake k (.deliver q))) ∧
    (∀ n : BitVec 3, s.engineDue = some (k, .advance n) → s.core.engineUntil.toNat ≤ s.core.cycle.toNat → s.accOwner = some k → s.core.accClear = none →
      s.engineUses k (.advance n) ∉ s.core.landingBanks ++ s.core.seqBanks → exec .fieldAdvance s = .next (s.engineMake k (.advance n))) ∧
    (∀ q : QEvent, s.Inv →
      let t := s.engineMake k (.deliver q)
      let f := (s.res.get k).evField q.ev.fld
      let g := (t.res.get k).evField q.ev.fld
      let v (m : List Host.Cell) := memNat m (f.keyV q.ev.row.toNat q.ev.col.toNat) 4
      let new := accAdd (v s.core.mem) (f32 q.ev.w.toNat)
      let fires := !(f32 f.theta.toNat).isInf && !(f32 new).isNaN && !((f32 new).lt (f32 f.theta.toNat))
      let late := if q.ev.tick.toNat < f.t.toNat then BitVec.ofNat 32 (min (f.late.toNat + 1) (2 ^ 32 - 1)) else f.late
      (f.ref ≠ 0 → 0 < memNat s.core.mem (f.keyRem q.ev.row.toNat q.ev.col.toNat) 4 → t.core.mem = s.core.mem ∧ t.core.events = s.core.events.erase q ∧ g.late = late) ∧
      (f.ref = 0 → fires = false → v t.core.mem = new % 2 ^ 32 ∧ t.core.events = s.core.events.erase q ∧ g.fires = f.fires ∧ g.late = late) ∧
      (f.ref = 0 → fires = true → (f.reset = 0 → v t.core.mem = 0) ∧ (f.reset = 1 → v t.core.mem = rne32 (Val.add false (f32 new) (f32 f.theta.toNat).negate) % 2 ^ 32) ∧
        (f.reset = 2 → v t.core.mem = new % 2 ^ 32) ∧ (f.fires.toNat < 2 ^ 32 - 1 → g.fires = f.fires + 1))) ∧
    (∀ n : BitVec 3,
      let t := s.engineMake k (.advance n)
      let f := (s.res.get k).evField n
      (t.res.get k).evField n = { f with t := f.t + 1 } ∧ t.core.mem = (leakAll f (f.part 0) s.core).mem ∧
      t.core.engineRun = (if 1 < f.cycles then some ⟨f, 1⟩ else none) ∧ t.core.engineUntil = s.core.cycle + BitVec.ofNat 64 f.cycles) ∧
    (∀ (c : CoreSt) (x : EngineRun), c.engineRun = some x → c.tick.mem = (leakAll x.fld (x.fld.part x.done) c).mem ∧
      c.tick.engineRun = if x.done + 1 < x.fld.cycles then some { x with done := x.done + 1 } else none) ∧
    (∀ (f : EvField) (i j : Nat), i < f.rows → j < f.cols → ∃ n, n < f.cycles ∧ (i, j) ∈ f.part n) ∧
    (∀ (f : EvField) (x : Nat × Nat) (c : CoreSt), Memory.wf c.mem = true →
      (f.ref = 0 → memNat (leakAll f [x] c).mem (f.keyV x.1 x.2) 4 = rne32 (Val.mul (f32 f.leak.toNat) (f32 (memNat c.mem (f.keyV x.1 x.2) 4))) % 2 ^ 32) ∧
      (f.ref ≠ 0 → 0 < memNat c.mem (f.keyRem x.1 x.2) 4 → memNat (leakAll f [x] c).mem (f.keyRem x.1 x.2) 4 + 1 = memNat c.mem (f.keyRem x.1 x.2) 4))

/-- R25, R377, R378, R383, R384, R403, R404: the slice timer, the idle limit and the round-slice limit end the slice, at which a gang disbands and a switch is asked for; a switch stops the outgoing residency and, when it is done, the incoming one issues; a core that fails ends every residency with CORE_MACHINE_CHECK. Forms that it completes: sliceExpiry, sliceIdle, roundSliceLimit, residencySwitch, residencySwitchDone, coreMachineCheck. -/
def Obligations.SchedulingResults : Prop :=
  ∀ (s : State) (k : ResNo), let r := s.res.get k
    (s.core.issuing = some k →
      (sliceLen r.level ≤ r.slice → r.extended = false → (r.channels = true → exec .sliceExpiry s = .next (s.modRes k fun r => { r with extended := true })) ∧
        (r.channels = false → exec .sliceExpiry s = .next (s.endSlice k))) ∧
      (256 ≤ r.idle → exec .sliceIdle s = .next (s.endSlice k)) ∧
      (r.extended = true → 8 * sliceLen r.level ≤ r.slice → exec .roundSliceLimit s = .next (s.endSlice k))) ∧
    (∀ l : BitVec 2, sliceLen l = 131072 * 2 ^ (3 - l.toNat)) ∧ Instr.residencySwitch ∈ (s.endSlice k).env.agenda ∧ (s.endSlice k).core.gang = none ∧
    (s.core.switch = none → s.core.issuing.any s.deferred = false →
      (∀ j, s.nextRes = some j → let n := s.core.cycle + BitVec.ofNat 64 (s.switchCycles j)
        ∃ t, exec .residencySwitch s = .next t ∧ t.core.issuing = none ∧ t.core.switch = some ⟨s.core.issuing, j, n⟩ ∧ (n, Instr.residencySwitchDone) ∈ t.env.timers) ∧
      (s.nextRes = none → s.core.issuing = some k → r.phase = .live → ∃ t, exec .residencySwitch s = .next t ∧ t.core.issuing = some k ∧ t.core.switch = none ∧ (t.res.get k).slice = 0)) ∧
    (∀ w, s.core.switch = some w → w.due.toNat ≤ s.core.cycle.toNat → w.incoming = k → r.phase = .live → ∃ t, exec .residencySwitchDone s = .next t ∧
      t.core.issuing = some k ∧ t.core.switch = none ∧ (t.res.get k).issued = true ∧ (t.res.get k).slice = 0 ∧ (t.res.get k).idle = 0) ∧
    (s.core.faultUnit ≠ 0 → ∃ t, exec .coreMachineCheck s = .next t ∧ (r.phase.alive = true → (t.res.get k).phase = .faulted ∧
      ((t.res.get k).ctx.get 0).trap.cause = Cause.machineCheck ∧ ((t.res.get k).ctx.get 0).trap.info0 = s.core.faultUnit.zeroExtend 64 ∧ ((t.res.get k).ctx.get 0).trap.info1 = 0))

/-- R8, R301, R395, R401, R465 to R470: host writes to tails, configuration, status and counters of queues; the fetch of a record, which is REJECTED where it breaks a condition; and the completion of a work order, with its record, its counter and its interrupt, once its server writes are acknowledged (R301). Forms that it completes: workOrderComplete, workOrderTimeout, recordFetch, qtailWrite, qctlWrite, qstatWrite, counterWrite. -/
def Obligations.HostQueueResults : Prop :=
  ∀ (s : State) (rest : List Arrival) (w : HostWrite) (q : Nat),
    let s1 := { s with pkg := { s.pkg with inbox := rest } }
    let b := s.queue q
    let written (o : Nat) : Prop := s.pkg.inbox = .hostWrite w :: rest ∧ w.size = 8 ∧ w.offset = 0x100000 + 64 * q + o ∧ q < 4096 ∧ s.pkg.recovery = false ∧ s.streamOk b.tenant w = true
    (written 0x18 →
      let n := 2 ^ b.log2n.toNat
      let old := (b.tail.toNat % n + n - b.head.toNat % n) % n
      let new := (w.value.toNat % n + n - b.head.toNat % n) % n
      (b.en = true → (s.tenant b.tenant).state ≠ .unlocked → old ≤ new → ∃ t l, exec .qtailWrite s = .next t ∧ (t.queue q).tail = BitVec.ofNat 12 (w.value.toNat % n) ∧
        (t.queue q).recs = b.recs ++ l ∧ l.length = new - old ∧ (∀ r ∈ l, r.stage = .toFetch) ∧ (t.queue q).head = b.head ∧ (t.queue q).ovf = b.ovf) ∧
      ((b.en = false ∨ (s.tenant b.tenant).state = .unlocked ∨ new < old) → ∃ t, exec .qtailWrite s = .next t ∧ t.queue q = { b with ovf := true })) ∧
    (written 0x28 → exec .qstatWrite s = .next (s1.modQueue q fun x => { x with cfgerr := x.cfgerr && !w.value.getLsbD 2, ovf := x.ovf && !w.value.getLsbD 1 })) ∧
    (written 0 → s.pkg.ready = true →
      let lg := (w.value.extractLsb' 20 4).toNat
      (4 ≤ lg → lg ≤ 12 → b.en = false → w.value.extractLsb' 26 6 = b.tenant → exec .qctlWrite s = .next (s1.modQueue q fun x =>
        { x with vec := w.value.extractLsb' 40 5, tenant := b.tenant, log2n := w.value.extractLsb' 20 4, weight := w.value.extractLsb' 14 6, level := w.value.extractLsb' 12 2,
                 ien := w.value.getLsbD 1, en := w.value.getLsbD 0 })) ∧
      ((lg < 4 ∨ 12 < lg) → exec .qctlWrite s = .next (s1.modQueue q fun x => { x with cfgerr := true }))) ∧
    (written 8 → b.en = false → exec .qctlWrite s = .next (s1.modQueue q fun x => { x with ring := w.value.extractLsb' 8 56 })) ∧
    (∀ c, s.pkg.inbox = .hostWrite w :: rest → w.size = 8 → w.offset = 0x200000 + 8 * c → c < 4096 → s.pkg.recovery = false → s.streamOk (BitVec.ofNat 6 (c / 64)) w = true →
      exec .counterWrite s = .next (s1.setCounter c w.value)) ∧
    (∀ (r : Rec) (bs : Option (List Byte)) (ld : Load), s.pkg.inbox = .record q r.index bs ld :: rest →
      (b.recs.find? fun r => r.stage == .toFetch) = some r →
      (bs = none → exec .recordFetch s = .next (s1.completeRec q r.index (completionWords statusRejected none r.phase 0 0 0) none)) ∧
      (∀ x, bs = some x → recordOk x ld.image b.tenant = false →
        exec .recordFetch s = .next (s1.completeRec q r.index (completionWords statusRejected none r.phase (recWord x 0x30) 0 0) (recCounter x b.tenant))) ∧
      (∀ x, bs = some x → recordOk x ld.image b.tenant = true →
        (b.en = true → ∃ t, exec .recordFetch s = .next t ∧ t.pkg.nextOrder = s.pkg.nextOrder + 1 ∧
          t.pkg.orders = s.pkg.orders ++ [Machine.orderOf s.pkg.nextOrder q r.index r.phase b.tenant x ld]) ∧
        (b.en = false → exec .recordFetch s = .next (s1.completeRec q r.index (completionWords statusCancelled none r.phase (recWord x 0x30) 0 0) (recCounter x b.tenant))))) ∧
    (let s2 := s.settleEnds;
      (∀ o : WorkOrder, s2.pkg.orders.find? s2.releasable = some o → exec .workOrderComplete s = .next (s2.completeOrder o (o.closing.getD (0, none)).1 (o.closing.getD (0, none)).2)) ∧
      (s2.pkg.orders.find? s2.releasable = none →
        (∀ (o : WorkOrder) (e : End) (l : List End), s2.pkg.ends = e :: l → s2.openOrder e.order = some o →
          exec .workOrderComplete s = .next (s2.endOrder { o with served := o.served ++ e.served } .faulted statusFaulted e.cause)) ∧
        (∀ o : WorkOrder, (∀ e ∈ s2.pkg.ends, s2.openOrder e.order = none) → s2.pkg.orders.find? WorkOrder.complete = some o →
          exec .workOrderComplete s = .next (s2.closeOrder o statusOk none)) ∧
        (∀ o : WorkOrder, (∀ e ∈ s2.pkg.ends, s2.openOrder e.order = none) → s2.pkg.orders.find? WorkOrder.complete = none → s2.pkg.orders.find? s2.doomed = some o →
          exec .workOrderComplete s = .next (s2.endOrder o .faulted statusFaulted none))) ∧
      (∀ o : WorkOrder, s2.pkg.orders.find? s2.overdue = some o →
        exec .workOrderTimeout s = .next (if o.complete then s2.closeOrder o statusOk none else s2.endOrder o .timedOut statusTimedOut none))) ∧
    (∀ (o : WorkOrder) (st : Nat) (cause : Option (BitVec 7)), (s.core.reqs.any fun q => q.order == o.id && q.writes) = true →
      let t := s.closeOrder o st cause
      t.env.out = s.env.out ∧ ∀ x ∈ s.pkg.orders, x.id = o.id → ∃ y ∈ t.pkg.orders, y.id = o.id ∧ y.closing = some (st, cause)) ∧
    (∀ (o : WorkOrder) (st : Nat) (cause : Option (BitVec 7)), let d := s.queue o.queue
      ∃ n, Out.completion (32 * d.cring.toNat + 32 * o.index) (completionWords st cause o.phase o.tag n (s.sinceLaunch o / 2250)) (s.streamOf d.tenant) ∈ (s.completeOrder o st cause).env.out ∧
        (d.ien = true → Out.interrupt (32 * d.tenant.toNat + d.vec.toNat) (s.streamOf d.tenant) ∈ (s.completeOrder o st cause).env.out) ∧ (∀ x ∈ (s.completeOrder o st cause).pkg.orders, x.id ≠ o.id))

/-- R394 to R400, R405 to R407, R456, R457: the dispatcher reserves the next crew of the first eligible head that has a placement, lets a head that finds none for 4,500,000 cycles become reserving, and asks a crew to give way to it; crews start in the order of their reservations, once their stores are acknowledged and 64 cycles apart; a drained crew is written out; a grant brings a member's extents, on the tenant's stream; a start message lets context 0 go. Forms that it completes: dispatcherLaunch, headReserving, crewDrained, crewStart, startMessage, extentGrant. -/
def Obligations.DispatcherResults : Prop :=
  ∀ s : State, let s1 := s.settleEnds
    let s2 := s1.markReserving
    let changes (a : State) (t : State) (id : Nat) (p : WorkOrder → WorkOrder → Prop) : Prop := ∀ x ∈ a.pkg.orders, x.id = id → ∃ y ∈ t.pkg.orders, y.id = id ∧ p x y
    let crewOf (i : Nat) (p : Crew → Crew → Prop) (x y : WorkOrder) : Prop := ∀ d, x.crews[i]? = some d → ∃ e, y.crews[i]? = some e ∧ p d e
    (∀ (w : WorkOrder) (i : Nat) (c : Crew), (∀ h ∈ s1.allHeads, h.2.launched.isNone = true → h.2.foreignWait = false ∧ h.2.loadFails = false) →
      (untilReserving s1.heads).findSome? s1.headPlacement = some (w, i, c) → ∃ t, exec .dispatcherLaunch s = .next t ∧ (w.id, i) ∈ t.pkg.launching ∧
        changes s1 t w.id (fun x y => y.crews = x.crews.set i c ∧ y.reserving = false ∧ y.unplaced = none) ∧ ∀ id, id ≠ w.id → changes s1 t id fun x y => y.crews = x.crews) ∧
    (∀ (h : (Queue × Nat) × WorkOrder) (l : List ((Queue × Nat) × WorkOrder)) (t0 : BitVec 64), s1.heads = h :: l → h.2.unplaced = some t0 → 4500000 ≤ (s.core.cycle - t0).toNat →
      h.2.nextCrew.isSome = true → s1.headPlacement h = none → ∃ t, exec .headReserving s = .next t ∧ changes s1 t h.2.id fun _ y => y.reserving = true) ∧
    (∀ (h : (Queue × Nat) × WorkOrder) (w : WorkOrder) (i : Nat) (c : Crew), (s2.heads.find? fun h => h.2.reserving && h.2.nextCrew.isSome && (s2.headPlacement h).isNone) = some h →
      s2.preemptingAny = false → s2.victim h.1.1.level = some (w, i, c) → ∃ t, exec .headReserving s = .next t ∧
        changes s2 t w.id (crewOf i fun _ e => e.stage = .preempting (BitVec.ofNat 32 (max c.rounds.toNat (s2.roundHere c) + 1)))) ∧
    (∀ (w : WorkOrder) (i : Nat) (c : Crew), s.pkg.launching.findSome? s.reservedCrew = some (w, i, c) →
      (c.loaded = false → exec .crewStart s = .next s) ∧
      (c.loaded = true → 0 < s.untilLaunch → exec .crewStart s = .next (s.after s.untilLaunch .crewStart)) ∧
      (c.loaded = true → s.untilLaunch = 0 → ∃ t, exec .crewStart s = .next t ∧ t.pkg.lastLaunch = some s.core.cycle ∧
        (∀ p ∈ c.slots, p.logical ∉ c.halted → (p.core = s.pkg.self → Instr.startMessage ∈ t.env.agenda) ∧ (p.core ≠ s.pkg.self → Out.start p.core ∈ t.env.out)) ∧
        changes s t w.id fun x y => y.launched = some (x.launched.getD s.core.cycle) ∧ crewOf i (fun _ e => e.stage = .running ∧ e.since = s.core.cycle) x y)) ∧
    (∀ k : ResNo, ((List.finRange 4).find? fun k => (s.res.get k).phase == .placed && s.started (s.res.get k)) = some k → ∃ t, exec .startMessage s = .next t ∧
      (t.res.get k).phase = .live ∧ ((s.res.get k).issued = false → ((t.res.get k).ctx.get 0).status = .live ∧ ((t.res.get k).ctx.get 0).pc = ((s.res.get k).ctx.get 0).pc)) ∧
    (∀ (w : WorkOrder) (i : Nat) (c : Crew), (s1.crewThat fun _ _ c => (match c.stage with | .preempting _ => true | _ => false) && c.slots.all (s1.memberDrained c)) = some (w, i, c) →
      ∃ t, exec .crewDrained s = .next t ∧ changes s1 t w.id (crewOf i fun _ e => e.stage = .evicted ∧ e.slots = [] ∧ e.bells = [] ∧ e.crossBells = [])) ∧
    (∀ (rest : List Arrival) (o m : Nat) (c : BitVec 16) (es : Vector Extent 16) (key : BitVec 128) (ok : Bool) (st : Option (BitVec 6)) (w : WorkOrder),
      s.pkg.inbox = .grant o c m es key ok st :: rest → s.order o = some w →
      let refused : Prop := ∃ t, exec .extentGrant s = .next t ∧ t.res = s.res ∧ t.pkg.orders = s.pkg.orders ∧ t.pkg.grantsRefused = s.pkg.grantsRefused + 1
      (s.streamGood w.tenant st = false → ∃ t, exec .extentGrant s = .next t ∧ t.res = s.res ∧ (t.tenant w.tenant).dropped = (s.tenant w.tenant).dropped + 1) ∧
      (s.streamGood w.tenant st = true → ((s.tenant w.tenant).confidential = true ∧ ok = false) ∨ w.stages c m = false → refused) ∧
      (∀ x, s.streamGood w.tenant st = true → ((s.tenant w.tenant).confidential = true → ok = true) → w.crews[c.toNat]? = some x → x.stage = .reserved → (∃ p ∈ x.slots, p.logical = m) →
        (∀ d ∈ s.pkg.dies.toList, d.state ≠ .quarantined) →
        ∃ t, exec .extentGrant s = .next t ∧ (∀ j, s.memberHere o c m = some j → (t.res.get j).extents = es ∧ (t.res.get j).extentsPending = es ∧ (t.res.get j).capkey = key) ∧
          ∃ y ∈ t.pkg.orders, y.id = o ∧ ∃ e, y.crews[c.toNat]? = some e ∧ m ∈ e.acked))

/-- R443 to R451: the start and the nine steps of an attestation flow: each response that passes its checks asks for the next step; one that does not, or that does not come in 100 ms, quarantines its die with the step's reason; the last puts the die in KEYING with a live session. Forms that it completes: dieResetExit, attestationStart, version, capabilities, algorithms, digests, certificate, challengeAuth, measurements, keyExchangeRsp, finishRsp, spdmTimeout, loneReset, actlReset, actlReattest, serverClearDone. -/
def Obligations.AttestationResults : Prop :=
  ∀ (s : State) (rest : List Arrival) (d : Nat), d < 18 →
    let quarantined (i : Instr) (reason : BitVec 8) : Prop := ∃ t, exec i s = .next t ∧ (t.dieRec d).state = .quarantined ∧ (t.dieRec d).reason = reason ∧ (t.dieRec d).session = false ∧
      (∀ f ∈ t.pkg.flows, f.party ≠ .die d) ∧ ∀ l, l < 26 → linkAt d l = true → t.link l = Link.reset
    let asks (i : Instr) (step : Nat) : Prop := ∃ t, exec i s = .next t ∧ (∃ f ∈ t.pkg.flows, f.party = .die d ∧ f.step = step ∧ f.due = s.core.cycle + 225000000 ∧
      Out.spdm false d (f.request step) ∈ t.env.out) ∧ (s.core.cycle + 225000000, Instr.spdmTimeout) ∈ t.env.timers
    let got (n : Nat) (b : SpdmBody) : Prop := s.pkg.inbox = .spdm (.die d) b :: rest ∧ ∃ f, s.flowOf (.die d) = some f ∧ f.step = n
    (s.pkg.inbox = .dieExit d :: rest → (s.dieRec d).state = .reset → ∃ t, exec .dieResetExit s = .next t ∧ (t.dieRec d).state = .closed) ∧
    (s.attesting = true → ((List.range 18).find? fun d => (s.dieRec d).state == .closed && s.hasPath d && (decide (d < 8) || s.wave1Over)) = some d →
      asks .attestationStart 1 ∧ ∃ t, exec .attestationStart s = .next t ∧ (t.dieRec d).state = .attesting) ∧
    (∀ l, got 1 (.version l) → (0x13 ∈ l → asks .version 2) ∧ (0x13 ∉ l → quarantined .version 1)) ∧
    (∀ a b c e f g h, got 2 (.capabilities a b c e f g h) → ((a && b && c && e && f && g && h) = true → asks .capabilities 3) ∧ ((a && b && c && e && f && g && h) = false → quarantined .capabilities 2)) ∧
    (got 3 (.algorithms .ed25519 .ed25519 .sha512 .p384 .aes256gcm .sha512 .spdmSchedule) → asks .algorithms 4) ∧
    (∀ a b c e f g h, got 3 (.algorithms a b c e f g h) → ¬(a = .ed25519 ∧ b = .ed25519 ∧ c = .sha512 ∧ e = .p384 ∧ f = .aes256gcm ∧ g = .sha512 ∧ h = .spdmSchedule) → quarantined .algorithms 3) ∧
    (∀ x f, got 4 (.digests true x) → s.flowOf (.die d) = some f → asks .digests (if f.warm && (s.dieRec d).digest == some x then 6 else 5)) ∧ (∀ x, got 4 (.digests false x) → quarantined .digests 4) ∧
    (∀ n x ok y, n ≤ 1024 → got 5 (.certificate n false x ok y) → asks .certificate 5) ∧ (∀ n b x ok y, 1024 < n → got 5 (.certificate n b x ok y) → quarantined .certificate 4) ∧
    (∀ n x ok y f, n ≤ 1024 → got 5 (.certificate n true x ok y) → s.flowOf (.die d) = some f →
      (ok = true → x = f.digest → asks .certificate 6) ∧ ((ok = false ∨ x ≠ f.digest) → quarantined .certificate 4)) ∧
    (got 6 (.challenge true) → asks .challengeAuth 7) ∧ (got 6 (.challenge false) → quarantined .challengeAuth 5) ∧
    (∀ sig kind rev ds pos x, got 7 (.measurements sig kind rev ds pos x) →
      let listed : Prop := ds.length = 4 ∧ ∀ i y, ds[i]? = some y → (⟨kind, rev, i + 1, y⟩ : RefEntry) ∈ s.pkg.accepted
      (sig = true → listed → kind = dieKind d → pos = d → asks .measurements 8) ∧ ((sig = false ∨ ¬ listed ∨ kind ≠ dieKind d ∨ pos ≠ d) → quarantined .measurements 6)) ∧
    (∀ a b, got 8 (.keyExchange a b) → (a = true → b = true → asks .keyExchangeRsp 9) ∧ ((a = false ∨ b = false) → quarantined .keyExchangeRsp 7)) ∧
    (∀ a b, got 9 (.finish a b) → ((a = false ∨ b = false) → quarantined .finishRsp 7) ∧ (a = true → b = true → ∃ t, exec .finishRsp s = .next t ∧ (t.dieRec d).session = true ∧
      ((t.dieRec d).state = .keying ∨ (t.dieRec d).state = .opened) ∧ (∀ f ∈ t.pkg.flows, f.party ≠ .die d) ∧ ((s.dieRec d).epoch ≠ 65535 → (t.dieRec d).epoch = (s.dieRec d).epoch + 1))) ∧
    (∀ f, (s.pkg.flows.find? fun f => decide (f.due.toNat ≤ s.core.cycle.toNat)) = some f → f.party = .die d → quarantined .spdmTimeout 8) ∧
    (s.pkg.inbox = .loneReset d :: rest → (s.dieRec d).state ≠ .reset → quarantined .loneReset 10) ∧
    (s.pkg.inbox = .actl d true false :: rest → ∃ t, exec .actlReset s = .next t ∧ t.pkg.inbox = rest ++ [.loneReset d] ∧ Instr.loneReset ∈ t.env.agenda) ∧
    (s.pkg.inbox = .actl d false true :: rest → (s.dieRec d).state = .quarantined → s.attesting = true → s.hasPath d = true → asks .actlReattest 1) ∧
    (((List.range 18).find? fun d => (s.dieRec d).clearing) = some d → ∃ t, exec .serverClearDone s = .next t ∧ (t.dieRec d).clearing = false ∧ (∀ x ∈ t.srv.mem, s.onDie d x.1 = false) ∧
      ∀ x ∈ s.srv.mem, s.onDie d x.1 = false → x ∈ t.srv.mem)

/-- R427, R428, R446, R452, R453, R459: link keys are installed at both ends and acknowledged, and the link opens at the second LINK_OPEN; a rollover installs the new key, switches the sender and retires the old one; participant keys are installed and retired likewise. Flits deliver their packets in order, failed ones are asked for again; a link that fails, whose keys are late or that has used up a generation closes, and a link that loses its training costs the die charged with it its place. Forms that it completes: keyInstall, keyAck, linkOpen, keySwitch, keyRetired, keyAckTimeout, keyRetiredTimeout, rolloverTrigger, generationLimit, flitReceive, replayRequest, idleFlit, linkDown. -/
def Obligations.LinkResults : Prop :=
  ∀ (s : State) (rest : List Arrival) (l : Nat) (up : Bool), l < 26 →
    let x := s.link l
    let dir := x.dir up
    let e := linkEnds l
    let s1 := { s with pkg := { s.pkg with inbox := rest } }
    let completes (i : Instr) (p : State → Prop) : Prop := ∃ t, exec i s = .next t ∧ p t
    let closed (i : Instr) : Prop := completes i fun t => t.link l = Link.reset
    let key (m : KeyMsg) : Prop := s.pkg.inbox = .key m :: rest
    let queued (t : State) (m : List KeyMsg) : Prop := t.pkg.inbox = rest ++ m.map Arrival.key
    let first (p : Nat × Bool → Bool) : Prop := allDirs.find? p = some (l, up)
    let lost (t : State) (d : Nat) : Prop := d < 18 → (t.dieRec d).state = .quarantined ∧ (t.dieRec d).reason = 11
    let rollOf (y : Nat × Bool) : Option Roll := ((s.link y.1).dir y.2).roll
    (∀ u v, key (.installBoth l e.1 u v) → x.start.isSome = true → completes .keyInstall fun t => (t.link l).up.txKeys = [(0, u)] ∧ (t.link l).down.rxKeys = [(0, v)] ∧ queued t [.ackBoth l e.1]) ∧
    (∀ u v, key (.installBoth l e.2 u v) → x.start.isSome = true → completes .keyInstall fun t => (t.link l).up.rxKeys = [(0, u)] ∧ (t.link l).down.txKeys = [(0, v)] ∧ queued t [.ackBoth l e.2]) ∧
    (∀ g k, key (.install l up g k) → x.opened = true → completes .keyInstall fun t => ((t.link l).dir up).rxKeys = dir.rxKeys ++ [(g, k)] ∧ queued t [.ack l up g]) ∧
    (∀ n i g k, key (.participant n i g k) → completes .keyInstall fun t => t.pkg.links = s.pkg.links ∧ t.pkg.enclaves = s.pkg.enclaves.map (·.install n i g k)) ∧
    (∀ d, key (.ackBoth l d) → x.start.isSome = true → x.opened = false → x.acks = [] → completes .keyAck fun t => (t.link l).acks = [d] ∧ queued t []) ∧
    (key (.ackBoth l e.2) → x.start.isSome = true → x.opened = false → x.acks = [e.1] → completes .keyAck fun t => queued t [.linkOpen l e.1, .linkOpen l e.2]) ∧
    (∀ g r, key (.ack l up g) → dir.roll = some r → r.switched = none → g = dir.gen + 1 → completes .keyAck fun t => queued t [.switch l up g r.key] ∧ ((t.link l).dir up).roll = some { r with switched := some s.core.cycle }) ∧
    (∀ d, key (.linkOpen l d) → x.acks.length = 2 → x.ready = [] → completes .linkOpen fun t => (t.link l).ready = [d] ∧ (t.link l).opened = x.opened) ∧
    (key (.linkOpen l e.2) → x.acks.length = 2 → x.ready = [e.1] → completes .linkOpen fun t => (t.link l).opened = true ∧ (t.link l).up.seq = 0 ∧ (t.link l).down.seq = 0 ∧ (t.link l).start = none) ∧
    (∀ g k r, key (.switch l up g k) → x.opened = true → g = dir.gen + 1 → dir.roll = some r → r.key = k → r.switched.isSome = true → completes .keySwitch fun t => ((t.link l).dir up).gen = g ∧ ((t.link l).dir up).txKeys = dir.txKeys ++ [(g, k)] ∧
      ((t.link l).dir up).sent = 0 ∧ ((t.link l).dir up).replay = dir.replay) ∧
    (∀ g, key (.retired l up g) → completes .keyRetired fun t => ((t.link l).dir up).txKeys = dir.txKeys.filter (fun k => k.1 != g) ∧ ((t.link l).dir up).roll = none) ∧
    (first (fun y => (rollOf y).any fun r => r.switched.isNone && s.late r.start) → completes .keyAckTimeout fun t => t.link l = Link.reset ∧ lost t (receiver l up)) ∧
    ((∀ y ∈ allDirs, ((rollOf y).any fun r => r.switched.isNone && s.late r.start) = false) →
      ((List.range 26).find? fun j => (s.link j).start.any s.late && decide ((s.link j).acks.length < 2)) = some l →
        completes .keyAckTimeout fun t => t.link l = Link.reset ∧ ∀ d, d = e.1 ∨ d = e.2 → d ∉ x.acks → lost t d) ∧
    (first (fun y => (rollOf y).any fun r => r.switched.any s.late) → completes .keyRetiredTimeout fun t => t.link l = Link.reset ∧ lost t (sender l up)) ∧
    (first (fun y => (s.link y.1).opened && (rollOf y).isNone && decide (min (2 ^ s.pkg.rollint) (2 ^ 40) ≤ ((s.link y.1).dir y.2).sent)) →
      completes .rolloverTrigger fun t => ((t.link l).dir up).roll = some ⟨s.pkg.draws, s.core.cycle, none⟩ ∧ t.pkg.draws = s.pkg.draws + 1 ∧
        Arrival.key (.install l up (dir.gen + 1) s.pkg.draws) ∈ t.pkg.inbox) ∧
    (first (fun y => (s.link y.1).opened && decide (2 ^ 44 ≤ ((s.link y.1).dir y.2).sent)) → closed .generationLimit) ∧
    (first (fun y => (s.link y.1).opened && decide (256 ≤ (s.core.cycle - ((s.link y.1).dir y.2).last).toNat)) → completes .idleFlit fun t =>
      ((t.link l).dir up).seq = dir.seq + 1 ∧ ((t.link l).dir up).sent = dir.sent + 1 ∧ ((t.link l).dir up).last = s.core.cycle ∧ Arrival.flit l up (flitHead dir.seq dir.gen) true [] ∈ t.pkg.inbox) ∧
    (∀ head ok ps, s.pkg.inbox = .flit l up head ok ps :: rest → x.opened = true →
      let q := seqNear dir.want head
      let p := head.getLsbD 31
      let fails := if q = dir.want then dir.fails + 1 else dir.fails
      (∀ g, dir.genOf p = some g → ok = true → q = dir.want → completes .flitReceive fun t => ((t.link l).dir up).want = dir.want + 1 ∧ ((t.link l).dir up).fails = 0 ∧
        (∀ k ∈ ((t.link l).dir up).rxKeys, g ≤ k.1) ∧ (∀ bs, ps = [⟨bs, true⟩] → Out.linkPacket l up (dir.part ++ bs) ∈ t.env.out ∧ ((t.link l).dir up).part = []) ∧
        (∀ bs, ps = [⟨bs, false⟩] → t.env.out = s.env.out ∧ ((t.link l).dir up).part = dir.part ++ bs)) ∧
      (∀ g, dir.genOf p = some g → ok = true → q ≠ dir.want → exec .flitReceive s = .next s1) ∧
      ((dir.genOf p = none ∨ ok = false) → (fails < 8 → completes .flitReceive fun t => ((t.link l).dir up).fails = fails ∧ t.pkg.inbox = rest ++ [.replay l up dir.want]) ∧
        (8 ≤ fails → closed .flitReceive))) ∧
    (∀ q, s.pkg.inbox = .replay l up q :: rest → x.opened = true → completes .replayRequest fun t =>
      t.pkg.inbox = rest ++ (dir.replay.filter fun f => decide (q ≤ f.seq)).map fun f => Arrival.flit l up (flitHead f.seq f.gen) true f.payload) ∧
    (s.pkg.inbox = .linkDown l :: rest → closed .linkDown ∧ (chargedDie l < 18 → (s.dieRec (chargedDie l)).state = .opened → completes .linkDown fun t =>
      (t.dieRec (chargedDie l)).state = .quarantined ∧ (t.dieRec (chargedDie l)).reason = 9))

/-- R439, R454 to R460: the host's attestation requests, the four states of a tenant's interface and what ends its work orders, an enclave's manifest and a revocation, and a scale-up port that fails. Forms that it completes: version, algorithms, digests, certificate, measurements, hostSpdmRequest, lockInterfaceRequest, getDeviceInterfaceReport, startInterfaceRequest, stopInterfaceRequest, tdispError, enclaveManifest, revocationStatement, portFailure. -/
def Obligations.TenantResults : Prop :=
  ∀ (s : State) (rest : List Arrival) (n : BitVec 6), let x := s.tenant n
    let arrives (a : Arrival) : Prop := s.pkg.inbox = a :: rest
    let goes (i : Instr) (p : State → Prop) : Prop := ∃ t, exec i s = .next t ∧ p t
    let answered (q : SpdmRequest) (a : SpdmAnswer) : Prop := arrives (.hostSpdm q) → goes .hostSpdmRequest fun t => Out.hostSpdm a ∈ t.env.out
    (∀ a b, arrives (.hostSpdm (.getMeasurements a b)) → goes .hostSpdmRequest fun t => ∃ l, Out.hostSpdm (.measurements s.pkg.measured l) ∈ t.env.out ∧ l.length = 18 ∧
      ∀ d, d < 18 → l[d]? = some (if (s.dieRec d).state = .quarantined then 0 else (s.dieRec d).summary)) ∧
    answered .getVersion (.version [0x13]) ∧ answered .getDigests (.digests true (sha512 s.hostChain)) ∧
    (∀ o k, answered (.getCertificate 0 o k) (.certificate ((s.hostChain.drop o).take k) (s.hostChain.length - (o + k)))) ∧
    answered (.negotiate .ed25519 .ed25519 .sha512 .p384 .aes256gcm .sha512 .spdmSchedule) (.algorithms .ed25519 .ed25519 .sha512 .p384 .aes256gcm .sha512 .spdmSchedule) ∧
    (∀ k, arrives (.lock n k) → (x.state = .unlocked → goes .lockInterfaceRequest fun t => (t.tenant n).state = .locked ∧ (t.tenant n).key = k) ∧
      (x.state ≠ .unlocked → goes .lockInterfaceRequest fun t => t.tenant n = x)) ∧
    (arrives (.getReport n) → x.state = .locked → goes .getDeviceInterfaceReport fun t =>
      Out.interfaceReport n ((List.range 4096).filter fun q => (s.queue q).tenant == n) (32 * n.toNat, 32 * n.toNat + 31)
        (((List.range 4096).filter fun q => (s.queue q).tenant == n).map fun q => 0x100000 + 64 * q + 0x18) ∈ t.env.out) ∧
    (arrives (.startInterface n) → (x.state = .locked → goes .startInterfaceRequest fun t => (t.tenant n).state = .run ∧ (t.tenant n).key = x.key) ∧
      (x.state ≠ .locked → goes .startInterfaceRequest fun t => t.tenant n = x)) ∧
    (arrives (.stopInterface n) → goes .stopInterfaceRequest fun t => (t.tenant n).state = .unlocked ∧ (t.tenant n).key = none ∧
      ∀ w ∈ t.pkg.orders, w.tenant = n → w.closing = none → ∀ c ∈ w.crews, c.stage = .waiting) ∧
    (arrives (.tdispFault n) → x.state ≠ .unlocked → goes .tdispError fun t => (t.tenant n).state = .error ∧
      ∀ w ∈ t.pkg.orders, w.tenant = n → w.closing = none → ∀ c ∈ w.crews, c.stage = .waiting) ∧
    (∀ e l r, arrives (.manifest e l r) → e.signed l none = true → (∀ p ∈ e.parts, p.index ≤ 63) → s.srv.pkg ∈ e.pkgs → s.pkg.enclaves.length < 4 → (∀ y ∈ s.pkg.enclaves, y.num ≠ e.num) →
      goes .enclaveManifest fun t => (∃ y ∈ t.pkg.enclaves, y.num = e.num ∧ y.threshold = e.threshold ∧ y.members = [] ∧ y.revoked = []) ∧ t.pkg.draws = s.pkg.draws + 1 ∧ (∀ w ∈ r, w ∈ t.srv.admits) ∧
        ∀ p ∈ e.pkgs, p ≠ s.srv.pkg → Out.spdm true p .getVersion ∈ t.env.out) ∧
    (∀ e l r, arrives (.manifest e l r) → (e.signed l none = false ∨ ∃ p ∈ e.parts, 63 < p.index) → goes .enclaveManifest fun t => t.pkg.enclaves = s.pkg.enclaves) ∧
    (∀ e i k l y, arrives (.revocation e i k l) → (s.pkg.enclaves.find? fun y => y.num == e) = some y →
      (y.epoch < k → y.signed l (some i) = true → (∃ p ∈ y.parts, p.index = i) → goes .revocationStatement fun t => ∃ z ∈ t.pkg.enclaves, z.num = e ∧ z.epoch = k ∧ i ∈ z.revoked ∧
        (∀ p ∈ z.parts, p.index = i → p.keys = []) ∧ ∀ p ∈ y.pkgs, p ≠ s.srv.pkg → Out.revoke p e i k ∈ t.env.out) ∧
      ((k ≤ y.epoch ∨ y.signed l (some i) = false) → goes .revocationStatement fun t => t.pkg.enclaves = s.pkg.enclaves)) ∧
    (∀ p, p < 72 → arrives (.portFail p) → goes .portFailure fun t => t.pkg.ports[p]? = some false ∧ t.pkg.contexts.length = s.pkg.contexts.length ∧
      ∀ (c : PortCtx) (i : Nat), s.pkg.contexts[i]? = some c → c.port ∈ t.pkg.livePorts (c.port / 36) → t.pkg.contexts[i]? = some c)

/-- R416, R443, R461, R464, R471 to R473: a reset begins the start table at step 1, its steps follow in order and the last makes the package ready; recovery mode takes a signed image; limits are clamped, and a die above 105 °C is held at one unit of leave until it is below 100 °C. Forms that it completes: recoveryCommit, packageReset, junctionOverheat, junctionCooled, thermalShutdown, startTableStepEnd, limitWrite. -/
def Obligations.PackageResults : Prop :=
  ∀ (s : State) (rest : List Arrival),
    let arrives (a : Arrival) : Prop := s.pkg.inbox = a :: rest
    let goes (i : Instr) (p : State → Prop) : Prop := ∃ t, exec i s = .next t ∧ p t
    let n := s.pkg.step.toNat
    let runs : Prop := 1 ≤ n ∧ n ≤ 11 ∧ s.pkg.recovery = false ∧ s.pkg.off = false
    let begun (warm : Bool) (t : State) : Prop := t.pkg.step = 1 ∧ t.pkg.warm = warm ∧ t.pkg.ready = false ∧ t.pkg.recovery = false ∧ t.pkg.off = false ∧ t.core.mem = s.core.mem ∧
      t.srv.mem = s.srv.mem ∧ t.core.cycle = 0 ∧ t.res = State.reset.res ∧ t.pkg.queues = [] ∧ (warm = false → ∀ d, d < 19 → (t.dieRec d).digest = none) ∧
      (warm = true → ∀ d, d < 19 → (t.dieRec d).digest = (s.dieRec d).digest ∧ (t.dieRec d).state = .reset)
    (∀ ok, (arrives (.packageReset true ok) → goes .packageReset (begun false)) ∧ (arrives (.packageReset false ok) → s.pkg.off = false → goes .packageReset (begun ok))) ∧
    (arrives (.commit true) → s.pkg.recovery = true → goes .recoveryCommit (begun false)) ∧ (arrives (.commit false) → goes .recoveryCommit fun t => t.pkg = { s.pkg with inbox := rest }) ∧
    (∀ image manifest ms es, arrives (.stepEnd [] image manifest ms es) → runs →
      ((n = 1 ∨ n = 2 ∨ n = 3 ∨ n = 5 ∨ n = 8 ∨ (n = 6 ∧ s.attestOver = true) ∨ (n = 7 ∧ s.linksOver = true) ∨ (n = 4 ∧ image = true ∧ manifest = true)) →
        goes .startTableStepEnd fun t => t.pkg.step.toNat = (if s.pkg.warm = true ∧ (n = 2 ∨ n = 4 ∨ n = 7) then n + 2 else n + 1) ∧ t.core.mem = s.core.mem ∧ t.srv.mem = s.srv.mem) ∧
      (n = 4 → image = false → goes .startTableStepEnd fun t => t.pkg.recovery = true) ∧ (n = 4 → goes .startTableStepEnd fun t => t.pkg.measured = ms ∧ t.pkg.accepted = es ∧ t.pkg.manifestOk = (image && manifest)) ∧
      (n = 9 → goes .startTableStepEnd fun t => t.pkg.step = 10 ∧ ∀ x ∈ t.srv.mem, ¬(serverKey s.srv.pkg 0 ≤ x.1 ∧ x.1 < serverKey s.srv.pkg 0 + 2 ^ 41)) ∧
      (n = 10 → goes .startTableStepEnd fun t => t.pkg.step = 11 ∧ t.core.mem = [] ∧ t.core.full = []) ∧
      (n = 11 → goes .startTableStepEnd fun t => t.pkg.step = 15 ∧ t.pkg.ready = true ∧ t.pkg.queues = [] ∧ t.pkg.counters = [] ∧ t.pkg.orders = [])) ∧
    (∀ d v, (arrives (.limit 0 d v) → goes .limitWrite fun t => t.pkg.power = min v 2000) ∧
      (arrives (.limit 1 d v) → 1 ≤ v → d < 8 → goes .limitWrite fun t => t.pkg.limits[d]? = some (min v 144) ∧ (d = s.pkg.self / 144 → s.pkg.hot[d]? = some false → t.die.dieLimit = min v 144)) ∧
      (arrives (.limit 2 d v) → 1 ≤ v → goes .limitWrite fun t => t.die.clusterLimit = min v 4)) ∧
    (∀ d v, d < 8 → arrives (.junction d v) →
      (105 < v → v ≤ 115 → goes .junctionOverheat fun t => t.pkg.hot[d]? = some true ∧ (d = s.pkg.self / 144 → t.die.dieLimit = 1)) ∧
      (v < 100 → goes .junctionCooled fun t => t.pkg.hot[d]? = some false ∧ (d = s.pkg.self / 144 → some t.die.dieLimit = s.pkg.limits[d]?)) ∧
      (115 < v → goes .thermalShutdown fun t => t.pkg.off = true))
end

