-- ==== Sys2Proof/Laws/State.lean ====
section
/-!
SUPPORT. What each plain update leaves in each field of the state, and registers read after a write.
-/

namespace Sys2Proof.Machine

open Sys2Proof

/-! ### modRes -/

@[simp] theorem State.modRes_res (s : State) (k : ResNo) (f : Res → Res) : (s.modRes k f).res = s.res.set k.val (f (s.res.get k)) k.isLt := rfl
@[simp] theorem State.modRes_curRes (s : State) (k : ResNo) (f : Res → Res) : (s.modRes k f).curRes = s.curRes := rfl
@[simp] theorem State.modRes_curCtx (s : State) (k : ResNo) (f : Res → Res) : (s.modRes k f).curCtx = s.curCtx := rfl
@[simp] theorem State.modRes_bundleLen (s : State) (k : ResNo) (f : Res → Res) : (s.modRes k f).bundleLen = s.bundleLen := rfl
@[simp] theorem State.modRes_core (s : State) (k : ResNo) (f : Res → Res) : (s.modRes k f).core = s.core := rfl
@[simp] theorem State.modRes_cl (s : State) (k : ResNo) (f : Res → Res) : (s.modRes k f).cl = s.cl := rfl
@[simp] theorem State.modRes_die (s : State) (k : ResNo) (f : Res → Res) : (s.modRes k f).die = s.die := rfl
@[simp] theorem State.modRes_srv (s : State) (k : ResNo) (f : Res → Res) : (s.modRes k f).srv = s.srv := rfl
@[simp] theorem State.modRes_pkg (s : State) (k : ResNo) (f : Res → Res) : (s.modRes k f).pkg = s.pkg := rfl
@[simp] theorem State.modRes_env (s : State) (k : ResNo) (f : Res → Res) : (s.modRes k f).env = s.env := rfl

/-! ### modR -/

@[simp] theorem State.modR_res (s : State) (f : Res → Res) : (s.modR f).res = s.res.set s.curRes.val (f (s.res.get s.curRes)) s.curRes.isLt := rfl
@[simp] theorem State.modR_curRes (s : State) (f : Res → Res) : (s.modR f).curRes = s.curRes := rfl
@[simp] theorem State.modR_curCtx (s : State) (f : Res → Res) : (s.modR f).curCtx = s.curCtx := rfl
@[simp] theorem State.modR_bundleLen (s : State) (f : Res → Res) : (s.modR f).bundleLen = s.bundleLen := rfl
@[simp] theorem State.modR_core (s : State) (f : Res → Res) : (s.modR f).core = s.core := rfl
@[simp] theorem State.modR_cl (s : State) (f : Res → Res) : (s.modR f).cl = s.cl := rfl
@[simp] theorem State.modR_die (s : State) (f : Res → Res) : (s.modR f).die = s.die := rfl
@[simp] theorem State.modR_srv (s : State) (f : Res → Res) : (s.modR f).srv = s.srv := rfl
@[simp] theorem State.modR_pkg (s : State) (f : Res → Res) : (s.modR f).pkg = s.pkg := rfl
@[simp] theorem State.modR_env (s : State) (f : Res → Res) : (s.modR f).env = s.env := rfl

/-! ### modCtx -/

@[simp] theorem State.modCtx_res (s : State) (k : CtxNo) (f : Ctx → Ctx) : (s.modCtx k f).res = s.res.set s.curRes.val ((s.res.get s.curRes).modCtx k f) s.curRes.isLt := rfl
@[simp] theorem State.modCtx_curRes (s : State) (k : CtxNo) (f : Ctx → Ctx) : (s.modCtx k f).curRes = s.curRes := rfl
@[simp] theorem State.modCtx_curCtx (s : State) (k : CtxNo) (f : Ctx → Ctx) : (s.modCtx k f).curCtx = s.curCtx := rfl
@[simp] theorem State.modCtx_bundleLen (s : State) (k : CtxNo) (f : Ctx → Ctx) : (s.modCtx k f).bundleLen = s.bundleLen := rfl
@[simp] theorem State.modCtx_core (s : State) (k : CtxNo) (f : Ctx → Ctx) : (s.modCtx k f).core = s.core := rfl
@[simp] theorem State.modCtx_cl (s : State) (k : CtxNo) (f : Ctx → Ctx) : (s.modCtx k f).cl = s.cl := rfl
@[simp] theorem State.modCtx_die (s : State) (k : CtxNo) (f : Ctx → Ctx) : (s.modCtx k f).die = s.die := rfl
@[simp] theorem State.modCtx_srv (s : State) (k : CtxNo) (f : Ctx → Ctx) : (s.modCtx k f).srv = s.srv := rfl
@[simp] theorem State.modCtx_pkg (s : State) (k : CtxNo) (f : Ctx → Ctx) : (s.modCtx k f).pkg = s.pkg := rfl
@[simp] theorem State.modCtx_env (s : State) (k : CtxNo) (f : Ctx → Ctx) : (s.modCtx k f).env = s.env := rfl

/-! ### modC -/

@[simp] theorem State.modC_res (s : State) (f : Ctx → Ctx) : (s.modC f).res = s.res.set s.curRes.val ((s.res.get s.curRes).modCtx s.curCtx f) s.curRes.isLt := rfl
@[simp] theorem State.modC_curRes (s : State) (f : Ctx → Ctx) : (s.modC f).curRes = s.curRes := rfl
@[simp] theorem State.modC_curCtx (s : State) (f : Ctx → Ctx) : (s.modC f).curCtx = s.curCtx := rfl
@[simp] theorem State.modC_bundleLen (s : State) (f : Ctx → Ctx) : (s.modC f).bundleLen = s.bundleLen := rfl
@[simp] theorem State.modC_core (s : State) (f : Ctx → Ctx) : (s.modC f).core = s.core := rfl
@[simp] theorem State.modC_cl (s : State) (f : Ctx → Ctx) : (s.modC f).cl = s.cl := rfl
@[simp] theorem State.modC_die (s : State) (f : Ctx → Ctx) : (s.modC f).die = s.die := rfl
@[simp] theorem State.modC_srv (s : State) (f : Ctx → Ctx) : (s.modC f).srv = s.srv := rfl
@[simp] theorem State.modC_pkg (s : State) (f : Ctx → Ctx) : (s.modC f).pkg = s.pkg := rfl
@[simp] theorem State.modC_env (s : State) (f : Ctx → Ctx) : (s.modC f).env = s.env := rfl

/-! ### modCore -/

@[simp] theorem State.modCore_res (s : State) (f : CoreSt → CoreSt) : (s.modCore f).res = s.res := rfl
@[simp] theorem State.modCore_curRes (s : State) (f : CoreSt → CoreSt) : (s.modCore f).curRes = s.curRes := rfl
@[simp] theorem State.modCore_curCtx (s : State) (f : CoreSt → CoreSt) : (s.modCore f).curCtx = s.curCtx := rfl
@[simp] theorem State.modCore_bundleLen (s : State) (f : CoreSt → CoreSt) : (s.modCore f).bundleLen = s.bundleLen := rfl
@[simp] theorem State.modCore_core (s : State) (f : CoreSt → CoreSt) : (s.modCore f).core = f s.core := rfl
@[simp] theorem State.modCore_cl (s : State) (f : CoreSt → CoreSt) : (s.modCore f).cl = s.cl := rfl
@[simp] theorem State.modCore_die (s : State) (f : CoreSt → CoreSt) : (s.modCore f).die = s.die := rfl
@[simp] theorem State.modCore_srv (s : State) (f : CoreSt → CoreSt) : (s.modCore f).srv = s.srv := rfl
@[simp] theorem State.modCore_pkg (s : State) (f : CoreSt → CoreSt) : (s.modCore f).pkg = s.pkg := rfl
@[simp] theorem State.modCore_env (s : State) (f : CoreSt → CoreSt) : (s.modCore f).env = s.env := rfl

/-! ### modEnv -/

@[simp] theorem State.modEnv_res (s : State) (f : Env → Env) : (s.modEnv f).res = s.res := rfl
@[simp] theorem State.modEnv_curRes (s : State) (f : Env → Env) : (s.modEnv f).curRes = s.curRes := rfl
@[simp] theorem State.modEnv_curCtx (s : State) (f : Env → Env) : (s.modEnv f).curCtx = s.curCtx := rfl
@[simp] theorem State.modEnv_bundleLen (s : State) (f : Env → Env) : (s.modEnv f).bundleLen = s.bundleLen := rfl
@[simp] theorem State.modEnv_core (s : State) (f : Env → Env) : (s.modEnv f).core = s.core := rfl
@[simp] theorem State.modEnv_cl (s : State) (f : Env → Env) : (s.modEnv f).cl = s.cl := rfl
@[simp] theorem State.modEnv_die (s : State) (f : Env → Env) : (s.modEnv f).die = s.die := rfl
@[simp] theorem State.modEnv_srv (s : State) (f : Env → Env) : (s.modEnv f).srv = s.srv := rfl
@[simp] theorem State.modEnv_pkg (s : State) (f : Env → Env) : (s.modEnv f).pkg = s.pkg := rfl
@[simp] theorem State.modEnv_env (s : State) (f : Env → Env) : (s.modEnv f).env = f s.env := rfl

/-! ### modMem -/

@[simp] theorem State.modMem_res (s : State) (f : List Host.Cell → List Host.Cell) : (s.modMem f).res = s.res := rfl
@[simp] theorem State.modMem_curRes (s : State) (f : List Host.Cell → List Host.Cell) : (s.modMem f).curRes = s.curRes := rfl
@[simp] theorem State.modMem_curCtx (s : State) (f : List Host.Cell → List Host.Cell) : (s.modMem f).curCtx = s.curCtx := rfl
@[simp] theorem State.modMem_bundleLen (s : State) (f : List Host.Cell → List Host.Cell) : (s.modMem f).bundleLen = s.bundleLen := rfl
@[simp] theorem State.modMem_cl (s : State) (f : List Host.Cell → List Host.Cell) : (s.modMem f).cl = s.cl := rfl
@[simp] theorem State.modMem_die (s : State) (f : List Host.Cell → List Host.Cell) : (s.modMem f).die = s.die := rfl
@[simp] theorem State.modMem_srv (s : State) (f : List Host.Cell → List Host.Cell) : (s.modMem f).srv = s.srv := rfl
@[simp] theorem State.modMem_pkg (s : State) (f : List Host.Cell → List Host.Cell) : (s.modMem f).pkg = s.pkg := rfl
@[simp] theorem State.modMem_env (s : State) (f : List Host.Cell → List Host.Cell) : (s.modMem f).env = s.env := rfl

/-! ### post -/

@[simp] theorem State.post_res (s : State) (i : Instr) : (s.post i).res = s.res := rfl
@[simp] theorem State.post_curRes (s : State) (i : Instr) : (s.post i).curRes = s.curRes := rfl
@[simp] theorem State.post_curCtx (s : State) (i : Instr) : (s.post i).curCtx = s.curCtx := rfl
@[simp] theorem State.post_bundleLen (s : State) (i : Instr) : (s.post i).bundleLen = s.bundleLen := rfl
@[simp] theorem State.post_core (s : State) (i : Instr) : (s.post i).core = s.core := rfl
@[simp] theorem State.post_cl (s : State) (i : Instr) : (s.post i).cl = s.cl := rfl
@[simp] theorem State.post_die (s : State) (i : Instr) : (s.post i).die = s.die := rfl
@[simp] theorem State.post_srv (s : State) (i : Instr) : (s.post i).srv = s.srv := rfl
@[simp] theorem State.post_pkg (s : State) (i : Instr) : (s.post i).pkg = s.pkg := rfl

/-! ### after -/

@[simp] theorem State.after_res (s : State) (n : Nat) (i : Instr) : (s.after n i).res = s.res := rfl
@[simp] theorem State.after_curRes (s : State) (n : Nat) (i : Instr) : (s.after n i).curRes = s.curRes := rfl
@[simp] theorem State.after_curCtx (s : State) (n : Nat) (i : Instr) : (s.after n i).curCtx = s.curCtx := rfl
@[simp] theorem State.after_bundleLen (s : State) (n : Nat) (i : Instr) : (s.after n i).bundleLen = s.bundleLen := rfl
@[simp] theorem State.after_core (s : State) (n : Nat) (i : Instr) : (s.after n i).core = s.core := rfl
@[simp] theorem State.after_cl (s : State) (n : Nat) (i : Instr) : (s.after n i).cl = s.cl := rfl
@[simp] theorem State.after_die (s : State) (n : Nat) (i : Instr) : (s.after n i).die = s.die := rfl
@[simp] theorem State.after_srv (s : State) (n : Nat) (i : Instr) : (s.after n i).srv = s.srv := rfl
@[simp] theorem State.after_pkg (s : State) (n : Nat) (i : Instr) : (s.after n i).pkg = s.pkg := rfl

/-! ### bump -/

@[simp] theorem State.bump_res (s : State) : (s.bump).res = s.res := rfl
@[simp] theorem State.bump_curRes (s : State) : (s.bump).curRes = s.curRes := rfl
@[simp] theorem State.bump_curCtx (s : State) : (s.bump).curCtx = s.curCtx := rfl
@[simp] theorem State.bump_bundleLen (s : State) : (s.bump).bundleLen = s.bundleLen := rfl
@[simp] theorem State.bump_cl (s : State) : (s.bump).cl = s.cl := rfl
@[simp] theorem State.bump_die (s : State) : (s.bump).die = s.die := rfl
@[simp] theorem State.bump_srv (s : State) : (s.bump).srv = s.srv := rfl
@[simp] theorem State.bump_pkg (s : State) : (s.bump).pkg = s.pkg := rfl
@[simp] theorem State.bump_env (s : State) : (s.bump).env = s.env := rfl

/-! ### result -/

@[simp] theorem State.result_curRes (s : State) (d : Dest) (v : Word) (n : Nat) : (s.result d v n).curRes = s.curRes := rfl
@[simp] theorem State.result_curCtx (s : State) (d : Dest) (v : Word) (n : Nat) : (s.result d v n).curCtx = s.curCtx := rfl
@[simp] theorem State.result_bundleLen (s : State) (d : Dest) (v : Word) (n : Nat) : (s.result d v n).bundleLen = s.bundleLen := rfl
@[simp] theorem State.result_core (s : State) (d : Dest) (v : Word) (n : Nat) : (s.result d v n).core = s.core := rfl
@[simp] theorem State.result_cl (s : State) (d : Dest) (v : Word) (n : Nat) : (s.result d v n).cl = s.cl := rfl
@[simp] theorem State.result_die (s : State) (d : Dest) (v : Word) (n : Nat) : (s.result d v n).die = s.die := rfl
@[simp] theorem State.result_srv (s : State) (d : Dest) (v : Word) (n : Nat) : (s.result d v n).srv = s.srv := rfl
@[simp] theorem State.result_pkg (s : State) (d : Dest) (v : Word) (n : Nat) : (s.result d v n).pkg = s.pkg := rfl
@[simp] theorem State.result_env (s : State) (d : Dest) (v : Word) (n : Nat) : (s.result d v n).env = s.env := rfl

/-! ### stepLfsr -/

@[simp] theorem State.stepLfsr_curRes (s : State) (m : BitVec 3) : (s.stepLfsr m).curRes = s.curRes := rfl
@[simp] theorem State.stepLfsr_curCtx (s : State) (m : BitVec 3) : (s.stepLfsr m).curCtx = s.curCtx := rfl
@[simp] theorem State.stepLfsr_bundleLen (s : State) (m : BitVec 3) : (s.stepLfsr m).bundleLen = s.bundleLen := rfl
@[simp] theorem State.stepLfsr_core (s : State) (m : BitVec 3) : (s.stepLfsr m).core = s.core := rfl
@[simp] theorem State.stepLfsr_cl (s : State) (m : BitVec 3) : (s.stepLfsr m).cl = s.cl := rfl
@[simp] theorem State.stepLfsr_die (s : State) (m : BitVec 3) : (s.stepLfsr m).die = s.die := rfl
@[simp] theorem State.stepLfsr_srv (s : State) (m : BitVec 3) : (s.stepLfsr m).srv = s.srv := rfl
@[simp] theorem State.stepLfsr_pkg (s : State) (m : BitVec 3) : (s.stepLfsr m).pkg = s.pkg := rfl
@[simp] theorem State.stepLfsr_env (s : State) (m : BitVec 3) : (s.stepLfsr m).env = s.env := rfl

/-! ### Reading back -/

@[simp] theorem vec_get_set_same {α : Type} {n : Nat} (v : Vector α n) (k : Fin n) (x : α) : (v.set k.val x k.isLt).get k = x := by
  simp [Vector.get_eq_getElem]

theorem vec_get_set_other {α : Type} {n : Nat} (v : Vector α n) (k j : Fin n) (x : α) (h : j ≠ k) :
    (v.set k.val x k.isLt).get j = v.get j := by
  simp only [Vector.get_eq_getElem]
  exact Vector.getElem_set_ne _ _ fun e => h (Fin.ext e.symm)

@[simp] theorem State.modR_r (s : State) (f : Res → Res) : (s.modR f).r = f s.r := by
  simp [State.r]

@[simp] theorem Res.modCtx_get (r : Res) (k : CtxNo) (f : Ctx → Ctx) : (r.modCtx k f).ctx.get k = f (r.ctx.get k) := by
  simp [Res.modCtx]

theorem Res.modCtx_get_other (r : Res) (k j : CtxNo) (f : Ctx → Ctx) (h : j ≠ k) : (r.modCtx k f).ctx.get j = r.ctx.get j :=
  vec_get_set_other _ _ _ _ h

@[simp] theorem State.modC_r (s : State) (f : Ctx → Ctx) : (s.modC f).r = s.r.modCtx s.curCtx f := by
  simp [State.r]

@[simp] theorem State.modC_c (s : State) (f : Ctx → Ctx) : (s.modC f).c = f s.c := by
  simp [State.c]

@[simp] theorem State.modCore_r (s : State) (f : CoreSt → CoreSt) : (s.modCore f).r = s.r := rfl
@[simp] theorem State.modCore_c (s : State) (f : CoreSt → CoreSt) : (s.modCore f).c = s.c := rfl
@[simp] theorem State.modEnv_r (s : State) (f : Env → Env) : (s.modEnv f).r = s.r := rfl
@[simp] theorem State.modEnv_c (s : State) (f : Env → Env) : (s.modEnv f).c = s.c := rfl
@[simp] theorem State.post_r (s : State) (i : Instr) : (s.post i).r = s.r := rfl
@[simp] theorem State.post_c (s : State) (i : Instr) : (s.post i).c = s.c := rfl
@[simp] theorem State.result_c (s : State) (d : Dest) (v : Word) (n : Nat) : (s.result d v n).c = s.c.schedule d v n := by
  simp [State.result]

/-! ### Items that leave -/

/-- An item that is no packet of the core goes out. -/
theorem State.emitFor_out (s : State) (order : Nat) (o : Out) (h : s.itemTarget order o = none) :
    s.emitFor order o = s.modEnv fun e => { e with out := e.out ++ [o] } := by
  simp [State.emitFor, h]

/-- What an arriving item leaves alone. -/
structure Beside (s t : State) : Prop where
  curRes : t.curRes = s.curRes
  curCtx : t.curCtx = s.curCtx
  bundleLen : t.bundleLen = s.bundleLen
  cl : t.cl = s.cl
  die : t.die = s.die
  srv : t.srv = s.srv
  pkg : t.pkg = s.pkg

theorem Beside.refl (s : State) : Beside s s := ⟨rfl, rfl, rfl, rfl, rfl, rfl, rfl⟩

theorem Beside.trans {s t u : State} (h : Beside s t) (g : Beside t u) : Beside s u :=
  ⟨g.1.trans h.1, g.2.trans h.2, g.3.trans h.3, g.4.trans h.4, g.5.trans h.5, g.6.trans h.6, g.7.trans h.7⟩

theorem State.beside_foldl {α : Type} (f : State → α → State) (h : ∀ (s : State) (x : α), Beside s (f s x)) : ∀ (l : List α) (s : State), Beside s (l.foldl f s)
  | [], s => .refl s
  | x :: t, s => (h s x).trans (State.beside_foldl f h t (f s x))

theorem State.deliverHere_beside (s : State) (order : Nat) (o : Out) : Beside s (s.deliverHere order o) := by
  cases o with
  | cast m ds =>
    refine State.beside_foldl (fun s x => s.post (arrivalOf { m with dst := x.dst, seq := x.seq, scaleSeq := x.seq, sendId := x.sendId })) ?_ ds s
    exact fun s x => ⟨rfl, rfl, rfl, rfl, rfl, rfl, rfl⟩
  | _ => simp only [State.deliverHere] <;> (repeat' split) <;> exact ⟨rfl, rfl, rfl, rfl, rfl, rfl, rfl⟩

theorem State.emitFor_beside (s : State) (order : Nat) (o : Out) : Beside s (s.emitFor order o) := by
  simp only [State.emitFor]
  split
  · exact ⟨rfl, rfl, rfl, rfl, rfl, rfl, rfl⟩
  · split
    · exact s.deliverHere_beside order o
    · exact ⟨rfl, rfl, rfl, rfl, rfl, rfl, rfl⟩

@[simp] theorem State.emit_curRes (s : State) (o : Out) : (s.emit o).curRes = s.curRes := (s.emitFor_beside s.r.order o).curRes
@[simp] theorem State.emit_curCtx (s : State) (o : Out) : (s.emit o).curCtx = s.curCtx := (s.emitFor_beside s.r.order o).curCtx
@[simp] theorem State.emit_bundleLen (s : State) (o : Out) : (s.emit o).bundleLen = s.bundleLen := (s.emitFor_beside s.r.order o).bundleLen
@[simp] theorem State.emit_cl (s : State) (o : Out) : (s.emit o).cl = s.cl := (s.emitFor_beside s.r.order o).cl
@[simp] theorem State.emit_die (s : State) (o : Out) : (s.emit o).die = s.die := (s.emitFor_beside s.r.order o).die
@[simp] theorem State.emit_srv (s : State) (o : Out) : (s.emit o).srv = s.srv := (s.emitFor_beside s.r.order o).srv
@[simp] theorem State.emit_pkg (s : State) (o : Out) : (s.emit o).pkg = s.pkg := (s.emitFor_beside s.r.order o).pkg

/-- Two changes of the same residency are one. -/
theorem State.modRes_modRes (s : State) (k : ResNo) (f g : Res → Res) : (s.modRes k f).modRes k g = s.modRes k fun r => g (f r) := by
  simp [State.modRes]

/-- Two changes of the same context are one. -/
theorem State.modC_modC (s : State) (f g : Ctx → Ctx) : (s.modC f).modC g = s.modC fun c => g (f c) := by
  simp [State.modC, State.modCtx, State.modR, State.modRes, Res.modCtx]

end Sys2Proof.Machine
end

