-- ==== Sys2Proof/Laws/Issue.lean ====
section
/-!
SUPPORT. What one instruction alone in its bundle does when it issues.
-/

namespace Sys2Proof.Machine

open Sys2Proof

theorem inSlot_alone (o : Op) (n : Nat) : inSlot [o.alone] n = if o.slot.num 0 = n then [o.alone] else [] := by
  by_cases h : o.slot.num 0 = n <;> simp [inSlot, Op.alone, h]

theorem slotOrder_alone (o : Op) : slotOrder [o.alone] = [o.alone] := by
  have h : (List.range 8) = [0, 1, 2, 3, 4, 5, 6, 7] := rfl
  rw [slotOrder, h]
  simp only [List.flatMap_cons, List.flatMap_nil, inSlot_alone]
  cases o.slot <;> rfl

theorem resolve_none (s : State) : s.resolve false false = s := rfl

theorem State.replayBack_loop (s : State) : s.replayBack.c.loop = s.c.loop := by
  have kick : ∀ t : State, t.sfuKick.c = t.c := by intro t; unfold State.sfuKick; split <;> rfl
  have fifo : ∀ (t : State) (k : CtxNo) (l : List SfuReq), (t.setFifo k l).c = t.c := fun _ _ _ => rfl
  unfold State.replayBack
  dsimp only
  repeat' split
  all_goals simp [kick, fifo]

theorem State.modRes_c (s : State) (k : ResNo) (f : Res → Res) (h : ∀ r, (f r).ctx = r.ctx) : (s.modRes k f).c = s.c := by
  unfold State.c State.r
  by_cases e : s.curRes = k
  · subst e; simp [h]
  · simp [vec_get_set_other _ _ _ _ e]

theorem State.grantAcc_c (s : State) (k : ResNo) : (s.grantAcc k).c = s.c := by
  have h := State.modRes_c s k (fun r => { r with accOwn := true }) fun _ => rfl
  unfold State.grantAcc
  dsimp only
  split <;> exact h

theorem State.grantTile_c (s : State) (k : ResNo) : (s.grantTile k).c = s.c := by
  have h := State.modRes_c s k (fun r => { r with tileOwn := true }) fun _ => rfl
  unfold State.grantTile
  dsimp only
  split <;> exact h

theorem State.resolve_c (s : State) (a t : Bool) : (s.resolve a t).c = s.c := by
  unfold State.resolve
  dsimp only
  repeat' split
  all_goals simp [State.grantAcc_c, State.grantTile_c]

/-- The issue of one instruction. -/
theorem State.issue_alone (g : State) (o : Op) (ha : o.after (o.eff (g.noteIssue.modC Ctx.landed).atFirst) = none) :
    g.issue [o.alone] = (o.late (o.eff (g.noteIssue.modC Ctx.landed).atFirst)).advance g.c.looping (o.next (o.eff (g.noteIssue.modC Ctx.landed).atFirst)) := by
  have hn : ∀ t, firstNext t [o.alone] = o.next t := by
    intro t; simp only [firstNext, Op.alone]; cases o.next t <;> rfl
  have ha' : firstAfter (o.eff (g.noteIssue.modC Ctx.landed).atFirst) [o.alone] = none := by simp [firstAfter, Op.alone, ha]
  have h1 : ∀ t, applyEff [o.alone] t = o.eff t.atFirst := fun _ => rfl
  have h2 : ∀ t, applyLate [o.alone] t = o.late t := fun _ => rfl
  simp only [State.issue, slotOrder_alone, h1, h2, ha', hn]

/-- A context that nothing holds waits for no release and no edge. -/
theorem Ctx.not_barred {c : Ctx} {now : BitVec 64} (h : c.waiting now = false) : c.barred = false := by
  cases hb : c.barred
  · rfl
  · simp [Ctx.waiting, hb] at h

/-- An instruction that is ready issues with its own effect. -/
theorem runOne_ready (o : Op) (s : State) (h : o.ready s = true) (ha : o.after (o.eff (o.begun s)) = none) :
    runOne o s = .next (o.issued s) := by
  simp only [Op.ready, Bool.and_eq_true, Bool.not_eq_true', State.unheld, Option.isNone_iff_eq_none] at h
  obtain ⟨⟨⟨⟨⟨hp, hw⟩, hl⟩, hb⟩, hm⟩, hh⟩ := h
  have hlive : liveOps s.seen [o.alone] = [o.alone] := by simp [liveOps, Op.alone, hl]
  have hloop : (resolveAll s.seen s.replayBack [o.alone]).c.looping = s.c.looping := by
    simp only [Ctx.looping, resolveAll, State.resolve_c, State.replayBack_loop]
  have e : runPlaced [o.alone] s = (resolveAll s.seen s.replayBack [o.alone]).issue [o.alone] := by
    simp only [runPlaced, hp, hw, Ctx.not_barred hw, Bool.false_eq_true, ↓reduceIte]
    rw [show s.modC Ctx.landed = s.seen from rfl, hlive, hb, hm]
    simp only [Bool.false_eq_true, ↓reduceIte, hh]
  rw [show runOne o s = .next (runPlaced [o.alone] s) from rfl, e, State.issue_alone _ _ ha, hloop]
  rfl

/-- An instruction with nothing but results and effects is ready where it is free to issue. -/
theorem Op.ready_of_free_at (o : Op) (s : State) (hc : ∀ n, o.check n s.seen = none) (ht : o.touch s.seen = (false, false))
    (ht' : o.touch (s.replayBack.modC Ctx.landed) = (false, false))
    (hb : o.banks s.seen = []) (hk : o.tasks = 0) (hr : o.ranges s.seen = 0) (hu : o.units s.seen = ⟨0, 0, 0⟩) (hw : o.wait s.seen = false) (ho : o.word s.seen = none)
    (hf : s.free o.neg o.guard o.dests.length = true) : o.ready s = true ∧ o.begun s = s.begun := by
  have hres : ∀ t : State, resolveAll s.seen t [o.alone] = t := by
    intro t; simp [resolveAll, Op.alone, ht, resolve_none]
  refine ⟨?_, ?_⟩
  · simp only [State.free, Bool.and_eq_true, decide_eq_true_eq] at hf
    obtain ⟨⟨⟨hn, hg⟩, hp⟩, hl⟩ := hf
    have hpk : packetOver s.seen [o.alone] = none := by
      unfold packetOver State.packetRoom at *
      have e : s.seen.core = s.core := rfl
      have e2 : s.seen.ownsPacket = s.ownsPacket := rfl
      rw [e]
      split
      · rfl
      · rename_i p hp2
        rw [hp2] at hp
        simp only [Bool.or_eq_true, Bool.not_eq_true', decide_eq_true_eq] at hp
        rw [if_neg]
        rintro ⟨h1, h2, -⟩
        rw [e2] at h1
        rcases hp with hp | hp
        · rw [hp] at h1; exact Bool.noConfusion h1
        · omega
    have hbt : bundleTrap s.seen [o.alone] = none := by
      have hb' : o.alone.op.banks s.seen = [] := hb
      have hc' : o.alone.op.check o.alone.num s.seen = none := hc _
      have ho' : o.alone.op.word s.seen = none := ho
      have hbo : bankOver [] [] = none := rfl
      simp [bundleTrap, hpk, slotOrder_alone, firstTrap, hc', wordTwice, ho', hb', hbo]
    have hmw : mustWait s.seen [o.alone] = false := by
      simp only [mustWait, Op.alone, List.map_cons, List.map_nil, List.sum_cons, List.sum_nil, hk, hr, List.flatMap_cons, List.flatMap_nil,
        List.append_nil, List.any_cons, List.any_nil, hw, unitsFree, unitFree, hu]
      have hs : stepResults s.seen [⟨o, o.slot.num 0, 0, o.slot.word⟩] ≤ s.seen.c.stepResults := by
        unfold stepResults; split
        · exact Nat.le_refl _
        · exact Nat.zero_le _
      have : s.seen.c.frozen.length = s.c.frozen.length := by
        have : ∀ (l : List Flight) (c : Ctx), (landDue l c).frozen = c.frozen := by
          intro l; induction l with
          | nil => intro c; rfl
          | cons f t ih => intro c; simp only [landDue]; rw [ih]; split
                           · cases hd : f.dest <;> simp only [Ctx.write] <;> split <;> rfl
                           · rfl
        simp [State.seen, Ctx.landed, this]
      simp only [this]
      simp
      omega
    have hh : held (s.replayBack.modC Ctx.landed) [o.alone] = false := by simp [held, Op.alone, ht', State.clearing]
    simp only [Op.ready, hn, hbt, hmw, hres, hh, Op.live, hg]; rfl
  · simp only [Op.begun, hres, State.begun, State.noted]

/-- The same where no group is touched in any state. -/
theorem Op.ready_of_free (o : Op) (s : State) (hc : ∀ n, o.check n s.seen = none) (ht : ∀ t, o.touch t = (false, false))
    (hb : o.banks s.seen = []) (hk : o.tasks = 0) (hr : o.ranges s.seen = 0) (hu : o.units s.seen = ⟨0, 0, 0⟩) (hw : o.wait s.seen = false) (ho : o.word s.seen = none)
    (hf : s.free o.neg o.guard o.dests.length = true) : o.ready s = true ∧ o.begun s = s.begun :=
  o.ready_of_free_at s hc (ht _) (ht _) hb hk hr hu hw ho hf

/-- An instruction with one result and no other effect. -/
theorem runOne_wrote (o : Op) (s : State) (d : Dest) (v : Word) (n : Nat) (hc : ∀ n, o.check n s.seen = none) (ht : ∀ t, o.touch t = (false, false))
    (hb : o.banks s.seen = []) (hk : o.tasks = 0) (hr : o.ranges s.seen = 0) (hu : o.units s.seen = ⟨0, 0, 0⟩) (hw : o.wait s.seen = false) (ho : o.word s.seen = none)
    (ha : ∀ t, o.after t = none) (hl : ∀ t, o.late t = t) (hn : ∀ t, o.next t = none) (hd : o.dests.length = 1)
    (he : o.eff s.begun = s.begun.result d v n) (hf : s.free o.neg o.guard 1 = true) :
    runOne o s = .next (s.wrote d v n) := by
  obtain ⟨h1, h2⟩ := o.ready_of_free s hc ht hb hk hr hu hw ho (by rw [hd]; exact hf)
  rw [runOne_ready o s h1 (ha _)]
  simp only [Op.issued, h2, he, hl, hn, State.wrote]

/-- The three fields of a context that looking at its bundle may change before its effects act. -/
def Ctx.aside3 (c : Ctx) (y : List CtxNo) (r : Option SfuReplay) (k : List SfuReq) : Ctx := { c with yields := y, replay := r, sfuKept := k }

theorem Ctx.write_aside3 (c : Ctx) (y : List CtxNo) (r : Option SfuReplay) (k : List SfuReq) (d : Dest) (v : Word) :
    (c.aside3 y r k).write d v = (c.write d v).aside3 y r k := by
  cases d <;> simp only [Ctx.write] <;> split <;> rfl

theorem landDue_aside3 (l : List Flight) (c : Ctx) (y : List CtxNo) (r : Option SfuReplay) (k : List SfuReq) :
    landDue l (c.aside3 y r k) = (landDue l c).aside3 y r k := by
  induction l generalizing c with
  | nil => rfl
  | cons f t ih =>
    simp only [landDue]
    split
    · rw [Ctx.write_aside3, ih]
    · rw [ih]

theorem Ctx.landed_aside3 (c : Ctx) (y : List CtxNo) (r : Option SfuReplay) (k : List SfuReq) :
    (c.aside3 y r k).landed = c.landed.aside3 y r k := by
  have : (c.aside3 y r k).flight = c.flight := rfl
  simp only [Ctx.landed, this, landDue_aside3]
  rfl

theorem State.replayBack_c (s : State) : ∃ r k, s.replayBack.c = s.c.aside3 s.c.yields r k := by
  have kick : ∀ t : State, t.sfuKick.c = t.c := by intro t; unfold State.sfuKick; split <;> rfl
  have fifo : ∀ (t : State) (k : CtxNo) (l : List SfuReq), (t.setFifo k l).c = t.c := fun _ _ _ => rfl
  have same : s.c = s.c.aside3 s.c.yields s.c.replay s.c.sfuKept := rfl
  unfold State.replayBack
  dsimp only
  split
  · split
    · exact ⟨_, _, same⟩
    · refine ⟨s.c.replay, [], ?_⟩
      rw [kick, State.modC_c, fifo]; rfl
  · split
    · refine ⟨none, [], ?_⟩
      rw [kick, fifo, State.modC_c]; rfl
    · split
      · refine ⟨none, [], ?_⟩
        rw [fifo, State.modC_c]; rfl
      · exact ⟨_, _, same⟩

theorem State.noteIssue_c (s : State) : ∃ y, s.noteIssue.c = s.c.aside3 y s.c.replay s.c.sfuKept := by
  refine ⟨s.c.yields.filter (· != s.curCtx), ?_⟩
  have : ∀ t : State, (t.modR fun r => { r with ctx := r.ctx.map fun c => { c with yields := c.yields.filter (· != s.curCtx) } }).c
      = t.c.aside3 (t.c.yields.filter (· != s.curCtx)) t.c.replay t.c.sfuKept := by
    intro t
    simp only [State.c, State.modR_r, State.modR_curCtx, Vector.get_eq_getElem, Vector.getElem_map]
    rfl
  unfold State.noteIssue
  dsimp only
  split
  · rw [State.modCore_c, this]; rfl
  · rw [this]; rfl

theorem State.begun_c (s : State) : ∃ y r k, s.begun.c = s.c.landed.aside3 y r k := by
  obtain ⟨r, k, h1⟩ := s.replayBack_c
  obtain ⟨y, h2⟩ := s.replayBack.noteIssue_c
  refine ⟨y, s.replayBack.c.replay, s.replayBack.c.sfuKept, ?_⟩
  rw [State.begun, State.noted, show ∀ t : State, t.atFirst.c = t.c from fun _ => rfl, State.modC_c, h2, h1, Ctx.landed_aside3, Ctx.landed_aside3]
  rfl

theorem Ctx.write_rest (c : Ctx) (d : Dest) (v : Word) :
    (c.write d v).pc = c.pc ∧ (c.write d v).loop = c.loop ∧ (c.write d v).mode = c.mode ∧ (c.write d v).trap = c.trap ∧ (c.write d v).last = c.last := by
  cases d <;> simp only [Ctx.write] <;> split <;> exact ⟨rfl, rfl, rfl, rfl, rfl⟩

theorem Ctx.landed_rest (c : Ctx) :
    c.landed.pc = c.pc ∧ c.landed.loop = c.loop ∧ c.landed.mode = c.mode ∧ c.landed.trap = c.trap ∧ c.landed.last = c.last := by
  have : ∀ (l : List Flight) (c : Ctx), (landDue l c).pc = c.pc ∧ (landDue l c).loop = c.loop ∧ (landDue l c).mode = c.mode ∧ (landDue l c).trap = c.trap ∧ (landDue l c).last = c.last := by
    intro l
    induction l with
    | nil => intro c; exact ⟨rfl, rfl, rfl, rfl, rfl⟩
    | cons f t ih =>
      intro c
      simp only [landDue]
      split
      · obtain ⟨h1, h2, h3, h4, h5⟩ := ih (c.write f.dest f.val)
        obtain ⟨g1, g2, g3, g4, g5⟩ := c.write_rest f.dest f.val
        exact ⟨h1.trans g1, h2.trans g2, h3.trans g3, h4.trans g4, h5.trans g5⟩
      · exact ih c
  exact this _ _

/-- Where an issuing bundle finds its context: at its pair, in its mode and loop, its registers with the due results landed. -/
theorem State.begun_fields (s : State) :
    s.begun.c.pc = s.c.pc ∧ s.begun.c.loop = s.c.loop ∧ s.begun.c.mode = s.c.mode ∧ s.begun.c.trap = s.c.trap ∧ s.begun.c.last = s.c.last ∧
    s.begun.c.s = s.c.landed.s ∧ s.begun.c.p = s.c.landed.p := by
  obtain ⟨y, r, k, h⟩ := s.begun_c
  obtain ⟨h1, h2, h3, h4, h5⟩ := s.c.landed_rest
  rw [h]
  exact ⟨h1, h2, h3, h4, h5, rfl, rfl⟩

theorem State.sfuKick_place (s : State) : s.sfuKick.curRes = s.curRes ∧ s.sfuKick.curCtx = s.curCtx ∧ s.sfuKick.bundleLen = s.bundleLen ∧ s.sfuKick.core = s.core := by
  unfold State.sfuKick
  split <;> exact ⟨rfl, rfl, rfl, rfl⟩

theorem State.replayBack_place (s : State) : s.replayBack.curRes = s.curRes ∧ s.replayBack.curCtx = s.curCtx ∧ s.replayBack.bundleLen = s.bundleLen ∧ s.replayBack.core = s.core := by
  unfold State.replayBack
  dsimp only
  repeat' split
  all_goals first
    | exact ⟨rfl, rfl, rfl, rfl⟩
    | exact (State.sfuKick_place _)

theorem State.noteIssue_place (s : State) : s.noteIssue.curRes = s.curRes ∧ s.noteIssue.curCtx = s.curCtx ∧ s.noteIssue.bundleLen = s.bundleLen := by
  unfold State.noteIssue
  dsimp only
  split <;> exact ⟨rfl, rfl, rfl⟩

/-- An issuing bundle finds its own residency, context and length. -/
theorem State.begun_place (s : State) : s.begun.curRes = s.curRes ∧ s.begun.curCtx = s.curCtx ∧ s.begun.bundleLen = s.bundleLen := by
  obtain ⟨h1, h2, h3, -⟩ := s.replayBack_place
  obtain ⟨g1, g2, g3⟩ := s.replayBack.noteIssue_place
  exact ⟨g1.trans h1, g2.trans h2, g3.trans h3⟩

/-- An instruction that touches no group and waits for nothing issues where its checks pass and it is free to. -/
theorem runOne_free (o : Op) (s : State) (hf : s.free o.neg o.guard o.dests.length = true) (hc : ∀ n, o.check n s.seen = none)
    (ht : ∀ t, o.touch t = (false, false)) (hb : o.banks s.seen = []) (hk : o.tasks = 0) (hr : o.ranges s.seen = 0) (hu : o.units s.seen = ⟨0, 0, 0⟩) (hw : o.wait s.seen = false)
    (ho : o.word s.seen = none) (ha : ∀ t, o.after t = none) :
    runOne o s = .next (s.ended (o.late (o.eff s.begun)) (o.next (o.eff s.begun))) := by
  obtain ⟨h1, h2⟩ := o.ready_of_free s hc ht hb hk hr hu hw ho hf
  rw [runOne_ready o s h1 (ha _)]
  simp only [Op.issued, h2]

/-- Room for more results is room for fewer. -/
theorem State.free_mono (s : State) (neg : Bool) (g : BitVec 5) (m n : Nat) (h : s.free neg g n = true) (hm : m ≤ n) : s.free neg g m = true := by
  simp only [State.free, Bool.and_eq_true, decide_eq_true_eq] at h ⊢
  exact ⟨h.1, by omega⟩

/-- A ready instruction's conditions. -/
theorem Op.ready_wait (o : Op) (s : State) (h : o.ready s = true) : o.wait s.seen = false := by
  simp only [Op.ready, Bool.and_eq_true, Bool.not_eq_true', mustWait, Bool.or_eq_false_iff] at h
  simpa [Op.alone] using h.1.2.2

theorem Op.ready_check (o : Op) (s : State) (h : o.ready s = true) : o.check (o.slot.num 0) s.seen = none := by
  simp only [Op.ready, Bool.and_eq_true, Option.isNone_iff_eq_none] at h
  have h1 := h.1.1.2
  simp only [bundleTrap, slotOrder_alone] at h1
  cases hp : packetOver s.seen [o.alone] with
  | some q => rw [hp] at h1; exact absurd h1 (by simp)
  | none =>
    rw [hp] at h1
    simp only [firstTrap] at h1
    cases hc : o.alone.op.check o.alone.num s.seen with
    | some q => rw [hc] at h1; exact absurd h1 (by simp)
    | none => exact hc

theorem illegalIf_none (bad : Bool) (n : Nat) (v : Word) (h : illegalIf bad n v = none) : bad = false := by
  cases bad
  · rfl
  · exact absurd h (by simp [illegalIf])

theorem orElse_none {α : Type} (a b : Option α) (h : (a <|> b) = none) : a = none ∧ b = none := by
  cases a
  · exact ⟨rfl, h⟩
  · exact absurd h (by simp)

/-! ### An instruction whose check raises a cause -/

theorem runOne_trap (o : Op) (s : State) (q : TrapReq) (hf : s.unheld = true) (hl : o.live s.seen = true) (hp : packetOver s.seen [o.alone] = none)
   (hc : o.check (o.slot.num 0) s.seen = some q) : runOne o s = .next (s.takeTrap q) := by
  simp only [State.unheld, Bool.and_eq_true, Bool.not_eq_true', Option.isNone_iff_eq_none] at hf
  have hlive : liveOps s.seen [o.alone] = [o.alone] := by simp [liveOps, Op.alone, hl]
  have hb : bundleTrap s.seen [o.alone] = some q := by
    simp only [bundleTrap, hp, slotOrder_alone, firstTrap]
    rw [show o.alone.op.check o.alone.num s.seen = some q from hc]
    rfl
  rw [show runOne o s = .next (runPlaced [o.alone] s) from rfl]
  simp only [runPlaced, hf.1, hf.2, Ctx.not_barred hf.2, Bool.false_eq_true, ↓reduceIte]
  rw [show s.modC Ctx.landed = s.seen from rfl, hlive, hb]

theorem runOne_trap_free (o : Op) (s : State) (neg : Bool) (g : BitVec 5) (n : Nat) (q : TrapReq) (hf : s.free neg g n = true) (h1 : o.neg = neg) (h2 : o.guard = g)
    (hc : o.check (o.slot.num 0) s.seen = some q) : runOne o s = .next (s.takeTrap q) := by
  simp only [State.free, Bool.and_eq_true, decide_eq_true_eq] at hf
  obtain ⟨⟨⟨hu, hg⟩, hp⟩, -⟩ := hf
  refine runOne_trap o s q hu (by simpa [Op.live, h1, h2] using hg) ?_ hc
  unfold packetOver State.packetRoom at *
  have e : s.seen.core = s.core := rfl
  have e2 : s.seen.ownsPacket = s.ownsPacket := rfl
  rw [e]
  split
  · rfl
  · rename_i p hp2
    rw [hp2] at hp
    simp only [Bool.or_eq_true, Bool.not_eq_true', decide_eq_true_eq] at hp
    rw [if_neg]
    rintro ⟨h1, h2, -⟩
    rw [e2] at h1
    rcases hp with hp | hp
    · rw [hp] at h1; exact Bool.noConfusion h1
    · omega

end Sys2Proof.Machine
end

