-- ==== Sys2Proof/Laws/Csr.lean ====
section
/-!
SUPPORT. What a write of each control register changes, and what it reads.
-/

namespace Sys2Proof.Machine

open Sys2Proof

theorem ofNat_toNat_truncate (w : Nat) (v : Word) : BitVec.ofNat w v.toNat = v.truncate w := by
  apply BitVec.eq_of_toNat_eq; simp

theorem ofNat_toNat_shift (w k : Nat) (v : Word) : BitVec.ofNat w (v.toNat >>> k) = (v >>> k).truncate w := by
  apply BitVec.eq_of_toNat_eq; simp

theorem opCsrWrite_late (h : CHdr) (op : BitVec 2) (a : BitVec 5) (n : Nat) (h1 : n ≠ 0x50) (h2 : n ≠ 0x118) (h3 : n ≠ 0x119) (t : State) :
    (opCsrWrite h op a n).late t = t.csrPut n (csrNew op (t.csrRead n) (t.c.reg h.s a)) := by
  simp only [opCsrWrite, if_neg h1, if_neg h2, if_neg h3, csrValue]

theorem opCsrWrite_issued (h : CHdr) (op : BitVec 2) (a : BitVec 5) (n : Nat) (s : State) (hr : (opCsrWrite h op a n).ready s = true) :
    runOne (opCsrWrite h op a n) s = .next (s.ended ((opCsrWrite h op a n).late ((opCsrWrite h op a n).begun s)) none) :=
  runOne_ready _ s hr rfl

/-! ### Writes -/

theorem csrPut_srlfsr (s : State) (v : Word) :
    s.csrPut 8 v = s.modR fun r => { r with lfsr := if v.truncate 32 = (0 : BitVec 32) then 1 else v.truncate 32 } := rfl
theorem csrPut_vshare (s : State) (v : Word) : s.csrPut 9 v = s.modR fun r => { r with vshare := v.truncate 4 } := rfl
theorem csrPut_trestart (s : State) (v : Word) : s.csrPut 0xA v = s.setTrestart s.curCtx v := rfl
theorem csrPut_cause (s : State) (v : Word) :
    s.csrPut 0x100 v = s.modC fun c => { c with trap := { c.trap with cause := v.truncate 7 } } := rfl
theorem csrPut_pc (s : State) (v : Word) :
    s.csrPut 0x101 v = s.modC fun c => { c with trap := { c.trap with pc := v.truncate 14 } } := rfl
theorem csrPut_frm (s : State) (v : Word) :
    s.csrPut 0x102 v = s.modC fun c => { c with trap := { c.trap with frm := v.truncate 14 } } := rfl
theorem csrPut_info0 (s : State) (v : Word) :
    s.csrPut 0x103 v = s.modC fun c => { c with trap := { c.trap with info0 := v } } := rfl
theorem csrPut_info1 (s : State) (v : Word) :
    s.csrPut 0x104 v = s.modC fun c => { c with trap := { c.trap with info1 := v } } := rfl
theorem csrPut_handler (s : State) (v : Word) : s.csrPut 0x108 v = s.modR fun r => { r with handler := v.truncate 14 } := rfl
theorem csrPut_spbase (s : State) (v : Word) :
    s.csrPut 0x110 v = s.modR fun r => { r with spbase := (v >>> 12).truncate 9 } := by
  rw [← ofNat_toNat_shift]; rfl
theorem csrPut_splim (s : State) (v : Word) :
    s.csrPut 0x111 v = s.modR fun r => { r with splimit := (v >>> 12).truncate 10, phsz := (v >>> 24).truncate 5 } := by
  rw [← ofNat_toNat_shift, ← ofNat_toNat_shift]; rfl
theorem csrPut_accown (s : State) (v : Word) :
    s.csrPut 0x112 v = s.modR fun r => { r with accOwn := v.getLsbD 8, accLive := if v.getLsbD 8 then v.truncate 8 else 0 } := by
  rw [← ofNat_toNat_truncate 8]; rfl
theorem csrPut_tileown (s : State) (v : Word) :
    s.csrPut 0x113 v = s.modR fun r => { r with tileOwn := v.getLsbD 24, tlive := if v.getLsbD 24 then v.truncate 16 else 0,
                                                mlive := if v.getLsbD 24 then (v >>> 16).truncate 8 &&& 0xFE else 0 } := by
  rw [← ofNat_toNat_truncate 16, ← ofNat_toNat_shift]; rfl
theorem csrPut_tenant (s : State) (v : Word) : s.csrPut 0x114 v = s.modR fun r => { r with tenant := v.truncate 6 } := rfl
theorem csrPut_code (s : State) (v : Word) :
    s.csrPut 0x115 v = s.modR fun r => { r with codeFirst := v.truncate 14, codeLast := (v >>> 16).truncate 14 } := by
  rw [← ofNat_toNat_truncate 14, ← ofNat_toNat_shift]; rfl

theorem csrPut_tshape (s : State) (v : Word) (k : Nat) (hk : k < 16) :
    s.csrPut (0x10 + k) v = s.modR fun r => { r with tshape := r.tshape.set k (shapeOf v.toNat) hk } := by
  have h1 : ¬(0x10 + k = 8) := by omega
  have h2 : ¬(0x10 + k = 9) := by omega
  have h3 : ¬(0x10 + k = 0xA) := by omega
  have h4 : 0x10 ≤ 0x10 + k ∧ 0x10 + k < 0x20 := by omega
  have h5 : (0x10 + k) % 16 = k := by omega
  simp only [State.csrPut, if_neg h1, if_neg h2, if_neg h3, if_pos h4, h5]

theorem csrPut_ad (s : State) (v : Word) (k : Nat) (hk : k < 8) :
    s.csrPut (0x20 + k) v = s.modR fun r => { r with ad := r.ad.set k (accDescOf v.toNat) hk } := by
  have h1 : ¬(0x20 + k = 8) := by omega
  have h2 : ¬(0x20 + k = 9) := by omega
  have h3 : ¬(0x20 + k = 0xA) := by omega
  have h4 : ¬(0x10 ≤ 0x20 + k ∧ 0x20 + k < 0x20) := by omega
  have h5 : 0x20 ≤ 0x20 + k ∧ 0x20 + k < 0x28 := by omega
  have h6 : (0x20 + k) % 8 = k := by omega
  simp only [State.csrPut, if_neg h1, if_neg h2, if_neg h3, if_neg h4, if_pos h5, h6]

theorem csrPut_dt (s : State) (v : Word) (k : Nat) (hk : k < 16) :
    s.csrPut (0x40 + k) v = s.modR fun r => { r with dt := r.dt.set k (v &&& 0xFFFFFFFFFFFCFFFF) hk } := by
  have h1 : ¬(0x40 + k = 8) := by omega
  have h2 : ¬(0x40 + k = 9) := by omega
  have h3 : ¬(0x40 + k = 0xA) := by omega
  have h4 : ¬(0x10 ≤ 0x40 + k ∧ 0x40 + k < 0x20) := by omega
  have h5 : ¬(0x20 ≤ 0x40 + k ∧ 0x40 + k < 0x28) := by omega
  have h6 : 0x40 ≤ 0x40 + k ∧ 0x40 + k < 0x50 := by omega
  have h7 : (0x40 + k) % 16 = k := by omega
  simp only [State.csrPut, if_neg h1, if_neg h2, if_neg h3, if_neg h4, if_neg h5, if_pos h6, h7]

theorem csrPut_extent (s : State) (v : Word) (ty k : Nat) (ht : ty < 3) (hk : k < 16) :
    s.csrPut (0x180 + 16 * ty + k) v =
      s.modR fun r => { r with extentsPending := r.extentsPending.set k ((r.extentsPending.get ⟨k, hk⟩).set ty v) hk } := by
  have e1 : (0x180 + 16 * ty + k) % 16 = k := by omega
  have e2 : (0x180 + 16 * ty + k - 0x180) / 16 = ty := by omega
  have e3 : idx 16 (0x180 + 16 * ty + k) = ⟨k, hk⟩ := Fin.ext e1
  have n0 : ∀ m, m < 0x180 → ¬(0x180 + 16 * ty + k = m) := by omega
  have n1 : ∀ p q, q ≤ 0x180 → ¬(p ≤ 0x180 + 16 * ty + k ∧ 0x180 + 16 * ty + k < q) := by omega
  have y : 0x180 ≤ 0x180 + 16 * ty + k ∧ 0x180 + 16 * ty + k < 0x1B0 := by omega
  unfold State.csrPut
  simp only [if_neg (n0 8 (by omega)), if_neg (n0 9 (by omega)), if_neg (n0 0xA (by omega)), if_neg (n1 0x10 0x20 (by omega)),
    if_neg (n1 0x20 0x28 (by omega)), if_neg (n1 0x40 0x50 (by omega)), if_neg (n0 0x100 (by omega)), if_neg (n0 0x101 (by omega)),
    if_neg (n0 0x102 (by omega)), if_neg (n0 0x103 (by omega)), if_neg (n0 0x104 (by omega)), if_neg (n0 0x108 (by omega)),
    if_neg (n0 0x110 (by omega)), if_neg (n0 0x111 (by omega)), if_neg (n0 0x112 (by omega)), if_neg (n0 0x113 (by omega)),
    if_neg (n0 0x114 (by omega)), if_neg (n0 0x115 (by omega)), if_pos y, e1, e2, e3]

end Sys2Proof.Machine
end

