-- ==== Sys2Proof/Laws/Encoding.lean ====
section
/-!
SUPPORT. Reading back the fields of an encoded word, and finding its row in a table of the decoder.
-/

set_option linter.unusedSimpArgs false

namespace Sys2Proof.Enc

open Sys2Proof

theorem ext_hi {a b : Nat} (x : BitVec a) (y : BitVec b) (lo n : Nat) (h : b ≤ lo) :
    (x ++ y).extractLsb' lo n = x.extractLsb' (lo - b) n := by
  apply BitVec.eq_of_getLsbD_eq; intro i hi
  simp only [BitVec.getLsbD_extractLsb', BitVec.getLsbD_append, hi, decide_true, Bool.true_and]
  rw [if_neg (by omega)]
  congr 1; omega

theorem ext_lo {a b : Nat} (x : BitVec a) (y : BitVec b) (lo n : Nat) (h : lo + n ≤ b) :
    (x ++ y).extractLsb' lo n = y.extractLsb' lo n := by
  apply BitVec.eq_of_getLsbD_eq; intro i hi
  simp only [BitVec.getLsbD_extractLsb', BitVec.getLsbD_append, hi, decide_true, Bool.true_and]
  rw [if_pos (by omega)]

theorem ext_all {a : Nat} (x : BitVec a) : x.extractLsb' 0 a = x := by
  apply BitVec.eq_of_getLsbD_eq; intro i hi
  simp [hi]

theorem bit_hi {a b : Nat} (x : BitVec a) (y : BitVec b) (i : Nat) (h : b ≤ i) : (x ++ y).getLsbD i = x.getLsbD (i - b) := by
  rw [BitVec.getLsbD_append, if_neg (by omega)]

theorem bit_lo {a b : Nat} (x : BitVec a) (y : BitVec b) (i : Nat) (h : i < b) : (x ++ y).getLsbD i = y.getLsbD i := by
  rw [BitVec.getLsbD_append, if_pos h]

theorem bit_bool (b : Bool) : (BitVec.ofBool b).getLsbD 0 = b := by cases b <;> rfl

theorem cWord_op (l : BitVec 1) (h : CHdr) (op : BitVec 8) (b : BitVec 16) : (cWord l h op b).extractLsb' 22 8 = op := by
  simp (disch := decide) only [cWord, ext_hi, ext_lo, ext_all, Nat.reduceSub]

theorem cWord_long (l : BitVec 1) (h : CHdr) (op : BitVec 8) (b : BitVec 16) : (cWord l h op b).getLsbD 31 = l.getLsbD 0 := by
  simp (disch := decide) only [cWord, bit_hi, Nat.reduceSub]

theorem cWord_hdr (l : BitVec 1) (h : CHdr) (op : BitVec 8) (b : BitVec 16) : cHdr (cWord l h op b) = h := by
  simp (disch := decide) only [cHdr, cWord, ext_hi, ext_lo, ext_all, bit_hi, bit_lo, bit_bool, Nat.reduceSub]

theorem cWord_bits (l : BitVec 1) (h : CHdr) (op : BitVec 8) (b : BitVec 16) (lo n : Nat) (hn : lo + n ≤ 16) :
    (cWord l h op b).extractLsb' lo n = b.extractLsb' lo n := by
  apply BitVec.eq_of_getLsbD_eq; intro i hi
  simp only [BitVec.getLsbD_extractLsb', cWord, BitVec.getLsbD_append, hi, decide_true, Bool.true_and]
  rw [if_pos (by omega)]

theorem cWord_bit (l : BitVec 1) (h : CHdr) (op : BitVec 8) (b : BitVec 16) (i : Nat) (hi : i < 16) :
    (cWord l h op b).getLsbD i = b.getLsbD i := by
  simp only [cWord, BitVec.getLsbD_append]
  rw [if_pos (by omega)]

theorem aWord_op (h : AHdr) (op : BitVec 7) (b : BitVec 19) : (aWord h op b).extractLsb' 24 7 = op := by
  simp (disch := decide) only [aWord, ext_hi, ext_lo, ext_all, Nat.reduceSub]

theorem aWord_hdr (h : AHdr) (op : BitVec 7) (b : BitVec 19) : aHdr (aWord h op b) = h := by
  simp (disch := decide) only [aHdr, aWord, ext_hi, ext_lo, ext_all, bit_hi, bit_lo, bit_bool, Nat.reduceSub]

theorem aWord_bits (h : AHdr) (op : BitVec 7) (b : BitVec 19) (lo n : Nat) (hn : lo + n ≤ 19) :
    (aWord h op b).extractLsb' lo n = b.extractLsb' lo n := by
  apply BitVec.eq_of_getLsbD_eq; intro i hi
  simp only [BitVec.getLsbD_extractLsb', aWord, BitVec.getLsbD_append, hi, decide_true, Bool.true_and]
  rw [if_pos (by omega)]

theorem aWord_bit (h : AHdr) (op : BitVec 7) (b : BitVec 19) (i : Nat) (hi : i < 19) :
    (aWord h op b).getLsbD i = b.getLsbD i := by
  simp only [aWord, BitVec.getLsbD_append]
  rw [if_pos (by omega)]

/-! ### Where a word stands in a table -/

theorem c_find {w : BitVec 32} {r : WordRow} {i : Instr} (k : BitVec 8) (hl : w.getLsbD 31 = false) (hk : w.extractLsb' 22 8 = k)
    (hf : (cRows.find? fun r => r.op == k && r.fits w) = some r) (hb : r.build w = i) (hw : i.wf = true) :
    decode (.c w) = .ok i := by
  subst hk
  simp only [decode, hl, decodeC, hf, hb, accept, hw, if_true, Bool.false_eq_true, if_false]

theorem a_find {w : BitVec 32} {r : ARow} {i : Instr} (k : BitVec 7) (hk : w.extractLsb' 24 7 = k)
    (hf : (aRows.find? fun r => r.op == k && r.fits w) = some r) (hb : r.build w = i) (hw : i.wf = true) :
    decode (.a w) = .ok i := by
  subst hk
  simp only [decode, decodeA, hf, hb, accept, hw, if_true]

theorem l_find {w x : BitVec 32} {r : PairRow} {i : Instr} (k : BitVec 8) (hl : w.getLsbD 31 = true) (hk : w.extractLsb' 22 8 = k)
    (hf : (lRows.find? fun r => r.op == k && r.fits w x) = some r) (hb : ownRowFix (r.build w x) = i) (hw : i.wf = true) :
    decode (.l w x) = .ok i := by
  subst hk
  simp only [decode, hl, decodeL, hf, hb, accept, hw, if_true]

theorem c_op {w : BitVec 32} {k : BitVec 8} {r r' : WordRow} {t : List WordRow} (h : (r.op == k) = false)
    (hf : (t.find? fun r => r.op == k && r.fits w) = some r') : ((r :: t).find? fun r => r.op == k && r.fits w) = some r' := by
  simp only [List.find?, h, Bool.false_and, hf]

theorem c_no {w : BitVec 32} {k : BitVec 8} {r r' : WordRow} {t : List WordRow} (h : r.fits w = false)
    (hf : (t.find? fun r => r.op == k && r.fits w) = some r') : ((r :: t).find? fun r => r.op == k && r.fits w) = some r' := by
  simp only [List.find?, h, Bool.and_false, hf]

theorem c_hit {w : BitVec 32} {k : BitVec 8} {r : WordRow} {t : List WordRow} (h : (r.op == k) = true)
    (hf : r.fits w = true) : ((r :: t).find? fun r => r.op == k && r.fits w) = some r := by
  simp only [List.find?, h, hf, Bool.and_self]

theorem a_op {w : BitVec 32} {k : BitVec 7} {r r' : ARow} {t : List ARow} (h : (r.op == k) = false)
    (hf : (t.find? fun r => r.op == k && r.fits w) = some r') : ((r :: t).find? fun r => r.op == k && r.fits w) = some r' := by
  simp only [List.find?, h, Bool.false_and, hf]

theorem a_no {w : BitVec 32} {k : BitVec 7} {r r' : ARow} {t : List ARow} (h : r.fits w = false)
    (hf : (t.find? fun r => r.op == k && r.fits w) = some r') : ((r :: t).find? fun r => r.op == k && r.fits w) = some r' := by
  simp only [List.find?, h, Bool.and_false, hf]

theorem a_hit {w : BitVec 32} {k : BitVec 7} {r : ARow} {t : List ARow} (h : (r.op == k) = true)
    (hf : r.fits w = true) : ((r :: t).find? fun r => r.op == k && r.fits w) = some r := by
  simp only [List.find?, h, hf, Bool.and_self]

theorem l_op {w x : BitVec 32} {k : BitVec 8} {r r' : PairRow} {t : List PairRow} (h : (r.op == k) = false)
    (hf : (t.find? fun r => r.op == k && r.fits w x) = some r') : ((r :: t).find? fun r => r.op == k && r.fits w x) = some r' := by
  simp only [List.find?, h, Bool.false_and, hf]

theorem l_no {w x : BitVec 32} {k : BitVec 8} {r r' : PairRow} {t : List PairRow} (h : r.fits w x = false)
    (hf : (t.find? fun r => r.op == k && r.fits w x) = some r') : ((r :: t).find? fun r => r.op == k && r.fits w x) = some r' := by
  simp only [List.find?, h, Bool.and_false, hf]

theorem l_hit {w x : BitVec 32} {k : BitVec 8} {r : PairRow} {t : List PairRow} (h : (r.op == k) = true)
    (hf : r.fits w x = true) : ((r :: t).find? fun r => r.op == k && r.fits w x) = some r := by
  simp only [List.find?, h, hf, Bool.and_self]

theorem csrOp (op : BitVec 2) (h : op.toNat ≤ 2) : op = 0#2 ∨ op = 1#2 ∨ op = 2#2 := by
  revert op; decide

theorem own_none (h : CHdr) (op : BitVec 2) (a : BitVec 5) (r : BitVec 12) (hr : ownRow r = false) : ownRowOf h op a r = none := by
  have e : ∀ r : BitVec 12, ownRow r = false →
      (r.extractLsb' 0 12 == 273#12 || r.extractLsb' 0 12 == 272#12 || r.extractLsb' 4 8 == 1#8 || r.extractLsb' 3 9 == 4#9 ||
       r.extractLsb' 0 12 == 274#12 || r.extractLsb' 0 12 == 275#12 || r.extractLsb' 0 12 == 10#12 ||
       (r.extractLsb' 6 6 == 6#6 && r.extractLsb' 4 2 != 3#2) || r.extractLsb' 0 12 == 80#12 || r.extractLsb' 0 12 == 8#12 ||
       r.extractLsb' 0 12 == 9#12 || r.extractLsb' 1 11 == 140#11) = false := by decide +kernel
  have x := e r hr
  simp only [Bool.or_eq_false_iff] at x
  obtain ⟨⟨⟨⟨⟨⟨⟨⟨⟨⟨⟨h1, h2⟩, h3⟩, h4⟩, h5⟩, h6⟩, h7⟩, h8⟩, h9⟩, h10⟩, h11⟩, h12⟩ := x
  simp only [ownRowOf, h1, h2, h3, h4, h5, h6, h7, h8, h9, h10, h11, h12, Bool.false_eq_true, if_false]

theorem own_tshapeWrite {h : CHdr} {op : BitVec 2} {a : BitVec 5} {k : BitVec 4} : ownRowOf h op a (1#8 ++ k) = some (.tshapeWrite h op a k) := by
  have e : ∀ k : BitVec 4, ((1#8 ++ k).extractLsb' 0 12 == 273#12 || (1#8 ++ k).extractLsb' 0 12 == 272#12) = false := by decide
  have x := e k
  simp only [Bool.or_eq_false_iff] at x
  have y : (1#8 ++ k).extractLsb' 4 8 = 1#8 := by simp (disch := decide) only [ext_hi, ext_lo, ext_all, Nat.reduceSub]
  have z : (1#8 ++ k).extractLsb' 0 4 = k := by simp (disch := decide) only [ext_hi, ext_lo, ext_all, Nat.reduceSub]
  unfold ownRowOf
  rw [x.1, x.2, y, z]
  rfl

theorem own_adWrite {h : CHdr} {op : BitVec 2} {a : BitVec 5} {k : BitVec 3} : ownRowOf h op a (4#9 ++ k) = some (.adWrite h op a k) := by
  have e : ∀ k : BitVec 3, ((4#9 ++ k).extractLsb' 0 12 == 273#12 || (4#9 ++ k).extractLsb' 0 12 == 272#12 ||
      (4#9 ++ k).extractLsb' 4 8 == 1#8) = false := by decide
  have x := e k
  simp only [Bool.or_eq_false_iff] at x
  have y : (4#9 ++ k).extractLsb' 3 9 = 4#9 := by simp (disch := decide) only [ext_hi, ext_lo, ext_all, Nat.reduceSub]
  have z : (4#9 ++ k).extractLsb' 0 3 = k := by simp (disch := decide) only [ext_hi, ext_lo, ext_all, Nat.reduceSub]
  unfold ownRowOf
  rw [x.1.1, x.1.2, x.2, y, z]
  rfl

theorem own_extentWrite {h : CHdr} {op q : BitVec 2} {a : BitVec 5} {t : BitVec 2} {k : BitVec 4} (hw : Instr.wf (.extentWrite h q a t k) = true) :
    ownRowOf h op a (6#6 ++ t ++ k) = some (.extentWrite h op a t k) := by
  have ht : t.toNat ≤ 2 := by simp [Instr.wf] at hw; exact hw.2
  have e : ∀ (t : BitVec 2) (k : BitVec 4), t.toNat ≤ 2 → ((6#6 ++ t ++ k).extractLsb' 0 12 == 273#12 || (6#6 ++ t ++ k).extractLsb' 0 12 == 272#12 ||
      (6#6 ++ t ++ k).extractLsb' 4 8 == 1#8 || (6#6 ++ t ++ k).extractLsb' 3 9 == 4#9 || (6#6 ++ t ++ k).extractLsb' 0 12 == 274#12 ||
      (6#6 ++ t ++ k).extractLsb' 0 12 == 275#12 || (6#6 ++ t ++ k).extractLsb' 0 12 == 10#12) = false := by decide
  have f : ∀ t : BitVec 2, t.toNat ≤ 2 → (t != 3#2) = true := by decide
  have x := e t k ht
  simp only [Bool.or_eq_false_iff] at x
  obtain ⟨⟨⟨⟨⟨⟨x1, x2⟩, x3⟩, x4⟩, x5⟩, x6⟩, x7⟩ := x
  have y : (6#6 ++ t ++ k).extractLsb' 6 6 = 6#6 := by simp (disch := decide) only [ext_hi, ext_lo, ext_all, Nat.reduceSub]
  have z : (6#6 ++ t ++ k).extractLsb' 0 4 = k := by simp (disch := decide) only [ext_hi, ext_lo, ext_all, Nat.reduceSub]
  have u : (6#6 ++ t ++ k).extractLsb' 4 2 = t := by simp (disch := decide) only [ext_hi, ext_lo, ext_all, Nat.reduceSub]
  unfold ownRowOf
  rw [x1, x2, x3, x4, x5, x6, x7, y, z, u, f t ht]
  rfl

theorem own_capkeyWrite {h : CHdr} {op : BitVec 2} {a : BitVec 5} {hi : Bool} : ownRowOf h op a (140#11 ++ BitVec.ofBool hi) = some (.capkeyWrite h op a hi) := by
  cases hi <;> rfl

end Sys2Proof.Enc
end

