-- ==== Sys2Proof/Laws/Integer.lean ====
section
/-!
SUPPORT. The number readings of a register are those of bit vectors, and what the scalar instructions of one result write.
-/

namespace Sys2Proof.Machine

open Sys2Proof

theorem signedOf_ofNat (n : Nat) (h : 0 < n) (x : Nat) : signedOf n x = (BitVec.ofNat n x).toInt := by
  obtain ⟨m, rfl⟩ : ∃ m, n = m + 1 := ⟨n - 1, by omega⟩
  simp only [signedOf, BitVec.toInt_eq_toNat_cond, BitVec.toNat_ofNat, Nat.add_sub_cancel]

theorem widen_eq (n : Nat) (h : 0 < n) (x : Int) : widen n x = (BitVec.ofInt n x).signExtend 64 := by
  rw [widen, signedOf_ofNat n h, BitVec.signExtend]
  congr 2
  apply BitVec.eq_of_toNat_eq
  simp only [patternOf, BitVec.toNat_ofInt, BitVec.toNat_ofNat, Nat.cast_pow, Nat.cast_ofNat]
  have h1 := Int.emod_lt_of_pos x (b := 2 ^ n) (by positivity)
  have h0 := Int.emod_nonneg x (b := 2 ^ n) (by positivity)
  refine Nat.mod_eq_of_lt ?_
  zify
  omega

@[simp] theorem widen_64 (x : Int) : widen 64 x = BitVec.ofInt 64 x := by
  rw [widen_eq 64 (by decide), BitVec.signExtend_eq]

@[simp] theorem widen_32 (x : Int) : widen 32 x = (BitVec.ofInt 32 x).signExtend 64 := widen_eq 32 (by decide) x

@[simp] theorem sval_64 (x : Word) : sval 64 x = x.toInt := by simp [sval, signedOf_ofNat]

@[simp] theorem sval_32 (x : Word) : sval 32 x = (x.truncate 32).toInt := by
  simp [sval, signedOf_ofNat, BitVec.truncate]

@[simp] theorem uval_64 (x : Word) : uval 64 x = x.toNat := by
  simp [uval, Nat.mod_eq_of_lt x.isLt]

@[simp] theorem uval_32 (x : Word) : uval 32 x = (x.truncate 32).toNat := by simp [uval]

theorem opAlu_wrote (h : AHdr) (d : BitVec 5) (n : Nat) (f : Ctx → Word) (s : State) (hf : s.freeA h 1 = true) :
    runOne (opAlu h d n f) s = .next (s.wrote (.s (regOf h.s d)) (f s.begun.c) n) :=
  runOne_wrote _ s _ _ _ (fun _ => rfl) (fun _ => rfl) rfl rfl rfl rfl rfl rfl (fun _ => rfl) (fun _ => rfl) (fun _ => rfl) rfl rfl hf

theorem at_eq (w : BitVec 3) (n : Nat → Word → Word → Int) (f : Word → Word → Word) (g : BitVec 32 → BitVec 32 → BitVec 32) (u v : Word)
   (h1 : BitVec.ofInt 64 (n 64 u v) = f u v) (h2 : BitVec.ofInt 32 (n 32 u v) = g (u.truncate 32) (v.truncate 32)) :
   widen (iwBits w) (n (iwBits w) u v) = atWidth w f g u v := by
  unfold iwBits atWidth
  split
  · rw [widen_64, h1]
  · rw [widen_32, h2]

theorem ofInt_toInt_add {n} (a b : BitVec n) : BitVec.ofInt n (a.toInt + b.toInt) = a + b := by
  apply BitVec.eq_of_toInt_eq; simp

theorem mulh_eq (u v : Word) : BitVec.ofInt 64 ((u.toInt * v.toInt) / 2 ^ 64) = (u.signExtend 128 * v.signExtend 128).extractLsb' 64 64 := by
  have e : u.signExtend 128 * v.signExtend 128 = BitVec.ofInt 128 (u.toInt * v.toInt) := by
    rw [BitVec.signExtend, BitVec.signExtend, BitVec.ofInt_mul]
  rw [e]
  apply BitVec.eq_of_toNat_eq
  rw [BitVec.extractLsb'_toNat, BitVec.toNat_ofInt, BitVec.toNat_ofInt, Nat.shiftRight_eq_div_pow]
  generalize u.toInt * v.toInt = p
  zify
  rw [Int.toNat_of_nonneg (Int.emod_nonneg _ (by norm_num)), Int.toNat_of_nonneg (Int.emod_nonneg _ (by norm_num))]
  norm_num
  omega

theorem mulhu_eq (u v : Word) : BitVec.ofNat 64 ((u.toNat * v.toNat) / 2 ^ 64) = (u.zeroExtend 128 * v.zeroExtend 128).extractLsb' 64 64 := by
  apply BitVec.eq_of_toNat_eq
  rw [BitVec.extractLsb'_toNat, BitVec.toNat_mul, BitVec.toNat_ofNat, Nat.shiftRight_eq_div_pow]
  have hu := u.isLt
  have hv := v.isLt
  rw [BitVec.toNat_setWidth, BitVec.toNat_setWidth, Nat.mod_eq_of_lt (a := u.toNat) (by omega), Nat.mod_eq_of_lt (a := v.toNat) (by omega)]
  have : u.toNat * v.toNat < 2 ^ 128 := by nlinarith
  rw [Nat.mod_eq_of_lt this]

theorem toInt_eq_neg {n} (q : BitVec n) : q.toInt = 0 ↔ q = 0 := by
  constructor
  · intro h; apply BitVec.eq_of_toInt_eq; simpa using h
  · rintro rfl; simp

theorem div_eq {n} (p q : BitVec n) : BitVec.ofInt n (divS p.toInt q.toInt) = if q = 0 then -1 else p.sdiv q := by
  unfold divS
  by_cases h : q = 0
  · subst h; simp [BitVec.ofInt_neg]
  · rw [if_neg h, if_neg (fun e => h ((toInt_eq_neg q).1 e))]
    apply BitVec.eq_of_toInt_eq
    rw [BitVec.toInt_sdiv, BitVec.toInt_ofInt]

theorem rem_eq {n} (p q : BitVec n) : BitVec.ofInt n (remS p.toInt q.toInt) = if q = 0 then p else p.srem q := by
  unfold remS
  by_cases h : q = 0
  · subst h; simp
  · rw [if_neg h, if_neg (fun e => h ((toInt_eq_neg q).1 e))]
    apply BitVec.eq_of_toInt_eq
    rw [BitVec.toInt_srem, BitVec.toInt_ofInt, ← BitVec.toInt_srem, BitVec.toInt_bmod_cancel]

theorem toNat_eq_z {n} (q : BitVec n) : q.toNat = 0 ↔ q = 0 := by
  constructor
  · intro h; apply BitVec.eq_of_toNat_eq; simpa using h
  · rintro rfl; simp

theorem divu_eq {n} (p q : BitVec n) : BitVec.ofInt n (divU p.toNat q.toNat) = if q = 0 then -1 else p / q := by
  unfold divU
  by_cases h : q = 0
  · subst h; simp [BitVec.ofInt_neg]
  · rw [if_neg h, if_neg (fun e => h ((toNat_eq_z q).1 e))]
    apply BitVec.eq_of_toNat_eq
    simp only [BitVec.ofInt_natCast, BitVec.toNat_ofNat, BitVec.toNat_udiv]
    refine Nat.mod_eq_of_lt (lt_of_le_of_lt (Nat.div_le_self _ _) p.isLt)

theorem remu_eq {n} (p q : BitVec n) : BitVec.ofInt n (remU p.toNat q.toNat) = if q = 0 then p else p % q := by
  unfold remU
  by_cases h : q = 0
  · subst h; simp
  · rw [if_neg h, if_neg (fun e => h ((toNat_eq_z q).1 e))]
    apply BitVec.eq_of_toNat_eq
    simp only [BitVec.ofInt_natCast, BitVec.toNat_ofNat, BitVec.toNat_umod]
    refine Nat.mod_eq_of_lt (lt_of_le_of_lt (Nat.mod_le _ _) p.isLt)

theorem shl_eq64 (p : Word) (k : Nat) : BitVec.ofInt 64 (shlOf 64 p k) = p <<< k := by
  apply BitVec.eq_of_toNat_eq
  simp only [shlOf, uval_64, BitVec.ofInt_natCast, BitVec.toNat_ofNat, BitVec.toNat_shiftLeft, Nat.shiftLeft_eq]

theorem shl_eq32 (p : Word) (k : Nat) : BitVec.ofInt 32 (shlOf 32 p k) = (p.truncate 32 : BitVec 32) <<< k := by
  apply BitVec.eq_of_toNat_eq
  simp only [shlOf, uval_32, BitVec.ofInt_natCast, BitVec.toNat_ofNat, BitVec.toNat_shiftLeft, Nat.shiftLeft_eq]

theorem shr_eq64 (p : Word) (k : Nat) : BitVec.ofInt 64 (shrOf 64 p k) = p >>> k := by
  apply BitVec.eq_of_toNat_eq
  simp only [shrOf, uval_64, BitVec.ofInt_natCast, BitVec.toNat_ofNat, BitVec.toNat_ushiftRight, Nat.shiftRight_eq_div_pow]
  exact Nat.mod_eq_of_lt (lt_of_le_of_lt (Nat.div_le_self _ _) p.isLt)

theorem shr_eq32 (p : Word) (k : Nat) : BitVec.ofInt 32 (shrOf 32 p k) = (p.truncate 32 : BitVec 32) >>> k := by
  apply BitVec.eq_of_toNat_eq
  simp only [shrOf, uval_32, BitVec.ofInt_natCast, BitVec.toNat_ofNat, BitVec.toNat_ushiftRight, Nat.shiftRight_eq_div_pow]
  exact Nat.mod_eq_of_lt (lt_of_le_of_lt (Nat.div_le_self _ _) (p.truncate 32).isLt)

theorem sar_eq64 (p : Word) (k : Nat) : BitVec.ofInt 64 (sarOf 64 p k) = p.sshiftRight k := by
  simp [sarOf, BitVec.sshiftRight, Int.shiftRight_eq_div_pow]

theorem sar_eq32 (p : Word) (k : Nat) : BitVec.ofInt 32 (sarOf 32 p k) = (p.truncate 32 : BitVec 32).sshiftRight k := by
  simp only [sarOf, sval_32, BitVec.sshiftRight, Int.shiftRight_eq_div_pow]; norm_cast

theorem rol_nat (n k : Nat) (hk : k < n) (p : BitVec n) : BitVec.ofInt n ((p.toNat * 2 ^ k + p.toNat / 2 ^ (n - k) : Nat) : Int) = p.rotateLeft k := by
  rw [BitVec.ofInt_natCast, BitVec.rotateLeft_def, Nat.mod_eq_of_lt hk]
  have e : BitVec.ofNat n (p.toNat * 2 ^ k + p.toNat / 2 ^ (n - k)) = (p <<< k) + (p >>> (n - k)) := by
    apply BitVec.eq_of_toNat_eq
    simp only [BitVec.toNat_ofNat, BitVec.toNat_add, BitVec.toNat_shiftLeft, BitVec.toNat_ushiftRight, Nat.shiftLeft_eq, Nat.shiftRight_eq_div_pow]
    rw [Nat.mod_add_mod]
  rw [e, BitVec.add_eq_or_of_and_eq_zero]
  ext i hi
  simp
  intro h1 h2
  rw [BitVec.getLsbD_of_ge]
  omega

theorem lt_two_pow (w : Nat) : w < 2 ^ w := Nat.lt_two_pow_self

theorem clzAux_eq (w : Nat) (p : BitVec w) (k : Nat) (h : k < w) : (p.clzAuxRec k).toNat = w - 1 - k + clzOf (k + 1) p.toNat := by
  have hw := lt_two_pow w
  induction k with
  | zero =>
    simp only [BitVec.clzAuxRec, clzOf, BitVec.getLsbD]
    split <;> simp only [BitVec.toNat_ofNat] <;> (rw [Nat.mod_eq_of_lt (by omega)]; omega)
  | succ k ih =>
    rw [BitVec.clzAuxRec, clzOf, BitVec.getLsbD]
    split
    · simp only [BitVec.toNat_ofNat]; rw [Nat.mod_eq_of_lt (by omega)]; omega
    · rw [ih (by omega)]; omega

theorem clz_eq (n : Nat) (hn : 0 < n) (p : BitVec n) : clzOf n p.toNat = p.clz.toNat := by
  rw [BitVec.clz, clzAux_eq n p (n - 1) (by omega)]
  rw [show n - 1 + 1 = n by omega]; omega

theorem ctzAux_eq (w : Nat) (p : BitVec w) (k : Nat) (h : k < w) : (p.reverse.clzAuxRec k).toNat = w - 1 - k + ctzOf (k + 1) (p.toNat / 2 ^ (w - 1 - k)) := by
  have hw := lt_two_pow w
  have bit : ∀ j, j < w → p.reverse.getLsbD j = decide (p.toNat / 2 ^ (w - 1 - j) % 2 = 1) := by
    intro j hj
    rw [BitVec.getLsbD_reverse, BitVec.getMsbD_eq_getLsbD, BitVec.getLsbD, Nat.testBit_eq_decide_div_mod_eq]
    simp [hj]
  induction k with
  | zero =>
    simp only [BitVec.clzAuxRec, ctzOf, bit 0 h]
    split <;> rename_i h1 <;> simp only [decide_eq_true_eq, Nat.sub_zero] at h1 <;> simp only [BitVec.toNat_ofNat, h1, Nat.sub_zero, ↓reduceIte] <;> (rw [Nat.mod_eq_of_lt (by omega)]; omega)
  | succ k ih =>
    rw [BitVec.clzAuxRec, ctzOf, bit _ h]
    split <;> rename_i h1 <;> simp only [decide_eq_true_eq] at h1
    · simp only [BitVec.toNat_ofNat, h1, ↓reduceIte]; rw [Nat.mod_eq_of_lt (by omega)]; omega
    · rw [if_neg h1, ih (by omega), Nat.div_div_eq_div_mul, ← Nat.pow_succ]
      rw [show (w - 1 - (k + 1)).succ = w - 1 - k by omega]; omega

theorem ctz_eq (n : Nat) (hn : 0 < n) (p : BitVec n) : ctzOf n p.toNat = p.ctz.toNat := by
  rw [BitVec.ctz, BitVec.clz, ctzAux_eq n p (n - 1) (by omega)]
  rw [show n - 1 + 1 = n by omega, show n - 1 - (n - 1) = 0 by omega]; simp

theorem clzOf_le (n x : Nat) : clzOf n x ≤ n := by
  induction n with
  | zero => simp [clzOf]
  | succ k ih => rw [clzOf]; split <;> omega

theorem ctzOf_le (n x : Nat) : ctzOf n x ≤ n := by
  induction n generalizing x with
  | zero => simp [ctzOf]
  | succ k ih => rw [ctzOf]; have := ih (x / 2); split <;> omega

theorem popOf_le (n x : Nat) : popOf n x ≤ n := by
  induction n generalizing x with
  | zero => simp [popOf]
  | succ k ih => rw [popOf]; have := ih (x / 2); omega

theorem small32 (m : Nat) (h : m ≤ 32) : (BitVec.ofInt 32 (m : Int)).signExtend 64 = BitVec.ofNat 64 m := by
  rw [BitVec.ofInt_natCast]; interval_cases m <;> rfl

theorem popOf_eq (n : Nat) (x : Nat) : popOf n x = (List.range n).countP fun j => x.testBit j := by
  induction n generalizing x with
  | zero => rfl
  | succ k ih =>
    rw [popOf, ih, List.range_succ_eq_map, List.countP_cons, List.countP_map]
    have : ((fun j => x.testBit j) ∘ Nat.succ) = fun j => (x / 2).testBit j := by
      funext j; simp [Nat.testBit_succ]
    rw [this]
    have h : (if x.testBit 0 = true then 1 else 0) = x % 2 := by
      rw [Nat.testBit_zero]; rcases Nat.mod_two_eq_zero_or_one x with h | h <;> simp [h]
    rw [h]; omega

theorem bfx_bits (a b : Word) (j : Nat) (hj : j < 64) :
    (bfxOf a b).getLsbD j = if j < min (b.toNat / 256 % 128) 64 then a.getLsbD (b.toNat % 64 + j)
      else b.getLsbD 15 && decide (min (b.toNat / 256 % 128) 64 ≠ 0) && a.getLsbD (b.toNat % 64 + min (b.toNat / 256 % 128) 64 - 1) := by
  have hp : field b 0 6 = b.toNat % 64 := by simp [field]
  have hl : bfLen b = min (b.toNat / 256 % 128) 64 := by simp [bfLen, field, Nat.shiftRight_eq_div_pow]
  simp only [bfxOf, hp, hl]
  generalize min (b.toNat / 256 % 128) 64 = n at *
  have hn : n ≤ 64 := by rw [← hl]; exact min_le_right _ _
  generalize b.toNat % 64 = q
  split
  · rename_i h1
    rw [signedOf_ofNat n (by omega), ← BitVec.signExtend, BitVec.getLsbD_signExtend]
    have : ∀ i, (BitVec.ofNat n ((a.toNat >>> q) % 2 ^ n)).getLsbD i = (decide (i < n) && a.getLsbD (q + i)) := by
      intro i
      rw [BitVec.getLsbD_ofNat, Nat.testBit_mod_two_pow, Nat.testBit_shiftRight]
      cases decide (i < n) <;> simp [BitVec.getLsbD]
    rw [this, BitVec.msb_eq_getLsbD_last, this]
    simp only [hj, decide_true, Bool.true_and, h1.1]
    split
    · rename_i h2; simp [h2]
    · have : n - 1 < n := by omega
      simp [this, h1.2]
      congr 1; omega
  · rename_i h1
    rw [BitVec.getLsbD_ofNat, Nat.testBit_mod_two_pow, Nat.testBit_shiftRight]
    simp only [hj, decide_true, Bool.true_and]
    split
    · rename_i h2; simp [h2, BitVec.getLsbD]
    · rename_i h2
      by_cases h3 : b.getLsbD 15 = true
      · have : n = 0 := by by_contra h4; exact h1 ⟨h3, h4⟩
        simp [this]
      · simp only [Bool.not_eq_true] at h3; simp only [h2, h3, decide_false, Bool.false_and]

theorem bfi_bits (a b d : Word) (j : Nat) (hj : j < 64) :
    (bfiOf a b d).getLsbD j = if b.toNat % 64 ≤ j ∧ j < b.toNat % 64 + min (b.toNat / 256 % 128) 64 then a.getLsbD (j - b.toNat % 64) else d.getLsbD j := by
  have hp : field b 0 6 = b.toNat % 64 := by simp [field]
  have hl : bfLen b = min (b.toNat / 256 % 128) 64 := by simp [bfLen, field, Nat.shiftRight_eq_div_pow]
  simp only [bfiOf, hp, hl]
  generalize min (b.toNat / 256 % 128) 64 = n at *
  generalize b.toNat % 64 = q
  have m : (BitVec.ofNat 64 ((2 ^ n - 1) <<< q)).getLsbD j = decide (q ≤ j ∧ j < q + n) := by
    rw [BitVec.getLsbD_ofNat, Nat.testBit_shiftLeft, Nat.testBit_two_pow_sub_one]
    simp only [hj, decide_true, Bool.true_and]
    by_cases h : q ≤ j <;> simp [h]; omega
  rw [BitVec.getLsbD_or, BitVec.getLsbD_and, BitVec.getLsbD_and, BitVec.getLsbD_not, m, BitVec.getLsbD_shiftLeft]
  by_cases h : q ≤ j ∧ j < q + n
  · simp [h, hj]
  · simp [h, hj]

theorem min_eq {n} (p q : BitVec n) : BitVec.ofInt n (min p.toInt q.toInt) = if p.slt q then p else q := by
  simp only [BitVec.slt, decide_eq_true_eq]
  split
  · rw [min_eq_left (by omega)]; simp
  · rw [min_eq_right (by omega)]; simp

theorem max_eq {n} (p q : BitVec n) : BitVec.ofInt n (max p.toInt q.toInt) = if p.slt q then q else p := by
  simp only [BitVec.slt, decide_eq_true_eq]
  split
  · rw [max_eq_right (by omega)]; simp
  · rw [max_eq_left (by omega)]; simp

theorem minu_eq {n} (p q : BitVec n) : BitVec.ofInt n ((min p.toNat q.toNat : Nat) : Int) = if p < q then p else q := by
  rw [BitVec.ofInt_natCast]; simp only [BitVec.lt_def]
  split
  · rw [Nat.min_eq_left (by omega)]; simp
  · rw [Nat.min_eq_right (by omega)]; simp

theorem maxu_eq {n} (p q : BitVec n) : BitVec.ofInt n ((max p.toNat q.toNat : Nat) : Int) = if p < q then q else p := by
  rw [BitVec.ofInt_natCast]; simp only [BitVec.lt_def]
  split
  · rw [Nat.max_eq_right (by omega)]; simp
  · rw [Nat.max_eq_left (by omega)]; simp

theorem opPred_wrote (h : AHdr) (d : BitVec 4) (n : Nat) (f : Ctx → Bool) (s : State) (hf : s.freeA h 1 = true) :
    runOne (opPred h d n f) s = .next (s.wrote (.p (predOf h.s d)) (BitVec.ofNat 64 (f s.begun.c).toNat) n) :=
  runOne_wrote _ s _ _ _ (fun _ => rfl) (fun _ => rfl) rfl rfl rfl rfl rfl rfl (fun _ => rfl) (fun _ => rfl) (fun _ => rfl) rfl rfl hf

/-- An instruction of slot A0 or A1 with results, and an effect that changes nothing else of the context's registers at once. -/
theorem opA_issued (h : AHdr) (ds : List Dest) (e : State → State) (s : State) (hf : s.freeA h ds.length = true) :
    runOne { opA h with dests := ds, eff := e } s = .next (s.ended (e s.begun) none) := by
  obtain ⟨h1, h2⟩ := Op.ready_of_free { opA h with dests := ds, eff := e } s (fun _ => rfl) (fun _ => rfl) rfl rfl rfl rfl rfl rfl hf
  rw [runOne_ready _ s h1 rfl]
  simp only [Op.issued, h2]
  rfl

theorem opRounded_issued (h : AHdr) (d : BitVec 5) (rm : BitVec 3) (steps : Bool) (f : BitVec 32 → Ctx → Word) (s : State) (hf : s.freeA h 1 = true) :
    runOne (opRounded h d rm steps f) s =
      .next (s.ended ((s.begun.result (.s (regOf h.s d)) (f s.begun.r.lfsr s.begun.c) 4).stepLfsr (if steps then rm else 0)) none) :=
  opA_issued h [.s (regOf h.s d)] _ s hf

theorem condOf_eq (c : BitVec 4) (p q : Word) : cmpCond c p q = condOf c p q := by
  have hs : ∀ x : Word, signedOf 64 x.toNat = x.toInt := sval_64
  simp only [cmpCond, intCond, condOf, hs]
  generalize c.toNat = k
  rcases k with _ | _ | _ | _ | _ | _ | _ | _ | _ | k <;> simp only [BitVec.slt, BitVec.sle, BitVec.lt_def, BitVec.le_def]
  · rw [Bool.eq_iff_iff]; simp [BitVec.toNat_eq]
  · rw [Bool.eq_iff_iff]; simp [BitVec.toNat_eq]

theorem ptrAdd_eq (u : Word) (n : Int) : ptrAdd u n = u.extractLsb' 48 16 ++ (u.extractLsb' 0 48 + BitVec.ofInt 48 n) := by
  simp only [ptrAdd, ptrOff, field]
  congr 1
  rw [BitVec.ofInt_add]
  congr 1
  apply BitVec.eq_of_toNat_eq
  rw [BitVec.ofInt_natCast]
  simp

end Sys2Proof.Machine
end

