-- ==== Sys2Proof/Laws/Memory.lean ====
section
/-!
SUPPORT. The laws of memory: reading back what was written, what a write leaves alone, and that every memory operation keeps the canonical form.
-/

namespace Sys2Proof.Machine

open Sys2Proof

/-! ### One byte -/

theorem memGet_low (u : List Host.Cell) (j : Nat) (h : memWfFrom (some j) u = true) (x : Nat) (hx : x ≤ j) : memGet u x = 0 := by
  induction u generalizing j with
  | nil => rfl
  | cons d u ih =>
    obtain ⟨k, b⟩ := d
    simp [memWfFrom] at h
    have : k ≠ x := by omega
    simp only [memGet, this, if_false]
    exact ih k h.2 (by omega)

theorem memGet_memSet_same (m : List Host.Cell) (a : Nat) (v : Byte) (lo : Option Nat) (h : memWfFrom lo m = true) :
    memGet (memSet m a v) a = v := by
  induction m generalizing lo with
  | nil => by_cases hv : v = 0#8 <;> simp [memSet, memGet, hv]
  | cons c t ih =>
    obtain ⟨k, b⟩ := c
    have ht : memWfFrom (some k) t = true := by simp [memWfFrom] at h; exact h.2
    by_cases h1 : a < k
    · by_cases hv : v = 0#8
      · have : k ≠ a := by omega
        subst hv
        simpa [memSet, h1, memGet, this] using memGet_low t k ht a (by omega)
      · simp [memSet, h1, hv, memGet]
    · by_cases h2 : a = k
      · subst h2
        by_cases hv : v = 0#8
        · subst hv
          simpa [memSet] using memGet_low t a ht a (Nat.le_refl a)
        · simp [memSet, hv, memGet]
      · have : k ≠ a := fun e => h2 e.symm
        simp only [memSet, h1, h2, if_false, memGet, this]
        exact ih (some k) ht

theorem memGet_memSet_other (m : List Host.Cell) (a x : Nat) (v : Byte) (lo : Option Nat) (h : memWfFrom lo m = true) (hx : x ≠ a) :
    memGet (memSet m a v) x = memGet m x := by
  induction m generalizing lo with
  | nil => by_cases hv : v = 0#8 <;> simp [memSet, memGet, hv, Ne.symm hx]
  | cons c t ih =>
    obtain ⟨k, b⟩ := c
    have ht : memWfFrom (some k) t = true := by simp [memWfFrom] at h; exact h.2
    by_cases h1 : a < k
    · by_cases hv : v = 0#8
      · simp [memSet, h1, hv]
      · simp [memSet, h1, hv, memGet, Ne.symm hx]
    · by_cases h2 : a = k
      · subst h2
        by_cases hv : v = 0#8
        · simp [memSet, hv, memGet, Ne.symm hx]
        · simp [memSet, hv, memGet, Ne.symm hx]
      · simp only [memSet, h1, h2, if_false, memGet]
        rw [ih (some k) ht]

theorem memWfFrom_memSet (m : List Host.Cell) (a : Nat) (v : Byte) (lo : Option Nat) (h : memWfFrom lo m = true)
    (ha : ∀ l, lo = some l → l < a) : memWfFrom lo (memSet m a v) = true := by
  induction m generalizing lo with
  | nil =>
    by_cases hv : v = 0#8
    · simp [memSet, hv, memWfFrom]
    · cases lo <;> simp_all [memSet, memWfFrom]
  | cons c t ih =>
    obtain ⟨k, b⟩ := c
    simp only [memWfFrom, Bool.and_eq_true] at h
    obtain ⟨⟨h0, hb⟩, ht⟩ := h
    by_cases h1 : a < k
    · by_cases hv : v = 0#8
      · simp [memSet, h1, hv, memWfFrom, h0, ht]; simpa using hb
      · cases lo <;> simp_all [memSet, memWfFrom]
    · by_cases h2 : a = k
      · subst h2
        by_cases hv : v = 0#8
        · have e : memSet ((a, b) :: t) a v = t := by simp [memSet, hv]
          rw [e]
          cases t with
          | nil => rfl
          | cons d u =>
            obtain ⟨k', b'⟩ := d
            simp only [memWfFrom, Bool.and_eq_true, decide_eq_true_eq] at ht ⊢
            refine ⟨⟨?_, ht.1.2⟩, ht.2⟩
            cases lo with
            | none => rfl
            | some l => simpa using Nat.lt_trans (ha l rfl) ht.1.1
        · simp [memSet, hv, memWfFrom, ht]
          cases lo with
          | none => rfl
          | some l => simpa using ha l rfl
      · simp only [memSet, h1, h2, if_false, memWfFrom, Bool.and_eq_true]
        exact ⟨⟨h0, hb⟩, ih (some k) ht (by intro l e; cases e; omega)⟩

/-- Writing a byte keeps the canonical form. -/
theorem Memory.wf_memSet (m : List Host.Cell) (a : Nat) (v : Byte) (h : Memory.wf m = true) : Memory.wf (memSet m a v) = true :=
  memWfFrom_memSet m a v none h (by intro l e; cases e)

/-! ### Several bytes -/

/-- Writing bytes keeps the canonical form. -/
theorem Memory.wf_memPut (l : List Byte) (m : List Host.Cell) (a : Nat) (h : Memory.wf m = true) : Memory.wf (memPut m a l) = true := by
  induction l generalizing m a with
  | nil => exact h
  | cons b t ih => exact ih _ _ (Memory.wf_memSet m a b h)

/-- A byte outside the bytes written reads as before. -/
theorem memGet_memPut_other (l : List Byte) (m : List Host.Cell) (a x : Nat) (h : Memory.wf m = true) (hx : x < a ∨ a + l.length ≤ x) :
    memGet (memPut m a l) x = memGet m x := by
  induction l generalizing m a with
  | nil => rfl
  | cons b t ih =>
    simp only [List.length_cons] at hx
    show memGet (memPut (memSet m a b) (a + 1) t) x = memGet m x
    rw [ih _ _ (Memory.wf_memSet m a b h) (by omega)]
    exact memGet_memSet_other m a x b none h (by omega)

/-- A byte among the bytes written reads as written. -/
theorem memGet_memPut_at (l : List Byte) (m : List Host.Cell) (a i : Nat) (h : Memory.wf m = true) (hi : i < l.length) :
    memGet (memPut m a l) (a + i) = l[i] := by
  induction l generalizing m a i with
  | nil => exact absurd hi (Nat.not_lt_zero i)
  | cons b t ih =>
    show memGet (memPut (memSet m a b) (a + 1) t) (a + i) = (b :: t)[i]
    cases i with
    | zero =>
      rw [memGet_memPut_other t _ _ _ (Memory.wf_memSet m a b h) (by omega)]
      exact memGet_memSet_same m a b none h
    | succ j =>
      have := ih (memSet m a b) (a + 1) j (Memory.wf_memSet m a b h) (by simpa using hi)
      rw [show a + (j + 1) = a + 1 + j by omega, this]
      rfl

/-- The bytes read back are those written. -/
theorem memBytes_memPut (l : List Byte) (m : List Host.Cell) (a : Nat) (h : Memory.wf m = true) : memBytes (memPut m a l) a l.length = l := by
  induction l generalizing m a with
  | nil => rfl
  | cons b t ih =>
    have e : memGet (memPut (memSet m a b) (a + 1) t) a = b := by
      rw [memGet_memPut_other t _ _ _ (Memory.wf_memSet m a b h) (by omega)]
      exact memGet_memSet_same m a b none h
    show memGet (memPut (memSet m a b) (a + 1) t) a :: memBytes (memPut (memSet m a b) (a + 1) t) (a + 1) t.length = b :: t
    rw [e, ih _ _ (Memory.wf_memSet m a b h)]

theorem memWfFrom_weaken (m : List Host.Cell) (lo lo' : Option Nat) (h : memWfFrom lo m = true)
    (hl : ∀ l', lo' = some l' → ∃ l, lo = some l ∧ l' ≤ l) : memWfFrom lo' m = true := by
  cases m with
  | nil => rfl
  | cons c t =>
    obtain ⟨k, b⟩ := c
    simp only [memWfFrom, Bool.and_eq_true] at h ⊢
    refine ⟨⟨?_, h.1.2⟩, h.2⟩
    cases lo' with
    | none => rfl
    | some l' =>
      obtain ⟨l, rfl, hle⟩ := hl l' rfl
      have := of_decide_eq_true h.1.1
      exact decide_eq_true (by omega)

theorem memWfFrom_filter (p : Host.Cell → Bool) (m : List Host.Cell) (lo : Option Nat) (h : memWfFrom lo m = true) :
    memWfFrom lo (m.filter p) = true := by
  induction m generalizing lo with
  | nil => rfl
  | cons c t ih =>
    obtain ⟨k, b⟩ := c
    have h' := h
    simp only [memWfFrom, Bool.and_eq_true] at h'
    by_cases hp : p (k, b) = true
    · simp only [List.filter_cons_of_pos hp, memWfFrom, Bool.and_eq_true]
      exact ⟨h'.1, ih _ h'.2⟩
    · rw [List.filter_cons_of_neg (by simpa using hp)]
      apply memWfFrom_weaken _ (some k) lo (ih _ h'.2)
      intro l' e
      subst e
      have := of_decide_eq_true h'.1.1
      exact ⟨k, rfl, by omega⟩

/-- Removing cells keeps the canonical form. -/
theorem Memory.wf_filter (p : Host.Cell → Bool) (m : List Host.Cell) (h : Memory.wf m = true) : Memory.wf (m.filter p) = true :=
  memWfFrom_filter p m none h

/-- Clearing a range keeps the canonical form. -/
theorem Memory.wf_memZero (m : List Host.Cell) (lo hi : Nat) (h : Memory.wf m = true) : Memory.wf (memZero m lo hi) = true :=
  Memory.wf_filter _ m h

end Sys2Proof.Machine
end

