-- ==== Sys2Proof/Laws/Keep.lean ====
section
/-!
SUPPORT. Both memories keep their canonical form: what the plain updates, the memory operations and every named operation of the machine keep.
-/

set_option Elab.async false
set_option linter.unusedTactic false
set_option linter.unreachableTactic false

namespace Sys2Proof.Machine

open Sys2Proof

theorem inv_modRes (s : State) (k : ResNo) (f : Res → Res) (h : s.Inv) : (s.modRes k f).Inv := h
theorem inv_modR (s : State) (f : Res → Res) (h : s.Inv) : (s.modR f).Inv := h
theorem inv_modCtx (s : State) (k : CtxNo) (f : Ctx → Ctx) (h : s.Inv) : (s.modCtx k f).Inv := h
theorem inv_modC (s : State) (f : Ctx → Ctx) (h : s.Inv) : (s.modC f).Inv := h
theorem inv_modEnv (s : State) (f : Env → Env) (h : s.Inv) : (s.modEnv f).Inv := h
theorem inv_modPkg (s : State) (f : Package → Package) (h : s.Inv) : (s.modPkg f).Inv := h
theorem inv_post (s : State) (i : Instr) (h : s.Inv) : (s.post i).Inv := h
theorem inv_after (s : State) (n : Nat) (i : Instr) (h : s.Inv) : (s.after n i).Inv := h
theorem inv_bump (s : State) (h : s.Inv) : s.bump.Inv := h
theorem inv_modCore (s : State) (f : CoreSt → CoreSt) (hf : ∀ c : CoreSt, Memory.wf c.mem = true → Memory.wf (f c).mem = true) (h : s.Inv) :
    (s.modCore f).Inv := ⟨hf _ h.1, h.2⟩
theorem inv_modMem (s : State) (f : List Host.Cell → List Host.Cell) (hf : ∀ m, Memory.wf m = true → Memory.wf (f m) = true) (h : s.Inv) :
    (s.modMem f).Inv := ⟨hf _ h.1, h.2⟩
theorem inv_mk_iff (t : State) (a : Vector Res 4) (b : ResNo) (c : CtxNo) (d : Nat) (e : Cluster) (f : Die) (g : Package) (i : Env) :
    State.Inv ⟨a, b, c, d, t.core, e, f, t.srv, g, i⟩ ↔ t.Inv := Iff.rfl

/-- A next state keeps the invariant. -/
def Outcome.Keeps (o : Host.Outcome State Fault Refusal) : Prop := ∀ t, o = .next t → t.Inv

theorem keeps_next (t : State) (h : t.Inv) : Outcome.Keeps (.next t) := by
  intro u e; cases e; exact h


theorem inv_foldl {α : Type} (f : State → α → State) (l : List α) (s : State) (hf : ∀ t a, State.Inv t → State.Inv (f t a)) (h : s.Inv) :
    (l.foldl f s).Inv := by
  induction l generalizing s with
  | nil => exact h
  | cons a t ih => exact ih _ (hf _ _ h)

theorem wf_foldl {α : Type} (f : List Host.Cell → α → List Host.Cell) (l : List α) (m : List Host.Cell)
    (hf : ∀ t a, Memory.wf t = true → Memory.wf (f t a) = true) (h : Memory.wf m = true) : Memory.wf (l.foldl f m) = true := by
  induction l generalizing m with
  | nil => exact h
  | cons a t ih => exact ih _ (hf _ _ h)

theorem core_foldl {α : Type} (f : CoreSt → α → CoreSt) (l : List α) (c : CoreSt)
    (hf : ∀ t a, Memory.wf t.mem = true → Memory.wf (f t a).mem = true) (h : Memory.wf c.mem = true) : Memory.wf (l.foldl f c).mem = true := by
  induction l generalizing c with
  | nil => exact h
  | cons a t ih => exact ih _ (hf _ _ h)

theorem inv_take {β : Type} {s t : State} {f : Arrival → Option β} {b : β} (e : s.take f = some (b, t)) (h : s.Inv) : t.Inv := by
  unfold State.take at e
  cases hx : takeArrival f s.pkg.inbox with
  | none => rw [hx] at e; cases e
  | some r => rw [hx] at e; cases e; exact h

theorem work_foldl {α : Type} (f : Work → α → Work) (l : List α) (w : Work)
    (hf : ∀ t a, Memory.wf t.1 = true → Memory.wf (f t a).1 = true) (h : Memory.wf w.1 = true) : Memory.wf (l.foldl f w).1 = true := by
  induction l generalizing w with
  | nil => exact h
  | cons a t ih => exact ih _ (hf _ _ h)

theorem inv_mk_iff2 (t : State) (v : Servers) (a : Vector Res 4) (b : ResNo) (c : CtxNo) (d : Nat) (e : Cluster) (f : Die) (g : Package) (i : Env) :
    State.Inv ⟨a, b, c, d, t.core, e, f, v, g, i⟩ ↔ Memory.wf t.core.mem = true ∧ Memory.wf v.mem = true := Iff.rfl

theorem wf_core {t : State} (h : t.Inv) : Memory.wf t.core.mem = true := h.1
theorem wf_srv {t : State} (h : t.Inv) : Memory.wf t.srv.mem = true := h.2

theorem inv_ite (p : Prop) [Decidable p] (a b : State) (ha : a.Inv) (hb : b.Inv) : (if p then a else b).Inv := by
  split
  · exact ha
  · exact hb
theorem wf_nil : Memory.wf [] = true := rfl

/-- What the three effects of an instruction keep. -/
def Op.Keeps (o : Op) : Prop := (∀ s, State.Inv s → (o.eff s).Inv) ∧ (∀ s, State.Inv s → (o.late s).Inv) ∧ (∀ s, State.Inv s → (o.ask s).Inv)

theorem mem_slotOrder {p : Placed} {ps : List Placed} (h : p ∈ slotOrder ps) : p ∈ ps := by
  simp only [slotOrder, List.mem_flatMap, inSlot, List.mem_filter] at h
  obtain ⟨_, _, h, _⟩ := h
  exact h

theorem mem_liveOps {p : Placed} {v : State} {ps : List Placed} (h : p ∈ liveOps v ps) : p ∈ ps := (List.mem_filter.mp h).1

theorem wb_foldl {α : Type} (f : Work × Bool → α → Work × Bool) (l : List α) (w : Work × Bool)
    (hf : ∀ t a, Memory.wf t.1.1 = true → Memory.wf (f t a).1.1 = true) (h : Memory.wf w.1.1 = true) : Memory.wf (l.foldl f w).1.1 = true := by
  induction l generalizing w with
  | nil => exact h
  | cons a t ih => exact ih _ (hf _ _ h)

theorem keep_eff {o : Op} {s : State} (h : o.Keeps) (hs : s.Inv) : (o.eff s).Inv := h.1 _ hs
theorem keep_late {o : Op} {s : State} (h : o.Keeps) (hs : s.Inv) : (o.late s).Inv := h.2.1 _ hs
theorem keep_ask {o : Op} {s : State} (h : o.Keeps) (hs : s.Inv) : (o.ask s).Inv := h.2.2 _ hs

theorem inv_State_noSwitch (x0 : State) (h0 : State.Inv x0) : State.Inv (State.noSwitch x0) := by
  unfold State.noSwitch
  try dsimp only
  all_goals repeat' first | with_reducible assumption | (with_reducible exact inv_take (by assumption) (by assumption)) | (with_reducible intro _ h; with_reducible exact h) | (with_reducible first | apply inv_modRes | apply inv_modCore) | (with_reducible apply inv_ite) | (with_reducible exact wf_nil) | split | simp only [inv_mk_iff] | (simp only [inv_mk_iff2]; refine ⟨?_, ?_⟩) | (with_reducible apply wf_core) | (with_reducible apply wf_srv) | with_reducible rfl | dsimp only | (with_reducible intro _ _) | (with_reducible intro _)

theorem inv_State_modTask (x0 : State) (x1 : ℕ) (x2 : Task → Task) (h0 : State.Inv x0) : State.Inv (State.modTask x0 x1 x2) := h0

theorem inv_State_applyLimits (x0 : State) (h0 : State.Inv x0) : State.Inv (State.applyLimits x0) := by
  unfold State.applyLimits
  repeat' with_reducible first | assumption | split | simp only [inv_mk_iff] | dsimp only

theorem inv_State_giveRoom (x0 : State) (x1 : Rank) (x2 : ℕ) (x3 : ℕ) (h0 : State.Inv x0) : State.Inv (State.giveRoom x0 x1 x2 x3) := h0

theorem inv_State_noteLimit (x0 : State) (h0 : State.Inv x0) : State.Inv (State.noteLimit x0) := by
  unfold State.noteLimit
  repeat' with_reducible first | assumption | apply inv_modC | split

theorem inv_State_at (x0 : State) (x1 : ResNo) (x2 : CtxNo) (h0 : State.Inv x0) : State.Inv (State.at x0 x1 x2) := h0

theorem inv_State_askLeave (x0 : State) (h0 : State.Inv x0) : State.Inv (State.askLeave x0) := by
  unfold State.askLeave
  try dsimp only
  all_goals repeat' first | with_reducible assumption | (with_reducible exact inv_take (by assumption) (by assumption)) | (with_reducible intro _ h; with_reducible exact h) | (with_reducible first | apply inv_modCore) | (with_reducible apply inv_ite) | (with_reducible exact wf_nil) | split | simp only [inv_mk_iff] | (simp only [inv_mk_iff2]; refine ⟨?_, ?_⟩) | (with_reducible apply wf_core) | (with_reducible apply wf_srv) | with_reducible rfl | dsimp only | (with_reducible intro _ _) | (with_reducible intro _)

theorem inv_State_as (x0 : State) (x1 : ResNo) (x2 : State → State) (h0 : State.Inv x0) (hf : ∀ s, State.Inv s → (x2 s).Inv) : State.Inv (State.as x0 x1 x2) := hf _ h0

theorem inv_State_enqueueEvent (x0 : State) (x1 : ResNo) (x2 : EventRec) (h0 : State.Inv x0) : State.Inv (State.enqueueEvent x0 x1 x2) := h0

theorem inv_CoreSt_emptyBits (x0 : CoreSt) (x1 : Place) (h0 : Memory.wf x0.mem = true) : Memory.wf (CoreSt.emptyBits x0 x1).mem = true := h0

theorem inv_State_windowLive (x0 : State) (x1 : Region) (x2 : ℕ) (x3 : ℕ) (h0 : State.Inv x0) : State.Inv (State.windowLive x0 x1 x2 x3) := by
  unfold State.windowLive
  repeat' with_reducible first | assumption | apply inv_modR | split

theorem inv_State_modWeigh (x0 : State) (x1 : List Weigh → List Weigh) (h0 : State.Inv x0) : State.Inv (State.modWeigh x0 x1) := h0

theorem inv_Servers_correct (x0 : Servers) (x1 : ℕ → Bool) (h0 : Memory.wf x0.mem = true) : Memory.wf (Servers.correct x0 x1).mem = true := h0

theorem inv_State_buffered (x0 : State) (x1 : Req) (x2 : List Byte) (x3 : List (ℕ × ℕ × ℕ)) (h0 : State.Inv x0) : State.Inv (State.buffered x0 x1 x2 x3) := h0

theorem inv_State_pendN (x0 : State) (x1 : ResNo) (x2 : CtxNo) (x3 : BitVec 7) (x4 : Word) (x5 : Word) (h0 : State.Inv x0) : State.Inv (State.pendN x0 x1 x2 x3 x4 x5) := h0

theorem inv_State_hold (x0 : State) (h0 : State.Inv x0) : State.Inv (State.hold x0) := h0

theorem inv_State_unpark (x0 : State) (h0 : State.Inv x0) : State.Inv (State.unpark x0) := by
  unfold State.unpark
  try dsimp only
  all_goals repeat' first | with_reducible assumption | (with_reducible exact inv_take (by assumption) (by assumption)) | (with_reducible intro _ h; with_reducible exact h) | (with_reducible first | apply inv_modCore) | (with_reducible apply inv_ite) | (with_reducible exact wf_nil) | split | simp only [inv_mk_iff] | (simp only [inv_mk_iff2]; refine ⟨?_, ?_⟩) | (with_reducible apply wf_core) | (with_reducible apply wf_srv) | with_reducible rfl | dsimp only | (with_reducible intro _ _) | (with_reducible intro _)

theorem inv_State_giveLeave (x0 : State) (h0 : State.Inv x0) : State.Inv (State.giveLeave x0) := h0

theorem inv_State_doneTid (x0 : State) (x1 : Req) (h0 : State.Inv x0) : State.Inv (State.doneTid x0 x1) := by
  unfold State.doneTid
  repeat' with_reducible first | assumption | apply inv_modRes | split

theorem inv_State_rangeRemove (x0 : State) (x1 : Option (Fin 32)) (h0 : State.Inv x0) : State.Inv (State.rangeRemove x0 x1) := by
  unfold State.rangeRemove
  try dsimp only
  all_goals repeat' first | with_reducible assumption | (with_reducible exact inv_take (by assumption) (by assumption)) | (with_reducible intro _ h; with_reducible exact h) | (with_reducible first | apply inv_modCore) | (with_reducible apply inv_ite) | (with_reducible exact wf_nil) | split | simp only [inv_mk_iff] | (simp only [inv_mk_iff2]; refine ⟨?_, ?_⟩) | (with_reducible apply wf_core) | (with_reducible apply wf_srv) | with_reducible rfl | dsimp only | (with_reducible intro _ _) | (with_reducible intro _)

theorem inv_State_dropReq (x0 : State) (x1 : ℕ) (h0 : State.Inv x0) : State.Inv (State.dropReq x0 x1) := h0

theorem inv_State_leaveBuffer (x0 : State) (x1 : ℕ) (h0 : State.Inv x0) : State.Inv (State.leaveBuffer x0 x1) := h0

theorem inv_State_modExch (x0 : State) (x1 : Phase2 → Phase2) (h0 : State.Inv x0) : State.Inv (State.modExch x0 x1) := h0

theorem inv_State_queueOut (x0 : State) (x1 : Out) (x2 : List ℕ) (x3 : Bool) (h0 : State.Inv x0) : State.Inv (State.queueOut x0 x1 x2 x3) := h0

theorem inv_State_abortPacket (x0 : State) (h0 : State.Inv x0) : State.Inv (State.abortPacket x0) := by
  unfold State.abortPacket
  try dsimp only
  all_goals repeat' first | with_reducible assumption | (with_reducible exact inv_take (by assumption) (by assumption)) | (with_reducible intro _ h; with_reducible exact h) | (with_reducible first | apply inv_modRes | apply inv_modCore) | (with_reducible apply inv_ite) | (with_reducible exact wf_nil) | split | simp only [inv_mk_iff] | (simp only [inv_mk_iff2]; refine ⟨?_, ?_⟩) | (with_reducible apply wf_core) | (with_reducible apply wf_srv) | with_reducible rfl | dsimp only | (with_reducible intro _ _) | (with_reducible intro _)

theorem inv_State_rangeFail (x0 : State) (x1 : Option (Fin 32)) (h0 : State.Inv x0) : State.Inv (State.rangeFail x0 x1) := by
  unfold State.rangeFail
  try dsimp only
  all_goals repeat' first | with_reducible assumption | (with_reducible exact inv_take (by assumption) (by assumption)) | (with_reducible intro _ h; with_reducible exact h) | (with_reducible first | apply inv_modCore) | (with_reducible apply inv_ite) | (with_reducible exact wf_nil) | split | simp only [inv_mk_iff] | (simp only [inv_mk_iff2]; refine ⟨?_, ?_⟩) | (with_reducible apply wf_core) | (with_reducible apply wf_srv) | with_reducible rfl | dsimp only | (with_reducible intro _ _) | (with_reducible intro _)

theorem inv_State_enterExchange (x0 : State) (x1 : ResNo) (h0 : State.Inv x0) : State.Inv (State.enterExchange x0 x1) := h0

theorem inv_State_letGo (x0 : State) (h0 : State.Inv x0) : State.Inv (State.letGo x0) := by
  unfold State.letGo
  repeat' with_reducible first | assumption | apply inv_modR | split

theorem inv_State_reportEnd (x0 : State) (x1 : Res) (x2 : Phase) (x3 : Option (BitVec 7)) (h0 : State.Inv x0) : State.Inv (State.reportEnd x0 x1 x2 x3) := by
  unfold State.reportEnd
  repeat' with_reducible first | assumption | split | simp only [inv_mk_iff] | dsimp only

theorem inv_State_rangeAdd (x0 : State) (x1 : RangeKind) (x2 : ℕ) (x3 : ℕ) (x4 : ResNo) (h0 : State.Inv x0) : State.Inv (State.rangeAdd x0 x1 x2 x3 x4).1 := by
  unfold State.rangeAdd
  try dsimp only
  all_goals repeat' first | with_reducible assumption | (with_reducible exact inv_take (by assumption) (by assumption)) | (with_reducible intro _ h; with_reducible exact h) | (with_reducible first | apply inv_modCore) | (with_reducible apply inv_ite) | (with_reducible exact wf_nil) | split | simp only [inv_mk_iff] | (simp only [inv_mk_iff2]; refine ⟨?_, ?_⟩) | (with_reducible apply wf_core) | (with_reducible apply wf_srv) | with_reducible rfl | dsimp only | (with_reducible intro _ _) | (with_reducible intro _)

theorem inv_State_releaseTile (x0 : State) (x1 : ResNo) (h0 : State.Inv x0) : State.Inv (State.releaseTile x0 x1) := h0

theorem inv_State_setDptimeout (x0 : State) (x1 : BitVec 16) (h0 : State.Inv x0) : State.Inv (State.setDptimeout x0 x1) := by
  unfold State.setDptimeout
  try dsimp only
  all_goals repeat' first | with_reducible assumption | (with_reducible exact inv_take (by assumption) (by assumption)) | (with_reducible intro _ h; with_reducible exact h) | (with_reducible first | apply inv_modCore) | (with_reducible apply inv_ite) | (with_reducible exact wf_nil) | split | simp only [inv_mk_iff] | (simp only [inv_mk_iff2]; refine ⟨?_, ?_⟩) | (with_reducible apply wf_core) | (with_reducible apply wf_srv) | with_reducible rfl | dsimp only | (with_reducible intro _ _) | (with_reducible intro _)

theorem inv_State_releaseAcc (x0 : State) (x1 : ResNo) (h0 : State.Inv x0) : State.Inv (State.releaseAcc x0 x1) := h0

theorem inv_State_landGone (x0 : State) (x1 : ℕ) (x2 : Bool) (h0 : State.Inv x0) : State.Inv (State.landGone x0 x1 x2) := by
  unfold State.landGone
  try dsimp only
  all_goals repeat' first | with_reducible assumption | (with_reducible exact inv_take (by assumption) (by assumption)) | (with_reducible intro _ h; with_reducible exact h) | (with_reducible first | fail) | (with_reducible apply inv_ite) | (with_reducible exact wf_nil) | split | simp only [inv_mk_iff] | (simp only [inv_mk_iff2]; refine ⟨?_, ?_⟩) | (with_reducible apply wf_core) | (with_reducible apply wf_srv) | with_reducible rfl | dsimp only | (with_reducible intro _ _) | (with_reducible intro _)

theorem inv_State_useLeave (x0 : State) (h0 : State.Inv x0) : State.Inv (State.useLeave x0) := h0

theorem inv_State_sendError (x0 : State) (x1 : Send) (x2 : BitVec 7) (x3 : Word) (h0 : State.Inv x0) : State.Inv (State.sendError x0 x1 x2 x3) := h0

theorem inv_State_dropRanges (x0 : State) (x1 : ResNo) (x2 : List (Fin 32)) (h0 : State.Inv x0) : State.Inv (State.dropRanges x0 x1 x2) := by
  unfold State.dropRanges
  try dsimp only
  all_goals repeat' first | with_reducible assumption | (with_reducible exact inv_take (by assumption) (by assumption)) | (with_reducible intro _ h; with_reducible exact h) | (with_reducible first | apply inv_modCore) | (with_reducible apply inv_ite) | (with_reducible exact wf_nil) | split | simp only [inv_mk_iff] | (simp only [inv_mk_iff2]; refine ⟨?_, ?_⟩) | (with_reducible apply wf_core) | (with_reducible apply wf_srv) | with_reducible rfl | dsimp only | (with_reducible intro _ _) | (with_reducible intro _)

theorem inv_State_modReq (x0 : State) (x1 : ℕ) (x2 : Req → Req) (h0 : State.Inv x0) : State.Inv (State.modReq x0 x1 x2) := h0

theorem inv_State_toLand (x0 : State) (x1 : Landing) (x2 : ℕ) (h0 : State.Inv x0) : State.Inv (State.toLand x0 x1 x2) := h0

theorem inv_State_putOut (x0 : State) (x1 : Stream) (h0 : State.Inv x0) : State.Inv (State.putOut x0 x1) := h0

theorem inv_State_modSend (x0 : State) (x1 : ℕ) (x2 : Send → Send) (h0 : State.Inv x0) : State.Inv (State.modSend x0 x1 x2) := h0

theorem inv_State_setFifo (x0 : State) (x1 : CtxNo) (x2 : List SfuReq) (h0 : State.Inv x0) : State.Inv (State.setFifo x0 x1 x2) := h0

theorem inv_State_eventError (x0 : State) (x1 : ResNo) (x2 : BitVec 7) (x3 : CtxNo) (x4 : Pair) (x5 : Rank) (x6 : Word) (h0 : State.Inv x0) : State.Inv (State.eventError x0 x1 x2 x3 x4 x5 x6) := h0

theorem inv_CoreSt_putTags (x0 : CoreSt) (x1 : List TagWrite) (h0 : Memory.wf x0.mem = true) : Memory.wf (CoreSt.putTags x0 x1).mem = true := by
  fun_induction CoreSt.putTags x0 x1 <;> repeat' with_reducible first | assumption | apply_assumption

theorem inv_State_enterRouter (x0 : State) (x1 : Parcel) (h0 : State.Inv x0) : State.Inv (State.enterRouter x0 x1) := by
  unfold State.enterRouter
  dsimp only
  repeat' with_reducible first | assumption | apply inv_modCore | split | simp only [inv_mk_iff] | (intro _ h; exact h) | dsimp only | intro _ _

theorem inv_State_advance (x0 : State) (x1 : Bool) (x2 : Option Pair) (h0 : State.Inv x0) : State.Inv (State.advance x0 x1 x2) := h0

theorem inv_State_stepLfsr (x0 : State) (x1 : BitVec 3) (h0 : State.Inv x0) : State.Inv (State.stepLfsr x0 x1) := h0

theorem inv_State_giveLfsr (x0 : State) (x1 : Task) (h0 : State.Inv x0) : State.Inv (State.giveLfsr x0 x1) := by
  unfold State.giveLfsr
  repeat' with_reducible first | assumption | apply inv_modRes | split

theorem inv_State_setBells (x0 : State) (x1 : Crew) (x2 : ℕ) (h0 : State.Inv x0) : State.Inv (State.setBells x0 x1 x2) := h0

theorem inv_State_leaveOther (x0 : State) (x1 : ServerReq) (h0 : State.Inv x0) : State.Inv (State.leaveOther x0 x1) := h0

theorem inv_State_putIn (x0 : State) (x1 : Stream) (h0 : State.Inv x0) : State.Inv (State.putIn x0 x1) := h0

theorem inv_State_spillTime (x0 : State) (x1 : BitVec 3) (h0 : State.Inv x0) : State.Inv (State.spillTime x0 x1) := h0

theorem inv_State_expertUsed (x0 : State) (h0 : State.Inv x0) : State.Inv (State.expertUsed x0) := h0

theorem inv_CoreSt_setTagByte (x0 : CoreSt) (x1 : ℕ) (x2 : Byte) (h0 : Memory.wf x0.mem = true) : Memory.wf (CoreSt.setTagByte x0 x1 x2).mem = true := by
  unfold CoreSt.setTagByte
  repeat' with_reducible first | assumption | split

theorem inv_State_pin (x0 : State) (x1 : ℕ) (x2 : ℕ) (h0 : State.Inv x0) : State.Inv (State.pin x0 x1 x2) := by
  unfold State.pin
  repeat' with_reducible first | assumption | split | simp only [inv_mk_iff] | dsimp only

theorem inv_State_chargeIn (x0 : State) (x1 : ℕ) (x2 : Rank) (x3 : ℕ) (h0 : State.Inv x0) : State.Inv (State.chargeIn x0 x1 x2 x3) := h0

theorem inv_State_noteReport (x0 : State) (x1 : ResNo) (x2 : BitVec 7) (x3 : CtxNo) (x4 : Pair) (x5 : Word) (x6 : Rank) (x7 : Word) (h0 : State.Inv x0) : State.Inv (State.noteReport x0 x1 x2 x3 x4 x5 x6 x7) := h0

theorem inv_closeOutputs (x0 : ResNo) (x1 : List Rank) (x2 : State) (h0 : State.Inv x2) : State.Inv (closeOutputs x0 x1 x2) := by
  fun_induction closeOutputs x0 x1 x2 <;> repeat' with_reducible first | assumption | apply_assumption | apply inv_modCore

theorem inv_State_modGang (x0 : State) (x1 : GangIn → GangIn) (h0 : State.Inv x0) : State.Inv (State.modGang x0 x1) := h0

theorem inv_State_noteIssue (x0 : State) (h0 : State.Inv x0) : State.Inv (State.noteIssue x0) := by
  unfold State.noteIssue
  dsimp only
  repeat' with_reducible first | assumption | apply inv_modR | apply inv_modCore | split | simp only [inv_mk_iff] | (intro _ h; exact h) | dsimp only | intro _ _

theorem inv_Servers_flip (x0 : Servers) (x1 : ℕ) (h0 : Memory.wf x0.mem = true) : Memory.wf (Servers.flip x0 x1).mem = true := by
  unfold Servers.flip
  repeat' with_reducible first | assumption | split

theorem inv_State_lowerCount (x0 : State) (x1 : ℕ) (x2 : Rank) (x3 : ℕ) (h0 : State.Inv x0) : State.Inv (State.lowerCount x0 x1 x2 x3) := h0

theorem inv_State_setFull (x0 : State) (x1 : ℕ) (x2 : Bool) (h0 : State.Inv x0) : State.Inv (State.setFull x0 x1 x2) := h0

theorem inv_State_countSlice (x0 : State) (x1 : ResNo) (h0 : State.Inv x0) : State.Inv (State.countSlice x0 x1) := by
  unfold State.countSlice
  repeat' with_reducible first | assumption | apply inv_modRes | split

theorem inv_State_queueFail (x0 : State) (x1 : Req) (x2 : ServerFail) (h0 : State.Inv x0) : State.Inv (State.queueFail x0 x1 x2) := by
  unfold State.queueFail
  repeat' with_reducible first | assumption | apply inv_modRes | split

theorem inv_State_setExperts (x0 : State) (x1 : WorkOrder) (x2 : Crew) (h0 : State.Inv x0) : State.Inv (State.setExperts x0 x1 x2) := by
  unfold State.setExperts
  repeat' with_reducible first | assumption | split | simp only [inv_mk_iff] | dsimp only

theorem inv_State_spread (x0 : State) (h0 : State.Inv x0) : State.Inv (State.spread x0) := by
  unfold State.spread
  repeat' with_reducible first | assumption | split | simp only [inv_mk_iff] | dsimp only

theorem inv_State_freshStreams (x0 : State) (x1 : ResNo) (x2 : Rank) (h0 : State.Inv x0) : State.Inv (State.freshStreams x0 x1 x2) := by
  unfold State.freshStreams
  try dsimp only
  all_goals repeat' first | with_reducible assumption | (with_reducible exact inv_take (by assumption) (by assumption)) | (with_reducible intro _ h; with_reducible exact h) | (with_reducible first | apply inv_modCore) | (with_reducible apply inv_ite) | (with_reducible exact wf_nil) | split | simp only [inv_mk_iff] | (simp only [inv_mk_iff2]; refine ⟨?_, ?_⟩) | (with_reducible apply wf_core) | (with_reducible apply wf_srv) | with_reducible rfl | dsimp only | (with_reducible intro _ _) | (with_reducible intro _)

theorem inv_State_noteTags (x0 : State) (x1 : List TagWrite) (h0 : State.Inv x0) : State.Inv (State.noteTags x0 x1) := h0

theorem inv_State_atPlace (x0 : State) (x1 : Placed) (h0 : State.Inv x0) : State.Inv (State.atPlace x0 x1) := h0

theorem inv_State_takeTid (x0 : State) (x1 : BitVec 3) (h0 : State.Inv x0) : State.Inv (State.takeTid x0 x1) := h0

theorem inv_State_result (x0 : State) (x1 : Dest) (x2 : Word) (x3 : ℕ) (h0 : State.Inv x0) : State.Inv (State.result x0 x1 x2 x3) := h0

theorem inv_State_answerSends (x0 : State) (x1 : ℕ) (h0 : State.Inv x0) : State.Inv (State.answerSends x0 x1) := by
  unfold State.answerSends
  repeat' with_reducible first | assumption | apply inv_post | refine inv_foldl _ _ _ (fun _ _ _ => ?_) ?_ | refine wf_foldl _ _ _ (fun _ _ _ => ?_) ?_ | refine core_foldl _ _ _ (fun _ _ _ => ?_) ?_ | refine work_foldl _ _ _ (fun _ _ _ => ?_) ?_

theorem inv_State_laneFree (x0 : State) (x1 : BitVec 2) (h0 : State.Inv x0) : State.Inv (State.laneFree x0 x1) := by
  unfold State.laneFree
  repeat' with_reducible first | assumption | apply inv_post | split | simp only [inv_mk_iff] | dsimp only

theorem inv_State_postOnce (x0 : State) (x1 : Instr) (h0 : State.Inv x0) : State.Inv (State.postOnce x0 x1) := by
  unfold State.postOnce
  repeat' with_reducible first | assumption | apply inv_post | split

theorem inv_State_arriveFar (x0 : State) (x1 : Parcel) (h0 : State.Inv x0) : State.Inv (State.arriveFar x0 x1) := by
  unfold State.arriveFar
  repeat' with_reducible first | assumption | apply inv_post | split

theorem inv_State_hearWrite (x0 : State) (x1 : ServerReq) (x2 : Bool) (h0 : State.Inv x0) : State.Inv (State.hearWrite x0 x1 x2) := by
  unfold State.hearWrite
  repeat' with_reducible first | assumption | apply inv_modEnv | apply inv_post | split | simp only [inv_mk_iff] | dsimp only

theorem inv_State_answerCut (x0 : State) (x1 : ℕ) (x2 : ℕ) (h0 : State.Inv x0) : State.Inv (State.answerCut x0 x1 x2) := by
  unfold State.answerCut
  repeat' with_reducible first | assumption | apply inv_post | split

theorem inv_State_kick (x0 : State) (h0 : State.Inv x0) : State.Inv (State.kick x0) := by
  unfold State.kick
  repeat' with_reducible first | assumption | apply inv_post | split

theorem inv_State_sfuKick (x0 : State) (h0 : State.Inv x0) : State.Inv (State.sfuKick x0) := by
  unfold State.sfuKick
  repeat' with_reducible first | assumption | apply inv_post | split

theorem inv_State_freeLane (x0 : State) (x1 : Task) (h0 : State.Inv x0) : State.Inv (State.freeLane x0 x1) := by
  unfold State.freeLane
  repeat' with_reducible first | assumption | apply inv_post | split | simp only [inv_mk_iff] | dsimp only

theorem inv_State_leavePorter (x0 : State) (x1 : Bool) (x2 : ℕ) (h0 : State.Inv x0) : State.Inv (State.leavePorter x0 x1 x2) := by
  unfold State.leavePorter
  try dsimp only
  all_goals repeat' first | with_reducible assumption | (with_reducible exact inv_take (by assumption) (by assumption)) | (with_reducible intro _ h; with_reducible exact h) | (with_reducible first | apply inv_post) | (with_reducible apply inv_ite) | (with_reducible exact wf_nil) | split | simp only [inv_mk_iff] | (simp only [inv_mk_iff2]; refine ⟨?_, ?_⟩) | (with_reducible apply wf_core) | (with_reducible apply wf_srv) | with_reducible rfl | dsimp only | (with_reducible intro _ _) | (with_reducible intro _)

theorem inv_State_wake (x0 : State) (h0 : State.Inv x0) : State.Inv (State.wake x0) := by
  unfold State.wake
  repeat' with_reducible first | assumption | apply inv_post | split

theorem inv_State_enqueue (x0 : State) (x1 : Task) (h0 : State.Inv x0) : State.Inv (State.enqueue x0 x1) := h0

theorem inv_State_enterReq (x0 : State) (x1 : Req) (h0 : State.Inv x0) : State.Inv (State.enterReq x0 x1) := h0

theorem inv_execSfuServe (x0 : State) (h0 : State.Inv x0) : Outcome.Keeps (execSfuServe x0) := by
  unfold execSfuServe
  repeat' with_reducible first | assumption | apply inv_after | apply keeps_next | split | simp only [inv_mk_iff] | dsimp only

theorem inv_State_runStep (x0 : State) (x1 : Task) (h0 : State.Inv x0) : State.Inv (State.runStep x0 x1) := h0

theorem inv_State_countBell (x0 : State) (x1 : Bool) (x2 : BitVec 5) (x3 : Bool) (x4 : Bell → Bell) (h0 : State.Inv x0) : State.Inv (State.countBell x0 x1 x2 x3 x4) := by
  unfold State.countBell
  repeat' with_reducible first | assumption | apply inv_after | split | simp only [inv_mk_iff] | dsimp only

theorem inv_State_lookAgain (x0 : State) (h0 : State.Inv x0) : State.Inv (State.lookAgain x0) := by
  unfold State.lookAgain
  repeat' with_reducible first | assumption | apply inv_after | split

theorem inv_decideOn (x0 : ℕ) (x1 : State) (h0 : State.Inv x1) : State.Inv (decideOn x0 x1) := by
  fun_induction decideOn x0 x1 <;> repeat' with_reducible first | assumption | apply_assumption | apply inv_after | apply inv_modCore | split

theorem inv_State_takeLfsr (x0 : State) (x1 : Task) (h0 : State.Inv x0) : State.Inv (State.takeLfsr x0 x1) := by
  unfold State.takeLfsr
  repeat' with_reducible first | assumption | apply inv_State_modTask | apply inv_modRes | split

theorem inv_State_refuseGrant (x0 : State) (h0 : State.Inv x0) : State.Inv (State.refuseGrant x0) := h0

theorem inv_State_setCounter (x0 : State) (x1 : ℕ) (x2 : Word) (h0 : State.Inv x0) : State.Inv (State.setCounter x0 x1 x2) := h0

theorem inv_State_arrive (x0 : State) (x1 : Arrival) (h0 : State.Inv x0) : State.Inv (State.arrive x0 x1) := h0

theorem inv_State_watchFirst (x0 : State) (x1 : List ((Queue × ℕ) × WorkOrder)) (h0 : State.Inv x0) : State.Inv (State.watchFirst x0 x1) := by
  unfold State.watchFirst
  repeat' with_reducible first | assumption | apply inv_modPkg | split

theorem inv_State_modQueue (x0 : State) (x1 : ℕ) (x2 : Queue → Queue) (h0 : State.Inv x0) : State.Inv (State.modQueue x0 x1 x2) := h0

theorem inv_State_rollintWrite (x0 : State) (x1 : ℕ) (h0 : State.Inv x0) : State.Inv (State.rollintWrite x0 x1) := h0

theorem inv_State_repin (x0 : State) (h0 : State.Inv x0) : State.Inv (State.repin x0) := h0

theorem inv_execThermalShutdown (x0 : State) (h0 : State.Inv x0) : Outcome.Keeps (execThermalShutdown x0) := by
  unfold execThermalShutdown
  repeat' with_reducible first | assumption | apply inv_modPkg | apply keeps_next | split | exact inv_take (by assumption) (by assumption)

theorem inv_State_modOrder (x0 : State) (x1 : ℕ) (x2 : WorkOrder → WorkOrder) (h0 : State.Inv x0) : State.Inv (State.modOrder x0 x1 x2) := h0

theorem inv_State_deriveKeys (x0 : State) (x1 : ℕ) (h0 : State.Inv x0) : State.Inv (State.deriveKeys x0 x1) := h0

theorem inv_State_modTenant (x0 : State) (x1 : BitVec 6) (x2 : Tenant → Tenant) (h0 : State.Inv x0) : State.Inv (State.modTenant x0 x1 x2) := h0

theorem inv_State_modDie (x0 : State) (x1 : ℕ) (x2 : DieRec → DieRec) (h0 : State.Inv x0) : State.Inv (State.modDie x0 x1 x2) := h0

theorem inv_State_draw (x0 : State) (x1 : ℕ) (h0 : State.Inv x0) : State.Inv (State.draw x0 x1) := h0

theorem inv_State_modLink (x0 : State) (x1 : ℕ) (x2 : Link → Link) (h0 : State.Inv x0) : State.Inv (State.modLink x0 x1 x2) := h0

theorem inv_State_setHot (x0 : State) (x1 : ℕ) (x2 : Bool) (h0 : State.Inv x0) : State.Inv (State.setHot x0 x1 x2) := by
  unfold State.setHot
  repeat' with_reducible first | assumption | apply inv_State_applyLimits | apply inv_modPkg

theorem inv_execLimitWrite (x0 : State) (h0 : State.Inv x0) : Outcome.Keeps (execLimitWrite x0) := by
  unfold execLimitWrite
  repeat' with_reducible first | assumption | apply inv_State_applyLimits | apply inv_modEnv | apply inv_modPkg | apply keeps_next | split | exact inv_take (by assumption) (by assumption) | simp only [inv_mk_iff] | dsimp only

theorem inv_State_deliverHere (x0 : State) (x1 : ℕ) (x2 : Out) (h0 : State.Inv x0) : State.Inv (State.deliverHere x0 x1 x2) := by
  unfold State.deliverHere
  try dsimp only
  all_goals repeat' first | with_reducible assumption | (with_reducible exact inv_take (by assumption) (by assumption)) | (with_reducible intro _ h; with_reducible exact h) | (with_reducible first | apply inv_State_giveRoom | apply inv_modRes | apply inv_post | apply inv_modCore | refine inv_foldl _ _ _ (fun _ _ _ => ?_) ?_ | refine wf_foldl _ _ _ (fun _ _ _ => ?_) ?_ | refine core_foldl _ _ _ (fun _ _ _ => ?_) ?_ | refine work_foldl _ _ _ (fun _ _ _ => ?_) ?_) | (with_reducible apply inv_ite) | (with_reducible exact wf_nil) | split | simp only [inv_mk_iff] | (simp only [inv_mk_iff2]; refine ⟨?_, ?_⟩) | (with_reducible apply wf_core) | (with_reducible apply wf_srv) | with_reducible rfl | dsimp only | (with_reducible intro _ _) | (with_reducible intro _)

theorem inv_State_noteLimits (x0 : State) (h0 : State.Inv x0) : State.Inv (State.noteLimits x0) := by
  unfold State.noteLimits
  repeat' with_reducible first | assumption | apply inv_State_at | apply inv_State_noteLimit | refine inv_foldl _ _ _ (fun _ _ _ => ?_) ?_ | refine wf_foldl _ _ _ (fun _ _ _ => ?_) ?_ | refine core_foldl _ _ _ (fun _ _ _ => ?_) ?_ | refine work_foldl _ _ _ (fun _ _ _ => ?_) ?_

theorem inv_State_askPhase (x0 : State) (h0 : State.Inv x0) : State.Inv (State.askPhase x0) := by
  unfold State.askPhase
  dsimp only
  repeat' with_reducible first | assumption | apply inv_State_askLeave | apply inv_modCore | split | simp only [inv_mk_iff] | (intro _ h; exact h) | dsimp only | intro _ _

theorem inv_applyLate (x0 : List Placed) (x1 : State) (h0 : State.Inv x1) (hp : ∀ p ∈ x0, p.op.Keeps) : State.Inv (applyLate x0 x1) := by
  induction x0 generalizing x1 with
  | nil => exact h0
  | cons p t ih => exact ih _ ((hp p (by simp)).2.1 _ h0) fun q hq => hp q (by simp [hq])

theorem inv_execWeighhouseLockData (x0 : State) (h0 : State.Inv x0) : Outcome.Keeps (execWeighhouseLockData x0) := by
  unfold execWeighhouseLockData
  repeat' with_reducible first | assumption | apply inv_State_modWeigh | apply inv_post | apply keeps_next | split

theorem inv_State_startWeigh (x0 : State) (x1 : ℕ) (h0 : State.Inv x0) : State.Inv (State.startWeigh x0 x1) := by
  unfold State.startWeigh
  dsimp only
  repeat' with_reducible first | assumption | apply inv_State_modWeigh | apply inv_post | split

theorem inv_execScrub (x0 : State) (h0 : State.Inv x0) : Outcome.Keeps (execScrub x0) := by
  unfold execScrub
  try dsimp only
  all_goals repeat' first | with_reducible assumption | (with_reducible exact inv_take (by assumption) (by assumption)) | (with_reducible intro _ h; with_reducible exact h) | (with_reducible first | apply inv_Servers_correct | apply keeps_next) | (with_reducible apply inv_ite) | (with_reducible exact wf_nil) | split | simp only [inv_mk_iff] | (simp only [inv_mk_iff2]; refine ⟨?_, ?_⟩) | (with_reducible apply wf_core) | (with_reducible apply wf_srv) | with_reducible rfl | dsimp only | (with_reducible intro _ _) | (with_reducible intro _)

theorem inv_State_noteBad (x0 : State) (x1 : Task) (x2 : Bool) (h0 : State.Inv x0) : State.Inv (State.noteBad x0 x1 x2) := by
  unfold State.noteBad
  repeat' with_reducible first | assumption | apply inv_State_pendN | split

theorem inv_State_reloadTouch (x0 : State) (x1 : ResNo) (h0 : State.Inv x0) : State.Inv (State.reloadTouch x0 x1) := by
  unfold State.reloadTouch
  repeat' with_reducible first | assumption | apply inv_State_pendN | apply inv_modRes | split

theorem inv_State_leaveDone (x0 : State) (x1 : Bool) (h0 : State.Inv x0) : State.Inv (State.leaveDone x0 x1) := by
  unfold State.leaveDone
  try dsimp only
  all_goals repeat' first | with_reducible assumption | (with_reducible exact inv_take (by assumption) (by assumption)) | (with_reducible intro _ h; with_reducible exact h) | (with_reducible first | apply inv_State_giveLeave | apply inv_modCore) | (with_reducible apply inv_ite) | (with_reducible exact wf_nil) | split | simp only [inv_mk_iff] | (simp only [inv_mk_iff2]; refine ⟨?_, ?_⟩) | (with_reducible apply wf_core) | (with_reducible apply wf_srv) | with_reducible rfl | dsimp only | (with_reducible intro _ _) | (with_reducible intro _)

theorem inv_State_useUp (x0 : State) (x1 : Option Deferred) (h0 : State.Inv x0) : State.Inv (State.useUp x0 x1) := by
  unfold State.useUp
  repeat' with_reducible first | assumption | apply inv_State_rangeRemove | split | simp only [inv_mk_iff] | dsimp only

theorem inv_State_settleWrite (x0 : State) (x1 : Req) (h0 : State.Inv x0) : State.Inv (State.settleWrite x0 x1) := by
  unfold State.settleWrite
  repeat' with_reducible first | assumption | apply inv_State_doneTid | apply inv_State_dropReq | apply inv_State_leaveBuffer | apply inv_State_rangeRemove

theorem inv_State_settleAtomic (x0 : State) (x1 : Req) (x2 : ℕ) (x3 : Option ServerFail) (h0 : State.Inv x0) : State.Inv (State.settleAtomic x0 x1 x2 x3) := by
  unfold State.settleAtomic
  repeat' with_reducible first | assumption | apply inv_State_dropReq | apply inv_State_leaveBuffer | apply inv_State_pendN | apply inv_modRes | split

theorem inv_State_markPhase (x0 : State) (x1 : ℕ) (x2 : ℕ) (h0 : State.Inv x0) : State.Inv (State.markPhase x0 x1 x2) := by
  unfold State.markPhase
  repeat' with_reducible first | assumption | apply inv_State_modExch | split

theorem inv_endReceives (x0 : ℕ) (x1 : List Exch) (x2 : State) (h0 : State.Inv x2) : State.Inv (endReceives x0 x1 x2) := by
  induction x1 generalizing x0 x2 with
  | nil => exact h0
  | cons a t ih =>
    unfold endReceives
    try dsimp only
    repeat' first | with_reducible assumption | (with_reducible exact inv_take (by assumption) (by assumption)) | (with_reducible intro _ h; with_reducible exact h) | (with_reducible apply ih) | (with_reducible first | apply inv_State_modExch | apply inv_State_rangeRemove) | (with_reducible apply inv_ite) | (with_reducible exact wf_nil) | split | simp only [inv_mk_iff] | (simp only [inv_mk_iff2]; refine ⟨?_, ?_⟩) | (with_reducible apply wf_core) | (with_reducible apply wf_srv) | with_reducible rfl | dsimp only | (with_reducible intro _ _) | (with_reducible intro _)

theorem inv_sendMarkers (x0 : BitVec 32) (x1 : List Rank) (x2 : State) (h0 : State.Inv x2) : State.Inv (sendMarkers x0 x1 x2) := by
  fun_induction sendMarkers x0 x1 x2 <;> repeat' with_reducible first | assumption | apply_assumption | apply inv_State_queueOut

theorem inv_State_enterSend (x0 : State) (x1 : Send) (x2 : Bool) (h0 : State.Inv x0) : State.Inv (State.enterSend x0 x1 x2) := h0

theorem inv_State_deferFail (x0 : State) (x1 : Req) (x2 : BitVec 7) (x3 : Word) (h0 : State.Inv x0) : State.Inv (State.deferFail x0 x1 x2 x3) := by
  unfold State.deferFail
  repeat' with_reducible first | assumption | apply inv_State_rangeFail | apply inv_State_rangeRemove | apply inv_modRes | apply inv_bump | split

theorem inv_State_releaseBell (x0 : State) (x1 : Bool) (x2 : BitVec 5) (h0 : State.Inv x0) : State.Inv (State.releaseBell x0 x1 x2) := by
  unfold State.releaseBell
  repeat' with_reducible first | assumption | apply inv_State_enterExchange | apply inv_after | split | simp only [inv_mk_iff] | dsimp only

theorem inv_State_guardArea (x0 : State) (x1 : RangeKind) (x2 : Word) (x3 : ℕ) (h0 : State.Inv x0) : State.Inv (State.guardArea x0 x1 x2 x3).1 := by
  unfold State.guardArea
  repeat' with_reducible first | assumption | apply inv_State_rangeAdd | split

theorem inv_State_guardLanding (x0 : State) (x1 : ResNo) (x2 : Landed) (h0 : State.Inv x0) : State.Inv (State.guardLanding x0 x1 x2).1 := by
  unfold State.guardLanding
  repeat' with_reducible first | assumption | apply inv_State_rangeAdd | apply inv_modRes | split

theorem inv_State_setCtrlWord (x0 : State) (x1 : ℕ) (x2 : ℕ) (h0 : State.Inv x0) : State.Inv (State.setCtrlWord x0 x1 x2) := by
  unfold State.setCtrlWord
  dsimp only
  repeat' with_reducible first | assumption | apply inv_State_releaseAcc | apply inv_State_releaseTile | apply inv_State_setDptimeout | apply inv_modR | apply inv_modCtx | apply inv_modCore | split | simp only [inv_mk_iff] | (intro _ h; exact h) | dsimp only | intro _ _

theorem inv_CoreSt_clearAcc (x0 : CoreSt) (h0 : Memory.wf x0.mem = true) : Memory.wf (CoreSt.clearAcc x0).mem = true := by
  unfold CoreSt.clearAcc
  repeat' with_reducible first | assumption | apply Memory.wf_memZero

theorem inv_CoreSt_clearTiles (x0 : CoreSt) (h0 : Memory.wf x0.mem = true) : Memory.wf (CoreSt.clearTiles x0).mem = true := by
  unfold CoreSt.clearTiles
  repeat' with_reducible first | assumption | apply Memory.wf_memZero

theorem inv_State_restart (x0 : State) (x1 : Bool) (h0 : State.Inv x0) : State.Inv (State.restart x0 x1) := ⟨h0.1, h0.2⟩

theorem inv_State_forwardRead (x0 : State) (x1 : ServerReq) (x2 : ℕ) (h0 : State.Inv x0) : State.Inv (State.forwardRead x0 x1 x2).1 := by
  unfold State.forwardRead
  dsimp only
  repeat' with_reducible first | assumption | apply inv_State_modReq | apply inv_modRes | apply inv_post | refine inv_foldl _ _ _ (fun _ _ _ => ?_) ?_ | refine wf_foldl _ _ _ (fun _ _ _ => ?_) ?_ | refine core_foldl _ _ _ (fun _ _ _ => ?_) ?_ | refine work_foldl _ _ _ (fun _ _ _ => ?_) ?_ | split

theorem inv_maskPut (x0 : ℕ) (x1 : ℕ) (x2 : ℕ) (x3 : Bool) (x4 : List Host.Cell) (h0 : Memory.wf x4 = true) : Memory.wf (maskPut x0 x1 x2 x3 x4) = true := by
  unfold maskPut
  repeat' with_reducible first | assumption | apply Memory.wf_memSet | split

theorem inv_State_localDone (x0 : State) (x1 : Send) (h0 : State.Inv x0) : State.Inv (State.localDone x0 x1) := by
  unfold State.localDone
  dsimp only
  repeat' with_reducible first | assumption | apply inv_State_modSend | apply inv_State_rangeRemove | apply inv_modRes | apply inv_modCore | split | simp only [inv_mk_iff] | (intro _ h; exact h) | dsimp only | intro _ _

theorem inv_State_underWay (x0 : State) (x1 : Send) (x2 : Bool) (h0 : State.Inv x0) : State.Inv (State.underWay x0 x1 x2) := h0

theorem inv_State_number (x0 : State) (x1 : Send) (h0 : State.Inv x0) : State.Inv (State.number x0 x1).1 := h0

theorem inv_State_sendEvent (x0 : State) (x1 : ResNo) (x2 : Rank) (x3 : EventRec) (x4 : CtxNo) (x5 : Pair) (h0 : State.Inv x0) : State.Inv (State.sendEvent x0 x1 x2 x3 x4 x5) := by
  unfold State.sendEvent
  try dsimp only
  all_goals repeat' first | with_reducible assumption | (with_reducible exact inv_take (by assumption) (by assumption)) | (with_reducible intro _ h; with_reducible exact h) | (with_reducible first | apply inv_State_enqueueEvent | apply inv_State_eventError | apply inv_modCore) | (with_reducible apply inv_ite) | (with_reducible exact wf_nil) | split | simp only [inv_mk_iff] | (simp only [inv_mk_iff2]; refine ⟨?_, ?_⟩) | (with_reducible apply wf_core) | (with_reducible apply wf_srv) | with_reducible rfl | dsimp only | (with_reducible intro _ _) | (with_reducible intro _)

theorem inv_State_tagsLand (x0 : State) (h0 : State.Inv x0) : State.Inv (State.tagsLand x0) := by
  unfold State.tagsLand
  dsimp only
  repeat' with_reducible first | assumption | apply inv_CoreSt_putTags | apply inv_modCore | split | simp only [inv_mk_iff] | (intro _ h; exact h) | dsimp only | intro _ _

theorem inv_State_answerUp (x0 : State) (x1 : Target) (x2 : Instr) (h0 : State.Inv x0) : State.Inv (State.answerUp x0 x1 x2) := h0

theorem inv_applyAsk (x0 : List Placed) (x1 : State) (h0 : State.Inv x1) (hp : ∀ p ∈ x0, p.op.Keeps) : State.Inv (applyAsk x0 x1) := by
  induction x0 generalizing x1 with
  | nil => exact h0
  | cons p t ih => exact ih _ ((hp p (by simp)).2.2 _ h0) fun q hq => hp q (by simp [hq])

theorem inv_State_pass (x0 : State) (x1 : Message) (h0 : State.Inv x0) : State.Inv (State.pass x0 x1) := h0

theorem inv_State_writeTags (x0 : State) (x1 : ℕ) (x2 : List Byte) (h0 : State.Inv x0) : State.Inv (State.writeTags x0 x1 x2) := by
  unfold State.writeTags
  try dsimp only
  all_goals repeat' first | with_reducible assumption | (with_reducible exact inv_take (by assumption) (by assumption)) | (with_reducible intro _ h; with_reducible exact h) | (with_reducible first | apply inv_CoreSt_setTagByte | apply inv_modCore | refine inv_foldl _ _ _ (fun _ _ _ => ?_) ?_ | refine wf_foldl _ _ _ (fun _ _ _ => ?_) ?_ | refine core_foldl _ _ _ (fun _ _ _ => ?_) ?_ | refine work_foldl _ _ _ (fun _ _ _ => ?_) ?_) | (with_reducible apply inv_ite) | (with_reducible exact wf_nil) | split | simp only [inv_mk_iff] | (simp only [inv_mk_iff2]; refine ⟨?_, ?_⟩) | (with_reducible apply wf_core) | (with_reducible apply wf_srv) | with_reducible rfl | dsimp only | (with_reducible intro _ _) | (with_reducible intro _)

theorem inv_State_charge (x0 : State) (x1 : Rank) (x2 : ℕ) (h0 : State.Inv x0) : State.Inv (State.charge x0 x1 x2) := h0

theorem inv_State_uncharge (x0 : State) (x1 : Send) (h0 : State.Inv x0) : State.Inv (State.uncharge x0 x1) := by
  unfold State.uncharge
  repeat' with_reducible first | assumption | apply inv_State_lowerCount | split

theorem inv_State_openContext (x0 : State) (x1 : Out) (x2 : Target) (h0 : State.Inv x0) : State.Inv (State.openContext x0 x1 x2) := by
  unfold State.openContext
  repeat' with_reducible first | assumption | apply inv_State_pin | apply inv_State_spread | split

theorem inv_applyEff (x0 : List Placed) (x1 : State) (h0 : State.Inv x1) (hp : ∀ p ∈ x0, p.op.Keeps) : State.Inv (applyEff x0 x1) := by
  induction x0 generalizing x1 with
  | nil => exact h0
  | cons p t ih => exact ih _ ((hp p (by simp)).1 _ h0) fun q hq => hp q (by simp [hq])

theorem inv_State_restoreHere (x0 : State) (x1 : Crew) (x2 : Place) (x3 : Evicted) (h0 : State.Inv x0) : State.Inv (State.restoreHere x0 x1 x2 x3) := by
  unfold State.restoreHere
  dsimp only
  repeat' with_reducible first | assumption | apply inv_Evicted_groups | apply inv_Evicted_part | apply inv_modRes | apply inv_modCore | apply Memory.wf_memSet | apply Memory.wf_memZero | refine inv_foldl _ _ _ (fun _ _ _ => ?_) ?_ | refine wf_foldl _ _ _ (fun _ _ _ => ?_) ?_ | refine core_foldl _ _ _ (fun _ _ _ => ?_) ?_ | refine work_foldl _ _ _ (fun _ _ _ => ?_) ?_ | split | simp only [inv_mk_iff] | (intro _ h; exact h) | dsimp only | intro _ _

theorem inv_execStartMessage (x0 : State) (h0 : State.Inv x0) : Outcome.Keeps (execStartMessage x0) := by
  unfold execStartMessage
  repeat' with_reducible first | assumption | apply inv_State_postOnce | apply inv_modRes | apply keeps_next | split

theorem inv_State_seekRes (x0 : State) (h0 : State.Inv x0) : State.Inv (State.seekRes x0) := by
  unfold State.seekRes
  repeat' with_reducible first | assumption | apply inv_State_postOnce | split

theorem inv_State_watchSlice (x0 : State) (x1 : ResNo) (h0 : State.Inv x0) : State.Inv (State.watchSlice x0 x1) := by
  unfold State.watchSlice
  dsimp only
  repeat' with_reducible first | assumption | apply inv_State_countSlice | apply inv_State_postOnce | split

theorem inv_State_goesOut (x0 : State) (x1 : ℕ) (x2 : ℕ) (x3 : ℕ) (h0 : State.Inv x0) : State.Inv (State.goesOut x0 x1 x2 x3) := by
  unfold State.goesOut
  repeat' with_reducible first | assumption | apply inv_State_answerCut | apply inv_State_pin

theorem inv_State_timeSend (x0 : State) (x1 : Send) (h0 : State.Inv x0) : State.Inv (State.timeSend x0 x1) := by
  unfold State.timeSend
  repeat' with_reducible first | assumption | apply inv_State_answerCut | apply inv_State_modSend | apply inv_post | apply inv_after | split

theorem inv_State_clearFifos (x0 : State) (h0 : State.Inv x0) : State.Inv (State.clearFifos x0) := by
  unfold State.clearFifos
  repeat' with_reducible first | assumption | apply inv_State_sfuKick | split | simp only [inv_mk_iff] | dsimp only

theorem inv_State_sfuRequest (x0 : State) (x1 : Fin 33) (x2 : ℕ) (h0 : State.Inv x0) : State.Inv (State.sfuRequest x0 x1 x2) := by
  unfold State.sfuRequest
  repeat' with_reducible first | assumption | apply inv_State_sfuKick | split | simp only [inv_mk_iff] | dsimp only

theorem inv_State_cancelSfu (x0 : State) (x1 : CtxNo) (h0 : State.Inv x0) : State.Inv (State.cancelSfu x0 x1) := by
  unfold State.cancelSfu
  repeat' with_reducible first | assumption | apply inv_State_setFifo | apply inv_State_sfuKick | apply inv_modCtx | split | simp only [inv_mk_iff] | dsimp only

theorem inv_State_replayBack (x0 : State) (h0 : State.Inv x0) : State.Inv (State.replayBack x0) := by
  unfold State.replayBack
  dsimp only
  repeat' with_reducible first | assumption | apply inv_State_setFifo | apply inv_State_sfuKick | apply inv_modC | split

theorem inv_State_sftRequests (x0 : State) (x1 : Task) (x2 : BitVec 3) (x3 : BitVec 4) (h0 : State.Inv x0) : State.Inv (State.sftRequests x0 x1 x2 x3) := by
  unfold State.sftRequests
  dsimp only
  repeat' with_reducible first | assumption | apply inv_State_setFifo | apply inv_State_sfuKick | apply inv_modRes | split

theorem inv_execGroupClearDone (x0 : State) (h0 : State.Inv x0) : Outcome.Keeps (execGroupClearDone x0) := by
  unfold execGroupClearDone
  dsimp only
  repeat' with_reducible first | assumption | apply inv_State_kick | apply inv_State_wake | apply inv_modCore | apply keeps_next | split | simp only [inv_mk_iff] | (intro _ h; exact h) | dsimp only | intro _ _

theorem inv_State_startMatrix (x0 : State) (x1 : Task) (h0 : State.Inv x0) : State.Inv (State.startMatrix x0 x1) := by
  unfold State.startMatrix
  repeat' with_reducible first | assumption | apply inv_State_askLeave | apply inv_State_modTask | apply inv_State_runStep | apply inv_State_useLeave | split

theorem inv_startHeavy (x0 : List Task) (x1 : State) (h0 : State.Inv x1) : State.Inv (startHeavy x0 x1) := by
  fun_induction startHeavy x0 x1 <;> repeat' with_reducible first | assumption | apply_assumption | apply inv_State_modTask | apply inv_State_runStep | apply inv_State_useLeave | split

theorem inv_State_bindLane (x0 : State) (x1 : Fin 4) (h0 : State.Inv x0) : State.Inv (State.bindLane x0 x1) := by
  unfold State.bindLane
  repeat' with_reducible first | assumption | apply inv_State_modTask | apply inv_State_runStep | split | simp only [inv_mk_iff] | dsimp only

theorem inv_State_bellHeard (x0 : State) (x1 : Bool) (x2 : BitVec 5) (x3 : Bool) (h0 : State.Inv x0) : State.Inv (State.bellHeard x0 x1 x2 x3) := by
  unfold State.bellHeard
  repeat' with_reducible first | assumption | apply inv_State_countBell | split

theorem inv_State_decideLeave (x0 : State) (h0 : State.Inv x0) : State.Inv (State.decideLeave x0) := by
  unfold State.decideLeave
  repeat' with_reducible first | assumption | apply inv_decideOn

theorem inv_execReplayRequest (x0 : State) (h0 : State.Inv x0) : Outcome.Keeps (execReplayRequest x0) := by
  unfold execReplayRequest
  repeat' with_reducible first | assumption | apply inv_State_arrive | apply keeps_next | refine inv_foldl _ _ _ (fun _ _ _ => ?_) ?_ | refine wf_foldl _ _ _ (fun _ _ _ => ?_) ?_ | refine core_foldl _ _ _ (fun _ _ _ => ?_) ?_ | refine work_foldl _ _ _ (fun _ _ _ => ?_) ?_ | split | exact inv_take (by assumption) (by assumption)

theorem inv_execActlReset (x0 : State) (h0 : State.Inv x0) : Outcome.Keeps (execActlReset x0) := by
  unfold execActlReset
  repeat' with_reducible first | assumption | apply inv_State_arrive | apply inv_post | apply keeps_next | split | exact inv_take (by assumption) (by assumption)

theorem inv_State_riseValue (x0 : State) (x1 : ℕ) (x2 : ℕ) (h0 : State.Inv x0) : State.Inv (State.riseValue x0 x1 x2) := h0

theorem inv_State_tailWrite (x0 : State) (x1 : ℕ) (x2 : Word) (h0 : State.Inv x0) : State.Inv (State.tailWrite x0 x1 x2) := by
  unfold State.tailWrite
  dsimp only
  repeat' with_reducible first | assumption | apply inv_State_modQueue | split

theorem inv_State_ringWrite (x0 : State) (x1 : ℕ) (x2 : Bool) (x3 : Word) (h0 : State.Inv x0) : State.Inv (State.ringWrite x0 x1 x2 x3) := by
  unfold State.ringWrite
  dsimp only
  repeat' with_reducible first | assumption | apply inv_State_modQueue | split

theorem inv_execPortFailure (x0 : State) (h0 : State.Inv x0) : Outcome.Keeps (execPortFailure x0) := by
  unfold execPortFailure
  repeat' with_reducible first | assumption | apply inv_State_repin | apply inv_modPkg | apply keeps_next | split | exact inv_take (by assumption) (by assumption)

theorem inv_State_markReserving (x0 : State) (h0 : State.Inv x0) : State.Inv (State.markReserving x0) := by
  unfold State.markReserving
  repeat' with_reducible first | assumption | apply inv_State_modOrder | split

theorem inv_State_modCrew (x0 : State) (x1 : ℕ) (x2 : ℕ) (x3 : Crew → Crew) (h0 : State.Inv x0) : State.Inv (State.modCrew x0 x1 x2 x3) := h0

theorem inv_execStartInterfaceRequest (x0 : State) (h0 : State.Inv x0) : Outcome.Keeps (execStartInterfaceRequest x0) := by
  unfold execStartInterfaceRequest
  repeat' with_reducible first | assumption | apply inv_State_modTenant | apply keeps_next | split | exact inv_take (by assumption) (by assumption)

theorem inv_State_ideKeys (x0 : State) (x1 : Option (BitVec 6)) (h0 : State.Inv x0) : State.Inv (State.ideKeys x0 x1) := by
  unfold State.ideKeys
  repeat' with_reducible first | assumption | apply inv_State_modTenant | apply inv_modPkg | split

theorem inv_State_discard (x0 : State) (x1 : BitVec 6) (h0 : State.Inv x0) : State.Inv (State.discard x0 x1) := h0

theorem inv_execLockInterfaceRequest (x0 : State) (h0 : State.Inv x0) : Outcome.Keeps (execLockInterfaceRequest x0) := by
  unfold execLockInterfaceRequest
  repeat' with_reducible first | assumption | apply inv_State_modTenant | apply keeps_next | split | exact inv_take (by assumption) (by assumption)

theorem inv_State_toStep (x0 : State) (x1 : ℕ) (h0 : State.Inv x0) : State.Inv (State.toStep x0 x1) := by
  unfold State.toStep
  repeat' with_reducible first | assumption | apply inv_State_modDie | apply inv_modPkg | split

theorem inv_State_closeLink (x0 : State) (x1 : ℕ) (h0 : State.Inv x0) : State.Inv (State.closeLink x0 x1) := h0

theorem inv_State_modDir (x0 : State) (x1 : ℕ) (x2 : Bool) (x3 : LinkDir → LinkDir) (h0 : State.Inv x0) : State.Inv (State.modDir x0 x1 x2 x3) := h0

theorem inv_State_keyLink (x0 : State) (x1 : ℕ) (h0 : State.Inv x0) : State.Inv (State.keyLink x0 x1) := by
  unfold State.keyLink
  repeat' with_reducible first | assumption | apply inv_State_arrive | apply inv_State_draw | apply inv_State_modLink | apply inv_after

theorem inv_execJunctionCooled (x0 : State) (h0 : State.Inv x0) : Outcome.Keeps (execJunctionCooled x0) := by
  unfold execJunctionCooled
  repeat' with_reducible first | assumption | apply inv_State_setHot | apply keeps_next | split | exact inv_take (by assumption) (by assumption)

theorem inv_execJunctionOverheat (x0 : State) (h0 : State.Inv x0) : Outcome.Keeps (execJunctionOverheat x0) := by
  unfold execJunctionOverheat
  repeat' with_reducible first | assumption | apply inv_State_setHot | apply keeps_next | split | exact inv_take (by assumption) (by assumption)

theorem inv_State_emitCast (x0 : State) (x1 : Message) (x2 : List CastDst) (h0 : State.Inv x0) : State.Inv (State.emitCast x0 x1 x2) := by
  unfold State.emitCast
  dsimp only
  repeat' with_reducible first | assumption | apply inv_State_deliverHere | apply inv_modCore | split | simp only [inv_mk_iff] | (intro _ h; exact h) | dsimp only | intro _ _

theorem inv_State_emitFor (x0 : State) (x1 : ℕ) (x2 : Out) (h0 : State.Inv x0) : State.Inv (State.emitFor x0 x1 x2) := by
  unfold State.emitFor
  try dsimp only
  all_goals repeat' first | with_reducible assumption | (with_reducible exact inv_take (by assumption) (by assumption)) | (with_reducible intro _ h; with_reducible exact h) | (with_reducible first | apply inv_State_deliverHere | apply inv_modEnv | apply inv_modCore) | (with_reducible apply inv_ite) | (with_reducible exact wf_nil) | split | simp only [inv_mk_iff] | (simp only [inv_mk_iff2]; refine ⟨?_, ?_⟩) | (with_reducible apply wf_core) | (with_reducible apply wf_srv) | with_reducible rfl | dsimp only | (with_reducible intro _ _) | (with_reducible intro _)

theorem inv_State_deliverAged (x0 : State) (x1 : ℕ) (x2 : ℕ) (x3 : ℕ) (x4 : Out) (h0 : State.Inv x0) : State.Inv (State.deliverAged x0 x1 x2 x3 x4) := by
  unfold State.deliverAged
  repeat' with_reducible first | assumption | apply inv_State_deliverHere | apply inv_post | split

theorem inv_State_dropTasks (x0 : State) (x1 : List Task) (h0 : State.Inv x0) : State.Inv (State.dropTasks x0 x1) := by
  fun_induction State.dropTasks x0 x1 <;> repeat' with_reducible first | assumption | apply_assumption | apply inv_State_freeLane | apply inv_State_leaveDone

theorem inv_State_stopTask (x0 : State) (x1 : Task) (x2 : Bool) (h0 : State.Inv x0) : State.Inv (State.stopTask x0 x1 x2) := by
  unfold State.stopTask
  repeat' with_reducible first | assumption | apply inv_State_freeLane | apply inv_State_giveLfsr | apply inv_State_leaveDone | apply inv_State_modTask | apply inv_State_wake

theorem inv_State_closePhase (x0 : State) (h0 : State.Inv x0) : State.Inv (State.closePhase x0) := by
  unfold State.closePhase
  dsimp only
  repeat' with_reducible first | assumption | apply inv_State_leaveDone | apply inv_modR | apply inv_modCore | split | simp only [inv_mk_iff] | (intro _ h; exact h) | dsimp only | intro _ _

theorem inv_execXatrResponse (x0 : ℕ) (x1 : ℕ) (x2 : Option ServerFail) (x3 : State) (h0 : State.Inv x3) : Outcome.Keeps (execXatrResponse x0 x1 x2 x3) := by
  unfold execXatrResponse
  repeat' with_reducible first | assumption | apply inv_State_settleAtomic | apply keeps_next | split

theorem inv_State_settleLoad (x0 : State) (x1 : Req) (h0 : State.Inv x0) : State.Inv (State.settleLoad x0 x1) := by
  unfold State.settleLoad
  repeat' with_reducible first | assumption | apply inv_State_deferFail | apply inv_State_doneTid | apply inv_State_dropReq | apply inv_State_modReq | apply inv_State_rangeRemove | apply inv_post | split

theorem inv_State_settleCopy (x0 : State) (x1 : Req) (x2 : Option ServerFail) (h0 : State.Inv x0) : State.Inv (State.settleCopy x0 x1 x2) := by
  unfold State.settleCopy
  dsimp only
  repeat' with_reducible first | assumption | apply inv_State_deferFail | apply inv_State_doneTid | apply inv_State_dropReq | apply inv_State_leaveBuffer | apply inv_State_leaveDone | apply inv_State_leavePorter | apply inv_State_rangeRemove | apply inv_modCore | split | simp only [inv_mk_iff] | (intro _ h; exact h) | dsimp only | intro _ _

theorem inv_execBellRelease (x0 : State) (h0 : State.Inv x0) : Outcome.Keeps (execBellRelease x0) := by
  unfold execBellRelease
  repeat' with_reducible first | assumption | apply inv_State_releaseBell | apply keeps_next | refine inv_foldl _ _ _ (fun _ _ _ => ?_) ?_ | refine wf_foldl _ _ _ (fun _ _ _ => ?_) ?_ | refine core_foldl _ _ _ (fun _ _ _ => ?_) ?_ | refine work_foldl _ _ _ (fun _ _ _ => ?_) ?_

theorem inv_State_writeCtrl (x0 : State) (x1 : ℕ) (x2 : List Byte) (h0 : State.Inv x0) : State.Inv (State.writeCtrl x0 x1 x2) := by
  unfold State.writeCtrl
  repeat' with_reducible first | assumption | apply inv_State_setCtrlWord

theorem inv_State_grantAcc (x0 : State) (x1 : ResNo) (h0 : State.Inv x0) : State.Inv (State.grantAcc x0 x1) := by
  unfold State.grantAcc
  repeat' with_reducible first | assumption | apply inv_CoreSt_clearAcc | apply inv_modRes | apply inv_after | apply inv_modCore | split

theorem inv_State_grantTile (x0 : State) (x1 : ResNo) (h0 : State.Inv x0) : State.Inv (State.grantTile x0 x1) := by
  unfold State.grantTile
  repeat' with_reducible first | assumption | apply inv_CoreSt_clearTiles | apply inv_modRes | apply inv_after | apply inv_modCore | split

theorem inv_State_clearGroups (x0 : State) (x1 : BitVec 6) (h0 : State.Inv x0) : State.Inv (State.clearGroups x0 x1) := by
  unfold State.clearGroups
  dsimp only
  repeat' with_reducible first | assumption | apply inv_CoreSt_clearAcc | apply inv_CoreSt_clearTiles | apply inv_modCore | split

theorem inv_execPackageReset (x0 : State) (h0 : State.Inv x0) : Outcome.Keeps (execPackageReset x0) := by
  unfold execPackageReset
  repeat' with_reducible first | assumption | apply inv_State_restart | apply keeps_next | split | exact inv_take (by assumption) (by assumption)

theorem inv_execRecoveryCommit (x0 : State) (h0 : State.Inv x0) : Outcome.Keeps (execRecoveryCommit x0) := by
  unfold execRecoveryCommit
  repeat' with_reducible first | assumption | apply inv_State_restart | apply keeps_next | split | exact inv_take (by assumption) (by assumption)

theorem inv_tilePut (x0 : ℕ) (x1 : Shape) (x2 : ℕ) (x3 : ℕ) (x4 : ℕ) (x5 : List Host.Cell) (h0 : Memory.wf x5 = true) : Memory.wf (tilePut x0 x1 x2 x3 x4 x5) = true := by
  unfold tilePut
  repeat' with_reducible first | assumption | apply Memory.wf_memPut | apply Memory.wf_memSet | split

theorem inv_CoreSt_putFull (x0 : CoreSt) (x1 : ℕ) (x2 : ℕ) (h0 : Memory.wf x0.mem = true) : Memory.wf (CoreSt.putFull x0 x1 x2).mem = true := by
  unfold CoreSt.putFull
  repeat' with_reducible first | assumption | apply Memory.wf_memPut

theorem inv_CoreSt_put (x0 : CoreSt) (x1 : ℕ) (x2 : List Byte) (h0 : Memory.wf x0.mem = true) : Memory.wf (CoreSt.put x0 x1 x2).mem = true := by
  unfold CoreSt.put
  repeat' with_reducible first | assumption | apply Memory.wf_memPut

theorem inv_Servers_put (x0 : Servers) (x1 : ℕ) (x2 : List Byte) (h0 : Memory.wf x0.mem = true) : Memory.wf (Servers.put x0 x1 x2).mem = true := by
  unfold Servers.put
  repeat' with_reducible first | assumption | apply Memory.wf_memPut

theorem inv_addWords (x0 : List Host.Cell) (x1 : ℕ) (x2 : ℕ) (x3 : List Byte) (h0 : Memory.wf x0 = true) : Memory.wf (addWords x0 x1 x2 x3) = true := by
  fun_induction addWords x0 x1 x2 x3 <;> repeat' with_reducible first | assumption | apply_assumption | apply Memory.wf_memPut

theorem inv_putPairs (x0 : Pair) (x1 : List (BitVec 64)) (x2 : List Host.Cell) (h0 : Memory.wf x2 = true) : Memory.wf (putPairs x0 x1 x2) = true := by
  fun_induction putPairs x0 x1 x2 <;> repeat' with_reducible first | assumption | apply_assumption | apply Memory.wf_memPut

theorem inv_accPut (x0 : AccDesc) (x1 : ℕ) (x2 : ℕ) (x3 : ℕ) (x4 : List Host.Cell) (h0 : Memory.wf x4 = true) : Memory.wf (accPut x0 x1 x2 x3 x4) = true := by
  unfold accPut
  repeat' with_reducible first | assumption | apply Memory.wf_memPut

theorem inv_movScales (x0 : Opnd) (x1 : Opnd) (x2 : ℕ) (x3 : List Host.Cell) (h0 : Memory.wf x3 = true) : Memory.wf (movScales x0 x1 x2 x3) = true := by
  unfold movScales
  repeat' with_reducible first | assumption | apply Memory.wf_memPut

theorem inv_cmpStep (x0 : Task) (x1 : BitVec 3) (x2 : BitVec 4) (x3 : BitVec 4) (x4 : BitVec 4) (x5 : ℕ) (x6 : Work) (h0 : Memory.wf x6.1 = true) : Memory.wf (cmpStep x0 x1 x2 x3 x4 x5 x6).1 = true := by
  unfold cmpStep
  repeat' with_reducible first | assumption | apply inv_maskPut | refine inv_foldl _ _ _ (fun _ _ _ => ?_) ?_ | refine wf_foldl _ _ _ (fun _ _ _ => ?_) ?_ | refine core_foldl _ _ _ (fun _ _ _ => ?_) ?_ | refine work_foldl _ _ _ (fun _ _ _ => ?_) ?_ | split

theorem inv_mlogStep (x0 : Task) (x1 : BitVec 3) (x2 : BitVec 3) (x3 : BitVec 3) (x4 : BitVec 4) (x5 : ℕ) (x6 : Work) (h0 : Memory.wf x6.1 = true) : Memory.wf (mlogStep x0 x1 x2 x3 x4 x5 x6).1 = true := by
  unfold mlogStep
  repeat' with_reducible first | assumption | apply inv_maskPut | refine inv_foldl _ _ _ (fun _ _ _ => ?_) ?_ | refine wf_foldl _ _ _ (fun _ _ _ => ?_) ?_ | refine core_foldl _ _ _ (fun _ _ _ => ?_) ?_ | refine work_foldl _ _ _ (fun _ _ _ => ?_) ?_ | split

theorem inv_State_fanOut (x0 : State) (x1 : ResNo) (x2 : BitVec 3) (x3 : EvField) (x4 : ℕ) (x5 : ℕ) (x6 : ℕ) (x7 : ℕ) (x8 : ℕ) (h0 : State.Inv x0) : State.Inv (State.fanOut x0 x1 x2 x3 x4 x5 x6 x7 x8) := by
  unfold State.fanOut
  dsimp only
  repeat' with_reducible first | assumption | apply inv_State_eventError | apply inv_State_sendEvent | apply inv_modRes | split

theorem inv_pushLandings (x0 : List (Landing × ℕ)) (x1 : State) (h0 : State.Inv x1) : State.Inv (pushLandings x0 x1) := by
  fun_induction pushLandings x0 x1 <;> repeat' with_reducible first | assumption | apply_assumption | apply inv_State_answerUp | apply inv_State_toLand | apply inv_modEnv | split

theorem inv_State_reply (x0 : State) (x1 : ServerReq) (x2 : Bool) (x3 : Instr) (h0 : State.Inv x0) : State.Inv (State.reply x0 x1 x2 x3) := h0

theorem inv_State_report (x0 : State) (x1 : Req) (x2 : Option ServerFail) (h0 : State.Inv x0) : State.Inv (State.report x0 x1 x2) := by
  unfold State.report
  repeat' with_reducible first | assumption | apply inv_State_answerUp | apply inv_State_leavePorter | apply inv_post | split

theorem inv_State_accepted (x0 : State) (x1 : ResNo) (x2 : Message) (h0 : State.Inv x0) : State.Inv (State.accepted x0 x1 x2) := h0

theorem inv_State_closeSend (x0 : State) (x1 : Send) (h0 : State.Inv x0) : State.Inv (State.closeSend x0 x1) := by
  unfold State.closeSend
  try dsimp only
  all_goals repeat' first | with_reducible assumption | (with_reducible exact inv_take (by assumption) (by assumption)) | (with_reducible intro _ h; with_reducible exact h) | (with_reducible first | apply inv_State_uncharge | apply inv_modCore) | (with_reducible apply inv_ite) | (with_reducible exact wf_nil) | split | simp only [inv_mk_iff] | (simp only [inv_mk_iff2]; refine ⟨?_, ?_⟩) | (with_reducible apply wf_core) | (with_reducible apply wf_srv) | with_reducible rfl | dsimp only | (with_reducible intro _ _) | (with_reducible intro _)

theorem inv_State_toRouter (x0 : State) (x1 : Inject) (h0 : State.Inv x0) : State.Inv (State.toRouter x0 x1) := by
  unfold State.toRouter
  dsimp only
  repeat' with_reducible first | assumption | apply inv_State_enterRouter | apply inv_State_openContext | split

theorem inv_State_watchRes (x0 : State) (x1 : ResNo) (h0 : State.Inv x0) : State.Inv (State.watchRes x0 x1) := by
  unfold State.watchRes
  try dsimp only
  all_goals repeat' first | with_reducible assumption | (with_reducible exact inv_take (by assumption) (by assumption)) | (with_reducible intro _ h; with_reducible exact h) | (with_reducible first | apply inv_State_seekRes | apply inv_State_watchSlice | apply inv_modCore) | (with_reducible apply inv_ite) | (with_reducible exact wf_nil) | split | simp only [inv_mk_iff] | (simp only [inv_mk_iff2]; refine ⟨?_, ?_⟩) | (with_reducible apply wf_core) | (with_reducible apply wf_srv) | with_reducible rfl | dsimp only | (with_reducible intro _ _) | (with_reducible intro _)

theorem inv_State_startTimer (x0 : State) (x1 : ℕ) (h0 : State.Inv x0) : State.Inv (State.startTimer x0 x1) := by
  unfold State.startTimer
  repeat' with_reducible first | assumption | apply inv_State_goesOut | apply inv_State_modReq | apply inv_after | split

theorem inv_allUnderWay (x0 : List Send) (x1 : State) (h0 : State.Inv x1) : State.Inv (allUnderWay x0 x1) := by
  fun_induction allUnderWay x0 x1 <;> repeat' with_reducible first | assumption | apply_assumption | apply inv_State_timeSend | apply inv_State_underWay

theorem inv_State_cancelAll (x0 : State) (x1 : ResNo) (h0 : State.Inv x0) : State.Inv (State.cancelAll x0 x1) := by
  unfold State.cancelAll
  repeat' with_reducible first | assumption | apply inv_State_clearFifos | apply inv_modRes | split | simp only [inv_mk_iff] | dsimp only

theorem inv_execVectorBind (x0 : State) (h0 : State.Inv x0) : Outcome.Keeps (execVectorBind x0) := by
  unfold execVectorBind
  repeat' with_reducible first | assumption | apply inv_State_bindLane | apply keeps_next | refine inv_foldl _ _ _ (fun _ _ _ => ?_) ?_ | refine wf_foldl _ _ _ (fun _ _ _ => ?_) ?_ | refine core_foldl _ _ _ (fun _ _ _ => ?_) ?_ | refine work_foldl _ _ _ (fun _ _ _ => ?_) ?_

theorem inv_State_finishCrews (x0 : State) (x1 : WorkOrder) (h0 : State.Inv x0) : State.Inv (State.finishCrews x0 x1) := by
  unfold State.finishCrews
  repeat' with_reducible first | assumption | apply inv_State_modOrder | apply inv_State_riseValue | refine inv_foldl _ _ _ (fun _ _ _ => ?_) ?_ | refine wf_foldl _ _ _ (fun _ _ _ => ?_) ?_ | refine core_foldl _ _ _ (fun _ _ _ => ?_) ?_ | refine work_foldl _ _ _ (fun _ _ _ => ?_) ?_

theorem inv_State_takeGrant (x0 : State) (x1 : ℕ) (x2 : BitVec 16) (x3 : ℕ) (x4 : Vector Extent 16) (x5 : BitVec 128) (h0 : State.Inv x0) : State.Inv (State.takeGrant x0 x1 x2 x3 x4 x5) := by
  unfold State.takeGrant
  repeat' with_reducible first | assumption | apply inv_State_modCrew | apply inv_State_modOrder | apply inv_modRes | split

theorem inv_execQtailWrite (x0 : State) (h0 : State.Inv x0) : Outcome.Keeps (execQtailWrite x0) := by
  unfold execQtailWrite
  repeat' with_reducible first | assumption | apply inv_State_discard | apply inv_State_tailWrite | apply keeps_next | split | exact inv_take (by assumption) (by assumption)

theorem inv_execQstatWrite (x0 : State) (h0 : State.Inv x0) : Outcome.Keeps (execQstatWrite x0) := by
  unfold execQstatWrite
  repeat' with_reducible first | assumption | apply inv_State_discard | apply inv_State_modQueue | apply keeps_next | split | exact inv_take (by assumption) (by assumption)

theorem inv_State_writeCounter (x0 : State) (x1 : ℕ) (x2 : HostWrite) (h0 : State.Inv x0) : State.Inv (State.writeCounter x0 x1 x2) := by
  unfold State.writeCounter
  dsimp only
  repeat' with_reducible first | assumption | apply inv_State_discard | apply inv_State_setCounter | split

theorem inv_closeLinks (x0 : ℕ) (x1 : List ℕ) (x2 : State) (h0 : State.Inv x2) : State.Inv (closeLinks x0 x1 x2) := by
  fun_induction closeLinks x0 x1 x2 <;> repeat' with_reducible first | assumption | apply_assumption | apply inv_State_closeLink | split

theorem inv_execKeySwitch (x0 : State) (h0 : State.Inv x0) : Outcome.Keeps (execKeySwitch x0) := by
  unfold execKeySwitch
  repeat' with_reducible first | assumption | apply inv_State_modDir | apply keeps_next | split | exact inv_take (by assumption) (by assumption) | simp only [inv_mk_iff] | dsimp only

theorem inv_execKeyAck (x0 : State) (h0 : State.Inv x0) : Outcome.Keeps (execKeyAck x0) := by
  unfold execKeyAck
  repeat' with_reducible first | assumption | apply inv_State_arrive | apply inv_State_modDir | apply inv_State_modLink | apply inv_after | apply keeps_next | split | exact inv_take (by assumption) (by assumption) | simp only [inv_mk_iff] | dsimp only

theorem inv_execRolloverTrigger (x0 : State) (h0 : State.Inv x0) : Outcome.Keeps (execRolloverTrigger x0) := by
  unfold execRolloverTrigger
  repeat' with_reducible first | assumption | apply inv_State_arrive | apply inv_State_draw | apply inv_State_modDir | apply inv_after | apply keeps_next | split

theorem inv_State_sendFlit (x0 : State) (x1 : ℕ) (x2 : Bool) (x3 : List Piece) (h0 : State.Inv x0) : State.Inv (State.sendFlit x0 x1 x2 x3) := h0

theorem inv_execKeyRetired (x0 : State) (h0 : State.Inv x0) : Outcome.Keeps (execKeyRetired x0) := by
  unfold execKeyRetired
  repeat' with_reducible first | assumption | apply inv_State_modDir | apply inv_modPkg | apply keeps_next | split | exact inv_take (by assumption) (by assumption)

theorem inv_execKeyInstall (x0 : State) (h0 : State.Inv x0) : Outcome.Keeps (execKeyInstall x0) := by
  unfold execKeyInstall
  repeat' with_reducible first | assumption | apply inv_State_arrive | apply inv_State_modDir | apply inv_State_modLink | apply inv_modPkg | apply keeps_next | split | exact inv_take (by assumption) (by assumption)

theorem inv_State_keyLinks (x0 : State) (h0 : State.Inv x0) : State.Inv (State.keyLinks x0) := by
  unfold State.keyLinks
  repeat' with_reducible first | assumption | apply inv_State_keyLink | refine inv_foldl _ _ _ (fun _ _ _ => ?_) ?_ | refine wf_foldl _ _ _ (fun _ _ _ => ?_) ?_ | refine core_foldl _ _ _ (fun _ _ _ => ?_) ?_ | refine work_foldl _ _ _ (fun _ _ _ => ?_) ?_

theorem inv_execFreeTokenCombine (x0 : ℕ) (x1 : Branch) (x2 : FreeToken) (x3 : State) (h0 : State.Inv x3) : Outcome.Keeps (execFreeTokenCombine x0 x1 x2 x3) := by
  unfold execFreeTokenCombine
  repeat' with_reducible first | assumption | apply inv_State_emitFor | apply keeps_next | split | simp only [inv_mk_iff] | dsimp only

theorem inv_State_answer (x0 : State) (x1 : Message) (x2 : Instr) (x3 : Out) (h0 : State.Inv x0) : State.Inv (State.answer x0 x1 x2 x3) := by
  unfold State.answer
  repeat' with_reducible first | assumption | apply inv_State_emitFor | apply inv_post | split

theorem inv_State_moveData (x0 : State) (x1 : Send) (x2 : ℕ) (x3 : ℕ) (x4 : Word) (h0 : State.Inv x0) : State.Inv (State.moveData x0 x1 x2 x3 x4) := by
  unfold State.moveData
  repeat' with_reducible first | assumption | apply inv_State_emitFor | apply inv_post | split

theorem inv_State_emit (x0 : State) (x1 : Out) (h0 : State.Inv x0) : State.Inv (State.emit x0 x1) := by
  unfold State.emit
  repeat' with_reducible first | assumption | apply inv_State_emitFor

theorem inv_State_eventIn (x0 : State) (x1 : EventRec) (x2 : Rank) (x3 : ℕ) (h0 : State.Inv x0) : State.Inv (State.eventIn x0 x1 x2 x3) := by
  unfold State.eventIn
  repeat' with_reducible first | assumption | apply inv_State_emitFor | apply inv_State_enqueueEvent | apply inv_State_kick | split

theorem inv_State_freeRoom (x0 : State) (x1 : Message) (h0 : State.Inv x0) : State.Inv (State.freeRoom x0 x1) := by
  unfold State.freeRoom
  repeat' with_reducible first | assumption | apply inv_State_emitFor | split

theorem inv_State_roomBack (x0 : State) (x1 : ℕ) (x2 : Rank) (x3 : Rank) (x4 : ℕ) (h0 : State.Inv x0) : State.Inv (State.roomBack x0 x1 x2 x3 x4) := by
  unfold State.roomBack
  repeat' with_reducible first | assumption | apply inv_State_emitFor

theorem inv_State_backRoom (x0 : State) (x1 : ℕ) (x2 : Rank) (x3 : Rank) (x4 : ℕ) (x5 : ℕ) (h0 : State.Inv x0) : State.Inv (State.backRoom x0 x1 x2 x3 x4 x5) := by
  unfold State.backRoom
  repeat' with_reducible first | assumption | apply inv_State_emitFor | split

theorem inv_State_transmit (x0 : State) (x1 : Send) (x2 : Message) (h0 : State.Inv x0) : State.Inv (State.transmit x0 x1 x2) := by
  unfold State.transmit
  repeat' with_reducible first | assumption | apply inv_State_emitFor | apply inv_State_timeSend | apply inv_State_underWay

theorem inv_State_sendNotice (x0 : State) (x1 : ℕ) (x2 : Rank) (x3 : BitVec 4) (h0 : State.Inv x0) : State.Inv (State.sendNotice x0 x1 x2 x3) := by
  unfold State.sendNotice
  repeat' with_reducible first | assumption | apply inv_State_emitFor | split

theorem inv_State_refuseCommand (x0 : State) (x1 : MatrixCommand) (x2 : BitVec 7) (x3 : Rank) (h0 : State.Inv x0) : State.Inv (State.refuseCommand x0 x1 x2 x3) := by
  unfold State.refuseCommand
  repeat' with_reducible first | assumption | apply inv_State_emitFor | apply inv_modRes | split

theorem inv_refuseToken (x0 : FreeToken) (x1 : List Rank) (x2 : State) (h0 : State.Inv x2) : State.Inv (refuseToken x0 x1 x2) := by
  fun_induction refuseToken x0 x1 x2 <;> repeat' with_reducible first | assumption | apply_assumption | apply inv_State_emitFor

theorem inv_State_eject (x0 : State) (x1 : Parcel) (h0 : State.Inv x0) : State.Inv (State.eject x0 x1) := by
  unfold State.eject
  repeat' with_reducible first | assumption | apply inv_State_deliverAged

theorem inv_State_faultStep (x0 : State) (x1 : Task) (x2 : BitVec 7) (x3 : ℕ) (h0 : State.Inv x0) : State.Inv (State.faultStep x0 x1 x2 x3) := by
  unfold State.faultStep
  repeat' with_reducible first | assumption | apply inv_State_pendN | apply inv_State_stopTask

theorem inv_stopTasks (x0 : List Task) (x1 : State) (h0 : State.Inv x1) : State.Inv (stopTasks x0 x1) := by
  fun_induction stopTasks x0 x1 <;> repeat' with_reducible first | assumption | apply_assumption | apply inv_State_stopTask | split

theorem inv_execXldResponse (x0 : ℕ) (x1 : ℕ) (x2 : List Byte) (x3 : Option ServerFail) (x4 : State) (h0 : State.Inv x4) : Outcome.Keeps (execXldResponse x0 x1 x2 x3 x4) := by
  unfold execXldResponse
  repeat' with_reducible first | assumption | apply inv_State_modReq | apply inv_State_settleLoad | apply keeps_next | split

theorem inv_execPorterCompletionReport (x0 : ℕ) (x1 : Option ServerFail) (x2 : State) (h0 : State.Inv x2) : Outcome.Keeps (execPorterCompletionReport x0 x1 x2) := by
  unfold execPorterCompletionReport
  repeat' with_reducible first | assumption | apply inv_State_settleCopy | apply keeps_next | split

theorem inv_State_failReq (x0 : State) (x1 : Req) (x2 : ServerFail) (h0 : State.Inv x0) : State.Inv (State.failReq x0 x1 x2) := by
  unfold State.failReq
  repeat' with_reducible first | assumption | apply inv_State_queueFail | apply inv_State_settleAtomic | apply inv_State_settleCopy | apply inv_State_settleLoad | apply inv_State_settleWrite | split

theorem inv_State_resolve (x0 : State) (x1 : Bool) (x2 : Bool) (h0 : State.Inv x0) : State.Inv (State.resolve x0 x1 x2) := by
  unfold State.resolve
  dsimp only
  repeat' with_reducible first | assumption | apply inv_State_grantAcc | apply inv_State_grantTile | split

theorem inv_accrdStep (x0 : Task) (x1 : BitVec 4) (x2 : Bool) (x3 : BitVec 3) (x4 : ℕ) (x5 : Work) (h0 : Memory.wf x5.1 = true) : Memory.wf (accrdStep x0 x1 x2 x3 x4 x5).1 = true := by
  unfold accrdStep
  repeat' with_reducible first | assumption | apply inv_tilePut | refine inv_foldl _ _ _ (fun _ _ _ => ?_) ?_ | refine wf_foldl _ _ _ (fun _ _ _ => ?_) ?_ | refine core_foldl _ _ _ (fun _ _ _ => ?_) ?_ | refine work_foldl _ _ _ (fun _ _ _ => ?_) ?_ | split

theorem inv_idxStep (x0 : Task) (x1 : BitVec 4) (x2 : BitVec 4) (x3 : BitVec 4) (x4 : Bool) (x5 : Bool) (x6 : ℕ) (x7 : Work) (h0 : Memory.wf x7.1 = true) : Memory.wf (idxStep x0 x1 x2 x3 x4 x5 x6 x7).1 = true := by
  unfold idxStep
  repeat' with_reducible first | assumption | apply inv_tilePut | refine inv_foldl _ _ _ (fun _ _ _ => ?_) ?_ | refine wf_foldl _ _ _ (fun _ _ _ => ?_) ?_ | refine core_foldl _ _ _ (fun _ _ _ => ?_) ?_ | refine work_foldl _ _ _ (fun _ _ _ => ?_) ?_ | split

theorem inv_qntBlock (x0 : Opnd) (x1 : Opnd) (x2 : ℕ) (x3 : ℕ) (x4 : BitVec 3) (x5 : List Host.Cell) (x6 : ℕ) (x7 : ℕ) (x8 : Work) (h0 : Memory.wf x5 = true) (h1 : Memory.wf x8.1 = true) : Memory.wf (qntBlock x0 x1 x2 x3 x4 x5 x6 x7 x8).1 = true := by
  have key : ∀ (x : Nat) (l : List Nat), Memory.wf (l.foldl (fun (acc : Work × Bool) j =>
      let v := elemVal x1.fmt (x1.get x5 x6 j)
      let c := if x = 63 then 0 else n4Encode x3 x4 acc.1.2 (v.scale (32 - (x : Int)))
      let q := if x = 63 then acc.1.2 else lfsrAfter x4 acc.1.2
      if maskGet x5 x2 x6 j then ((tilePut x0.n x0.sh x6 j c acc.1.1, q), true) else ((acc.1.1, q), acc.2)) (x8, false)).1.1 = true := by
    intro x l
    refine wb_foldl _ l _ (fun t a ht => ?_) h1
    dsimp only
    split
    · exact inv_tilePut _ _ _ _ _ _ ht
    · exact ht
  unfold qntBlock
  lift_lets
  intro bl js vals amax x r
  have hr : Memory.wf r.1.1 = true := key x js
  by_cases hc : r.2 = true
  · rw [if_pos hc]; exact Memory.wf_memSet _ _ _ hr
  · rw [if_neg hc]; exact hr

theorem inv_casPair (x0 : Opnd) (x1 : Opnd) (x2 : Bool) (x3 : Bool) (x4 : ℕ × ℕ) (x5 : ℕ × ℕ) (x6 : List Host.Cell) (h0 : Memory.wf x6 = true) : Memory.wf (casPair x0 x1 x2 x3 x4 x5 x6) = true := by
  unfold casPair
  dsimp only
  repeat' with_reducible first | assumption | apply inv_tilePut | split

theorem inv_vecWrite (x0 : Task) (x1 : Opnd) (x2 : List Host.Cell) (x3 : List (ℕ × ℕ)) (x4 : Work) (h0 : Memory.wf x2 = true) (h1 : Memory.wf x4.1 = true) : Memory.wf (vecWrite x0 x1 x2 x3 x4).1 = true := by
  induction x3 generalizing x4 with
  | nil => exact h1
  | cons p t ih =>
    unfold vecWrite
    apply ih
    dsimp only
    split
    · split
      · exact inv_tilePut _ _ _ _ _ _ h1
      · exact h1
    · exact h1

theorem inv_State_writeRecord (x0 : State) (x1 : ResNo) (x2 : Word) (x3 : ℕ) (x4 : ℕ) (x5 : ℕ) (x6 : ℕ) (x7 : ℕ) (h0 : State.Inv x0) : State.Inv (State.writeRecord x0 x1 x2 x3 x4 x5 x6 x7) := by
  unfold State.writeRecord
  dsimp only
  repeat' with_reducible first | assumption | apply inv_CoreSt_putFull | apply inv_modCore | apply Memory.wf_memPut | split | simp only [inv_mk_iff] | (intro _ h; exact h) | dsimp only | intro _ _

theorem inv_zeroRows (x0 : AccDesc) (x1 : List ℕ) (x2 : CoreSt) (h0 : Memory.wf x2.mem = true) : Memory.wf (zeroRows x0 x1 x2).mem = true := by
  fun_induction zeroRows x0 x1 x2 <;> repeat' with_reducible first | assumption | apply_assumption | apply inv_CoreSt_put

theorem inv_State_writeBytes (x0 : State) (x1 : ℕ) (x2 : List Byte) (h0 : State.Inv x0) : State.Inv (State.writeBytes x0 x1 x2) := by
  rw [State.writeBytes]
  split
  · exact h0
  · refine inv_ite _ _ _ h0 (inv_ite _ _ _ (inv_State_writeCtrl _ _ _ h0) (inv_ite _ _ _ (inv_State_writeTags _ _ _ h0) ?_))
    exact inv_State_windowLive _ _ _ _ (inv_modCore _ _ (fun c hc => inv_CoreSt_put _ _ _ hc) h0)

theorem inv_tldRow (x0 : Task) (x1 : BitVec 4) (x2 : BitVec 16) (x3 : State) (h0 : State.Inv x3) : State.Inv (tldRow x0 x1 x2 x3) := by
  unfold tldRow
  dsimp only
  repeat' with_reducible first | assumption | apply inv_CoreSt_put | apply inv_modCore | split | simp only [inv_mk_iff] | (intro _ h; exact h) | dsimp only | intro _ _

theorem inv_State_storeCode (x0 : State) (x1 : ImageCore) (h0 : State.Inv x0) : State.Inv (State.storeCode x0 x1) := by
  unfold State.storeCode
  try dsimp only
  all_goals repeat' first | with_reducible assumption | (with_reducible exact inv_take (by assumption) (by assumption)) | (with_reducible intro _ h; with_reducible exact h) | (with_reducible first | apply inv_CoreSt_put | apply inv_modCore) | (with_reducible apply inv_ite) | (with_reducible exact wf_nil) | split | simp only [inv_mk_iff] | (simp only [inv_mk_iff2]; refine ⟨?_, ?_⟩) | (with_reducible apply wf_core) | (with_reducible apply wf_srv) | with_reducible rfl | dsimp only | (with_reducible intro _ _) | (with_reducible intro _)

theorem inv_State_saveRes (x0 : State) (x1 : ResNo) (h0 : State.Inv x0) : State.Inv (State.saveRes x0 x1) := by
  unfold State.saveRes
  dsimp only
  repeat' with_reducible first | assumption | apply inv_CoreSt_put | apply inv_State_as | apply inv_modR | apply inv_modCore | split | simp only [inv_mk_iff] | (intro _ h; exact h) | dsimp only | intro _ _

theorem inv_putUnits (x0 : Res) (x1 : List ℕ) (x2 : List Byte) (x3 : CoreSt) (h0 : Memory.wf x3.mem = true) : Memory.wf (putUnits x0 x1 x2 x3).mem = true := by
  fun_induction putUnits x0 x1 x2 x3 <;> repeat' with_reducible first | assumption | apply_assumption | apply inv_CoreSt_put

theorem inv_leakAll (x0 : EvField) (x1 : List (ℕ × ℕ)) (x2 : CoreSt) (h0 : Memory.wf x2.mem = true) : Memory.wf (leakAll x0 x1 x2).mem = true := by
  induction x1 generalizing x0 x2 with
  | nil => exact h0
  | cons a t ih =>
    unfold leakAll
    try dsimp only
    repeat' first | with_reducible assumption | (with_reducible exact inv_take (by assumption) (by assumption)) | (with_reducible intro _ h; with_reducible exact h) | (with_reducible apply ih) | (with_reducible first | apply inv_CoreSt_put) | (with_reducible apply inv_ite) | (with_reducible exact wf_nil) | split | simp only [inv_mk_iff] | (simp only [inv_mk_iff2]; refine ⟨?_, ?_⟩) | (with_reducible apply wf_core) | (with_reducible apply wf_srv) | with_reducible rfl | dsimp only | (with_reducible intro _ _) | (with_reducible intro _)

theorem inv_fillWords (x0 : AccDesc) (x1 : List (ℕ × ℕ)) (x2 : List Byte) (x3 : CoreSt) (h0 : Memory.wf x3.mem = true) : Memory.wf (fillWords x0 x1 x2 x3).mem = true := by
  fun_induction fillWords x0 x1 x2 x3 <;> repeat' with_reducible first | assumption | apply_assumption | apply inv_CoreSt_put

theorem inv_State_writeArea (x0 : State) (x1 : WorkOrder) (x2 : ImageCrew) (x3 : Vector Extent 16) (h0 : State.Inv x0) : State.Inv (State.writeArea x0 x1 x2 x3) := by
  unfold State.writeArea
  try dsimp only
  all_goals repeat' first | with_reducible assumption | (with_reducible exact inv_take (by assumption) (by assumption)) | (with_reducible intro _ h; with_reducible exact h) | (with_reducible first | apply inv_Servers_put) | (with_reducible apply inv_ite) | (with_reducible exact wf_nil) | split | simp only [inv_mk_iff] | (simp only [inv_mk_iff2]; refine ⟨?_, ?_⟩) | (with_reducible apply wf_core) | (with_reducible apply wf_srv) | with_reducible rfl | dsimp only | (with_reducible intro _ _) | (with_reducible intro _)

theorem inv_State_withPairs (x0 : State) (x1 : List (BitVec 64)) (h0 : State.Inv x0) : State.Inv (State.withPairs x0 x1) := by
  unfold State.withPairs
  dsimp only
  repeat' with_reducible first | assumption | apply inv_putPairs | apply inv_modRes | apply inv_modCore | split | simp only [inv_mk_iff] | (intro _ h; exact h) | dsimp only | intro _ _

theorem inv_mmaXStep (x0 : Task) (x1 : BitVec 4) (x2 : BitVec 4) (x3 : Work) (h0 : Memory.wf x3.1 = true) : Memory.wf (mmaXStep x0 x1 x2 x3).1 = true := by
  unfold mmaXStep
  dsimp only
  repeat' with_reducible first | assumption | apply inv_accPut | refine inv_foldl _ _ _ (fun _ _ _ => ?_) ?_ | refine wf_foldl _ _ _ (fun _ _ _ => ?_) ?_ | refine core_foldl _ _ _ (fun _ _ _ => ?_) ?_ | refine work_foldl _ _ _ (fun _ _ _ => ?_) ?_ | split

theorem inv_accxClose (x0 : AccDesc) (x1 : BitVec 3) (x2 : Work) (h0 : Memory.wf x2.1 = true) : Memory.wf (accxClose x0 x1 x2).1 = true := by
  unfold accxClose
  dsimp only
  repeat' with_reducible first | assumption | apply inv_accPut | refine inv_foldl _ _ _ (fun _ _ _ => ?_) ?_ | refine wf_foldl _ _ _ (fun _ _ _ => ?_) ?_ | refine core_foldl _ _ _ (fun _ _ _ => ?_) ?_ | refine work_foldl _ _ _ (fun _ _ _ => ?_) ?_ | split

theorem inv_accxWrite (x0 : AccDesc) (x1 : ℕ) (x2 : ℕ) (x3 : AccxState) (x4 : List Host.Cell) (h0 : Memory.wf x4 = true) : Memory.wf (accxWrite x0 x1 x2 x3 x4) = true := by
  unfold accxWrite
  repeat' with_reducible first | assumption | apply inv_accPut

theorem inv_accwrStep (x0 : Task) (x1 : BitVec 4) (x2 : Bool) (x3 : ℕ) (x4 : Work) (h0 : Memory.wf x4.1 = true) : Memory.wf (accwrStep x0 x1 x2 x3 x4).1 = true := by
  unfold accwrStep
  repeat' with_reducible first | assumption | apply inv_accPut | refine inv_foldl _ _ _ (fun _ _ _ => ?_) ?_ | refine wf_foldl _ _ _ (fun _ _ _ => ?_) ?_ | refine core_foldl _ _ _ (fun _ _ _ => ?_) ?_ | refine work_foldl _ _ _ (fun _ _ _ => ?_) ?_ | split

theorem inv_mmaStep (x0 : Task) (x1 : BitVec 4) (x2 : BitVec 4) (x3 : BitVec 3) (x4 : Work) (h0 : Memory.wf x4.1 = true) : Memory.wf (mmaStep x0 x1 x2 x3 x4).1 = true := by
  unfold mmaStep
  repeat' with_reducible first | assumption | apply inv_accPut | refine inv_foldl _ _ _ (fun _ _ _ => ?_) ?_ | refine wf_foldl _ _ _ (fun _ _ _ => ?_) ?_ | refine core_foldl _ _ _ (fun _ _ _ => ?_) ?_ | refine work_foldl _ _ _ (fun _ _ _ => ?_) ?_

theorem inv_fanAll (x0 : ResNo) (x1 : BitVec 3) (x2 : EvField) (x3 : ℕ) (x4 : ℕ) (x5 : ℕ) (x6 : ℕ) (x7 : List ℕ) (x8 : State) (h0 : State.Inv x8) : State.Inv (fanAll x0 x1 x2 x3 x4 x5 x6 x7 x8) := by
  fun_induction fanAll x0 x1 x2 x3 x4 x5 x6 x7 x8 <;> repeat' with_reducible first | assumption | apply_assumption | apply inv_State_fanOut

theorem inv_State_landStep (x0 : State) (h0 : State.Inv x0) : State.Inv (State.landStep x0) := by
  unfold State.landStep
  try dsimp only
  all_goals repeat' first | with_reducible assumption | (with_reducible exact inv_take (by assumption) (by assumption)) | (with_reducible intro _ h; with_reducible exact h) | (with_reducible first | apply inv_pushLandings) | (with_reducible apply inv_ite) | (with_reducible exact wf_nil) | split | simp only [inv_mk_iff] | (simp only [inv_mk_iff2]; refine ⟨?_, ?_⟩) | (with_reducible apply wf_core) | (with_reducible apply wf_srv) | with_reducible rfl | dsimp only | (with_reducible intro _ _) | (with_reducible intro _)

theorem inv_State_copyPart (x0 : State) (x1 : ℕ) (x2 : Option ServerFail) (h0 : State.Inv x0) : State.Inv (State.copyPart x0 x1 x2) := by
  unfold State.copyPart
  dsimp only
  repeat' with_reducible first | assumption | apply inv_State_modReq | apply inv_State_report | split

theorem inv_State_failBad (x0 : State) (x1 : ℕ) (h0 : State.Inv x0) : State.Inv (State.failBad x0 x1) := by
  unfold State.failBad
  repeat' with_reducible first | assumption | apply inv_State_closeSend | apply inv_State_localDone | apply inv_State_sendError | split

theorem inv_State_settleSend (x0 : State) (x1 : ℕ) (h0 : State.Inv x0) : State.Inv (State.settleSend x0 x1) := by
  unfold State.settleSend
  repeat' with_reducible first | assumption | apply inv_State_closeSend | split

theorem inv_State_leaveNi (x0 : State) (x1 : Inject) (h0 : State.Inv x0) : State.Inv (State.leaveNi x0 x1) := by
  unfold State.leaveNi
  repeat' with_reducible first | assumption | apply inv_State_forwardRead | apply inv_State_startTimer | apply inv_State_toRouter | split

theorem inv_State_settleEnds (x0 : State) (h0 : State.Inv x0) : State.Inv (State.settleEnds x0) := by
  unfold State.settleEnds
  repeat' with_reducible first | assumption | apply inv_State_finishCrews | apply inv_State_modOrder | apply inv_modPkg | refine inv_foldl _ _ _ (fun _ _ _ => ?_) ?_ | refine wf_foldl _ _ _ (fun _ _ _ => ?_) ?_ | refine core_foldl _ _ _ (fun _ _ _ => ?_) ?_ | refine work_foldl _ _ _ (fun _ _ _ => ?_) ?_

theorem inv_applyCounter (x0 : ℕ) (x1 : ℕ) (x2 : State) (h0 : State.Inv x2) : State.Inv (applyCounter x0 x1 x2) := by
  fun_induction applyCounter x0 x1 x2
  all_goals try dsimp only
  all_goals repeat' first | with_reducible assumption | (with_reducible exact inv_take (by assumption) (by assumption)) | (with_reducible intro _ h; with_reducible exact h) | (with_reducible apply_assumption) | (with_reducible first | apply inv_State_writeCounter) | (with_reducible apply inv_ite) | (with_reducible exact wf_nil) | split | simp only [inv_mk_iff] | (simp only [inv_mk_iff2]; refine ⟨?_, ?_⟩) | (with_reducible apply wf_core) | (with_reducible apply wf_srv) | with_reducible rfl | dsimp only | (with_reducible intro _ _) | (with_reducible intro _)

theorem inv_execCounterWrite (x0 : State) (h0 : State.Inv x0) : Outcome.Keeps (execCounterWrite x0) := by
  unfold execCounterWrite
  repeat' with_reducible first | assumption | apply inv_State_writeCounter | apply keeps_next | split | exact inv_take (by assumption) (by assumption)

theorem inv_State_sendPackets (x0 : State) (x1 : ℕ) (x2 : Bool) (x3 : List (List Byte)) (h0 : State.Inv x0) : State.Inv (State.sendPackets x0 x1 x2 x3) := by
  unfold State.sendPackets
  repeat' with_reducible first | assumption | apply inv_State_sendFlit | refine inv_foldl _ _ _ (fun _ _ _ => ?_) ?_ | refine wf_foldl _ _ _ (fun _ _ _ => ?_) ?_ | refine core_foldl _ _ _ (fun _ _ _ => ?_) ?_ | refine work_foldl _ _ _ (fun _ _ _ => ?_) ?_ | split

theorem inv_execIdleFlit (x0 : State) (h0 : State.Inv x0) : Outcome.Keeps (execIdleFlit x0) := by
  unfold execIdleFlit
  repeat' with_reducible first | assumption | apply inv_State_sendFlit | apply keeps_next | split

theorem inv_State_sayAccepted (x0 : State) (x1 : Message) (h0 : State.Inv x0) : State.Inv (State.sayAccepted x0 x1) := by
  unfold State.sayAccepted
  repeat' with_reducible first | assumption | apply inv_State_answer

theorem inv_endHeld (x0 : List Held) (x1 : State) (h0 : State.Inv x1) : State.Inv (endHeld x0 x1) := by
  fun_induction endHeld x0 x1 <;> repeat' with_reducible first | assumption | apply_assumption | apply inv_State_answer | split

theorem inv_State_beginLanding (x0 : State) (x1 : ResNo) (x2 : Landed) (h0 : State.Inv x0) : State.Inv (State.beginLanding x0 x1 x2) := by
  unfold State.beginLanding
  dsimp only
  repeat' with_reducible first | assumption | apply inv_State_answer | apply inv_modRes | apply inv_post | apply inv_after | split

theorem inv_State_sayDemoted (x0 : State) (x1 : Message) (h0 : State.Inv x0) : State.Inv (State.sayDemoted x0 x1) := by
  unfold State.sayDemoted
  repeat' with_reducible first | assumption | apply inv_State_answer

theorem inv_State_sayDone (x0 : State) (x1 : Message) (h0 : State.Inv x0) : State.Inv (State.sayDone x0 x1) := by
  unfold State.sayDone
  repeat' with_reducible first | assumption | apply inv_State_answer

theorem inv_State_sayRefused (x0 : State) (x1 : Message) (h0 : State.Inv x0) : State.Inv (State.sayRefused x0 x1) := by
  unfold State.sayRefused
  repeat' with_reducible first | assumption | apply inv_State_answer

theorem inv_State_disband (x0 : State) (x1 : Bool) (h0 : State.Inv x0) : State.Inv (State.disband x0 x1) := by
  unfold State.disband
  dsimp only
  repeat' with_reducible first | assumption | apply inv_State_emit | apply inv_modR | apply inv_modCore | split | simp only [inv_mk_iff] | (intro _ h; exact h) | dsimp only | intro _ _

theorem inv_State_takePieces (x0 : State) (x1 : ℕ) (x2 : Bool) (x3 : List Piece) (h0 : State.Inv x0) : State.Inv (State.takePieces x0 x1 x2 x3) := by
  fun_induction State.takePieces x0 x1 x2 x3 <;> repeat' with_reducible first | assumption | apply_assumption | apply inv_State_emit | apply inv_State_modDir | split

theorem inv_execHostSpdmRequest (x0 : State) (h0 : State.Inv x0) : Outcome.Keeps (execHostSpdmRequest x0) := by
  unfold execHostSpdmRequest
  repeat' with_reducible first | assumption | apply inv_State_emit | apply keeps_next | split | exact inv_take (by assumption) (by assumption)

theorem inv_State_startRing (x0 : State) (x1 : Task) (x2 : Bool) (x3 : BitVec 4) (h0 : State.Inv x0) : State.Inv (State.startRing x0 x1 x2 x3) := h0

theorem inv_State_collide (x0 : State) (x1 : ℕ) (x2 : ℕ) (h0 : State.Inv x0) : State.Inv (State.collide x0 x1 x2) := by
  unfold State.collide
  repeat' with_reducible first | assumption | apply inv_State_emit | apply inv_State_markPhase

theorem inv_State_answerAtomic (x0 : State) (x1 : ServerReq) (x2 : ℕ) (x3 : Option ServerFail) (h0 : State.Inv x0) : State.Inv (State.answerAtomic x0 x1 x2 x3) := by
  unfold State.answerAtomic
  repeat' with_reducible first | assumption | apply inv_State_emit | apply inv_State_leaveOther | apply inv_State_reply | split

theorem inv_forwardRevocation (x0 : ℕ) (x1 : ℕ) (x2 : ℕ) (x3 : List ℕ) (x4 : State) (h0 : State.Inv x4) : State.Inv (forwardRevocation x0 x1 x2 x3 x4) := by
  fun_induction forwardRevocation x0 x1 x2 x3 x4 <;> repeat' with_reducible first | assumption | apply_assumption | apply inv_State_emit | split

theorem inv_sendStarts (x0 : ℕ) (x1 : List Place) (x2 : State) (h0 : State.Inv x2) : State.Inv (sendStarts x0 x1 x2) := by
  fun_induction sendStarts x0 x1 x2 <;> repeat' with_reducible first | assumption | apply_assumption | apply inv_State_emit | apply inv_post | split

theorem inv_State_answerWrite (x0 : State) (x1 : ServerReq) (x2 : Option ServerFail) (h0 : State.Inv x0) : State.Inv (State.answerWrite x0 x1 x2) := by
  unfold State.answerWrite
  repeat' with_reducible first | assumption | apply inv_State_emit | apply inv_State_leaveOther | apply inv_State_reply | apply inv_post | split

theorem inv_tellMembers (x0 : ℕ) (x1 : BitVec 32) (x2 : List Place) (x3 : State) (h0 : State.Inv x3) : State.Inv (tellMembers x0 x1 x2 x3) := by
  fun_induction tellMembers x0 x1 x2 x3 <;> repeat' with_reducible first | assumption | apply_assumption | apply inv_State_emit | apply inv_modRes | split

theorem inv_State_portPacket (x0 : State) (x1 : ℕ) (x2 : UetMode) (x3 : ℕ) (x4 : Bool) (x5 : Bool) (x6 : Bool) (x7 : Option Parcel) (h0 : State.Inv x0) : State.Inv (State.portPacket x0 x1 x2 x3 x4 x5 x6 x7) := by
  unfold State.portPacket
  repeat' with_reducible first | assumption | apply inv_State_emit | apply inv_State_enterRouter | apply inv_modPkg | split

theorem inv_State_gangTell (x0 : State) (h0 : State.Inv x0) : State.Inv (State.gangTell x0) := by
  unfold State.gangTell
  dsimp only
  repeat' with_reducible first | assumption | apply inv_State_at | apply inv_State_emit | apply inv_modCore | split | simp only [inv_mk_iff] | (intro _ h; exact h) | dsimp only | intro _ _

theorem inv_State_serveExpert (x0 : State) (h0 : State.Inv x0) : State.Inv (State.serveExpert x0) := by
  unfold State.serveExpert
  repeat' with_reducible first | assumption | apply inv_State_chargeIn | apply inv_State_emit | split | simp only [inv_mk_iff] | dsimp only

theorem inv_execGetDeviceInterfaceReport (x0 : State) (h0 : State.Inv x0) : Outcome.Keeps (execGetDeviceInterfaceReport x0) := by
  unfold execGetDeviceInterfaceReport
  repeat' with_reducible first | assumption | apply inv_State_emit | apply keeps_next | split | exact inv_take (by assumption) (by assumption)

theorem inv_State_mgmtRead (x0 : State) (x1 : Bool) (x2 : ℕ) (h0 : State.Inv x0) : State.Inv (State.mgmtRead x0 x1 x2) := by
  unfold State.mgmtRead
  repeat' with_reducible first | assumption | apply inv_State_emit | split

theorem inv_sendKeys (x0 : ℕ) (x1 : List Enclave) (x2 : State) (h0 : State.Inv x2) : State.Inv (sendKeys x0 x1 x2) := by
  induction x1 generalizing x0 x2 with
  | nil => exact h0
  | cons a t ih =>
    unfold sendKeys
    try dsimp only
    repeat' first | with_reducible assumption | (with_reducible exact inv_take (by assumption) (by assumption)) | (with_reducible intro _ h; with_reducible exact h) | (with_reducible apply ih) | (with_reducible first | apply inv_State_emit | refine inv_foldl _ _ _ (fun _ _ _ => ?_) ?_ | refine wf_foldl _ _ _ (fun _ _ _ => ?_) ?_ | refine core_foldl _ _ _ (fun _ _ _ => ?_) ?_ | refine work_foldl _ _ _ (fun _ _ _ => ?_) ?_) | (with_reducible apply inv_ite) | (with_reducible exact wf_nil) | split | simp only [inv_mk_iff] | (simp only [inv_mk_iff2]; refine ⟨?_, ?_⟩) | (with_reducible apply wf_core) | (with_reducible apply wf_srv) | with_reducible rfl | dsimp only | (with_reducible intro _ _) | (with_reducible intro _)

theorem inv_State_phaseLeave (x0 : State) (x1 : ResNo) (h0 : State.Inv x0) : State.Inv (State.phaseLeave x0 x1) := by
  unfold State.phaseLeave
  repeat' with_reducible first | assumption | apply inv_State_emit | split

theorem inv_State_arriveBell (x0 : State) (x1 : Bool) (x2 : BitVec 4) (x3 : Bool) (h0 : State.Inv x0) : State.Inv (State.arriveBell x0 x1 x2 x3) := by
  unfold State.arriveBell
  dsimp only
  repeat' with_reducible first | assumption | apply inv_State_askPhase | apply inv_State_countBell | apply inv_State_emit | apply inv_modC | split

theorem inv_State_hostRead (x0 : State) (x1 : HostWrite) (h0 : State.Inv x0) : State.Inv (State.hostRead x0 x1) := by
  unfold State.hostRead
  repeat' with_reducible first | assumption | apply inv_State_discard | apply inv_State_emit | apply inv_modEnv | split

theorem inv_sendFlits (x0 : ℕ) (x1 : ℕ) (x2 : List Exch) (x3 : State) (h0 : State.Inv x3) : State.Inv (sendFlits x0 x1 x2 x3) := by
  induction x2 generalizing x0 x1 x3 with
  | nil => exact h0
  | cons a t ih =>
    unfold sendFlits
    try dsimp only
    repeat' first | with_reducible assumption | (with_reducible exact inv_take (by assumption) (by assumption)) | (with_reducible intro _ h; with_reducible exact h) | (with_reducible apply ih) | (with_reducible first | apply inv_State_emit | apply inv_State_modExch | apply inv_State_rangeRemove | apply inv_after | refine inv_foldl _ _ _ (fun _ _ _ => ?_) ?_ | refine wf_foldl _ _ _ (fun _ _ _ => ?_) ?_ | refine core_foldl _ _ _ (fun _ _ _ => ?_) ?_ | refine work_foldl _ _ _ (fun _ _ _ => ?_) ?_) | (with_reducible apply inv_ite) | (with_reducible exact wf_nil) | split | simp only [inv_mk_iff] | (simp only [inv_mk_iff2]; refine ⟨?_, ?_⟩) | (with_reducible apply wf_core) | (with_reducible apply wf_srv) | with_reducible rfl | dsimp only | (with_reducible intro _ _) | (with_reducible intro _)

theorem inv_State_askStep (x0 : State) (x1 : Flow) (x2 : ℕ) (h0 : State.Inv x0) : State.Inv (State.askStep x0 x1 x2) := by
  unfold State.askStep
  repeat' with_reducible first | assumption | apply inv_State_emit | apply inv_modPkg | apply inv_after | split

theorem inv_execClearToSend (x0 : ℕ) (x1 : Clearance) (x2 : State) (h0 : State.Inv x2) : Outcome.Keeps (execClearToSend x0 x1 x2) := by
  unfold execClearToSend
  dsimp only
  repeat' with_reducible first | assumption | apply inv_State_backRoom | apply inv_State_closeSend | apply inv_State_localDone | apply inv_State_modSend | apply inv_State_moveData | apply inv_State_sendError | apply inv_State_timeSend | apply inv_post | apply keeps_next | split

theorem inv_State_retry (x0 : State) (x1 : Send) (h0 : State.Inv x0) : State.Inv (State.retry x0 x1) := by
  unfold State.retry
  repeat' with_reducible first | assumption | apply inv_State_modSend | apply inv_State_transmit

theorem inv_State_firstAttempt (x0 : State) (x1 : Send) (h0 : State.Inv x0) : State.Inv (State.firstAttempt x0 x1) := by
  unfold State.firstAttempt
  repeat' with_reducible first | assumption | apply inv_State_transmit

theorem inv_State_finishTask (x0 : State) (x1 : Task) (h0 : State.Inv x0) : State.Inv (State.finishTask x0 x1) := by
  unfold State.finishTask
  dsimp only
  repeat' with_reducible first | assumption | apply inv_State_freeLane | apply inv_State_leaveDone | apply inv_State_rangeRemove | apply inv_State_sendNotice | apply inv_State_wake | apply inv_modRes | apply inv_modCore | split | simp only [inv_mk_iff] | (intro _ h; exact h) | dsimp only | intro _ _

theorem inv_State_commandIn (x0 : State) (x1 : MatrixCommand) (h0 : State.Inv x0) : State.Inv (State.commandIn x0 x1) := by
  unfold State.commandIn
  repeat' with_reducible first | assumption | apply inv_State_enqueue | apply inv_State_refuseCommand | split

theorem inv_execFreeTokenArrival (x0 : FreeToken) (x1 : State) (h0 : State.Inv x1) : Outcome.Keeps (execFreeTokenArrival x0 x1) := by
  unfold execFreeTokenArrival
  dsimp only
  repeat' with_reducible first | assumption | apply inv_State_backRoom | apply inv_refuseToken | apply inv_modRes | apply keeps_next | refine inv_foldl _ _ _ (fun _ _ _ => ?_) ?_ | refine wf_foldl _ _ _ (fun _ _ _ => ?_) ?_ | refine core_foldl _ _ _ (fun _ _ _ => ?_) ?_ | refine work_foldl _ _ _ (fun _ _ _ => ?_) ?_ | split

theorem inv_State_grantPort (x0 : State) (x1 : ℕ) (h0 : State.Inv x0) : State.Inv (State.grantPort x0 x1) := by
  unfold State.grantPort
  dsimp only
  repeat' with_reducible first | assumption | apply inv_State_arriveFar | apply inv_State_eject | apply inv_modEnv | apply inv_modCore | split | simp only [inv_mk_iff] | (intro _ h; exact h) | dsimp only | intro _ _

theorem inv_State_stopAll (x0 : State) (x1 : Task → Bool) (h0 : State.Inv x0) : State.Inv (State.stopAll x0 x1) := by
  unfold State.stopAll
  repeat' with_reducible first | assumption | apply inv_stopTasks | refine inv_foldl _ _ _ (fun _ _ _ => ?_) ?_ | refine wf_foldl _ _ _ (fun _ _ _ => ?_) ?_ | refine core_foldl _ _ _ (fun _ _ _ => ?_) ?_ | refine work_foldl _ _ _ (fun _ _ _ => ?_) ?_

theorem inv_failReqs (x0 : Bool) (x1 : List Req) (x2 : State) (h0 : State.Inv x2) : State.Inv (failReqs x0 x1 x2) := by
  fun_induction failReqs x0 x1 x2 <;> repeat' with_reducible first | assumption | apply_assumption | apply inv_State_failReq

theorem inv_resolveAll (x0 : State) (x1 : State) (x2 : List Placed) (h0 : State.Inv x0) (h1 : State.Inv x1) : State.Inv (resolveAll x0 x1 x2) := by
  unfold resolveAll
  repeat' with_reducible first | assumption | apply inv_State_resolve

theorem inv_qntStep (x0 : Task) (x1 : BitVec 4) (x2 : BitVec 4) (x3 : BitVec 2) (x4 : BitVec 3) (x5 : ℕ) (x6 : Work) (h0 : Memory.wf x6.1 = true) : Memory.wf (qntStep x0 x1 x2 x3 x4 x5 x6).1 = true := by
  unfold qntStep
  repeat' with_reducible first | assumption | apply inv_qntBlock | refine inv_foldl _ _ _ (fun _ _ _ => ?_) ?_ | refine wf_foldl _ _ _ (fun _ _ _ => ?_) ?_ | refine core_foldl _ _ _ (fun _ _ _ => ?_) ?_ | refine work_foldl _ _ _ (fun _ _ _ => ?_) ?_

theorem inv_casStep (x0 : Task) (x1 : BitVec 4) (x2 : BitVec 4) (x3 : BitVec 4) (x4 : Bool) (x5 : Bool) (x6 : ℕ) (x7 : Work) (h0 : Memory.wf x7.1 = true) : Memory.wf (casStep x0 x1 x2 x3 x4 x5 x6 x7).1 = true := by
  unfold casStep
  dsimp only
  repeat' with_reducible first | assumption | apply inv_casPair | refine inv_foldl _ _ _ (fun _ _ _ => ?_) ?_ | refine wf_foldl _ _ _ (fun _ _ _ => ?_) ?_ | refine core_foldl _ _ _ (fun _ _ _ => ?_) ?_ | refine work_foldl _ _ _ (fun _ _ _ => ?_) ?_ | split

theorem inv_vecStep (x0 : Task) (x1 : BitVec 4) (x2 : ℕ) (x3 : Work) (h0 : Memory.wf x3.1 = true) : Memory.wf (vecStep x0 x1 x2 x3).1 = true := by
  unfold vecStep
  repeat' with_reducible first | assumption | apply inv_vecWrite

theorem inv_deadRecvs (x0 : ResNo) (x1 : List (Recv × Option (Fin 32))) (x2 : State) (h0 : State.Inv x2) : State.Inv (deadRecvs x0 x1 x2) := by
  induction x1 generalizing x2 with
  | nil => exact h0
  | cons v t ih => exact ih _ (inv_State_rangeRemove _ _ (inv_State_writeRecord _ _ _ _ _ _ _ _ h0))

theorem inv_refuseAll (x0 : ResNo) (x1 : List Recv) (x2 : State) (h0 : State.Inv x2) : State.Inv (refuseAll x0 x1 x2) := by
  induction x1 generalizing x2 with
  | nil => exact h0
  | cons v t ih => exact ih _ (inv_State_writeRecord _ _ _ _ _ _ _ _ h0)

theorem inv_tstRow (x0 : Task) (x1 : BitVec 4) (x2 : BitVec 16) (x3 : State) (h0 : State.Inv x3) : State.Inv (tstRow x0 x1 x2 x3) := by
  unfold tstRow
  repeat' with_reducible first | assumption | apply inv_State_writeBytes | split

theorem inv_State_landBytes (x0 : State) (x1 : Landing) (x2 : List Byte) (h0 : State.Inv x0) : State.Inv (State.landBytes x0 x1 x2) := by
  unfold State.landBytes
  try dsimp only
  all_goals repeat' first | with_reducible assumption | (with_reducible exact inv_take (by assumption) (by assumption)) | (with_reducible intro _ h; with_reducible exact h) | (with_reducible first | apply inv_State_as | apply inv_State_writeBytes | apply inv_addWords | apply inv_modMem) | (with_reducible apply inv_ite) | (with_reducible exact wf_nil) | split | simp only [inv_mk_iff] | (simp only [inv_mk_iff2]; refine ⟨?_, ?_⟩) | (with_reducible apply wf_core) | (with_reducible apply wf_srv) | with_reducible rfl | dsimp only | (with_reducible intro _ _) | (with_reducible intro _)

theorem inv_State_writeLocal (x0 : State) (x1 : ℕ) (x2 : ℕ) (x3 : ℕ) (h0 : State.Inv x0) : State.Inv (State.writeLocal x0 x1 x2 x3) := by
  unfold State.writeLocal
  repeat' with_reducible first | assumption | apply inv_State_writeBytes

theorem inv_State_ringStep (x0 : State) (x1 : Task) (h0 : State.Inv x0) : State.Inv (State.ringStep x0 x1) := by
  unfold State.ringStep
  dsimp only
  repeat' with_reducible first | assumption | apply inv_State_as | apply inv_State_writeBytes | apply inv_modRes | split | simp only [inv_mk_iff] | (intro _ h; exact h) | dsimp only | intro _ _

theorem inv_execSlotCopyDone (x0 : State) (h0 : State.Inv x0) : Outcome.Keeps (execSlotCopyDone x0) := by
  unfold execSlotCopyDone
  dsimp only
  repeat' with_reducible first | assumption | apply inv_State_as | apply inv_State_doneTid | apply inv_State_dropReq | apply inv_State_rangeRemove | apply inv_State_writeBytes | apply keeps_next | split | simp only [inv_mk_iff] | (intro _ h; exact h) | dsimp only | intro _ _

theorem inv_State_completeRecv (x0 : State) (x1 : ResNo) (x2 : Landed) (x3 : List Byte) (x4 : BitVec 16) (h0 : State.Inv x0) : State.Inv (State.completeRecv x0 x1 x2 x3 x4) := by
  unfold State.completeRecv
  dsimp only
  repeat' with_reducible first | assumption | apply inv_State_as | apply inv_State_rangeRemove | apply inv_State_writeBytes | apply inv_State_writeRecord | apply inv_modRes | split | simp only [inv_mk_iff] | (intro _ h; exact h) | dsimp only | intro _ _

theorem inv_State_storeImages (x0 : State) (x1 : ImageCore) (x2 : Place) (h0 : State.Inv x0) : State.Inv (State.storeImages x0 x1 x2) := by
  unfold State.storeImages
  try dsimp only
  all_goals repeat' first | with_reducible assumption | (with_reducible exact inv_take (by assumption) (by assumption)) | (with_reducible intro _ h; with_reducible exact h) | (with_reducible first | apply inv_CoreSt_emptyBits | apply inv_CoreSt_put | apply inv_State_storeCode | apply inv_modCore) | (with_reducible apply inv_ite) | (with_reducible exact wf_nil) | split | simp only [inv_mk_iff] | (simp only [inv_mk_iff2]; refine ⟨?_, ?_⟩) | (with_reducible apply wf_core) | (with_reducible apply wf_srv) | with_reducible rfl | dsimp only | (with_reducible intro _ _) | (with_reducible intro _)

theorem inv_EngineRun_cycle (x0 : EngineRun) (x1 : CoreSt) (h0 : Memory.wf x1.mem = true) : Memory.wf (EngineRun.cycle x0 x1).mem = true := by
  unfold EngineRun.cycle
  repeat' with_reducible first | assumption | apply inv_leakAll

theorem inv_State_withFetchWord (x0 : State) (x1 : ℕ) (x2 : ℕ) (h0 : State.Inv x0) : State.Inv (State.withFetchWord x0 x1 x2) := by
  unfold State.withFetchWord
  repeat' with_reducible first | assumption | apply inv_State_withPairs

theorem inv_accxMessage (x0 : AccDesc) (x1 : List (ℕ × ℕ)) (x2 : List Byte) (x3 : List Host.Cell) (h0 : Memory.wf x3 = true) : Memory.wf (accxMessage x0 x1 x2 x3) = true := by
  induction x1 generalizing x0 x2 x3 with
  | nil => exact h0
  | cons a t ih =>
    unfold accxMessage
    try dsimp only
    repeat' first | with_reducible assumption | (with_reducible exact inv_take (by assumption) (by assumption)) | (with_reducible intro _ h; with_reducible exact h) | (with_reducible apply ih) | (with_reducible first | apply inv_accxWrite) | (with_reducible apply inv_ite) | (with_reducible exact wf_nil) | split | simp only [inv_mk_iff] | (simp only [inv_mk_iff2]; refine ⟨?_, ?_⟩) | (with_reducible apply wf_core) | (with_reducible apply wf_srv) | with_reducible rfl | dsimp only | (with_reducible intro _ _) | (with_reducible intro _)

theorem inv_accxInit (x0 : AccDesc) (x1 : List Host.Cell) (h0 : Memory.wf x1 = true) : Memory.wf (accxInit x0 x1) = true := by
  unfold accxInit
  repeat' with_reducible first | assumption | apply inv_accxWrite | refine inv_foldl _ _ _ (fun _ _ _ => ?_) ?_ | refine wf_foldl _ _ _ (fun _ _ _ => ?_) ?_ | refine core_foldl _ _ _ (fun _ _ _ => ?_) ?_ | refine work_foldl _ _ _ (fun _ _ _ => ?_) ?_

theorem inv_State_landed (x0 : State) (x1 : Landing) (x2 : Option ServerFail) (h0 : State.Inv x0) : State.Inv (State.landed x0 x1 x2) := by
  unfold State.landed
  dsimp only
  repeat' with_reducible first | assumption | apply inv_State_copyPart | apply inv_State_landGone | apply inv_modCore | split | simp only [inv_mk_iff] | (intro _ h; exact h) | dsimp only | intro _ _

theorem inv_State_landPiece (x0 : State) (x1 : Req) (x2 : Chunk) (x3 : List Byte) (h0 : State.Inv x0) : State.Inv (State.landPiece x0 x1 x2 x3) := by
  unfold State.landPiece
  dsimp only
  repeat' with_reducible first | assumption | apply inv_State_copyPart | apply inv_State_toLand | apply inv_post | split

theorem inv_execServerAck (x0 : ℕ) (x1 : ℕ) (x2 : Option ServerFail) (x3 : State) (h0 : State.Inv x3) : Outcome.Keeps (execServerAck x0 x1 x2 x3) := by
  unfold execServerAck
  repeat' with_reducible first | assumption | apply inv_State_copyPart | apply inv_State_modReq | apply inv_State_queueFail | apply inv_State_settleWrite | apply keeps_next | split | simp only [inv_mk_iff] | dsimp only

theorem inv_numberCopies (x0 : List ℕ) (x1 : State) (h0 : State.Inv x1) : State.Inv (numberCopies x0 x1).1 := by
  fun_induction numberCopies x0 x1 <;> repeat' with_reducible first | assumption | apply_assumption | apply inv_State_failBad | apply inv_State_number

theorem inv_execLocalCompletion (x0 : State) (h0 : State.Inv x0) : Outcome.Keeps (execLocalCompletion x0) := by
  unfold execLocalCompletion
  repeat' with_reducible first | assumption | apply inv_State_localDone | apply inv_State_settleSend | apply keeps_next | split

theorem inv_execSendAcknowledged (x0 : ℕ) (x1 : State) (h0 : State.Inv x1) : Outcome.Keeps (execSendAcknowledged x0 x1) := by
  unfold execSendAcknowledged
  repeat' with_reducible first | assumption | apply inv_State_modSend | apply inv_State_settleSend | apply keeps_next

theorem inv_State_sendOut (x0 : State) (x1 : Out) (h0 : State.Inv x0) : State.Inv (State.sendOut x0 x1) := by
  unfold State.sendOut
  try dsimp only
  all_goals repeat' first | with_reducible assumption | (with_reducible exact inv_take (by assumption) (by assumption)) | (with_reducible intro _ h; with_reducible exact h) | (with_reducible first | apply inv_State_leaveNi | apply inv_modCore) | (with_reducible apply inv_ite) | (with_reducible exact wf_nil) | split | simp only [inv_mk_iff] | (simp only [inv_mk_iff2]; refine ⟨?_, ?_⟩) | (with_reducible apply wf_core) | (with_reducible apply wf_srv) | with_reducible rfl | dsimp only | (with_reducible intro _ _) | (with_reducible intro _)

theorem inv_injectAll (x0 : List Inject) (x1 : List (Rank × ℕ)) (x2 : State) (h0 : State.Inv x2) : State.Inv (injectAll x0 x1 x2) := by
  have key : ∀ s : State, ∀ f : CoreSt → CoreSt, (∀ c, (f c).mem = c.mem) → s.Inv → (s.modCore f).Inv :=
    fun s f e h => inv_modCore _ _ (fun c hc => by rw [e]; exact hc) h
  induction x0 generalizing x1 x2 with
  | nil => exact h0
  | cons a t ih =>
    unfold injectAll
    dsimp only
    split
    · exact ih _ _ (key _ _ (fun _ => rfl) h0)
    · split
      · split
        · exact ih _ _ (key _ _ (fun _ => rfl) h0)
        · split
          · exact ih _ _ (inv_State_toRouter _ _ (key _ _ (fun _ => rfl) h0))
          · exact ih _ _ (key _ _ (fun _ => rfl) (key _ _ (fun _ => rfl) h0))
      · exact ih _ _ (inv_State_leaveNi _ _ h0)

theorem inv_State_completeRec (x0 : State) (x1 : ℕ) (x2 : ℕ) (x3 : List Word) (x4 : Option (BitVec 12)) (h0 : State.Inv x0) : State.Inv (State.completeRec x0 x1 x2 x3 x4) := by
  unfold State.completeRec
  repeat' with_reducible first | assumption | apply inv_State_emit | apply inv_State_modQueue | apply inv_State_setCounter | apply inv_applyCounter | split

theorem inv_State_tryLanding (x0 : State) (x1 : ResNo) (x2 : Landed) (h0 : State.Inv x0) : State.Inv (State.tryLanding x0 x1 x2) := by
  unfold State.tryLanding
  dsimp only
  repeat' with_reducible first | assumption | apply inv_State_beginLanding | apply inv_State_guardLanding | split

theorem inv_State_refuse (x0 : State) (x1 : Message) (h0 : State.Inv x0) : State.Inv (State.refuse x0 x1) := by
  unfold State.refuse
  repeat' with_reducible first | assumption | apply inv_State_pass | apply inv_State_putIn | apply inv_State_sayRefused | split

theorem inv_State_endSlice (x0 : State) (x1 : ResNo) (h0 : State.Inv x0) : State.Inv (State.endSlice x0 x1) := by
  unfold State.endSlice
  try dsimp only
  all_goals repeat' first | with_reducible assumption | (with_reducible exact inv_take (by assumption) (by assumption)) | (with_reducible intro _ h; with_reducible exact h) | (with_reducible first | apply inv_State_as | apply inv_State_disband | apply inv_State_postOnce) | (with_reducible apply inv_ite) | (with_reducible exact wf_nil) | split | simp only [inv_mk_iff] | (simp only [inv_mk_iff2]; refine ⟨?_, ?_⟩) | (with_reducible apply wf_core) | (with_reducible apply wf_srv) | with_reducible rfl | dsimp only | (with_reducible intro _ _) | (with_reducible intro _)

theorem inv_State_gangStep (x0 : State) (h0 : State.Inv x0) : State.Inv (State.gangStep x0) := by
  unfold State.gangStep
  dsimp only
  repeat' with_reducible first | assumption | apply inv_State_disband | apply inv_State_emit | apply inv_modCore | split | simp only [inv_mk_iff] | (intro _ h; exact h) | dsimp only | intro _ _

theorem inv_State_deliverFlit (x0 : State) (x1 : ℕ) (x2 : Bool) (x3 : ℕ) (x4 : List Piece) (h0 : State.Inv x0) : State.Inv (State.deliverFlit x0 x1 x2 x3 x4) := by
  unfold State.deliverFlit
  repeat' with_reducible first | assumption | apply inv_State_arrive | apply inv_State_modDir | apply inv_State_takePieces | refine inv_foldl _ _ _ (fun _ _ _ => ?_) ?_ | refine wf_foldl _ _ _ (fun _ _ _ => ?_) ?_ | refine core_foldl _ _ _ (fun _ _ _ => ?_) ?_ | refine work_foldl _ _ _ (fun _ _ _ => ?_) ?_

theorem inv_execExchFlit (x0 : ℕ) (x1 : ℕ) (x2 : List Byte) (x3 : State) (h0 : State.Inv x3) : Outcome.Keeps (execExchFlit x0 x1 x2 x3) := by
  unfold execExchFlit
  repeat' with_reducible first | assumption | apply inv_State_collide | apply inv_State_modExch | apply keeps_next | split

theorem inv_State_judgeFlits (x0 : State) (x1 : ℕ) (x2 : ℕ) (h0 : State.Inv x0) : State.Inv (State.judgeFlits x0 x1 x2) := by
  unfold State.judgeFlits
  dsimp only
  repeat' with_reducible first | assumption | apply inv_State_collide | apply inv_State_modExch | apply inv_State_writeBytes | split

theorem inv_State_startCrew (x0 : State) (x1 : WorkOrder) (x2 : ℕ) (x3 : Crew) (h0 : State.Inv x0) : State.Inv (State.startCrew x0 x1 x2 x3) := by
  unfold State.startCrew
  repeat' with_reducible first | assumption | apply inv_State_modCrew | apply inv_State_modOrder | apply inv_State_setExperts | apply inv_sendStarts | apply inv_modPkg

theorem inv_State_requestPreempt (x0 : State) (x1 : WorkOrder) (x2 : ℕ) (x3 : Crew) (h0 : State.Inv x0) : State.Inv (State.requestPreempt x0 x1 x2 x3) := by
  unfold State.requestPreempt
  repeat' with_reducible first | assumption | apply inv_State_modCrew | apply inv_tellMembers

theorem inv_State_expertTick (x0 : State) (h0 : State.Inv x0) : State.Inv (State.expertTick x0) := by
  unfold State.expertTick
  repeat' with_reducible first | assumption | apply inv_State_serveExpert | split | simp only [inv_mk_iff] | dsimp only

theorem inv_State_hear (x0 : State) (x1 : Outside) (h0 : State.Inv x0) : State.Inv (State.hear x0 x1) := by
  unfold State.hear
  try dsimp only
  all_goals repeat' first | with_reducible assumption | (with_reducible exact inv_take (by assumption) (by assumption)) | (with_reducible intro _ h; with_reducible exact h) | (with_reducible first | apply inv_CoreSt_put | apply inv_Servers_flip | apply inv_State_bellHeard | apply inv_State_copyPart | apply inv_State_disband | apply inv_State_enterRouter | apply inv_State_giveRoom | apply inv_State_hearWrite | apply inv_State_hostRead | apply inv_State_ideKeys | apply inv_State_landGone | apply inv_State_laneFree | apply inv_State_leavePorter | apply inv_State_lowerCount | apply inv_State_markPhase | apply inv_State_mgmtRead | apply inv_State_modCrew | apply inv_State_modGang | apply inv_State_portPacket | apply inv_State_rollintWrite | apply inv_State_sendPackets | apply inv_State_sfuRequest | apply inv_modPkg | apply inv_post | apply inv_modCore) | (with_reducible apply inv_ite) | (with_reducible exact wf_nil) | split | simp only [inv_mk_iff] | (simp only [inv_mk_iff2]; refine ⟨?_, ?_⟩) | (with_reducible apply wf_core) | (with_reducible apply wf_srv) | with_reducible rfl | dsimp only | (with_reducible intro _ _) | (with_reducible intro _)

theorem inv_State_attest (x0 : State) (x1 : ℕ) (h0 : State.Inv x0) : State.Inv (State.attest x0 x1) := h0

theorem inv_attestPeers (x0 : List ℕ) (x1 : State) (h0 : State.Inv x1) : State.Inv (attestPeers x0 x1) := by
  fun_induction attestPeers x0 x1 <;> repeat' with_reducible first | assumption | apply_assumption | apply inv_State_askStep | split

theorem inv_retryDue (x0 : List Send) (x1 : State) (h0 : State.Inv x1) : State.Inv (retryDue x0 x1) := by
  fun_induction retryDue x0 x1 <;> repeat' with_reducible first | assumption | apply_assumption | apply inv_State_retry | split

theorem inv_State_envelopeOut (x0 : State) (x1 : ℕ) (h0 : State.Inv x0) : State.Inv (State.envelopeOut x0 x1) := by
  unfold State.envelopeOut
  repeat' with_reducible first | assumption | apply inv_State_failBad | apply inv_State_firstAttempt | apply inv_State_number | split

theorem inv_State_nextStep (x0 : State) (x1 : Task) (h0 : State.Inv x0) : State.Inv (State.nextStep x0 x1) := by
  unfold State.nextStep
  repeat' with_reducible first | assumption | apply inv_State_finishTask | apply inv_State_modTask | apply inv_State_runStep | split

theorem inv_State_setTrestart (x0 : State) (x1 : CtxNo) (x2 : Word) (h0 : State.Inv x0) : State.Inv (State.setTrestart x0 x1 x2) := by
  unfold State.setTrestart
  dsimp only
  repeat' with_reducible first | assumption | apply inv_State_finishTask | apply inv_State_modTask | split

theorem inv_State_mispair (x0 : State) (x1 : Task) (h0 : State.Inv x0) : State.Inv (State.mispair x0 x1) := by
  unfold State.mispair
  repeat' with_reducible first | assumption | apply inv_State_finishTask | apply inv_State_rangeFail | apply inv_modRes | apply inv_bump

theorem inv_execRingTransfer (x0 : State) (h0 : State.Inv x0) : Outcome.Keeps (execRingTransfer x0) := by
  unfold execRingTransfer
  repeat' with_reducible first | assumption | apply inv_State_emit | apply inv_State_finishTask | apply inv_State_modTask | apply inv_State_noteBad | apply inv_State_pendN | apply inv_after | apply keeps_next | split | simp only [inv_mk_iff] | dsimp only

theorem inv_State_routerStep (x0 : State) (h0 : State.Inv x0) : State.Inv (State.routerStep x0) := by
  unfold State.routerStep
  repeat' with_reducible first | assumption | apply inv_State_grantPort | refine inv_foldl _ _ _ (fun _ _ _ => ?_) ?_ | refine wf_foldl _ _ _ (fun _ _ _ => ?_) ?_ | refine core_foldl _ _ _ (fun _ _ _ => ?_) ?_ | refine work_foldl _ _ _ (fun _ _ _ => ?_) ?_

theorem inv_State_roundEdge (x0 : State) (x1 : ResNo) (h0 : State.Inv x0) : State.Inv (State.roundEdge x0 x1) := by
  unfold State.roundEdge
  dsimp only
  repeat' with_reducible first | assumption | apply inv_State_kick | apply inv_State_stopAll | apply inv_modRes | apply inv_after | split

theorem inv_State_leaveRes (x0 : State) (x1 : ResNo) (h0 : State.Inv x0) : State.Inv (State.leaveRes x0 x1) := by
  unfold State.leaveRes
  dsimp only
  repeat' with_reducible first | assumption | apply inv_State_as | apply inv_State_cancelAll | apply inv_State_disband | apply inv_State_saveRes | apply inv_State_stopAll | split | simp only [inv_mk_iff] | (intro _ h; exact h) | dsimp only | intro _ _

theorem inv_State_endRes (x0 : State) (x1 : ResNo) (x2 : Phase) (x3 : Option (BitVec 7)) (h0 : State.Inv x0) : State.Inv (State.endRes x0 x1 x2 x3) := by
  unfold State.endRes
  dsimp only
  repeat' with_reducible first | assumption | apply inv_State_clearFifos | apply inv_State_dropRanges | apply inv_State_dropTasks | apply inv_State_leaveDone | apply inv_State_reportEnd | apply inv_closeOutputs | apply inv_endHeld | apply inv_refuseAll | apply inv_modRes | apply inv_post | apply inv_modCore | split | simp only [inv_mk_iff] | (intro _ h; exact h) | dsimp only | intro _ _

theorem inv_State_fire (x0 : State) (x1 : ResNo) (x2 : BitVec 3) (x3 : ℕ) (x4 : ℕ) (x5 : ℕ) (h0 : State.Inv x0) : State.Inv (State.fire x0 x1 x2 x3 x4 x5) := by
  unfold State.fire
  dsimp only
  repeat' with_reducible first | assumption | apply inv_State_as | apply inv_State_setFull | apply inv_State_writeLocal | apply inv_fanAll | apply inv_modRes | split | simp only [inv_mk_iff] | (intro _ h; exact h) | dsimp only | intro _ _

theorem inv_State_reserve (x0 : State) (x1 : WorkOrder) (x2 : ℕ) (x3 : Crew) (h0 : State.Inv x0) : State.Inv (State.reserve x0 x1 x2 x3) := by
  unfold State.reserve
  repeat' with_reducible first | assumption | apply inv_State_freshStreams | apply inv_State_modOrder | apply inv_State_restoreHere | apply inv_State_setBells | apply inv_State_storeCode | apply inv_State_storeImages | apply inv_modRes | apply inv_modPkg | split

theorem inv_State_advanceField (x0 : State) (x1 : ResNo) (x2 : BitVec 3) (h0 : State.Inv x0) : State.Inv (State.advanceField x0 x1 x2) := by
  unfold State.advanceField
  repeat' with_reducible first | assumption | apply inv_EngineRun_cycle | apply inv_modRes | apply inv_modCore

theorem inv_CoreSt_engineTick (x0 : CoreSt) (h0 : Memory.wf x0.mem = true) : Memory.wf (CoreSt.engineTick x0).mem = true := by
  unfold CoreSt.engineTick
  repeat' with_reducible first | assumption | apply inv_EngineRun_cycle | split

theorem inv_State_applyReduction (x0 : State) (x1 : ResNo) (x2 : Message) (x3 : List Byte) (h0 : State.Inv x0) : State.Inv (State.applyReduction x0 x1 x2 x3) := by
  unfold State.applyReduction
  dsimp only
  repeat' with_reducible first | assumption | apply inv_State_wake | apply inv_accxMessage | apply inv_modRes | apply inv_modCore | apply inv_modMem | split | simp only [inv_mk_iff] | (intro _ h; exact h) | dsimp only | intro _ _

theorem inv_taskWork (x0 : Task) (x1 : Work) (h0 : Memory.wf x1.1 = true) : Memory.wf (taskWork x0 x1).1 = true := by
  unfold taskWork
  repeat' with_reducible first | assumption | apply inv_accrdStep | apply inv_accwrStep | apply inv_accxClose | apply inv_accxInit | apply inv_casStep | apply inv_cmpStep | apply inv_idxStep | apply inv_mlogStep | apply inv_mmaStep | apply inv_mmaXStep | apply inv_movScales | apply inv_qntStep | apply inv_vecStep | split

theorem inv_execPorterLanding (x0 : Landing) (x1 : State) (h0 : State.Inv x1) : Outcome.Keeps (execPorterLanding x0 x1) := by
  unfold execPorterLanding
  dsimp only
  repeat' with_reducible first | assumption | apply inv_State_grantAcc | apply inv_State_landBytes | apply inv_State_landed | apply inv_modRes | apply inv_post | apply inv_after | apply inv_modCore | apply keeps_next | split | simp only [inv_mk_iff] | (intro _ h; exact h) | dsimp only | intro _ _

theorem inv_landAll (x0 : Req) (x1 : List (Chunk × List Byte × Option ServerFail)) (x2 : State) (h0 : State.Inv x2) : State.Inv (landAll x0 x1 x2) := by
  induction x1 generalizing x2 with
  | nil => exact h0
  | cons a t ih =>
    obtain ⟨c, d, f⟩ := a
    cases f with
    | none => exact ih _ (inv_State_landPiece _ _ _ _ h0)
    | some f => exact ih _ (inv_State_copyPart _ _ _ h0)

theorem inv_State_castOut (x0 : State) (x1 : List ℕ) (h0 : State.Inv x0) : State.Inv (State.castOut x0 x1) := by
  unfold State.castOut
  dsimp only
  repeat' with_reducible first | assumption | apply inv_State_emitCast | apply inv_allUnderWay | apply inv_numberCopies | split

theorem inv_State_sendPieces (x0 : State) (x1 : Req) (x2 : ℕ → ℕ → ServerOp) (x3 : List (ℕ × ℕ × ℕ)) (x4 : ℕ) (h0 : State.Inv x0) : State.Inv (State.sendPieces x0 x1 x2 x3 x4) := by
  fun_induction State.sendPieces x0 x1 x2 x3 x4 <;> repeat' with_reducible first | assumption | apply_assumption | apply inv_State_sendOut

theorem inv_State_sendCopy (x0 : State) (x1 : Req) (h0 : State.Inv x0) : State.Inv (State.sendCopy x0 x1) := by
  unfold State.sendCopy
  repeat' with_reducible first | assumption | apply inv_State_sendOut | apply inv_post | split

theorem inv_State_injectStep (x0 : State) (h0 : State.Inv x0) : State.Inv (State.injectStep x0) := by
  unfold State.injectStep
  try dsimp only
  all_goals repeat' first | with_reducible assumption | (with_reducible exact inv_take (by assumption) (by assumption)) | (with_reducible intro _ h; with_reducible exact h) | (with_reducible first | apply inv_injectAll | apply inv_modCore) | (with_reducible apply inv_ite) | (with_reducible exact wf_nil) | split | simp only [inv_mk_iff] | (simp only [inv_mk_iff2]; refine ⟨?_, ?_⟩) | (with_reducible apply wf_core) | (with_reducible apply wf_srv) | with_reducible rfl | dsimp only | (with_reducible intro _ _) | (with_reducible intro _)

theorem inv_State_completeOrder (x0 : State) (x1 : WorkOrder) (x2 : ℕ) (x3 : Option (BitVec 7)) (h0 : State.Inv x0) : State.Inv (State.completeOrder x0 x1 x2 x3) := by
  unfold State.completeOrder
  repeat' with_reducible first | assumption | apply inv_State_completeRec | apply inv_modPkg | split | simp only [inv_mk_iff] | dsimp only

theorem inv_execRecordFetch (x0 : State) (h0 : State.Inv x0) : Outcome.Keeps (execRecordFetch x0) := by
  unfold execRecordFetch
  repeat' with_reducible first | assumption | apply inv_State_completeRec | apply inv_State_modQueue | apply inv_modPkg | apply keeps_next | split | exact inv_take (by assumption) (by assumption) | simp only [inv_mk_iff] | dsimp only

theorem inv_tryAll (x0 : ResNo) (x1 : List Landed) (x2 : State) (h0 : State.Inv x2) : State.Inv (tryAll x0 x1 x2) := by
  fun_induction tryAll x0 x1 x2 <;> repeat' with_reducible first | assumption | apply_assumption | apply inv_State_tryLanding

theorem inv_State_holdMsg (x0 : State) (x1 : ResNo) (x2 : Message) (h0 : State.Inv x0) : State.Inv (State.holdMsg x0 x1 x2) := by
  unfold State.holdMsg
  dsimp only
  repeat' with_reducible first | assumption | apply inv_State_accepted | apply inv_State_refuse | apply inv_State_sayAccepted | apply inv_State_sayDemoted | apply inv_putUnits | apply inv_modRes | apply inv_modCore | split

theorem inv_execRoundSliceLimit (x0 : State) (h0 : State.Inv x0) : Outcome.Keeps (execRoundSliceLimit x0) := by
  unfold execRoundSliceLimit
  repeat' with_reducible first | assumption | apply inv_State_endSlice | apply keeps_next | split

theorem inv_execSliceIdle (x0 : State) (h0 : State.Inv x0) : Outcome.Keeps (execSliceIdle x0) := by
  unfold execSliceIdle
  repeat' with_reducible first | assumption | apply inv_State_endSlice | apply keeps_next | split

theorem inv_execSliceExpiry (x0 : State) (h0 : State.Inv x0) : Outcome.Keeps (execSliceExpiry x0) := by
  unfold execSliceExpiry
  dsimp only
  repeat' with_reducible first | assumption | apply inv_State_endSlice | apply inv_modRes | apply keeps_next | split

theorem inv_State_exchTick (x0 : State) (h0 : State.Inv x0) : State.Inv (State.exchTick x0) := by
  unfold State.exchTick
  dsimp only
  repeat' with_reducible first | assumption | apply inv_State_as | apply inv_State_judgeFlits | apply inv_endReceives | apply inv_sendFlits | refine inv_foldl _ _ _ (fun _ _ _ => ?_) ?_ | refine wf_foldl _ _ _ (fun _ _ _ => ?_) ?_ | refine core_foldl _ _ _ (fun _ _ _ => ?_) ?_ | refine work_foldl _ _ _ (fun _ _ _ => ?_) ?_ | split | simp only [inv_mk_iff] | (intro _ h; exact h) | dsimp only | intro _ _

theorem inv_execCrewStart (x0 : State) (h0 : State.Inv x0) : Outcome.Keeps (execCrewStart x0) := by
  unfold execCrewStart
  repeat' with_reducible first | assumption | apply inv_State_startCrew | apply inv_after | apply keeps_next | split

theorem inv_execHeadReserving (x0 : State) (h0 : State.Inv x0) : Outcome.Keeps (execHeadReserving x0) := by
  unfold execHeadReserving
  dsimp only
  repeat' with_reducible first | assumption | apply inv_State_markReserving | apply inv_State_requestPreempt | apply inv_State_settleEnds | apply keeps_next | split

theorem inv_State_hearAll (x0 : State) (x1 : List Outside) (h0 : State.Inv x0) : State.Inv (State.hearAll x0 x1) := by
  fun_induction State.hearAll x0 x1 <;> repeat' with_reducible first | assumption | apply_assumption | apply inv_State_hear

theorem inv_State_attestAgain (x0 : State) (x1 : ℕ) (h0 : State.Inv x0) : State.Inv (State.attestAgain x0 x1) := by
  unfold State.attestAgain
  repeat' with_reducible first | assumption | apply inv_State_attest | apply inv_State_modDie | split

theorem inv_execAttestationStart (x0 : State) (h0 : State.Inv x0) : Outcome.Keeps (execAttestationStart x0) := by
  unfold execAttestationStart
  repeat' with_reducible first | assumption | apply inv_State_attest | apply keeps_next | split

theorem inv_State_openDies (x0 : State) (h0 : State.Inv x0) : State.Inv (State.openDies x0) := by
  unfold State.openDies
  repeat' with_reducible first | assumption | apply inv_State_attest | apply inv_State_modDie | refine inv_foldl _ _ _ (fun _ _ _ => ?_) ?_ | refine wf_foldl _ _ _ (fun _ _ _ => ?_) ?_ | refine core_foldl _ _ _ (fun _ _ _ => ?_) ?_ | refine work_foldl _ _ _ (fun _ _ _ => ?_) ?_

theorem inv_execEnclaveManifest (x0 : State) (h0 : State.Inv x0) : Outcome.Keeps (execEnclaveManifest x0) := by
  unfold execEnclaveManifest
  try dsimp only
  all_goals repeat' first | with_reducible assumption | (with_reducible exact inv_take (by assumption) (by assumption)) | (with_reducible intro _ h; with_reducible exact h) | (with_reducible first | apply inv_State_draw | apply inv_attestPeers | apply inv_modPkg | apply keeps_next) | (with_reducible apply inv_ite) | (with_reducible exact wf_nil) | split | simp only [inv_mk_iff] | (simp only [inv_mk_iff2]; refine ⟨?_, ?_⟩) | (with_reducible apply wf_core) | (with_reducible apply wf_srv) | with_reducible rfl | dsimp only | (with_reducible intro _ _) | (with_reducible intro _)

theorem inv_execRetryTimer (x0 : State) (h0 : State.Inv x0) : Outcome.Keeps (execRetryTimer x0) := by
  unfold execRetryTimer
  repeat' with_reducible first | assumption | apply inv_retryDue | apply keeps_next

theorem inv_sendAgain (x0 : List Send) (x1 : State) (h0 : State.Inv x1) : State.Inv (sendAgain x0 x1) := by
  induction x0 generalizing x1 with
  | nil => exact h0
  | cons a t ih =>
    unfold sendAgain
    try dsimp only
    repeat' first | with_reducible assumption | (with_reducible exact inv_take (by assumption) (by assumption)) | (with_reducible intro _ h; with_reducible exact h) | (with_reducible apply ih) | (with_reducible first | apply inv_State_envelopeOut | apply inv_State_firstAttempt) | (with_reducible apply inv_ite) | (with_reducible exact wf_nil) | split | simp only [inv_mk_iff] | (simp only [inv_mk_iff2]; refine ⟨?_, ?_⟩) | (with_reducible apply wf_core) | (with_reducible apply wf_srv) | with_reducible rfl | dsimp only | (with_reducible intro _ _) | (with_reducible intro _)

theorem inv_restartAll (x0 : CtxNo → ℕ) (x1 : List Byte) (x2 : List CtxNo) (x3 : State) (h0 : State.Inv x3) : State.Inv (restartAll x0 x1 x2 x3) := by
  fun_induction restartAll x0 x1 x2 x3
  all_goals try dsimp only
  all_goals repeat' first | with_reducible assumption | (with_reducible exact inv_take (by assumption) (by assumption)) | (with_reducible intro _ h; with_reducible exact h) | (with_reducible apply_assumption) | (with_reducible first | apply inv_State_setTrestart) | (with_reducible apply inv_ite) | (with_reducible exact wf_nil) | split | simp only [inv_mk_iff] | (simp only [inv_mk_iff2]; refine ⟨?_, ?_⟩) | (with_reducible apply wf_core) | (with_reducible apply wf_srv) | with_reducible rfl | dsimp only | (with_reducible intro _ _) | (with_reducible intro _)

theorem inv_State_csrPut (x0 : State) (x1 : ℕ) (x2 : Word) (h0 : State.Inv x0) : State.Inv (State.csrPut x0 x1 x2) := by
  unfold State.csrPut
  try dsimp only
  all_goals repeat' first | with_reducible assumption | (with_reducible exact inv_take (by assumption) (by assumption)) | (with_reducible intro _ h; with_reducible exact h) | (with_reducible first | apply inv_State_setTrestart | apply inv_modR | apply inv_modC) | (with_reducible apply inv_ite) | (with_reducible exact wf_nil) | split | simp only [inv_mk_iff] | (simp only [inv_mk_iff2]; refine ⟨?_, ?_⟩) | (with_reducible apply wf_core) | (with_reducible apply wf_srv) | with_reducible rfl | dsimp only | (with_reducible intro _ _) | (with_reducible intro _)

theorem inv_State_takeEdge (x0 : State) (x1 : ResNo) (h0 : State.Inv x0) : State.Inv (State.takeEdge x0 x1) := by
  unfold State.takeEdge
  repeat' with_reducible first | assumption | apply inv_State_roundEdge | split

theorem inv_State_markerIn (x0 : State) (x1 : ResNo) (x2 : Rank) (x3 : BitVec 32) (x4 : Bool) (h0 : State.Inv x0) : State.Inv (State.markerIn x0 x1 x2 x3 x4) := by
  unfold State.markerIn
  dsimp only
  repeat' with_reducible first | assumption | apply inv_State_roundEdge | apply inv_modRes | split

theorem inv_State_evictHere (x0 : State) (x1 : ResNo) (h0 : State.Inv x0) : State.Inv (State.evictHere x0 x1).1 := by
  unfold State.evictHere
  dsimp only
  repeat' with_reducible first | assumption | apply inv_State_dropTasks | apply inv_State_leaveRes | apply inv_modRes | apply inv_modCore | split | simp only [inv_mk_iff] | (intro _ h; exact h) | dsimp only | intro _ _

theorem inv_State_beginSwitch (x0 : State) (x1 : ResNo) (h0 : State.Inv x0) : State.Inv (State.beginSwitch x0 x1) := by
  unfold State.beginSwitch
  dsimp only
  repeat' with_reducible first | assumption | apply inv_State_leaveRes | apply inv_modRes | apply inv_after | apply inv_modCore | split | simp only [inv_mk_iff] | (intro _ h; exact h) | dsimp only | intro _ _

theorem inv_State_endOrderHere (x0 : State) (x1 : ℕ) (x2 : Phase) (h0 : State.Inv x0) : State.Inv (State.endOrderHere x0 x1 x2) := by
  unfold State.endOrderHere
  repeat' with_reducible first | assumption | apply inv_State_endRes | refine inv_foldl _ _ _ (fun _ _ _ => ?_) ?_ | refine wf_foldl _ _ _ (fun _ _ _ => ?_) ?_ | refine core_foldl _ _ _ (fun _ _ _ => ?_) ?_ | refine work_foldl _ _ _ (fun _ _ _ => ?_) ?_ | split

theorem inv_State_failRes (x0 : State) (x1 : BitVec 4) (x2 : ResNo) (h0 : State.Inv x0) : State.Inv (State.failRes x0 x1 x2) := by
  unfold State.failRes
  repeat' with_reducible first | assumption | apply inv_State_endRes | apply inv_modRes | split

theorem inv_State_nestedTrap (x0 : State) (x1 : Pair) (x2 : TrapReq) (h0 : State.Inv x0) : State.Inv (State.nestedTrap x0 x1 x2) := by
  unfold State.nestedTrap
  repeat' with_reducible first | assumption | apply inv_State_endRes | apply inv_modC

theorem inv_State_deliver (x0 : State) (x1 : ResNo) (x2 : QEvent) (h0 : State.Inv x0) : State.Inv (State.deliver x0 x1 x2) := by
  unfold State.deliver
  dsimp only
  repeat' with_reducible first | assumption | apply inv_CoreSt_put | apply inv_State_fire | apply inv_modRes | apply inv_modCore | split | simp only [inv_mk_iff] | (intro _ h; exact h) | dsimp only | intro _ _

theorem inv_CoreSt_tick (x0 : CoreSt) (h0 : Memory.wf x0.mem = true) : Memory.wf (CoreSt.tick x0).mem = true := by
  unfold CoreSt.tick
  repeat' with_reducible first | assumption | apply inv_CoreSt_engineTick

theorem inv_State_applyPartial (x0 : State) (x1 : ResNo) (x2 : BitVec 32) (h0 : State.Inv x0) : State.Inv (State.applyPartial x0 x1 x2) := by
  unfold State.applyPartial
  repeat' with_reducible first | assumption | apply inv_State_applyReduction | apply inv_modRes | split

theorem inv_State_stepWrites (x0 : State) (x1 : Task) (h0 : State.Inv x0) : State.Inv (State.stepWrites x0 x1) := by
  unfold State.stepWrites
  try dsimp only
  all_goals repeat' first | with_reducible assumption | (with_reducible exact inv_take (by assumption) (by assumption)) | (with_reducible intro _ h; with_reducible exact h) | (with_reducible first | apply inv_State_as | apply inv_State_modTask | apply inv_taskWork | apply inv_tldRow | apply inv_tstRow | apply inv_modRes | apply inv_modCore) | (with_reducible apply inv_ite) | (with_reducible exact wf_nil) | split | simp only [inv_mk_iff] | (simp only [inv_mk_iff2]; refine ⟨?_, ?_⟩) | (with_reducible apply wf_core) | (with_reducible apply wf_srv) | with_reducible rfl | dsimp only | (with_reducible intro _ _) | (with_reducible intro _)

theorem inv_State_pieceRead (x0 : State) (x1 : ℕ) (x2 : ℕ) (x3 : List Byte) (x4 : Option ServerFail) (h0 : State.Inv x0) : State.Inv (State.pieceRead x0 x1 x2 x3 x4) := by
  unfold State.pieceRead
  dsimp only
  repeat' with_reducible first | assumption | apply inv_State_modReq | apply inv_landAll | split

theorem inv_State_depart (x0 : State) (x1 : Leaving) (h0 : State.Inv x0) : State.Inv (State.depart x0 x1) := by
  unfold State.depart
  repeat' with_reducible first | assumption | apply inv_State_castOut | apply inv_State_emitFor | apply inv_State_envelopeOut | split

theorem inv_State_sendDeal (x0 : State) (x1 : Req) (h0 : State.Inv x0) : State.Inv (State.sendDeal x0 x1) := by
  unfold State.sendDeal
  try dsimp only
  all_goals repeat' first | with_reducible assumption | (with_reducible exact inv_take (by assumption) (by assumption)) | (with_reducible intro _ h; with_reducible exact h) | (with_reducible first | apply inv_State_askLeave | apply inv_State_sendCopy | apply inv_modCore) | (with_reducible apply inv_ite) | (with_reducible exact wf_nil) | split | simp only [inv_mk_iff] | (simp only [inv_mk_iff2]; refine ⟨?_, ?_⟩) | (with_reducible apply wf_core) | (with_reducible apply wf_srv) | with_reducible rfl | dsimp only | (with_reducible intro _ _) | (with_reducible intro _)

theorem inv_startCopies (x0 : List ℕ) (x1 : State) (h0 : State.Inv x1) : State.Inv (startCopies x0 x1) := by
  fun_induction startCopies x0 x1 <;> repeat' with_reducible first | assumption | apply_assumption | apply inv_State_sendCopy | apply inv_State_useLeave | split

theorem inv_State_enterUpTo (x0 : ℕ) (x1 : State) (h0 : State.Inv x1) : State.Inv (State.enterUpTo x0 x1) := by
  induction x0 generalizing x1 with
  | zero => exact h0
  | succ n ih =>
    unfold State.enterUpTo
    split
    · exact h0
    · split
      · exact h0
      · apply ih
        dsimp only
        split
        · exact inv_State_sendOut _ _ h0
        · exact inv_State_sendCopy _ _ h0

theorem inv_State_cancelRecs (x0 : State) (x1 : ℕ) (h0 : State.Inv x0) : State.Inv (State.cancelRecs x0 x1) := by
  unfold State.cancelRecs
  repeat' with_reducible first | assumption | apply inv_State_completeOrder | refine inv_foldl _ _ _ (fun _ _ _ => ?_) ?_ | refine wf_foldl _ _ _ (fun _ _ _ => ?_) ?_ | refine core_foldl _ _ _ (fun _ _ _ => ?_) ?_ | refine work_foldl _ _ _ (fun _ _ _ => ?_) ?_

theorem inv_State_closeOrder (x0 : State) (x1 : WorkOrder) (x2 : ℕ) (x3 : Option (BitVec 7)) (h0 : State.Inv x0) : State.Inv (State.closeOrder x0 x1 x2 x3) := by
  unfold State.closeOrder
  dsimp only
  repeat' with_reducible first | assumption | apply inv_State_completeOrder | apply inv_State_modOrder | apply inv_modPkg | split

theorem inv_State_startLandings (x0 : State) (h0 : State.Inv x0) : State.Inv (State.startLandings x0) := by
  unfold State.startLandings
  repeat' with_reducible first | assumption | apply inv_tryAll | refine inv_foldl _ _ _ (fun _ _ _ => ?_) ?_ | refine wf_foldl _ _ _ (fun _ _ _ => ?_) ?_ | refine core_foldl _ _ _ (fun _ _ _ => ?_) ?_ | refine work_foldl _ _ _ (fun _ _ _ => ?_) ?_ | split

theorem inv_State_hearOutside (x0 : State) (h0 : State.Inv x0) : State.Inv (State.hearOutside x0) := by
  unfold State.hearOutside
  repeat' with_reducible first | assumption | apply inv_State_hearAll | apply inv_modEnv

theorem inv_execDieResetExit (x0 : State) (h0 : State.Inv x0) : Outcome.Keeps (execDieResetExit x0) := by
  unfold execDieResetExit
  repeat' with_reducible first | assumption | apply inv_State_attestAgain | apply inv_State_deriveKeys | apply inv_State_modDie | apply keeps_next | split | exact inv_take (by assumption) (by assumption) | simp only [inv_mk_iff] | dsimp only

theorem inv_execActlReattest (x0 : State) (h0 : State.Inv x0) : Outcome.Keeps (execActlReattest x0) := by
  unfold execActlReattest
  repeat' with_reducible first | assumption | apply inv_State_attestAgain | apply keeps_next | split | exact inv_take (by assumption) (by assumption)

theorem inv_execLinkOpen (x0 : State) (h0 : State.Inv x0) : Outcome.Keeps (execLinkOpen x0) := by
  unfold execLinkOpen
  repeat' with_reducible first | assumption | apply inv_State_modLink | apply inv_State_openDies | apply keeps_next | split | exact inv_take (by assumption) (by assumption) | simp only [inv_mk_iff] | dsimp only

theorem inv_execServerClearDone (x0 : State) (h0 : State.Inv x0) : Outcome.Keeps (execServerClearDone x0) := by
  unfold execServerClearDone
  try dsimp only
  all_goals repeat' first | with_reducible assumption | (with_reducible exact inv_take (by assumption) (by assumption)) | (with_reducible intro _ h; with_reducible exact h) | (with_reducible first | apply inv_State_keyLinks | apply inv_State_modDie | apply inv_State_openDies | apply keeps_next | apply Memory.wf_filter) | (with_reducible apply inv_ite) | (with_reducible exact wf_nil) | split | simp only [inv_mk_iff] | (simp only [inv_mk_iff2]; refine ⟨?_, ?_⟩) | (with_reducible apply wf_core) | (with_reducible apply wf_srv) | with_reducible rfl | dsimp only | (with_reducible intro _ _) | (with_reducible intro _)

theorem inv_State_resumeStream (x0 : State) (x1 : Send) (h0 : State.Inv x0) : State.Inv (State.resumeStream x0 x1) := by
  unfold State.resumeStream
  dsimp only
  repeat' with_reducible first | assumption | apply inv_State_putOut | apply inv_sendAgain | split

theorem inv_State_loadRes (x0 : State) (x1 : ResNo) (h0 : State.Inv x0) : State.Inv (State.loadRes x0 x1) := by
  unfold State.loadRes
  dsimp only
  repeat' with_reducible first | assumption | apply inv_State_as | apply inv_restartAll | apply inv_modRes | apply inv_modCore | split | simp only [inv_mk_iff] | (intro _ h; exact h) | dsimp only | intro _ _

theorem inv_State_takeItem (x0 : State) (x1 : Instr) (h0 : State.Inv x0) : State.Inv (State.takeItem x0 x1) := by
  unfold State.takeItem
  repeat' with_reducible first | assumption | apply inv_State_commandIn | apply inv_State_eventIn | apply inv_State_markerIn | apply inv_State_roomBack | split

theorem inv_State_evictCrew (x0 : State) (x1 : WorkOrder) (x2 : ℕ) (x3 : Crew) (h0 : State.Inv x0) : State.Inv (State.evictCrew x0 x1 x2 x3).1 := by
  unfold State.evictCrew
  repeat' with_reducible first | assumption | apply inv_State_evictHere | apply inv_State_writeArea | split

theorem inv_execResidencySwitch (x0 : State) (h0 : State.Inv x0) : Outcome.Keeps (execResidencySwitch x0) := by
  unfold execResidencySwitch
  repeat' with_reducible first | assumption | apply inv_State_beginSwitch | apply inv_State_noSwitch | apply inv_after | apply keeps_next | split

theorem inv_execCoreMachineCheck (x0 : State) (h0 : State.Inv x0) : Outcome.Keeps (execCoreMachineCheck x0) := by
  unfold execCoreMachineCheck
  repeat' with_reducible first | assumption | apply inv_State_failRes | apply keeps_next | refine inv_foldl _ _ _ (fun _ _ _ => ?_) ?_ | refine wf_foldl _ _ _ (fun _ _ _ => ?_) ?_ | refine core_foldl _ _ _ (fun _ _ _ => ?_) ?_ | refine work_foldl _ _ _ (fun _ _ _ => ?_) ?_ | split

theorem inv_State_takeTrap (x0 : State) (x1 : TrapReq) (h0 : State.Inv x0) : State.Inv (State.takeTrap x0 x1) := by
  unfold State.takeTrap
  repeat' with_reducible first | assumption | apply inv_State_abortPacket | apply inv_State_cancelSfu | apply inv_State_disband | apply inv_State_nestedTrap | apply inv_State_useUp | apply inv_modC | split

theorem inv_State_engineMake (x0 : State) (x1 : ResNo) (x2 : EngineStep) (h0 : State.Inv x0) : State.Inv (State.engineMake x0 x1 x2) := by
  unfold State.engineMake
  dsimp only
  repeat' with_reducible first | assumption | apply inv_State_advanceField | apply inv_State_deliver | apply inv_modRes | apply inv_after | apply inv_modCore | split | simp only [inv_mk_iff] | (intro _ h; exact h) | dsimp only | intro _ _

theorem inv_State_tick (x0 : State) (h0 : State.Inv x0) : State.Inv (State.tick x0) := by
  unfold State.tick
  repeat' with_reducible first | assumption | apply inv_CoreSt_tick | apply inv_State_decideLeave | apply inv_State_expertTick | apply inv_modEnv | apply inv_modCore

theorem inv_State_applyPartials (x0 : State) (h0 : State.Inv x0) : State.Inv (State.applyPartials x0) := by
  unfold State.applyPartials
  repeat' with_reducible first | assumption | apply inv_State_applyPartial | refine inv_foldl _ _ _ (fun _ _ _ => ?_) ?_ | refine wf_foldl _ _ _ (fun _ _ _ => ?_) ?_ | refine core_foldl _ _ _ (fun _ _ _ => ?_) ?_ | refine work_foldl _ _ _ (fun _ _ _ => ?_) ?_ | split

theorem inv_State_sfuFinish (x0 : State) (x1 : ResNo) (x2 : CtxNo) (x3 : SfuReq) (h0 : State.Inv x0) : State.Inv (State.sfuFinish x0 x1 x2 x3) := by
  unfold State.sfuFinish
  repeat' with_reducible first | assumption | apply inv_State_faultStep | apply inv_State_finishTask | apply inv_State_modTask | apply inv_State_stepWrites | apply inv_modRes | split

theorem inv_readMore (x0 : ℕ) (x1 : Rank) (x2 : State) (h0 : State.Inv x2) : State.Inv (readMore x0 x1 x2) := by
  induction x0 generalizing x2 with
  | zero => exact h0
  | succ n ih =>
    unfold readMore
    split
    · exact h0
    · split
      · exact h0
      · apply ih
        split
        · exact inv_State_pieceRead _ _ _ _ _ (inv_modCore _ _ (fun _ hc => hc) h0)
        · exact inv_post _ _ (inv_modCore _ _ (fun _ hc => hc) h0)

theorem inv_flushOut (x0 : ℕ) (x1 : State) (h0 : State.Inv x1) : State.Inv (flushOut x0 x1) := by
  fun_induction flushOut x0 x1 <;> repeat' with_reducible first | assumption | apply_assumption | apply inv_State_depart | apply inv_modCore

theorem inv_State_takeLeave (x0 : State) (h0 : State.Inv x0) : State.Inv (State.takeLeave x0) := by
  unfold State.takeLeave
  dsimp only
  repeat' with_reducible first | assumption | apply inv_State_giveLeave | apply inv_State_phaseLeave | apply inv_State_useLeave | apply inv_startCopies | apply inv_startHeavy | apply inv_modCore | split | simp only [inv_mk_iff] | (intro _ h; exact h) | dsimp only | intro _ _

theorem inv_State_enterWrites (x0 : State) (h0 : State.Inv x0) : State.Inv (State.enterWrites x0) := by
  unfold State.enterWrites
  repeat' with_reducible first | assumption | apply inv_State_enterUpTo

theorem inv_State_qctlWrite (x0 : State) (x1 : ℕ) (x2 : Word) (h0 : State.Inv x0) : State.Inv (State.qctlWrite x0 x1 x2) := by
  unfold State.qctlWrite
  dsimp only
  repeat' with_reducible first | assumption | apply inv_State_cancelRecs | apply inv_State_modQueue | split

theorem inv_State_endOrder (x0 : State) (x1 : WorkOrder) (x2 : Phase) (x3 : ℕ) (x4 : Option (BitVec 7)) (h0 : State.Inv x0) : State.Inv (State.endOrder x0 x1 x2 x3 x4) := by
  unfold State.endOrder
  repeat' with_reducible first | assumption | apply inv_State_closeOrder | apply inv_State_endOrderHere

theorem inv_State_bindMsg (x0 : State) (x1 : ResNo) (x2 : Recv) (x3 : Message) (x4 : List ℕ) (x5 : ℕ) (h0 : State.Inv x0) : State.Inv (State.bindMsg x0 x1 x2 x3 x4 x5) := by
  unfold State.bindMsg
  repeat' with_reducible first | assumption | apply inv_State_startLandings | apply inv_modRes

theorem inv_execDemotionNotice (x0 : ℕ) (x1 : State) (h0 : State.Inv x1) : Outcome.Keeps (execDemotionNotice x0 x1) := by
  unfold execDemotionNotice
  dsimp only
  repeat' with_reducible first | assumption | apply inv_State_modSend | apply inv_State_resumeStream | apply inv_modCore | apply keeps_next | split | simp only [inv_mk_iff] | (intro _ h; exact h) | dsimp only | intro _ _

theorem inv_execAcceptanceNotice (x0 : ℕ) (x1 : State) (h0 : State.Inv x1) : Outcome.Keeps (execAcceptanceNotice x0 x1) := by
  unfold execAcceptanceNotice
  repeat' with_reducible first | assumption | apply inv_State_modSend | apply inv_State_resumeStream | apply inv_post | apply keeps_next | split

theorem inv_State_failSendWith (x0 : State) (x1 : Send) (x2 : BitVec 7) (x3 : Word) (h0 : State.Inv x0) : State.Inv (State.failSendWith x0 x1 x2 x3) := by
  unfold State.failSendWith
  repeat' with_reducible first | assumption | apply inv_State_closeSend | apply inv_State_localDone | apply inv_State_resumeStream | apply inv_State_sendError

theorem inv_execResidencySwitchDone (x0 : State) (h0 : State.Inv x0) : Outcome.Keeps (execResidencySwitchDone x0) := by
  unfold execResidencySwitchDone
  try dsimp only
  all_goals repeat' first | with_reducible assumption | (with_reducible exact inv_take (by assumption) (by assumption)) | (with_reducible intro _ h; with_reducible exact h) | (with_reducible first | apply inv_State_kick | apply inv_State_loadRes | apply inv_State_postOnce | apply inv_State_reloadTouch | apply inv_State_wake | apply inv_modRes | apply inv_modCore | apply keeps_next) | (with_reducible apply inv_ite) | (with_reducible exact wf_nil) | split | simp only [inv_mk_iff] | (simp only [inv_mk_iff2]; refine ⟨?_, ?_⟩) | (with_reducible apply wf_core) | (with_reducible apply wf_srv) | with_reducible rfl | dsimp only | (with_reducible intro _ _) | (with_reducible intro _)

theorem inv_execCrewDrained (x0 : State) (h0 : State.Inv x0) : Outcome.Keeps (execCrewDrained x0) := by
  unfold execCrewDrained
  dsimp only
  repeat' with_reducible first | assumption | apply inv_State_evictCrew | apply inv_State_modCrew | apply inv_State_modOrder | apply inv_State_riseValue | apply inv_State_settleEnds | apply keeps_next | split

theorem inv_State_issue (x0 : State) (x1 : List Placed) (h0 : State.Inv x0) (hp : ∀ p ∈ x1, p.op.Keeps) : State.Inv (State.issue x0 x1) := by
  unfold State.issue
  try dsimp only
  all_goals repeat' first | with_reducible assumption | (with_reducible exact inv_take (by assumption) (by assumption)) | (with_reducible intro _ h; with_reducible exact h) | (with_reducible first | apply inv_State_advance | apply inv_State_nestedTrap | apply inv_State_noteIssue | apply inv_State_takeTrap | apply inv_applyEff | apply inv_applyLate | apply inv_modC) | (with_reducible apply inv_ite) | (with_reducible exact wf_nil) | split | simp only [inv_mk_iff] | (simp only [inv_mk_iff2]; refine ⟨?_, ?_⟩) | (with_reducible apply wf_core) | (with_reducible apply wf_srv) | with_reducible rfl | dsimp only | (with_reducible intro _ _) | (with_reducible intro _)
  all_goals exact hp _ (mem_slotOrder (by assumption))

theorem inv_State_engineTouch (x0 : State) (x1 : ResNo) (x2 : EngineStep) (h0 : State.Inv x0) : State.Inv (State.engineTouch x0 x1 x2) := by
  unfold State.engineTouch
  repeat' with_reducible first | assumption | apply inv_State_engineMake | apply inv_State_grantAcc | apply inv_State_kick | apply inv_State_pendN | apply inv_modRes | split

theorem inv_execPigeonholeCopyDone (x0 : State) (h0 : State.Inv x0) : Outcome.Keeps (execPigeonholeCopyDone x0) := by
  unfold execPigeonholeCopyDone
  repeat' with_reducible first | assumption | apply inv_State_applyPartials | apply inv_modRes | apply inv_post | apply keeps_next | split

theorem inv_execLandingComplete (x0 : ResNo) (x1 : ℕ) (x2 : List Byte) (x3 : BitVec 16) (x4 : State) (h0 : State.Inv x4) : Outcome.Keeps (execLandingComplete x0 x1 x2 x3 x4) := by
  unfold execLandingComplete
  repeat' with_reducible first | assumption | apply inv_State_applyPartials | apply inv_State_backRoom | apply inv_State_completeRecv | apply inv_State_rangeRemove | apply inv_State_sayDone | apply inv_State_startLandings | apply inv_modRes | apply keeps_next | split

theorem inv_execSfuRequestDone (x0 : State) (h0 : State.Inv x0) : Outcome.Keeps (execSfuRequestDone x0) := by
  unfold execSfuRequestDone
  repeat' with_reducible first | assumption | apply inv_State_setFifo | apply inv_State_sfuFinish | apply inv_State_sfuKick | apply keeps_next | split | simp only [inv_mk_iff] | dsimp only

theorem inv_State_readOn (x0 : State) (x1 : Rank) (h0 : State.Inv x0) : State.Inv (State.readOn x0 x1) := by
  unfold State.readOn
  try dsimp only
  all_goals repeat' first | with_reducible assumption | (with_reducible exact inv_take (by assumption) (by assumption)) | (with_reducible intro _ h; with_reducible exact h) | (with_reducible first | apply inv_readMore) | (with_reducible apply inv_ite) | (with_reducible exact wf_nil) | split | simp only [inv_mk_iff] | (simp only [inv_mk_iff2]; refine ⟨?_, ?_⟩) | (with_reducible apply wf_core) | (with_reducible apply wf_srv) | with_reducible rfl | dsimp only | (with_reducible intro _ _) | (with_reducible intro _)

theorem inv_State_flush (x0 : State) (h0 : State.Inv x0) : State.Inv (State.flush x0) := by
  unfold State.flush
  repeat' with_reducible first | assumption | apply inv_flushOut

theorem inv_execLeaveGrant (x0 : State) (h0 : State.Inv x0) : Outcome.Keeps (execLeaveGrant x0) := by
  unfold execLeaveGrant
  try dsimp only
  all_goals repeat' first | with_reducible assumption | (with_reducible exact inv_take (by assumption) (by assumption)) | (with_reducible intro _ h; with_reducible exact h) | (with_reducible first | apply inv_State_takeLeave | apply keeps_next) | (with_reducible apply inv_ite) | (with_reducible exact wf_nil) | split | simp only [inv_mk_iff] | (simp only [inv_mk_iff2]; refine ⟨?_, ?_⟩) | (with_reducible apply wf_core) | (with_reducible apply wf_srv) | with_reducible rfl | dsimp only | (with_reducible intro _ _) | (with_reducible intro _)

theorem inv_execXstSourceRead (x0 : State) (h0 : State.Inv x0) : Outcome.Keeps (execXstSourceRead x0) := by
  unfold execXstSourceRead
  dsimp only
  repeat' with_reducible first | assumption | apply inv_State_buffered | apply inv_State_deferFail | apply inv_State_doneTid | apply inv_State_dropReq | apply inv_State_enterWrites | apply inv_State_modReq | apply inv_State_rangeRemove | apply inv_State_sendPieces | apply inv_post | apply inv_after | apply keeps_next | split

theorem inv_State_sendAtomic (x0 : State) (x1 : CHdr) (x2 : Req) (x3 : BitVec 5) (x4 : BitVec 5) (x5 : Bool) (x6 : BitVec 2) (x7 : BitVec 4) (h0 : State.Inv x0) : State.Inv (State.sendAtomic x0 x1 x2 x3 x4 x5 x6 x7) := by
  unfold State.sendAtomic
  repeat' with_reducible first | assumption | apply inv_State_enterReq | apply inv_State_enterWrites | apply inv_post | split

theorem inv_execQctlWrite (x0 : State) (h0 : State.Inv x0) : Outcome.Keeps (execQctlWrite x0) := by
  unfold execQctlWrite
  repeat' with_reducible first | assumption | apply inv_State_discard | apply inv_State_qctlWrite | apply inv_State_ringWrite | apply keeps_next | split | exact inv_take (by assumption) (by assumption)

theorem inv_endOrders (x0 : List WorkOrder) (x1 : State) (h0 : State.Inv x1) : State.Inv (endOrders x0 x1) := by
  induction x0 generalizing x1 with
  | nil => exact h0
  | cons a t ih =>
    unfold endOrders
    try dsimp only
    repeat' first | with_reducible assumption | (with_reducible exact inv_take (by assumption) (by assumption)) | (with_reducible intro _ h; with_reducible exact h) | (with_reducible apply ih) | (with_reducible first | apply inv_State_endOrder) | (with_reducible apply inv_ite) | (with_reducible exact wf_nil) | split | simp only [inv_mk_iff] | (simp only [inv_mk_iff2]; refine ⟨?_, ?_⟩) | (with_reducible apply wf_core) | (with_reducible apply wf_srv) | with_reducible rfl | dsimp only | (with_reducible intro _ _) | (with_reducible intro _)

theorem inv_execDispatcherLaunch (x0 : State) (h0 : State.Inv x0) : Outcome.Keeps (execDispatcherLaunch x0) := by
  unfold execDispatcherLaunch
  repeat' with_reducible first | assumption | apply inv_State_endOrder | apply inv_State_reserve | apply inv_State_settleEnds | apply inv_State_watchFirst | apply keeps_next | split | simp only [inv_mk_iff] | dsimp only

theorem inv_execWorkOrderComplete (x0 : State) (h0 : State.Inv x0) : Outcome.Keeps (execWorkOrderComplete x0) := by
  unfold execWorkOrderComplete
  dsimp only
  repeat' with_reducible first | assumption | apply inv_State_closeOrder | apply inv_State_completeOrder | apply inv_State_endOrder | apply inv_State_settleEnds | apply keeps_next | split

theorem inv_execWorkOrderTimeout (x0 : State) (h0 : State.Inv x0) : Outcome.Keeps (execWorkOrderTimeout x0) := by
  unfold execWorkOrderTimeout
  dsimp only
  repeat' with_reducible first | assumption | apply inv_State_closeOrder | apply inv_State_endOrder | apply inv_State_settleEnds | apply keeps_next | split

theorem inv_State_postRecv (x0 : State) (x1 : ResNo) (x2 : Recv) (h0 : State.Inv x0) : State.Inv (State.postRecv x0 x1 x2) := by
  unfold State.postRecv
  repeat' with_reducible first | assumption | apply inv_State_bindMsg | apply inv_modRes | split

theorem inv_feedReduction (x0 : ResNo) (x1 : BitVec 32) (x2 : ℕ) (x3 : State) (h0 : State.Inv x3) : State.Inv (feedReduction x0 x1 x2 x3) := by
  induction x2 generalizing x0 x1 x3 with
  | zero => exact h0
  | succ a ih =>
    unfold feedReduction
    try dsimp only
    repeat' first | with_reducible assumption | (with_reducible exact inv_take (by assumption) (by assumption)) | (with_reducible intro _ h; with_reducible exact h) | (with_reducible apply ih) | (with_reducible first | apply inv_State_bindMsg | apply inv_modRes) | (with_reducible apply inv_ite) | (with_reducible exact wf_nil) | split | simp only [inv_mk_iff] | (simp only [inv_mk_iff2]; refine ⟨?_, ?_⟩) | (with_reducible apply wf_core) | (with_reducible apply wf_srv) | with_reducible rfl | dsimp only | (with_reducible intro _ _) | (with_reducible intro _)

theorem inv_State_matchReduction (x0 : State) (x1 : ResNo) (x2 : Message) (h0 : State.Inv x0) : State.Inv (State.matchReduction x0 x1 x2) := by
  unfold State.matchReduction
  dsimp only
  repeat' with_reducible first | assumption | apply inv_State_accepted | apply inv_State_applyPartials | apply inv_State_bindMsg | apply inv_State_holdMsg | apply inv_State_sayAccepted | split

theorem inv_State_matchMsg (x0 : State) (x1 : ResNo) (x2 : Message) (h0 : State.Inv x0) : State.Inv (State.matchMsg x0 x1 x2) := by
  unfold State.matchMsg
  repeat' with_reducible first | assumption | apply inv_State_accepted | apply inv_State_bindMsg | apply inv_State_holdMsg | apply inv_State_sayAccepted | apply inv_modRes | split

theorem inv_State_sayFailed (x0 : State) (x1 : Message) (x2 : BitVec 7) (h0 : State.Inv x0) : State.Inv (State.sayFailed x0 x1 x2) := by
  unfold State.sayFailed
  repeat' with_reducible first | assumption | apply inv_State_emitFor | apply inv_State_failSendWith | split

theorem inv_State_failSend (x0 : State) (x1 : Send) (x2 : BitVec 7) (x3 : Bool) (h0 : State.Inv x0) : State.Inv (State.failSend x0 x1 x2 x3) := by
  unfold State.failSend
  repeat' with_reducible first | assumption | apply inv_State_failSendWith

theorem inv_execSenderErrorReport (x0 : ResNo) (x1 : BitVec 7) (x2 : CtxNo) (x3 : Pair) (x4 : Word) (x5 : Rank) (x6 : Word) (x7 : State) (h0 : State.Inv x7) : Outcome.Keeps (execSenderErrorReport x0 x1 x2 x3 x4 x5 x6 x7) := by
  unfold execSenderErrorReport
  repeat' with_reducible first | assumption | apply inv_State_failSendWith | apply inv_State_noteReport | apply keeps_next | split

theorem inv_runPlaced (x0 : List Placed) (x1 : State) (h0 : State.Inv x1) (hp : ∀ p ∈ x0, p.op.Keeps) : State.Inv (runPlaced x0 x1) := by
  unfold runPlaced
  try dsimp only
  all_goals repeat' first | with_reducible assumption | (with_reducible exact inv_take (by assumption) (by assumption)) | (with_reducible intro _ h; with_reducible exact h) | (with_reducible first | apply inv_State_hold | apply inv_State_issue | apply inv_State_replayBack | apply inv_State_takeTrap | apply inv_applyAsk | apply inv_resolveAll | apply inv_modC) | (with_reducible apply inv_ite) | (with_reducible exact wf_nil) | split | simp only [inv_mk_iff] | (simp only [inv_mk_iff2]; refine ⟨?_, ?_⟩) | (with_reducible apply wf_core) | (with_reducible apply wf_srv) | with_reducible rfl | dsimp only | (with_reducible intro _ _) | (with_reducible intro _)
  all_goals first | exact hp _ (mem_liveOps (mem_slotOrder (by assumption))) | exact hp _ (mem_liveOps (by assumption))

theorem inv_execEventDeliver (x0 : State) (h0 : State.Inv x0) : Outcome.Keeps (execEventDeliver x0) := by
  unfold execEventDeliver
  repeat' with_reducible first | assumption | apply inv_State_engineTouch | apply inv_State_kick | apply keeps_next | split

theorem inv_execFieldAdvance (x0 : State) (h0 : State.Inv x0) : Outcome.Keeps (execFieldAdvance x0) := by
  unfold execFieldAdvance
  repeat' with_reducible first | assumption | apply inv_State_engineTouch | apply inv_State_kick | apply keeps_next | split

theorem inv_State_answerRead (x0 : State) (x1 : ServerReq) (x2 : List Byte) (x3 : Option ServerFail) (h0 : State.Inv x0) : State.Inv (State.answerRead x0 x1 x2 x3) := by
  unfold State.answerRead
  repeat' with_reducible first | assumption | apply inv_State_emit | apply inv_State_pieceRead | apply inv_State_readOn | apply inv_State_reply | split

theorem inv_execPorterActiveMessage (x0 : PorterCopy) (x1 : State) (h0 : State.Inv x1) : Outcome.Keeps (execPorterActiveMessage x0 x1) := by
  unfold execPorterActiveMessage
  try dsimp only
  all_goals repeat' first | with_reducible assumption | (with_reducible exact inv_take (by assumption) (by assumption)) | (with_reducible intro _ h; with_reducible exact h) | (with_reducible first | apply inv_State_modReq | apply inv_State_readOn | apply inv_State_report | apply keeps_next) | (with_reducible apply inv_ite) | (with_reducible exact wf_nil) | split | simp only [inv_mk_iff] | (simp only [inv_mk_iff2]; refine ⟨?_, ?_⟩) | (with_reducible apply wf_core) | (with_reducible apply wf_srv) | with_reducible rfl | dsimp only | (with_reducible intro _ _) | (with_reducible intro _)

theorem inv_execStopInterfaceRequest (x0 : State) (h0 : State.Inv x0) : Outcome.Keeps (execStopInterfaceRequest x0) := by
  unfold execStopInterfaceRequest
  repeat' with_reducible first | assumption | apply inv_State_modTenant | apply inv_endOrders | apply keeps_next | split | exact inv_take (by assumption) (by assumption)

theorem inv_execExtentGrant (x0 : State) (h0 : State.Inv x0) : Outcome.Keeps (execExtentGrant x0) := by
  unfold execExtentGrant
  repeat' with_reducible first | assumption | apply inv_State_discard | apply inv_State_refuseGrant | apply inv_State_takeGrant | apply inv_endOrders | apply keeps_next | split | exact inv_take (by assumption) (by assumption) | simp only [inv_mk_iff] | dsimp only

theorem inv_execTdispError (x0 : State) (h0 : State.Inv x0) : Outcome.Keeps (execTdispError x0) := by
  unfold execTdispError
  repeat' with_reducible first | assumption | apply inv_State_clearGroups | apply inv_State_modTenant | apply inv_endOrders | apply keeps_next | split | exact inv_take (by assumption) (by assumption)

theorem inv_State_feed (x0 : State) (x1 : ResNo) (x2 : BitVec 32) (h0 : State.Inv x0) : State.Inv (State.feed x0 x1 x2) := by
  unfold State.feed
  repeat' with_reducible first | assumption | apply inv_feedReduction

theorem inv_State_envelopeIn (x0 : State) (x1 : Message) (h0 : State.Inv x0) : State.Inv (State.envelopeIn x0 x1) := by
  unfold State.envelopeIn
  repeat' with_reducible first | assumption | apply inv_State_matchMsg | apply inv_State_matchReduction | apply inv_State_pass | apply inv_State_refuse | apply inv_State_sayFailed | split

theorem inv_execRefusalNotice (x0 : ℕ) (x1 : State) (h0 : State.Inv x1) : Outcome.Keeps (execRefusalNotice x0 x1) := by
  unfold execRefusalNotice
  dsimp only
  repeat' with_reducible first | assumption | apply inv_State_failSend | apply inv_State_modSend | apply inv_State_putOut | apply inv_after | apply keeps_next | split

theorem inv_execDestEnded (x0 : ℕ) (x1 : State) (h0 : State.Inv x1) : Outcome.Keeps (execDestEnded x0 x1) := by
  unfold execDestEnded
  repeat' with_reducible first | assumption | apply inv_State_failSend | apply keeps_next | split

theorem inv_State_startSend (x0 : State) (x1 : Send) (h0 : State.Inv x0) : State.Inv (State.startSend x0 x1) := by
  unfold State.startSend
  dsimp only
  repeat' with_reducible first | assumption | apply inv_State_enterSend | apply inv_State_failSend | apply inv_State_flush | apply inv_bump | apply inv_modCore | split | simp only [inv_mk_iff] | (intro _ h; exact h) | dsimp only | intro _ _

theorem inv_refuseCopies (x0 : List Send) (x1 : State) (h0 : State.Inv x1) : State.Inv (refuseCopies x0 x1) := by
  fun_induction refuseCopies x0 x1 <;> repeat' with_reducible first | assumption | apply_assumption | apply inv_State_failSend

theorem inv_failSends (x0 : Bool) (x1 : List Send) (x2 : State) (h0 : State.Inv x2) : State.Inv (failSends x0 x1 x2) := by
  fun_induction failSends x0 x1 x2 <;> repeat' with_reducible first | assumption | apply_assumption | apply inv_State_failSend

theorem inv_State_fillSend (x0 : State) (x1 : Task) (h0 : State.Inv x0) : State.Inv (State.fillSend x0 x1) := by
  unfold State.fillSend
  dsimp only
  repeat' with_reducible first | assumption | apply inv_State_failSend | apply inv_State_flush | apply inv_State_modSend | apply inv_modCore | split | simp only [inv_mk_iff] | (intro _ h; exact h) | dsimp only | intro _ _

theorem inv_State_serveFail (x0 : State) (x1 : ServerReq) (x2 : ServerFail) (h0 : State.Inv x0) : State.Inv (State.serveFail x0 x1 x2) := by
  unfold State.serveFail
  repeat' with_reducible first | assumption | apply inv_State_answerAtomic | apply inv_State_answerRead | apply inv_State_answerWrite | split

theorem inv_State_serveRead (x0 : State) (x1 : ServerReq) (x2 : ℕ) (h0 : State.Inv x0) : State.Inv (State.serveRead x0 x1 x2) := by
  unfold State.serveRead
  repeat' with_reducible first | assumption | apply inv_State_answerRead | split | simp only [inv_mk_iff] | dsimp only

theorem inv_State_doStep (x0 : State) (x1 : Task) (h0 : State.Inv x0) : State.Inv (State.doStep x0 x1) := by
  unfold State.doStep
  repeat' with_reducible first | assumption | apply inv_State_feed | apply inv_State_ringStep | apply inv_State_stepWrites | apply inv_modRes | split

theorem inv_State_feedAll (x0 : State) (x1 : ResNo) (h0 : State.Inv x0) : State.Inv (State.feedAll x0 x1) := by
  unfold State.feedAll
  repeat' with_reducible first | assumption | apply inv_State_feed | refine inv_foldl _ _ _ (fun _ _ _ => ?_) ?_ | refine wf_foldl _ _ _ (fun _ _ _ => ?_) ?_ | refine core_foldl _ _ _ (fun _ _ _ => ?_) ?_ | refine work_foldl _ _ _ (fun _ _ _ => ?_) ?_

theorem inv_State_takeOut (x0 : State) (x1 : Waiting) (h0 : State.Inv x0) : State.Inv (State.takeOut x0 x1) := by
  unfold State.takeOut
  dsimp only
  repeat' with_reducible first | assumption | apply inv_State_envelopeIn | apply inv_State_freeRoom | apply inv_State_takeItem | apply inv_modCore | split | simp only [inv_mk_iff] | (intro _ h; exact h) | dsimp only | intro _ _

theorem inv_State_closePacket (x0 : State) (x1 : Packet) (x2 : Word) (h0 : State.Inv x0) : State.Inv (State.closePacket x0 x1 x2) := by
  unfold State.closePacket
  dsimp only
  repeat' with_reducible first | assumption | apply inv_State_flush | apply inv_State_startSend | apply inv_modCore | split | simp only [inv_mk_iff] | (intro _ h; exact h) | dsimp only | intro _ _

theorem inv_State_sendTo (x0 : State) (x1 : Rank) (x2 : Word) (x3 : Word) (x4 : BitVec 32) (x5 : Bool) (h0 : State.Inv x0) : State.Inv (State.sendTo x0 x1 x2 x3 x4 x5) := by
  unfold State.sendTo
  repeat' with_reducible first | assumption | apply inv_State_guardArea | apply inv_State_startSend

theorem inv_State_startCast (x0 : State) (x1 : List Send) (h0 : State.Inv x0) : State.Inv (State.startCast x0 x1) := by
  unfold State.startCast
  dsimp only
  repeat' with_reducible first | assumption | apply inv_State_flush | apply inv_State_queueOut | apply inv_refuseCopies | apply inv_modCore | split | simp only [inv_mk_iff] | (intro _ h; exact h) | dsimp only | intro _ _

theorem inv_State_startTask (x0 : State) (x1 : Task) (h0 : State.Inv x0) : State.Inv (State.startTask x0 x1) := by
  unfold State.startTask
  repeat' with_reducible first | assumption | apply inv_State_fillSend | apply inv_State_finishTask | apply inv_State_modTask | apply inv_State_runStep | apply inv_State_sftRequests | apply inv_State_startMatrix | apply inv_State_startRing | apply inv_State_takeLfsr | apply inv_post | apply inv_bump | split

theorem inv_execWeighhouseAtomic (x0 : ServerReq) (x1 : State) (h0 : State.Inv x1) : Outcome.Keeps (execWeighhouseAtomic x0 x1) := by
  unfold execWeighhouseAtomic
  repeat' with_reducible first | assumption | apply inv_State_modWeigh | apply inv_State_serveFail | apply inv_State_startWeigh | apply inv_after | apply keeps_next | split

theorem inv_refuseDead (x0 : List ServerReq) (x1 : State) (h0 : State.Inv x1) : State.Inv (refuseDead x0 x1) := by
  fun_induction refuseDead x0 x1 <;> repeat' with_reducible first | assumption | apply_assumption | apply inv_State_serveFail

theorem inv_State_serve (x0 : State) (x1 : ServerReq) (h0 : State.Inv x0) : State.Inv (State.serve x0 x1) := by
  unfold State.serve
  try dsimp only
  all_goals repeat' first | with_reducible assumption | (with_reducible exact inv_take (by assumption) (by assumption)) | (with_reducible intro _ h; with_reducible exact h) | (with_reducible first | apply inv_Servers_correct | apply inv_Servers_put | apply inv_State_answerAtomic | apply inv_State_answerWrite | apply inv_State_serveRead) | (with_reducible apply inv_ite) | (with_reducible exact wf_nil) | split | simp only [inv_mk_iff] | (simp only [inv_mk_iff2]; refine ⟨?_, ?_⟩) | (with_reducible apply wf_core) | (with_reducible apply wf_srv) | with_reducible rfl | dsimp only | (with_reducible intro _ _) | (with_reducible intro _)

theorem inv_execTaskStepEnd (x0 : ℕ) (x1 : State) (h0 : State.Inv x1) : Outcome.Keeps (execTaskStepEnd x0 x1) := by
  unfold execTaskStepEnd
  try dsimp only
  all_goals repeat' first | with_reducible assumption | (with_reducible exact inv_take (by assumption) (by assumption)) | (with_reducible intro _ h; with_reducible exact h) | (with_reducible first | apply inv_State_doStep | apply inv_State_faultStep | apply inv_State_mispair | apply inv_State_nextStep | apply inv_State_noteBad | apply inv_post | apply inv_after | apply inv_modCore | apply keeps_next) | (with_reducible apply inv_ite) | (with_reducible exact wf_nil) | split | simp only [inv_mk_iff] | (simp only [inv_mk_iff2]; refine ⟨?_, ?_⟩) | (with_reducible apply wf_core) | (with_reducible apply wf_srv) | with_reducible rfl | dsimp only | (with_reducible intro _ _) | (with_reducible intro _)

theorem inv_State_ranksGone (x0 : Bool) (x1 : State) (x2 : ResNo) (x3 : Rank → Bool) (h0 : State.Inv x1) : State.Inv (State.ranksGone x0 x1 x2 x3) := by
  unfold State.ranksGone
  repeat' with_reducible first | assumption | apply inv_State_feedAll | apply inv_State_rangeRemove | apply inv_State_startLandings | apply inv_deadRecvs | apply inv_failSends | apply inv_modRes | refine inv_foldl _ _ _ (fun _ _ _ => ?_) ?_ | refine wf_foldl _ _ _ (fun _ _ _ => ?_) ?_ | refine core_foldl _ _ _ (fun _ _ _ => ?_) ?_ | refine work_foldl _ _ _ (fun _ _ _ => ?_) ?_

theorem inv_drainOn (x0 : ℕ) (x1 : State) (h0 : State.Inv x1) : State.Inv (drainOn x0 x1) := by
  induction x0 generalizing x1 with
  | zero => exact h0
  | succ n ih =>
    unfold drainOn
    dsimp only
    split
    · exact inv_modCore _ _ (fun _ hc => hc) h0
    · split
      · exact inv_modCore _ _ (fun _ hc => hc) h0
      · exact ih _ (inv_State_takeOut _ _ (inv_modCore _ _ (fun _ hc => hc) h0))

theorem inv_State_multicast (x0 : State) (x1 : Word) (x2 : Word) (x3 : Word) (x4 : BitVec 4) (x5 : BitVec 28) (h0 : State.Inv x0) : State.Inv (State.multicast x0 x1 x2 x3 x4 x5) := by
  unfold State.multicast
  repeat' with_reducible first | assumption | apply inv_State_guardArea | apply inv_State_startCast | apply inv_modR | split

theorem inv_State_dispatchTask (x0 : State) (x1 : Task) (h0 : State.Inv x0) : State.Inv (State.dispatchTask x0 x1) := by
  unfold State.dispatchTask
  dsimp only
  repeat' with_reducible first | assumption | apply inv_State_as | apply inv_State_pendN | apply inv_State_resolve | apply inv_State_startTask | apply inv_modRes | split | simp only [inv_mk_iff] | (intro _ h; exact h) | dsimp only | intro _ _

theorem inv_State_answerDead (x0 : State) (x1 : ℕ) (h0 : State.Inv x0) : State.Inv (State.answerDead x0 x1) := by
  unfold State.answerDead
  try dsimp only
  all_goals repeat' first | with_reducible assumption | (with_reducible exact inv_take (by assumption) (by assumption)) | (with_reducible intro _ h; with_reducible exact h) | (with_reducible first | apply inv_State_startWeigh | apply inv_refuseDead | apply inv_post | refine inv_foldl _ _ _ (fun _ _ _ => ?_) ?_ | refine wf_foldl _ _ _ (fun _ _ _ => ?_) ?_ | refine core_foldl _ _ _ (fun _ _ _ => ?_) ?_ | refine work_foldl _ _ _ (fun _ _ _ => ?_) ?_) | (with_reducible apply inv_ite) | (with_reducible exact wf_nil) | split | simp only [inv_mk_iff] | (simp only [inv_mk_iff2]; refine ⟨?_, ?_⟩) | (with_reducible apply wf_core) | (with_reducible apply wf_srv) | with_reducible rfl | dsimp only | (with_reducible intro _ _) | (with_reducible intro _)

theorem inv_serveAll (x0 : List ServerReq) (x1 : State) (h0 : State.Inv x1) : State.Inv (serveAll x0 x1) := by
  fun_induction serveAll x0 x1 <;> repeat' with_reducible first | assumption | apply_assumption | apply inv_State_serve

theorem inv_execServerRequest (x0 : ServerReq) (x1 : State) (h0 : State.Inv x1) : Outcome.Keeps (execServerRequest x0 x1) := by
  unfold execServerRequest
  try dsimp only
  all_goals repeat' first | with_reducible assumption | (with_reducible exact inv_take (by assumption) (by assumption)) | (with_reducible intro _ h; with_reducible exact h) | (with_reducible first | apply inv_State_serve | apply inv_State_serveFail | apply inv_after | apply keeps_next) | (with_reducible apply inv_ite) | (with_reducible exact wf_nil) | split | simp only [inv_mk_iff] | (simp only [inv_mk_iff2]; refine ⟨?_, ?_⟩) | (with_reducible apply wf_core) | (with_reducible apply wf_srv) | with_reducible rfl | dsimp only | (with_reducible intro _ _) | (with_reducible intro _)

theorem inv_State_ranksDead (x0 : State) (x1 : ResNo) (x2 : Rank → Bool) (h0 : State.Inv x0) : State.Inv (State.ranksDead x0 x1 x2) := by
  unfold State.ranksDead
  repeat' with_reducible first | assumption | apply inv_State_ranksGone | split

theorem inv_State_timedOut (x0 : State) (x1 : ResNo) (x2 : ℕ) (h0 : State.Inv x0) : State.Inv (State.timedOut x0 x1 x2) := by
  unfold State.timedOut
  dsimp only
  repeat' with_reducible first | assumption | apply inv_State_ranksGone | apply inv_failReqs | apply inv_failSends | apply inv_modRes | split

theorem inv_State_drain (x0 : State) (h0 : State.Inv x0) : State.Inv (State.drain x0) := by
  unfold State.drain
  try dsimp only
  all_goals repeat' first | with_reducible assumption | (with_reducible exact inv_take (by assumption) (by assumption)) | (with_reducible intro _ h; with_reducible exact h) | (with_reducible first | apply inv_drainOn) | (with_reducible apply inv_ite) | (with_reducible exact wf_nil) | split | simp only [inv_mk_iff] | (simp only [inv_mk_iff2]; refine ⟨?_, ?_⟩) | (with_reducible apply wf_core) | (with_reducible apply wf_srv) | with_reducible rfl | dsimp only | (with_reducible intro _ _) | (with_reducible intro _)

theorem inv_State_dispatchEngine (x0 : State) (x1 : ResNo) (x2 : BitVec 3) (h0 : State.Inv x0) : State.Inv (State.dispatchEngine x0 x1 x2) := by
  unfold State.dispatchEngine
  try dsimp only
  all_goals repeat' first | with_reducible assumption | (with_reducible exact inv_take (by assumption) (by assumption)) | (with_reducible intro _ h; with_reducible exact h) | (with_reducible first | apply inv_State_dispatchTask | apply inv_modCore) | (with_reducible apply inv_ite) | (with_reducible exact wf_nil) | split | simp only [inv_mk_iff] | (simp only [inv_mk_iff2]; refine ⟨?_, ?_⟩) | (with_reducible apply wf_core) | (with_reducible apply wf_srv) | with_reducible rfl | dsimp only | (with_reducible intro _ _) | (with_reducible intro _)

theorem inv_State_weighEnd (x0 : State) (x1 : Weigh) (h0 : State.Inv x0) : State.Inv (State.weighEnd x0 x1) := by
  unfold State.weighEnd
  try dsimp only
  all_goals repeat' first | with_reducible assumption | (with_reducible exact inv_take (by assumption) (by assumption)) | (with_reducible intro _ h; with_reducible exact h) | (with_reducible first | apply inv_State_modWeigh | apply inv_State_startWeigh | apply inv_serveAll) | (with_reducible apply inv_ite) | (with_reducible exact wf_nil) | split | simp only [inv_mk_iff] | (simp only [inv_mk_iff2]; refine ⟨?_, ?_⟩) | (with_reducible apply wf_core) | (with_reducible apply wf_srv) | with_reducible rfl | dsimp only | (with_reducible intro _ _) | (with_reducible intro _)

theorem inv_State_dieGoneFor (x0 : State) (x1 : ℕ) (x2 : ResNo) (h0 : State.Inv x0) : State.Inv (State.dieGoneFor x0 x1 x2) := by
  unfold State.dieGoneFor
  repeat' with_reducible first | assumption | apply inv_State_ranksDead | apply inv_State_takeEdge | apply inv_modRes | split

theorem inv_State_packageDead (x0 : State) (x1 : ResNo) (x2 : ℕ) (h0 : State.Inv x0) : State.Inv (State.packageDead x0 x1 x2) := by
  unfold State.packageDead
  repeat' with_reducible first | assumption | apply inv_State_ranksDead

theorem inv_timeOutAll (x0 : List (ResNo × ℕ)) (x1 : State) (h0 : State.Inv x1) : State.Inv (timeOutAll x0 x1) := by
  induction x0 generalizing x1 with
  | nil => exact h0
  | cons a t ih =>
    unfold timeOutAll
    try dsimp only
    repeat' first | with_reducible assumption | (with_reducible exact inv_take (by assumption) (by assumption)) | (with_reducible intro _ h; with_reducible exact h) | (with_reducible apply ih) | (with_reducible first | apply inv_State_timedOut) | (with_reducible apply inv_ite) | (with_reducible exact wf_nil) | split | simp only [inv_mk_iff] | (simp only [inv_mk_iff2]; refine ⟨?_, ?_⟩) | (with_reducible apply wf_core) | (with_reducible apply wf_srv) | with_reducible rfl | dsimp only | (with_reducible intro _ _) | (with_reducible intro _)

theorem inv_State_receive (x0 : State) (x1 : Instr) (h0 : State.Inv x0) : State.Inv (State.receive x0 x1) := by
  unfold State.receive
  dsimp only
  repeat' with_reducible first | assumption | apply inv_State_drain | apply inv_modCore | split | simp only [inv_mk_iff] | (intro _ h; exact h) | dsimp only | intro _ _

theorem inv_State_tend (x0 : State) (h0 : State.Inv x0) : State.Inv (State.tend x0) := by
  unfold State.tend
  repeat' with_reducible first | assumption | apply inv_State_applyPartials | apply inv_State_drain | apply inv_State_enterWrites | apply inv_State_exchTick | apply inv_State_flush | apply inv_State_injectStep | apply inv_State_kick | apply inv_State_landStep | apply inv_State_routerStep | apply inv_State_startLandings

theorem inv_execForemanDispatch (x0 : State) (h0 : State.Inv x0) : Outcome.Keeps (execForemanDispatch x0) := by
  unfold execForemanDispatch
  repeat' with_reducible first | assumption | apply inv_State_dispatchEngine | apply inv_State_lookAgain | apply keeps_next | refine inv_foldl _ _ _ (fun _ _ _ => ?_) ?_ | refine wf_foldl _ _ _ (fun _ _ _ => ?_) ?_ | refine core_foldl _ _ _ (fun _ _ _ => ?_) ?_ | refine work_foldl _ _ _ (fun _ _ _ => ?_) ?_ | split

theorem inv_execServerLockRead (x0 : State) (h0 : State.Inv x0) : Outcome.Keeps (execServerLockRead x0) := by
  unfold execServerLockRead
  try dsimp only
  all_goals repeat' first | with_reducible assumption | (with_reducible exact inv_take (by assumption) (by assumption)) | (with_reducible intro _ h; with_reducible exact h) | (with_reducible first | apply inv_Servers_correct | apply inv_State_answerAtomic | apply inv_State_modWeigh | apply inv_State_weighEnd | apply inv_post | apply keeps_next) | (with_reducible apply inv_ite) | (with_reducible exact wf_nil) | split | simp only [inv_mk_iff] | (simp only [inv_mk_iff2]; refine ⟨?_, ?_⟩) | (with_reducible apply wf_core) | (with_reducible apply wf_srv) | with_reducible rfl | dsimp only | (with_reducible intro _ _) | (with_reducible intro _)

theorem inv_execServerWriteUnlock (x0 : State) (h0 : State.Inv x0) : Outcome.Keeps (execServerWriteUnlock x0) := by
  unfold execServerWriteUnlock
  try dsimp only
  all_goals repeat' first | with_reducible assumption | (with_reducible exact inv_take (by assumption) (by assumption)) | (with_reducible intro _ h; with_reducible exact h) | (with_reducible first | apply inv_Servers_put | apply inv_State_answerAtomic | apply inv_State_weighEnd | apply inv_after | apply keeps_next) | (with_reducible apply inv_ite) | (with_reducible exact wf_nil) | split | simp only [inv_mk_iff] | (simp only [inv_mk_iff2]; refine ⟨?_, ?_⟩) | (with_reducible apply wf_core) | (with_reducible apply wf_srv) | with_reducible rfl | dsimp only | (with_reducible intro _ _) | (with_reducible intro _)

theorem inv_State_dieGone (x0 : State) (x1 : ℕ) (h0 : State.Inv x0) : State.Inv (State.dieGone x0 x1) := by
  unfold State.dieGone
  repeat' with_reducible first | assumption | apply inv_State_answerSends | apply inv_State_dieGoneFor | refine inv_foldl _ _ _ (fun _ _ _ => ?_) ?_ | refine wf_foldl _ _ _ (fun _ _ _ => ?_) ?_ | refine core_foldl _ _ _ (fun _ _ _ => ?_) ?_ | refine work_foldl _ _ _ (fun _ _ _ => ?_) ?_

theorem inv_State_cutPackage (x0 : State) (x1 : ℕ) (h0 : State.Inv x0) : State.Inv (State.cutPackage x0 x1) := by
  unfold State.cutPackage
  dsimp only
  repeat' with_reducible first | assumption | apply inv_State_packageDead | apply inv_failReqs | apply inv_failSends | refine inv_foldl _ _ _ (fun _ _ _ => ?_) ?_ | refine wf_foldl _ _ _ (fun _ _ _ => ?_) ?_ | refine core_foldl _ _ _ (fun _ _ _ => ?_) ?_ | refine work_foldl _ _ _ (fun _ _ _ => ?_) ?_ | split

theorem inv_State_deadFor (x0 : State) (x1 : ResNo) (x2 : ℕ) (h0 : State.Inv x0) : State.Inv (State.deadFor x0 x1 x2) := by
  unfold State.deadFor
  repeat' with_reducible first | assumption | apply inv_State_packageDead | split | exact inv_take (by assumption) (by assumption)

theorem inv_execSourceTimeout (x0 : State) (h0 : State.Inv x0) : Outcome.Keeps (execSourceTimeout x0) := by
  unfold execSourceTimeout
  repeat' with_reducible first | assumption | apply inv_timeOutAll | apply keeps_next

theorem inv_execEventArrival (x0 : EventRec) (x1 : Addressee) (x2 : State) (h0 : State.Inv x2) : Outcome.Keeps (execEventArrival x0 x1 x2) := by
  unfold execEventArrival
  repeat' with_reducible first | assumption | apply inv_State_receive | apply keeps_next

theorem inv_execMmarCommandArrival (x0 : MatrixCommand) (x1 : State) (h0 : State.Inv x1) : Outcome.Keeps (execMmarCommandArrival x0 x1) := by
  unfold execMmarCommandArrival
  repeat' with_reducible first | assumption | apply inv_State_receive | apply keeps_next

theorem inv_execMarkerArrival (x0 : ResNo) (x1 : Rank) (x2 : BitVec 32) (x3 : Bool) (x4 : State) (h0 : State.Inv x4) : Outcome.Keeps (execMarkerArrival x0 x1 x2 x3 x4) := by
  unfold execMarkerArrival
  repeat' with_reducible first | assumption | apply inv_State_receive | apply keeps_next

theorem inv_execAccxMessageArrival (x0 : Message) (x1 : State) (h0 : State.Inv x1) : Outcome.Keeps (execAccxMessageArrival x0 x1) := by
  unfold execAccxMessageArrival
  repeat' with_reducible first | assumption | apply inv_State_receive | apply keeps_next

theorem inv_execEagerArrival (x0 : Message) (x1 : State) (h0 : State.Inv x1) : Outcome.Keeps (execEagerArrival x0 x1) := by
  unfold execEagerArrival
  repeat' with_reducible first | assumption | apply inv_State_receive | apply keeps_next

theorem inv_execRendezvousArrival (x0 : Message) (x1 : State) (h0 : State.Inv x1) : Outcome.Keeps (execRendezvousArrival x0 x1) := by
  unfold execRendezvousArrival
  repeat' with_reducible first | assumption | apply inv_State_receive | apply keeps_next

theorem inv_State_cycleStart (x0 : State) (h0 : State.Inv x0) : State.Inv (State.cycleStart x0) := by
  unfold State.cycleStart
  dsimp only
  repeat' with_reducible first | assumption | apply inv_State_gangTell | apply inv_State_hearOutside | apply inv_State_noteLimits | apply inv_State_tend | apply inv_modCore | split | simp only [inv_mk_iff] | (intro _ h; exact h) | dsimp only | intro _ _

theorem inv_State_quarantineOne (x0 : State) (x1 : BitVec 8) (x2 : ℕ) (h0 : State.Inv x0) : State.Inv (State.quarantineOne x0 x1 x2) := by
  unfold State.quarantineOne
  repeat' with_reducible first | assumption | apply inv_State_answerDead | apply inv_State_dieGone | apply inv_State_modDie | apply inv_State_repin | apply inv_closeLinks | apply inv_endOrders | apply inv_modPkg

theorem inv_execRevocationStatement (x0 : State) (h0 : State.Inv x0) : Outcome.Keeps (execRevocationStatement x0) := by
  unfold execRevocationStatement
  repeat' with_reducible first | assumption | apply inv_State_cutPackage | apply inv_forwardRevocation | apply inv_modPkg | apply keeps_next | refine inv_foldl _ _ _ (fun _ _ _ => ?_) ?_ | refine wf_foldl _ _ _ (fun _ _ _ => ?_) ?_ | refine core_foldl _ _ _ (fun _ _ _ => ?_) ?_ | refine work_foldl _ _ _ (fun _ _ _ => ?_) ?_ | split | exact inv_take (by assumption) (by assumption)

theorem inv_execPeerDeadResponse (x0 : ℕ) (x1 : State) (h0 : State.Inv x1) : Outcome.Keeps (execPeerDeadResponse x0 x1) := by
  unfold execPeerDeadResponse
  repeat' with_reducible first | assumption | apply inv_State_deadFor | apply inv_State_failReq | apply inv_State_failSend | apply keeps_next | split

theorem inv_State_quarantine (x0 : State) (x1 : ℕ) (x2 : BitVec 8) (h0 : State.Inv x0) : State.Inv (State.quarantine x0 x1 x2) := by
  unfold State.quarantine
  dsimp only
  repeat' with_reducible first | assumption | apply inv_State_quarantineOne | refine inv_foldl _ _ _ (fun _ _ _ => ?_) ?_ | refine wf_foldl _ _ _ (fun _ _ _ => ?_) ?_ | refine core_foldl _ _ _ (fun _ _ _ => ?_) ?_ | refine work_foldl _ _ _ (fun _ _ _ => ?_) ?_ | split

theorem inv_State_failFlow (x0 : State) (x1 : Flow) (x2 : BitVec 8) (h0 : State.Inv x0) : State.Inv (State.failFlow x0 x1 x2) := by
  unfold State.failFlow
  repeat' with_reducible first | assumption | apply inv_State_quarantine | apply inv_modPkg | split

theorem inv_failTraining (x0 : List ℕ) (x1 : State) (h0 : State.Inv x1) : State.Inv (failTraining x0 x1) := by
  fun_induction failTraining x0 x1 <;> repeat' with_reducible first | assumption | apply_assumption | apply inv_State_closeLink | apply inv_State_quarantine

theorem inv_State_failLink (x0 : State) (x1 : ℕ) (h0 : State.Inv x0) : State.Inv (State.failLink x0 x1) := by
  unfold State.failLink
  dsimp only
  repeat' with_reducible first | assumption | apply inv_State_closeLink | apply inv_State_quarantine | split

theorem inv_execLoneReset (x0 : State) (h0 : State.Inv x0) : Outcome.Keeps (execLoneReset x0) := by
  unfold execLoneReset
  repeat' with_reducible first | assumption | apply inv_State_quarantine | apply inv_State_restart | apply inv_modEnv | apply keeps_next | split | exact inv_take (by assumption) (by assumption)

theorem inv_execKeyAckTimeout (x0 : State) (h0 : State.Inv x0) : Outcome.Keeps (execKeyAckTimeout x0) := by
  unfold execKeyAckTimeout
  dsimp only
  repeat' with_reducible first | assumption | apply inv_State_closeLink | apply inv_State_quarantine | apply keeps_next | refine inv_foldl _ _ _ (fun _ _ _ => ?_) ?_ | refine wf_foldl _ _ _ (fun _ _ _ => ?_) ?_ | refine core_foldl _ _ _ (fun _ _ _ => ?_) ?_ | refine work_foldl _ _ _ (fun _ _ _ => ?_) ?_ | split

theorem inv_quarantineAll (x0 : List ℕ) (x1 : State) (h0 : State.Inv x1) : State.Inv (quarantineAll x0 x1) := by
  fun_induction quarantineAll x0 x1 <;> repeat' with_reducible first | assumption | apply_assumption | apply inv_State_quarantine | apply inv_modEnv

theorem inv_execKeyRetiredTimeout (x0 : State) (h0 : State.Inv x0) : Outcome.Keeps (execKeyRetiredTimeout x0) := by
  unfold execKeyRetiredTimeout
  repeat' with_reducible first | assumption | apply inv_State_closeLink | apply inv_State_quarantine | apply keeps_next | split

theorem inv_State_spdmStep (x0 : State) (x1 : ℕ) (x2 : BitVec 8) (x3 : SpdmBody →   Option (Flow → State → Option (Flow × ℕ))) (h0 : State.Inv x0) : State.Inv (State.spdmStep x0 x1 x2 x3) := by
  unfold State.spdmStep
  repeat' with_reducible first | assumption | apply inv_State_askStep | apply inv_State_failFlow | split | exact inv_take (by assumption) (by assumption)

theorem inv_execSpdmTimeout (x0 : State) (h0 : State.Inv x0) : Outcome.Keeps (execSpdmTimeout x0) := by
  unfold execSpdmTimeout
  repeat' with_reducible first | assumption | apply inv_State_failFlow | apply keeps_next | split

theorem inv_execFinishRsp (x0 : State) (h0 : State.Inv x0) : Outcome.Keeps (execFinishRsp x0) := by
  unfold execFinishRsp
  repeat' with_reducible first | assumption | apply inv_State_failFlow | apply inv_State_keyLinks | apply inv_State_modDie | apply inv_State_openDies | apply inv_sendKeys | apply inv_modPkg | apply keeps_next | split | exact inv_take (by assumption) (by assumption)

theorem inv_execLinkDown (x0 : State) (h0 : State.Inv x0) : Outcome.Keeps (execLinkDown x0) := by
  unfold execLinkDown
  repeat' with_reducible first | assumption | apply inv_State_failLink | apply keeps_next | split | exact inv_take (by assumption) (by assumption)

theorem inv_State_badFlit (x0 : State) (x1 : ℕ) (x2 : Bool) (x3 : ℕ) (h0 : State.Inv x0) : State.Inv (State.badFlit x0 x1 x2 x3) := by
  unfold State.badFlit
  dsimp only
  repeat' with_reducible first | assumption | apply inv_State_arrive | apply inv_State_failLink | apply inv_State_modDir | apply inv_modPkg | split

theorem inv_execGenerationLimit (x0 : State) (h0 : State.Inv x0) : Outcome.Keeps (execGenerationLimit x0) := by
  unfold execGenerationLimit
  repeat' with_reducible first | assumption | apply inv_State_failLink | apply keeps_next | split

theorem inv_State_endStep (x0 : State) (x1 : ℕ) (x2 : List ℕ) (x3 : Bool) (x4 : Bool) (x5 : List ℕ) (x6 : List RefEntry) (h0 : State.Inv x0) : State.Inv (State.endStep x0 x1 x2 x3 x4 x5 x6) := by
  unfold State.endStep
  try dsimp only
  all_goals repeat' first | with_reducible assumption | (with_reducible exact inv_take (by assumption) (by assumption)) | (with_reducible intro _ h; with_reducible exact h) | (with_reducible first | apply inv_State_toStep | apply inv_failTraining | apply inv_quarantineAll | apply inv_modPkg | apply inv_modCore | apply Memory.wf_memZero) | (with_reducible apply inv_ite) | (with_reducible exact wf_nil) | split | simp only [inv_mk_iff] | (simp only [inv_mk_iff2]; refine ⟨?_, ?_⟩) | (with_reducible apply wf_core) | (with_reducible apply wf_srv) | with_reducible rfl | dsimp only | (with_reducible intro _ _) | (with_reducible intro _)

theorem inv_execCapabilities (x0 : State) (h0 : State.Inv x0) : Outcome.Keeps (execCapabilities x0) := by
  unfold execCapabilities
  repeat' with_reducible first | assumption | apply inv_State_spdmStep | apply keeps_next

theorem inv_execVersion (x0 : State) (h0 : State.Inv x0) : Outcome.Keeps (execVersion x0) := by
  unfold execVersion
  repeat' with_reducible first | assumption | apply inv_State_spdmStep | apply keeps_next

theorem inv_execChallengeAuth (x0 : State) (h0 : State.Inv x0) : Outcome.Keeps (execChallengeAuth x0) := by
  unfold execChallengeAuth
  repeat' with_reducible first | assumption | apply inv_State_spdmStep | apply keeps_next

theorem inv_execMeasurements (x0 : State) (h0 : State.Inv x0) : Outcome.Keeps (execMeasurements x0) := by
  unfold execMeasurements
  repeat' with_reducible first | assumption | apply inv_State_spdmStep | apply keeps_next | split

theorem inv_execCertificate (x0 : State) (h0 : State.Inv x0) : Outcome.Keeps (execCertificate x0) := by
  unfold execCertificate
  repeat' with_reducible first | assumption | apply inv_State_spdmStep | apply keeps_next

theorem inv_execAlgorithms (x0 : State) (h0 : State.Inv x0) : Outcome.Keeps (execAlgorithms x0) := by
  unfold execAlgorithms
  repeat' with_reducible first | assumption | apply inv_State_spdmStep | apply keeps_next

theorem inv_execKeyExchangeRsp (x0 : State) (h0 : State.Inv x0) : Outcome.Keeps (execKeyExchangeRsp x0) := by
  unfold execKeyExchangeRsp
  repeat' with_reducible first | assumption | apply inv_State_spdmStep | apply keeps_next

theorem inv_execDigests (x0 : State) (h0 : State.Inv x0) : Outcome.Keeps (execDigests x0) := by
  unfold execDigests
  repeat' with_reducible first | assumption | apply inv_State_spdmStep | apply keeps_next

theorem inv_execFlitReceive (x0 : State) (h0 : State.Inv x0) : Outcome.Keeps (execFlitReceive x0) := by
  unfold execFlitReceive
  repeat' with_reducible first | assumption | apply inv_State_badFlit | apply inv_State_deliverFlit | apply keeps_next | split | exact inv_take (by assumption) (by assumption) | simp only [inv_mk_iff] | dsimp only

theorem inv_execStartTableStepEnd (x0 : State) (h0 : State.Inv x0) : Outcome.Keeps (execStartTableStepEnd x0) := by
  unfold execStartTableStepEnd
  repeat' with_reducible first | assumption | apply inv_State_endStep | apply keeps_next | split | exact inv_take (by assumption) (by assumption)

end Sys2Proof.Machine
end

