-- ==== Sys2Proof/Laws/KeepOps.lean ====
section
/-!
SUPPORT. Both memories keep their canonical form: what each instruction of a bundle keeps.
-/

set_option Elab.async false
set_option linter.unusedTactic false
set_option linter.unreachableTactic false

namespace Sys2Proof.Machine

open Sys2Proof

theorem keeps_opTile (x0 : Op) (x1 : TileForm) (h0 : x0.Keeps) : (opTile x0 x1).Keeps := by
  refine ⟨fun s h => ?_, fun s h => ?_, fun s h => ?_⟩ <;> (try dsimp only [opTile])
  all_goals repeat' first | with_reducible assumption | (with_reducible intro _ h; with_reducible exact h) | (with_reducible first | apply inv_Op_ask | apply inv_State_enqueue | apply inv_State_noteTags | apply inv_State_tagsLand | apply keep_eff h0 | apply keep_late h0 | apply keep_ask h0) | (with_reducible apply inv_ite) | split | simp only [inv_mk_iff] | dsimp only | (with_reducible intro _ _) | (with_reducible intro _)

theorem keeps_withLink (x0 : Op) (h0 : x0.Keeps) : (withLink x0).Keeps := by
  refine ⟨fun s h => ?_, fun s h => ?_, fun s h => ?_⟩ <;> (try dsimp only [withLink])
  all_goals repeat' first | with_reducible assumption | (with_reducible intro _ h; with_reducible exact h) | (with_reducible first | apply inv_Op_ask | apply inv_Op_late | apply inv_State_result | apply keep_eff h0 | apply keep_late h0 | apply keep_ask h0) | (with_reducible apply inv_ite) | split | simp only [inv_mk_iff] | dsimp only | (with_reducible intro _ _) | (with_reducible intro _)

theorem keeps_withAccess (x0 : Op) (x1 : ℕ → State → Access) (h0 : x0.Keeps) : (withAccess x0 x1).Keeps := by
  refine ⟨fun s h => ?_, fun s h => ?_, fun s h => ?_⟩ <;> (try dsimp only [withAccess])
  all_goals repeat' first | with_reducible assumption | (with_reducible intro _ h; with_reducible exact h) | (with_reducible first | apply inv_Op_ask | apply inv_Op_eff | apply inv_Op_late | apply keep_eff h0 | apply keep_late h0 | apply keep_ask h0) | (with_reducible apply inv_ite) | split | simp only [inv_mk_iff] | dsimp only | (with_reducible intro _ _) | (with_reducible intro _)

theorem keeps_Op.base (x0 : Slot) (x1 : Bool) (x2 : BitVec 5) : (Op.base x0 x1 x2).Keeps := ⟨fun _ h => h, fun _ h => h, fun _ h => h⟩

theorem keeps_withFe (x0 : CHdr) (x1 : BitVec 5) (x2 : BitVec 5) (x3 : ℤ) (x4 : Op) (x5 : Option Bool) (h4 : x4.Keeps) : (withFe x0 x1 x2 x3 x4 x5).Keeps := by
  refine ⟨fun s h => ?_, fun s h => ?_, fun s h => ?_⟩ <;> (try dsimp only [withFe])
  all_goals repeat' first | with_reducible assumption | (with_reducible intro _ h; with_reducible exact h) | (with_reducible first | apply inv_Op_ask | apply inv_Op_eff | apply inv_Op_late | apply keep_eff h4 | apply keep_late h4 | apply keep_ask h4) | (with_reducible apply inv_ite) | split | simp only [inv_mk_iff] | dsimp only | (with_reducible intro _ _) | (with_reducible intro _)

theorem keeps_opLoad (x0 : Op) (x1 : ℕ → State → Access) (x2 : List Byte → State → State) (h0 : x0.Keeps) (h2 : ∀ b s, State.Inv s → (x2 b s).Inv) : (opLoad x0 x1 x2).Keeps := by
  refine ⟨fun s h => ?_, fun s h => ?_, fun s h => ?_⟩ <;> (try dsimp only [opLoad, withAccess])
  all_goals repeat' first | with_reducible assumption | (with_reducible intro _ h; with_reducible exact h) | (with_reducible first | apply inv_Op_ask | apply inv_Op_eff | apply inv_Op_late | apply keep_eff h0 | apply keep_late h0 | apply keep_ask h0 | apply h2) | (with_reducible apply inv_ite) | split | simp only [inv_mk_iff] | dsimp only | (with_reducible intro _ _) | (with_reducible intro _)

theorem keeps_opStore (x0 : Op) (x1 : ℕ → State → Access) (x2 : State → List Byte) (h0 : x0.Keeps) : (opStore x0 x1 x2).Keeps := by
  refine ⟨fun s h => ?_, fun s h => ?_, fun s h => ?_⟩ <;> (try dsimp only [opStore, withAccess])
  all_goals repeat' first | with_reducible assumption | (with_reducible intro _ h; with_reducible exact h) | (with_reducible first | apply inv_Op_ask | apply inv_Op_eff | apply inv_Op_late | apply inv_State_writeBytes | apply keep_eff h0 | apply keep_late h0 | apply keep_ask h0) | (with_reducible apply inv_ite) | split | simp only [inv_mk_iff] | dsimp only | (with_reducible intro _ _) | (with_reducible intro _)

theorem keeps_opV (x0 : AHdr) : (opV x0).Keeps := ⟨fun _ h => h, fun _ h => h, fun _ h => h⟩

theorem keeps_opM (x0 : CHdr) : (opM x0).Keeps := ⟨fun _ h => h, fun _ h => h, fun _ h => h⟩

theorem keeps_opK (x0 : CHdr) : (opK x0).Keeps := ⟨fun _ h => h, fun _ h => h, fun _ h => h⟩

theorem keeps_opCtrl (x0 : ℕ) (x1 : State → ℕ) : (opCtrl x0 x1).Keeps := ⟨fun s h => by
  dsimp only [opCtrl, Op.base]
  repeat' with_reducible first | assumption | apply inv_Op_ask | apply inv_Op_late | apply inv_State_writeLocal, fun _ h => h, fun _ h => h⟩

theorem keeps_opA (x0 : AHdr) : (opA x0).Keeps := ⟨fun _ h => h, fun _ h => h, fun _ h => h⟩

theorem keeps_opN (x0 : CHdr) : (opN x0).Keeps := ⟨fun _ h => h, fun _ h => h, fun _ h => h⟩

theorem keeps_opVec (x0 : AHdr) (x1 : Instr) (x2 : List (BitVec 4)) (x3 : List ℕ) (x4 : List (BitVec 3)) (x5 : State → VecChecks) (x6 : State → List TagWrite) : (opVec x0 x1 x2 x3 x4 x5 x6).Keeps := ⟨fun _ h => h, fun s h => by
  dsimp only [opVec, Op.base, opTile, opV]
  repeat' with_reducible first | assumption | apply inv_Op_ask | apply inv_State_enqueue | apply inv_State_noteTags | apply inv_State_tagsLand, fun _ h => h⟩

theorem keeps_opXat (x0 : CHdr) (x1 : BitVec 5) (x2 : BitVec 5) (x3 : BitVec 5) (x4 : Bool) (x5 : Bool) (x6 : BitVec 2) (x7 : BitVec 4) : (opXat x0 x1 x2 x3 x4 x5 x6 x7).Keeps := ⟨fun s h => by
  dsimp only [opXat, Op.base, opM]
  repeat' with_reducible first | assumption | apply inv_Op_ask | apply inv_Op_late | apply inv_State_sendAtomic, fun _ h => h, fun _ h => h⟩

theorem keeps_opAccrd (x0 : CHdr) (x1 : BitVec 4) (x2 : BitVec 3) (x3 : Bool) (x4 : BitVec 3) : (opAccrd x0 x1 x2 x3 x4).Keeps := ⟨fun _ h => h, fun s h => by
  dsimp only [opAccrd, Op.base, opM, opTile]
  repeat' with_reducible first | assumption | apply inv_Op_ask | apply inv_State_enqueue | apply inv_State_noteTags | apply inv_State_tagsLand, fun _ h => h⟩

theorem keeps_opLat (x0 : CHdr) (x1 : BitVec 5) (x2 : BitVec 5) (x3 : BitVec 5) (x4 : Bool) (x5 : BitVec 2) (x6 : BitVec 4) : (opLat x0 x1 x2 x3 x4 x5 x6).Keeps := ⟨fun s h => by
  dsimp only [opLat, Op.base, opM, withAccess]
  repeat' with_reducible first | assumption | apply inv_Op_ask | apply inv_Op_eff | apply inv_Op_late | apply inv_State_result | apply inv_State_writeLocal, fun _ h => h, fun _ h => h⟩

theorem keeps_opMove (x0 : CHdr) (x1 : Instr) (x2 : TileMove) : (opMove x0 x1 x2).Keeps := by
  refine ⟨fun s h => ?_, fun s h => ?_, fun s h => ?_⟩ <;> (try dsimp only [opMove, Op.base, opM, opTile])
  all_goals repeat' first | with_reducible assumption | (with_reducible intro _ h; with_reducible exact h) | (with_reducible first | apply inv_Op_ask | apply inv_Op_late | apply inv_State_enqueue | apply inv_State_guardArea | apply inv_State_noteTags | apply inv_State_tagsLand | apply inv_State_takeTid) | (with_reducible apply inv_ite) | split | simp only [inv_mk_iff] | dsimp only | (with_reducible intro _ _) | (with_reducible intro _)

theorem keeps_opCpy (x0 : CHdr) (x1 : BitVec 5) (x2 : BitVec 5) (x3 : BitVec 5) (x4 : Bool) (x5 : Bool) (x6 : BitVec 3) (x7 : Bool) (x8 : BitVec 3) : (opCpy x0 x1 x2 x3 x4 x5 x6 x7 x8).Keeps := ⟨fun s h => by
  dsimp only [opCpy, Op.base, opM]
  repeat' with_reducible first | assumption | apply inv_Op_ask | apply inv_Op_late | apply inv_State_enterReq | apply inv_State_enterWrites | apply inv_State_guardArea | apply inv_State_sendCopy | apply inv_State_takeTid | split | dsimp only, fun _ h => h, fun _ h => h⟩

theorem keeps_opStFe (x0 : CHdr) (x1 : BitVec 5) (x2 : BitVec 5) (x3 : ℤ) (x4 : Bool) : (opStFe x0 x1 x2 x3 x4).Keeps := ⟨fun s h => by
  dsimp only [opStFe, Op.base, opM, opStore, withAccess, withFe]
  repeat' with_reducible first | assumption | apply inv_Op_ask | apply inv_Op_eff | apply inv_Op_late | apply inv_State_setFull | apply inv_State_writeBytes, fun _ h => h, fun _ h => h⟩

theorem keeps_opXst (x0 : CHdr) (x1 : BitVec 5) (x2 : BitVec 5) (x3 : BitVec 5) (x4 : Bool) (x5 : BitVec 3) (x6 : BitVec 9) : (opXst x0 x1 x2 x3 x4 x5 x6).Keeps := ⟨fun s h => by
  dsimp only [opXst, Op.base, opM, withAccess]
  repeat' with_reducible first | assumption | apply inv_Op_ask | apply inv_Op_eff | apply inv_Op_late | apply inv_State_enterReq | apply inv_State_guardArea | apply inv_State_takeTid | apply inv_post, fun _ h => h, fun _ h => h⟩

theorem keeps_opStAt (x0 : CHdr) (x1 : BitVec 5) (x2 : BitVec 5) (x3 : BitVec 2) (x4 : ℤ) : (opStAt x0 x1 x2 x3 x4).Keeps := ⟨fun s h => by
  dsimp only [opStAt, Op.base, opM, opStore, withAccess]
  repeat' with_reducible first | assumption | apply inv_Op_ask | apply inv_Op_eff | apply inv_Op_late | apply inv_State_writeBytes, fun _ h => h, fun _ h => h⟩

theorem keeps_opLdpAt (x0 : CHdr) (x1 : BitVec 5) (x2 : BitVec 5) (x3 : ℤ) : (opLdpAt x0 x1 x2 x3).Keeps := ⟨fun _ h => h, fun _ h => h, fun _ h => h⟩

theorem keeps_opXatr (x0 : CHdr) (x1 : BitVec 5) (x2 : BitVec 5) (x3 : BitVec 5) (x4 : Bool) (x5 : Bool) (x6 : BitVec 2) (x7 : BitVec 4) : (opXatr x0 x1 x2 x3 x4 x5 x6 x7).Keeps := ⟨fun s h => by
  dsimp only [opXatr, Op.base, opM]
  repeat' with_reducible first | assumption | apply inv_Op_ask | apply inv_Op_late | apply inv_State_sendAtomic | apply inv_modC, fun _ h => h, fun _ h => h⟩

theorem keeps_opNdld (x0 : CHdr) (x1 : BitVec 5) (x2 : BitVec 3) : (opNdld x0 x1 x2).Keeps := ⟨fun _ h => h, fun _ h => h, fun _ h => h⟩

theorem keeps_opCpyd (x0 : CHdr) (x1 : BitVec 5) (x2 : BitVec 5) (x3 : BitVec 5) (x4 : Bool) (x5 : BitVec 11) (x6 : BitVec 4) (x7 : Bool) (x8 : BitVec 2) (x9 : BitVec 3) (x10 : Bool) (x11 : BitVec 3) : (opCpyd x0 x1 x2 x3 x4 x5 x6 x7 x8 x9 x10 x11).Keeps := ⟨fun s h => by
  dsimp only [opCpyd, Op.base, opM]
  repeat' with_reducible first | assumption | apply inv_Op_ask | apply inv_Op_late | apply inv_State_enterReq | apply inv_State_sendDeal | apply inv_State_takeTid, fun _ h => h, fun _ h => h⟩

theorem keeps_opXld (x0 : CHdr) (x1 : BitVec 5) (x2 : BitVec 5) (x3 : BitVec 5) (x4 : Bool) (x5 : BitVec 3) (x6 : BitVec 9) : (opXld x0 x1 x2 x3 x4 x5 x6).Keeps := ⟨fun s h => by
  dsimp only [opXld, Op.base, opM, withAccess]
  repeat' with_reducible first | assumption | apply inv_Op_ask | apply inv_Op_eff | apply inv_Op_late | apply inv_State_enterReq | apply inv_State_guardArea | apply inv_State_sendPieces | apply inv_State_takeTid | apply inv_post | split | dsimp only, fun _ h => h, fun _ h => h⟩

theorem keeps_opFence (x0 : CHdr) (x1 : State → Bool) : (opFence x0 x1).Keeps := ⟨fun _ h => h, fun _ h => h, fun _ h => h⟩

theorem keeps_opLdAt (x0 : CHdr) (x1 : BitVec 5) (x2 : BitVec 5) (x3 : BitVec 2) (x4 : Bool) (x5 : ℤ) : (opLdAt x0 x1 x2 x3 x4 x5).Keeps := ⟨fun _ h => h, fun _ h => h, fun _ h => h⟩

theorem keeps_opStpAt (x0 : CHdr) (x1 : BitVec 5) (x2 : BitVec 5) (x3 : ℤ) : (opStpAt x0 x1 x2 x3).Keeps := ⟨fun s h => by
  dsimp only [opStpAt, Op.base, opM, opStore, withAccess]
  repeat' with_reducible first | assumption | apply inv_Op_ask | apply inv_Op_eff | apply inv_Op_late | apply inv_State_writeBytes, fun _ h => h, fun _ h => h⟩

theorem keeps_opAccStore (x0 : CHdr) (x1 : Instr) (x2 : BitVec 3) (x3 : BitVec 4) : (opAccStore x0 x1 x2 x3).Keeps := ⟨fun _ h => h, fun s h => by
  dsimp only [opAccStore, Op.base, opM, opTile]
  repeat' with_reducible first | assumption | apply inv_Op_ask | apply inv_State_enqueue | apply inv_State_noteTags | apply inv_State_tagsLand, fun _ h => h⟩

theorem keeps_opLdFe (x0 : CHdr) (x1 : BitVec 5) (x2 : BitVec 5) (x3 : ℤ) (x4 : Bool) : (opLdFe x0 x1 x2 x3 x4).Keeps := ⟨fun s h => by
  dsimp only [opLdFe, Op.base, opLoad, opM, withAccess, withFe]
  repeat' with_reducible first | assumption | apply inv_Op_ask | apply inv_Op_eff | apply inv_Op_late | apply inv_State_result | apply inv_State_setFull | split | dsimp only, fun _ h => h, fun _ h => h⟩

theorem keeps_opWaitmb (x0 : CHdr) (x1 : BitVec 4) : (opWaitmb x0 x1).Keeps := ⟨fun _ h => h, fun _ h => h, fun _ h => h⟩

theorem keeps_opJump (x0 : CHdr) (x1 : State → Word) (x2 : State → Pair) : (opJump x0 x1 x2).Keeps := ⟨fun _ h => h, fun _ h => h, fun _ h => h⟩

theorem keeps_opJtab (x0 : CHdr) (x1 : BitVec 5) (x2 : BitVec 5) (x3 : BitVec 16) : (opJtab x0 x1 x2 x3).Keeps := ⟨fun _ h => h, fun _ h => h, fun _ h => h⟩

theorem keeps_opPeerclr (x0 : CHdr) (x1 : BitVec 5) : (opPeerclr x0 x1).Keeps := ⟨fun _ h => h, fun _ h => h, fun _ h => h⟩

theorem keeps_opExchend (x0 : CHdr) : (opExchend x0).Keeps := ⟨fun _ h => h, fun s h => by
  dsimp only [opExchend, Op.base, opK]
  repeat' with_reducible first | assumption | apply inv_Op_ask | apply inv_Op_eff | apply inv_State_closePhase, fun _ h => h⟩

theorem keeps_opWaitch (x0 : CHdr) (x1 : BitVec 5) (x2 : BitVec 3) : (opWaitch x0 x1 x2).Keeps := ⟨fun _ h => h, fun _ h => h, fun _ h => h⟩

theorem keeps_opYield (x0 : CHdr) : (opYield x0).Keeps := ⟨fun s h => by
  dsimp only [opYield, Op.base, opK]
  repeat' with_reducible first | assumption | apply inv_Op_ask | apply inv_Op_late | apply inv_modC | apply inv_post | split | dsimp only, fun _ h => h, fun _ h => h⟩

theorem keeps_opSpillFill (x0 : CHdr) (x1 : BitVec 5) (x2 : BitVec 3) (x3 : Bool) : (opSpillFill x0 x1 x2 x3).Keeps := ⟨fun _ h => h, fun _ h => h, fun _ h => h⟩

theorem keeps_opCsrr (x0 : CHdr) (x1 : BitVec 5) (x2 : BitVec 12) : (opCsrr x0 x1 x2).Keeps := ⟨fun _ h => h, fun _ h => h, fun _ h => h⟩

theorem keeps_opCsrWrite (x0 : CHdr) (x1 : BitVec 2) (x2 : BitVec 5) (x3 : ℕ) : (opCsrWrite x0 x1 x2 x3).Keeps := ⟨fun _ h => h, fun s h => by
  dsimp only [opCsrWrite, Op.base, opK]
  repeat' with_reducible first | assumption | apply inv_Op_ask | apply inv_Op_eff | apply inv_State_csrPut | apply inv_modR | split | dsimp only, fun _ h => h⟩

theorem keeps_opBkpt (x0 : CHdr) : (opBkpt x0).Keeps := ⟨fun _ h => h, fun _ h => h, fun _ h => h⟩

theorem keeps_opBellAt (x0 : CHdr) (x1 : BitVec 4) (x2 : Bool) (x3 : Bool) (x4 : Bool) : (opBellAt x0 x1 x2 x3 x4).Keeps := ⟨fun s h => by
  dsimp only [opBellAt, Op.base, opK]
  repeat' with_reducible first | assumption | apply inv_Op_ask | apply inv_Op_late | apply inv_State_arriveBell, fun _ h => h, fun _ h => h⟩

theorem keeps_opTrap (x0 : CHdr) (x1 : BitVec 5) (x2 : BitVec 7) : (opTrap x0 x1 x2).Keeps := ⟨fun _ h => h, fun _ h => h, fun _ h => h⟩

theorem keeps_opHalt (x0 : CHdr) : (opHalt x0).Keeps := ⟨fun _ h => h, fun s h => by
  dsimp only [opHalt, Op.base, opK]
  repeat' with_reducible first | assumption | apply inv_Op_ask | apply inv_Op_eff | apply inv_State_disband | apply inv_State_endRes, fun _ h => h⟩

theorem keeps_opRound (x0 : CHdr) : (opRound x0).Keeps := ⟨fun _ h => h, fun s h => by
  dsimp only [opRound, Op.base, opK]
  repeat' with_reducible first | assumption | apply inv_Op_ask | apply inv_Op_eff | apply inv_State_flush | apply inv_State_roundEdge | apply inv_sendMarkers | apply inv_modR | apply inv_modC | split | dsimp only, fun _ h => h⟩

theorem keeps_opExch (x0 : CHdr) : (opExch x0).Keeps := ⟨fun _ h => h, fun _ h => h, fun _ h => h⟩

theorem keeps_opLoopx (x0 : CHdr) (x1 : BitVec 16) : (opLoopx x0 x1).Keeps := ⟨fun _ h => h, fun _ h => h, fun _ h => h⟩

theorem keeps_opSysret (x0 : CHdr) : (opSysret x0).Keeps := ⟨fun _ h => h, fun s h => by
  dsimp only [opSysret, Op.base, opK]
  repeat' with_reducible first | assumption | apply inv_Op_ask | apply inv_Op_eff | apply inv_State_kick | apply inv_State_letGo | apply inv_State_unpark | apply inv_State_wake | apply inv_modC, fun _ h => h⟩

theorem keeps_opLimmHi (x0 : CHdr) (x1 : BitVec 5) (x2 : BitVec 32) : (opLimmHi x0 x1 x2).Keeps := ⟨fun _ h => h, fun _ h => h, fun _ h => h⟩

theorem keeps_opWait (x0 : CHdr) (x1 : State → Word) (x2 : WaitKind) : (opWait x0 x1 x2).Keeps := ⟨fun _ h => h, fun _ h => h, fun _ h => h⟩

theorem keeps_opRecord (x0 : CHdr) (x1 : BitVec 5) (x2 : BitVec 4) (x3 : Bool) : (opRecord x0 x1 x2 x3).Keeps := ⟨fun _ h => h, fun _ h => h, fun _ h => h⟩

theorem keeps_opCouple (x0 : CHdr) (x1 : BitVec 4) : (opCouple x0 x1).Keeps := by
  refine ⟨fun s h => ?_, fun s h => ?_, fun s h => ?_⟩ <;> (try dsimp only [opCouple, Op.base, opK])
  all_goals repeat' first | with_reducible assumption | (with_reducible intro _ h; with_reducible exact h) | (with_reducible first | apply inv_Op_late | apply inv_State_emit | apply inv_modR | apply inv_modC | apply inv_modCore) | (with_reducible apply inv_ite) | split | simp only [inv_mk_iff] | dsimp only | (with_reducible intro _ _) | (with_reducible intro _)

theorem keeps_opLoop (x0 : CHdr) (x1 : BitVec 3) (x2 : BitVec 5) : (opLoop x0 x1 x2).Keeps := ⟨fun _ h => h, fun _ h => h, fun _ h => h⟩

theorem keeps_opStart (x0 : CHdr) (x1 : BitVec 5) (x2 : BitVec 4) : (opStart x0 x1 x2).Keeps := ⟨fun _ h => h, fun _ h => h, fun _ h => h⟩

theorem keeps_opNop (x0 : CHdr) : (opNop x0).Keeps := ⟨fun _ h => h, fun _ h => h, fun _ h => h⟩

theorem keeps_opLimm (x0 : CHdr) (x1 : BitVec 5) (x2 : Bool) (x3 : BitVec 32) : (opLimm x0 x1 x2 x3).Keeps := ⟨fun _ h => h, fun _ h => h, fun _ h => h⟩

theorem keeps_opHend (x0 : CHdr) : (opHend x0).Keeps := ⟨fun _ h => h, fun _ h => h, fun _ h => h⟩

theorem keeps_opUncouple (x0 : CHdr) : (opUncouple x0).Keeps := ⟨fun s h => by
  dsimp only [opUncouple, Op.base, opK]
  repeat' with_reducible first | assumption | apply inv_Op_ask | apply inv_Op_late | apply inv_State_disband, fun _ h => h, fun _ h => h⟩

theorem keeps_opErrq (x0 : CHdr) (x1 : BitVec 5) (x2 : BitVec 5) : (opErrq x0 x1 x2).Keeps := ⟨fun s h => by
  dsimp only [opErrq, Op.base, opK]
  repeat' with_reducible first | assumption | apply inv_Op_ask | apply inv_Op_late | apply inv_State_result | apply inv_State_writeBytes | apply inv_modR | split | dsimp only, fun _ h => h, fun _ h => h⟩

theorem keeps_opReleaseTile (x0 : ResNo) : (opReleaseTile x0).Keeps := keeps_opCtrl _ _

theorem keeps_opDptimeoutWrite (x0 : Word) : (opDptimeoutWrite x0).Keeps := keeps_opCtrl _ _

theorem keeps_opPendingResultWrite (x0 : CtxNo) (x1 : Bool) (x2 : BitVec 5) (x3 : Word) : (opPendingResultWrite x0 x1 x2 x3).Keeps := keeps_opCtrl _ _

theorem keeps_opReleaseAcc (x0 : ResNo) : (opReleaseAcc x0).Keeps := keeps_opCtrl _ _

theorem keeps_opRounded (x0 : AHdr) (x1 : BitVec 5) (x2 : BitVec 3) (x3 : Bool) (x4 : BitVec 32 → Ctx → Word) : (opRounded x0 x1 x2 x3 x4).Keeps := ⟨fun _ h => h, fun _ h => h, fun _ h => h⟩

theorem keeps_opPmovPut (x0 : AHdr) (x1 : BitVec 5) : (opPmovPut x0 x1).Keeps := ⟨fun _ h => h, fun _ h => h, fun _ h => h⟩

theorem keeps_opAlu (x0 : AHdr) (x1 : BitVec 5) (x2 : ℕ) (x3 : Ctx → Word) : (opAlu x0 x1 x2 x3).Keeps := ⟨fun _ h => h, fun _ h => h, fun _ h => h⟩

theorem keeps_opDist (x0 : AHdr) (x1 : BitVec 5) (x2 : BitVec 5) (x3 : BitVec 5) (x4 : Bool) (x5 : BitVec 2) (x6 : ℕ × ℕ → Word → Word) : (opDist x0 x1 x2 x3 x4 x5 x6).Keeps := ⟨fun _ h => h, fun _ h => h, fun _ h => h⟩

theorem keeps_opPred (x0 : AHdr) (x1 : BitVec 4) (x2 : ℕ) (x3 : Ctx → Bool) : (opPred x0 x1 x2 x3).Keeps := ⟨fun _ h => h, fun _ h => h, fun _ h => h⟩

theorem keeps_opSft (x0 : CHdr) (x1 : BitVec 4) (x2 : BitVec 4) (x3 : BitVec 3) (x4 : BitVec 4) : (opSft x0 x1 x2 x3 x4).Keeps := ⟨fun _ h => h, fun s h => by
  dsimp only [opSft, Op.base, opN, opTile]
  repeat' with_reducible first | assumption | apply inv_Op_ask | apply inv_State_enqueue | apply inv_State_noteTags | apply inv_State_tagsLand, fun _ h => h⟩

theorem keeps_opMmaX (x0 : CHdr) (x1 : BitVec 3) (x2 : BitVec 4) (x3 : BitVec 4) (x4 : BitVec 3) : (opMmaX x0 x1 x2 x3 x4).Keeps := ⟨fun _ h => h, fun s h => by
  dsimp only [opMmaX, Op.base, opN, opTile]
  repeat' with_reducible first | assumption | apply inv_Op_ask | apply inv_State_enqueue | apply inv_State_noteTags | apply inv_State_tagsLand, fun _ h => h⟩

theorem keeps_opAccxSend (x0 : CHdr) (x1 : BitVec 5) (x2 : BitVec 3) (x3 : BitVec 32) : (opAccxSend x0 x1 x2 x3).Keeps := by
  refine ⟨fun s h => ?_, fun s h => ?_, fun s h => ?_⟩ <;> (try dsimp only [opAccxSend, Op.base, opN, opTile])
  all_goals repeat' first | with_reducible assumption | (with_reducible intro _ h; with_reducible exact h) | (with_reducible first | apply inv_Op_ask | apply inv_Op_late | apply inv_State_enqueue | apply inv_State_enterSend | apply inv_State_noteTags | apply inv_State_tagsLand) | (with_reducible apply inv_ite) | split | simp only [inv_mk_iff] | dsimp only | (with_reducible intro _ _) | (with_reducible intro _)

theorem keeps_opRecv (x0 : CHdr) (x1 : BitVec 5) (x2 : BitVec 5) (x3 : BitVec 5) (x4 : Bool) (x5 : BitVec 32) : (opRecv x0 x1 x2 x3 x4 x5).Keeps := ⟨fun s h => by
  dsimp only [opRecv, Op.base, opN]
  repeat' with_reducible first | assumption | apply inv_Op_ask | apply inv_Op_late | apply inv_State_postRecv | apply inv_State_setFull, fun _ h => h, fun _ h => h⟩

theorem keeps_opExchMove (x0 : CHdr) (x1 : BitVec 5) (x2 : BitVec 4) (x3 : BitVec 8) (x4 : BitVec 20) (x5 : Bool) : (opExchMove x0 x1 x2 x3 x4 x5).Keeps := by
  refine ⟨fun s h => ?_, fun s h => ?_, fun s h => ?_⟩ <;> (try dsimp only [opExchMove, Op.base, opN])
  all_goals repeat' first | with_reducible assumption | (with_reducible intro _ h; with_reducible exact h) | (with_reducible first | apply inv_Op_ask | apply inv_Op_late | apply inv_State_guardArea | apply inv_modCore) | (with_reducible apply inv_ite) | split | simp only [inv_mk_iff] | dsimp only | (with_reducible intro _ _) | (with_reducible intro _)

theorem keeps_opEvrun (x0 : CHdr) (x1 : BitVec 5) (x2 : BitVec 3) : (opEvrun x0 x1 x2).Keeps := ⟨fun _ h => h, fun s h => by
  dsimp only [opEvrun, Op.base, opN]
  repeat' with_reducible first | assumption | apply inv_Op_ask | apply inv_State_kick | apply inv_modR, fun _ h => h⟩

theorem keeps_opSendp (x0 : CHdr) (x1 : BitVec 5) (x2 : BitVec 5) (x3 : BitVec 5) (x4 : Bool) (x5 : Bool) (x6 : BitVec 31) : (opSendp x0 x1 x2 x3 x4 x5 x6).Keeps := by
  refine ⟨fun s h => ?_, fun s h => ?_, fun s h => ?_⟩ <;> (try dsimp only [opSendp, Op.base, opN])
  all_goals repeat' first | with_reducible assumption | (with_reducible intro _ h; with_reducible exact h) | (with_reducible first | apply inv_Op_ask | apply inv_Op_late | apply inv_State_closePacket | apply inv_modR | apply inv_modC | apply inv_modCore) | (with_reducible apply inv_ite) | split | simp only [inv_mk_iff] | dsimp only | (with_reducible intro _ _) | (with_reducible intro _)

theorem keeps_opAccxClose (x0 : CHdr) (x1 : BitVec 3) (x2 : BitVec 3) : (opAccxClose x0 x1 x2).Keeps := ⟨fun _ h => h, fun s h => by
  dsimp only [opAccxClose, Op.base, opN, opTile]
  repeat' with_reducible first | assumption | apply inv_Op_ask | apply inv_Op_late | apply inv_State_enqueue | apply inv_State_noteTags | apply inv_State_tagsLand | apply inv_modR, fun _ h => h⟩

theorem keeps_opProbe (x0 : CHdr) (x1 : BitVec 5) (x2 : BitVec 5) (x3 : BitVec 5) (x4 : Bool) (x5 : BitVec 32) : (opProbe x0 x1 x2 x3 x4 x5).Keeps := ⟨fun s h => by
  dsimp only [opProbe, Op.base, opN]
  repeat' with_reducible first | assumption | apply inv_Op_ask | apply inv_Op_late | apply inv_State_setFull | apply inv_State_writeRecord | split | dsimp only, fun _ h => h, fun _ h => h⟩

theorem keeps_opAccxOpen (x0 : CHdr) (x1 : BitVec 5) (x2 : BitVec 3) (x3 : BitVec 32) : (opAccxOpen x0 x1 x2 x3).Keeps := ⟨fun _ h => h, fun s h => by
  dsimp only [opAccxOpen, Op.base, opN, opTile]
  repeat' with_reducible first | assumption | apply inv_Op_ask | apply inv_Op_late | apply inv_State_enqueue | apply inv_State_noteTags | apply inv_State_tagsLand | apply inv_modR, fun _ h => h⟩

theorem keeps_opMcast (x0 : CHdr) (x1 : BitVec 5) (x2 : BitVec 5) (x3 : BitVec 5) (x4 : Bool) (x5 : BitVec 4) (x6 : BitVec 28) : (opMcast x0 x1 x2 x3 x4 x5 x6).Keeps := ⟨fun s h => by
  dsimp only [opMcast, Op.base, opN]
  repeat' with_reducible first | assumption | apply inv_Op_ask | apply inv_Op_late | apply inv_State_multicast, fun _ h => h, fun _ h => h⟩

theorem keeps_opRing (x0 : CHdr) (x1 : Instr) (x2 : BitVec 4) (x3 : BitVec 4) : (opRing x0 x1 x2 x3).Keeps := ⟨fun _ h => h, fun s h => by
  dsimp only [opRing, Op.base, opN, opTile]
  repeat' with_reducible first | assumption | apply inv_Op_ask | apply inv_State_enqueue | apply inv_State_noteTags | apply inv_State_tagsLand, fun _ h => h⟩

theorem keeps_opExpect (x0 : CHdr) (x1 : BitVec 5) (x2 : BitVec 4) : (opExpect x0 x1 x2).Keeps := ⟨fun _ h => h, fun _ h => h, fun _ h => h⟩

theorem keeps_opMbadd (x0 : CHdr) (x1 : BitVec 5) (x2 : BitVec 4) : (opMbadd x0 x1 x2).Keeps := ⟨fun _ h => h, fun _ h => h, fun _ h => h⟩

theorem keeps_opCancel (x0 : CHdr) (x1 : BitVec 5) (x2 : BitVec 5) : (opCancel x0 x1 x2).Keeps := ⟨fun s h => by
  dsimp only [opCancel, Op.base, opN]
  repeat' with_reducible first | assumption | apply inv_Op_ask | apply inv_Op_late | apply inv_State_result | apply inv_State_writeRecord | apply inv_modR | split | dsimp only, fun _ h => h, fun _ h => h⟩

theorem keeps_opSend (x0 : CHdr) (x1 : BitVec 5) (x2 : BitVec 5) (x3 : BitVec 5) (x4 : Bool) (x5 : BitVec 32) : (opSend x0 x1 x2 x3 x4 x5).Keeps := ⟨fun s h => by
  dsimp only [opSend, Op.base, opN]
  repeat' with_reducible first | assumption | apply inv_Op_ask | apply inv_Op_late | apply inv_State_sendTo, fun _ h => h, fun _ h => h⟩

theorem keeps_opEvsend (x0 : CHdr) (x1 : BitVec 5) (x2 : BitVec 5) (x3 : BitVec 5) (x4 : Bool) (x5 : BitVec 3) (x6 : BitVec 8) (x7 : BitVec 8) : (opEvsend x0 x1 x2 x3 x4 x5 x6 x7).Keeps := by
  refine ⟨fun s h => ?_, fun s h => ?_, fun s h => ?_⟩ <;> (try dsimp only [opEvsend, Op.base, opN])
  all_goals repeat' first | with_reducible assumption | (with_reducible intro _ h; with_reducible exact h) | (with_reducible first | apply inv_Op_ask | apply inv_State_kick | apply inv_State_sendEvent) | (with_reducible apply inv_ite) | split | simp only [inv_mk_iff] | dsimp only | (with_reducible intro _ _) | (with_reducible intro _)

theorem keeps_opField (x0 : CHdr) (x1 : BitVec 5) (x2 : BitVec 3) (x3 : BitVec 3) : (opField x0 x1 x2 x3).Keeps := ⟨fun _ h => h, fun s h => by
  dsimp only [opField, Op.base, opN]
  repeat' with_reducible first | assumption | apply inv_Op_ask | apply inv_State_kick | apply inv_modR, fun _ h => h⟩

theorem keeps_opFree (x0 : CHdr) (x1 : BitVec 5) (x2 : BitVec 5) : (opFree x0 x1 x2).Keeps := ⟨fun s h => by
  dsimp only [opFree, Op.base, opN]
  repeat' with_reducible first | assumption | apply inv_Op_ask | apply inv_Op_late | apply inv_State_emit | apply inv_modR | split | dsimp only, fun _ h => h, fun _ h => h⟩

theorem keeps_opEvRead (x0 : CHdr) (x1 : BitVec 5) (x2 : BitVec 3) (x3 : State → Word) : (opEvRead x0 x1 x2 x3).Keeps := ⟨fun _ h => h, fun _ h => h, fun _ h => h⟩

theorem keeps_opSfs (x0 : CHdr) (x1 : BitVec 5) (x2 : BitVec 5) (x3 : BitVec 3) (x4 : BitVec 4) : (opSfs x0 x1 x2 x3 x4).Keeps := ⟨fun s h => by
  dsimp only [opSfs, Op.base, opN]
  repeat' with_reducible first | assumption | apply inv_Op_ask | apply inv_Op_late | apply inv_State_setFifo | apply inv_State_sfuKick | apply inv_modR | apply inv_modC | split | dsimp only, fun _ h => h, fun _ h => h⟩

theorem keeps_opAccz (x0 : CHdr) (x1 : BitVec 3) : (opAccz x0 x1).Keeps := ⟨fun s h => by
  dsimp only [opAccz, Op.base, opN]
  repeat' with_reducible first | assumption | apply inv_Op_ask | apply inv_Op_late | apply inv_zeroRows | apply inv_modR | apply inv_modCore, fun _ h => h, fun _ h => h⟩

theorem keeps_opEvctlUnbind (x0 : CHdr) (x1 : BitVec 3) : (opEvctlUnbind x0 x1).Keeps := ⟨fun _ h => h, fun _ h => h, fun _ h => h⟩

theorem keeps_opHset (x0 : CHdr) (x1 : BitVec 5) (x2 : BitVec 4) (x3 : BitVec 8) (x4 : BitVec 13) : (opHset x0 x1 x2 x3 x4).Keeps := ⟨fun _ h => h, fun s h => by
  dsimp only [opHset, Op.base, opN]
  repeat' with_reducible first | assumption | apply inv_Op_ask | apply inv_Op_eff | apply inv_State_wake | apply inv_modR, fun _ h => h⟩

theorem keeps_opHwait (x0 : CHdr) (x1 : BitVec 4) (x2 : BitVec 4) (x3 : Bool) : (opHwait x0 x1 x2 x3).Keeps := ⟨fun _ h => h, fun _ h => h, fun _ h => h⟩

theorem keeps_opSendx (x0 : CHdr) (x1 : BitVec 5) (x2 : BitVec 5) (x3 : BitVec 5) (x4 : Bool) (x5 : BitVec 32) : (opSendx x0 x1 x2 x3 x4 x5).Keeps := ⟨fun s h => by
  dsimp only [opSendx, Op.base, opN]
  repeat' with_reducible first | assumption | apply inv_Op_ask | apply inv_Op_late | apply inv_State_charge | apply inv_State_expertUsed | apply inv_State_sendTo, fun _ h => h, fun _ h => h⟩

theorem keeps_opHadv (x0 : CHdr) (x1 : BitVec 4) (x2 : BitVec 4) (x3 : Bool) : (opHadv x0 x1 x2 x3).Keeps := ⟨fun _ h => h, fun s h => by
  dsimp only [opHadv, Op.base, opN]
  repeat' with_reducible first | assumption | apply inv_Op_ask | apply inv_Op_eff | apply inv_State_wake | apply inv_modR, fun _ h => h⟩

theorem keeps_opMma (x0 : CHdr) (x1 : BitVec 3) (x2 : BitVec 4) (x3 : BitVec 4) (x4 : BitVec 3) : (opMma x0 x1 x2 x3 x4).Keeps := ⟨fun _ h => h, fun s h => by
  dsimp only [opMma, Op.base, opN, opTile]
  repeat' with_reducible first | assumption | apply inv_Op_ask | apply inv_State_enqueue | apply inv_State_noteTags | apply inv_State_tagsLand, fun _ h => h⟩

theorem keeps_opMmar (x0 : CHdr) (x1 : BitVec 5) (x2 : BitVec 5) (x3 : BitVec 5) (x4 : Bool) (x5 : BitVec 3) (x6 : BitVec 4) (x7 : BitVec 4) (x8 : Bool) (x9 : BitVec 3) : (opMmar x0 x1 x2 x3 x4 x5 x6 x7 x8 x9).Keeps := ⟨fun s h => by
  dsimp only [opMmar, Op.base, opN]
  repeat' with_reducible first | assumption | apply inv_Op_ask | apply inv_Op_late | apply inv_State_flush | apply inv_State_queueOut | apply inv_modR | split | dsimp only, fun _ h => h, fun _ h => h⟩

theorem keeps_opTcmp (x0 : AHdr) (x1 : BitVec 3) (x2 : BitVec 4) (x3 : BitVec 4) (x4 : BitVec 3) (x5 : BitVec 4) : (opTcmp x0 x1 x2 x3 x4 x5).Keeps := keeps_opVec _ _ _ _ _ _ _

theorem keeps_opTdq (x0 : AHdr) (x1 : BitVec 4) (x2 : BitVec 4) (x3 : BitVec 4) (x4 : BitVec 3) (x5 : BitVec 3) : (opTdq x0 x1 x2 x3 x4 x5).Keeps := keeps_opVec _ _ _ _ _ _ _

theorem keeps_opTmov (x0 : AHdr) (x1 : BitVec 4) (x2 : BitVec 4) (x3 : BitVec 3) : (opTmov x0 x1 x2 x3).Keeps := keeps_opVec _ _ _ _ _ _ _

theorem keeps_opTidx (x0 : AHdr) (x1 : BitVec 4) (x2 : BitVec 3) (x3 : Bool) : (opTidx x0 x1 x2 x3).Keeps := keeps_opVec _ _ _ _ _ _ _

theorem keeps_opTfill (x0 : AHdr) (x1 : BitVec 4) (x2 : BitVec 3) : (opTfill x0 x1 x2).Keeps := keeps_opVec _ _ _ _ _ _ _

theorem keeps_opTscl (x0 : AHdr) (x1 : BitVec 4) (x2 : BitVec 4) (x3 : BitVec 4) (x4 : BitVec 3) (x5 : Bool) (x6 : BitVec 3) : (opTscl x0 x1 x2 x3 x4 x5 x6).Keeps := keeps_opVec _ _ _ _ _ _ _

theorem keeps_opLayout (x0 : AHdr) (x1 : Instr) (x2 : BitVec 4) (x3 : BitVec 4) (x4 : BitVec 3) : (opLayout x0 x1 x2 x3 x4).Keeps := keeps_opVec _ _ _ _ _ _ _

theorem keeps_opArith (x0 : AHdr) (x1 : Instr) (x2 : BitVec 4) (x3 : BitVec 4) (x4 : BitVec 4) (x5 : BitVec 3) (x6 : Bool) (x7 : Bool) : (opArith x0 x1 x2 x3 x4 x5 x6 x7).Keeps := keeps_opVec _ _ _ _ _ _ _

theorem keeps_opShift (x0 : AHdr) (x1 : Instr) (x2 : BitVec 4) (x3 : BitVec 4) (x4 : BitVec 4) (x5 : BitVec 3) : (opShift x0 x1 x2 x3 x4 x5).Keeps := keeps_opVec _ _ _ _ _ _ _

theorem keeps_opMcnt (x0 : AHdr) (x1 : BitVec 4) (x2 : BitVec 3) (x3 : BitVec 3) : (opMcnt x0 x1 x2 x3).Keeps := keeps_opVec _ _ _ _ _ _ _

theorem keeps_opMlog (x0 : AHdr) (x1 : BitVec 3) (x2 : BitVec 3) (x3 : BitVec 3) (x4 : BitVec 3) (x5 : BitVec 4) : (opMlog x0 x1 x2 x3 x4 x5).Keeps := keeps_opVec _ _ _ _ _ _ _

theorem keeps_opTslc (x0 : AHdr) (x1 : BitVec 4) (x2 : BitVec 4) (x3 : BitVec 4) (x4 : BitVec 3) : (opTslc x0 x1 x2 x3 x4).Keeps := keeps_opVec _ _ _ _ _ _ _

theorem keeps_opRed (x0 : AHdr) (x1 : Instr) (x2 : BitVec 4) (x3 : BitVec 4) (x4 : BitVec 3) : (opRed x0 x1 x2 x3 x4).Keeps := keeps_opVec _ _ _ _ _ _ _

theorem keeps_opSign (x0 : AHdr) (x1 : Instr) (x2 : BitVec 4) (x3 : BitVec 4) (x4 : BitVec 3) : (opSign x0 x1 x2 x3 x4).Keeps := keeps_opVec _ _ _ _ _ _ _

theorem keeps_opIndex (x0 : AHdr) (x1 : Instr) (x2 : BitVec 4) (x3 : BitVec 4) (x4 : BitVec 4) (x5 : BitVec 3) : (opIndex x0 x1 x2 x3 x4 x5).Keeps := keeps_opVec _ _ _ _ _ _ _

theorem keeps_opTcas (x0 : AHdr) (x1 : BitVec 4) (x2 : BitVec 4) (x3 : BitVec 4) (x4 : BitVec 3) (x5 : Bool) (x6 : Bool) : (opTcas x0 x1 x2 x3 x4 x5 x6).Keeps := keeps_opVec _ _ _ _ _ _ _

theorem keeps_opBits (x0 : AHdr) (x1 : Instr) (x2 : BitVec 4) (x3 : BitVec 4) (x4 : BitVec 4) (x5 : BitVec 3) : (opBits x0 x1 x2 x3 x4 x5).Keeps := keeps_opVec _ _ _ _ _ _ _

theorem keeps_opTcvt (x0 : AHdr) (x1 : BitVec 4) (x2 : BitVec 4) (x3 : BitVec 4) (x4 : BitVec 3) (x5 : BitVec 3) : (opTcvt x0 x1 x2 x3 x4 x5).Keeps := keeps_opVec _ _ _ _ _ _ _

theorem keeps_opTqnt (x0 : AHdr) (x1 : BitVec 4) (x2 : BitVec 4) (x3 : BitVec 2) (x4 : BitVec 3) (x5 : BitVec 3) : (opTqnt x0 x1 x2 x3 x4 x5).Keeps := keeps_opVec _ _ _ _ _ _ _

theorem keeps_opTst (x0 : CHdr) (x1 : BitVec 5) (x2 : BitVec 4) (x3 : BitVec 3) (x4 : BitVec 4) (x5 : BitVec 4) (x6 : Bool) (x7 : BitVec 16) : (opTst x0 x1 x2 x3 x4 x5 x6 x7).Keeps := keeps_opMove _ _ _

theorem keeps_opTld (x0 : CHdr) (x1 : BitVec 5) (x2 : BitVec 4) (x3 : BitVec 3) (x4 : BitVec 4) (x5 : BitVec 4) (x6 : Bool) (x7 : BitVec 16) : (opTld x0 x1 x2 x3 x4 x5 x6 x7).Keeps := keeps_opMove _ _ _

theorem keeps_opStfeExt (x0 : CHdr) (x1 : BitVec 5) (x2 : BitVec 5) (x3 : BitVec 32) : (opStfeExt x0 x1 x2 x3).Keeps := keeps_opStFe _ _ _ _ _

theorem keeps_opStf (x0 : CHdr) (x1 : BitVec 5) (x2 : BitVec 5) (x3 : BitVec 3) : (opStf x0 x1 x2 x3).Keeps := keeps_opStFe _ _ _ _ _

theorem keeps_opStfe (x0 : CHdr) (x1 : BitVec 5) (x2 : BitVec 5) (x3 : BitVec 3) : (opStfe x0 x1 x2 x3).Keeps := keeps_opStFe _ _ _ _ _

theorem keeps_opStfExt (x0 : CHdr) (x1 : BitVec 5) (x2 : BitVec 5) (x3 : BitVec 32) : (opStfExt x0 x1 x2 x3).Keeps := keeps_opStFe _ _ _ _ _

theorem keeps_opStExt (x0 : CHdr) (x1 : BitVec 5) (x2 : BitVec 5) (x3 : BitVec 2) (x4 : BitVec 32) : (opStExt x0 x1 x2 x3 x4).Keeps := keeps_opStAt _ _ _ _ _

theorem keeps_opSt (x0 : CHdr) (x1 : BitVec 5) (x2 : BitVec 5) (x3 : BitVec 2) (x4 : BitVec 3) : (opSt x0 x1 x2 x3 x4).Keeps := keeps_opStAt _ _ _ _ _

theorem keeps_opLdp (x0 : CHdr) (x1 : BitVec 5) (x2 : BitVec 5) (x3 : BitVec 3) : (opLdp x0 x1 x2 x3).Keeps := ⟨fun _ h => h, fun _ h => h, fun _ h => h⟩

theorem keeps_opLdpExt (x0 : CHdr) (x1 : BitVec 5) (x2 : BitVec 5) (x3 : BitVec 32) : (opLdpExt x0 x1 x2 x3).Keeps := ⟨fun _ h => h, fun _ h => h, fun _ h => h⟩

theorem keeps_opFenceExt (x0 : CHdr) : (opFenceExt x0).Keeps := ⟨fun _ h => h, fun _ h => h, fun _ h => h⟩

theorem keeps_opFenceFull (x0 : CHdr) (x1 : BitVec 4) : (opFenceFull x0 x1).Keeps := ⟨fun _ h => h, fun _ h => h, fun _ h => h⟩

theorem keeps_opFenceRel (x0 : CHdr) (x1 : BitVec 4) : (opFenceRel x0 x1).Keeps := ⟨fun _ h => h, fun _ h => h, fun _ h => h⟩

theorem keeps_opFenceAcq (x0 : CHdr) (x1 : BitVec 4) : (opFenceAcq x0 x1).Keeps := ⟨fun _ h => h, fun _ h => h, fun _ h => h⟩

theorem keeps_opLdExt (x0 : CHdr) (x1 : BitVec 5) (x2 : BitVec 5) (x3 : BitVec 2) (x4 : Bool) (x5 : BitVec 32) : (opLdExt x0 x1 x2 x3 x4 x5).Keeps := ⟨fun _ h => h, fun _ h => h, fun _ h => h⟩

theorem keeps_opLd (x0 : CHdr) (x1 : BitVec 5) (x2 : BitVec 5) (x3 : BitVec 2) (x4 : Bool) (x5 : BitVec 3) : (opLd x0 x1 x2 x3 x4 x5).Keeps := ⟨fun _ h => h, fun _ h => h, fun _ h => h⟩

theorem keeps_opStp (x0 : CHdr) (x1 : BitVec 5) (x2 : BitVec 5) (x3 : BitVec 3) : (opStp x0 x1 x2 x3).Keeps := keeps_opStpAt _ _ _ _

theorem keeps_opStpExt (x0 : CHdr) (x1 : BitVec 5) (x2 : BitVec 5) (x3 : BitVec 32) : (opStpExt x0 x1 x2 x3).Keeps := keeps_opStpAt _ _ _ _

theorem keeps_opAccwrAdd (x0 : CHdr) (x1 : BitVec 3) (x2 : BitVec 4) : (opAccwrAdd x0 x1 x2).Keeps := keeps_opAccStore _ _ _ _

theorem keeps_opAccwr (x0 : CHdr) (x1 : BitVec 3) (x2 : BitVec 4) : (opAccwr x0 x1 x2).Keeps := keeps_opAccStore _ _ _ _

theorem keeps_opLdffExt (x0 : CHdr) (x1 : BitVec 5) (x2 : BitVec 5) (x3 : BitVec 32) : (opLdffExt x0 x1 x2 x3).Keeps := ⟨fun _ h => h, fun _ h => h, fun _ h => h⟩

theorem keeps_opLdfe (x0 : CHdr) (x1 : BitVec 5) (x2 : BitVec 5) (x3 : BitVec 3) : (opLdfe x0 x1 x2 x3).Keeps := ⟨fun _ h => h, fun _ h => h, fun _ h => h⟩

theorem keeps_opLdff (x0 : CHdr) (x1 : BitVec 5) (x2 : BitVec 5) (x3 : BitVec 3) : (opLdff x0 x1 x2 x3).Keeps := ⟨fun _ h => h, fun _ h => h, fun _ h => h⟩

theorem keeps_opLdfeExt (x0 : CHdr) (x1 : BitVec 5) (x2 : BitVec 5) (x3 : BitVec 32) : (opLdfeExt x0 x1 x2 x3).Keeps := ⟨fun _ h => h, fun _ h => h, fun _ h => h⟩

theorem keeps_opRet (x0 : CHdr) (x1 : BitVec 5) : (opRet x0 x1).Keeps := ⟨fun _ h => h, fun _ h => h, fun _ h => h⟩

theorem keeps_opCall (x0 : CHdr) (x1 : BitVec 16) : (opCall x0 x1).Keeps := ⟨fun _ h => h, fun _ h => h, fun _ h => h⟩

theorem keeps_opBr (x0 : CHdr) (x1 : BitVec 16) : (opBr x0 x1).Keeps := ⟨fun _ h => h, fun _ h => h, fun _ h => h⟩

theorem keeps_opBri (x0 : CHdr) (x1 : BitVec 5) (x2 : BitVec 6) : (opBri x0 x1 x2).Keeps := ⟨fun _ h => h, fun _ h => h, fun _ h => h⟩

theorem keeps_opCalli (x0 : CHdr) (x1 : BitVec 5) (x2 : BitVec 6) : (opCalli x0 x1 x2).Keeps := ⟨fun _ h => h, fun _ h => h, fun _ h => h⟩

theorem keeps_opAccfill (x0 : CHdr) (x1 : BitVec 5) (x2 : BitVec 3) : (opAccfill x0 x1 x2).Keeps := ⟨fun s h => by
  dsimp only [opAccfill, Op.base, opK, opSpillFill]
  repeat' with_reducible first | assumption | apply inv_Op_ask | apply inv_Op_eff | apply inv_Op_late | apply inv_State_spillTime | apply inv_fillWords | apply inv_modCore, fun _ h => h, fun _ h => h⟩

theorem keeps_opAccspill (x0 : CHdr) (x1 : BitVec 5) (x2 : BitVec 3) : (opAccspill x0 x1 x2).Keeps := ⟨fun s h => by
  dsimp only [opAccspill, Op.base, opK, opSpillFill]
  repeat' with_reducible first | assumption | apply inv_Op_ask | apply inv_Op_eff | apply inv_Op_late | apply inv_State_spillTime | apply inv_State_writeBytes, fun _ h => h, fun _ h => h⟩

theorem keeps_opCapkeyWrite (x0 : CHdr) (x1 : BitVec 2) (x2 : BitVec 5) (x3 : Bool) : (opCapkeyWrite x0 x1 x2 x3).Keeps := keeps_opCsrWrite _ _ _ _

theorem keeps_opTrestartWrite (x0 : CHdr) (x1 : BitVec 2) (x2 : BitVec 5) : (opTrestartWrite x0 x1 x2).Keeps := keeps_opCsrWrite _ _ _ _

theorem keeps_opAccownWrite (x0 : CHdr) (x1 : BitVec 2) (x2 : BitVec 5) : (opAccownWrite x0 x1 x2).Keeps := ⟨fun _ h => h, fun _ h => h, fun _ h => h⟩

theorem keeps_opAdWrite (x0 : CHdr) (x1 : BitVec 2) (x2 : BitVec 5) (x3 : BitVec 3) : (opAdWrite x0 x1 x2 x3).Keeps := keeps_opCsrWrite _ _ _ _

theorem keeps_opCsrs (x0 : CHdr) (x1 : BitVec 5) (x2 : BitVec 12) : (opCsrs x0 x1 x2).Keeps := keeps_opCsrWrite _ _ _ _

theorem keeps_opSpbaseWrite (x0 : CHdr) (x1 : BitVec 2) (x2 : BitVec 5) : (opSpbaseWrite x0 x1 x2).Keeps := ⟨fun _ h => h, fun _ h => h, fun _ h => h⟩

theorem keeps_opErrqsWrite (x0 : CHdr) (x1 : BitVec 2) (x2 : BitVec 5) : (opErrqsWrite x0 x1 x2).Keeps := keeps_opCsrWrite _ _ _ _

theorem keeps_opTshapeWrite (x0 : CHdr) (x1 : BitVec 2) (x2 : BitVec 5) (x3 : BitVec 4) : (opTshapeWrite x0 x1 x2 x3).Keeps := keeps_opCsrWrite _ _ _ _

theorem keeps_opSrlfsrWrite (x0 : CHdr) (x1 : BitVec 2) (x2 : BitVec 5) : (opSrlfsrWrite x0 x1 x2).Keeps := ⟨fun _ h => h, fun _ h => h, fun _ h => h⟩

theorem keeps_opVshareWrite (x0 : CHdr) (x1 : BitVec 2) (x2 : BitVec 5) : (opVshareWrite x0 x1 x2).Keeps := ⟨fun _ h => h, fun _ h => h, fun _ h => h⟩

theorem keeps_opCsrc (x0 : CHdr) (x1 : BitVec 5) (x2 : BitVec 12) : (opCsrc x0 x1 x2).Keeps := keeps_opCsrWrite _ _ _ _

theorem keeps_opTileownWrite (x0 : CHdr) (x1 : BitVec 2) (x2 : BitVec 5) : (opTileownWrite x0 x1 x2).Keeps := ⟨fun _ h => h, fun _ h => h, fun _ h => h⟩

theorem keeps_opCsrw (x0 : CHdr) (x1 : BitVec 5) (x2 : BitVec 12) : (opCsrw x0 x1 x2).Keeps := keeps_opCsrWrite _ _ _ _

theorem keeps_opExtentWrite (x0 : CHdr) (x1 : BitVec 2) (x2 : BitVec 5) (x3 : BitVec 2) (x4 : BitVec 4) : (opExtentWrite x0 x1 x2 x3 x4).Keeps := keeps_opCsrWrite _ _ _ _

theorem keeps_opSplimWrite (x0 : CHdr) (x1 : BitVec 2) (x2 : BitVec 5) : (opSplimWrite x0 x1 x2).Keeps := ⟨fun _ h => h, fun _ h => h, fun _ h => h⟩

theorem keeps_opBellD (x0 : CHdr) (x1 : BitVec 4) : (opBellD x0 x1).Keeps := keeps_opBellAt _ _ _ _ _

theorem keeps_opBellX (x0 : CHdr) (x1 : BitVec 4) (x2 : Bool) : (opBellX x0 x1 x2).Keeps := keeps_opBellAt _ _ _ _ _

theorem keeps_opBell (x0 : CHdr) (x1 : BitVec 4) : (opBell x0 x1).Keeps := keeps_opBellAt _ _ _ _ _

theorem keeps_opWaitFtime (x0 : CHdr) (x1 : BitVec 5) (x2 : BitVec 3) : (opWaitFtime x0 x1 x2).Keeps := ⟨fun _ h => h, fun _ h => h, fun _ h => h⟩

theorem keeps_opWaitHelpers (x0 : CHdr) (x1 : BitVec 5) : (opWaitHelpers x0 x1).Keeps := ⟨fun _ h => h, fun _ h => h, fun _ h => h⟩

theorem keeps_opWaitLimit (x0 : CHdr) (x1 : BitVec 5) (x2 : BitVec 4) (x3 : BitVec 7) (x4 : BitVec 32) : (opWaitLimit x0 x1 x2 x3 x4).Keeps := ⟨fun _ h => h, fun _ h => h, fun _ h => h⟩

theorem keeps_opWaitFull (x0 : CHdr) (x1 : BitVec 5) : (opWaitFull x0 x1).Keeps := ⟨fun _ h => h, fun _ h => h, fun _ h => h⟩

theorem keeps_opWaitCyc (x0 : CHdr) (x1 : BitVec 5) : (opWaitCyc x0 x1).Keeps := ⟨fun _ h => h, fun _ h => h, fun _ h => h⟩

theorem keeps_opWaitErrq (x0 : CHdr) : (opWaitErrq x0).Keeps := ⟨fun _ h => h, fun _ h => h, fun _ h => h⟩

theorem keeps_opWaitEmpty (x0 : CHdr) (x1 : BitVec 5) : (opWaitEmpty x0 x1).Keeps := ⟨fun _ h => h, fun _ h => h, fun _ h => h⟩

theorem keeps_opCtxld (x0 : CHdr) (x1 : BitVec 5) (x2 : BitVec 4) : (opCtxld x0 x1 x2).Keeps := ⟨fun s h => by
  dsimp only [opCtxld, Op.base, opK, opRecord]
  repeat' with_reducible first | assumption | apply inv_Op_ask | apply inv_Op_eff | apply inv_Op_late | apply inv_State_setTrestart | apply inv_modCtx, fun _ h => h, fun _ h => h⟩

theorem keeps_opCtxsv (x0 : CHdr) (x1 : BitVec 5) (x2 : BitVec 4) : (opCtxsv x0 x1 x2).Keeps := ⟨fun s h => by
  dsimp only [opCtxsv, Op.base, opK, opRecord]
  repeat' with_reducible first | assumption | apply inv_Op_ask | apply inv_Op_eff | apply inv_Op_late | apply inv_State_writeBytes | apply inv_modC, fun _ h => h, fun _ h => h⟩

theorem keeps_opFcvt (x0 : AHdr) (x1 : BitVec 5) (x2 : BitVec 5) (x3 : BitVec 5) (x4 : BitVec 3) : (opFcvt x0 x1 x2 x3 x4).Keeps := ⟨fun _ h => h, fun _ h => h, fun _ h => h⟩

theorem keeps_opFmul (x0 : AHdr) (x1 : BitVec 5) (x2 : BitVec 5) (x3 : BitVec 5) (x4 : Bool) (x5 : BitVec 3) : (opFmul x0 x1 x2 x3 x4 x5).Keeps := ⟨fun _ h => h, fun _ h => h, fun _ h => h⟩

theorem keeps_opFsub (x0 : AHdr) (x1 : BitVec 5) (x2 : BitVec 5) (x3 : BitVec 5) (x4 : Bool) (x5 : BitVec 3) : (opFsub x0 x1 x2 x3 x4 x5).Keeps := ⟨fun _ h => h, fun _ h => h, fun _ h => h⟩

theorem keeps_opFfma (x0 : AHdr) (x1 : BitVec 5) (x2 : BitVec 5) (x3 : BitVec 5) (x4 : Bool) (x5 : BitVec 3) : (opFfma x0 x1 x2 x3 x4 x5).Keeps := ⟨fun _ h => h, fun _ h => h, fun _ h => h⟩

theorem keeps_opFadd (x0 : AHdr) (x1 : BitVec 5) (x2 : BitVec 5) (x3 : BitVec 5) (x4 : Bool) (x5 : BitVec 3) : (opFadd x0 x1 x2 x3 x4 x5).Keeps := ⟨fun _ h => h, fun _ h => h, fun _ h => h⟩

theorem keeps_opAddi (x0 : AHdr) (x1 : BitVec 5) (x2 : BitVec 5) (x3 : BitVec 9) : (opAddi x0 x1 x2 x3).Keeps := ⟨fun _ h => h, fun _ h => h, fun _ h => h⟩

theorem keeps_opInt1 (x0 : AHdr) (x1 : BitVec 5) (x2 : BitVec 5) (x3 : BitVec 3) (x4 : ℕ → Word → ℤ) : (opInt1 x0 x1 x2 x3 x4).Keeps := ⟨fun _ h => h, fun _ h => h, fun _ h => h⟩

theorem keeps_opInt (x0 : AHdr) (x1 : BitVec 5) (x2 : BitVec 5) (x3 : BitVec 5) (x4 : Bool) (x5 : BitVec 3) (x6 : ℕ) (x7 : ℕ → Word → Word → ℤ) : (opInt x0 x1 x2 x3 x4 x5 x6 x7).Keeps := ⟨fun _ h => h, fun _ h => h, fun _ h => h⟩

theorem keeps_opSel (x0 : AHdr) (x1 : BitVec 5) (x2 : BitVec 5) (x3 : BitVec 5) (x4 : Bool) (x5 : BitVec 3) : (opSel x0 x1 x2 x3 x4 x5).Keeps := ⟨fun _ h => h, fun _ h => h, fun _ h => h⟩

theorem keeps_opPmovGet (x0 : AHdr) (x1 : BitVec 5) : (opPmovGet x0 x1).Keeps := ⟨fun _ h => h, fun _ h => h, fun _ h => h⟩

theorem keeps_opPfmt (x0 : AHdr) (x1 : BitVec 5) (x2 : BitVec 5) (x3 : BitVec 8) : (opPfmt x0 x1 x2 x3).Keeps := ⟨fun _ h => h, fun _ h => h, fun _ h => h⟩

theorem keeps_opPfld (x0 : AHdr) (x1 : BitVec 5) (x2 : BitVec 5) (x3 : BitVec 2) : (opPfld x0 x1 x2 x3).Keeps := ⟨fun _ h => h, fun _ h => h, fun _ h => h⟩

theorem keeps_opBfi (x0 : AHdr) (x1 : BitVec 5) (x2 : BitVec 5) (x3 : BitVec 5) (x4 : Bool) : (opBfi x0 x1 x2 x3 x4).Keeps := ⟨fun _ h => h, fun _ h => h, fun _ h => h⟩

theorem keeps_opFclass (x0 : AHdr) (x1 : BitVec 5) (x2 : BitVec 5) : (opFclass x0 x1 x2).Keeps := ⟨fun _ h => h, fun _ h => h, fun _ h => h⟩

theorem keeps_opXmov (x0 : AHdr) (x1 : BitVec 5) (x2 : BitVec 5) : (opXmov x0 x1 x2).Keeps := ⟨fun _ h => h, fun _ h => h, fun _ h => h⟩

theorem keeps_opMov (x0 : AHdr) (x1 : BitVec 5) (x2 : BitVec 5) : (opMov x0 x1 x2).Keeps := ⟨fun _ h => h, fun _ h => h, fun _ h => h⟩

theorem keeps_opShiftImm (x0 : AHdr) (x1 : BitVec 5) (x2 : BitVec 5) (x3 : Bool) (x4 : BitVec 6) (x5 : ℕ → Word → ℕ → ℤ) : (opShiftImm x0 x1 x2 x3 x4 x5).Keeps := ⟨fun _ h => h, fun _ h => h, fun _ h => h⟩

theorem keeps_opWord (x0 : AHdr) (x1 : BitVec 5) (x2 : BitVec 5) (x3 : BitVec 5) (x4 : Bool) (x5 : ℕ) (x6 : Word → Word → Word) : (opWord x0 x1 x2 x3 x4 x5 x6).Keeps := ⟨fun _ h => h, fun _ h => h, fun _ h => h⟩

theorem keeps_opGdistCore (x0 : AHdr) (x1 : BitVec 5) (x2 : BitVec 5) (x3 : BitVec 5) (x4 : Bool) (x5 : BitVec 2) : (opGdistCore x0 x1 x2 x3 x4 x5).Keeps := ⟨fun _ h => h, fun _ h => h, fun _ h => h⟩

theorem keeps_opGdistOff (x0 : AHdr) (x1 : BitVec 5) (x2 : BitVec 5) (x3 : BitVec 5) (x4 : Bool) (x5 : BitVec 2) : (opGdistOff x0 x1 x2 x3 x4 x5).Keeps := ⟨fun _ h => h, fun _ h => h, fun _ h => h⟩

theorem keeps_opPlog (x0 : AHdr) (x1 : BitVec 4) (x2 : BitVec 4) (x3 : BitVec 4) (x4 : BitVec 4) : (opPlog x0 x1 x2 x3 x4).Keeps := ⟨fun _ h => h, fun _ h => h, fun _ h => h⟩

theorem keeps_opCmp (x0 : AHdr) (x1 : BitVec 4) (x2 : BitVec 5) (x3 : BitVec 5) (x4 : Bool) (x5 : BitVec 4) : (opCmp x0 x1 x2 x3 x4 x5).Keeps := ⟨fun _ h => h, fun _ h => h, fun _ h => h⟩

theorem keeps_opXmovP (x0 : AHdr) (x1 : BitVec 4) (x2 : BitVec 4) : (opXmovP x0 x1 x2).Keeps := ⟨fun _ h => h, fun _ h => h, fun _ h => h⟩

theorem keeps_opCmpi (x0 : AHdr) (x1 : BitVec 4) (x2 : BitVec 5) (x3 : BitVec 5) (x4 : BitVec 4) : (opCmpi x0 x1 x2 x3 x4).Keeps := ⟨fun _ h => h, fun _ h => h, fun _ h => h⟩

theorem keeps_opFcmp (x0 : AHdr) (x1 : BitVec 4) (x2 : BitVec 5) (x3 : BitVec 5) (x4 : Bool) (x5 : BitVec 4) : (opFcmp x0 x1 x2 x3 x4 x5).Keeps := ⟨fun _ h => h, fun _ h => h, fun _ h => h⟩

theorem keeps_opXsnd (x0 : CHdr) (x1 : BitVec 5) (x2 : BitVec 4) (x3 : BitVec 8) (x4 : BitVec 20) : (opXsnd x0 x1 x2 x3 x4).Keeps := keeps_opExchMove _ _ _ _ _ _

theorem keeps_opXrcv (x0 : CHdr) (x1 : BitVec 5) (x2 : BitVec 4) (x3 : BitVec 8) (x4 : BitVec 20) : (opXrcv x0 x1 x2 x3 x4).Keeps := keeps_opExchMove _ _ _ _ _ _

theorem keeps_opRingCw (x0 : CHdr) (x1 : BitVec 4) (x2 : BitVec 4) : (opRingCw x0 x1 x2).Keeps := keeps_opRing _ _ _ _

theorem keeps_opRingCcw (x0 : CHdr) (x1 : BitVec 4) (x2 : BitVec 4) : (opRingCcw x0 x1 x2).Keeps := keeps_opRing _ _ _ _

theorem keeps_opEvctlLate (x0 : CHdr) (x1 : BitVec 5) (x2 : BitVec 3) : (opEvctlLate x0 x1 x2).Keeps := ⟨fun _ h => h, fun _ h => h, fun _ h => h⟩

theorem keeps_opEvctlTime (x0 : CHdr) (x1 : BitVec 5) (x2 : BitVec 3) : (opEvctlTime x0 x1 x2).Keeps := ⟨fun _ h => h, fun _ h => h, fun _ h => h⟩

theorem keeps_opEvctlQlen (x0 : CHdr) (x1 : BitVec 5) (x2 : BitVec 3) : (opEvctlQlen x0 x1 x2).Keeps := ⟨fun _ h => h, fun _ h => h, fun _ h => h⟩

theorem keeps_opEvctlFires (x0 : CHdr) (x1 : BitVec 5) (x2 : BitVec 3) : (opEvctlFires x0 x1 x2).Keeps := ⟨fun _ h => h, fun _ h => h, fun _ h => h⟩

theorem keeps_opHwaitCons (x0 : CHdr) (x1 : BitVec 4) (x2 : BitVec 4) : (opHwaitCons x0 x1 x2).Keeps := ⟨fun _ h => h, fun _ h => h, fun _ h => h⟩

theorem keeps_opHwaitProd (x0 : CHdr) (x1 : BitVec 4) (x2 : BitVec 4) : (opHwaitProd x0 x1 x2).Keeps := ⟨fun _ h => h, fun _ h => h, fun _ h => h⟩

theorem keeps_opHadvCons (x0 : CHdr) (x1 : BitVec 4) (x2 : BitVec 4) : (opHadvCons x0 x1 x2).Keeps := keeps_opHadv _ _ _ _

theorem keeps_opHadvProd (x0 : CHdr) (x1 : BitVec 4) (x2 : BitVec 4) : (opHadvProd x0 x1 x2).Keeps := keeps_opHadv _ _ _ _

theorem keeps_opTbc (x0 : AHdr) (x1 : BitVec 4) (x2 : BitVec 4) (x3 : BitVec 3) (x4 : Bool) : (opTbc x0 x1 x2 x3 x4).Keeps := keeps_opLayout _ _ _ _ _

theorem keeps_opTtr (x0 : AHdr) (x1 : BitVec 4) (x2 : BitVec 4) (x3 : BitVec 3) : (opTtr x0 x1 x2 x3).Keeps := keeps_opLayout _ _ _ _ _

theorem keeps_opTmul (x0 : AHdr) (x1 : BitVec 4) (x2 : BitVec 4) (x3 : BitVec 4) (x4 : BitVec 3) (x5 : Bool) (x6 : BitVec 3) : (opTmul x0 x1 x2 x3 x4 x5 x6).Keeps := keeps_opArith _ _ _ _ _ _ _ _

theorem keeps_opTadd (x0 : AHdr) (x1 : BitVec 4) (x2 : BitVec 4) (x3 : BitVec 4) (x4 : BitVec 3) (x5 : Bool) (x6 : BitVec 3) : (opTadd x0 x1 x2 x3 x4 x5 x6).Keeps := keeps_opArith _ _ _ _ _ _ _ _

theorem keeps_opTsub (x0 : AHdr) (x1 : BitVec 4) (x2 : BitVec 4) (x3 : BitVec 4) (x4 : BitVec 3) (x5 : Bool) (x6 : BitVec 3) : (opTsub x0 x1 x2 x3 x4 x5 x6).Keeps := keeps_opArith _ _ _ _ _ _ _ _

theorem keeps_opTmax (x0 : AHdr) (x1 : BitVec 4) (x2 : BitVec 4) (x3 : BitVec 4) (x4 : BitVec 3) : (opTmax x0 x1 x2 x3 x4).Keeps := keeps_opArith _ _ _ _ _ _ _ _

theorem keeps_opTfma (x0 : AHdr) (x1 : BitVec 4) (x2 : BitVec 4) (x3 : BitVec 4) (x4 : BitVec 3) (x5 : Bool) (x6 : BitVec 3) : (opTfma x0 x1 x2 x3 x4 x5 x6).Keeps := keeps_opArith _ _ _ _ _ _ _ _

theorem keeps_opTmin (x0 : AHdr) (x1 : BitVec 4) (x2 : BitVec 4) (x3 : BitVec 4) (x4 : BitVec 3) : (opTmin x0 x1 x2 x3 x4).Keeps := keeps_opArith _ _ _ _ _ _ _ _

theorem keeps_opTshl (x0 : AHdr) (x1 : BitVec 4) (x2 : BitVec 4) (x3 : BitVec 4) (x4 : BitVec 3) : (opTshl x0 x1 x2 x3 x4).Keeps := keeps_opShift _ _ _ _ _ _

theorem keeps_opTshr (x0 : AHdr) (x1 : BitVec 4) (x2 : BitVec 4) (x3 : BitVec 4) (x4 : BitVec 3) (x5 : Bool) : (opTshr x0 x1 x2 x3 x4 x5).Keeps := keeps_opShift _ _ _ _ _ _

theorem keeps_opTredSum (x0 : AHdr) (x1 : BitVec 4) (x2 : BitVec 4) (x3 : Bool) (x4 : BitVec 3) (x5 : BitVec 3) : (opTredSum x0 x1 x2 x3 x4 x5).Keeps := keeps_opRed _ _ _ _ _

theorem keeps_opTredMax (x0 : AHdr) (x1 : BitVec 4) (x2 : BitVec 4) (x3 : Bool) (x4 : BitVec 3) (x5 : BitVec 3) : (opTredMax x0 x1 x2 x3 x4 x5).Keeps := keeps_opRed _ _ _ _ _

theorem keeps_opTredMin (x0 : AHdr) (x1 : BitVec 4) (x2 : BitVec 4) (x3 : Bool) (x4 : BitVec 3) (x5 : BitVec 3) : (opTredMin x0 x1 x2 x3 x4 x5).Keeps := keeps_opRed _ _ _ _ _

theorem keeps_opTneg (x0 : AHdr) (x1 : BitVec 4) (x2 : BitVec 4) (x3 : BitVec 3) : (opTneg x0 x1 x2 x3).Keeps := keeps_opSign _ _ _ _ _

theorem keeps_opTabs (x0 : AHdr) (x1 : BitVec 4) (x2 : BitVec 4) (x3 : BitVec 3) : (opTabs x0 x1 x2 x3).Keeps := keeps_opSign _ _ _ _ _

theorem keeps_opTmini (x0 : AHdr) (x1 : BitVec 4) (x2 : BitVec 4) (x3 : BitVec 4) (x4 : BitVec 3) (x5 : Bool) : (opTmini x0 x1 x2 x3 x4 x5).Keeps := keeps_opIndex _ _ _ _ _ _

theorem keeps_opTmaxi (x0 : AHdr) (x1 : BitVec 4) (x2 : BitVec 4) (x3 : BitVec 4) (x4 : BitVec 3) (x5 : Bool) : (opTmaxi x0 x1 x2 x3 x4 x5).Keeps := keeps_opIndex _ _ _ _ _ _

theorem keeps_opTor (x0 : AHdr) (x1 : BitVec 4) (x2 : BitVec 4) (x3 : BitVec 4) (x4 : BitVec 3) : (opTor x0 x1 x2 x3 x4).Keeps := keeps_opBits _ _ _ _ _ _

theorem keeps_opTsel (x0 : AHdr) (x1 : BitVec 4) (x2 : BitVec 4) (x3 : BitVec 4) (x4 : BitVec 3) : (opTsel x0 x1 x2 x3 x4).Keeps := keeps_opBits _ _ _ _ _ _

theorem keeps_opTand (x0 : AHdr) (x1 : BitVec 4) (x2 : BitVec 4) (x3 : BitVec 4) (x4 : BitVec 3) : (opTand x0 x1 x2 x3 x4).Keeps := keeps_opBits _ _ _ _ _ _

theorem keeps_opTxor (x0 : AHdr) (x1 : BitVec 4) (x2 : BitVec 4) (x3 : BitVec 4) (x4 : BitVec 3) : (opTxor x0 x1 x2 x3 x4).Keeps := keeps_opBits _ _ _ _ _ _

theorem keeps_opCtz (x0 : AHdr) (x1 : BitVec 5) (x2 : BitVec 5) (x3 : BitVec 3) : (opCtz x0 x1 x2 x3).Keeps := ⟨fun _ h => h, fun _ h => h, fun _ h => h⟩

theorem keeps_opClz (x0 : AHdr) (x1 : BitVec 5) (x2 : BitVec 5) (x3 : BitVec 3) : (opClz x0 x1 x2 x3).Keeps := ⟨fun _ h => h, fun _ h => h, fun _ h => h⟩

theorem keeps_opPopc (x0 : AHdr) (x1 : BitVec 5) (x2 : BitVec 5) (x3 : BitVec 3) : (opPopc x0 x1 x2 x3).Keeps := ⟨fun _ h => h, fun _ h => h, fun _ h => h⟩

theorem keeps_opAdd (x0 : AHdr) (x1 : BitVec 5) (x2 : BitVec 5) (x3 : BitVec 5) (x4 : Bool) (x5 : BitVec 3) : (opAdd x0 x1 x2 x3 x4 x5).Keeps := ⟨fun _ h => h, fun _ h => h, fun _ h => h⟩

theorem keeps_opShl (x0 : AHdr) (x1 : BitVec 5) (x2 : BitVec 5) (x3 : BitVec 5) (x4 : Bool) (x5 : BitVec 3) : (opShl x0 x1 x2 x3 x4 x5).Keeps := ⟨fun _ h => h, fun _ h => h, fun _ h => h⟩

theorem keeps_opSar (x0 : AHdr) (x1 : BitVec 5) (x2 : BitVec 5) (x3 : BitVec 5) (x4 : Bool) (x5 : BitVec 3) : (opSar x0 x1 x2 x3 x4 x5).Keeps := ⟨fun _ h => h, fun _ h => h, fun _ h => h⟩

theorem keeps_opRol (x0 : AHdr) (x1 : BitVec 5) (x2 : BitVec 5) (x3 : BitVec 5) (x4 : Bool) (x5 : BitVec 3) : (opRol x0 x1 x2 x3 x4 x5).Keeps := ⟨fun _ h => h, fun _ h => h, fun _ h => h⟩

theorem keeps_opDivu (x0 : AHdr) (x1 : BitVec 5) (x2 : BitVec 5) (x3 : BitVec 5) (x4 : Bool) (x5 : BitVec 3) : (opDivu x0 x1 x2 x3 x4 x5).Keeps := ⟨fun _ h => h, fun _ h => h, fun _ h => h⟩

theorem keeps_opMinu (x0 : AHdr) (x1 : BitVec 5) (x2 : BitVec 5) (x3 : BitVec 5) (x4 : Bool) (x5 : BitVec 3) : (opMinu x0 x1 x2 x3 x4 x5).Keeps := ⟨fun _ h => h, fun _ h => h, fun _ h => h⟩

theorem keeps_opMin (x0 : AHdr) (x1 : BitVec 5) (x2 : BitVec 5) (x3 : BitVec 5) (x4 : Bool) (x5 : BitVec 3) : (opMin x0 x1 x2 x3 x4 x5).Keeps := ⟨fun _ h => h, fun _ h => h, fun _ h => h⟩

theorem keeps_opRem (x0 : AHdr) (x1 : BitVec 5) (x2 : BitVec 5) (x3 : BitVec 5) (x4 : Bool) (x5 : BitVec 3) : (opRem x0 x1 x2 x3 x4 x5).Keeps := ⟨fun _ h => h, fun _ h => h, fun _ h => h⟩

theorem keeps_opMul (x0 : AHdr) (x1 : BitVec 5) (x2 : BitVec 5) (x3 : BitVec 5) (x4 : Bool) (x5 : BitVec 3) : (opMul x0 x1 x2 x3 x4 x5).Keeps := ⟨fun _ h => h, fun _ h => h, fun _ h => h⟩

theorem keeps_opShr (x0 : AHdr) (x1 : BitVec 5) (x2 : BitVec 5) (x3 : BitVec 5) (x4 : Bool) (x5 : BitVec 3) : (opShr x0 x1 x2 x3 x4 x5).Keeps := ⟨fun _ h => h, fun _ h => h, fun _ h => h⟩

theorem keeps_opRemu (x0 : AHdr) (x1 : BitVec 5) (x2 : BitVec 5) (x3 : BitVec 5) (x4 : Bool) (x5 : BitVec 3) : (opRemu x0 x1 x2 x3 x4 x5).Keeps := ⟨fun _ h => h, fun _ h => h, fun _ h => h⟩

theorem keeps_opSub (x0 : AHdr) (x1 : BitVec 5) (x2 : BitVec 5) (x3 : BitVec 5) (x4 : Bool) (x5 : BitVec 3) : (opSub x0 x1 x2 x3 x4 x5).Keeps := ⟨fun _ h => h, fun _ h => h, fun _ h => h⟩

theorem keeps_opMax (x0 : AHdr) (x1 : BitVec 5) (x2 : BitVec 5) (x3 : BitVec 5) (x4 : Bool) (x5 : BitVec 3) : (opMax x0 x1 x2 x3 x4 x5).Keeps := ⟨fun _ h => h, fun _ h => h, fun _ h => h⟩

theorem keeps_opMaxu (x0 : AHdr) (x1 : BitVec 5) (x2 : BitVec 5) (x3 : BitVec 5) (x4 : Bool) (x5 : BitVec 3) : (opMaxu x0 x1 x2 x3 x4 x5).Keeps := ⟨fun _ h => h, fun _ h => h, fun _ h => h⟩

theorem keeps_opDiv (x0 : AHdr) (x1 : BitVec 5) (x2 : BitVec 5) (x3 : BitVec 5) (x4 : Bool) (x5 : BitVec 3) : (opDiv x0 x1 x2 x3 x4 x5).Keeps := ⟨fun _ h => h, fun _ h => h, fun _ h => h⟩

theorem keeps_opShri (x0 : AHdr) (x1 : BitVec 5) (x2 : BitVec 5) (x3 : Bool) (x4 : BitVec 6) : (opShri x0 x1 x2 x3 x4).Keeps := ⟨fun _ h => h, fun _ h => h, fun _ h => h⟩

theorem keeps_opShli (x0 : AHdr) (x1 : BitVec 5) (x2 : BitVec 5) (x3 : Bool) (x4 : BitVec 6) : (opShli x0 x1 x2 x3 x4).Keeps := ⟨fun _ h => h, fun _ h => h, fun _ h => h⟩

theorem keeps_opSari (x0 : AHdr) (x1 : BitVec 5) (x2 : BitVec 5) (x3 : Bool) (x4 : BitVec 6) : (opSari x0 x1 x2 x3 x4).Keeps := ⟨fun _ h => h, fun _ h => h, fun _ h => h⟩

theorem keeps_opAddpE (x0 : AHdr) (x1 : BitVec 5) (x2 : BitVec 5) (x3 : BitVec 5) (x4 : Bool) : (opAddpE x0 x1 x2 x3 x4).Keeps := ⟨fun _ h => h, fun _ h => h, fun _ h => h⟩

theorem keeps_opFmin (x0 : AHdr) (x1 : BitVec 5) (x2 : BitVec 5) (x3 : BitVec 5) (x4 : Bool) : (opFmin x0 x1 x2 x3 x4).Keeps := ⟨fun _ h => h, fun _ h => h, fun _ h => h⟩

theorem keeps_opAddp (x0 : AHdr) (x1 : BitVec 5) (x2 : BitVec 5) (x3 : BitVec 5) (x4 : Bool) : (opAddp x0 x1 x2 x3 x4).Keeps := ⟨fun _ h => h, fun _ h => h, fun _ h => h⟩

theorem keeps_opMulhu (x0 : AHdr) (x1 : BitVec 5) (x2 : BitVec 5) (x3 : BitVec 5) (x4 : Bool) : (opMulhu x0 x1 x2 x3 x4).Keeps := ⟨fun _ h => h, fun _ h => h, fun _ h => h⟩

theorem keeps_opAnd (x0 : AHdr) (x1 : BitVec 5) (x2 : BitVec 5) (x3 : BitVec 5) (x4 : Bool) : (opAnd x0 x1 x2 x3 x4).Keeps := ⟨fun _ h => h, fun _ h => h, fun _ h => h⟩

theorem keeps_opMulh (x0 : AHdr) (x1 : BitVec 5) (x2 : BitVec 5) (x3 : BitVec 5) (x4 : Bool) : (opMulh x0 x1 x2 x3 x4).Keeps := ⟨fun _ h => h, fun _ h => h, fun _ h => h⟩

theorem keeps_opAndn (x0 : AHdr) (x1 : BitVec 5) (x2 : BitVec 5) (x3 : BitVec 5) (x4 : Bool) : (opAndn x0 x1 x2 x3 x4).Keeps := ⟨fun _ h => h, fun _ h => h, fun _ h => h⟩

theorem keeps_opOr (x0 : AHdr) (x1 : BitVec 5) (x2 : BitVec 5) (x3 : BitVec 5) (x4 : Bool) : (opOr x0 x1 x2 x3 x4).Keeps := ⟨fun _ h => h, fun _ h => h, fun _ h => h⟩

theorem keeps_opXor (x0 : AHdr) (x1 : BitVec 5) (x2 : BitVec 5) (x3 : BitVec 5) (x4 : Bool) : (opXor x0 x1 x2 x3 x4).Keeps := ⟨fun _ h => h, fun _ h => h, fun _ h => h⟩

theorem keeps_opBfx (x0 : AHdr) (x1 : BitVec 5) (x2 : BitVec 5) (x3 : BitVec 5) (x4 : Bool) : (opBfx x0 x1 x2 x3 x4).Keeps := ⟨fun _ h => h, fun _ h => h, fun _ h => h⟩

theorem keeps_opFmax (x0 : AHdr) (x1 : BitVec 5) (x2 : BitVec 5) (x3 : BitVec 5) (x4 : Bool) : (opFmax x0 x1 x2 x3 x4).Keeps := ⟨fun _ h => h, fun _ h => h, fun _ h => h⟩

end Sys2Proof.Machine
end

