-- ==== Sys2Proof/Laws/KeepCycle.lean ====
section
/-!
SUPPORT. Both memories keep their canonical form: what a bundle, an issue cycle and the rest of a step keep.
-/

set_option Elab.async false
set_option linter.unusedTactic false
set_option linter.unreachableTactic false

namespace Sys2Proof.Machine

open Sys2Proof


theorem keeps_opOf (i : Instr) (o : Op) (h : opOf i = some o) : o.Keeps := by
  cases i with
  | nop h => cases h; exact keeps_opNop _
  | br h o => cases h; exact keeps_opBr _ _
  | bri h a i1 => cases h; exact keeps_opBri _ _ _
  | call h o => cases h; exact keeps_opCall _ _
  | calli h a i1 => cases h; exact keeps_opCalli _ _ _
  | ret h a => cases h; exact keeps_opRet _ _
  | jtab h a b len => cases h; exact keeps_opJtab _ _ _ _
  | loop h k cnt => cases h; exact keeps_opLoop _ _ _
  | loopx h o => cases h; exact keeps_opLoopx _ _
  | waitFull h a => cases h; exact keeps_opWaitFull _ _
  | waitEmpty h a => cases h; exact keeps_opWaitEmpty _ _
  | waitFtime h a f => cases h; exact keeps_opWaitFtime _ _ _
  | waitErrq h => cases h; exact keeps_opWaitErrq _
  | waitCyc h a => cases h; exact keeps_opWaitCyc _ _
  | waitHelpers h a => cases h; exact keeps_opWaitHelpers _ _
  | waitLimit h a t k lim => cases h; exact keeps_opWaitLimit _ _ _ _ _
  | waitch h a c => cases h; exact keeps_opWaitch _ _ _
  | waitmb h m => cases h; exact keeps_opWaitmb _ _
  | start h a k => cases h; exact keeps_opStart _ _ _
  | hend h => cases h; exact keeps_opHend _
  | couple h w => cases h; exact keeps_opCouple _ _
  | uncouple h => cases h; exact keeps_opUncouple _
  | bell h k => cases h; exact keeps_opBell _ _
  | bellD h k => cases h; exact keeps_opBellD _ _
  | bellX h k d => cases h; exact keeps_opBellX _ _ _
  | exch h => cases h; exact keeps_opExch _
  | exchend h => cases h; exact keeps_opExchend _
  | round h => cases h; exact keeps_opRound _
  | yield h => cases h; exact keeps_opYield _
  | halt h => cases h; exact keeps_opHalt _
  | ld h a b z k o => cases h; exact keeps_opLd _ _ _ _ _ _
  | ldExt h a b z k off => cases h; exact keeps_opLdExt _ _ _ _ _ _
  | st h a b z o => cases h; exact keeps_opSt _ _ _ _ _
  | stExt h a b z off => cases h; exact keeps_opStExt _ _ _ _ _
  | ldp h a b o => cases h; exact keeps_opLdp _ _ _ _
  | ldpExt h a b off => cases h; exact keeps_opLdpExt _ _ _ _
  | stp h a b o => cases h; exact keeps_opStp _ _ _ _
  | stpExt h a b off => cases h; exact keeps_opStpExt _ _ _ _
  | ldfe h a b o => cases h; exact keeps_opLdfe _ _ _ _
  | ldfeExt h a b off => cases h; exact keeps_opLdfeExt _ _ _ _
  | ldff h a b o => cases h; exact keeps_opLdff _ _ _ _
  | ldffExt h a b off => cases h; exact keeps_opLdffExt _ _ _ _
  | stfe h a b o => cases h; exact keeps_opStfe _ _ _ _
  | stfeExt h a b off => cases h; exact keeps_opStfeExt _ _ _ _
  | stf h a b o => cases h; exact keeps_opStf _ _ _ _
  | stfExt h a b off => cases h; exact keeps_opStfExt _ _ _ _
  | lat h a b c x w op => cases h; exact keeps_opLat _ _ _ _ _ _ _
  | tld h a t ch need hnd he stride => cases h; exact keeps_opTld _ _ _ _ _ _ _ _
  | tst h a t ch need hnd he stride => cases h; exact keeps_opTst _ _ _ _ _ _ _ _
  | accrd h t d v r => cases h; exact keeps_opAccrd _ _ _ _ _
  | accwr h d t => cases h; exact keeps_opAccwr _ _ _
  | accwrAdd h d t => cases h; exact keeps_opAccwrAdd _ _ _
  | xld h a b c x ch len => cases h; exact keeps_opXld _ _ _ _ _ _ _
  | xst h a b c x ch len => cases h; exact keeps_opXst _ _ _ _ _ _ _
  | xat h a b c x pk w op => cases h; exact keeps_opXat _ _ _ _ _ _ _ _
  | xatr h a b c x pk w op => cases h; exact keeps_opXatr _ _ _ _ _ _ _ _
  | cpy h a b c x aw nest ne ch => cases h; exact keeps_opCpy _ _ _ _ _ _ _ _ _
  | cpyd h a b c x core mb me dt nest ne ch => cases h; exact keeps_opCpyd _ _ _ _ _ _ _ _ _ _ _ _
  | ndld h a k => cases h; exact keeps_opNdld _ _ _
  | fenceAcq h k => cases h; exact keeps_opFenceAcq _ _
  | fenceRel h k => cases h; exact keeps_opFenceRel _ _
  | fenceFull h k => cases h; exact keeps_opFenceFull _ _
  | fenceExt h => cases h; exact keeps_opFenceExt _
  | mma h k a b r => cases h; exact keeps_opMma _ _ _ _ _
  | mmaX h k a b r => cases h; exact keeps_opMmaX _ _ _ _ _
  | mmar h a b c x k ta tb v r => cases h; exact keeps_opMmar _ _ _ _ _ _ _ _ _ _
  | accz h k => cases h; exact keeps_opAccz _ _
  | accxSend h a k tag => cases h; exact keeps_opAccxSend _ _ _ _
  | accxOpen h a k tag => cases h; exact keeps_opAccxOpen _ _ _ _
  | accxClose h k r => cases h; exact keeps_opAccxClose _ _ _
  | send h a b c x tag => cases h; exact keeps_opSend _ _ _ _ _ _
  | sendp h a b c x fin tag => cases h; exact keeps_opSendp _ _ _ _ _ _ _
  | sendx h a b c x tag => cases h; exact keeps_opSendx _ _ _ _ _ _
  | recv h a b c x tag => cases h; exact keeps_opRecv _ _ _ _ _ _
  | probe h a b c x tag => cases h; exact keeps_opProbe _ _ _ _ _ _
  | cancel h a b => cases h; exact keeps_opCancel _ _ _
  | mcast h a b c x mb tag => cases h; exact keeps_opMcast _ _ _ _ _ _ _
  | free h a b => cases h; exact keeps_opFree _ _ _
  | ringCw h a b => cases h; exact keeps_opRingCw _ _ _
  | ringCcw h a b => cases h; exact keeps_opRingCcw _ _ _
  | xsnd h a t flits cyc => cases h; exact keeps_opXsnd _ _ _ _ _
  | xrcv h a t flits cyc => cases h; exact keeps_opXrcv _ _ _ _ _
  | expect h a m => cases h; exact keeps_opExpect _ _ _
  | mbadd h a m => cases h; exact keeps_opMbadd _ _ _
  | hset h a t cnt size => cases h; exact keeps_opHset _ _ _ _ _
  | hwaitProd h hn q => cases h; exact keeps_opHwaitProd _ _ _
  | hwaitCons h hn q => cases h; exact keeps_opHwaitCons _ _ _
  | hadvProd h hn q => cases h; exact keeps_opHadvProd _ _ _
  | hadvCons h hn q => cases h; exact keeps_opHadvCons _ _ _
  | field h a f k => cases h; exact keeps_opField _ _ _ _
  | evsend h a b c x fld col row => cases h; exact keeps_opEvsend _ _ _ _ _ _ _ _
  | evrun h a f => cases h; exact keeps_opEvrun _ _ _
  | evctlUnbind h f => cases h; exact keeps_opEvctlUnbind _ _
  | evctlTime h a f => cases h; exact keeps_opEvctlTime _ _ _
  | evctlLate h a f => cases h; exact keeps_opEvctlLate _ _ _
  | evctlQlen h a f => cases h; exact keeps_opEvctlQlen _ _ _
  | evctlFires h a f => cases h; exact keeps_opEvctlFires _ _ _
  | sft h d a r u => cases h; exact keeps_opSft _ _ _ _ _
  | sfs h a b r fn => cases h; exact keeps_opSfs _ _ _ _ _
  | trap h a i1 => cases h; exact keeps_opTrap _ _ _
  | sysret h => cases h; exact keeps_opSysret _
  | csrr h a reg => cases h; exact keeps_opCsrr _ _ _
  | csrw h a reg => cases h; exact keeps_opCsrw _ _ _
  | csrs h a reg => cases h; exact keeps_opCsrs _ _ _
  | csrc h a reg => cases h; exact keeps_opCsrc _ _ _
  | errq h a b => cases h; exact keeps_opErrq _ _ _
  | ctxsv h a k => cases h; exact keeps_opCtxsv _ _ _
  | ctxld h a k => cases h; exact keeps_opCtxld _ _ _
  | accspill h a k => cases h; exact keeps_opAccspill _ _ _
  | accfill h a k => cases h; exact keeps_opAccfill _ _ _
  | peerclr h a => cases h; exact keeps_opPeerclr _ _
  | bkpt h => cases h; exact keeps_opBkpt _
  | limm h a sx imm => cases h; exact keeps_opLimm _ _ _ _
  | limmHi h a imm => cases h; exact keeps_opLimmHi _ _ _
  | add h d a b x w => cases h; exact keeps_opAdd _ _ _ _ _ _
  | sub h d a b x w => cases h; exact keeps_opSub _ _ _ _ _ _
  | addi h d a i1 => cases h; exact keeps_opAddi _ _ _ _
  | mul h d a b x w => cases h; exact keeps_opMul _ _ _ _ _ _
  | mulh h d a b x => cases h; exact keeps_opMulh _ _ _ _ _
  | mulhu h d a b x => cases h; exact keeps_opMulhu _ _ _ _ _
  | div h d a b x w => cases h; exact keeps_opDiv _ _ _ _ _ _
  | divu h d a b x w => cases h; exact keeps_opDivu _ _ _ _ _ _
  | rem h d a b x w => cases h; exact keeps_opRem _ _ _ _ _ _
  | remu h d a b x w => cases h; exact keeps_opRemu _ _ _ _ _ _
  | and h d a b x => cases h; exact keeps_opAnd _ _ _ _ _
  | or h d a b x => cases h; exact keeps_opOr _ _ _ _ _
  | xor h d a b x => cases h; exact keeps_opXor _ _ _ _ _
  | andn h d a b x => cases h; exact keeps_opAndn _ _ _ _ _
  | shl h d a b x w => cases h; exact keeps_opShl _ _ _ _ _ _
  | shr h d a b x w => cases h; exact keeps_opShr _ _ _ _ _ _
  | sar h d a b x w => cases h; exact keeps_opSar _ _ _ _ _ _
  | rol h d a b x w => cases h; exact keeps_opRol _ _ _ _ _ _
  | shli h d a w sh => cases h; exact keeps_opShli _ _ _ _ _
  | shri h d a w sh => cases h; exact keeps_opShri _ _ _ _ _
  | sari h d a w sh => cases h; exact keeps_opSari _ _ _ _ _
  | clz h d a w => cases h; exact keeps_opClz _ _ _ _
  | ctz h d a w => cases h; exact keeps_opCtz _ _ _ _
  | popc h d a w => cases h; exact keeps_opPopc _ _ _ _
  | bfx h d a b x => cases h; exact keeps_opBfx _ _ _ _ _
  | bfi h d a b x => cases h; exact keeps_opBfi _ _ _ _ _
  | min h d a b x w => cases h; exact keeps_opMin _ _ _ _ _ _
  | max h d a b x w => cases h; exact keeps_opMax _ _ _ _ _ _
  | minu h d a b x w => cases h; exact keeps_opMinu _ _ _ _ _ _
  | maxu h d a b x w => cases h; exact keeps_opMaxu _ _ _ _ _ _
  | sel h d a b x p => cases h; exact keeps_opSel _ _ _ _ _ _
  | mov h d a => cases h; exact keeps_opMov _ _ _
  | cmp h p a b x c => cases h; exact keeps_opCmp _ _ _ _ _ _
  | cmpi h p a i1 c => cases h; exact keeps_opCmpi _ _ _ _ _
  | plog h p a b t => cases h; exact keeps_opPlog _ _ _ _ _
  | pmovGet h d => cases h; exact keeps_opPmovGet _ _
  | pmovPut h a => cases h; exact keeps_opPmovPut _ _
  | xmov h d b => cases h; exact keeps_opXmov _ _ _
  | xmovP h d b => cases h; exact keeps_opXmovP _ _ _
  | addp h d a b x => cases h; exact keeps_opAddp _ _ _ _ _
  | addpE h d a b x => cases h; exact keeps_opAddpE _ _ _ _ _
  | pfmt h d a i1 => cases h; exact keeps_opPfmt _ _ _ _
  | pfld h d a f => cases h; exact keeps_opPfld _ _ _ _
  | gdistCore h d a b x t => cases h; exact keeps_opGdistCore _ _ _ _ _ _
  | gdistOff h d a b x t => cases h; exact keeps_opGdistOff _ _ _ _ _ _
  | fadd h d a b x r => cases h; exact keeps_opFadd _ _ _ _ _ _
  | fsub h d a b x r => cases h; exact keeps_opFsub _ _ _ _ _ _
  | fmul h d a b x r => cases h; exact keeps_opFmul _ _ _ _ _ _
  | ffma h d a b x r => cases h; exact keeps_opFfma _ _ _ _ _ _
  | fmin h d a b x => cases h; exact keeps_opFmin _ _ _ _ _
  | fmax h d a b x => cases h; exact keeps_opFmax _ _ _ _ _
  | fcmp h p a b x c => cases h; exact keeps_opFcmp _ _ _ _ _ _
  | fcvt h d a k r => cases h; exact keeps_opFcvt _ _ _ _ _
  | fclass h d a => cases h; exact keeps_opFclass _ _ _
  | tadd h d a b m v r => cases h; exact keeps_opTadd _ _ _ _ _ _ _
  | tsub h d a b m v r => cases h; exact keeps_opTsub _ _ _ _ _ _ _
  | tmul h d a b m v r => cases h; exact keeps_opTmul _ _ _ _ _ _ _
  | tfma h d a b m v r => cases h; exact keeps_opTfma _ _ _ _ _ _ _
  | tmax h d a b m => cases h; exact keeps_opTmax _ _ _ _ _
  | tmin h d a b m => cases h; exact keeps_opTmin _ _ _ _ _
  | tabs h d a m => cases h; exact keeps_opTabs _ _ _ _
  | tneg h d a m => cases h; exact keeps_opTneg _ _ _ _
  | tcvt h d a k m r => cases h; exact keeps_opTcvt _ _ _ _ _ _
  | tqnt h d a t m r => cases h; exact keeps_opTqnt _ _ _ _ _ _
  | tdq h d a k m r => cases h; exact keeps_opTdq _ _ _ _ _ _
  | tscl h d a b m v r => cases h; exact keeps_opTscl _ _ _ _ _ _ _
  | tand h d a b m => cases h; exact keeps_opTand _ _ _ _ _
  | tor h d a b m => cases h; exact keeps_opTor _ _ _ _ _
  | txor h d a b m => cases h; exact keeps_opTxor _ _ _ _ _
  | tshl h d a b m => cases h; exact keeps_opTshl _ _ _ _ _
  | tshr h d a b m k => cases h; exact keeps_opTshr _ _ _ _ _ _
  | tcmp h k a b m c => cases h; exact keeps_opTcmp _ _ _ _ _ _
  | tsel h d a b m => cases h; exact keeps_opTsel _ _ _ _ _
  | tcas h d a b m o c => cases h; exact keeps_opTcas _ _ _ _ _ _ _
  | tmaxi h d a b m c => cases h; exact keeps_opTmaxi _ _ _ _ _ _
  | tmini h d a b m c => cases h; exact keeps_opTmini _ _ _ _ _ _
  | tredSum h d a c m r => cases h; exact keeps_opTredSum _ _ _ _ _ _
  | tredMax h d a c m r => cases h; exact keeps_opTredMax _ _ _ _ _ _
  | tredMin h d a c m r => cases h; exact keeps_opTredMin _ _ _ _ _ _
  | tbc h d a m c => cases h; exact keeps_opTbc _ _ _ _ _
  | ttr h d a m => cases h; exact keeps_opTtr _ _ _ _
  | tslc h d a b m => cases h; exact keeps_opTslc _ _ _ _ _
  | tidx h d m c => cases h; exact keeps_opTidx _ _ _ _
  | tmov h d a m => cases h; exact keeps_opTmov _ _ _ _
  | tfill h d m => cases h; exact keeps_opTfill _ _ _
  | mlog h j k l m t => cases h; exact keeps_opMlog _ _ _ _ _ _
  | mcnt h d k m => cases h; exact keeps_opMcnt _ _ _ _
  | splimWrite h op a => cases h; exact keeps_opSplimWrite _ _ _
  | spbaseWrite h op a => cases h; exact keeps_opSpbaseWrite _ _ _
  | tshapeWrite h op a k => cases h; exact keeps_opTshapeWrite _ _ _ _
  | adWrite h op a k => cases h; exact keeps_opAdWrite _ _ _ _
  | accownWrite h op a => cases h; exact keeps_opAccownWrite _ _ _
  | tileownWrite h op a => cases h; exact keeps_opTileownWrite _ _ _
  | trestartWrite h op a => cases h; exact keeps_opTrestartWrite _ _ _
  | extentWrite h op a t k => cases h; exact keeps_opExtentWrite _ _ _ _ _
  | errqsWrite h op a => cases h; exact keeps_opErrqsWrite _ _ _
  | srlfsrWrite h op a => cases h; exact keeps_opSrlfsrWrite _ _ _
  | vshareWrite h op a => cases h; exact keeps_opVshareWrite _ _ _
  | capkeyWrite h op a hi => cases h; exact keeps_opCapkeyWrite _ _ _ _
  | _ => cases h

theorem keeps_placeAll (v : Nat) (l : List FWord) (p : Placed) (h : p ∈ placeAll v l) : p.op.Keeps := by
  induction l generalizing v with
  | nil => cases h
  | cons f t ih =>
    unfold placeAll at h
    split at h
    · exact ih _ h
    · cases h with
      | head => exact keeps_opOf _ _ (by assumption)
      | tail _ h => exact ih _ h

theorem inv_State_runBundle (x0 : State) (h0 : State.Inv x0) : State.Inv (State.runBundle x0) := by
  unfold State.runBundle
  split
  · exact inv_runPlaced _ _ h0 (fun p hp => nomatch hp)
  · split
    · exact inv_State_takeTrap _ _ (inv_ite _ _ _ (inv_State_disband _ _ h0) h0)
    · exact inv_runPlaced _ _ h0 (fun p hp => keeps_placeAll _ _ p hp)

theorem inv_holdAll (x0 : ResNo) (x1 : List CtxNo) (x2 : State) (h0 : State.Inv x2) : State.Inv (holdAll x0 x1 x2) := by
  fun_induction holdAll x0 x1 x2
  all_goals try dsimp only
  all_goals repeat' first | with_reducible assumption | (with_reducible exact inv_take (by assumption) (by assumption)) | (with_reducible intro _ h; with_reducible exact h) | (with_reducible apply_assumption) | (with_reducible first | apply inv_State_at | apply inv_State_runBundle) | (with_reducible apply inv_ite) | (with_reducible exact wf_nil) | split | simp only [inv_mk_iff] | (simp only [inv_mk_iff2]; refine ⟨?_, ?_⟩) | (with_reducible apply wf_core) | (with_reducible apply wf_srv) | with_reducible rfl | dsimp only | (with_reducible intro _ _) | (with_reducible intro _)

theorem inv_execWaitLimitLapse (x0 : State) (h0 : State.Inv x0) : Outcome.Keeps (execWaitLimitLapse x0) := by
  unfold execWaitLimitLapse
  try dsimp only
  all_goals repeat' first | with_reducible assumption | (with_reducible exact inv_take (by assumption) (by assumption)) | (with_reducible intro _ h; with_reducible exact h) | (with_reducible first | apply inv_State_at | apply inv_State_runBundle | apply keeps_next) | (with_reducible apply inv_ite) | (with_reducible exact wf_nil) | split | simp only [inv_mk_iff] | (simp only [inv_mk_iff2]; refine ⟨?_, ?_⟩) | (with_reducible apply wf_core) | (with_reducible apply wf_srv) | with_reducible rfl | dsimp only | (with_reducible intro _ _) | (with_reducible intro _)

theorem inv_State_poise (x0 : State) (x1 : ResNo) (h0 : State.Inv x0) : State.Inv (State.poise x0 x1).1 := by
  unfold State.poise
  try dsimp only
  all_goals repeat' first | with_reducible assumption | (with_reducible exact inv_take (by assumption) (by assumption)) | (with_reducible intro _ h; with_reducible exact h) | (with_reducible first | apply inv_holdAll | apply inv_modRes | apply inv_modCore) | (with_reducible apply inv_ite) | (with_reducible exact wf_nil) | split | simp only [inv_mk_iff] | (simp only [inv_mk_iff2]; refine ⟨?_, ?_⟩) | (with_reducible apply wf_core) | (with_reducible apply wf_srv) | with_reducible rfl | dsimp only | (with_reducible intro _ _) | (with_reducible intro _)

theorem inv_State_issueFor (x0 : State) (x1 : ResNo) (h0 : State.Inv x0) : State.Inv (State.issueFor x0 x1) := by
  unfold State.issueFor
  try dsimp only
  all_goals repeat' first | with_reducible assumption | (with_reducible exact inv_take (by assumption) (by assumption)) | (with_reducible intro _ h; with_reducible exact h) | (with_reducible first | apply inv_State_at | apply inv_State_gangStep | apply inv_State_poise | apply inv_State_runBundle) | (with_reducible apply inv_ite) | (with_reducible exact wf_nil) | split | simp only [inv_mk_iff] | (simp only [inv_mk_iff2]; refine ⟨?_, ?_⟩) | (with_reducible apply wf_core) | (with_reducible apply wf_srv) | with_reducible rfl | dsimp only | (with_reducible intro _ _) | (with_reducible intro _)

theorem inv_State_issueCycle (x0 : State) (h0 : State.Inv x0) : State.Inv (State.issueCycle x0) := by
  unfold State.issueCycle
  try dsimp only
  all_goals repeat' first | with_reducible assumption | (with_reducible exact inv_take (by assumption) (by assumption)) | (with_reducible intro _ h; with_reducible exact h) | (with_reducible first | apply inv_State_cycleStart | apply inv_State_issueFor | apply inv_State_seekRes | apply inv_State_tick | apply inv_State_watchRes) | (with_reducible apply inv_ite) | (with_reducible exact wf_nil) | split | simp only [inv_mk_iff] | (simp only [inv_mk_iff2]; refine ⟨?_, ?_⟩) | (with_reducible apply wf_core) | (with_reducible apply wf_srv) | with_reducible rfl | dsimp only | (with_reducible intro _ _) | (with_reducible intro _)
end Sys2Proof.Machine
end

