-- ==== Sys2Proof/Laws/PerInstr.lean ====
section
/-!
SUPPORT. Facts about every instruction as syntax, one lemma a constructor: decoding gives back what was encoded.
-/

set_option linter.unusedSimpArgs false
set_option linter.unusedTactic false
set_option linter.unreachableTactic false
set_option linter.unnecessarySeqFocus false

namespace Sys2Proof.Laws

open Sys2Proof Sys2Proof.Enc

/-- Decoding the words of a well-formed instruction gives the instruction back; an event has no words. -/
def RoundTrip.Statement (i : Instr) : Prop := i.wf = true → ∀ code, encode i = some code → decode code = .ok i

namespace RoundTrip

theorem nop h : RoundTrip.Statement (.nop h) := by
  intro hw code hc
  cases hc
  refine c_find (r := ⟨0x00#8, fun w => w.extractLsb' 0 16 == 0#16, fun w => .nop (cHdr w)⟩) _ (cWord_long _ _ _ _) (cWord_op _ _ _ _) ?hf ?hb hw
  case hf =>
    refine c_hit (by rfl) ?_
    simp (disch := decide) only [cWord_bits, cWord_bit, ext_hi, ext_lo, ext_all, bit_hi, bit_lo, bit_bool, Nat.reduceSub] <;> rfl
  case hb => simp (disch := decide) only [cWord_hdr, cWord_bits, cWord_bit, ext_hi, ext_lo, ext_all, bit_hi, bit_lo, bit_bool, Nat.reduceSub]

theorem br h o : RoundTrip.Statement (.br h o) := by
  intro hw code hc
  cases hc
  refine c_find (r := ⟨0x01#8, fun _ => true, fun w => .br (cHdr w) (w.extractLsb' 0 16)⟩) _ (cWord_long _ _ _ _) (cWord_op _ _ _ _) ?hf ?hb hw
  case hf =>
    iterate 1 refine c_op (by rfl) ?_
    refine c_hit (by rfl) ?_
    simp (disch := decide) only [cWord_bits, cWord_bit, ext_hi, ext_lo, ext_all, bit_hi, bit_lo, bit_bool, Nat.reduceSub] <;> rfl
  case hb => simp (disch := decide) only [cWord_hdr, cWord_bits, cWord_bit, ext_hi, ext_lo, ext_all, bit_hi, bit_lo, bit_bool, Nat.reduceSub]

theorem bri h a i : RoundTrip.Statement (.bri h a i) := by
  intro hw code hc
  cases hc
  refine c_find (r := ⟨0x02#8, fun w => w.extractLsb' 6 5 == 0#5, fun w => .bri (cHdr w) (w.extractLsb' 11 5) (w.extractLsb' 0 6)⟩) _ (cWord_long _ _ _ _) (cWord_op _ _ _ _) ?hf ?hb hw
  case hf =>
    iterate 2 refine c_op (by rfl) ?_
    refine c_hit (by rfl) ?_
    simp (disch := decide) only [cWord_bits, cWord_bit, ext_hi, ext_lo, ext_all, bit_hi, bit_lo, bit_bool, Nat.reduceSub] <;> rfl
  case hb => simp (disch := decide) only [cWord_hdr, cWord_bits, cWord_bit, ext_hi, ext_lo, ext_all, bit_hi, bit_lo, bit_bool, Nat.reduceSub]

theorem call h o : RoundTrip.Statement (.call h o) := by
  intro hw code hc
  cases hc
  refine c_find (r := ⟨0x03#8, fun _ => true, fun w => .call (cHdr w) (w.extractLsb' 0 16)⟩) _ (cWord_long _ _ _ _) (cWord_op _ _ _ _) ?hf ?hb hw
  case hf =>
    iterate 3 refine c_op (by rfl) ?_
    refine c_hit (by rfl) ?_
    simp (disch := decide) only [cWord_bits, cWord_bit, ext_hi, ext_lo, ext_all, bit_hi, bit_lo, bit_bool, Nat.reduceSub] <;> rfl
  case hb => simp (disch := decide) only [cWord_hdr, cWord_bits, cWord_bit, ext_hi, ext_lo, ext_all, bit_hi, bit_lo, bit_bool, Nat.reduceSub]

theorem calli h a i : RoundTrip.Statement (.calli h a i) := by
  intro hw code hc
  cases hc
  refine c_find (r := ⟨0x04#8, fun w => w.extractLsb' 6 5 == 0#5, fun w => .calli (cHdr w) (w.extractLsb' 11 5) (w.extractLsb' 0 6)⟩) _ (cWord_long _ _ _ _) (cWord_op _ _ _ _) ?hf ?hb hw
  case hf =>
    iterate 4 refine c_op (by rfl) ?_
    refine c_hit (by rfl) ?_
    simp (disch := decide) only [cWord_bits, cWord_bit, ext_hi, ext_lo, ext_all, bit_hi, bit_lo, bit_bool, Nat.reduceSub] <;> rfl
  case hb => simp (disch := decide) only [cWord_hdr, cWord_bits, cWord_bit, ext_hi, ext_lo, ext_all, bit_hi, bit_lo, bit_bool, Nat.reduceSub]

theorem ret h a : RoundTrip.Statement (.ret h a) := by
  intro hw code hc
  cases hc
  refine c_find (r := ⟨0x05#8, fun w => w.extractLsb' 0 11 == 0#11, fun w => .ret (cHdr w) (w.extractLsb' 11 5)⟩) _ (cWord_long _ _ _ _) (cWord_op _ _ _ _) ?hf ?hb hw
  case hf =>
    iterate 5 refine c_op (by rfl) ?_
    refine c_hit (by rfl) ?_
    simp (disch := decide) only [cWord_bits, cWord_bit, ext_hi, ext_lo, ext_all, bit_hi, bit_lo, bit_bool, Nat.reduceSub] <;> rfl
  case hb => simp (disch := decide) only [cWord_hdr, cWord_bits, cWord_bit, ext_hi, ext_lo, ext_all, bit_hi, bit_lo, bit_bool, Nat.reduceSub]

theorem jtab h a b len : RoundTrip.Statement (.jtab h a b len) := by
  intro hw code hc
  cases hc
  refine l_find (r := ⟨0x06#8, fun w x => w.extractLsb' 0 6 == 0#6 && x.extractLsb' 16 16 == 0#16, fun w x => .jtab (cHdr w) (w.extractLsb' 11 5) (w.extractLsb' 6 5) (x.extractLsb' 0 16)⟩) _ (cWord_long _ _ _ _) (cWord_op _ _ _ _) ?hf ?hb hw
  case hf =>
    refine l_hit (by rfl) ?_
    simp (disch := decide) only [cWord_bits, cWord_bit, ext_hi, ext_lo, ext_all, bit_hi, bit_lo, bit_bool, Nat.reduceSub] <;> rfl
  case hb => simp (disch := decide) only [ownRowFix, cWord_hdr, cWord_bits, cWord_bit, ext_hi, ext_lo, ext_all, bit_hi, bit_lo, bit_bool, Nat.reduceSub]

theorem loop h k cnt : RoundTrip.Statement (.loop h k cnt) := by
  intro hw code hc
  cases hc
  refine l_find (r := ⟨0x07#8, fun w x => w.extractLsb' 15 1 == 0#1 && w.extractLsb' 0 12 == 0#12 && x.extractLsb' 5 27 == 0#27, fun w x => .loop (cHdr w) (w.extractLsb' 12 3) (x.extractLsb' 0 5)⟩) _ (cWord_long _ _ _ _) (cWord_op _ _ _ _) ?hf ?hb hw
  case hf =>
    iterate 1 refine l_op (by rfl) ?_
    refine l_hit (by rfl) ?_
    simp (disch := decide) only [cWord_bits, cWord_bit, ext_hi, ext_lo, ext_all, bit_hi, bit_lo, bit_bool, Nat.reduceSub] <;> rfl
  case hb => simp (disch := decide) only [ownRowFix, cWord_hdr, cWord_bits, cWord_bit, ext_hi, ext_lo, ext_all, bit_hi, bit_lo, bit_bool, Nat.reduceSub]

theorem loopx h o : RoundTrip.Statement (.loopx h o) := by
  intro hw code hc
  cases hc
  refine c_find (r := ⟨0x08#8, fun _ => true, fun w => .loopx (cHdr w) (w.extractLsb' 0 16)⟩) _ (cWord_long _ _ _ _) (cWord_op _ _ _ _) ?hf ?hb hw
  case hf =>
    iterate 6 refine c_op (by rfl) ?_
    refine c_hit (by rfl) ?_
    simp (disch := decide) only [cWord_bits, cWord_bit, ext_hi, ext_lo, ext_all, bit_hi, bit_lo, bit_bool, Nat.reduceSub] <;> rfl
  case hb => simp (disch := decide) only [cWord_hdr, cWord_bits, cWord_bit, ext_hi, ext_lo, ext_all, bit_hi, bit_lo, bit_bool, Nat.reduceSub]

theorem waitFull h a : RoundTrip.Statement (.waitFull h a) := by
  intro hw code hc
  cases hc
  refine c_find (r := ⟨0x09#8, fun w => w.extractLsb' 0 11 == 0#11, fun w => .waitFull (cHdr w) (w.extractLsb' 11 5)⟩) _ (cWord_long _ _ _ _) (cWord_op _ _ _ _) ?hf ?hb hw
  case hf =>
    iterate 7 refine c_op (by rfl) ?_
    refine c_hit (by rfl) ?_
    simp (disch := decide) only [cWord_bits, cWord_bit, ext_hi, ext_lo, ext_all, bit_hi, bit_lo, bit_bool, Nat.reduceSub] <;> rfl
  case hb => simp (disch := decide) only [cWord_hdr, cWord_bits, cWord_bit, ext_hi, ext_lo, ext_all, bit_hi, bit_lo, bit_bool, Nat.reduceSub]

theorem waitEmpty h a : RoundTrip.Statement (.waitEmpty h a) := by
  intro hw code hc
  cases hc
  refine c_find (r := ⟨0x09#8, fun w => w.extractLsb' 0 11 == 1#11, fun w => .waitEmpty (cHdr w) (w.extractLsb' 11 5)⟩) _ (cWord_long _ _ _ _) (cWord_op _ _ _ _) ?hf ?hb hw
  case hf =>
    iterate 7 refine c_op (by rfl) ?_
    refine c_no ?_ ?_
    · simp (disch := decide) only [cWord_bits, cWord_bit, ext_hi, ext_lo, ext_all, bit_hi, bit_lo, bit_bool, Nat.reduceSub] <;> rfl
    refine c_hit (by rfl) ?_
    simp (disch := decide) only [cWord_bits, cWord_bit, ext_hi, ext_lo, ext_all, bit_hi, bit_lo, bit_bool, Nat.reduceSub] <;> rfl
  case hb => simp (disch := decide) only [cWord_hdr, cWord_bits, cWord_bit, ext_hi, ext_lo, ext_all, bit_hi, bit_lo, bit_bool, Nat.reduceSub]

theorem waitFtime h a f : RoundTrip.Statement (.waitFtime h a f) := by
  intro hw code hc
  cases hc
  refine c_find (r := ⟨0x09#8, fun w => w.extractLsb' 10 1 == 0#1 && w.extractLsb' 0 7 == 2#7, fun w => .waitFtime (cHdr w) (w.extractLsb' 11 5) (w.extractLsb' 7 3)⟩) _ (cWord_long _ _ _ _) (cWord_op _ _ _ _) ?hf ?hb hw
  case hf =>
    iterate 7 refine c_op (by rfl) ?_
    refine c_no ?_ ?_
    · simp (disch := decide) only [cWord_bits, cWord_bit, ext_hi, ext_lo, ext_all, bit_hi, bit_lo, bit_bool, Nat.reduceSub] <;> (first | rfl | (clear hw; revert a f; decide))
    refine c_no ?_ ?_
    · simp (disch := decide) only [cWord_bits, cWord_bit, ext_hi, ext_lo, ext_all, bit_hi, bit_lo, bit_bool, Nat.reduceSub] <;> (first | rfl | (clear hw; revert a f; decide))
    refine c_hit (by rfl) ?_
    simp (disch := decide) only [cWord_bits, cWord_bit, ext_hi, ext_lo, ext_all, bit_hi, bit_lo, bit_bool, Nat.reduceSub] <;> (first | rfl | (clear hw; revert a f; decide))
  case hb => simp (disch := decide) only [cWord_hdr, cWord_bits, cWord_bit, ext_hi, ext_lo, ext_all, bit_hi, bit_lo, bit_bool, Nat.reduceSub]

theorem waitErrq h : RoundTrip.Statement (.waitErrq h) := by
  intro hw code hc
  cases hc
  refine c_find (r := ⟨0x09#8, fun w => w.extractLsb' 0 16 == 3#16, fun w => .waitErrq (cHdr w)⟩) _ (cWord_long _ _ _ _) (cWord_op _ _ _ _) ?hf ?hb hw
  case hf =>
    iterate 7 refine c_op (by rfl) ?_
    refine c_no ?_ ?_
    · simp (disch := decide) only [cWord_bits, cWord_bit, ext_hi, ext_lo, ext_all, bit_hi, bit_lo, bit_bool, Nat.reduceSub] <;> rfl
    refine c_no ?_ ?_
    · simp (disch := decide) only [cWord_bits, cWord_bit, ext_hi, ext_lo, ext_all, bit_hi, bit_lo, bit_bool, Nat.reduceSub] <;> rfl
    refine c_no ?_ ?_
    · simp (disch := decide) only [cWord_bits, cWord_bit, ext_hi, ext_lo, ext_all, bit_hi, bit_lo, bit_bool, Nat.reduceSub] <;> rfl
    refine c_hit (by rfl) ?_
    simp (disch := decide) only [cWord_bits, cWord_bit, ext_hi, ext_lo, ext_all, bit_hi, bit_lo, bit_bool, Nat.reduceSub] <;> rfl
  case hb => simp (disch := decide) only [cWord_hdr, cWord_bits, cWord_bit, ext_hi, ext_lo, ext_all, bit_hi, bit_lo, bit_bool, Nat.reduceSub]

theorem waitCyc h a : RoundTrip.Statement (.waitCyc h a) := by
  intro hw code hc
  cases hc
  refine c_find (r := ⟨0x09#8, fun w => w.extractLsb' 0 11 == 4#11, fun w => .waitCyc (cHdr w) (w.extractLsb' 11 5)⟩) _ (cWord_long _ _ _ _) (cWord_op _ _ _ _) ?hf ?hb hw
  case hf =>
    iterate 7 refine c_op (by rfl) ?_
    refine c_no ?_ ?_
    · simp (disch := decide) only [cWord_bits, cWord_bit, ext_hi, ext_lo, ext_all, bit_hi, bit_lo, bit_bool, Nat.reduceSub] <;> (first | rfl | (clear hw; revert a; decide))
    refine c_no ?_ ?_
    · simp (disch := decide) only [cWord_bits, cWord_bit, ext_hi, ext_lo, ext_all, bit_hi, bit_lo, bit_bool, Nat.reduceSub] <;> (first | rfl | (clear hw; revert a; decide))
    refine c_no ?_ ?_
    · simp (disch := decide) only [cWord_bits, cWord_bit, ext_hi, ext_lo, ext_all, bit_hi, bit_lo, bit_bool, Nat.reduceSub] <;> (first | rfl | (clear hw; revert a; decide))
    refine c_no ?_ ?_
    · simp (disch := decide) only [cWord_bits, cWord_bit, ext_hi, ext_lo, ext_all, bit_hi, bit_lo, bit_bool, Nat.reduceSub] <;> (first | rfl | (clear hw; revert a; decide))
    refine c_hit (by rfl) ?_
    simp (disch := decide) only [cWord_bits, cWord_bit, ext_hi, ext_lo, ext_all, bit_hi, bit_lo, bit_bool, Nat.reduceSub] <;> (first | rfl | (clear hw; revert a; decide))
  case hb => simp (disch := decide) only [cWord_hdr, cWord_bits, cWord_bit, ext_hi, ext_lo, ext_all, bit_hi, bit_lo, bit_bool, Nat.reduceSub]

theorem waitHelpers h a : RoundTrip.Statement (.waitHelpers h a) := by
  intro hw code hc
  cases hc
  refine c_find (r := ⟨0x09#8, fun w => w.extractLsb' 0 11 == 5#11, fun w => .waitHelpers (cHdr w) (w.extractLsb' 11 5)⟩) _ (cWord_long _ _ _ _) (cWord_op _ _ _ _) ?hf ?hb hw
  case hf =>
    iterate 7 refine c_op (by rfl) ?_
    refine c_no ?_ ?_
    · simp (disch := decide) only [cWord_bits, cWord_bit, ext_hi, ext_lo, ext_all, bit_hi, bit_lo, bit_bool, Nat.reduceSub] <;> (first | rfl | (clear hw; revert a; decide))
    refine c_no ?_ ?_
    · simp (disch := decide) only [cWord_bits, cWord_bit, ext_hi, ext_lo, ext_all, bit_hi, bit_lo, bit_bool, Nat.reduceSub] <;> (first | rfl | (clear hw; revert a; decide))
    refine c_no ?_ ?_
    · simp (disch := decide) only [cWord_bits, cWord_bit, ext_hi, ext_lo, ext_all, bit_hi, bit_lo, bit_bool, Nat.reduceSub] <;> (first | rfl | (clear hw; revert a; decide))
    refine c_no ?_ ?_
    · simp (disch := decide) only [cWord_bits, cWord_bit, ext_hi, ext_lo, ext_all, bit_hi, bit_lo, bit_bool, Nat.reduceSub] <;> (first | rfl | (clear hw; revert a; decide))
    refine c_no ?_ ?_
    · simp (disch := decide) only [cWord_bits, cWord_bit, ext_hi, ext_lo, ext_all, bit_hi, bit_lo, bit_bool, Nat.reduceSub] <;> (first | rfl | (clear hw; revert a; decide))
    refine c_hit (by rfl) ?_
    simp (disch := decide) only [cWord_bits, cWord_bit, ext_hi, ext_lo, ext_all, bit_hi, bit_lo, bit_bool, Nat.reduceSub] <;> (first | rfl | (clear hw; revert a; decide))
  case hb => simp (disch := decide) only [cWord_hdr, cWord_bits, cWord_bit, ext_hi, ext_lo, ext_all, bit_hi, bit_lo, bit_bool, Nat.reduceSub]

theorem waitLimit h a t k lim : RoundTrip.Statement (.waitLimit h a t k lim) := by
  intro hw code hc
  cases hc
  refine l_find (r := ⟨0x09#8, fun _ _ => true, fun w x => .waitLimit (cHdr w) (w.extractLsb' 11 5) (w.extractLsb' 7 4) (w.extractLsb' 0 7) (x.extractLsb' 0 32)⟩) _ (cWord_long _ _ _ _) (cWord_op _ _ _ _) ?hf ?hb hw
  case hf =>
    iterate 2 refine l_op (by rfl) ?_
    refine l_hit (by rfl) ?_
    simp (disch := decide) only [cWord_bits, cWord_bit, ext_hi, ext_lo, ext_all, bit_hi, bit_lo, bit_bool, Nat.reduceSub] <;> rfl
  case hb => simp (disch := decide) only [ownRowFix, cWord_hdr, cWord_bits, cWord_bit, ext_hi, ext_lo, ext_all, bit_hi, bit_lo, bit_bool, Nat.reduceSub]

theorem waitch h a c : RoundTrip.Statement (.waitch h a c) := by
  intro hw code hc
  cases hc
  refine c_find (r := ⟨0x0A#8, fun w => w.extractLsb' 10 1 == 0#1 && w.extractLsb' 0 7 == 0#7, fun w => .waitch (cHdr w) (w.extractLsb' 11 5) (w.extractLsb' 7 3)⟩) _ (cWord_long _ _ _ _) (cWord_op _ _ _ _) ?hf ?hb hw
  case hf =>
    iterate 13 refine c_op (by rfl) ?_
    refine c_hit (by rfl) ?_
    simp (disch := decide) only [cWord_bits, cWord_bit, ext_hi, ext_lo, ext_all, bit_hi, bit_lo, bit_bool, Nat.reduceSub] <;> rfl
  case hb => simp (disch := decide) only [cWord_hdr, cWord_bits, cWord_bit, ext_hi, ext_lo, ext_all, bit_hi, bit_lo, bit_bool, Nat.reduceSub]

theorem waitmb h m : RoundTrip.Statement (.waitmb h m) := by
  intro hw code hc
  cases hc
  refine c_find (r := ⟨0x0B#8, fun w => w.extractLsb' 0 12 == 0#12, fun w => .waitmb (cHdr w) (w.extractLsb' 12 4)⟩) _ (cWord_long _ _ _ _) (cWord_op _ _ _ _) ?hf ?hb hw
  case hf =>
    iterate 14 refine c_op (by rfl) ?_
    refine c_hit (by rfl) ?_
    simp (disch := decide) only [cWord_bits, cWord_bit, ext_hi, ext_lo, ext_all, bit_hi, bit_lo, bit_bool, Nat.reduceSub] <;> rfl
  case hb => simp (disch := decide) only [cWord_hdr, cWord_bits, cWord_bit, ext_hi, ext_lo, ext_all, bit_hi, bit_lo, bit_bool, Nat.reduceSub]

theorem start h a k : RoundTrip.Statement (.start h a k) := by
  intro hw code hc
  cases hc
  refine c_find (r := ⟨0x0C#8, fun w => w.extractLsb' 0 7 == 0#7, fun w => .start (cHdr w) (w.extractLsb' 11 5) (w.extractLsb' 7 4)⟩) _ (cWord_long _ _ _ _) (cWord_op _ _ _ _) ?hf ?hb hw
  case hf =>
    iterate 15 refine c_op (by rfl) ?_
    refine c_hit (by rfl) ?_
    simp (disch := decide) only [cWord_bits, cWord_bit, ext_hi, ext_lo, ext_all, bit_hi, bit_lo, bit_bool, Nat.reduceSub] <;> rfl
  case hb => simp (disch := decide) only [cWord_hdr, cWord_bits, cWord_bit, ext_hi, ext_lo, ext_all, bit_hi, bit_lo, bit_bool, Nat.reduceSub]

theorem hend h : RoundTrip.Statement (.hend h) := by
  intro hw code hc
  cases hc
  refine c_find (r := ⟨0x0D#8, fun w => w.extractLsb' 0 16 == 0#16, fun w => .hend (cHdr w)⟩) _ (cWord_long _ _ _ _) (cWord_op _ _ _ _) ?hf ?hb hw
  case hf =>
    iterate 16 refine c_op (by rfl) ?_
    refine c_hit (by rfl) ?_
    simp (disch := decide) only [cWord_bits, cWord_bit, ext_hi, ext_lo, ext_all, bit_hi, bit_lo, bit_bool, Nat.reduceSub] <;> rfl
  case hb => simp (disch := decide) only [cWord_hdr, cWord_bits, cWord_bit, ext_hi, ext_lo, ext_all, bit_hi, bit_lo, bit_bool, Nat.reduceSub]

theorem couple h w : RoundTrip.Statement (.couple h w) := by
  intro hw code hc
  cases hc
  refine c_find (r := ⟨0x0E#8, fun w => w.extractLsb' 4 12 == 0#12, fun w => .couple (cHdr w) (w.extractLsb' 0 4)⟩) _ (cWord_long _ _ _ _) (cWord_op _ _ _ _) ?hf ?hb hw
  case hf =>
    iterate 17 refine c_op (by rfl) ?_
    refine c_hit (by rfl) ?_
    simp (disch := decide) only [cWord_bits, cWord_bit, ext_hi, ext_lo, ext_all, bit_hi, bit_lo, bit_bool, Nat.reduceSub] <;> rfl
  case hb => simp (disch := decide) only [cWord_hdr, cWord_bits, cWord_bit, ext_hi, ext_lo, ext_all, bit_hi, bit_lo, bit_bool, Nat.reduceSub]

theorem uncouple h : RoundTrip.Statement (.uncouple h) := by
  intro hw code hc
  cases hc
  refine c_find (r := ⟨0x0F#8, fun w => w.extractLsb' 0 16 == 0#16, fun w => .uncouple (cHdr w)⟩) _ (cWord_long _ _ _ _) (cWord_op _ _ _ _) ?hf ?hb hw
  case hf =>
    iterate 18 refine c_op (by rfl) ?_
    refine c_hit (by rfl) ?_
    simp (disch := decide) only [cWord_bits, cWord_bit, ext_hi, ext_lo, ext_all, bit_hi, bit_lo, bit_bool, Nat.reduceSub] <;> rfl
  case hb => simp (disch := decide) only [cWord_hdr, cWord_bits, cWord_bit, ext_hi, ext_lo, ext_all, bit_hi, bit_lo, bit_bool, Nat.reduceSub]

theorem bell h k : RoundTrip.Statement (.bell h k) := by
  intro hw code hc
  cases hc
  refine c_find (r := ⟨0x10#8, fun w => w.extractLsb' 0 12 == 0#12, fun w => .bell (cHdr w) (w.extractLsb' 12 4)⟩) _ (cWord_long _ _ _ _) (cWord_op _ _ _ _) ?hf ?hb hw
  case hf =>
    iterate 19 refine c_op (by rfl) ?_
    refine c_hit (by rfl) ?_
    simp (disch := decide) only [cWord_bits, cWord_bit, ext_hi, ext_lo, ext_all, bit_hi, bit_lo, bit_bool, Nat.reduceSub] <;> rfl
  case hb => simp (disch := decide) only [cWord_hdr, cWord_bits, cWord_bit, ext_hi, ext_lo, ext_all, bit_hi, bit_lo, bit_bool, Nat.reduceSub]

theorem bellD h k : RoundTrip.Statement (.bellD h k) := by
  intro hw code hc
  cases hc
  refine c_find (r := ⟨0x10#8, fun w => w.extractLsb' 0 12 == 2#12, fun w => .bellD (cHdr w) (w.extractLsb' 12 4)⟩) _ (cWord_long _ _ _ _) (cWord_op _ _ _ _) ?hf ?hb hw
  case hf =>
    iterate 19 refine c_op (by rfl) ?_
    refine c_no ?_ ?_
    · simp (disch := decide) only [cWord_bits, cWord_bit, ext_hi, ext_lo, ext_all, bit_hi, bit_lo, bit_bool, Nat.reduceSub] <;> rfl
    refine c_hit (by rfl) ?_
    simp (disch := decide) only [cWord_bits, cWord_bit, ext_hi, ext_lo, ext_all, bit_hi, bit_lo, bit_bool, Nat.reduceSub] <;> rfl
  case hb => simp (disch := decide) only [cWord_hdr, cWord_bits, cWord_bit, ext_hi, ext_lo, ext_all, bit_hi, bit_lo, bit_bool, Nat.reduceSub]

theorem bellX h k d : RoundTrip.Statement (.bellX h k d) := by
  intro hw code hc
  cases hc
  refine c_find (r := ⟨0x10#8, fun w => w.extractLsb' 2 10 == 0#10 && w.extractLsb' 0 1 == 1#1, fun w => .bellX (cHdr w) (w.extractLsb' 12 4) (w.getLsbD 1)⟩) _ (cWord_long _ _ _ _) (cWord_op _ _ _ _) ?hf ?hb hw
  case hf =>
    iterate 19 refine c_op (by rfl) ?_
    refine c_no ?_ ?_
    · simp (disch := decide) only [cWord_bits, cWord_bit, ext_hi, ext_lo, ext_all, bit_hi, bit_lo, bit_bool, Nat.reduceSub] <;> (first | rfl | (clear hw; revert k d; decide))
    refine c_no ?_ ?_
    · simp (disch := decide) only [cWord_bits, cWord_bit, ext_hi, ext_lo, ext_all, bit_hi, bit_lo, bit_bool, Nat.reduceSub] <;> (first | rfl | (clear hw; revert k d; decide))
    refine c_hit (by rfl) ?_
    simp (disch := decide) only [cWord_bits, cWord_bit, ext_hi, ext_lo, ext_all, bit_hi, bit_lo, bit_bool, Nat.reduceSub] <;> (first | rfl | (clear hw; revert k d; decide))
  case hb => simp (disch := decide) only [cWord_hdr, cWord_bits, cWord_bit, ext_hi, ext_lo, ext_all, bit_hi, bit_lo, bit_bool, Nat.reduceSub]

theorem exch h : RoundTrip.Statement (.exch h) := by
  intro hw code hc
  cases hc
  refine c_find (r := ⟨0x11#8, fun w => w.extractLsb' 0 16 == 0#16, fun w => .exch (cHdr w)⟩) _ (cWord_long _ _ _ _) (cWord_op _ _ _ _) ?hf ?hb hw
  case hf =>
    iterate 22 refine c_op (by rfl) ?_
    refine c_hit (by rfl) ?_
    simp (disch := decide) only [cWord_bits, cWord_bit, ext_hi, ext_lo, ext_all, bit_hi, bit_lo, bit_bool, Nat.reduceSub] <;> rfl
  case hb => simp (disch := decide) only [cWord_hdr, cWord_bits, cWord_bit, ext_hi, ext_lo, ext_all, bit_hi, bit_lo, bit_bool, Nat.reduceSub]

theorem exchend h : RoundTrip.Statement (.exchend h) := by
  intro hw code hc
  cases hc
  refine c_find (r := ⟨0x12#8, fun w => w.extractLsb' 0 16 == 0#16, fun w => .exchend (cHdr w)⟩) _ (cWord_long _ _ _ _) (cWord_op _ _ _ _) ?hf ?hb hw
  case hf =>
    iterate 23 refine c_op (by rfl) ?_
    refine c_hit (by rfl) ?_
    simp (disch := decide) only [cWord_bits, cWord_bit, ext_hi, ext_lo, ext_all, bit_hi, bit_lo, bit_bool, Nat.reduceSub] <;> rfl
  case hb => simp (disch := decide) only [cWord_hdr, cWord_bits, cWord_bit, ext_hi, ext_lo, ext_all, bit_hi, bit_lo, bit_bool, Nat.reduceSub]

theorem round h : RoundTrip.Statement (.round h) := by
  intro hw code hc
  cases hc
  refine c_find (r := ⟨0x13#8, fun w => w.extractLsb' 0 16 == 0#16, fun w => .round (cHdr w)⟩) _ (cWord_long _ _ _ _) (cWord_op _ _ _ _) ?hf ?hb hw
  case hf =>
    iterate 24 refine c_op (by rfl) ?_
    refine c_hit (by rfl) ?_
    simp (disch := decide) only [cWord_bits, cWord_bit, ext_hi, ext_lo, ext_all, bit_hi, bit_lo, bit_bool, Nat.reduceSub] <;> rfl
  case hb => simp (disch := decide) only [cWord_hdr, cWord_bits, cWord_bit, ext_hi, ext_lo, ext_all, bit_hi, bit_lo, bit_bool, Nat.reduceSub]

theorem yield h : RoundTrip.Statement (.yield h) := by
  intro hw code hc
  cases hc
  refine c_find (r := ⟨0x14#8, fun w => w.extractLsb' 0 16 == 0#16, fun w => .yield (cHdr w)⟩) _ (cWord_long _ _ _ _) (cWord_op _ _ _ _) ?hf ?hb hw
  case hf =>
    iterate 25 refine c_op (by rfl) ?_
    refine c_hit (by rfl) ?_
    simp (disch := decide) only [cWord_bits, cWord_bit, ext_hi, ext_lo, ext_all, bit_hi, bit_lo, bit_bool, Nat.reduceSub] <;> rfl
  case hb => simp (disch := decide) only [cWord_hdr, cWord_bits, cWord_bit, ext_hi, ext_lo, ext_all, bit_hi, bit_lo, bit_bool, Nat.reduceSub]

theorem halt h : RoundTrip.Statement (.halt h) := by
  intro hw code hc
  cases hc
  refine c_find (r := ⟨0x15#8, fun w => w.extractLsb' 0 16 == 0#16, fun w => .halt (cHdr w)⟩) _ (cWord_long _ _ _ _) (cWord_op _ _ _ _) ?hf ?hb hw
  case hf =>
    iterate 26 refine c_op (by rfl) ?_
    refine c_hit (by rfl) ?_
    simp (disch := decide) only [cWord_bits, cWord_bit, ext_hi, ext_lo, ext_all, bit_hi, bit_lo, bit_bool, Nat.reduceSub] <;> rfl
  case hb => simp (disch := decide) only [cWord_hdr, cWord_bits, cWord_bit, ext_hi, ext_lo, ext_all, bit_hi, bit_lo, bit_bool, Nat.reduceSub]

theorem ld h a b z k o : RoundTrip.Statement (.ld h a b z k o) := by
  intro hw code hc
  cases hc
  refine c_find (r := ⟨0x40#8, fun _ => true, fun w => .ld (cHdr w) (w.extractLsb' 11 5) (w.extractLsb' 6 5) (w.extractLsb' 4 2) (w.getLsbD 3) (w.extractLsb' 0 3)⟩) _ (cWord_long _ _ _ _) (cWord_op _ _ _ _) ?hf ?hb hw
  case hf =>
    iterate 27 refine c_op (by rfl) ?_
    refine c_hit (by rfl) ?_
    simp (disch := decide) only [cWord_bits, cWord_bit, ext_hi, ext_lo, ext_all, bit_hi, bit_lo, bit_bool, Nat.reduceSub] <;> rfl
  case hb => simp (disch := decide) only [cWord_hdr, cWord_bits, cWord_bit, ext_hi, ext_lo, ext_all, bit_hi, bit_lo, bit_bool, Nat.reduceSub]

theorem ldExt h a b z k off : RoundTrip.Statement (.ldExt h a b z k off) := by
  intro hw code hc
  cases hc
  refine l_find (r := ⟨0x40#8, fun w _ => w.extractLsb' 0 3 == 0#3, fun w x => .ldExt (cHdr w) (w.extractLsb' 11 5) (w.extractLsb' 6 5) (w.extractLsb' 4 2) (w.getLsbD 3) (x.extractLsb' 0 32)⟩) _ (cWord_long _ _ _ _) (cWord_op _ _ _ _) ?hf ?hb hw
  case hf =>
    iterate 3 refine l_op (by rfl) ?_
    refine l_hit (by rfl) ?_
    simp (disch := decide) only [cWord_bits, cWord_bit, ext_hi, ext_lo, ext_all, bit_hi, bit_lo, bit_bool, Nat.reduceSub] <;> rfl
  case hb => simp (disch := decide) only [ownRowFix, cWord_hdr, cWord_bits, cWord_bit, ext_hi, ext_lo, ext_all, bit_hi, bit_lo, bit_bool, Nat.reduceSub]

theorem st h a b z o : RoundTrip.Statement (.st h a b z o) := by
  intro hw code hc
  cases hc
  refine c_find (r := ⟨0x41#8, fun w => w.extractLsb' 3 1 == 0#1, fun w => .st (cHdr w) (w.extractLsb' 11 5) (w.extractLsb' 6 5) (w.extractLsb' 4 2) (w.extractLsb' 0 3)⟩) _ (cWord_long _ _ _ _) (cWord_op _ _ _ _) ?hf ?hb hw
  case hf =>
    iterate 28 refine c_op (by rfl) ?_
    refine c_hit (by rfl) ?_
    simp (disch := decide) only [cWord_bits, cWord_bit, ext_hi, ext_lo, ext_all, bit_hi, bit_lo, bit_bool, Nat.reduceSub] <;> rfl
  case hb => simp (disch := decide) only [cWord_hdr, cWord_bits, cWord_bit, ext_hi, ext_lo, ext_all, bit_hi, bit_lo, bit_bool, Nat.reduceSub]

theorem stExt h a b z off : RoundTrip.Statement (.stExt h a b z off) := by
  intro hw code hc
  cases hc
  refine l_find (r := ⟨0x41#8, fun w _ => w.extractLsb' 0 4 == 0#4, fun w x => .stExt (cHdr w) (w.extractLsb' 11 5) (w.extractLsb' 6 5) (w.extractLsb' 4 2) (x.extractLsb' 0 32)⟩) _ (cWord_long _ _ _ _) (cWord_op _ _ _ _) ?hf ?hb hw
  case hf =>
    iterate 4 refine l_op (by rfl) ?_
    refine l_hit (by rfl) ?_
    simp (disch := decide) only [cWord_bits, cWord_bit, ext_hi, ext_lo, ext_all, bit_hi, bit_lo, bit_bool, Nat.reduceSub] <;> rfl
  case hb => simp (disch := decide) only [ownRowFix, cWord_hdr, cWord_bits, cWord_bit, ext_hi, ext_lo, ext_all, bit_hi, bit_lo, bit_bool, Nat.reduceSub]

theorem ldp h a b o : RoundTrip.Statement (.ldp h a b o) := by
  intro hw code hc
  cases hc
  refine c_find (r := ⟨0x42#8, fun w => w.extractLsb' 3 3 == 0#3, fun w => .ldp (cHdr w) (w.extractLsb' 11 5) (w.extractLsb' 6 5) (w.extractLsb' 0 3)⟩) _ (cWord_long _ _ _ _) (cWord_op _ _ _ _) ?hf ?hb hw
  case hf =>
    iterate 29 refine c_op (by rfl) ?_
    refine c_hit (by rfl) ?_
    simp (disch := decide) only [cWord_bits, cWord_bit, ext_hi, ext_lo, ext_all, bit_hi, bit_lo, bit_bool, Nat.reduceSub] <;> rfl
  case hb => simp (disch := decide) only [cWord_hdr, cWord_bits, cWord_bit, ext_hi, ext_lo, ext_all, bit_hi, bit_lo, bit_bool, Nat.reduceSub]

theorem ldpExt h a b off : RoundTrip.Statement (.ldpExt h a b off) := by
  intro hw code hc
  cases hc
  refine l_find (r := ⟨0x42#8, fun w _ => w.extractLsb' 0 6 == 0#6, fun w x => .ldpExt (cHdr w) (w.extractLsb' 11 5) (w.extractLsb' 6 5) (x.extractLsb' 0 32)⟩) _ (cWord_long _ _ _ _) (cWord_op _ _ _ _) ?hf ?hb hw
  case hf =>
    iterate 5 refine l_op (by rfl) ?_
    refine l_hit (by rfl) ?_
    simp (disch := decide) only [cWord_bits, cWord_bit, ext_hi, ext_lo, ext_all, bit_hi, bit_lo, bit_bool, Nat.reduceSub] <;> rfl
  case hb => simp (disch := decide) only [ownRowFix, cWord_hdr, cWord_bits, cWord_bit, ext_hi, ext_lo, ext_all, bit_hi, bit_lo, bit_bool, Nat.reduceSub]

theorem stp h a b o : RoundTrip.Statement (.stp h a b o) := by
  intro hw code hc
  cases hc
  refine c_find (r := ⟨0x43#8, fun w => w.extractLsb' 3 3 == 0#3, fun w => .stp (cHdr w) (w.extractLsb' 11 5) (w.extractLsb' 6 5) (w.extractLsb' 0 3)⟩) _ (cWord_long _ _ _ _) (cWord_op _ _ _ _) ?hf ?hb hw
  case hf =>
    iterate 30 refine c_op (by rfl) ?_
    refine c_hit (by rfl) ?_
    simp (disch := decide) only [cWord_bits, cWord_bit, ext_hi, ext_lo, ext_all, bit_hi, bit_lo, bit_bool, Nat.reduceSub] <;> rfl
  case hb => simp (disch := decide) only [cWord_hdr, cWord_bits, cWord_bit, ext_hi, ext_lo, ext_all, bit_hi, bit_lo, bit_bool, Nat.reduceSub]

theorem stpExt h a b off : RoundTrip.Statement (.stpExt h a b off) := by
  intro hw code hc
  cases hc
  refine l_find (r := ⟨0x43#8, fun w _ => w.extractLsb' 0 6 == 0#6, fun w x => .stpExt (cHdr w) (w.extractLsb' 11 5) (w.extractLsb' 6 5) (x.extractLsb' 0 32)⟩) _ (cWord_long _ _ _ _) (cWord_op _ _ _ _) ?hf ?hb hw
  case hf =>
    iterate 6 refine l_op (by rfl) ?_
    refine l_hit (by rfl) ?_
    simp (disch := decide) only [cWord_bits, cWord_bit, ext_hi, ext_lo, ext_all, bit_hi, bit_lo, bit_bool, Nat.reduceSub] <;> rfl
  case hb => simp (disch := decide) only [ownRowFix, cWord_hdr, cWord_bits, cWord_bit, ext_hi, ext_lo, ext_all, bit_hi, bit_lo, bit_bool, Nat.reduceSub]

theorem ldfe h a b o : RoundTrip.Statement (.ldfe h a b o) := by
  intro hw code hc
  cases hc
  refine c_find (r := ⟨0x44#8, fun w => w.extractLsb' 3 3 == 0#3, fun w => .ldfe (cHdr w) (w.extractLsb' 11 5) (w.extractLsb' 6 5) (w.extractLsb' 0 3)⟩) _ (cWord_long _ _ _ _) (cWord_op _ _ _ _) ?hf ?hb hw
  case hf =>
    iterate 31 refine c_op (by rfl) ?_
    refine c_hit (by rfl) ?_
    simp (disch := decide) only [cWord_bits, cWord_bit, ext_hi, ext_lo, ext_all, bit_hi, bit_lo, bit_bool, Nat.reduceSub] <;> rfl
  case hb => simp (disch := decide) only [cWord_hdr, cWord_bits, cWord_bit, ext_hi, ext_lo, ext_all, bit_hi, bit_lo, bit_bool, Nat.reduceSub]

theorem ldfeExt h a b off : RoundTrip.Statement (.ldfeExt h a b off) := by
  intro hw code hc
  cases hc
  refine l_find (r := ⟨0x44#8, fun w _ => w.extractLsb' 0 6 == 0#6, fun w x => .ldfeExt (cHdr w) (w.extractLsb' 11 5) (w.extractLsb' 6 5) (x.extractLsb' 0 32)⟩) _ (cWord_long _ _ _ _) (cWord_op _ _ _ _) ?hf ?hb hw
  case hf =>
    iterate 7 refine l_op (by rfl) ?_
    refine l_hit (by rfl) ?_
    simp (disch := decide) only [cWord_bits, cWord_bit, ext_hi, ext_lo, ext_all, bit_hi, bit_lo, bit_bool, Nat.reduceSub] <;> rfl
  case hb => simp (disch := decide) only [ownRowFix, cWord_hdr, cWord_bits, cWord_bit, ext_hi, ext_lo, ext_all, bit_hi, bit_lo, bit_bool, Nat.reduceSub]

theorem ldff h a b o : RoundTrip.Statement (.ldff h a b o) := by
  intro hw code hc
  cases hc
  refine c_find (r := ⟨0x45#8, fun w => w.extractLsb' 3 3 == 0#3, fun w => .ldff (cHdr w) (w.extractLsb' 11 5) (w.extractLsb' 6 5) (w.extractLsb' 0 3)⟩) _ (cWord_long _ _ _ _) (cWord_op _ _ _ _) ?hf ?hb hw
  case hf =>
    iterate 32 refine c_op (by rfl) ?_
    refine c_hit (by rfl) ?_
    simp (disch := decide) only [cWord_bits, cWord_bit, ext_hi, ext_lo, ext_all, bit_hi, bit_lo, bit_bool, Nat.reduceSub] <;> rfl
  case hb => simp (disch := decide) only [cWord_hdr, cWord_bits, cWord_bit, ext_hi, ext_lo, ext_all, bit_hi, bit_lo, bit_bool, Nat.reduceSub]

theorem ldffExt h a b off : RoundTrip.Statement (.ldffExt h a b off) := by
  intro hw code hc
  cases hc
  refine l_find (r := ⟨0x45#8, fun w _ => w.extractLsb' 0 6 == 0#6, fun w x => .ldffExt (cHdr w) (w.extractLsb' 11 5) (w.extractLsb' 6 5) (x.extractLsb' 0 32)⟩) _ (cWord_long _ _ _ _) (cWord_op _ _ _ _) ?hf ?hb hw
  case hf =>
    iterate 8 refine l_op (by rfl) ?_
    refine l_hit (by rfl) ?_
    simp (disch := decide) only [cWord_bits, cWord_bit, ext_hi, ext_lo, ext_all, bit_hi, bit_lo, bit_bool, Nat.reduceSub] <;> rfl
  case hb => simp (disch := decide) only [ownRowFix, cWord_hdr, cWord_bits, cWord_bit, ext_hi, ext_lo, ext_all, bit_hi, bit_lo, bit_bool, Nat.reduceSub]

theorem stfe h a b o : RoundTrip.Statement (.stfe h a b o) := by
  intro hw code hc
  cases hc
  refine c_find (r := ⟨0x46#8, fun w => w.extractLsb' 3 3 == 0#3, fun w => .stfe (cHdr w) (w.extractLsb' 11 5) (w.extractLsb' 6 5) (w.extractLsb' 0 3)⟩) _ (cWord_long _ _ _ _) (cWord_op _ _ _ _) ?hf ?hb hw
  case hf =>
    iterate 33 refine c_op (by rfl) ?_
    refine c_hit (by rfl) ?_
    simp (disch := decide) only [cWord_bits, cWord_bit, ext_hi, ext_lo, ext_all, bit_hi, bit_lo, bit_bool, Nat.reduceSub] <;> rfl
  case hb => simp (disch := decide) only [cWord_hdr, cWord_bits, cWord_bit, ext_hi, ext_lo, ext_all, bit_hi, bit_lo, bit_bool, Nat.reduceSub]

theorem stfeExt h a b off : RoundTrip.Statement (.stfeExt h a b off) := by
  intro hw code hc
  cases hc
  refine l_find (r := ⟨0x46#8, fun w _ => w.extractLsb' 0 6 == 0#6, fun w x => .stfeExt (cHdr w) (w.extractLsb' 11 5) (w.extractLsb' 6 5) (x.extractLsb' 0 32)⟩) _ (cWord_long _ _ _ _) (cWord_op _ _ _ _) ?hf ?hb hw
  case hf =>
    iterate 9 refine l_op (by rfl) ?_
    refine l_hit (by rfl) ?_
    simp (disch := decide) only [cWord_bits, cWord_bit, ext_hi, ext_lo, ext_all, bit_hi, bit_lo, bit_bool, Nat.reduceSub] <;> rfl
  case hb => simp (disch := decide) only [ownRowFix, cWord_hdr, cWord_bits, cWord_bit, ext_hi, ext_lo, ext_all, bit_hi, bit_lo, bit_bool, Nat.reduceSub]

theorem stf h a b o : RoundTrip.Statement (.stf h a b o) := by
  intro hw code hc
  cases hc
  refine c_find (r := ⟨0x47#8, fun w => w.extractLsb' 3 3 == 0#3, fun w => .stf (cHdr w) (w.extractLsb' 11 5) (w.extractLsb' 6 5) (w.extractLsb' 0 3)⟩) _ (cWord_long _ _ _ _) (cWord_op _ _ _ _) ?hf ?hb hw
  case hf =>
    iterate 34 refine c_op (by rfl) ?_
    refine c_hit (by rfl) ?_
    simp (disch := decide) only [cWord_bits, cWord_bit, ext_hi, ext_lo, ext_all, bit_hi, bit_lo, bit_bool, Nat.reduceSub] <;> rfl
  case hb => simp (disch := decide) only [cWord_hdr, cWord_bits, cWord_bit, ext_hi, ext_lo, ext_all, bit_hi, bit_lo, bit_bool, Nat.reduceSub]

theorem stfExt h a b off : RoundTrip.Statement (.stfExt h a b off) := by
  intro hw code hc
  cases hc
  refine l_find (r := ⟨0x47#8, fun w _ => w.extractLsb' 0 6 == 0#6, fun w x => .stfExt (cHdr w) (w.extractLsb' 11 5) (w.extractLsb' 6 5) (x.extractLsb' 0 32)⟩) _ (cWord_long _ _ _ _) (cWord_op _ _ _ _) ?hf ?hb hw
  case hf =>
    iterate 10 refine l_op (by rfl) ?_
    refine l_hit (by rfl) ?_
    simp (disch := decide) only [cWord_bits, cWord_bit, ext_hi, ext_lo, ext_all, bit_hi, bit_lo, bit_bool, Nat.reduceSub] <;> rfl
  case hb => simp (disch := decide) only [ownRowFix, cWord_hdr, cWord_bits, cWord_bit, ext_hi, ext_lo, ext_all, bit_hi, bit_lo, bit_bool, Nat.reduceSub]

theorem lat h a b c x w op : RoundTrip.Statement (.lat h a b c x w op) := by
  intro hw code hc
  cases hc
  refine l_find (r := ⟨0x48#8, fun _ x => x.extractLsb' 6 26 == 0#26, fun w x => .lat (cHdr w) (w.extractLsb' 11 5) (w.extractLsb' 6 5) (w.extractLsb' 1 5) (w.getLsbD 0) (x.extractLsb' 4 2) (x.extractLsb' 0 4)⟩) _ (cWord_long _ _ _ _) (cWord_op _ _ _ _) ?hf ?hb hw
  case hf =>
    iterate 11 refine l_op (by rfl) ?_
    refine l_hit (by rfl) ?_
    simp (disch := decide) only [cWord_bits, cWord_bit, ext_hi, ext_lo, ext_all, bit_hi, bit_lo, bit_bool, Nat.reduceSub] <;> rfl
  case hb => simp (disch := decide) only [ownRowFix, cWord_hdr, cWord_bits, cWord_bit, ext_hi, ext_lo, ext_all, bit_hi, bit_lo, bit_bool, Nat.reduceSub]

theorem tld h a t ch need hnd he stride : RoundTrip.Statement (.tld h a t ch need hnd he stride) := by
  intro hw code hc
  cases hc
  refine l_find (r := ⟨0x49#8, fun w x => w.extractLsb' 3 4 == 0#4 && x.extractLsb' 25 7 == 0#7, fun w x => .tld (cHdr w) (w.extractLsb' 11 5) (w.extractLsb' 7 4) (w.extractLsb' 0 3) (x.extractLsb' 21 4) (x.extractLsb' 17 4) (x.getLsbD 16) (x.extractLsb' 0 16)⟩) _ (cWord_long _ _ _ _) (cWord_op _ _ _ _) ?hf ?hb hw
  case hf =>
    iterate 12 refine l_op (by rfl) ?_
    refine l_hit (by rfl) ?_
    simp (disch := decide) only [cWord_bits, cWord_bit, ext_hi, ext_lo, ext_all, bit_hi, bit_lo, bit_bool, Nat.reduceSub] <;> rfl
  case hb => simp (disch := decide) only [ownRowFix, cWord_hdr, cWord_bits, cWord_bit, ext_hi, ext_lo, ext_all, bit_hi, bit_lo, bit_bool, Nat.reduceSub]

theorem tst h a t ch need hnd he stride : RoundTrip.Statement (.tst h a t ch need hnd he stride) := by
  intro hw code hc
  cases hc
  refine l_find (r := ⟨0x4A#8, fun w x => w.extractLsb' 3 4 == 0#4 && x.extractLsb' 25 7 == 0#7, fun w x => .tst (cHdr w) (w.extractLsb' 11 5) (w.extractLsb' 7 4) (w.extractLsb' 0 3) (x.extractLsb' 21 4) (x.extractLsb' 17 4) (x.getLsbD 16) (x.extractLsb' 0 16)⟩) _ (cWord_long _ _ _ _) (cWord_op _ _ _ _) ?hf ?hb hw
  case hf =>
    iterate 13 refine l_op (by rfl) ?_
    refine l_hit (by rfl) ?_
    simp (disch := decide) only [cWord_bits, cWord_bit, ext_hi, ext_lo, ext_all, bit_hi, bit_lo, bit_bool, Nat.reduceSub] <;> rfl
  case hb => simp (disch := decide) only [ownRowFix, cWord_hdr, cWord_bits, cWord_bit, ext_hi, ext_lo, ext_all, bit_hi, bit_lo, bit_bool, Nat.reduceSub]

theorem accrd h t d v r : RoundTrip.Statement (.accrd h t d v r) := by
  intro hw code hc
  cases hc
  refine c_find (r := ⟨0x4B#8, fun w => w.extractLsb' 11 1 == 0#1 && w.extractLsb' 4 4 == 0#4, fun w => .accrd (cHdr w) (w.extractLsb' 12 4) (w.extractLsb' 8 3) (w.getLsbD 3) (w.extractLsb' 0 3)⟩) _ (cWord_long _ _ _ _) (cWord_op _ _ _ _) ?hf ?hb hw
  case hf =>
    iterate 35 refine c_op (by rfl) ?_
    refine c_hit (by rfl) ?_
    simp (disch := decide) only [cWord_bits, cWord_bit, ext_hi, ext_lo, ext_all, bit_hi, bit_lo, bit_bool, Nat.reduceSub] <;> rfl
  case hb => simp (disch := decide) only [cWord_hdr, cWord_bits, cWord_bit, ext_hi, ext_lo, ext_all, bit_hi, bit_lo, bit_bool, Nat.reduceSub]

theorem accwr h d t : RoundTrip.Statement (.accwr h d t) := by
  intro hw code hc
  cases hc
  refine c_find (r := ⟨0x4C#8, fun w => w.extractLsb' 15 1 == 0#1 && w.extractLsb' 0 8 == 0#8, fun w => .accwr (cHdr w) (w.extractLsb' 12 3) (w.extractLsb' 8 4)⟩) _ (cWord_long _ _ _ _) (cWord_op _ _ _ _) ?hf ?hb hw
  case hf =>
    iterate 36 refine c_op (by rfl) ?_
    refine c_hit (by rfl) ?_
    simp (disch := decide) only [cWord_bits, cWord_bit, ext_hi, ext_lo, ext_all, bit_hi, bit_lo, bit_bool, Nat.reduceSub] <;> rfl
  case hb => simp (disch := decide) only [cWord_hdr, cWord_bits, cWord_bit, ext_hi, ext_lo, ext_all, bit_hi, bit_lo, bit_bool, Nat.reduceSub]

theorem accwrAdd h d t : RoundTrip.Statement (.accwrAdd h d t) := by
  intro hw code hc
  cases hc
  refine c_find (r := ⟨0x4C#8, fun w => w.extractLsb' 15 1 == 0#1 && w.extractLsb' 0 8 == 1#8, fun w => .accwrAdd (cHdr w) (w.extractLsb' 12 3) (w.extractLsb' 8 4)⟩) _ (cWord_long _ _ _ _) (cWord_op _ _ _ _) ?hf ?hb hw
  case hf =>
    iterate 36 refine c_op (by rfl) ?_
    refine c_no ?_ ?_
    · simp (disch := decide) only [cWord_bits, cWord_bit, ext_hi, ext_lo, ext_all, bit_hi, bit_lo, bit_bool, Nat.reduceSub] <;> rfl
    refine c_hit (by rfl) ?_
    simp (disch := decide) only [cWord_bits, cWord_bit, ext_hi, ext_lo, ext_all, bit_hi, bit_lo, bit_bool, Nat.reduceSub] <;> rfl
  case hb => simp (disch := decide) only [cWord_hdr, cWord_bits, cWord_bit, ext_hi, ext_lo, ext_all, bit_hi, bit_lo, bit_bool, Nat.reduceSub]

theorem xld h a b c x ch len : RoundTrip.Statement (.xld h a b c x ch len) := by
  intro hw code hc
  cases hc
  refine l_find (r := ⟨0x4D#8, fun _ x => x.extractLsb' 12 20 == 0#20, fun w x => .xld (cHdr w) (w.extractLsb' 11 5) (w.extractLsb' 6 5) (w.extractLsb' 1 5) (w.getLsbD 0) (x.extractLsb' 9 3) (x.extractLsb' 0 9)⟩) _ (cWord_long _ _ _ _) (cWord_op _ _ _ _) ?hf ?hb hw
  case hf =>
    iterate 14 refine l_op (by rfl) ?_
    refine l_hit (by rfl) ?_
    simp (disch := decide) only [cWord_bits, cWord_bit, ext_hi, ext_lo, ext_all, bit_hi, bit_lo, bit_bool, Nat.reduceSub] <;> rfl
  case hb => simp (disch := decide) only [ownRowFix, cWord_hdr, cWord_bits, cWord_bit, ext_hi, ext_lo, ext_all, bit_hi, bit_lo, bit_bool, Nat.reduceSub]

theorem xst h a b c x ch len : RoundTrip.Statement (.xst h a b c x ch len) := by
  intro hw code hc
  cases hc
  refine l_find (r := ⟨0x4E#8, fun _ x => x.extractLsb' 12 20 == 0#20, fun w x => .xst (cHdr w) (w.extractLsb' 11 5) (w.extractLsb' 6 5) (w.extractLsb' 1 5) (w.getLsbD 0) (x.extractLsb' 9 3) (x.extractLsb' 0 9)⟩) _ (cWord_long _ _ _ _) (cWord_op _ _ _ _) ?hf ?hb hw
  case hf =>
    iterate 15 refine l_op (by rfl) ?_
    refine l_hit (by rfl) ?_
    simp (disch := decide) only [cWord_bits, cWord_bit, ext_hi, ext_lo, ext_all, bit_hi, bit_lo, bit_bool, Nat.reduceSub] <;> rfl
  case hb => simp (disch := decide) only [ownRowFix, cWord_hdr, cWord_bits, cWord_bit, ext_hi, ext_lo, ext_all, bit_hi, bit_lo, bit_bool, Nat.reduceSub]

theorem xat h a b c x pk w op : RoundTrip.Statement (.xat h a b c x pk w op) := by
  intro hw code hc
  cases hc
  refine l_find (r := ⟨0x4F#8, fun _ x => x.extractLsb' 7 25 == 0#25, fun w x => .xat (cHdr w) (w.extractLsb' 11 5) (w.extractLsb' 6 5) (w.extractLsb' 1 5) (w.getLsbD 0) (x.getLsbD 6) (x.extractLsb' 4 2) (x.extractLsb' 0 4)⟩) _ (cWord_long _ _ _ _) (cWord_op _ _ _ _) ?hf ?hb hw
  case hf =>
    iterate 16 refine l_op (by rfl) ?_
    refine l_hit (by rfl) ?_
    simp (disch := decide) only [cWord_bits, cWord_bit, ext_hi, ext_lo, ext_all, bit_hi, bit_lo, bit_bool, Nat.reduceSub] <;> rfl
  case hb => simp (disch := decide) only [ownRowFix, cWord_hdr, cWord_bits, cWord_bit, ext_hi, ext_lo, ext_all, bit_hi, bit_lo, bit_bool, Nat.reduceSub]

theorem xatr h a b c x pk w op : RoundTrip.Statement (.xatr h a b c x pk w op) := by
  intro hw code hc
  cases hc
  refine l_find (r := ⟨0x50#8, fun _ x => x.extractLsb' 7 25 == 0#25, fun w x => .xatr (cHdr w) (w.extractLsb' 11 5) (w.extractLsb' 6 5) (w.extractLsb' 1 5) (w.getLsbD 0) (x.getLsbD 6) (x.extractLsb' 4 2) (x.extractLsb' 0 4)⟩) _ (cWord_long _ _ _ _) (cWord_op _ _ _ _) ?hf ?hb hw
  case hf =>
    iterate 17 refine l_op (by rfl) ?_
    refine l_hit (by rfl) ?_
    simp (disch := decide) only [cWord_bits, cWord_bit, ext_hi, ext_lo, ext_all, bit_hi, bit_lo, bit_bool, Nat.reduceSub] <;> rfl
  case hb => simp (disch := decide) only [ownRowFix, cWord_hdr, cWord_bits, cWord_bit, ext_hi, ext_lo, ext_all, bit_hi, bit_lo, bit_bool, Nat.reduceSub]

theorem cpy h a b c x aw nest ne ch : RoundTrip.Statement (.cpy h a b c x aw nest ne ch) := by
  intro hw code hc
  cases hc
  refine l_find (r := ⟨0x51#8, fun _ x => x.extractLsb' 8 24 == 0#24, fun w x => .cpy (cHdr w) (w.extractLsb' 11 5) (w.extractLsb' 6 5) (w.extractLsb' 1 5) (w.getLsbD 0) (x.getLsbD 7) (x.extractLsb' 4 3) (x.getLsbD 3) (x.extractLsb' 0 3)⟩) _ (cWord_long _ _ _ _) (cWord_op _ _ _ _) ?hf ?hb hw
  case hf =>
    iterate 18 refine l_op (by rfl) ?_
    refine l_hit (by rfl) ?_
    simp (disch := decide) only [cWord_bits, cWord_bit, ext_hi, ext_lo, ext_all, bit_hi, bit_lo, bit_bool, Nat.reduceSub] <;> rfl
  case hb => simp (disch := decide) only [ownRowFix, cWord_hdr, cWord_bits, cWord_bit, ext_hi, ext_lo, ext_all, bit_hi, bit_lo, bit_bool, Nat.reduceSub]

theorem cpyd h a b c x core mb me dt nest ne ch : RoundTrip.Statement (.cpyd h a b c x core mb me dt nest ne ch) := by
  intro hw code hc
  cases hc
  refine l_find (r := ⟨0x52#8, fun _ x => x.extractLsb' 10 6 == 0#6 && x.extractLsb' 7 1 == 0#1, fun w x => .cpyd (cHdr w) (w.extractLsb' 11 5) (w.extractLsb' 6 5) (w.extractLsb' 1 5) (w.getLsbD 0) (x.extractLsb' 21 11) (x.extractLsb' 17 4) (x.getLsbD 16) (x.extractLsb' 8 2) (x.extractLsb' 4 3) (x.getLsbD 3) (x.extractLsb' 0 3)⟩) _ (cWord_long _ _ _ _) (cWord_op _ _ _ _) ?hf ?hb hw
  case hf =>
    iterate 19 refine l_op (by rfl) ?_
    refine l_hit (by rfl) ?_
    simp (disch := decide) only [cWord_bits, cWord_bit, ext_hi, ext_lo, ext_all, bit_hi, bit_lo, bit_bool, Nat.reduceSub] <;> rfl
  case hb => simp (disch := decide) only [ownRowFix, cWord_hdr, cWord_bits, cWord_bit, ext_hi, ext_lo, ext_all, bit_hi, bit_lo, bit_bool, Nat.reduceSub]

theorem ndld h a k : RoundTrip.Statement (.ndld h a k) := by
  intro hw code hc
  cases hc
  refine c_find (r := ⟨0x53#8, fun w => w.extractLsb' 10 1 == 0#1 && w.extractLsb' 0 7 == 0#7, fun w => .ndld (cHdr w) (w.extractLsb' 11 5) (w.extractLsb' 7 3)⟩) _ (cWord_long _ _ _ _) (cWord_op _ _ _ _) ?hf ?hb hw
  case hf =>
    iterate 38 refine c_op (by rfl) ?_
    refine c_hit (by rfl) ?_
    simp (disch := decide) only [cWord_bits, cWord_bit, ext_hi, ext_lo, ext_all, bit_hi, bit_lo, bit_bool, Nat.reduceSub] <;> rfl
  case hb => simp (disch := decide) only [cWord_hdr, cWord_bits, cWord_bit, ext_hi, ext_lo, ext_all, bit_hi, bit_lo, bit_bool, Nat.reduceSub]

theorem fenceAcq h k : RoundTrip.Statement (.fenceAcq h k) := by
  intro hw code hc
  cases hc
  refine c_find (r := ⟨0x54#8, fun w => w.extractLsb' 0 12 == 0#12, fun w => .fenceAcq (cHdr w) (w.extractLsb' 12 4)⟩) _ (cWord_long _ _ _ _) (cWord_op _ _ _ _) ?hf ?hb hw
  case hf =>
    iterate 39 refine c_op (by rfl) ?_
    refine c_hit (by rfl) ?_
    simp (disch := decide) only [cWord_bits, cWord_bit, ext_hi, ext_lo, ext_all, bit_hi, bit_lo, bit_bool, Nat.reduceSub] <;> rfl
  case hb => simp (disch := decide) only [cWord_hdr, cWord_bits, cWord_bit, ext_hi, ext_lo, ext_all, bit_hi, bit_lo, bit_bool, Nat.reduceSub]

theorem fenceRel h k : RoundTrip.Statement (.fenceRel h k) := by
  intro hw code hc
  cases hc
  refine c_find (r := ⟨0x54#8, fun w => w.extractLsb' 0 12 == 1#12, fun w => .fenceRel (cHdr w) (w.extractLsb' 12 4)⟩) _ (cWord_long _ _ _ _) (cWord_op _ _ _ _) ?hf ?hb hw
  case hf =>
    iterate 39 refine c_op (by rfl) ?_
    refine c_no ?_ ?_
    · simp (disch := decide) only [cWord_bits, cWord_bit, ext_hi, ext_lo, ext_all, bit_hi, bit_lo, bit_bool, Nat.reduceSub] <;> rfl
    refine c_hit (by rfl) ?_
    simp (disch := decide) only [cWord_bits, cWord_bit, ext_hi, ext_lo, ext_all, bit_hi, bit_lo, bit_bool, Nat.reduceSub] <;> rfl
  case hb => simp (disch := decide) only [cWord_hdr, cWord_bits, cWord_bit, ext_hi, ext_lo, ext_all, bit_hi, bit_lo, bit_bool, Nat.reduceSub]

theorem fenceFull h k : RoundTrip.Statement (.fenceFull h k) := by
  intro hw code hc
  cases hc
  refine c_find (r := ⟨0x54#8, fun w => w.extractLsb' 0 12 == 2#12, fun w => .fenceFull (cHdr w) (w.extractLsb' 12 4)⟩) _ (cWord_long _ _ _ _) (cWord_op _ _ _ _) ?hf ?hb hw
  case hf =>
    iterate 39 refine c_op (by rfl) ?_
    refine c_no ?_ ?_
    · simp (disch := decide) only [cWord_bits, cWord_bit, ext_hi, ext_lo, ext_all, bit_hi, bit_lo, bit_bool, Nat.reduceSub] <;> rfl
    refine c_no ?_ ?_
    · simp (disch := decide) only [cWord_bits, cWord_bit, ext_hi, ext_lo, ext_all, bit_hi, bit_lo, bit_bool, Nat.reduceSub] <;> rfl
    refine c_hit (by rfl) ?_
    simp (disch := decide) only [cWord_bits, cWord_bit, ext_hi, ext_lo, ext_all, bit_hi, bit_lo, bit_bool, Nat.reduceSub] <;> rfl
  case hb => simp (disch := decide) only [cWord_hdr, cWord_bits, cWord_bit, ext_hi, ext_lo, ext_all, bit_hi, bit_lo, bit_bool, Nat.reduceSub]

theorem fenceExt h : RoundTrip.Statement (.fenceExt h) := by
  intro hw code hc
  cases hc
  refine c_find (r := ⟨0x54#8, fun w => w.extractLsb' 0 16 == 4099#16, fun w => .fenceExt (cHdr w)⟩) _ (cWord_long _ _ _ _) (cWord_op _ _ _ _) ?hf ?hb hw
  case hf =>
    iterate 39 refine c_op (by rfl) ?_
    refine c_no ?_ ?_
    · simp (disch := decide) only [cWord_bits, cWord_bit, ext_hi, ext_lo, ext_all, bit_hi, bit_lo, bit_bool, Nat.reduceSub] <;> rfl
    refine c_no ?_ ?_
    · simp (disch := decide) only [cWord_bits, cWord_bit, ext_hi, ext_lo, ext_all, bit_hi, bit_lo, bit_bool, Nat.reduceSub] <;> rfl
    refine c_no ?_ ?_
    · simp (disch := decide) only [cWord_bits, cWord_bit, ext_hi, ext_lo, ext_all, bit_hi, bit_lo, bit_bool, Nat.reduceSub] <;> rfl
    refine c_hit (by rfl) ?_
    simp (disch := decide) only [cWord_bits, cWord_bit, ext_hi, ext_lo, ext_all, bit_hi, bit_lo, bit_bool, Nat.reduceSub] <;> rfl
  case hb => simp (disch := decide) only [cWord_hdr, cWord_bits, cWord_bit, ext_hi, ext_lo, ext_all, bit_hi, bit_lo, bit_bool, Nat.reduceSub]

theorem mma h k a b r : RoundTrip.Statement (.mma h k a b r) := by
  intro hw code hc
  cases hc
  refine c_find (r := ⟨0x80#8, fun w => w.extractLsb' 15 1 == 0#1 && w.extractLsb' 3 1 == 0#1, fun w => .mma (cHdr w) (w.extractLsb' 12 3) (w.extractLsb' 8 4) (w.extractLsb' 4 4) (w.extractLsb' 0 3)⟩) _ (cWord_long _ _ _ _) (cWord_op _ _ _ _) ?hf ?hb hw
  case hf =>
    iterate 43 refine c_op (by rfl) ?_
    refine c_hit (by rfl) ?_
    simp (disch := decide) only [cWord_bits, cWord_bit, ext_hi, ext_lo, ext_all, bit_hi, bit_lo, bit_bool, Nat.reduceSub] <;> rfl
  case hb => simp (disch := decide) only [cWord_hdr, cWord_bits, cWord_bit, ext_hi, ext_lo, ext_all, bit_hi, bit_lo, bit_bool, Nat.reduceSub]

theorem mmaX h k a b r : RoundTrip.Statement (.mmaX h k a b r) := by
  intro hw code hc
  cases hc
  refine c_find (r := ⟨0x80#8, fun w => w.extractLsb' 15 1 == 0#1 && w.extractLsb' 3 1 == 1#1, fun w => .mmaX (cHdr w) (w.extractLsb' 12 3) (w.extractLsb' 8 4) (w.extractLsb' 4 4) (w.extractLsb' 0 3)⟩) _ (cWord_long _ _ _ _) (cWord_op _ _ _ _) ?hf ?hb hw
  case hf =>
    iterate 43 refine c_op (by rfl) ?_
    refine c_no ?_ ?_
    · simp (disch := decide) only [cWord_bits, cWord_bit, ext_hi, ext_lo, ext_all, bit_hi, bit_lo, bit_bool, Nat.reduceSub] <;> rfl
    refine c_hit (by rfl) ?_
    simp (disch := decide) only [cWord_bits, cWord_bit, ext_hi, ext_lo, ext_all, bit_hi, bit_lo, bit_bool, Nat.reduceSub] <;> rfl
  case hb => simp (disch := decide) only [cWord_hdr, cWord_bits, cWord_bit, ext_hi, ext_lo, ext_all, bit_hi, bit_lo, bit_bool, Nat.reduceSub]

theorem mmar h a b c x k ta tb v r : RoundTrip.Statement (.mmar h a b c x k ta tb v r) := by
  intro hw code hc
  cases hc
  refine l_find (r := ⟨0x81#8, fun _ x => x.extractLsb' 15 17 == 0#17, fun w x => .mmar (cHdr w) (w.extractLsb' 11 5) (w.extractLsb' 6 5) (w.extractLsb' 1 5) (w.getLsbD 0) (x.extractLsb' 12 3) (x.extractLsb' 8 4) (x.extractLsb' 4 4) (x.getLsbD 3) (x.extractLsb' 0 3)⟩) _ (cWord_long _ _ _ _) (cWord_op _ _ _ _) ?hf ?hb hw
  case hf =>
    iterate 20 refine l_op (by rfl) ?_
    refine l_hit (by rfl) ?_
    simp (disch := decide) only [cWord_bits, cWord_bit, ext_hi, ext_lo, ext_all, bit_hi, bit_lo, bit_bool, Nat.reduceSub] <;> rfl
  case hb => simp (disch := decide) only [ownRowFix, cWord_hdr, cWord_bits, cWord_bit, ext_hi, ext_lo, ext_all, bit_hi, bit_lo, bit_bool, Nat.reduceSub]

theorem accz h k : RoundTrip.Statement (.accz h k) := by
  intro hw code hc
  cases hc
  refine c_find (r := ⟨0x82#8, fun w => w.extractLsb' 15 1 == 0#1 && w.extractLsb' 0 12 == 0#12, fun w => .accz (cHdr w) (w.extractLsb' 12 3)⟩) _ (cWord_long _ _ _ _) (cWord_op _ _ _ _) ?hf ?hb hw
  case hf =>
    iterate 45 refine c_op (by rfl) ?_
    refine c_hit (by rfl) ?_
    simp (disch := decide) only [cWord_bits, cWord_bit, ext_hi, ext_lo, ext_all, bit_hi, bit_lo, bit_bool, Nat.reduceSub] <;> rfl
  case hb => simp (disch := decide) only [cWord_hdr, cWord_bits, cWord_bit, ext_hi, ext_lo, ext_all, bit_hi, bit_lo, bit_bool, Nat.reduceSub]

theorem accxSend h a k tag : RoundTrip.Statement (.accxSend h a k tag) := by
  intro hw code hc
  cases hc
  refine l_find (r := ⟨0x83#8, fun w _ => w.extractLsb' 10 1 == 0#1 && w.extractLsb' 0 7 == 0#7, fun w x => .accxSend (cHdr w) (w.extractLsb' 11 5) (w.extractLsb' 7 3) (x.extractLsb' 0 32)⟩) _ (cWord_long _ _ _ _) (cWord_op _ _ _ _) ?hf ?hb hw
  case hf =>
    iterate 21 refine l_op (by rfl) ?_
    refine l_hit (by rfl) ?_
    simp (disch := decide) only [cWord_bits, cWord_bit, ext_hi, ext_lo, ext_all, bit_hi, bit_lo, bit_bool, Nat.reduceSub] <;> rfl
  case hb => simp (disch := decide) only [ownRowFix, cWord_hdr, cWord_bits, cWord_bit, ext_hi, ext_lo, ext_all, bit_hi, bit_lo, bit_bool, Nat.reduceSub]

theorem accxOpen h a k tag : RoundTrip.Statement (.accxOpen h a k tag) := by
  intro hw code hc
  cases hc
  refine l_find (r := ⟨0x83#8, fun w _ => w.extractLsb' 10 1 == 0#1 && w.extractLsb' 5 2 == 0#2 && w.extractLsb' 3 2 == 1#2 && w.extractLsb' 0 3 == 0#3, fun w x => .accxOpen (cHdr w) (w.extractLsb' 11 5) (w.extractLsb' 7 3) (x.extractLsb' 0 32)⟩) _ (cWord_long _ _ _ _) (cWord_op _ _ _ _) ?hf ?hb hw
  case hf =>
    iterate 21 refine l_op (by rfl) ?_
    refine l_no ?_ ?_
    · simp (disch := decide) only [cWord_bits, cWord_bit, ext_hi, ext_lo, ext_all, bit_hi, bit_lo, bit_bool, Nat.reduceSub] <;> (first | rfl | (clear hw; revert a k; decide))
    refine l_hit (by rfl) ?_
    simp (disch := decide) only [cWord_bits, cWord_bit, ext_hi, ext_lo, ext_all, bit_hi, bit_lo, bit_bool, Nat.reduceSub] <;> (first | rfl | (clear hw; revert a k; decide))
  case hb => simp (disch := decide) only [ownRowFix, cWord_hdr, cWord_bits, cWord_bit, ext_hi, ext_lo, ext_all, bit_hi, bit_lo, bit_bool, Nat.reduceSub]

theorem accxClose h k r : RoundTrip.Statement (.accxClose h k r) := by
  intro hw code hc
  cases hc
  refine l_find (r := ⟨0x83#8, fun w x => w.extractLsb' 10 6 == 0#6 && w.extractLsb' 5 2 == 0#2 && w.extractLsb' 3 2 == 2#2 && x.extractLsb' 0 32 == 0#32, fun w _ => .accxClose (cHdr w) (w.extractLsb' 7 3) (w.extractLsb' 0 3)⟩) _ (cWord_long _ _ _ _) (cWord_op _ _ _ _) ?hf ?hb hw
  case hf =>
    iterate 21 refine l_op (by rfl) ?_
    refine l_no ?_ ?_
    · simp (disch := decide) only [cWord_bits, cWord_bit, ext_hi, ext_lo, ext_all, bit_hi, bit_lo, bit_bool, Nat.reduceSub] <;> (first | rfl | (clear hw; revert k r; decide))
    refine l_no ?_ ?_
    · simp (disch := decide) only [cWord_bits, cWord_bit, ext_hi, ext_lo, ext_all, bit_hi, bit_lo, bit_bool, Nat.reduceSub] <;> (first | rfl | (clear hw; revert k r; decide))
    refine l_hit (by rfl) ?_
    simp (disch := decide) only [cWord_bits, cWord_bit, ext_hi, ext_lo, ext_all, bit_hi, bit_lo, bit_bool, Nat.reduceSub] <;> (first | rfl | (clear hw; revert k r; decide))
  case hb => simp (disch := decide) only [ownRowFix, cWord_hdr, cWord_bits, cWord_bit, ext_hi, ext_lo, ext_all, bit_hi, bit_lo, bit_bool, Nat.reduceSub]

theorem send h a b c x tag : RoundTrip.Statement (.send h a b c x tag) := by
  intro hw code hc
  cases hc
  refine l_find (r := ⟨0x84#8, fun _ _ => true, fun w x => .send (cHdr w) (w.extractLsb' 11 5) (w.extractLsb' 6 5) (w.extractLsb' 1 5) (w.getLsbD 0) (x.extractLsb' 0 32)⟩) _ (cWord_long _ _ _ _) (cWord_op _ _ _ _) ?hf ?hb hw
  case hf =>
    iterate 24 refine l_op (by rfl) ?_
    refine l_hit (by rfl) ?_
    simp (disch := decide) only [cWord_bits, cWord_bit, ext_hi, ext_lo, ext_all, bit_hi, bit_lo, bit_bool, Nat.reduceSub] <;> rfl
  case hb => simp (disch := decide) only [ownRowFix, cWord_hdr, cWord_bits, cWord_bit, ext_hi, ext_lo, ext_all, bit_hi, bit_lo, bit_bool, Nat.reduceSub]

theorem sendp h a b c x fin tag : RoundTrip.Statement (.sendp h a b c x fin tag) := by
  intro hw code hc
  cases hc
  refine l_find (r := ⟨0x85#8, fun _ _ => true, fun w x => .sendp (cHdr w) (w.extractLsb' 11 5) (w.extractLsb' 6 5) (w.extractLsb' 1 5) (w.getLsbD 0) (x.getLsbD 31) (x.extractLsb' 0 31)⟩) _ (cWord_long _ _ _ _) (cWord_op _ _ _ _) ?hf ?hb hw
  case hf =>
    iterate 25 refine l_op (by rfl) ?_
    refine l_hit (by rfl) ?_
    simp (disch := decide) only [cWord_bits, cWord_bit, ext_hi, ext_lo, ext_all, bit_hi, bit_lo, bit_bool, Nat.reduceSub] <;> rfl
  case hb => simp (disch := decide) only [ownRowFix, cWord_hdr, cWord_bits, cWord_bit, ext_hi, ext_lo, ext_all, bit_hi, bit_lo, bit_bool, Nat.reduceSub]

theorem sendx h a b c x tag : RoundTrip.Statement (.sendx h a b c x tag) := by
  intro hw code hc
  cases hc
  refine l_find (r := ⟨0x86#8, fun _ _ => true, fun w x => .sendx (cHdr w) (w.extractLsb' 11 5) (w.extractLsb' 6 5) (w.extractLsb' 1 5) (w.getLsbD 0) (x.extractLsb' 0 32)⟩) _ (cWord_long _ _ _ _) (cWord_op _ _ _ _) ?hf ?hb hw
  case hf =>
    iterate 26 refine l_op (by rfl) ?_
    refine l_hit (by rfl) ?_
    simp (disch := decide) only [cWord_bits, cWord_bit, ext_hi, ext_lo, ext_all, bit_hi, bit_lo, bit_bool, Nat.reduceSub] <;> rfl
  case hb => simp (disch := decide) only [ownRowFix, cWord_hdr, cWord_bits, cWord_bit, ext_hi, ext_lo, ext_all, bit_hi, bit_lo, bit_bool, Nat.reduceSub]

theorem recv h a b c x tag : RoundTrip.Statement (.recv h a b c x tag) := by
  intro hw code hc
  cases hc
  refine l_find (r := ⟨0x87#8, fun _ _ => true, fun w x => .recv (cHdr w) (w.extractLsb' 11 5) (w.extractLsb' 6 5) (w.extractLsb' 1 5) (w.getLsbD 0) (x.extractLsb' 0 32)⟩) _ (cWord_long _ _ _ _) (cWord_op _ _ _ _) ?hf ?hb hw
  case hf =>
    iterate 27 refine l_op (by rfl) ?_
    refine l_hit (by rfl) ?_
    simp (disch := decide) only [cWord_bits, cWord_bit, ext_hi, ext_lo, ext_all, bit_hi, bit_lo, bit_bool, Nat.reduceSub] <;> rfl
  case hb => simp (disch := decide) only [ownRowFix, cWord_hdr, cWord_bits, cWord_bit, ext_hi, ext_lo, ext_all, bit_hi, bit_lo, bit_bool, Nat.reduceSub]

theorem probe h a b c x tag : RoundTrip.Statement (.probe h a b c x tag) := by
  intro hw code hc
  cases hc
  refine l_find (r := ⟨0x88#8, fun _ _ => true, fun w x => .probe (cHdr w) (w.extractLsb' 11 5) (w.extractLsb' 6 5) (w.extractLsb' 1 5) (w.getLsbD 0) (x.extractLsb' 0 32)⟩) _ (cWord_long _ _ _ _) (cWord_op _ _ _ _) ?hf ?hb hw
  case hf =>
    iterate 28 refine l_op (by rfl) ?_
    refine l_hit (by rfl) ?_
    simp (disch := decide) only [cWord_bits, cWord_bit, ext_hi, ext_lo, ext_all, bit_hi, bit_lo, bit_bool, Nat.reduceSub] <;> rfl
  case hb => simp (disch := decide) only [ownRowFix, cWord_hdr, cWord_bits, cWord_bit, ext_hi, ext_lo, ext_all, bit_hi, bit_lo, bit_bool, Nat.reduceSub]

theorem cancel h a b : RoundTrip.Statement (.cancel h a b) := by
  intro hw code hc
  cases hc
  refine c_find (r := ⟨0x89#8, fun w => w.extractLsb' 0 6 == 0#6, fun w => .cancel (cHdr w) (w.extractLsb' 11 5) (w.extractLsb' 6 5)⟩) _ (cWord_long _ _ _ _) (cWord_op _ _ _ _) ?hf ?hb hw
  case hf =>
    iterate 46 refine c_op (by rfl) ?_
    refine c_hit (by rfl) ?_
    simp (disch := decide) only [cWord_bits, cWord_bit, ext_hi, ext_lo, ext_all, bit_hi, bit_lo, bit_bool, Nat.reduceSub] <;> rfl
  case hb => simp (disch := decide) only [cWord_hdr, cWord_bits, cWord_bit, ext_hi, ext_lo, ext_all, bit_hi, bit_lo, bit_bool, Nat.reduceSub]

theorem mcast h a b c x mb tag : RoundTrip.Statement (.mcast h a b c x mb tag) := by
  intro hw code hc
  cases hc
  refine l_find (r := ⟨0x8A#8, fun _ _ => true, fun w x => .mcast (cHdr w) (w.extractLsb' 11 5) (w.extractLsb' 6 5) (w.extractLsb' 1 5) (w.getLsbD 0) (x.extractLsb' 28 4) (x.extractLsb' 0 28)⟩) _ (cWord_long _ _ _ _) (cWord_op _ _ _ _) ?hf ?hb hw
  case hf =>
    iterate 29 refine l_op (by rfl) ?_
    refine l_hit (by rfl) ?_
    simp (disch := decide) only [cWord_bits, cWord_bit, ext_hi, ext_lo, ext_all, bit_hi, bit_lo, bit_bool, Nat.reduceSub] <;> rfl
  case hb => simp (disch := decide) only [ownRowFix, cWord_hdr, cWord_bits, cWord_bit, ext_hi, ext_lo, ext_all, bit_hi, bit_lo, bit_bool, Nat.reduceSub]

theorem free h a b : RoundTrip.Statement (.free h a b) := by
  intro hw code hc
  cases hc
  refine c_find (r := ⟨0x8B#8, fun w => w.extractLsb' 0 6 == 0#6, fun w => .free (cHdr w) (w.extractLsb' 11 5) (w.extractLsb' 6 5)⟩) _ (cWord_long _ _ _ _) (cWord_op _ _ _ _) ?hf ?hb hw
  case hf =>
    iterate 47 refine c_op (by rfl) ?_
    refine c_hit (by rfl) ?_
    simp (disch := decide) only [cWord_bits, cWord_bit, ext_hi, ext_lo, ext_all, bit_hi, bit_lo, bit_bool, Nat.reduceSub] <;> rfl
  case hb => simp (disch := decide) only [cWord_hdr, cWord_bits, cWord_bit, ext_hi, ext_lo, ext_all, bit_hi, bit_lo, bit_bool, Nat.reduceSub]

theorem ringCw h a b : RoundTrip.Statement (.ringCw h a b) := by
  intro hw code hc
  cases hc
  refine c_find (r := ⟨0x8C#8, fun w => w.extractLsb' 0 8 == 0#8, fun w => .ringCw (cHdr w) (w.extractLsb' 12 4) (w.extractLsb' 8 4)⟩) _ (cWord_long _ _ _ _) (cWord_op _ _ _ _) ?hf ?hb hw
  case hf =>
    iterate 48 refine c_op (by rfl) ?_
    refine c_hit (by rfl) ?_
    simp (disch := decide) only [cWord_bits, cWord_bit, ext_hi, ext_lo, ext_all, bit_hi, bit_lo, bit_bool, Nat.reduceSub] <;> rfl
  case hb => simp (disch := decide) only [cWord_hdr, cWord_bits, cWord_bit, ext_hi, ext_lo, ext_all, bit_hi, bit_lo, bit_bool, Nat.reduceSub]

theorem ringCcw h a b : RoundTrip.Statement (.ringCcw h a b) := by
  intro hw code hc
  cases hc
  refine c_find (r := ⟨0x8C#8, fun w => w.extractLsb' 0 8 == 1#8, fun w => .ringCcw (cHdr w) (w.extractLsb' 12 4) (w.extractLsb' 8 4)⟩) _ (cWord_long _ _ _ _) (cWord_op _ _ _ _) ?hf ?hb hw
  case hf =>
    iterate 48 refine c_op (by rfl) ?_
    refine c_no ?_ ?_
    · simp (disch := decide) only [cWord_bits, cWord_bit, ext_hi, ext_lo, ext_all, bit_hi, bit_lo, bit_bool, Nat.reduceSub] <;> rfl
    refine c_hit (by rfl) ?_
    simp (disch := decide) only [cWord_bits, cWord_bit, ext_hi, ext_lo, ext_all, bit_hi, bit_lo, bit_bool, Nat.reduceSub] <;> rfl
  case hb => simp (disch := decide) only [cWord_hdr, cWord_bits, cWord_bit, ext_hi, ext_lo, ext_all, bit_hi, bit_lo, bit_bool, Nat.reduceSub]

theorem xsnd h a t flits cyc : RoundTrip.Statement (.xsnd h a t flits cyc) := by
  intro hw code hc
  cases hc
  refine l_find (r := ⟨0x8D#8, fun w x => w.extractLsb' 0 7 == 0#7 && x.extractLsb' 28 4 == 0#4, fun w x => .xsnd (cHdr w) (w.extractLsb' 11 5) (w.extractLsb' 7 4) (x.extractLsb' 20 8) (x.extractLsb' 0 20)⟩) _ (cWord_long _ _ _ _) (cWord_op _ _ _ _) ?hf ?hb hw
  case hf =>
    iterate 30 refine l_op (by rfl) ?_
    refine l_hit (by rfl) ?_
    simp (disch := decide) only [cWord_bits, cWord_bit, ext_hi, ext_lo, ext_all, bit_hi, bit_lo, bit_bool, Nat.reduceSub] <;> rfl
  case hb => simp (disch := decide) only [ownRowFix, cWord_hdr, cWord_bits, cWord_bit, ext_hi, ext_lo, ext_all, bit_hi, bit_lo, bit_bool, Nat.reduceSub]

theorem xrcv h a t flits cyc : RoundTrip.Statement (.xrcv h a t flits cyc) := by
  intro hw code hc
  cases hc
  refine l_find (r := ⟨0x8E#8, fun w x => w.extractLsb' 0 7 == 0#7 && x.extractLsb' 28 4 == 0#4, fun w x => .xrcv (cHdr w) (w.extractLsb' 11 5) (w.extractLsb' 7 4) (x.extractLsb' 20 8) (x.extractLsb' 0 20)⟩) _ (cWord_long _ _ _ _) (cWord_op _ _ _ _) ?hf ?hb hw
  case hf =>
    iterate 31 refine l_op (by rfl) ?_
    refine l_hit (by rfl) ?_
    simp (disch := decide) only [cWord_bits, cWord_bit, ext_hi, ext_lo, ext_all, bit_hi, bit_lo, bit_bool, Nat.reduceSub] <;> rfl
  case hb => simp (disch := decide) only [ownRowFix, cWord_hdr, cWord_bits, cWord_bit, ext_hi, ext_lo, ext_all, bit_hi, bit_lo, bit_bool, Nat.reduceSub]

theorem exchFlit peer cycle data : RoundTrip.Statement (.exchFlit peer cycle data) := fun _ _ hc => nomatch hc

theorem expect h a m : RoundTrip.Statement (.expect h a m) := by
  intro hw code hc
  cases hc
  refine c_find (r := ⟨0x8F#8, fun w => w.extractLsb' 0 7 == 0#7, fun w => .expect (cHdr w) (w.extractLsb' 11 5) (w.extractLsb' 7 4)⟩) _ (cWord_long _ _ _ _) (cWord_op _ _ _ _) ?hf ?hb hw
  case hf =>
    iterate 50 refine c_op (by rfl) ?_
    refine c_hit (by rfl) ?_
    simp (disch := decide) only [cWord_bits, cWord_bit, ext_hi, ext_lo, ext_all, bit_hi, bit_lo, bit_bool, Nat.reduceSub] <;> rfl
  case hb => simp (disch := decide) only [cWord_hdr, cWord_bits, cWord_bit, ext_hi, ext_lo, ext_all, bit_hi, bit_lo, bit_bool, Nat.reduceSub]

theorem mbadd h a m : RoundTrip.Statement (.mbadd h a m) := by
  intro hw code hc
  cases hc
  refine c_find (r := ⟨0x90#8, fun w => w.extractLsb' 0 7 == 0#7, fun w => .mbadd (cHdr w) (w.extractLsb' 11 5) (w.extractLsb' 7 4)⟩) _ (cWord_long _ _ _ _) (cWord_op _ _ _ _) ?hf ?hb hw
  case hf =>
    iterate 51 refine c_op (by rfl) ?_
    refine c_hit (by rfl) ?_
    simp (disch := decide) only [cWord_bits, cWord_bit, ext_hi, ext_lo, ext_all, bit_hi, bit_lo, bit_bool, Nat.reduceSub] <;> rfl
  case hb => simp (disch := decide) only [cWord_hdr, cWord_bits, cWord_bit, ext_hi, ext_lo, ext_all, bit_hi, bit_lo, bit_bool, Nat.reduceSub]

theorem hset h a t cnt size : RoundTrip.Statement (.hset h a t cnt size) := by
  intro hw code hc
  cases hc
  refine l_find (r := ⟨0x91#8, fun w x => w.extractLsb' 0 7 == 0#7 && x.extractLsb' 21 11 == 0#11, fun w x => .hset (cHdr w) (w.extractLsb' 11 5) (w.extractLsb' 7 4) (x.extractLsb' 13 8) (x.extractLsb' 0 13)⟩) _ (cWord_long _ _ _ _) (cWord_op _ _ _ _) ?hf ?hb hw
  case hf =>
    iterate 32 refine l_op (by rfl) ?_
    refine l_hit (by rfl) ?_
    simp (disch := decide) only [cWord_bits, cWord_bit, ext_hi, ext_lo, ext_all, bit_hi, bit_lo, bit_bool, Nat.reduceSub] <;> rfl
  case hb => simp (disch := decide) only [ownRowFix, cWord_hdr, cWord_bits, cWord_bit, ext_hi, ext_lo, ext_all, bit_hi, bit_lo, bit_bool, Nat.reduceSub]

theorem hwaitProd h hn q : RoundTrip.Statement (.hwaitProd h hn q) := by
  intro hw code hc
  cases hc
  refine c_find (r := ⟨0x92#8, fun w => w.extractLsb' 4 8 == 0#8, fun w => .hwaitProd (cHdr w) (w.extractLsb' 12 4) (w.extractLsb' 0 4)⟩) _ (cWord_long _ _ _ _) (cWord_op _ _ _ _) ?hf ?hb hw
  case hf =>
    iterate 52 refine c_op (by rfl) ?_
    refine c_hit (by rfl) ?_
    simp (disch := decide) only [cWord_bits, cWord_bit, ext_hi, ext_lo, ext_all, bit_hi, bit_lo, bit_bool, Nat.reduceSub] <;> rfl
  case hb => simp (disch := decide) only [cWord_hdr, cWord_bits, cWord_bit, ext_hi, ext_lo, ext_all, bit_hi, bit_lo, bit_bool, Nat.reduceSub]

theorem hwaitCons h hn q : RoundTrip.Statement (.hwaitCons h hn q) := by
  intro hw code hc
  cases hc
  refine c_find (r := ⟨0x92#8, fun w => w.extractLsb' 4 8 == 16#8, fun w => .hwaitCons (cHdr w) (w.extractLsb' 12 4) (w.extractLsb' 0 4)⟩) _ (cWord_long _ _ _ _) (cWord_op _ _ _ _) ?hf ?hb hw
  case hf =>
    iterate 52 refine c_op (by rfl) ?_
    refine c_no ?_ ?_
    · simp (disch := decide) only [cWord_bits, cWord_bit, ext_hi, ext_lo, ext_all, bit_hi, bit_lo, bit_bool, Nat.reduceSub] <;> rfl
    refine c_hit (by rfl) ?_
    simp (disch := decide) only [cWord_bits, cWord_bit, ext_hi, ext_lo, ext_all, bit_hi, bit_lo, bit_bool, Nat.reduceSub] <;> rfl
  case hb => simp (disch := decide) only [cWord_hdr, cWord_bits, cWord_bit, ext_hi, ext_lo, ext_all, bit_hi, bit_lo, bit_bool, Nat.reduceSub]

theorem hadvProd h hn q : RoundTrip.Statement (.hadvProd h hn q) := by
  intro hw code hc
  cases hc
  refine c_find (r := ⟨0x93#8, fun w => w.extractLsb' 4 8 == 0#8, fun w => .hadvProd (cHdr w) (w.extractLsb' 12 4) (w.extractLsb' 0 4)⟩) _ (cWord_long _ _ _ _) (cWord_op _ _ _ _) ?hf ?hb hw
  case hf =>
    iterate 54 refine c_op (by rfl) ?_
    refine c_hit (by rfl) ?_
    simp (disch := decide) only [cWord_bits, cWord_bit, ext_hi, ext_lo, ext_all, bit_hi, bit_lo, bit_bool, Nat.reduceSub] <;> rfl
  case hb => simp (disch := decide) only [cWord_hdr, cWord_bits, cWord_bit, ext_hi, ext_lo, ext_all, bit_hi, bit_lo, bit_bool, Nat.reduceSub]

theorem hadvCons h hn q : RoundTrip.Statement (.hadvCons h hn q) := by
  intro hw code hc
  cases hc
  refine c_find (r := ⟨0x93#8, fun w => w.extractLsb' 4 8 == 16#8, fun w => .hadvCons (cHdr w) (w.extractLsb' 12 4) (w.extractLsb' 0 4)⟩) _ (cWord_long _ _ _ _) (cWord_op _ _ _ _) ?hf ?hb hw
  case hf =>
    iterate 54 refine c_op (by rfl) ?_
    refine c_no ?_ ?_
    · simp (disch := decide) only [cWord_bits, cWord_bit, ext_hi, ext_lo, ext_all, bit_hi, bit_lo, bit_bool, Nat.reduceSub] <;> rfl
    refine c_hit (by rfl) ?_
    simp (disch := decide) only [cWord_bits, cWord_bit, ext_hi, ext_lo, ext_all, bit_hi, bit_lo, bit_bool, Nat.reduceSub] <;> rfl
  case hb => simp (disch := decide) only [cWord_hdr, cWord_bits, cWord_bit, ext_hi, ext_lo, ext_all, bit_hi, bit_lo, bit_bool, Nat.reduceSub]

theorem field h a f k : RoundTrip.Statement (.field h a f k) := by
  intro hw code hc
  cases hc
  refine c_find (r := ⟨0x94#8, fun w => w.extractLsb' 10 1 == 0#1 && w.extractLsb' 3 4 == 0#4, fun w => .field (cHdr w) (w.extractLsb' 11 5) (w.extractLsb' 7 3) (w.extractLsb' 0 3)⟩) _ (cWord_long _ _ _ _) (cWord_op _ _ _ _) ?hf ?hb hw
  case hf =>
    iterate 56 refine c_op (by rfl) ?_
    refine c_hit (by rfl) ?_
    simp (disch := decide) only [cWord_bits, cWord_bit, ext_hi, ext_lo, ext_all, bit_hi, bit_lo, bit_bool, Nat.reduceSub] <;> rfl
  case hb => simp (disch := decide) only [cWord_hdr, cWord_bits, cWord_bit, ext_hi, ext_lo, ext_all, bit_hi, bit_lo, bit_bool, Nat.reduceSub]

theorem evsend h a b c x fld col row : RoundTrip.Statement (.evsend h a b c x fld col row) := by
  intro hw code hc
  cases hc
  refine l_find (r := ⟨0x95#8, fun _ x => x.extractLsb' 19 13 == 0#13, fun w x => .evsend (cHdr w) (w.extractLsb' 11 5) (w.extractLsb' 6 5) (w.extractLsb' 1 5) (w.getLsbD 0) (x.extractLsb' 16 3) (x.extractLsb' 8 8) (x.extractLsb' 0 8)⟩) _ (cWord_long _ _ _ _) (cWord_op _ _ _ _) ?hf ?hb hw
  case hf =>
    iterate 33 refine l_op (by rfl) ?_
    refine l_hit (by rfl) ?_
    simp (disch := decide) only [cWord_bits, cWord_bit, ext_hi, ext_lo, ext_all, bit_hi, bit_lo, bit_bool, Nat.reduceSub] <;> rfl
  case hb => simp (disch := decide) only [ownRowFix, cWord_hdr, cWord_bits, cWord_bit, ext_hi, ext_lo, ext_all, bit_hi, bit_lo, bit_bool, Nat.reduceSub]

theorem evrun h a f : RoundTrip.Statement (.evrun h a f) := by
  intro hw code hc
  cases hc
  refine c_find (r := ⟨0x96#8, fun w => w.extractLsb' 10 1 == 0#1 && w.extractLsb' 0 7 == 0#7, fun w => .evrun (cHdr w) (w.extractLsb' 11 5) (w.extractLsb' 7 3)⟩) _ (cWord_long _ _ _ _) (cWord_op _ _ _ _) ?hf ?hb hw
  case hf =>
    iterate 57 refine c_op (by rfl) ?_
    refine c_hit (by rfl) ?_
    simp (disch := decide) only [cWord_bits, cWord_bit, ext_hi, ext_lo, ext_all, bit_hi, bit_lo, bit_bool, Nat.reduceSub] <;> rfl
  case hb => simp (disch := decide) only [cWord_hdr, cWord_bits, cWord_bit, ext_hi, ext_lo, ext_all, bit_hi, bit_lo, bit_bool, Nat.reduceSub]

theorem evctlUnbind h f : RoundTrip.Statement (.evctlUnbind h f) := by
  intro hw code hc
  cases hc
  refine c_find (r := ⟨0x97#8, fun w => w.extractLsb' 10 6 == 0#6 && w.extractLsb' 0 7 == 0#7, fun w => .evctlUnbind (cHdr w) (w.extractLsb' 7 3)⟩) _ (cWord_long _ _ _ _) (cWord_op _ _ _ _) ?hf ?hb hw
  case hf =>
    iterate 58 refine c_op (by rfl) ?_
    refine c_hit (by rfl) ?_
    simp (disch := decide) only [cWord_bits, cWord_bit, ext_hi, ext_lo, ext_all, bit_hi, bit_lo, bit_bool, Nat.reduceSub] <;> rfl
  case hb => simp (disch := decide) only [cWord_hdr, cWord_bits, cWord_bit, ext_hi, ext_lo, ext_all, bit_hi, bit_lo, bit_bool, Nat.reduceSub]

theorem evctlTime h a f : RoundTrip.Statement (.evctlTime h a f) := by
  intro hw code hc
  cases hc
  refine c_find (r := ⟨0x97#8, fun w => w.extractLsb' 10 1 == 0#1 && w.extractLsb' 0 7 == 1#7, fun w => .evctlTime (cHdr w) (w.extractLsb' 11 5) (w.extractLsb' 7 3)⟩) _ (cWord_long _ _ _ _) (cWord_op _ _ _ _) ?hf ?hb hw
  case hf =>
    iterate 58 refine c_op (by rfl) ?_
    refine c_no ?_ ?_
    · simp (disch := decide) only [cWord_bits, cWord_bit, ext_hi, ext_lo, ext_all, bit_hi, bit_lo, bit_bool, Nat.reduceSub] <;> (first | rfl | (clear hw; revert a; decide))
    refine c_hit (by rfl) ?_
    simp (disch := decide) only [cWord_bits, cWord_bit, ext_hi, ext_lo, ext_all, bit_hi, bit_lo, bit_bool, Nat.reduceSub] <;> (first | rfl | (clear hw; revert a; decide))
  case hb => simp (disch := decide) only [cWord_hdr, cWord_bits, cWord_bit, ext_hi, ext_lo, ext_all, bit_hi, bit_lo, bit_bool, Nat.reduceSub]

theorem evctlLate h a f : RoundTrip.Statement (.evctlLate h a f) := by
  intro hw code hc
  cases hc
  refine c_find (r := ⟨0x97#8, fun w => w.extractLsb' 10 1 == 0#1 && w.extractLsb' 0 7 == 2#7, fun w => .evctlLate (cHdr w) (w.extractLsb' 11 5) (w.extractLsb' 7 3)⟩) _ (cWord_long _ _ _ _) (cWord_op _ _ _ _) ?hf ?hb hw
  case hf =>
    iterate 58 refine c_op (by rfl) ?_
    refine c_no ?_ ?_
    · simp (disch := decide) only [cWord_bits, cWord_bit, ext_hi, ext_lo, ext_all, bit_hi, bit_lo, bit_bool, Nat.reduceSub] <;> (first | rfl | (clear hw; revert a; decide))
    refine c_no ?_ ?_
    · simp (disch := decide) only [cWord_bits, cWord_bit, ext_hi, ext_lo, ext_all, bit_hi, bit_lo, bit_bool, Nat.reduceSub] <;> (first | rfl | (clear hw; revert a; decide))
    refine c_hit (by rfl) ?_
    simp (disch := decide) only [cWord_bits, cWord_bit, ext_hi, ext_lo, ext_all, bit_hi, bit_lo, bit_bool, Nat.reduceSub] <;> (first | rfl | (clear hw; revert a; decide))
  case hb => simp (disch := decide) only [cWord_hdr, cWord_bits, cWord_bit, ext_hi, ext_lo, ext_all, bit_hi, bit_lo, bit_bool, Nat.reduceSub]

theorem evctlQlen h a f : RoundTrip.Statement (.evctlQlen h a f) := by
  intro hw code hc
  cases hc
  refine c_find (r := ⟨0x97#8, fun w => w.extractLsb' 10 1 == 0#1 && w.extractLsb' 0 7 == 3#7, fun w => .evctlQlen (cHdr w) (w.extractLsb' 11 5) (w.extractLsb' 7 3)⟩) _ (cWord_long _ _ _ _) (cWord_op _ _ _ _) ?hf ?hb hw
  case hf =>
    iterate 58 refine c_op (by rfl) ?_
    refine c_no ?_ ?_
    · simp (disch := decide) only [cWord_bits, cWord_bit, ext_hi, ext_lo, ext_all, bit_hi, bit_lo, bit_bool, Nat.reduceSub] <;> (first | rfl | (clear hw; revert a; decide))
    refine c_no ?_ ?_
    · simp (disch := decide) only [cWord_bits, cWord_bit, ext_hi, ext_lo, ext_all, bit_hi, bit_lo, bit_bool, Nat.reduceSub] <;> (first | rfl | (clear hw; revert a; decide))
    refine c_no ?_ ?_
    · simp (disch := decide) only [cWord_bits, cWord_bit, ext_hi, ext_lo, ext_all, bit_hi, bit_lo, bit_bool, Nat.reduceSub] <;> (first | rfl | (clear hw; revert a; decide))
    refine c_hit (by rfl) ?_
    simp (disch := decide) only [cWord_bits, cWord_bit, ext_hi, ext_lo, ext_all, bit_hi, bit_lo, bit_bool, Nat.reduceSub] <;> (first | rfl | (clear hw; revert a; decide))
  case hb => simp (disch := decide) only [cWord_hdr, cWord_bits, cWord_bit, ext_hi, ext_lo, ext_all, bit_hi, bit_lo, bit_bool, Nat.reduceSub]

theorem evctlFires h a f : RoundTrip.Statement (.evctlFires h a f) := by
  intro hw code hc
  cases hc
  refine c_find (r := ⟨0x97#8, fun w => w.extractLsb' 10 1 == 0#1 && w.extractLsb' 0 7 == 4#7, fun w => .evctlFires (cHdr w) (w.extractLsb' 11 5) (w.extractLsb' 7 3)⟩) _ (cWord_long _ _ _ _) (cWord_op _ _ _ _) ?hf ?hb hw
  case hf =>
    iterate 58 refine c_op (by rfl) ?_
    refine c_no ?_ ?_
    · simp (disch := decide) only [cWord_bits, cWord_bit, ext_hi, ext_lo, ext_all, bit_hi, bit_lo, bit_bool, Nat.reduceSub] <;> (first | rfl | (clear hw; revert a; decide))
    refine c_no ?_ ?_
    · simp (disch := decide) only [cWord_bits, cWord_bit, ext_hi, ext_lo, ext_all, bit_hi, bit_lo, bit_bool, Nat.reduceSub] <;> (first | rfl | (clear hw; revert a; decide))
    refine c_no ?_ ?_
    · simp (disch := decide) only [cWord_bits, cWord_bit, ext_hi, ext_lo, ext_all, bit_hi, bit_lo, bit_bool, Nat.reduceSub] <;> (first | rfl | (clear hw; revert a; decide))
    refine c_no ?_ ?_
    · simp (disch := decide) only [cWord_bits, cWord_bit, ext_hi, ext_lo, ext_all, bit_hi, bit_lo, bit_bool, Nat.reduceSub] <;> (first | rfl | (clear hw; revert a; decide))
    refine c_hit (by rfl) ?_
    simp (disch := decide) only [cWord_bits, cWord_bit, ext_hi, ext_lo, ext_all, bit_hi, bit_lo, bit_bool, Nat.reduceSub] <;> (first | rfl | (clear hw; revert a; decide))
  case hb => simp (disch := decide) only [cWord_hdr, cWord_bits, cWord_bit, ext_hi, ext_lo, ext_all, bit_hi, bit_lo, bit_bool, Nat.reduceSub]

theorem sft h d a r u : RoundTrip.Statement (.sft h d a r u) := by
  intro hw code hc
  cases hc
  refine c_find (r := ⟨0x98#8, fun w => w.extractLsb' 7 1 == 0#1, fun w => .sft (cHdr w) (w.extractLsb' 12 4) (w.extractLsb' 8 4) (w.extractLsb' 4 3) (w.extractLsb' 0 4)⟩) _ (cWord_long _ _ _ _) (cWord_op _ _ _ _) ?hf ?hb hw
  case hf =>
    iterate 63 refine c_op (by rfl) ?_
    refine c_hit (by rfl) ?_
    simp (disch := decide) only [cWord_bits, cWord_bit, ext_hi, ext_lo, ext_all, bit_hi, bit_lo, bit_bool, Nat.reduceSub] <;> rfl
  case hb => simp (disch := decide) only [cWord_hdr, cWord_bits, cWord_bit, ext_hi, ext_lo, ext_all, bit_hi, bit_lo, bit_bool, Nat.reduceSub]

theorem sfs h a b r fn : RoundTrip.Statement (.sfs h a b r fn) := by
  intro hw code hc
  cases hc
  refine l_find (r := ⟨0x99#8, fun w x => w.extractLsb' 0 6 == 0#6 && x.extractLsb' 7 25 == 0#25, fun w x => .sfs (cHdr w) (w.extractLsb' 11 5) (w.extractLsb' 6 5) (x.extractLsb' 4 3) (x.extractLsb' 0 4)⟩) _ (cWord_long _ _ _ _) (cWord_op _ _ _ _) ?hf ?hb hw
  case hf =>
    iterate 34 refine l_op (by rfl) ?_
    refine l_hit (by rfl) ?_
    simp (disch := decide) only [cWord_bits, cWord_bit, ext_hi, ext_lo, ext_all, bit_hi, bit_lo, bit_bool, Nat.reduceSub] <;> rfl
  case hb => simp (disch := decide) only [ownRowFix, cWord_hdr, cWord_bits, cWord_bit, ext_hi, ext_lo, ext_all, bit_hi, bit_lo, bit_bool, Nat.reduceSub]

theorem trap h a i : RoundTrip.Statement (.trap h a i) := by
  intro hw code hc
  cases hc
  refine c_find (r := ⟨0xC0#8, fun w => w.extractLsb' 7 4 == 0#4, fun w => .trap (cHdr w) (w.extractLsb' 11 5) (w.extractLsb' 0 7)⟩) _ (cWord_long _ _ _ _) (cWord_op _ _ _ _) ?hf ?hb hw
  case hf =>
    iterate 64 refine c_op (by rfl) ?_
    refine c_hit (by rfl) ?_
    simp (disch := decide) only [cWord_bits, cWord_bit, ext_hi, ext_lo, ext_all, bit_hi, bit_lo, bit_bool, Nat.reduceSub] <;> rfl
  case hb => simp (disch := decide) only [cWord_hdr, cWord_bits, cWord_bit, ext_hi, ext_lo, ext_all, bit_hi, bit_lo, bit_bool, Nat.reduceSub]

theorem sysret h : RoundTrip.Statement (.sysret h) := by
  intro hw code hc
  cases hc
  refine c_find (r := ⟨0xC1#8, fun w => w.extractLsb' 0 16 == 0#16, fun w => .sysret (cHdr w)⟩) _ (cWord_long _ _ _ _) (cWord_op _ _ _ _) ?hf ?hb hw
  case hf =>
    iterate 65 refine c_op (by rfl) ?_
    refine c_hit (by rfl) ?_
    simp (disch := decide) only [cWord_bits, cWord_bit, ext_hi, ext_lo, ext_all, bit_hi, bit_lo, bit_bool, Nat.reduceSub] <;> rfl
  case hb => simp (disch := decide) only [cWord_hdr, cWord_bits, cWord_bit, ext_hi, ext_lo, ext_all, bit_hi, bit_lo, bit_bool, Nat.reduceSub]

theorem csrr h a reg : RoundTrip.Statement (.csrr h a reg) := by
  intro hw code hc
  cases hc
  refine l_find (r := ⟨0xC2#8, fun w x => w.extractLsb' 0 11 == 0#11 && x.extractLsb' 12 20 == 0#20, fun w x => .csrr (cHdr w) (w.extractLsb' 11 5) (x.extractLsb' 0 12)⟩) _ (cWord_long _ _ _ _) (cWord_op _ _ _ _) ?hf ?hb hw
  case hf =>
    iterate 35 refine l_op (by rfl) ?_
    refine l_hit (by rfl) ?_
    simp (disch := decide) only [cWord_bits, cWord_bit, ext_hi, ext_lo, ext_all, bit_hi, bit_lo, bit_bool, Nat.reduceSub] <;> rfl
  case hb => simp (disch := decide) only [ownRowFix, cWord_hdr, cWord_bits, cWord_bit, ext_hi, ext_lo, ext_all, bit_hi, bit_lo, bit_bool, Nat.reduceSub]

theorem csrw h a reg : RoundTrip.Statement (.csrw h a reg) := by
  intro hw code hc
  cases hc
  refine l_find (r := ⟨0xC3#8, fun w x => w.extractLsb' 0 11 == 0#11 && x.extractLsb' 12 20 == 0#20, fun w x => .csrw (cHdr w) (w.extractLsb' 11 5) (x.extractLsb' 0 12)⟩) _ (cWord_long _ _ _ _) (cWord_op _ _ _ _) ?hf ?hb hw
  case hf =>
    iterate 36 refine l_op (by rfl) ?_
    refine l_hit (by rfl) ?_
    simp (disch := decide) only [cWord_bits, cWord_bit, ext_hi, ext_lo, ext_all, bit_hi, bit_lo, bit_bool, Nat.reduceSub] <;> rfl
  case hb => simp (disch := decide) only [ownRowFix, cWord_hdr, cWord_bits, cWord_bit, ext_hi, ext_lo, ext_all, bit_hi, bit_lo, bit_bool, Nat.reduceSub]; rw [own_none _ _ _ _ (by simpa [Instr.wf] using hw)]; rfl

theorem csrs h a reg : RoundTrip.Statement (.csrs h a reg) := by
  intro hw code hc
  cases hc
  refine l_find (r := ⟨0xC4#8, fun w x => w.extractLsb' 0 11 == 0#11 && x.extractLsb' 12 20 == 0#20, fun w x => .csrs (cHdr w) (w.extractLsb' 11 5) (x.extractLsb' 0 12)⟩) _ (cWord_long _ _ _ _) (cWord_op _ _ _ _) ?hf ?hb hw
  case hf =>
    iterate 37 refine l_op (by rfl) ?_
    refine l_hit (by rfl) ?_
    simp (disch := decide) only [cWord_bits, cWord_bit, ext_hi, ext_lo, ext_all, bit_hi, bit_lo, bit_bool, Nat.reduceSub] <;> rfl
  case hb => simp (disch := decide) only [ownRowFix, cWord_hdr, cWord_bits, cWord_bit, ext_hi, ext_lo, ext_all, bit_hi, bit_lo, bit_bool, Nat.reduceSub]; rw [own_none _ _ _ _ (by simpa [Instr.wf] using hw)]; rfl

theorem csrc h a reg : RoundTrip.Statement (.csrc h a reg) := by
  intro hw code hc
  cases hc
  refine l_find (r := ⟨0xC5#8, fun w x => w.extractLsb' 0 11 == 0#11 && x.extractLsb' 12 20 == 0#20, fun w x => .csrc (cHdr w) (w.extractLsb' 11 5) (x.extractLsb' 0 12)⟩) _ (cWord_long _ _ _ _) (cWord_op _ _ _ _) ?hf ?hb hw
  case hf =>
    iterate 38 refine l_op (by rfl) ?_
    refine l_hit (by rfl) ?_
    simp (disch := decide) only [cWord_bits, cWord_bit, ext_hi, ext_lo, ext_all, bit_hi, bit_lo, bit_bool, Nat.reduceSub] <;> rfl
  case hb => simp (disch := decide) only [ownRowFix, cWord_hdr, cWord_bits, cWord_bit, ext_hi, ext_lo, ext_all, bit_hi, bit_lo, bit_bool, Nat.reduceSub]; rw [own_none _ _ _ _ (by simpa [Instr.wf] using hw)]; rfl

theorem errq h a b : RoundTrip.Statement (.errq h a b) := by
  intro hw code hc
  cases hc
  refine c_find (r := ⟨0xC6#8, fun w => w.extractLsb' 0 6 == 0#6, fun w => .errq (cHdr w) (w.extractLsb' 11 5) (w.extractLsb' 6 5)⟩) _ (cWord_long _ _ _ _) (cWord_op _ _ _ _) ?hf ?hb hw
  case hf =>
    iterate 66 refine c_op (by rfl) ?_
    refine c_hit (by rfl) ?_
    simp (disch := decide) only [cWord_bits, cWord_bit, ext_hi, ext_lo, ext_all, bit_hi, bit_lo, bit_bool, Nat.reduceSub] <;> rfl
  case hb => simp (disch := decide) only [cWord_hdr, cWord_bits, cWord_bit, ext_hi, ext_lo, ext_all, bit_hi, bit_lo, bit_bool, Nat.reduceSub]

theorem ctxsv h a k : RoundTrip.Statement (.ctxsv h a k) := by
  intro hw code hc
  cases hc
  refine c_find (r := ⟨0xC7#8, fun w => w.extractLsb' 0 7 == 0#7, fun w => .ctxsv (cHdr w) (w.extractLsb' 11 5) (w.extractLsb' 7 4)⟩) _ (cWord_long _ _ _ _) (cWord_op _ _ _ _) ?hf ?hb hw
  case hf =>
    iterate 67 refine c_op (by rfl) ?_
    refine c_hit (by rfl) ?_
    simp (disch := decide) only [cWord_bits, cWord_bit, ext_hi, ext_lo, ext_all, bit_hi, bit_lo, bit_bool, Nat.reduceSub] <;> rfl
  case hb => simp (disch := decide) only [cWord_hdr, cWord_bits, cWord_bit, ext_hi, ext_lo, ext_all, bit_hi, bit_lo, bit_bool, Nat.reduceSub]

theorem ctxld h a k : RoundTrip.Statement (.ctxld h a k) := by
  intro hw code hc
  cases hc
  refine c_find (r := ⟨0xC8#8, fun w => w.extractLsb' 0 7 == 0#7, fun w => .ctxld (cHdr w) (w.extractLsb' 11 5) (w.extractLsb' 7 4)⟩) _ (cWord_long _ _ _ _) (cWord_op _ _ _ _) ?hf ?hb hw
  case hf =>
    iterate 68 refine c_op (by rfl) ?_
    refine c_hit (by rfl) ?_
    simp (disch := decide) only [cWord_bits, cWord_bit, ext_hi, ext_lo, ext_all, bit_hi, bit_lo, bit_bool, Nat.reduceSub] <;> rfl
  case hb => simp (disch := decide) only [cWord_hdr, cWord_bits, cWord_bit, ext_hi, ext_lo, ext_all, bit_hi, bit_lo, bit_bool, Nat.reduceSub]

theorem accspill h a k : RoundTrip.Statement (.accspill h a k) := by
  intro hw code hc
  cases hc
  refine c_find (r := ⟨0xC9#8, fun w => w.extractLsb' 10 1 == 0#1 && w.extractLsb' 0 7 == 0#7, fun w => .accspill (cHdr w) (w.extractLsb' 11 5) (w.extractLsb' 7 3)⟩) _ (cWord_long _ _ _ _) (cWord_op _ _ _ _) ?hf ?hb hw
  case hf =>
    iterate 69 refine c_op (by rfl) ?_
    refine c_hit (by rfl) ?_
    simp (disch := decide) only [cWord_bits, cWord_bit, ext_hi, ext_lo, ext_all, bit_hi, bit_lo, bit_bool, Nat.reduceSub] <;> rfl
  case hb => simp (disch := decide) only [cWord_hdr, cWord_bits, cWord_bit, ext_hi, ext_lo, ext_all, bit_hi, bit_lo, bit_bool, Nat.reduceSub]

theorem accfill h a k : RoundTrip.Statement (.accfill h a k) := by
  intro hw code hc
  cases hc
  refine c_find (r := ⟨0xCA#8, fun w => w.extractLsb' 10 1 == 0#1 && w.extractLsb' 0 7 == 0#7, fun w => .accfill (cHdr w) (w.extractLsb' 11 5) (w.extractLsb' 7 3)⟩) _ (cWord_long _ _ _ _) (cWord_op _ _ _ _) ?hf ?hb hw
  case hf =>
    iterate 70 refine c_op (by rfl) ?_
    refine c_hit (by rfl) ?_
    simp (disch := decide) only [cWord_bits, cWord_bit, ext_hi, ext_lo, ext_all, bit_hi, bit_lo, bit_bool, Nat.reduceSub] <;> rfl
  case hb => simp (disch := decide) only [cWord_hdr, cWord_bits, cWord_bit, ext_hi, ext_lo, ext_all, bit_hi, bit_lo, bit_bool, Nat.reduceSub]

theorem peerclr h a : RoundTrip.Statement (.peerclr h a) := by
  intro hw code hc
  cases hc
  refine c_find (r := ⟨0xCB#8, fun w => w.extractLsb' 0 11 == 0#11, fun w => .peerclr (cHdr w) (w.extractLsb' 11 5)⟩) _ (cWord_long _ _ _ _) (cWord_op _ _ _ _) ?hf ?hb hw
  case hf =>
    iterate 71 refine c_op (by rfl) ?_
    refine c_hit (by rfl) ?_
    simp (disch := decide) only [cWord_bits, cWord_bit, ext_hi, ext_lo, ext_all, bit_hi, bit_lo, bit_bool, Nat.reduceSub] <;> rfl
  case hb => simp (disch := decide) only [cWord_hdr, cWord_bits, cWord_bit, ext_hi, ext_lo, ext_all, bit_hi, bit_lo, bit_bool, Nat.reduceSub]

theorem bkpt h : RoundTrip.Statement (.bkpt h) := by
  intro hw code hc
  cases hc
  refine c_find (r := ⟨0xCC#8, fun w => w.extractLsb' 0 16 == 0#16, fun w => .bkpt (cHdr w)⟩) _ (cWord_long _ _ _ _) (cWord_op _ _ _ _) ?hf ?hb hw
  case hf =>
    iterate 72 refine c_op (by rfl) ?_
    refine c_hit (by rfl) ?_
    simp (disch := decide) only [cWord_bits, cWord_bit, ext_hi, ext_lo, ext_all, bit_hi, bit_lo, bit_bool, Nat.reduceSub] <;> rfl
  case hb => simp (disch := decide) only [cWord_hdr, cWord_bits, cWord_bit, ext_hi, ext_lo, ext_all, bit_hi, bit_lo, bit_bool, Nat.reduceSub]

theorem limm h a sx imm : RoundTrip.Statement (.limm h a sx imm) := by
  intro hw code hc
  cases hc
  refine l_find (r := ⟨0xCD#8, fun w _ => w.extractLsb' 7 4 == 0#4 && w.extractLsb' 1 6 == 0#6, fun w x => .limm (cHdr w) (w.extractLsb' 11 5) (w.getLsbD 0) (x.extractLsb' 0 32)⟩) _ (cWord_long _ _ _ _) (cWord_op _ _ _ _) ?hf ?hb hw
  case hf =>
    iterate 39 refine l_op (by rfl) ?_
    refine l_hit (by rfl) ?_
    simp (disch := decide) only [cWord_bits, cWord_bit, ext_hi, ext_lo, ext_all, bit_hi, bit_lo, bit_bool, Nat.reduceSub] <;> rfl
  case hb => simp (disch := decide) only [ownRowFix, cWord_hdr, cWord_bits, cWord_bit, ext_hi, ext_lo, ext_all, bit_hi, bit_lo, bit_bool, Nat.reduceSub]

theorem limmHi h a imm : RoundTrip.Statement (.limmHi h a imm) := by
  intro hw code hc
  cases hc
  refine l_find (r := ⟨0xCD#8, fun w _ => w.extractLsb' 7 4 == 0#4 && w.extractLsb' 2 5 == 0#5 && w.extractLsb' 0 2 == 2#2, fun w x => .limmHi (cHdr w) (w.extractLsb' 11 5) (x.extractLsb' 0 32)⟩) _ (cWord_long _ _ _ _) (cWord_op _ _ _ _) ?hf ?hb hw
  case hf =>
    iterate 39 refine l_op (by rfl) ?_
    refine l_no ?_ ?_
    · simp (disch := decide) only [cWord_bits, cWord_bit, ext_hi, ext_lo, ext_all, bit_hi, bit_lo, bit_bool, Nat.reduceSub] <;> (first | rfl | (clear hw; revert a; decide))
    refine l_hit (by rfl) ?_
    simp (disch := decide) only [cWord_bits, cWord_bit, ext_hi, ext_lo, ext_all, bit_hi, bit_lo, bit_bool, Nat.reduceSub] <;> (first | rfl | (clear hw; revert a; decide))
  case hb => simp (disch := decide) only [ownRowFix, cWord_hdr, cWord_bits, cWord_bit, ext_hi, ext_lo, ext_all, bit_hi, bit_lo, bit_bool, Nat.reduceSub]

theorem add h d a b x w : RoundTrip.Statement (.add h d a b x w) := by
  intro hw code hc
  cases hc
  refine a_find (r := ⟨0x00#7, fun _ => true, fun w => .add (aHdr w) (w.extractLsb' 14 5) (w.extractLsb' 9 5) (w.extractLsb' 4 5) (w.getLsbD 3) (w.extractLsb' 0 3)⟩) _ (aWord_op _ _ _) ?hf ?hb hw
  case hf =>
    refine a_hit (by rfl) ?_
    simp (disch := decide) only [aWord_bits, aWord_bit, ext_hi, ext_lo, ext_all, bit_hi, bit_lo, bit_bool, Nat.reduceSub] <;> rfl
  case hb => simp (disch := decide) only [aWord_hdr, aWord_bits, aWord_bit, ext_hi, ext_lo, ext_all, bit_hi, bit_lo, bit_bool, Nat.reduceSub]

theorem sub h d a b x w : RoundTrip.Statement (.sub h d a b x w) := by
  intro hw code hc
  cases hc
  refine a_find (r := ⟨0x01#7, fun _ => true, fun w => .sub (aHdr w) (w.extractLsb' 14 5) (w.extractLsb' 9 5) (w.extractLsb' 4 5) (w.getLsbD 3) (w.extractLsb' 0 3)⟩) _ (aWord_op _ _ _) ?hf ?hb hw
  case hf =>
    iterate 1 refine a_op (by rfl) ?_
    refine a_hit (by rfl) ?_
    simp (disch := decide) only [aWord_bits, aWord_bit, ext_hi, ext_lo, ext_all, bit_hi, bit_lo, bit_bool, Nat.reduceSub] <;> rfl
  case hb => simp (disch := decide) only [aWord_hdr, aWord_bits, aWord_bit, ext_hi, ext_lo, ext_all, bit_hi, bit_lo, bit_bool, Nat.reduceSub]

theorem addi h d a i : RoundTrip.Statement (.addi h d a i) := by
  intro hw code hc
  cases hc
  refine a_find (r := ⟨0x02#7, fun _ => true, fun w => .addi (aHdr w) (w.extractLsb' 14 5) (w.extractLsb' 9 5) (w.extractLsb' 0 9)⟩) _ (aWord_op _ _ _) ?hf ?hb hw
  case hf =>
    iterate 2 refine a_op (by rfl) ?_
    refine a_hit (by rfl) ?_
    simp (disch := decide) only [aWord_bits, aWord_bit, ext_hi, ext_lo, ext_all, bit_hi, bit_lo, bit_bool, Nat.reduceSub] <;> rfl
  case hb => simp (disch := decide) only [aWord_hdr, aWord_bits, aWord_bit, ext_hi, ext_lo, ext_all, bit_hi, bit_lo, bit_bool, Nat.reduceSub]

theorem mul h d a b x w : RoundTrip.Statement (.mul h d a b x w) := by
  intro hw code hc
  cases hc
  refine a_find (r := ⟨0x03#7, fun _ => true, fun w => .mul (aHdr w) (w.extractLsb' 14 5) (w.extractLsb' 9 5) (w.extractLsb' 4 5) (w.getLsbD 3) (w.extractLsb' 0 3)⟩) _ (aWord_op _ _ _) ?hf ?hb hw
  case hf =>
    iterate 3 refine a_op (by rfl) ?_
    refine a_hit (by rfl) ?_
    simp (disch := decide) only [aWord_bits, aWord_bit, ext_hi, ext_lo, ext_all, bit_hi, bit_lo, bit_bool, Nat.reduceSub] <;> rfl
  case hb => simp (disch := decide) only [aWord_hdr, aWord_bits, aWord_bit, ext_hi, ext_lo, ext_all, bit_hi, bit_lo, bit_bool, Nat.reduceSub]

theorem mulh h d a b x : RoundTrip.Statement (.mulh h d a b x) := by
  intro hw code hc
  cases hc
  refine a_find (r := ⟨0x04#7, fun w => w.extractLsb' 0 3 == 0#3, fun w => .mulh (aHdr w) (w.extractLsb' 14 5) (w.extractLsb' 9 5) (w.extractLsb' 4 5) (w.getLsbD 3)⟩) _ (aWord_op _ _ _) ?hf ?hb hw
  case hf =>
    iterate 4 refine a_op (by rfl) ?_
    refine a_hit (by rfl) ?_
    simp (disch := decide) only [aWord_bits, aWord_bit, ext_hi, ext_lo, ext_all, bit_hi, bit_lo, bit_bool, Nat.reduceSub] <;> rfl
  case hb => simp (disch := decide) only [aWord_hdr, aWord_bits, aWord_bit, ext_hi, ext_lo, ext_all, bit_hi, bit_lo, bit_bool, Nat.reduceSub]

theorem mulhu h d a b x : RoundTrip.Statement (.mulhu h d a b x) := by
  intro hw code hc
  cases hc
  refine a_find (r := ⟨0x05#7, fun w => w.extractLsb' 0 3 == 0#3, fun w => .mulhu (aHdr w) (w.extractLsb' 14 5) (w.extractLsb' 9 5) (w.extractLsb' 4 5) (w.getLsbD 3)⟩) _ (aWord_op _ _ _) ?hf ?hb hw
  case hf =>
    iterate 5 refine a_op (by rfl) ?_
    refine a_hit (by rfl) ?_
    simp (disch := decide) only [aWord_bits, aWord_bit, ext_hi, ext_lo, ext_all, bit_hi, bit_lo, bit_bool, Nat.reduceSub] <;> rfl
  case hb => simp (disch := decide) only [aWord_hdr, aWord_bits, aWord_bit, ext_hi, ext_lo, ext_all, bit_hi, bit_lo, bit_bool, Nat.reduceSub]

theorem div h d a b x w : RoundTrip.Statement (.div h d a b x w) := by
  intro hw code hc
  cases hc
  refine a_find (r := ⟨0x06#7, fun _ => true, fun w => .div (aHdr w) (w.extractLsb' 14 5) (w.extractLsb' 9 5) (w.extractLsb' 4 5) (w.getLsbD 3) (w.extractLsb' 0 3)⟩) _ (aWord_op _ _ _) ?hf ?hb hw
  case hf =>
    iterate 6 refine a_op (by rfl) ?_
    refine a_hit (by rfl) ?_
    simp (disch := decide) only [aWord_bits, aWord_bit, ext_hi, ext_lo, ext_all, bit_hi, bit_lo, bit_bool, Nat.reduceSub] <;> rfl
  case hb => simp (disch := decide) only [aWord_hdr, aWord_bits, aWord_bit, ext_hi, ext_lo, ext_all, bit_hi, bit_lo, bit_bool, Nat.reduceSub]

theorem divu h d a b x w : RoundTrip.Statement (.divu h d a b x w) := by
  intro hw code hc
  cases hc
  refine a_find (r := ⟨0x07#7, fun _ => true, fun w => .divu (aHdr w) (w.extractLsb' 14 5) (w.extractLsb' 9 5) (w.extractLsb' 4 5) (w.getLsbD 3) (w.extractLsb' 0 3)⟩) _ (aWord_op _ _ _) ?hf ?hb hw
  case hf =>
    iterate 7 refine a_op (by rfl) ?_
    refine a_hit (by rfl) ?_
    simp (disch := decide) only [aWord_bits, aWord_bit, ext_hi, ext_lo, ext_all, bit_hi, bit_lo, bit_bool, Nat.reduceSub] <;> rfl
  case hb => simp (disch := decide) only [aWord_hdr, aWord_bits, aWord_bit, ext_hi, ext_lo, ext_all, bit_hi, bit_lo, bit_bool, Nat.reduceSub]

theorem rem h d a b x w : RoundTrip.Statement (.rem h d a b x w) := by
  intro hw code hc
  cases hc
  refine a_find (r := ⟨0x08#7, fun _ => true, fun w => .rem (aHdr w) (w.extractLsb' 14 5) (w.extractLsb' 9 5) (w.extractLsb' 4 5) (w.getLsbD 3) (w.extractLsb' 0 3)⟩) _ (aWord_op _ _ _) ?hf ?hb hw
  case hf =>
    iterate 8 refine a_op (by rfl) ?_
    refine a_hit (by rfl) ?_
    simp (disch := decide) only [aWord_bits, aWord_bit, ext_hi, ext_lo, ext_all, bit_hi, bit_lo, bit_bool, Nat.reduceSub] <;> rfl
  case hb => simp (disch := decide) only [aWord_hdr, aWord_bits, aWord_bit, ext_hi, ext_lo, ext_all, bit_hi, bit_lo, bit_bool, Nat.reduceSub]

theorem remu h d a b x w : RoundTrip.Statement (.remu h d a b x w) := by
  intro hw code hc
  cases hc
  refine a_find (r := ⟨0x09#7, fun _ => true, fun w => .remu (aHdr w) (w.extractLsb' 14 5) (w.extractLsb' 9 5) (w.extractLsb' 4 5) (w.getLsbD 3) (w.extractLsb' 0 3)⟩) _ (aWord_op _ _ _) ?hf ?hb hw
  case hf =>
    iterate 9 refine a_op (by rfl) ?_
    refine a_hit (by rfl) ?_
    simp (disch := decide) only [aWord_bits, aWord_bit, ext_hi, ext_lo, ext_all, bit_hi, bit_lo, bit_bool, Nat.reduceSub] <;> rfl
  case hb => simp (disch := decide) only [aWord_hdr, aWord_bits, aWord_bit, ext_hi, ext_lo, ext_all, bit_hi, bit_lo, bit_bool, Nat.reduceSub]

theorem and h d a b x : RoundTrip.Statement (.and h d a b x) := by
  intro hw code hc
  cases hc
  refine a_find (r := ⟨0x0A#7, fun w => w.extractLsb' 0 3 == 0#3, fun w => .and (aHdr w) (w.extractLsb' 14 5) (w.extractLsb' 9 5) (w.extractLsb' 4 5) (w.getLsbD 3)⟩) _ (aWord_op _ _ _) ?hf ?hb hw
  case hf =>
    iterate 10 refine a_op (by rfl) ?_
    refine a_hit (by rfl) ?_
    simp (disch := decide) only [aWord_bits, aWord_bit, ext_hi, ext_lo, ext_all, bit_hi, bit_lo, bit_bool, Nat.reduceSub] <;> rfl
  case hb => simp (disch := decide) only [aWord_hdr, aWord_bits, aWord_bit, ext_hi, ext_lo, ext_all, bit_hi, bit_lo, bit_bool, Nat.reduceSub]

theorem or h d a b x : RoundTrip.Statement (.or h d a b x) := by
  intro hw code hc
  cases hc
  refine a_find (r := ⟨0x0B#7, fun w => w.extractLsb' 0 3 == 0#3, fun w => .or (aHdr w) (w.extractLsb' 14 5) (w.extractLsb' 9 5) (w.extractLsb' 4 5) (w.getLsbD 3)⟩) _ (aWord_op _ _ _) ?hf ?hb hw
  case hf =>
    iterate 11 refine a_op (by rfl) ?_
    refine a_hit (by rfl) ?_
    simp (disch := decide) only [aWord_bits, aWord_bit, ext_hi, ext_lo, ext_all, bit_hi, bit_lo, bit_bool, Nat.reduceSub] <;> rfl
  case hb => simp (disch := decide) only [aWord_hdr, aWord_bits, aWord_bit, ext_hi, ext_lo, ext_all, bit_hi, bit_lo, bit_bool, Nat.reduceSub]

theorem xor h d a b x : RoundTrip.Statement (.xor h d a b x) := by
  intro hw code hc
  cases hc
  refine a_find (r := ⟨0x0C#7, fun w => w.extractLsb' 0 3 == 0#3, fun w => .xor (aHdr w) (w.extractLsb' 14 5) (w.extractLsb' 9 5) (w.extractLsb' 4 5) (w.getLsbD 3)⟩) _ (aWord_op _ _ _) ?hf ?hb hw
  case hf =>
    iterate 12 refine a_op (by rfl) ?_
    refine a_hit (by rfl) ?_
    simp (disch := decide) only [aWord_bits, aWord_bit, ext_hi, ext_lo, ext_all, bit_hi, bit_lo, bit_bool, Nat.reduceSub] <;> rfl
  case hb => simp (disch := decide) only [aWord_hdr, aWord_bits, aWord_bit, ext_hi, ext_lo, ext_all, bit_hi, bit_lo, bit_bool, Nat.reduceSub]

theorem andn h d a b x : RoundTrip.Statement (.andn h d a b x) := by
  intro hw code hc
  cases hc
  refine a_find (r := ⟨0x0D#7, fun w => w.extractLsb' 0 3 == 0#3, fun w => .andn (aHdr w) (w.extractLsb' 14 5) (w.extractLsb' 9 5) (w.extractLsb' 4 5) (w.getLsbD 3)⟩) _ (aWord_op _ _ _) ?hf ?hb hw
  case hf =>
    iterate 13 refine a_op (by rfl) ?_
    refine a_hit (by rfl) ?_
    simp (disch := decide) only [aWord_bits, aWord_bit, ext_hi, ext_lo, ext_all, bit_hi, bit_lo, bit_bool, Nat.reduceSub] <;> rfl
  case hb => simp (disch := decide) only [aWord_hdr, aWord_bits, aWord_bit, ext_hi, ext_lo, ext_all, bit_hi, bit_lo, bit_bool, Nat.reduceSub]

theorem shl h d a b x w : RoundTrip.Statement (.shl h d a b x w) := by
  intro hw code hc
  cases hc
  refine a_find (r := ⟨0x0E#7, fun _ => true, fun w => .shl (aHdr w) (w.extractLsb' 14 5) (w.extractLsb' 9 5) (w.extractLsb' 4 5) (w.getLsbD 3) (w.extractLsb' 0 3)⟩) _ (aWord_op _ _ _) ?hf ?hb hw
  case hf =>
    iterate 14 refine a_op (by rfl) ?_
    refine a_hit (by rfl) ?_
    simp (disch := decide) only [aWord_bits, aWord_bit, ext_hi, ext_lo, ext_all, bit_hi, bit_lo, bit_bool, Nat.reduceSub] <;> rfl
  case hb => simp (disch := decide) only [aWord_hdr, aWord_bits, aWord_bit, ext_hi, ext_lo, ext_all, bit_hi, bit_lo, bit_bool, Nat.reduceSub]

theorem shr h d a b x w : RoundTrip.Statement (.shr h d a b x w) := by
  intro hw code hc
  cases hc
  refine a_find (r := ⟨0x0F#7, fun _ => true, fun w => .shr (aHdr w) (w.extractLsb' 14 5) (w.extractLsb' 9 5) (w.extractLsb' 4 5) (w.getLsbD 3) (w.extractLsb' 0 3)⟩) _ (aWord_op _ _ _) ?hf ?hb hw
  case hf =>
    iterate 15 refine a_op (by rfl) ?_
    refine a_hit (by rfl) ?_
    simp (disch := decide) only [aWord_bits, aWord_bit, ext_hi, ext_lo, ext_all, bit_hi, bit_lo, bit_bool, Nat.reduceSub] <;> rfl
  case hb => simp (disch := decide) only [aWord_hdr, aWord_bits, aWord_bit, ext_hi, ext_lo, ext_all, bit_hi, bit_lo, bit_bool, Nat.reduceSub]

theorem sar h d a b x w : RoundTrip.Statement (.sar h d a b x w) := by
  intro hw code hc
  cases hc
  refine a_find (r := ⟨0x10#7, fun _ => true, fun w => .sar (aHdr w) (w.extractLsb' 14 5) (w.extractLsb' 9 5) (w.extractLsb' 4 5) (w.getLsbD 3) (w.extractLsb' 0 3)⟩) _ (aWord_op _ _ _) ?hf ?hb hw
  case hf =>
    iterate 16 refine a_op (by rfl) ?_
    refine a_hit (by rfl) ?_
    simp (disch := decide) only [aWord_bits, aWord_bit, ext_hi, ext_lo, ext_all, bit_hi, bit_lo, bit_bool, Nat.reduceSub] <;> rfl
  case hb => simp (disch := decide) only [aWord_hdr, aWord_bits, aWord_bit, ext_hi, ext_lo, ext_all, bit_hi, bit_lo, bit_bool, Nat.reduceSub]

theorem rol h d a b x w : RoundTrip.Statement (.rol h d a b x w) := by
  intro hw code hc
  cases hc
  refine a_find (r := ⟨0x11#7, fun _ => true, fun w => .rol (aHdr w) (w.extractLsb' 14 5) (w.extractLsb' 9 5) (w.extractLsb' 4 5) (w.getLsbD 3) (w.extractLsb' 0 3)⟩) _ (aWord_op _ _ _) ?hf ?hb hw
  case hf =>
    iterate 17 refine a_op (by rfl) ?_
    refine a_hit (by rfl) ?_
    simp (disch := decide) only [aWord_bits, aWord_bit, ext_hi, ext_lo, ext_all, bit_hi, bit_lo, bit_bool, Nat.reduceSub] <;> rfl
  case hb => simp (disch := decide) only [aWord_hdr, aWord_bits, aWord_bit, ext_hi, ext_lo, ext_all, bit_hi, bit_lo, bit_bool, Nat.reduceSub]

theorem shli h d a w sh : RoundTrip.Statement (.shli h d a w sh) := by
  intro hw code hc
  cases hc
  refine a_find (r := ⟨0x12#7, fun w => w.extractLsb' 7 2 == 0#2, fun w => .shli (aHdr w) (w.extractLsb' 14 5) (w.extractLsb' 9 5) (w.getLsbD 6) (w.extractLsb' 0 6)⟩) _ (aWord_op _ _ _) ?hf ?hb hw
  case hf =>
    iterate 18 refine a_op (by rfl) ?_
    refine a_hit (by rfl) ?_
    simp (disch := decide) only [aWord_bits, aWord_bit, ext_hi, ext_lo, ext_all, bit_hi, bit_lo, bit_bool, Nat.reduceSub] <;> rfl
  case hb => simp (disch := decide) only [aWord_hdr, aWord_bits, aWord_bit, ext_hi, ext_lo, ext_all, bit_hi, bit_lo, bit_bool, Nat.reduceSub]

theorem shri h d a w sh : RoundTrip.Statement (.shri h d a w sh) := by
  intro hw code hc
  cases hc
  refine a_find (r := ⟨0x13#7, fun w => w.extractLsb' 7 2 == 0#2, fun w => .shri (aHdr w) (w.extractLsb' 14 5) (w.extractLsb' 9 5) (w.getLsbD 6) (w.extractLsb' 0 6)⟩) _ (aWord_op _ _ _) ?hf ?hb hw
  case hf =>
    iterate 19 refine a_op (by rfl) ?_
    refine a_hit (by rfl) ?_
    simp (disch := decide) only [aWord_bits, aWord_bit, ext_hi, ext_lo, ext_all, bit_hi, bit_lo, bit_bool, Nat.reduceSub] <;> rfl
  case hb => simp (disch := decide) only [aWord_hdr, aWord_bits, aWord_bit, ext_hi, ext_lo, ext_all, bit_hi, bit_lo, bit_bool, Nat.reduceSub]

theorem sari h d a w sh : RoundTrip.Statement (.sari h d a w sh) := by
  intro hw code hc
  cases hc
  refine a_find (r := ⟨0x14#7, fun w => w.extractLsb' 7 2 == 0#2, fun w => .sari (aHdr w) (w.extractLsb' 14 5) (w.extractLsb' 9 5) (w.getLsbD 6) (w.extractLsb' 0 6)⟩) _ (aWord_op _ _ _) ?hf ?hb hw
  case hf =>
    iterate 20 refine a_op (by rfl) ?_
    refine a_hit (by rfl) ?_
    simp (disch := decide) only [aWord_bits, aWord_bit, ext_hi, ext_lo, ext_all, bit_hi, bit_lo, bit_bool, Nat.reduceSub] <;> rfl
  case hb => simp (disch := decide) only [aWord_hdr, aWord_bits, aWord_bit, ext_hi, ext_lo, ext_all, bit_hi, bit_lo, bit_bool, Nat.reduceSub]

theorem clz h d a w : RoundTrip.Statement (.clz h d a w) := by
  intro hw code hc
  cases hc
  refine a_find (r := ⟨0x15#7, fun w => w.extractLsb' 3 6 == 0#6, fun w => .clz (aHdr w) (w.extractLsb' 14 5) (w.extractLsb' 9 5) (w.extractLsb' 0 3)⟩) _ (aWord_op _ _ _) ?hf ?hb hw
  case hf =>
    iterate 21 refine a_op (by rfl) ?_
    refine a_hit (by rfl) ?_
    simp (disch := decide) only [aWord_bits, aWord_bit, ext_hi, ext_lo, ext_all, bit_hi, bit_lo, bit_bool, Nat.reduceSub] <;> rfl
  case hb => simp (disch := decide) only [aWord_hdr, aWord_bits, aWord_bit, ext_hi, ext_lo, ext_all, bit_hi, bit_lo, bit_bool, Nat.reduceSub]

theorem ctz h d a w : RoundTrip.Statement (.ctz h d a w) := by
  intro hw code hc
  cases hc
  refine a_find (r := ⟨0x16#7, fun w => w.extractLsb' 3 6 == 0#6, fun w => .ctz (aHdr w) (w.extractLsb' 14 5) (w.extractLsb' 9 5) (w.extractLsb' 0 3)⟩) _ (aWord_op _ _ _) ?hf ?hb hw
  case hf =>
    iterate 22 refine a_op (by rfl) ?_
    refine a_hit (by rfl) ?_
    simp (disch := decide) only [aWord_bits, aWord_bit, ext_hi, ext_lo, ext_all, bit_hi, bit_lo, bit_bool, Nat.reduceSub] <;> rfl
  case hb => simp (disch := decide) only [aWord_hdr, aWord_bits, aWord_bit, ext_hi, ext_lo, ext_all, bit_hi, bit_lo, bit_bool, Nat.reduceSub]

theorem popc h d a w : RoundTrip.Statement (.popc h d a w) := by
  intro hw code hc
  cases hc
  refine a_find (r := ⟨0x17#7, fun w => w.extractLsb' 3 6 == 0#6, fun w => .popc (aHdr w) (w.extractLsb' 14 5) (w.extractLsb' 9 5) (w.extractLsb' 0 3)⟩) _ (aWord_op _ _ _) ?hf ?hb hw
  case hf =>
    iterate 23 refine a_op (by rfl) ?_
    refine a_hit (by rfl) ?_
    simp (disch := decide) only [aWord_bits, aWord_bit, ext_hi, ext_lo, ext_all, bit_hi, bit_lo, bit_bool, Nat.reduceSub] <;> rfl
  case hb => simp (disch := decide) only [aWord_hdr, aWord_bits, aWord_bit, ext_hi, ext_lo, ext_all, bit_hi, bit_lo, bit_bool, Nat.reduceSub]

theorem bfx h d a b x : RoundTrip.Statement (.bfx h d a b x) := by
  intro hw code hc
  cases hc
  refine a_find (r := ⟨0x18#7, fun w => w.extractLsb' 0 3 == 0#3, fun w => .bfx (aHdr w) (w.extractLsb' 14 5) (w.extractLsb' 9 5) (w.extractLsb' 4 5) (w.getLsbD 3)⟩) _ (aWord_op _ _ _) ?hf ?hb hw
  case hf =>
    iterate 24 refine a_op (by rfl) ?_
    refine a_hit (by rfl) ?_
    simp (disch := decide) only [aWord_bits, aWord_bit, ext_hi, ext_lo, ext_all, bit_hi, bit_lo, bit_bool, Nat.reduceSub] <;> rfl
  case hb => simp (disch := decide) only [aWord_hdr, aWord_bits, aWord_bit, ext_hi, ext_lo, ext_all, bit_hi, bit_lo, bit_bool, Nat.reduceSub]

theorem bfi h d a b x : RoundTrip.Statement (.bfi h d a b x) := by
  intro hw code hc
  cases hc
  refine a_find (r := ⟨0x19#7, fun w => w.extractLsb' 0 3 == 0#3, fun w => .bfi (aHdr w) (w.extractLsb' 14 5) (w.extractLsb' 9 5) (w.extractLsb' 4 5) (w.getLsbD 3)⟩) _ (aWord_op _ _ _) ?hf ?hb hw
  case hf =>
    iterate 25 refine a_op (by rfl) ?_
    refine a_hit (by rfl) ?_
    simp (disch := decide) only [aWord_bits, aWord_bit, ext_hi, ext_lo, ext_all, bit_hi, bit_lo, bit_bool, Nat.reduceSub] <;> rfl
  case hb => simp (disch := decide) only [aWord_hdr, aWord_bits, aWord_bit, ext_hi, ext_lo, ext_all, bit_hi, bit_lo, bit_bool, Nat.reduceSub]

theorem min h d a b x w : RoundTrip.Statement (.min h d a b x w) := by
  intro hw code hc
  cases hc
  refine a_find (r := ⟨0x1A#7, fun _ => true, fun w => .min (aHdr w) (w.extractLsb' 14 5) (w.extractLsb' 9 5) (w.extractLsb' 4 5) (w.getLsbD 3) (w.extractLsb' 0 3)⟩) _ (aWord_op _ _ _) ?hf ?hb hw
  case hf =>
    iterate 26 refine a_op (by rfl) ?_
    refine a_hit (by rfl) ?_
    simp (disch := decide) only [aWord_bits, aWord_bit, ext_hi, ext_lo, ext_all, bit_hi, bit_lo, bit_bool, Nat.reduceSub] <;> rfl
  case hb => simp (disch := decide) only [aWord_hdr, aWord_bits, aWord_bit, ext_hi, ext_lo, ext_all, bit_hi, bit_lo, bit_bool, Nat.reduceSub]

theorem max h d a b x w : RoundTrip.Statement (.max h d a b x w) := by
  intro hw code hc
  cases hc
  refine a_find (r := ⟨0x1B#7, fun _ => true, fun w => .max (aHdr w) (w.extractLsb' 14 5) (w.extractLsb' 9 5) (w.extractLsb' 4 5) (w.getLsbD 3) (w.extractLsb' 0 3)⟩) _ (aWord_op _ _ _) ?hf ?hb hw
  case hf =>
    iterate 27 refine a_op (by rfl) ?_
    refine a_hit (by rfl) ?_
    simp (disch := decide) only [aWord_bits, aWord_bit, ext_hi, ext_lo, ext_all, bit_hi, bit_lo, bit_bool, Nat.reduceSub] <;> rfl
  case hb => simp (disch := decide) only [aWord_hdr, aWord_bits, aWord_bit, ext_hi, ext_lo, ext_all, bit_hi, bit_lo, bit_bool, Nat.reduceSub]

theorem minu h d a b x w : RoundTrip.Statement (.minu h d a b x w) := by
  intro hw code hc
  cases hc
  refine a_find (r := ⟨0x1C#7, fun _ => true, fun w => .minu (aHdr w) (w.extractLsb' 14 5) (w.extractLsb' 9 5) (w.extractLsb' 4 5) (w.getLsbD 3) (w.extractLsb' 0 3)⟩) _ (aWord_op _ _ _) ?hf ?hb hw
  case hf =>
    iterate 28 refine a_op (by rfl) ?_
    refine a_hit (by rfl) ?_
    simp (disch := decide) only [aWord_bits, aWord_bit, ext_hi, ext_lo, ext_all, bit_hi, bit_lo, bit_bool, Nat.reduceSub] <;> rfl
  case hb => simp (disch := decide) only [aWord_hdr, aWord_bits, aWord_bit, ext_hi, ext_lo, ext_all, bit_hi, bit_lo, bit_bool, Nat.reduceSub]

theorem maxu h d a b x w : RoundTrip.Statement (.maxu h d a b x w) := by
  intro hw code hc
  cases hc
  refine a_find (r := ⟨0x1D#7, fun _ => true, fun w => .maxu (aHdr w) (w.extractLsb' 14 5) (w.extractLsb' 9 5) (w.extractLsb' 4 5) (w.getLsbD 3) (w.extractLsb' 0 3)⟩) _ (aWord_op _ _ _) ?hf ?hb hw
  case hf =>
    iterate 29 refine a_op (by rfl) ?_
    refine a_hit (by rfl) ?_
    simp (disch := decide) only [aWord_bits, aWord_bit, ext_hi, ext_lo, ext_all, bit_hi, bit_lo, bit_bool, Nat.reduceSub] <;> rfl
  case hb => simp (disch := decide) only [aWord_hdr, aWord_bits, aWord_bit, ext_hi, ext_lo, ext_all, bit_hi, bit_lo, bit_bool, Nat.reduceSub]

theorem sel h d a b x p : RoundTrip.Statement (.sel h d a b x p) := by
  intro hw code hc
  cases hc
  refine a_find (r := ⟨0x1E#7, fun _ => true, fun w => .sel (aHdr w) (w.extractLsb' 14 5) (w.extractLsb' 9 5) (w.extractLsb' 4 5) (w.getLsbD 3) (w.extractLsb' 0 3)⟩) _ (aWord_op _ _ _) ?hf ?hb hw
  case hf =>
    iterate 30 refine a_op (by rfl) ?_
    refine a_hit (by rfl) ?_
    simp (disch := decide) only [aWord_bits, aWord_bit, ext_hi, ext_lo, ext_all, bit_hi, bit_lo, bit_bool, Nat.reduceSub] <;> rfl
  case hb => simp (disch := decide) only [aWord_hdr, aWord_bits, aWord_bit, ext_hi, ext_lo, ext_all, bit_hi, bit_lo, bit_bool, Nat.reduceSub]

theorem mov h d a : RoundTrip.Statement (.mov h d a) := by
  intro hw code hc
  cases hc
  refine a_find (r := ⟨0x1F#7, fun w => w.extractLsb' 0 9 == 0#9, fun w => .mov (aHdr w) (w.extractLsb' 14 5) (w.extractLsb' 9 5)⟩) _ (aWord_op _ _ _) ?hf ?hb hw
  case hf =>
    iterate 31 refine a_op (by rfl) ?_
    refine a_hit (by rfl) ?_
    simp (disch := decide) only [aWord_bits, aWord_bit, ext_hi, ext_lo, ext_all, bit_hi, bit_lo, bit_bool, Nat.reduceSub] <;> rfl
  case hb => simp (disch := decide) only [aWord_hdr, aWord_bits, aWord_bit, ext_hi, ext_lo, ext_all, bit_hi, bit_lo, bit_bool, Nat.reduceSub]

theorem cmp h p a b x c : RoundTrip.Statement (.cmp h p a b x c) := by
  intro hw code hc
  cases hc
  refine a_find (r := ⟨0x20#7, fun _ => true, fun w => .cmp (aHdr w) (w.extractLsb' 15 4) (w.extractLsb' 10 5) (w.extractLsb' 5 5) (w.getLsbD 4) (w.extractLsb' 0 4)⟩) _ (aWord_op _ _ _) ?hf ?hb hw
  case hf =>
    iterate 32 refine a_op (by rfl) ?_
    refine a_hit (by rfl) ?_
    simp (disch := decide) only [aWord_bits, aWord_bit, ext_hi, ext_lo, ext_all, bit_hi, bit_lo, bit_bool, Nat.reduceSub] <;> rfl
  case hb => simp (disch := decide) only [aWord_hdr, aWord_bits, aWord_bit, ext_hi, ext_lo, ext_all, bit_hi, bit_lo, bit_bool, Nat.reduceSub]

theorem cmpi h p a i c : RoundTrip.Statement (.cmpi h p a i c) := by
  intro hw code hc
  cases hc
  refine a_find (r := ⟨0x21#7, fun w => w.extractLsb' 4 1 == 0#1, fun w => .cmpi (aHdr w) (w.extractLsb' 15 4) (w.extractLsb' 10 5) (w.extractLsb' 5 5) (w.extractLsb' 0 4)⟩) _ (aWord_op _ _ _) ?hf ?hb hw
  case hf =>
    iterate 33 refine a_op (by rfl) ?_
    refine a_hit (by rfl) ?_
    simp (disch := decide) only [aWord_bits, aWord_bit, ext_hi, ext_lo, ext_all, bit_hi, bit_lo, bit_bool, Nat.reduceSub] <;> rfl
  case hb => simp (disch := decide) only [aWord_hdr, aWord_bits, aWord_bit, ext_hi, ext_lo, ext_all, bit_hi, bit_lo, bit_bool, Nat.reduceSub]

theorem plog h p a b t : RoundTrip.Statement (.plog h p a b t) := by
  intro hw code hc
  cases hc
  refine a_find (r := ⟨0x22#7, fun w => w.extractLsb' 14 1 == 0#1 && w.extractLsb' 9 1 == 0#1 && w.extractLsb' 4 1 == 0#1, fun w => .plog (aHdr w) (w.extractLsb' 15 4) (w.extractLsb' 10 4) (w.extractLsb' 5 4) (w.extractLsb' 0 4)⟩) _ (aWord_op _ _ _) ?hf ?hb hw
  case hf =>
    iterate 34 refine a_op (by rfl) ?_
    refine a_hit (by rfl) ?_
    simp (disch := decide) only [aWord_bits, aWord_bit, ext_hi, ext_lo, ext_all, bit_hi, bit_lo, bit_bool, Nat.reduceSub] <;> rfl
  case hb => simp (disch := decide) only [aWord_hdr, aWord_bits, aWord_bit, ext_hi, ext_lo, ext_all, bit_hi, bit_lo, bit_bool, Nat.reduceSub]

theorem pmovGet h d : RoundTrip.Statement (.pmovGet h d) := by
  intro hw code hc
  cases hc
  refine a_find (r := ⟨0x23#7, fun w => w.extractLsb' 0 14 == 0#14, fun w => .pmovGet (aHdr w) (w.extractLsb' 14 5)⟩) _ (aWord_op _ _ _) ?hf ?hb hw
  case hf =>
    iterate 35 refine a_op (by rfl) ?_
    refine a_hit (by rfl) ?_
    simp (disch := decide) only [aWord_bits, aWord_bit, ext_hi, ext_lo, ext_all, bit_hi, bit_lo, bit_bool, Nat.reduceSub] <;> rfl
  case hb => simp (disch := decide) only [aWord_hdr, aWord_bits, aWord_bit, ext_hi, ext_lo, ext_all, bit_hi, bit_lo, bit_bool, Nat.reduceSub]

theorem pmovPut h a : RoundTrip.Statement (.pmovPut h a) := by
  intro hw code hc
  cases hc
  refine a_find (r := ⟨0x23#7, fun w => w.extractLsb' 14 5 == 0#5 && w.extractLsb' 0 9 == 1#9, fun w => .pmovPut (aHdr w) (w.extractLsb' 9 5)⟩) _ (aWord_op _ _ _) ?hf ?hb hw
  case hf =>
    iterate 35 refine a_op (by rfl) ?_
    refine a_no ?_ ?_
    · simp (disch := decide) only [aWord_bits, aWord_bit, ext_hi, ext_lo, ext_all, bit_hi, bit_lo, bit_bool, Nat.reduceSub] <;> (first | rfl | (clear hw; revert a; decide))
    refine a_hit (by rfl) ?_
    simp (disch := decide) only [aWord_bits, aWord_bit, ext_hi, ext_lo, ext_all, bit_hi, bit_lo, bit_bool, Nat.reduceSub] <;> (first | rfl | (clear hw; revert a; decide))
  case hb => simp (disch := decide) only [aWord_hdr, aWord_bits, aWord_bit, ext_hi, ext_lo, ext_all, bit_hi, bit_lo, bit_bool, Nat.reduceSub]

theorem xmov h d b : RoundTrip.Statement (.xmov h d b) := by
  intro hw code hc
  cases hc
  refine a_find (r := ⟨0x24#7, fun w => w.extractLsb' 9 5 == 0#5 && w.extractLsb' 0 4 == 8#4, fun w => .xmov (aHdr w) (w.extractLsb' 14 5) (w.extractLsb' 4 5)⟩) _ (aWord_op _ _ _) ?hf ?hb hw
  case hf =>
    iterate 37 refine a_op (by rfl) ?_
    refine a_hit (by rfl) ?_
    simp (disch := decide) only [aWord_bits, aWord_bit, ext_hi, ext_lo, ext_all, bit_hi, bit_lo, bit_bool, Nat.reduceSub] <;> rfl
  case hb => simp (disch := decide) only [aWord_hdr, aWord_bits, aWord_bit, ext_hi, ext_lo, ext_all, bit_hi, bit_lo, bit_bool, Nat.reduceSub]

theorem xmovP h d b : RoundTrip.Statement (.xmovP h d b) := by
  intro hw code hc
  cases hc
  refine a_find (r := ⟨0x24#7, fun w => w.extractLsb' 18 1 == 0#1 && w.extractLsb' 8 6 == 0#6 && w.extractLsb' 0 4 == 9#4, fun w => .xmovP (aHdr w) (w.extractLsb' 14 4) (w.extractLsb' 4 4)⟩) _ (aWord_op _ _ _) ?hf ?hb hw
  case hf =>
    iterate 37 refine a_op (by rfl) ?_
    refine a_no ?_ ?_
    · simp (disch := decide) only [aWord_bits, aWord_bit, ext_hi, ext_lo, ext_all, bit_hi, bit_lo, bit_bool, Nat.reduceSub] <;> rfl
    refine a_hit (by rfl) ?_
    simp (disch := decide) only [aWord_bits, aWord_bit, ext_hi, ext_lo, ext_all, bit_hi, bit_lo, bit_bool, Nat.reduceSub] <;> rfl
  case hb => simp (disch := decide) only [aWord_hdr, aWord_bits, aWord_bit, ext_hi, ext_lo, ext_all, bit_hi, bit_lo, bit_bool, Nat.reduceSub]

theorem addp h d a b x : RoundTrip.Statement (.addp h d a b x) := by
  intro hw code hc
  cases hc
  refine a_find (r := ⟨0x25#7, fun w => w.extractLsb' 0 3 == 0#3, fun w => .addp (aHdr w) (w.extractLsb' 14 5) (w.extractLsb' 9 5) (w.extractLsb' 4 5) (w.getLsbD 3)⟩) _ (aWord_op _ _ _) ?hf ?hb hw
  case hf =>
    iterate 39 refine a_op (by rfl) ?_
    refine a_hit (by rfl) ?_
    simp (disch := decide) only [aWord_bits, aWord_bit, ext_hi, ext_lo, ext_all, bit_hi, bit_lo, bit_bool, Nat.reduceSub] <;> rfl
  case hb => simp (disch := decide) only [aWord_hdr, aWord_bits, aWord_bit, ext_hi, ext_lo, ext_all, bit_hi, bit_lo, bit_bool, Nat.reduceSub]

theorem addpE h d a b x : RoundTrip.Statement (.addpE h d a b x) := by
  intro hw code hc
  cases hc
  refine a_find (r := ⟨0x25#7, fun w => w.extractLsb' 0 3 == 1#3, fun w => .addpE (aHdr w) (w.extractLsb' 14 5) (w.extractLsb' 9 5) (w.extractLsb' 4 5) (w.getLsbD 3)⟩) _ (aWord_op _ _ _) ?hf ?hb hw
  case hf =>
    iterate 39 refine a_op (by rfl) ?_
    refine a_no ?_ ?_
    · simp (disch := decide) only [aWord_bits, aWord_bit, ext_hi, ext_lo, ext_all, bit_hi, bit_lo, bit_bool, Nat.reduceSub] <;> rfl
    refine a_hit (by rfl) ?_
    simp (disch := decide) only [aWord_bits, aWord_bit, ext_hi, ext_lo, ext_all, bit_hi, bit_lo, bit_bool, Nat.reduceSub] <;> rfl
  case hb => simp (disch := decide) only [aWord_hdr, aWord_bits, aWord_bit, ext_hi, ext_lo, ext_all, bit_hi, bit_lo, bit_bool, Nat.reduceSub]

theorem pfmt h d a i : RoundTrip.Statement (.pfmt h d a i) := by
  intro hw code hc
  cases hc
  refine a_find (r := ⟨0x26#7, fun w => w.extractLsb' 8 1 == 0#1, fun w => .pfmt (aHdr w) (w.extractLsb' 14 5) (w.extractLsb' 9 5) (w.extractLsb' 0 8)⟩) _ (aWord_op _ _ _) ?hf ?hb hw
  case hf =>
    iterate 41 refine a_op (by rfl) ?_
    refine a_hit (by rfl) ?_
    simp (disch := decide) only [aWord_bits, aWord_bit, ext_hi, ext_lo, ext_all, bit_hi, bit_lo, bit_bool, Nat.reduceSub] <;> rfl
  case hb => simp (disch := decide) only [aWord_hdr, aWord_bits, aWord_bit, ext_hi, ext_lo, ext_all, bit_hi, bit_lo, bit_bool, Nat.reduceSub]

theorem pfld h d a f : RoundTrip.Statement (.pfld h d a f) := by
  intro hw code hc
  cases hc
  refine a_find (r := ⟨0x27#7, fun w => w.extractLsb' 2 7 == 0#7, fun w => .pfld (aHdr w) (w.extractLsb' 14 5) (w.extractLsb' 9 5) (w.extractLsb' 0 2)⟩) _ (aWord_op _ _ _) ?hf ?hb hw
  case hf =>
    iterate 42 refine a_op (by rfl) ?_
    refine a_hit (by rfl) ?_
    simp (disch := decide) only [aWord_bits, aWord_bit, ext_hi, ext_lo, ext_all, bit_hi, bit_lo, bit_bool, Nat.reduceSub] <;> rfl
  case hb => simp (disch := decide) only [aWord_hdr, aWord_bits, aWord_bit, ext_hi, ext_lo, ext_all, bit_hi, bit_lo, bit_bool, Nat.reduceSub]

theorem gdistCore h d a b x t : RoundTrip.Statement (.gdistCore h d a b x t) := by
  intro hw code hc
  cases hc
  refine a_find (r := ⟨0x28#7, fun w => w.extractLsb' 2 1 == 0#1, fun w => .gdistCore (aHdr w) (w.extractLsb' 14 5) (w.extractLsb' 9 5) (w.extractLsb' 4 5) (w.getLsbD 3) (w.extractLsb' 0 2)⟩) _ (aWord_op _ _ _) ?hf ?hb hw
  case hf =>
    iterate 43 refine a_op (by rfl) ?_
    refine a_hit (by rfl) ?_
    simp (disch := decide) only [aWord_bits, aWord_bit, ext_hi, ext_lo, ext_all, bit_hi, bit_lo, bit_bool, Nat.reduceSub] <;> rfl
  case hb => simp (disch := decide) only [aWord_hdr, aWord_bits, aWord_bit, ext_hi, ext_lo, ext_all, bit_hi, bit_lo, bit_bool, Nat.reduceSub]

theorem gdistOff h d a b x t : RoundTrip.Statement (.gdistOff h d a b x t) := by
  intro hw code hc
  cases hc
  refine a_find (r := ⟨0x28#7, fun w => w.extractLsb' 2 1 == 1#1, fun w => .gdistOff (aHdr w) (w.extractLsb' 14 5) (w.extractLsb' 9 5) (w.extractLsb' 4 5) (w.getLsbD 3) (w.extractLsb' 0 2)⟩) _ (aWord_op _ _ _) ?hf ?hb hw
  case hf =>
    iterate 43 refine a_op (by rfl) ?_
    refine a_no ?_ ?_
    · simp (disch := decide) only [aWord_bits, aWord_bit, ext_hi, ext_lo, ext_all, bit_hi, bit_lo, bit_bool, Nat.reduceSub] <;> rfl
    refine a_hit (by rfl) ?_
    simp (disch := decide) only [aWord_bits, aWord_bit, ext_hi, ext_lo, ext_all, bit_hi, bit_lo, bit_bool, Nat.reduceSub] <;> rfl
  case hb => simp (disch := decide) only [aWord_hdr, aWord_bits, aWord_bit, ext_hi, ext_lo, ext_all, bit_hi, bit_lo, bit_bool, Nat.reduceSub]

theorem fadd h d a b x r : RoundTrip.Statement (.fadd h d a b x r) := by
  intro hw code hc
  cases hc
  refine a_find (r := ⟨0x29#7, fun _ => true, fun w => .fadd (aHdr w) (w.extractLsb' 14 5) (w.extractLsb' 9 5) (w.extractLsb' 4 5) (w.getLsbD 3) (w.extractLsb' 0 3)⟩) _ (aWord_op _ _ _) ?hf ?hb hw
  case hf =>
    iterate 45 refine a_op (by rfl) ?_
    refine a_hit (by rfl) ?_
    simp (disch := decide) only [aWord_bits, aWord_bit, ext_hi, ext_lo, ext_all, bit_hi, bit_lo, bit_bool, Nat.reduceSub] <;> rfl
  case hb => simp (disch := decide) only [aWord_hdr, aWord_bits, aWord_bit, ext_hi, ext_lo, ext_all, bit_hi, bit_lo, bit_bool, Nat.reduceSub]

theorem fsub h d a b x r : RoundTrip.Statement (.fsub h d a b x r) := by
  intro hw code hc
  cases hc
  refine a_find (r := ⟨0x2A#7, fun _ => true, fun w => .fsub (aHdr w) (w.extractLsb' 14 5) (w.extractLsb' 9 5) (w.extractLsb' 4 5) (w.getLsbD 3) (w.extractLsb' 0 3)⟩) _ (aWord_op _ _ _) ?hf ?hb hw
  case hf =>
    iterate 46 refine a_op (by rfl) ?_
    refine a_hit (by rfl) ?_
    simp (disch := decide) only [aWord_bits, aWord_bit, ext_hi, ext_lo, ext_all, bit_hi, bit_lo, bit_bool, Nat.reduceSub] <;> rfl
  case hb => simp (disch := decide) only [aWord_hdr, aWord_bits, aWord_bit, ext_hi, ext_lo, ext_all, bit_hi, bit_lo, bit_bool, Nat.reduceSub]

theorem fmul h d a b x r : RoundTrip.Statement (.fmul h d a b x r) := by
  intro hw code hc
  cases hc
  refine a_find (r := ⟨0x2B#7, fun _ => true, fun w => .fmul (aHdr w) (w.extractLsb' 14 5) (w.extractLsb' 9 5) (w.extractLsb' 4 5) (w.getLsbD 3) (w.extractLsb' 0 3)⟩) _ (aWord_op _ _ _) ?hf ?hb hw
  case hf =>
    iterate 47 refine a_op (by rfl) ?_
    refine a_hit (by rfl) ?_
    simp (disch := decide) only [aWord_bits, aWord_bit, ext_hi, ext_lo, ext_all, bit_hi, bit_lo, bit_bool, Nat.reduceSub] <;> rfl
  case hb => simp (disch := decide) only [aWord_hdr, aWord_bits, aWord_bit, ext_hi, ext_lo, ext_all, bit_hi, bit_lo, bit_bool, Nat.reduceSub]

theorem ffma h d a b x r : RoundTrip.Statement (.ffma h d a b x r) := by
  intro hw code hc
  cases hc
  refine a_find (r := ⟨0x2C#7, fun _ => true, fun w => .ffma (aHdr w) (w.extractLsb' 14 5) (w.extractLsb' 9 5) (w.extractLsb' 4 5) (w.getLsbD 3) (w.extractLsb' 0 3)⟩) _ (aWord_op _ _ _) ?hf ?hb hw
  case hf =>
    iterate 48 refine a_op (by rfl) ?_
    refine a_hit (by rfl) ?_
    simp (disch := decide) only [aWord_bits, aWord_bit, ext_hi, ext_lo, ext_all, bit_hi, bit_lo, bit_bool, Nat.reduceSub] <;> rfl
  case hb => simp (disch := decide) only [aWord_hdr, aWord_bits, aWord_bit, ext_hi, ext_lo, ext_all, bit_hi, bit_lo, bit_bool, Nat.reduceSub]

theorem fmin h d a b x : RoundTrip.Statement (.fmin h d a b x) := by
  intro hw code hc
  cases hc
  refine a_find (r := ⟨0x2D#7, fun w => w.extractLsb' 0 3 == 0#3, fun w => .fmin (aHdr w) (w.extractLsb' 14 5) (w.extractLsb' 9 5) (w.extractLsb' 4 5) (w.getLsbD 3)⟩) _ (aWord_op _ _ _) ?hf ?hb hw
  case hf =>
    iterate 49 refine a_op (by rfl) ?_
    refine a_hit (by rfl) ?_
    simp (disch := decide) only [aWord_bits, aWord_bit, ext_hi, ext_lo, ext_all, bit_hi, bit_lo, bit_bool, Nat.reduceSub] <;> rfl
  case hb => simp (disch := decide) only [aWord_hdr, aWord_bits, aWord_bit, ext_hi, ext_lo, ext_all, bit_hi, bit_lo, bit_bool, Nat.reduceSub]

theorem fmax h d a b x : RoundTrip.Statement (.fmax h d a b x) := by
  intro hw code hc
  cases hc
  refine a_find (r := ⟨0x2E#7, fun w => w.extractLsb' 0 3 == 0#3, fun w => .fmax (aHdr w) (w.extractLsb' 14 5) (w.extractLsb' 9 5) (w.extractLsb' 4 5) (w.getLsbD 3)⟩) _ (aWord_op _ _ _) ?hf ?hb hw
  case hf =>
    iterate 50 refine a_op (by rfl) ?_
    refine a_hit (by rfl) ?_
    simp (disch := decide) only [aWord_bits, aWord_bit, ext_hi, ext_lo, ext_all, bit_hi, bit_lo, bit_bool, Nat.reduceSub] <;> rfl
  case hb => simp (disch := decide) only [aWord_hdr, aWord_bits, aWord_bit, ext_hi, ext_lo, ext_all, bit_hi, bit_lo, bit_bool, Nat.reduceSub]

theorem fcmp h p a b x c : RoundTrip.Statement (.fcmp h p a b x c) := by
  intro hw code hc
  cases hc
  refine a_find (r := ⟨0x2F#7, fun _ => true, fun w => .fcmp (aHdr w) (w.extractLsb' 15 4) (w.extractLsb' 10 5) (w.extractLsb' 5 5) (w.getLsbD 4) (w.extractLsb' 0 4)⟩) _ (aWord_op _ _ _) ?hf ?hb hw
  case hf =>
    iterate 51 refine a_op (by rfl) ?_
    refine a_hit (by rfl) ?_
    simp (disch := decide) only [aWord_bits, aWord_bit, ext_hi, ext_lo, ext_all, bit_hi, bit_lo, bit_bool, Nat.reduceSub] <;> rfl
  case hb => simp (disch := decide) only [aWord_hdr, aWord_bits, aWord_bit, ext_hi, ext_lo, ext_all, bit_hi, bit_lo, bit_bool, Nat.reduceSub]

theorem fcvt h d a k r : RoundTrip.Statement (.fcvt h d a k r) := by
  intro hw code hc
  cases hc
  refine a_find (r := ⟨0x30#7, fun w => w.extractLsb' 3 1 == 0#1, fun w => .fcvt (aHdr w) (w.extractLsb' 14 5) (w.extractLsb' 9 5) (w.extractLsb' 4 5) (w.extractLsb' 0 3)⟩) _ (aWord_op _ _ _) ?hf ?hb hw
  case hf =>
    iterate 52 refine a_op (by rfl) ?_
    refine a_hit (by rfl) ?_
    simp (disch := decide) only [aWord_bits, aWord_bit, ext_hi, ext_lo, ext_all, bit_hi, bit_lo, bit_bool, Nat.reduceSub] <;> rfl
  case hb => simp (disch := decide) only [aWord_hdr, aWord_bits, aWord_bit, ext_hi, ext_lo, ext_all, bit_hi, bit_lo, bit_bool, Nat.reduceSub]

theorem fclass h d a : RoundTrip.Statement (.fclass h d a) := by
  intro hw code hc
  cases hc
  refine a_find (r := ⟨0x31#7, fun w => w.extractLsb' 0 9 == 0#9, fun w => .fclass (aHdr w) (w.extractLsb' 14 5) (w.extractLsb' 9 5)⟩) _ (aWord_op _ _ _) ?hf ?hb hw
  case hf =>
    iterate 53 refine a_op (by rfl) ?_
    refine a_hit (by rfl) ?_
    simp (disch := decide) only [aWord_bits, aWord_bit, ext_hi, ext_lo, ext_all, bit_hi, bit_lo, bit_bool, Nat.reduceSub] <;> rfl
  case hb => simp (disch := decide) only [aWord_hdr, aWord_bits, aWord_bit, ext_hi, ext_lo, ext_all, bit_hi, bit_lo, bit_bool, Nat.reduceSub]

theorem tadd h d a b m v r : RoundTrip.Statement (.tadd h d a b m v r) := by
  intro hw code hc
  cases hc
  refine a_find (r := ⟨0x40#7, fun _ => true, fun w => .tadd (aHdr w) (w.extractLsb' 15 4) (w.extractLsb' 11 4) (w.extractLsb' 7 4) (w.extractLsb' 4 3) (w.getLsbD 3) (w.extractLsb' 0 3)⟩) _ (aWord_op _ _ _) ?hf ?hb hw
  case hf =>
    iterate 54 refine a_op (by rfl) ?_
    refine a_hit (by rfl) ?_
    simp (disch := decide) only [aWord_bits, aWord_bit, ext_hi, ext_lo, ext_all, bit_hi, bit_lo, bit_bool, Nat.reduceSub] <;> rfl
  case hb => simp (disch := decide) only [aWord_hdr, aWord_bits, aWord_bit, ext_hi, ext_lo, ext_all, bit_hi, bit_lo, bit_bool, Nat.reduceSub]

theorem tsub h d a b m v r : RoundTrip.Statement (.tsub h d a b m v r) := by
  intro hw code hc
  cases hc
  refine a_find (r := ⟨0x41#7, fun _ => true, fun w => .tsub (aHdr w) (w.extractLsb' 15 4) (w.extractLsb' 11 4) (w.extractLsb' 7 4) (w.extractLsb' 4 3) (w.getLsbD 3) (w.extractLsb' 0 3)⟩) _ (aWord_op _ _ _) ?hf ?hb hw
  case hf =>
    iterate 55 refine a_op (by rfl) ?_
    refine a_hit (by rfl) ?_
    simp (disch := decide) only [aWord_bits, aWord_bit, ext_hi, ext_lo, ext_all, bit_hi, bit_lo, bit_bool, Nat.reduceSub] <;> rfl
  case hb => simp (disch := decide) only [aWord_hdr, aWord_bits, aWord_bit, ext_hi, ext_lo, ext_all, bit_hi, bit_lo, bit_bool, Nat.reduceSub]

theorem tmul h d a b m v r : RoundTrip.Statement (.tmul h d a b m v r) := by
  intro hw code hc
  cases hc
  refine a_find (r := ⟨0x42#7, fun _ => true, fun w => .tmul (aHdr w) (w.extractLsb' 15 4) (w.extractLsb' 11 4) (w.extractLsb' 7 4) (w.extractLsb' 4 3) (w.getLsbD 3) (w.extractLsb' 0 3)⟩) _ (aWord_op _ _ _) ?hf ?hb hw
  case hf =>
    iterate 56 refine a_op (by rfl) ?_
    refine a_hit (by rfl) ?_
    simp (disch := decide) only [aWord_bits, aWord_bit, ext_hi, ext_lo, ext_all, bit_hi, bit_lo, bit_bool, Nat.reduceSub] <;> rfl
  case hb => simp (disch := decide) only [aWord_hdr, aWord_bits, aWord_bit, ext_hi, ext_lo, ext_all, bit_hi, bit_lo, bit_bool, Nat.reduceSub]

theorem tfma h d a b m v r : RoundTrip.Statement (.tfma h d a b m v r) := by
  intro hw code hc
  cases hc
  refine a_find (r := ⟨0x43#7, fun _ => true, fun w => .tfma (aHdr w) (w.extractLsb' 15 4) (w.extractLsb' 11 4) (w.extractLsb' 7 4) (w.extractLsb' 4 3) (w.getLsbD 3) (w.extractLsb' 0 3)⟩) _ (aWord_op _ _ _) ?hf ?hb hw
  case hf =>
    iterate 57 refine a_op (by rfl) ?_
    refine a_hit (by rfl) ?_
    simp (disch := decide) only [aWord_bits, aWord_bit, ext_hi, ext_lo, ext_all, bit_hi, bit_lo, bit_bool, Nat.reduceSub] <;> rfl
  case hb => simp (disch := decide) only [aWord_hdr, aWord_bits, aWord_bit, ext_hi, ext_lo, ext_all, bit_hi, bit_lo, bit_bool, Nat.reduceSub]

theorem tmax h d a b m : RoundTrip.Statement (.tmax h d a b m) := by
  intro hw code hc
  cases hc
  refine a_find (r := ⟨0x44#7, fun w => w.extractLsb' 0 4 == 0#4, fun w => .tmax (aHdr w) (w.extractLsb' 15 4) (w.extractLsb' 11 4) (w.extractLsb' 7 4) (w.extractLsb' 4 3)⟩) _ (aWord_op _ _ _) ?hf ?hb hw
  case hf =>
    iterate 58 refine a_op (by rfl) ?_
    refine a_hit (by rfl) ?_
    simp (disch := decide) only [aWord_bits, aWord_bit, ext_hi, ext_lo, ext_all, bit_hi, bit_lo, bit_bool, Nat.reduceSub] <;> rfl
  case hb => simp (disch := decide) only [aWord_hdr, aWord_bits, aWord_bit, ext_hi, ext_lo, ext_all, bit_hi, bit_lo, bit_bool, Nat.reduceSub]

theorem tmin h d a b m : RoundTrip.Statement (.tmin h d a b m) := by
  intro hw code hc
  cases hc
  refine a_find (r := ⟨0x45#7, fun w => w.extractLsb' 0 4 == 0#4, fun w => .tmin (aHdr w) (w.extractLsb' 15 4) (w.extractLsb' 11 4) (w.extractLsb' 7 4) (w.extractLsb' 4 3)⟩) _ (aWord_op _ _ _) ?hf ?hb hw
  case hf =>
    iterate 59 refine a_op (by rfl) ?_
    refine a_hit (by rfl) ?_
    simp (disch := decide) only [aWord_bits, aWord_bit, ext_hi, ext_lo, ext_all, bit_hi, bit_lo, bit_bool, Nat.reduceSub] <;> rfl
  case hb => simp (disch := decide) only [aWord_hdr, aWord_bits, aWord_bit, ext_hi, ext_lo, ext_all, bit_hi, bit_lo, bit_bool, Nat.reduceSub]

theorem tabs h d a m : RoundTrip.Statement (.tabs h d a m) := by
  intro hw code hc
  cases hc
  refine a_find (r := ⟨0x46#7, fun w => w.extractLsb' 7 4 == 0#4 && w.extractLsb' 0 4 == 0#4, fun w => .tabs (aHdr w) (w.extractLsb' 15 4) (w.extractLsb' 11 4) (w.extractLsb' 4 3)⟩) _ (aWord_op _ _ _) ?hf ?hb hw
  case hf =>
    iterate 60 refine a_op (by rfl) ?_
    refine a_hit (by rfl) ?_
    simp (disch := decide) only [aWord_bits, aWord_bit, ext_hi, ext_lo, ext_all, bit_hi, bit_lo, bit_bool, Nat.reduceSub] <;> rfl
  case hb => simp (disch := decide) only [aWord_hdr, aWord_bits, aWord_bit, ext_hi, ext_lo, ext_all, bit_hi, bit_lo, bit_bool, Nat.reduceSub]

theorem tneg h d a m : RoundTrip.Statement (.tneg h d a m) := by
  intro hw code hc
  cases hc
  refine a_find (r := ⟨0x47#7, fun w => w.extractLsb' 7 4 == 0#4 && w.extractLsb' 0 4 == 0#4, fun w => .tneg (aHdr w) (w.extractLsb' 15 4) (w.extractLsb' 11 4) (w.extractLsb' 4 3)⟩) _ (aWord_op _ _ _) ?hf ?hb hw
  case hf =>
    iterate 61 refine a_op (by rfl) ?_
    refine a_hit (by rfl) ?_
    simp (disch := decide) only [aWord_bits, aWord_bit, ext_hi, ext_lo, ext_all, bit_hi, bit_lo, bit_bool, Nat.reduceSub] <;> rfl
  case hb => simp (disch := decide) only [aWord_hdr, aWord_bits, aWord_bit, ext_hi, ext_lo, ext_all, bit_hi, bit_lo, bit_bool, Nat.reduceSub]

theorem tcvt h d a k m r : RoundTrip.Statement (.tcvt h d a k m r) := by
  intro hw code hc
  cases hc
  refine a_find (r := ⟨0x48#7, fun w => w.extractLsb' 3 1 == 0#1, fun w => .tcvt (aHdr w) (w.extractLsb' 15 4) (w.extractLsb' 11 4) (w.extractLsb' 7 4) (w.extractLsb' 4 3) (w.extractLsb' 0 3)⟩) _ (aWord_op _ _ _) ?hf ?hb hw
  case hf =>
    iterate 62 refine a_op (by rfl) ?_
    refine a_hit (by rfl) ?_
    simp (disch := decide) only [aWord_bits, aWord_bit, ext_hi, ext_lo, ext_all, bit_hi, bit_lo, bit_bool, Nat.reduceSub] <;> rfl
  case hb => simp (disch := decide) only [aWord_hdr, aWord_bits, aWord_bit, ext_hi, ext_lo, ext_all, bit_hi, bit_lo, bit_bool, Nat.reduceSub]

theorem tqnt h d a t m r : RoundTrip.Statement (.tqnt h d a t m r) := by
  intro hw code hc
  cases hc
  refine a_find (r := ⟨0x49#7, fun w => w.extractLsb' 9 2 == 0#2 && w.extractLsb' 3 1 == 0#1, fun w => .tqnt (aHdr w) (w.extractLsb' 15 4) (w.extractLsb' 11 4) (w.extractLsb' 7 2) (w.extractLsb' 4 3) (w.extractLsb' 0 3)⟩) _ (aWord_op _ _ _) ?hf ?hb hw
  case hf =>
    iterate 63 refine a_op (by rfl) ?_
    refine a_hit (by rfl) ?_
    simp (disch := decide) only [aWord_bits, aWord_bit, ext_hi, ext_lo, ext_all, bit_hi, bit_lo, bit_bool, Nat.reduceSub] <;> rfl
  case hb => simp (disch := decide) only [aWord_hdr, aWord_bits, aWord_bit, ext_hi, ext_lo, ext_all, bit_hi, bit_lo, bit_bool, Nat.reduceSub]

theorem tdq h d a k m r : RoundTrip.Statement (.tdq h d a k m r) := by
  intro hw code hc
  cases hc
  refine a_find (r := ⟨0x4A#7, fun w => w.extractLsb' 3 1 == 0#1, fun w => .tdq (aHdr w) (w.extractLsb' 15 4) (w.extractLsb' 11 4) (w.extractLsb' 7 4) (w.extractLsb' 4 3) (w.extractLsb' 0 3)⟩) _ (aWord_op _ _ _) ?hf ?hb hw
  case hf =>
    iterate 64 refine a_op (by rfl) ?_
    refine a_hit (by rfl) ?_
    simp (disch := decide) only [aWord_bits, aWord_bit, ext_hi, ext_lo, ext_all, bit_hi, bit_lo, bit_bool, Nat.reduceSub] <;> rfl
  case hb => simp (disch := decide) only [aWord_hdr, aWord_bits, aWord_bit, ext_hi, ext_lo, ext_all, bit_hi, bit_lo, bit_bool, Nat.reduceSub]

theorem tscl h d a b m v r : RoundTrip.Statement (.tscl h d a b m v r) := by
  intro hw code hc
  cases hc
  refine a_find (r := ⟨0x4B#7, fun _ => true, fun w => .tscl (aHdr w) (w.extractLsb' 15 4) (w.extractLsb' 11 4) (w.extractLsb' 7 4) (w.extractLsb' 4 3) (w.getLsbD 3) (w.extractLsb' 0 3)⟩) _ (aWord_op _ _ _) ?hf ?hb hw
  case hf =>
    iterate 65 refine a_op (by rfl) ?_
    refine a_hit (by rfl) ?_
    simp (disch := decide) only [aWord_bits, aWord_bit, ext_hi, ext_lo, ext_all, bit_hi, bit_lo, bit_bool, Nat.reduceSub] <;> rfl
  case hb => simp (disch := decide) only [aWord_hdr, aWord_bits, aWord_bit, ext_hi, ext_lo, ext_all, bit_hi, bit_lo, bit_bool, Nat.reduceSub]

theorem tand h d a b m : RoundTrip.Statement (.tand h d a b m) := by
  intro hw code hc
  cases hc
  refine a_find (r := ⟨0x4C#7, fun w => w.extractLsb' 0 4 == 0#4, fun w => .tand (aHdr w) (w.extractLsb' 15 4) (w.extractLsb' 11 4) (w.extractLsb' 7 4) (w.extractLsb' 4 3)⟩) _ (aWord_op _ _ _) ?hf ?hb hw
  case hf =>
    iterate 66 refine a_op (by rfl) ?_
    refine a_hit (by rfl) ?_
    simp (disch := decide) only [aWord_bits, aWord_bit, ext_hi, ext_lo, ext_all, bit_hi, bit_lo, bit_bool, Nat.reduceSub] <;> rfl
  case hb => simp (disch := decide) only [aWord_hdr, aWord_bits, aWord_bit, ext_hi, ext_lo, ext_all, bit_hi, bit_lo, bit_bool, Nat.reduceSub]

theorem tor h d a b m : RoundTrip.Statement (.tor h d a b m) := by
  intro hw code hc
  cases hc
  refine a_find (r := ⟨0x4D#7, fun w => w.extractLsb' 0 4 == 0#4, fun w => .tor (aHdr w) (w.extractLsb' 15 4) (w.extractLsb' 11 4) (w.extractLsb' 7 4) (w.extractLsb' 4 3)⟩) _ (aWord_op _ _ _) ?hf ?hb hw
  case hf =>
    iterate 67 refine a_op (by rfl) ?_
    refine a_hit (by rfl) ?_
    simp (disch := decide) only [aWord_bits, aWord_bit, ext_hi, ext_lo, ext_all, bit_hi, bit_lo, bit_bool, Nat.reduceSub] <;> rfl
  case hb => simp (disch := decide) only [aWord_hdr, aWord_bits, aWord_bit, ext_hi, ext_lo, ext_all, bit_hi, bit_lo, bit_bool, Nat.reduceSub]

theorem txor h d a b m : RoundTrip.Statement (.txor h d a b m) := by
  intro hw code hc
  cases hc
  refine a_find (r := ⟨0x4E#7, fun w => w.extractLsb' 0 4 == 0#4, fun w => .txor (aHdr w) (w.extractLsb' 15 4) (w.extractLsb' 11 4) (w.extractLsb' 7 4) (w.extractLsb' 4 3)⟩) _ (aWord_op _ _ _) ?hf ?hb hw
  case hf =>
    iterate 68 refine a_op (by rfl) ?_
    refine a_hit (by rfl) ?_
    simp (disch := decide) only [aWord_bits, aWord_bit, ext_hi, ext_lo, ext_all, bit_hi, bit_lo, bit_bool, Nat.reduceSub] <;> rfl
  case hb => simp (disch := decide) only [aWord_hdr, aWord_bits, aWord_bit, ext_hi, ext_lo, ext_all, bit_hi, bit_lo, bit_bool, Nat.reduceSub]

theorem tshl h d a b m : RoundTrip.Statement (.tshl h d a b m) := by
  intro hw code hc
  cases hc
  refine a_find (r := ⟨0x4F#7, fun w => w.extractLsb' 0 4 == 0#4, fun w => .tshl (aHdr w) (w.extractLsb' 15 4) (w.extractLsb' 11 4) (w.extractLsb' 7 4) (w.extractLsb' 4 3)⟩) _ (aWord_op _ _ _) ?hf ?hb hw
  case hf =>
    iterate 69 refine a_op (by rfl) ?_
    refine a_hit (by rfl) ?_
    simp (disch := decide) only [aWord_bits, aWord_bit, ext_hi, ext_lo, ext_all, bit_hi, bit_lo, bit_bool, Nat.reduceSub] <;> rfl
  case hb => simp (disch := decide) only [aWord_hdr, aWord_bits, aWord_bit, ext_hi, ext_lo, ext_all, bit_hi, bit_lo, bit_bool, Nat.reduceSub]

theorem tshr h d a b m k : RoundTrip.Statement (.tshr h d a b m k) := by
  intro hw code hc
  cases hc
  refine a_find (r := ⟨0x50#7, fun w => w.extractLsb' 1 3 == 0#3, fun w => .tshr (aHdr w) (w.extractLsb' 15 4) (w.extractLsb' 11 4) (w.extractLsb' 7 4) (w.extractLsb' 4 3) (w.getLsbD 0)⟩) _ (aWord_op _ _ _) ?hf ?hb hw
  case hf =>
    iterate 70 refine a_op (by rfl) ?_
    refine a_hit (by rfl) ?_
    simp (disch := decide) only [aWord_bits, aWord_bit, ext_hi, ext_lo, ext_all, bit_hi, bit_lo, bit_bool, Nat.reduceSub] <;> rfl
  case hb => simp (disch := decide) only [aWord_hdr, aWord_bits, aWord_bit, ext_hi, ext_lo, ext_all, bit_hi, bit_lo, bit_bool, Nat.reduceSub]

theorem tcmp h k a b m c : RoundTrip.Statement (.tcmp h k a b m c) := by
  intro hw code hc
  cases hc
  refine a_find (r := ⟨0x51#7, fun w => w.extractLsb' 18 1 == 0#1, fun w => .tcmp (aHdr w) (w.extractLsb' 15 3) (w.extractLsb' 11 4) (w.extractLsb' 7 4) (w.extractLsb' 4 3) (w.extractLsb' 0 4)⟩) _ (aWord_op _ _ _) ?hf ?hb hw
  case hf =>
    iterate 71 refine a_op (by rfl) ?_
    refine a_hit (by rfl) ?_
    simp (disch := decide) only [aWord_bits, aWord_bit, ext_hi, ext_lo, ext_all, bit_hi, bit_lo, bit_bool, Nat.reduceSub] <;> rfl
  case hb => simp (disch := decide) only [aWord_hdr, aWord_bits, aWord_bit, ext_hi, ext_lo, ext_all, bit_hi, bit_lo, bit_bool, Nat.reduceSub]

theorem tsel h d a b m : RoundTrip.Statement (.tsel h d a b m) := by
  intro hw code hc
  cases hc
  refine a_find (r := ⟨0x52#7, fun w => w.extractLsb' 0 4 == 0#4, fun w => .tsel (aHdr w) (w.extractLsb' 15 4) (w.extractLsb' 11 4) (w.extractLsb' 7 4) (w.extractLsb' 4 3)⟩) _ (aWord_op _ _ _) ?hf ?hb hw
  case hf =>
    iterate 72 refine a_op (by rfl) ?_
    refine a_hit (by rfl) ?_
    simp (disch := decide) only [aWord_bits, aWord_bit, ext_hi, ext_lo, ext_all, bit_hi, bit_lo, bit_bool, Nat.reduceSub] <;> rfl
  case hb => simp (disch := decide) only [aWord_hdr, aWord_bits, aWord_bit, ext_hi, ext_lo, ext_all, bit_hi, bit_lo, bit_bool, Nat.reduceSub]

theorem tcas h d a b m o c : RoundTrip.Statement (.tcas h d a b m o c) := by
  intro hw code hc
  cases hc
  refine a_find (r := ⟨0x53#7, fun w => w.extractLsb' 2 2 == 0#2, fun w => .tcas (aHdr w) (w.extractLsb' 15 4) (w.extractLsb' 11 4) (w.extractLsb' 7 4) (w.extractLsb' 4 3) (w.getLsbD 1) (w.getLsbD 0)⟩) _ (aWord_op _ _ _) ?hf ?hb hw
  case hf =>
    iterate 73 refine a_op (by rfl) ?_
    refine a_hit (by rfl) ?_
    simp (disch := decide) only [aWord_bits, aWord_bit, ext_hi, ext_lo, ext_all, bit_hi, bit_lo, bit_bool, Nat.reduceSub] <;> rfl
  case hb => simp (disch := decide) only [aWord_hdr, aWord_bits, aWord_bit, ext_hi, ext_lo, ext_all, bit_hi, bit_lo, bit_bool, Nat.reduceSub]

theorem tmaxi h d a b m c : RoundTrip.Statement (.tmaxi h d a b m c) := by
  intro hw code hc
  cases hc
  refine a_find (r := ⟨0x54#7, fun w => w.extractLsb' 1 3 == 0#3, fun w => .tmaxi (aHdr w) (w.extractLsb' 15 4) (w.extractLsb' 11 4) (w.extractLsb' 7 4) (w.extractLsb' 4 3) (w.getLsbD 0)⟩) _ (aWord_op _ _ _) ?hf ?hb hw
  case hf =>
    iterate 74 refine a_op (by rfl) ?_
    refine a_hit (by rfl) ?_
    simp (disch := decide) only [aWord_bits, aWord_bit, ext_hi, ext_lo, ext_all, bit_hi, bit_lo, bit_bool, Nat.reduceSub] <;> rfl
  case hb => simp (disch := decide) only [aWord_hdr, aWord_bits, aWord_bit, ext_hi, ext_lo, ext_all, bit_hi, bit_lo, bit_bool, Nat.reduceSub]

theorem tmini h d a b m c : RoundTrip.Statement (.tmini h d a b m c) := by
  intro hw code hc
  cases hc
  refine a_find (r := ⟨0x55#7, fun w => w.extractLsb' 1 3 == 0#3, fun w => .tmini (aHdr w) (w.extractLsb' 15 4) (w.extractLsb' 11 4) (w.extractLsb' 7 4) (w.extractLsb' 4 3) (w.getLsbD 0)⟩) _ (aWord_op _ _ _) ?hf ?hb hw
  case hf =>
    iterate 75 refine a_op (by rfl) ?_
    refine a_hit (by rfl) ?_
    simp (disch := decide) only [aWord_bits, aWord_bit, ext_hi, ext_lo, ext_all, bit_hi, bit_lo, bit_bool, Nat.reduceSub] <;> rfl
  case hb => simp (disch := decide) only [aWord_hdr, aWord_bits, aWord_bit, ext_hi, ext_lo, ext_all, bit_hi, bit_lo, bit_bool, Nat.reduceSub]

theorem tredSum h d a c m r : RoundTrip.Statement (.tredSum h d a c m r) := by
  intro hw code hc
  cases hc
  refine a_find (r := ⟨0x56#7, fun w => w.extractLsb' 10 1 == 0#1 && w.extractLsb' 7 2 == 0#2 && w.extractLsb' 3 1 == 0#1, fun w => .tredSum (aHdr w) (w.extractLsb' 15 4) (w.extractLsb' 11 4) (w.getLsbD 9) (w.extractLsb' 4 3) (w.extractLsb' 0 3)⟩) _ (aWord_op _ _ _) ?hf ?hb hw
  case hf =>
    iterate 76 refine a_op (by rfl) ?_
    refine a_hit (by rfl) ?_
    simp (disch := decide) only [aWord_bits, aWord_bit, ext_hi, ext_lo, ext_all, bit_hi, bit_lo, bit_bool, Nat.reduceSub] <;> rfl
  case hb => simp (disch := decide) only [aWord_hdr, aWord_bits, aWord_bit, ext_hi, ext_lo, ext_all, bit_hi, bit_lo, bit_bool, Nat.reduceSub]

theorem tredMax h d a c m r : RoundTrip.Statement (.tredMax h d a c m r) := by
  intro hw code hc
  cases hc
  refine a_find (r := ⟨0x56#7, fun w => w.extractLsb' 10 1 == 0#1 && w.extractLsb' 7 2 == 1#2 && w.extractLsb' 3 1 == 0#1, fun w => .tredMax (aHdr w) (w.extractLsb' 15 4) (w.extractLsb' 11 4) (w.getLsbD 9) (w.extractLsb' 4 3) (w.extractLsb' 0 3)⟩) _ (aWord_op _ _ _) ?hf ?hb hw
  case hf =>
    iterate 76 refine a_op (by rfl) ?_
    refine a_no ?_ ?_
    · simp (disch := decide) only [aWord_bits, aWord_bit, ext_hi, ext_lo, ext_all, bit_hi, bit_lo, bit_bool, Nat.reduceSub] <;> rfl
    refine a_hit (by rfl) ?_
    simp (disch := decide) only [aWord_bits, aWord_bit, ext_hi, ext_lo, ext_all, bit_hi, bit_lo, bit_bool, Nat.reduceSub] <;> rfl
  case hb => simp (disch := decide) only [aWord_hdr, aWord_bits, aWord_bit, ext_hi, ext_lo, ext_all, bit_hi, bit_lo, bit_bool, Nat.reduceSub]

theorem tredMin h d a c m r : RoundTrip.Statement (.tredMin h d a c m r) := by
  intro hw code hc
  cases hc
  refine a_find (r := ⟨0x56#7, fun w => w.extractLsb' 10 1 == 0#1 && w.extractLsb' 7 2 == 2#2 && w.extractLsb' 3 1 == 0#1, fun w => .tredMin (aHdr w) (w.extractLsb' 15 4) (w.extractLsb' 11 4) (w.getLsbD 9) (w.extractLsb' 4 3) (w.extractLsb' 0 3)⟩) _ (aWord_op _ _ _) ?hf ?hb hw
  case hf =>
    iterate 76 refine a_op (by rfl) ?_
    refine a_no ?_ ?_
    · simp (disch := decide) only [aWord_bits, aWord_bit, ext_hi, ext_lo, ext_all, bit_hi, bit_lo, bit_bool, Nat.reduceSub] <;> rfl
    refine a_no ?_ ?_
    · simp (disch := decide) only [aWord_bits, aWord_bit, ext_hi, ext_lo, ext_all, bit_hi, bit_lo, bit_bool, Nat.reduceSub] <;> rfl
    refine a_hit (by rfl) ?_
    simp (disch := decide) only [aWord_bits, aWord_bit, ext_hi, ext_lo, ext_all, bit_hi, bit_lo, bit_bool, Nat.reduceSub] <;> rfl
  case hb => simp (disch := decide) only [aWord_hdr, aWord_bits, aWord_bit, ext_hi, ext_lo, ext_all, bit_hi, bit_lo, bit_bool, Nat.reduceSub]

theorem tbc h d a m c : RoundTrip.Statement (.tbc h d a m c) := by
  intro hw code hc
  cases hc
  refine a_find (r := ⟨0x57#7, fun w => w.extractLsb' 7 4 == 0#4 && w.extractLsb' 1 3 == 0#3, fun w => .tbc (aHdr w) (w.extractLsb' 15 4) (w.extractLsb' 11 4) (w.extractLsb' 4 3) (w.getLsbD 0)⟩) _ (aWord_op _ _ _) ?hf ?hb hw
  case hf =>
    iterate 79 refine a_op (by rfl) ?_
    refine a_hit (by rfl) ?_
    simp (disch := decide) only [aWord_bits, aWord_bit, ext_hi, ext_lo, ext_all, bit_hi, bit_lo, bit_bool, Nat.reduceSub] <;> rfl
  case hb => simp (disch := decide) only [aWord_hdr, aWord_bits, aWord_bit, ext_hi, ext_lo, ext_all, bit_hi, bit_lo, bit_bool, Nat.reduceSub]

theorem ttr h d a m : RoundTrip.Statement (.ttr h d a m) := by
  intro hw code hc
  cases hc
  refine a_find (r := ⟨0x58#7, fun w => w.extractLsb' 7 4 == 0#4 && w.extractLsb' 0 4 == 0#4, fun w => .ttr (aHdr w) (w.extractLsb' 15 4) (w.extractLsb' 11 4) (w.extractLsb' 4 3)⟩) _ (aWord_op _ _ _) ?hf ?hb hw
  case hf =>
    iterate 80 refine a_op (by rfl) ?_
    refine a_hit (by rfl) ?_
    simp (disch := decide) only [aWord_bits, aWord_bit, ext_hi, ext_lo, ext_all, bit_hi, bit_lo, bit_bool, Nat.reduceSub] <;> rfl
  case hb => simp (disch := decide) only [aWord_hdr, aWord_bits, aWord_bit, ext_hi, ext_lo, ext_all, bit_hi, bit_lo, bit_bool, Nat.reduceSub]

theorem tslc h d a b m : RoundTrip.Statement (.tslc h d a b m) := by
  intro hw code hc
  cases hc
  refine a_find (r := ⟨0x59#7, fun w => w.extractLsb' 0 4 == 0#4, fun w => .tslc (aHdr w) (w.extractLsb' 15 4) (w.extractLsb' 11 4) (w.extractLsb' 7 4) (w.extractLsb' 4 3)⟩) _ (aWord_op _ _ _) ?hf ?hb hw
  case hf =>
    iterate 81 refine a_op (by rfl) ?_
    refine a_hit (by rfl) ?_
    simp (disch := decide) only [aWord_bits, aWord_bit, ext_hi, ext_lo, ext_all, bit_hi, bit_lo, bit_bool, Nat.reduceSub] <;> rfl
  case hb => simp (disch := decide) only [aWord_hdr, aWord_bits, aWord_bit, ext_hi, ext_lo, ext_all, bit_hi, bit_lo, bit_bool, Nat.reduceSub]

theorem tidx h d m c : RoundTrip.Statement (.tidx h d m c) := by
  intro hw code hc
  cases hc
  refine a_find (r := ⟨0x5A#7, fun w => w.extractLsb' 7 8 == 0#8 && w.extractLsb' 1 3 == 0#3, fun w => .tidx (aHdr w) (w.extractLsb' 15 4) (w.extractLsb' 4 3) (w.getLsbD 0)⟩) _ (aWord_op _ _ _) ?hf ?hb hw
  case hf =>
    iterate 82 refine a_op (by rfl) ?_
    refine a_hit (by rfl) ?_
    simp (disch := decide) only [aWord_bits, aWord_bit, ext_hi, ext_lo, ext_all, bit_hi, bit_lo, bit_bool, Nat.reduceSub] <;> rfl
  case hb => simp (disch := decide) only [aWord_hdr, aWord_bits, aWord_bit, ext_hi, ext_lo, ext_all, bit_hi, bit_lo, bit_bool, Nat.reduceSub]

theorem tmov h d a m : RoundTrip.Statement (.tmov h d a m) := by
  intro hw code hc
  cases hc
  refine a_find (r := ⟨0x5B#7, fun w => w.extractLsb' 7 4 == 0#4 && w.extractLsb' 0 4 == 0#4, fun w => .tmov (aHdr w) (w.extractLsb' 15 4) (w.extractLsb' 11 4) (w.extractLsb' 4 3)⟩) _ (aWord_op _ _ _) ?hf ?hb hw
  case hf =>
    iterate 83 refine a_op (by rfl) ?_
    refine a_hit (by rfl) ?_
    simp (disch := decide) only [aWord_bits, aWord_bit, ext_hi, ext_lo, ext_all, bit_hi, bit_lo, bit_bool, Nat.reduceSub] <;> rfl
  case hb => simp (disch := decide) only [aWord_hdr, aWord_bits, aWord_bit, ext_hi, ext_lo, ext_all, bit_hi, bit_lo, bit_bool, Nat.reduceSub]

theorem tfill h d m : RoundTrip.Statement (.tfill h d m) := by
  intro hw code hc
  cases hc
  refine a_find (r := ⟨0x5C#7, fun w => w.extractLsb' 7 8 == 0#8 && w.extractLsb' 0 4 == 0#4, fun w => .tfill (aHdr w) (w.extractLsb' 15 4) (w.extractLsb' 4 3)⟩) _ (aWord_op _ _ _) ?hf ?hb hw
  case hf =>
    iterate 84 refine a_op (by rfl) ?_
    refine a_hit (by rfl) ?_
    simp (disch := decide) only [aWord_bits, aWord_bit, ext_hi, ext_lo, ext_all, bit_hi, bit_lo, bit_bool, Nat.reduceSub] <;> rfl
  case hb => simp (disch := decide) only [aWord_hdr, aWord_bits, aWord_bit, ext_hi, ext_lo, ext_all, bit_hi, bit_lo, bit_bool, Nat.reduceSub]

theorem mlog h j k l m t : RoundTrip.Statement (.mlog h j k l m t) := by
  intro hw code hc
  cases hc
  refine a_find (r := ⟨0x5D#7, fun w => w.extractLsb' 18 1 == 0#1 && w.extractLsb' 14 1 == 0#1 && w.extractLsb' 10 1 == 0#1, fun w => .mlog (aHdr w) (w.extractLsb' 15 3) (w.extractLsb' 11 3) (w.extractLsb' 7 3) (w.extractLsb' 4 3) (w.extractLsb' 0 4)⟩) _ (aWord_op _ _ _) ?hf ?hb hw
  case hf =>
    iterate 85 refine a_op (by rfl) ?_
    refine a_hit (by rfl) ?_
    simp (disch := decide) only [aWord_bits, aWord_bit, ext_hi, ext_lo, ext_all, bit_hi, bit_lo, bit_bool, Nat.reduceSub] <;> rfl
  case hb => simp (disch := decide) only [aWord_hdr, aWord_bits, aWord_bit, ext_hi, ext_lo, ext_all, bit_hi, bit_lo, bit_bool, Nat.reduceSub]

theorem mcnt h d k m : RoundTrip.Statement (.mcnt h d k m) := by
  intro hw code hc
  cases hc
  refine a_find (r := ⟨0x5E#7, fun w => w.extractLsb' 14 1 == 0#1 && w.extractLsb' 7 4 == 0#4 && w.extractLsb' 0 4 == 0#4, fun w => .mcnt (aHdr w) (w.extractLsb' 15 4) (w.extractLsb' 11 3) (w.extractLsb' 4 3)⟩) _ (aWord_op _ _ _) ?hf ?hb hw
  case hf =>
    iterate 86 refine a_op (by rfl) ?_
    refine a_hit (by rfl) ?_
    simp (disch := decide) only [aWord_bits, aWord_bit, ext_hi, ext_lo, ext_all, bit_hi, bit_lo, bit_bool, Nat.reduceSub] <;> rfl
  case hb => simp (disch := decide) only [aWord_hdr, aWord_bits, aWord_bit, ext_hi, ext_lo, ext_all, bit_hi, bit_lo, bit_bool, Nat.reduceSub]

theorem splimWrite h op a : RoundTrip.Statement (.splimWrite h op a) := by
  intro hw code hc
  cases hc
  obtain rfl | rfl | rfl := csrOp op (by simp [Instr.wf] at hw; omega)
  · refine l_find (r := ⟨0xC3#8, fun w x => w.extractLsb' 0 11 == 0#11 && x.extractLsb' 12 20 == 0#20, fun w x => .csrw (cHdr w) (w.extractLsb' 11 5) (x.extractLsb' 0 12)⟩) 0xC3#8 (cWord_long _ _ _ _) (cWord_op _ _ _ _) ?hf ?hb hw
    case hf =>
      iterate 36 refine l_op (by rfl) ?_
      refine l_hit (by rfl) ?_
      simp (disch := decide) only [csrWord, cWord_bits, cWord_bit, ext_hi, ext_lo, ext_all, bit_hi, bit_lo, bit_bool, Nat.reduceSub]; rfl
    case hb =>
      simp (disch := decide) only [csrWord, cWord_hdr, cWord_bits, cWord_bit, ext_hi, ext_lo, ext_all, bit_hi, bit_lo, bit_bool, Nat.reduceSub]
      rfl
  · refine l_find (r := ⟨0xC4#8, fun w x => w.extractLsb' 0 11 == 0#11 && x.extractLsb' 12 20 == 0#20, fun w x => .csrs (cHdr w) (w.extractLsb' 11 5) (x.extractLsb' 0 12)⟩) 0xC4#8 (cWord_long _ _ _ _) (cWord_op _ _ _ _) ?hf ?hb hw
    case hf =>
      iterate 37 refine l_op (by rfl) ?_
      refine l_hit (by rfl) ?_
      simp (disch := decide) only [csrWord, cWord_bits, cWord_bit, ext_hi, ext_lo, ext_all, bit_hi, bit_lo, bit_bool, Nat.reduceSub]; rfl
    case hb =>
      simp (disch := decide) only [csrWord, cWord_hdr, cWord_bits, cWord_bit, ext_hi, ext_lo, ext_all, bit_hi, bit_lo, bit_bool, Nat.reduceSub]
      rfl
  · refine l_find (r := ⟨0xC5#8, fun w x => w.extractLsb' 0 11 == 0#11 && x.extractLsb' 12 20 == 0#20, fun w x => .csrc (cHdr w) (w.extractLsb' 11 5) (x.extractLsb' 0 12)⟩) 0xC5#8 (cWord_long _ _ _ _) (cWord_op _ _ _ _) ?hf ?hb hw
    case hf =>
      iterate 38 refine l_op (by rfl) ?_
      refine l_hit (by rfl) ?_
      simp (disch := decide) only [csrWord, cWord_bits, cWord_bit, ext_hi, ext_lo, ext_all, bit_hi, bit_lo, bit_bool, Nat.reduceSub]; rfl
    case hb =>
      simp (disch := decide) only [csrWord, cWord_hdr, cWord_bits, cWord_bit, ext_hi, ext_lo, ext_all, bit_hi, bit_lo, bit_bool, Nat.reduceSub]
      rfl

theorem spbaseWrite h op a : RoundTrip.Statement (.spbaseWrite h op a) := by
  intro hw code hc
  cases hc
  obtain rfl | rfl | rfl := csrOp op (by simp [Instr.wf] at hw; omega)
  · refine l_find (r := ⟨0xC3#8, fun w x => w.extractLsb' 0 11 == 0#11 && x.extractLsb' 12 20 == 0#20, fun w x => .csrw (cHdr w) (w.extractLsb' 11 5) (x.extractLsb' 0 12)⟩) 0xC3#8 (cWord_long _ _ _ _) (cWord_op _ _ _ _) ?hf ?hb hw
    case hf =>
      iterate 36 refine l_op (by rfl) ?_
      refine l_hit (by rfl) ?_
      simp (disch := decide) only [csrWord, cWord_bits, cWord_bit, ext_hi, ext_lo, ext_all, bit_hi, bit_lo, bit_bool, Nat.reduceSub]; rfl
    case hb =>
      simp (disch := decide) only [csrWord, cWord_hdr, cWord_bits, cWord_bit, ext_hi, ext_lo, ext_all, bit_hi, bit_lo, bit_bool, Nat.reduceSub]
      rfl
  · refine l_find (r := ⟨0xC4#8, fun w x => w.extractLsb' 0 11 == 0#11 && x.extractLsb' 12 20 == 0#20, fun w x => .csrs (cHdr w) (w.extractLsb' 11 5) (x.extractLsb' 0 12)⟩) 0xC4#8 (cWord_long _ _ _ _) (cWord_op _ _ _ _) ?hf ?hb hw
    case hf =>
      iterate 37 refine l_op (by rfl) ?_
      refine l_hit (by rfl) ?_
      simp (disch := decide) only [csrWord, cWord_bits, cWord_bit, ext_hi, ext_lo, ext_all, bit_hi, bit_lo, bit_bool, Nat.reduceSub]; rfl
    case hb =>
      simp (disch := decide) only [csrWord, cWord_hdr, cWord_bits, cWord_bit, ext_hi, ext_lo, ext_all, bit_hi, bit_lo, bit_bool, Nat.reduceSub]
      rfl
  · refine l_find (r := ⟨0xC5#8, fun w x => w.extractLsb' 0 11 == 0#11 && x.extractLsb' 12 20 == 0#20, fun w x => .csrc (cHdr w) (w.extractLsb' 11 5) (x.extractLsb' 0 12)⟩) 0xC5#8 (cWord_long _ _ _ _) (cWord_op _ _ _ _) ?hf ?hb hw
    case hf =>
      iterate 38 refine l_op (by rfl) ?_
      refine l_hit (by rfl) ?_
      simp (disch := decide) only [csrWord, cWord_bits, cWord_bit, ext_hi, ext_lo, ext_all, bit_hi, bit_lo, bit_bool, Nat.reduceSub]; rfl
    case hb =>
      simp (disch := decide) only [csrWord, cWord_hdr, cWord_bits, cWord_bit, ext_hi, ext_lo, ext_all, bit_hi, bit_lo, bit_bool, Nat.reduceSub]
      rfl

theorem tshapeWrite h op a k : RoundTrip.Statement (.tshapeWrite h op a k) := by
  intro hw code hc
  cases hc
  obtain rfl | rfl | rfl := csrOp op (by simp [Instr.wf] at hw; omega)
  · refine l_find (r := ⟨0xC3#8, fun w x => w.extractLsb' 0 11 == 0#11 && x.extractLsb' 12 20 == 0#20, fun w x => .csrw (cHdr w) (w.extractLsb' 11 5) (x.extractLsb' 0 12)⟩) 0xC3#8 (cWord_long _ _ _ _) (cWord_op _ _ _ _) ?hf ?hb hw
    case hf =>
      iterate 36 refine l_op (by rfl) ?_
      refine l_hit (by rfl) ?_
      simp (disch := decide) only [csrWord, cWord_bits, cWord_bit, ext_hi, ext_lo, ext_all, bit_hi, bit_lo, bit_bool, Nat.reduceSub]; rfl
    case hb =>
      simp (disch := decide) only [csrWord, cWord_hdr, cWord_bits, cWord_bit, ext_hi, ext_lo, ext_all, bit_hi, bit_lo, bit_bool, Nat.reduceSub]
      show (ownRowOf h 0#2 a _).getD _ = _
      rw [own_tshapeWrite]; rfl
  · refine l_find (r := ⟨0xC4#8, fun w x => w.extractLsb' 0 11 == 0#11 && x.extractLsb' 12 20 == 0#20, fun w x => .csrs (cHdr w) (w.extractLsb' 11 5) (x.extractLsb' 0 12)⟩) 0xC4#8 (cWord_long _ _ _ _) (cWord_op _ _ _ _) ?hf ?hb hw
    case hf =>
      iterate 37 refine l_op (by rfl) ?_
      refine l_hit (by rfl) ?_
      simp (disch := decide) only [csrWord, cWord_bits, cWord_bit, ext_hi, ext_lo, ext_all, bit_hi, bit_lo, bit_bool, Nat.reduceSub]; rfl
    case hb =>
      simp (disch := decide) only [csrWord, cWord_hdr, cWord_bits, cWord_bit, ext_hi, ext_lo, ext_all, bit_hi, bit_lo, bit_bool, Nat.reduceSub]
      show (ownRowOf h 1#2 a _).getD _ = _
      rw [own_tshapeWrite]; rfl
  · refine l_find (r := ⟨0xC5#8, fun w x => w.extractLsb' 0 11 == 0#11 && x.extractLsb' 12 20 == 0#20, fun w x => .csrc (cHdr w) (w.extractLsb' 11 5) (x.extractLsb' 0 12)⟩) 0xC5#8 (cWord_long _ _ _ _) (cWord_op _ _ _ _) ?hf ?hb hw
    case hf =>
      iterate 38 refine l_op (by rfl) ?_
      refine l_hit (by rfl) ?_
      simp (disch := decide) only [csrWord, cWord_bits, cWord_bit, ext_hi, ext_lo, ext_all, bit_hi, bit_lo, bit_bool, Nat.reduceSub]; rfl
    case hb =>
      simp (disch := decide) only [csrWord, cWord_hdr, cWord_bits, cWord_bit, ext_hi, ext_lo, ext_all, bit_hi, bit_lo, bit_bool, Nat.reduceSub]
      show (ownRowOf h 2#2 a _).getD _ = _
      rw [own_tshapeWrite]; rfl

theorem adWrite h op a k : RoundTrip.Statement (.adWrite h op a k) := by
  intro hw code hc
  cases hc
  obtain rfl | rfl | rfl := csrOp op (by simp [Instr.wf] at hw; omega)
  · refine l_find (r := ⟨0xC3#8, fun w x => w.extractLsb' 0 11 == 0#11 && x.extractLsb' 12 20 == 0#20, fun w x => .csrw (cHdr w) (w.extractLsb' 11 5) (x.extractLsb' 0 12)⟩) 0xC3#8 (cWord_long _ _ _ _) (cWord_op _ _ _ _) ?hf ?hb hw
    case hf =>
      iterate 36 refine l_op (by rfl) ?_
      refine l_hit (by rfl) ?_
      simp (disch := decide) only [csrWord, cWord_bits, cWord_bit, ext_hi, ext_lo, ext_all, bit_hi, bit_lo, bit_bool, Nat.reduceSub]; rfl
    case hb =>
      simp (disch := decide) only [csrWord, cWord_hdr, cWord_bits, cWord_bit, ext_hi, ext_lo, ext_all, bit_hi, bit_lo, bit_bool, Nat.reduceSub]
      show (ownRowOf h 0#2 a _).getD _ = _
      rw [own_adWrite]; rfl
  · refine l_find (r := ⟨0xC4#8, fun w x => w.extractLsb' 0 11 == 0#11 && x.extractLsb' 12 20 == 0#20, fun w x => .csrs (cHdr w) (w.extractLsb' 11 5) (x.extractLsb' 0 12)⟩) 0xC4#8 (cWord_long _ _ _ _) (cWord_op _ _ _ _) ?hf ?hb hw
    case hf =>
      iterate 37 refine l_op (by rfl) ?_
      refine l_hit (by rfl) ?_
      simp (disch := decide) only [csrWord, cWord_bits, cWord_bit, ext_hi, ext_lo, ext_all, bit_hi, bit_lo, bit_bool, Nat.reduceSub]; rfl
    case hb =>
      simp (disch := decide) only [csrWord, cWord_hdr, cWord_bits, cWord_bit, ext_hi, ext_lo, ext_all, bit_hi, bit_lo, bit_bool, Nat.reduceSub]
      show (ownRowOf h 1#2 a _).getD _ = _
      rw [own_adWrite]; rfl
  · refine l_find (r := ⟨0xC5#8, fun w x => w.extractLsb' 0 11 == 0#11 && x.extractLsb' 12 20 == 0#20, fun w x => .csrc (cHdr w) (w.extractLsb' 11 5) (x.extractLsb' 0 12)⟩) 0xC5#8 (cWord_long _ _ _ _) (cWord_op _ _ _ _) ?hf ?hb hw
    case hf =>
      iterate 38 refine l_op (by rfl) ?_
      refine l_hit (by rfl) ?_
      simp (disch := decide) only [csrWord, cWord_bits, cWord_bit, ext_hi, ext_lo, ext_all, bit_hi, bit_lo, bit_bool, Nat.reduceSub]; rfl
    case hb =>
      simp (disch := decide) only [csrWord, cWord_hdr, cWord_bits, cWord_bit, ext_hi, ext_lo, ext_all, bit_hi, bit_lo, bit_bool, Nat.reduceSub]
      show (ownRowOf h 2#2 a _).getD _ = _
      rw [own_adWrite]; rfl

theorem accownWrite h op a : RoundTrip.Statement (.accownWrite h op a) := by
  intro hw code hc
  cases hc
  obtain rfl | rfl | rfl := csrOp op (by simp [Instr.wf] at hw; omega)
  · refine l_find (r := ⟨0xC3#8, fun w x => w.extractLsb' 0 11 == 0#11 && x.extractLsb' 12 20 == 0#20, fun w x => .csrw (cHdr w) (w.extractLsb' 11 5) (x.extractLsb' 0 12)⟩) 0xC3#8 (cWord_long _ _ _ _) (cWord_op _ _ _ _) ?hf ?hb hw
    case hf =>
      iterate 36 refine l_op (by rfl) ?_
      refine l_hit (by rfl) ?_
      simp (disch := decide) only [csrWord, cWord_bits, cWord_bit, ext_hi, ext_lo, ext_all, bit_hi, bit_lo, bit_bool, Nat.reduceSub]; rfl
    case hb =>
      simp (disch := decide) only [csrWord, cWord_hdr, cWord_bits, cWord_bit, ext_hi, ext_lo, ext_all, bit_hi, bit_lo, bit_bool, Nat.reduceSub]
      rfl
  · refine l_find (r := ⟨0xC4#8, fun w x => w.extractLsb' 0 11 == 0#11 && x.extractLsb' 12 20 == 0#20, fun w x => .csrs (cHdr w) (w.extractLsb' 11 5) (x.extractLsb' 0 12)⟩) 0xC4#8 (cWord_long _ _ _ _) (cWord_op _ _ _ _) ?hf ?hb hw
    case hf =>
      iterate 37 refine l_op (by rfl) ?_
      refine l_hit (by rfl) ?_
      simp (disch := decide) only [csrWord, cWord_bits, cWord_bit, ext_hi, ext_lo, ext_all, bit_hi, bit_lo, bit_bool, Nat.reduceSub]; rfl
    case hb =>
      simp (disch := decide) only [csrWord, cWord_hdr, cWord_bits, cWord_bit, ext_hi, ext_lo, ext_all, bit_hi, bit_lo, bit_bool, Nat.reduceSub]
      rfl
  · refine l_find (r := ⟨0xC5#8, fun w x => w.extractLsb' 0 11 == 0#11 && x.extractLsb' 12 20 == 0#20, fun w x => .csrc (cHdr w) (w.extractLsb' 11 5) (x.extractLsb' 0 12)⟩) 0xC5#8 (cWord_long _ _ _ _) (cWord_op _ _ _ _) ?hf ?hb hw
    case hf =>
      iterate 38 refine l_op (by rfl) ?_
      refine l_hit (by rfl) ?_
      simp (disch := decide) only [csrWord, cWord_bits, cWord_bit, ext_hi, ext_lo, ext_all, bit_hi, bit_lo, bit_bool, Nat.reduceSub]; rfl
    case hb =>
      simp (disch := decide) only [csrWord, cWord_hdr, cWord_bits, cWord_bit, ext_hi, ext_lo, ext_all, bit_hi, bit_lo, bit_bool, Nat.reduceSub]
      rfl

theorem tileownWrite h op a : RoundTrip.Statement (.tileownWrite h op a) := by
  intro hw code hc
  cases hc
  obtain rfl | rfl | rfl := csrOp op (by simp [Instr.wf] at hw; omega)
  · refine l_find (r := ⟨0xC3#8, fun w x => w.extractLsb' 0 11 == 0#11 && x.extractLsb' 12 20 == 0#20, fun w x => .csrw (cHdr w) (w.extractLsb' 11 5) (x.extractLsb' 0 12)⟩) 0xC3#8 (cWord_long _ _ _ _) (cWord_op _ _ _ _) ?hf ?hb hw
    case hf =>
      iterate 36 refine l_op (by rfl) ?_
      refine l_hit (by rfl) ?_
      simp (disch := decide) only [csrWord, cWord_bits, cWord_bit, ext_hi, ext_lo, ext_all, bit_hi, bit_lo, bit_bool, Nat.reduceSub]; rfl
    case hb =>
      simp (disch := decide) only [csrWord, cWord_hdr, cWord_bits, cWord_bit, ext_hi, ext_lo, ext_all, bit_hi, bit_lo, bit_bool, Nat.reduceSub]
      rfl
  · refine l_find (r := ⟨0xC4#8, fun w x => w.extractLsb' 0 11 == 0#11 && x.extractLsb' 12 20 == 0#20, fun w x => .csrs (cHdr w) (w.extractLsb' 11 5) (x.extractLsb' 0 12)⟩) 0xC4#8 (cWord_long _ _ _ _) (cWord_op _ _ _ _) ?hf ?hb hw
    case hf =>
      iterate 37 refine l_op (by rfl) ?_
      refine l_hit (by rfl) ?_
      simp (disch := decide) only [csrWord, cWord_bits, cWord_bit, ext_hi, ext_lo, ext_all, bit_hi, bit_lo, bit_bool, Nat.reduceSub]; rfl
    case hb =>
      simp (disch := decide) only [csrWord, cWord_hdr, cWord_bits, cWord_bit, ext_hi, ext_lo, ext_all, bit_hi, bit_lo, bit_bool, Nat.reduceSub]
      rfl
  · refine l_find (r := ⟨0xC5#8, fun w x => w.extractLsb' 0 11 == 0#11 && x.extractLsb' 12 20 == 0#20, fun w x => .csrc (cHdr w) (w.extractLsb' 11 5) (x.extractLsb' 0 12)⟩) 0xC5#8 (cWord_long _ _ _ _) (cWord_op _ _ _ _) ?hf ?hb hw
    case hf =>
      iterate 38 refine l_op (by rfl) ?_
      refine l_hit (by rfl) ?_
      simp (disch := decide) only [csrWord, cWord_bits, cWord_bit, ext_hi, ext_lo, ext_all, bit_hi, bit_lo, bit_bool, Nat.reduceSub]; rfl
    case hb =>
      simp (disch := decide) only [csrWord, cWord_hdr, cWord_bits, cWord_bit, ext_hi, ext_lo, ext_all, bit_hi, bit_lo, bit_bool, Nat.reduceSub]
      rfl

theorem trestartWrite h op a : RoundTrip.Statement (.trestartWrite h op a) := by
  intro hw code hc
  cases hc
  obtain rfl | rfl | rfl := csrOp op (by simp [Instr.wf] at hw; omega)
  · refine l_find (r := ⟨0xC3#8, fun w x => w.extractLsb' 0 11 == 0#11 && x.extractLsb' 12 20 == 0#20, fun w x => .csrw (cHdr w) (w.extractLsb' 11 5) (x.extractLsb' 0 12)⟩) 0xC3#8 (cWord_long _ _ _ _) (cWord_op _ _ _ _) ?hf ?hb hw
    case hf =>
      iterate 36 refine l_op (by rfl) ?_
      refine l_hit (by rfl) ?_
      simp (disch := decide) only [csrWord, cWord_bits, cWord_bit, ext_hi, ext_lo, ext_all, bit_hi, bit_lo, bit_bool, Nat.reduceSub]; rfl
    case hb =>
      simp (disch := decide) only [csrWord, cWord_hdr, cWord_bits, cWord_bit, ext_hi, ext_lo, ext_all, bit_hi, bit_lo, bit_bool, Nat.reduceSub]
      rfl
  · refine l_find (r := ⟨0xC4#8, fun w x => w.extractLsb' 0 11 == 0#11 && x.extractLsb' 12 20 == 0#20, fun w x => .csrs (cHdr w) (w.extractLsb' 11 5) (x.extractLsb' 0 12)⟩) 0xC4#8 (cWord_long _ _ _ _) (cWord_op _ _ _ _) ?hf ?hb hw
    case hf =>
      iterate 37 refine l_op (by rfl) ?_
      refine l_hit (by rfl) ?_
      simp (disch := decide) only [csrWord, cWord_bits, cWord_bit, ext_hi, ext_lo, ext_all, bit_hi, bit_lo, bit_bool, Nat.reduceSub]; rfl
    case hb =>
      simp (disch := decide) only [csrWord, cWord_hdr, cWord_bits, cWord_bit, ext_hi, ext_lo, ext_all, bit_hi, bit_lo, bit_bool, Nat.reduceSub]
      rfl
  · refine l_find (r := ⟨0xC5#8, fun w x => w.extractLsb' 0 11 == 0#11 && x.extractLsb' 12 20 == 0#20, fun w x => .csrc (cHdr w) (w.extractLsb' 11 5) (x.extractLsb' 0 12)⟩) 0xC5#8 (cWord_long _ _ _ _) (cWord_op _ _ _ _) ?hf ?hb hw
    case hf =>
      iterate 38 refine l_op (by rfl) ?_
      refine l_hit (by rfl) ?_
      simp (disch := decide) only [csrWord, cWord_bits, cWord_bit, ext_hi, ext_lo, ext_all, bit_hi, bit_lo, bit_bool, Nat.reduceSub]; rfl
    case hb =>
      simp (disch := decide) only [csrWord, cWord_hdr, cWord_bits, cWord_bit, ext_hi, ext_lo, ext_all, bit_hi, bit_lo, bit_bool, Nat.reduceSub]
      rfl

theorem extentWrite h op a t k : RoundTrip.Statement (.extentWrite h op a t k) := by
  intro hw code hc
  cases hc
  obtain rfl | rfl | rfl := csrOp op (by simp [Instr.wf] at hw; omega)
  · refine l_find (r := ⟨0xC3#8, fun w x => w.extractLsb' 0 11 == 0#11 && x.extractLsb' 12 20 == 0#20, fun w x => .csrw (cHdr w) (w.extractLsb' 11 5) (x.extractLsb' 0 12)⟩) 0xC3#8 (cWord_long _ _ _ _) (cWord_op _ _ _ _) ?hf ?hb hw
    case hf =>
      iterate 36 refine l_op (by rfl) ?_
      refine l_hit (by rfl) ?_
      simp (disch := decide) only [csrWord, cWord_bits, cWord_bit, ext_hi, ext_lo, ext_all, bit_hi, bit_lo, bit_bool, Nat.reduceSub]; rfl
    case hb =>
      simp (disch := decide) only [csrWord, cWord_hdr, cWord_bits, cWord_bit, ext_hi, ext_lo, ext_all, bit_hi, bit_lo, bit_bool, Nat.reduceSub]
      show (ownRowOf h 0#2 a _).getD _ = _
      rw [own_extentWrite hw]; rfl
  · refine l_find (r := ⟨0xC4#8, fun w x => w.extractLsb' 0 11 == 0#11 && x.extractLsb' 12 20 == 0#20, fun w x => .csrs (cHdr w) (w.extractLsb' 11 5) (x.extractLsb' 0 12)⟩) 0xC4#8 (cWord_long _ _ _ _) (cWord_op _ _ _ _) ?hf ?hb hw
    case hf =>
      iterate 37 refine l_op (by rfl) ?_
      refine l_hit (by rfl) ?_
      simp (disch := decide) only [csrWord, cWord_bits, cWord_bit, ext_hi, ext_lo, ext_all, bit_hi, bit_lo, bit_bool, Nat.reduceSub]; rfl
    case hb =>
      simp (disch := decide) only [csrWord, cWord_hdr, cWord_bits, cWord_bit, ext_hi, ext_lo, ext_all, bit_hi, bit_lo, bit_bool, Nat.reduceSub]
      show (ownRowOf h 1#2 a _).getD _ = _
      rw [own_extentWrite hw]; rfl
  · refine l_find (r := ⟨0xC5#8, fun w x => w.extractLsb' 0 11 == 0#11 && x.extractLsb' 12 20 == 0#20, fun w x => .csrc (cHdr w) (w.extractLsb' 11 5) (x.extractLsb' 0 12)⟩) 0xC5#8 (cWord_long _ _ _ _) (cWord_op _ _ _ _) ?hf ?hb hw
    case hf =>
      iterate 38 refine l_op (by rfl) ?_
      refine l_hit (by rfl) ?_
      simp (disch := decide) only [csrWord, cWord_bits, cWord_bit, ext_hi, ext_lo, ext_all, bit_hi, bit_lo, bit_bool, Nat.reduceSub]; rfl
    case hb =>
      simp (disch := decide) only [csrWord, cWord_hdr, cWord_bits, cWord_bit, ext_hi, ext_lo, ext_all, bit_hi, bit_lo, bit_bool, Nat.reduceSub]
      show (ownRowOf h 2#2 a _).getD _ = _
      rw [own_extentWrite hw]; rfl

theorem errqsWrite h op a : RoundTrip.Statement (.errqsWrite h op a) := by
  intro hw code hc
  cases hc
  obtain rfl | rfl | rfl := csrOp op (by simp [Instr.wf] at hw; omega)
  · refine l_find (r := ⟨0xC3#8, fun w x => w.extractLsb' 0 11 == 0#11 && x.extractLsb' 12 20 == 0#20, fun w x => .csrw (cHdr w) (w.extractLsb' 11 5) (x.extractLsb' 0 12)⟩) 0xC3#8 (cWord_long _ _ _ _) (cWord_op _ _ _ _) ?hf ?hb hw
    case hf =>
      iterate 36 refine l_op (by rfl) ?_
      refine l_hit (by rfl) ?_
      simp (disch := decide) only [csrWord, cWord_bits, cWord_bit, ext_hi, ext_lo, ext_all, bit_hi, bit_lo, bit_bool, Nat.reduceSub]; rfl
    case hb =>
      simp (disch := decide) only [csrWord, cWord_hdr, cWord_bits, cWord_bit, ext_hi, ext_lo, ext_all, bit_hi, bit_lo, bit_bool, Nat.reduceSub]
      rfl
  · refine l_find (r := ⟨0xC4#8, fun w x => w.extractLsb' 0 11 == 0#11 && x.extractLsb' 12 20 == 0#20, fun w x => .csrs (cHdr w) (w.extractLsb' 11 5) (x.extractLsb' 0 12)⟩) 0xC4#8 (cWord_long _ _ _ _) (cWord_op _ _ _ _) ?hf ?hb hw
    case hf =>
      iterate 37 refine l_op (by rfl) ?_
      refine l_hit (by rfl) ?_
      simp (disch := decide) only [csrWord, cWord_bits, cWord_bit, ext_hi, ext_lo, ext_all, bit_hi, bit_lo, bit_bool, Nat.reduceSub]; rfl
    case hb =>
      simp (disch := decide) only [csrWord, cWord_hdr, cWord_bits, cWord_bit, ext_hi, ext_lo, ext_all, bit_hi, bit_lo, bit_bool, Nat.reduceSub]
      rfl
  · refine l_find (r := ⟨0xC5#8, fun w x => w.extractLsb' 0 11 == 0#11 && x.extractLsb' 12 20 == 0#20, fun w x => .csrc (cHdr w) (w.extractLsb' 11 5) (x.extractLsb' 0 12)⟩) 0xC5#8 (cWord_long _ _ _ _) (cWord_op _ _ _ _) ?hf ?hb hw
    case hf =>
      iterate 38 refine l_op (by rfl) ?_
      refine l_hit (by rfl) ?_
      simp (disch := decide) only [csrWord, cWord_bits, cWord_bit, ext_hi, ext_lo, ext_all, bit_hi, bit_lo, bit_bool, Nat.reduceSub]; rfl
    case hb =>
      simp (disch := decide) only [csrWord, cWord_hdr, cWord_bits, cWord_bit, ext_hi, ext_lo, ext_all, bit_hi, bit_lo, bit_bool, Nat.reduceSub]
      rfl

theorem srlfsrWrite h op a : RoundTrip.Statement (.srlfsrWrite h op a) := by
  intro hw code hc
  cases hc
  obtain rfl | rfl | rfl := csrOp op (by simp [Instr.wf] at hw; omega)
  · refine l_find (r := ⟨0xC3#8, fun w x => w.extractLsb' 0 11 == 0#11 && x.extractLsb' 12 20 == 0#20, fun w x => .csrw (cHdr w) (w.extractLsb' 11 5) (x.extractLsb' 0 12)⟩) 0xC3#8 (cWord_long _ _ _ _) (cWord_op _ _ _ _) ?hf ?hb hw
    case hf =>
      iterate 36 refine l_op (by rfl) ?_
      refine l_hit (by rfl) ?_
      simp (disch := decide) only [csrWord, cWord_bits, cWord_bit, ext_hi, ext_lo, ext_all, bit_hi, bit_lo, bit_bool, Nat.reduceSub]; rfl
    case hb =>
      simp (disch := decide) only [csrWord, cWord_hdr, cWord_bits, cWord_bit, ext_hi, ext_lo, ext_all, bit_hi, bit_lo, bit_bool, Nat.reduceSub]
      rfl
  · refine l_find (r := ⟨0xC4#8, fun w x => w.extractLsb' 0 11 == 0#11 && x.extractLsb' 12 20 == 0#20, fun w x => .csrs (cHdr w) (w.extractLsb' 11 5) (x.extractLsb' 0 12)⟩) 0xC4#8 (cWord_long _ _ _ _) (cWord_op _ _ _ _) ?hf ?hb hw
    case hf =>
      iterate 37 refine l_op (by rfl) ?_
      refine l_hit (by rfl) ?_
      simp (disch := decide) only [csrWord, cWord_bits, cWord_bit, ext_hi, ext_lo, ext_all, bit_hi, bit_lo, bit_bool, Nat.reduceSub]; rfl
    case hb =>
      simp (disch := decide) only [csrWord, cWord_hdr, cWord_bits, cWord_bit, ext_hi, ext_lo, ext_all, bit_hi, bit_lo, bit_bool, Nat.reduceSub]
      rfl
  · refine l_find (r := ⟨0xC5#8, fun w x => w.extractLsb' 0 11 == 0#11 && x.extractLsb' 12 20 == 0#20, fun w x => .csrc (cHdr w) (w.extractLsb' 11 5) (x.extractLsb' 0 12)⟩) 0xC5#8 (cWord_long _ _ _ _) (cWord_op _ _ _ _) ?hf ?hb hw
    case hf =>
      iterate 38 refine l_op (by rfl) ?_
      refine l_hit (by rfl) ?_
      simp (disch := decide) only [csrWord, cWord_bits, cWord_bit, ext_hi, ext_lo, ext_all, bit_hi, bit_lo, bit_bool, Nat.reduceSub]; rfl
    case hb =>
      simp (disch := decide) only [csrWord, cWord_hdr, cWord_bits, cWord_bit, ext_hi, ext_lo, ext_all, bit_hi, bit_lo, bit_bool, Nat.reduceSub]
      rfl

theorem vshareWrite h op a : RoundTrip.Statement (.vshareWrite h op a) := by
  intro hw code hc
  cases hc
  obtain rfl | rfl | rfl := csrOp op (by simp [Instr.wf] at hw; omega)
  · refine l_find (r := ⟨0xC3#8, fun w x => w.extractLsb' 0 11 == 0#11 && x.extractLsb' 12 20 == 0#20, fun w x => .csrw (cHdr w) (w.extractLsb' 11 5) (x.extractLsb' 0 12)⟩) 0xC3#8 (cWord_long _ _ _ _) (cWord_op _ _ _ _) ?hf ?hb hw
    case hf =>
      iterate 36 refine l_op (by rfl) ?_
      refine l_hit (by rfl) ?_
      simp (disch := decide) only [csrWord, cWord_bits, cWord_bit, ext_hi, ext_lo, ext_all, bit_hi, bit_lo, bit_bool, Nat.reduceSub]; rfl
    case hb =>
      simp (disch := decide) only [csrWord, cWord_hdr, cWord_bits, cWord_bit, ext_hi, ext_lo, ext_all, bit_hi, bit_lo, bit_bool, Nat.reduceSub]
      rfl
  · refine l_find (r := ⟨0xC4#8, fun w x => w.extractLsb' 0 11 == 0#11 && x.extractLsb' 12 20 == 0#20, fun w x => .csrs (cHdr w) (w.extractLsb' 11 5) (x.extractLsb' 0 12)⟩) 0xC4#8 (cWord_long _ _ _ _) (cWord_op _ _ _ _) ?hf ?hb hw
    case hf =>
      iterate 37 refine l_op (by rfl) ?_
      refine l_hit (by rfl) ?_
      simp (disch := decide) only [csrWord, cWord_bits, cWord_bit, ext_hi, ext_lo, ext_all, bit_hi, bit_lo, bit_bool, Nat.reduceSub]; rfl
    case hb =>
      simp (disch := decide) only [csrWord, cWord_hdr, cWord_bits, cWord_bit, ext_hi, ext_lo, ext_all, bit_hi, bit_lo, bit_bool, Nat.reduceSub]
      rfl
  · refine l_find (r := ⟨0xC5#8, fun w x => w.extractLsb' 0 11 == 0#11 && x.extractLsb' 12 20 == 0#20, fun w x => .csrc (cHdr w) (w.extractLsb' 11 5) (x.extractLsb' 0 12)⟩) 0xC5#8 (cWord_long _ _ _ _) (cWord_op _ _ _ _) ?hf ?hb hw
    case hf =>
      iterate 38 refine l_op (by rfl) ?_
      refine l_hit (by rfl) ?_
      simp (disch := decide) only [csrWord, cWord_bits, cWord_bit, ext_hi, ext_lo, ext_all, bit_hi, bit_lo, bit_bool, Nat.reduceSub]; rfl
    case hb =>
      simp (disch := decide) only [csrWord, cWord_hdr, cWord_bits, cWord_bit, ext_hi, ext_lo, ext_all, bit_hi, bit_lo, bit_bool, Nat.reduceSub]
      rfl

theorem capkeyWrite h op a hi : RoundTrip.Statement (.capkeyWrite h op a hi) := by
  intro hw code hc
  cases hc
  obtain rfl | rfl | rfl := csrOp op (by simp [Instr.wf] at hw; omega)
  · refine l_find (r := ⟨0xC3#8, fun w x => w.extractLsb' 0 11 == 0#11 && x.extractLsb' 12 20 == 0#20, fun w x => .csrw (cHdr w) (w.extractLsb' 11 5) (x.extractLsb' 0 12)⟩) 0xC3#8 (cWord_long _ _ _ _) (cWord_op _ _ _ _) ?hf ?hb hw
    case hf =>
      iterate 36 refine l_op (by rfl) ?_
      refine l_hit (by rfl) ?_
      simp (disch := decide) only [csrWord, cWord_bits, cWord_bit, ext_hi, ext_lo, ext_all, bit_hi, bit_lo, bit_bool, Nat.reduceSub]; rfl
    case hb =>
      simp (disch := decide) only [csrWord, cWord_hdr, cWord_bits, cWord_bit, ext_hi, ext_lo, ext_all, bit_hi, bit_lo, bit_bool, Nat.reduceSub]
      show (ownRowOf h 0#2 a _).getD _ = _
      rw [own_capkeyWrite]; rfl
  · refine l_find (r := ⟨0xC4#8, fun w x => w.extractLsb' 0 11 == 0#11 && x.extractLsb' 12 20 == 0#20, fun w x => .csrs (cHdr w) (w.extractLsb' 11 5) (x.extractLsb' 0 12)⟩) 0xC4#8 (cWord_long _ _ _ _) (cWord_op _ _ _ _) ?hf ?hb hw
    case hf =>
      iterate 37 refine l_op (by rfl) ?_
      refine l_hit (by rfl) ?_
      simp (disch := decide) only [csrWord, cWord_bits, cWord_bit, ext_hi, ext_lo, ext_all, bit_hi, bit_lo, bit_bool, Nat.reduceSub]; rfl
    case hb =>
      simp (disch := decide) only [csrWord, cWord_hdr, cWord_bits, cWord_bit, ext_hi, ext_lo, ext_all, bit_hi, bit_lo, bit_bool, Nat.reduceSub]
      show (ownRowOf h 1#2 a _).getD _ = _
      rw [own_capkeyWrite]; rfl
  · refine l_find (r := ⟨0xC5#8, fun w x => w.extractLsb' 0 11 == 0#11 && x.extractLsb' 12 20 == 0#20, fun w x => .csrc (cHdr w) (w.extractLsb' 11 5) (x.extractLsb' 0 12)⟩) 0xC5#8 (cWord_long _ _ _ _) (cWord_op _ _ _ _) ?hf ?hb hw
    case hf =>
      iterate 38 refine l_op (by rfl) ?_
      refine l_hit (by rfl) ?_
      simp (disch := decide) only [csrWord, cWord_bits, cWord_bit, ext_hi, ext_lo, ext_all, bit_hi, bit_lo, bit_bool, Nat.reduceSub]; rfl
    case hb =>
      simp (disch := decide) only [csrWord, cWord_hdr, cWord_bits, cWord_bit, ext_hi, ext_lo, ext_all, bit_hi, bit_lo, bit_bool, Nat.reduceSub]
      show (ownRowOf h 2#2 a _).getD _ = _
      rw [own_capkeyWrite]; rfl

theorem releaseAcc k : RoundTrip.Statement (.releaseAcc k) := fun _ _ hc => nomatch hc

theorem releaseTile k : RoundTrip.Statement (.releaseTile k) := fun _ _ hc => nomatch hc

theorem dptimeoutWrite v : RoundTrip.Statement (.dptimeoutWrite v) := fun _ _ hc => nomatch hc

theorem pendingResultWrite k value i1 v : RoundTrip.Statement (.pendingResultWrite k value i1 v) := fun _ _ hc => nomatch hc

theorem taskStepEnd id : RoundTrip.Statement (.taskStepEnd id) := fun _ _ hc => nomatch hc

theorem xldResponse id part data fail : RoundTrip.Statement (.xldResponse id part data fail) := fun _ _ hc => nomatch hc

theorem xatrResponse id old fail : RoundTrip.Statement (.xatrResponse id old fail) := fun _ _ hc => nomatch hc

theorem serverAck id part fail : RoundTrip.Statement (.serverAck id part fail) := fun _ _ hc => nomatch hc

theorem serverRequest q : RoundTrip.Statement (.serverRequest q) := fun _ _ hc => nomatch hc

theorem weighhouseAtomic q : RoundTrip.Statement (.weighhouseAtomic q) := fun _ _ hc => nomatch hc

theorem porterActiveMessage p : RoundTrip.Statement (.porterActiveMessage p) := fun _ _ hc => nomatch hc

theorem porterLanding d : RoundTrip.Statement (.porterLanding d) := fun _ _ hc => nomatch hc

theorem porterCompletionReport id fail : RoundTrip.Statement (.porterCompletionReport id fail) := fun _ _ hc => nomatch hc

theorem peerDeadResponse id : RoundTrip.Statement (.peerDeadResponse id) := fun _ _ hc => nomatch hc

theorem eagerArrival m : RoundTrip.Statement (.eagerArrival m) := fun _ _ hc => nomatch hc

theorem rendezvousArrival m : RoundTrip.Statement (.rendezvousArrival m) := fun _ _ hc => nomatch hc

theorem landingComplete r no data scaleSeq : RoundTrip.Statement (.landingComplete r no data scaleSeq) := fun _ _ hc => nomatch hc

theorem acceptanceNotice id : RoundTrip.Statement (.acceptanceNotice id) := fun _ _ hc => nomatch hc

theorem demotionNotice id : RoundTrip.Statement (.demotionNotice id) := fun _ _ hc => nomatch hc

theorem refusalNotice id : RoundTrip.Statement (.refusalNotice id) := fun _ _ hc => nomatch hc

theorem clearToSend id x : RoundTrip.Statement (.clearToSend id x) := fun _ _ hc => nomatch hc

theorem sendAcknowledged id : RoundTrip.Statement (.sendAcknowledged id) := fun _ _ hc => nomatch hc

theorem destEnded id : RoundTrip.Statement (.destEnded id) := fun _ _ hc => nomatch hc

theorem markerArrival r peer n closing : RoundTrip.Statement (.markerArrival r peer n closing) := fun _ _ hc => nomatch hc

theorem eventArrival e d : RoundTrip.Statement (.eventArrival e d) := fun _ _ hc => nomatch hc

theorem mmarCommandArrival c : RoundTrip.Statement (.mmarCommandArrival c) := fun _ _ hc => nomatch hc

theorem accxMessageArrival m : RoundTrip.Statement (.accxMessageArrival m) := fun _ _ hc => nomatch hc

theorem freeTokenCombine router b t : RoundTrip.Statement (.freeTokenCombine router b t) := fun _ _ hc => nomatch hc

theorem freeTokenArrival t : RoundTrip.Statement (.freeTokenArrival t) := fun _ _ hc => nomatch hc

theorem senderErrorReport r cause ctx pair ptr peer info : RoundTrip.Statement (.senderErrorReport r cause ctx pair ptr peer info) := fun _ _ hc => nomatch hc

theorem waitLimitLapse : RoundTrip.Statement (.waitLimitLapse) := fun _ _ hc => nomatch hc

theorem bellRelease : RoundTrip.Statement (.bellRelease) := fun _ _ hc => nomatch hc

theorem ringTransfer : RoundTrip.Statement (.ringTransfer) := fun _ _ hc => nomatch hc

theorem groupClearDone : RoundTrip.Statement (.groupClearDone) := fun _ _ hc => nomatch hc

theorem foremanDispatch : RoundTrip.Statement (.foremanDispatch) := fun _ _ hc => nomatch hc

theorem leaveGrant : RoundTrip.Statement (.leaveGrant) := fun _ _ hc => nomatch hc

theorem sfuServe : RoundTrip.Statement (.sfuServe) := fun _ _ hc => nomatch hc

theorem sfuRequestDone : RoundTrip.Statement (.sfuRequestDone) := fun _ _ hc => nomatch hc

theorem vectorBind : RoundTrip.Statement (.vectorBind) := fun _ _ hc => nomatch hc

theorem sliceExpiry : RoundTrip.Statement (.sliceExpiry) := fun _ _ hc => nomatch hc

theorem sliceIdle : RoundTrip.Statement (.sliceIdle) := fun _ _ hc => nomatch hc

theorem roundSliceLimit : RoundTrip.Statement (.roundSliceLimit) := fun _ _ hc => nomatch hc

theorem residencySwitch : RoundTrip.Statement (.residencySwitch) := fun _ _ hc => nomatch hc

theorem residencySwitchDone : RoundTrip.Statement (.residencySwitchDone) := fun _ _ hc => nomatch hc

theorem slotCopyDone : RoundTrip.Statement (.slotCopyDone) := fun _ _ hc => nomatch hc

theorem serverLockRead : RoundTrip.Statement (.serverLockRead) := fun _ _ hc => nomatch hc

theorem serverWriteUnlock : RoundTrip.Statement (.serverWriteUnlock) := fun _ _ hc => nomatch hc

theorem scrub : RoundTrip.Statement (.scrub) := fun _ _ hc => nomatch hc

theorem weighhouseLockData : RoundTrip.Statement (.weighhouseLockData) := fun _ _ hc => nomatch hc

theorem sourceTimeout : RoundTrip.Statement (.sourceTimeout) := fun _ _ hc => nomatch hc

theorem coreMachineCheck : RoundTrip.Statement (.coreMachineCheck) := fun _ _ hc => nomatch hc

theorem pigeonholeCopyDone : RoundTrip.Statement (.pigeonholeCopyDone) := fun _ _ hc => nomatch hc

theorem retryTimer : RoundTrip.Statement (.retryTimer) := fun _ _ hc => nomatch hc

theorem localCompletion : RoundTrip.Statement (.localCompletion) := fun _ _ hc => nomatch hc

theorem eventDeliver : RoundTrip.Statement (.eventDeliver) := fun _ _ hc => nomatch hc

theorem fieldAdvance : RoundTrip.Statement (.fieldAdvance) := fun _ _ hc => nomatch hc

theorem dispatcherLaunch : RoundTrip.Statement (.dispatcherLaunch) := fun _ _ hc => nomatch hc

theorem headReserving : RoundTrip.Statement (.headReserving) := fun _ _ hc => nomatch hc

theorem crewDrained : RoundTrip.Statement (.crewDrained) := fun _ _ hc => nomatch hc

theorem crewStart : RoundTrip.Statement (.crewStart) := fun _ _ hc => nomatch hc

theorem startMessage : RoundTrip.Statement (.startMessage) := fun _ _ hc => nomatch hc

theorem workOrderComplete : RoundTrip.Statement (.workOrderComplete) := fun _ _ hc => nomatch hc

theorem workOrderTimeout : RoundTrip.Statement (.workOrderTimeout) := fun _ _ hc => nomatch hc

theorem recordFetch : RoundTrip.Statement (.recordFetch) := fun _ _ hc => nomatch hc

theorem qtailWrite : RoundTrip.Statement (.qtailWrite) := fun _ _ hc => nomatch hc

theorem qctlWrite : RoundTrip.Statement (.qctlWrite) := fun _ _ hc => nomatch hc

theorem qstatWrite : RoundTrip.Statement (.qstatWrite) := fun _ _ hc => nomatch hc

theorem counterWrite : RoundTrip.Statement (.counterWrite) := fun _ _ hc => nomatch hc

theorem recoveryCommit : RoundTrip.Statement (.recoveryCommit) := fun _ _ hc => nomatch hc

theorem packageReset : RoundTrip.Statement (.packageReset) := fun _ _ hc => nomatch hc

theorem dieResetExit : RoundTrip.Statement (.dieResetExit) := fun _ _ hc => nomatch hc

theorem attestationStart : RoundTrip.Statement (.attestationStart) := fun _ _ hc => nomatch hc

theorem version : RoundTrip.Statement (.version) := fun _ _ hc => nomatch hc

theorem capabilities : RoundTrip.Statement (.capabilities) := fun _ _ hc => nomatch hc

theorem algorithms : RoundTrip.Statement (.algorithms) := fun _ _ hc => nomatch hc

theorem digests : RoundTrip.Statement (.digests) := fun _ _ hc => nomatch hc

theorem certificate : RoundTrip.Statement (.certificate) := fun _ _ hc => nomatch hc

theorem challengeAuth : RoundTrip.Statement (.challengeAuth) := fun _ _ hc => nomatch hc

theorem measurements : RoundTrip.Statement (.measurements) := fun _ _ hc => nomatch hc

theorem keyExchangeRsp : RoundTrip.Statement (.keyExchangeRsp) := fun _ _ hc => nomatch hc

theorem finishRsp : RoundTrip.Statement (.finishRsp) := fun _ _ hc => nomatch hc

theorem spdmTimeout : RoundTrip.Statement (.spdmTimeout) := fun _ _ hc => nomatch hc

theorem keyInstall : RoundTrip.Statement (.keyInstall) := fun _ _ hc => nomatch hc

theorem keyAck : RoundTrip.Statement (.keyAck) := fun _ _ hc => nomatch hc

theorem linkOpen : RoundTrip.Statement (.linkOpen) := fun _ _ hc => nomatch hc

theorem keySwitch : RoundTrip.Statement (.keySwitch) := fun _ _ hc => nomatch hc

theorem keyRetired : RoundTrip.Statement (.keyRetired) := fun _ _ hc => nomatch hc

theorem keyAckTimeout : RoundTrip.Statement (.keyAckTimeout) := fun _ _ hc => nomatch hc

theorem keyRetiredTimeout : RoundTrip.Statement (.keyRetiredTimeout) := fun _ _ hc => nomatch hc

theorem rolloverTrigger : RoundTrip.Statement (.rolloverTrigger) := fun _ _ hc => nomatch hc

theorem generationLimit : RoundTrip.Statement (.generationLimit) := fun _ _ hc => nomatch hc

theorem flitReceive : RoundTrip.Statement (.flitReceive) := fun _ _ hc => nomatch hc

theorem replayRequest : RoundTrip.Statement (.replayRequest) := fun _ _ hc => nomatch hc

theorem idleFlit : RoundTrip.Statement (.idleFlit) := fun _ _ hc => nomatch hc

theorem linkDown : RoundTrip.Statement (.linkDown) := fun _ _ hc => nomatch hc

theorem loneReset : RoundTrip.Statement (.loneReset) := fun _ _ hc => nomatch hc

theorem actlReset : RoundTrip.Statement (.actlReset) := fun _ _ hc => nomatch hc

theorem actlReattest : RoundTrip.Statement (.actlReattest) := fun _ _ hc => nomatch hc

theorem hostSpdmRequest : RoundTrip.Statement (.hostSpdmRequest) := fun _ _ hc => nomatch hc

theorem lockInterfaceRequest : RoundTrip.Statement (.lockInterfaceRequest) := fun _ _ hc => nomatch hc

theorem getDeviceInterfaceReport : RoundTrip.Statement (.getDeviceInterfaceReport) := fun _ _ hc => nomatch hc

theorem startInterfaceRequest : RoundTrip.Statement (.startInterfaceRequest) := fun _ _ hc => nomatch hc

theorem stopInterfaceRequest : RoundTrip.Statement (.stopInterfaceRequest) := fun _ _ hc => nomatch hc

theorem tdispError : RoundTrip.Statement (.tdispError) := fun _ _ hc => nomatch hc

theorem extentGrant : RoundTrip.Statement (.extentGrant) := fun _ _ hc => nomatch hc

theorem enclaveManifest : RoundTrip.Statement (.enclaveManifest) := fun _ _ hc => nomatch hc

theorem revocationStatement : RoundTrip.Statement (.revocationStatement) := fun _ _ hc => nomatch hc

theorem junctionOverheat : RoundTrip.Statement (.junctionOverheat) := fun _ _ hc => nomatch hc

theorem junctionCooled : RoundTrip.Statement (.junctionCooled) := fun _ _ hc => nomatch hc

theorem thermalShutdown : RoundTrip.Statement (.thermalShutdown) := fun _ _ hc => nomatch hc

theorem xstSourceRead : RoundTrip.Statement (.xstSourceRead) := fun _ _ hc => nomatch hc

theorem serverClearDone : RoundTrip.Statement (.serverClearDone) := fun _ _ hc => nomatch hc

theorem startTableStepEnd : RoundTrip.Statement (.startTableStepEnd) := fun _ _ hc => nomatch hc

theorem portFailure : RoundTrip.Statement (.portFailure) := fun _ _ hc => nomatch hc

theorem limitWrite : RoundTrip.Statement (.limitWrite) := fun _ _ hc => nomatch hc

end RoundTrip

end Sys2Proof.Laws
end

