-- ==== Sys2Proof/Tests/Slice0.lean ====
section
/-!
SUPPORT. Tests, and the witnesses of the statements: for each statement that has hypotheses, states and operands that meet them together.
The words are written from the encoding tables of the spec (R91 to R96, R113 to R131); the other expected values come from the rules that the tests name.
-/

set_option Elab.async false
set_option maxRecDepth 100000

open Sys2Proof Sys2Proof.Machine

namespace Sys2Proof.Tests

/-- The header of an unguarded C-word of the last pair, side 0. -/
def hC : CHdr := ⟨true, false, 0, false⟩

/-- The header of an unguarded A-word, side 0. -/
def hA : AHdr := ⟨false, false, 0⟩

/-- A context that runs, with the registers of a small register file: s1 to s31 as given, the rest 0. -/
def runCtx (regs : List Nat) : Ctx :=
  { Ctx.reset with status := .live, s := Vector.ofFn fun i => BitVec.ofNat 64 ((regs[i.val]?).getD 0) }

/-- A started residency of work order 1 and crew 0 (the four cores of a cluster), of 128 scratchpad pages, whose context 0 holds `regs`. -/
def runRes (regs : List Nat) : Res :=
  { Res.reset with
    phase := .live, issued := true, order := 1, members := [0, 1, 12, 13], orderCores := [0, 1, 12, 13], splimit := 128, codeLast := 100, handler := 50,
    groups := [⟨1, [0, 1], [], 8192⟩], ctx := Res.reset.ctx.set 0 (runCtx regs) }

/-- The machine with that residency issuing. -/
def run (regs : List Nat) : State :=
  { State.reset with res := State.reset.res.set 0 (runRes regs), core := { CoreSt.reset with issuing := some 0 } }

/-- The instruction issues in this state. -/
def rdy (s : State) (i : Instr) : Bool := match opOf i with | some o => o.ready s | none => false

/-- Words of NOP to BELL_D, each written out from the fields of its encoding table. -/
theorem test_words_0 : ∀ x ∈ ([
    (.c 0x40270000, .nop ⟨true, true, 3, true⟩),
    (.c 0x40445D9E, .br ⟨true, false, 2, false⟩ 23966),
    (.c 0x409E1006, .bri ⟨true, false, 15, false⟩ 2 6),
    (.c 0x40EE3D9D, .call ⟨true, true, 7, false⟩ 15773),
    (.c 0x41131035, .calli ⟨true, false, 9, true⟩ 2 53),
    (.c 0x41489800, .ret ⟨true, false, 4, false⟩ 19),
    (.l 0xC1A21480 0xDBC5, .jtab ⟨true, true, 1, false⟩ 2 18 56261),
    (.l 0xC1CB2000 0x12, .loop ⟨true, false, 5, true⟩ 2 18),
    (.c 0x42158F6E, .loopx ⟨true, false, 10, true⟩ 36718),
    (.c 0x42446000, .waitFull ⟨true, false, 2, false⟩ 12),
    (.c 0x42529801, .waitEmpty ⟨true, false, 9, false⟩ 19),
    (.c 0x42548302, .waitFtime ⟨true, false, 10, false⟩ 16 6),
    (.c 0x427B0003, .waitErrq ⟨true, true, 13, true⟩),
    (.c 0x42756004, .waitCyc ⟨true, true, 10, true⟩ 12),
    (.c 0x4268B805, .waitHelpers ⟨true, true, 4, false⟩ 23),
    (.l 0xC2458B82 0x7EBFF207, .waitLimit ⟨true, false, 2, true⟩ 17 7 2 2126508551),
    (.c 0x42B95280, .waitch ⟨true, true, 12, true⟩ 10 5),
    (.c 0x42C53000, .waitmb ⟨true, false, 2, true⟩ 3),
    (.c 0x43277500, .start ⟨true, true, 3, true⟩ 14 10),
    (.c 0x43560000, .hend ⟨true, false, 11, false⟩),
    (.c 0x43AD0003, .couple ⟨true, true, 6, true⟩ 3),
    (.c 0x43F50000, .uncouple ⟨true, true, 10, true⟩),
    (.c 0x441C5000, .bell ⟨true, false, 14, false⟩ 5),
    (.c 0x44381002, .bellD ⟨true, true, 12, false⟩ 1)] : List (Code × Instr)), decode x.1 = .ok x.2 := by decide +kernel

/-- Words of BELL_X to TLD, each written out from the fields of its encoding table. -/
theorem test_words_1 : ∀ x ∈ ([
    (.c 0x44375001, .bellX ⟨true, true, 11, true⟩ 5 false),
    (.c 0x447F0000, .exch ⟨true, true, 15, true⟩),
    (.c 0x44910000, .exchend ⟨true, false, 8, true⟩),
    (.c 0x44D40000, .round ⟨true, false, 10, false⟩),
    (.c 0x45220000, .yield ⟨true, true, 1, false⟩),
    (.c 0x45660000, .halt ⟨true, true, 3, false⟩),
    (.c 0x502F19AC, .ld ⟨true, true, 7, true⟩ 3 6 2 true 4),
    (.l 0xD033E958 0xD1BC52DA, .ldExt ⟨true, true, 9, true⟩ 29 5 1 true 3518780122),
    (.c 0x507DBBA6, .st ⟨true, true, 14, true⟩ 23 14 2 6),
    (.l 0xD0681990 0x3B618677, .stExt ⟨true, true, 4, false⟩ 3 6 1 996247159),
    (.c 0x5083F6C5, .ldp ⟨true, false, 1, true⟩ 30 27 5),
    (.l 0xD08BE040 0x254B0C4F, .ldpExt ⟨true, false, 5, true⟩ 28 1 625675343),
    (.c 0x50F3ED05, .stp ⟨true, true, 9, true⟩ 29 20 5),
    (.l 0xD0E6DBC0 0xE647CB90, .stpExt ⟨true, true, 3, false⟩ 27 15 3863464848),
    (.c 0x512F6904, .ldfe ⟨true, true, 7, true⟩ 13 4 4),
    (.l 0xD12219C0 0x70CCEC32, .ldfeExt ⟨true, true, 1, false⟩ 3 7 1892478002),
    (.c 0x5145A081, .ldff ⟨true, false, 2, true⟩ 20 2 1),
    (.l 0xD1549100 0xF2EE4E46, .ldffExt ⟨true, false, 10, false⟩ 18 4 4075703878),
    (.c 0x51B41F02, .stfe ⟨true, true, 10, false⟩ 3 28 2),
    (.l 0xD1A7FB00 0x9A2EF810, .stfeExt ⟨true, true, 3, true⟩ 31 12 2586769424),
    (.c 0x51F02704, .stf ⟨true, true, 8, false⟩ 4 28 4),
    (.l 0xD1F150C0 0x24E4E25B, .stfExt ⟨true, true, 8, true⟩ 10 3 618979931),
    (.l 0xD219C261 0x19, .lat ⟨true, false, 12, true⟩ 24 9 16 true 1 9),
    (.l 0xD2523C83 0x798B0E, .tld ⟨true, false, 9, false⟩ 7 9 3 3 12 true 35598)] : List (Code × Instr)), decode x.1 = .ok x.2 := by decide +kernel

/-- Words of TST to SENDP, each written out from the fields of its encoding table. -/
theorem test_words_2 : ∀ x ∈ ([
    (.l 0xD29BAF01 0x19D42D9, .tst ⟨true, false, 13, true⟩ 21 14 1 12 14 true 17113),
    (.c 0x52FE670A, .accrd ⟨true, true, 15, false⟩ 6 7 true 2),
    (.c 0x53365D00, .accwr ⟨true, true, 11, false⟩ 5 13),
    (.c 0x531A7701, .accwrAdd ⟨true, false, 13, false⟩ 7 7),
    (.l 0xD3496603 0x300, .xld ⟨true, false, 4, true⟩ 12 24 1 true 1 256),
    (.l 0xD3B13DE9 0x6FF, .xst ⟨true, true, 8, true⟩ 7 23 20 true 3 255),
    (.l 0xD3FBF9D9 0x58, .xat ⟨true, true, 13, true⟩ 31 7 12 true true 1 8),
    (.l 0xD40831D1 0x50, .xatr ⟨true, false, 4, false⟩ 6 7 8 true true 1 0),
    (.l 0xD4693C29 0xDF, .cpy ⟨true, true, 4, true⟩ 7 16 20 true true 5 true 7),
    (.l 0xD491D547 0xD5D7014F, .cpyd ⟨true, false, 8, true⟩ 26 21 3 true 1710 11 true 1 4 true 7),
    (.c 0x54D07380, .ndld ⟨true, false, 8, false⟩ 14 7),
    (.c 0x55255000, .fenceAcq ⟨true, true, 2, true⟩ 5),
    (.c 0x552E5001, .fenceRel ⟨true, true, 7, false⟩ 5),
    (.c 0x55065002, .fenceFull ⟨true, false, 3, false⟩ 5),
    (.c 0x55071003, .fenceExt ⟨true, false, 3, true⟩),
    (.c 0x60156F62, .mma ⟨true, false, 10, true⟩ 6 15 6 2),
    (.c 0x60027CB9, .mmaX ⟨true, false, 1, false⟩ 7 12 11 1),
    (.l 0xE04EDF0F 0x154B, .mmar ⟨true, false, 7, false⟩ 27 28 7 true 1 5 4 true 3),
    (.c 0x609B3000, .accz ⟨true, false, 13, true⟩ 3),
    (.l 0xE0FC1300 0x5A9196F1, .accxSend ⟨true, true, 14, false⟩ 2 6 1519490801),
    (.l 0xE0F7DA88 0x2179B37E, .accxOpen ⟨true, true, 11, true⟩ 27 5 561623934),
    (.l 0xE0D20394 0x0, .accxClose ⟨true, false, 9, false⟩ 7 4),
    (.l 0xE114CE8B 0x2C1EEA20, .send ⟨true, false, 10, false⟩ 25 26 5 true 740223520),
    (.l 0xE1509097 0xD756A259, .sendp ⟨true, false, 8, false⟩ 18 2 11 true true 1465295449)] : List (Code × Instr)), decode x.1 = .ok x.2 := by decide +kernel

/-- Words of SENDX to EVCTL_QLEN, each written out from the fields of its encoding table. -/
theorem test_words_3 : ∀ x ∈ ([
    (.l 0xE1BAEC85 0x3F9D52FA, .sendx ⟨true, true, 13, false⟩ 29 18 2 true 1067275002),
    (.l 0xE1CAC923 0x73C1CD2D, .recv ⟨true, false, 5, false⟩ 25 4 17 true 1942080813),
    (.l 0xE21A7AE9 0xF92E233A, .probe ⟨true, false, 13, false⟩ 15 11 20 true 4180550458),
    (.c 0x62597C40, .cancel ⟨true, false, 12, true⟩ 15 17),
    (.l 0xE2B2BC7B 0xFF132BF3, .mcast ⟨true, true, 9, false⟩ 23 17 29 true 15 252914675),
    (.c 0x62FEDBC0, .free ⟨true, true, 15, false⟩ 27 15),
    (.c 0x630E7800, .ringCw ⟨true, false, 7, false⟩ 7 8),
    (.c 0x63247201, .ringCcw ⟨true, true, 2, false⟩ 7 2),
    (.l 0xE357D100 0xE6C6E51, .xsnd ⟨true, false, 11, true⟩ 26 2 230 814673),
    (.l 0xE3992A80 0xE323232, .xrcv ⟨true, false, 12, true⟩ 5 5 227 143922),
    (.c 0x63E86F80, .expect ⟨true, true, 4, false⟩ 13 15),
    (.c 0x64263600, .mbadd ⟨true, true, 3, false⟩ 6 12),
    (.l 0xE4735B80 0x66B6A, .hset ⟨true, true, 9, true⟩ 11 7 51 2922),
    (.c 0x64A51006, .hwaitProd ⟨true, true, 2, true⟩ 1 6),
    (.c 0x64B07106, .hwaitCons ⟨true, true, 8, false⟩ 7 6),
    (.c 0x64F2200F, .hadvProd ⟨true, true, 9, false⟩ 2 15),
    (.c 0x64DE2105, .hadvCons ⟨true, false, 15, false⟩ 2 5),
    (.c 0x65224B82, .field ⟨true, true, 1, false⟩ 9 7 2),
    (.l 0xE57D6965 0x5937F, .evsend ⟨true, true, 14, true⟩ 13 5 18 true 5 147 127),
    (.c 0x65A51380, .evrun ⟨true, true, 2, true⟩ 2 7),
    (.c 0x65CE0180, .evctlUnbind ⟨true, false, 7, false⟩ 3),
    (.c 0x65D6D181, .evctlTime ⟨true, false, 11, false⟩ 26 3),
    (.c 0x65D41982, .evctlLate ⟨true, false, 10, false⟩ 3 3),
    (.c 0x65D05A83, .evctlQlen ⟨true, false, 8, false⟩ 11 5)] : List (Code × Instr)), decode x.1 = .ok x.2 := by decide +kernel

/-- Words of EVCTL_FIRES to MULHU, each written out from the fields of its encoding table. -/
theorem test_words_4 : ∀ x ∈ ([
    (.c 0x65FFA104, .evctlFires ⟨true, true, 15, true⟩ 20 2),
    (.c 0x66122338, .sft ⟨true, false, 9, false⟩ 2 3 3 8),
    (.l 0xE646F280 0x37, .sfs ⟨true, false, 3, false⟩ 30 10 3 7),
    (.c 0x700B8857, .trap ⟨true, false, 5, true⟩ 17 87),
    (.c 0x704B0000, .sysret ⟨true, false, 5, true⟩),
    (.l 0xF08A0800 0x123, .csrr ⟨true, false, 5, false⟩ 1 291),
    (.l 0xF0D88800 0x101, .csrw ⟨true, false, 12, false⟩ 17 257),
    (.l 0xF1292000 0x45, .csrs ⟨true, true, 4, true⟩ 4 69),
    (.l 0xF1779000 0x120, .csrc ⟨true, true, 11, true⟩ 18 288),
    (.c 0x71B3B9C0, .errq ⟨true, true, 9, true⟩ 23 7),
    (.c 0x71CCDC80, .ctxsv ⟨true, false, 6, false⟩ 27 9),
    (.c 0x720F1500, .ctxld ⟨true, false, 7, true⟩ 2 10),
    (.c 0x7242AB00, .accspill ⟨true, false, 1, false⟩ 21 6),
    (.c 0x72AE1080, .accfill ⟨true, true, 7, false⟩ 2 1),
    (.c 0x72FDA000, .peerclr ⟨true, true, 14, true⟩ 20),
    (.c 0x73190000, .bkpt ⟨true, false, 12, true⟩),
    (.l 0xF3503001 0x44DF9700, .limm ⟨true, false, 8, false⟩ 6 true 1155503872),
    (.l 0xF3636002 0xF637A469, .limmHi ⟨true, true, 1, true⟩ 12 4130841705),
    (.a 0x80A0BFD9, .add ⟨true, true, 4⟩ 2 31 29 true 1),
    (.a 0x819856D9, .sub ⟨true, true, 3⟩ 1 11 13 true 1),
    (.a 0x824D4E80, .addi ⟨true, false, 9⟩ 21 7 128),
    (.a 0x8370CAD9, .mul ⟨true, false, 14⟩ 3 5 13 true 1),
    (.a 0x042AAA88, .mulh ⟨false, false, 5⟩ 10 21 8 true),
    (.a 0x055F6FA8, .mulhu ⟨false, false, 11⟩ 29 23 26 true)] : List (Code × Instr)), decode x.1 = .ok x.2 := by decide +kernel

/-- Words of DIV to MAXU, each written out from the fields of its encoding table. -/
theorem test_words_5 : ∀ x ∈ ([
    (.a 0x86E40AA9, .div ⟨true, true, 12⟩ 16 5 10 true 1),
    (.a 0x8765F519, .divu ⟨true, false, 12⟩ 23 26 17 true 1),
    (.a 0x0875A7A9, .rem ⟨false, false, 14⟩ 22 19 26 true 1),
    (.a 0x09096AC9, .remu ⟨false, false, 1⟩ 5 21 12 true 1),
    (.a 0x8A48AA18, .and ⟨true, false, 9⟩ 2 21 1 true),
    (.a 0x8B0BF438, .or ⟨true, false, 1⟩ 15 26 3 true),
    (.a 0x0C662098, .xor ⟨false, false, 12⟩ 24 16 9 true),
    (.a 0x8D263278, .andn ⟨true, false, 4⟩ 24 25 7 true),
    (.a 0x8E471A39, .shl ⟨true, false, 8⟩ 28 13 3 true 1),
    (.a 0x8FE8A959, .shr ⟨true, true, 13⟩ 2 20 21 true 1),
    (.a 0x10326B89, .sar ⟨false, false, 6⟩ 9 21 24 true 1),
    (.a 0x118C0509, .rol ⟨false, true, 1⟩ 16 2 16 true 1),
    (.a 0x12E1EC21, .shli ⟨false, true, 12⟩ 7 22 false 33),
    (.a 0x93C3DE5F, .shri ⟨true, true, 8⟩ 15 15 true 31),
    (.a 0x1428FC3F, .sari ⟨false, false, 5⟩ 3 30 false 63),
    (.a 0x95C0F601, .clz ⟨true, true, 8⟩ 3 27 1),
    (.a 0x96A7BE01, .ctz ⟨true, true, 4⟩ 30 31 1),
    (.a 0x171E2201, .popc ⟨false, false, 3⟩ 24 17 1),
    (.a 0x18D6EB18, .bfx ⟨false, true, 10⟩ 27 21 17 true),
    (.a 0x99A43BD8, .bfi ⟨true, true, 4⟩ 16 29 29 true),
    (.a 0x1A987F09, .min ⟨false, true, 3⟩ 1 31 16 true 1),
    (.a 0x9BE15CC9, .max ⟨true, true, 12⟩ 5 14 12 true 1),
    (.a 0x1CF2C2B9, .minu ⟨false, true, 14⟩ 11 1 11 true 1),
    (.a 0x9D97FC79, .maxu ⟨true, true, 2⟩ 31 30 7 true 1)] : List (Code × Instr)), decode x.1 = .ok x.2 := by decide +kernel

/-- Words of SEL to FCLASS, each written out from the fields of its encoding table. -/
theorem test_words_6 : ∀ x ∈ ([
    (.a 0x9E2B06DC, .sel ⟨true, false, 5⟩ 12 3 13 true 4),
    (.a 0x9F6A7800, .mov ⟨true, false, 13⟩ 9 28),
    (.a 0x200F5959, .cmp ⟨false, false, 1⟩ 14 22 10 true 9),
    (.a 0xA13CACE9, .cmpi ⟨true, false, 7⟩ 9 11 7 9),
    (.a 0xA2F8B5AB, .plog ⟨true, true, 15⟩ 1 13 13 11),
    (.a 0x23E0C000, .pmovGet ⟨false, true, 12⟩ 3),
    (.a 0xA3402801, .pmovPut ⟨true, false, 8⟩ 20),
    (.a 0xA44081E8, .xmov ⟨true, false, 8⟩ 2 30),
    (.a 0xA4398059, .xmovP ⟨true, false, 7⟩ 6 5),
    (.a 0xA5BD50A8, .addp ⟨true, true, 7⟩ 21 8 10 true),
    (.a 0xA591AA69, .addpE ⟨true, true, 2⟩ 6 21 6 true),
    (.a 0xA64A1EE9, .pfmt ⟨true, false, 9⟩ 8 15 233),
    (.a 0xA7B96401, .pfld ⟨true, true, 7⟩ 5 18 1),
    (.a 0x283486B9, .gdistCore ⟨false, false, 6⟩ 18 3 11 true 1),
    (.a 0x28F871CE, .gdistOff ⟨false, true, 15⟩ 1 24 28 true 2),
    (.a 0x29BA5799, .fadd ⟨false, true, 7⟩ 9 11 25 true 1),
    (.a 0xAA9DA31A, .fsub ⟨true, true, 3⟩ 22 17 17 true 2),
    (.a 0x2B3B6AFC, .fmul ⟨false, false, 7⟩ 13 21 15 true 4),
    (.a 0x2C989D7C, .ffma ⟨false, true, 3⟩ 2 14 23 true 4),
    (.a 0x2DBFBDE8, .fmin ⟨false, true, 7⟩ 30 30 30 true),
    (.a 0x2EE91058, .fmax ⟨false, true, 13⟩ 4 8 5 true),
    (.a 0x2F765EB7, .fcmp ⟨false, false, 14⟩ 12 23 21 true 7),
    (.a 0x308E8B02, .fcvt ⟨false, true, 1⟩ 26 5 16 2),
    (.a 0xB11D5200, .fclass ⟨true, false, 3⟩ 21 9)] : List (Code × Instr)), decode x.1 = .ok x.2 := by decide +kernel

/-- Words of TADD to TRED_MAX, each written out from the fields of its encoding table. -/
theorem test_words_7 : ∀ x ∈ ([
    (.a 0x40912CDA, .tadd ⟨false, true, 2⟩ 2 5 9 5 true 2),
    (.a 0x41ED08DB, .tsub ⟨false, true, 13⟩ 10 1 1 5 true 3),
    (.a 0xC2DF7A4A, .tmul ⟨true, true, 11⟩ 14 15 4 4 true 2),
    (.a 0xC365A89A, .tfma ⟨true, false, 12⟩ 11 5 1 1 true 2),
    (.a 0xC492A5C0, .tmax ⟨true, true, 2⟩ 5 4 11 4),
    (.a 0xC58E3640, .tmin ⟨true, true, 1⟩ 12 6 12 4),
    (.a 0xC6A0E830, .tabs ⟨true, true, 4⟩ 1 13 3),
    (.a 0xC722E870, .tneg ⟨true, false, 4⟩ 5 13 7),
    (.a 0xC822ECB1, .tcvt ⟨true, false, 4⟩ 5 13 9 3 1),
    (.a 0x49FA4161, .tqnt ⟨false, true, 15⟩ 4 8 2 6 1),
    (.a 0x4A20D4A4, .tdq ⟨false, false, 4⟩ 1 10 9 2 4),
    (.a 0x4B1BC7EB, .tscl ⟨false, false, 3⟩ 7 8 15 6 true 3),
    (.a 0x4C321DD0, .tand ⟨false, false, 6⟩ 4 3 11 5),
    (.a 0xCDDE3F30, .tor ⟨true, true, 11⟩ 12 7 14 3),
    (.a 0x4E909290, .txor ⟨false, true, 2⟩ 1 2 5 1),
    (.a 0x4FCEA3B0, .tshl ⟨false, true, 9⟩ 13 4 7 3),
    (.a 0xD090E421, .tshr ⟨true, true, 2⟩ 1 12 8 2 true),
    (.a 0xD1A1B649, .tcmp ⟨true, true, 4⟩ 3 6 12 4 9),
    (.a 0xD226DEC0, .tsel ⟨true, false, 4⟩ 13 11 13 4),
    (.a 0x53416F93, .tcas ⟨false, false, 8⟩ 2 13 15 1 true true),
    (.a 0x54FD3331, .tmaxi ⟨false, true, 15⟩ 10 6 6 3 true),
    (.a 0x55AE6631, .tmini ⟨false, true, 5⟩ 12 12 12 3 true),
    (.a 0x56E6D271, .tredSum ⟨false, true, 12⟩ 13 10 true 7 1),
    (.a 0x561462C4, .tredMax ⟨false, false, 2⟩ 8 12 true 4 4)] : List (Code × Instr)), decode x.1 = .ok x.2 := by decide +kernel

/-- Words of TRED_MIN to CAPKEY_WRITE, each written out from the fields of its encoding table. -/
theorem test_words_8 : ∀ x ∈ ([
    (.a 0xD69FC321, .tredMin ⟨true, true, 3⟩ 15 8 true 2 1),
    (.a 0x57D23071, .tbc ⟨false, true, 10⟩ 4 6 7 true),
    (.a 0xD8EED010, .ttr ⟨true, true, 13⟩ 13 10 1),
    (.a 0x59239590, .tslc ⟨false, false, 4⟩ 7 2 11 1),
    (.a 0xDA9B8011, .tidx ⟨true, true, 3⟩ 7 1 true),
    (.a 0x5B213840, .tmov ⟨false, false, 4⟩ 2 7 4),
    (.a 0x5C9B8040, .tfill ⟨false, true, 3⟩ 7 4),
    (.a 0x5D6B99BA, .mlog ⟨false, false, 13⟩ 7 3 3 3 10),
    (.a 0xDEE29040, .mcnt ⟨true, true, 12⟩ 5 2 4),
    (.l 0xF0C62800 0x111, .splimWrite ⟨true, false, 3, false⟩ 0 5),
    (.l 0xF13E1800 0x110, .spbaseWrite ⟨true, true, 15, false⟩ 1 3),
    (.l 0xF16A8800 0x14, .tshapeWrite ⟨true, true, 5, false⟩ 2 17 4),
    (.l 0xF0D72000 0x21, .adWrite ⟨true, false, 11, true⟩ 0 4 1),
    (.l 0xF13EF000 0x112, .accownWrite ⟨true, true, 15, false⟩ 1 30),
    (.l 0xF0E32000 0x113, .tileownWrite ⟨true, true, 1, true⟩ 0 4),
    (.l 0xF0C86000 0xA, .trestartWrite ⟨true, false, 4, false⟩ 0 12),
    (.l 0xF151F800 0x1A1, .extentWrite ⟨true, false, 8, true⟩ 2 31 2 1),
    (.l 0xF0D71000 0x50, .errqsWrite ⟨true, false, 11, true⟩ 0 2),
    (.l 0xF0EC3800 0x8, .srlfsrWrite ⟨true, true, 6, false⟩ 0 7),
    (.l 0xF0E2D800 0x9, .vshareWrite ⟨true, true, 1, false⟩ 0 27),
    (.l 0xF0EFA000 0x119, .capkeyWrite ⟨true, true, 7, true⟩ 0 20 true)] : List (Code × Instr)), decode x.1 = .ok x.2 := by decide +kernel


/-! ### Well-formed instructions -/

/-- An ill-formed term for each check of WellFormed; each is refused. -/
theorem test_ill_formed : ([
    .fadd hA 1 2 3 false 5, .add hA 1 2 3 false 2, .shli hA 1 2 true 32, .cmp hA 1 2 3 false 10, .fcmp hA 1 2 3 false 8, .ld hC 1 2 3 true 0, .ldExt hC 1 2 3 true 0,
    .ldp hC 31 2 0, .stp hC 31 2 0, .fcvt hA 1 2 17 0, .tcvt hA 1 2 10 0 0, .tdq hA 1 2 10 0 0, .fenceAcq hC 6, .sft hC 1 2 0 9, .sfs hC 1 2 0 9, .start hC 1 0, .start hC 1 11,
    .ctxsv hC 1 11, .ctxld hC 1 11, .couple hC 0, .couple hC 4, .lat hC 1 2 3 false 2 9, .lat hC 1 2 3 false 0 11, .xat hC 1 2 3 false false 2 0, .xat hC 1 29 3 false false 2 9,
    .xatr hC 31 2 3 false false 2 9, .xld hC 1 2 3 false 0 257, .xst hC 1 2 3 false 0 257, .tld hC 1 2 0 1 0 false 0, .tst hC 1 2 0 0 1 false 0, .cpy hC 1 2 3 false false 1 false 0,
    .cpyd hC 1 2 3 false 0 0 false 0 1 false 0, .waitLimit hC 1 8 2 0, .waitLimit hC 1 1 0 0, .waitLimit hC 1 0 6 0, .csrw hC 1 9, .csrs hC 1 0x111, .csrc hC 1 0x1AF,
    .splimWrite hC 3 1, .extentWrite hC 0 1 3 0] : List Instr).all (fun i => i.wf == false) = true := by decide +kernel

/-! ### Decoding: the table's own numbering -/

/-- Words and a word pair through decodeTableWord, the last short of its operand word, which is then zero. -/
theorem test_decodeTableWord :
    decodeTableWord 32 0x0046FFFA = some (.br ⟨false, false, 3, false⟩ 0xFFFA) ∧
    decodeTableWord 64 0x0000000CC1802980 = some (.jtab ⟨true, false, 0, false⟩ 5 6 12) ∧ decodeTableWord 32 0xF3402802 = some (.limmHi ⟨true, false, 0, false⟩ 5 0) := by decide +kernel

/-! ### Scalar instructions: one step, expected values worked out by hand from R135 to R152 -/

/-- The state after an instruction alone in its bundle. -/
def after (s : State) (i : Instr) : State := match exec i s with | .next t => t | _ => s

/-- The results in flight after an instruction: destination, value, bundles to go. -/
def got (s : State) (i : Instr) : List (Dest × Word × Nat) := (after s i).c.flight.map fun f => (f.dest, f.val, f.rem)

/-- Registers of the scalar tests. -/
def sR : State := run [0, 2 ^ 64 - 1, 1, 0x80000000, 2 ^ 63, 0xABCD, 3, 0x0804, 0x8804, 64]

theorem test_arithmetic : ∀ x ∈ ([
    (.add hA 10 1 2 false 0, 0, 1), (.add hA 10 1 2 false 1, 0, 1), (.sub hA 10 3 2 false 1, 0x7FFFFFFF, 1), (.sub hA 10 0 2 false 0, 2 ^ 64 - 1, 1),
    (.addi hA 10 2 0x1FF, 0, 1), (.mul hA 10 3 6 false 1, 0xFFFFFFFF80000000, 3), (.mul hA 10 1 1 false 0, 1, 3), (.mulh hA 10 1 2 false, 2 ^ 64 - 1, 3), (.mulhu hA 10 1 1 false, 2 ^ 64 - 2, 3),
    (.div hA 10 4 1 false 0, 2 ^ 63, 18), (.div hA 10 5 0 false 0, 2 ^ 64 - 1, 18), (.divu hA 10 5 6 false 0, 14660, 18), (.divu hA 10 5 0 false 1, 2 ^ 64 - 1, 18),
    (.rem hA 10 4 1 false 0, 0, 18), (.rem hA 10 1 6 false 0, 2 ^ 64 - 1, 18), (.remu hA 10 5 0 false 0, 0xABCD, 18), (.remu hA 10 5 6 false 0, 1, 18)] : List (Instr × Word × Nat)),
    got sR x.1 = [(.s 10, x.2)] := by decide +kernel

theorem test_logic_and_shifts : ∀ x ∈ ([
    (.and hA 10 5 6 false, 1), (.or hA 10 5 6 false, 0xABCF), (.xor hA 10 5 6 false, 0xABCE), (.andn hA 10 5 6 false, 0xABCC), (.shl hA 10 5 9 false 0, 0xABCD),
    (.shl hA 10 3 2 false 1, 0), (.shr hA 10 1 2 false 1, 0x7FFFFFFF), (.sar hA 10 3 2 false 1, 0xFFFFFFFFC0000000), (.sar hA 10 4 2 false 0, 0xC000000000000000),
    (.rol hA 10 3 2 false 1, 1), (.rol hA 10 4 2 false 0, 1), (.shli hA 10 2 false 63, 2 ^ 63), (.shli hA 10 2 true 31, 0xFFFFFFFF80000000), (.shri hA 10 4 false 63, 1),
    (.sari hA 10 3 true 31, 2 ^ 64 - 1)] : List (Instr × Word)), got sR x.1 = [(.s 10, x.2, 1)] := by decide +kernel

theorem test_fields_and_selection : ∀ x ∈ ([
    (.clz hA 10 2 0, 63), (.clz hA 10 0 1, 32), (.ctz hA 10 0 0, 64), (.ctz hA 10 3 1, 31), (.popc hA 10 1 1, 32), (.bfx hA 10 5 7 false, 0xBC), (.bfx hA 10 5 8 false, 0xFFFFFFFFFFFFFFBC),
    (.bfi hA 5 6 7 false, 0xA03D), (.min hA 10 1 2 false 0, 2 ^ 64 - 1), (.minu hA 10 1 2 false 0, 1), (.max hA 10 1 2 false 0, 1), (.maxu hA 10 1 2 false 0, 2 ^ 64 - 1),
    (.sel hA 10 5 6 false 0, 0xABCD), (.sel hA 10 5 6 false 1, 3), (.mov hA 10 5, 0xABCD), (.pmovGet hA 10, 1), (.addp hA 10 1 2 false, 0xFFFF000000000000),
    (.pfmt hA 10 5 0x41, 0x410000000000ABCD), (.pfld hA 10 1 0, 0x1F), (.pfld hA 10 1 1, 7), (.pfld hA 10 1 2, 0xFF), (.pfld hA 10 1 3, 0xFFFFFFFFFFFF)] : List (Instr × Word)),
    (got sR x.1).map (fun y => (y.2.1, y.2.2)) = [(x.2, 1)] := by decide +kernel

theorem test_compare : ∀ x ∈ ([
    (.cmp hA 3 1 2 false 2, 1, 1), (.cmp hA 3 1 2 false 6, 0, 1), (.cmp hA 3 2 2 false 8, 1, 1), (.cmpi hA 3 1 31 0, 1, 1), (.plog hA 3 0 1 4, 1, 1), (.plog hA 3 1 0 4, 0, 1),
    (.xmovP hA 3 0, 1, 2)] : List (Instr × Word × Nat)), got sR x.1 = [(.p 3, x.2)] := by decide +kernel

/-- 1.0, 2.0, −0.0, a NaN, the largest FP32, 3.0 and −3.5. -/
def sF : State := run [0, 0x3F800000, 0x40000000, 0x80000000, 0x7FC12345, 0x7F7FFFFF, 0x40400000, 0xC0600000]

theorem test_scalar_float : ∀ x ∈ ([
    (.fadd hA 10 1 2 false 0, 0x40400000), (.fadd hA 10 1 4 false 0, 0x7FC00000), (.fsub hA 10 1 1 false 0, 0), (.fsub hA 10 1 1 false 3, 0x80000000), (.fmul hA 10 6 2 false 0, 0x40C00000),
    (.fmul hA 10 5 2 false 0, 0x7F800000), (.ffma hA 1 6 2 false 0, 0x40E00000), (.fmin hA 10 3 0 false, 0x80000000), (.fmax hA 10 3 0 false, 0), (.fclass hA 10 4, 0x100)] : List (Instr × Word)),
    (got sF x.1).map (fun y => (y.2.1, y.2.2)) = [(x.2, 4)] := by decide +kernel

theorem test_fcmp : (got sF (.fcmp hA 3 4 4 false 0)).map (fun y => y.2.1) = [0] := by decide +kernel

/-! ### States for the witnesses -/

/-- The same machine in supervisor mode. -/
def sup (s : State) : State := s.modC fun c => { c with mode := true }

/-- Both groups owned, every shape of 8 rows and q columns at width code ew, every tag f, every rectangle 8 by 8. -/
def tiles (s : State) (f : BitVec 5) (ew : BitVec 3) (q : Nat) : State :=
  { s with
    res := s.res.set 0 { s.r with
      accOwn := true, tileOwn := true, accLive := 0xFF, tlive := 0xFFFF, mlive := 0xFE, tshape := Vector.replicate 16 ⟨ew, 8, BitVec.ofNat 10 q⟩, ad := Vector.replicate 8 ⟨0, 0, 8, 8⟩ },
    core := { s.core with fmt := Vector.replicate 16 f } }

/-- s1 = 5, s2 = 7, s3 = 0x1000 and s4 = 0x2000 in the scratchpad, s5 at the end of the user region, s6 in server window 1, s7 = 64, s8 a control word of 64 bytes and group 1, s9 another of group 1. -/
def regs : List Nat := [0, 5, 7, 0x1000, 0x2000, 245752, 0x1000000000040, 64, 0x100000040, 0x100000000]

/-- The machine with those registers. -/
def s0 : State := run regs

/-- An active loop, at the first pass of bound 2. -/
def looping (s : State) : State :=
  s.modC fun c => { c with loop := { LoopBuf.reset with nest := { Nest.reset with bound := Vector.replicate 6 2 }, active := true, count := 3 } }

/-- A step or a meaning answers a next state. -/
def answers (r : Result) : Bool := match r with | .next _ => true | _ => false

/-! ### Witnesses: the statements on decoding, steps and bundles -/

theorem witness_EncodeDecodeRoundTrip : (Instr.add hA 1 2 3 true 1).wf = true ∧ (encode (.add hA 1 2 3 true 1)).isSome = true ∧ (opOf (.add hA 1 2 3 true 1)).isSome = true := by decide +kernel

theorem witness_StepKeepsCanonicalMemory : Memory.wf s0.core.mem = true ∧ Memory.wf s0.srv.mem = true ∧ answers (step s0) = true := by decide +kernel

/-- What the first clause of StepRunsDecodedInstruction asks of a state of residency 0, for an instruction of its context 0. -/
def runsWord (s : State) (i : Instr) : Bool :=
  let t : State := { (s.cycleStart.poise 0).1.at 0 0 with bundleLen := 1 }
  let w := t.pairAt t.c.pc
  decide (s.pkg.off = false ∧ s.env.turns = [] ∧ s.env.agenda = [] ∧ s.cycleStart.issuer = some 0 ∧ (s.cycleStart.poise 0).2 = some 0 ∧ t.pendingTrap = none ∧ t.c.barred = false ∧ t.follows = false ∧ t.r.inRange t.c.pc = true ∧
    t.badPair t.c.pc = false ∧ w.getLsbD 30 = true ∧
    ((decode (firstCode w) = .ok i ∧ (w.getLsbD 31 = true ∨ aHalf w = 0)) ∨ (cHalf w = 0x40000000 ∧ aHalf w ≠ 0 ∧ decode (.a (aHalf w)) = .ok i)))

/-- Core 1, a member of the gang of cores 0 and 1, whose leader has fetched one C-word. -/
def follower : State :=
  let s := { s0 with pkg := { s0.pkg with self := 1 }, core := { s0.core with gang := some 1, gangIn := { GangIn.reset with fetched := some [0x4046FFFA] } } }
  s.modR fun r => { r with rank := 1 }

/-- A C-word, a pair and an A-word at the program counter; a bundle that a gang's leader has sent; an arrival, the schedule of turns, and a package turned off. -/
theorem witness_StepRunsDecodedInstruction :
    runsWord (s0.withFetchWord 32 0x4046FFFA) (.br ⟨true, false, 3, false⟩ 0xFFFA) = true ∧ runsWord (s0.withFetchWord 64 0x0000000CC1802980) (.jtab hC 5 6 12) = true ∧
    runsWord (s0.withFetchWord 32 0x24014088) (.xmov ⟨false, false, 0⟩ 5 8) = true ∧
    (let s := follower; let t : State := { (s.cycleStart.poise 0).1.at 0 0 with bundleLen := 1 }; s.pkg.off = false ∧ s.env.turns = [] ∧ s.env.agenda = [] ∧ s.cycleStart.issuer = some 0 ∧
      (s.cycleStart.poise 0).2 = some 0 ∧ t.pendingTrap = none ∧ t.c.barred = false ∧ t.follows = true ∧ t.core.gangIn.fetched = some [0x4046FFFA] ∧
      decode (firstCode 0x4046FFFA) = .ok (.br ⟨true, false, 3, false⟩ 0xFFFA) ∧ aHalf 0x4046FFFA = 0) ∧
    (let s := s0.modEnv fun e => { e with agenda := [.scrub, .packageReset] };
      s.env.turns = [] ∧ s.env.agenda = .scrub :: [.packageReset] ∧ s.pkg.off = false) ∧
    (let s := s0.modEnv fun e => { e with agenda := [.scrub, .packageReset], turns := [some 1, none] };
      s.env.turns = some 1 :: [none] ∧ s.env.agenda[1]? = some .packageReset) ∧
    (let s := { s0 with pkg := { s0.pkg with off := true } }; let r := s.modEnv fun e => { e with agenda := [.scrub] };
      s.pkg.off = true ∧ s.env.turns = [] ∧ s.env.agenda = [] ∧ r.env.turns = [] ∧ r.env.agenda = [.scrub] ∧ r.pkg.off = true ∧ Instr.scrub ≠ .packageReset) ∧
    ((s0.modEnv fun e => { e with turns := [none] }).env.turns = [none] ∧ s0.pkg.off = false) := by decide +kernel

/-- A pending cause; a context that awaits an edge, and a busy one; a false guard; a cause; a wait; and an instruction that issues. -/
theorem witness_OneInstructionBundle :
    ((s0.modC fun c => { c with pending := [⟨Cause.machineCheck, 0, 0⟩] }).pendingTrap.isSome = true) ∧
    (let s := s0.modC fun c => { c with blocked := [(.round, false)] }; s.pendingTrap = none ∧ s.c.barred = true ∧ s.c.waiting s.core.cycle = true) ∧
    (let s := s0.modC fun c => { c with busyUntil := 9 }; let o := opAdd hA 3 1 2 false 0; s.pendingTrap = none ∧ s.c.barred = false ∧ (bundleTrap s.seen (liveOps s.seen [o.alone])).isNone = true ∧
      s.c.waiting s.core.cycle = true) ∧
    (let o := opAdd ⟨false, false, 1⟩ 3 1 2 false 0; s0.unheld = true ∧ s0.packetRoom = true ∧ s0.seen.c.flight.length + s0.c.frozen.length + s0.seen.c.stepResults ≤ 32 ∧ o.live s0.seen = false) ∧
    (let o := opBkpt hC; s0.pendingTrap = none ∧ s0.c.barred = false ∧ s0.packetRoom = true ∧ o.live s0.seen = true ∧ (o.check (o.slot.num 0) s0.seen).isSome = true) ∧
    (let o := opLdfe hC 1 3 0; s0.unheld = true ∧ o.live s0.seen = true ∧ (bundleTrap s0.seen [o.alone]).isNone = true ∧ mustWait s0.seen [o.alone] = true) ∧
    (let o := opAdd hA 3 1 2 false 0; o.ready s0 = true ∧ (o.after (o.eff (o.begun s0))).isNone = true) := by decide +kernel

theorem witness_HardWiredRegisters : (31 : BitVec 6) ≠ 0 ∧ (31 : BitVec 6) ≠ 32 ∧ (15 : BitVec 5) ≠ 0 ∧ (15 : BitVec 5) ≠ 16 ∧ s0.freeC hC 1 = true ∧ s0.c.looping = false := by decide +kernel

theorem witness_ResultsBecomeVisible : (63 : BitVec 6) ≠ 0 ∧ (63 : BitVec 6) ≠ 32 ∧ 0 < 18 ∧ (∀ f ∈ s0.c.flight, f.dest ≠ .s 63) ∧ 17 < 18 ∧ 18 ≤ 18 := by decide +kernel

/-- Three results in flight: one of s4 between two of s3 that come due together. -/
def threeFlights : Ctx := { Ctx.reset with flight := [⟨.s 3, 5, 2⟩, ⟨.s 4, 6, 3⟩, ⟨.s 3, 7, 2⟩] }

theorem witness_LaterResultStands : threeFlights.flight = [] ++ ⟨.s 3, 5, 2⟩ :: [⟨.s 4, 6, 3⟩] ++ ⟨.s 3, 7, 2⟩ :: [] ∧ (3 : BitVec 6) ≠ 0 ∧ (3 : BitVec 6) ≠ 32 ∧
    (∀ f ∈ ([] : List Flight) ++ [⟨.s 4, 6, 3⟩], f.dest = .s 3 → f.rem ≤ 2) ∧ (Ctx.landed (Ctx.landed threeFlights)).readS 3 = 7 := by decide +kernel

theorem witness_RegisterInstructionFrame : ∀ i ∈ ([.add hA 3 1 2 false 0, .fcvt hA 3 1 0 0, .br hC 5, .waitCyc hC 0, .csrr hC 3 9] : List Instr),
    registersOnly i = true ∧ rdy s0 i = true ∧ rdy (looping s0) (.add hA 3 1 2 false 0) = true ∧
    loopsOnly (.loop hC 0 3) = true ∧ rdy s0 (.loop hC 0 3) = true ∧ loopsOnly (.loopx hC 5) = true ∧ rdy (looping s0) (.loopx hC 5) = true := by decide +kernel

/-- A full word at s3, for the loads that wait for one. -/
def full (s : State) : State := s.setFull 0x1000 true

/-- Each load and store issues and, where it stores, its address lies in the scratchpad. -/
theorem witness_LoadStoreFrame :
    (∀ i ∈ ([.ld hC 1 3 3 false 7, .ldExt hC 1 3 0 true 0xFFFFFFFF, .ldp hC 30 3 0, .ldpExt hC 1 3 16, .ldff hC 1 3 0, .ldffExt hC 1 3 0] : List Instr), rdy (full s0) i = true ∧ answers (exec i (full s0)) = true) ∧
    (∀ i ∈ ([.st hC 1 3 3 7, .stExt hC 1 5 3 0, .stp hC 30 3 0, .stpExt hC 1 3 16, .stfe hC 1 3 0, .stfeExt hC 1 3 8, .stf hC 1 3 0, .stfExt hC 1 3 8] : List Instr), rdy s0 i = true ∧ answers (exec i s0) = true) ∧
    (s0.regionOf 0x1000).isSome = true ∧ (s0.regionOf 245752).isSome = true ∧
    ∀ x ∈ s0.regionOf 0x1000, x.1 ≠ .control ∧ s0.auxTags x.1 = false := by decide +kernel

/-! ### Witnesses: results, loads and stores, control -/

theorem witness_scalar_results : s0.freeA hA 15 = true ∧ s0.freeA hA 1 = true ∧ s0.freeC hC 1 = true ∧ s0.freeC hC 0 = true := by decide +kernel

/-- The invalid operations of FADD, FSUB, FMUL and FFMA: a NaN, infinities and a zero. -/
theorem witness_ScalarFloatResults :
    let s := run [0, 0x7F800000, 0xFF800000, 0x7FC00000, 0]
    s.freeA hA 1 = true ∧ fpOf (s.opA false 3) = .nan ∧ (fpOf (s.opA false 1) = .inf false ∧ fpOf (s.opA false 2) = .inf (!false)) ∧
    (fpOf (s.opA false 1) = .inf false ∧ ∃ e ∈ [(-149 : Int), -126, -150, 0], fpOf (s.opA false 4) = .fin false 0 e) ∧
    fpOf (s.opB false 3 false) = .nan ∧ fpOf (s.opB false 1 false) = .inf false ∧ (∃ e ∈ [(-149 : Int), -126, -150, 0], fpOf (s.opB false 4 false) = .fin false 0 e) ∧
    (Val.mul (fpOf (s.opA false 1)) (fpOf (s.opB false 1 false)) = .inf false ∧ fpOf (s.opA false 2) = .inf (!false)) := by decide +kernel

/-- An infinity of each sign, of which FMA makes a sum. -/
theorem test_ffma_invalid : got (run [0, 0x7F800000, 0x3F800000, 0xFF800000]) (.ffma hA 3 1 2 false 0) = [(Dest.s 3, 0x7FC00000, 4)] := by decide +kernel

/-- Each class of FCLASS: the negative and positive infinity, normals, subnormals, zeros, a NaN (R152). -/
theorem test_fclass : ∀ x ∈ ([(0xFF800000, 0), (0x80800000, 1), (0x807FFFFF, 2), (0x80000000, 3), (0, 4), (1, 5), (0x7F7FFFFF, 6), (0x7F800000, 7), (0x7F800001, 8)] : List (Nat × Nat)),
    got (run [0, x.1]) (.fclass hA 3 1) = [(Dest.s 3, BitVec.ofNat 64 (2 ^ x.2), 4)] := by decide +kernel

theorem witness_LoadAndStoreResults : ∀ i ∈ ([.ld hC 1 3 0 false 7, .ldExt hC 1 5 3 false 0, .ldp hC 30 3 7, .ldpExt hC 1 3 0xFFFFFFF0, .st hC 1 3 0 7, .stExt hC 1 5 3 0, .stp hC 30 3 7,
    .stpExt hC 1 3 0xFFFFFFF0] : List Instr), rdy s0 i = true := by decide +kernel

theorem witness_FullEmptyAndAtomicResults : (∀ i ∈ ([.ldfe hC 1 3 0, .ldfeExt hC 1 3 0, .ldff hC 1 3 0, .ldffExt hC 1 3 0] : List Instr), rdy (full s0) i = true) ∧
    (∀ i ∈ ([.stfe hC 1 3 0, .stfeExt hC 1 3 0, .stf hC 1 3 7, .stfExt hC 1 3 8, .lat hC 1 3 2 false 1 9, .lat hC 1 3 2 true 0 0, .ndld hC 4 7] : List Instr), rdy s0 i = true) ∧
    5 < 2 ^ (8 * 4) := by decide +kernel

theorem witness_LocalWrite : Memory.wf s0.core.mem = true ∧ (s0.regionOf 0).isSome = true ∧ ∀ x ∈ s0.regionOf 0, x.1 ≠ .control ∧ s0.auxTags x.1 = false := by decide +kernel

/-- A doubleword that ends at the end of the user region. -/
theorem witness_AlignedScratchpadAccessIssues :
    let p := ptrAdd (s0.seen.c.reg false 5) (0 : BitVec 32).toInt
    s0.freeC hC 1 = true ∧ ptrWin p = 0 ∧ ptrBlg p = 0 ∧ fmtKnown (ptrFmt p) = true ∧ ptrOff p + 2 ^ (3 : BitVec 2).toNat = s0.r.userEnd ∧ ptrOff p % 2 ^ (3 : BitVec 2).toNat = 0 ∧
    (∀ i, s0.core.range.get i = none) ∧ s0.core.bad = [] := by decide +kernel

/-- JTAB with its index at the table's length and one below it. -/
theorem witness_TransferResults : s0.freeC hC 1 = true ∧ s0.c.looping = false ∧ (5 : BitVec 16).toNat ≤ (s0.seen.c.reg false 1).toNat ∧
    ((s0.seen.c.reg false 1).toNat < (6 : BitVec 16).toNat ∧ (opJtab hC 3 1 6).ready s0 = true) ∧
    s0.freeC hC 0 = true ∧ (looping s0).freeC hC 0 = true ∧ (looping s0).c.looping = true ∧ (looping s0).freeC hC 1 = true := by decide +kernel

/-- Nests whose bounds are all 1 and with one bound 0. -/
theorem witness_LoopResults :
    let s := s0.modR fun r => { r with nests := (r.nests.set 1 { Nest.reset with bound := Vector.replicate 6 1 }).set 2 { Nest.reset with bound := (Vector.replicate 6 1).set 5 0 } }
    s.freeC hC 0 = true ∧ s.c.looping = false ∧ (∀ d : Fin 6, (s.begun.r.nest 1).bound.get d ≠ 0) ∧ (∃ d : Fin 6, (s.begun.r.nest 2).bound.get d = 0) ∧
    (looping s).freeC hC 1 = true ∧ (looping s).c.looping = true ∧ s.freeC hC 1 = true := by decide +kernel

/-- The first index of a nest, and its last. -/
theorem witness_LoopRunsTheNestInOrder :
    let n : Nest := { Nest.reset with bound := (Vector.replicate 6 1).set 0 2 }
    let i0 : Vector (BitVec 16) 6 := Vector.replicate 6 0
    (∀ d, (i0.get d).toNat < (n.bound.get d).toNat) ∧ (loopCarry n 6 i0).2 = false ∧ nestRank n (loopCarry n 6 i0).1 = 1 ∧
    (∀ d, ((i0.set 0 1).get d).toNat < (n.bound.get d).toNat) ∧ (loopCarry n 6 (i0.set 0 1)).2 = true ∧ n.passes = 2 := by decide +kernel

/-- Each form of WAIT where its condition holds, and WAIT.limit where its limit has lapsed. -/
theorem witness_WaitResults :
    rdy (full s0) (.waitFull hC 3) = true ∧ rdy s0 (.waitEmpty hC 3) = true ∧
    rdy (s0.modR fun r => { r with fields := r.fields.set 1 { EvField.unbound with bound := true, t := 5 } }) (.waitFtime hC 1 1) = true ∧
    rdy (s0.modR fun r => { r with errq := [⟨0, 0, 0, 0⟩] }) (.waitErrq hC) = true ∧
    rdy ({ s0 with core := { s0.core with cycle := 105 } }.modC fun c => { c with heldAt := some 100 }) (.waitCyc hC 1) = true ∧
    rdy s0 (.waitHelpers hC 1) = true ∧ rdy (full s0) (.waitLimit hC 3 0 0 9) = true ∧
    rdy ({ s0 with core := { s0.core with cycle := 109 } }.modC fun c => { c with heldAt := some 100 }) (.waitLimit hC 3 0 0 9) = true ∧
    rdy (s0.modR fun r => { r with chans := r.chans.set 1 ⟨6, 6, []⟩ }) (.waitch hC 1 1) = true ∧
    rdy (s0.modR fun r => { r with mboxes := r.mboxes.set 15 ⟨0, 0, false, 1, false⟩ }) (.waitmb hC 15) = true := by decide +kernel

/-- A helper, context 10, that runs beside context 0. -/
def helper (s : State) : State := { (s.modCtx 10 fun c => { c with status := .live, s := s.c.s }) with curCtx := 10 }

theorem witness_ContextLifeResults : rdy s0 (.start hC 1 1) = true ∧ rdy s0 (.start hC 1 10) = true ∧ rdy (helper s0) (.hend hC) = true ∧ rdy s0 (.yield hC) = true ∧ rdy s0 (.halt hC) = true := by decide +kernel

/-- The other member of a gang of width 1 has announced its coupling; a core in exchange mode, its phase not yet open, and open. -/
def exchanging (s : State) (o : Bool) : State := { s with core := { s.core with exch := { s.core.exch with mode := true, opened := o } } }

theorem witness_GangBellExchangeResults :
    rdy { s0 with core := { s0.core with coupling := [(1, 1)] } } (.couple hC 1) = true ∧ s0.freeC hC 0 = true ∧ rdy s0 (.bell hC 15) = true ∧ rdy s0 (.bellD hC 15) = true ∧
    rdy s0 (.bellX hC 0 false) = true ∧ rdy (exchanging s0 false) (.exch hC) = true ∧ rdy (exchanging s0 true) (.exchend hC) = true ∧
    ((opExchend hC).begun (exchanging s0 true)).core.exch.collision = none := by decide +kernel

/-! ### Witnesses: control registers, traps, records -/

/-- s1 holds a value to write. -/
def val1 (v : Nat) : State := run (0 :: v :: regs.drop 2)

/-- Every write of a control register that has a row of its own, at the CSRW form and at one of the others. -/
theorem witness_ControlRegisterWrites :
    (∀ i ∈ ([.csrr hC 2 0x40, .csrw hC 1 0x40, .csrs hC 1 0x41, .csrc hC 1 0x4F] : List Instr), rdy s0 i = true) ∧
    (∀ i ∈ ([.csrr hC 2 0x115, .csrw hC 1 0x108, .csrs hC 1 0x103, .csrc hC 1 0x104, .accownWrite hC 0 1, .tileownWrite hC 0 1, .spbaseWrite hC 2 1, .extentWrite hC 0 1 0 0, .extentWrite hC 1 1 2 15,
      .capkeyWrite hC 0 1 false, .capkeyWrite hC 0 1 true] : List Instr), rdy (sup s0) i = true) ∧
    rdy (sup (val1 0x4080000)) (.splimWrite hC 0 1) = true ∧ rdy (sup (val1 0)) (.spbaseWrite hC 0 1) = true ∧
    (∀ i ∈ ([.tshapeWrite hC 0 1 15, .adWrite hC 0 1 7, .trestartWrite hC 0 1, .errqsWrite hC 0 1, .srlfsrWrite hC 1 1, .vshareWrite hC 1 1] : List Instr), rdy (val1 0x80) i = true) := by decide +kernel

/-- A register and both 64-bit halves of the pair of read-only ranges exist; the last index of each range. -/
theorem witness_ControlRegisterReadBack : 15 < 16 ∧ 7 < 8 ∧ 3 < 4 := by decide

/-- An error-queue entry waits; a trap in user mode, a return and PEERCLR in supervisor mode. -/
theorem witness_SystemInstructionResults :
    s0.freeC hC 1 = true ∧ s0.c.mode = false ∧ (sup s0).freeC hC 1 = true ∧ (sup s0).c.mode = true ∧ rdy s0 (.errq hC 1 4) = true ∧ s0.r.errq = [] ∧
    (let s := s0.modR fun r => { r with errq := [⟨1, 2, 3, 4⟩] }; rdy s (.errq hC 1 4) = true ∧ ((opErrq hC 1 4).begun s).r.errq = ⟨1, 2, 3, 4⟩ :: []) ∧ rdy (sup s0) (.peerclr hC 1) = true := by decide +kernel

/-- Both groups owned by the issuing residency, its rectangles 8 by 8. -/
def owned : State := tiles s0 4 3 8

/-- An image of a context stands at s4, saved there by CTXSV. -/
def imaged : State := sup ((after (sup s0) (.ctxsv hC 4 0)).modC fun c => { c with pc := 0 })

theorem witness_RecordSpillAndPageResults : rdy (sup s0) (.ctxsv hC 4 10) = true ∧ rdy imaged (.ctxld hC 4 10) = true ∧ rdy (sup owned) (.accspill hC 4 7) = true ∧ rdy (sup owned) (.accfill hC 4 0) = true ∧
    (∀ o ∈ [opReleaseAcc 0, opReleaseTile 0, opDptimeoutWrite 0, opDptimeoutWrite 1, opPendingResultWrite 1 true 31 5, opPendingResultWrite 10 false 0 5], o.ready (sup owned) = true) ∧
    (sup owned).r.limit ≤ 0x200000 ∧ (1 : CtxNo) ≠ (sup owned).curCtx := by decide +kernel

theorem witness_SupervisorOnlyInstructionsTrap : s0.freeC hC 1 = true ∧ s0.c.mode = false ∧ 0x100 ≤ (0x100 : BitVec 12).toNat ∧ (0x1FF : BitVec 12).toNat < 0x200 ∧ (2 : BitVec 2) ≠ 3 := by decide +kernel

/-- A user trap with its record, and the same cause taken in supervisor mode. -/
theorem witness_TrapEntry : s0.c.mode = false ∧ (sup s0).c.mode = true ∧
    (let t := after s0 (.trap hC 1 7); t.c.trap.cause = Cause.userTrap ∧ t.c.trap.pc = 1 ∧ t.c.trap.frm = 0 ∧ t.c.trap.info0 = 7 ∧ t.c.trap.info1 = 5 ∧ t.c.pc = 50 ∧ t.c.mode = true) ∧
    (let t := (sup s0).takeTrap (trapWith Cause.breakpoint 0 0); t.c.trap.cause = Cause.nestedTrap ∧ t.r.phase = .faulted) := by decide +kernel

/-! ### Witnesses: tiles -/

/-- Tiles whose shapes, format and block-length tags differ: the fixture of the block formats. -/
def mixed : State :=
  { s0 with
    res := s0.res.set 0 { s0.r with
      accOwn := true, tileOwn := true, accLive := 0xFF, tlive := 0xFFFF, mlive := 0xFE, ad := Vector.replicate 8 ⟨0, 0, 8, 16⟩,
      tshape := (Vector.replicate 16 ⟨0, 8, 32⟩).set 0 ⟨3, 8, 32⟩ },
    core := { s0.core with fmt := (Vector.replicate 16 fmtN4).set 0 fmtF32, blg := Vector.replicate 16 5 } }

/-- Tile 0 is an index pair of INT32, the rest hold BF16 and FP32. -/
def floats : State := tiles s0 fmtF32 3 8
def halves : State := tiles s0 fmtBf16 2 8

/-- A handle of 4 slots of 64 bytes, one of them full: its ring tasks may issue. -/
def ringed (s : State) : State := s.modR fun r => { r with handles := (r.handles.set 1 ⟨0x4000, 8, 3, 1, 0, true⟩).set 2 ⟨0x8000, 8, 3, 0, 0, true⟩ }

/-- Every tile-acting instruction issues in one of these states. -/
theorem witness_tile_tasks :
    (∀ i ∈ ([.tadd hA 1 2 3 0 false 0, .tsub hA 1 2 3 0 false 0, .tmul hA 1 2 3 0 false 0, .tfma hA 1 2 3 0 false 0, .tmax hA 1 2 3 0, .tmin hA 1 2 3 0, .tabs hA 1 2 0, .tneg hA 1 2 0,
      .tcvt hA 1 2 5 0 0, .tand hA 1 2 3 0, .tor hA 1 2 3 0, .txor hA 1 2 3 0, .tshl hA 1 2 3 0, .tshr hA 1 2 3 0 true, .tcmp hA 1 2 3 0 0, .tsel hA 1 2 3 1, .tcas hA 1 2 3 0 false false,
      .tmaxi hA 1 2 3 0 false, .tmini hA 1 2 3 0 false, .tredSum hA 1 2 false 0 0, .tredMax hA 1 2 false 0 0, .tredMin hA 1 2 false 0 0, .tbc hA 1 2 0 false, .ttr hA 1 2 0] : List Instr),
      tileTask i = true ∧ rdy owned i = true) ∧
    (∀ i ∈ ([.tslc hA 1 2 3 0, .tidx hA 1 0 false, .tmov hA 1 2 0, .tfill hA 1 0, .mlog hA 1 2 3 0 0, .mcnt hA 1 2 0, .accrd hC 1 0 true 0, .accwr hC 0 1, .accwrAdd hC 0 1] : List Instr),
      tileTask i = true ∧ rdy owned i = true) ∧
    (∀ i ∈ ([.tscl hA 1 2 3 0 false 0, .sft hC 1 2 0 8] : List Instr), tileTask i = true ∧ rdy floats i = true) ∧ tileTask (.mma hC 0 1 2 0) = true ∧ rdy halves (.mma hC 0 1 2 0) = true ∧
    (∀ i ∈ ([.tqnt hA 1 0 0 0 0, .tdq hA 0 1 5 0 0, .mmaX hC 0 1 2 0] : List Instr), tileTask i = true ∧ rdy mixed i = true) ∧
    (∀ i ∈ ([.ringCw hC 1 2, .ringCcw hC 1 2] : List Instr), tileTask i = true ∧ rdy (ringed s0) i = true) := by decide +kernel

/-- A reduction of descriptor 0 that is open and bound. -/
def reducing : State := owned.modR fun r => { r with reductions := [⟨0, ⟨0, 0, 8, 8⟩, 7, 1, 0, true, false⟩] }

theorem witness_TileInstructionsEnterATask :
    (let d := owned.r.ad.get 0; rdy owned (.accz hC 0) = true ∧ Memory.wf owned.core.mem = true ∧ 32 * d.rblk.toNat + d.rows.toNat ≤ 256 ∧ 32 * d.cblk.toNat + d.cols.toNat ≤ 256) ∧
    rdy s0 (.sfs hC 1 2 0 7) = true ∧ rdy owned (.tld hC 4 1 7 0 0 false 32) = true ∧ rdy owned (.tst hC 4 1 0 0 0 false 32) = true ∧ rdy owned (.accxSend hC 0 0 7) = true ∧
    rdy owned (.accxOpen hC 1 0 7) = true ∧ rdy reducing (.accxClose hC 0 0) = true := by decide +kernel

/-- A task on tile 1 as the Foreman holds it: shapes 8 by 8 of INT8, no mask. -/
def vecTask : Task :=
  { instr := .tadd hA 1 2 3 0 false 0, pair := 0, ctx := 0, res := 0, shapes := [⟨1, 8, 8⟩, ⟨1, 8, 8⟩, ⟨1, 8, 8⟩], desc := ⟨0, 0, 8, 8⟩, fmts := [1, 1, 1], blgs := [0, 0, 0], operand := 0, tid := 0, scaleSeq := none, seq := 0, lfsr := 0, lfsrEnd := 0,
    range := none, dispatched := true, stopped := false, parked := false, pos := 0, jb := 0, kb := 0, notice := none, remote := false, heavy := false, sendId := 0, lane := none, id := 0 }

/-- The task's destination shape, an element of its row block inside the shape and one of the next block outside it; and its snapshots of an integer format. -/
theorem witness_TileElementResults : let o := vecTask.opnd 0 1
    Memory.wf ([] : List Host.Cell) = true ∧ o.sh.ew.toNat ≤ 4 ∧ o.sh.rows.toNat * o.sh.rowBytes ≤ 32768 ∧ o.sh.has 7 7 = true ∧ 7 / 8 = 0 ∧ maskGet [] (gateOf vecTask.instr) 7 7 = true ∧
    (vecElem vecTask ([] : List Host.Cell) 0 7 7).1 = some 0 ∧ isIn (vecTask.opnd 1 2).fmt = true ∧ (vecTask.opnd 1 2).get [] 0 0 < 2 ^ tagWidth (vecTask.opnd 1 2).fmt := by decide +kernel

/-- The rectangle at the last place of the accumulators, and an element of the task's block. -/
theorem witness_MatrixStep : let t := { vecTask with instr := .mma hC 0 1 2 0, desc := ⟨7, 7, 32, 32⟩ }
    Memory.wf ([] : List Host.Cell) = true ∧ 32 * t.desc.rblk.toNat + t.desc.rows.toNat ≤ 256 ∧ 32 * t.desc.cblk.toNat + t.desc.cols.toNat ≤ 256 ∧
    7 < (mmaDims t 1 2 false).1 ∧ 7 < (mmaDims t 1 2 false).2.1 ∧ 7 / 32 = t.pos ∧ 7 / 32 = t.jb ∧ (3 : BitVec 3) ≠ 4 := by decide +kernel

/-! ### Witnesses: the units of a core -/

/-- A task that TADD has entered, then dispatched to its engine. -/
def tasked : State := after owned (.tadd hA 1 2 3 0 false 0)
def dispatched : State := after tasked .foremanDispatch

/-- This core's quota of the vector arbiter is not used up. -/
def quoted (s : State) : State := { s with cl := { s.cl with quota := Vector.replicate 4 1 } }

/-- A ring task dispatched here, the other three positions having dispatched theirs. -/
def ringing : State :=
  let s := after (after (ringed s0) (.ringCw hC 1 2)) .foremanDispatch
  { s with cl := { s.cl with ringPeers := [(1, true, 64), (2, true, 64), (3, true, 64)] } }

/-- A request of SFS, waiting and in service. -/
def asked : State := after s0 (.sfs hC 1 2 0 7)
def served : State := let s := after asked .sfuServe; { s with core := { s.core with cycle := s.cl.sfuDue } }

/-- A matrix task that waits for leave. -/
def heavy : State :=
  let s := halves.modR fun r => { r with tshape := (r.tshape.set 1 ⟨2, 256, 64⟩).set 2 ⟨2, 64, 256⟩, ad := r.ad.set 0 ⟨0, 0, 256, 256⟩ }
  after (after s (.mma hC 0 1 2 0)) .foremanDispatch

/-- What the power controller has of it; its unit granted, and the answer due. -/
def leaveAsk : LeaveAsk := ⟨0, 0, 0⟩
def granted : State := heavy.decideLeave
def granting : State := { granted with core := { granted.core with cycle := 4 } }

/-- A bell of two parties at which the other has arrived, this core last: due now; and the same with the exchange flag. -/
def belled (x : Bool) : State :=
  let s := { s0 with die := { s0.die with bells := s0.die.bells.set 3 ⟨1, 2, some x, false, [], none⟩ } }
  let t := after s (if x then .bellX hC 3 false else .bell hC 3)
  { t with core := { t.core with cycle := ((t.die.bell false 3).due).getD 0 } }

/-- A context whose WAIT.limit has lapsed. -/
def lapsed : State :=
  let s := (s0.withFetchWord 64 0x00000009C2401800)
  { (s.modC fun c => { c with heldAt := some 100 }) with core := { s.core with cycle := 109 } }

/-- The one task of a state meets a condition. -/
def only (l : List Task) (p : Task → Bool) : Bool := match l with | [u] => p u | _ => false

theorem witness_CoreUnitResults :
    (only tasked.core.tasks fun u => decide (tasked.core.issuing = some 0 ∧ tasked.core.switch = none ∧ u.res = 0 ∧ (tasked.res.get 0).phase = .live ∧ tasked.core.engineDone = [] ∧ (tasked.res.get 0).tasksHeld = false ∧ tasked.taskReady [] u = true ∧
      tasked.dispatchTouch u = none ∧ (tasked.as 0 fun v => v.resolve (taskUses u).groups.1 (taskUses u).groups.2).clearing (taskUses u).groups.1 (taskUses u).groups.2 = false)) = true ∧
    (∀ s ∈ [after (after owned (.accrd hC 1 0 true 0)) .foremanDispatch, after (after halves (.mma hC 0 1 2 0)) .foremanDispatch], only s.core.tasks fun u =>
      decide ((s.core.tasks.find? fun t => t.id == u.id && t.dispatched && !t.parked) = some u ∧ (u.stepBanks ≠ [] → s.env.agenda.any writesBank = false) ∧ u.unpaired = false ∧ s.ringWaits u = false ∧
        s.blockClash u = none ∧ s.portWaits u = false ∧ s.taskBad u = false)) ∧
    (let s := quoted dispatched; s.vectorHead.isSome = true ∧ s.cl.lanes.get 0 = none ∧ (∀ i : BitVec 2, i ≠ s.position → s.cl.waiting.get ⟨i.toNat, i.isLt⟩ = 0) ∧
      0 < s.cl.quota.get ⟨s.position.toNat, s.position.isLt⟩) ∧
    ((∀ u ∈ ringing.ringTask, ringOf u.instr = some (true, 1, 2)) ∧ ringing.ringTask.isSome = true ∧ (∀ p : BitVec 2, p ≠ ringing.position → ∃ x ∈ ringing.cl.ringPeers, x.1 = p) ∧
      ∀ x ∈ ringing.cl.ringPeers, x.2.1 = true ∧ x.2.2 = ((ringing.res.get 0).handle 1).slot) ∧
    ({ s0 with core := { s0.core with accClear := some 0 } }.core.accClear = some 0) ∧
    (asked.cl.sfuBusy = none ∧ asked.fifoNext = some 0 ∧ asked.fifoAt 0 = .inl 0 ∧ (asked.cl.fifos.get 0).length = 1) ∧
    (let c := (served.res.get 0).ctx.get 0; served.core.issuing = some 0 ∧ served.cl.sfuBusy = some 0 ∧ served.cl.sfuDue = served.core.cycle ∧ (served.cl.fifos.get 0).length = 1 ∧
      (∀ q ∈ served.cl.fifos.get 0, q.scalar = true ∧ c.mode = q.sup ∧ ∀ a ∈ c.awaits, a.mode = q.sup) ∧ c.awaits.length = 1 ∧ ∀ a ∈ c.awaits, a.sfu = true) := by decide +kernel

theorem witness_CoreUnitResults_leave_and_bells :
    (heavy.die.leaveQueue = [leaveAsk] ∧ leaveAsk.core = heavy.diePlace ∧ heavy.die.leaveUnits.length + 1 ≤ heavy.die.dieLimit ∧ heavy.die.clusterUnits leaveAsk.core + 1 ≤ heavy.die.clusterLimit) ∧
    (let s := { heavy with die := { heavy.die with dieLimit := 0 } }; s.die.leaveQueue = [leaveAsk] ∧ s.die.dieLimit < s.die.leaveUnits.length + 1) ∧
    (let s := { heavy with die := { heavy.die with clusterLimit := 1, leaveUnits := [1] } }; s.die.leaveQueue = [leaveAsk] ∧ s.die.clusterLimit < s.die.clusterUnits leaveAsk.core + 1) ∧
    (granted.core.leaveDue = some 4 ∧ granted.core.cycle.toNat < (4 : BitVec 64).toNat) ∧
    (granting.core.leaveDue = some 4 ∧ (4 : BitVec 64).toNat ≤ granting.core.cycle.toNat ∧ granting.core.tasks ≠ [] ∧ ∀ u ∈ granting.core.tasks, u.dispatched = true ∧ u.parked = true ∧ engineOf u.instr = 1) ∧
    (let s := { granting with core := { granting.core with tasks := [] } }; s.core.leaveDue = some 4 ∧ s.core.tasks = [] ∧ s.core.leaveCopies = [] ∧ s.core.exch.asked = none ∧ s.core.leaveUse = 0) ∧
    ((belled false).bellsDue = [(false, 3)] ∧ (belled false).phaseOf ((belled false).die.bell false 3) = none ∧ ((belled false).c.blocked = [(.bell false 3, false)])) ∧
    ((belled true).bellsDue = [(false, 3)] ∧ (belled true).phaseOf ((belled true).die.bell false 3) = some 0 ∧ (belled true).bellWaits false ((belled true).die.bell false 3) = false) ∧
    ((belled false).bellWaits false ((belled false).die.bell false 3) = false) ∧
    (let s := { belled true with die := (belled true).die.modBell false 3 fun b => { b with lacking := [5] } }; s.bellsDue = [(false, 3)] ∧ s.bellWaits false (s.die.bell false 3) = true) ∧
    (lapsed.issuer = some 0 ∧ ((List.finRange 11).find? fun c => ((lapsed.res.get 0).ctx.get c).status == .live && (lapsed.at 0 c).limitLapsed) = some 0) := by decide +kernel

/-! ### Witnesses: servers, responses, Porters -/

/-- Entry 3 of the extent table grants reads, writes and atomics to 16 pages of window 1, at server address 0x100000; table 0 deals blocks of 64 bytes over two cores. -/
def mapped : State := s0.modR fun r => { r with
  extents := r.extents.set 3 ⟨0x1F, 0x10000, 0x100000⟩, extentsPending := r.extentsPending.set 3 ⟨0x1F, 0x10000, 0x100000⟩, dt := r.dt.set 0 (64 + 2 * 2 ^ 18 + 2 ^ 29) }

/-- A request of another core of the cluster, the third of its party. -/
def farRq (op : ServerOp) : ServerReq := ⟨9, 0, false, 0, 0x100040, op, ⟨5, 3, true, true, true, true, none⟩⟩

/-- Forms that enter a request; a pointer that relocates and one that does not; and what a read, an atomic and a copy to server memory meet at the network interface. -/
theorem witness_ServerInstructions :
    (∀ i ∈ ([.xld hC 3 6 0 false 7 256, .xst hC 6 3 0 false 0 1, .xat hC 6 1 2 false false 1 0, .xat hC 6 1 2 false true 1 9, .xatr hC 6 1 2 false false 0 0, .cpy hC 3 6 7 false false 0 false 0,
      .cpyd hC 3 6 7 false 0 15 true 0 0 false 7, .fenceAcq hC 5, .fenceRel hC 0, .fenceRel hC 3, .fenceFull hC 5, .fenceExt hC] : List Instr), rdy mapped i = true) ∧
    (mapped.place mapped.r.extents (mapped.c.reg false 6) 0 0 256 1).isOk = true ∧ (s0.place s0.r.extents (s0.c.reg false 6) 0 0 256 1).isOk = false ∧
    (mapped.place mapped.r.extents (mapped.c.reg false 6) 2 0 4 1).isOk = true ∧ (s0.place s0.r.extents (s0.c.reg false 6) 2 0 4 1).isOk = false ∧ mapped.core.reqs = [] ∧
    (let s := after mapped (.xld hC 3 6 0 false 7 256); (∀ y ∈ s.core.reqs, y.unentered = false) ∧ s.core.reqs.length = 1) ∧
    (let s := after mapped (.xat hC 6 1 2 false false 1 0); (∀ q ∈ s.core.reqs, s.readsBefore q = false) ∧ s.core.reqs.length = 1) ∧
    (let s := after mapped (.cpy hC 6 6 7 false false 0 false 0); ∀ q ∈ s.core.reqs, ptrWin q.dst ≠ 0 ∧ s.readsBefore q = false ∧ Rank.core q.porter ≠ 0) ∧
    (let s := after s0 (.cpy hC 3 6 7 false false 0 false 0); ∀ q ∈ s.core.reqs, ptrWin q.dst = 0 ∧ Rank.core q.porter = 0) ∧
    (let s := after mapped (.cpyd hC 3 6 7 false 0 15 true 0 0 false 7); ∀ q ∈ s.core.reqs, q.total ≤ 16384) ∧
    ((mapped.r.extents.get 3).covers 1 0 65535 = true ∧ (∀ m, m < (3 : Fin 16) → (mapped.r.extents.get m).covers 1 0 65535 = false) ∧ (mapped.r.extents.get 3).covers 1 0 65536 = false ∧
      (∀ n, (mapped.r.extents.get n).covers 1 65536 65536 = false)) ∧
    (let s := after mapped (.xld hC 3 6 0 false 7 256); rdy s (.fenceAcq hC 0) = false ∧ s.core.reqs.length = 1) := by decide +kernel

/-- A request of eight bytes. -/
def rq (op : ServerOp) : ServerReq := ⟨9, 0, true, 0, 0x100040, op, .own⟩
def cas : Atomic := ⟨9, 8, 5, 0⟩
def cas128 : Atomic := ⟨9, 16, 5, 0⟩

/-- Server memory with a word in error at the address of the requests. -/
def spoilt : State := { s0 with srv := { s0.srv with bad := [serverKey 0 0x100040] } }

/-- A write of the party of `farRq` that has not been performed, before a request that its release holds. -/
def earlier : State := { s0 with srv := { s0.srv with pending := [{ farRq (.write [1]) with addr := 0x5000, order := ⟨5, 2, true, false, false, false, none⟩ }] } }

/-- Requests that a gateway or a quarantined die turns away, that are held back by an earlier access, by a lock, and by nothing; words that are sound, bad in part, and bad. -/
theorem witness_ServerResults :
    (∀ op ∈ [.read 8, .write [1, 2], .atomic cas], ∀ q ∈ [rq op, farRq op], s0.turnedAway q = none ∧ s0.heldBack q = false ∧ (∀ l ∈ s0.srv.locks, l.1 ≠ reqGranule q)) ∧
    (∀ op ∈ [.read 8, .write [1, 2], .atomic cas], ∀ q ∈ [{ farRq op with order := ⟨5, 3, false, false, false, false, some (1, 1)⟩ }],
      s0.turnedAway q = some (.extentRights (reqRight q) 0)) ∧
    (let s := { s0 with pkg := { s0.pkg with dies := s0.pkg.dies.set 8 { s0.pkg.dies.get 8 with state := .quarantined } } }; s.turnedAway (rq (.read 8)) = some (.peerDead false)) ∧
    (earlier.turnedAway (farRq (.write [1])) = none ∧ earlier.heldBack (farRq (.write [1])) = true) ∧
    (let s := { s0 with srv := { s0.srv with locks := [(reqGranule (rq (.read 8)), 4)] } }; ∃ l ∈ s.srv.locks, l.1 = reqGranule (rq (.read 8))) ∧
    (let s := after mapped (.xld hC 3 6 0 false 7 64); (s.reqOf s0.core.nextId).any (·.kind == 0) = true) ∧
    (let s := after (after mapped (.xst hC 6 3 0 false 0 64)) .xstSourceRead; (s.reqOf s0.core.nextId).any (·.kind == 1) = true) ∧
    (s0.srv.badIn (serverKey 0 0x100040) 8 = false ∧ s0.srv.badPart (serverKey 0 0x100040) 2 = false ∧ spoilt.srv.badIn (serverKey 0 0x100040) 8 = true ∧
      spoilt.srv.badPart (serverKey 0 0x100040) 2 = true ∧ spoilt.srv.badPart (serverKey 0 0x100040) 8 = false ∧ atomicNeedsB cas = false ∧ atomicNeedsB cas128 = true) := by decide +kernel

/-- An atomic in the Weighhouse at each of its steps. -/
def weighed (st : WeighStep) : State := { s0 with srv := { s0.srv with weigh := [⟨rq (.atomic cas), st⟩], locks := if st = .locking then [] else [(reqGranule (rq (.atomic cas)), 9)] } }

/-- The same with another atomic behind it that waits for the granule. -/
def queued : State := { weighed (.writing 7 5) with srv := { (weighed (.writing 7 5)).srv with weigh := [⟨rq (.atomic cas), .writing 7 5⟩, ⟨{ rq (.atomic cas) with id := 10 }, .waiting⟩] } }

theorem witness_WeighhouseSteps : (∀ st ∈ [WeighStep.locking, .locked 7, .writing 7 5],
    (weighed st).srv.weigh = [] ++ ⟨rq (.atomic cas), st⟩ :: [] ∧ (weighed st).serverGone 0 0x100040 = false ∧ (weighed st).srv.badIn (serverKey 0 0x100040) cas.bytes = false ∧
    (weighed st).mayUnlock ⟨rq (.atomic cas), st⟩ = true ∧ (weighed st).srv.pending = [] ∧ answers (exec .weighhouseLockData (weighed st)) = true) ∧
    (queued.srv.weigh = [] ++ ⟨rq (.atomic cas), .writing 7 5⟩ :: [⟨{ rq (.atomic cas) with id := 10 }, .waiting⟩] ∧ queued.mayUnlock ⟨rq (.atomic cas), .writing 7 5⟩ = true ∧
      (∃ y ∈ [(⟨{ rq (.atomic cas) with id := 10 }, .waiting⟩ : Weigh)], reqGranule y.req = reqGranule (rq (.atomic cas))) ∧ ∃ y ∈ queued.srv.locks, y.1 = reqGranule (rq (.atomic cas))) := by decide +kernel

/-- The one request of a state meets a condition. -/
def onlyReq (s : State) (p : Req → Bool) : Bool := match s.core.reqs with | [q] => p q | _ => false

/-- Requests of each kind in progress: a read, one of several parts, one being copied; a write whose extents cover its bytes and one whose do not; an atomic; an XATR. -/
theorem witness_ServerResponseResults :
    (onlyReq (after mapped (.xld hC 3 6 0 false 7 64)) fun q => q.dropped == false && q.kind == 0 && q.parts == 1 && q.fail.isNone) = true ∧
    (onlyReq (after mapped (.xld hC 3 6 0 false 7 256)) fun q => q.dropped == false && q.kind == 0 && q.parts == 1) = true ∧
    (onlyReq (after (mapped.modC fun c => { c with s := c.s.set 6 0x1000000000FC0 }) (.xld hC 3 6 0 false 7 256)) fun q => q.kind == 0 && decide (1 < q.parts)) = true ∧
    (onlyReq (after (after mapped (.xld hC 3 6 0 false 7 2)) (.xldResponse 0 0 [1, 2] none)) fun q => q.kind == 0 && q.copying) = true ∧
    (let s := after mapped (.xst hC 6 3 0 false 0 64); onlyReq s (fun q => q.kind == 1 && !q.buffered && !s.readsBefore q && q.spans.length == 1 && !({ s with curRes := q.res }).badAt (ptrOff q.local_) q.len) = true) ∧
    (let s := after s0 (.xst hC 6 3 0 false 0 64); onlyReq s (fun q => q.kind == 1 && !q.buffered && !s.readsBefore q && q.spans.length == 0) = true) ∧
    (let s := after (after mapped (.xld hC 4 6 0 false 7 64)) (.xst hC 6 3 0 false 0 64); (s.core.reqs.map fun q => (q.kind, q.buffered, q.unentered, s.readsBefore q)) = [(0, false, false, false), (1, false, true, true)]) ∧
    (onlyReq (after mapped (.xat hC 6 1 2 false false 1 0)) fun q => q.kind == 2 && q.parts == 1) = true ∧
    (let s := after mapped (.xatr hC 6 1 2 false false 0 0); onlyReq s (fun q => q.kind == 3 && (match ((s.res.get q.res).ctx.get q.ctx).awaits with | [w] => w.id == q.id && w.dest2.isNone && w.mode == s.c.mode | _ => false)) = true) := by decide +kernel

/-- Copies on their way to the Porter: to the scratchpad, to an accumulator bank, to the servers, and dealt. -/
def copyHere : State := after mapped (.cpy hC 3 6 7 false false 0 false 0)
def copyBank : State := after ((tiles mapped 2 2 64).modC fun c => { c with s := c.s.set 3 0x200000 }) (.cpy hC 3 6 7 false true 0 false 0)
def copyOut : State := after mapped (.cpy hC 6 6 7 false false 0 false 0)
def copyDeal : State := after (mapped.modC fun c => { c with s := c.s.set 7 128 }) (.cpyd hC 3 6 7 false 0 15 true 0 0 false 7)

/-- A Porter's places taken. -/
def porterBusy : State := { s0 with srv := { s0.srv with porters := List.replicate 32 ⟨1538, 7, false⟩ } }

theorem witness_PorterResults_copies :
    (porterBusy.porterFull 1538 = true ∧ porterBusy.srv.porterWait = [] ∧ porterBusy.porterFull 1539 = false) ∧
    (∀ s ∈ [copyHere, copyBank, copyOut, copyDeal], onlyReq s fun q => decide (s.core.reqs = [] ++ q :: [] ∧ 4 ≤ q.kind.toNat ∧ q.copying = false ∧ s.srv.porters = [] ∧ s.srv.porterWait = [] ∧
      s.porterFull q.porter = false ∧ s.readsOut q.porter = 0 ∧ q.reads ≠ [] ∧ s.reqOf 0 = some q) &&
      q.reads.all fun y => (s.place q.extents (ptrAdd q.ptr ((y.2.src : Int) - ptrOff q.ptr)) 0 q.pkg y.2.len q.order).isOk) ∧
    (∀ s ∈ [copyHere, copyBank, copyOut, copyDeal], onlyReq s fun q => q.reads.zipIdx.all fun p =>
      (let g : ServerReq := ⟨q.id, p.2, true, q.pkg, 0x100040, .read p.1.2.len, .own⟩; (s.turnedAway g).isNone && s.srv.locks.isEmpty && !s.srv.badIn (serverKey q.pkg 0x100040) p.1.2.len) &&
        (q.reads[p.2]?).isSome && q.answers.isEmpty && q.reads.zipIdx.all fun z => z.1.1 != p.1.1 || z.2 == p.2) ∧
    (onlyReq copyHere fun q => q.kind == 4 && ptrWin q.dst == 0 && !q.add) ∧ (onlyReq copyBank fun q => q.kind == 4 && ptrWin q.dst == 0 && q.add && q.toOff 0 % 4 == 0) ∧
    (onlyReq copyOut fun q => q.kind == 4 && ptrWin q.dst != 0 && (copyOut.place q.extents (ptrAdd q.dst 0) 1 q.dpkg 64 q.order).isOk) ∧
    (onlyReq copyDeal fun q => q.kind == 5 && (q.reads.map fun y => (q.binding.find? fun b => b.1 == (q.dealTo y.2.x).1).map (·.2)) == [some 0, some 1] && (copyDeal.resAt q.order 0).isSome) ∧
    copyDeal.pkg.self = 0 := by decide +kernel

/-- Landings in the scratchpad, of a dealt copy with a mailbox at the end of the user region, and in an accumulator bank. -/
def toHere : Landing := ⟨9, true, 0, 1, 0x1000, [1, 2, 3, 4], false, none, false⟩
def toBox : Landing := { toHere with addr := 245756, data := [1, 2, 3, 4, 5, 6], mbox := some 15, deal := true }
def toBank : Landing := { toHere with addr := 0x200000, add := true }

/-- A Porter with one landing to inject, and with 16 KiB in flight already. -/
def landTo (core n : Nat) : State := { s0 with srv := { s0.srv with toLand := [(toHere, core)], flying := [⟨8, core, 1, n⟩] } }

theorem witness_PorterResults_landings :
    (∀ core ∈ [0, 7], (landTo core 16380).srv.toLand = [(toHere, core)] ∧ (landTo core 16380).flyingTo core 1 + toHere.data.length ≤ 16384 ∧
      16384 < (landTo core 16381).flyingTo core 1 + toHere.data.length) ∧ s0.pkg.self = 0 ∧
    (∀ d ∈ [toHere, toBox], s0.landSuppressed d = false) ∧ s0.core.landedNow = false ∧ ({ s0 with core := { s0.core with landedNow := true } }.core.landedNow = true) ∧
    s0.landSuppressed { toHere with order := 2 } = true ∧ toHere.deal = false ∧ landBank toHere = none ∧ toBox.deal = true ∧
    (landBank toBank).isSome = true ∧ owned.core.issuing = some toBank.res ∧ owned.accOwner = some toBank.res ∧ owned.core.accClear = none ∧ owned.core.engineBanks = [] ∧ owned.core.seqBanks = [] ∧
    owned.env.agenda.any engineEvent = false ∧ owned.landSuppressed toBank = false ∧ owned.core.landedNow = false ∧ toBank.add = true ∧ toBank.data.length = 4 ∧
    (∀ s ∈ [copyHere, copyOut, copyDeal], onlyReq s (fun q => (s.reqOf 0).isSome && decide (4 ≤ q.kind.toNat) && q.fail.isNone) = true) := by decide +kernel

/-! ### Witnesses: sends, receives, the Postmaster -/

/-- s1 = 1, a rank, a group and an expert; s2 = 5, a rank outside the work order; s4 a buffer, s8, s9 and s10 control words of group 1 with 64, 16 and no bytes, s11 the source rank 1 with every tag bit compared. -/
def regsM : List Nat := [0, 1, 5, 0x1000, 0x2000, 0, 0, 64, 0x100000040, 0x100000010, 0x100000000, 0xFFFFFFFF00000001]

/-- Replicas of expert 1 at ranks 1 and 12, of which rank 1 has unacknowledged bytes. -/
def sM : State := let s := run regsM
  { s with die := { s.die with experts := [(1, [[0], [1, 12]])], unacked := [(1, 1, 64)] } }

/-- An open packet of context 0 for rank 1. -/
def packed : State := let s := after sM (.sendp hC 1 4 9 false false 7); { s with core := { s.core with cycle := 100 } }

theorem witness_SendInstructionResults :
    sM.core.bad = [] ∧ (∀ i ∈ ([.send hC 1 4 8 false 5, .send hC 2 4 8 false 5, .sendx hC 1 4 8 false 5, .mcast hC 1 4 7 false 15 5, .sendp hC 1 4 9 false false 7, .sendp hC 1 4 9 false true 7] : List Instr), rdy sM i = true) ∧
    sM.outsideOrder 0 1 = false ∧ sM.outsideOrder 0 5 = true ∧ sM.r.errq.length < 32 ∧ sM.r.others 1 = [1] ∧ sM.deadOthers 1 = [] ∧ sM.liveReplicas 1 = [1, 12] ∧ sM.counter 12 < sM.counter 1 ∧
    packed.myPacket.isSome = true ∧ (∀ p ∈ packed.myPacket, p.scales = []) ∧ rdy packed (.sendp hC 1 4 9 false false 7) = true ∧ rdy packed (.sendp hC 1 4 9 false true 7) = true ∧
    n4Blg (packed.seen.c.reg false 4) = 0 := by decide +kernel

/-- A message of 16 bytes from rank 1 in group 1. -/
def msg (tag : BitVec 32) : Message := ⟨1, 0, tag, 1, 16, 0, false, false, false, false, false, 0, 0, 0, 1, 77, 0, List.replicate 16 3, 0, 0⟩

/-- Two messages held, and a posted receive; a multicast copy at s4. -/
def holding : State := sM.modR fun r => { r with held := [⟨0, msg 5, [0, 1]⟩, ⟨1, msg 6, []⟩], arrivals := 2 }
def posting : State := after sM (.recv hC 11 4 8 false 6)
def copied : State := sM.modR fun r => { r with copies := [⟨1, 1, 3, 0x2000⟩] }

/-- Nothing held matches tag 7; the first held message matches tag 5, the second tag 6. -/
theorem witness_ReceiveInstructionResults :
    (([5, 6, 7] : List (BitVec 32)).all fun t => rdy holding (.recv hC 11 4 8 false t) && rdy holding (.probe hC 11 4 10 false t)) = true ∧
    Memory.wf holding.core.mem = true ∧ (sM.r.held = []) ∧ rdy sM (.recv hC 11 4 8 false 6) = true ∧ rdy sM (.probe hC 11 4 10 false 6) = true := by decide +kernel

theorem witness_CancelAndFree : rdy posting (.cancel hC 4 3) = true ∧ (posting.r.postedAt (posting.seen.c.reg false 4)).isSome = true ∧ (sM.r.postedAt 0x2000).isNone = true ∧
    rdy sM (.cancel hC 4 3) = true ∧ 16 ≤ 0x2000 ∧ rdy copied (.free hC 1 4) = true := by decide +kernel

/-- The target of matrix commands: both groups owned, BF16 tiles. -/
def target : State := let s := tiles sM fmtBf16 2 8; { s with res := s.res.set 0 { s.r with capkey := 9 } }

/-- A capability for crew 0, core 0 with the MMA right and a code. -/
def capOf (t : BitVec 29) : Word := (0x800 : BitVec 35) ++ t
def command (cap : Word) : MatrixCommand := ⟨0, cap, 0, 1, 2, false, 0, some 3, 1, 1, 0, 4, 0, 0⟩

theorem witness_RemoteMatrixCommand_operands : rdy sM (.mmar hC 3 1 2 false 7 1 2 false 4) = true ∧ sM.outsideOrder 0 (sM.rankHere 1) = false ∧ sM.outsideOrder 0 (sM.rankHere 5) = true ∧
    rdy sM (.mmar hC 3 2 0 false 0 1 2 false 0) = true ∧ target.resOf (command 0).order = some 0 ∧ (target.res.get 0).inputShut (command 0).src = false ∧ target.core.issuing = some 0 ∧ target.core.switch = none ∧
    target.core.tasks.length < 64 ∧ target.commandCheck (command 0) = none ∧ (sM.commandCheck (command 0)).isSome = true ∧ (target.res.get 0).admits (command 0) = false ∧
    target.core.inbox = [] ∧ (target.env.agenda.any fun j => (envelopeOf j).isSome) = false ∧ (target.core.tasks.filter fun t => t.res == 0).length < 64 ∧
    State.reset.resOf (command 0).order = none ∧ State.reset.core.inbox = [] ∧
    target.resByRank (command 0).order (command 0).src = none ∧ target.targetOf (command 0).order (command 0).src ≠ .core target.pkg.self := by decide +kernel

theorem capOf_toNat (t : BitVec 29) : (capOf t).toNat = 0x800 * 2 ^ 29 + t.toNat := by
  unfold capOf
  rw [BitVec.toNat_append, Nat.shiftLeft_eq]
  have := Nat.two_pow_add_eq_or_of_lt t.isLt 0x800
  simpa [Nat.mul_comm] using this.symm

theorem capOf_fields (t : BitVec 29) : field (capOf t) 48 16 = 0 ∧ field (capOf t) 29 11 = 0 ∧ (capOf t).getLsbD 40 = true ∧ (capOf t).truncate 29 = t := by
  have ht := t.isLt
  refine ⟨?_, ?_, ?_, ?_⟩
  · simp only [field, capOf_toNat, Nat.shiftRight_eq_div_pow]; omega
  · simp only [field, capOf_toNat, Nat.shiftRight_eq_div_pow]; omega
  · rw [capOf, BitVec.getLsbD_append, if_neg (by decide)]; decide
  · apply BitVec.eq_of_toNat_eq
    simp only [BitVec.truncate, BitVec.toNat_setWidth, capOf_toNat]; omega

theorem capOf_clear (t : BitVec 29) : capClear (capOf t) = 0x10000000000 := by
  unfold capClear capOf
  apply BitVec.eq_of_getLsbD_eq
  intro i hi
  rw [BitVec.getLsbD_and, BitVec.getLsbD_append]
  by_cases h : i < 29
  · have : ∀ j, j < 29 → (0xFFFFFFFFE0000000#64).getLsbD j = false ∧ (0x10000000000#64).getLsbD j = false := by decide
    simp [(this i h).1, (this i h).2]
  · have : ∀ j, j < 64 → ¬ j < 29 → ((0x800#35).getLsbD (j - 29) && (0xFFFFFFFFE0000000#64).getLsbD j) = (0x10000000000#64).getLsbD j := by decide
    simp only [h, if_false]
    exact this i hi h

/-- A target of crew 0 on core 0 admits the capability whose code its key gives, whatever that code is. -/
theorem witness_RemoteMatrixCommand_admits (r : Res) (hc : r.crew = 0) (hr : Rank.core r.rank = 0) :
    r.admits (command (capOf (capabilityCheck r.capkey 0x10000000000))) = true := by
  obtain ⟨h1, h2, h3, h4⟩ := capOf_fields (capabilityCheck r.capkey 0x10000000000)
  simp only [Res.admits, command, capOf_clear]
  rw [h1, h2, h3, h4, hc, hr]
  simp

/-- The residency's unexpected messages, posted receives and matched ones replaced. -/
def mail (s : State) (f : Res → Res) : State := s.modR f

/-- What an arrival asks: the receive buffer is empty, nothing has been taken in this cycle, and no other envelope is on its way. -/
def emptyBox (s : State) : Bool := decide (s.core.inbox = [] ∧ s.core.accepted = false) && !(s.env.agenda.any fun j => (envelopeOf j).isSome)

/-- The envelope is next in its stream, and residency 0 takes it. -/
def dueHere (s : State) (m : Message) : Bool :=
  emptyBox s && decide (m.bad = false ∧ m.cls.toNat ≤ 2 ∧ s.takerOf m = some 0 ∧ (s.res.get 0).inputShut m.src = false ∧ (s.streamIn m).refused = none ∧ (s.streamIn m).seq = m.seq)

/-- The stream of rank 1 towards rank 0 in group 1, at SEQ 5, or refused at 0. -/
def streamed (refused : Option (BitVec 16)) : State := { posting with core := { posting.core with streamsIn := [⟨1, 0, 1, if refused.isSome then 0 else 5, refused, none⟩] } }

/-- Messages that a residency without room for them keeps. -/
def roomless (n : Nat) : State := sM.modR fun r => { r with phsz := 0, held := List.replicate n ⟨0, msg 4, []⟩ }

/-- An envelope with a bad field, and one of no group; one whose input is shut; a duplicate, an early one, one of a refused stream, and its retry. -/
theorem witness_PostmasterResults_streams :
    (∀ m ∈ [{ msg 6 with bad := true, group := 9 }, { msg 6 with group := 9 }], emptyBox sM = true ∧ sM.ownMessage m = false ∧ sM.takerOf m = none ∧ (sM.streamIn m).refused = none ∧
      (sM.streamIn m).seq = m.seq ∧ m.cls.toNat ≤ 1 ∧ sM.targetOf m.order m.src ≠ .core sM.pkg.self) ∧
    (let s := posting.modR fun r => { r with inputs := [⟨1, true, false⟩] }; emptyBox s = true ∧ s.takerOf (msg 6) = some 0 ∧ (s.res.get 0).inputShut (msg 6).src = true) ∧
    (let s := streamed none; emptyBox s = true ∧ s.takerOf (msg 6) = some 0 ∧ (s.streamIn (msg 6)).refused = none ∧ seqBefore 4 (s.streamIn (msg 6)).seq = true ∧
      seqBefore 6 (s.streamIn (msg 6)).seq = false ∧ (6 : BitVec 16) ≠ (s.streamIn (msg 6)).seq) ∧
    (let s := streamed (some 0); emptyBox s = true ∧ (s.streamIn (msg 6)).refused = some 0 ∧ (msg 6).seq = 0 ∧ (msg 6).retry = false ∧ (msg 6).fin = false) := by decide +kernel

/-- An envelope that the posted receive accepts; and, none accepting it, one for the pigeonholes, one with no room there, and a rendezvous one that finds the pool full. -/
theorem witness_PostmasterResults_envelopes :
    (dueHere posting (msg 6) = true ∧ (∃ v ∈ (posting.res.get 0).posted, (posting.res.get 0).posted = [] ++ v :: [] ∧ v.accepts (msg 6) = true)) ∧
    (dueHere posting (msg 5) = true ∧ (∀ y ∈ (posting.res.get 0).posted, y.accepts (msg 5) = false) ∧ (msg 5).rdv = false ∧ unitsOf (msg 5).len ≤ (posting.res.get 0).unitsFree.length) ∧
    (let s := roomless 0; dueHere s (msg 5) = true ∧ (s.res.get 0).unitsFree.length < unitsOf (msg 5).len ∧ ((s.res.get 0).held.filter fun h => h.units.isEmpty).length < 1024) ∧
    (let s := roomless 1024; dueHere s { msg 5 with rdv := true } = true ∧ 1024 ≤ ((s.res.get 0).held.filter fun h => h.units.isEmpty).length) := by decide +kernel

/-- A reduction message of the sixteen pairs of an eight by eight rectangle. -/
def partials (tag : BitVec 32) : Message := { msg tag with cls := 2, data := List.replicate 128 0 }

/-- A reduction message held for want of a reduction, one applied, and one that waits for the accumulators. -/
theorem witness_PostmasterResults_reductions :
    (dueHere reducing (partials 8) = true ∧ (reducing.res.get 0).takesReduction (partials 8) = false) ∧
    (dueHere reducing (partials 7) = true ∧ (reducing.res.get 0).takesReduction (partials 7) = true ∧ (∀ j, ∀ l ∈ (reducing.res.get j).matched, l.msg.cls ≠ 2) ∧ reducing.env.agenda.any writesBank = false ∧
      reducing.accReady 0 = true ∧ (partials 7).rdv = false ∧ ∀ d ∈ (reducing.res.get 0).reductionOf 7, (partials 7).data.length / 8 = (accxElems d.rect).length ∧ share d.rect.banks reducing.banksTaken = false) ∧
    (let s := { reducing with core := { reducing.core with accClear := some 9 } }; dueHere s (partials 7) = true ∧ (s.res.get 0).takesReduction (partials 7) = true ∧ s.accReady 0 = false) := by decide +kernel

/-- A matched receive whose data have begun to land, plain and N4, and one still in the pigeonholes. -/
def landing (blg : BitVec 3) (units : List Nat) : State :=
  mail sM fun r => { r with matched := [⟨⟨0x80000000, 6, 1, 0x2000, 64, none⟩, { msg 6 with blg := blg, scaleSeq := 0 }, units, none, 3, true, some 0, false⟩] }

theorem witness_PostmasterResults_landings :
    (∀ s ∈ [landing 0 [], landing 5 []], (match (s.res.get 0).matched with
      | [l] => decide (((s.res.get 0).matched.find? fun l => l.no == 3 && l.started && l.units.isEmpty && decide (l.take = l.take)) = some l ∧ l.msg.cls ≠ 2 ∧ l.dropped = false ∧ (s.res.get 0).phase.alive = true) | _ => false) = true) ∧
    ((landing 0 [0, 1]).res.get 0).copiedOut 0 ≠ none ∧ (1 : BitVec 16) ≠ 0 := by decide +kernel

/-- A send as SEND enters it, put into a given state. -/
def sending (f : Send → Send) : State := let s := after sM (.send hC 1 4 8 false 5); { s with core := { s.core with sends := s.core.sends.map f } }

/-- The one send of a state meets a condition. -/
def onlySend (s : State) (p : Send → Bool) : Bool := match s.core.sends with | [q] => p q | _ => false

/-- A send in each of its states, with retries left and with none, acknowledged and not. -/
theorem witness_SendProgressResults :
    onlySend (sending fun q => { q with state := .eagerOut }) (fun q => q.state == .eagerOut && decide (q.tries < 16)) = true ∧
    (∀ n ∈ [0, 15, 16], onlySend (sending fun q => { q with state := .rdvOut, tries := n }) (fun q => q.state == .rdvOut && decide (q.tries ≤ 16) && decide ((streamOf sM.core.streamsOut 0 1 1).refused = none)) = true) ∧
    (let s := { sending fun q => { q with state := .rdvOut } with core := { (sending fun q => { q with state := .rdvOut }).core with streamsOut := [⟨0, 1, 1, 3, some 2, none⟩] } };
      onlySend s (fun q => q.state == .rdvOut && decide ((s.streamOut q.msg).refused = some 2) && decide ((2 : BitVec 16) ≠ q.msg.seq)) = true) ∧
    onlySend (sending fun q => { q with state := .backoff, retryAt := some 0 }) (fun q => q.state == .backoff && q.retryAt == some 0) = true ∧
    (let s := sending fun q => { q with state := .waitCts }; onlySend s (fun q => q.state == .waitCts && (s.landingOf q).isNone && decide (0 < 64) && s.targetOf q.msg.order q.msg.dst != .core s.pkg.self) = true) ∧
    (∀ b ∈ [true, false], onlySend (sending fun q => { q with state := .dataOut, acked := b }) (fun q => q.state == .dataOut && !q.local_ && (q.acked == b)) = true) ∧
    (∀ b ∈ [true, false], onlySend (sending fun q => { q with state := .dataOut, local_ := b }) (fun q => q.local_ == b) = true) ∧
    (let s := sending id; s.core.bad = [] ∧ (s.reqOf 0).isNone = true ∧ endsSend Cause.noGroup = true ∧ endsSend Cause.capabilityRefused = false ∧ Cause.capabilityRefused ≠ Cause.illegalOperand ∧ (s.res.get 0).phase.alive = true ∧ (s.res.get 0).errq.length < 32) ∧
    ((0, 0) ∈ (sending fun q => { q with due := some 0 }).expired) := by decide +kernel

/-- Two sends of one bundle with one buffer and one destination, of which a report has come for the first or for the second, or for neither of two unlike ones. -/
def twins (a b : Bool) (buf : Word) : State :=
  let s := sending id
  { s with core := { s.core with sends := s.core.sends.flatMap fun q => [{ q with reported := a }, { q with id := q.id + 1, reported := b, buf := buf }] } }

/-- The report ends the first send of the statement's pair, or the second. -/
theorem witness_SendProgressResults_reports :
    (∀ x ∈ [(true, false), (false, true)], (match (twins x.1 x.2 0x2000).core.sends with
      | [p, q] => decide (p.id ≠ q.id ∧ p.res = q.res ∧ p.ctx = q.ctx ∧ p.pair = q.pair ∧ p.buf = q.buf ∧ p.msg.dst = q.msg.dst ∧ p.reported = x.1 ∧ q.reported = x.2) | _ => false) = true) ∧
    (match (twins false false 0x1000).core.sends with | [p, q] => decide (p.reported = false ∧ q.reported = false ∧ p.buf ≠ q.buf) | _ => false) = true ∧
    (sM.res.get 0).phase.alive = true ∧ endsSend Cause.noGroup = true ∧ endsSend Cause.capabilityRefused = false ∧ sM.core.sends = [] := by decide +kernel

/-- An open multicast of two receivers, their tokens, and a router's record of them. -/
def casting : State := sM.modR fun r => { r with mcasts := [⟨1, 0, 15, 0, [1, 12]⟩], groups := [⟨1, [0, 1, 12], [], 8192⟩] }
def token (num : BitVec 16) (who : List Rank) : FreeToken := ⟨0, 1, 1, num, who.length, who⟩
def record (holds : Bool) : Combine := ⟨4, token 0 (if holds then [12] else []), [2], holds⟩

/-- Tokens from one receiver and from both; tokens of no open multicast; one at a router alone, with one child and with two, one that meets another child's, of a record that holds and of one that has sent its sum. -/
theorem witness_SendProgressResults_tokens :
    (casting.tokenTaker (token 0 [1]) = some 0 ∧ casting.tokenTaker (token 0 [12, 1]) = some 0 ∧ (casting.res.get 0).mcasts = [⟨1, 0, 15, 0, [1, 12]⟩] ∧
      ([1, 12] : List Rank).filter (fun d => !([1] : List Rank).contains d) ≠ [] ∧ ([1, 12] : List Rank).filter (fun d => !([12, 1] : List Rank).contains d) = []) ∧
    (State.reset.tokenTaker (token 0 [1]) = none ∧ State.reset.targetOf 1 1 ≠ .core State.reset.pkg.self) ∧ sM.die.combining = [] ∧
    (∀ h ∈ [true, false], { sM with die := { sM.die with combining := [record h] } }.die.combining = [⟨4, (record h).sum, [2], h⟩]) ∧
    (token 0 [12]).sender = (token 0 [1]).sender ∧ (token 0 [12]).order = (token 0 [1]).order ∧ (token 0 [12]).group = (token 0 [1]).group ∧ (token 0 [12]).num = (token 0 [1]).num := by decide +kernel

/-! ### Witnesses: mailboxes, handles, exchange, rounds -/

/-- Mailbox 1 holds 5 bytes; handle 1 has one of four slots filled. -/
def boxed : State := ringed (s0.modR fun r => { r with mboxes := r.mboxes.set 1 ⟨5, 0, false, 0, false⟩ })

theorem witness_MailboxAndHandleResults :
    (∀ i ∈ ([.expect hC 1 1, .expect hC 2 1, .expect hC 1 15, .mbadd hC 2 1, .hset hC 4 15 255 64, .hset hC 4 0 0 1, .hwaitProd hC 1 3, .hwaitProd hC 1 0, .hwaitCons hC 1 1, .hadvProd hC 1 3,
      .hadvCons hC 1 1, .hadvCons hC 2 0] : List Instr), rdy boxed i = true) ∧
    (boxed.seen.c.reg false 1).toNat = (boxed.r.mbox 1).count.toNat ∧ (boxed.r.mbox 1).count.toNat < (boxed.seen.c.reg false 2).toNat ∧ (boxed.r.mbox 1).posted = false ∧ 5 + 7 < 2 ^ 48 := by decide +kernel

/-- An open phase of 336 cycles whose slots name core 1. -/
def phased : State := (exchanging s0 true).modR fun r => { r with sendSlots := r.sendSlots.set 15 (some 1), recvSlots := r.recvSlots.set 0 (some 1), phaseLen := 336 }

/-- A flit of core 1, and of core 2, at the first cycle of a move. -/
def flitted (peer : Nat) : State :=
  let s := after phased (.xrcv hC 4 0 3 16)
  { s with core := { s.core with exch := { s.core.exch with flits := [(peer, 16, List.replicate 64 7)] } } }

theorem witness_ExchangeResults : rdy phased (.xsnd hC 4 15 255 64) = true ∧ rdy phased (.xrcv hC 4 0 3 16) = true ∧ phased.core.exch.mode = true ∧ s0.core.exch.mode = false ∧
    (∀ p ∈ [1, 2], (flitted p).core.exch.flits.filter (fun f => f.2.1 == 16) = [(p, 16, List.replicate 64 7)] ∧ ((coveringMove (flitted p).core.exch.moves 16).map (·.peer)) = some 1 ∧
      ((coveringMove (flitted p).core.exch.moves 19).map (·.peer)) = some 1 ∧ (coveringMove (flitted p).core.exch.moves 20).isNone = true) := by decide +kernel

/-- Inputs of ranks 1 and 12. -/
def inputs (a b : Bool) : State := s0.modR fun r => { r with channels := true, inputs := [⟨1, a, false⟩, ⟨12, b, false⟩], outputs := [1] }
def rounding (a b : Bool) : State := (inputs a b).modC fun c => { c with blocked := [(.round, false)] }

/-- ROUND with inputs missing, and with all delivered; a marker of another round, one that is not the last, the last one, and a closing one. -/
theorem witness_RoundResults :
    (rdy (inputs false true) (.round hC) = true ∧ ∃ i ∈ (inputs false true).r.inputs, i.marked = false ∧ i.closed = false) ∧
    (rdy (inputs true true) (.round hC) = true ∧ ∀ i ∈ (inputs true true).r.inputs, i.marked = true ∨ i.closed = true) ∧
    (let s := rounding false false; let r := s.res.get 0; r.phase.alive = true ∧ (∃ i ∈ r.inputs, i.peer = 1 ∧ i.closed = false) ∧ r.inputShut 1 = false ∧ s.core.inbox = [] ∧ (s.env.agenda.any fun j => (envelopeOf j).isSome) = false ∧ (∀ x ∈ s.core.streamsIn, x.src = 1 → x.dst = r.rank → x.owed = none) ∧
      (1 : BitVec 32) ≠ r.round ∧ (0 : BitVec 32) = r.round ∧ ∃ i ∈ r.inputs, i.peer ≠ 1 ∧ i.marked = false ∧ i.closed = false) ∧
    ((rounding true false).res.get 0).inputShut 1 = true ∧ (rounding true false).core.inbox = [] ∧ s0.targetOf 1 1 ≠ .core s0.pkg.self ∧
    (let r := (rounding false true).res.get 0; (∀ i ∈ r.inputs, i.peer = 1 ∨ i.marked = true ∨ i.closed = true) ∧ (r.ctx.get 0).blocked = [(.round, false)]) := by decide +kernel

/-! ### Witnesses: event fields -/

/-- A block at s4: leak 0.5, threshold 1.0, firing to mailbox 3, refraction n, 4 ticks per round; reset as given. -/
def blockOf (reset n : Nat) : State := owned.writeBytes 0x2000
  ([0, 0, 0, 0x3F, 0, 0, 0x80, 0x3F, BitVec.ofNat 8 (0x38 + reset), BitVec.ofNat 8 n, 0, 0, 0, 0, 0, 0, 4, 0, 0, 0, 0, 0, 0, 0] ++ List.replicate 40 0)
def fielded (reset n : Nat) : State := after (blockOf reset n) (.field hC 4 7 0)

theorem witness_FieldInstructionResults :
    (∀ x ∈ [(0, 0), (2, 255)], rdy (blockOf x.1 x.2) (.field hC 4 7 0) = true) ∧
    (∀ i ∈ ([.evsend hC 0 1 2 false 7 7 7, .evsend hC 1 1 2 false 7 0 0, .evrun hC 1 7, .evctlUnbind hC 7, .evctlTime hC 1 7, .evctlLate hC 1 7, .evctlQlen hC 1 7, .evctlFires hC 1 7] : List Instr),
      rdy (fielded 0 0) i = true) ∧
    (let s := fielded 0 0; s.outsideOrder 0 0 = false ∧ s.outsideOrder 0 1 = false ∧ s.outsideOrder 0 5 = true ∧ s.r.evOk ⟨7, 7, 7, 7, 7, 0⟩ = true ∧ s.r.evOk ⟨7, 7, 8, 7, 7, 0⟩ = false) := by decide +kernel

/-- An event of weight w at the first element of field 7, queued and due; and the field at its run limit and before it. -/
def weighing (reset n : Nat) (w : BitVec 32) : State :=
  let s := fielded reset n
  { s with core := { s.core with events := [⟨0, ⟨w, 0, 0, 0, 7, 0⟩⟩] } }

theorem witness_FieldEngineResults :
    (let s := fielded 0 0; s.resOf 1 = some 0 ∧ (s.res.get 0).inputShut 1 = false ∧ (s.res.get 0).evOk ⟨0, 9, 7, 7, 7, 1⟩ = true ∧ s.core.events.length < 4096 ∧ s.core.inbox = [] ∧
      (s.env.agenda.any fun j => (envelopeOf j).isSome) = false ∧ (s.res.get 0).evOk ⟨0, 9, 8, 7, 7, 1⟩ = false ∧ s.targetOf 1 1 ≠ .core s.pkg.self) ∧
    (let s := weighing 0 0 0x3F800000; s.core.engineUntil.toNat ≤ s.core.cycle.toNat ∧ s.accOwner = some 0 ∧ s.core.accClear = none ∧ s.engineDue = some (0, .deliver ⟨0, ⟨0x3F800000, 0, 0, 0, 7, 0⟩⟩) ∧
      s.engineUses 0 (.deliver ⟨0, ⟨0x3F800000, 0, 0, 0, 7, 0⟩⟩) ∉ s.core.landingBanks ++ s.core.seqBanks) ∧
    (let s := after (fielded 0 0) (.evrun hC 1 7); s.core.engineUntil.toNat ≤ s.core.cycle.toNat ∧ s.engineDue = some (0, .advance 7) ∧
      s.accOwner = some 0 ∧ s.core.accClear = none ∧ s.engineUses 0 (.advance 7) ∉ s.core.landingBanks ++ s.core.seqBanks) ∧
    (let s := weighing 2 255 0; Memory.wf s.core.mem = true ∧ ((s.res.get 0).evField 7).ref ≠ 0 ∧
      0 < memNat (memPut s.core.mem (((s.res.get 0).evField 7).keyRem 0 0) [5, 0, 0, 0]) (((s.res.get 0).evField 7).keyRem 0 0) 4) := by decide +kernel

/-- The deliveries the statement tells apart: below the threshold, and firing with each kind of reset, on values worked out from R359: 0.5 stays, 1.5 becomes 0, 0.5 and 1.5. -/
theorem test_deliver :
    ([(0, 0x3F000000, 0x3F000000, 0), (0, 0x3FC00000, 0, 1), (1, 0x3FC00000, 0x3F000000, 1), (2, 0x3FC00000, 0x3FC00000, 1)] : List (Nat × Nat × Nat × Nat)).all (fun x =>
      let s := weighing x.1 0 (BitVec.ofNat 32 x.2.1)
      let t := s.engineMake 0 (.deliver ⟨0, ⟨BitVec.ofNat 32 x.2.1, 0, 0, 0, 7, 0⟩⟩)
      let f := (t.res.get 0).evField 7
      memNat t.core.mem (f.keyV 0 0) 4 == x.2.2.1 && f.fires.toNat == x.2.2.2) = true := by decide +kernel

/-! ### Witnesses: scheduling -/

/-- A second residency, ready to be switched to. -/
def two : State := { (s0.modRes 1 fun _ => runRes regs) with core := { s0.core with readyRes := [1] } }

theorem witness_SchedulingResults :
    (s0.core.issuing = some 0 ∧ (let s := s0.modR fun r => { r with slice := 131072 }; sliceLen (s.res.get 0).level ≤ (s.res.get 0).slice ∧ (s.res.get 0).extended = false ∧ (s.res.get 0).channels = false)) ∧
    (let s := (inputs false false).modR fun r => { r with slice := 131072 }; sliceLen (s.res.get 0).level ≤ (s.res.get 0).slice ∧ (s.res.get 0).channels = true) ∧
    (let s := s0.modR fun r => { r with idle := 256, extended := true, slice := 8 * 131072 }; 256 ≤ (s.res.get 0).idle ∧ 8 * sliceLen (s.res.get 0).level ≤ (s.res.get 0).slice) ∧
    (two.core.switch = none ∧ two.core.issuing.any two.deferred = false ∧ two.nextRes = some 1 ∧ s0.nextRes = none ∧ (s0.res.get 0).phase = .live) ∧
    (let s := { two with core := { two.core with issuing := none, switch := some ⟨some 0, 1, 0⟩ } }; s.core.switch = some ⟨some 0, 1, 0⟩ ∧ (s.res.get 1).phase = .live) ∧
    ({ s0 with core := { s0.core with faultUnit := 4 } }.core.faultUnit ≠ 0) := by decide +kernel

/-! ### Witnesses: the host, the dispatcher -/

/-- The package with its I/O die changed. -/
def pkg (f : Package → Package) : State := { s0 with pkg := f s0.pkg }

/-- Queue 4095 of tenant 5, enabled, of 16 entries, two of them pending; and what has arrived. -/
def queue : Queue := { Queue.reset with tenant := 5, en := true, ien := true, head := 14, tail := 0, recs := [⟨14, true, .toFetch⟩, ⟨15, true, .toFetch⟩] }
def tenants (st : TdispState) : Vector Tenant 64 := s0.pkg.tenants.set 5 { Tenant.reset with state := st }
def host (a : Arrival) : State := pkg fun p => { p with ready := true, step := 15, inbox := [a], queues := [(4095, queue)], tenants := tenants .run }
def write (o : Nat) (v : Word) : HostWrite := ⟨o, 8, v, some 5⟩

/-- Tails that cover one more entry, that stay, and that fall back; on an enabled queue, a disabled one, and one whose tenant is not locked. -/
theorem witness_HostQueueResults_writes :
    (∀ v ∈ [(0 : Nat), 1, 13, 15], let s := host (.hostWrite (write (0x100000 + 64 * 4095 + 0x18) (BitVec.ofNat 64 v))); let b := s.queue 4095;
      s.pkg.inbox = [.hostWrite (write (0x100000 + 64 * 4095 + 0x18) (BitVec.ofNat 64 v))] ∧ s.pkg.recovery = false ∧ s.streamOk b.tenant (write (0x100000 + 64 * 4095 + 0x18) (BitVec.ofNat 64 v)) = true ∧
      b.en = true ∧ (s.tenant b.tenant).state ≠ .unlocked ∧
      (2 ≤ (v % 16 + 16 - 14) % 16 ↔ v ∈ [0, 1, 13])) ∧
    ((pkg fun p => { p with tenants := tenants .unlocked }).tenant 5).state = .unlocked ∧ ((pkg fun p => p).queue 4095).en = false ∧
    (∀ o ∈ [(0x28 : Nat), 0, 8], (host (.hostWrite (write (0x100000 + o) 0))).streamOk 5 (write (0x100000 + o) 0) = true) ∧
    (let s := host (.hostWrite (write 0x100000 0x500001)); s.pkg.ready = true ∧ (s.queue 0).en = false ∧ ((0x500001 : Word).extractLsb' 20 4).toNat = 5 ∧ ((0x300000 : Word).extractLsb' 20 4).toNat < 4 ∧
      12 < ((0xD00000 : Word).extractLsb' 20 4).toNat ∧ (0x500001 : Word).extractLsb' 26 6 = (s.queue 0).tenant ∧ (⟨0x100000, 8, 0x500001, some 0⟩ : HostWrite).size = 8 ∧
      s.streamOk 0 ⟨0x100000, 8, 0x500001, some 0⟩ = true) ∧
    (let w := write (0x200000 + 8 * 383) 9; (host (.hostWrite w)).streamOk (BitVec.ofNat 6 (383 / 64)) w = true) := by decide +kernel

/-- An image of one crew on logical core 0, and a work order of it whose crew stands at a stage with core 0 as its place. -/
def image : Image := ⟨[⟨[0], 256, 4, [], [], [], [], false, false, 0⟩], [⟨0, 0, 50, 0, [], [], []⟩], false, true⟩
def crew (st : CrewStage) : Crew := { Crew.fresh with stage := st, slots := [⟨0, 0, 1, 0, 256⟩] }
def order (st : CrewStage) : WorkOrder :=
  { id := 3, queue := 4095, index := 14, phase := true, tenant := 5, limit := 1, counter := none, tag := 0, waits := [], masks := List.replicate 16 0, evictPtr := 0, evictSize := 0, image := image, experts := none, groups := [], launched := some 0,
    crews := [crew st], cycles := 0, windows := [], served := [], tables := [], unplaced := none, reserving := false, closing := none }
def ordered (w : WorkOrder) : State := pkg fun p => { p with queues := [(4095, { queue with recs := [⟨14, true, .fetched 3⟩] })], orders := [w], tenants := tenants .run }

/-- The bytes of a record that breaks no condition. -/
def good : List Byte := [1, 0, 0, 0, 1] ++ List.replicate 251 0

theorem witness_HostQueueResults_records :
    (let s := host (.record 4095 14 none ⟨image, none, []⟩); s.pkg.inbox = [.record 4095 14 none ⟨image, none, []⟩] ∧ ((s.queue 4095).recs.find? fun r => r.stage == .toFetch) = some ⟨14, true, .toFetch⟩) ∧
    recordOk (List.replicate 256 0) image 5 = false ∧ recordOk good image 5 = true ∧ (host (.record 4095 14 (some good) ⟨image, none, []⟩)).pkg.inbox = [.record 4095 14 (some good) ⟨image, none, []⟩] ∧
    ((host (.hostSpdm .getVersion)).queue 4095).en = true ∧ ((pkg fun p => { p with queues := [(4095, { queue with en := false })] }).queue 4095).en = false := by decide +kernel

/-- Orders that end: complete, faulted, overdue, one whose completion waits for its release, one of which a die is quarantined; and one whose writes are not acknowledged. -/
theorem witness_HostQueueResults_orders :
    (let s := (ordered (order .done)).settleEnds; (s.pkg.orders.find? s.releasable).isNone = true ∧ (∀ e ∈ s.pkg.ends, s.openOrder e.order = none) ∧ (s.pkg.orders.find? WorkOrder.complete).isSome = true) ∧
    (let s := ({ ordered (order .running) with pkg := { (ordered (order .running)).pkg with ends := [⟨3, 0, 0, true, some Cause.machineCheck, []⟩] } } : State).settleEnds;
      (s.pkg.orders.find? s.releasable).isNone = true ∧ s.pkg.ends ≠ [] ∧ (s.openOrder 3).isSome = true) ∧
    (let s := { ordered (order .running) with core := { s0.core with cycle := 2250001 } }; (s.settleEnds.pkg.orders.find? s.settleEnds.overdue).isSome = true) ∧
    (let s := (ordered { order .done with closing := some (0, none) }).settleEnds; (s.pkg.orders.find? s.releasable).isSome = true) ∧
    (let s := ({ ordered (order .running) with pkg := { (ordered (order .running)).pkg with dies := s0.pkg.dies.set 0 { DieRec.reset with state := .quarantined } } } : State).settleEnds;
      (s.pkg.orders.find? s.releasable).isNone = true ∧ s.pkg.ends = [] ∧ (s.pkg.orders.find? WorkOrder.complete).isNone = true ∧ (s.pkg.orders.find? s.doomed).isSome = true) ∧
    (let s := after mapped (.xat hC 6 1 2 false false 1 0); s.core.reqs.any (fun q => q.order == 1 && q.writes) = true) := by decide +kernel

theorem test_recordOk : recordOk good image 5 = true ∧ recordOk ([2, 0, 0, 0, 1] ++ List.replicate 251 0) image 5 = false := by decide +kernel

/-- The package ready, with a work order; the core under view holds the member of its crew in residency 1. -/
def staged (w : WorkOrder) : State :=
  let s := ordered w
  { s with
    res := s.res.set 1 { Res.reset with phase := .placed, order := 3, members := [0], splimit := 256 }
    core := { s.core with cycle := 5000000 }
    pkg := { s.pkg with dies := s.pkg.dies.map (fun d => { d with state := .opened }), step := 15, ready := true, launching := [(3, 0)] } }
def fresh : WorkOrder := { order .waiting with launched := none, crews := [Crew.fresh] }

/-- A work order that finds no placement, and the machine with it alone. -/
def homeless : WorkOrder := { fresh with image := { image with crews := [⟨[2000], 256, 4, [], [], [⟨2000, 2000, none, 1⟩], [], true, false, 0⟩] }, unplaced := some 0 }
def unplaced : State := staged homeless

/-- A reserving head of level 0 beside a running crew of level 3 that may be pre-empted. -/
def pressing : State :=
  let s := staged { order .running with image := { image with crews := [⟨[0], 256, 4, [], [], [⟨0, 0, none, 1⟩], [], false, false, 0⟩] } }
  { s with pkg := { s.pkg with queues := (7, { queue with level := 0, recs := [⟨0, true, .fetched 4⟩] }) :: s.pkg.queues, orders := s.pkg.orders ++ [{ homeless with id := 4, queue := 7, reserving := true }] } }

/-- A reserved crew whose member's stores are in, or are not; the last launch at a cycle. -/
def launchable (acked : List Nat) (last : Option (BitVec 64)) : State :=
  let s := staged { order .reserved with launched := none, crews := [{ crew .reserved with acked := acked }] }
  { s with pkg := { s.pkg with lastLaunch := last } }

theorem witness_DispatcherResults :
    (let s1 := (staged fresh).settleEnds; (∀ h ∈ s1.allHeads, h.2.launched.isNone = true → h.2.foreignWait = false ∧ h.2.loadFails = false) ∧
      ((untilReserving s1.heads).findSome? s1.headPlacement).isSome = true) ∧
    (let s1 := unplaced.settleEnds; ∃ h ∈ s1.heads, s1.heads = h :: [] ∧ h.2.unplaced = some 0 ∧ 4500000 ≤ (unplaced.core.cycle - 0).toNat ∧ h.2.nextCrew.isSome = true ∧ (s1.headPlacement h).isNone = true) ∧
    (let s2 := pressing.settleEnds.markReserving; ((s2.heads.find? fun h => h.2.reserving && h.2.nextCrew.isSome && (s2.headPlacement h).isNone).map (·.1.1.level)) = some 0 ∧
      s2.preemptingAny = false ∧ (s2.victim 0).isSome = true) ∧
    (let c (s : State) := (s.pkg.launching.findSome? s.reservedCrew).map (·.2.2.loaded); c (launchable [] none) = some false ∧ c (launchable [0] none) = some true ∧ (launchable [0] none).untilLaunch = 0 ∧
      0 < (launchable [0] (some 4999990)).untilLaunch ∧ (launchable [0] (some 4999936)).untilLaunch = 0) ∧
    (let s := staged { order .running with crews := [crew .running] }; ((List.finRange 4).find? fun k => (s.res.get k).phase == .placed && s.started (s.res.get k)) = some 1 ∧ (s.res.get 1).issued = false) ∧
    (let s := (staged { order .running with crews := [crew (.preempting 1)] }).modRes 1 (fun r => { r with phase := .frozen });
      ((s.settleEnds.crewThat fun _ _ c => (match c.stage with | .preempting _ => true | _ => false) && c.slots.all (s.settleEnds.memberDrained c)).map (·.2.1)) = some 0) := by decide +kernel

/-- A grant on a stream, signed or not; for a confidential tenant where a key is given. -/
def grantee (st : CrewStage) (key : Option Nat) (ok : Bool) (stream : Option (BitVec 6)) : State :=
  let s := staged { order st with launched := none, crews := [crew st] }
  { s with pkg := { s.pkg with inbox := [.grant 3 0 0 (Vector.replicate 16 ⟨0, 0, 0⟩) 9 ok stream], tenants := s.pkg.tenants.set 5 { s.tenant 5 with key := key } } }

/-- A grant for a member that is reserved; one off the tenant's stream, one of a running crew, one without the Assayer's signature for a confidential tenant, one with it. -/
theorem witness_DispatcherResults_grants :
    (∀ s ∈ [grantee .reserved none false (some 5), grantee .reserved (some 4) true (some 5)], s.streamGood 5 (some 5) = true ∧ (s.order 3).map (fun w => (w.tenant, w.stages 0 0)) = some (5, true) ∧
      ((s.order 3).bind fun w => w.crews[0]?) = some (crew .reserved) ∧ (∃ p ∈ (crew .reserved).slots, p.logical = 0) ∧ s.memberHere 3 0 0 = some 1 ∧ (∀ d ∈ s.pkg.dies.toList, d.state ≠ .quarantined)) ∧
    (grantee .reserved none false none).streamGood 5 none = false ∧ (grantee .reserved none false (some 5)).streamGood 5 (some 4) = false ∧
    ((grantee .running none false (some 5)).order 3).map (fun w => w.stages 0 0) = some false ∧ ((grantee .reserved (some 4) false (some 5)).tenant 5).confidential = true := by decide +kernel

/-! ### Witnesses: attestation, links -/

/-- What the reference manifest accepts of a compute die of revision 1. -/
def listed : List RefEntry := [⟨0, 1, 1, 11⟩, ⟨0, 1, 2, 12⟩, ⟨0, 1, 3, 13⟩, ⟨0, 1, 4, 14⟩]

/-- Die d in a state, with a flow at a step, and an arrival, the manifest verified and the start table at step 6. -/
def die (d : Fin 19) (st : DieState) (step : Nat) (l : List Arrival) : State :=
  pkg fun p => { p with dies := p.dies.set d { DieRec.reset with state := st }, flows := if step = 0 then [] else [⟨.die d, step, 0, 7, false, 0, 0, 0⟩], inbox := l, step := 6, manifestOk := true, accepted := listed }

/-- An arrival at a flow of a given step of die d. -/
def gotIt (d : Fin 19) (n : Nat) (b : SpdmBody) : Bool :=
  let s := die d .attesting n [.spdm (.die d) b]
  decide (s.pkg.inbox = [.spdm (.die d) b]) && ((s.flowOf (.die d)).map (·.step) == some n)

/-- Responses that pass and responses that fail, at each step. -/
def goodBody : Nat → SpdmBody
  | 1 => .version [0x12, 0x13] | 2 => .capabilities true true true true true true true | 3 => .algorithms .ed25519 .ed25519 .sha512 .p384 .aes256gcm .sha512 .spdmSchedule | 4 => .digests true 7
  | 5 => .certificate 1024 true 7 true 1 | 6 => .challenge true | 7 => .measurements true 0 1 [11, 12, 13, 14] 0 5 | 8 => .keyExchange true true | _ => .finish true true
def badBodies : Nat → List SpdmBody
  | 1 => [.version []] | 2 => [.capabilities true true true true true true false] | 3 => [.algorithms .other .ed25519 .sha512 .p384 .aes256gcm .sha512 .spdmSchedule] | 4 => [.digests false 7]
  | 5 => [.certificate 1025 false 7 true 1, .certificate 9 true 8 true 1, .certificate 9 true 7 false 1] | 6 => [.challenge false]
  | 7 => [.measurements false 0 1 [11, 12, 13, 14] 0 5, .measurements true 0 1 [11, 12, 13, 15] 0 5, .measurements true 1 1 [11, 12, 13, 14] 0 5, .measurements true 0 1 [11, 12, 13, 14] 1 5, .measurements true 0 1 [11, 12, 13] 0 5]
  | 8 => [.keyExchange true false] | _ => [.finish false true, .finish true false]

theorem witness_AttestationResults_steps :
    (∀ n ∈ [1, 2, 3, 4, 5, 6, 7, 8, 9], (goodBody n :: .certificate 1024 false 7 true 1 :: badBodies n).all (gotIt 0 n) = true) ∧ gotIt 17 1 (.version [0x13]) = true ∧ dieKind 0 = 0 ∧
    (∀ i ∈ [0, 1, 2, 3], ∀ y ∈ ([11, 12, 13, 14] : List Nat)[i]?, (⟨0, 1, i + 1, y⟩ : RefEntry) ∈ (die 0 .attesting 7 []).pkg.accepted) := by decide +kernel

theorem witness_AttestationResults :
    (let s := die 17 .reset 0 [.dieExit 17]; s.pkg.inbox = [.dieExit 17] ∧ (s.dieRec 17).state = .reset) ∧
    (let s := die 0 .closed 0 []; s.attesting = true ∧ ((List.range 18).find? fun d => (s.dieRec d).state == .closed && s.hasPath d && (decide (d < 8) || s.wave1Over)) = some 0) ∧
    (let s := die 0 .attesting 4 []; ((s.pkg.flows.find? fun f => decide (f.due.toNat ≤ s.core.cycle.toNat)).map (·.party)) = some (.die 0) ∧ ((s.flowOf (.die 0)).map (·.digest)) = some 7) ∧
    (let s := die 3 .opened 0 [.loneReset 3]; s.pkg.inbox = [.loneReset 3] ∧ (s.dieRec 3).state ≠ .reset) ∧
    (die 3 .opened 0 [.actl 3 true false]).pkg.inbox = [.actl 3 true false] ∧
    (let s := die 0 .quarantined 0 [.actl 0 false true]; s.pkg.inbox = [.actl 0 false true] ∧ (s.dieRec 0).state = .quarantined ∧ s.attesting = true ∧ s.hasPath 0 = true) ∧
    (let s := pkg fun p => { p with dies := p.dies.set 10 { DieRec.reset with clearing := true } }; ((List.range 18).find? fun d => (s.dieRec d).clearing) = some 10) := by decide +kernel

/-- Link l with its parts as given, and an arrival. -/
def link (f : Link → Link) (l : List Arrival) : State := pkg fun p => { p with links := p.links.set 25 (f Link.reset), inbox := l, step := 15 }

/-- A direction of an open link: keys of generation 0, nothing sent. -/
def dir0 : LinkDir := { LinkDir.reset with txKeys := [(0, 1)], rxKeys := [(0, 1)] }
def roll0 (sw : Option (BitVec 64)) : LinkDir := { dir0 with roll := some ⟨2, 0, sw⟩ }
def late (s : State) : State := { s with core := { s.core with cycle := 100000000 } }

theorem witness_LinkResults :
    (let s := link (fun x => { x with start := some 0 }) []; (s.link 25).start.isSome = true ∧ (s.link 25).opened = false ∧ (s.link 25).acks = []) ∧
    (let s := link (fun x => { x with start := some 0, acks := [(linkEnds 25).1] }) []; (s.link 25).start.isSome = true ∧ (s.link 25).opened = false ∧ (s.link 25).acks = [(linkEnds 25).1]) ∧
    (let s := link (fun x => { x with start := some 0, acks := [1, 2] }) []; (s.link 25).acks.length = 2 ∧ (s.link 25).ready = []) ∧
    (let s := link (fun x => { x with start := some 0, acks := [1, 2], ready := [(linkEnds 25).1] }) []; (s.link 25).acks.length = 2 ∧ (s.link 25).ready = [(linkEnds 25).1]) ∧
    (let s := link (fun x => { x with opened := true, up := roll0 none }) [.key (.ack 25 true 1)]; (s.link 25).opened = true ∧ ((s.link 25).dir true).roll = some ⟨2, 0, none⟩ ∧
      1 = ((s.link 25).dir true).gen + 1 ∧ s.pkg.inbox = [.key (.ack 25 true 1)]) ∧
    (let s := link (fun x => { x with opened := true, up := roll0 (some 7) }) [.key (.switch 25 true 1 2)]; (s.link 25).opened = true ∧ ((s.link 25).dir true).roll = some ⟨2, 0, some 7⟩ ∧
      1 = ((s.link 25).dir true).gen + 1 ∧ s.pkg.inbox = [.key (.switch 25 true 1 2)]) := by decide +kernel

/-- The clocks of links: a rollover not acknowledged, a link whose keys are not acknowledged, a rollover not ended, the triggers of rollover, of closing and of an idle flit. -/
theorem witness_LinkResults_clocks :
    (let s := late (link (fun x => { x with opened := true, up := roll0 none }) []);
      (allDirs.find? fun y => (((s.link y.1).dir y.2).roll).any fun r => r.switched.isNone && s.late r.start) = some (25, true)) ∧
    (let s := late (link (fun x => { x with start := some 0 }) []);
      (∀ y ∈ allDirs, ((((s.link y.1).dir y.2).roll).any fun r => r.switched.isNone && s.late r.start) = false) ∧
      ((List.range 26).find? fun j => (s.link j).start.any s.late && decide ((s.link j).acks.length < 2)) = some 25) ∧
    (let s := late (link (fun x => { x with opened := true, down := roll0 (some 0) }) []);
      (allDirs.find? fun y => (((s.link y.1).dir y.2).roll).any fun r => r.switched.any s.late) = some (25, false)) ∧
    (let s := link (fun x => { x with opened := true, up := { dir0 with sent := 2 ^ 36 } }) [];
      (allDirs.find? fun y => (s.link y.1).opened && (((s.link y.1).dir y.2).roll).isNone && decide (min (2 ^ s.pkg.rollint) (2 ^ 40) ≤ ((s.link y.1).dir y.2).sent)) = some (25, true)) ∧
    (let s := link (fun x => { x with opened := true, up := { dir0 with sent := 2 ^ 44 } }) [];
      (allDirs.find? fun y => (s.link y.1).opened && decide (2 ^ 44 ≤ ((s.link y.1).dir y.2).sent)) = some (25, true)) ∧
    (let s := late (link (fun x => { x with opened := true }) []);
      (allDirs.find? fun y => (s.link y.1).opened && decide (256 ≤ (s.core.cycle - ((s.link y.1).dir y.2).last).toNat)).isSome = true) := by decide +kernel

/-- Flits in order, with a whole packet and with a part of one, out of order, of no key's generation and failing, the seventh and the eighth failure; a failed link that costs a die its place. -/
theorem witness_LinkResults_flits :
    (∀ ps ∈ [[(⟨[1, 2], true⟩ : Piece)], [⟨[1, 2], false⟩]], let s := link (fun x => { x with opened := true, up := dir0 }) [.flit 25 true 0 true ps]; (s.link 25).opened = true ∧
      dir0.genOf ((0 : BitVec 32).getLsbD 31) = some 0 ∧ seqNear dir0.want 0 = dir0.want ∧ s.pkg.inbox = [.flit 25 true 0 true ps]) ∧
    seqNear dir0.want 1 ≠ dir0.want ∧ dir0.genOf ((0x80000000 : BitVec 32).getLsbD 31) = none ∧ dir0.fails + 1 < 8 ∧ 8 ≤ ({ dir0 with fails := 7 } : LinkDir).fails + 1 ∧
    ((List.range 26).any fun l => decide (chargedDie l < 18)) = true ∧
    (let s := pkg fun p => { p with inbox := [.linkDown 25], dies := p.dies.map fun d => { d with state := .opened } }; s.pkg.inbox = [.linkDown 25] ∧ chargedDie 25 < 18 ∧
      (s.dieRec (chargedDie 25)).state = .opened) := by decide +kernel

/-! ### Witnesses: tenants, enclaves, ports, the package -/

/-- An enclave of packages 0 and 9, with participants 1 and 63, of each of which two quorum keys must sign. -/
def enclave : Enclave := ⟨6, 2, 0, [⟨1, [0], [21], [11, 13], []⟩, ⟨63, [9], [22], [12, 14], [(0, 5)]⟩], [], 1, []⟩
def signatures : List (Nat × Nat) := [(1, 0), (1, 1), (63, 0), (63, 1)]

theorem witness_TenantResults :
    (∀ st ∈ [TdispState.unlocked, .locked, .run, .error], ((pkg fun p => { p with tenants := tenants st }).tenant 5).state = st) ∧
    enclave.signed signatures none = true ∧ enclave.signed [(1, 0), (1, 0), (63, 0), (63, 1)] none = false ∧ (∀ p ∈ enclave.parts, p.index ≤ 63) ∧ s0.srv.pkg ∈ enclave.pkgs ∧ s0.pkg.enclaves.length < 4 ∧
    (∀ y ∈ s0.pkg.enclaves, y.num ≠ enclave.num) ∧ (∃ p ∈ ({ enclave with parts := enclave.parts ++ [⟨64, [3], [], [], []⟩] } : Enclave).parts, 63 < p.index) ∧
    (let s := pkg fun p => { p with enclaves := [enclave], inbox := [.revocation 6 63 1 [(1, 0), (1, 1)]] };
      (s.pkg.enclaves.find? fun y => y.num == 6) = some enclave ∧ enclave.signed [(1, 0), (1, 1)] (some 63) = true ∧ enclave.signed [(1, 0)] (some 63) = false ∧
      enclave.epoch < 1 ∧ (∃ p ∈ enclave.parts, p.index = 63) ∧ s.pkg.inbox = [.revocation 6 63 1 [(1, 0), (1, 1)]]) ∧
    (let s := pkg fun p => { p with inbox := [.portFail 71], contexts := [⟨9, 2, 40⟩] }; s.pkg.inbox = [.portFail 71] ∧ s.pkg.contexts[0]? = some ⟨9, 2, 40⟩ ∧ 40 ∈ s.pkg.livePorts (40 / 36) ∧ 71 < 72) := by decide +kernel

theorem witness_PackageResults :
    (let s := pkg fun p => { p with inbox := [.packageReset true false] }; s.pkg.inbox = [.packageReset true false] ∧ s.pkg.off = false) ∧
    (let s := pkg fun p => { p with inbox := [.commit true], recovery := true }; s.pkg.inbox = [.commit true] ∧ s.pkg.recovery = true) ∧
    (∀ n ∈ [1, 2, 3, 4, 5, 8, 9, 10, 11], let s := pkg fun p => { p with inbox := [.stepEnd [] true true [3] listed], step := BitVec.ofNat 4 n }; 1 ≤ s.pkg.step.toNat ∧ s.pkg.step.toNat ≤ 11 ∧ s.pkg.off = false ∧
      s.pkg.recovery = false ∧ s.pkg.inbox = [.stepEnd [] true true [3] listed]) ∧
    (let s := pkg fun p => { p with step := 6, dies := p.dies.map fun d => { d with state := .quarantined } }; s.attestOver = true) ∧ (pkg fun p => { p with step := 7, dies := p.dies.map fun d => { d with state := .quarantined } }).linksOver = true ∧
    (let s := pkg fun p => { p with inbox := [.limit 1 7 145] }; s.pkg.inbox = [.limit 1 7 145] ∧ s.pkg.hot[7]? = some false ∧ 0 = s.pkg.self / 144 ∧ s.pkg.hot[0]? = some false) ∧
    (∀ t ∈ [99, 106, 115, 116], (pkg fun p => { p with inbox := [.junction 0 t] }).pkg.inbox = [.junction 0 t]) := by decide +kernel

end Sys2Proof.Tests
end

section
/-!
PROOF. Every step keeps both memories in canonical form (O2): an instruction of a bundle by what its effects keep, an event by the lemma on its meaning.
-/

namespace Sys2Proof.Machine

open Sys2Proof

/-- The meaning of an instruction with a word is that of a bundle of it alone. -/
theorem exec_eq_runOne (i : Instr) (o : Op) (s : State) (hi : opOf i = some o) : exec i s = runOne o s := by
  cases i <;> cases hi <;> rfl

/-- A bundle of one instruction keeps what the instruction's effects keep. -/
theorem keeps_runOne (o : Op) (s : State) (ho : o.Keeps) (h : s.Inv) : Outcome.Keeps (runOne o s) :=
  keeps_next _ (inv_runPlaced _ _ h fun p hp => by rw [List.mem_singleton.mp hp]; exact ho)

/-- An event keeps both memories in canonical form. -/
theorem exec_keeps_of_event (i : Instr) (s : State) (hi : opOf i = none) (h : s.Inv) : Outcome.Keeps (exec i s) := by
  cases i with
  | exchFlit peer cycle data => exact inv_execExchFlit _ _ _ _ h
  | taskStepEnd id => exact inv_execTaskStepEnd _ _ h
  | xldResponse id part data fail => exact inv_execXldResponse _ _ _ _ _ h
  | xatrResponse id old fail => exact inv_execXatrResponse _ _ _ _ h
  | serverAck id part fail => exact inv_execServerAck _ _ _ _ h
  | serverRequest q => exact inv_execServerRequest _ _ h
  | weighhouseAtomic q => exact inv_execWeighhouseAtomic _ _ h
  | porterActiveMessage p => exact inv_execPorterActiveMessage _ _ h
  | porterLanding d => exact inv_execPorterLanding _ _ h
  | porterCompletionReport id fail => exact inv_execPorterCompletionReport _ _ _ h
  | peerDeadResponse id => exact inv_execPeerDeadResponse _ _ h
  | eagerArrival m => exact inv_execEagerArrival _ _ h
  | rendezvousArrival m => exact inv_execRendezvousArrival _ _ h
  | landingComplete r no data scaleSeq => exact inv_execLandingComplete _ _ _ _ _ h
  | acceptanceNotice id => exact inv_execAcceptanceNotice _ _ h
  | demotionNotice id => exact inv_execDemotionNotice _ _ h
  | refusalNotice id => exact inv_execRefusalNotice _ _ h
  | clearToSend id x => exact inv_execClearToSend _ _ _ h
  | sendAcknowledged id => exact inv_execSendAcknowledged _ _ h
  | destEnded id => exact inv_execDestEnded _ _ h
  | markerArrival r peer n closing => exact inv_execMarkerArrival _ _ _ _ _ h
  | eventArrival e d => exact inv_execEventArrival _ _ _ h
  | mmarCommandArrival c => exact inv_execMmarCommandArrival _ _ h
  | accxMessageArrival m => exact inv_execAccxMessageArrival _ _ h
  | freeTokenCombine router b t => exact inv_execFreeTokenCombine _ _ _ _ h
  | freeTokenArrival t => exact inv_execFreeTokenArrival _ _ h
  | senderErrorReport r cause ctx pair ptr peer info => exact inv_execSenderErrorReport _ _ _ _ _ _ _ _ h
  | waitLimitLapse => exact inv_execWaitLimitLapse _ h
  | bellRelease => exact inv_execBellRelease _ h
  | ringTransfer => exact inv_execRingTransfer _ h
  | groupClearDone => exact inv_execGroupClearDone _ h
  | foremanDispatch => exact inv_execForemanDispatch _ h
  | leaveGrant => exact inv_execLeaveGrant _ h
  | sfuServe => exact inv_execSfuServe _ h
  | sfuRequestDone => exact inv_execSfuRequestDone _ h
  | vectorBind => exact inv_execVectorBind _ h
  | sliceExpiry => exact inv_execSliceExpiry _ h
  | sliceIdle => exact inv_execSliceIdle _ h
  | roundSliceLimit => exact inv_execRoundSliceLimit _ h
  | residencySwitch => exact inv_execResidencySwitch _ h
  | residencySwitchDone => exact inv_execResidencySwitchDone _ h
  | slotCopyDone => exact inv_execSlotCopyDone _ h
  | serverLockRead => exact inv_execServerLockRead _ h
  | serverWriteUnlock => exact inv_execServerWriteUnlock _ h
  | scrub => exact inv_execScrub _ h
  | weighhouseLockData => exact inv_execWeighhouseLockData _ h
  | sourceTimeout => exact inv_execSourceTimeout _ h
  | coreMachineCheck => exact inv_execCoreMachineCheck _ h
  | pigeonholeCopyDone => exact inv_execPigeonholeCopyDone _ h
  | retryTimer => exact inv_execRetryTimer _ h
  | localCompletion => exact inv_execLocalCompletion _ h
  | eventDeliver => exact inv_execEventDeliver _ h
  | fieldAdvance => exact inv_execFieldAdvance _ h
  | dispatcherLaunch => exact inv_execDispatcherLaunch _ h
  | headReserving => exact inv_execHeadReserving _ h
  | crewDrained => exact inv_execCrewDrained _ h
  | crewStart => exact inv_execCrewStart _ h
  | startMessage => exact inv_execStartMessage _ h
  | workOrderComplete => exact inv_execWorkOrderComplete _ h
  | workOrderTimeout => exact inv_execWorkOrderTimeout _ h
  | recordFetch => exact inv_execRecordFetch _ h
  | qtailWrite => exact inv_execQtailWrite _ h
  | qctlWrite => exact inv_execQctlWrite _ h
  | qstatWrite => exact inv_execQstatWrite _ h
  | counterWrite => exact inv_execCounterWrite _ h
  | recoveryCommit => exact inv_execRecoveryCommit _ h
  | packageReset => exact inv_execPackageReset _ h
  | dieResetExit => exact inv_execDieResetExit _ h
  | attestationStart => exact inv_execAttestationStart _ h
  | version => exact inv_execVersion _ h
  | capabilities => exact inv_execCapabilities _ h
  | algorithms => exact inv_execAlgorithms _ h
  | digests => exact inv_execDigests _ h
  | certificate => exact inv_execCertificate _ h
  | challengeAuth => exact inv_execChallengeAuth _ h
  | measurements => exact inv_execMeasurements _ h
  | keyExchangeRsp => exact inv_execKeyExchangeRsp _ h
  | finishRsp => exact inv_execFinishRsp _ h
  | spdmTimeout => exact inv_execSpdmTimeout _ h
  | keyInstall => exact inv_execKeyInstall _ h
  | keyAck => exact inv_execKeyAck _ h
  | linkOpen => exact inv_execLinkOpen _ h
  | keySwitch => exact inv_execKeySwitch _ h
  | keyRetired => exact inv_execKeyRetired _ h
  | keyAckTimeout => exact inv_execKeyAckTimeout _ h
  | keyRetiredTimeout => exact inv_execKeyRetiredTimeout _ h
  | rolloverTrigger => exact inv_execRolloverTrigger _ h
  | generationLimit => exact inv_execGenerationLimit _ h
  | flitReceive => exact inv_execFlitReceive _ h
  | replayRequest => exact inv_execReplayRequest _ h
  | idleFlit => exact inv_execIdleFlit _ h
  | linkDown => exact inv_execLinkDown _ h
  | loneReset => exact inv_execLoneReset _ h
  | actlReset => exact inv_execActlReset _ h
  | actlReattest => exact inv_execActlReattest _ h
  | hostSpdmRequest => exact inv_execHostSpdmRequest _ h
  | lockInterfaceRequest => exact inv_execLockInterfaceRequest _ h
  | getDeviceInterfaceReport => exact inv_execGetDeviceInterfaceReport _ h
  | startInterfaceRequest => exact inv_execStartInterfaceRequest _ h
  | stopInterfaceRequest => exact inv_execStopInterfaceRequest _ h
  | tdispError => exact inv_execTdispError _ h
  | extentGrant => exact inv_execExtentGrant _ h
  | enclaveManifest => exact inv_execEnclaveManifest _ h
  | revocationStatement => exact inv_execRevocationStatement _ h
  | junctionOverheat => exact inv_execJunctionOverheat _ h
  | junctionCooled => exact inv_execJunctionCooled _ h
  | thermalShutdown => exact inv_execThermalShutdown _ h
  | xstSourceRead => exact inv_execXstSourceRead _ h
  | serverClearDone => exact inv_execServerClearDone _ h
  | startTableStepEnd => exact inv_execStartTableStepEnd _ h
  | portFailure => exact inv_execPortFailure _ h
  | limitWrite => exact inv_execLimitWrite _ h
  | releaseAcc k => exact keeps_runOne _ _ (keeps_opReleaseAcc k) h
  | releaseTile k => exact keeps_runOne _ _ (keeps_opReleaseTile k) h
  | dptimeoutWrite v => exact keeps_runOne _ _ (keeps_opDptimeoutWrite v) h
  | pendingResultWrite k value i1 v => exact keeps_runOne _ _ (keeps_opPendingResultWrite k value i1 v) h
  | _ => cases hi

/-- Every instruction and every event keeps both memories in canonical form. -/
theorem exec_keeps (i : Instr) (s : State) (h : s.Inv) : Outcome.Keeps (exec i s) := by
  cases hi : opOf i with
  | none => exact exec_keeps_of_event i s hi h
  | some o =>
    rw [exec_eq_runOne i o s hi]
    exact keeps_runOne o s (keeps_opOf i o hi) h

/-- Choosing what the next step does touches the schedule alone. -/
theorem inv_State_turn (s : State) (h : s.Inv) : s.turn.2.Inv := by
  unfold State.turn
  split <;> exact h

/-- One step keeps both memories in canonical form. -/
theorem step_keeps (s : State) (h : s.Inv) : Outcome.Keeps (step s) := by
  have ht := inv_State_turn s h
  unfold step
  split
  next t e =>
    rw [e] at ht
    exact keeps_next _ (inv_State_issueCycle t ht)
  next i t e =>
    rw [e] at ht
    split
    · exact keeps_next _ ht
    · exact exec_keeps i t ht

/-- Settles O2, from what each instruction, each event and the issue cycle keep. -/
theorem stepKeepsCanonicalMemory : Obligations.StepKeepsCanonicalMemory :=
  fun s t h e => step_keeps s h t e

end Sys2Proof.Machine
end

section
/-!
PROOF. A write to a memory region changes its own bytes and no others, and they read back (O22).
-/

namespace Sys2Proof.Machine

open Sys2Proof

/-- Noting liveness leaves the core as it is. -/
@[simp] theorem State.windowLive_core (s : State) (g : Region) (o n : Nat) : (s.windowLive g o n).core = s.core := by
  unfold State.windowLive
  repeat' split
  all_goals rfl

/-- WriteLocal where the region of its offset is known (R106). -/
theorem State.writeBytes_of_region {s : State} {o lo hi : Nat} {g : Region} (bs : List Byte) (hr : s.regionOf o = some (g, lo, hi)) :
    s.writeBytes o bs =
      if bs.isEmpty then s
      else if g = .control then s.writeCtrl (o - 0x800000) bs
      else if s.auxTags g then s.writeTags (o - 0x80E000) bs
      else (s.modCore fun c => c.put (s.keyOf g o) bs).windowLive g o bs.length := by
  rw [State.writeBytes, hr]

/-- What WriteLocal to a memory region leaves in the core's memory (R46, R106). -/
theorem State.writeBytes_mem {s : State} {o lo hi : Nat} {g : Region} (bs : List Byte) (hr : s.regionOf o = some (g, lo, hi)) (hc : g ≠ .control)
    (ht : s.auxTags g = false) : (s.writeBytes o bs).core.mem = memPut s.core.mem (s.keyOf g o) bs := by
  rw [State.writeBytes_of_region bs hr]
  cases bs with
  | nil => simp [memPut]
  | cons b t => simp [hc, ht, CoreSt.put]

/-- Settles O22: the write is a memPut at the key of its first byte, which reads back and leaves every other byte. -/
theorem localWriteChangesItsBytesAlone : Obligations.LocalWriteChangesItsBytesAlone := by
  intro s o bs g lo hi hs hr hc ht
  rw [State.writeBytes_mem bs hr hc ht]
  refine ⟨fun i hi => ?_, fun a ha => memGet_memPut_other bs _ _ a hs.1 ha⟩
  rw [memGet_memPut_at bs _ _ i hs.1 hi, List.getD_eq_getElem _ _ hi]

end Sys2Proof.Machine
end

section
/-!
PROOF. What reset leaves, where the spec gives a value (O4).
-/

namespace Sys2Proof.Machine

open Sys2Proof

/-- Every scalar register of a context reads 0 at reset (R27, R28). -/
theorem Ctx.reset_readS (i : BitVec 6) : Ctx.reset.readS i = 0 := by
  simp [Ctx.readS, Ctx.reset]

/-- Of the predicates at reset, p0 and p16 alone read true (R28, R29). -/
theorem Ctx.reset_readP (i : BitVec 5) : Ctx.reset.readP i = decide (i = 0 ∨ i = 16) := by
  revert i
  decide

/-- Every residency stands at its reset value. -/
theorem State.reset_res (k : ResNo) : State.reset.res.get k = Res.reset := Vector.get_replicate ..

/-- Every context of a residency stands at its reset value. -/
theorem Res.reset_ctx (c : CtxNo) : Res.reset.ctx.get c = Ctx.reset := Vector.get_replicate ..

/-- The record of every die stands at its reset value. -/
theorem State.reset_dieRec (d : Nat) : State.reset.dieRec d = DieRec.reset := by
  show ((Vector.replicate 19 DieRec.reset)[d]?).getD DieRec.reset = DieRec.reset
  rw [Vector.getElem?_replicate]
  split <;> rfl

/-- Settles O4: every residency, every context and every die record is a copy of one reset value. -/
theorem resetValues : Obligations.ResetValues := by
  refine ⟨fun k => ?_, rfl, rfl, rfl, rfl, rfl, rfl, fun d _ => ?_, fun q => ⟨rfl, rfl, rfl, rfl, rfl⟩, fun c => rfl⟩
  · simp only [State.reset_res, Res.reset_ctx]
    refine ⟨rfl, rfl, rfl, rfl, rfl, rfl, rfl, rfl, rfl, rfl, rfl, fun i => ?_, fun i => ?_, fun i => ?_, fun i => ?_, fun i => ?_, fun i => ?_, fun c =>
      ⟨rfl, rfl, rfl, rfl, Ctx.reset_readS, Ctx.reset_readP⟩⟩
    all_goals simp [Res.reset, EvField.unbound]
  · rw [State.reset_dieRec]
    exact ⟨rfl, rfl, rfl⟩

end Sys2Proof.Machine
end

section
/-!
PROOF. A control register reads back what was written in its writable bits (O31): each field that a write keeps is the value under a mask, and the fields of a register have masks that share no bit.
-/

namespace Sys2Proof.Machine

open Sys2Proof

/-! ### Fields as masks -/

/-- The mask of the bits [k + w - 1 : k] of a word. -/
def maskAt (k w : Nat) : Word := BitVec.ofNat 64 ((2 ^ w - 1) <<< k)

/-- A field cut out of a word and put back in its place is the word under the field's mask. -/
theorem ofNat_fieldAt (v : Word) (k w : Nat) : BitVec.ofNat 64 (((v.toNat >>> k) % 2 ^ w) <<< k) = v &&& maskAt k w := by
  have h : ((v.toNat >>> k) % 2 ^ w) <<< k = v.toNat &&& ((2 ^ w - 1) <<< k) := by
    apply Nat.eq_of_testBit_eq
    intro j
    simp only [Nat.testBit_and, Nat.testBit_shiftLeft, Nat.testBit_mod_two_pow, Nat.testBit_shiftRight, Nat.testBit_two_pow_sub_one]
    by_cases hj : k ≤ j
    · simp [hj, Bool.and_comm]
    · simp [hj]
  rw [h, BitVec.ofNat_and, BitVec.ofNat_toNat, BitVec.setWidth_eq, maskAt]

/-- The same for a field at bit 0. -/
theorem ofNat_fieldAt_zero (v : Word) (w : Nat) : BitVec.ofNat 64 (v.toNat % 2 ^ w) = v &&& maskAt 0 w := ofNat_fieldAt v 0 w

/-- Two parts of a word under masks that share no bit add up to the word under both. -/
theorem and_add_and (v a b : Word) (h : a &&& b = 0) : (v &&& a) + (v &&& b) = v &&& (a ||| b) := by
  rw [BitVec.add_eq_or_of_and_eq_zero, BitVec.and_or_distrib_left]
  rw [show v &&& a &&& (v &&& b) = v &&& (a &&& b) by ac_nf, h]
  exact BitVec.and_zero

/-- A value cut to a width and extended again is the value under that width's mask. -/
theorem zeroExtend_truncate (w : Nat) (v : Word) : (v.truncate w).zeroExtend 64 = v &&& maskAt 0 w := by
  rw [← ofNat_fieldAt_zero]
  apply BitVec.eq_of_toNat_eq
  simp

/-- The word of three fields. -/
theorem ofNat_three_fields (v : Word) (k₁ w₁ k₂ w₂ k₃ w₃ : Nat) (h : maskAt k₁ w₁ &&& maskAt k₂ w₂ = 0) (h' : (maskAt k₁ w₁ ||| maskAt k₂ w₂) &&& maskAt k₃ w₃ = 0) :
    BitVec.ofNat 64 (((v.toNat >>> k₁) % 2 ^ w₁) <<< k₁ + ((v.toNat >>> k₂) % 2 ^ w₂) <<< k₂ + ((v.toNat >>> k₃) % 2 ^ w₃) <<< k₃) =
      v &&& (maskAt k₁ w₁ ||| maskAt k₂ w₂ ||| maskAt k₃ w₃) := by
  rw [BitVec.ofNat_add, BitVec.ofNat_add, ofNat_fieldAt, ofNat_fieldAt, ofNat_fieldAt, and_add_and _ _ _ h, and_add_and _ _ _ h']

/-- The word of two fields. -/
theorem ofNat_two_fields (v : Word) (k₁ w₁ k₂ w₂ : Nat) (h : maskAt k₁ w₁ &&& maskAt k₂ w₂ = 0) :
    BitVec.ofNat 64 (((v.toNat >>> k₁) % 2 ^ w₁) <<< k₁ + ((v.toNat >>> k₂) % 2 ^ w₂) <<< k₂) = v &&& (maskAt k₁ w₁ ||| maskAt k₂ w₂) := by
  rw [BitVec.ofNat_add, ofNat_fieldAt, ofNat_fieldAt, and_add_and _ _ _ h]

/-! ### The layouts of the registers with several fields -/

/-- TSHAPE (R32). -/
theorem shapeOf_word (v : Word) : BitVec.ofNat 64 (shapeOf v.toNat).word = v &&& 0x71FF03FF :=
  ofNat_three_fields v 28 3 16 9 0 10 (by decide) (by decide)

/-- AD (R186). -/
theorem accDescOf_word (v : Word) : BitVec.ofNat 64 (accDescOf v.toNat).word = v &&& 0xEFFF01FF := by
  show BitVec.ofNat 64 (((v.toNat >>> 29) % 2 ^ 3) <<< 29 + ((v.toNat >>> 25) % 2 ^ 3) <<< 25 + ((v.toNat >>> 16) % 2 ^ 9) <<< 16 + v.toNat % 2 ^ 9) = _
  rw [BitVec.ofNat_add, ofNat_three_fields v 29 3 25 3 16 9 (by decide) (by decide), ofNat_fieldAt_zero, and_add_and _ _ _ (by decide)]
  rfl

/-- A bit that is set, put in its place, is the word under the bit's mask. -/
theorem true_shiftLeft (v : Word) (k : Nat) (h : v.toNat.testBit k = true) : true.toNat <<< k = ((v.toNat >>> k) % 2 ^ 1) <<< k := by
  rw [← h, Nat.toNat_testBit, Nat.shiftRight_eq_div_pow, Nat.pow_one]

/-- The bits of MLIVE, whose bit 0 is reserved (R37). -/
theorem mlive_field (x : Nat) : (BitVec.ofNat 8 x &&& 0xFE).toNat / 2 * 2 = ((x >>> 1) % 2 ^ 7) <<< 1 := by
  have h : ∀ y : BitVec 8, (y &&& 0xFE).toNat / 2 * 2 = ((y.toNat >>> 1) % 2 ^ 7) <<< 1 := by decide
  rw [h, BitVec.toNat_ofNat]
  omega

/-! ### What a register of a table, or of two fields, reads (R206) -/

theorem csrRead_tshape (s : State) (k : Nat) (hk : k < 16) : s.csrRead (0x10 + k) = BitVec.ofNat 64 (s.r.tshape.get ⟨k, hk⟩).word := by
  have e : idx 16 (0x10 + k) = ⟨k, hk⟩ := Fin.ext (show (0x10 + k) % 16 = k by omega)
  simp (disch := omega) only [State.csrRead, if_neg, if_pos, e]

theorem csrRead_ad (s : State) (k : Nat) (hk : k < 8) : s.csrRead (0x20 + k) = BitVec.ofNat 64 (s.r.ad.get ⟨k, hk⟩).word := by
  have e : idx 8 (0x20 + k) = ⟨k, hk⟩ := Fin.ext (show (0x20 + k) % 8 = k by omega)
  simp (disch := omega) only [State.csrRead, if_neg, if_pos, e]

theorem csrRead_dt (s : State) (k : Nat) (hk : k < 16) : s.csrRead (0x40 + k) = s.r.dt.get ⟨k, hk⟩ := by
  have e : idx 16 (0x40 + k) = ⟨k, hk⟩ := Fin.ext (show (0x40 + k) % 16 = k by omega)
  simp (disch := omega) only [State.csrRead, if_neg, if_pos, e]

theorem csrRead_extent (s : State) (ty k : Nat) (ht : ty < 3) (hk : k < 16) :
    s.csrRead (0x180 + 16 * ty + k) = (s.r.extentsPending.get ⟨k, hk⟩).reg ty := by
  have e : idx 16 (0x180 + 16 * ty + k) = ⟨k, hk⟩ := Fin.ext (show (0x180 + 16 * ty + k) % 16 = k by omega)
  have e' : (0x180 + 16 * ty + k - 0x180) / 16 = ty := by omega
  simp (disch := omega) only [State.csrRead, if_neg, if_pos, e, e']

theorem csrRead_code (s : State) : s.csrRead 0x115 = BitVec.ofNat 64 (s.r.codeFirst.toNat + s.r.codeLast.toNat <<< 16) := rfl

/-- An extent register reads back what was written in its bits that are not reserved (R189). -/
theorem Extent.set_reg (e : Extent) (ty : Nat) (v : Word) : (e.set ty v).reg ty = v &&& extentMask ty := by
  by_cases h0 : ty = 0
  · simp [Extent.set, Extent.reg, h0]
  · by_cases h1 : ty = 1 <;> simp [Extent.set, Extent.reg, h0, h1]

/-! ### Reading back (R8, R9, R206) -/

section
variable (s : State) (v : Word)

theorem csrRead_csrPut_vshare : (s.csrPut 9 v).csrRead 9 = v &&& 0xF := by
  rw [csrPut_vshare]
  show (s.modR _).r.vshare.zeroExtend 64 = _
  rw [State.modR_r]
  exact zeroExtend_truncate 4 v

theorem csrRead_csrPut_dt (k : Nat) (hk : k < 16) : (s.csrPut (0x40 + k) v).csrRead (0x40 + k) = v &&& 0xFFFFFFFFFFFCFFFF := by
  rw [csrPut_dt s v k hk, csrRead_dt _ k hk, State.modR_r]
  exact vec_get_set_same _ ⟨k, hk⟩ _

theorem csrRead_csrPut_ad (k : Nat) (hk : k < 8) : (s.csrPut (0x20 + k) v).csrRead (0x20 + k) = v &&& 0xEFFF01FF := by
  rw [csrPut_ad s v k hk, csrRead_ad _ k hk, State.modR_r, ← accDescOf_word]
  exact congrArg (fun d => BitVec.ofNat 64 (AccDesc.word d)) (vec_get_set_same _ ⟨k, hk⟩ _)

theorem csrRead_csrPut_tshape (k : Nat) (hk : k < 16) : (s.csrPut (0x10 + k) v).csrRead (0x10 + k) = v &&& 0x71FF03FF := by
  rw [csrPut_tshape s v k hk, csrRead_tshape _ k hk, State.modR_r, ← shapeOf_word]
  exact congrArg (fun d => BitVec.ofNat 64 (Shape.word d)) (vec_get_set_same _ ⟨k, hk⟩ _)

theorem csrRead_csrPut_extent (ty k : Nat) (ht : ty < 3) (hk : k < 16) :
    (s.csrPut (0x180 + 16 * ty + k) v).csrRead (0x180 + 16 * ty + k) = v &&& extentMask ty := by
  rw [csrPut_extent s v ty k ht hk, csrRead_extent _ ty k ht hk, State.modR_r, ← Extent.set_reg (s.r.extentsPending.get ⟨k, hk⟩)]
  exact congrArg (fun e => Extent.reg e ty) (vec_get_set_same _ ⟨k, hk⟩ _)

theorem csrRead_csrPut_cause : (s.csrPut 0x100 v).csrRead 0x100 = v &&& 0x7F := by
  rw [csrPut_cause]
  show (s.modC _).c.trap.cause.zeroExtend 64 = _
  rw [State.modC_c]
  exact zeroExtend_truncate 7 v

theorem csrRead_csrPut_pc : (s.csrPut 0x101 v).csrRead 0x101 = v &&& 0x3FFF := by
  rw [csrPut_pc]
  show (s.modC _).c.trap.pc.zeroExtend 64 = _
  rw [State.modC_c]
  exact zeroExtend_truncate 14 v

theorem csrRead_csrPut_frm : (s.csrPut 0x102 v).csrRead 0x102 = v &&& 0x3FFF := by
  rw [csrPut_frm]
  show (s.modC _).c.trap.frm.zeroExtend 64 = _
  rw [State.modC_c]
  exact zeroExtend_truncate 14 v

theorem csrRead_csrPut_info0 : (s.csrPut 0x103 v).csrRead 0x103 = v := by
  rw [csrPut_info0]
  show (s.modC _).c.trap.info0 = _
  rw [State.modC_c]

theorem csrRead_csrPut_info1 : (s.csrPut 0x104 v).csrRead 0x104 = v := by
  rw [csrPut_info1]
  show (s.modC _).c.trap.info1 = _
  rw [State.modC_c]

theorem csrRead_csrPut_handler : (s.csrPut 0x108 v).csrRead 0x108 = v &&& 0x3FFF := by
  rw [csrPut_handler]
  show (s.modR _).r.handler.zeroExtend 64 = _
  rw [State.modR_r]
  exact zeroExtend_truncate 14 v

theorem csrRead_csrPut_spbase : (s.csrPut 0x110 v).csrRead 0x110 = v &&& 0x1FF000 := by
  show (s.modR fun r => { r with spbase := BitVec.ofNat 9 (v.toNat >>> 12) }).r.spbaseReg = _
  rw [State.modR_r]
  exact ofNat_fieldAt v 12 9

theorem csrRead_csrPut_splim : (s.csrPut 0x111 v).csrRead 0x111 = v &&& 0x1F3FF000 := by
  show (s.modR fun r => { r with splimit := BitVec.ofNat 10 (v.toNat >>> 12), phsz := BitVec.ofNat 5 (v.toNat >>> 24) }).r.splim = _
  rw [State.modR_r]
  exact ofNat_two_fields v 12 10 24 5 (by decide)

/-- With OWN 0 the LIVE bits become 0 (log entry 71). -/
theorem csrRead_csrPut_accown : (s.csrPut 0x112 v).csrRead 0x112 = if v.getLsbD 8 then v &&& 0x1FF else 0 := by
  show (s.modR fun r => { r with accOwn := v.toNat.testBit 8, accLive := if v.toNat.testBit 8 then BitVec.ofNat 8 v.toNat else 0 }).r.accown = if v.toNat.testBit 8 then _ else _
  rw [State.modR_r]
  cases h : v.toNat.testBit 8 with
  | false => rfl
  | true => 
    show BitVec.ofNat 64 (((v.toNat >>> 0) % 2 ^ 8) <<< 0 + true.toNat <<< 8) = v &&& 0x1FF
    rw [true_shiftLeft v 8 h]
    exact ofNat_two_fields v 0 8 8 1 (by decide)

/-- With OWN 0 the LIVE bits become 0 (log entry 71). -/
theorem csrRead_csrPut_tileown : (s.csrPut 0x113 v).csrRead 0x113 = if v.getLsbD 24 then v &&& 0x1FEFFFF else 0 := by
  show (s.modR fun r => { r with tileOwn := v.toNat.testBit 24, tlive := if v.toNat.testBit 24 then BitVec.ofNat 16 v.toNat else 0,
                                 mlive := if v.toNat.testBit 24 then BitVec.ofNat 8 (v.toNat >>> 16) &&& 0xFE else 0 }).r.tileown = if v.toNat.testBit 24 then _ else _
  rw [State.modR_r]
  cases h : v.toNat.testBit 24 with
  | false =>
    simp only [Res.tileown, Bool.false_eq_true, if_false]
    rfl
  | true =>
    simp only [Res.tileown, if_true]
    rw [true_shiftLeft v 24 h, mlive_field, BitVec.toNat_ofNat, ← Nat.shiftRight_add, ← Nat.shiftLeft_add]
    exact ofNat_three_fields v 0 16 17 7 24 1 (by decide) (by decide)

theorem csrRead_csrPut_tenant : (s.csrPut 0x114 v).csrRead 0x114 = v &&& 0x3F := by
  rw [csrPut_tenant]
  show (s.modR _).r.tenant.zeroExtend 64 = _
  rw [State.modR_r]
  exact zeroExtend_truncate 6 v

theorem csrRead_csrPut_code : (s.csrPut 0x115 v).csrRead 0x115 = v &&& 0x3FFF3FFF := by
  rw [csrRead_code, show s.csrPut 0x115 v = s.modR fun r => { r with codeFirst := BitVec.ofNat 14 v.toNat, codeLast := BitVec.ofNat 14 (v.toNat >>> 16) } from rfl,
    State.modR_r]
  exact ofNat_two_fields v 0 14 16 14 (by decide)

/-- CSTAT, RANK, CYCLE and CTX are read-only. -/
theorem csrPut_readOnly (k : Nat) (hk : k < 4) : s.csrPut k v = s := by
  simp (disch := omega) only [State.csrPut, if_neg]

/-- So are the counts of the channels. -/
theorem csrPut_channel (k : Nat) (hk : k < 16) : s.csrPut (0x28 + k) v = s := by
  simp (disch := omega) only [State.csrPut, if_neg]

end

/-- Settles O31, register by register. -/
theorem controlRegisterReadBack : Obligations.ControlRegisterReadBack := fun s v k =>
  ⟨csrRead_csrPut_vshare s v, csrRead_csrPut_dt s v k, csrRead_csrPut_ad s v k, csrRead_csrPut_tshape s v k, csrRead_csrPut_cause s v, csrRead_csrPut_pc s v,
   csrRead_csrPut_frm s v, csrRead_csrPut_info0 s v, csrRead_csrPut_info1 s v, csrRead_csrPut_handler s v, csrRead_csrPut_spbase s v, csrRead_csrPut_splim s v,
   csrRead_csrPut_accown s v, csrRead_csrPut_tileown s v, csrRead_csrPut_tenant s v, csrRead_csrPut_code s v,
   fun hk => ⟨csrRead_csrPut_extent s v 0 k (by decide) hk, csrRead_csrPut_extent s v 1 k (by decide) hk, csrRead_csrPut_extent s v 2 k (by decide) hk⟩,
   csrPut_readOnly s v k, csrPut_channel s v k⟩

end Sys2Proof.Machine
end

section
/-!
PROOF. The tables and the inbox of the I/O die: what a table reads after a write, and the first arrival taken.
-/

namespace Sys2Proof.Machine

open Sys2Proof

/-! ### The tables -/

/-- A table reads back a value that is not its default. -/
theorem tabGet_tabSet_same {α : Type} [DecidableEq α] (d : α) (l : List (Nat × α)) (k : Nat) (v : α) (h : v ≠ d) : tabGet d (tabSet d l k v) k = v := by
  induction l with
  | nil => simp [tabSet, tabGet, h]
  | cons x t ih =>
    unfold tabSet
    split
    · simp [tabGet]
    · split
      · simp [tabGet]
      next hne => simp [tabGet, Ne.symm hne, ih]

/-- A queue reads back a change that does not leave it at its reset value. -/
theorem State.queue_modQueue (s : State) (q : Nat) (f : Queue → Queue) (h : f (s.queue q) ≠ Queue.reset) : (s.modQueue q f).queue q = f (s.queue q) :=
  tabGet_tabSet_same _ _ _ _ h

/-! ### The inbox -/

/-- The state whose inbox holds these arrivals. -/
def State.withInbox (s : State) (l : List Arrival) : State := { s with pkg := { s.pkg with inbox := l } }

@[simp] theorem State.withInbox_queue (s : State) (l : List Arrival) (q : Nat) : (s.withInbox l).queue q = s.queue q := rfl
@[simp] theorem State.withInbox_tenant (s : State) (l : List Arrival) (t : BitVec 6) : (s.withInbox l).tenant t = s.tenant t := rfl
@[simp] theorem State.withInbox_streamOk (s : State) (l : List Arrival) (t : BitVec 6) (w : HostWrite) : (s.withInbox l).streamOk t w = s.streamOk t w := rfl
@[simp] theorem State.withInbox_recovery (s : State) (l : List Arrival) : (s.withInbox l).pkg.recovery = s.pkg.recovery := rfl
@[simp] theorem State.withInbox_ready (s : State) (l : List Arrival) : (s.withInbox l).pkg.ready = s.pkg.ready := rfl
@[simp] theorem State.withInbox_orders (s : State) (l : List Arrival) : (s.withInbox l).pkg.orders = s.pkg.orders := rfl
@[simp] theorem State.withInbox_nextOrder (s : State) (l : List Arrival) : (s.withInbox l).pkg.nextOrder = s.pkg.nextOrder := rfl

/-- An arrival of the kind at the front of the inbox is the one taken. -/
theorem State.take_head {α : Type} {s : State} {f : Arrival → Option α} {a : Arrival} {rest : List Arrival} {x : α} (hi : s.pkg.inbox = a :: rest)
    (hf : f a = some x) : s.take f = some (x, s.withInbox rest) := by
  simp only [State.take, hi, takeArrival, hf]
  rfl

/-- Taking an arrival sends nothing. -/
theorem State.take_env {α : Type} {s t : State} {f : Arrival → Option α} {x : α} (h : s.take f = some (x, t)) : t.env = s.env := by
  obtain ⟨r, -, e⟩ := Option.map_eq_some_iff.mp h
  cases e
  rfl

end Sys2Proof.Machine
end

section
/-!
PROOF. Host writes to queues and counters (R465, R466, R468): by the register that the offset names.
-/

namespace Sys2Proof.Machine

open Sys2Proof

/-! ### The register that a host write names (R463) -/

theorem HostWrite.queueReg_at {w : HostWrite} {q o : Nat} (hs : w.size = 8) (ho : w.offset = 0x100000 + 64 * q + o) (hq : q < 4096) (h8 : o % 8 = 0) (h64 : o < 64) :
    w.queueReg = some (q, o) := by
  have h1 : w.offset % 8 = 0 := by omega
  have h2 : 0x100000 ≤ w.offset := by omega
  have h3 : w.offset < 0x140000 := by omega
  have h4 : (w.offset - 0x100000) / 64 = q := by omega
  have h5 : w.offset % 64 = o := by omega
  simp [HostWrite.queueReg, HostWrite.legal, hs, h1, h2, h3, h4, h5]

theorem HostWrite.counterNo_below {w : HostWrite} (h : w.offset < 0x200000) : w.counterNo = none := by
  have h1 : ¬ 0x200000 ≤ w.offset := by omega
  simp [HostWrite.counterNo, h1]

theorem HostWrite.counterNo_at {w : HostWrite} {c : Nat} (hs : w.size = 8) (ho : w.offset = 0x200000 + 8 * c) (hc : c < 4096) : w.counterNo = some c := by
  have h1 : w.offset % 8 = 0 := by omega
  have h2 : 0x200000 ≤ w.offset := by omega
  have h3 : w.offset < 0x208000 := by omega
  have h4 : (w.offset - 0x200000) / 8 = c := by omega
  simp [HostWrite.counterNo, HostWrite.legal, hs, h1, h2, h3, h4]

theorem HostWrite.queueReg_above {w : HostWrite} (h : 0x140000 ≤ w.offset) : w.queueReg = none := by
  have h1 : ¬ w.offset < 0x140000 := by omega
  simp [HostWrite.queueReg, h1]

/-- The first arrival is a host write to register o of queue q, on the stream of the queue's tenant, and the package is not in recovery (R455, R463, R473). -/
def State.QueueWrite (s : State) (rest : List Arrival) (w : HostWrite) (q o : Nat) : Prop :=
  s.pkg.inbox = .hostWrite w :: rest ∧ w.size = 8 ∧ w.offset = 0x100000 + 64 * q + o ∧ q < 4096 ∧ s.pkg.recovery = false ∧ s.streamOk (s.queue q).tenant w = true

section
variable {s : State} {rest : List Arrival} {w : HostWrite} {q : Nat}

/-- A tail write comes to the queue's own rule. -/
theorem execQtailWrite_of_tail (h : s.QueueWrite rest w q 0x18) : exec .qtailWrite s = .next ((s.withInbox rest).tailWrite q w.value) := by
  obtain ⟨hi, hs, ho, hq, hr, hst⟩ := h
  have hk : w.kind = .tail q := by simp only [HostWrite.kind, HostWrite.queueReg_at hs ho hq (by decide) (by decide)]
  show execQtailWrite s = _
  unfold execQtailWrite
  rw [State.take_head (x := (w, q)) hi (by simp only [hostWriteOf, hk, Option.map_some])]
  simp [hr, hst]

/-- A write of ones to the status clears CFGERR and OVF. -/
theorem execQstatWrite_of_status (h : s.QueueWrite rest w q 0x28) : exec .qstatWrite s =
    .next ((s.withInbox rest).modQueue q fun x => { x with cfgerr := x.cfgerr && !w.value.getLsbD 2, ovf := x.ovf && !w.value.getLsbD 1 }) := by
  obtain ⟨hi, hs, ho, hq, hr, hst⟩ := h
  have hk : w.kind = .stat q := by simp only [HostWrite.kind, HostWrite.queueReg_at hs ho hq (by decide) (by decide)]
  show execQstatWrite s = _
  unfold execQstatWrite
  rw [State.take_head (x := (w, q)) hi (by simp only [hostWriteOf, hk, Option.map_some])]
  simp [hr, hst]

/-- A configuration write comes to the rule of its register. -/
theorem execQctlWrite_of_config {o : Nat} (h : s.QueueWrite rest w q o) (ho' : o = 0 ∨ o = 8) : exec .qctlWrite s =
    .next (if o = 0 then (s.withInbox rest).qctlWrite q w.value else (s.withInbox rest).ringWrite q false w.value) := by
  obtain ⟨hi, hs, ho, hq, hr, hst⟩ := h
  have hreg : w.queueReg = some (q, o) := HostWrite.queueReg_at hs ho hq (by omega) (by omega)
  have hk : w.kind = .other := by
    rcases ho' with rfl | rfl <;> simp only [HostWrite.kind, hreg, HostWrite.counterNo_below (w := w) (by omega)]
  show execQctlWrite s = _
  unfold execQctlWrite
  rw [State.take_head (x := (w, ())) hi (by simp only [hostWriteOf, hk, if_true, Option.map_some])]
  rcases ho' with rfl | rfl <;> simp [hreg, hr, hst]

/-- A counter takes the value written to it (R468). -/
theorem execCounterWrite_of_counter {c : Nat} (hi : s.pkg.inbox = .hostWrite w :: rest) (hs : w.size = 8) (ho : w.offset = 0x200000 + 8 * c) (hc : c < 4096)
    (hr : s.pkg.recovery = false) (hst : s.streamOk (BitVec.ofNat 6 (c / 64)) w = true) : exec .counterWrite s = .next ((s.withInbox rest).setCounter c w.value) := by
  have hk : w.kind = .counter c := by
    simp only [HostWrite.kind, HostWrite.queueReg_above (w := w) (by omega), HostWrite.counterNo_at hs ho hc]
  show execCounterWrite s = _
  unfold execCounterWrite
  rw [State.take_head (x := (w, c)) hi (by simp only [hostWriteOf, hk, Option.map_some])]
  simp [State.writeCounter, hr, hst]

end

/-! ### The tail (R465, R466) -/

/-- How far a tail stands past HEAD. -/
def Queue.ahead (b : Queue) (tail : Nat) : Nat :=
  (tail % 2 ^ b.log2n.toNat + 2 ^ b.log2n.toNat - b.head.toNat % 2 ^ b.log2n.toNat) % 2 ^ b.log2n.toNat

/-- Covering records adds as many at the end, all to be fetched. -/
theorem cover_recs (n k i : Nat) (b : Queue) : ∃ l, (cover n k i b).recs = b.recs ++ l ∧ l.length = k ∧ ∀ r ∈ l, r.stage = .toFetch := by
  induction k generalizing i b with
  | zero => exact ⟨[], by simp [cover]⟩
  | succ k ih =>
    obtain ⟨l, hl, hn, hf⟩ := ih ((i + 1) % n) { b with recs := b.recs ++ [⟨i, b.pass, .toFetch⟩], pass := if (i + 1) % n = 0 then !b.pass else b.pass }
    refine ⟨⟨i, b.pass, .toFetch⟩ :: l, ?_, by simp [hn], by simpa using hf⟩
    simp only [cover, hl, List.append_assoc, List.singleton_append]

/-- Covering records leaves HEAD, OVF and EN. -/
theorem cover_rest (n k i : Nat) (b : Queue) : (cover n k i b).head = b.head ∧ (cover n k i b).ovf = b.ovf ∧ (cover n k i b).en = b.en := by
  induction k generalizing i b with
  | zero => exact ⟨rfl, rfl, rfl⟩
  | succ k ih => exact ih _ _

/-- A queue whose records up to a new tail are to be fetched. -/
def Queue.covered (b : Queue) (v : Word) : Queue :=
  cover (2 ^ b.log2n.toNat) (b.ahead v.toNat - b.ahead b.tail.toNat) (b.tail.toNat % 2 ^ b.log2n.toNat) b

/-- A tail write that an enabled queue of a locked tenant takes covers the records between the tails. -/
theorem State.tailWrite_taken {s : State} {q : Nat} {v : Word} (hen : (s.queue q).en = true) (hten : (s.tenant (s.queue q).tenant).state ≠ .unlocked)
    (hle : (s.queue q).ahead (s.queue q).tail.toNat ≤ (s.queue q).ahead v.toNat) :
    ∃ x, (s.tailWrite q v).queue q = { (s.queue q).covered v with tail := BitVec.ofNat 12 (v.toNat % 2 ^ (s.queue q).log2n.toNat), value := x } := by
  have hc : (!(s.queue q).en || (s.tenant (s.queue q).tenant).state == .unlocked || decide ((s.queue q).ahead v.toNat < (s.queue q).ahead (s.queue q).tail.toNat)) = false := by
    simp [hen, hten, hle]
  have he : ((s.queue q).covered v).en = true := (cover_rest ..).2.2.trans hen
  obtain ⟨f, e, x, hf⟩ : ∃ f : Queue → Queue, s.tailWrite q v = s.modQueue q f ∧
      ∃ x, f (s.queue q) = { (s.queue q).covered v with tail := BitVec.ofNat 12 (v.toNat % 2 ^ (s.queue q).log2n.toNat), value := x } :=
    ⟨_, if_neg (Bool.eq_false_iff.mp hc), _, rfl⟩
  refine ⟨x, ?_⟩
  rw [e, ← hf]
  refine State.queue_modQueue s q f fun h => ?_
  have h' : ((s.queue q).covered v).en = false := congrArg Queue.en (hf.symm.trans h)
  exact Bool.noConfusion (he.symm.trans h')

/-- A tail write that is refused sets OVF and nothing else. -/
theorem State.tailWrite_refused {s : State} {q : Nat} {v : Word}
    (h : (s.queue q).en = false ∨ (s.tenant (s.queue q).tenant).state = .unlocked ∨ (s.queue q).ahead v.toNat < (s.queue q).ahead (s.queue q).tail.toNat) :
    (s.tailWrite q v).queue q = { s.queue q with ovf := true } := by
  have e : s.tailWrite q v = s.modQueue q fun b => { b with ovf := true } := by
    simp only [Queue.ahead] at h
    refine if_pos ?_
    simpa [or_assoc] using h
  rw [e]
  exact State.queue_modQueue s q _ fun h => Bool.noConfusion (congrArg Queue.ovf h)

/-! ### The configuration (R465, R466) -/

/-- A field read as a number is the bits themselves. -/
theorem ofNat_field (v : Word) (lo w : Nat) : BitVec.ofNat w (field v lo w) = v.extractLsb' lo w := by
  apply BitVec.eq_of_toNat_eq
  simp [field]

/-- A ring of too few or too many records is refused. -/
theorem State.qctlWrite_badSize {s : State} {q : Nat} {v : Word} (hr : s.pkg.ready = true)
    (h : (v.extractLsb' 20 4).toNat < 4 ∨ 12 < (v.extractLsb' 20 4).toNat) : s.qctlWrite q v = s.modQueue q fun x => { x with cfgerr := true } := by
  rw [← ofNat_field] at h
  unfold State.qctlWrite
  rw [if_neg (by simp [hr]), if_pos (by rw [← or_assoc]; exact .inl h)]

/-- A disabled queue takes a configuration of a legal size for its own tenant. -/
theorem State.qctlWrite_disabled {s : State} {q : Nat} {v : Word} (hr : s.pkg.ready = true) (h4 : 4 ≤ (v.extractLsb' 20 4).toNat) (h12 : (v.extractLsb' 20 4).toNat ≤ 12)
    (hen : (s.queue q).en = false) (ht : v.extractLsb' 26 6 = (s.queue q).tenant) : s.qctlWrite q v = s.modQueue q fun x =>
      { x with vec := v.extractLsb' 40 5, tenant := (s.queue q).tenant, log2n := v.extractLsb' 20 4, weight := v.extractLsb' 14 6, level := v.extractLsb' 12 2,
               ien := v.getLsbD 1, en := v.getLsbD 0 } := by
  have h : ¬((v.extractLsb' 20 4).toNat < 4 ∨ 12 < (v.extractLsb' 20 4).toNat) := by omega
  unfold State.qctlWrite
  simp only [ofNat_field, hen, ht, hr]
  rw [if_neg (by decide), if_neg (by simpa using h), if_neg (by simp)]

/-- A disabled queue takes a ring base. -/
theorem State.ringWrite_disabled {s : State} {q : Nat} {v : Word} (hen : (s.queue q).en = false) :
    s.ringWrite q false v = s.modQueue q fun x => { x with ring := v.extractLsb' 8 56 } := by
  unfold State.ringWrite
  rw [if_neg (by simp [hen]), if_neg (by decide)]

end Sys2Proof.Machine
end

section
/-!
PROOF. Completion records, the fetch of a record, and the completion of work orders (R301, R401, R466 to R470).
-/

namespace Sys2Proof.Machine

open Sys2Proof

/-! ### What a completion sends (R468, R469) -/

/-- An item for the host goes out. -/
theorem State.emit_completion (s : State) (a : Nat) (ws : List Word) (t : Option (BitVec 6)) :
    s.emit (.completion a ws t) = s.modEnv fun e => { e with out := e.out ++ [.completion a ws t] } := s.emitFor_out _ _ rfl
theorem State.emit_interrupt (s : State) (n : Nat) (t : Option (BitVec 6)) :
    s.emit (.interrupt n t) = s.modEnv fun e => { e with out := e.out ++ [.interrupt n t] } := s.emitFor_out _ _ rfl

/-- A host write to a counter sends nothing. -/
theorem State.writeCounter_env (s : State) (c : Nat) (w : HostWrite) : (s.writeCounter c w).env = s.env := by
  unfold State.writeCounter
  dsimp only
  repeat' split
  all_goals rfl

/-- Nor do those that meet a completion. -/
theorem applyCounter_env (c n : Nat) (s : State) : (applyCounter c n s).env = s.env := by
  induction n generalizing s with
  | zero => rfl
  | succ n ih =>
    unfold applyCounter
    split
    · rfl
    next w _ t h => rw [ih, State.writeCounter_env, State.take_env h]

/-- What the completion of a record sends: its completion record, and the queue's interrupt where it is enabled. -/
theorem State.completeRec_out (s : State) (q i : Nat) (ws : List Word) (c : Option (BitVec 12)) :
    (s.completeRec q i ws c).env.out = s.env.out ++ .completion (32 * (s.queue q).cring.toNat + 32 * i) ws (s.streamOf (s.queue q).tenant) ::
      if (s.queue q).ien then [.interrupt (32 * (s.queue q).tenant.toNat + (s.queue q).vec.toNat) (s.streamOf (s.queue q).tenant)] else [] := by
  let b := s.queue q
  let s1 := s.emit (.completion (32 * b.cring.toNat + 32 * i) ws (s.streamOf b.tenant))
  have h1 : s1.env.out = s.env.out ++ [.completion (32 * b.cring.toNat + 32 * i) ws (s.streamOf b.tenant)] := congrArg (·.env.out) (s.emit_completion _ _ _)
  have hi : ∀ t : State, t.env = s1.env → (if b.ien then t.emit (.interrupt (32 * b.tenant.toNat + b.vec.toNat) (s.streamOf b.tenant)) else t).env.out =
      s.env.out ++ .completion (32 * b.cring.toNat + 32 * i) ws (s.streamOf b.tenant) ::
        if b.ien then [.interrupt (32 * b.tenant.toNat + b.vec.toNat) (s.streamOf b.tenant)] else [] := by
    intro t e
    split
    · rw [State.emit_interrupt]
      show t.env.out ++ _ = _
      rw [e, h1, List.append_assoc]
      rfl
    · rw [e, h1]
  cases c with
  | none => exact hi s1 rfl
  | some c => exact hi _ (applyCounter_env c.toNat _ s1)

/-! ### The fetch of a record (R466, R467) -/

section
variable {s : State} {rest : List Arrival} {q : Nat} {r : Rec} {ld : Load} {bs : Option (List Byte)}

/-- A record whose fetch fails on PCIe is REJECTED. -/
theorem execRecordFetch_failed (hi : s.pkg.inbox = .record q r.index none ld :: rest) (hf : ((s.queue q).recs.find? fun r => r.stage == .toFetch) = some r) :
    exec .recordFetch s = .next ((s.withInbox rest).completeRec q r.index (completionWords statusRejected none r.phase 0 0 0) none) := by
  show execRecordFetch s = _
  unfold execRecordFetch
  rw [State.take_head (x := (q, r.index, none, ld)) hi rfl]
  simp [hf]

/-- A record that breaks a condition of R467 is REJECTED. -/
theorem execRecordFetch_bad {x : List Byte} (hi : s.pkg.inbox = .record q r.index (some x) ld :: rest) (hf : ((s.queue q).recs.find? fun r => r.stage == .toFetch) = some r)
    (hok : recordOk x ld.image (s.queue q).tenant = false) :
    exec .recordFetch s = .next ((s.withInbox rest).completeRec q r.index (completionWords statusRejected none r.phase (recWord x 0x30) 0 0) (recCounter x (s.queue q).tenant)) := by
  show execRecordFetch s = _
  unfold execRecordFetch
  rw [State.take_head (x := (q, r.index, some x, ld)) hi rfl]
  simp [hf, hok]

/-- A record of a queue that has been disabled is CANCELLED (log entry 55). -/
theorem execRecordFetch_cancelled {x : List Byte} (hi : s.pkg.inbox = .record q r.index (some x) ld :: rest) (hf : ((s.queue q).recs.find? fun r => r.stage == .toFetch) = some r)
    (hok : recordOk x ld.image (s.queue q).tenant = true) (hen : (s.queue q).en = false) :
    exec .recordFetch s = .next ((s.withInbox rest).completeRec q r.index (completionWords statusCancelled none r.phase (recWord x 0x30) 0 0) (recCounter x (s.queue q).tenant)) := by
  show execRecordFetch s = _
  unfold execRecordFetch
  rw [State.take_head (x := (q, r.index, some x, ld)) hi rfl]
  simp [hf, hok, hen, orderOf]

/-- Any other record becomes a work order. -/
theorem execRecordFetch_entered {x : List Byte} (hi : s.pkg.inbox = .record q r.index (some x) ld :: rest) (hf : ((s.queue q).recs.find? fun r => r.stage == .toFetch) = some r)
    (hok : recordOk x ld.image (s.queue q).tenant = true) (hen : (s.queue q).en = true) :
    ∃ t, exec .recordFetch s = .next t ∧ t.pkg.nextOrder = s.pkg.nextOrder + 1 ∧
      t.pkg.orders = s.pkg.orders ++ [orderOf s.pkg.nextOrder q r.index r.phase (s.queue q).tenant x ld] := by
  refine ⟨((s.withInbox rest).modPkg fun p => { p with orders := p.orders ++ [orderOf s.pkg.nextOrder q r.index r.phase (s.queue q).tenant x ld], nextOrder := p.nextOrder + 1 }).modQueue q
    fun b => { b with recs := b.recs.map fun y => if y = r then { y with stage := .fetched s.pkg.nextOrder } else y }, ?_, rfl, rfl⟩
  show execRecordFetch s = _
  unfold execRecordFetch
  rw [State.take_head (x := (q, r.index, some x, ld)) hi rfl]
  simp [hf, hok, hen]
  rfl

end

/-! ### The completion of work orders (R301, R401, R469, R470) -/

section
variable {s : State} {o : WorkOrder}

theorem execWorkOrderComplete_released (h : s.settleEnds.pkg.orders.find? s.settleEnds.releasable = some o) :
    exec .workOrderComplete s = .next (s.settleEnds.completeOrder o (o.closing.getD (0, none)).1 (o.closing.getD (0, none)).2) := by
  show execWorkOrderComplete s = _
  simp only [execWorkOrderComplete, h]
  rfl

theorem execWorkOrderComplete_faulted {e : End} {l : List End} (h : s.settleEnds.pkg.orders.find? s.settleEnds.releasable = none) (he : s.settleEnds.pkg.ends = e :: l)
    (ho : s.settleEnds.openOrder e.order = some o) :
    exec .workOrderComplete s = .next (s.settleEnds.endOrder { o with served := o.served ++ e.served } .faulted statusFaulted e.cause) := by
  show execWorkOrderComplete s = _
  simp only [execWorkOrderComplete, h, he, List.findSome?_cons, ho, Option.map_some]

/-- Where no report of a faulted residency names an open order, none is found. -/
theorem findSome_openOrder_none (h : ∀ e ∈ s.pkg.ends, s.openOrder e.order = none) : (s.pkg.ends.findSome? fun e => (s.openOrder e.order).map fun w => (w, e)) = none := by
  rw [List.findSome?_eq_none_iff]
  intro e he
  rw [h e he]
  rfl

theorem execWorkOrderComplete_complete (h : s.settleEnds.pkg.orders.find? s.settleEnds.releasable = none)
    (he : ∀ e ∈ s.settleEnds.pkg.ends, s.settleEnds.openOrder e.order = none) (hc : s.settleEnds.pkg.orders.find? WorkOrder.complete = some o) :
    exec .workOrderComplete s = .next (s.settleEnds.closeOrder o statusOk none) := by
  show execWorkOrderComplete s = _
  simp only [execWorkOrderComplete, h, findSome_openOrder_none he, hc]

theorem execWorkOrderComplete_doomed (h : s.settleEnds.pkg.orders.find? s.settleEnds.releasable = none)
    (he : ∀ e ∈ s.settleEnds.pkg.ends, s.settleEnds.openOrder e.order = none) (hc : s.settleEnds.pkg.orders.find? WorkOrder.complete = none)
    (hd : s.settleEnds.pkg.orders.find? s.settleEnds.doomed = some o) :
    exec .workOrderComplete s = .next (s.settleEnds.endOrder o .faulted statusFaulted none) := by
  show execWorkOrderComplete s = _
  simp only [execWorkOrderComplete, h, findSome_openOrder_none he, hc, hd]

theorem execWorkOrderTimeout_overdue (h : s.settleEnds.pkg.orders.find? s.settleEnds.overdue = some o) :
    exec .workOrderTimeout s = .next (if o.complete then s.settleEnds.closeOrder o statusOk none else s.settleEnds.endOrder o .timedOut statusTimedOut none) := by
  show execWorkOrderTimeout s = _
  simp only [execWorkOrderTimeout, h]
  split <;> rfl

/-- A work order that has ended with a status and waits for its release (R301, R401). -/
def State.endedOrder (s : State) (o : WorkOrder) (st : Nat) (cause : Option (BitVec 7)) : WorkOrder :=
  { o with
    cycles := o.cycles + (o.crews.map s.coreCycles).sum
    crews := o.crews.map fun c => { c with stage := .done, slots := [], bells := [], crossBells := [] }
    closing := some (st, cause) }

/-- An order whose server writes are not all acknowledged is entered as ended, and no more (R301, log entry 58). -/
theorem State.closeOrder_waits {st : Nat} {cause : Option (BitVec 7)} (h : (s.core.reqs.any fun q => q.order == o.id && q.writes) = true) :
    s.closeOrder o st cause = (s.modOrder o.id fun _ => s.endedOrder o st cause).modPkg fun p => { p with ends := p.ends.filter fun e => e.order != o.id } := by
  refine if_neg ?_
  simp [State.orderReleased, State.modPkg, State.modOrder, h]

/-- The order is then among those that wait, with its status. -/
theorem State.mem_orders_modOrder {x : WorkOrder} {f : WorkOrder → WorkOrder} (hx : x ∈ s.pkg.orders) (hid : x.id = o.id) : f x ∈ (s.modOrder o.id f).pkg.orders := by
  have hm : (if x.id = o.id then f x else x) ∈ (s.modOrder o.id f).pkg.orders := List.mem_map_of_mem hx
  rwa [if_pos hid] at hm

/-- A completed order sends its completion record, and the queue's interrupt where it is enabled, and is forgotten (R401, R469). -/
theorem State.completeOrder_sends (s : State) (o : WorkOrder) (st : Nat) (cause : Option (BitVec 7)) :
    ∃ n, Out.completion (32 * (s.queue o.queue).cring.toNat + 32 * o.index) (completionWords st cause o.phase o.tag n (s.sinceLaunch o / 2250)) (s.streamOf (s.queue o.queue).tenant)
        ∈ (s.completeOrder o st cause).env.out ∧
      ((s.queue o.queue).ien = true → Out.interrupt (32 * (s.queue o.queue).tenant.toNat + (s.queue o.queue).vec.toNat) (s.streamOf (s.queue o.queue).tenant)
        ∈ (s.completeOrder o st cause).env.out) ∧
      ∀ x ∈ (s.completeOrder o st cause).pkg.orders, x.id ≠ o.id := by
  have h := s.completeRec_out o.queue o.index (completionWords st cause o.phase o.tag (o.cycles + (o.crews.map s.coreCycles).sum) (s.sinceLaunch o / 2250)) o.counter
  have e : (s.completeOrder o st cause).env.out = _ := h
  refine ⟨o.cycles + (o.crews.map s.coreCycles).sum, ?_, fun hien => ?_, fun x hx => ?_⟩
  · simp [e]
  · simp [e, hien]
  · simpa using (List.mem_filter.mp hx).2

end

/-- Settles O55, by the register that a write names, the verdict on a record, and the first work order that ends. -/
theorem hostQueueResults : Obligations.HostQueueResults := by
  intro s rest w q s1 b written
  refine ⟨fun h => ?tail, execQstatWrite_of_status, fun h hready => ?config, fun h hen => ?ring, fun c hi hs ho hc hr hst => execCounterWrite_of_counter hi hs ho hc hr hst,
    fun r bs ld hi hf => ?record, ?order, fun o st cause h => ?waits, s.completeOrder_sends⟩
  case tail =>
    refine ⟨fun hen hten hle => ?_, fun hbad => ⟨_, execQtailWrite_of_tail h, State.tailWrite_refused (s := s.withInbox rest) hbad⟩⟩
    obtain ⟨x, e⟩ := State.tailWrite_taken (s := s.withInbox rest) hen hten hle
    obtain ⟨l, hl, hn, hfetch⟩ := cover_recs (2 ^ b.log2n.toNat) (b.ahead w.value.toNat - b.ahead b.tail.toNat) (b.tail.toNat % 2 ^ b.log2n.toNat) b
    obtain ⟨hhead, hovf, -⟩ := cover_rest (2 ^ b.log2n.toNat) (b.ahead w.value.toNat - b.ahead b.tail.toNat) (b.tail.toNat % 2 ^ b.log2n.toNat) b
    refine ⟨_, l, execQtailWrite_of_tail h, ?_⟩
    rw [e]
    exact ⟨rfl, hl, hn, hfetch, hhead, hovf⟩
  case config =>
    rw [execQctlWrite_of_config h (.inl rfl), if_pos rfl]
    exact ⟨fun h4 h12 hen ht => congrArg _ (State.qctlWrite_disabled (s := s.withInbox rest) hready h4 h12 hen ht),
      fun hlg => congrArg _ (State.qctlWrite_badSize (s := s.withInbox rest) hready hlg)⟩
  case ring =>
    rw [execQctlWrite_of_config h (.inr rfl), if_neg (by decide)]
    exact congrArg _ (State.ringWrite_disabled (s := s.withInbox rest) hen)
  case record =>
    refine ⟨fun hb => ?_, fun x hx hok => ?_, fun x hx hok => ⟨fun hen => ?_, fun hen => ?_⟩⟩
    · subst hb
      exact execRecordFetch_failed hi hf
    · subst hx
      exact execRecordFetch_bad hi hf hok
    · subst hx
      exact execRecordFetch_entered hi hf hok hen
    · subst hx
      exact execRecordFetch_cancelled hi hf hok hen
  case order =>
    exact ⟨fun o h => execWorkOrderComplete_released h,
      fun h => ⟨fun o e l he ho => execWorkOrderComplete_faulted h he ho, fun o he hc => execWorkOrderComplete_complete h he hc,
        fun o he hc hd => execWorkOrderComplete_doomed h he hc hd⟩,
      fun o h => execWorkOrderTimeout_overdue h⟩
  case waits =>
    rw [State.closeOrder_waits h]
    exact ⟨rfl, fun x hx hid => ⟨s.endedOrder o st cause, State.mem_orders_modOrder hx hid, rfl, rfl⟩⟩

end Sys2Proof.Machine
end

section
/-!
PROOF. The operations that leave every residency as it is, and the present one in its place.
-/

namespace Sys2Proof.Machine

open Sys2Proof

/-- The residencies are the same, and the step concerns the same context. -/
structure State.Steady (s t : State) : Prop where
  res : t.res = s.res
  curRes : t.curRes = s.curRes
  curCtx : t.curCtx = s.curCtx

namespace State.Steady

variable {s t u : State}

theorem refl (s : State) : Steady s s := ⟨rfl, rfl, rfl⟩

theorem trans (h : Steady s t) (g : Steady t u) : Steady s u := ⟨g.res.trans h.res, g.curRes.trans h.curRes, g.curCtx.trans h.curCtx⟩

theorem r (h : Steady s t) : t.r = s.r := by rw [State.r, State.r, h.res, h.curRes]

theorem c (h : Steady s t) : t.c = s.c := by rw [State.c, State.c, h.r, h.curCtx]

end State.Steady

section
variable (s : State)

theorem State.steady_modCore (f : CoreSt → CoreSt) : Steady s (s.modCore f) := ⟨rfl, rfl, rfl⟩
theorem State.steady_post (i : Instr) : Steady s (s.post i) := ⟨rfl, rfl, rfl⟩
theorem State.steady_after (n : Nat) (i : Instr) : Steady s (s.after n i) := ⟨rfl, rfl, rfl⟩
theorem State.steady_setFifo (k : CtxNo) (l : List SfuReq) : Steady s (s.setFifo k l) := ⟨rfl, rfl, rfl⟩

theorem State.steady_sfuKick : Steady s s.sfuKick := by
  unfold State.sfuKick
  split
  · exact s.steady_post _
  · exact .refl s

theorem State.steady_rangeRemove (i : Option (Fin 32)) : Steady s (s.rangeRemove i) := by
  cases i with
  | none => exact .refl s
  | some i => exact ⟨rfl, rfl, rfl⟩

theorem State.steady_clearFifos : Steady s s.clearFifos := by
  unfold State.clearFifos
  extract_lets own cl s1
  have h1 : Steady s s1 := ⟨rfl, rfl, rfl⟩
  split
  · exact h1.trans s1.steady_sfuKick
  · exact h1

theorem State.steady_freeLane (t : Task) : Steady s (s.freeLane t) := by
  unfold State.freeLane
  split
  · exact .refl s
  · exact ⟨rfl, rfl, rfl⟩

theorem State.steady_leaveDone (b : Bool) : Steady s (s.leaveDone b) := by
  unfold State.leaveDone
  repeat' split
  all_goals exact ⟨rfl, rfl, rfl⟩

theorem State.steady_dropTasks (l : List Task) : Steady s (s.dropTasks l) := by
  induction l generalizing s with
  | nil => exact .refl s
  | cons t l ih => exact ((s.steady_freeLane t).trans (State.steady_leaveDone _ _)).trans (ih _)

theorem State.steady_reportEnd (r : Res) (ph : Phase) (cause : Option (BitVec 7)) : Steady s (s.reportEnd r ph cause) := by
  unfold State.reportEnd
  split
  · exact .refl s
  · exact ⟨rfl, rfl, rfl⟩

/-- An error report that comes back to the core is an arrival there. -/
theorem State.steady_emitFor_report (order : Nat) (d : Rank) (id : Nat) (cause : BitVec 7) (info : Word) : Steady s (s.emitFor order (.report d id cause info)) := by
  simp only [State.emitFor, State.deliverHere]
  repeat' split
  all_goals exact ⟨rfl, rfl, rfl⟩

theorem State.steady_dropRanges (k : ResNo) (keep : List (Fin 32)) : Steady s (s.dropRanges k keep) := by
  unfold State.dropRanges
  exact s.steady_modCore _

theorem State.steady_writeRecord (k : ResNo) (buf : Word) (m d st tag src : Nat) : Steady s (s.writeRecord k buf m d st tag src) := by
  unfold State.writeRecord
  exact s.steady_modCore _

theorem steady_refuseAll (k : ResNo) (l : List Recv) : State.Steady s (refuseAll k l s) := by
  induction l generalizing s with
  | nil => exact .refl s
  | cons v l ih => exact (s.steady_writeRecord k v.buf 0 0 5 0 0).trans (ih _)

theorem steady_endHeld (l : List Held) : State.Steady s (endHeld l s) := by
  induction l generalizing s with
  | nil => exact .refl s
  | cons v l ih =>
    refine .trans ?_ (ih _)
    unfold State.answer
    repeat' split
    · exact s.steady_post _
    · exact s.steady_emitFor_report ..
    · exact .refl s

theorem steady_closeOutputs (k : ResNo) (l : List Rank) : State.Steady s (closeOutputs k l s) := by
  induction l generalizing s with
  | nil => exact .refl s
  | cons o l ih => exact (s.steady_modCore _).trans (ih _)

end

/-- The end of a residency changes no other one (R401, R490). -/
theorem State.endRes_res (s : State) (k : ResNo) (ph : Phase) (cause : Option (BitVec 7)) :
    (s.endRes k ph cause).res = s.res.set k.val ((s.res.get k).ended ph) k.isLt ∧ (s.endRes k ph cause).curRes = s.curRes ∧ (s.endRes k ph cause).curCtx = s.curCtx := by
  unfold State.endRes
  extract_lets r s1 s2 s3 s4 s4' s5
  have h1 : Steady s s1 := (steady_refuseAll s k _).trans (steady_endHeld _ _)
  have h2 : Steady s s2 := by
    simp only [s2]
    split
    · exact h1.trans (steady_closeOutputs s1 _ _)
    · exact h1
  clear_value s2
  have h3 : s3.res = s.res.set k.val ((s.res.get k).ended ph) k.isLt := by
    rw [State.modRes_res, (s2.steady_dropRanges k _).res, h2.res]
  have hr : s3.curRes = s.curRes := by rw [State.modRes_curRes, (s2.steady_dropRanges k _).curRes, h2.curRes]
  have hc : s3.curCtx = s.curCtx := by rw [State.modRes_curCtx, (s2.steady_dropRanges k _).curCtx, h2.curCtx]
  have h4 : Steady s3 s4 := s3.steady_modCore _
  clear_value s4
  have h4' : Steady s3 s4' := (h4.trans (s4.steady_dropTasks _)).trans (State.steady_leaveDone _ _)
  have h5 : Steady s3 s5 := by
    simp only [s5]
    split
    · exact h4'.trans s4'.steady_clearFifos
    · exact h4'
  have h6 : Steady s3 ((s5.reportEnd r ph cause).post .residencySwitch) := (h5.trans (s5.steady_reportEnd _ _ _)).trans (State.steady_post _ _)
  exact ⟨h6.res.trans h3, h6.curRes.trans hr, h6.curCtx.trans hc⟩

end Sys2Proof.Machine
end

section
/-!
PROOF. The hard-wired registers (O9), the memories after reset (O3), and supervisor instructions in user mode (O34).
-/

namespace Sys2Proof.Machine

open Sys2Proof

/-! ### Reading back a register (R28) -/

/-- A register number that is neither of two half-way numbers is no multiple of the half. -/
theorem reg_not_void {n : Nat} {r : BitVec (n + 1)} (h0 : r ≠ 0) (hn : r.toNat ≠ 2 ^ n) : r.toNat % 2 ^ n ≠ 0 := by
  have hr : r.toNat < 2 ^ n + 2 ^ n := by have := r.isLt; omega
  have h : r.toNat ≠ 0 := fun e => h0 (BitVec.eq_of_toNat_eq e)
  by_cases hlt : r.toNat < 2 ^ n
  · rwa [Nat.mod_eq_of_lt hlt]
  · rw [Nat.mod_eq_sub_mod (by omega), Nat.mod_eq_of_lt (by omega)]
    omega

theorem Ctx.readS_write_same (c : Ctx) (v : Word) {r : BitVec 6} (h : r.toNat % 32 ≠ 0) : (c.write (.s r) v).readS r = v := by
  simp only [Ctx.write, Ctx.readS, if_neg h]
  exact vec_get_set_same _ ⟨r.toNat, r.isLt⟩ _

theorem Ctx.readS_write_other (c : Ctx) (v : Word) {r q : BitVec 6} (h : q ≠ r) : (c.write (.s r) v).readS q = c.readS q := by
  simp only [Ctx.write, Ctx.readS]
  split
  · rfl
  · split
    · rfl
    · exact vec_get_set_other _ ⟨r.toNat, r.isLt⟩ ⟨q.toNat, q.isLt⟩ _ fun e => h (BitVec.eq_of_toNat_eq (congrArg Fin.val e))

theorem Ctx.readP_write_same (c : Ctx) (v : Word) {r : BitVec 5} (h : r.toNat % 16 ≠ 0) : (c.write (.p r) v).readP r = v.getLsbD 0 := by
  simp only [Ctx.write, Ctx.readP, if_neg h]
  exact vec_get_set_same _ ⟨r.toNat, r.isLt⟩ _

theorem Ctx.readP_write_other (c : Ctx) (v : Word) {r q : BitVec 5} (h : q ≠ r) : (c.write (.p r) v).readP q = c.readP q := by
  simp only [Ctx.write, Ctx.readP]
  split
  · rfl
  · split
    · rfl
    · exact vec_get_set_other _ ⟨r.toNat, r.isLt⟩ ⟨q.toNat, q.isLt⟩ _ fun e => h (BitVec.eq_of_toNat_eq (congrArg Fin.val e))

/-- CALL outside a loop schedules the link in s31 and goes on at its target (R155). -/
theorem execCall_free (h : CHdr) (o : BitVec 16) (s : State) (hf : s.freeC h 1 = true) (hl : s.c.looping = false) :
    exec (.call h o) s = .next (s.ended (s.begun.result (.s 31) ((s.c.pc + BitVec.ofNat 14 s.bundleLen).zeroExtend 64) 1) (some (s.c.pc + o.truncate 14))) := by
  obtain ⟨hpc, -⟩ := s.begun_fields
  obtain ⟨-, -, hlen⟩ := s.begun_place
  have hl' : s.seen.c.looping = false := by
    obtain ⟨-, hloop, -⟩ := s.c.landed_rest
    rw [State.seen, State.modC_c, Ctx.looping, hloop]
    exact hl
  show runOne (opCall h o) s = _
  rw [runOne_free (opCall h o) s hf (fun n => by show illegalIf _ _ _ = _; rw [hl']; rfl) (fun _ => rfl) rfl rfl rfl rfl rfl rfl fun _ => rfl]
  show Host.Outcome.next (s.ended (s.begun.result (.s 31) (s.begun.pairAfter.zeroExtend 64) 1) (some ((s.begun.result _ _ _).offTarget o))) = _
  rw [State.offTarget, State.result_c, State.pairAfter, hlen, hpc]
  show Host.Outcome.next (s.ended _ (some (s.begun.c.pc + _))) = _
  rw [hpc]

/-- Settles O9, by what the write of a register changes, and CALL as an instruction with one result. -/
theorem hardWiredRegisters : Obligations.HardWiredRegisters := by
  intro c v
  refine ⟨⟨rfl, rfl, rfl, rfl⟩, ⟨rfl, rfl, rfl, rfl⟩, fun r h0 h32 => ?scalar, fun r h0 h16 => ?pred, fun h o s hf hl => ?call⟩
  case scalar =>
    have hr : r.toNat % 32 ≠ 0 := reg_not_void (n := 5) h0 fun e => h32 (BitVec.eq_of_toNat_eq e)
    exact ⟨c.readS_write_same v hr, fun q hq => c.readS_write_other v hq⟩
  case pred =>
    have hr : r.toNat % 16 ≠ 0 := reg_not_void (n := 4) h0 fun e => h16 (BitVec.eq_of_toNat_eq e)
    exact ⟨c.readP_write_same v hr, fun q hq => c.readP_write_other v hq⟩
  case call => exact execCall_free h o s hf hl

end Sys2Proof.Machine
end

section
/-!
PROOF. In user mode a supervisor instruction raises PRIVILEGE_FAULT (O34), and the memories after reset are canonical (O3).
-/

namespace Sys2Proof.Machine

open Sys2Proof

/-- Settles O3: no cell is listed. -/
theorem resetMemoryCanonical : Obligations.ResetMemoryCanonical := ⟨⟨rfl, rfl⟩, rfl, rfl⟩

/-- Landing what is due leaves the mode. -/
theorem State.seen_mode (s : State) : s.seen.c.mode = s.c.mode := by
  obtain ⟨-, -, hm, -⟩ := s.c.landed_rest
  rw [State.seen, State.modC_c, hm]

section
variable {h : CHdr} {s : State}

/-- A privilege fault of an instruction of slot K. -/
theorem runOne_privilege {o : Op} {v : Word} (hf : s.freeC h 1 = true) (hn : o.neg = h.n) (hg : o.guard = cGuard h) (hs : o.slot = .k)
    (hc : o.check 0 s.seen = some (issueTrap Cause.privilege 0 v)) : runOne o s = .next (s.takeTrap (issueTrap Cause.privilege 0 v)) :=
  runOne_trap_free o s _ _ _ _ hf hn hg (by rw [hs]; exact hc)

/-- The check of privilege comes first, and fails in user mode (R41, R130). -/
theorem supervisorOnly_user {t : State} (hm : t.c.mode = false) (ra : State → Word) (n : Nat) : supervisorOnly ra n t = some (issueTrap Cause.privilege n (ra t)) := by
  simp [supervisorOnly, hm]

/-- So does that of a CSR instruction on a supervisor register (R206). -/
theorem csrCheck_user {t : State} (hm : t.c.mode = false) (a : BitVec 5) {n : Nat} (hn : csrSuper n = true) (k : Nat) :
    csrCheck h a n k t = some (issueTrap Cause.privilege k (t.c.reg h.s a)) := by
  simp [csrCheck, hm, hn]

theorem csrSuper_of {n : Nat} (h1 : 0x100 ≤ n) (h2 : n < 0x200) : csrSuper n = true := by simp [csrSuper, h1, h2]

/-- A write of a supervisor register in user mode. -/
theorem runOne_opCsrWrite_user (hf : s.freeC h 1 = true) (hm : s.c.mode = false) (op : BitVec 2) (a : BitVec 5) {n : Nat} (h1 : 0x100 ≤ n) (h2 : n < 0x200) :
    runOne (opCsrWrite h op a n) s = .next (s.takeTrap (issueTrap Cause.privilege 0 (s.seen.c.reg h.s a))) := by
  refine runOne_privilege hf rfl rfl rfl ?_
  show (csrCheck h a n 0 s.seen <|> _) = _
  rw [csrCheck_user (s.seen_mode.trans hm) a (csrSuper_of h1 h2)]
  rfl

end

/-- Settles O34, by the check that each instruction makes first. -/
theorem supervisorOnlyInstructionsTrap : Obligations.SupervisorOnlyInstructionsTrap := by
  intro h a k j reg op ty hi s hf hm
  have hm' : s.seen.c.mode = false := s.seen_mode.trans hm
  have write (op : BitVec 2) {n : Nat} (h1 : 0x100 ≤ n) (h2 : n < 0x200) := runOne_opCsrWrite_user hf hm op a h1 h2
  have record (w : Bool) : (opRecord h a k w).check 0 s.seen = some (issueTrap Cause.privilege 0 (s.seen.c.reg h.s a)) := by
    show (supervisorOnly _ 0 s.seen <|> _) = _
    rw [supervisorOnly_user hm']
    rfl
  have spill (w : Bool) : (opSpillFill h a j w).check 0 s.seen = some (issueTrap Cause.privilege 0 (s.seen.c.reg h.s a)) := by
    show (supervisorOnly _ 0 s.seen <|> _) = _
    rw [supervisorOnly_user hm']
    rfl
  refine ⟨?sysret, runOne_privilege hf rfl rfl rfl (record true), runOne_privilege hf rfl rfl rfl (record false), ?accspill,
    runOne_privilege hf rfl rfl rfl (spill false), ?peerclr, fun h1 h2 => ⟨?csrr, write 0 h1 h2, write 1 h1 h2, write 2 h1 h2⟩,
    write op (by decide) (by decide), write op (by decide) (by decide), write op (by decide) (by decide), write op (by decide) (by decide), ?capkey, fun ht => ?extent⟩
  case sysret => exact runOne_privilege hf rfl rfl rfl (supervisorOnly_user hm' (fun _ => 0) 0)
  case accspill =>
    refine runOne_privilege hf rfl rfl rfl ?_
    show ((opSpillFill h a j true).check 0 s.seen <|> _) = _
    rw [spill true]
    rfl
  case peerclr =>
    refine runOne_privilege hf rfl rfl rfl ?_
    show (supervisorOnly _ 0 s.seen <|> _) = _
    rw [supervisorOnly_user hm']
    rfl
  case csrr => exact runOne_privilege hf rfl rfl rfl (csrCheck_user hm' a (csrSuper_of h1 h2) 0)
  case capkey => exact write op (by omega) (by cases hi <;> decide)
  case extent => exact write op (by omega) (by have := ty.isLt; have := k.isLt; have : ty.toNat ≠ 3 := fun e => ht (BitVec.eq_of_toNat_eq e); omega)

end Sys2Proof.Machine
end

section
/-!
PROOF. Entering the handler, and the end of a residency that traps in supervisor mode (O35).
-/

namespace Sys2Proof.Machine

open Sys2Proof

/-! ### What each part of entering the handler leaves of the present context (R379) -/

/-- A context whose status and replay record alone may differ. -/
def Ctx.besides (c : Ctx) (st : CtxStatus) (q : Option SfuReplay) : Ctx := { c with status := st, replay := q }

theorem State.useUp_place (s : State) (d : Option Deferred) : (s.useUp d).curRes = s.curRes ∧ (s.useUp d).curCtx = s.curCtx := by
  cases d with
  | none => exact ⟨rfl, rfl⟩
  | some d =>
    have h := State.steady_rangeRemove { s with res := s.res.map fun r => { r with deferred := r.deferred.erase d } } d.range
    exact ⟨h.curRes, h.curCtx⟩

/-- A deferred error that is used up leaves every context. -/
theorem State.useUp_c (s : State) (d : Option Deferred) : (s.useUp d).c = s.c := by
  cases d with
  | none => rfl
  | some d =>
    refine (State.steady_rangeRemove { s with res := s.res.map fun r => { r with deferred := r.deferred.erase d } } d.range).c.trans ?_
    simp [State.c, State.r, Vector.get_eq_getElem]

theorem Res.postError_ctx (r : Res) (e : ErrEntry) : (r.postError e).ctx = r.ctx := by
  unfold Res.postError
  split <;> rfl

theorem State.abortPacket_place (s : State) : s.abortPacket.curRes = s.curRes ∧ s.abortPacket.curCtx = s.curCtx := by
  unfold State.abortPacket
  split <;> exact ⟨rfl, rfl⟩

/-- So does the abort of an open packet (R262). -/
theorem State.abortPacket_c (s : State) : s.abortPacket.c = s.c := by
  unfold State.abortPacket
  split
  · rfl
  · exact State.modRes_c _ _ _ fun r => r.postError_ctx _

/-- A cancelled request of the present context is noted in its replay record (R238). -/
theorem State.cancelSfu_c (s : State) : (∃ q, (s.cancelSfu s.curCtx).c = s.c.besides s.c.status q) ∧
    (s.cancelSfu s.curCtx).curRes = s.curRes ∧ (s.cancelSfu s.curCtx).curCtx = s.curCtx := by
  unfold State.cancelSfu
  split
  · exact ⟨⟨s.c.replay, rfl⟩, rfl, rfl⟩
  · split
    · exact ⟨⟨s.c.replay, rfl⟩, rfl, rfl⟩
    next q l _ =>
      extract_lets s1
      have h1 : s1.c = s.c.besides s.c.status (some q.record) := (s.setFifo s.curCtx l).modC_c fun c => { c with replay := some q.record }
      have hr : s1.curRes = s.curRes := rfl
      have hc : s1.curCtx = s.curCtx := rfl
      clear_value s1
      split
      · have h := State.steady_sfuKick { s1 with cl := { s1.cl with sfuBusy := none } }
        exact ⟨⟨some q.record, h.c.trans h1⟩, h.curRes.trans hr, h.curCtx.trans hc⟩
      · exact ⟨⟨some q.record, h1⟩, hr, hc⟩

/-- A change of every context of the present residency, as the present one sees it. -/
theorem State.modR_mapCtx_c (s : State) (f : Ctx → Ctx) : (s.modR fun r => { r with ctx := r.ctx.map f }).c = f s.c := by
  rw [State.c, State.modR_r]
  exact Vector.getElem_map (xs := s.r.ctx) (i := s.curCtx.val) _ s.curCtx.isLt

theorem State.steady_emit_gangEnd (s : State) (b : Bool) : Steady s (s.emit (.gangEnd b)) := by
  rw [State.emit, State.emitFor_out s _ _ rfl]
  exact ⟨rfl, rfl, rfl⟩

/-- A gang that disbands may let a held context go on (R25). -/
theorem State.disband_c (s : State) (b : Bool) : ∃ st, (s.disband b).c = s.c.besides st s.c.replay := by
  unfold State.disband
  split
  · exact ⟨s.c.status, rfl⟩
  · extract_lets s1
    have h1 : Steady s s1 := (s.steady_modCore _).trans (State.steady_emit_gangEnd _ b)
    clear_value s1
    split
    · exact ⟨s.c.status, h1.c⟩
    · rw [State.modR_mapCtx_c, h1.c]
      split
      · exact ⟨.live, rfl⟩
      · exact ⟨s.c.status, rfl⟩

/-- The context of a user trap at the handler's first pair (R379). -/
theorem State.takeTrap_user (s : State) (q : TrapReq) (hm : s.c.mode = false) : ∃ st rp, (s.takeTrap q).c = { s.c.besides st rp with
    trap := ⟨q.cause, s.c.pc, s.c.last, q.info0, q.info1⟩, frozen := s.c.frozen ++ s.c.flight, flight := [], aside := some s.c.loop,
    loop := { s.c.loop with active := false, done := 0 }, mode := true, pc := s.r.handler, heldAt := none, verdict := none,
    heldAside := s.c.heldAt.map fun t => (s.c.pc, t, s.c.verdict) } := by
  have h0 := s.useUp_c q.drop
  have h1 : (if (s.useUp q.drop).ownsPacket then (s.useUp q.drop).abortPacket else s.useUp q.drop).c = s.c := by
    split
    · rw [State.abortPacket_c, h0]
    · exact h0
  unfold State.takeTrap
  rw [if_neg (by simp [hm])]
  extract_lets s0 s1 s2
  obtain ⟨⟨rp, h2⟩, -⟩ := s1.cancelSfu_c
  obtain ⟨st, h3⟩ := (s1.cancelSfu s1.curCtx).disband_c false
  refine ⟨st, rp, ?_⟩
  rw [State.modC_c, show s2.c = _ from h3, h2, show s1.c = _ from h1]
  rfl

/-! ### A trap in supervisor mode (R40, R376) -/

theorem landList_trap (l : List Flight) (c : Ctx) : (landList l c).trap = c.trap := by
  induction l generalizing c with
  | nil => rfl
  | cons f l ih => exact (ih _).trans (c.write_rest f.dest f.val).2.2.2.1

/-- Every context of an ended residency is FREE and keeps its trap record. -/
theorem Res.ended_ctx (r : Res) (ph : Phase) (k : CtxNo) : ((r.ended ph).ctx.get k).status = .free ∧ ((r.ended ph).ctx.get k).trap = (r.ctx.get k).trap := by
  have h : (r.ended ph).ctx.get k = _ := Vector.getElem_map (xs := r.ctx) (i := k.val) _ k.isLt
  rw [h]
  exact ⟨rfl, landList_trap _ _⟩

/-- The present residency after its own end. -/
theorem State.endRes_r (s : State) (ph : Phase) (cause : Option (BitVec 7)) : (s.endRes s.curRes ph cause).r = s.r.ended ph := by
  obtain ⟨h, hr, -⟩ := s.endRes_res s.curRes ph cause
  rw [State.r, h, hr, vec_get_set_same, State.r]

/-- Settles O35: in user mode by what each part of the entry leaves of the context, in supervisor mode by what the end of a residency leaves of it. -/
theorem trapEntry : Obligations.TrapEntry := by
  refine ⟨fun s q hm => ?user, fun s q hm => ?nested⟩
  case user =>
    obtain ⟨st, rp, h⟩ := s.takeTrap_user q hm
    rw [h]
    exact ⟨rfl, rfl, rfl, rfl, rfl, rfl, rfl, rfl, rfl⟩
  case nested =>
    let s1 := s.modC fun c => { c with trap := { c.trap with cause := Cause.nestedTrap, info0 := BitVec.ofNat 64 (q.cause.toNat + s.c.pc.toNat <<< 8), info1 := q.info0 } }
    have e : s.takeTrap q = s1.endRes s1.curRes .faulted (some Cause.nestedTrap) := by
      unfold State.takeTrap
      rw [if_pos hm]
      rfl
    have hr : (s.takeTrap q).r = s1.r.ended .faulted := by rw [e, State.endRes_r]
    have hc : (s.takeTrap q).c.trap = s1.c.trap := by
      rw [State.c, hr, e, (s1.endRes_res _ _ _).2.2]
      exact (s1.r.ended_ctx _ _).2
    have ht : s1.c.trap = { s.c.trap with cause := Cause.nestedTrap, info0 := BitVec.ofNat 64 (q.cause.toNat + s.c.pc.toNat <<< 8), info1 := q.info0 } :=
      congrArg Ctx.trap (s.modC_c _)
    rw [hc, hr, ht, Nat.shiftLeft_eq]
    exact ⟨rfl, rfl, rfl, rfl, fun k => (s1.r.ended_ctx _ k).1⟩

end Sys2Proof.Machine
end

section
/-!
PROOF. The control registers by CSR instruction and by row (O30): each write instruction does, at the end of its bundle, what its register's write does.
-/

namespace Sys2Proof.Machine

open Sys2Proof

section
variable {h : CHdr} {a : BitVec 5} {s : State}

/-- A register number that passes the check of CSR instructions (R206). -/
theorem csrCheck_none {n k : Nat} {t : State} (hc : csrCheck h a n k t = none) : csrKnown n = true ∧ (csrSuper n = true → t.c.mode = true) := by
  unfold csrCheck at hc
  dsimp only at hc
  cases hs : csrSuper n <;> cases hm : t.c.mode <;> cases hk : csrKnown n <;> simp_all

/-- CSRR reads its register at the latency of a load (R206). -/
theorem execCsrr_ready {reg : BitVec 12} (hr : (opCsrr h a reg).ready s = true) : exec (.csrr h a reg) s =
    .next (s.ended (((opCsrr h a reg).begun s).result (.s (regOf h.s a)) (((opCsrr h a reg).begun s).csrRead reg.toNat) 4) none) :=
  runOne_ready _ s hr rfl

/-- A write of a register with no rule of its own, at the end of the bundle (R206). -/
theorem runOne_opCsrWrite_put {op : BitVec 2} {n : Nat} (h1 : n ≠ 0x50) (h2 : n ≠ 0x118) (h3 : n ≠ 0x119) (hr : (opCsrWrite h op a n).ready s = true)
    {t : State} (ht : (opCsrWrite h op a n).begun s = t) : runOne (opCsrWrite h op a n) s = .next (s.ended (t.csrPut n (csrNew op (t.csrRead n) (t.c.reg h.s a))) none) := by
  rw [opCsrWrite_issued h op a n s hr, opCsrWrite_late h op a n h1 h2 h3, ht]

/-- The same, where the register's write is known as a change of the state. -/
theorem runOne_opCsrWrite_as {op : BitVec 2} {n : Nat} (h1 : n ≠ 0x50) (h2 : n ≠ 0x118) (h3 : n ≠ 0x119) {f : Word → State → State} (hf : ∀ v t, t.csrPut n v = f v t)
    (hr : (opCsrWrite h op a n).ready s = true) : runOne (opCsrWrite h op a n) s =
      .next (s.ended (f (csrNew op (((opCsrWrite h op a n).begun s).csrRead n) (((opCsrWrite h op a n).begun s).c.reg h.s a)) ((opCsrWrite h op a n).begun s)) none) := by
  rw [runOne_opCsrWrite_put h1 h2 h3 hr rfl, hf]

end

/-- Settles O30, by the write of each register. -/
theorem controlRegisterWrites : Obligations.ControlRegisterWrites := by
  refine ⟨fun h a reg s => ⟨fun hr => ?read, fun ⟨h1, h2, h3⟩ hr => ?_, fun ⟨h1, h2, h3⟩ hr => ?_, fun ⟨h1, h2, h3⟩ hr => ?_⟩, fun h op a k j ty hi s => ?rows⟩
  case read =>
    obtain ⟨hk, hm⟩ := csrCheck_none ((opCsrr h a reg).ready_check s hr)
    exact ⟨hk, fun hs => s.seen_mode.symm.trans (hm hs), execCsrr_ready hr⟩
  · exact runOne_opCsrWrite_put h1 h2 h3 hr rfl
  · exact runOne_opCsrWrite_put h1 h2 h3 hr rfl
  · exact runOne_opCsrWrite_put h1 h2 h3 hr rfl
  case rows =>
    have hk := k.isLt
    have hj := j.isLt
    refine ⟨fun hr => ?_, fun hr => ?_, fun hr => ?_, fun hr => ?_, fun hr => ?_, fun hr => ?_, fun hr => ?_, fun ht hr => ?_, fun hr => ?errqs, fun hr => ?_, fun hr => ?_, fun hr => ?capkey⟩
    · exact runOne_opCsrWrite_as (by decide) (by decide) (by decide) (fun v t => csrPut_splim t v) hr
    · exact runOne_opCsrWrite_as (by decide) (by decide) (by decide) (fun v t => csrPut_spbase t v) hr
    · exact runOne_opCsrWrite_as (by omega) (by omega) (by omega) (fun v t => csrPut_tshape t v k.toNat hk) hr
    · exact runOne_opCsrWrite_as (by omega) (by omega) (by omega) (fun v t => csrPut_ad t v j.toNat hj) hr
    · exact runOne_opCsrWrite_as (by decide) (by decide) (by decide) (fun v t => csrPut_accown t v) hr
    · exact runOne_opCsrWrite_as (by decide) (by decide) (by decide) (fun v t => csrPut_tileown t v) hr
    · exact runOne_opCsrWrite_as (by decide) (by decide) (by decide) (fun v t => csrPut_trestart t v) hr
    · have ht3 : ty.toNat < 3 := by
        have := ty.isLt
        have : ty.toNat ≠ 3 := fun e => ht (BitVec.eq_of_toNat_eq e)
        omega
      exact runOne_opCsrWrite_as (by omega) (by omega) (by omega) (fun v t => csrPut_extent t v ty.toNat k.toNat ht3 hk) hr
    case errqs =>
      show runOne (opCsrWrite h op a 0x50) s = _
      rw [opCsrWrite_issued h op a 0x50 s hr]
      rfl
    · exact runOne_opCsrWrite_as (by decide) (by decide) (by decide) (fun v t => csrPut_srlfsr t v) hr
    · exact runOne_opCsrWrite_as (by decide) (by decide) (by decide) (fun v t => csrPut_vshare t v) hr
    case capkey =>
      show runOne (opCsrWrite h op a (0x118 + hi.toNat)) s = _
      rw [opCsrWrite_issued h op a _ s hr]
      by_cases h0 : op = 0 <;> cases hi <;> simp [opCsrWrite, opCapkeyWrite, h0]

end Sys2Proof.Machine
end

section
/-!
PROOF. An aligned access to the user scratchpad with no range-table entry in its way issues (O23).
-/

namespace Sys2Proof.Machine

open Sys2Proof

/-- A format pointer of window 0 without blocks passes steps 1 to 3 of R49. -/
theorem Access.form_local {a : Access} (hw : ptrWin a.ptr = 0) (hb : ptrBlg a.ptr = 0) (hf : fmtKnown (ptrFmt a.ptr) = true) : a.form false = none := by
  simp [Access.form, hw, hb, hf]

/-- An offset below the end of the user scratchpad lies in it (R22). -/
theorem State.regionOf_user {s : State} {o : Nat} (h : o < s.r.userEnd) : s.regionOf o = some (.user, 0, s.r.userEnd - 1) := by
  simp [State.regionOf, h]

/-- An aligned access within the user scratchpad passes steps 4 to 8 of R49, in either mode. -/
theorem State.placeCheck_user {s : State} {a : Access} {lo hi : Nat} (hr : s.regionOf (ptrOff a.ptr) = some (.user, lo, hi)) (hlast : a.last ≤ hi)
    (hal : ptrOff a.ptr % a.align = 0) : s.placeCheck a = none := by
  refine (State.placeCheck.eq_1 s a).trans ?_
  rw [hr]
  simp only [gt_iff_lt, Nat.not_lt.mpr hlast, if_false, Region.denied, Bool.and_false, Bool.false_eq_true, reduceCtorEq, false_and, or_false, State.touches]
  rw [if_neg (by simp [hal])]
  rfl

section
variable {s : State} (hn : ∀ i, s.core.range.get i = none)
include hn

/-- With no range-table entry no access meets one (R302). -/
theorem State.rangeCheck_none (a : Access) : s.rangeCheck a = none := by
  unfold State.rangeCheck
  extract_lets hit failed
  have hh : hit = [] := List.filter_eq_nil_iff.mpr fun i _ => by simp [hn i]
  have hd : s.deferredIn failed = [] := by
    rw [State.deferredIn, List.filter_eq_nil_iff]
    intro d _
    split <;> simp [failed, hh]
  rw [hd, hh]
  simp [firstRecorded]

theorem State.stalled_none (a : Access) : s.stalled a = false := by
  simp [State.stalled, hn]

end

/-- Looking at the bundle leaves the state of its residency but for its contexts. -/
theorem State.replayBack_r (s : State) : { s.replayBack.r with ctx := s.r.ctx } = s.r := by
  have kick : ∀ t : State, t.sfuKick.r = t.r := fun t => t.steady_sfuKick.r
  have fifo : ∀ (t : State) (k : CtxNo) (l : List SfuReq), (t.setFifo k l).r = t.r := fun _ _ _ => rfl
  unfold State.replayBack
  dsimp only
  repeat' split
  all_goals simp [kick, fifo, Res.modCtx]

theorem State.accessRegion_user {s : State} {a : Access} (h : ptrOff a.ptr < s.r.userEnd) : s.accessRegion a = .user := by
  rw [State.accessRegion, s.regionOf_user h]
  rfl

/-- An access of the user scratchpad touches no group (R36). -/
theorem State.touches_user {s : State} {a : Access} (h : ptrOff a.ptr < s.r.userEnd) : s.touches (s.accessRegion a) = (false, false) := by
  rw [State.accessRegion_user h]
  rfl

/-- An access that is aligned within the user scratchpad, with nothing in its way (R20, R46, R49). -/
structure Access.Clear (a : Access) (s : State) : Prop where
  win : ptrWin a.ptr = 0
  blg : ptrBlg a.ptr = 0
  fmt : fmtKnown (ptrFmt a.ptr) = true
  some : 0 < a.len
  fits : ptrOff a.ptr + a.len ≤ s.r.userEnd
  aligned : ptrOff a.ptr % a.align = 0
  range : ∀ i, s.core.range.get i = none

namespace Access.Clear

variable {a : Access} {s : State} (u : a.Clear s)
include u

theorem lt : ptrOff a.ptr < s.r.userEnd := by
  have := u.fits
  have := u.some
  omega

/-- It passes every check of R49. -/
theorem check : s.checkAccess a = none := by
  have hlast : a.last ≤ s.r.userEnd - 1 := by
    have := u.fits
    have := u.some
    simp only [Access.last]
    omega
  rw [State.checkAccess, Access.form_local u.win u.blg u.fmt, State.placeCheck_user (State.regionOf_user u.lt) hlast u.aligned, State.rangeCheck_none u.range]
  rfl

/-- A load passes too, where no word of the core is in error (R377). -/
theorem checkLoad (hb : s.core.bad = []) : s.checkLoad a = none := by
  rw [State.checkLoad, u.check, State.badAt, State.regionOf_user u.lt]
  simp [hb, State.auxTags]

/-- It waits for nothing: no STALL entry meets it, and no task uses the user scratchpad (R217, R302). -/
theorem wait : (s.stalled a || s.busy (ptrOff a.ptr) a.len) = false := by
  rw [State.stalled_none u.range, State.busy, State.regionOf_user u.lt]
  rfl

/-- It takes no port of an accumulator bank (R96). -/
theorem bank : s.bankOf a = [] := by
  rw [State.bankOf, State.accessRegion_user u.lt]
  exact if_neg (by decide)

end Access.Clear

/-- The registers and the partition are those that the bundle reads, once a kept request is replayed. -/
theorem State.replayBack_landed (s : State) : (s.replayBack.modC Ctx.landed).r.userEnd = s.seen.r.userEnd ∧
    ∀ side x, (s.replayBack.modC Ctx.landed).c.reg side x = s.seen.c.reg side x := by
  constructor
  · rw [State.modC_r, State.seen, State.modC_r]
    exact (congrArg Res.userEnd s.replayBack_r :)
  · intro side x
    obtain ⟨r, k, hc⟩ := s.replayBack_c
    rw [State.modC_c, State.seen, State.modC_c, hc, Ctx.landed_aside3]
    rfl

/-- Settles O23: the access passes each step of R49, touches no group, and meets no entry. -/
theorem alignedScratchpadAccessIssues : Obligations.AlignedScratchpadAccessIssues := by
  intro h a b z k off s p hf hw hb hfmt hfit hal hn hbad
  have hend : s.seen.r.userEnd = s.r.userEnd := by rw [State.seen, State.modC_r]; rfl
  have u (w : Bool) (n : Nat) : (memAccess h b off.toInt (2 ^ z.toNat) (2 ^ z.toNat) w n s.seen).Clear s.seen :=
    ⟨hw, hb, hfmt, Nat.two_pow_pos _, by rw [hend]; exact hfit, hal, hn⟩
  have u' (w : Bool) : ptrOff (memAccess h b off.toInt (2 ^ z.toNat) (2 ^ z.toNat) w 0 (s.replayBack.modC Ctx.landed)).ptr < (s.replayBack.modC Ctx.landed).r.userEnd := by
    obtain ⟨he, hr⟩ := s.replayBack_landed
    rw [memAccess, he, hr]
    exact (u w 0).lt
  constructor
  · exact ((opLdExt h a b z k off).ready_of_free_at s (fun n => (u false n).checkLoad hbad) (State.touches_user (u false 0).lt) (State.touches_user (u' false))
      (u false 0).bank rfl rfl rfl (u false 0).wait rfl hf).1
  · exact ((opStExt h a b z off).ready_of_free_at s (fun n => (u true n).check) (State.touches_user (u true 0).lt) (State.touches_user (u' true))
      (u true 0).bank rfl rfl rfl (u true 0).wait rfl (s.free_mono _ _ 0 1 hf (by decide))).1

end Sys2Proof.Machine
end

section
/-!
PROOF. Slices, switches and a core that fails (O54). What the operations of a switch and of the end of a residency leave of the core's clock, of its switch and of the residency that issues.
-/

namespace Sys2Proof.Machine

open Sys2Proof

/-! ### The clock of the core and its turn -/

/-- The cycle, the switch in progress, the residency that issues, and the unit that has failed. -/
def CoreSt.turn (c : CoreSt) : BitVec 64 × Option Switch × Option ResNo × BitVec 4 := (c.cycle, c.switch, c.issuing, c.faultUnit)

/-- Two states of which the second has the first one's clock and turn. -/
def State.SameTurn (s t : State) : Prop := t.core.turn = s.core.turn

namespace State.SameTurn

variable {s t u : State}

theorem refl (s : State) : SameTurn s s := Eq.refl _

theorem trans (h : SameTurn s t) (g : SameTurn t u) : SameTurn s u := Eq.trans g h

theorem cycle (h : SameTurn s t) : t.core.cycle = s.core.cycle := congrArg (·.1) h

theorem issuing (h : SameTurn s t) : t.core.issuing = s.core.issuing := congrArg (·.2.2.1) h

theorem switch (h : SameTurn s t) : t.core.switch = s.core.switch := congrArg (·.2.1) h

theorem faultUnit (h : SameTurn s t) : t.core.faultUnit = s.core.faultUnit := congrArg (·.2.2.2) h

end State.SameTurn

section
variable (s : State)

theorem State.sameTurn_modCore (f : CoreSt → CoreSt) (hf : ∀ c, (f c).turn = c.turn) : SameTurn s (s.modCore f) := hf _

theorem State.sameTurn_modRes (k : ResNo) (f : Res → Res) : SameTurn s (s.modRes k f) := rfl
theorem State.sameTurn_modR (f : Res → Res) : SameTurn s (s.modR f) := rfl
theorem State.sameTurn_post (i : Instr) : SameTurn s (s.post i) := rfl

theorem State.sameTurn_as (k : ResNo) (f : State → State) (hf : ∀ t, SameTurn t (f t)) : SameTurn s (s.as k f) := hf { s with curRes := k }

/-- An item that arrives on this core brings an event, a byte count or a credit. -/
theorem State.sameTurn_deliverHere (order : Nat) (o : Out) : SameTurn s (s.deliverHere order o) := by
  cases o with
  | cast m ds =>
    have h : ∀ (l : List CastDst) (t : State), SameTurn t (l.foldl (fun s x => s.post (arrivalOf { m with dst := x.dst, seq := x.seq, scaleSeq := x.seq, sendId := x.sendId })) t) := by
      intro l
      induction l with
      | nil => exact fun t => .refl t
      | cons x l ih => exact fun t => .trans (t.sameTurn_post _) (ih _)
    exact h ds s
  | _ =>
    simp only [State.deliverHere]
    repeat' split
    all_goals rfl

theorem State.sameTurn_emitFor (order : Nat) (o : Out) : SameTurn s (s.emitFor order o) := by
  unfold State.emitFor
  repeat' split
  · rfl
  · exact s.sameTurn_deliverHere order o
  · rfl

theorem State.sameTurn_rangeRemove (i : Option (Fin 32)) : SameTurn s (s.rangeRemove i) := by
  cases i <;> rfl

theorem State.sameTurn_freeLane (t : Task) : SameTurn s (s.freeLane t) := by
  unfold State.freeLane
  split <;> rfl

theorem State.sameTurn_leaveDone (b : Bool) : SameTurn s (s.leaveDone b) := by
  unfold State.leaveDone
  repeat' split
  all_goals rfl

theorem State.sameTurn_wake : SameTurn s s.wake := by
  unfold State.wake
  split <;> rfl

theorem State.sameTurn_kick : SameTurn s s.kick := by
  unfold State.kick
  repeat' split
  all_goals rfl

theorem State.sameTurn_sfuKick : SameTurn s s.sfuKick := by
  unfold State.sfuKick
  split <;> rfl

theorem State.sameTurn_clearFifos : SameTurn s s.clearFifos := by
  unfold State.clearFifos
  extract_lets own cl s1
  have h1 : SameTurn s s1 := rfl
  split
  · exact h1.trans s1.sameTurn_sfuKick
  · exact h1

theorem State.sameTurn_disband (b : Bool) : SameTurn s (s.disband b) := by
  unfold State.disband
  split
  · exact .refl s
  · extract_lets s1
    have h1 : SameTurn s s1 := .trans (s.sameTurn_modCore _ fun _ => rfl) (State.sameTurn_emitFor _ _ _)
    split
    · exact h1
    · exact h1.trans (s1.sameTurn_modR _)

theorem State.sameTurn_dropTasks (l : List Task) : SameTurn s (s.dropTasks l) := by
  induction l generalizing s with
  | nil => exact .refl s
  | cons t l ih => exact ((s.sameTurn_freeLane t).trans (State.sameTurn_leaveDone _ _)).trans (ih _)

/-! ### The end of a residency -/

theorem sameTurn_refuseAll (k : ResNo) (l : List Recv) : State.SameTurn s (refuseAll k l s) := by
  induction l generalizing s with
  | nil => exact .refl s
  | cons v l ih =>
    refine .trans ?_ (ih _)
    unfold State.writeRecord
    exact s.sameTurn_modCore _ fun _ => rfl

theorem sameTurn_endHeld (l : List Held) : State.SameTurn s (endHeld l s) := by
  induction l generalizing s with
  | nil => exact .refl s
  | cons v l ih =>
    refine .trans ?_ (ih _)
    unfold State.answer
    repeat' split
    · exact s.sameTurn_post _
    · exact s.sameTurn_emitFor _ _
    · exact .refl s

theorem sameTurn_closeOutputs (k : ResNo) (l : List Rank) : State.SameTurn s (closeOutputs k l s) := by
  induction l generalizing s with
  | nil => exact .refl s
  | cons o l ih => exact .trans (s.sameTurn_modCore _ fun _ => rfl) (ih _)

theorem State.sameTurn_reportEnd (r : Res) (ph : Phase) (cause : Option (BitVec 7)) : SameTurn s (s.reportEnd r ph cause) := by
  unfold State.reportEnd
  split <;> rfl

theorem State.sameTurn_dropRanges (k : ResNo) (keep : List (Fin 32)) : SameTurn s (s.dropRanges k keep) := by
  simp only [SameTurn, State.dropRanges, CoreSt.turn, State.modCore]

/-- The end of a residency leaves the clock, and asks for a switch. -/
theorem State.sameTurn_endRes (k : ResNo) (ph : Phase) (cause : Option (BitVec 7)) : SameTurn s (s.endRes k ph cause) := by
  unfold State.endRes
  extract_lets r s1 s2 s3 s4 s4' s5
  have h1 : SameTurn s s1 := (sameTurn_refuseAll s k _).trans (sameTurn_endHeld _ _)
  have h2 : SameTurn s s2 := by
    simp only [s2]
    split
    · exact h1.trans (sameTurn_closeOutputs s1 _ _)
    · exact h1
  clear_value s2
  have h3 : SameTurn s s3 := (h2.trans (s2.sameTurn_dropRanges k _)).trans (State.sameTurn_modRes _ _ _)
  clear_value s3
  have g4 : SameTurn s3 s4 := rfl
  have h4 : SameTurn s s4 := h3.trans g4
  clear_value s4
  have h4' : SameTurn s s4' := (h4.trans (s4.sameTurn_dropTasks _)).trans (State.sameTurn_leaveDone _ _)
  have h5 : SameTurn s s5 := by
    simp only [s5]
    split
    · exact h4'.trans s4'.sameTurn_clearFifos
    · exact h4'
  exact (h5.trans (s5.sameTurn_reportEnd _ _ _)).trans (State.sameTurn_post _ _)

/-! ### Leaving and entering a residency (R384) -/

theorem State.sameTurn_giveLfsr (t : Task) : SameTurn s (s.giveLfsr t) := by
  unfold State.giveLfsr
  split <;> rfl

theorem State.sameTurn_modTask (id : Nat) (f : Task → Task) : SameTurn s (s.modTask id f) := rfl

theorem State.sameTurn_stopTask (t : Task) (b : Bool) : SameTurn s (s.stopTask t b) :=
  ((((s.sameTurn_giveLfsr t).trans (State.sameTurn_modTask _ _ _)).trans (State.sameTurn_freeLane _ _)).trans (State.sameTurn_leaveDone _ _)).trans (State.sameTurn_wake _)

theorem sameTurn_stopTasks (l : List Task) : State.SameTurn s (stopTasks l s) := by
  induction l generalizing s with
  | nil => exact .refl s
  | cons t l ih =>
    refine .trans ?_ (ih _)
    split
    · exact s.sameTurn_stopTask t _
    · exact .refl s

theorem State.sameTurn_finishTask (t : Task) : SameTurn s (s.finishTask t) := by
  unfold State.finishTask
  extract_lets s1 s2 s3
  have h0 : SameTurn s (s.modCore fun c => { c with tasks := c.tasks.filter fun x => x.id != t.id }) := rfl
  have h1 : SameTurn s s1 := (h0.trans (State.sameTurn_rangeRemove _ _)).trans (State.sameTurn_freeLane _ _)
  clear_value s1
  have h2 : SameTurn s s2 := by
    simp only [s2]
    split
    · exact h1.trans (s1.sameTurn_modRes _ _)
    · exact h1
  clear_value s2
  have h3 : SameTurn s s3 := by
    simp only [s3]
    split
    · exact h2.trans (s2.sameTurn_emitFor _ _)
    · exact h2
  exact (h3.trans (s3.sameTurn_leaveDone _)).trans (State.sameTurn_wake _)

theorem State.sameTurn_setTrestart (k : CtxNo) (v : Word) : SameTurn s (s.setTrestart k v) := by
  unfold State.setTrestart
  dsimp only
  repeat' split
  · exact .refl s
  · exact s.sameTurn_modTask _ _
  · exact s.sameTurn_finishTask _
  · exact s.sameTurn_finishTask _

theorem sameTurn_restartAll (was : CtxNo → Nat) (bs : List Byte) (l : List CtxNo) : State.SameTurn s (restartAll was bs l s) := by
  induction l generalizing s with
  | nil => exact .refl s
  | cons c l ih =>
    unfold restartAll
    refine .trans ?_ (ih _)
    split
    · exact .refl s
    · exact s.sameTurn_setTrestart _ _

theorem State.sameTurn_saveRes (k : ResNo) : SameTurn s (s.saveRes k) := by
  unfold State.saveRes
  refine s.sameTurn_as k _ fun t => ?_
  extract_lets ts img t1
  have h1 : SameTurn t t1 := by simp only [SameTurn, CoreSt.turn, t1, State.modCore, CoreSt.put]
  exact h1.trans (t1.sameTurn_modR _)

theorem State.sameTurn_loadRes (k : ResNo) : SameTurn s (s.loadRes k) := by
  unfold State.loadRes
  extract_lets bs ts was back s1
  have h1 : SameTurn s s1 := (s.sameTurn_modRes k _).trans (State.sameTurn_modCore _ _ fun _ => rfl)
  exact h1.trans (s1.sameTurn_as k _ fun t => sameTurn_restartAll t _ _ _)

theorem State.sameTurn_cancelAll (k : ResNo) : SameTurn s (s.cancelAll k) := (s.sameTurn_modRes k _).trans (State.sameTurn_clearFifos _)

theorem State.sameTurn_leaveRes (k : ResNo) : SameTurn s (s.leaveRes k) := by
  unfold State.leaveRes
  extract_lets s1
  have h1 : SameTurn s s1 := s.sameTurn_as k _ fun t => t.sameTurn_disband true
  split
  · exact ((h1.trans (sameTurn_stopTasks s1 _)).trans (State.sameTurn_cancelAll _ k)).trans (State.sameTurn_saveRes _ k)
  · exact h1

/-! ### The end of a slice -/

theorem State.mem_postOnce (i : Instr) : i ∈ (s.postOnce i).env.agenda := by
  unfold State.postOnce
  split
  case isTrue h => simpa using h
  case isFalse h => simp [State.post, State.modEnv]

theorem State.postOnce_core (i : Instr) : (s.postOnce i).core = s.core := by
  unfold State.postOnce
  split <;> rfl

theorem State.disband_gang (b : Bool) : (s.disband b).core.gang = none := by
  unfold State.disband
  split
  case h_1 h => exact h
  case h_2 =>
    extract_lets s1
    have h1 : s1.core.gang = none := by simp only [s1, State.emit, State.emitFor_out _ _ (.gangEnd b) rfl, State.modEnv_core, State.modCore_core]
    split
    · exact h1
    · exact h1

theorem State.endSlice_gang (k : ResNo) : (s.endSlice k).core.gang = none := by
  rw [State.endSlice, State.postOnce_core]
  exact State.disband_gang { s with curRes := k } true

/-! ### A switch -/

theorem State.sameTurn_reloadTouch (k : ResNo) : SameTurn s (s.reloadTouch k) := by
  unfold State.reloadTouch
  split <;> rfl

/-- What a task that must be asked for again leaves of a residency's slice. -/
theorem State.reloadTouch_slice (k : ResNo) : let r := s.res.get k; let q := (s.reloadTouch k).res.get k
    q.issued = r.issued ∧ q.slice = r.slice ∧ q.idle = r.idle := by
  unfold State.reloadTouch
  split
  · exact ⟨rfl, rfl, rfl⟩
  · simp [State.pendN, Res.modCtx]

theorem State.wake_res : s.wake.res = s.res := by
  unfold State.wake
  split <;> rfl

theorem State.kick_res : s.kick.res = s.res := by
  unfold State.kick
  repeat' split
  all_goals rfl

theorem State.beginSwitch_turn (j : ResNo) : let n := s.core.cycle + BitVec.ofNat 64 (s.switchCycles j); let t := s.beginSwitch j
    t.core.issuing = none ∧ t.core.switch = some ⟨s.core.issuing, j, n⟩ ∧ (n, Instr.residencySwitchDone) ∈ t.env.timers := by
  unfold State.beginSwitch
  extract_lets n1 m s1 t
  have h1 : s1.core.cycle = s.core.cycle := by
    simp only [s1]
    split
    · exact (s.sameTurn_leaveRes _).cycle
    · rfl
  clear_value s1
  subst t
  simp [State.after, State.modEnv, State.modCore, h1, n1, m]

end

/-- A switch that is due: the residency that comes in issues, at the start of its slice. -/
theorem execResidencySwitchDone_due {s : State} {w : Switch} (hw : s.core.switch = some w) (hd : w.due.toNat ≤ s.core.cycle.toNat) (hl : (s.res.get w.incoming).phase = .live) :
    ∃ t, execResidencySwitchDone s = .next t ∧ t.core.issuing = some w.incoming ∧ t.core.switch = none ∧
      (t.res.get w.incoming).issued = true ∧ (t.res.get w.incoming).slice = 0 ∧ (t.res.get w.incoming).idle = 0 := by
  unfold execResidencySwitchDone
  simp -zeta only [hw, Nat.not_lt.mpr hd, if_false]
  extract_lets j s1 s2 s3
  rw [if_neg (by simp [j, hl])]
  have h1 : s1.core.switch = none := rfl
  have h2 : s2.core.switch = none := by
    simp only [s2]
    split
    · exact (s1.sameTurn_loadRes _).switch.trans h1
    · exact h1
  clear_value s2
  have h3 : s3.core.issuing = some w.incoming ∧ s3.core.switch = none := ⟨rfl, h2⟩
  have hr : (s3.res.get w.incoming).issued = true ∧ (s3.res.get w.incoming).slice = 0 ∧ (s3.res.get w.incoming).idle = 0 := by
    simp [s3, j]
  clear_value s3
  have ht : State.SameTurn s3 (s3.reloadTouch w.incoming).wake.kick := ((s3.sameTurn_reloadTouch _).trans (State.sameTurn_wake _)).trans (State.sameTurn_kick _)
  obtain ⟨hi, hsl, hid⟩ := s3.reloadTouch_slice w.incoming
  refine ⟨_, rfl, ht.issuing.trans h3.1, ht.switch.trans h3.2, ?_⟩
  rw [State.kick_res, State.wake_res, hi, hsl, hid]
  exact hr

/-! ### A core that fails (R25) -/

section
variable {s : State} {u : BitVec 4} {k : ResNo}

theorem State.failRes_other {j : ResNo} (h : j ≠ k) : (s.failRes u j).res.get k = s.res.get k := by
  unfold State.failRes
  split
  · rw [(State.endRes_res _ _ _ _).1, State.modRes_res, vec_get_set_other _ _ _ _ (Ne.symm h), vec_get_set_other _ _ _ _ (Ne.symm h)]
  · rfl

theorem State.failRes_dead (h : (s.res.get k).phase.alive = false) : s.failRes u k = s := by
  simp [State.failRes, h]

theorem State.failRes_alive (h : (s.res.get k).phase.alive = true) : (s.failRes u k).res.get k = ((s.res.get k).checked u).ended .faulted := by
  rw [State.failRes, if_pos h, (State.endRes_res _ _ _ _).1, State.modRes_res, vec_get_set_same, vec_get_set_same]

theorem State.failRes_faultUnit (s : State) (u : BitVec 4) (k : ResNo) : (s.failRes u k).core.faultUnit = s.core.faultUnit := by
  unfold State.failRes
  split
  · exact (State.sameTurn_endRes _ _ _ _).faultUnit
  · rfl

/-- Each residency of a core that fails, in turn. -/
def failAll (l : List ResNo) (s : State) : State := l.foldl (fun s k => s.failRes s.core.faultUnit k) s

theorem failAll_dead (l : List ResNo) (s : State) (h : (s.res.get k).phase.alive = false) : (failAll l s).res.get k = s.res.get k := by
  induction l generalizing s with
  | nil => rfl
  | cons j l ih =>
    have hj : (s.failRes s.core.faultUnit j).res.get k = s.res.get k := by
      by_cases e : j = k
      · rw [e, State.failRes_dead h]
      · exact State.failRes_other e
    exact (ih _ (hj ▸ h)).trans hj

/-- A residency that lives ends once; what follows finds it FAULTED. -/
theorem failAll_alive (l : List ResNo) (s : State) (hk : k ∈ l) (h : (s.res.get k).phase.alive = true) :
    (failAll l s).res.get k = ((s.res.get k).checked s.core.faultUnit).ended .faulted := by
  induction l generalizing s with
  | nil => cases hk
  | cons j l ih =>
    by_cases e : j = k
    · subst e
      have hj := State.failRes_alive (u := s.core.faultUnit) h
      exact (failAll_dead l _ (by rw [hj]; rfl)).trans hj
    · have hj : (s.failRes s.core.faultUnit j).res.get k = s.res.get k := State.failRes_other e
      have := ih _ ((List.mem_cons.mp hk).resolve_left (Ne.symm e)) (hj ▸ h)
      rw [hj, State.failRes_faultUnit] at this
      exact this

end

/-- Settles O54: the turn of the core follows the switch, whatever the residencies that leave and enter do, and a core that fails ends each residency that lives once. -/
theorem schedulingResults : Obligations.SchedulingResults := by
  intro s k r
  refine ⟨fun hi => ⟨fun hs hx => ⟨fun hc => ?_, fun hc => ?_⟩, fun h => ?_, fun hx h => ?_⟩, fun l => rfl, State.mem_postOnce _ _, s.endSlice_gang k,
    fun hw hd => ⟨fun j hj => ?_, fun hj hi hl => ?_⟩, fun w hw hd hk hl => ?_, fun hu => ?_⟩
  · simp [exec, execSliceExpiry, hi, hc, hx, Nat.not_lt.mpr hs, r]
  · simp [exec, execSliceExpiry, hi, hc, hx, Nat.not_lt.mpr hs, r]
  · simp [exec, execSliceIdle, hi, show 256 ≤ (s.res.get k).idle from h]
  · simp [exec, execRoundSliceLimit, hi, show (s.res.get k).extended = true from hx, show 8 * sliceLen (s.res.get k).level ≤ (s.res.get k).slice from h]
  · exact ⟨_, by simp [exec, execResidencySwitch, hw, hd, hj], s.beginSwitch_turn j⟩
  · refine ⟨s.noSwitch, by simp [exec, execResidencySwitch, hw, hd, hj], ?_⟩
    have hn : s.noSwitch = s.modRes k fun r => { r with slice := 0, extended := false, idle := 0 } := by simp only [State.noSwitch, hi, show (s.res.get k).phase = .live from hl, beq_self_eq_true, if_true]
    rw [hn]
    exact ⟨hi, hw, by simp⟩
  · subst hk
    exact execResidencySwitchDone_due hw hd hl
  · refine ⟨failAll (List.finRange 4) s, (if_neg hu : execCoreMachineCheck s = _), fun ha => ?_⟩
    have hc := (((s.res.get k).checked s.core.faultUnit).ended_ctx .faulted 0).2
    rw [failAll_alive (List.finRange 4) s (List.mem_finRange k) ha, hc, Res.checked, Res.modCtx_get]
    exact ⟨rfl, rfl, rfl, rfl⟩

end Sys2Proof.Machine
end

section
/-!
PROOF. The instructions on registers alone (O12): the issue of a bundle and its results, and nothing else.
-/

namespace Sys2Proof.Machine

open Sys2Proof

/-! ### What is outside the present context -/

/-- Outside the present context the two states differ in yield sets, in the present residency's LFSR, and in what a step concerns beside residencies, servers, die and package. -/
structure State.Apart (s t : State) : Prop where
  srv : t.srv = s.srv
  die : t.die = s.die
  pkg : t.pkg = s.pkg
  curRes : t.curRes = s.curRes
  curCtx : t.curCtx = s.curCtx
  rest : ∀ k, { t.res.get k with ctx := (s.res.get k).ctx, lfsr := (s.res.get k).lfsr } = s.res.get k
  ctx : ∀ k c, ¬(k = s.curRes ∧ c = s.curCtx) → { (t.res.get k).ctx.get c with yields := ((s.res.get k).ctx.get c).yields } = (s.res.get k).ctx.get c
  lfsr : ∀ k, k ≠ s.curRes → (t.res.get k).lfsr = (s.res.get k).lfsr

namespace State.Apart

variable {s t u : State}

theorem of_res (h : t.res = s.res) (hs : t.srv = s.srv) (hd : t.die = s.die) (hp : t.pkg = s.pkg) (hr : t.curRes = s.curRes) (hc : t.curCtx = s.curCtx) :
    Apart s t :=
  ⟨hs, hd, hp, hr, hc, fun k => by rw [h], fun k c _ => by rw [h], fun k _ => by rw [h]⟩

theorem refl (s : State) : Apart s s := of_res rfl rfl rfl rfl rfl rfl

theorem trans (h : Apart s t) (g : Apart t u) : Apart s u where
  srv := g.srv.trans h.srv
  die := g.die.trans h.die
  pkg := g.pkg.trans h.pkg
  curRes := g.curRes.trans h.curRes
  curCtx := g.curCtx.trans h.curCtx
  rest k := by
    have e := h.rest k
    rw [← g.rest k] at e
    exact e
  ctx k c hk := by
    have e := h.ctx k c hk
    rw [← g.ctx k c (by rwa [h.curRes, h.curCtx])] at e
    exact e
  lfsr k hk := (g.lfsr k (by rwa [h.curRes])).trans (h.lfsr k hk)

end State.Apart

section
variable (s : State)

theorem State.apart_modCore (f : CoreSt → CoreSt) : Apart s (s.modCore f) := .of_res rfl rfl rfl rfl rfl rfl

theorem State.apart_setFifo (k : CtxNo) (l : List SfuReq) : Apart s (s.setFifo k l) := .of_res rfl rfl rfl rfl rfl rfl

theorem State.apart_sfuKick : Apart s s.sfuKick := by
  unfold State.sfuKick
  split
  · exact .of_res rfl rfl rfl rfl rfl rfl
  · exact .refl s

/-- A change of the present residency's contexts and LFSR. -/
theorem State.apart_modR (f : Res → Res) (hr : ∀ r, { f r with ctx := r.ctx, lfsr := r.lfsr } = r)
    (hc : ∀ r c, c ≠ s.curCtx → { (f r).ctx.get c with yields := (r.ctx.get c).yields } = r.ctx.get c) : Apart s (s.modR f) where
  srv := rfl
  die := rfl
  pkg := rfl
  curRes := rfl
  curCtx := rfl
  rest k := by
    by_cases h : k = s.curRes
    · subst h; simp only [State.modR_res, vec_get_set_same]; exact hr _
    · simp only [State.modR_res, vec_get_set_other _ _ _ _ h]
  ctx k c hk := by
    by_cases h : k = s.curRes
    · subst h; simp only [State.modR_res, vec_get_set_same]; exact hc _ c fun e => hk ⟨rfl, e⟩
    · simp only [State.modR_res, vec_get_set_other _ _ _ _ h]
  lfsr k h := by simp only [State.modR_res, vec_get_set_other _ _ _ _ h]

theorem State.apart_modC (f : Ctx → Ctx) : Apart s (s.modC f) :=
  s.apart_modR (fun r => r.modCtx s.curCtx f) (fun _ => rfl) fun r c h => by simp only [Res.modCtx_get_other _ _ _ _ h]

theorem State.apart_replayBack : Apart s s.replayBack := by
  unfold State.replayBack
  extract_lets k s1
  have h1 : Apart s s1 := s.apart_modC _
  clear_value s1
  repeat' split
  · exact .refl s
  · exact ((s.apart_setFifo _ _).trans (State.apart_modC _ _)).trans (State.apart_sfuKick _)
  · exact (h1.trans (s1.apart_setFifo _ _)).trans (State.apart_sfuKick _)
  · exact h1.trans (s1.apart_setFifo _ _)
  · exact .refl s

theorem State.apart_noteIssue : Apart s s.noteIssue := by
  unfold State.noteIssue
  extract_lets s1 s2
  have h1 : Apart s s1 := s.apart_modCore _
  clear_value s1
  have h2 : Apart s s2 := h1.trans (s1.apart_modR _ (fun _ => rfl) fun r c _ => by
    simp only [Vector.get_eq_getElem, Vector.getElem_map])
  clear_value s2
  split
  · exact h2.trans (s2.apart_modCore _)
  · exact h2

theorem State.apart_atFirst : Apart s s.atFirst := s.apart_modCore _

theorem State.apart_begun : Apart s s.begun :=
  ((s.apart_replayBack.trans (State.apart_noteIssue _)).trans (State.apart_modC _ Ctx.landed)).trans (State.apart_atFirst _)

/-- What the note of an issue writes into the core's own state. -/
theorem State.noteIssue_core : s.noteIssue.core = { s.core with lastCtx := s.curCtx, packet := s.noteIssue.core.packet, tagWrites := [], before := s.c, nestsBefore := s.r.nests, atPair := s.c.pc } := by
  unfold State.noteIssue
  split <;> rfl

theorem State.begun_core : s.begun.core = { s.core with lastCtx := s.curCtx, packet := s.begun.core.packet, tagWrites := [], before := s.begun.core.before, nestsBefore := s.r.nests, atPair := s.c.pc } := by
  obtain ⟨-, hc, -, hk⟩ := s.replayBack_place
  have hn : s.replayBack.r.nests = s.r.nests := congrArg (·.nests) s.replayBack_r
  have hb : s.begun.core = { s.replayBack.noteIssue.core with atPair := s.begun.c.pc + 0#14 } := rfl
  rw [hb, s.begun_fields.1, BitVec.add_zero, State.noteIssue_core, hk, hc, hn]

end

/-! ### What is left of the present context -/

/-- The registers and records of a context are the same, and its results in flight are more by results for the destinations that `P` allows. -/
structure Ctx.Adds (P : Dest → Prop) (c d : Ctx) : Prop where
  s : d.s = c.s
  p : d.p = c.p
  mode : d.mode = c.mode
  status : d.status = c.status
  trap : d.trap = c.trap
  aside : d.aside = c.aside
  frozen : d.frozen = c.frozen
  pending : d.pending = c.pending
  scratch : d.scratch = c.scratch
  flight : ∀ f ∈ d.flight, f ∈ c.flight ∨ P f.dest

namespace Ctx.Adds

variable {P : Dest → Prop} {c d e : Ctx}

theorem refl (c : Ctx) : Adds P c c := ⟨rfl, rfl, rfl, rfl, rfl, rfl, rfl, rfl, rfl, fun _ h => .inl h⟩

/-- A move of the program counter and of the loop. -/
theorem turn (c : Ctx) (l : LoopBuf) (p : Pair) : Adds P c { c with loop := l, pc := p } :=
  ⟨rfl, rfl, rfl, rfl, rfl, rfl, rfl, rfl, rfl, fun _ h => .inl h⟩

theorem trans (h : Adds P c d) (g : Adds P d e) : Adds P c e :=
  ⟨g.s.trans h.s, g.p.trans h.p, g.mode.trans h.mode, g.status.trans h.status, g.trap.trans h.trap, g.aside.trans h.aside, g.frozen.trans h.frozen,
    g.pending.trans h.pending, g.scratch.trans h.scratch, fun f hf => (g.flight f hf).elim (h.flight f) .inr⟩

theorem mono {Q : Dest → Prop} (h : Adds P c d) (hP : ∀ x, P x → Q x) : Adds Q c d :=
  { h with flight := fun f hf => (h.flight f hf).imp id (hP _) }

end Ctx.Adds

/-- Results of a context scheduled at issue (R99). -/
def Ctx.book (c : Ctx) (fs : List Flight) : Ctx := { c with flight := c.flight ++ fs }

theorem Ctx.adds_book {P : Dest → Prop} (c : Ctx) (fs : List Flight) (h : ∀ f ∈ fs, P f.dest) : c.Adds P (c.book fs) :=
  ⟨rfl, rfl, rfl, rfl, rfl, rfl, rfl, rfl, rfl, fun f hf => (List.mem_append.mp hf).imp id (h f)⟩

/-- A destination of the streams of the loop that the context runs (R160). -/
def Ctx.Streams (c : Ctx) (d : Dest) : Prop :=
  c.looping = true ∧ ∃ j : Fin 4, streamOn (c.loop.nest.stream.get j) = true ∧ d = .s (streamReg (c.loop.nest.stream.get j))

theorem streamWrites_adds (n : Nest) (i : Vector (BitVec 16) 6) (base : Vector Word 4) (c : Ctx) :
    c.Adds (fun d => ∃ j : Fin 4, streamOn (n.stream.get j) = true ∧ d = .s (streamReg (n.stream.get j))) (streamWrites n i base c) := by
  refine c.adds_book _ fun f hf => ?_
  obtain ⟨j, -, hj⟩ := List.mem_filterMap.mp hf
  simp only at hj
  split at hj
  case isTrue ho => cases hj; exact ⟨j, ho, rfl⟩
  case isFalse => cases hj

/-- The next bundle of the context: a pass of a loop that ends may schedule its streams. -/
theorem State.advance_adds (t : State) (was : Bool) (target : Option Pair) :
    t.c.Adds (fun d => was = true ∧ t.c.loop.active = true ∧ ∃ j : Fin 4, streamOn (t.c.loop.nest.stream.get j) = true ∧ d = .s (streamReg (t.c.loop.nest.stream.get j)))
      (t.advance was target).c := by
  unfold State.advance
  extract_lets l
  rw [State.modC_c]
  extract_lets d
  have hd : ∀ P, t.c.Adds P d := fun P => ⟨rfl, rfl, rfl, rfl, rfl, rfl, rfl, rfl, rfl, fun _ h => .inl h⟩
  have hl : d.loop = t.c.loop := rfl
  clear_value d
  split
  case isFalse => exact hd _
  case isTrue h =>
    simp only [Bool.and_eq_true] at h
    obtain ⟨⟨hw, ha⟩, -⟩ := h
    split
    case isFalse => exact (hd _).trans (.turn d _ d.pc)
    case isTrue =>
      simp only [loopStep]
      split
      · exact (hd _).trans (.turn d _ l)
      · refine (hd _).trans (.trans ((streamWrites_adds _ _ _ d).mono fun x hx => ⟨hw, ha, hl ▸ hx⟩) (.turn _ _ _))

theorem State.apart_advance (t : State) (was : Bool) (target : Option Pair) : Apart t (t.advance was target) := t.apart_modC _

theorem Ctx.landed_held (c : Ctx) : c.landed.status = c.status ∧ c.landed.aside = c.aside ∧ c.landed.frozen = c.frozen ∧ c.landed.pending = c.pending ∧ c.landed.scratch = c.scratch := by
  have hw : ∀ (c : Ctx) (d : Dest) (v : Word), (c.write d v).status = c.status ∧ (c.write d v).aside = c.aside ∧ (c.write d v).frozen = c.frozen ∧
      (c.write d v).pending = c.pending ∧ (c.write d v).scratch = c.scratch := by
    intro c d v
    cases d <;> simp only [Ctx.write] <;> split <;> exact ⟨rfl, rfl, rfl, rfl, rfl⟩
  have h : ∀ (l : List Flight) (c : Ctx), (landDue l c).status = c.status ∧ (landDue l c).aside = c.aside ∧ (landDue l c).frozen = c.frozen ∧
      (landDue l c).pending = c.pending ∧ (landDue l c).scratch = c.scratch := by
    intro l
    induction l with
    | nil => exact fun c => ⟨rfl, rfl, rfl, rfl, rfl⟩
    | cons f l ih =>
      intro c
      simp only [landDue]
      split
      · obtain ⟨h1, h2, h3, h4, h5⟩ := ih (c.write f.dest f.val)
        obtain ⟨g1, g2, g3, g4, g5⟩ := hw c f.dest f.val
        exact ⟨h1.trans g1, h2.trans g2, h3.trans g3, h4.trans g4, h5.trans g5⟩
      · exact ih c
  exact h _ _

theorem State.landed_begun (s : State) (P : Dest → Prop) : s.c.landed.Adds P s.begun.c := by
  obtain ⟨y, r, k, h⟩ := s.begun_c
  rw [h]
  exact ⟨rfl, rfl, rfl, rfl, rfl, rfl, rfl, rfl, rfl, fun _ hf => .inl hf⟩

/-! ### The effects of the instructions on registers -/

/-- An instruction on registers: its effect schedules results for the destinations `ds`, and may step the LFSR (R68, R99). -/
structure Op.Books (o : Op) (ds : List Dest) : Prop where
  touch : ∀ t, o.touch t = (false, false)
  late : ∀ t, o.late t = t
  after : ∀ t, o.after t = none
  eff : ∀ t : State, ∃ fs : List Flight, (∀ f ∈ fs, f.dest ∈ ds) ∧ State.Apart t (o.eff t) ∧ (o.eff t).core = t.core ∧ (o.eff t).c = t.c.book fs

section
variable (s : State)

theorem State.stepLfsr_c (m : BitVec 3) : (s.stepLfsr m).c = s.c := State.modRes_c s s.curRes _ fun _ => rfl

theorem State.apart_stepLfsr (m : BitVec 3) : Apart s (s.stepLfsr m) := s.apart_modR _ (fun _ => rfl) fun _ _ _ => rfl

end

namespace Op.Books

variable {o : Op} {ds : List Dest}

/-- No effect. -/
theorem still (ht : ∀ t, o.touch t = (false, false)) (hl : ∀ t, o.late t = t) (ha : ∀ t, o.after t = none) (he : ∀ t, o.eff t = t) : o.Books ds :=
  ⟨ht, hl, ha, fun t => ⟨[], fun f h => absurd h List.not_mem_nil, by rw [he]; exact ⟨.refl t, rfl, by simp [Ctx.book]⟩⟩⟩

/-- One result. -/
theorem one {d : Dest} {v : State → Word} {n : Nat} (hd : d ∈ ds) (ht : ∀ t, o.touch t = (false, false)) (hl : ∀ t, o.late t = t) (ha : ∀ t, o.after t = none)
    (he : ∀ t, o.eff t = t.result d (v t) n) : o.Books ds :=
  ⟨ht, hl, ha, fun t => ⟨[⟨d, v t, n⟩], fun f hf => (List.mem_singleton.mp hf) ▸ hd, by rw [he]; exact ⟨t.apart_modC _, rfl, t.result_c _ _ _⟩⟩⟩

/-- One rounded result, with the LFSR's step. -/
theorem rounded {d : Dest} {v : State → Word} {n : Nat} {m : BitVec 3} (hd : d ∈ ds) (ht : ∀ t, o.touch t = (false, false)) (hl : ∀ t, o.late t = t) (ha : ∀ t, o.after t = none)
    (he : ∀ t, o.eff t = (t.result d (v t) n).stepLfsr m) : o.Books ds :=
  ⟨ht, hl, ha, fun t => ⟨[⟨d, v t, n⟩], fun f hf => (List.mem_singleton.mp hf) ▸ hd, by
    rw [he]
    exact ⟨(t.apart_modC _).trans (State.apart_stepLfsr _ _), rfl, (State.stepLfsr_c _ _).trans (t.result_c _ _ _)⟩⟩⟩

theorem alu (h : AHdr) (d : BitVec 5) (n : Nat) (f : Ctx → Word) : (opAlu h d n f).Books [.s (regOf h.s d)] :=
  .one (v := fun s => f s.c) (List.mem_singleton_self _) (fun _ => rfl) (fun _ => rfl) (fun _ => rfl) fun _ => rfl

theorem int (h : AHdr) (d a b : BitVec 5) (x : Bool) (w : BitVec 3) (n : Nat) (f : Nat → Word → Word → Int) : (opInt h d a b x w n f).Books [.s (regOf h.s d)] := alu h d n _

theorem int1 (h : AHdr) (d a : BitVec 5) (w : BitVec 3) (f : Nat → Word → Int) : (opInt1 h d a w f).Books [.s (regOf h.s d)] := alu h d _ _

theorem shift (h : AHdr) (d a : BitVec 5) (w : Bool) (k : BitVec 6) (f : Nat → Word → Nat → Int) : (opShiftImm h d a w k f).Books [.s (regOf h.s d)] := alu h d _ _

theorem word (h : AHdr) (d a b : BitVec 5) (x : Bool) (n : Nat) (f : Word → Word → Word) : (opWord h d a b x n f).Books [.s (regOf h.s d)] := alu h d n _

theorem pred (h : AHdr) (p : BitVec 4) (n : Nat) (f : Ctx → Bool) : (opPred h p n f).Books [.p (predOf h.s p)] :=
  .one (v := fun s => BitVec.ofNat 64 (f s.c).toNat) (List.mem_singleton_self _) (fun _ => rfl) (fun _ => rfl) (fun _ => rfl) fun _ => rfl

theorem float (h : AHdr) (d : BitVec 5) (rm : BitVec 3) (st : Bool) (f : BitVec 32 → Ctx → Word) : (opRounded h d rm st f).Books [.s (regOf h.s d)] :=
  .rounded (v := fun s => f s.lfsr s.c) (List.mem_singleton_self _) (fun _ => rfl) (fun _ => rfl) (fun _ => rfl) fun _ => rfl

theorem dist (h : AHdr) (d a b : BitVec 5) (x : Bool) (t : BitVec 2) (f : Nat × Nat → Word → Word) : (opDist h d a b x t f).Books [.s (regOf h.s d)] :=
  .one (v := fun s => f (distOf (s.r.dtReg t) (s.c.reg h.s a)) (s.c.regX h.s b x)) (List.mem_singleton_self _) (fun _ => rfl) (fun _ => rfl) (fun _ => rfl) fun _ => rfl

theorem link (h : CHdr) (ra : State → Word) (t : State → Pair) : (withLink (opJump h ra t)).Books [.s 31] :=
  .one (v := fun s => s.pairAfter.zeroExtend 64) (List.mem_singleton_self _) (fun _ => rfl) (fun _ => rfl) (fun _ => rfl) fun _ => rfl

theorem jump (h : CHdr) (ra : State → Word) (t : State → Pair) : (opJump h ra t).Books ds :=
  .still (fun _ => rfl) (fun _ => rfl) (fun _ => rfl) fun _ => rfl

theorem held (h : CHdr) (ra : State → Word) (k : WaitKind) : (opWait h ra k).Books ds :=
  .still (fun _ => rfl) (fun _ => rfl) (fun _ => rfl) fun _ => rfl

theorem preds (h : AHdr) (a : BitVec 5) : (opPmovPut h a).Books (predDests h.s) :=
  ⟨fun _ => rfl, fun _ => rfl, fun _ => rfl, fun t => ⟨_, by
    intro f hf
    obtain ⟨j, hj, rfl⟩ := List.mem_map.mp hf
    exact List.mem_map.mpr ⟨j, hj, rfl⟩, t.apart_modC _, rfl, t.modC_c _⟩⟩

end Op.Books

/-- Every instruction on registers only schedules results. -/
theorem registersOnly_books {i : Instr} {o : Op} (h : registersOnly i = true) (ho : opOf i = some o) : o.Books (destsOf i) := by
  cases i
  case nop => cases ho; exact .still (fun _ => rfl) (fun _ => rfl) (fun _ => rfl) fun _ => rfl
  case waitch => cases ho; exact .still (fun _ => rfl) (fun _ => rfl) (fun _ => rfl) fun _ => rfl
  case br | bri | ret => cases ho; exact .jump _ _ _
  case call | calli => cases ho; exact .link _ _ _
  case waitErrq | waitCyc | waitFtime | waitHelpers => cases ho; exact .held _ _ _
  case limm h a sx imm => cases ho; exact .one (v := fun _ => if sx then imm.signExtend 64 else imm.zeroExtend 64) (List.mem_singleton_self _) (fun _ => rfl) (fun _ => rfl) (fun _ => rfl) fun _ => rfl
  case limmHi hd a imm => cases ho; exact .one (v := fun s => imm ++ (s.c.reg hd.s a).extractLsb' 0 32) (List.mem_singleton_self _) (fun _ => rfl) (fun _ => rfl) (fun _ => rfl) fun _ => rfl
  case csrr h a reg => cases ho; exact .one (v := fun s => s.csrRead reg.toNat) (List.mem_singleton_self _) (fun _ => rfl) (fun _ => rfl) (fun _ => rfl) fun _ => rfl
  case add | sub | mul | div | divu | rem | remu | shl | shr | sar | rol | min | max | minu | maxu => cases ho; exact .int _ _ _ _ _ _ _ _
  case clz | ctz | popc => cases ho; exact .int1 _ _ _ _ _
  case shli | shri | sari => cases ho; exact .shift _ _ _ _ _ _
  case mulh | mulhu | and | or | xor | andn | bfx | addp | addpE | fmin | fmax => cases ho; exact .word _ _ _ _ _ _ _
  case addi | bfi | sel | mov | pmovGet | xmov | pfmt | pfld | fclass => cases ho; exact .alu _ _ _ _
  case cmp | cmpi | plog | xmovP | fcmp => cases ho; exact .pred _ _ _ _
  case pmovPut => cases ho; exact .preds _ _
  case gdistCore | gdistOff => cases ho; exact .dist _ _ _ _ _ _ _
  case fadd | fsub | fmul | ffma | fcvt => cases ho; exact .float _ _ _ _ _
  all_goals exact absurd h Bool.false_ne_true

/-! ### The frame -/

/-- The issue of an instruction whose begin and effect are known. -/
theorem Op.begun_eq {o : Op} (ht : ∀ t, o.touch t = (false, false)) (s : State) : o.begun s = s.begun := by
  have h : resolveAll s.seen s.replayBack [o.alone] = s.replayBack := by simp [resolveAll, Op.alone, ht, resolve_none]
  rw [Op.begun, h]
  rfl

/-- What O12 says of the state `t` after the issue in a state `s` of an instruction whose results go to `ds`. -/
structure RegisterFrame (ds : List Dest) (s t : State) : Prop where
  apart : State.Apart s t
  core : t.core = { s.core with lastCtx := s.curCtx, packet := t.core.packet, tagWrites := [], before := t.core.before, nestsBefore := s.r.nests, atPair := s.c.pc }
  adds : s.c.landed.Adds (fun d => d ∈ ds ∨ s.c.Streams d) t.c

/-- The frame of an issue, where the effect keeps what is outside the context and the loop writes only its own streams. -/
theorem registerFrame_of {o : Op} {ds : List Dest} {s : State} (ht : ∀ t, o.touch t = (false, false)) (hl : ∀ t, o.late t = t)
    (ha : State.Apart s.begun (o.eff s.begun)) (hk : (o.eff s.begun).core = s.begun.core) (hc : s.begun.c.Adds (· ∈ ds) (o.eff s.begun).c)
    (hs : s.c.looping = true → (o.eff s.begun).c.loop.active = true → (o.eff s.begun).c.loop = s.c.loop) : RegisterFrame ds s (o.issued s) := by
  rw [Op.issued, Op.begun_eq ht, hl]
  refine ⟨(s.apart_begun.trans ha).trans (State.apart_advance _ _ _), (show _ = _ from ?_), ?_⟩
  · have hb := s.begun_core
    rw [← hk] at hb
    exact hb
  · refine ((s.landed_begun _).trans (hc.mono fun _ => .inl)).trans ((State.advance_adds _ _ _).mono fun d hd => .inr ?_)
    obtain ⟨hw, hact, hd⟩ := hd
    rw [hs hw hact] at hd
    exact ⟨hw, hd⟩

/-- An instruction that schedules results. -/
theorem registerFrame_books {i : Instr} {o : Op} (h : o.Books (destsOf i)) (s : State) : RegisterFrame (destsOf i) s (o.issued s) := by
  obtain ⟨fs, hfs, ha, hk, hc⟩ := h.eff s.begun
  refine registerFrame_of h.touch h.late ha hk (hc ▸ s.begun.c.adds_book fs hfs) fun _ _ => ?_
  rw [hc]
  exact s.begun_fields.2.1

/-- LOOP begins where no loop runs, so its own streams are not due at its bundle (R159). -/
theorem registerFrame_loop {h : CHdr} {k : BitVec 3} {cnt : BitVec 5} {s : State} (hr : (opLoop h k cnt).ready s = true) : RegisterFrame [] s ((opLoop h k cnt).issued s) := by
  have hl : s.c.looping = false := by
    have := illegalIf_none _ _ _ (Op.ready_check _ s hr)
    rwa [State.seen, State.modC_c, Ctx.looping, s.c.landed_rest.2.1] at this
  have hc : ((opLoop h k cnt).eff s.begun).c = _ := State.modC_c _ _
  refine registerFrame_of (fun _ => rfl) (fun _ => rfl) (State.apart_modC _ _) rfl (by rw [hc]; exact .turn _ _ _) fun hw => ?_
  rw [hl] at hw
  exact absurd hw Bool.false_ne_true

/-- LOOPX ends the loop. -/
theorem registerFrame_loopx (h : CHdr) (x : BitVec 16) (s : State) : RegisterFrame [] s ((opLoopx h x).issued s) := by
  have hc : ((opLoopx h x).eff s.begun).c = _ := State.modC_c _ _
  refine registerFrame_of (fun _ => rfl) (fun _ => rfl) (State.apart_modC _ _) rfl (by rw [hc]; exact .turn _ _ _) fun _ ha => ?_
  rw [hc] at ha
  exact absurd ha Bool.false_ne_true

/-- Settles O12: the issue notes itself, the effect schedules results, and a pass of a loop that ends schedules its streams; each keeps what is outside the present context. -/
theorem registerInstructionFrame : Obligations.RegisterInstructionFrame := by
  intro i o s hi ho hr
  have hf : (∀ t, o.after t = none) ∧ RegisterFrame (destsOf i) s (o.issued s) := by
    rcases hi with hi | hi
    · have hb := registersOnly_books hi ho
      exact ⟨hb.after, registerFrame_books hb s⟩
    · cases i
      case loop => cases ho; exact ⟨fun _ => rfl, registerFrame_loop hr⟩
      case loopx => cases ho; exact ⟨fun _ => rfl, registerFrame_loopx _ _ s⟩
      all_goals exact absurd hi Bool.false_ne_true
  obtain ⟨hx, ha, hk, hc⟩ := hf
  obtain ⟨h1, h2, h3, h4, h5⟩ := s.c.landed_held
  refine ⟨o.issued s, (exec_eq_runOne i o s ho).trans (runOne_ready o s hr (hx _)), ha.srv, ha.die, ha.pkg, ha.curRes, ha.curCtx, hk, ha.rest, ha.ctx, ha.lfsr,
    hc.s, hc.p, hc.mode.trans s.c.landed_rest.2.2.1, hc.status.trans h1, hc.trap.trans s.c.landed_rest.2.2.2.1, hc.aside.trans h2, hc.frozen.trans h3,
    hc.pending.trans h4, hc.scratch.trans h5, hc.flight⟩

end Sys2Proof.Machine
end

section
/-!
PROOF. A step runs the decoded instruction (O6): what the decoder returns has a meaning and stands in its own word, and a bundle of one word holds that instruction alone.
-/

namespace Sys2Proof.Machine

open Sys2Proof

/-! ### The instructions of the decoder's rows -/

/-- The word of its pair in which an instruction that a bundle can hold stands. -/
def wordOf (i : Instr) : Option Nat := (opOf i).map (·.slot.word)

theorem cRows_word : ∀ r ∈ cRows, ∀ w, wordOf (r.build w) = some 0 := by
  unfold cRows cRows0 cRows1 cRows2 cRows3 cRows4
  simp only [List.cons_append, List.nil_append, List.forall_mem_cons]
  repeat' refine And.intro (fun w => ?_) ?_
  case refine_2 => exact fun _ h => absurd h List.not_mem_nil
  all_goals
    obtain ⟨e, n, g, s⟩ := cHdr w
    cases s <;> rfl

theorem lRows_word : ∀ r ∈ lRows, ∀ w x, wordOf (r.build w x) = some 0 := by
  unfold lRows lRows0 lRows1 lRows2
  simp only [List.cons_append, List.nil_append, List.forall_mem_cons]
  repeat' refine And.intro (fun w x => ?_) ?_
  case refine_2 => exact fun _ h => absurd h List.not_mem_nil
  all_goals
    obtain ⟨e, n, g, s⟩ := cHdr w
    cases s <;> rfl

theorem aRows_word : ∀ r ∈ aRows, ∀ w, wordOf (r.build w) = some 1 := by
  unfold aRows aRows0 aRows1 aRows2 aRows3 aRows4 aRows5
  simp only [List.cons_append, List.nil_append, List.forall_mem_cons]
  repeat' refine And.intro (fun w => ?_) ?_
  case refine_2 => exact fun _ h => absurd h List.not_mem_nil
  all_goals
    obtain ⟨s, n, g⟩ := aHdr w
    cases s <;> rfl

theorem ite_word {b : Bool} {i j : Instr} {o : Option Instr} (hi : wordOf i = some 0) (ho : ∀ j, o = some j → wordOf j = some 0) (h : (if b then some i else o) = some j) :
    wordOf j = some 0 := by
  cases b
  · exact ho j h
  · exact Option.some.inj h ▸ hi

theorem ownRowOf_word {h : CHdr} {op : BitVec 2} {a : BitVec 5} {r : BitVec 12} : ∀ j, ownRowOf h op a r = some j → wordOf j = some 0 := by
  unfold ownRowOf
  intro j
  repeat' refine ite_word rfl fun j => ?_
  exact fun h => nomatch h

theorem ownRowFix_word {i : Instr} (h : wordOf i = some 0) : wordOf (ownRowFix i) = some 0 := by
  have own : ∀ (h : CHdr) (op : BitVec 2) (a : BitVec 5) (r : BitVec 12) (d : Instr), wordOf d = some 0 → wordOf ((ownRowOf h op a r).getD d) = some 0 := by
    intro h op a r d hd
    cases ho : ownRowOf h op a r with
    | none => exact hd
    | some j => exact ownRowOf_word j ho
  unfold ownRowFix
  split
  · exact own _ _ _ _ _ h
  · exact own _ _ _ _ _ h
  · exact own _ _ _ _ _ h
  · exact h

theorem accept_ok {i j : Instr} (h : accept i = .ok j) : j = i := by
  unfold accept at h
  split at h
  · exact (Except.ok.inj h).symm
  · cases h

/-- A chain of rejections answers nothing. -/
theorem error_ite {ε α : Type} {c : Prop} [Decidable c] {e : ε} {x : Except ε α} {i : α} (h : (if c then .error e else x) = .ok i) : x = .ok i := by
  split at h
  · cases h
  · exact h

theorem decodeC_ok {w : BitVec 32} {i : Instr} (h : decodeC w = .ok i) : ∃ r ∈ cRows, r.op = w.extractLsb' 22 8 ∧ i = r.build w := by
  unfold decodeC at h
  extract_lets op at h
  cases hr : cRows.find? fun r => r.op == op && r.fits w with
  | none =>
    rw [hr] at h
    cases error_ite (error_ite h)
  | some r =>
    rw [hr] at h
    have hop := List.find?_some hr
    simp only [Bool.and_eq_true, beq_iff_eq] at hop
    exact ⟨r, List.mem_of_find?_eq_some hr, hop.1, accept_ok h⟩

theorem decodeL_ok {w x : BitVec 32} {i : Instr} (h : decodeL w x = .ok i) : ∃ r ∈ lRows, i = ownRowFix (r.build w x) := by
  unfold decodeL at h
  extract_lets op at h
  cases hr : lRows.find? fun r => r.op == op && r.fits w x with
  | none =>
    rw [hr] at h
    cases error_ite (error_ite h)
  | some r =>
    rw [hr] at h
    exact ⟨r, List.mem_of_find?_eq_some hr, accept_ok h⟩

theorem decodeA_ok {w : BitVec 32} {i : Instr} (h : decodeA w = .ok i) : ∃ r ∈ aRows, i = r.build w := by
  unfold decodeA at h
  extract_lets op at h
  cases hr : aRows.find? fun r => r.op == op && r.fits w with
  | none =>
    rw [hr] at h
    cases h
  | some r =>
    rw [hr] at h
    exact ⟨r, List.mem_of_find?_eq_some hr, accept_ok h⟩

/-- The word of a pair in which the words of an instruction stand. -/
def standsIn : Code → Nat
  | .a _ => 1
  | _ => 0

theorem decode_c {w : BitVec 32} {i : Instr} (h : decode (.c w) = .ok i) : decodeC w = .ok i := error_ite h

/-- What the decoder gives back can stand in a bundle, in its own word. -/
theorem decode_word {c : Code} {i : Instr} (h : decode c = .ok i) : wordOf i = some (standsIn c) := by
  cases c with
  | a w =>
    obtain ⟨r, hr, rfl⟩ := decodeA_ok h
    exact aRows_word r hr w
  | c w =>
    obtain ⟨r, hr, -, rfl⟩ := decodeC_ok (decode_c h)
    exact cRows_word r hr w
  | l w x =>
    cases hl : w.getLsbD 31 with
    | false => simp only [decode, hl] at h; cases h
    | true =>
      simp only [decode, hl, if_true] at h
      obtain ⟨r, hr, rfl⟩ := decodeL_ok h
      exact ownRowFix_word (lRows_word r hr w x)

/-- The first row of the C-words is NOP's, and no other has its opcode. -/
theorem decode_empty {w : BitVec 32} {i : Instr} (h : decode (.c w) = .ok i) (he : isEmpty w (.c w) = true) : ∃ k, i = .nop k := by
  have ht : ∀ r ∈ cRows.tail, r.op ≠ 0 := by decide
  obtain ⟨r, hr, hop, rfl⟩ := decodeC_ok (decode_c h)
  have h0 : r.op = 0 := hop.trans (beq_iff_eq.mp he)
  rw [← List.cons_head_tail (l := cRows) (by decide)] at hr
  rcases List.mem_cons.mp hr with hm | hm
  · exact ⟨_, by rw [hm]; rfl⟩
  · exact absurd h0 (ht r hm)

/-! ### A bundle of one word (R84, R104) -/

/-- A pair that reads as one instruction: one word, or a word 2 beside the empty first word (R85, R86). -/
def Reads (w : BitVec 64) (i : Instr) : Prop :=
  w.getLsbD 30 = true ∧
    ((decode (firstCode w) = .ok i ∧ (w.getLsbD 31 = true ∨ aHalf w = 0)) ∨ (cHalf w = 0x40000000 ∧ aHalf w ≠ 0 ∧ decode (.a (aHalf w)) = .ok i))

theorem slotOver_one (f : FWord) : slotOver [] [f] = none := by
  have : ¬ f.slot.limit ≤ 0 := by cases f.slot <;> decide
  simp [slotOver, this]

theorem destTwice_one (f : FWord) : destTwice [] [f] = none := by
  simp [destTwice]

theorem decodeBundle_one {w : BitVec 64} {f : FWord} (h : decodePairs 0 [w] = .ok [f]) : decodeBundle [w] = .ok ([f], 1) := by
  simp only [decodeBundle, h, bundleFault, slotOver_one, destTwice_one, List.length_singleton]

theorem decodeBundle_none {w : BitVec 64} (h : decodePairs 0 [w] = .ok []) : decodeBundle [w] = .ok ([], 1) := by
  simp only [decodeBundle, h, bundleFault, slotOver, destTwice, List.length_singleton]

theorem decodeWord_empty (whole : BitVec 64) : decodeWord (.a 0) 0 0 1 whole = .ok [] := rfl

/-- The pair gives the instruction alone, in its own word; or nothing, where it is a NOP. -/
theorem decodePairs_reads {w : BitVec 64} {i : Instr} (h : Reads w i) :
    (∃ c, decode c = .ok i ∧ decodePairs 0 [w] = .ok [⟨i, slotOf c, 0, standsIn c⟩]) ∨ (decodePairs 0 [w] = .ok [] ∧ ∃ k, i = .nop k) := by
  obtain ⟨-, ⟨hd, hw⟩ | ⟨hc, ha, hd⟩⟩ := h
  · have hb : (if w.getLsbD 31 then .ok [] else decodeWord (.a (aHalf w)) (aHalf w) 0 1 w) = (.ok [] : Except TrapReq (List FWord)) := by
      rcases hw with hw | hw
      · rw [if_pos hw]
      · rw [hw, decodeWord_empty, ite_self]
    have ha : decodeWord (firstCode w) (cHalf w) 0 0 w = .ok (if isEmpty (cHalf w) (firstCode w) then [] else [⟨i, slotOf (firstCode w), 0, 0⟩]) := by
      simp only [decodeWord, hd]
    have hcw : standsIn (firstCode w) = 0 := by
      unfold firstCode
      split <;> rfl
    cases he : isEmpty (cHalf w) (firstCode w) with
    | false =>
      refine .inl ⟨firstCode w, hd, ?_⟩
      simp only [decodePairs, ha, hb, he, hcw]
      rfl
    | true =>
      have hf : firstCode w = .c (cHalf w) := by
        unfold firstCode at he ⊢
        split at he
        · cases he
        · rename_i h31
          rw [if_neg h31]
      refine .inr ⟨?_, decode_empty (hf ▸ hd) (hf ▸ he)⟩
      simp only [decodePairs, ha, hb, he]
      rfl
  · have h31 : w.getLsbD 31 = false := by
      have : (cHalf w).getLsbD 31 = false := by rw [hc]; rfl
      simpa [cHalf] using this
    have hf : firstCode w = .c 0x40000000 := by rw [firstCode, h31, hc]; rfl
    have h0 : decodeWord (.c 0x40000000) 0x40000000 0 0 w = .ok [] := by
      have : ∃ j, decode (.c 0x40000000) = .ok j := ⟨.nop (cHdr 0x40000000), by decide⟩
      obtain ⟨j, hj⟩ := this
      simp only [decodeWord, hj]
      rfl
    have h1 : decodeWord (.a (aHalf w)) (aHalf w) 0 1 w = .ok [⟨i, slotOf (.a (aHalf w)), 0, 1⟩] := by
      have he : isEmpty (aHalf w) (.a (aHalf w)) = false := by rw [isEmpty, beq_eq_false_iff_ne]; exact ha
      simp only [decodeWord, hd, he]
      rfl
    refine .inl ⟨_, hd, ?_⟩
    simp only [decodePairs, hf, hc, h0, h31, h1]
    rfl

/-! ### An empty bundle (R86) -/

theorem bundleTrap_nop (h : CHdr) (v : State) : bundleTrap v [(opNop h).alone] = bundleTrap v [] := by
  simp only [bundleTrap, slotOrder_alone]
  rfl

/-- The note of the issue has turned the core to the first pair already. -/
theorem State.atFirst_noteIssue (g : State) : (g.noteIssue.modC Ctx.landed).atFirst = g.noteIssue.modC Ctx.landed := by
  obtain ⟨y, hy⟩ := g.noteIssue_c
  have hp : (g.noteIssue.modC Ctx.landed).c.pc = g.c.pc := by rw [State.modC_c, Ctx.landed_rest _ |>.1, hy]; rfl
  have ha : g.noteIssue.core.atPair = g.c.pc := by rw [State.noteIssue_core]
  rw [State.atFirst, hp, BitVec.add_zero, ← ha]
  rfl

theorem State.issue_nop (g : State) (h : CHdr) : g.issue [] = g.issue [(opNop h).alone] := by
  rw [State.issue_alone g (opNop h) rfl]
  show _ = (g.noteIssue.modC Ctx.landed).atFirst.advance g.c.looping none
  rw [State.atFirst_noteIssue]
  rfl

/-- A bundle without words does what a NOP does. -/
theorem runPlaced_nop (h : CHdr) (s : State) : runPlaced [] s = runPlaced [(opNop h).alone] s := by
  have hl : liveOps (s.modC Ctx.landed) [(opNop h).alone] = [(opNop h).alone] ∨ liveOps (s.modC Ctx.landed) [(opNop h).alone] = [] := by
    cases hv : (opNop h).live (s.modC Ctx.landed) <;> simp [liveOps, Op.alone, hv]
  rcases hl with hl | hl
  · have h0 : liveOps (s.modC Ctx.landed) [] = [] := rfl
    have hw : mustWait (s.modC Ctx.landed) [(opNop h).alone] = mustWait (s.modC Ctx.landed) [] := rfl
    have hr : ∀ v t : State, resolveAll v t [(opNop h).alone] = resolveAll v t [] := fun _ _ => rfl
    have hh : ∀ t : State, held t [(opNop h).alone] = held t [] := fun _ => rfl
    have ha : ∀ t, applyAsk (slotOrder [(opNop h).alone]) t = applyAsk (slotOrder []) t := fun t => by rw [slotOrder_alone]; rfl
    simp only [runPlaced, hl, h0, bundleTrap_nop, hw, hr, hh, ha, ← State.issue_nop]
  · simp only [runPlaced, hl]
    rfl

/-! ### The step -/

/-- A pair that ends a bundle, at a place that can be fetched (R84, R104). -/
theorem State.fetchBundle_one {s : State} {p : Pair} (hr : s.r.inRange p = true) (hb : s.badPair p = false) (he : (s.pairAt p).getLsbD 30 = true) :
    s.fetchBundle p = decodeBundle [s.pairAt p] := by
  have h : s.fetchPairs 4 p = .ok ([s.pairAt p], true) := by simp [State.fetchPairs, hr, hb, he]
  simp only [State.fetchBundle, h]
  rfl

theorem State.fetchPairs_bundleLen (s : State) (m n : Nat) (p : Pair) : ({ s with bundleLen := m } : State).fetchPairs n p = s.fetchPairs n p := by
  induction n generalizing p with
  | zero => rfl
  | succ n ih => simp only [State.fetchPairs, ih]; rfl

/-- The length of the bundle before does not enter into the next one. -/
theorem State.nextBundle_bundleLen (s : State) (m : Nat) : ({ s with bundleLen := m } : State).nextBundle = s.nextBundle := by
  simp only [State.nextBundle, State.fetchBundle, State.fetchPairs_bundleLen]
  rfl

theorem State.bundleHeld_bundleLen (s : State) (m : Nat) : ({ s with bundleLen := m } : State).bundleHeld = s.bundleHeld := by
  rw [State.bundleHeld, State.bundleHeld, State.nextBundle_bundleLen]
  rfl

/-- The context's bundle is the pair `w` alone, from its own fetch or from its gang's leader (R24, R84). -/
theorem State.nextBundle_one {s : State} {i : Instr} (h : (s.follows = false ∧ s.r.inRange s.c.pc = true ∧ s.badPair s.c.pc = false ∧ Reads (s.pairAt s.c.pc) i) ∨
    (s.follows = true ∧ ∃ w, s.core.gangIn.fetched = some [w] ∧ Reads w i)) : ∃ w, s.nextBundle = decodeBundle [w] ∧ Reads w i := by
  rcases h with ⟨hf, hr, hb, hw⟩ | ⟨hf, w, hg, hw⟩
  · exact ⟨_, by rw [State.nextBundle, hf, if_neg Bool.false_ne_true, State.fetchBundle_one hr hb hw.1], hw⟩
  · exact ⟨w, by rw [State.nextBundle, hf, if_pos rfl, hg]; rfl, hw⟩

/-- A bundle that reads as one instruction runs it. -/
theorem State.runBundle_reads {s : State} {i : Instr} {w : BitVec 64} (hp : s.pendingTrap = none) (hb : s.c.barred = false) (hn : s.nextBundle = decodeBundle [w]) (hw : Reads w i) :
    exec i { s with bundleLen := 1 } = .next s.runBundle := by
  rcases decodePairs_reads hw with ⟨c, hd, hone⟩ | ⟨hnone, k, rfl⟩
  · obtain ⟨o, ho, hs⟩ := Option.map_eq_some_iff.mp (decode_word hd)
    have hpl : placeAll 0 [⟨i, slotOf c, 0, standsIn c⟩] = [o.alone] := by simp only [placeAll, ho, Op.alone, hs]
    rw [exec_eq_runOne i o _ ho]
    simp only [State.runBundle, hp, hb, hn, decodeBundle_one hone, hpl, Option.isSome_none, Bool.or_false, Bool.false_eq_true, if_false]
    rfl
  · rw [exec_eq_runOne _ (opNop k) _ rfl]
    simp only [State.runBundle, hp, hb, hn, decodeBundle_none hnone, placeAll, Option.isSome_none, Bool.or_false, Bool.false_eq_true, if_false, runPlaced_nop k]
    rfl

theorem State.runBundle_one (s : State) {i : Instr} : let t : State := { s with bundleLen := 1 }
    t.pendingTrap = none → t.c.barred = false → (∃ w, t.nextBundle = decodeBundle [w] ∧ Reads w i) → exec i t = .next s.runBundle := by
  intro t hp hb ⟨w, hn, hw⟩
  rw [State.nextBundle_bundleLen] at hn
  exact State.runBundle_reads hp hb hn hw

/-- The cycle in which a context issues (R12). -/
theorem step_issues {s : State} {k : ResNo} {c : CtxNo} (ho : s.pkg.off = false) (ht : s.env.turns = []) (ha : s.env.agenda = []) (hk : s.cycleStart.issuer = some k)
    (hc : (s.cycleStart.poise k).2 = some c) : let t := (s.cycleStart.poise k).1.at k c
    step s = .next ((if t.bundleHeld then t.runBundle else t.runBundle.gangStep).watchRes k).tick := by
  have hturn : s.turn = (none, s) := by simp only [State.turn, ht, ha]
  simp only [step, hturn, State.issueCycle, ho, hk, State.issueFor, hc, Bool.false_eq_true, if_false]

/-- An arrival whose turn it is, at a package that hears it. -/
theorem step_arrival {s t : State} {i : Instr} (h : s.turn = (some i, t)) (ho : s.pkg.off = false ∨ i = .packageReset) : step s = exec i t := by
  have hd : s.deaf i = false := by
    rcases ho with ho | ho
    · simp [State.deaf, ho]
    · simp [State.deaf, ho]
  simp only [step, h, hd, Bool.false_eq_true, if_false]

/-- Settles O6: the decoder's one instruction is the whole bundle, in its own slot; and the schedule of turns gives the step its arrival. -/
theorem stepRunsDecodedInstruction : Obligations.StepRunsDecodedInstruction := by
  refine ⟨?_, fun s i l n ts => ⟨fun ht hag ho => ?_, fun ht hag ho => ?_, fun ht hag ho hi => ?_, fun ht hag ho => ?_, fun ht ho => ?_⟩⟩
  · intro s k c i ho ht hag hk hc t reads hp hb h
    have hh : t.bundleHeld = ((s.cycleStart.poise k).1.at k c).bundleHeld := State.bundleHeld_bundleLen _ 1
    refine ⟨_, State.runBundle_one ((s.cycleStart.poise k).1.at k c) hp hb (State.nextBundle_one (s := t) h), ?_⟩
    rw [hh]
    exact step_issues ho ht hag hk hc
  · have hturn : s.turn = (some i, s.modEnv fun e => { e with agenda := l }) := by simp only [State.turn, ht, hag]
    exact step_arrival hturn ho
  · have hturn : s.turn = (some i, s.modEnv fun e => { e with turns := ts, agenda := s.env.agenda.eraseIdx n }) := by simp only [State.turn, ht, hag]
    exact step_arrival hturn ho
  · have hturn : s.turn = (some i, s.modEnv fun e => { e with agenda := l }) := by simp only [State.turn, ht, hag]
    have hd : s.deaf i = true := by simp [State.deaf, ho, hi]
    simp only [step, hturn, hd, if_true]
  · have hturn : s.turn = (none, s) := by simp only [State.turn, ht, hag]
    simp only [step, hturn, State.issueCycle, ho, if_true]
  · have hturn : s.turn = (none, s.modEnv fun e => { e with turns := ts }) := by simp only [State.turn, ht]
    have hs : step s = .next (s.modEnv fun e => { e with turns := ts }).issueCycle := by simp only [step, hturn]
    exact ⟨_, hs, hs⟩

end Sys2Proof.Machine
end

section
/-!
PROOF. The issue of a bundle that touches a group: the group is granted, and where the bundle is not held the grant has cleared nothing (R36).
-/

namespace Sys2Proof.Machine

open Sys2Proof

/-! ### A grant (R36) -/

section
variable (s : State) (k : ResNo)

theorem State.grantAcc_core (h : (s.grantAcc k).core.accClear = none) : (s.grantAcc k).core = s.core := by
  unfold State.grantAcc at h ⊢
  dsimp only at h ⊢
  split
  case isTrue => rfl
  case isFalse ht =>
    rw [if_neg ht] at h
    exact absurd h (Option.some_ne_none _)

theorem State.grantTile_core (h : (s.grantTile k).core.tileClear = none) : (s.grantTile k).core = s.core := by
  unfold State.grantTile at h ⊢
  dsimp only at h ⊢
  split
  case isTrue => rfl
  case isFalse ht =>
    rw [if_neg ht] at h
    exact absurd h (Option.some_ne_none _)

theorem State.grantTile_accClear : (s.grantTile k).core.accClear = s.core.accClear := by
  unfold State.grantTile
  dsimp only
  split <;> rfl

/-- A grant that clears nothing leaves the core as it is. -/
theorem State.resolve_core (a t : Bool) (h : (s.resolve a t).clearing a t = false) : (s.resolve a t).core = s.core := by
  unfold State.resolve at h ⊢
  extract_lets s1 at h ⊢
  have h1 : s1.core.accClear = none ∨ a = false → s1.core = s.core := by
    simp only [s1]
    split
    case isFalse => exact fun _ => rfl
    case isTrue ha =>
      intro hc
      simp only [Bool.and_eq_true] at ha
      exact s.grantAcc_core _ (hc.resolve_right (by simp [ha.1]))
  clear_value s1
  split
  case isTrue ht =>
    simp only [Bool.and_eq_true] at ht
    rw [if_pos (by simp [ht.1, ht.2]), State.clearing] at h
    simp only [ht.1, Bool.true_and, Bool.or_eq_false_iff, State.grantTile_accClear, Bool.and_eq_false_iff, Option.isSome_eq_false_iff, Option.isNone_iff_eq_none] at h
    exact (s1.grantTile_core _ h.2).trans (h1 h.1.symm)
  case isFalse ht =>
    rw [if_neg ht, State.clearing] at h
    simp only [Bool.or_eq_false_iff, Bool.and_eq_false_iff, Option.isSome_eq_false_iff, Option.isNone_iff_eq_none] at h
    exact h1 h.1.symm

end

/-! ### What a grant and the note of an issue leave -/

/-- The residencies are the same but for contexts and for the ownership of groups. -/
structure State.Granted (s t : State) : Prop where
  srv : t.srv = s.srv
  pkg : t.pkg = s.pkg
  die : t.die = s.die
  cl : t.cl = s.cl
  curRes : t.curRes = s.curRes
  curCtx : t.curCtx = s.curCtx
  bundleLen : t.bundleLen = s.bundleLen
  res : ∀ k, { t.res.get k with accOwn := (s.res.get k).accOwn, tileOwn := (s.res.get k).tileOwn } = s.res.get k

namespace State.Granted

variable {s t u : State}

theorem refl (s : State) : Granted s s := ⟨rfl, rfl, rfl, rfl, rfl, rfl, rfl, fun _ => rfl⟩

theorem trans (h : Granted s t) (g : Granted t u) : Granted s u where
  srv := g.srv.trans h.srv
  pkg := g.pkg.trans h.pkg
  die := g.die.trans h.die
  cl := g.cl.trans h.cl
  curRes := g.curRes.trans h.curRes
  curCtx := g.curCtx.trans h.curCtx
  bundleLen := g.bundleLen.trans h.bundleLen
  res k := by
    have e := h.res k
    rw [← g.res k] at e
    exact e

theorem modRes (s : State) (k : ResNo) (f : Res → Res) (hf : ∀ r, { f r with accOwn := r.accOwn, tileOwn := r.tileOwn } = r) : Granted s (s.modRes k f) :=
  ⟨rfl, rfl, rfl, rfl, rfl, rfl, rfl, fun j => by
    by_cases h : j = k
    · subst h; simp only [State.modRes_res, vec_get_set_same]; exact hf _
    · simp only [State.modRes_res, vec_get_set_other _ _ _ _ h]⟩

theorem core (s : State) (f : CoreSt → CoreSt) (n : Nat) (i : Instr) : Granted s ((s.modCore f).after n i) := ⟨rfl, rfl, rfl, rfl, rfl, rfl, rfl, fun _ => rfl⟩

end State.Granted

theorem State.granted_resolve (s : State) (a t : Bool) : Granted s (s.resolve a t) := by
  have acc : ∀ (s : State) (k : ResNo), Granted s (s.grantAcc k) := by
    intro s k
    unfold State.grantAcc
    extract_lets s1
    have h1 : Granted s s1 := .modRes s k _ fun _ => rfl
    split
    · exact h1
    · exact h1.trans (.core _ _ _ _)
  have tile : ∀ (s : State) (k : ResNo), Granted s (s.grantTile k) := by
    intro s k
    unfold State.grantTile
    extract_lets s1
    have h1 : Granted s s1 := .modRes s k _ fun _ => rfl
    split
    · exact h1
    · exact h1.trans (.core _ _ _ _)
  unfold State.resolve
  extract_lets s1
  have h1 : Granted s s1 := by
    simp only [s1]
    split
    · exact acc s _
    · exact .refl s
  split
  · exact h1.trans (tile s1 _)
  · exact h1

/-- The state `b` in which the effects of an instruction act that issues in a state `s` (R97 step 4). -/
structure State.Begins (s b : State) : Prop where
  srv : b.srv = s.srv
  die : b.die = s.die
  pkg : b.pkg = s.pkg
  curRes : b.curRes = s.curRes
  curCtx : b.curCtx = s.curCtx
  bundleLen : b.bundleLen = s.bundleLen
  rest : ∀ k, { b.res.get k with ctx := (s.res.get k).ctx, lfsr := (s.res.get k).lfsr, accOwn := (s.res.get k).accOwn, tileOwn := (s.res.get k).tileOwn } = s.res.get k
  ctx : ∀ k c, ¬(k = s.curRes ∧ c = s.curCtx) → { (b.res.get k).ctx.get c with yields := ((s.res.get k).ctx.get c).yields } = (s.res.get k).ctx.get c
  c : ∃ y r k, b.c = s.c.landed.aside3 y r k
  core : b.core = { s.core with lastCtx := s.curCtx, packet := b.core.packet, tagWrites := [], before := b.core.before, nestsBefore := s.r.nests, atPair := s.c.pc }

theorem State.Begins.r {s b : State} (h : Begins s b) : { b.r with ctx := s.r.ctx, lfsr := s.r.lfsr, accOwn := s.r.accOwn, tileOwn := s.r.tileOwn } = s.r := by
  have := h.rest s.curRes
  rwa [← State.r, ← h.curRes, ← State.r] at this

/-- What an instruction touches does not depend on the grant that its touch brings about. -/
def Op.Stable (o : Op) (s : State) : Prop := ∀ a t, o.touch ((s.replayBack.resolve a t).modC Ctx.landed) = o.touch s.seen

/-- An instruction that is ready, so that no clear holds it, finds the core as it was. -/
theorem Op.resolved_core {o : Op} {s : State} (hr : o.ready s = true) (hs : o.Stable s) : (resolveAll s.seen s.replayBack [o.alone]).core = s.core := by
  have hh : held ((resolveAll s.seen s.replayBack [o.alone]).modC Ctx.landed) [o.alone] = false := by
    simp only [Op.ready, Bool.and_eq_true, Bool.not_eq_true'] at hr
    exact hr.2
  have he : resolveAll s.seen s.replayBack [o.alone] = s.replayBack.resolve (o.touch s.seen).1 (o.touch s.seen).2 := by
    simp [resolveAll, Op.alone]
  rw [he] at hh ⊢
  have hc : (s.replayBack.resolve (o.touch s.seen).1 (o.touch s.seen).2).clearing (o.touch s.seen).1 (o.touch s.seen).2 = false := by
    have := hs (o.touch s.seen).1 (o.touch s.seen).2
    simpa [held, Op.alone, this, State.clearing] using hh
  rw [State.resolve_core _ _ _ hc, s.replayBack_place.2.2.2]

/-- Where the effects of a ready instruction act. -/
theorem Op.begins {o : Op} {s : State} (hr : o.ready s = true) (hs : o.Stable s) : State.Begins s (o.begun s) := by
  have hcore := Op.resolved_core hr hs
  have h1 := s.apart_replayBack
  have h2 : State.Granted s.replayBack (resolveAll s.seen s.replayBack [o.alone]) := State.granted_resolve _ _ _
  have hc2 : (resolveAll s.seen s.replayBack [o.alone]).c = s.replayBack.c := State.resolve_c _ _ _
  have hb : o.begun s = ((resolveAll s.seen s.replayBack [o.alone]).noteIssue.modC Ctx.landed).atFirst := rfl
  generalize resolveAll s.seen s.replayBack [o.alone] = g at *
  have h3 : State.Apart g (o.begun s) := hb ▸ (g.apart_noteIssue.trans (State.apart_modC _ Ctx.landed)).trans (State.apart_atFirst _)
  obtain ⟨r, k, hr1⟩ := s.replayBack_c
  obtain ⟨y, hr2⟩ := g.noteIssue_c
  have hpc : (g.noteIssue.modC Ctx.landed).c.pc = s.c.pc := by
    rw [State.modC_c, (Ctx.landed_rest _).1, hr2, hc2, hr1]
    rfl
  refine ⟨h3.srv.trans (h2.srv.trans h1.srv), h3.die.trans (h2.die.trans h1.die), h3.pkg.trans (h2.pkg.trans h1.pkg), h3.curRes.trans (h2.curRes.trans h1.curRes),
    h3.curCtx.trans (h2.curCtx.trans h1.curCtx), ?_, fun k => ?_, fun k c hk => ?_, ⟨y, g.c.replay, g.c.sfuKept, ?_⟩, ?_⟩
  · rw [hb]
    exact (g.noteIssue_place.2.2).trans (h2.bundleLen.trans s.replayBack_place.2.2.1)
  · have ha : (s.replayBack.res.get k).accOwn = (s.res.get k).accOwn := congrArg (·.accOwn) (h1.rest k)
    have ht : (s.replayBack.res.get k).tileOwn = (s.res.get k).tileOwn := congrArg (·.tileOwn) (h1.rest k)
    have e := h1.rest k
    rw [← h2.res k, ha, ht, ← h3.rest k] at e
    exact e
  · have hg : (g.res.get k).ctx = (s.replayBack.res.get k).ctx := congrArg (·.ctx) (h2.res k)
    have e := h1.ctx k c hk
    rw [← hg, ← h3.ctx k c (by rwa [h2.curRes, h2.curCtx, h1.curRes, h1.curCtx])] at e
    exact e
  · have hc : (o.begun s).c = g.noteIssue.c.landed := hb ▸ State.modC_c _ _
    rw [hc, hr2, hc2, hr1, Ctx.landed_aside3, Ctx.landed_aside3]
    rfl
  · have hn : g.r.nests = s.r.nests := by
      have h := congrArg (·.nests) (h2.res s.curRes)
      rw [State.r, h2.curRes, h1.curRes]
      exact h.trans (congrArg (·.nests) (h1.rest s.curRes))
    have hgc : g.c.pc = s.c.pc := by rw [hc2, hr1]; rfl
    have hk : g.curCtx = s.curCtx := h2.curCtx.trans h1.curCtx
    have hbc : (o.begun s).core = { g.noteIssue.core with atPair := s.c.pc + 0#14 } := by rw [hb, ← hpc]; rfl
    rw [hbc, BitVec.add_zero, State.noteIssue_core, hcore, hk, hn]

end Sys2Proof.Machine
end

section
/-!
PROOF. What leaves a core (R175, R299, R315): the queue that is let out changes its own bookkeeping, and of a send that goes on its sequence number, its state and its timers.
-/

namespace Sys2Proof.Machine

open Sys2Proof

/-! ### Letting out what may leave -/

/-- What a send keeps while it is numbered, sent, timed and reported. -/
def Send.fixed (q : Send) : Send :=
  { q with msg := { q.msg with seq := 0, scaleSeq := 0 }, state := .waiting, retryAt := none, due := none, reported := false }

/-- Items have left: the core keeps all but its queues and its streams, the sends what they were entered with, the residencies all but their mailboxes. -/
structure State.Passes (s t : State) : Prop where
  beside : Beside s t
  core : { t.core with sends := s.core.sends, streamsOut := s.core.streamsOut, ni := s.core.ni, inFlight := s.core.inFlight, leaving := s.core.leaving } = s.core
  sends : t.core.sends.map Send.fixed = s.core.sends.map Send.fixed
  res : ∀ k, { t.res.get k with mboxes := (s.res.get k).mboxes } = s.res.get k

namespace State.Passes

variable {s t u : State}

theorem refl (s : State) : Passes s s := ⟨.refl s, rfl, rfl, fun _ => rfl⟩

theorem trans (h : Passes s t) (g : Passes t u) : Passes s u where
  beside := h.beside.trans g.beside
  core := by
    have e := h.core
    rw [← g.core] at e
    exact e
  sends := g.sends.trans h.sends
  res k := by
    have e := h.res k
    rw [← g.res k] at e
    exact e

/-- A change of the queues and streams alone. -/
theorem of_core (hb : Beside s t) (hr : t.res = s.res) (hs : t.core.sends = s.core.sends)
    (hc : { t.core with sends := s.core.sends, streamsOut := s.core.streamsOut, ni := s.core.ni, inFlight := s.core.inFlight, leaving := s.core.leaving } = s.core) : Passes s t :=
  ⟨hb, hc, by rw [hs], fun k => by rw [hr]⟩

end State.Passes

section
variable (s : State)

theorem State.passes_post (i : Instr) : Passes s (s.post i) := .of_core ⟨rfl, rfl, rfl, rfl, rfl, rfl, rfl⟩ rfl rfl rfl
theorem State.passes_after (n : Nat) (i : Instr) : Passes s (s.after n i) := .of_core ⟨rfl, rfl, rfl, rfl, rfl, rfl, rfl⟩ rfl rfl rfl
theorem State.passes_putOut (x : Stream) : Passes s (s.putOut x) := .of_core ⟨rfl, rfl, rfl, rfl, rfl, rfl, rfl⟩ rfl rfl rfl
theorem State.passes_giveRoom (d : Rank) (vc n : Nat) : Passes s (s.giveRoom d vc n) := .of_core ⟨rfl, rfl, rfl, rfl, rfl, rfl, rfl⟩ rfl rfl rfl

theorem State.passes_mapSends (f : Send → Send) (hf : ∀ q, (f q).fixed = q.fixed) : Passes s (s.modCore fun c => { c with sends := c.sends.map f }) :=
  ⟨⟨rfl, rfl, rfl, rfl, rfl, rfl, rfl⟩, rfl, by
    have h : Send.fixed ∘ f = Send.fixed := funext hf
    rw [State.modCore_core, List.map_map, h], fun _ => rfl⟩

theorem State.passes_modSend (id : Nat) (f : Send → Send) (hf : ∀ q, (f q).fixed = q.fixed) : Passes s (s.modSend id f) :=
  s.passes_mapSends _ fun q => by
    split
    · exact hf q
    · rfl

theorem State.passes_credit (k : ResNo) (m : Option (BitVec 4)) (n : Nat) : Passes s (s.modRes k fun r => r.credit m n) :=
  ⟨⟨rfl, rfl, rfl, rfl, rfl, rfl, rfl⟩, rfl, rfl, fun j => by
    have hc : ∀ r : Res, { r.credit m n with mboxes := r.mboxes } = r := by
      intro r
      unfold Res.credit
      split <;> rfl
    by_cases h : j = k
    · subst h; simp only [State.modRes_res, vec_get_set_same]; exact hc _
    · simp only [State.modRes_res, vec_get_set_other _ _ _ _ h]⟩

theorem State.passes_foldl {α : Type} (f : State → α → State) (h : ∀ s x, Passes s (f s x)) (l : List α) : Passes s (l.foldl f s) := by
  induction l generalizing s with
  | nil => exact .refl s
  | cons x l ih => exact (h s x).trans (ih _)

theorem State.passes_deliverHere (order : Nat) (o : Out) : Passes s (s.deliverHere order o) := by
  cases o with
  | cast m ds => exact s.passes_foldl _ (fun t x => t.passes_post (arrivalOf { m with dst := x.dst, seq := x.seq, scaleSeq := x.seq, sendId := x.sendId })) ds
  | report d id cause info =>
    simp only [State.deliverHere]
    split
    · split
      · exact s.passes_post _
      · refine .trans (s.passes_mapSends (fun x => if x.id = id then { x with reported := true } else x) fun q => ?_) (State.passes_post _ _)
        split <;> rfl
    · exact .refl s
  | credit d mb =>
    simp only [State.deliverHere]
    split
    · exact s.passes_credit _ _ _
    · exact .refl s
  | room d e vc n => exact s.passes_giveRoom _ _ _
  | bulk d id core addr bs n =>
    simp only [State.deliverHere]
    split
    · exact s.passes_post _
    · exact .refl s
  | refusal | marker =>
    simp only [State.deliverHere]
    split
    · exact s.passes_post _
    · exact .refl s
  | message | clearToSend | notice | event | command | token | answer => exact s.passes_post _
  | _ => exact .refl s

theorem State.passes_emitFor (order : Nat) (o : Out) : Passes s (s.emitFor order o) := by
  unfold State.emitFor
  split
  · exact .of_core ⟨rfl, rfl, rfl, rfl, rfl, rfl, rfl⟩ rfl rfl rfl
  · split
    · exact s.passes_deliverHere order o
    · exact .of_core ⟨rfl, rfl, rfl, rfl, rfl, rfl, rfl⟩ rfl rfl rfl

theorem State.passes_answerCut (id pkg : Nat) : Passes s (s.answerCut id pkg) := by
  unfold State.answerCut
  split
  · exact s.passes_post _
  · exact .refl s

theorem State.passes_timeSend (q : Send) : Passes s (s.timeSend q) := by
  unfold State.timeSend
  split
  · exact s.passes_post _
  · split
    · exact .refl s
    · refine ((State.passes_modSend s _ _ ?_).trans (State.passes_after _ _ _)).trans (State.passes_answerCut _ _ _)
      exact fun _ => rfl

theorem State.passes_underWay (q : Send) (b : Bool) : Passes s (s.underWay q b) := s.passes_modSend _ _ fun _ => rfl

theorem State.passes_firstAttempt (q : Send) : Passes s (s.firstAttempt q) :=
  ((s.passes_underWay q _).trans (State.passes_emitFor _ _ _)).trans (State.passes_timeSend _ _)

theorem State.passes_number (q : Send) : Passes s (s.number q).1 := by
  refine (State.passes_modSend s _ _ ?_).trans (State.passes_putOut _ _)
  exact fun _ => rfl

theorem passes_allUnderWay (l : List Send) : State.Passes s (allUnderWay l s) := by
  induction l generalizing s with
  | nil => exact .refl s
  | cons q l ih => exact ((s.passes_underWay q _).trans (State.passes_timeSend _ _)).trans (ih _)

theorem State.passes_emitCast (m : Message) (ds : List CastDst) : Passes s (s.emitCast m ds) := by
  unfold State.emitCast
  extract_lets here away s1
  have h1 : Passes s s1 := by
    simp only [s1]
    split
    · exact .refl s
    · exact s.passes_deliverHere _ _
  clear_value s1
  split
  · exact h1
  · exact h1.trans (.of_core ⟨rfl, rfl, rfl, rfl, rfl, rfl, rfl⟩ rfl rfl rfl)

end

/-! ### The queue of what leaves -/

/-- A relation between states that letting items out keeps, where it keeps that a send with a word in error fails. -/
structure Lets (P : State → State → Prop) : Prop where
  refl : ∀ s, P s s
  trans : ∀ {s t u}, P s t → P t u → P s u
  passes : ∀ {s t}, State.Passes s t → P s t
  fails : ∀ s id, P s (s.failBad id)

section
variable {P : State → State → Prop} (hP : Lets P) (s : State)
include hP

theorem Lets.envelopeOut (id : Nat) : P s (s.envelopeOut id) := by
  unfold State.envelopeOut
  split
  · exact hP.fails s id
  · exact hP.passes ((s.passes_number _).trans (State.passes_firstAttempt _ _))

theorem Lets.numberCopies (l : List Nat) : P s (numberCopies l s).1 := by
  induction l generalizing s with
  | nil => exact hP.refl s
  | cons id l ih =>
    unfold Machine.numberCopies
    split
    · exact hP.trans (hP.fails s id) (ih _)
    · exact hP.trans (hP.passes (s.passes_number _)) (ih _)

theorem Lets.castOut (l : List Nat) : P s (s.castOut l) := by
  unfold State.castOut
  extract_lets r
  have hr : P s r.1 := hP.numberCopies s l
  split
  · exact hr
  · exact hP.trans hr (hP.passes ((passes_allUnderWay _ _).trans (State.passes_emitCast _ _ _)))

theorem Lets.depart (l : Leaving) : P s (s.depart l) := by
  unfold State.depart
  split
  · exact hP.envelopeOut s _
  · exact hP.castOut s _
  · exact hP.passes (s.passes_emitFor _ _)

theorem Lets.flushOut (n : Nat) : P s (flushOut n s) := by
  induction n generalizing s with
  | zero => exact hP.refl s
  | succ n ih =>
    unfold Machine.flushOut
    split
    · exact hP.refl s
    · refine hP.trans (hP.trans (hP.passes ?_) (hP.depart _ _)) (ih _)
      exact .of_core ⟨rfl, rfl, rfl, rfl, rfl, rfl, rfl⟩ rfl rfl rfl

theorem Lets.flush : P s s.flush := hP.flushOut s _

theorem Lets.sendAgain (l : List Send) : P s (sendAgain l s) := by
  induction l generalizing s with
  | nil => exact hP.refl s
  | cons q l ih =>
    unfold Machine.sendAgain
    refine hP.trans ?_ (ih _)
    split
    · exact hP.envelopeOut s _
    · exact hP.passes (s.passes_firstAttempt _)

theorem Lets.resumeStream (q : Send) : P s (s.resumeStream q) := by
  unfold State.resumeStream
  extract_lets st
  split
  · exact hP.trans (hP.passes (s.passes_putOut _)) (hP.sendAgain _ _)
  · exact hP.refl s

end

/-! ### Without words in error no send fails -/

theorem State.Passes.bad {s t : State} (h : Passes s t) : t.core.bad = s.core.bad := congrArg (·.bad) h.core

theorem State.badAt_nil {s : State} (h : s.core.bad = []) (o n : Nat) : s.badAt o n = false := by
  refine (State.badAt.eq_1 s o n).trans ?_
  generalize s.regionOf o = g
  rcases g with _ | ⟨g, lo, hi⟩
  · rfl
  · simp only [h, List.any_nil, ite_self]

theorem State.failBad_none {s : State} (h : s.core.bad = []) (id : Nat) : s.failBad id = s := by
  have hb : ∀ q, s.sendBad q = false := fun q => by rw [State.sendBad, State.badAt_nil (s := { s with curRes := q.res }) h, Bool.and_false]
  unfold State.failBad
  split
  · rfl
  · simp [hb]

theorem lets_passes : Lets fun s t => s.core.bad = [] → State.Passes s t where
  refl s _ := .refl s
  trans h g hb := (h hb).trans (g ((h hb).bad.trans hb))
  passes h _ := h
  fails s id hb := by rw [State.failBad_none hb]; exact .refl s

/-! ### What sending leaves alone -/

/-- Sends have been entered, have gone on or have ended: memory, tasks and requests are the same, and of the residencies all but mailboxes and error queue. -/
structure State.Sends (s t : State) : Prop where
  curRes : t.curRes = s.curRes
  curCtx : t.curCtx = s.curCtx
  cl : t.cl = s.cl
  srv : t.srv = s.srv
  pkg : t.pkg = s.pkg
  core : { t.core with sends := s.core.sends, streamsOut := s.core.streamsOut, ni := s.core.ni, inFlight := s.core.inFlight, leaving := s.core.leaving, nextId := s.core.nextId,
                       range := s.core.range, packet := s.core.packet, packetKept := s.core.packetKept } = s.core
  res : ∀ k, { t.res.get k with mboxes := (s.res.get k).mboxes, errq := (s.res.get k).errq, errOvf := (s.res.get k).errOvf } = s.res.get k

namespace State.Sends

variable {s t u : State}

theorem refl (s : State) : Sends s s := ⟨rfl, rfl, rfl, rfl, rfl, rfl, fun _ => rfl⟩

theorem trans (h : Sends s t) (g : Sends t u) : Sends s u where
  curRes := g.curRes.trans h.curRes
  curCtx := g.curCtx.trans h.curCtx
  cl := g.cl.trans h.cl
  srv := g.srv.trans h.srv
  pkg := g.pkg.trans h.pkg
  core := by
    have e := h.core
    rw [← g.core] at e
    exact e
  res k := by
    have e := h.res k
    rw [← g.res k] at e
    exact e

theorem of_passes (h : Passes s t) : Sends s t where
  curRes := h.beside.curRes
  curCtx := h.beside.curCtx
  cl := h.beside.cl
  srv := h.beside.srv
  pkg := h.beside.pkg
  core := by
    have e := h.core
    rw [← e]
  res k := by
    have e := h.res k
    rw [← e]

/-- A change of residency k alone. -/
theorem modRes (s : State) (k : ResNo) (f : Res → Res)
    (hf : ∀ r, { f r with mboxes := r.mboxes, errq := r.errq, errOvf := r.errOvf } = r) : Sends s (s.modRes k f) :=
  ⟨rfl, rfl, rfl, rfl, rfl, rfl, fun j => by
    by_cases h : j = k
    · subst h; simp only [State.modRes_res, vec_get_set_same]; exact hf _
    · simp only [State.modRes_res, vec_get_set_other _ _ _ _ h]⟩

/-- A change of the core's sending part alone. -/
theorem modCore (s : State) (f : CoreSt → CoreSt)
    (hf : ∀ c, { f c with sends := c.sends, streamsOut := c.streamsOut, ni := c.ni, inFlight := c.inFlight, leaving := c.leaving, nextId := c.nextId, range := c.range,
                          packet := c.packet, packetKept := c.packetKept } = c) : Sends s (s.modCore f) := ⟨rfl, rfl, rfl, rfl, rfl, hf _, fun _ => rfl⟩

theorem ctx (h : Sends s t) (k : ResNo) : (t.res.get k).ctx = (s.res.get k).ctx := congrArg (·.ctx) (h.res k)

theorem c (h : Sends s t) : t.c = s.c := by
  have := h.ctx s.curRes
  rw [State.c, State.c, State.r, State.r, h.curRes, h.curCtx, this]

end State.Sends

section
variable (s : State)

theorem Res.credit_sends (r : Res) (m : Option (BitVec 4)) (n : Nat) :
    { r.credit m n with mboxes := r.mboxes, errq := r.errq, errOvf := r.errOvf } = r := by
  unfold Res.credit
  split <;> rfl

theorem Res.postError_sends (r : Res) (e : ErrEntry) :
    { r.postError e with mboxes := r.mboxes, errq := r.errq, errOvf := r.errOvf } = r := by
  unfold Res.postError
  split <;> rfl

theorem State.sends_rangeRemove (i : Option (Fin 32)) : Sends s (s.rangeRemove i) := by
  unfold State.rangeRemove
  split
  · exact .refl s
  · exact .modCore s _ fun _ => rfl

theorem State.sends_localDone (q : Send) : Sends s (s.localDone q) := by
  unfold State.localDone
  extract_lets s1 shared s2 s2'
  have h1 : Sends s s1 := .modCore s _ fun _ => rfl
  clear_value s1
  have h2 : Sends s s2 := by
    simp only [s2]
    split
    · exact h1
    · exact h1.trans (s1.sends_rangeRemove _)
  clear_value s2
  have h3 : Sends s s2' := h2.trans (.modCore s2 _ fun _ => rfl)
  clear_value s2'
  split
  · exact .refl s
  · exact h3.trans (.modRes s2' _ _ fun r => r.credit_sends _ _)

theorem State.sends_sendError (q : Send) (cause : BitVec 7) (info : Word) : Sends s (s.sendError q cause info) := .modRes s _ _ fun r => r.postError_sends _

theorem State.sends_uncharge (q : Send) : Sends s (s.uncharge q) := by
  unfold State.uncharge
  split
  · exact ⟨rfl, rfl, rfl, rfl, rfl, rfl, fun _ => rfl⟩
  · exact .refl s

theorem State.sends_closeSend (q : Send) : Sends s (s.closeSend q) := by
  unfold State.closeSend
  refine .trans (.modCore s _ ?_) (State.sends_uncharge _ q)
  exact fun _ => rfl

theorem State.sends_failBad (id : Nat) : Sends s (s.failBad id) := by
  unfold State.failBad
  split
  · exact .refl s
  · split
    · exact ((s.sends_localDone _).trans (State.sends_sendError _ _ _ _)).trans (State.sends_closeSend _ _)
    · exact .refl s

theorem lets_sends : Lets State.Sends where
  refl := .refl
  trans := .trans
  passes := .of_passes
  fails := State.sends_failBad

theorem State.sends_flush : Sends s s.flush := lets_sends.flush s

theorem State.sends_failSend (q : Send) (cause : BitVec 7) (b : Bool) : Sends s (s.failSend q cause b) :=
  (((s.sends_localDone q).trans (State.sends_sendError _ _ _ _)).trans (State.sends_closeSend _ _)).trans (lets_sends.resumeStream _ _)

theorem State.sends_enterSend (q : Send) (b : Bool) : Sends s (s.enterSend q b) := by
  unfold State.enterSend State.queueOut State.bump
  refine ((Sends.modCore s _ ?_).trans (.modCore _ _ ?_)).trans (.modCore _ _ ?_)
  all_goals exact fun _ => rfl

theorem State.sends_startSend (q : Send) : Sends s (s.startSend q) := by
  unfold State.startSend
  split
  · refine ((Sends.modCore s _ ?_).trans (.modCore _ _ ?_)).trans (State.sends_failSend _ _ _ _)
    all_goals exact fun _ => rfl
  · exact (s.sends_enterSend q true).trans (State.sends_flush _)

theorem State.sends_guardArea (k : RangeKind) (p : Word) (n : Nat) : Sends s (s.guardArea k p n).1 := by
  unfold State.guardArea
  split
  · exact .refl s
  · unfold State.rangeAdd
    split
    · exact .refl s
    · dsimp only
      refine .modCore s _ ?_
      exact fun _ => rfl

theorem State.sends_sendTo (dst : Rank) (buf ctl : Word) (tag : BitVec 32) (b : Bool) : Sends s (s.sendTo dst buf ctl tag b) := by
  unfold State.sendTo
  exact (s.sends_guardArea _ _ _).trans (State.sends_startSend _ _)

end

/-! ### The end of a bundle -/

/-- The context but for where it stands and for the results in flight. -/
def Ctx.stand (c d : Ctx) : Ctx :=
  { d with last := c.last, pc := c.pc, heldAt := c.heldAt, verdict := c.verdict, heldAside := c.heldAside, arrived := c.arrived, loop := c.loop, flight := c.flight }

/-- The next bundle leaves of the context all but where it stands, and the results in flight. -/
theorem State.ended_rest (s t : State) (n : Option Pair) : t.c.stand (s.ended t n).c = t.c := by
  unfold State.ended State.advance
  extract_lets l
  rw [State.modC_c]
  extract_lets d
  have hd : t.c.stand d = t.c := rfl
  clear_value d
  split
  · split
    · rw [loopStep]
      split <;> exact hd
    · exact hd
  · exact hd

end Sys2Proof.Machine
end

section
/-!
PROOF. SEND, SENDX, MCAST and SENDP (O45): what the state in which their effects act shares with the state of issue, and the send that each enters.
-/

namespace Sys2Proof.Machine

open Sys2Proof

/-! ### What an instruction reads at issue -/

namespace State.Begins

variable {s b : State} (h : State.Begins s b)
include h

theorem reg (side : Bool) (a : BitVec 5) : b.c.reg side a = s.seen.c.reg side a := by
  obtain ⟨y, r, k, hc⟩ := h.c
  rw [hc, State.seen, State.modC_c]
  rfl

theorem regX (side : Bool) (a : BitVec 5) (x : Bool) : b.c.regX side a x = s.seen.c.regX side a x := by
  obtain ⟨y, r, k, hc⟩ := h.c
  rw [hc, State.seen, State.modC_c]
  rfl

theorem outsideOrder (k : ResNo) (d : Rank) : b.outsideOrder k d = s.outsideOrder k d := by
  have ho : (b.res.get k).orderCores = (s.res.get k).orderCores := congrArg (·.orderCores) (h.rest k)
  rw [State.outsideOrder, State.outsideOrder, h.srv, ho]

theorem liveReplicas (e : Word) : b.liveReplicas e = s.liveReplicas e := by
  have ho : b.r.order = s.r.order := congrArg (·.order) h.r
  have hd : b.r.deadPeers = s.r.deadPeers := congrArg (·.deadPeers) h.r
  rw [State.liveReplicas, State.liveReplicas, State.replicas, State.replicas, h.die, h.srv, ho, hd]

theorem choose (l : List Rank) : b.choose l = s.choose l := by
  have ho : b.r.order = s.r.order := congrArg (·.order) h.r
  have hi : ∀ d, b.counterIn s.r.order d = s.counterIn s.r.order d := fun d => by rw [State.counterIn, State.counterIn, h.die]
  rw [State.choose, State.choose, ho]
  induction l with
  | nil => rfl
  | cons d l ih => simp only [State.chooseIn, ih, hi]

theorem others (g : BitVec 16) : b.r.others g = s.r.others g := by
  have hg : b.r.groups = s.r.groups := congrArg (·.groups) h.r
  have hk : b.r.rank = s.r.rank := congrArg (·.rank) h.r
  rw [Res.others, Res.others, Res.groupOf, Res.groupOf, hg, hk]

theorem castNext (g : BitVec 16) : b.r.castNext g = s.r.castNext g := by
  have hn : b.r.mcastNext = s.r.mcastNext := congrArg (·.mcastNext) h.r
  rw [Res.castNext, Res.castNext, hn]

theorem deadOthers (g : BitVec 16) : b.deadOthers g = s.deadOthers g := by
  have hph : ∀ k, (b.res.get k).phase = (s.res.get k).phase := fun k => congrArg (·.phase) (h.rest k)
  have hor : ∀ k, (b.res.get k).order = (s.res.get k).order := fun k => congrArg (·.order) (h.rest k)
  have hra : ∀ k, (b.res.get k).rank = (s.res.get k).rank := fun k => congrArg (·.rank) (h.rest k)
  have hdp : ∀ k, (b.res.get k).deadPeers = (s.res.get k).deadPeers := fun k => congrArg (·.deadPeers) (h.rest k)
  have hg : b.goneFor b.curRes = s.goneFor s.curRes := by
    funext d
    simp only [State.goneFor, State.onQuarantined, State.physicalOf, hph, hor, hra, hdp, h.srv, h.pkg, h.curRes]
  rw [State.deadOthers, State.deadOthers, h.others, hg]

end State.Begins

/-! ### A send entered, and a send refused -/

section
variable {s : State}

theorem State.Sends.bad {t : State} (h : Sends s t) : t.core.bad = s.core.bad := congrArg (·.bad) h.core
theorem State.Sends.mem {t : State} (h : Sends s t) : t.core.mem = s.core.mem := congrArg (·.mem) h.core

/-- What goes on after a send has been entered. -/
theorem State.passes_startSend {q : Send} (hb : s.core.bad = []) (ho : s.outsideOrder s.curRes q.msg.dst = false) : Passes (s.enterSend q true) (s.startSend q) := by
  rw [State.startSend, ho]
  exact lets_passes.flush _ ((s.sends_enterSend q true).bad.trans hb)

theorem State.Passes.mem_sends {t : State} (h : Passes s t) {q : Send} (hq : q ∈ s.core.sends) : ∃ x ∈ t.core.sends, x.fixed = q.fixed := by
  have : q.fixed ∈ t.core.sends.map Send.fixed := h.sends ▸ List.mem_map_of_mem hq
  exact List.mem_map.mp this

theorem State.startSend_mem {q : Send} (hb : s.core.bad = []) (ho : s.outsideOrder s.curRes q.msg.dst = false) : ∃ x ∈ (s.startSend q).core.sends, x.fixed = q.fixed := by
  refine (State.passes_startSend hb ho).mem_sends ?_
  rw [State.enterSend, State.queueOut, State.bump]
  simp only [State.modCore_core]
  exact List.mem_append_right _ (List.mem_singleton_self q)

theorem State.rangeRemove_res (i : Option (Fin 32)) : (s.rangeRemove i).res = s.res := by
  unfold State.rangeRemove
  split <;> rfl

theorem State.localDone_errq (q : Send) (k : ResNo) : ((s.localDone q).res.get k).errq = (s.res.get k).errq := by
  have hc : ∀ (r : Res) (m : Option (BitVec 4)) (n : Nat), (r.credit m n).errq = r.errq := fun r m n => by
    unfold Res.credit
    split <;> rfl
  unfold State.localDone
  extract_lets s1 shared s2 s2'
  have h1 : s1.res = s.res := rfl
  clear_value s1
  have h2 : s2.res = s.res := by
    simp only [s2]
    split
    · exact h1
    · exact State.rangeRemove_res _ |>.trans h1
  clear_value s2
  have h3 : s2'.res = s.res := h2
  clear_value s2'
  split
  · rfl
  · rw [State.modRes_res, h3]
    by_cases h : k = q.res
    · subst h; rw [vec_get_set_same, hc]
    · rw [vec_get_set_other _ _ _ _ h]

theorem State.uncharge_res (q : Send) : (s.uncharge q).res = s.res := by
  unfold State.uncharge
  split <;> rfl

/-- The entry of a failed send is in the error queue, where it has room (R259). -/
theorem State.failSend_errq {q : Send} {cause : BitVec 7} {b : Bool} (hb : s.core.bad = []) (hl : (s.res.get q.res).errq.length < 32) :
    errEntry cause q.ctx q.pair 0 q.buf q.msg.dst.toNat 0 (sendInfo q.msg b) ∈ ((s.failSend q cause b).res.get q.res).errq := by
  have h1 := State.localDone_errq (s := s) q q.res
  have g1 := s.sends_localDone q
  rw [State.failSend, State.failSendWith]
  generalize s.localDone q = s1 at *
  have h2 : ((s1.sendError q cause (sendInfo q.msg b)).res.get q.res).errq = (s1.res.get q.res).errq ++ [errEntry cause q.ctx q.pair 0 q.buf q.msg.dst.toNat 0 (sendInfo q.msg b)] := by
    rw [State.sendError, State.modRes_res, vec_get_set_same, Res.postError, if_pos (h1 ▸ hl)]
  have g2 := g1.trans (s1.sends_sendError q cause (sendInfo q.msg b))
  generalize s1.sendError q cause (sendInfo q.msg b) = s2 at *
  have h3 : (s2.closeSend q).res = s2.res := State.uncharge_res q
  have g3 := g2.trans (s2.sends_closeSend q)
  generalize s2.closeSend q = s3 at *
  have h4 := lets_passes.resumeStream s3 q (g3.bad.trans hb)
  have h5 : ((s3.resumeStream q).res.get q.res).errq = (s3.res.get q.res).errq := congrArg (·.errq) (h4.res q.res)
  rw [h5, h3, h2]
  exact List.mem_append_right _ (List.mem_singleton_self _)

theorem State.startSend_refused {q : Send} (hb : s.core.bad = []) (ho : s.outsideOrder s.curRes q.msg.dst = true) (hl : (s.res.get q.res).errq.length < 32) :
    errEntry Cause.illegalOperand q.ctx q.pair 0 q.buf q.msg.dst.toNat 0 (sendInfo q.msg false) ∈ ((s.startSend q).res.get q.res).errq := by
  rw [State.startSend, ho, if_pos rfl]
  exact State.failSend_errq hb hl

end

/-! ### SEND and SENDX -/

theorem State.guardArea_newSend (s : State) (k : RangeKind) (p : Word) (n : Nat) : (s.guardArea k p n).1.newSend = s.newSend := by
  unfold State.guardArea
  split
  · rfl
  · unfold State.rangeAdd
    split <;> rfl

theorem State.guardArea_outside (s : State) (k : RangeKind) (p : Word) (n : Nat) (d : Rank) :
    (s.guardArea k p n).1.outsideOrder (s.guardArea k p n).1.curRes d = s.outsideOrder s.curRes d := by
  unfold State.guardArea
  split
  · rfl
  · unfold State.rangeAdd
    split <;> rfl

/-- The send that SEND and SENDX enter (R257). -/
def State.sendOfTo (s : State) (dst : Rank) (buf ctl : Word) (tag : BitVec 32) (charged : Bool) : Send :=
  let q := s.newSend dst buf (ctlGroup ctl) tag (wholeLen buf (ctlLen ctl)) (n4Blg buf)
  { q with msg := { q.msg with rdv := decide (s.r.eagerOf (ctlGroup ctl) < wholeLen buf (ctlLen ctl)) }, mbox := ctlMbox ctl, charged := charged,
           range := (s.guardArea .trap buf (wholeLen buf (ctlLen ctl))).2 }

theorem State.sendTo_eq (s : State) (dst : Rank) (buf ctl : Word) (tag : BitVec 32) (charged : Bool) :
    s.sendTo dst buf ctl tag charged = (s.guardArea .trap buf (wholeLen buf (ctlLen ctl))).1.startSend (s.sendOfTo dst buf ctl tag charged) := by
  rw [State.sendTo, State.guardArea_newSend]
  rfl

section
variable {s : State} {dst : Rank} {buf ctl : Word} {tag : BitVec 32} {charged : Bool}

theorem State.sendTo_entered (hb : s.core.bad = []) (ho : s.outsideOrder s.curRes dst = false) :
    ∃ x ∈ (s.sendTo dst buf ctl tag charged).core.sends, x.fixed = (s.sendOfTo dst buf ctl tag charged).fixed := by
  rw [State.sendTo_eq]
  exact State.startSend_mem ((s.sends_guardArea _ _ _).bad.trans hb) ((s.guardArea_outside _ _ _ dst).trans ho)

theorem State.sendTo_refused (hb : s.core.bad = []) (ho : s.outsideOrder s.curRes dst = true) (hl : s.r.errq.length < 32) :
    errEntry Cause.illegalOperand s.curCtx s.core.atPair 0 buf dst.toNat 0 (BitVec.ofNat 64 (tag.toNat + (ctlGroup ctl).toNat <<< 32)) ∈
      (s.sendTo dst buf ctl tag charged).r.errq := by
  have hr := (s.sends_sendTo dst buf ctl tag charged).curRes
  have hg : (s.guardArea .trap buf (wholeLen buf (ctlLen ctl))).1.res = s.res := by
    unfold State.guardArea
    split
    · rfl
    · unfold State.rangeAdd
      split <;> rfl
  have hi : sendInfo (s.sendOfTo dst buf ctl tag charged).msg false = BitVec.ofNat 64 (tag.toNat + (ctlGroup ctl).toNat <<< 32) := by
    simp [sendInfo, State.sendOfTo, State.newSend]
  have := State.startSend_refused (s := (s.guardArea .trap buf (wholeLen buf (ctlLen ctl))).1) (q := s.sendOfTo dst buf ctl tag charged)
    ((s.sends_guardArea _ _ _).bad.trans hb) ((s.guardArea_outside _ _ _ dst).trans ho) (by rw [hg]; exact hl)
  rw [← State.sendTo_eq, hi] at this
  rw [State.r, hr]
  exact this

end

/-- The send entered in a state `t`, of an instruction that issues in a state `s` (R257, R258). -/
def EnteredSend (s t : State) (buf : Word) (n : Nat) (dst : Rank) (g : BitVec 16) (tg : BitVec 32) (cls : BitVec 2) (m : Option (BitVec 4)) : Prop :=
  ∃ q ∈ t.core.sends, s.core.nextId ≤ q.id ∧ q.res = s.curRes ∧ q.ctx = s.curCtx ∧ q.pair = s.c.pc ∧ q.buf = buf ∧ q.mbox = m ∧ q.msg.src = s.r.rank ∧ q.msg.order = s.r.order ∧
    q.msg.dst = dst ∧ q.msg.group = g ∧ q.msg.tag = tg ∧ q.msg.len = n ∧ q.msg.cls = cls ∧ q.msg.rdv = decide (s.r.eagerOf g < n) ∧ q.local_ = false

/-- The fields of an entered send are those with which it was entered. -/
theorem enteredSend_of {s t : State} {x q : Send} (hx : x ∈ t.core.sends) (hf : x.fixed = q.fixed) (hid : s.core.nextId ≤ q.id) (hres : q.res = s.curRes) (hctx : q.ctx = s.curCtx)
    (hpair : q.pair = s.c.pc) (hsrc : q.msg.src = s.r.rank) (hord : q.msg.order = s.r.order) (hrdv : q.msg.rdv = decide (s.r.eagerOf q.msg.group < q.msg.len)) (hloc : q.local_ = false) :
    EnteredSend s t q.buf q.msg.len q.msg.dst q.msg.group q.msg.tag q.msg.cls q.mbox := by
  have e {α : Type} (f : Send → α) : f x.fixed = f q.fixed := congrArg f hf
  exact ⟨x, hx, hid.trans_eq (e (·.id)).symm, (e (·.res)).trans hres, (e (·.ctx)).trans hctx, (e (·.pair)).trans hpair, e (·.buf), e (·.mbox), (e (·.msg.src)).trans hsrc,
    (e (·.msg.order)).trans hord, e (·.msg.dst), e (·.msg.group), e (·.msg.tag), e (·.msg.len), e (·.msg.cls), (e (·.msg.rdv)).trans hrdv, (e (·.local_)).trans hloc⟩

/-- A send's error is in the queue, where it has room (R52, R259). -/
def RefusedSend (s t : State) (buf : Word) (tag : BitVec 32) (g : BitVec 16) (dst : Rank) : Prop :=
  s.r.errq.length < 32 → errEntry Cause.illegalOperand s.curCtx s.c.pc 0 buf dst.toNat 0 (BitVec.ofNat 64 (tag.toNat + g.toNat <<< 32)) ∈ t.r.errq

/-- What a SEND of a buffer with a control word to a rank leaves (R52, R257). -/
def SendOutcome (s t : State) (dst : Rank) (buf ctl : Word) (tag : BitVec 32) : Prop :=
  t.core.mem = s.core.mem ∧
  if s.outsideOrder s.curRes dst then RefusedSend s t buf tag (ctlGroup ctl) dst
  else EnteredSend s t buf (wholeLen buf (ctlLen ctl)) dst (ctlGroup ctl) tag 0 (ctlMbox ctl)

theorem State.ended_errq (s t : State) (n : Option Pair) : (s.ended t n).r.errq = t.r.errq := by
  rw [State.ended, State.advance, State.modC_r]
  rfl

/-- The end of the bundle keeps the outcome. -/
theorem SendOutcome.ended {s t : State} {dst : Rank} {buf ctl : Word} {tag : BitVec 32} (h : SendOutcome s t dst buf ctl tag) (n : Option Pair) :
    SendOutcome s (s.ended t n) dst buf ctl tag := by
  obtain ⟨hm, ho⟩ := h
  refine ⟨hm, ?_⟩
  split at ho
  case isTrue hout => rw [if_pos hout, RefusedSend, State.ended_errq]; exact ho
  case isFalse hin => rw [if_neg hin]; exact ho

section
variable {s b : State} (h : State.Begins s b)
include h

theorem State.Begins.atPair : b.core.atPair = s.c.pc := congrArg (·.atPair) h.core
theorem State.Begins.bad : b.core.bad = s.core.bad := congrArg (·.bad) h.core
theorem State.Begins.mem : b.core.mem = s.core.mem := congrArg (·.mem) h.core
theorem State.Begins.nextId : b.core.nextId = s.core.nextId := congrArg (·.nextId) h.core
theorem State.Begins.errq : b.r.errq = s.r.errq := congrArg (·.errq) h.r

theorem State.Begins.eagerOf (g : BitVec 16) : b.r.eagerOf g = s.r.eagerOf g := by
  have hg : b.r.groups = s.r.groups := congrArg (·.groups) h.r
  rw [Res.eagerOf, Res.eagerOf, Res.groupOf, Res.groupOf, hg]

/-- SEND enters its send, or refuses it, whatever the die's tables hold (R52, R257). -/
theorem State.Begins.sendTo (hb : s.core.bad = []) (d : Die) (dst : Rank) (buf ctl : Word) (tag : BitVec 32) (charged : Bool) :
    SendOutcome s (({ b with die := d } : State).sendTo dst buf ctl tag charged) dst buf ctl tag := by
  have ho : ({ b with die := d } : State).outsideOrder b.curRes dst = s.outsideOrder s.curRes dst := by
    rw [← h.curRes, ← h.outsideOrder]
    rfl
  refine ⟨(State.sends_sendTo _ _ _ _ _ _).mem.trans h.mem, ?_⟩
  split
  case isTrue hout =>
    intro hl
    rw [← h.curCtx, ← h.atPair]
    exact State.sendTo_refused (s := { b with die := d }) (h.bad.trans hb) (ho.trans hout) (by rw [← h.errq] at hl; exact hl)
  case isFalse hin =>
    obtain ⟨x, hx, hf⟩ := State.sendTo_entered (s := { b with die := d }) (buf := buf) (ctl := ctl) (tag := tag) (charged := charged) (h.bad.trans hb)
      (ho.trans (Bool.not_eq_true _ ▸ hin))
    refine enteredSend_of hx hf h.nextId.ge h.curRes h.curCtx h.atPair (congrArg (·.rank) h.r) (congrArg (·.order) h.r) ?_ rfl
    exact congrArg (fun n => decide (n < wholeLen buf (ctlLen ctl))) (h.eagerOf (ctlGroup ctl))

end

/-- The replica that is chosen has the smallest counter (R344). -/
theorem State.chooseIn_least (s : State) (o : Nat) (l : List Rank) (hl : l ≠ []) : ∃ d, s.chooseIn o l = some d ∧ d ∈ l ∧ ∀ e ∈ l, s.counterIn o d ≤ s.counterIn o e := by
  induction l with
  | nil => exact absurd rfl hl
  | cons x l ih =>
    rw [State.chooseIn]
    cases hx : s.chooseIn o l with
    | none =>
      have hn : l = [] := by
        by_contra hn
        obtain ⟨d, hd, -⟩ := ih hn
        rw [hx] at hd
        cases hd
      subst hn
      exact ⟨x, rfl, List.mem_singleton_self x, fun e he => by rw [List.mem_singleton.mp he]⟩
    | some d =>
      have hn : l ≠ [] := by
        rintro rfl
        cases hx
      obtain ⟨d', hd, hm, hle⟩ := ih hn
      cases hx.symm.trans hd
      dsimp only
      split
      case isTrue h => exact ⟨x, rfl, List.mem_cons_self, fun e he => (List.mem_cons.mp he).elim (fun e => e ▸ Nat.le_refl _) fun he => h.trans (hle e he)⟩
      case isFalse h => exact ⟨d, rfl, List.mem_cons_of_mem _ hm, fun e he => (List.mem_cons.mp he).elim (fun e => e ▸ (Nat.lt_of_not_le h).le) (hle e)⟩

/-- SENDX goes on only where a replica is left (R260). -/
theorem State.expertCheck_none {s : State} {e : Word} {n : Nat} (h : s.expertCheck e n = none) : s.liveReplicas e ≠ [] := by
  intro hl
  simp [State.expertCheck, hl] at h

theorem State.seen_liveReplicas (s : State) (e : Word) : s.seen.liveReplicas e = s.liveReplicas e := by
  simp only [State.liveReplicas, State.replicas, State.seen, State.modC_r]
  rfl

section
variable {h : CHdr} {a b c : BitVec 5} {x : Bool} {tag : BitVec 32} {s : State}

theorem execSend_outcome (hb : s.core.bad = []) (hr : (opSend h a b c x tag).ready s = true) :
    ∃ t, exec (.send h a b c x tag) s = .next t ∧ SendOutcome s t ((s.seen.c.reg h.s a).truncate 27) (s.seen.c.reg h.s b) (s.seen.c.regX h.s c x) tag := by
  have hB := Op.begins hr fun _ _ => rfl
  refine ⟨_, (exec_eq_runOne _ _ s rfl).trans (runOne_ready _ s hr rfl), ?_⟩
  rw [← hB.reg, ← hB.reg, ← hB.regX]
  exact (hB.sendTo hb ((opSend h a b c x tag).begun s).die _ _ _ tag false).ended none

theorem execSendx_outcome (hb : s.core.bad = []) (hr : (opSendx h a b c x tag).ready s = true) : ∃ t dst, exec (.sendx h a b c x tag) s = .next t ∧
    SendOutcome s t dst (s.seen.c.reg h.s b) (s.seen.c.regX h.s c x) tag ∧
    dst ∈ s.liveReplicas (s.seen.c.reg h.s a) ∧ ∀ d ∈ s.liveReplicas (s.seen.c.reg h.s a), s.counter dst ≤ s.counter d := by
  have hB := Op.begins hr fun _ _ => rfl
  have hl : s.liveReplicas (s.seen.c.reg h.s a) ≠ [] := s.seen_liveReplicas _ ▸ State.expertCheck_none (orElse_none _ _ (Op.ready_check _ s hr)).1
  obtain ⟨d, hd, hm, hle⟩ := s.chooseIn_least s.r.order _ hl
  refine ⟨_, d, (exec_eq_runOne _ _ s rfl).trans (runOne_ready _ s hr rfl), ?_, hm, hle⟩
  show SendOutcome s (s.ended ((opSendx h a b c x tag).eff ((opSendx h a b c x tag).begun s)) none) d _ _ tag
  generalize (opSendx h a b c x tag).begun s = v at hB
  have hc : (v.choose (v.liveReplicas (v.c.reg h.s a))).getD 0 = d := by
    rw [hB.choose, hB.liveReplicas, hB.reg, State.choose, hd]
    rfl
  have he : (opSendx h a b c x tag).eff v =
      ({ v with die := (v.charge d (ctlLen (v.c.regX h.s c x))).expertUsed.die } : State).sendTo d (v.c.reg h.s b) (v.c.regX h.s c x) tag true := by
    show (v.charge ((v.choose (v.liveReplicas (v.c.reg h.s a))).getD 0) _).expertUsed.sendTo ((v.choose (v.liveReplicas (v.c.reg h.s a))).getD 0) _ _ _ _ = _
    rw [hc]
    rfl
  rw [he, ← hB.reg, ← hB.regX]
  exact (hB.sendTo hb _ _ _ _ tag true).ended none

end

/-! ### MCAST -/

theorem Res.credit_rest (r : Res) (m : Option (BitVec 4)) (n : Nat) : { r.credit m n with mboxes := r.mboxes } = r := by
  unfold Res.credit
  split <;> rfl

/-- A multicast to which receivers still owe a token stays in the table (R270). -/
theorem settleMcasts_mem (l : List Mcast) (open_ : List (BitVec 16)) (r : Res) {m : Mcast} (hm : m ∈ r.mcasts) (ho : m.owed ≠ []) : m ∈ (settleMcasts open_ l r).mcasts := by
  induction l generalizing open_ r with
  | nil => exact hm
  | cons x l ih =>
    rw [settleMcasts]
    split
    case isTrue hx =>
      refine ih _ _ ?_
      have hc : (Res.credit { r with mcasts := r.mcasts.erase x } (some x.mbox) 1).mcasts = r.mcasts.erase x :=
        congrArg (·.mcasts) (Res.credit_rest { r with mcasts := r.mcasts.erase x } (some x.mbox) 1)
      rw [hc]
      refine (List.mem_erase_of_ne ?_).mpr hm
      rintro rfl
      exact ho (List.isEmpty_iff.mp hx.1)
    case isFalse => exact ih _ _ hm

theorem settleMcasts_rest (l : List Mcast) (open_ : List (BitVec 16)) (r : Res) : { settleMcasts open_ l r with mboxes := r.mboxes, mcasts := r.mcasts } = r := by
  induction l generalizing open_ r with
  | nil => rfl
  | cons x l ih =>
    rw [settleMcasts]
    split
    · have e := Res.credit_rest { r with mcasts := r.mcasts.erase x } (some x.mbox) 1
      rw [← ih (open_) (Res.credit { r with mcasts := r.mcasts.erase x } (some x.mbox) 1)] at e
      exact congrArg (fun q : Res => { q with mcasts := r.mcasts }) e
    · exact ih _ _

theorem deadMembers_rest (b : Bool) (m : Mcast) (l : List Rank) (r : Res) :
    { deadMembers b m l r with mboxes := r.mboxes, mcasts := r.mcasts, errq := r.errq, errOvf := r.errOvf } = r := by
  induction l generalizing r with
  | nil => rfl
  | cons d l ih =>
    rw [deadMembers]
    generalize he : errEntry Cause.peerDead 0 0 0 0 d.toNat 0 _ = e
    have h1 : { (r.weigh m.group m.num [d]).postError e with errq := (r.weigh m.group m.num [d]).errq, errOvf := (r.weigh m.group m.num [d]).errOvf } = r.weigh m.group m.num [d] := by
      unfold Res.postError
      split <;> rfl
    have h2 : { r.weigh m.group m.num [d] with mboxes := r.mboxes, mcasts := r.mcasts } = r := by
      rw [Res.weigh, Res.settleCasts]
      exact congrArg (fun q : Res => { q with mcasts := r.mcasts }) (settleMcasts_rest _ _ _)
    have h3 := ih ((r.weigh m.group m.num [d]).postError e)
    rw [← h3] at h1
    rw [← h1] at h2
    exact congrArg (fun q : Res => { q with errq := r.errq, errOvf := r.errOvf }) h2

/-- The copies of a multicast have rising numbers. -/
theorem castSends_id (q : Send) (l : List Rank) (n : Nat) {x : Send} (hx : x ∈ castSends q n l) : n ≤ x.id := by
  induction l generalizing n with
  | nil => cases hx
  | cons d l ih =>
    rcases List.mem_cons.mp hx with rfl | hx
    · exact Nat.le_refl n
    · exact (Nat.le_succ n).trans (ih _ hx)

theorem castSends_inj (q : Send) (l : List Rank) (n : Nat) {x y : Send} (hx : x ∈ castSends q n l) (hy : y ∈ castSends q n l) (h : x.id = y.id) : x = y := by
  induction l generalizing n with
  | nil => cases hx
  | cons d l ih =>
    rcases List.mem_cons.mp hx with rfl | hx <;> rcases List.mem_cons.mp hy with rfl | hy
    · rfl
    · exact absurd (castSends_id q l _ hy) (by rw [← h]; exact Nat.not_succ_le_self n)
    · exact absurd (castSends_id q l _ hx) (by rw [h]; exact Nat.not_succ_le_self n)
    · exact ih _ hx hy

theorem castSends_mem (q : Send) (l : List Rank) (n : Nat) {d : Rank} (hd : d ∈ l) : ∃ m, n ≤ m ∧ { q with id := m, msg := { q.msg with dst := d, sendId := m } } ∈ castSends q n l := by
  induction l generalizing n with
  | nil => cases hd
  | cons x l ih =>
    rcases List.mem_cons.mp hd with rfl | hd
    · exact ⟨n, Nat.le_refl n, List.mem_cons_self⟩
    · obtain ⟨m, hm, h⟩ := ih (n + 1) hd
      exact ⟨m, (Nat.le_succ n).trans hm, List.mem_cons_of_mem _ h⟩

theorem castSends_res (q : Send) (l : List Rank) (n : Nat) {x : Send} (hx : x ∈ castSends q n l) : x.res = q.res := by
  induction l generalizing n with
  | nil => cases hx
  | cons d l ih =>
    rcases List.mem_cons.mp hx with rfl | hx
    · rfl
    · exact ih _ hx

section
variable {s : State}

theorem State.localDone_mem {q x : Send} (hx : x ∈ s.core.sends) (hn : x.id ≠ q.id) : x ∈ (s.localDone q).core.sends := by
  unfold State.localDone
  extract_lets s1 shared s2 s2'
  have h1 : x ∈ s1.core.sends := List.mem_map.mpr ⟨x, hx, if_neg hn⟩
  clear_value s1
  have h2 : x ∈ s2.core.sends := by
    simp only [s2]
    split
    · exact h1
    · have : (s1.rangeRemove q.range).core.sends = s1.core.sends := by
        unfold State.rangeRemove
        split <;> rfl
      exact this ▸ h1
  clear_value s2
  split
  · exact hx
  · exact h2

theorem State.uncharge_core (q : Send) : (s.uncharge q).core = s.core := by
  unfold State.uncharge
  split <;> rfl

theorem State.closeSend_mem {q x : Send} (hx : x ∈ s.core.sends) (hn : x.id ≠ q.id) : x ∈ (s.closeSend q).core.sends := by
  rw [State.closeSend, State.uncharge_core]
  exact List.mem_filter.mpr ⟨hx, bne_iff_ne.mpr hn⟩

/-- The failure of one send keeps those of other numbers. -/
theorem State.failSend_mem {q x : Send} {cause : BitVec 7} {b : Bool} (hb : s.core.bad = []) (hx : x ∈ s.core.sends) (hn : x.id ≠ q.id) :
    ∃ y ∈ (s.failSend q cause b).core.sends, y.fixed = x.fixed := by
  have h3 : x ∈ (((s.localDone q).sendError q cause (sendInfo q.msg b)).closeSend q).core.sends := State.closeSend_mem (State.localDone_mem hx hn) hn
  have g3 := ((s.sends_localDone q).trans (State.sends_sendError _ q cause (sendInfo q.msg b))).trans (State.sends_closeSend _ q)
  exact (lets_passes.resumeStream _ q (g3.bad.trans hb)).mem_sends h3

theorem sends_refuseCopies (l : List Send) (s : State) : State.Sends s (refuseCopies l s) := by
  induction l generalizing s with
  | nil => exact .refl s
  | cons q l ih => exact (s.sends_failSend q _ _).trans (ih _)

theorem refuseCopies_mem {x : Send} (l : List Send) (s : State) (hb : s.core.bad = []) (hx : ∃ y ∈ s.core.sends, y.fixed = x.fixed) (hn : ∀ q ∈ l, x.id ≠ q.id) :
    ∃ y ∈ (refuseCopies l s).core.sends, y.fixed = x.fixed := by
  induction l generalizing s with
  | nil => exact hx
  | cons q l ih =>
    obtain ⟨y, hy, hf⟩ := hx
    have hid : y.id = x.id := congrArg (·.id) hf
    obtain ⟨z, hz, hg⟩ := State.failSend_mem (cause := Cause.illegalOperand) (b := false) hb hy (hid ▸ hn q List.mem_cons_self)
    exact ih _ ((s.sends_failSend q _ _).bad.trans hb) ⟨z, hz, hg.trans hf⟩ fun p hp => hn p (List.mem_cons_of_mem _ hp)

theorem State.sends_startCast (qs : List Send) : Sends s (s.startCast qs) := by
  unfold State.startCast
  extract_lets out go s1
  have h0 : Sends s (s.modCore fun c => { c with sends := c.sends ++ qs, nextId := c.nextId + qs.length }) := .modCore s _ fun _ => rfl
  have h1 : Sends s s1 := h0.trans (sends_refuseCopies out _)
  clear_value s1 go
  split
  · exact h1
  · refine (h1.trans (.modCore s1 _ ?_)).trans (State.sends_flush _)
    exact fun _ => rfl

/-- A copy to a core of the work order is entered (R269). -/
theorem State.startCast_mem {q x : Send} {n : Nat} {l : List Rank} (hb : s.core.bad = []) (hx : x ∈ castSends q n l) (ho : s.outsideOrder x.res x.msg.dst = false) :
    ∃ y ∈ (s.startCast (castSends q n l)).core.sends, y.fixed = x.fixed := by
  unfold State.startCast
  extract_lets out go s1
  have h0 : Sends s (s.modCore fun c => { c with sends := c.sends ++ castSends q n l, nextId := c.nextId + (castSends q n l).length }) := .modCore s _ fun _ => rfl
  have h1 : ∃ y ∈ s1.core.sends, y.fixed = x.fixed := by
    refine refuseCopies_mem out _ (h0.bad.trans hb) ⟨x, List.mem_append_right _ hx, rfl⟩ fun p hp he => ?_
    obtain ⟨hp, hout⟩ := List.mem_filter.mp hp
    rw [← castSends_inj q l n hx hp he, ho] at hout
    exact Bool.noConfusion hout
  have g1 : s1.core.bad = [] := (h0.trans (sends_refuseCopies out _)).bad.trans hb
  clear_value s1 go
  obtain ⟨y, hy, hf⟩ := h1
  split
  · exact ⟨y, hy, hf⟩
  case h_2 p l =>
    obtain ⟨z, hz, hg⟩ := (lets_passes.flush (s1.queueOut (.cast p.msg ((p :: l).map fun x => ⟨x.msg.dst, 0, x.id, .ioDie⟩)) s.releaseIds true) g1).mem_sends hy
    exact ⟨z, hz, hg.trans hf⟩

end

/-- What MCAST does to its residency's table before the copies are entered (R269, R270). -/
def Res.castEntered (r : Res) (m : Mcast) (dead : List Rank) : Res :=
  deadMembers false m dead
    (Res.settleCasts { r with mcasts := r.mcasts ++ [m], mcastNext := (m.group, m.num + 1) :: r.mcastNext.filter fun x => x.1 != m.group })

theorem Res.castEntered_castNext (r : Res) (m : Mcast) (dead : List Rank) : (r.castEntered m dead).castNext m.group = m.num + 1 := by
  have h : (r.castEntered m dead).mcastNext = (m.group, m.num + 1) :: r.mcastNext.filter fun x => x.1 != m.group :=
    (congrArg (·.mcastNext) (deadMembers_rest false m dead _)).trans (congrArg (·.mcastNext) (settleMcasts_rest (r.mcasts ++ [m]) [] _))
  rw [Res.castNext, h, List.find?_cons_of_pos (by simp)]
  rfl

/-- A multicast that every receiver can free stays in the table until they do (R270). -/
theorem Res.castEntered_mem (r : Res) (m : Mcast) (ho : m.owed ≠ []) : m ∈ (r.castEntered m []).mcasts :=
  settleMcasts_mem _ _ _ (List.mem_append_right _ (List.mem_singleton_self m)) ho

theorem Res.castEntered_rest (r : Res) (m : Mcast) (dead : List Rank) : { r.castEntered m dead with mboxes := r.mboxes, mcasts := r.mcasts, mcastNext := r.mcastNext, errq := r.errq, errOvf := r.errOvf } = r := by
  have h1 := deadMembers_rest false m dead (Res.settleCasts { r with mcasts := r.mcasts ++ [m], mcastNext := (m.group, m.num + 1) :: r.mcastNext.filter fun x => x.1 != m.group })
  have h2 := settleMcasts_rest (r.mcasts ++ [m]) [] { r with mcasts := r.mcasts ++ [m], mcastNext := (m.group, m.num + 1) :: r.mcastNext.filter fun x => x.1 != m.group }
  let f (q : Res) : Res := { q with mboxes := r.mboxes, mcasts := r.mcasts, mcastNext := r.mcastNext, errq := r.errq, errOvf := r.errOvf }
  exact (congrArg f h1).trans ((congrArg f h2).trans (show f _ = r from rfl))

/-- The send of which MCAST enters a copy for each receiver (R269). -/
def State.castSend (s : State) (g : BitVec 16) (buf : Word) (n : Nat) (tag : BitVec 28) (range : Option (Fin 32)) : Send :=
  let q := s.newSend 0 buf g (tag.zeroExtend 32) n (n4Blg buf)
  { q with msg := { q.msg with cls := 1, mcast := s.r.castNext g, rdv := decide (s.r.eagerOf g < n) }, range := range }

/-- The entry that MCAST makes in its residency's table (R270). -/
def State.castRecord (s : State) (g : BitVec 16) (mb : BitVec 4) (tag : BitVec 28) : Mcast := ⟨g, s.r.castNext g, mb, tag.zeroExtend 32, s.r.others g⟩

section
variable {s : State}

theorem State.guardArea_res (s : State) (k : RangeKind) (p : Word) (n : Nat) : (s.guardArea k p n).1.res = s.res := by
  unfold State.guardArea
  split
  · rfl
  · unfold State.rangeAdd
    split <;> rfl

/-- MCAST enters its copies after the table of its residency has taken the multicast (R269, R270). -/
theorem State.multicast_eq (gr buf len : Word) (mb : BitVec 4) (tag : BitVec 28) : ∃ (v : State) (range : Option (Fin 32)),
    Sends s v ∧ v.res = s.res ∧ v.fresh = s.fresh ∧
    s.multicast gr buf len mb tag =
      (v.modR fun r => r.castEntered (s.castRecord (gr.truncate 16) mb tag) (s.deadOthers (gr.truncate 16))).startCast
        (castSends (s.castSend (gr.truncate 16) buf (wholeLen buf (field len 0 24)) tag range) s.fresh
          ((s.r.others (gr.truncate 16)).filter fun d => !(s.deadOthers (gr.truncate 16)).contains d)) := by
  unfold State.multicast
  extract_lets g n num live e q q1 s1
  have hq : e.1.newSend = s.newSend ∧ Sends s e.1 ∧ e.1.res = s.res := by
    simp only [e]
    split
    · exact ⟨rfl, .refl s, rfl⟩
    · exact ⟨s.guardArea_newSend _ _ _, s.sends_guardArea _ _ _, s.guardArea_res _ _ _⟩
  obtain ⟨hn, hs, hr⟩ := hq
  have hf : e.1.fresh = s.fresh := congrArg (fun f => (f 0 0 0 0 0 0).id) hn
  refine ⟨e.1, e.2, hs, hr, hf, ?_⟩
  clear_value e
  simp only [s1, q1, q, hn]
  rw [← hf]
  rfl

/-- What MCAST leaves (R269, R270). -/
def CastOutcome (s t : State) (g : BitVec 16) (buf : Word) (n : Nat) (mb : BitVec 4) (tag : BitVec 28) : Prop :=
  t.core.mem = s.core.mem ∧
  (∀ d ∈ s.r.others g, d ∉ s.deadOthers g → s.outsideOrder s.curRes d = false → EnteredSend s t buf n d g (tag.zeroExtend 32) 1 none) ∧
  (s.deadOthers g = [] → s.r.others g ≠ [] → s.castRecord g mb tag ∈ t.r.mcasts) ∧ t.r.castNext g = s.r.castNext g + 1

theorem CastOutcome.ended {s t : State} {g : BitVec 16} {buf : Word} {n : Nat} {mb : BitVec 4} {tag : BitVec 28} (h : CastOutcome s t g buf n mb tag) (p : Option Pair) :
    CastOutcome s (s.ended t p) g buf n mb tag := by
  have hm : (s.ended t p).r.mcasts = t.r.mcasts := by rw [State.ended, State.advance, State.modC_r]; rfl
  have hn : (s.ended t p).r.mcastNext = t.r.mcastNext := by rw [State.ended, State.advance, State.modC_r]; rfl
  obtain ⟨hmem, hsend, hcast, hnext⟩ := h
  exact ⟨hmem, hsend, fun hd ho => hm ▸ hcast hd ho, by rw [Res.castNext, hn]; exact hnext⟩

theorem State.Begins.multicast {s b : State} (h : State.Begins s b) (hb : s.core.bad = []) (gr buf len : Word) (mb : BitVec 4) (tag : BitVec 28) :
    CastOutcome s (b.multicast gr buf len mb tag) (gr.truncate 16) buf (wholeLen buf (field len 0 24)) mb tag := by
  obtain ⟨v, range, hv, hres, hfresh, heq⟩ := b.multicast_eq gr buf len mb tag
  rw [heq]
  have hrec : b.castRecord (gr.truncate 16) mb tag = s.castRecord (gr.truncate 16) mb tag := by
    rw [State.castRecord, State.castRecord, h.castNext, h.others]
  rw [hrec, h.others, h.deadOthers]
  generalize hw : (v.modR fun r => r.castEntered (s.castRecord (gr.truncate 16) mb tag) (s.deadOthers (gr.truncate 16))) = w
  have hwr : w.r = b.r.castEntered (s.castRecord (gr.truncate 16) mb tag) (s.deadOthers (gr.truncate 16)) := by
    rw [← hw, State.modR_r, State.r, State.r, hres, hv.curRes]
  have hwc : w.core = v.core := by rw [← hw]; rfl
  have hwo : ∀ d, w.outsideOrder w.curRes d = s.outsideOrder s.curRes d := fun d => by
    have hk : w.r.orderCores = b.r.orderCores := hwr ▸ congrArg (·.orderCores) (b.r.castEntered_rest _ _)
    have hs : w.srv = b.srv := by rw [← hw]; exact hv.srv
    rw [← h.outsideOrder, ← h.curRes, State.outsideOrder, State.outsideOrder, hs]
    exact congrArg (fun l : List Nat => _ && !l.contains _) hk
  have hcur : w.curRes = s.curRes := by rw [← hw]; exact hv.curRes.trans h.curRes
  have hwb : w.core.bad = [] := hwc ▸ hv.bad.trans (h.bad.trans hb)
  have hS := w.sends_startCast (castSends (b.castSend (gr.truncate 16) buf (wholeLen buf (field len 0 24)) tag range) b.fresh
    ((s.r.others (gr.truncate 16)).filter fun d => !(s.deadOthers (gr.truncate 16)).contains d))
  have hSm := congrArg (·.mcasts) (hS.res w.curRes)
  have hSn := congrArg (·.mcastNext) (hS.res w.curRes)
  rw [← hS.curRes] at hSm hSn
  refine ⟨hS.mem.trans (hwc ▸ hv.mem.trans h.mem), fun d hd hl ho => ?_, fun hd ho => ?_, ?_⟩
  · obtain ⟨n, hn, hx⟩ := castSends_mem (b.castSend (gr.truncate 16) buf (wholeLen buf (field len 0 24)) tag range)
      ((s.r.others (gr.truncate 16)).filter fun d => !(s.deadOthers (gr.truncate 16)).contains d) b.fresh (List.mem_filter.mpr ⟨hd, by simpa using hl⟩)
    obtain ⟨y, hy, hf⟩ := w.startCast_mem hwb hx (by
      have : b.curRes = w.curRes := h.curRes.trans hcur.symm
      exact (this ▸ hwo d).trans ho)
    refine enteredSend_of hy hf (h.nextId ▸ hn) h.curRes h.curCtx h.atPair (congrArg (·.rank) h.r) (congrArg (·.order) h.r) ?_ rfl
    exact congrArg (fun n => decide (n < wholeLen buf (field len 0 24))) (h.eagerOf (gr.truncate 16))
  · refine hSm.symm ▸ ?_
    rw [hS.curRes]
    show _ ∈ w.r.mcasts
    rw [hwr, hd]
    exact b.r.castEntered_mem _ ho
  · refine (congrArg (fun l : List (BitVec 16 × BitVec 16) => ((l.find? fun x => x.1 == gr.truncate 16).map (·.2)).getD 0) hSn).trans ?_
    rw [hS.curRes]
    exact (congrArg (fun r : Res => r.castNext (gr.truncate 16)) hwr).trans (b.r.castEntered_castNext _ _)

theorem execMcast_outcome {h : CHdr} {a b c : BitVec 5} {x : Bool} {mb : BitVec 4} {tag : BitVec 28} (hb : s.core.bad = []) (hr : (opMcast h a b c x mb tag).ready s = true) :
    ∃ t, exec (.mcast h a b c x mb tag) s = .next t ∧
      CastOutcome s t ((s.seen.c.reg h.s a).truncate 16) (s.seen.c.reg h.s b) (wholeLen (s.seen.c.reg h.s b) (field (s.seen.c.regX h.s c x) 0 24)) mb tag := by
  have hB := Op.begins hr fun _ _ => rfl
  refine ⟨_, (exec_eq_runOne _ _ s rfl).trans (runOne_ready _ s hr rfl), ?_⟩
  rw [← hB.reg, ← hB.reg, ← hB.regX]
  exact (hB.multicast hb _ _ _ mb tag).ended none

end

/-! ### SENDP -/

/-- The issue counts a bundle of the open packet's owner (R262). -/
theorem State.begun_packet (s : State) : s.begun.core.packet = if s.ownsPacket then s.core.packet.map fun p => { p with bundles := p.bundles + 1 } else s.core.packet := by
  obtain ⟨-, hc, -, hk⟩ := s.replayBack_place
  have hr := s.apart_replayBack.curRes
  have ho : s.replayBack.ownsPacket = s.ownsPacket := by
    rw [State.ownsPacket, State.ownsPacket, hk, hc, hr]
  have hb : s.begun.core.packet = s.replayBack.noteIssue.core.packet := rfl
  rw [hb, State.noteIssue, ho]
  split
  · rw [← hk]; rfl
  · rw [← hk]; rfl

theorem State.begun_myPacket (s : State) : s.begun.myPacket = s.myPacket.map fun p => { p with bundles := p.bundles + 1 } := by
  obtain ⟨hr, hc, -⟩ := s.begun_place
  have hp := s.begun_packet
  cases ho : s.ownsPacket
  case false =>
    rw [ho, if_neg Bool.false_ne_true] at hp
    have hb : s.begun.ownsPacket = s.ownsPacket := by
      rw [State.ownsPacket, hp, hr, hc, State.ownsPacket]
    rw [State.myPacket, State.myPacket, hb, ho]
    rfl
  case true =>
    rw [ho, if_pos rfl] at hp
    have hb : s.begun.ownsPacket = s.ownsPacket := by
      rw [State.ownsPacket, hp, hr, hc, State.ownsPacket]
      cases s.core.packet <;> rfl
    rw [State.myPacket, State.myPacket, hb, ho]
    exact hp

/-- The send of a closed packet (R261). -/
def State.packetSend (s : State) (p : Packet) (buf : Word) : Send :=
  let q := s.newSend p.dest buf p.group p.tag (p.data ++ p.scales).length p.blg
  { q with msg := { q.msg with pkt := true, data := p.data ++ p.scales }, kept := true }

theorem State.closePacket_eq (s : State) (p : Packet) (buf : Word) : s.closePacket p buf =
    (((s.modCore fun c => { c with packet := none, packetKept := some s.fresh }).startSend (s.packetSend p buf)).modCore fun c =>
      { c with leaving := markersGo s.curRes (some s.fresh) c.leaving }).flush := rfl

/-- A closed packet is one send, and its buffer is kept for it (R261). -/
theorem State.closePacket_outcome {s : State} {p : Packet} {buf : Word} (hb : s.core.bad = []) (ho : s.outsideOrder s.curRes p.dest = false) :
    Sends s (s.closePacket p buf) ∧ (s.closePacket p buf).core.packet = none ∧ (s.closePacket p buf).core.packetKept = some s.fresh ∧
    ∃ x ∈ (s.closePacket p buf).core.sends, x.fixed = (s.packetSend p buf).fixed := by
  rw [State.closePacket_eq]
  have h0 : Sends s (s.modCore fun c => { c with packet := none, packetKept := some s.fresh }) := .modCore s _ fun _ => rfl
  have e0 : (s.modCore fun c => { c with packet := none, packetKept := some s.fresh }).core.packet = none ∧
      (s.modCore fun c => { c with packet := none, packetKept := some s.fresh }).core.packetKept = some s.fresh := ⟨rfl, rfl⟩
  have o0 : (s.modCore fun c => { c with packet := none, packetKept := some s.fresh }).outsideOrder s.curRes (s.packetSend p buf).msg.dst = false := ho
  generalize s.modCore (fun c => { c with packet := none, packetKept := some s.fresh }) = s0 at *
  generalize s.packetSend p buf = q at *
  have b0 : s0.core.bad = [] := h0.bad.trans hb
  rw [← h0.curRes] at o0
  have h1 := h0.trans (s0.sends_startSend q)
  have p1 := State.passes_startSend b0 o0
  obtain ⟨x, hx, hf⟩ := State.startSend_mem b0 o0
  have k1 : (s0.startSend q).core.packet = none ∧ (s0.startSend q).core.packetKept = some s.fresh :=
    ⟨(congrArg (·.packet) p1.core).trans e0.1, (congrArg (·.packetKept) p1.core).trans e0.2⟩
  generalize s0.startSend q = s1 at *
  have p2 := lets_passes.flush (s1.modCore fun c => { c with leaving := markersGo s.curRes (some s.fresh) c.leaving }) (h1.bad.trans hb)
  obtain ⟨y, hy, hg⟩ := p2.mem_sends hx
  refine ⟨(h1.trans (.modCore s1 _ ?_)).trans (.of_passes p2), (congrArg (·.packet) p2.core).trans k1.1, (congrArg (·.packetKept) p2.core).trans k1.2, y, hy, hg.trans hf⟩
  exact fun _ => rfl

/-- The state in which SENDP's packet goes on (R261). -/
def State.fedPacket (b : State) (buf ctl : Word) : State :=
  (b.modR (·.credit (ctlMbox ctl) (ctlLen ctl))).modC fun k => { k with busyUntil := b.core.cycle + BitVec.ofNat 64 ((wholeLen buf (ctlLen ctl) + 63) / 64) }

theorem State.fedPacket_core (b : State) (buf ctl : Word) : (b.fedPacket buf ctl).core = b.core := rfl

theorem State.fedPacket_busy (b : State) (buf ctl : Word) :
    (b.fedPacket buf ctl).c.busyUntil = b.core.cycle + BitVec.ofNat 64 ((wholeLen buf (ctlLen ctl) + 63) / 64) := by
  rw [State.fedPacket, State.modC_c]

theorem State.fedPacket_outside (b : State) (buf ctl : Word) (d : Rank) : (b.fedPacket buf ctl).outsideOrder (b.fedPacket buf ctl).curRes d = b.outsideOrder b.curRes d := by
  have h : (b.fedPacket buf ctl).r.orderCores = b.r.orderCores := by
    rw [State.fedPacket, State.modC_r, State.modR_r]
    exact congrArg (·.orderCores) (b.r.credit_rest (ctlMbox ctl) (ctlLen ctl))
  exact congrArg (fun l : List Nat => Rank.pkg d == b.srv.pkg && !l.contains (Rank.core d)) h

theorem State.readBytes_zero (s : State) (o : Nat) : s.readBytes o 0 = [] := by
  rw [State.readBytes.eq_1]
  generalize s.regionOf o = g
  cases g with
  | none => rfl
  | some g =>
    dsimp only
    split
    · rfl
    · split <;> rfl

/-- A SENDP that goes on fits the open packet (R262). -/
theorem State.packetBad_none {s : State} {dst : Rank} {buf ctl : Word} {tag : BitVec 32} (h : s.packetBad dst buf ctl tag = false) {p : Packet} (hp : s.myPacket = some p) :
    p.tag = tag ∧ p.dest = dst ∧ p.blg = n4Blg buf := by
  simp only [State.packetBad, hp, Bool.or_eq_false_iff, bne_eq_false_iff_eq] at h
  exact ⟨h.1.1.1.1, h.1.1.2, h.1.2⟩

theorem State.ended_busy (s t : State) (n : Option Pair) : (s.ended t n).c.busyUntil = t.c.busyUntil := by
  exact congrArg (·.busyUntil) (s.ended_rest t n)

section
variable {h : CHdr} {a b c : BitVec 5} {x fin : Bool} {tag : BitVec 31} {s : State}

theorem opSendp_begun (h : CHdr) (a b c : BitVec 5) (x fin : Bool) (tag : BitVec 31) (s : State) : (opSendp h a b c x fin tag).begun s = s.begun :=
  Op.begun_eq (fun t => by simp only [opSendp, opN, Op.base]) s

theorem opSendp_fits (hr : (opSendp h a b c x fin tag).ready s = true) : s.seen.packetBad (rankOf (s.seen.c.reg h.s a)) (s.seen.c.reg h.s b) (s.seen.c.regX h.s c x) (tag.zeroExtend 32) = false :=
  illegalIf_none _ _ _ (orElse_none _ _ (orElse_none _ _ (orElse_none _ _ (Op.ready_check _ s hr)).2).2).1

theorem State.seen_myPacket (s : State) : s.seen.myPacket = s.myPacket := rfl

theorem opSendp_issued (h : CHdr) (a b c : BitVec 5) (x fin : Bool) (tag : BitVec 31) (s : State) :
    (opSendp h a b c x fin tag).issued s = s.ended ((opSendp h a b c x fin tag).eff s.begun) none := by
  rw [← opSendp_begun]
  rfl

/-- The packet that a SENDP of a ready form makes (R261, R262). -/
theorem State.begun_packetWith (hr : (opSendp h a b c x fin tag).ready s = true) (buf ctl : Word) :
    let p := s.begun.packetWith (rankOf (s.seen.c.reg h.s a)) buf ctl (tag.zeroExtend 32)
    p.data = (s.myPacket.map (·.data)).getD [] ++ s.begun.readBytes (ptrOff buf) (ctlLen ctl) ∧ p.dest = rankOf (s.seen.c.reg h.s a) ∧ p.tag = tag.zeroExtend 32 ∧
    (s.myPacket = none → p.owner = s.curCtx ∧ p.res = s.curRes) ∧ (n4Blg buf = 0 → (∀ q, s.myPacket = some q → q.scales = []) → p.scales = []) := by
  intro p
  obtain ⟨hcr, hcc, -⟩ := s.begun_place
  have hm := s.begun_myPacket
  have hw : n4Blg buf = 0 → s.begun.readBytes (ptrOff buf + ctlLen ctl) (wholeLen buf (ctlLen ctl) - ctlLen ctl) = [] := fun hz => by
    rw [wholeLen, if_pos hz, Nat.sub_self, State.readBytes_zero]
  cases he : s.myPacket with
  | none =>
    simp only [he, Option.map_none] at hm
    simp only [p, State.packetWith, hm, Option.getD_none, Option.map_none, hcr, hcc]
    exact ⟨trivial, trivial, trivial, fun _ => ⟨trivial, trivial⟩, fun hz _ => by rw [hw hz]; rfl⟩
  | some q =>
    obtain ⟨ht, hd, -⟩ := State.packetBad_none (opSendp_fits hr) (s.seen_myPacket.trans he)
    simp only [he, Option.map_some] at hm
    simp only [p, State.packetWith, hm, Option.getD_some, Option.map_some]
    exact ⟨trivial, hd, ht, fun h => (Option.some_ne_none _ h).elim, fun hz hq => by rw [hq q rfl, hw hz]; rfl⟩

/-- The context is busy while a SENDP copies (R261). -/
def SendpBusy (s t : State) (buf ctl : Word) : Prop := t.c.busyUntil = s.core.cycle + BitVec.ofNat 64 ((wholeLen buf (ctlLen ctl) + 63) / 64)

theorem execSendp_open (hr : (opSendp h a b c x false tag).ready s = true) : ∃ t p, exec (.sendp h a b c x false tag) s = .next t ∧ t.core.packet = some p ∧ t.core.mem = s.core.mem ∧
    SendpBusy s t (s.seen.c.reg h.s b) (s.seen.c.regX h.s c x) ∧
    p = s.begun.packetWith (rankOf (s.seen.c.reg h.s a)) (s.seen.c.reg h.s b) (s.seen.c.regX h.s c x) (tag.zeroExtend 32) := by
  have hB := Op.begins hr fun _ _ => rfl
  rw [opSendp_begun] at hB
  have he := (exec_eq_runOne (.sendp h a b c x false tag) _ s rfl).trans (runOne_ready _ s hr rfl)
  rw [opSendp_issued] at he
  refine ⟨_, _, he, rfl, hB.mem, ?_, ?_⟩
  · rw [SendpBusy, State.ended_busy, ← hB.reg, ← hB.regX]
    exact (s.begun.fedPacket_busy _ _).trans (congrArg (· + _) (congrArg (·.cycle) hB.core))
  · rw [← hB.reg, ← hB.reg, ← hB.regX]

theorem execSendp_closed (hb : s.core.bad = []) (hr : (opSendp h a b c x true tag).ready s = true) (ho : s.outsideOrder s.curRes (rankOf (s.seen.c.reg h.s a)) = false) :
    ∃ t, exec (.sendp h a b c x true tag) s = .next t ∧ t.core.packet = none ∧ t.core.packetKept = some s.core.nextId ∧ t.core.mem = s.core.mem ∧
    SendpBusy s t (s.seen.c.reg h.s b) (s.seen.c.regX h.s c x) ∧ ∃ q ∈ t.core.sends, q.id = s.core.nextId ∧ q.kept = true ∧ q.msg.pkt = true ∧ q.msg.rdv = false ∧
      q.msg.dst = rankOf (s.seen.c.reg h.s a) ∧ q.msg.tag = tag.zeroExtend 32 ∧ q.msg.len = q.msg.data.length ∧
      let p := s.begun.packetWith (rankOf (s.seen.c.reg h.s a)) (s.seen.c.reg h.s b) (s.seen.c.regX h.s c x) (tag.zeroExtend 32)
      q.msg.data = p.data ++ p.scales := by
  have hB := Op.begins hr fun _ _ => rfl
  obtain ⟨-, hd, ht, -, -⟩ := State.begun_packetWith hr (s.seen.c.reg h.s b) (s.seen.c.regX h.s c x)
  refine ⟨_, (exec_eq_runOne _ _ s rfl).trans (runOne_ready _ s hr rfl), ?_⟩
  rw [opSendp_begun] at hB
  rw [opSendp_issued]
  have he : (opSendp h a b c x true tag).eff s.begun = (s.begun.fedPacket (s.seen.c.reg h.s b) (s.seen.c.regX h.s c x)).closePacket
      (s.begun.packetWith (rankOf (s.seen.c.reg h.s a)) (s.seen.c.reg h.s b) (s.seen.c.regX h.s c x) (tag.zeroExtend 32)) (s.seen.c.reg h.s b) := by
    rw [← hB.reg, ← hB.reg, ← hB.regX]
    rfl
  generalize s.begun.packetWith (rankOf (s.seen.c.reg h.s a)) (s.seen.c.reg h.s b) (s.seen.c.regX h.s c x) (tag.zeroExtend 32) = p at *
  rw [he]
  have h1 := s.begun.fedPacket_core (s.seen.c.reg h.s b) (s.seen.c.regX h.s c x)
  have h2 := s.begun.fedPacket_busy (s.seen.c.reg h.s b) (s.seen.c.regX h.s c x)
  have h3 := s.begun.fedPacket_outside (s.seen.c.reg h.s b) (s.seen.c.regX h.s c x) p.dest
  generalize s.begun.fedPacket (s.seen.c.reg h.s b) (s.seen.c.regX h.s c x) = v at *
  have hn : v.fresh = s.core.nextId := (congrArg (·.nextId) h1).trans hB.nextId
  obtain ⟨hS, hp, hk, y, hy, hf⟩ := State.closePacket_outcome (s := v) (p := p) (buf := s.seen.c.reg h.s b) (h1 ▸ hB.bad.trans hb) (by rw [h3, hB.curRes, hB.outsideOrder, hd, ho])
  have e {α : Type} (f : Send → α) : f y.fixed = f (v.packetSend p (s.seen.c.reg h.s b)).fixed := congrArg f hf
  refine ⟨hp, hk.trans (congrArg some hn), hS.mem.trans (h1 ▸ hB.mem), ?_, y, hy, (e (·.id)).trans hn, e (·.kept), e (·.msg.pkt), e (·.msg.rdv), (e (·.msg.dst)).trans hd,
    (e (·.msg.tag)).trans ht, (e (·.msg.len)).trans (congrArg List.length (e (·.msg.data))).symm, e (·.msg.data)⟩
  rw [SendpBusy, State.ended_busy, hS.c, h2]
  exact congrArg (· + _) (congrArg (·.cycle) hB.core)

end

/-- Settles O45: every send is entered with the fields of its operands, and what lets sends out keeps them. -/
theorem sendInstructionResults : Obligations.SendInstructionResults := by
  unfold Obligations.SendInstructionResults
  refine ⟨fun h a b c x mb tag tag28 s hb => ⟨fun hr => execSend_outcome hb hr, fun hr => ?_, fun hr => execMcast_outcome hb hr⟩, fun h a b c x tag s => ?_⟩
  · obtain ⟨t, dst, he, ⟨hm, ho⟩, hd, hle⟩ := execSendx_outcome hb hr
    exact ⟨t, dst, he, hm, hd, hle, ho⟩
  · intro buf len dst old bytes whole busy hb
    refine ⟨fun hr => ?_, fun hr ho => ?_⟩
    · obtain ⟨t, p, he, hp, hm, hbusy, rfl⟩ := execSendp_open hr
      obtain ⟨hd, hdst, htag, hown, -⟩ := State.begun_packetWith hr (s.seen.c.reg h.s b) (s.seen.c.regX h.s c x)
      refine ⟨t, _, he, hp, hm, hbusy, ?_, fun hn => ⟨(hown hn).1, (hown hn).2, hdst, htag⟩⟩
      rw [opSendp_begun]
      exact hd
    · obtain ⟨t, he, hp, hk, hm, hbusy, q, hq, hid, hkept, hpkt, hrdv, hdst, htag, hlen, hdata⟩ := execSendp_closed hb hr ho
      obtain ⟨hd, -, -, -, hsc⟩ := State.begun_packetWith hr (s.seen.c.reg h.s b) (s.seen.c.regX h.s c x)
      refine ⟨t, he, hp, hk, hm, hbusy, q, hq, hid, hkept, hpkt, hrdv, hdst, htag, hlen, fun hz ho => ?_⟩
      rw [hdata, hsc hz ho, List.append_nil, opSendp_begun]
      exact hd

end Sys2Proof.Machine
end

section
/-!
PROOF. What an instruction touches does not depend on the grant that its touch brings about (R36): registers, residency and address map stay.
-/

namespace Sys2Proof.Machine

open Sys2Proof

/-- The state `v` reads as the state `s` does: registers, mode and record of the context, the residencies but for the ownership of groups, the address map. -/
structure State.Reads (s v : State) : Prop where
  c : ∃ y r k, v.c = s.c.aside3 y r k
  res : ∀ k, { v.res.get k with ctx := (s.res.get k).ctx, lfsr := (s.res.get k).lfsr, accOwn := (s.res.get k).accOwn, tileOwn := (s.res.get k).tileOwn } = s.res.get k
  curRes : v.curRes = s.curRes
  aux : v.core.auxKind = s.core.auxKind ∧ v.core.auxN = s.core.auxN
  foreign : v.core.fwEn = s.core.fwEn ∧ v.core.fwPage = s.core.fwPage ∧ v.core.fwRes = s.core.fwRes

namespace State.Reads

variable {s v : State} (h : State.Reads s v)
include h

theorem r : { v.r with ctx := s.r.ctx, lfsr := s.r.lfsr, accOwn := s.r.accOwn, tileOwn := s.r.tileOwn } = s.r := by
  have := h.res s.curRes
  rwa [← State.r, ← h.curRes, ← State.r] at this

theorem reg (side : Bool) (a : BitVec 5) : v.c.reg side a = s.c.reg side a := by
  obtain ⟨y, r, k, hc⟩ := h.c
  rw [hc]
  rfl

theorem regX (side : Bool) (a : BitVec 5) (x : Bool) : v.c.regX side a x = s.c.regX side a x := by
  obtain ⟨y, r, k, hc⟩ := h.c
  rw [hc]
  rfl

theorem touches (g : Region) : v.touches g = s.touches g := by
  obtain ⟨y, r, k, hc⟩ := h.c
  have hh : ∀ cause, v.handling cause = s.handling cause := fun cause => by rw [State.handling, hc]; rfl
  cases g <;> simp only [State.touches, hh]

theorem regionOf (o : Nat) : v.regionOf o = s.regionOf o := by
  obtain ⟨hk, hn⟩ := h.aux
  obtain ⟨he, hp, hr⟩ := h.foreign
  have hl : ∀ k, (v.res.get k).limit = (s.res.get k).limit := fun k => congrArg (·.limit) (h.res k)
  have hu : v.r.userEnd = s.r.userEnd := by
    have e := congrArg Res.userEnd h.r
    exact e
  have hm : v.r.limit = s.r.limit := congrArg (·.limit) h.r
  rw [State.regionOf.eq_1, State.regionOf.eq_1, hk, hn, he, hp, hr, hl, hu, hm]

theorem accessRegion {a b : Access} (hab : a.ptr = b.ptr) : v.accessRegion a = s.accessRegion b := by
  rw [State.accessRegion, State.accessRegion, h.regionOf, hab]

end State.Reads

/-- The core but for what the grant of a group changes. -/
def CoreSt.regrant (c d : CoreSt) : CoreSt :=
  { d with mem := c.mem, fmt := c.fmt, blg := c.blg, accTenant := c.accTenant, accClear := c.accClear, tileTenant := c.tileTenant, tileClear := c.tileClear }

/-- A grant clears its group and keeps the rest of the core. -/
theorem State.resolve_rest (s : State) (a t : Bool) : s.core.regrant (s.resolve a t).core = s.core := by
  have acc : ∀ (s : State) (k : ResNo), s.core.regrant (s.grantAcc k).core = s.core := fun s k => by
    unfold State.grantAcc
    dsimp only
    split <;> rfl
  have tile : ∀ (s : State) (k : ResNo), s.core.regrant (s.grantTile k).core = s.core := fun s k => by
    unfold State.grantTile
    dsimp only
    split <;> rfl
  unfold State.resolve
  extract_lets s1
  have h1 : s.core.regrant s1.core = s.core := by
    simp only [s1]
    split
    · exact acc s _
    · rfl
  clear_value s1
  split
  · rw [← tile s1 s1.curRes] at h1
    exact h1
  · exact h1

theorem State.reads_resolved (s : State) (a t : Bool) : Reads s.seen ((s.replayBack.resolve a t).modC Ctx.landed) := by
  have hg := State.granted_resolve s.replayBack a t
  obtain ⟨h1, -, -, hcore⟩ := s.replayBack_place
  obtain ⟨r, k, hc⟩ := s.replayBack_c
  refine ⟨⟨s.c.yields, r, k, ?_⟩, fun k => ?_, hg.curRes.trans h1, ?_, ?_⟩
  · rw [State.modC_c, State.resolve_c, hc, Ctx.landed_aside3, State.seen, State.modC_c]
  · have e0 := (s.apart_modC Ctx.landed).rest k
    have e := s.apart_replayBack.rest k
    rw [← hg.res k, ← (State.apart_modC (s.replayBack.resolve a t) Ctx.landed).rest k] at e
    let f (x : Res) : Res := { x with ctx := (s.seen.res.get k).ctx, lfsr := (s.seen.res.get k).lfsr, accOwn := (s.seen.res.get k).accOwn, tileOwn := (s.seen.res.get k).tileOwn }
    have e1 : f (s.res.get k) = s.seen.res.get k := (congrArg f e0).symm
    exact (congrArg f e).trans e1
  all_goals have hm := hcore ▸ s.replayBack.resolve_rest a t
  · exact ⟨congrArg (·.auxKind) hm, congrArg (·.auxN) hm⟩
  · exact ⟨congrArg (·.fwEn) hm, congrArg (·.fwPage) hm, congrArg (·.fwRes) hm⟩

end Sys2Proof.Machine
end

section
/-!
PROOF. The tile-acting instructions (O36): the task that each enters, and what ACCZ and SFS do at once.
-/

namespace Sys2Proof.Machine

open Sys2Proof

/-! ### The task of a form (R215) -/

/-- An instruction enters the task of a form, and its tags land at the end of the bundle. -/
structure Op.Enters (o : Op) (f : TileForm) : Prop where
  touch : ∃ a t, ∀ s, o.touch s = (a, t)
  eff : ∀ b, o.eff b = (b.enqueue (f.task b)).noteTags (f.tags b)
  late : ∀ t, o.late t = t.tagsLand
  after : ∀ t, o.after t = none

theorem opTile_enters (o : Op) (f : TileForm) (ha : ∀ t, o.after t = none) : (opTile o f).Enters f := ⟨⟨_, _, fun _ => rfl⟩, fun _ => rfl, fun _ => rfl, ha⟩

theorem tileTask_enters {i : Instr} {o : Op} (hi : tileTask i = true) (ho : opOf i = some o) :
    ∃ f : TileForm, o.Enters f ∧ f.instr = i ∧ f.ad = taskDesc i := by
  cases i <;> simp only [tileTask, Bool.false_eq_true] at hi
  all_goals
    cases ho
    exact ⟨_, opTile_enters _ _ fun _ => rfl, rfl, rfl⟩

/-- The task with the number that it takes as it is entered. -/
def Task.numbered (x : Task) (n : Nat) : Task := { x with id := n }

section
variable {s b : State} (h : State.Begins s b)
include h

theorem State.Begins.ad : b.r.ad = s.r.ad := congrArg (·.ad) h.r
theorem State.Begins.tshape : b.r.tshape = s.r.tshape := congrArg (·.tshape) h.r
theorem State.Begins.chans : b.r.chans = s.r.chans := congrArg (·.chans) h.r
theorem State.Begins.tasks : b.core.tasks = s.core.tasks := congrArg (·.tasks) h.core
theorem State.Begins.full : b.core.full = s.core.full := congrArg (·.full) h.core

theorem State.Begins.adOf (k : BitVec 3) : b.adOf k = s.adOf k := by rw [State.adOf, State.adOf, h.ad]

end

theorem State.enqueue_tasks (s : State) (x : Task) : (s.enqueue x).core.tasks = s.core.tasks ++ [x.numbered s.core.nextId] := rfl

theorem State.mem_enqueue (s : State) (x : Task) : Instr.foremanDispatch ∈ (s.enqueue x).env.agenda := List.mem_append_right _ (List.mem_singleton_self _)

theorem CoreSt.putTags_rest (l : List TagWrite) (c : CoreSt) : { c.putTags l with fmt := c.fmt, blg := c.blg } = c := by
  induction l generalizing c with
  | nil => rfl
  | cons x l ih =>
    obtain ⟨n, f, b⟩ := x
    exact congrArg (fun d : CoreSt => { d with fmt := c.fmt, blg := c.blg })
      (ih { c with fmt := c.fmt.set n.toNat f n.isLt, blg := match b with | some b => c.blg.set n.toNat b n.isLt | none => c.blg })

theorem State.tagsLand_core (s : State) : { s.tagsLand.core with fmt := s.core.fmt, blg := s.core.blg, tagWrites := s.core.tagWrites } = s.core :=
  congrArg (fun d : CoreSt => { d with tagWrites := s.core.tagWrites }) (s.core.putTags_rest s.core.tagWrites)

/-- The tags to write leave the tasks and the memory (R214). -/
theorem State.tagged_core (s : State) (l : List TagWrite) : (s.noteTags l).tagsLand.core.tasks = s.core.tasks ∧ (s.noteTags l).tagsLand.core.mem = s.core.mem ∧
    (s.noteTags l).tagsLand.core.full = s.core.full :=
  have h := (s.noteTags l).tagsLand_core
  ⟨congrArg (·.tasks) h, congrArg (·.mem) h, congrArg (·.full) h⟩

/-- A tile-acting instruction that issues enters its task (R215). -/
theorem exec_enters {i : Instr} {o : Op} {f : TileForm} {s : State} (ho : opOf i = some o) (he : o.Enters f) (hr : o.ready s = true) :
    ∃ b t, State.Begins s b ∧ exec i s = .next t ∧ t.core.tasks = s.core.tasks ++ [(f.task b).numbered s.core.nextId] ∧ t.core.mem = s.core.mem ∧
      t.core.full = s.core.full ∧ Instr.foremanDispatch ∈ t.env.agenda := by
  obtain ⟨a, t, ht⟩ := he.touch
  have hB := Op.begins hr fun a' t' => (ht _).trans (ht _).symm
  obtain ⟨h1, h2, h3⟩ := ((o.begun s).enqueue (f.task (o.begun s))).tagged_core (f.tags (o.begun s))
  refine ⟨o.begun s, _, hB, (exec_eq_runOne i o s ho).trans (runOne_ready o s hr (he.after _)), ?_⟩
  rw [Op.issued, he.late, he.eff]
  refine ⟨?_, h2.trans hB.mem, h3.trans hB.full, State.mem_enqueue _ _⟩
  rw [← hB.tasks, ← hB.nextId]
  exact h1

/-- What O36 says of the task of a tile-acting instruction. -/
theorem tileTask_task {i : Instr} {o : Op} {s : State} (hi : tileTask i = true) (ho : opOf i = some o) (hr : o.ready s = true) :
    ∃ (t : State) (x : Task), exec i s = .next t ∧ t.core.tasks = s.core.tasks ++ [x] ∧
      x.instr = i ∧ x.pair = s.c.pc ∧ x.ctx = s.curCtx ∧ x.res = s.curRes ∧ x.id = s.core.nextId ∧
      x.dispatched = false ∧ x.stopped = false ∧ x.parked = false ∧ (x.pos, x.jb, x.kb) = (0, 0, 0) ∧
      (∀ k, taskDesc i = some k → x.desc = s.r.ad.get ⟨k.toNat, k.isLt⟩) ∧ (∀ sh ∈ x.shapes, ∃ n : Fin 16, sh = s.r.tshape.get n) ∧
      t.core.mem = s.core.mem ∧ t.core.full = s.core.full ∧ Instr.foremanDispatch ∈ t.env.agenda := by
  obtain ⟨f, he, hfi, hfd⟩ := tileTask_enters hi ho
  obtain ⟨b, t, hB, ht, htasks, hmem, hfull, hag⟩ := exec_enters ho he hr
  refine ⟨t, _, ht, htasks, hfi, hB.atPair, hB.curCtx, hB.curRes, rfl, rfl, rfl, rfl, rfl, fun k hk => ?_, fun sh hsh => ?_, hmem, hfull, hag⟩
  · show f.desc b = _
    rw [TileForm.desc, hfd.trans hk]
    exact hB.adOf k
  · obtain ⟨n, -, rfl⟩ := List.mem_map.mp hsh
    exact ⟨_, by rw [State.shape, hB.tshape]⟩

/-! ### ACCZ (R232) -/

theorem Memory.get_put_zeros {m : List Host.Cell} (h : Memory.wf m = true) (a n x : Nat) :
    memGet (memPut m a (List.replicate n 0)) x = if a ≤ x ∧ x < a + n then 0 else memGet m x := by
  split
  case isTrue hx =>
    obtain ⟨k, rfl⟩ := Nat.exists_eq_add_of_le hx.1
    rw [memGet_memPut_at _ m a k h (by rw [List.length_replicate]; omega), List.getElem_replicate]
  case isFalse hx => exact memGet_memPut_other _ m a x h (by rw [List.length_replicate]; omega)

/-- The rows of a rectangle read 0 once they are zeroed, and every other byte as before. -/
theorem zeroRows_get (d : AccDesc) (l : List Nat) (c : CoreSt) (h : Memory.wf c.mem = true) (x : Nat) :
    ((∃ i ∈ l, d.key i 0 ≤ x ∧ x < d.key i 0 + 4 * d.cols.toNat) → memGet (zeroRows d l c).mem x = 0) ∧
    ((∀ i ∈ l, x < d.key i 0 ∨ d.key i 0 + 4 * d.cols.toNat ≤ x) → memGet (zeroRows d l c).mem x = memGet c.mem x) := by
  induction l generalizing c with
  | nil => exact ⟨fun ⟨_, hi, _⟩ => absurd hi List.not_mem_nil, fun _ => rfl⟩
  | cons i l ih =>
    have hput := Memory.get_put_zeros h (d.key i 0) (4 * d.cols.toNat) x
    obtain ⟨hin, hout⟩ := ih (c.put (d.key i 0) (List.replicate (4 * d.cols.toNat) 0)) (Memory.wf_memPut _ _ _ h)
    refine ⟨fun ⟨j, hj, hx⟩ => ?_, fun ho => ?_⟩
    · by_cases hr : ∃ i ∈ l, d.key i 0 ≤ x ∧ x < d.key i 0 + 4 * d.cols.toNat
      · exact hin hr
      · rcases List.mem_cons.mp hj with rfl | hj
        · refine (hout fun k hk => ?_).trans (hput.trans (if_pos hx))
          by_contra hn
          exact hr ⟨k, hk, by omega⟩
        · exact absurd ⟨j, hj, hx⟩ hr
    · refine (hout fun k hk => ho k (List.mem_cons_of_mem _ hk)).trans (hput.trans (if_neg ?_))
      have := ho i List.mem_cons_self
      omega

theorem AccDesc.key_row (d : AccDesc) (i j : Nat) : d.key i j = d.key i 0 + 4 * j := by
  simp only [AccDesc.key, accKey]
  omega

theorem memNat_zero (m : List Host.Cell) (a n : Nat) (h : ∀ k < n, memGet m (a + k) = 0) : memNat m a n = 0 := by
  induction n generalizing a with
  | zero => rfl
  | succ n ih =>
    have h0 : memGet m a = 0 := h 0 (Nat.succ_pos n)
    have ht : leNat (memBytes m (a + 1) n) = 0 := ih (a + 1) fun k hk => by
      rw [Nat.add_assoc, Nat.add_comm 1 k]
      exact h (k + 1) (by omega)
    show (memGet m a).toNat + 256 * leNat (memBytes m (a + 1) n) = 0
    rw [h0, ht]
    rfl

/-- ACCZ zeroes the words of its rectangle and no other byte (R232). -/
theorem zeroRows_rect (d : AccDesc) (c : CoreSt) (h : Memory.wf c.mem = true) :
    (∀ i j, d.has i j = true → accGet (zeroRows d (List.range d.rows.toNat) c).mem d i j = 0) ∧
    (∀ x, (∀ i j, d.has i j = true → x < d.key i j ∨ d.key i j + 4 ≤ x) → memGet (zeroRows d (List.range d.rows.toNat) c).mem x = memGet c.mem x) := by
  refine ⟨fun i j hij => memNat_zero _ _ _ fun k hk => ?_, fun x hx => (zeroRows_get d _ c h x).2 fun i hi => ?_⟩
  · simp only [AccDesc.has, Bool.and_eq_true, decide_eq_true_eq] at hij
    refine (zeroRows_get d _ c h _).1 ⟨i, List.mem_range.mpr hij.1, ?_⟩
    rw [d.key_row i j]
    omega
  · by_contra hn
    have hi := List.mem_range.mp hi
    have hj : (x - d.key i 0) / 4 < d.cols.toNat := by omega
    have := hx i ((x - d.key i 0) / 4) (by simp [AccDesc.has, hi, hj])
    rw [d.key_row] at this
    omega

theorem execAccz_rect {h : CHdr} {k : BitVec 3} {s : State} (hr : (opAccz h k).ready s = true) (hs : s.Inv) : ∃ t, exec (.accz h k) s = .next t ∧
    (∀ i j, (s.adOf k).has i j = true → accGet t.core.mem (s.adOf k) i j = 0) ∧
    (∀ x, (∀ i j, (s.adOf k).has i j = true → x < (s.adOf k).key i j ∨ (s.adOf k).key i j + 4 ≤ x) → memGet t.core.mem x = memGet s.core.mem x) := by
  have hB := Op.begins hr fun _ _ => rfl
  refine ⟨_, (exec_eq_runOne (.accz h k) _ s rfl).trans (runOne_ready _ s hr rfl), ?_⟩
  have hm : ((opAccz h k).issued s).core.mem = (zeroRows (s.adOf k) (List.range (s.adOf k).rows.toNat) ((opAccz h k).begun s).core).mem := by
    rw [← hB.adOf]
    rfl
  rw [hm, ← hB.mem]
  exact zeroRows_rect _ _ (hB.mem ▸ hs.1)

/-! ### SFS (R239) -/

/-- What SFS leaves: its request is queued, and its context waits for the answer. -/
def SfsOutcome (s t : State) (h : CHdr) (a b : BitVec 5) (r : BitVec 3) (fn : BitVec 4) : Prop :=
  (∃ q, q ∈ t.cl.fifos.get s.curCtx ∧ q.scalar = true ∧ q.fn = fn ∧ q.mode = r ∧ q.pair = s.c.pc ∧ q.operand = s.seen.c.reg h.s b) ∧
  ∃ w ∈ t.c.awaits, w.sfu = true ∧ w.dest = .s (regOf h.s a)

theorem State.sfuKick_keeps (s : State) : s.sfuKick.cl = s.cl ∧ s.sfuKick.c = s.c := by
  unfold State.sfuKick
  split <;> exact ⟨rfl, rfl⟩

theorem State.ended_awaits (s t : State) (n : Option Pair) : (s.ended t n).c.awaits = t.c.awaits := congrArg (·.awaits) (s.ended_rest t n)

theorem execSfs_outcome {h : CHdr} {a b : BitVec 5} {r : BitVec 3} {fn : BitVec 4} {s : State} (hr : (opSfs h a b r fn).ready s = true) :
    ∃ t, exec (.sfs h a b r fn) s = .next t ∧ SfsOutcome s t h a b r fn := by
  have hB := Op.begins hr fun _ _ => rfl
  refine ⟨_, (exec_eq_runOne (.sfs h a b r fn) _ s rfl).trans (runOne_ready _ s hr rfl), ?_⟩
  show SfsOutcome s (s.ended ((opSfs h a b r fn).eff ((opSfs h a b r fn).begun s)) none) h a b r fn
  generalize (opSfs h a b r fn).begun s = v at hB
  generalize hd : (if (decide (fn.toNat = 4) && decide (r.toNat = 4)) = true then v.modR fun x => { x with lfsr := lfsrStep x.lfsr } else v) = w
  generalize hq : (⟨v.core.atPair, true, r, fn, 0, v.c.reg h.s b, v.c.mode, regOf h.s a, if (decide (fn.toNat = 4) && decide (r.toNat = 4)) = true then some v.r.lfsr else none⟩ : SfuReq) = q
  have he : (opSfs h a b r fn).eff v = ((w.setFifo v.curCtx (v.cl.fifos.get v.curCtx ++ [q])).modC fun c =>
      { c with awaits := c.awaits ++ [⟨0, .s (regOf h.s a), none, c.mode, true⟩] }).sfuKick := by
    rw [← hq, ← hd]
    rfl
  rw [he]
  generalize hu : w.setFifo v.curCtx (v.cl.fifos.get v.curCtx ++ [q]) = u
  have hf : u.cl.fifos.get s.curCtx = v.cl.fifos.get v.curCtx ++ [q] := by
    rw [← hu, ← hB.curCtx]
    exact vec_get_set_same _ _ _
  constructor
  · refine ⟨q, ?_, by rw [← hq], by rw [← hq], by rw [← hq], by rw [← hq]; exact hB.atPair, by rw [← hq]; exact hB.reg _ _⟩
    show q ∈ (State.sfuKick _).cl.fifos.get s.curCtx
    rw [(State.sfuKick_keeps _).1]
    show q ∈ u.cl.fifos.get s.curCtx
    rw [hf]
    exact List.mem_append_right _ (List.mem_singleton_self q)
  · rw [State.ended_awaits, (State.sfuKick_keeps _).2, State.modC_c]
    exact ⟨_, List.mem_append_right _ (List.mem_singleton_self _), rfl, rfl⟩

/-! ### TLD and TST, and the reductions (R181, R233 to R236) -/

theorem State.ended_r (s t : State) (n : Option Pair) : { (s.ended t n).r with ctx := t.r.ctx } = t.r := by
  rw [State.ended, State.advance, State.modC_r]
  rfl

/-- An instruction whose effects enter a task. -/
theorem exec_entersLast {i : Instr} {o : Op} {s : State} {x : Task} (ho : opOf i = some o) (hr : o.ready s = true) (ha : ∀ t, o.after t = none) (hl : ∀ t, o.late t = t.tagsLand)
    (he : (o.eff (o.begun s)).core.tasks = s.core.tasks ++ [x]) :
    ∃ t, exec i s = .next t ∧ t.core.tasks = s.core.tasks ++ [x] ∧ { t.r with ctx := (o.eff (o.begun s)).r.ctx } = (o.eff (o.begun s)).r := by
  refine ⟨_, (exec_eq_runOne i o s ho).trans (runOne_ready o s hr (ha _)), ?_, ?_⟩
  · rw [Op.issued, hl]
    exact (congrArg (·.tasks) (State.tagsLand_core _)).trans he
  · rw [Op.issued, hl]
    exact s.ended_r (o.eff (o.begun s)).tagsLand _

theorem opMove_stable (h : CHdr) (i : Instr) (m : TileMove) (s : State) : (opMove h i m).Stable s := by
  intro a t
  have hR := s.reads_resolved a t
  have hh : ∀ k, ((s.replayBack.resolve a t).modC Ctx.landed).r.handle k = s.seen.r.handle k := fun k => by
    have e := congrArg (·.handles) hR.r
    simp only at e
    rw [Res.handle, Res.handle, e]
  have hp : m.area h ((s.replayBack.resolve a t).modC Ctx.landed) = m.area h s.seen := by
    simp only [TileMove.area, hR.reg, hh]
  have ht : ∀ v : State, (opMove h i m).touch v = ((v.touches (v.accessRegion (m.access h 0 v))).1, true) := fun _ => rfl
  rw [ht, ht, hR.touches, hR.accessRegion (b := m.access h 0 s.seen) hp]

theorem State.guardArea_tasks (s : State) (k : RangeKind) (p : Word) (n : Nat) : (s.guardArea k p n).1.core.tasks = s.core.tasks ∧ (s.guardArea k p n).1.core.nextId = s.core.nextId := by
  unfold State.guardArea
  split
  · exact ⟨rfl, rfl⟩
  · unfold State.rangeAdd
    split <;> exact ⟨rfl, rfl⟩

/-- What O36 says of the task of TLD and TST. -/
def MoveOutcome (s t : State) (i : Instr) (ch : BitVec 3) (x : Task) : Prop :=
  t.core.tasks = s.core.tasks ++ [x] ∧ x.instr = i ∧ x.ctx = s.curCtx ∧ x.res = s.curRes ∧
    x.tid = (s.r.chans.get ⟨ch.toNat, ch.isLt⟩).next ∧ (t.r.chans.get ⟨ch.toNat, ch.isLt⟩).next = x.tid + 1

/-- The task that TLD and TST enter. -/
def TileMove.task (m : TileMove) (h : CHdr) (i : Instr) (b : State) : Task :=
  { (TileForm.mk i [m.n] (if m.store then [] else [0]) [] none (m.check h) (m.tags h)).task b with
    operand := m.area h b, tid := b.nextTid m.ch, range := (b.guardArea .trap (m.area h b) (m.len h b)).2 }

theorem opMove_eff (h : CHdr) (i : Instr) (m : TileMove) (b : State) :
    (opMove h i m).eff b = (((b.guardArea .trap (m.area h b) (m.len h b)).1.takeTid m.ch).enqueue (m.task h i b)).noteTags (m.tags h b) := rfl

theorem opMove_late (h : CHdr) (i : Instr) (m : TileMove) (t : State) : (opMove h i m).late t = t.tagsLand := rfl
theorem opMove_after (h : CHdr) (i : Instr) (m : TileMove) (t : State) : (opMove h i m).after t = none := rfl

theorem TileMove.task_fields (m : TileMove) (h : CHdr) (i : Instr) (b : State) (n : Nat) : ((m.task h i b).numbered n).instr = i ∧ ((m.task h i b).numbered n).ctx = b.curCtx ∧
    ((m.task h i b).numbered n).res = b.curRes ∧ ((m.task h i b).numbered n).tid = b.nextTid m.ch := ⟨rfl, rfl, rfl, rfl⟩

theorem State.moved_tasks (s : State) (ch : BitVec 3) (x : Task) (l : List TagWrite) :
    (((s.takeTid ch).enqueue x).noteTags l).core.tasks = s.core.tasks ++ [x.numbered s.core.nextId] := rfl

theorem State.moved_r (s : State) (ch : BitVec 3) (x : Task) (l : List TagWrite) : (((s.takeTid ch).enqueue x).noteTags l).r = (s.takeTid ch).r := rfl

theorem State.takeTid_next (s : State) (k : BitVec 3) : ((s.takeTid k).r.chans.get ⟨k.toNat, k.isLt⟩).next = s.nextTid k + 1 := by
  rw [State.takeTid, State.modR_r]
  exact congrArg Chan.next (vec_get_set_same s.r.chans ⟨k.toNat, k.isLt⟩ _)

theorem execMove_outcome {h : CHdr} {i : Instr} {m : TileMove} {s : State} (ho : opOf i = some (opMove h i m)) (hr : (opMove h i m).ready s = true) :
    ∃ t x, exec i s = .next t ∧ MoveOutcome s t i m.ch x := by
  have hB := Op.begins hr (opMove_stable h i m s)
  have hn : ((opMove h i m).begun s).nextTid m.ch = s.nextTid m.ch := by rw [State.nextTid, State.nextTid, hB.chans]
  have hl := exec_entersLast (i := i) (x := (m.task h i ((opMove h i m).begun s)).numbered s.core.nextId) ho hr (opMove_after h i m) (opMove_late h i m)
  generalize (opMove h i m).begun s = b at hB hl hn
  rw [opMove_eff] at hl
  have hgr := b.guardArea_res .trap (m.area h b) (m.len h b)
  obtain ⟨hgt, hgn⟩ := b.guardArea_tasks .trap (m.area h b) (m.len h b)
  have hgc := (b.sends_guardArea .trap (m.area h b) (m.len h b)).curRes
  generalize (b.guardArea .trap (m.area h b) (m.len h b)).1 = g at *
  have hgtid : g.nextTid m.ch = b.nextTid m.ch := by rw [State.nextTid, State.nextTid, State.r, State.r, hgr, hgc]
  obtain ⟨t, ht, htasks, hres⟩ := hl (by
    rw [State.moved_tasks, hgt, hgn, hB.tasks, hB.nextId])
  obtain ⟨h1, h2, h3, h4⟩ := m.task_fields h i b s.core.nextId
  refine ⟨t, _, ht, htasks, h1, h2.trans hB.curCtx, h3.trans hB.curRes, h4.trans hn, ?_⟩
  rw [State.moved_r] at hres
  have hch : t.r.chans = (g.takeTid m.ch).r.chans := congrArg (·.chans) hres
  rw [hch, State.takeTid_next, hgtid, h4]

section
variable {h : CHdr} {a : BitVec 5} {k r : BitVec 3} {tag : BitVec 32} {s : State}

/-- The send that ACCX.send's task fills (R234). -/
def State.accxSend (b : State) (dst : Rank) (d : AccDesc) (tag : BitVec 32) : Send :=
  let q := b.newSend dst 0 0 tag d.partials 0
  { q with msg := { q.msg with cls := 2, rdv := decide (8192 < d.partials) }, kept := true }

theorem State.enterSend_tasks (s : State) (q : Send) (b : Bool) (x : Task) : ((s.enterSend q b).enqueue x).core.tasks = s.core.tasks ++ [x.numbered (s.core.nextId + 1)] := rfl

theorem opAccxSend_eff (b : State) : (opAccxSend h a k tag).eff b =
    (b.enterSend (b.accxSend (rankOf (b.c.reg h.s a)) (b.adOf k) tag) false).enqueue
      { (accxForm (.accxSend h a k tag) k fun _ _ => none).task b with operand := b.c.reg h.s a, sendId := b.fresh } := rfl

theorem execAccxSend_task (hr : (opAccxSend h a k tag).ready s = true) :
    ∃ t x, exec (.accxSend h a k tag) s = .next t ∧ t.core.tasks = s.core.tasks ++ [x] ∧ x.instr = .accxSend h a k tag ∧ x.ctx = s.curCtx ∧ x.res = s.curRes ∧ x.desc = s.adOf k := by
  have hB := Op.begins hr fun _ _ => rfl
  obtain ⟨t, ht, htasks, -⟩ := exec_entersLast (i := .accxSend h a k tag) rfl hr (fun _ => rfl) (fun _ => rfl)
    (by rw [opAccxSend_eff, State.enterSend_tasks, hB.tasks])
  exact ⟨t, _, ht, htasks, rfl, hB.curCtx, hB.curRes, hB.adOf k⟩

theorem execAccxOpen_task (hr : (opAccxOpen h a k tag).ready s = true) :
    ∃ t x, exec (.accxOpen h a k tag) s = .next t ∧ t.core.tasks = s.core.tasks ++ [x] ∧ x.instr = .accxOpen h a k tag ∧ x.ctx = s.curCtx ∧ x.res = s.curRes ∧ x.desc = s.adOf k ∧
      ∃ y ∈ t.r.reductions, y.ad = k ∧ y.tag = tag ∧ y.expect = (s.seen.c.reg h.s a).toNat ∧ y.got = 0 := by
  have hB := Op.begins hr fun _ _ => rfl
  obtain ⟨t, ht, htasks, hres⟩ := exec_entersLast (i := .accxOpen h a k tag) rfl hr (fun _ => rfl) (fun _ => rfl) (hB.tasks ▸ State.enqueue_tasks _ _)
  refine ⟨t, _, ht, htasks, rfl, hB.curCtx, hB.curRes, hB.adOf k, ?_⟩
  rw [← hB.reg]
  generalize (opAccxOpen h a k tag).begun s = b at hres
  have hb : ((opAccxOpen h a k tag).eff b).r = { b.r with reductions := b.r.reductions ++ [⟨k, b.adOf k, tag, (b.c.reg h.s a).toNat, 0, false, false⟩] } :=
    b.modR_r fun r => { r with reductions := r.reductions ++ [⟨k, b.adOf k, tag, (b.c.reg h.s a).toNat, 0, false, false⟩] }
  rw [hb] at hres
  have hred : t.r.reductions = b.r.reductions ++ [⟨k, b.adOf k, tag, (b.c.reg h.s a).toNat, 0, false, false⟩] := congrArg (·.reductions) hres
  exact ⟨_, hred ▸ List.mem_append_right _ (List.mem_singleton_self _), rfl, rfl, rfl, rfl⟩

/-- A reduction that begins to close is still listed (R236). -/
theorem closeReduction_mem (k : BitVec 3) (l : List Reduction) (h : l.any (fun x => x.ad == k && !x.closing) = true) : ∃ y ∈ closeReduction k l, y.ad = k ∧ y.closing = true := by
  induction l with
  | nil => exact absurd h Bool.false_ne_true
  | cons x l ih =>
    rw [closeReduction]
    split
    case isTrue hx => exact ⟨_, List.mem_cons_self, hx.1, rfl⟩
    case isFalse hx =>
      have hl : (x.ad == k && !x.closing) = false := by simpa using hx
      rw [List.any_cons, hl, Bool.false_or] at h
      obtain ⟨y, hy, hk⟩ := ih h
      exact ⟨y, List.mem_cons_of_mem _ hy, hk⟩

theorem opAccxClose_open (hr : (opAccxClose h k r).ready s = true) : (s.r.reductions.any fun x => x.ad == k && !x.closing) = true := by
  have hc := illegalIf_none _ _ _ (orElse_none _ _ (orElse_none _ _ (orElse_none _ _ (Op.ready_check _ s hr)).2).2).2
  have hs : s.seen.r.reductions = s.r.reductions := by rw [State.seen, State.modC_r]; rfl
  rw [hs] at hc
  simpa using hc

theorem execAccxClose_task (hr : (opAccxClose h k r).ready s = true) :
    ∃ t x, exec (.accxClose h k r) s = .next t ∧ t.core.tasks = s.core.tasks ++ [x] ∧ x.instr = .accxClose h k r ∧ x.ctx = s.curCtx ∧ x.res = s.curRes ∧ x.desc = s.adOf k ∧
      ∃ y ∈ t.r.reductions, y.ad = k ∧ y.closing = true := by
  have hB := Op.begins hr fun _ _ => rfl
  obtain ⟨t, ht, htasks, hres⟩ := exec_entersLast (i := .accxClose h k r) rfl hr (fun _ => rfl) (fun _ => rfl) (hB.tasks ▸ State.enqueue_tasks _ _)
  refine ⟨t, _, ht, htasks, rfl, hB.curCtx, hB.curRes, hB.adOf k, ?_⟩
  have hd : ((opAccxClose h k r).begun s).r.reductions = s.r.reductions := congrArg (·.reductions) hB.r
  generalize (opAccxClose h k r).begun s = b at hres hd
  have hb : ((opAccxClose h k r).eff b).r = { b.r with reductions := closeReduction k b.r.reductions } := b.modR_r fun r => { r with reductions := closeReduction k r.reductions }
  rw [hb, hd] at hres
  have hred : t.r.reductions = closeReduction k s.r.reductions := congrArg (·.reductions) hres
  rw [hred]
  exact closeReduction_mem k _ (opAccxClose_open hr)

end

/-- Settles O36: the issue of a tile-acting instruction enters the task of its form; ACCZ, SFS, the tile transfers and the reductions one by one. -/
theorem tileInstructionsEnterATask : Obligations.TileInstructionsEnterATask := by
  unfold Obligations.TileInstructionsEnterATask
  refine ⟨fun i o s hi ho hr => tileTask_task hi ho hr, fun h a b n k ch need hnd fn he st tag r s => ⟨fun hr hs _ _ => execAccz_rect hr hs, fun hr => execSfs_outcome hr,
    fun hr => ?_, fun hr => ?_, fun hr => ?_, fun hr => ?_, fun hr => ?_⟩⟩
  · exact execMove_outcome rfl hr
  · exact execMove_outcome rfl hr
  · exact execAccxSend_task hr
  · exact execAccxOpen_task hr
  · exact execAccxClose_task hr

end Sys2Proof.Machine
end

section
/-!
PROOF. The instructions that hand work to another unit or wait for it (O14): their effects leave the memories and what a context holds, but for results.
-/

namespace Sys2Proof.Machine

open Sys2Proof

/-- What a context holds beside its results in flight. -/
def Ctx.kept (c : Ctx) :=
  (c.s, c.p, c.pc, c.mode, c.trap, c.frozen, c.aside, c.loop)

theorem Ctx.kept_iff (c d : Ctx) :
    c.kept = d.kept ↔ c.s = d.s ∧ c.p = d.p ∧ c.pc = d.pc ∧ c.mode = d.mode ∧ c.trap = d.trap ∧ c.frozen = d.frozen ∧ c.aside = d.aside ∧ c.loop = d.loop := by
  simp only [Ctx.kept, Prod.mk.injEq]

/-- The memories are the same, and what every context holds; the present one may have more results, for the destinations that `P` allows. -/
structure State.Still (P : Dest → Prop) (s t : State) : Prop where
  mem : t.core.mem = s.core.mem
  servers : t.srv.mem = s.srv.mem
  curRes : t.curRes = s.curRes
  curCtx : t.curCtx = s.curCtx
  ctx : ∀ k c, ((t.res.get k).ctx.get c).kept = ((s.res.get k).ctx.get c).kept
  others : ∀ k c, ¬(k = s.curRes ∧ c = s.curCtx) → ((t.res.get k).ctx.get c).flight = ((s.res.get k).ctx.get c).flight
  flight : ∀ f ∈ t.c.flight, f ∈ s.c.flight ∨ P f.dest

namespace State.Still

variable {P : Dest → Prop} {s t u : State}

theorem trans (h : Still P s t) (g : Still P t u) : Still P s u where
  mem := g.mem.trans h.mem
  servers := g.servers.trans h.servers
  curRes := g.curRes.trans h.curRes
  curCtx := g.curCtx.trans h.curCtx
  ctx k c := (g.ctx k c).trans (h.ctx k c)
  others k c hk := (g.others k c (by rwa [h.curRes, h.curCtx])).trans (h.others k c hk)
  flight f hf := (g.flight f hf).elim (h.flight f) .inr

/-- A change that no context sees. -/
theorem of_ctx (hm : t.core.mem = s.core.mem) (hs : t.srv.mem = s.srv.mem) (hr : t.curRes = s.curRes) (hc : t.curCtx = s.curCtx)
    (hk : ∀ k, (t.res.get k).ctx = (s.res.get k).ctx) : Still P s t :=
  ⟨hm, hs, hr, hc, fun k c => by rw [hk], fun k c _ => by rw [hk], fun f hf => .inl (by rwa [State.c, State.r, hr, hc, hk] at hf)⟩

theorem refl (s : State) : Still P s s := of_ctx rfl rfl rfl rfl fun _ => rfl

theorem of_sends (h : Sends s t) : Still P s t := of_ctx h.mem (congrArg (·.mem) h.srv) h.curRes h.curCtx h.ctx

theorem of_passes (h : Passes s t) : Still P s t := of_sends (.of_passes h)

theorem modCore (s : State) (f : CoreSt → CoreSt) (h : (f s.core).mem = s.core.mem := by rfl) : Still P s (s.modCore f) := of_ctx h rfl rfl rfl fun _ => rfl

theorem modRes (s : State) (k : ResNo) (f : Res → Res) (h : ∀ r, (f r).ctx = r.ctx := by intro; rfl) : Still P s (s.modRes k f) :=
  of_ctx rfl rfl rfl rfl fun j => by
    by_cases hj : j = k
    · subst hj; rw [State.modRes_res, vec_get_set_same, h]
    · rw [State.modRes_res, vec_get_set_other _ _ _ _ hj]

theorem modR (s : State) (f : Res → Res) (h : ∀ r, (f r).ctx = r.ctx := by intro; rfl) : Still P s (s.modR f) := modRes s s.curRes f h

theorem post (s : State) (i : Instr) : Still P s (s.post i) := of_passes (s.passes_post i)
theorem after (s : State) (n : Nat) (i : Instr) : Still P s (s.after n i) := of_passes (s.passes_after n i)

/-- A change of one context beside what it holds and its results. -/
theorem modCtx (s : State) (k : ResNo) (c : CtxNo) (f : Ctx → Ctx) (h : ∀ x, (f x).kept = x.kept) (hf : ∀ x, (f x).flight = x.flight) : Still P s (s.modRes k fun r => r.modCtx c f) := by
  have hx : ∀ j d, (((s.modRes k fun r => r.modCtx c f).res.get j).ctx.get d).kept = ((s.res.get j).ctx.get d).kept ∧
      (((s.modRes k fun r => r.modCtx c f).res.get j).ctx.get d).flight = ((s.res.get j).ctx.get d).flight := fun j d => by
    by_cases hj : j = k
    · subst hj
      rw [State.modRes_res, vec_get_set_same]
      by_cases hd : d = c
      · subst hd; rw [Res.modCtx, vec_get_set_same]; exact ⟨h _, hf _⟩
      · rw [Res.modCtx, vec_get_set_other _ _ _ _ hd]; exact ⟨rfl, rfl⟩
    · rw [State.modRes_res, vec_get_set_other _ _ _ _ hj]; exact ⟨rfl, rfl⟩
  exact ⟨rfl, rfl, rfl, rfl, fun j d => (hx j d).1, fun j d _ => (hx j d).2, fun g hg => .inl (by rw [State.c, State.r, (hx _ _).2] at hg; exact hg)⟩

/-- A change of the present context that may schedule results. -/
theorem modC (s : State) (f : Ctx → Ctx) (h : ∀ x, (f x).kept = x.kept) (hf : ∀ x, ∀ g ∈ (f x).flight, g ∈ x.flight ∨ P g.dest) : Still P s (s.modC f) := by
  have hx : ∀ k c, ¬(k = s.curRes ∧ c = s.curCtx) → ((s.modC f).res.get k).ctx.get c = (s.res.get k).ctx.get c := fun k c hn => by
    rw [State.modC, State.modCtx, State.modR, State.modRes_res]
    by_cases hk : k = s.curRes
    · subst hk
      rw [vec_get_set_same, Res.modCtx, vec_get_set_other _ _ _ _ fun hc => hn ⟨rfl, hc⟩]
    · rw [vec_get_set_other _ _ _ _ hk]
  refine ⟨rfl, rfl, rfl, rfl, fun k c => ?_, fun k c hn => by rw [hx k c hn], fun g hg => ?_⟩
  · by_cases hn : k = s.curRes ∧ c = s.curCtx
    · obtain ⟨rfl, rfl⟩ := hn
      have hc := s.modC_c f
      rw [State.c, State.r] at hc
      exact (congrArg Ctx.kept hc).trans (h _)
    · rw [hx k c hn]
  · rw [State.modC_c] at hg
    exact hf _ g hg

/-- A change of the present context that schedules nothing. -/
theorem modC' (s : State) (f : Ctx → Ctx) (h : ∀ x, (f x).kept = x.kept := by intro; rfl) (hf : ∀ x, (f x).flight = x.flight := by intro; rfl) : Still P s (s.modC f) :=
  modC s f h fun x _ hg => .inl (hf x ▸ hg)

/-- A result for a destination. -/
theorem result (s : State) (d : Dest) (v : Word) (n : Nat) (hd : P d) : Still P s (s.result d v n) :=
  modC s _ (fun _ => rfl) fun _ _ hg => (List.mem_append.mp hg).imp id fun h => by rw [List.mem_singleton.mp h]; exact hd

theorem emit (s : State) (o : Out) : Still P s (s.emit o) := of_passes (s.passes_emitFor _ o)

end State.Still

/-! ### The router and the network interface -/

section
variable {P : Dest → Prop} (s : State)

theorem State.still_enterRouter (p : Parcel) : Still P s (s.enterRouter p) := by
  unfold State.enterRouter
  split
  · exact .modCore s _
  · exact .of_ctx rfl rfl rfl rfl fun _ => rfl
  · exact .modCore s _

theorem State.still_pin (p c : Nat) : Still P s (s.pin p c) := by
  unfold State.pin
  dsimp only
  split <;> exact .of_ctx rfl rfl rfl rfl fun _ => rfl

theorem State.still_openContext (o : Out) (t : Target) : Still P s (s.openContext o t) := by
  unfold State.openContext
  split
  · split
    · exact s.still_pin _ _
    · unfold State.spread
      dsimp only
      split <;> exact .of_ctx rfl rfl rfl rfl fun _ => rfl
    · exact .refl s
  · exact .refl s

theorem State.still_toRouter (x : Inject) : Still P s (s.toRouter x) := by
  unfold State.toRouter
  dsimp only
  split
  · exact (s.still_openContext _ _).trans (State.still_enterRouter _ _)
  · exact .refl s

theorem State.still_modReq (id : Nat) (f : Req → Req) : Still P s (s.modReq id f) := .modCore s _

theorem State.still_startTimer (id : Nat) : Still P s (s.startTimer id) := by
  unfold State.startTimer
  split
  · exact .refl s
  · split
    · exact .refl s
    · exact (((s.still_modReq _ _).trans (.after _ _ _)).trans (State.still_pin _ _ _)).trans (.of_passes (State.passes_answerCut _ _ _))

theorem State.still_forwardRead (q : ServerReq) (n : Nat) : Still P s (s.forwardRead q n).1 := by
  unfold State.forwardRead
  split
  · exact .refl s
  · next me _ =>
    extract_lets got s1
    have h1 : Still P s s1 := .modCtx s me.res me.ctx _ (fun _ => rfl) fun _ => rfl
    clear_value s1
    split
    · exact h1.trans (.post s1 _)
    · exact h1.trans (s1.still_modReq _ _)

theorem State.still_leaveNi (x : Inject) : Still P s (s.leaveNi x) := by
  unfold State.leaveNi
  split
  · split
    · exact .refl s
    · split
      · split
        · exact s.still_forwardRead _ _
        · exact ((s.still_forwardRead _ _).trans (State.still_startTimer _ _)).trans (State.still_toRouter _ _)
      · exact (s.still_startTimer _).trans (State.still_toRouter _ _)
  · exact (s.still_startTimer _).trans (State.still_toRouter _ _)
  · exact s.still_toRouter _

theorem State.still_sendOut (o : Out) : Still P s (s.sendOut o) := by
  unfold State.sendOut
  split
  · exact .modCore s _
  · exact s.still_leaveNi _

theorem State.still_sendPieces (q : Req) (op : Nat → Nat → ServerOp) (l : List (Nat × Nat × Nat)) (k : Nat) : Still P s (s.sendPieces q op l k) := by
  induction l generalizing s k with
  | nil => exact .refl s
  | cons x l ih => exact (s.still_sendOut _).trans (ih _ _)

theorem State.still_sendCopy (q : Req) : Still P s (s.sendCopy q) := by
  unfold State.sendCopy
  extract_lets p
  split
  · exact .post s _
  · exact s.still_sendOut _

theorem State.still_enterUpTo (n : Nat) : Still P s (s.enterUpTo n) := by
  induction n generalizing s with
  | zero => exact .refl s
  | succ n ih =>
    rw [State.enterUpTo]
    split
    · exact .refl s
    · next q _ =>
      split
      · exact .refl s
      · extract_lets s1 buffer s2 s3
        have h2 : Still P s s2 := (s.still_modReq _ _).trans (.of_ctx rfl rfl rfl rfl fun _ => rfl)
        have h3 : Still P s s3 := by
          simp only [s3]
          split
          · exact h2.trans (State.still_sendOut _ _)
          · exact h2.trans (State.still_sendCopy _ _)
        exact h3.trans (ih s3)

theorem State.still_enterReq (q : Req) : Still P s (s.enterReq q) := .of_ctx rfl rfl rfl rfl fun _ => rfl

theorem State.still_takeTid (k : BitVec 3) : Still P s (s.takeTid k) := .modR s _

theorem State.still_guardArea (k : RangeKind) (p : Word) (n : Nat) : Still P s (s.guardArea k p n).1 := .of_sends (s.sends_guardArea k p n)

theorem State.still_askLeave : Still P s s.askLeave := by
  unfold State.askLeave
  split <;> exact .of_ctx rfl rfl rfl rfl fun _ => rfl

theorem State.still_sendDeal (q : Req) : Still P s (s.sendDeal q) := by
  unfold State.sendDeal
  split
  · exact s.still_sendCopy q
  · split
    · exact .trans (.modCore s _) (State.still_sendCopy _ _)
    · exact .trans (.modCore s _) (State.still_askLeave _)

theorem State.still_sendAtomic (h : CHdr) (q : Req) (a b : BitVec 5) (pk : Bool) (w : BitVec 2) (op : BitVec 4) : Still P s (s.sendAtomic h q a b pk w op) := by
  unfold State.sendAtomic
  split
  · extract_lets s1
    have h1 : Still P s s1 := s.still_enterReq _
    split
    · exact h1.trans (.post _ _)
    · exact h1.trans (.post _ _)
  · exact (s.still_enterReq _).trans (State.still_enterUpTo _ _)

end

/-! ### The other units -/

section
variable {P : Dest → Prop} (s : State)

theorem State.still_enqueue (x : Task) : Still P s (s.enqueue x) := .of_ctx rfl rfl rfl rfl fun _ => rfl

theorem State.still_noteTags (l : List TagWrite) : Still P s (s.noteTags l) := .modCore s _

theorem State.still_tagsLand : Still P s s.tagsLand := .of_ctx (congrArg (·.mem) s.tagsLand_core) rfl rfl rfl fun _ => rfl

theorem State.still_wake : Still P s s.wake := by
  unfold State.wake
  split
  · exact .post s _
  · exact .refl s

theorem State.still_kick : Still P s s.kick := by
  unfold State.kick
  split
  · exact .refl s
  · split
    · exact .refl s
    · exact .post s _

theorem State.still_sfuKick : Still P s s.sfuKick := by
  unfold State.sfuKick
  split
  · exact .post s _
  · exact .refl s

theorem State.still_postError (k : ResNo) (e : ErrEntry) : Still P s (s.modRes k fun r => r.postError e) := .modRes s k _ fun r => r.postError_ctx e

theorem State.still_sendEvent (k : ResNo) (dst : Rank) (e : EventRec) (c : CtxNo) (p : Pair) : Still P s (s.sendEvent k dst e c p) := by
  unfold State.sendEvent
  split
  · exact s.still_postError _ _
  · split
    · split
      · exact .modCore s _
      · exact s.still_postError _ _
    · exact .modCore s _

theorem State.still_askPhase : Still P s s.askPhase := by
  unfold State.askPhase
  extract_lets s1
  have h1 : Still P s s1 := .modCore s _
  split
  · exact h1
  · split
    · exact h1.trans (.modCore s1 _)
    · exact h1.trans s1.still_askLeave

theorem State.still_countBell (cross : Bool) (k : BitVec 5) (x : Bool) (f : Bell → Bell) : Still P s (s.countBell cross k x f) := by
  unfold State.countBell
  extract_lets b s1
  have h1 : Still P s s1 := .of_ctx rfl rfl rfl rfl fun _ => rfl
  split
  · exact h1.trans (.after s1 _ _)
  · exact h1

theorem State.still_arriveBell (cross : Bool) (n : BitVec 4) (x : Bool) : Still P s (s.arriveBell cross n x) := by
  unfold State.arriveBell
  extract_lets k s1 s2
  have h1 : Still P s s1 := (s.still_countBell _ _ _ _).trans (.modC' _ _)
  have h2 : Still P s s2 := by
    refine .trans ?_ (.emit _ _)
    split
    · exact h1.trans s1.still_askPhase
    · exact h1
  split
  · exact h2.trans (.emit _ _)
  · exact h2

theorem State.still_closePacket (p : Packet) (buf : Word) : Still P s (s.closePacket p buf) := by
  rw [State.closePacket_eq]
  refine .trans ?_ (.of_sends (State.sends_flush _))
  refine .trans ?_ (.modCore _ _)
  exact .trans (.modCore s _) (.of_sends (State.sends_startSend _ _))

theorem State.still_multicast (gr buf len : Word) (mb : BitVec 4) (tag : BitVec 28) : Still P s (s.multicast gr buf len mb tag) := by
  obtain ⟨v, range, hv, -, -, heq⟩ := s.multicast_eq gr buf len mb tag
  rw [heq]
  exact ((Still.of_sends hv).trans (.modR v _ fun r => congrArg (·.ctx) (r.castEntered_rest _ _))).trans (.of_sends (State.sends_startCast _))

end

/-! ### Instructions whose effects are quiet -/

/-- The effects of an instruction that issues in a state `s` leave the memories and what contexts hold, but for its results. -/
structure Op.Quiet (o : Op) (ds : List Dest) (s : State) : Prop where
  stable : o.Stable s
  eff : ∀ b, State.Still (· ∈ ds) b (o.eff b)
  late : ∀ b, State.Still (· ∈ ds) b (o.late b)
  after : ∀ t, o.after t = none

/-- What O14 says of the state `t` after an instruction whose results go to `ds`. -/
structure HandOver (ds : List Dest) (s t : State) : Prop where
  mem : t.core.mem = s.core.mem
  servers : t.srv.mem = s.srv.mem
  others : ∀ k c, ¬(k = s.curRes ∧ c = s.curCtx) → ((t.res.get k).ctx.get c).s = ((s.res.get k).ctx.get c).s ∧ ((t.res.get k).ctx.get c).p = ((s.res.get k).ctx.get c).p ∧
    ((t.res.get k).ctx.get c).flight = ((s.res.get k).ctx.get c).flight ∧ ((t.res.get k).ctx.get c).pc = ((s.res.get k).ctx.get c).pc
  present : t.c.s = s.c.landed.s ∧ t.c.p = s.c.landed.p ∧ t.c.mode = s.c.mode ∧ t.c.trap = s.c.trap ∧ t.c.frozen = s.c.frozen ∧ t.c.aside = s.c.aside
  flight : ∀ f ∈ t.c.flight, f ∈ s.c.landed.flight ∨ f.dest ∈ ds ∨ s.c.Streams f.dest

theorem Op.Quiet.handOver {o : Op} {ds : List Dest} {s : State} (h : o.Quiet ds s) (hr : o.ready s = true) : HandOver ds s (o.issued s) := by
  have hB := Op.begins hr h.stable
  have hS : State.Still (· ∈ ds) (o.begun s) (o.late (o.eff (o.begun s))) := (h.eff _).trans (h.late _)
  rw [Op.issued]
  generalize o.begun s = b at *
  generalize o.late (o.eff b) = v at *
  generalize o.next _ = n
  have hE : State.Apart v (s.ended v n) := v.apart_advance s.c.looping n
  have hrest := s.ended_rest v n
  obtain ⟨y, r, k, hbc⟩ := hB.c
  obtain ⟨-, hloop, hmode, htrap, -⟩ := s.c.landed_rest
  obtain ⟨-, haside, hfrozen, -, -⟩ := s.c.landed_held
  have hk : v.c.kept = s.c.landed.kept := by
    rw [State.c, State.r, hS.curRes, hS.curCtx]
    have e : b.c.kept = s.c.landed.kept := by rw [hbc]; rfl
    exact (hS.ctx b.curRes b.curCtx).trans e
  obtain ⟨es, ep, -, em, et, ef, ea, el⟩ := (Ctx.kept_iff _ _).mp hk
  refine ⟨hS.mem.trans hB.mem, hS.servers.trans (congrArg (·.mem) hB.srv), fun k c hn => ?_, ⟨?_, ?_, ?_, ?_, ?_, ?_⟩, fun f hf => ?_⟩
  · have e1 := hE.ctx k c (by rwa [hS.curRes, hS.curCtx, hB.curRes, hB.curCtx])
    have e3 := hB.ctx k c hn
    have e4 := hS.others k c (by rwa [hB.curRes, hB.curCtx])
    obtain ⟨fs, fp, fpc, -⟩ := (Ctx.kept_iff _ _).mp (hS.ctx k c)
    exact ⟨(congrArg (·.s) e1).trans (fs.trans (congrArg (·.s) e3)), (congrArg (·.p) e1).trans (fp.trans (congrArg (·.p) e3)),
      (congrArg (·.flight) e1).trans (e4.trans (congrArg (·.flight) e3)), (congrArg (·.pc) e1).trans (fpc.trans (congrArg (·.pc) e3))⟩
  · exact (congrArg (·.s) hrest).trans es
  · exact (congrArg (·.p) hrest).trans ep
  · exact (congrArg (·.mode) hrest).trans (em.trans hmode)
  · exact (congrArg (·.trap) hrest).trans (et.trans htrap)
  · exact (congrArg (·.frozen) hrest).trans (ef.trans hfrozen)
  · exact (congrArg (·.aside) hrest).trans (ea.trans haside)
  · rcases (v.advance_adds s.c.looping n).flight f hf with hf | ⟨hw, -, hs⟩
    · rcases hS.flight f hf with hf | hd
      · rw [hbc] at hf
        exact .inl hf
      · exact .inr (.inl hd)
    · rw [el.trans hloop] at hs
      exact .inr (.inr ⟨hw, hs⟩)

/-! ### The instructions one by one -/

theorem Op.Enters.quiet {o : Op} {f : TileForm} (h : o.Enters f) (ds : List Dest) (s : State) : o.Quiet ds s := by
  obtain ⟨a, t, ht⟩ := h.touch
  refine ⟨fun a' t' => (ht _).trans (ht _).symm, fun b => ?_, fun b => ?_, h.after⟩
  · rw [h.eff]
    exact (b.still_enqueue _).trans (State.still_noteTags _ _)
  · rw [h.late]
    exact b.still_tagsLand

section
variable (h : CHdr) (a b c : BitVec 5) (x : Bool) (s : State) (ds : List Dest)

/-- An access that the context's registers name touches the same groups after the grant. -/
theorem withAccess_stable (o : Op) (acc : Nat → State → Access) (hp : ∀ v, State.Reads s.seen v → (acc 0 v).ptr = (acc 0 s.seen).ptr) : (withAccess o acc).Stable s := by
  intro a t
  have hR := s.reads_resolved a t
  show State.touches _ _ = State.touches _ _
  rw [hR.touches, hR.accessRegion (hp _ hR)]

theorem opXld_quiet (ch : BitVec 3) (len : BitVec 9) : (opXld h a b c x ch len).Quiet ds s := by
  refine ⟨withAccess_stable s (opM h) (moveAccess h a len true) fun v hv => hv.reg h.s a, fun v => ?_, fun v => .refl v, fun _ => rfl⟩
  dsimp only [opXld]
  split
  · exact (((v.still_guardArea _ _ _).trans (State.still_takeTid _ _)).trans (State.still_enterReq _ _)).trans (.post _ _)
  · exact (((v.still_guardArea _ _ _).trans (State.still_takeTid _ _)).trans (State.still_enterReq _ _)).trans (State.still_sendPieces _ _ _ _ _)

theorem opXst_quiet (ch : BitVec 3) (len : BitVec 9) : (opXst h a b c x ch len).Quiet ds s := by
  refine ⟨withAccess_stable s (opM h) (moveAccess h b len false) fun v hv => hv.reg h.s b, fun v => ?_, fun v => .refl v, fun _ => rfl⟩
  dsimp only [opXst]
  exact (((v.still_guardArea _ _ _).trans (State.still_takeTid _ _)).trans (State.still_enterReq _ _)).trans (.post _ _)

theorem opXat_quiet (pk : Bool) (w : BitVec 2) (op : BitVec 4) : (opXat h a b c x pk w op).Quiet ds s :=
  ⟨fun _ _ => rfl, fun v => v.still_sendAtomic _ _ _ _ _ _ _, fun v => .refl v, fun _ => rfl⟩

theorem opXatr_quiet (pk : Bool) (w : BitVec 2) (op : BitVec 4) : (opXatr h a b c x pk w op).Quiet ds s :=
  ⟨fun _ _ => rfl, fun v => .trans (.modC' v _) (State.still_sendAtomic _ _ _ _ _ _ _ _), fun v => .refl v, fun _ => rfl⟩

theorem opCpy_quiet (aw : Bool) (nest : BitVec 3) (ne : Bool) (ch : BitVec 3) : (opCpy h a b c x aw nest ne ch).Quiet ds s := by
  refine ⟨fun a' t' => ?_, fun v => ?_, fun v => .refl v, fun _ => rfl⟩
  · have hR := s.reads_resolved a' t'
    have hl : ∀ v, (opCpy h a b c x aw nest ne ch).touch v =
        if cpyLocal h a v then v.touches (v.accessRegion (cpyAccess h a aw (cpyTotal h c x nest ne v) 0 v)) else (false, false) := fun _ => rfl
    have hp : cpyLocal h a ((s.replayBack.resolve a' t').modC Ctx.landed) = cpyLocal h a s.seen := by rw [cpyLocal, cpyLocal, hR.reg]
    rw [hl, hl, hp, hR.touches, hR.accessRegion (b := cpyAccess h a aw (cpyTotal h c x nest ne s.seen) 0 s.seen) (hR.reg h.s a)]
  · have hg : State.Still (· ∈ ds) v (if cpyLocal h a v then v.guardArea .stall (v.c.reg h.s a) (copyTotal (v.nestAt ne nest) (copyRun (v.c.regX h.s c x))) else (v, none)).1 := by
      split
      · exact v.still_guardArea _ _ _
      · exact .refl v
    dsimp only [opCpy]
    split
    case isTrue hl =>
      rw [if_pos hl] at hg
      exact ((hg.trans (State.still_takeTid _ _)).trans (State.still_enterReq _ _)).trans (State.still_sendCopy _ _)
    case isFalse hl =>
      rw [if_neg hl] at hg
      exact ((hg.trans (State.still_takeTid _ _)).trans (State.still_enterReq _ _)).trans (State.still_enterUpTo _ _)

theorem opCpyd_quiet (core : BitVec 11) (mb : BitVec 4) (me : Bool) (dt : BitVec 2) (nest : BitVec 3) (ne : Bool) (ch : BitVec 3) :
    (opCpyd h a b c x core mb me dt nest ne ch).Quiet ds s :=
  ⟨fun _ _ => rfl, fun v => ((v.still_takeTid _).trans (State.still_enterReq _ _)).trans (State.still_sendDeal _ _), fun v => .refl v, fun _ => rfl⟩

/-- An instruction that only waits. -/
theorem Op.quiet_wait {o : Op} (ht : ∀ t, o.touch t = (false, false)) (he : ∀ t, o.eff t = t) (hl : ∀ t, o.late t = t) (ha : ∀ t, o.after t = none) : o.Quiet ds s :=
  ⟨fun _ _ => (ht _).trans (ht _).symm, fun v => by rw [he]; exact .refl v, fun v => by rw [hl]; exact .refl v, ha⟩

theorem opFenceExt_quiet : (opFenceExt h).Quiet ds s := ⟨fun _ _ => rfl, fun v => .modR v fun r => { r with extents := r.extentsPending }, fun v => .refl v, fun _ => rfl⟩

theorem State.still_sendTo (v : State) {P : Dest → Prop} (dst : Rank) (buf ctl : Word) (tag : BitVec 32) (ch : Bool) : Still P v (v.sendTo dst buf ctl tag ch) := .of_sends (v.sends_sendTo dst buf ctl tag ch)

theorem opSend_quiet (tag : BitVec 32) : (opSend h a b c x tag).Quiet ds s := ⟨fun _ _ => rfl, fun v => v.still_sendTo _ _ _ _ _, fun v => .refl v, fun _ => rfl⟩

theorem opSendx_quiet (tag : BitVec 32) : (opSendx h a b c x tag).Quiet ds s := by
  refine ⟨fun _ _ => rfl, fun v => .trans ?_ (State.still_sendTo _ _ _ _ _ _), fun v => .refl v, fun _ => rfl⟩
  exact .of_ctx rfl rfl rfl rfl fun _ => rfl

theorem opMcast_quiet (mb : BitVec 4) (tag : BitVec 28) : (opMcast h a b c x mb tag).Quiet ds s :=
  ⟨fun _ _ => rfl, fun v => v.still_multicast _ _ _ _ _, fun v => .refl v, fun _ => rfl⟩

theorem opSendp_quiet (fin : Bool) (tag : BitVec 31) : (opSendp h a b c x fin tag).Quiet ds s := by
  refine ⟨fun _ _ => rfl, fun v => ?_, fun v => .refl v, fun _ => rfl⟩
  have h1 : State.Still (· ∈ ds) v (v.fedPacket (v.c.reg h.s b) (v.c.regX h.s c x)) :=
    .trans (.modR v _ fun r => congrArg (·.ctx) (r.credit_rest _ _)) (.modC' _ _)
  dsimp only [opSendp]
  split
  · exact h1.trans (State.still_closePacket _ _ _)
  · exact h1.trans (.modCore _ _)

theorem opFree_quiet : (opFree h a b).Quiet ds s := by
  refine ⟨fun _ _ => rfl, fun v => ?_, fun v => .refl v, fun _ => rfl⟩
  dsimp only [opFree]
  split
  · exact .refl v
  · exact .trans (.modR v _) (.emit _ _)

theorem opMmar_quiet (k : BitVec 3) (ta tb : BitVec 4) (w : Bool) (r : BitVec 3) : (opMmar h a b c x k ta tb w r).Quiet ds s := by
  refine ⟨fun _ _ => rfl, fun v => ?_, fun v => .refl v, fun _ => rfl⟩
  dsimp only [opMmar]
  split
  · exact v.still_postError _ _
  · exact .trans (.modCore v _) (.of_sends (State.sends_flush _))

theorem opExchMove_quiet (t : BitVec 4) (flits : BitVec 8) (cyc : BitVec 20) (send : Bool) : (opExchMove h a t flits cyc send).Quiet ds s := by
  refine ⟨fun _ _ => rfl, fun v => ?_, fun v => .refl v, fun _ => rfl⟩
  dsimp only [opExchMove]
  exact (v.still_guardArea _ _ _).trans (.modCore _ _)

theorem opExpect_quiet (m : BitVec 4) : (opExpect h a m).Quiet ds s := by
  refine ⟨fun _ _ => rfl, fun v => ?_, fun v => .refl v, fun _ => rfl⟩
  dsimp only [opExpect]
  exact .modR v _

theorem opMbadd_quiet (m : BitVec 4) : (opMbadd h a m).Quiet ds s := by
  refine ⟨fun _ _ => rfl, fun v => ?_, fun v => .refl v, fun _ => rfl⟩
  dsimp only [opMbadd]
  exact .modR v _

theorem opWaitmb_quiet (m : BitVec 4) : (opWaitmb h m).Quiet ds s := by
  refine ⟨fun _ _ => rfl, fun v => ?_, fun v => .refl v, fun _ => rfl⟩
  dsimp only [opWaitmb]
  exact .modR v _

theorem opEvrun_quiet (f : BitVec 3) : (opEvrun h a f).Quiet ds s := by
  refine ⟨fun _ _ => rfl, fun v => ?_, fun v => v.still_kick, fun _ => rfl⟩
  dsimp only [opEvrun]
  exact .modR v _

/-- An instruction that changes a handle at the end of its bundle. -/
theorem Op.quiet_handle {o : Op} (n : BitVec 4) (f : State → Handle → Handle) (ht : ∀ t, o.touch t = (false, false)) (he : ∀ t, o.eff t = t)
    (hl : ∀ v, o.late v = (v.modR fun r => r.modHandle n (f v)).wake) (ha : ∀ t, o.after t = none) : o.Quiet ds s :=
  ⟨fun _ _ => (ht _).trans (ht _).symm, fun v => by rw [he]; exact .refl v, fun v => hl v ▸ .trans (.modR v _) (State.still_wake _), ha⟩

theorem opHset_quiet (t : BitVec 4) (cnt : BitVec 8) (size : BitVec 13) : (opHset h a t cnt size).Quiet ds s :=
  Op.quiet_handle s ds t _ (fun _ => rfl) (fun _ => rfl) (fun _ => rfl) fun _ => rfl

theorem opHadv_quiet (n q : BitVec 4) (cons : Bool) : (opHadv h n q cons).Quiet ds s :=
  Op.quiet_handle s ds n _ (fun _ => rfl) (fun _ => rfl) (fun _ => rfl) fun _ => rfl

theorem opEvsend_quiet (fld : BitVec 3) (col row : BitVec 8) : (opEvsend h a b c x fld col row).Quiet ds s :=
  ⟨fun _ _ => rfl, fun v => v.still_sendEvent _ _ _ _ _, fun v => v.still_kick, fun _ => rfl⟩

theorem opEvctlUnbind_quiet (f : BitVec 3) : (opEvctlUnbind h f).Quiet ds s := by
  refine ⟨fun _ _ => rfl, fun v => ?_, fun v => .refl v, fun _ => rfl⟩
  dsimp only [opEvctlUnbind]
  exact .trans (.modR v _) (.modCore _ _)

theorem opEvRead_quiet (f : BitVec 3) (w : State → Word) : (opEvRead h a f w).Quiet [.s (regOf h.s a)] s :=
  ⟨fun _ _ => rfl, fun v => .result v _ _ _ (List.mem_singleton_self _), fun v => .refl v, fun _ => rfl⟩

theorem opEvctlLate_quiet (f : BitVec 3) : (opEvctlLate h a f).Quiet [.s (regOf h.s a)] s := by
  refine ⟨fun _ _ => rfl, fun v => ?_, fun v => .refl v, fun _ => rfl⟩
  dsimp only [opEvctlLate, opEvRead]
  exact .trans (.result v _ _ _ (List.mem_singleton_self _)) (.modR _ _)

theorem opWaitLimit_quiet (t : BitVec 4) (k : BitVec 7) (lim : BitVec 32) : (opWaitLimit h a t k lim).Quiet [.s (regOf h.s a)] s :=
  ⟨fun _ _ => rfl, fun v => .result v _ _ _ (List.mem_singleton_self _), fun v => .refl v, fun _ => rfl⟩

theorem opField_quiet (f k : BitVec 3) : (opField h a f k).Quiet ds s := by
  refine ⟨fun a' t' => ?_, fun v => .modR v fun r => r.modField f fun _ => v.newField h a k, fun v => v.still_kick, fun _ => rfl⟩
  have hR := s.reads_resolved a' t'
  show (true, (State.touches _ _).2) = (true, (State.touches _ _).2)
  rw [hR.touches, hR.accessRegion (b := fieldAccess h a 0 s.seen) (hR.reg h.s a)]

theorem opBellAt_quiet (n : BitVec 4) (cross x bad : Bool) : (opBellAt h n cross x bad).Quiet ds s :=
  ⟨fun _ _ => rfl, fun v => v.still_arriveBell _ _ _, fun v => .refl v, fun _ => rfl⟩

theorem opExch_quiet : (opExch h).Quiet ds s := ⟨fun _ _ => rfl, fun v => .modCore v fun c => { c with exch := { c.exch with opened := true } }, fun v => .refl v, fun _ => rfl⟩

theorem opSfs_quiet (r : BitVec 3) (fn : BitVec 4) : (opSfs h a b r fn).Quiet ds s := by
  refine ⟨fun _ _ => rfl, fun v => ?_, fun v => .refl v, fun _ => rfl⟩
  dsimp only [opSfs]
  refine .trans ?_ (State.still_sfuKick _)
  refine .trans ?_ (.modC' _ _)
  generalize hd : (if (decide (fn.toNat = 4) && decide (r.toNat = 4)) = true then v.modR fun x => { x with lfsr := lfsrStep x.lfsr } else v) = w
  have hw : State.Still (· ∈ ds) v w := by
    rw [← hd]
    split
    · exact .modR v _
    · exact .refl v
  exact hw.trans (.of_ctx rfl rfl rfl rfl fun _ => rfl)

theorem opMove_quiet (i : Instr) (m : TileMove) : (opMove h i m).Quiet ds s := by
  refine ⟨opMove_stable h i m s, fun v => ?_, fun v => v.still_tagsLand, fun _ => rfl⟩
  rw [opMove_eff]
  exact (((v.still_guardArea _ _ _).trans (State.still_takeTid _ _)).trans (State.still_enqueue _ _)).trans (State.still_noteTags _ _)

theorem opAccxSend_quiet (k : BitVec 3) (tag : BitVec 32) : (opAccxSend h a k tag).Quiet ds s := by
  refine ⟨fun _ _ => rfl, fun v => ?_, fun v => v.still_tagsLand, fun _ => rfl⟩
  rw [opAccxSend_eff]
  exact .trans (.of_sends (v.sends_enterSend _ _)) (State.still_enqueue _ _)

theorem opAccxOpen_quiet (k : BitVec 3) (tag : BitVec 32) : (opAccxOpen h a k tag).Quiet ds s :=
  ⟨fun _ _ => rfl, fun v => .trans (.modR v _) (State.still_enqueue _ _), fun v => v.still_tagsLand, fun _ => rfl⟩

theorem opAccxClose_quiet (k r : BitVec 3) : (opAccxClose h k r).Quiet ds s :=
  ⟨fun _ _ => rfl, fun v => .trans (.modR v _) (State.still_enqueue _ _), fun v => v.still_tagsLand, fun _ => rfl⟩

end

/-- An instruction that hands work to another unit is quiet. -/
theorem handsOver_quiet {i : Instr} {o : Op} (hi : handsOver i = true) (ho : opOf i = some o) (s : State) : o.Quiet (destsOf i) s := by
  by_cases ht : tileTask i = true
  · obtain ⟨f, he, -⟩ := tileTask_enters ht ho
    exact he.quiet _ s
  cases i with
  | xld h a b c x ch len => cases ho; exact opXld_quiet ..
  | xst h a b c x ch len => cases ho; exact opXst_quiet ..
  | xat h a b c x pk w op => cases ho; exact opXat_quiet ..
  | xatr h a b c x pk w op => cases ho; exact opXatr_quiet ..
  | cpy h a b c x aw nest ne ch => cases ho; exact opCpy_quiet ..
  | cpyd h a b c x core mb me dt nest ne ch => cases ho; exact opCpyd_quiet ..
  | fenceAcq h k => cases ho; exact Op.quiet_wait _ _ (fun _ => rfl) (fun _ => rfl) (fun _ => rfl) fun _ => rfl
  | fenceRel h k => cases ho; exact Op.quiet_wait _ _ (fun _ => rfl) (fun _ => rfl) (fun _ => rfl) fun _ => rfl
  | fenceFull h k => cases ho; exact Op.quiet_wait _ _ (fun _ => rfl) (fun _ => rfl) (fun _ => rfl) fun _ => rfl
  | fenceExt h => cases ho; exact opFenceExt_quiet ..
  | send h a b c x tag => cases ho; exact opSend_quiet ..
  | sendp h a b c x fin tag => cases ho; exact opSendp_quiet ..
  | sendx h a b c x tag => cases ho; exact opSendx_quiet ..
  | mcast h a b c x mb tag => cases ho; exact opMcast_quiet ..
  | free h a b => cases ho; exact opFree_quiet ..
  | mmar h a b c x k ta tb v r => cases ho; exact opMmar_quiet ..
  | xsnd h a t flits cyc => cases ho; exact opExchMove_quiet ..
  | xrcv h a t flits cyc => cases ho; exact opExchMove_quiet ..
  | expect h a m => cases ho; exact opExpect_quiet ..
  | mbadd h a m => cases ho; exact opMbadd_quiet ..
  | hset h a t cnt size => cases ho; exact opHset_quiet ..
  | hwaitProd h n q => cases ho; exact Op.quiet_wait _ _ (fun _ => rfl) (fun _ => rfl) (fun _ => rfl) fun _ => rfl
  | hwaitCons h n q => cases ho; exact Op.quiet_wait _ _ (fun _ => rfl) (fun _ => rfl) (fun _ => rfl) fun _ => rfl
  | hadvProd h n q => cases ho; exact opHadv_quiet ..
  | hadvCons h n q => cases ho; exact opHadv_quiet ..
  | evsend h a b c x fld col row => cases ho; exact opEvsend_quiet ..
  | evrun h a f => cases ho; exact opEvrun_quiet ..
  | evctlUnbind h f => cases ho; exact opEvctlUnbind_quiet ..
  | evctlTime h a f => cases ho; exact opEvRead_quiet ..
  | evctlLate h a f => cases ho; exact opEvctlLate_quiet ..
  | evctlQlen h a f => cases ho; exact opEvRead_quiet ..
  | evctlFires h a f => cases ho; exact opEvRead_quiet ..
  | field h a f k => cases ho; exact opField_quiet ..
  | tld h a n ch need hnd he st => cases ho; exact opMove_quiet ..
  | tst h a n ch need hnd he st => cases ho; exact opMove_quiet ..
  | sfs h a b r fn => cases ho; exact opSfs_quiet ..
  | accxSend h a k tag => cases ho; exact opAccxSend_quiet ..
  | accxOpen h a k tag => cases ho; exact opAccxOpen_quiet ..
  | accxClose h k r => cases ho; exact opAccxClose_quiet ..
  | bell h k => cases ho; exact opBellAt_quiet ..
  | bellD h k => cases ho; exact opBellAt_quiet ..
  | bellX h k d => cases ho; exact opBellAt_quiet ..
  | exch h => cases ho; exact opExch_quiet ..
  | waitFull h a => cases ho; exact Op.quiet_wait _ _ (fun _ => rfl) (fun _ => rfl) (fun _ => rfl) fun _ => rfl
  | waitEmpty h a => cases ho; exact Op.quiet_wait _ _ (fun _ => rfl) (fun _ => rfl) (fun _ => rfl) fun _ => rfl
  | waitmb h m => cases ho; exact opWaitmb_quiet ..
  | waitLimit h a t k lim => cases ho; exact opWaitLimit_quiet ..
  | _ => exact absurd hi ht

/-- Settles O14: every such instruction is quiet, and the issue of a quiet instruction leaves what the statement names. -/
theorem handOverFrame : Obligations.HandOverFrame := by
  unfold Obligations.HandOverFrame
  intro i o s t hi ho hr he
  have hq := handsOver_quiet hi ho s
  have ht : t = o.issued s := by
    cases he.symm.trans ((exec_eq_runOne i o s ho).trans (runOne_ready o s hr (hq.after _)))
    rfl
  obtain ⟨hmem, hsrv, hothers, ⟨h1, h2, h3, h4, h5, h6⟩, hflight⟩ := hq.handOver hr
  rw [ht]
  exact ⟨hmem, hsrv, hothers, h1, h2, h3, h4, h5, h6, hflight⟩

end Sys2Proof.Machine
end

section
/-!
PROOF. The units of a core (O40): what each of their events does.
-/

namespace Sys2Proof.Machine

open Sys2Proof

/-! ### The Foreman (R410) -/

/-- Every task of the Foreman has been dispatched. -/
def State.AllDispatched (s : State) : Prop := ∀ y ∈ s.core.tasks, y.dispatched = true

section
variable {s t : State}

theorem State.AllDispatched.of_tasks (h : s.AllDispatched) (ht : t.core.tasks = s.core.tasks) : t.AllDispatched := fun y hy => h y (ht ▸ hy)

theorem State.AllDispatched.modTask (h : s.AllDispatched) (n : Nat) (f : Task → Task) (hf : ∀ x, (f x).dispatched = x.dispatched := by intro; rfl) : (s.modTask n f).AllDispatched := by
  intro y hy
  obtain ⟨x, hx, rfl⟩ := List.mem_map.mp hy
  split
  · exact (hf x).trans (h x hx)
  · exact h x hx

theorem State.Sends.tasks (h : Sends s t) : t.core.tasks = s.core.tasks := congrArg (·.tasks) h.core

theorem State.AllDispatched.of_sends (h : s.AllDispatched) (ht : Sends s t) : t.AllDispatched := h.of_tasks ht.tasks

theorem State.AllDispatched.runStep (h : s.AllDispatched) (u : Task) : (s.runStep u).AllDispatched := h.of_tasks rfl

theorem State.AllDispatched.wake (h : s.AllDispatched) : s.wake.AllDispatched := by
  unfold State.wake
  split <;> exact h.of_tasks rfl

theorem State.askLeave_tasks (s : State) : s.askLeave.core.tasks = s.core.tasks := by
  unfold State.askLeave
  split <;> rfl

theorem State.AllDispatched.takeLfsr (h : s.AllDispatched) (u : Task) : (s.takeLfsr u).AllDispatched := by
  unfold State.takeLfsr
  split
  · exact (h.modTask u.id _).of_tasks rfl
  · exact h

theorem State.leaveDone_tasks (s : State) (b : Bool) : (s.leaveDone b).core.tasks = s.core.tasks := by
  unfold State.leaveDone
  split
  · split <;> rfl
  · rfl

theorem State.rangeRemove_tasks (s : State) (i : Option (Fin 32)) : (s.rangeRemove i).core.tasks = s.core.tasks := (s.sends_rangeRemove i).tasks

theorem State.freeLane_tasks (s : State) (u : Task) : (s.freeLane u).core.tasks = s.core.tasks := by
  unfold State.freeLane
  split <;> rfl

theorem State.AllDispatched.finishTask (h : s.AllDispatched) (u : Task) : (s.finishTask u).AllDispatched := by
  unfold State.finishTask
  extract_lets s1 s2 s3
  have h1 : s1.AllDispatched := by
    have h0 : (s.modCore fun c => { c with tasks := c.tasks.filter fun x => x.id != u.id }).AllDispatched := fun y hy => h y (List.mem_of_mem_filter hy)
    exact h0.of_tasks ((State.freeLane_tasks _ u).trans (State.rangeRemove_tasks _ _))
  have h2 : s2.AllDispatched := by
    simp only [s2]
    split
    · exact h1.of_tasks rfl
    · exact h1
  have h3 : s3.AllDispatched := by
    simp only [s3]
    split
    · exact h2.of_sends (.of_passes (State.passes_emitFor _ _ _))
    · exact h2
  exact (h3.of_tasks (s3.leaveDone_tasks _)).wake

theorem State.AllDispatched.fillSend (h : s.AllDispatched) (u : Task) : (s.fillSend u).AllDispatched := by
  unfold State.fillSend
  split
  · exact h
  · extract_lets mine
    split
    · refine .of_sends (.of_sends ?_ (State.sends_failSend _ _ _ _)) (State.sends_flush _)
      exact h.of_tasks rfl
    · refine .of_sends ?_ (State.sends_flush _)
      exact h.of_tasks rfl

theorem State.AllDispatched.sftRequests (h : s.AllDispatched) (u : Task) (r : BitVec 3) (fn : BitVec 4) : (s.sftRequests u r fn).AllDispatched := by
  have kick : ∀ v : State, v.sfuKick.core.tasks = v.core.tasks := fun v => by
    unfold State.sfuKick
    split <;> rfl
  unfold State.sftRequests
  dsimp only
  split
  · exact State.AllDispatched.of_tasks (h.of_tasks rfl) (kick _)
  · exact State.AllDispatched.of_tasks (h.of_tasks rfl) (kick _)

theorem State.AllDispatched.startRing (h : s.AllDispatched) (u : Task) (cw : Bool) (a : BitVec 4) : (s.startRing u cw a).AllDispatched := by
  unfold State.startRing
  exact ((h.modTask u.id _).of_sends (.of_passes (State.passes_emitFor _ _ _))).of_tasks rfl

theorem State.AllDispatched.startMatrix (h : s.AllDispatched) (u : Task) : (s.startMatrix u).AllDispatched := by
  unfold State.startMatrix
  split
  · exact h.runStep u
  · split
    · exact ((h.modTask u.id _).of_tasks rfl).runStep u
    · exact (h.modTask u.id _).of_tasks (State.askLeave_tasks _)

/-- A task that starts is dispatched, so where every task has its number all are. -/
theorem State.allDispatched_startTask (u : Task) (hu : ∀ y ∈ s.core.tasks, y.id = u.id) : (s.startTask u).AllDispatched := by
  unfold State.startTask
  extract_lets s1
  have h1 : s1.AllDispatched := by
    have h0 : (s.modTask u.id fun x => { x with dispatched := true, stopped := false, seq := s.fresh }).AllDispatched := fun y hy => by
      obtain ⟨x, hx, rfl⟩ := List.mem_map.mp hy
      rw [if_pos (hu x hx)]
    refine State.AllDispatched.takeLfsr ?_ u
    exact h0.of_tasks rfl
  clear_value s1
  split
  · exact h1.finishTask u
  · split
    · exact h1.sftRequests u _ _
    · exact (h1.fillSend u).runStep u
    · exact h1.startRing u _ _
    · exact h1.startRing u _ _
    · split
      · exact h1.startMatrix u
      · split
        · exact (h1.modTask u.id _).of_tasks rfl
        · exact h1.runStep u

/-! An engine looks for the oldest ready task -/

theorem State.findReady_dispatched (s : State) (e : BitVec 3) (l before : List Task) (h : ∀ y ∈ l, y.dispatched = true) : s.findReady e before l = none := by
  induction l generalizing before with
  | nil => rfl
  | cons u l ih =>
    have hu : s.taskReady before u = false := by simp [State.taskReady, h u List.mem_cons_self]
    rw [State.findReady, hu, Bool.and_false, if_neg Bool.false_ne_true]
    exact ih _ fun y hy => h y (List.mem_cons_of_mem _ hy)

/-- An engine dispatches nothing where every task has been dispatched. -/
theorem State.AllDispatched.dispatchEngine (h : s.AllDispatched) (k : ResNo) (e : BitVec 3) : s.dispatchEngine k e = s := by
  unfold State.dispatchEngine
  split
  · rfl
  · rw [s.findReady_dispatched e _ _ fun y hy => h y (List.mem_of_mem_filter hy)]

theorem State.AllDispatched.dispatchAll (h : s.AllDispatched) (k : ResNo) (l : List (BitVec 3)) : l.foldl (fun s e => s.dispatchEngine k e) s = s := by
  induction l with
  | nil => rfl
  | cons e l ih => rw [List.foldl_cons, h.dispatchEngine k e, ih]

/-- Another engine passes over the one task there is. -/
theorem State.dispatchEngine_other {k : ResNo} {e : BitVec 3} {u : Task} (ht : s.core.tasks = [u]) (he : engineOf u.instr ≠ e) : s.dispatchEngine k e = s := by
  unfold State.dispatchEngine
  split
  · rfl
  · have hf : s.findReady e [] (s.core.tasks.filter fun t => t.res == k) = none := by
      rw [ht, List.filter_cons]
      split
      · rw [State.findReady, beq_false_of_ne he, Bool.false_and, if_neg Bool.false_ne_true]
        rfl
      · rfl
    rw [hf]

/-- A ready task that is alone, with no cause against its dispatch. -/
structure State.Dispatches (s : State) (k : ResNo) (u : Task) : Prop where
  tasks : s.core.tasks = [u]
  res : u.res = k
  live : (s.res.get k).phase = .live
  idle : s.core.engineDone = []
  free : (s.res.get k).tasksHeld = false
  ready : s.taskReady [] u = true
  touch : s.dispatchTouch u = none
  clear : (s.as k fun v => v.resolve (taskUses u).groups.1 (taskUses u).groups.2).clearing (taskUses u).groups.1 (taskUses u).groups.2 = false

theorem State.Dispatches.allDispatched {k : ResNo} {u : Task} (h : s.Dispatches k u) : (s.dispatchEngine k (engineOf u.instr)).AllDispatched := by
  have hd : u.dispatched = false := by
    have := h.ready
    simp only [State.taskReady, Bool.and_eq_true, Bool.not_eq_true'] at this
    tauto
  have hload : s.engineLoad (engineOf u.instr) = 0 := by simp [State.engineLoad, h.tasks, hd]
  have hcap : ¬engineCap (engineOf u.instr) ≤ 0 := by
    unfold engineCap
    split
    · decide
    · split <;> decide
  have hgo : ¬((s.res.get k).tasksHeld = true ∨ (s.res.get k).phase ≠ .live ∨ engineCap (engineOf u.instr) ≤ s.engineLoad (engineOf u.instr) ∨
      s.core.engineDone.contains (engineOf u.instr) = true) := by
    simp [h.free, h.live, h.idle, hload, hcap]
  have hfind : s.findReady (engineOf u.instr) [] (s.core.tasks.filter fun t => t.res == k) = some u := by
    simp [h.tasks, h.res, State.findReady, h.ready]
  rw [State.dispatchEngine, if_neg hgo, hfind]
  have hc : (s.as u.res fun s => s.resolve (taskUses u).groups.1 (taskUses u).groups.2).clearing (taskUses u).groups.1 (taskUses u).groups.2 = false := h.res ▸ h.clear
  have hstart : s.dispatchTask u = (s.as u.res fun s => s.resolve (taskUses u).groups.1 (taskUses u).groups.2).startTask u := by
    rw [State.dispatchTask, h.touch]
    dsimp only
    rw [if_neg (by rw [hc]; exact Bool.false_ne_true)]
  have htasks : (s.as u.res fun s => s.resolve (taskUses u).groups.1 (taskUses u).groups.2).core.tasks = [u] :=
    (congrArg (·.tasks) (({ s with curRes := u.res } : State).resolve_rest _ _)).trans h.tasks
  dsimp only
  rw [hstart]
  exact (State.allDispatched_startTask u fun y hy => by rw [htasks] at hy; rw [List.mem_singleton.mp hy]).of_tasks rfl

theorem engineOf_mem (i : Instr) : engineOf i ∈ (List.range 6).map (BitVec.ofNat 3) := by
  unfold engineOf
  split <;> decide

/-- The engines in turn come to the task's own. -/
theorem State.Dispatches.engines {k : ResNo} {u : Task} (h : s.Dispatches k u) (l : List (BitVec 3)) (hl : engineOf u.instr ∈ l) :
    (l.foldl (fun s e => s.dispatchEngine k e) s).AllDispatched := by
  induction l with
  | nil => exact absurd hl List.not_mem_nil
  | cons e l ih =>
    rw [List.foldl_cons]
    by_cases he : engineOf u.instr = e
    · rw [← he, h.allDispatched.dispatchAll]
      exact h.allDispatched
    · rw [State.dispatchEngine_other h.tasks he]
      exact ih ((List.mem_cons.mp hl).resolve_left he)

theorem execForemanDispatch_dispatches {k : ResNo} {u : Task} (hi : s.core.issuing = some k) (hs : s.core.switch = none) (h : s.Dispatches k u) :
    ∃ t, exec .foremanDispatch s = .next t ∧ t.AllDispatched := by
  have hall := h.engines _ (engineOf_mem u.instr)
  generalize hv : ((List.range 6).map (BitVec.ofNat 3)).foldl (fun s e => s.dispatchEngine k e) s = v at hall
  have he : exec .foremanDispatch s = .next (if v.undispatched && !v.core.engineDone.isEmpty then v.lookAgain else v) := by
    show execForemanDispatch s = _
    rw [execForemanDispatch, hi]
    dsimp only
    rw [hs, hv]
    rfl
  refine ⟨_, he, ?_⟩
  split
  · unfold State.lookAgain
    split
    · exact hall
    · exact hall.of_tasks rfl
  · exact hall

end

/-! ### Steps and clears (R36, R220) -/

section
variable {s : State}

theorem execTaskStepEnd_runs {id : Nat} {u : Task} (hf : (s.core.tasks.find? fun t => t.id == id && t.dispatched && !t.parked) = some u)
    (hb : u.stepBanks ≠ [] → s.env.agenda.any writesBank = false) (hp : u.unpaired = false) (hr : s.ringWaits u = false) (hc : s.blockClash u = none) (hw : s.portWaits u = false)
    (ht : s.taskBad u = false ∨ engineOf u.instr = 2) :
    exec (.taskStepEnd id) s = .next ((((s.noteBad u (s.taskBad u)).doStep u).modCore fun c => { c with seqBanks := c.seqBanks ++ u.stepBanks }).nextStep u) := by
  have hbanks : ¬((!u.stepBanks.isEmpty) = true ∧ s.env.agenda.any writesBank = true) := by
    rintro ⟨h1, h2⟩
    have hne : u.stepBanks ≠ [] := by simpa using h1
    rw [hb hne] at h2
    exact Bool.false_ne_true h2
  have hbad : ¬(s.taskBad u = true ∧ engineOf u.instr ≠ 2) := by
    rintro ⟨h1, h2⟩
    rcases ht with ht | ht
    · rw [ht] at h1
      exact Bool.false_ne_true h1
    · exact h2 ht
  show execTaskStepEnd id s = _
  rw [execTaskStepEnd, hf]
  dsimp only
  rw [if_neg hbanks, hp, hr, hc, hw]
  simp only [Bool.false_eq_true, if_false, hbad]

theorem State.wake_core (s : State) : s.wake.core = s.core := by
  unfold State.wake
  split <;> rfl

theorem State.kick_core (s : State) : s.kick.core = s.core := by
  unfold State.kick
  split
  · rfl
  · split <;> rfl

theorem execGroupClearDone_accClear {c : BitVec 64} (h : s.core.accClear = some c) :
    ∃ t, exec .groupClearDone s = .next t ∧ t.core.mem = s.core.mem ∧ t.core.accClear = if c.toNat ≤ s.core.cycle.toNat then none else some c := by
  refine ⟨_, rfl, ?_⟩
  rw [State.kick_core, State.wake_core]
  refine ⟨rfl, ?_⟩
  show (match s.core.accClear with | some c => if c.toNat ≤ s.core.cycle.toNat then none else some c | none => none) = _
  rw [h]

/-! ### The special-function unit (R238, R414) -/

theorem execSfuServe_serves {i : Nat} {k : CtxNo} {q : SfuReq} {l : List SfuReq} (hb : s.cl.sfuBusy = none) (hn : s.fifoNext = some i) (ha : s.fifoAt i = .inl k)
    (hk : s.cl.fifos.get k = q :: l) :
    ∃ t, exec .sfuServe s = .next t ∧ t.cl.sfuLast = i ∧ t.cl.sfuBusy = some k.val ∧ t.cl.sfuDue = s.core.cycle + BitVec.ofNat 64 (s.sfuCycles k q) := by
  refine ⟨({ s with cl := { s.cl with sfuLast := i, sfuBusy := some k.val, sfuDue := s.core.cycle + BitVec.ofNat 64 (s.sfuCycles k q) } }).after (s.sfuCycles k q) .sfuRequestDone, ?_, rfl, rfl, rfl⟩
  show execSfuServe s = _
  rw [execSfuServe, hb, hn]
  simp only [Option.isSome_none, Bool.false_eq_true, if_false, ha, hk]

/-- The result of a special function goes to the register of its request (R239). -/
theorem Ctx.sfuResult_await {c : Ctx} {q : SfuReq} {a : Await} (v : Word) (hw : c.awaits = [a]) (hs : a.sfu = true) (hm : a.mode = q.sup) (hd : a.dest = .s q.dest) (hc : c.mode = q.sup) :
    (c.sfuResult q v).awaits = [] ∧ ⟨a.dest, v, latLoad⟩ ∈ (c.sfuResult q v).flight := by
  have hf : (c.awaits.find? fun a => a.sfu && a.mode == q.sup && a.dest == .s q.dest) = some a := by simp [hw, hs, hm, hd]
  have hn : ¬((c.mode && !q.sup) = true) := by simp [hc]
  rw [Ctx.sfuResult, hf]
  dsimp only
  rw [if_neg hn, hw, List.erase_cons_head]
  exact ⟨rfl, List.mem_append_right _ (List.mem_singleton_self _)⟩

theorem execSfuRequestDone_scalar {j : ResNo} {k : CtxNo} {q : SfuReq} {l : List SfuReq} {a : Await} (hi : s.core.issuing = some j) (hb : s.cl.sfuBusy = some k.val)
    (hdue : s.cl.sfuDue = s.core.cycle) (hk : s.cl.fifos.get k = q :: l) (hq : q.scalar = true) (hw : ((s.res.get j).ctx.get k).awaits = [a]) (hs : a.sfu = true) (hm : a.mode = q.sup)
    (hd : a.dest = .s q.dest) (hc : ((s.res.get j).ctx.get k).mode = q.sup) :
    ∃ t, exec .sfuRequestDone s = .next t ∧ t.cl.sfuBusy = none ∧ t.cl.fifos.get k = l ∧ ((t.res.get j).ctx.get k).awaits = [] ∧
      ⟨a.dest, (sfu q.fn q.mode (q.lfsr.getD (s.res.get j).lfsr) (q.operand.truncate 32)).zeroExtend 64, 4⟩ ∈ ((t.res.get j).ctx.get k).flight := by
  have kick : ∀ v : State, v.sfuKick.cl = v.cl ∧ v.sfuKick.res = v.res := fun v => by
    unfold State.sfuKick
    split <;> exact ⟨rfl, rfl⟩
  let s1 : State := { s with cl := { s.cl with sfuBusy := none } }
  refine ⟨((s1.setFifo k l).sfuFinish j k q).sfuKick, ?_, ?_⟩
  · show execSfuRequestDone s = _
    rw [execSfuRequestDone, hb, hi]
    dsimp only
    rw [if_neg (not_not_intro hdue), dif_pos k.isLt]
    dsimp only [Fin.eta]
    rw [hk]
  · rw [(kick _).1, (kick _).2, State.sfuFinish, if_pos hq]
    have hr : (((s1.setFifo k l).modRes j fun r =>
        ({ r with lfsr := if q.fn = 4 ∧ q.lfsr.isNone then lfsrAfter q.mode (s.res.get j).lfsr else (s.res.get j).lfsr }).modCtx k fun x =>
          x.sfuResult q ((sfu q.fn q.mode (q.lfsr.getD (s.res.get j).lfsr) (q.operand.truncate 32)).zeroExtend 64)).res.get j).ctx.get k =
        ((s.res.get j).ctx.get k).sfuResult q ((sfu q.fn q.mode (q.lfsr.getD (s.res.get j).lfsr) (q.operand.truncate 32)).zeroExtend 64) := by
      rw [State.modRes_res, vec_get_set_same]
      exact vec_get_set_same _ _ _
    obtain ⟨h1, h2⟩ := Ctx.sfuResult_await ((sfu q.fn q.mode (q.lfsr.getD (s.res.get j).lfsr) (q.operand.truncate 32)).zeroExtend 64) hw hs hm hd hc
    rw [← hr] at h1 h2
    exact ⟨rfl, vec_get_set_same _ _ _, h1, h2⟩

/-! ### Power leave (R415 to R417) -/

theorem State.mem_after (s : State) (n : Nat) (i : Instr) : (s.core.cycle + BitVec.ofNat 64 n, i) ∈ (s.after n i).env.timers := List.mem_append_right _ (List.mem_singleton_self _)

theorem State.decideLeave_grants {x : LeaveAsk} (hq : s.die.leaveQueue = [x]) (hd : s.die.leaveUnits.length + 1 ≤ s.die.dieLimit) (hc : s.die.clusterUnits x.core + 1 ≤ s.die.clusterLimit) :
    s.decideLeave.die.leaveQueue = [] ∧ s.decideLeave.die.leaveUnits = s.die.leaveUnits ++ [x.core] ∧
    (x.core = s.diePlace → s.decideLeave.core.leaveDue = some (s.core.cycle + 4) ∧ (s.core.cycle + 4, Instr.leaveGrant) ∈ s.decideLeave.env.timers) := by
  have he : s.decideLeave = if x.core = s.diePlace then
      (({ s with die := { s.die with leaveQueue := [], leaveUnits := s.die.leaveUnits ++ [x.core] } } : State).modCore fun c => { c with leaveDue := some (c.cycle + 4) }).after 4 .leaveGrant
      else { s with die := { s.die with leaveQueue := [], leaveUnits := s.die.leaveUnits ++ [x.core] } } := by
    rw [State.decideLeave, hq]
    show decideOn 1 s = _
    rw [decideOn, hq]
    dsimp only
    rw [if_pos ⟨hd, hc⟩]
    rfl
  rw [he]
  split
  case isTrue hp => exact ⟨rfl, rfl, fun _ => ⟨rfl, State.mem_after _ _ _⟩⟩
  case isFalse hp => exact ⟨rfl, rfl, fun h => absurd h hp⟩

theorem State.decideLeave_waits {x : LeaveAsk} (hq : s.die.leaveQueue = [x]) (h : s.die.dieLimit < s.die.leaveUnits.length + 1 ∨ s.die.clusterLimit < s.die.clusterUnits x.core + 1) :
    s.decideLeave = s := by
  rw [State.decideLeave, hq]
  show decideOn 1 s = _
  rw [decideOn, hq]
  dsimp only
  rw [if_neg (by omega)]

/-- The core but for its queues towards the network. -/
def CoreSt.queued (c d : CoreSt) : CoreSt :=
  { d with ni := c.ni, router := c.router, reqs := c.reqs, sends := c.sends, streamsOut := c.streamsOut, inFlight := c.inFlight, leaving := c.leaving }

/-- What goes out changes the core's queues towards the network alone. -/
def State.Routed (s t : State) : Prop := s.core.queued t.core = s.core

section
variable {s t u : State}

theorem State.Routed.trans (h : Routed s t) (g : Routed t u) : Routed s u := by
  have e : s.core.queued t.core = s.core := h
  rw [← show t.core.queued u.core = t.core from g] at e
  exact e

theorem State.Routed.of_core (h : t.core = s.core) : Routed s t := by
  rw [State.Routed, h]
  rfl

theorem State.Routed.of_passes (h : Passes s t) : Routed s t := by
  rw [State.Routed, ← h.core]
  rfl

end

theorem State.routed_enterRouter (s : State) (p : Parcel) : Routed s (s.enterRouter p) := by
  unfold State.enterRouter
  split <;> rfl

theorem State.pin_core (s : State) (p c : Nat) : (s.pin p c).core = s.core := by
  unfold State.pin
  dsimp only
  split <;> rfl

theorem State.openContext_core (s : State) (o : Out) (t : Target) : (s.openContext o t).core = s.core := by
  unfold State.openContext
  split
  · split
    · exact s.pin_core _ _
    · unfold State.spread
      dsimp only
      split <;> rfl
    · rfl
  · rfl

theorem State.routed_toRouter (s : State) (x : Inject) : Routed s (s.toRouter x) := by
  unfold State.toRouter
  dsimp only
  split
  · exact (Routed.of_core (s.openContext_core _ _)).trans (State.routed_enterRouter _ _)
  · rfl

theorem State.routed_startTimer (s : State) (id : Nat) : Routed s (s.startTimer id) := by
  unfold State.startTimer
  split
  · rfl
  · split
    · rfl
    · refine .trans ?_ (.of_passes (State.passes_answerCut _ _ _))
      refine .trans ?_ (.of_core (State.pin_core _ _ _))
      rfl

theorem State.routed_forwardRead (s : State) (q : ServerReq) (n : Nat) : Routed s (s.forwardRead q n).1 := by
  unfold State.forwardRead
  split
  · rfl
  · dsimp only
    split <;> rfl

theorem State.routed_leaveNi (s : State) (x : Inject) : Routed s (s.leaveNi x) := by
  unfold State.leaveNi
  split
  · split
    · rfl
    · split
      · split
        · exact s.routed_forwardRead _ _
        · exact ((s.routed_forwardRead _ _).trans (State.routed_startTimer _ _)).trans (State.routed_toRouter _ _)
      · exact (s.routed_startTimer _).trans (State.routed_toRouter _ _)
  · exact (s.routed_startTimer _).trans (State.routed_toRouter _ _)
  · exact s.routed_toRouter _

theorem State.routed_sendCopy (s : State) (q : Req) : Routed s (s.sendCopy q) := by
  unfold State.sendCopy State.sendOut
  dsimp only
  split
  · rfl
  · split
    · rfl
    · exact s.routed_leaveNi _

/-- A task that waits for leave in the matrix unit. -/
abbrev Task.waitsLeave (u : Task) : Prop := u.dispatched = true ∧ u.parked = true ∧ engineOf u.instr = 1

/-- What the start of what waits for leave keeps: the unit's use does not fall, and tasks that have started stay so. -/
structure State.LeaveKept (s t : State) : Prop where
  held : t.core.leaveHeld = s.core.leaveHeld
  asked : t.core.leaveAsked = s.core.leaveAsked
  due : t.core.leaveDue = s.core.leaveDue
  mem : t.core.mem = s.core.mem
  use : s.core.leaveUse ≤ t.core.leaveUse
  started : ∀ n, (∃ y ∈ s.core.tasks, y.id = n ∧ y.parked = false ∧ y.heavy = true) → ∃ y ∈ t.core.tasks, y.id = n ∧ y.parked = false ∧ y.heavy = true

theorem State.LeaveKept.trans {s t u : State} (h : LeaveKept s t) (g : LeaveKept t u) : LeaveKept s u :=
  ⟨g.held.trans h.held, g.asked.trans h.asked, g.due.trans h.due, g.mem.trans h.mem, h.use.trans g.use, fun n hn => g.started n (h.started n hn)⟩

theorem State.Routed.leaveKept (h : Routed s t) : LeaveKept s t where
  held := congrArg (·.leaveHeld) h
  asked := congrArg (·.leaveAsked) h
  due := congrArg (·.leaveDue) h
  mem := congrArg (·.mem) h
  use := (congrArg (·.leaveUse) h).ge
  started n hn := by
    have e : t.core.tasks = s.core.tasks := congrArg (·.tasks) h
    rwa [e]

theorem State.LeaveKept.refl (s : State) : LeaveKept s s := ⟨rfl, rfl, rfl, rfl, Nat.le_refl _, fun _ h => h⟩

theorem State.leaveKept_useLeave (s : State) : LeaveKept s s.useLeave := ⟨rfl, rfl, rfl, rfl, Nat.le_succ _, fun _ h => h⟩

/-- A matrix task that waits for leave starts. -/
def State.startOne (s : State) (u : Task) : State := ((s.modTask u.id fun x => { x with parked := false, heavy := true }).useLeave).runStep u

theorem State.leaveKept_startOne (s : State) (u : Task) : LeaveKept s (s.startOne u) := by
  refine ⟨rfl, rfl, rfl, rfl, Nat.le_succ _, fun n ⟨y, hy, hn, hp, hh⟩ => ⟨if y.id = u.id then { y with parked := false, heavy := true } else y, List.mem_map.mpr ⟨y, hy, rfl⟩, ?_⟩⟩
  split
  · exact ⟨hn, rfl, rfl⟩
  · exact ⟨hn, hp, hh⟩

theorem leaveKept_startHeavy (l : List Task) (s : State) : State.LeaveKept s (startHeavy l s) := by
  induction l generalizing s with
  | nil => exact .refl s
  | cons u l ih =>
    rw [startHeavy]
    split
    · exact (s.leaveKept_startOne u).trans (ih _)
    · exact ih s

/-- Every task that waits for leave starts, and takes part in the unit. -/
theorem startHeavy_starts (l : List Task) (s : State) {u : Task} (hu : u ∈ l) (hw : u.waitsLeave) (hs : ∃ y ∈ s.core.tasks, y.id = u.id) :
    1 ≤ (startHeavy l s).core.leaveUse ∧ ∃ y ∈ (startHeavy l s).core.tasks, y.id = u.id ∧ y.parked = false ∧ y.heavy = true := by
  induction l generalizing s with
  | nil => exact absurd hu List.not_mem_nil
  | cons x l ih =>
    have htasks : ∀ x, ∃ y ∈ (s.startOne x).core.tasks, y.id = u.id := fun x => by
      obtain ⟨y, hy, hn⟩ := hs
      refine ⟨if y.id = x.id then { y with parked := false, heavy := true } else y, List.mem_map.mpr ⟨y, hy, rfl⟩, ?_⟩
      split <;> exact hn
    rcases List.mem_cons.mp hu with rfl | hu
    · rw [startHeavy, if_pos hw]
      have hk := leaveKept_startHeavy l (s.startOne u)
      refine ⟨(Nat.le_add_left 1 s.core.leaveUse).trans hk.use, hk.started u.id ?_⟩
      obtain ⟨y, hy, hn⟩ := hs
      exact ⟨if y.id = u.id then { y with parked := false, heavy := true } else y, List.mem_map.mpr ⟨y, hy, rfl⟩, by rw [if_pos hn]; exact ⟨hn, rfl, rfl⟩⟩
    · rw [startHeavy]
      split
      · exact ih _ hu (htasks x)
      · exact ih _ hu hs

theorem startHeavy_none (l : List Task) (s : State) (h : ∀ u ∈ l, ¬u.waitsLeave) : startHeavy l s = s := by
  induction l with
  | nil => rfl
  | cons u l ih =>
    rw [startHeavy, if_neg (h u List.mem_cons_self)]
    exact ih fun v hv => h v (List.mem_cons_of_mem _ hv)

theorem leaveKept_startCopies (l : List Nat) (s : State) : State.LeaveKept s (startCopies l s) := by
  induction l generalizing s with
  | nil => exact .refl s
  | cons i l ih =>
    rw [startCopies]
    refine .trans ?_ (ih _)
    split
    · exact s.leaveKept_useLeave.trans (State.routed_sendCopy _ _).leaveKept
    · exact .refl s

theorem State.leaveKept_phaseLeave (s : State) (k : ResNo) : LeaveKept s (s.phaseLeave k) := by
  unfold State.phaseLeave
  split
  · exact (Routed.of_passes (State.passes_emitFor _ _ _)).leaveKept
  · exact .refl s

/-- The grant before the unit that nothing waits for goes back. -/
def State.granted (s : State) : State := s.modCore fun c => { c with leaveHeld := true, leaveAsked := none, leaveDue := none, leaveCopies := [] }

/-- What has started when a grant has taken effect. -/
theorem State.takeLeave_eq (s : State) : ∃ v, LeaveKept (startHeavy s.core.tasks s.granted) v ∧ s.takeLeave = (if v.core.leaveUse = 0 then v.giveLeave else v) ∧
    (s.core.leaveCopies = [] → s.core.exch.asked = none → v = startHeavy s.core.tasks s.granted) := by
  unfold State.takeLeave
  extract_lets s1 s2 s3
  have h2 : LeaveKept (startHeavy s.core.tasks s.granted) s2 := leaveKept_startCopies _ _
  have e2 : s.core.leaveCopies = [] → s2 = startHeavy s.core.tasks s.granted := fun h => by
    simp only [s2, h]
    rfl
  refine ⟨s3, ?_, rfl, fun hc ha => ?_⟩
  · simp only [s3]
    split
    · split
      · exact (h2.trans s2.leaveKept_useLeave).trans (State.leaveKept_phaseLeave _ _)
      · exact h2
    · exact h2
  · simp only [s3, ha]
    exact e2 hc

theorem execLeaveGrant_early {d : BitVec 64} (hd : s.core.leaveDue = some d) (h : s.core.cycle.toNat < d.toNat) : exec .leaveGrant s = .next s := by
  show execLeaveGrant s = _
  rw [execLeaveGrant, hd]
  dsimp only
  rw [if_neg (Nat.not_le.mpr h)]

theorem execLeaveGrant_takes {d : BitVec 64} (hd : s.core.leaveDue = some d) (h : d.toNat ≤ s.core.cycle.toNat) :
    ∃ t, exec .leaveGrant s = .next t ∧ t.core.leaveAsked = none ∧ t.core.leaveDue = none ∧ t.core.mem = s.core.mem ∧
      (∀ u ∈ s.core.tasks, u.dispatched = true → u.parked = true → engineOf u.instr = 1 → t.core.leaveHeld = true ∧ ∃ y ∈ t.core.tasks, y.id = u.id ∧ y.parked = false ∧ y.heavy = true) ∧
      ((∀ u ∈ s.core.tasks, ¬(u.dispatched = true ∧ u.parked = true ∧ engineOf u.instr = 1)) → s.core.leaveCopies = [] → s.core.exch.asked = none → s.core.leaveUse = 0 →
        t.core.leaveHeld = false ∧ t.die.leaveUnits = s.die.leaveUnits.erase s.diePlace) := by
  obtain ⟨v, hv, he, hnone⟩ := s.takeLeave_eq
  have hk := (leaveKept_startHeavy s.core.tasks s.granted).trans hv
  refine ⟨s.takeLeave, ?_, ?_⟩
  · show execLeaveGrant s = _
    rw [execLeaveGrant, hd]
    dsimp only
    rw [if_pos h]
  rw [he]
  refine ⟨?_, ?_, ?_, fun u hu h1 h2 h3 => ?_, fun hn hc ha hz => ?_⟩
  · split <;> exact hk.asked
  · split <;> exact hk.due
  · split <;> exact hk.mem
  · obtain ⟨huse, hy⟩ := startHeavy_starts s.core.tasks s.granted hu ⟨h1, h2, h3⟩ ⟨u, hu, rfl⟩
    have hpos : v.core.leaveUse ≠ 0 := by
      have := hv.use
      omega
    rw [if_neg hpos]
    exact ⟨hk.held, hv.started _ hy⟩
  · have hvs : v = s.granted := (hnone hc ha).trans (startHeavy_none _ _ hn)
    rw [hvs, if_pos (show s.granted.core.leaveUse = 0 from hz)]
    exact ⟨rfl, rfl⟩

/-! ### Bells (R336) -/

theorem Die.modBell_bell (d : Die) (cross : Bool) (k : BitVec 5) (f : Bell → Bell) : (d.modBell cross k f).bell cross k = f (d.bell cross k) := by
  cases cross
  · exact vec_get_set_same d.bells ⟨k.toNat % 16, Nat.mod_lt _ (by decide)⟩ _
  · exact vec_get_set_same d.crossBells ⟨k.toNat, k.isLt⟩ _

theorem execBellRelease_one {cross : Bool} {k : BitVec 5} (h : s.bellsDue = [(cross, k)]) : exec .bellRelease s = .next (s.releaseBell cross k) := by
  show execBellRelease s = _
  rw [execBellRelease, h]
  rfl

theorem execBellRelease_waits {cross : Bool} {k : BitVec 5} (h : s.bellsDue = [(cross, k)]) (hw : s.bellWaits cross (s.die.bell cross k) = true) :
    exec .bellRelease s = .next (s.after 1 .bellRelease) := by
  rw [execBellRelease_one h, State.releaseBell]
  dsimp only
  rw [if_pos hw]

/-- The state of a released bell, and of the contexts that it lets go. -/
def State.rung (s : State) (cross : Bool) (k : BitVec 5) : State :=
  { s with die := s.die.modBell cross k fun b => { b with others := 0, first := none, here := false, lacking := [], due := none }
           res := s.res.map fun r => { r with ctx := r.ctx.map (Ctx.ring (.bell cross k) s.core.cycle) } }

theorem State.rung_ctx (s : State) (cross : Bool) (k : BitVec 5) (j : ResNo) (c : CtxNo) :
    ((s.rung cross k).res.get j).ctx.get c = Ctx.ring (.bell cross k) s.core.cycle ((s.res.get j).ctx.get c) := by
  simp [State.rung, Vector.get]
  rfl

/-- A context that waited for the bell waits for it no more, and goes on in the next cycle (R173). -/
theorem Ctx.ring_released {b : Block} {now : BitVec 64} {c : Ctx} {m : Bool} (h : (b, m) ∈ c.blocked) :
    (∀ n, (b, n) ∉ (c.ring b now).blocked) ∧ (∀ x ∈ c.blocked, x.1 ≠ b → x ∈ (c.ring b now).blocked) ∧ (c.ring b now).busyUntil = now + 1 := by
  have ha : c.blocked.any (fun x => x.1 == b) = true := List.any_eq_true.mpr ⟨_, h, by simp⟩
  rw [Ctx.ring, if_pos ha]
  refine ⟨fun n hn => ?_, fun x hx hne => List.mem_filter.mpr ⟨hx, by simpa using hne⟩, rfl⟩
  have := (List.mem_filter.mp hn).2
  simp at this

theorem State.releaseBell_plain {cross : Bool} {k : BitVec 5} (hp : cross = true ∨ s.phaseOf (s.die.bell cross k) = none) (hw : s.bellWaits cross (s.die.bell cross k) = false) :
    s.releaseBell cross k = s.rung cross k := by
  have hn : (if cross then none else s.phaseOf (s.die.bell cross k)) = none := by
    rcases hp with rfl | hp
    · rfl
    · rw [hp, ite_self]
  rw [State.releaseBell]
  dsimp only
  rw [if_neg (by rw [hw]; exact Bool.false_ne_true), hn]
  rfl

theorem State.releaseBell_phase {k : BitVec 5} {j : ResNo} (hp : s.phaseOf (s.die.bell false k) = some j) (hw : s.bellWaits false (s.die.bell false k) = false) :
    s.releaseBell false k = (s.rung false k).enterExchange j := by
  rw [State.releaseBell]
  dsimp only
  rw [if_neg (by rw [hw]; exact Bool.false_ne_true), if_neg Bool.false_ne_true, hp]
  rfl

theorem execBellRelease_plain {cross : Bool} {k : BitVec 5} (h : s.bellsDue = [(cross, k)]) (hp : cross = true ∨ s.phaseOf (s.die.bell cross k) = none)
    (hw : s.bellWaits cross (s.die.bell cross k) = false) :
    ∃ t, exec .bellRelease s = .next t ∧ (t.die.bell cross k).others = 0 ∧ (t.die.bell cross k).here = false ∧ (t.die.bell cross k).due = none ∧
      ∀ (j : ResNo) (c : CtxNo) (m : Bool), (.bell cross k, m) ∈ ((s.res.get j).ctx.get c).blocked →
        (∀ n, (.bell cross k, n) ∉ ((t.res.get j).ctx.get c).blocked) ∧ (∀ x ∈ ((s.res.get j).ctx.get c).blocked, x.1 ≠ .bell cross k → x ∈ ((t.res.get j).ctx.get c).blocked) ∧
        ((t.res.get j).ctx.get c).busyUntil = s.core.cycle + 1 := by
  refine ⟨_, (execBellRelease_one h).trans (congrArg _ (State.releaseBell_plain hp hw)), ?_⟩
  have hb := s.die.modBell_bell cross k fun b => { b with others := 0, first := none, here := false, lacking := [], due := none }
  refine ⟨congrArg (·.others) hb, congrArg (·.here) hb, congrArg (·.due) hb, fun j c m hm => ?_⟩
  rw [State.rung_ctx]
  exact Ctx.ring_released hm

theorem execBellRelease_phase {k : BitVec 5} {j : ResNo} (h : s.bellsDue = [(false, k)]) (hp : s.phaseOf (s.die.bell false k) = some j)
    (hw : s.bellWaits false (s.die.bell false k) = false) :
    ∃ t, exec .bellRelease s = .next t ∧ t.core.exch.mode = true ∧ t.core.exch.opened = false ∧ t.core.exch.zero = s.core.cycle :=
  ⟨_, (execBellRelease_one h).trans (congrArg _ (State.releaseBell_phase hp hw)), rfl, rfl, rfl⟩

theorem execWaitLimitLapse_runs {k : ResNo} {c : CtxNo} (hi : s.issuer = some k)
    (hf : ((List.finRange 11).find? fun c => ((s.res.get k).ctx.get c).status == .live && (s.at k c).limitLapsed) = some c) :
    exec .waitLimitLapse s = .next (s.at k c).runBundle := by
  show execWaitLimitLapse s = _
  rw [execWaitLimitLapse, hi]
  dsimp only
  rw [hf]

/-! ### The vector arbiter (R413) -/

theorem firstSeq_mem (l : List Task) {u : Task} (h : firstSeq l = some u) : u ∈ l := by
  induction l generalizing u with
  | nil => cases h
  | cons t l ih =>
    rw [firstSeq] at h
    split at h
    · next v hv =>
      cases h
      split
      · exact List.mem_cons_of_mem _ (ih hv)
      · exact List.mem_cons_self
    · cases h
      exact List.mem_cons_self

/-- A bound task stays so while other heads are bound. -/
structure State.Bound (id : Nat) (p : BitVec 2) (e : BitVec 64 × Instr) (s : State) : Prop where
  task : ∃ y ∈ s.core.tasks, y.id = id ∧ y.parked = false
  lane : s.cl.lanes.get 0 = some p
  timer : e ∈ s.env.timers

theorem State.Bound.modTask {id : Nat} {p : BitVec 2} {e : BitVec 64 × Instr} (h : Bound id p e s) (n : Nat) (f : Task → Task) (hf : ∀ x, (f x).id = x.id ∧ (f x).parked = false) :
    Bound id p e (s.modTask n f) := by
  obtain ⟨y, hy, hn, hp⟩ := h.task
  refine ⟨⟨if y.id = n then f y else y, List.mem_map.mpr ⟨y, hy, rfl⟩, ?_⟩, h.lane, h.timer⟩
  split
  · exact ⟨(hf y).1.trans hn, (hf y).2⟩
  · exact ⟨hn, hp⟩

theorem State.Bound.bindLane {id : Nat} {p : BitVec 2} {e : BitVec 64 × Instr} (h : Bound id p e s) (g : Fin 4) : Bound id p e (s.bindLane g) := by
  by_cases hg : g = 0
  · subst hg
    rw [State.bindLane, h.lane]
    exact h
  have hlane : ∀ i : BitVec 2, (s.cl.lanes.set g.val (some i) g.isLt).get 0 = some p := fun i => (vec_get_set_other _ _ _ _ (Ne.symm hg)).trans h.lane
  unfold State.bindLane
  dsimp only
  split
  · exact h
  · split
    · exact h
    · split
      · exact h
      · next i _ =>
        split
        · split
          · exact ⟨h.task, hlane i, h.timer⟩
          · next t _ =>
            have h1 : Bound id p e { s with cl := { s.cl with lanes := s.cl.lanes.set g.val (some i) g.isLt } } := ⟨h.task, hlane i, h.timer⟩
            obtain ⟨h2, -, -⟩ := h1.modTask t.id (fun x => { x with parked := false, lane := some (BitVec.ofNat 2 g.val) }) fun _ => ⟨rfl, rfl⟩
            exact ⟨h2, hlane i, List.mem_append_left _ h.timer⟩
        · exact ⟨h.task, hlane i, h.timer⟩

theorem State.position_mem (s : State) : s.position ∈ s.bindOrder := by
  have h : ∀ b p : BitVec 2, p ∈ (List.range 4).map fun d => b + BitVec.ofNat 2 (d + 1) := by decide
  exact h _ _

/-- The first of a list of equal elements that pass is found. -/
theorem find?_of_all_eq {α : Type} {f : α → Bool} {x : α} (l : List α) (hx : x ∈ l) (ha : ∀ y ∈ l, y = x) (hf : f x = true) : l.find? f = some x := by
  cases l with
  | nil => exact absurd hx List.not_mem_nil
  | cons y l =>
    rw [ha y List.mem_cons_self]
    exact List.find?_cons_of_pos hf

/-- A head that waits alone is bound to the first lane group (R413). -/
theorem State.bindLane_alone {u : Task} (hu : s.vectorHead = some u) (hl : s.cl.lanes.get 0 = none) (hw : ∀ i : BitVec 2, i ≠ s.position → s.cl.waiting.get ⟨i.toNat, i.isLt⟩ = 0)
    (hq : 0 < s.cl.quota.get ⟨s.position.toNat, s.position.isLt⟩) :
    Bound u.id s.position (s.core.cycle + BitVec.ofNat 64 (stepCycles u), .taskStepEnd u.id) (s.bindLane 0) := by
  have hhead : s.headWaits s.position = true := by rw [State.headWaits, if_pos rfl, hu]; rfl
  have hmem : s.position ∈ s.bindOrder.filter s.headWaits := List.mem_filter.mpr ⟨s.position_mem, hhead⟩
  have hall : ∀ i ∈ s.bindOrder.filter s.headWaits, i = s.position := fun i hi => by
    by_contra hn
    have := (List.mem_filter.mp hi).2
    rw [State.headWaits, if_neg hn, hw i hn] at this
    exact absurd this (by decide)
  have hne : ¬(s.bindOrder.filter s.headWaits).isEmpty = true := fun h => by
    rw [List.isEmpty_iff.mp h] at hmem
    exact absurd hmem List.not_mem_nil
  have hany : ((s.bindOrder.filter s.headWaits).any fun i => decide (0 < s.cl.quota.get ⟨i.toNat, i.isLt⟩)) = true := List.any_eq_true.mpr ⟨_, hmem, decide_eq_true hq⟩
  have hfind := find?_of_all_eq (f := fun i => decide (0 < s.cl.quota.get ⟨i.toNat, i.isLt⟩)) _ hmem hall (decide_eq_true hq)
  have hin : u ∈ s.core.tasks := List.mem_of_mem_filter (firstSeq_mem _ hu)
  unfold State.bindLane
  dsimp only
  rw [hl, if_neg (by decide), if_neg hne, if_pos hany, hfind]
  dsimp only
  rw [if_pos rfl, hu]
  refine ⟨⟨_, List.mem_map.mpr ⟨u, hin, rfl⟩, ?_⟩, vec_get_set_same _ _ _, State.mem_after _ _ _⟩
  rw [if_pos rfl]
  exact ⟨rfl, rfl⟩

theorem State.Bound.foldl {v : State} {id : Nat} {p : BitVec 2} {e : BitVec 64 × Instr} (l : List (Fin 4)) (h : Bound id p e v) : Bound id p e (l.foldl State.bindLane v) := by
  induction l generalizing v with
  | nil => exact h
  | cons g l ih => exact ih (h.bindLane g)

theorem execVectorBind_eq : execVectorBind s = .next ([1, 2, 3].foldl State.bindLane (s.bindLane 0)) := by
  rw [execVectorBind, show List.finRange 4 = [0, 1, 2, 3] from rfl, List.foldl_cons]

theorem execVectorBind_binds {u : Task} (hu : s.vectorHead = some u) (hl : s.cl.lanes.get 0 = none) (hw : ∀ i : BitVec 2, i ≠ s.position → s.cl.waiting.get ⟨i.toNat, i.isLt⟩ = 0)
    (hq : 0 < s.cl.quota.get ⟨s.position.toNat, s.position.isLt⟩) :
    ∃ t, exec .vectorBind s = .next t ∧ (∃ y ∈ t.core.tasks, y.id = u.id ∧ y.parked = false) ∧ t.cl.lanes.get 0 = some s.position ∧
      (s.core.cycle + BitVec.ofNat 64 (stepCycles u), Instr.taskStepEnd u.id) ∈ t.env.timers := by
  obtain ⟨htask, hlane, htimer⟩ := (State.bindLane_alone hu hl hw hq).foldl [1, 2, 3]
  exact ⟨_, execVectorBind_eq, htask, hlane, htimer⟩

/-! ### RING (R271) -/

/-- The cause of a bad word leaves the core and the cluster as they are. -/
theorem State.noteBad_keeps (s : State) (u : Task) (b : Bool) : (s.noteBad u b).core = s.core ∧ (s.noteBad u b).cl = s.cl := by
  unfold State.noteBad
  split <;> exact ⟨rfl, rfl⟩

theorem State.emit_ring (s : State) (n : Nat) (bs : List Byte) : s.emit (.ring n bs) = s.modEnv fun e => { e with out := e.out ++ [.ring n bs] } := rfl

/-- A ring task goes on, its slot leaves, and the peers are taken. -/
def State.ringSent (s : State) (id : Nat) (o : Out) (n : Nat) : State :=
  let w := (s.modTask id fun x => { x with parked := false }).modEnv fun e => { e with out := e.out ++ [o] }
  ({ w with cl := { w.cl with ringPeers := [] } } : State).after n (.taskStepEnd id)

theorem State.ringSent_spec (s : State) {u : Task} (hu : u ∈ s.core.tasks) (o : Out) (n : Nat) :
    o ∈ (s.ringSent u.id o n).env.out ∧ (s.ringSent u.id o n).cl.ringPeers = [] ∧ (s.ringSent u.id o n).core.mem = s.core.mem ∧
    (∃ y ∈ (s.ringSent u.id o n).core.tasks, y.id = u.id ∧ y.parked = false) ∧ (s.core.cycle + BitVec.ofNat 64 n, Instr.taskStepEnd u.id) ∈ (s.ringSent u.id o n).env.timers := by
  refine ⟨List.mem_append_right _ (List.mem_singleton_self _), rfl, rfl, ⟨_, List.mem_map.mpr ⟨u, hu, rfl⟩, ?_⟩, List.mem_append_right _ (List.mem_singleton_self _)⟩
  rw [if_pos rfl]
  exact ⟨rfl, rfl⟩

theorem execRingTransfer_copies {u : Task} {cw : Bool} {a b : BitVec 4} (hu : s.ringTask = some u) (hr : ringOf u.instr = some (cw, a, b))
    (hp : ∀ p : BitVec 2, p ≠ s.position → ∃ x ∈ s.cl.ringPeers, x.1 = p) (hx : ∀ x ∈ s.cl.ringPeers, x.2.1 = cw ∧ x.2.2 = ((s.res.get u.res).handle a).slot) :
    let next := (if cw then s.position + 1 else s.position - 1).toNat
    ∃ t, exec .ringTransfer s = .next t ∧ Out.ring next (s.slotBytes u.res a) ∈ t.env.out ∧ t.cl.ringPeers = [] ∧ t.core.mem = s.core.mem ∧
      (∃ y ∈ t.core.tasks, y.id = u.id ∧ y.parked = false) ∧
      (s.core.cycle + BitVec.ofNat 64 ((((s.res.get u.res).handle a).slot + 63) / 64), Instr.taskStepEnd u.id) ∈ t.env.timers := by
  have hall : (((List.range 4).map (BitVec.ofNat 2)).filter (· != s.position)).all (fun p => s.cl.ringPeers.any fun x => x.1 == p) = true := by
    refine List.all_eq_true.mpr fun p hm => ?_
    obtain ⟨x, hx, he⟩ := hp p (by simpa using (List.mem_filter.mp hm).2)
    exact List.any_eq_true.mpr ⟨x, hx, by simpa using he⟩
  have hdir : (s.cl.ringPeers.any fun x => x.2.1 != cw) = false := List.any_eq_false.mpr fun x hm => by simp [(hx x hm).1]
  have hlen : (s.cl.ringPeers.any fun x => x.2.2 != ((s.res.get u.res).handle a).slot) = false := List.any_eq_false.mpr fun x hm => by simp [(hx x hm).2]
  have hin : u ∈ s.core.tasks := List.mem_of_find?_eq_some hu
  intro next
  generalize hbs : s.slotBytes u.res a = bs
  generalize hbad : ({ s with curRes := u.res } : State).badAt (ptrOff ((s.res.get u.res).handle a).consPtr) ((s.res.get u.res).handle a).slot = bad
  obtain ⟨hc, hcl⟩ := s.noteBad_keeps u bad
  generalize hv : s.noteBad u bad = v at hc hcl
  have he : exec .ringTransfer s = .next (v.ringSent u.id (.ring next bs) ((((s.res.get u.res).handle a).slot + 63) / 64)) := by
    show execRingTransfer s = _
    rw [execRingTransfer, hu]
    dsimp only
    rw [hr]
    dsimp only
    rw [hall, hdir, hlen, hbad, hv, hbs]
    rfl
  rw [← hc] at hin ⊢
  exact ⟨_, he, v.ringSent_spec hin _ _⟩

end

/-- Settles O40, unit by unit. -/
theorem coreUnitResults : Obligations.CoreUnitResults := by
  unfold Obligations.CoreUnitResults
  intro s
  refine ⟨fun k u hi hs ht hres hlive hidle hfree hready htouch hclear => ?_, fun id u hf hb hp hr hc hw ht => execTaskStepEnd_runs hf hb hp hr hc hw ht,
    fun u hu hl hw hq => execVectorBind_binds hu hl hw hq, fun u cw a b hu hr hp hx => execRingTransfer_copies hu hr hp hx, fun c h => execGroupClearDone_accClear h,
    fun i k q l hb hn ha hk => execSfuServe_serves hb hn ha hk, fun j k q l a hi hb hdue hk hq hw hs hm hd hc => execSfuRequestDone_scalar hi hb hdue hk hq hw hs hm hd hc,
    fun x hq => ⟨fun hd hc => State.decideLeave_grants hq hd hc, fun h => State.decideLeave_waits hq h⟩, fun d hd => ⟨fun h => execLeaveGrant_early hd h, fun h => execLeaveGrant_takes hd h⟩,
    fun cross k h hp hw => execBellRelease_plain h hp hw, fun k j h hp hw => execBellRelease_phase h hp hw, fun cross k h hw => execBellRelease_waits h hw,
    fun k c hi hf => execWaitLimitLapse_runs hi hf⟩
  obtain ⟨t, he, hall⟩ := execForemanDispatch_dispatches hi hs ⟨ht, hres, hlive, hidle, hfree, hready, htouch, hclear⟩
  exact ⟨t, he, fun y hy _ => hall y hy⟩

end Sys2Proof.Machine
end

section
/-!
PROOF. The Porters (O44): a copy takes its place and is read, what has been read goes on its way, a landing is written, and the completion report ends the copy.
-/

namespace Sys2Proof.Machine

open Sys2Proof

/-! ### What the work on a copy keeps -/

/-- What the work of a Porter on a copy keeps: the memories, the residencies and the landings of the cycle; what waits to land and what is due is still there. -/
structure State.Ported (s t : State) : Prop where
  mem : t.core.mem = s.core.mem
  servers : t.srv.mem = s.srv.mem
  res : t.res = s.res
  landedNow : t.core.landedNow = s.core.landedNow
  landingBanks : t.core.landingBanks = s.core.landingBanks
  toLand : s.srv.toLand ⊆ t.srv.toLand
  agenda : s.env.agenda ⊆ t.env.agenda

namespace State.Ported

variable {s t u : State}

theorem refl (s : State) : Ported s s := ⟨rfl, rfl, rfl, rfl, rfl, fun _ h => h, fun _ h => h⟩

theorem trans (h : Ported s t) (g : Ported t u) : Ported s u where
  mem := g.mem.trans h.mem
  servers := g.servers.trans h.servers
  res := g.res.trans h.res
  landedNow := g.landedNow.trans h.landedNow
  landingBanks := g.landingBanks.trans h.landingBanks
  toLand := List.Subset.trans h.toLand g.toLand
  agenda := List.Subset.trans h.agenda g.agenda

theorem post (s : State) (i : Instr) : Ported s (s.post i) := ⟨rfl, rfl, rfl, rfl, rfl, fun _ h => h, fun _ => List.mem_append_left _⟩

theorem modReq (s : State) (id : Nat) (f : Req → Req) : Ported s (s.modReq id f) := ⟨rfl, rfl, rfl, rfl, rfl, fun _ h => h, fun _ h => h⟩

theorem land (s : State) (d : Landing) (core : Nat) : Ported s (s.toLand d core) :=
  ⟨rfl, rfl, rfl, rfl, rfl, fun _ => List.mem_append_left _, fun _ h => h⟩

theorem answerUp (s : State) (src : Target) (i : Instr) : Ported s (s.answerUp src i) := ⟨rfl, rfl, rfl, rfl, rfl, fun _ h => h, fun _ h => h⟩

theorem leavePorter (s : State) (own : Bool) (id : Nat) : Ported s (s.leavePorter own id) := by
  unfold State.leavePorter
  split
  · exact refl s
  · rename_i j _
    have hs : Ported s { s with srv := { s.srv with porters := s.srv.porters.erase j } } := ⟨rfl, rfl, rfl, rfl, rfl, fun _ h => h, fun _ h => h⟩
    dsimp only
    split
    · exact hs
    · exact hs.trans (post _ _)

theorem report (s : State) (q : Req) (f : Option ServerFail) : Ported s (s.report q f) := by
  unfold State.report
  dsimp only
  split
  · exact (leavePorter s _ _).trans (post _ _)
  · exact (leavePorter s _ _).trans (answerUp _ _ _)

theorem copyPart (s : State) (id : Nat) (f : Option ServerFail) : Ported s (s.copyPart id f) := by
  unfold State.copyPart
  split
  · exact refl s
  · dsimp only
    split
    · exact (modReq s _ _).trans (report _ _ _)
    · exact modReq s _ _

theorem landPiece (s : State) (q : Req) (c : Chunk) (data : List Byte) : Ported s (s.landPiece q c data) := by
  unfold State.landPiece
  split
  · dsimp only
    split
    · exact copyPart _ _ _
    · split
      · split
        · exact land _ _ _
        · exact copyPart _ _ _
      · exact land _ _ _
  · split
    · exact land _ _ _
    · split
      · exact copyPart _ _ _
      · exact post _ _

theorem landAll (q : Req) (l : List (Chunk × List Byte × Option ServerFail)) (s : State) : Ported s (landAll q l s) := by
  induction l generalizing s with
  | nil => exact refl s
  | cons x l ih =>
    obtain ⟨c, d, _ | f⟩ := x
    · exact (landPiece s q c d).trans (ih _)
    · exact (copyPart s _ _).trans (ih _)

theorem pieceRead (s : State) (id k : Nat) (data : List Byte) (f : Option ServerFail) : Ported s (s.pieceRead id k data f) := by
  unfold State.pieceRead
  split
  · exact refl s
  · dsimp only
    split
    · exact modReq s _ _
    · exact (modReq s _ _).trans (landAll _ _ _)

theorem readMore (n : Nat) (porter : Rank) (s : State) : Ported s (readMore n porter s) := by
  induction n generalizing s with
  | zero => exact refl s
  | succ n ih =>
    unfold Machine.readMore
    split
    · exact refl s
    · split
      · exact refl s
      · refine Ported.trans ?_ (ih _)
        split
        · exact (modReq s _ _).trans (pieceRead _ _ _ _ _)
        · exact (modReq s _ _).trans (post _ _)

theorem readOn (s : State) (porter : Rank) : Ported s (s.readOn porter) := readMore _ _ _

theorem landGone (s : State) (id : Nat) (here : Bool) : Ported s (s.landGone id here) := by
  unfold State.landGone
  split
  · exact refl s
  · exact ⟨rfl, rfl, rfl, rfl, rfl, fun _ h => h, fun _ h => h⟩

/-- The end of a landing, after the note that the cycle has had one. -/
theorem landed (s : State) (d : Landing) (f : Option ServerFail) : Ported (s.modCore fun c => { c with landedNow := true }) (s.landed d f) := by
  unfold State.landed
  dsimp only
  split
  · exact (landGone _ _ _).trans (copyPart _ _ _)
  · exact refl _

end State.Ported

/-! ### A copy takes a place at its Porter -/

theorem execPorterActiveMessage_waits (s : State) (p : PorterCopy) (hp : s.srv.porterWait.contains p = false)
    (h : s.porterFull p.porter = true ∨ ∃ x ∈ s.srv.porterWait, x.porter = p.porter) :
    execPorterActiveMessage p s = .next { s with srv := { s.srv with porterWait := s.srv.porterWait ++ [p] } } := by
  have hc : s.porterFull p.porter = true ∨ (s.srv.porterWait.find? fun x => x.porter == p.porter).isSome ∧ (s.srv.porterWait.find? fun x => x.porter == p.porter) ≠ some p := by
    refine h.imp_right fun ⟨x, hx, e⟩ => ⟨?_, fun hf => ?_⟩
    · simpa using ⟨x, hx, e⟩
    · exact absurd (List.mem_of_find?_eq_some hf) (by simpa using hp)
  rw [execPorterActiveMessage]
  dsimp only
  rw [if_pos hc, hp, if_neg Bool.false_ne_true]

/-- The state in which a copy has taken a place at its Porter. -/
def State.atPorter (s : State) (p : PorterCopy) : State := { s with srv := { s.srv with porters := s.srv.porters ++ [⟨p.porter, p.id, p.own⟩] } }

theorem erase_waits (s : State) (p : PorterCopy) (hw : ∀ x ∈ s.srv.porterWait, x.porter ≠ p.porter) :
    ({ s with srv := { s.srv with porters := s.srv.porters ++ [⟨p.porter, p.id, p.own⟩], porterWait := s.srv.porterWait.erase p } } : State) = s.atPorter p := by
  rw [List.erase_of_not_mem fun h => hw p h rfl, State.atPorter]

theorem find?_waits_none (s : State) (p : PorterCopy) (hw : ∀ x ∈ s.srv.porterWait, x.porter ≠ p.porter) : (s.srv.porterWait.find? fun x => x.porter == p.porter) = none := by
  simpa using hw

section
variable {s : State} {p : PorterCopy} (hf : s.porterFull p.porter = false) (hw : ∀ x ∈ s.srv.porterWait, x.porter ≠ p.porter)
include hf hw

theorem execPorterActiveMessage_other (ho : p.own = false) : execPorterActiveMessage p s = .next (s.atPorter p) := by
  rw [execPorterActiveMessage]
  dsimp only
  rw [hf, find?_waits_none s p hw, erase_waits s p hw, ho]
  simp

/-- The request of a copy at its Porter: its first k reads are outstanding. -/
def Req.sent (q : Req) (k : Nat) : Req := { q with copying := true, parts := q.reads.length, next := k, out := k, answers := [] }

theorem execPorterActiveMessage_own {q : Req} (ho : p.own = true) (hq : s.reqOf p.id = some q) (hk : 4 ≤ q.kind.toNat) (hc : q.copying = false) (hr : q.reads ≠ []) :
    execPorterActiveMessage p s = .next (((s.atPorter p).modReq q.id fun x => { x with copying := true, parts := q.reads.length, next := 0, out := 0, answers := [] }).readOn p.porter) := by
  rw [execPorterActiveMessage]
  dsimp only
  rw [hf, find?_waits_none s p hw, erase_waits s p hw, ho, hq]
  have hn : ¬(q.kind.toNat < 4 ∨ q.copying = true) := by simp only [hc, Bool.false_eq_true, or_false]; omega
  simp [hn, hr]

end

/-! ### The Porter reads a copy -/

theorem State.reqOf_eq (s : State) {l r : List Req} {q : Req} (hs : s.core.reqs = l ++ q :: r) (hl : ∀ y ∈ l, y.id ≠ q.id) : s.reqOf q.id = some q := by
  rw [State.reqOf, hs, List.find?_append, List.find?_eq_none.mpr fun y hy => by simpa using hl y hy]
  simp

theorem State.reqs_modReq (s : State) (f : Req → Req) {l r : List Req} {q : Req} (hs : s.core.reqs = l ++ q :: r) (hu : ∀ y ∈ l ++ r, y.id ≠ q.id) :
    (s.modReq q.id f).core.reqs = l ++ f q :: r := by
  have hid : ∀ m : List Req, (∀ y ∈ m, y.id ≠ q.id) → (m.map fun y => if y.id = q.id then f y else y) = m := fun m hm =>
    (List.map_congr_left fun y hy => if_neg (hm y hy)).trans (List.map_id' m)
  show s.core.reqs.map _ = _
  rw [hs, List.map_append, List.map_cons, hid l fun y hy => hu y (List.mem_append_left _ hy), hid r fun y hy => hu y (List.mem_append_right _ hy), if_pos rfl]

/-- Where a piece of a copy is read. -/
abbrev State.placed (s : State) (q : Req) (c : Chunk) : Except ServerFail (Nat × Nat) :=
  s.place q.extents (ptrAdd q.ptr ((c.src : Int) - ptrOff q.ptr)) 0 q.pkg c.len q.order

/-- The request for a piece of a copy. -/
abbrev Req.readAt (q : Req) (n : Nat) (c : Chunk) (a : Nat × Nat) : Instr := .serverRequest ⟨q.id, n, true, q.pkg, a.1, .read c.len, .own⟩

/-- The state of a Porter's reading from `a` on in which a copy has sent its first k reads. -/
structure State.ReadTo (a : State) (l r : List Req) (q : Req) (k : Nat) (t : State) : Prop where
  srv : t.srv = a.srv
  reqs : t.core.reqs = l ++ q.sent k :: r
  agenda : ∀ n < k, ∀ y x, q.reads[n]? = some y → a.placed q y.2 = .ok x → q.readAt n y.2 x ∈ t.env.agenda

section
variable {a t : State} {l r : List Req} {q : Req} {k : Nat} {porter : Rank} (hu : ∀ y ∈ l ++ r, y.id ≠ q.id)
include hu

theorem State.ReadTo.next (h : a.ReadTo l r q k t) {y : Nat × Chunk} {x : Nat × Nat} (hy : q.reads[k]? = some y) (hx : a.placed q y.2 = .ok x) :
    a.ReadTo l r q (k + 1) ((t.modReq q.id fun x => { x with next := x.next + 1, out := x.out + 1 }).post (q.readAt k y.2 x)) where
  srv := h.srv
  reqs := t.reqs_modReq (q := q.sent k) (fun x => { x with next := x.next + 1, out := x.out + 1 }) h.reqs hu
  agenda n hn z w hz hw := by
    obtain hn | rfl := Nat.lt_succ_iff_lt_or_eq.mp hn
    · exact List.mem_append_left _ (h.agenda n hn z w hz hw)
    · obtain rfl : y = z := Option.some.inj (hy.symm.trans hz)
      obtain rfl : x = w := Except.ok.inj (hx.symm.trans hw)
      exact List.mem_append_right _ (List.mem_singleton_self _)

theorem State.ReadTo.reqOf (h : a.ReadTo l r q k t) : t.reqOf q.id = some (q.sent k) :=
  t.reqOf_eq (q := q.sent k) h.reqs fun y hy => hu y (List.mem_append_left _ hy)

theorem State.ReadTo.nextRead (h : a.ReadTo l r q k t) {ps : List PorterJob} (hp : a.srv.porters = ps ++ [⟨porter, q.id, true⟩])
    (hn : ∀ j ∈ ps, ¬(j.own = true ∧ j.porter = porter)) : t.nextRead porter = (q.reads[k]?).map fun r => (q.sent k, r) := by
  have hps : (ps.findSome? fun j => if j.own && j.porter == porter then (t.reqOf j.id).bind fun q => (q.reads[q.next]?).map fun r => (q, r) else none) = none :=
    List.findSome?_eq_none_iff.mpr fun j hj => if_neg (by simpa using hn j hj)
  rw [State.nextRead, h.srv, hp, List.findSome?_append, hps]
  simp [h.reqOf hu]
  rfl

theorem State.ReadTo.readsOut_le (h : a.ReadTo l r q k t) {ps : List PorterJob} (hp : a.srv.porters = ps ++ [⟨porter, q.id, true⟩])
    (ho : (((l ++ r).filter fun y => y.porter == porter && ps.any fun j => j.own && j.id == y.id).map (·.out)).sum = 0) : t.readsOut porter ≤ k := by
  have hm : ∀ m : List Req, (∀ y ∈ m, y.id ≠ q.id) → (m.filter fun y => y.porter == porter && a.srv.porters.any fun j => j.own && j.id == y.id) =
      m.filter fun y => y.porter == porter && ps.any fun j => j.own && j.id == y.id := fun m hm =>
    List.filter_congr fun y hy => by simp [hp, beq_eq_false_iff_ne.mpr (hm y hy).symm]
  rw [List.filter_append, List.map_append, List.sum_append] at ho
  rw [State.readsOut, h.srv, h.reqs, List.filter_append, List.map_append, List.sum_append, hm l fun y hy => hu y (List.mem_append_left _ hy),
    List.filter_cons]
  have hr := hm r fun y hy => hu y (List.mem_append_right _ hy)
  split
  · rw [List.map_cons, List.sum_cons, hr]
    show _ + (k + _) ≤ k
    omega
  · rw [hr]
    omega

/-- The reading goes on until every piece has been asked for or the read buffer is full. -/
theorem readMore_readTo {ps : List PorterJob} (hp : a.srv.porters = ps ++ [⟨porter, q.id, true⟩]) (hn : ∀ j ∈ ps, ¬(j.own = true ∧ j.porter = porter))
    (ho : (((l ++ r).filter fun y => y.porter == porter && ps.any fun j => j.own && j.id == y.id).map (·.out)).sum = 0)
    (hx : ∀ y ∈ q.reads, ∃ x, a.placed q y.2 = .ok x) (fuel : Nat) (h : a.ReadTo l r q k t) (hk : q.reads.length ≤ fuel + k) :
    ∃ n, a.ReadTo l r q n (readMore fuel porter t) ∧ (q.reads.length ≤ n ∨ Config.porterBuffer < n) := by
  induction fuel generalizing k t with
  | zero => exact ⟨k, h, .inl (by omega)⟩
  | succ fuel ih =>
    rw [readMore]
    split
    · exact ⟨k, h, .inr (by have := h.readsOut_le hu hp ho; omega)⟩
    · rw [h.nextRead hu hp hn]
      cases hc : q.reads[k]? with
      | none => exact ⟨k, h, .inl (List.getElem?_eq_none_iff.mp hc)⟩
      | some z =>
        obtain ⟨w, hw⟩ := hx z (List.mem_of_getElem? hc)
        have hpl : t.place (q.sent k).extents (ptrAdd (q.sent k).ptr ((z.2.src : Int) - ptrOff (q.sent k).ptr)) 0 (q.sent k).pkg z.2.len (q.sent k).order = .ok w := by
          rw [← hw]; unfold State.placed State.place; rw [h.srv]; rfl
        simp only [Option.map_some, hpl]
        exact ih (h.next hu hc hw) (by omega)

theorem readOn_readTo {ps : List PorterJob} (hp : a.srv.porters = ps ++ [⟨porter, q.id, true⟩]) (hn : ∀ j ∈ ps, ¬(j.own = true ∧ j.porter = porter))
    (ho : (((l ++ r).filter fun y => y.porter == porter && ps.any fun j => j.own && j.id == y.id).map (·.out)).sum = 0)
    (hx : ∀ y ∈ q.reads, ∃ x, a.placed q y.2 = .ok x) (h : a.ReadTo l r q 0 t) :
    ∃ n, a.ReadTo l r q n (t.readOn porter) ∧ (q.reads.length ≤ n ∨ Config.porterBuffer < n) := by
  refine readMore_readTo hu hp hn ho hx _ h ?_
  rw [h.reqs, List.map_append, List.map_cons, List.sum_append, List.sum_cons]
  show q.reads.length ≤ _ + (q.reads.length + _) + 0
  omega

end

section
variable {s : State} {p : PorterCopy} {q : Req} {l r : List Req} (hs : s.core.reqs = l ++ q :: r)
include hs

theorem State.readTo_start (hu : ∀ y ∈ l ++ r, y.id ≠ q.id) :
    s.ReadTo l r q 0 (s.modReq q.id fun x => { x with copying := true, parts := q.reads.length, next := 0, out := 0, answers := [] }) :=
  ⟨rfl, s.reqs_modReq _ hs hu, fun n hn => absurd hn n.not_lt_zero⟩

theorem readsOut_others (ho : s.readsOut p.porter = 0) :
    (((l ++ r).filter fun y => y.porter == p.porter && s.srv.porters.any fun j => j.own && j.id == y.id).map (·.out)).sum = 0 := by
  rw [State.readsOut, hs, List.filter_append, List.map_append, List.sum_append, List.filter_cons] at ho
  rw [List.filter_append, List.map_append, List.sum_append]
  split at ho
  · rw [List.map_cons, List.sum_cons] at ho
    omega
  · exact ho

/-- A copy of this core takes its place, and its first reads are asked for. -/
theorem execPorterActiveMessage_reads (hid : q.id = p.id) (hu : ∀ y ∈ l ++ r, y.id ≠ p.id) (hf : s.porterFull p.porter = false) (hw : ∀ x ∈ s.srv.porterWait, x.porter ≠ p.porter)
    (ho : p.own = true) (hk : 4 ≤ q.kind.toNat) (hc : q.copying = false) (hj : ∀ j ∈ s.srv.porters, ¬(j.own = true ∧ j.porter = p.porter))
    (hout : s.readsOut p.porter = 0) (hr : q.reads ≠ []) (hx : ∀ y ∈ q.reads, ∃ x, s.placed q y.2 = .ok x) :
    ∃ t, execPorterActiveMessage p s = .next t ∧ t.core.mem = s.core.mem ∧ t.srv.mem = s.srv.mem ∧ ⟨p.porter, p.id, true⟩ ∈ t.srv.porters ∧
      ∀ n y x, n ≤ Config.porterBuffer → q.reads[n]? = some y → s.placed q y.2 = .ok x → q.readAt n y.2 x ∈ t.env.agenda := by
  have hq : s.reqOf p.id = some q := hid ▸ s.reqOf_eq hs fun y hy => hid ▸ hu y (List.mem_append_left _ hy)
  have hu' : ∀ y ∈ l ++ r, y.id ≠ q.id := hid ▸ hu
  have hp : (s.atPorter p).srv.porters = s.srv.porters ++ [⟨p.porter, q.id, true⟩] := by rw [hid, ← ho]; rfl
  obtain ⟨k, h, hk'⟩ := readOn_readTo hu' hp hj (readsOut_others hs hout) hx (State.readTo_start (s := s.atPorter p) hs hu')
  refine ⟨_, execPorterActiveMessage_own hf hw ho hq hk hc hr, (State.Ported.readOn _ _).mem, (State.Ported.readOn _ _).servers, ?_, fun n y x hn hy hyx => ?_⟩
  · rw [h.srv, hp, hid]
    exact List.mem_append_right _ (List.mem_singleton_self _)
  · have := (List.getElem?_eq_some_iff.mp hy).1
    exact h.agenda n (by omega) y x hy hyx

end

/-! ### The answer to a read of a copy -/

theorem memBytes_eq_map (m : List Host.Cell) (a n : Nat) : memBytes m a n = (List.range n).map fun o => memGet m (a + o) := by
  induction n generalizing a with
  | zero => rfl
  | succ n ih => simp [memBytes, ih, List.range_succ_eq_map, Nat.add_assoc, Nat.add_comm 1]

theorem length_memBytes (m : List Host.Cell) (a n : Nat) : (memBytes m a n).length = n := by simp [memBytes_eq_map]

theorem Servers.badIn_byte {v : Servers} {a n o : Nat} (h : v.badIn a n = false) (ho : o < n) : v.badIn (a + o) 1 = false := by
  simp only [Servers.badIn, List.any_eq_false, meets] at h ⊢
  intro w hw
  have := h w hw
  simp at this ⊢
  omega

/-- The state in which a server has done a read of this core. -/
def State.readServed (s : State) (g : ServerReq) : State :=
  { s with srv := s.srv.correct fun w => meets (w, 8) (reqSpan g), cl := { s.cl with served := (s.cl.served ++ []).eraseDups } }

theorem serve_read_own (s : State) {g : ServerReq} {n : Nat} (ho : g.own = true) (hop : g.op = .read n) (hb : s.srv.badIn (serverKey g.pkg g.addr) n = false) :
    s.serve g = (s.readServed g).answerRead g (memBytes s.srv.mem (serverKey g.pkg g.addr) n) none := by
  have hf : ∀ k, forward [] k = none := fun _ => rfl
  have hm : (((List.range n).filter fun o => (forward [] (serverKey g.pkg g.addr + o)).isNone && !(g.own && State.hasByte { s with srv := s.srv.correct fun w => meets (w, 8) (reqSpan g) } g o)).any fun o =>
      (s.srv.correct fun w => meets (w, 8) (reqSpan g)).badIn (serverKey g.pkg g.addr + o) 1) = false :=
    List.any_eq_false.mpr fun o ho => by
      have := Servers.badIn_byte hb (List.mem_range.mp (List.mem_filter.mp ho).1)
      exact (ne_true_of_eq_false this)
  unfold State.serve
  dsimp only
  rw [hop]
  unfold State.serveRead
  dsimp only
  rw [if_pos ho, hm, memBytes_eq_map]
  simp [hf, State.readServed, List.map_map, Servers.correct, Function.comp_def]

/-- Where one entry alone has a key, the entries with that key are that one. -/
theorem filter_zipIdx_single {α : Type} {l : List (Nat × α)} {n : Nat} {y : Nat × α} (hy : l[n]? = some y) (hone : ∀ i z, l[i]? = some z → z.1 = y.1 → i = n) :
    (l.zipIdx.filter fun p => p.1.1 == y.1) = [(y, n)] := by
  have hnone : ∀ p ∈ l.zipIdx, p.1.1 = y.1 → p = (y, n) := fun p hp e => by
    have hz := List.mem_zipIdx_iff_getElem?.mp hp
    have hi := hone _ _ hz e
    rw [hi, hy] at hz
    exact Prod.ext (Option.some.inj hz).symm hi
  have hnd : l.zipIdx.Nodup := List.Nodup.of_map _ (List.nodup_zipIdx_map_snd l)
  refine List.perm_singleton.mp ((List.perm_ext_iff_of_nodup (hnd.filter _) (List.nodup_singleton _)).mpr fun p => ?_)
  rw [List.mem_filter, List.mem_singleton, beq_iff_eq]
  refine ⟨fun ⟨hp, e⟩ => hnone p hp e, ?_⟩
  rintro rfl
  exact ⟨List.mem_zipIdx_iff_getElem?.mpr hy, rfl⟩

section
variable {s : State} {q : Req} {n : Nat} {y : Nat × Chunk} (hq : s.reqOf q.id = some q) (hy : q.reads[n]? = some y)
  (hone : ∀ i z, q.reads[i]? = some z → z.1 = y.1 → i = n) (hans : ∀ a ∈ q.answers, a.1 ≠ n)
include hq hy hone hans

/-- A chunk of one piece goes on as soon as it has been read. -/
theorem pieceRead_whole (data : List Byte) : ∃ f, s.pieceRead q.id n data none = (s.modReq q.id f).landPiece q ⟨y.2.x, y.2.src, data.length⟩ data := by
  have hmine : ((q.reads.zipIdx.filter fun p => p.1.1 == y.1).map fun p => (p.2, p.1.2)) = [(n, y.2)] := by
    rw [filter_zipIdx_single hy hone]
    rfl
  have hfind : (q.answers ++ [(n, data, none)]).find? (fun a => a.1 == n) = some (n, data, none) := by
    rw [List.find?_append, List.find?_eq_none.mpr fun a ha => by simpa using hans a ha]
    simp
  unfold State.pieceRead
  rw [hq]
  dsimp only
  rw [List.getD_eq_getElem?_getD, hy, Option.getD_some, hmine]
  simp only [List.filterMap_cons, hfind, Option.map_some, List.filterMap_nil, List.length_singleton, Nat.lt_irrefl, if_false, wholeOr, joined, List.append_nil, landAll]
  exact ⟨_, rfl⟩

/-- What a server sends for a piece of a copy goes where the piece lands, and the Porter reads on. -/
theorem execServerRequest_piece {addr : Nat} (hk : 4 ≤ q.kind.toNat) (ht : s.turnedAway ⟨q.id, n, true, q.pkg, addr, .read y.2.len, .own⟩ = none)
    (hl : ∀ l ∈ s.srv.locks, l.1 ≠ reqGranule ⟨q.id, n, true, q.pkg, addr, .read y.2.len, .own⟩) (hb : s.srv.badIn (serverKey q.pkg addr) y.2.len = false) :
    ∃ u : State, execServerRequest ⟨q.id, n, true, q.pkg, addr, .read y.2.len, .own⟩ s =
        .next ((u.landPiece q y.2 (memBytes s.srv.mem (serverKey q.pkg addr) y.2.len)).readOn q.porter) ∧
      u.core.mem = s.core.mem ∧ u.srv.mem = s.srv.mem ∧ u.pkg = s.pkg ∧ u.res = s.res ∧ (∀ e p r pkg len o, u.place e p r pkg len o = s.place e p r pkg len o) := by
  generalize hg : (⟨q.id, n, true, q.pkg, addr, .read y.2.len, .own⟩ : ServerReq) = g at *
  have hlock : (s.srv.locks.any fun l => l.1 == reqGranule g) = false := List.any_eq_false.mpr fun l hm => by simpa using hl l hm
  obtain ⟨f, hf⟩ := pieceRead_whole (s := s.readServed g) hq hy hone hans (memBytes s.srv.mem (serverKey q.pkg addr) y.2.len)
  rw [length_memBytes] at hf
  have hk0 : q.kind ≠ 0 := fun e => by rw [e] at hk; simp at hk
  have ha : (s.readServed g).answerRead g (memBytes s.srv.mem (serverKey q.pkg addr) y.2.len) none =
      ((s.readServed g).pieceRead q.id n (memBytes s.srv.mem (serverKey q.pkg addr) y.2.len) none).readOn q.porter := by
    subst hg
    unfold State.answerRead
    rw [show (s.readServed _).reqOf _ = _ from hq]
    exact if_neg hk0
  have hs : s.serve g = (s.readServed g).answerRead g (memBytes s.srv.mem (serverKey q.pkg addr) y.2.len) none := by
    subst hg
    exact serve_read_own s rfl rfl hb
  refine ⟨(s.readServed g).modReq q.id f, ?_, rfl, rfl, rfl, rfl, fun _ _ _ _ _ _ => rfl⟩
  rw [execServerRequest, ht]
  dsimp only
  rw [hlock, hs, ha, hf]
  subst hg
  rfl

end

/-! ### Where a piece goes -/

section
variable {s : State} {q : Req} {c : Chunk} {data : List Byte}

theorem landPiece_core (hk : q.kind = 4) (hd : ptrWin q.dst = 0) (ha : q.add = false) :
    s.landPiece q c data = s.toLand ⟨q.id, true, q.res, q.order, q.toOff c.x, data, false, none, false⟩ s.pkg.self := by
  rw [State.landPiece, if_neg (by rw [hk]; decide), if_pos hd, ha]
  rfl

theorem landPiece_add (hk : q.kind = 4) (hd : ptrWin q.dst = 0) (ha : q.add = true) (h4 : q.toOff c.x % 4 = 0) :
    s.landPiece q c data = s.toLand ⟨q.id, true, q.res, q.order, q.toOff c.x, data.take (data.length / 4 * 4), true, none, false⟩ s.pkg.self := by
  rw [State.landPiece, if_neg (by rw [hk]; decide), if_pos hd, ha]
  simp [addTrim, h4]

theorem landPiece_server (hk : q.kind = 4) (hd : ptrWin q.dst ≠ 0) {z : Nat × Nat} (hz : s.place q.extents (ptrAdd q.dst (c.x : Int)) 1 q.dpkg c.len q.order = .ok z) :
    s.landPiece q c data = s.post (.serverRequest ⟨q.id, 0, true, q.dpkg, z.1, .write data, .own⟩) := by
  rw [State.landPiece, if_neg (by rw [hk]; decide), if_neg hd, hz]

theorem landPiece_dealt_other (hk : q.kind = 5) {b : Nat × Nat} (hb : (q.binding.find? fun b => b.1 == (q.dealTo c.x).1) = some b) (ho : b.2 ≠ s.pkg.self) :
    s.landPiece q c data = s.toLand ⟨q.id, true, q.res, q.order, q.toOff c.x, data, false, q.mbox, true⟩ b.2 := by
  rw [State.landPiece, if_pos hk]
  dsimp only
  rw [hb]
  exact if_neg ho

theorem landPiece_dealt_here (hk : q.kind = 5) {b : Nat × Nat} (hb : (q.binding.find? fun b => b.1 == (q.dealTo c.x).1) = some b) (ho : b.2 = s.pkg.self) {k : ResNo} (hr : s.resAt q.order b.1 = some k) :
    s.landPiece q c data = s.toLand ⟨q.id, true, k, q.order, q.toOff c.x, data, false, q.mbox, true⟩ b.2 := by
  have h1 : b.1 = (q.dealTo c.x).1 := by simpa using List.find?_some hb
  rw [State.landPiece, if_pos hk]
  dsimp only
  rw [hb]
  dsimp only
  rw [if_pos ho, ← h1, hr]

end

theorem State.mem_toLand (s : State) (d : Landing) (core : Nat) : (d, core) ∈ (s.toLand d core).srv.toLand := List.mem_append_right _ (List.mem_singleton_self _)

/-! ### Landings -/

section
variable {s : State} {d : Landing} {core : Nat} (hl : s.srv.toLand = [(d, core)])
include hl

/-- Whether a landing goes first asks for the credit of its residency alone. -/
theorem landStep_single (hc : s.flyingTo core d.order + d.data.length ≤ 16384) :
    ∃ (u : State) (src : Target), u.srv.toLand = [] ∧
      s.landStep = if core = s.pkg.self then u.answerUp src (.porterLanding d) else u.modEnv fun e => { e with out := e.out ++ [Out.landing d.id core d.addr d.data d.mbox] } := by
  refine ⟨{ s with srv := { s.srv with toLand := [], flying := s.srv.flying ++ [⟨d.id, core, d.order, d.data.length⟩] } }, ((s.reqOf d.id).map fun q => s.porterTarget ⟨q.id, true, true, q.porter⟩).getD .ioDie, rfl, ?_⟩
  rw [State.landStep, hl, pushLandings, if_pos (show State.flyingTo { s with srv := { s.srv with toLand := [] } } core d.order + _ ≤ _ from hc)]
  rfl

theorem landStep_waits (hc : 16384 < s.flyingTo core d.order + d.data.length) : s.landStep = s := by
  rw [State.landStep, hl, pushLandings, if_neg (show ¬State.flyingTo { s with srv := { s.srv with toLand := [] } } core d.order + _ ≤ _ from Nat.not_le.mpr hc), pushLandings]
  show ({ s with srv := { s.srv with toLand := [] ++ [(d, core)] } } : State) = s
  rw [List.nil_append, ← hl]

end

theorem State.mem_answerUp (s : State) (src : Target) (d : Landing) : ∃ p ∈ (s.answerUp src (.porterLanding d)).core.router, p.item = .answer (.porterLanding d) ∧ p.vc = 3 :=
  ⟨_, List.mem_append_right _ (List.mem_singleton_self _), rfl, rfl⟩

theorem State.writeBytes_nil (s : State) (o : Nat) : s.writeBytes o [] = s := by
  cases hr : s.regionOf o with
  | none => rw [State.writeBytes, hr]
  | some g => rw [State.writeBytes_of_region [] hr, if_pos List.isEmpty_nil]

theorem State.windowLive_user_res (s : State) (o n : Nat) : (s.windowLive .user o n).res = s.res := by
  unfold State.windowLive
  split <;> rfl

theorem State.writeBytes_user_res {s : State} {o : Nat} (h : o < s.r.userEnd) (bs : List Byte) : (s.writeBytes o bs).res = s.res := by
  rw [State.writeBytes_of_region bs (s.regionOf_user h)]
  cases bs with
  | nil => rw [if_pos List.isEmpty_nil]
  | cons b bs => rw [if_neg (by simp), if_neg (by decide), if_neg (by simp [State.auxTags]), State.windowLive_user_res, State.modCore_res]

/-- What a function of a place and its bytes leaves of the residencies, when it is run as residency k. -/
theorem State.as_res (s : State) (k : ResNo) (f : State → Nat → List Byte → State) (o : Nat) (bs : List Byte) :
    (s.as k fun s => f s o bs).res = (f { s with curRes := k } o bs).res := rfl

/-- What lies in user memory is written without a change of a residency's registers; past its end nothing is written. -/
theorem State.writeBytes_take_res (s : State) (o : Nat) (bs : List Byte) : (s.writeBytes o (bs.take (s.r.userEnd - o))).res = s.res := by
  by_cases h : o < s.r.userEnd
  · exact State.writeBytes_user_res h _
  · rw [Nat.sub_eq_zero_of_le (Nat.not_lt.mp h), List.take_zero, State.writeBytes_nil]

theorem landBytes_res {s : State} {d : Landing} {bs : List Byte} (h : (State.writeBytes { s with curRes := d.res } d.addr bs).res = s.res) : (s.landBytes d bs).res = s.res := by
  unfold State.landBytes
  split
  · rw [State.modMem_res]
  · exact (State.as_res s d.res State.writeBytes d.addr bs).trans h

theorem landBytes_dealt_res (s : State) (d : Landing) : (s.landBytes d (d.data.take ((s.res.get d.res).userEnd - d.addr))).res = s.res :=
  landBytes_res (State.writeBytes_take_res { s with curRes := d.res } d.addr d.data)

section
variable {s : State} {d : Landing} (hn : s.core.landedNow = false)
include hn

theorem execPorterLanding_suppressed (hs : s.landSuppressed d = true) : execPorterLanding d s = .next (s.landed d none) := by
  rw [execPorterLanding, hn, hs]
  rfl

variable (hs : s.landSuppressed d = false)
include hs

theorem execPorterLanding_memory (hd : d.deal = false) (hb : landBank d = none) :
    execPorterLanding d s = .next (((s.landBytes d d.data).modRes d.res fun r => r.credit d.mbox d.data.length).landed d none) := by
  rw [execPorterLanding, hn, hs, hd, hb]
  simp

theorem execPorterLanding_dealt (hd : d.deal = true) :
    ∃ f, execPorterLanding d s = .next (((s.landBytes d (d.data.take ((s.res.get d.res).userEnd - d.addr))).modRes d.res fun r =>
      r.credit d.mbox (min ((s.res.get d.res).userEnd - d.addr) d.data.length)).landed d f) := by
  rw [execPorterLanding, hn, hs, hd, ← List.length_take]
  dsimp only
  rw [if_neg Bool.false_ne_true, if_neg Bool.false_ne_true, if_pos rfl, if_pos rfl]
  generalize d.data.take _ = bs
  exact ⟨_, rfl⟩

theorem execPorterLanding_bank {b : Nat} (hd : d.deal = false) (hb : landBank d = some b) (hi : s.core.issuing = some d.res) (ha : s.accOwner = some d.res) (hc : s.core.accClear = none)
    (he : b ∉ s.core.engineBanks) (hq : b ∉ s.core.seqBanks) (hv : s.env.agenda.any engineEvent = false) :
    execPorterLanding d s = .next (((s.landBytes d d.data).modCore fun c => { c with landingBanks := [b] }).landed d none) := by
  have hw : s.landWaits d b = false := by simp [State.landWaits, hi, ha, hc, hq]
  rw [execPorterLanding, hn, hs, hd, hb]
  simp [hw, ha, hv, he]

end

/-! ### The words added by a landing -/

theorem leNat_leBytes (n v : Nat) : leNat (leBytes n v) = v % 256 ^ n := by
  induction n generalizing v with
  | zero => simp [leBytes, leNat, Nat.mod_one]
  | succ n ih =>
    rw [leBytes, leNat, ih, Nat.pow_succ', Nat.mod_mul]
    rfl

theorem length_leBytes (n v : Nat) : (leBytes n v).length = n := by
  induction n generalizing v with
  | zero => rfl
  | succ n ih => rw [leBytes, List.length_cons, ih]

theorem memNat_memPut_leBytes {m : List Host.Cell} (h : Memory.wf m = true) (a n v : Nat) : memNat (memPut m a (leBytes n v)) a n = v % 256 ^ n := by
  have := memBytes_memPut (leBytes n v) m a h
  rw [length_leBytes] at this
  rw [memNat, this, leNat_leBytes]

theorem landBytes_add_word {s : State} {d : Landing} (ha : d.add = true) (hl : d.data.length = 4) (hi : s.Inv) :
    memNat (s.landBytes d d.data).core.mem d.addr 4 = accAdd (memNat s.core.mem d.addr 4) (valueOf .fp32 (leNat d.data)) % 2 ^ 32 := by
  rw [State.landBytes, if_pos ha, hl]
  show memNat (memPut s.core.mem d.addr (leBytes 4 (accAdd _ (valueOf .fp32 (leNat (d.data.take 4)))))) d.addr 4 = _
  rw [memNat_memPut_leBytes hi.1, List.take_of_length_le hl.le, show 256 ^ 4 = 2 ^ 32 from rfl]

/-! ### The completion report -/

theorem State.leavePorter_core (s : State) (own : Bool) (id : Nat) : (s.leavePorter own id).core = s.core := by
  unfold State.leavePorter
  split
  · rfl
  · dsimp only
    split <;> rfl

theorem State.doneTid_core (s : State) (q : Req) : (s.doneTid q).core = s.core := by
  unfold State.doneTid
  split <;> rfl

theorem State.leaveDone_tables (s : State) (b : Bool) : (s.leaveDone b).core.reqs = s.core.reqs ∧ (s.leaveDone b).core.range = s.core.range := by
  unfold State.leaveDone
  split
  · split <;> exact ⟨rfl, rfl⟩
  · exact ⟨rfl, rfl⟩

theorem State.rangeRemove_reqs (s : State) (i : Option (Fin 32)) : (s.rangeRemove i).core.reqs = s.core.reqs := by cases i <;> rfl

theorem State.rangeRemove_range {s t : State} (h : t.core.range = s.core.range) (i : Option (Fin 32)) : (t.rangeRemove i).core.range = (s.rangeRemove i).core.range := by
  cases i with
  | none => exact h
  | some i => exact congrArg (fun v => v.set i.val none i.isLt) h

theorem State.rangeFail_reqs (s : State) (i : Option (Fin 32)) : (s.rangeFail i).core.reqs = s.core.reqs := by cases i <;> rfl

theorem State.deferFail_reqs (s : State) (q : Req) (c : BitVec 7) (a : Word) : (s.deferFail q c a).core.reqs = s.core.reqs := by
  unfold State.deferFail
  split
  · exact s.rangeRemove_reqs _
  · exact State.rangeFail_reqs _ _

/-- The requests that stay when a copy is over. -/
theorem State.settleCopy_reqs (s : State) (q : Req) (f : Option ServerFail) : (s.settleCopy q f).core.reqs = s.core.reqs.filter fun y => y.id != q.id := by
  have h : ∀ b, (((((s.dropReq q.id).leaveBuffer q.id).leavePorter true q.id).doneTid q).leaveDone b).core.reqs = s.core.reqs.filter fun y => y.id != q.id := fun b => by
    rw [(State.leaveDone_tables _ b).1, State.doneTid_core, State.leavePorter_core]
    rfl
  cases f with
  | none => exact (State.rangeRemove_reqs _ _).trans (h _)
  | some e => exact (State.deferFail_reqs _ _ _ _).trans (h _)

theorem State.settleCopy_range (s : State) (q : Req) : (s.settleCopy q none).core.range = (s.rangeRemove q.range).core.range := by
  rw [State.settleCopy]
  refine State.rangeRemove_range ?_ _
  refine (State.leaveDone_tables _ _).2.trans ?_
  rw [State.doneTid_core, State.leavePorter_core]
  rfl

theorem execPorterCompletionReport_eq {s : State} {id : Nat} {q : Req} (hq : s.reqOf id = some q) (hk : 4 ≤ q.kind.toNat) (fail : Option ServerFail) :
    execPorterCompletionReport id fail s = .next (s.settleCopy q (q.fail <|> fail)) := by
  rw [execPorterCompletionReport, hq]
  exact if_pos hk

/-! ### The obligation -/

/-- What a piece of a copy of this core leaves, once its server has done the read. -/
theorem serverRequest_results {s : State} {q : Req} {n : Nat} {y : Nat × Chunk} {addr : Nat} (hq : s.reqOf q.id = some q) (hk : 4 ≤ q.kind.toNat)
    (ht : s.turnedAway ⟨q.id, n, true, q.pkg, addr, .read y.2.len, .own⟩ = none) (hl : ∀ l ∈ s.srv.locks, l.1 ≠ reqGranule ⟨q.id, n, true, q.pkg, addr, .read y.2.len, .own⟩)
    (hb : s.srv.badIn (serverKey q.pkg addr) y.2.len = false) (hy : q.reads[n]? = some y) (hone : ∀ i z, q.reads[i]? = some z → z.1 = y.1 → i = n)
    (hans : ∀ a ∈ q.answers, a.1 ≠ n) {data : List Byte} (hd : memBytes s.srv.mem (serverKey q.pkg addr) y.2.len = data) :
    ∃ t, exec (.serverRequest ⟨q.id, n, true, q.pkg, addr, .read y.2.len, .own⟩) s = .next t ∧ t.core.mem = s.core.mem ∧ t.srv.mem = s.srv.mem ∧
      (q.kind = 4 → ptrWin q.dst = 0 → q.add = false → (⟨q.id, true, q.res, q.order, q.toOff y.2.x, data, false, none, false⟩, s.pkg.self) ∈ t.srv.toLand) ∧
      (q.kind = 4 → ptrWin q.dst = 0 → q.add = true → q.toOff y.2.x % 4 = 0 →
        (⟨q.id, true, q.res, q.order, q.toOff y.2.x, data.take (data.length / 4 * 4), true, none, false⟩, s.pkg.self) ∈ t.srv.toLand) ∧
      (∀ z, q.kind = 4 → ptrWin q.dst ≠ 0 → s.place q.extents (ptrAdd q.dst (y.2.x : Int)) 1 q.dpkg y.2.len q.order = .ok z →
        Instr.serverRequest ⟨q.id, 0, true, q.dpkg, z.1, .write data, .own⟩ ∈ t.env.agenda) ∧
      (∀ b, q.kind = 5 → q.binding.find? (fun b => b.1 == (q.dealTo y.2.x).1) = some b →
        (b.2 ≠ s.pkg.self → (⟨q.id, true, q.res, q.order, q.toOff y.2.x, data, false, q.mbox, true⟩, b.2) ∈ t.srv.toLand) ∧
        (∀ k, b.2 = s.pkg.self → s.resAt q.order b.1 = some k → (⟨q.id, true, k, q.order, q.toOff y.2.x, data, false, q.mbox, true⟩, b.2) ∈ t.srv.toLand)) := by
  obtain ⟨u, he, hmem, hsrv, hpkg, hres, hplace⟩ := execServerRequest_piece hq hy hone hans hk ht hl hb
  rw [hd] at he
  have hp : State.Ported u ((u.landPiece q y.2 data).readOn q.porter) := (State.Ported.landPiece u q y.2 data).trans (.readOn _ _)
  have hland : ∀ d core, u.landPiece q y.2 data = u.toLand d core → (d, core) ∈ ((u.landPiece q y.2 data).readOn q.porter).srv.toLand := fun d core e => by
    rw [e]
    exact (State.Ported.readOn _ q.porter).toLand (u.mem_toLand d core)
  refine ⟨_, he, hp.mem.trans hmem, hp.servers.trans hsrv, ?_, ?_, ?_, ?_⟩
  · exact fun h4 hw ha => hpkg ▸ hland _ _ (landPiece_core h4 hw ha)
  · exact fun h4 hw ha hm => hpkg ▸ hland _ _ (landPiece_add h4 hw ha hm)
  · intro z h4 hw hz
    refine (State.Ported.readOn _ q.porter).agenda ?_
    rw [landPiece_server h4 hw ((hplace _ _ _ _ _ _).trans hz)]
    exact List.mem_append_right _ (List.mem_singleton_self _)
  · intro b h5 hfind
    refine ⟨fun ho => hland _ _ (landPiece_dealt_other h5 hfind (hpkg ▸ ho)), fun k ho hr => hland _ _ (landPiece_dealt_here h5 hfind (hpkg ▸ ho) ?_)⟩
    rw [State.resAt, hres]
    exact hr

theorem landStep_results {s : State} {d : Landing} {core : Nat} (hl : s.srv.toLand = [(d, core)]) (hc : s.flyingTo core d.order + d.data.length ≤ 16384) :
    (core = s.pkg.self → ∃ p ∈ s.landStep.core.router, p.item = .answer (.porterLanding d) ∧ p.vc = 3) ∧
      (core ≠ s.pkg.self → Out.landing d.id core d.addr d.data d.mbox ∈ s.landStep.env.out) ∧ s.landStep.srv.toLand = [] := by
  obtain ⟨u, src, hu, he⟩ := landStep_single hl hc
  refine ⟨fun h => ?_, fun h => ?_, ?_⟩
  · rw [he, if_pos h]
    exact u.mem_answerUp src d
  · rw [he, if_neg h]
    exact List.mem_append_right _ (List.mem_singleton_self _)
  · rw [he]
    split <;> exact hu

/-- A dealt landing is written and counted in the mailbox of its residency. -/
theorem porterLanding_dealt {s : State} {d : Landing} (hn : s.core.landedNow = false) (hs : s.landSuppressed d = false) (hd : d.deal = true) :
    ∃ t, exec (.porterLanding d) s = .next t ∧ t.core.mem = (s.landBytes d (d.data.take ((s.res.get d.res).userEnd - d.addr))).core.mem ∧ t.core.landedNow = true ∧
      (t.res.get d.res).mboxes = ((s.res.get d.res).credit d.mbox (min ((s.res.get d.res).userEnd - d.addr) d.data.length)).mboxes := by
  obtain ⟨f, he⟩ := execPorterLanding_dealt hn hs hd
  have hres := landBytes_dealt_res s d
  generalize s.landBytes d (d.data.take _) = u at he hres ⊢
  have hp := State.Ported.landed (u.modRes d.res fun r => r.credit d.mbox (min ((s.res.get d.res).userEnd - d.addr) d.data.length)) d f
  refine ⟨_, he, hp.mem, hp.landedNow, ?_⟩
  rw [hp.res, State.modCore_res, State.modRes_res, vec_get_set_same, hres]

/-- Settles O44: each form's equation where its case holds, and what the Porter's other work keeps of it. -/
theorem porterResults : Obligations.PorterResults := by
  intro s
  refine ⟨fun p hp h => execPorterActiveMessage_waits s p hp h, fun p hf hw => ⟨fun ho => ?_, ?_⟩, ?_, fun d core hl => ⟨landStep_results hl, landStep_waits hl⟩, fun d => ⟨fun hn => ?_, fun hn hs => ?_, fun hn hs => ⟨?_, ?_, ?_⟩⟩, ?_, ?_⟩
  · refine (execPorterActiveMessage_other hf hw ho).trans ?_
    rw [State.atPorter, ho]
  · exact fun q l r ho hs hu hid hk hc hj hout hr hx => execPorterActiveMessage_reads hs hid hu hf hw ho hk hc hj hout hr hx
  · exact fun q n y addr hq hk ht hl hb hy hone hans => serverRequest_results hq hk ht hl hb hy hone hans rfl
  · exact if_pos hn
  · exact ⟨_, execPorterLanding_suppressed hn hs, (State.Ported.landed s d none).mem⟩
  · intro hd hb
    have hp := State.Ported.landed ((s.landBytes d d.data).modRes d.res fun r => r.credit d.mbox d.data.length) d none
    exact ⟨_, execPorterLanding_memory hn hs hd hb, hp.mem, hp.landedNow⟩
  · exact porterLanding_dealt hn hs
  · intro b hd hb hi ha hc he hq hv
    have hp := State.Ported.landed ((s.landBytes d d.data).modCore fun c => { c with landingBanks := [b] }) d none
    exact ⟨_, execPorterLanding_bank hn hs hd hb hi ha hc he hq hv, hp.mem, hp.landingBanks⟩
  · refine fun d => ⟨fun ha => ?_, fun ha hl hi => landBytes_add_word ha hl hi⟩
    rw [State.landBytes, if_neg (by simp [ha])]
  · intro id fail q hq hk
    refine ⟨_, execPorterCompletionReport_eq hq hk fail, fun y hy => ?_, fun h0 h1 => ?_⟩
    · rw [State.settleCopy_reqs] at hy
      simpa using (List.mem_filter.mp hy).2
    · rw [h0, h1]
      exact s.settleCopy_range q

end Sys2Proof.Machine
end

section
/-!
PROOF. Scalar floating point (O19): where an exact sum or product is NaN, the class of an FP32 pattern, and what each instruction writes.
-/

namespace Sys2Proof.Machine

open Sys2Proof

/-! ### Where the exact operations give NaN (R56, R78) -/

/-- A sum is NaN where an operand is, and for infinities of opposite signs (R56). -/
theorem Val.add_eq_nan_iff (rd : Bool) (u v : Val) : Val.add rd u v = .nan ↔ u = .nan ∨ v = .nan ∨ ∃ n, u = .inf n ∧ v = .inf (!n) := by
  cases u with
  | nan => simp [Val.add]
  | inf m =>
    cases v with
    | nan | fin => simp [Val.add]
    | inf n => cases m <;> cases n <;> simp [Val.add]
  | fin =>
    cases v with
    | nan | inf => simp [Val.add]
    | fin =>
      simp only [Val.add]
      split <;> simp

/-- An infinity and a zero, whose product has no value (R56). -/
def Val.InfZero (u v : Val) : Prop := ∃ n m e, u = .inf n ∧ v = .fin m 0 e

/-- A product is NaN where an operand is, and for an infinity times a zero (R56). -/
theorem Val.mul_eq_nan_iff (u v : Val) : Val.mul u v = .nan ↔ u = .nan ∨ v = .nan ∨ u.InfZero v ∨ v.InfZero u := by
  cases u with
  | nan => simp [Val.mul]
  | inf m =>
    cases v with
    | nan | inf => simp [Val.mul, Val.InfZero]
    | fin n k e => by_cases hk : k = 0 <;> simp [Val.mul, Val.InfZero, hk]
  | fin m k e =>
    cases v with
    | nan | fin => simp [Val.mul, Val.InfZero]
    | inf n => by_cases hk : k = 0 <;> simp [Val.mul, Val.InfZero, hk]

theorem Val.negate_eq_nan_iff (v : Val) : v.negate = .nan ↔ v = .nan := by cases v <;> simp [Val.negate]

theorem Val.negate_eq_inf_iff (v : Val) (n : Bool) : v.negate = .inf n ↔ v = .inf (!n) := by cases v <;> simp [Val.negate, Bool.not_eq_eq_eq_not]

/-- A difference is NaN where an operand is, and for equal infinities (R56). -/
theorem Val.add_negate_eq_nan_iff (rd : Bool) (u v : Val) : Val.add rd u v.negate = .nan ↔ u = .nan ∨ v = .nan ∨ ∃ n, u = .inf n ∧ v = .inf n := by
  simp only [Val.add_eq_nan_iff, Val.negate_eq_nan_iff, Val.negate_eq_inf_iff, Bool.not_not]

theorem Val.isNaN_iff (v : Val) : v.isNaN = true ↔ v = .nan := by cases v <;> simp [Val.isNaN]

theorem minVal_eq_nan {u v : Val} (h : u = .nan ∨ v = .nan) : minVal u v = .nan := by
  simp only [minVal, Bool.or_eq_true, Val.isNaN_iff, if_pos h]

theorem maxVal_eq_nan {u v : Val} (h : u = .nan ∨ v = .nan) : maxVal u v = .nan := by
  simp only [maxVal, Bool.or_eq_true, Val.isNaN_iff, if_pos h]

/-! ### The class of an FP32 pattern (R152) -/

/-- The number of a pattern's class among the nine (R152). -/
def fclassIndex (x : BitVec 32) : Nat :=
  if x.extractLsb' 23 8 = 255 then (if x.extractLsb' 0 23 ≠ 0 then 8 else if x.msb then 0 else 7)
  else if x.extractLsb' 23 8 ≠ 0 then (if x.msb then 1 else 6)
  else if x.extractLsb' 0 23 ≠ 0 then (if x.msb then 2 else 5) else if x.msb then 3 else 4

theorem extract_exponent_eq_iff (x : BitVec 32) (e : BitVec 8) : x.extractLsb' 23 8 = e ↔ x.toNat / 2 ^ 23 % 2 ^ 8 = e.toNat := by
  rw [← BitVec.toNat_inj, BitVec.extractLsb'_toNat, Nat.shiftRight_eq_div_pow]

theorem extract_fraction_eq_iff (x : BitVec 32) (f : BitVec 23) : x.extractLsb' 0 23 = f ↔ x.toNat % 2 ^ 23 = f.toNat := by
  rw [← BitVec.toNat_inj, BitVec.extractLsb'_toNat, Nat.shiftRight_zero]

theorem sign_eq_msb (x : BitVec 32) : (x.toNat / 2 ^ 31 % 2 == 1) = x.msb := by
  rw [BitVec.msb_eq_decide, Bool.eq_iff_iff, beq_iff_eq, decide_eq_true_iff]
  omega

theorem fclassOf_toNat (x : BitVec 32) : fclassOf x.toNat = 2 ^ fclassIndex x := by
  have hinf : x.extractLsb' 23 8 = 255 ↔ x.toNat / 2 ^ 23 % 2 ^ 8 = 255 := extract_exponent_eq_iff x 255
  have hsub : x.extractLsb' 23 8 = 0 ↔ x.toNat / 2 ^ 23 % 2 ^ 8 = 0 := extract_exponent_eq_iff x 0
  have hzero : x.extractLsb' 0 23 = 0 ↔ x.toNat % 2 ^ 23 = 0 := extract_fraction_eq_iff x 0
  simp only [fclassOf, fclassIndex, sign_eq_msb, ne_eq, hinf, hsub, hzero]
  split_ifs <;> rfl

/-- FCLASS writes the one bit of the class (R152). -/
theorem ofNat_fclassOf (u : Word) : BitVec.ofNat 64 (fclassOf (uval 32 u)) = 1#64 <<< fclassIndex (u.truncate 32) := by
  rw [uval_32, fclassOf_toNat, ← BitVec.twoPow_eq, ← BitVec.toNat_inj, BitVec.toNat_ofNat, BitVec.toNat_twoPow]

/-! ### What each instruction writes (R148, R149, R151, R68) -/

/-- The state after a result rounded under a mode: the LFSR has taken the mode's step (R68, R148). -/
def State.wroteRounded (s : State) (h : AHdr) (d : BitVec 5) (rm : BitVec 3) (y : Word) : State :=
  s.ended ((s.begun.result (.s (regOf h.s d)) y 4).stepLfsr rm) none

section
variable {h : AHdr} {d a b k : BitVec 5} {x : Bool} {rm : BitVec 3} {s : State} (hf : s.freeA h 1 = true)
include hf

theorem execFadd_free : exec (.fadd h d a b x rm) s =
    .next (s.wroteRounded h d rm (roundWord rm s.begun.r.lfsr (Val.add (isRd rm) (fpOf (s.opA h.s a)) (fpOf (s.opB h.s b x))))) :=
  opRounded_issued h d rm true _ s hf

theorem execFsub_free : exec (.fsub h d a b x rm) s =
    .next (s.wroteRounded h d rm (roundWord rm s.begun.r.lfsr (Val.add (isRd rm) (fpOf (s.opA h.s a)) (fpOf (s.opB h.s b x)).negate))) :=
  opRounded_issued h d rm true _ s hf

theorem execFmul_free : exec (.fmul h d a b x rm) s =
    .next (s.wroteRounded h d rm (roundWord rm s.begun.r.lfsr (Val.mul (fpOf (s.opA h.s a)) (fpOf (s.opB h.s b x))))) :=
  opRounded_issued h d rm true _ s hf

theorem execFfma_free : exec (.ffma h d a b x rm) s =
    .next (s.wroteRounded h d rm (roundWord rm s.begun.r.lfsr
      (Val.add (isRd rm) (Val.mul (fpOf (s.opA h.s a)) (fpOf (s.opB h.s b x))) (fpOf (s.opA h.s d))))) :=
  opRounded_issued h d rm true _ s hf

/-- FCVT steps the LFSR where its conversion is one that rounds. -/
theorem execFcvt_free : exec (.fcvt h d a k rm) s =
    .next (s.wroteRounded h d (if fcvtExact k then 0 else rm) (fcvtOf k rm s.begun.r.lfsr (s.opA h.s a))) := by
  have hstep : (if !fcvtExact k then rm else 0) = if fcvtExact k then 0 else rm := by cases fcvtExact k <;> rfl
  rw [← hstep]
  exact opRounded_issued h d rm (!fcvtExact k) _ s hf

theorem execFmin_free : exec (.fmin h d a b x) s =
    .next (s.wrote (.s (regOf h.s d)) (roundWord 0 0 (minVal (fpOf (s.opA h.s a)) (fpOf (s.opB h.s b x)))) 4) :=
  opAlu_wrote h d 4 _ s hf

theorem execFmax_free : exec (.fmax h d a b x) s =
    .next (s.wrote (.s (regOf h.s d)) (roundWord 0 0 (maxVal (fpOf (s.opA h.s a)) (fpOf (s.opB h.s b x)))) 4) :=
  opAlu_wrote h d 4 _ s hf

theorem execFclass_free : exec (.fclass h d a) s =
    .next (s.wrote (.s (regOf h.s d)) (1#64 <<< fclassIndex ((s.opA h.s a).truncate 32)) 4) := by
  rw [← ofNat_fclassOf]
  exact opAlu_wrote h d 4 _ s hf

end

/-- Every mode rounds NaN to the canonical NaN (R56). -/
theorem roundWord_nan (rm : BitVec 3) (l : BitVec 32) : roundWord rm l .nan = 0x7FC00000 := rfl

/-- Settles O19: each instruction writes its exact value rounded once, and that value is NaN for the operands that R56 and R78 name. -/
theorem scalarFloatResults : Obligations.ScalarFloatResults := by
  refine ⟨fun h d a b k x rm s hf => ?values, fun h d a b x rm s hf => ?nans⟩
  case values =>
    exact ⟨execFadd_free hf, execFsub_free hf, execFmul_free hf, execFfma_free hf, execFmin_free hf, execFmax_free hf, execFcvt_free hf, execFclass_free hf⟩
  case nans =>
    refine ⟨fun hn => ?_, fun hn => ?_, fun hn => ?_, fun hn => ?_, fun hn => ⟨?_, ?_⟩⟩
    · rw [execFadd_free hf, (Val.add_eq_nan_iff _ _ _).mpr hn, roundWord_nan]; rfl
    · rw [execFsub_free hf, (Val.add_negate_eq_nan_iff _ _ _).mpr hn, roundWord_nan]; rfl
    · rw [execFmul_free hf, (Val.mul_eq_nan_iff _ _).mpr hn, roundWord_nan]; rfl
    · have hsum : Val.add (isRd rm) (Val.mul (fpOf (s.opA h.s a)) (fpOf (s.opB h.s b x))) (fpOf (s.opA h.s d)) = .nan := by
        rw [Val.add_eq_nan_iff, Val.mul_eq_nan_iff]
        rcases hn with hu | hv | hw | huv | hvu | hinf
        · exact .inl (.inl hu)
        · exact .inl (.inr (.inl hv))
        · exact .inr (.inl hw)
        · exact .inl (.inr (.inr (.inl huv)))
        · exact .inl (.inr (.inr (.inr hvu)))
        · exact .inr (.inr hinf)
      rw [execFfma_free hf, hsum, roundWord_nan]; rfl
    · rw [execFmin_free hf, minVal_eq_nan hn, roundWord_nan]
    · rw [execFmax_free hf, maxVal_eq_nan hn, roundWord_nan]

end Sys2Proof.Machine
end

section
/-!
PROOF. Encoding (O1, O5): what is encoded decodes to itself, an instruction of a bundle has words, and the words that the spec writes out.
-/

namespace Sys2Proof.Laws

open Sys2Proof Sys2Proof.Machine

/-- Decoding gives back what was encoded, instruction by instruction; the remaining constructors are events, which have no words. -/
theorem roundTrip (i : Instr) : RoundTrip.Statement i := by
  cases i with
  | nop h => exact RoundTrip.nop h
  | br h o => exact RoundTrip.br h o
  | bri h a i => exact RoundTrip.bri h a i
  | call h o => exact RoundTrip.call h o
  | calli h a i => exact RoundTrip.calli h a i
  | ret h a => exact RoundTrip.ret h a
  | jtab h a b len => exact RoundTrip.jtab h a b len
  | loop h k cnt => exact RoundTrip.loop h k cnt
  | loopx h o => exact RoundTrip.loopx h o
  | waitFull h a => exact RoundTrip.waitFull h a
  | waitEmpty h a => exact RoundTrip.waitEmpty h a
  | waitFtime h a f => exact RoundTrip.waitFtime h a f
  | waitErrq h => exact RoundTrip.waitErrq h
  | waitCyc h a => exact RoundTrip.waitCyc h a
  | waitHelpers h a => exact RoundTrip.waitHelpers h a
  | waitLimit h a t k lim => exact RoundTrip.waitLimit h a t k lim
  | waitch h a c => exact RoundTrip.waitch h a c
  | waitmb h m => exact RoundTrip.waitmb h m
  | start h a k => exact RoundTrip.start h a k
  | hend h => exact RoundTrip.hend h
  | couple h w => exact RoundTrip.couple h w
  | uncouple h => exact RoundTrip.uncouple h
  | bell h k => exact RoundTrip.bell h k
  | bellD h k => exact RoundTrip.bellD h k
  | bellX h k d => exact RoundTrip.bellX h k d
  | exch h => exact RoundTrip.exch h
  | exchend h => exact RoundTrip.exchend h
  | round h => exact RoundTrip.round h
  | yield h => exact RoundTrip.yield h
  | halt h => exact RoundTrip.halt h
  | ld h a b z k o => exact RoundTrip.ld h a b z k o
  | ldExt h a b z k off => exact RoundTrip.ldExt h a b z k off
  | st h a b z o => exact RoundTrip.st h a b z o
  | stExt h a b z off => exact RoundTrip.stExt h a b z off
  | ldp h a b o => exact RoundTrip.ldp h a b o
  | ldpExt h a b off => exact RoundTrip.ldpExt h a b off
  | stp h a b o => exact RoundTrip.stp h a b o
  | stpExt h a b off => exact RoundTrip.stpExt h a b off
  | ldfe h a b o => exact RoundTrip.ldfe h a b o
  | ldfeExt h a b off => exact RoundTrip.ldfeExt h a b off
  | ldff h a b o => exact RoundTrip.ldff h a b o
  | ldffExt h a b off => exact RoundTrip.ldffExt h a b off
  | stfe h a b o => exact RoundTrip.stfe h a b o
  | stfeExt h a b off => exact RoundTrip.stfeExt h a b off
  | stf h a b o => exact RoundTrip.stf h a b o
  | stfExt h a b off => exact RoundTrip.stfExt h a b off
  | lat h a b c x w op => exact RoundTrip.lat h a b c x w op
  | tld h a t ch need hnd he stride => exact RoundTrip.tld h a t ch need hnd he stride
  | tst h a t ch need hnd he stride => exact RoundTrip.tst h a t ch need hnd he stride
  | accrd h t d v r => exact RoundTrip.accrd h t d v r
  | accwr h d t => exact RoundTrip.accwr h d t
  | accwrAdd h d t => exact RoundTrip.accwrAdd h d t
  | xld h a b c x ch len => exact RoundTrip.xld h a b c x ch len
  | xst h a b c x ch len => exact RoundTrip.xst h a b c x ch len
  | xat h a b c x pk w op => exact RoundTrip.xat h a b c x pk w op
  | xatr h a b c x pk w op => exact RoundTrip.xatr h a b c x pk w op
  | cpy h a b c x aw nest ne ch => exact RoundTrip.cpy h a b c x aw nest ne ch
  | cpyd h a b c x core mb me dt nest ne ch => exact RoundTrip.cpyd h a b c x core mb me dt nest ne ch
  | ndld h a k => exact RoundTrip.ndld h a k
  | fenceAcq h k => exact RoundTrip.fenceAcq h k
  | fenceRel h k => exact RoundTrip.fenceRel h k
  | fenceFull h k => exact RoundTrip.fenceFull h k
  | fenceExt h => exact RoundTrip.fenceExt h
  | mma h k a b r => exact RoundTrip.mma h k a b r
  | mmaX h k a b r => exact RoundTrip.mmaX h k a b r
  | mmar h a b c x k ta tb v r => exact RoundTrip.mmar h a b c x k ta tb v r
  | accz h k => exact RoundTrip.accz h k
  | accxSend h a k tag => exact RoundTrip.accxSend h a k tag
  | accxOpen h a k tag => exact RoundTrip.accxOpen h a k tag
  | accxClose h k r => exact RoundTrip.accxClose h k r
  | send h a b c x tag => exact RoundTrip.send h a b c x tag
  | sendp h a b c x fin tag => exact RoundTrip.sendp h a b c x fin tag
  | sendx h a b c x tag => exact RoundTrip.sendx h a b c x tag
  | recv h a b c x tag => exact RoundTrip.recv h a b c x tag
  | probe h a b c x tag => exact RoundTrip.probe h a b c x tag
  | cancel h a b => exact RoundTrip.cancel h a b
  | mcast h a b c x mb tag => exact RoundTrip.mcast h a b c x mb tag
  | free h a b => exact RoundTrip.free h a b
  | ringCw h a b => exact RoundTrip.ringCw h a b
  | ringCcw h a b => exact RoundTrip.ringCcw h a b
  | xsnd h a t flits cyc => exact RoundTrip.xsnd h a t flits cyc
  | xrcv h a t flits cyc => exact RoundTrip.xrcv h a t flits cyc
  | expect h a m => exact RoundTrip.expect h a m
  | mbadd h a m => exact RoundTrip.mbadd h a m
  | hset h a t cnt size => exact RoundTrip.hset h a t cnt size
  | hwaitProd h hn q => exact RoundTrip.hwaitProd h hn q
  | hwaitCons h hn q => exact RoundTrip.hwaitCons h hn q
  | hadvProd h hn q => exact RoundTrip.hadvProd h hn q
  | hadvCons h hn q => exact RoundTrip.hadvCons h hn q
  | field h a f k => exact RoundTrip.field h a f k
  | evsend h a b c x fld col row => exact RoundTrip.evsend h a b c x fld col row
  | evrun h a f => exact RoundTrip.evrun h a f
  | evctlUnbind h f => exact RoundTrip.evctlUnbind h f
  | evctlTime h a f => exact RoundTrip.evctlTime h a f
  | evctlLate h a f => exact RoundTrip.evctlLate h a f
  | evctlQlen h a f => exact RoundTrip.evctlQlen h a f
  | evctlFires h a f => exact RoundTrip.evctlFires h a f
  | sft h d a r u => exact RoundTrip.sft h d a r u
  | sfs h a b r fn => exact RoundTrip.sfs h a b r fn
  | trap h a i => exact RoundTrip.trap h a i
  | sysret h => exact RoundTrip.sysret h
  | csrr h a reg => exact RoundTrip.csrr h a reg
  | csrw h a reg => exact RoundTrip.csrw h a reg
  | csrs h a reg => exact RoundTrip.csrs h a reg
  | csrc h a reg => exact RoundTrip.csrc h a reg
  | errq h a b => exact RoundTrip.errq h a b
  | ctxsv h a k => exact RoundTrip.ctxsv h a k
  | ctxld h a k => exact RoundTrip.ctxld h a k
  | accspill h a k => exact RoundTrip.accspill h a k
  | accfill h a k => exact RoundTrip.accfill h a k
  | peerclr h a => exact RoundTrip.peerclr h a
  | bkpt h => exact RoundTrip.bkpt h
  | limm h a sx imm => exact RoundTrip.limm h a sx imm
  | limmHi h a imm => exact RoundTrip.limmHi h a imm
  | add h d a b x w => exact RoundTrip.add h d a b x w
  | sub h d a b x w => exact RoundTrip.sub h d a b x w
  | addi h d a i => exact RoundTrip.addi h d a i
  | mul h d a b x w => exact RoundTrip.mul h d a b x w
  | mulh h d a b x => exact RoundTrip.mulh h d a b x
  | mulhu h d a b x => exact RoundTrip.mulhu h d a b x
  | div h d a b x w => exact RoundTrip.div h d a b x w
  | divu h d a b x w => exact RoundTrip.divu h d a b x w
  | rem h d a b x w => exact RoundTrip.rem h d a b x w
  | remu h d a b x w => exact RoundTrip.remu h d a b x w
  | and h d a b x => exact RoundTrip.and h d a b x
  | or h d a b x => exact RoundTrip.or h d a b x
  | xor h d a b x => exact RoundTrip.xor h d a b x
  | andn h d a b x => exact RoundTrip.andn h d a b x
  | shl h d a b x w => exact RoundTrip.shl h d a b x w
  | shr h d a b x w => exact RoundTrip.shr h d a b x w
  | sar h d a b x w => exact RoundTrip.sar h d a b x w
  | rol h d a b x w => exact RoundTrip.rol h d a b x w
  | shli h d a w sh => exact RoundTrip.shli h d a w sh
  | shri h d a w sh => exact RoundTrip.shri h d a w sh
  | sari h d a w sh => exact RoundTrip.sari h d a w sh
  | clz h d a w => exact RoundTrip.clz h d a w
  | ctz h d a w => exact RoundTrip.ctz h d a w
  | popc h d a w => exact RoundTrip.popc h d a w
  | bfx h d a b x => exact RoundTrip.bfx h d a b x
  | bfi h d a b x => exact RoundTrip.bfi h d a b x
  | min h d a b x w => exact RoundTrip.min h d a b x w
  | max h d a b x w => exact RoundTrip.max h d a b x w
  | minu h d a b x w => exact RoundTrip.minu h d a b x w
  | maxu h d a b x w => exact RoundTrip.maxu h d a b x w
  | sel h d a b x p => exact RoundTrip.sel h d a b x p
  | mov h d a => exact RoundTrip.mov h d a
  | cmp h p a b x c => exact RoundTrip.cmp h p a b x c
  | cmpi h p a i c => exact RoundTrip.cmpi h p a i c
  | plog h p a b t => exact RoundTrip.plog h p a b t
  | pmovGet h d => exact RoundTrip.pmovGet h d
  | pmovPut h a => exact RoundTrip.pmovPut h a
  | xmov h d b => exact RoundTrip.xmov h d b
  | xmovP h d b => exact RoundTrip.xmovP h d b
  | addp h d a b x => exact RoundTrip.addp h d a b x
  | addpE h d a b x => exact RoundTrip.addpE h d a b x
  | pfmt h d a i => exact RoundTrip.pfmt h d a i
  | pfld h d a f => exact RoundTrip.pfld h d a f
  | gdistCore h d a b x t => exact RoundTrip.gdistCore h d a b x t
  | gdistOff h d a b x t => exact RoundTrip.gdistOff h d a b x t
  | fadd h d a b x r => exact RoundTrip.fadd h d a b x r
  | fsub h d a b x r => exact RoundTrip.fsub h d a b x r
  | fmul h d a b x r => exact RoundTrip.fmul h d a b x r
  | ffma h d a b x r => exact RoundTrip.ffma h d a b x r
  | fmin h d a b x => exact RoundTrip.fmin h d a b x
  | fmax h d a b x => exact RoundTrip.fmax h d a b x
  | fcmp h p a b x c => exact RoundTrip.fcmp h p a b x c
  | fcvt h d a k r => exact RoundTrip.fcvt h d a k r
  | fclass h d a => exact RoundTrip.fclass h d a
  | tadd h d a b m v r => exact RoundTrip.tadd h d a b m v r
  | tsub h d a b m v r => exact RoundTrip.tsub h d a b m v r
  | tmul h d a b m v r => exact RoundTrip.tmul h d a b m v r
  | tfma h d a b m v r => exact RoundTrip.tfma h d a b m v r
  | tmax h d a b m => exact RoundTrip.tmax h d a b m
  | tmin h d a b m => exact RoundTrip.tmin h d a b m
  | tabs h d a m => exact RoundTrip.tabs h d a m
  | tneg h d a m => exact RoundTrip.tneg h d a m
  | tcvt h d a k m r => exact RoundTrip.tcvt h d a k m r
  | tqnt h d a t m r => exact RoundTrip.tqnt h d a t m r
  | tdq h d a k m r => exact RoundTrip.tdq h d a k m r
  | tscl h d a b m v r => exact RoundTrip.tscl h d a b m v r
  | tand h d a b m => exact RoundTrip.tand h d a b m
  | tor h d a b m => exact RoundTrip.tor h d a b m
  | txor h d a b m => exact RoundTrip.txor h d a b m
  | tshl h d a b m => exact RoundTrip.tshl h d a b m
  | tshr h d a b m k => exact RoundTrip.tshr h d a b m k
  | tcmp h k a b m c => exact RoundTrip.tcmp h k a b m c
  | tsel h d a b m => exact RoundTrip.tsel h d a b m
  | tcas h d a b m o c => exact RoundTrip.tcas h d a b m o c
  | tmaxi h d a b m c => exact RoundTrip.tmaxi h d a b m c
  | tmini h d a b m c => exact RoundTrip.tmini h d a b m c
  | tredSum h d a c m r => exact RoundTrip.tredSum h d a c m r
  | tredMax h d a c m r => exact RoundTrip.tredMax h d a c m r
  | tredMin h d a c m r => exact RoundTrip.tredMin h d a c m r
  | tbc h d a m c => exact RoundTrip.tbc h d a m c
  | ttr h d a m => exact RoundTrip.ttr h d a m
  | tslc h d a b m => exact RoundTrip.tslc h d a b m
  | tidx h d m c => exact RoundTrip.tidx h d m c
  | tmov h d a m => exact RoundTrip.tmov h d a m
  | tfill h d m => exact RoundTrip.tfill h d m
  | mlog h j k l m t => exact RoundTrip.mlog h j k l m t
  | mcnt h d k m => exact RoundTrip.mcnt h d k m
  | splimWrite h op a => exact RoundTrip.splimWrite h op a
  | spbaseWrite h op a => exact RoundTrip.spbaseWrite h op a
  | tshapeWrite h op a k => exact RoundTrip.tshapeWrite h op a k
  | adWrite h op a k => exact RoundTrip.adWrite h op a k
  | accownWrite h op a => exact RoundTrip.accownWrite h op a
  | tileownWrite h op a => exact RoundTrip.tileownWrite h op a
  | trestartWrite h op a => exact RoundTrip.trestartWrite h op a
  | extentWrite h op a t k => exact RoundTrip.extentWrite h op a t k
  | errqsWrite h op a => exact RoundTrip.errqsWrite h op a
  | srlfsrWrite h op a => exact RoundTrip.srlfsrWrite h op a
  | vshareWrite h op a => exact RoundTrip.vshareWrite h op a
  | capkeyWrite h op a hi => exact RoundTrip.capkeyWrite h op a hi
  | _ => exact fun _ _ hc => nomatch hc

/-- An instruction has words exactly where it has a meaning in a bundle. -/
theorem encode_isSome_eq (i : Instr) : (encode i).isSome = (opOf i).isSome := by
  cases i <;> rfl

/-- Settles O1, from the round trip of each instruction. -/
theorem encodeDecodeRoundTrip : Obligations.EncodeDecodeRoundTrip := by
  refine ⟨fun i code hw hc => roundTrip i hw code hc, fun i o ho => ?_⟩
  rw [encode_isSome_eq, ho]
  rfl

/-- Settles O5: each word is read by the decoder. -/
theorem specWordsDecode : Obligations.SpecWordsDecode := by
  refine ⟨?programs, ?tiles, ?illegal⟩
  case programs => decide +kernel
  case tiles => decide +kernel
  case illegal => decide +kernel

end Sys2Proof.Laws
end

section
/-!
PROOF. A bundle of one instruction (O8): one lemma for each way that a bundle ends, in the order of R97 and R380.
-/

namespace Sys2Proof.Machine

open Sys2Proof

/-! ### The ways that a bundle ends (R97, R368, R380) -/

section
variable {ps : List Placed} {s : State}

/-- A cause that is pending is taken before anything else. -/
theorem runPlaced_pending {p : PendingCause} (h : s.pendingTrap = some p) :
    runPlaced ps s = (s.modC fun c => { c with pending := c.pending.tail }).takeTrap (trapWith p.cause p.info0 p.info1) := by
  simp only [runPlaced, h]

/-- A cause of the bundle's checks, where no release and no edge is awaited. -/
theorem runPlaced_trap {q : TrapReq} (hp : s.pendingTrap = none) (hb : s.c.barred = false) (hq : bundleTrap s.seen (liveOps s.seen ps) = some q) :
    runPlaced ps s = s.takeTrap q := by
  have hq' : bundleTrap (s.modC Ctx.landed) (liveOps (s.modC Ctx.landed) ps) = some q := hq
  simp [runPlaced, hp, hb, hq']

/-- The checks raise nothing, or the bundle is not checked before the release or edge that its context awaits. -/
theorem runPlaced_passes (hp : s.pendingTrap = none) (hb : s.c.barred = true ∨ bundleTrap s.seen (liveOps s.seen ps) = none) :
    runPlaced ps s =
      if s.c.waiting s.core.cycle then s.replayBack
      else if mustWait s.seen (liveOps s.seen ps) then (applyAsk (slotOrder (liveOps s.seen ps)) s.replayBack).hold
      else if held ((resolveAll s.seen s.replayBack (liveOps s.seen ps)).modC Ctx.landed) (liveOps s.seen ps) then resolveAll s.seen s.replayBack (liveOps s.seen ps)
      else (resolveAll s.seen s.replayBack (liveOps s.seen ps)).issue (liveOps s.seen ps) := by
  have hc : (if s.c.barred = true then none else bundleTrap s.seen (liveOps s.seen ps)) = none := by
    rcases hb with hb | hb
    · exact if_pos hb
    · rw [hb, ite_self]
  simp only [runPlaced, hp]
  rw [show s.modC Ctx.landed = s.seen from rfl, hc]

theorem State.unheld_iff : s.unheld = true ↔ s.pendingTrap = none ∧ s.c.waiting s.core.cycle = false := by
  simp [State.unheld]

end

/-! ### One instruction -/

section
variable {o : Op} {s : State}

theorem liveOps_alone_of_live (h : o.live s.seen = true) : liveOps s.seen [o.alone] = [o.alone] := by simp [liveOps, Op.alone, h]

theorem liveOps_alone_of_dead (h : o.live s.seen = false) : liveOps s.seen [o.alone] = [] := by simp [liveOps, Op.alone, h]

/-- A packet with room lets any bundle pass (R262). -/
theorem packetOver_of_room (h : s.packetRoom = true) (ps : List Placed) : packetOver s.seen ps = none := by
  have hk : s.seen.core.packet = s.core.packet := rfl
  have ho : s.seen.ownsPacket = s.ownsPacket := rfl
  rw [State.packetRoom] at h
  rw [packetOver, hk, ho]
  split
  next => rfl
  next p hp =>
    simp only [hp, Bool.or_eq_true, Bool.not_eq_true', decide_eq_true_eq] at h
    refine if_neg fun ⟨hown, hfull, _⟩ => ?_
    rcases h with h | h
    · exact absurd (h.symm.trans hown) Bool.false_ne_true
    · omega

/-- The first cause is that of the instruction's own check. -/
theorem bundleTrap_of_check {q : TrapReq} (hp : s.packetRoom = true) (hc : o.check (o.slot.num 0) s.seen = some q) : bundleTrap s.seen [o.alone] = some q := by
  have hc' : o.alone.op.check o.alone.num s.seen = some q := hc
  simp [bundleTrap, packetOver_of_room hp, slotOrder_alone, firstTrap, hc']

/-- An instruction whose guard is false only notes its issue and goes on (R92). -/
theorem runPlaced_dead (hu : s.unheld = true) (hp : s.packetRoom = true) (hroom : s.seen.c.flight.length + s.c.frozen.length + s.seen.c.stepResults ≤ 32)
    (hl : o.live s.seen = false) : runPlaced [o.alone] s = s.ended s.noted none := by
  obtain ⟨hn, hw⟩ := State.unheld_iff.mp hu
  have hb : bundleTrap s.seen [] = none := by rw [bundleTrap, packetOver_of_room hp]; rfl
  have hf : s.seen.c.frozen = s.c.frozen := by rw [State.seen, State.modC_c]; exact s.c.landed_held.2.2.1
  have hm : mustWait s.seen [] = false := by
    have hs : stepResults s.seen [] = s.seen.c.stepResults := rfl
    simp [mustWait, unitsFree, unitFree, hs, hf, hroom]
  have hlive := liveOps_alone_of_dead hl
  rw [runPlaced_passes hn (.inr (by rw [hlive, hb])), hlive, hw, hm, State.ended, Ctx.looping, ← s.replayBack_loop]
  rfl

end

/-- Settles O8: each case is one way that a bundle ends, with the instruction its only word. -/
theorem oneInstructionBundle : Obligations.OneInstructionBundle := by
  intro i o s ho
  have he : exec i s = .next (runPlaced [o.alone] s) := exec_eq_runOne i o s ho
  rw [he]
  refine ⟨fun p hp => ?pending, fun q hp hb hk hl hc => ?trap, fun hp hb hw => ?waiting, fun hu hk hr hl => ?dead, fun hu hl hb hm => ?held, fun hr ha => ?issues⟩
  case pending => rw [runPlaced_pending hp]
  case trap => rw [runPlaced_trap hp hb (by rw [liveOps_alone_of_live hl]; exact bundleTrap_of_check hk hc)]
  case waiting => rw [runPlaced_passes hp hb, if_pos hw]
  case dead => rw [runPlaced_dead hu hk hr hl]
  case held =>
    obtain ⟨hp, hw⟩ := State.unheld_iff.mp hu
    have hlive := liveOps_alone_of_live hl
    rw [runPlaced_passes hp (.inr (by rw [hlive, hb])), hlive, hw, hm, slotOrder_alone]
    rfl
  case issues => exact runOne_ready o s hr ha

end Sys2Proof.Machine
end

section
/-!
PROOF. Results in flight (O10, O11): which of them a bundle sees landed, and what is read after a number of bundles.
-/

namespace Sys2Proof.Machine

open Sys2Proof

/-! ### One more bundle (R99) -/

/-- What is still in flight after a bundle was in flight before it, one bundle further off. -/
theorem mem_flightLeft {l : List Flight} {f : Flight} (h : f ∈ flightLeft l) : ∃ g ∈ l, f.dest = g.dest ∧ f.rem + 1 = g.rem ∧ 0 < f.rem := by
  induction l with
  | nil => cases h
  | cons g l ih =>
    have tail (h : f ∈ flightLeft l) : ∃ e ∈ g :: l, f.dest = e.dest ∧ f.rem + 1 = e.rem ∧ 0 < f.rem := by
      obtain ⟨e, he, hd⟩ := ih h
      exact ⟨e, List.mem_cons_of_mem g he, hd⟩
    rw [flightLeft] at h
    split at h
    case isTrue => exact tail h
    case isFalse hg =>
      rcases List.mem_cons.mp h with rfl | h
      · exact ⟨g, List.mem_cons_self, rfl, by simp only; omega, by simp only; omega⟩
      · exact tail h

theorem flightLeft_append (x y : List Flight) : flightLeft (x ++ y) = flightLeft x ++ flightLeft y := by
  induction x with
  | nil => rfl
  | cons f x ih =>
    simp only [List.cons_append, flightLeft, ih]
    split <;> rfl

theorem landDue_append (x y : List Flight) (c : Ctx) : landDue (x ++ y) c = landDue y (landDue x c) := by
  induction x generalizing c with
  | nil => rfl
  | cons f x ih => exact ih _

/-- A bundle that no result for the register becomes visible to reads it as before. -/
theorem readS_landDue_of_not_due (l : List Flight) (c : Ctx) {r : BitVec 6} (h : ∀ f ∈ l, f.dest = .s r → 1 < f.rem) : (landDue l c).readS r = c.readS r := by
  induction l generalizing c with
  | nil => rfl
  | cons f l ih =>
    rw [landDue, ih _ fun g hg => h g (List.mem_cons_of_mem f hg)]
    split
    case isFalse => rfl
    case isTrue hf =>
      have hne : f.dest ≠ .s r := fun e => absurd (h f List.mem_cons_self e) (Nat.not_lt.mpr hf)
      cases hd : f.dest with
      | s q => exact c.readS_write_other _ fun e => hne (by rw [hd, e])
      | p q =>
        simp only [Ctx.write]
        split <;> rfl

/-! ### A register over many bundles -/

section
variable {c : Ctx} {r : BitVec 6} {v : Word} {n : Nat}

/-- A register is read the same until a result for it is due. -/
theorem Ctx.readS_iterate_of_not_due (k : Nat) (h : ∀ f ∈ c.flight, f.dest = .s r → k < f.rem) : (Ctx.landed^[k] c).readS r = c.readS r := by
  induction k generalizing c with
  | zero => rfl
  | succ k ih =>
    have hnext : ∀ f ∈ c.landed.flight, f.dest = .s r → k < f.rem := fun f hf e => by
      obtain ⟨g, hg, hd, hrem, -⟩ := mem_flightLeft hf
      have := h g hg (hd ▸ e)
      omega
    have hnow : c.landed.readS r = c.readS r := readS_landDue_of_not_due c.flight c fun f hf e => by
      have := h f hf e
      omega
    rw [Function.iterate_succ_apply, ih hnext, hnow]

/-- Of the results in flight for the register, `v` is the last one issued, due at the `n`-th bundle from here, and none is due after it. -/
def Ctx.Last (c : Ctx) (r : BitVec 6) (v : Word) (n : Nat) : Prop :=
  ∃ x z, c.flight = x ++ ⟨.s r, v, n⟩ :: z ∧ (∀ f ∈ x, f.dest = .s r → f.rem ≤ n) ∧ ∀ f ∈ z, f.dest ≠ .s r

/-- The bundle to which the last result becomes visible reads it, and nothing more is due (R99, R100). -/
theorem Ctx.Last.landed_due (hr : r.toNat % 32 ≠ 0) (h : c.Last r v 1) : c.landed.readS r = v ∧ ∀ f ∈ c.landed.flight, f.dest ≠ .s r := by
  obtain ⟨x, z, hl, hx, hz⟩ := h
  constructor
  · have hv : c.landed.readS r = (landDue c.flight c).readS r := rfl
    rw [hv, hl, landDue_append, landDue, if_pos (Nat.le_refl 1), readS_landDue_of_not_due z _ fun f hf e => absurd e (hz f hf), Ctx.readS_write_same _ _ hr]
  · intro f hf e
    obtain ⟨g, hg, hd, hrem, hpos⟩ := mem_flightLeft hf
    rw [hd] at e
    rw [hl, List.mem_append, List.mem_cons] at hg
    rcases hg with hg | rfl | hg
    · have := hx g hg e
      omega
    · exact absurd hrem (by simp; omega)
    · exact hz g hg e

/-- Until then it draws nearer by a bundle. -/
theorem Ctx.Last.landed_flying (h : c.Last r v (n + 2)) : c.landed.Last r v (n + 1) := by
  obtain ⟨x, z, hl, hx, hz⟩ := h
  refine ⟨flightLeft x, flightLeft z, ?_, fun f hf e => ?_, fun f hf e => ?_⟩
  · have hf : c.landed.flight = flightLeft c.flight := rfl
    rw [hf, hl, flightLeft_append, flightLeft, if_neg (by simp)]
    rfl
  · obtain ⟨g, hg, hd, hrem, -⟩ := mem_flightLeft hf
    have := hx g hg (hd ▸ e)
    omega
  · obtain ⟨g, hg, hd, -⟩ := mem_flightLeft hf
    exact hz g hg (hd ▸ e)

/-- From its bundle on, the last result is what the register reads. -/
theorem Ctx.Last.readS_iterate (hr : r.toNat % 32 ≠ 0) (h : c.Last r v (n + 1)) (k : Nat) : (Ctx.landed^[n + 1 + k] c).readS r = v := by
  induction n generalizing c with
  | zero =>
    obtain ⟨hv, hidle⟩ := h.landed_due hr
    rw [Nat.add_comm, Function.iterate_succ_apply, Ctx.readS_iterate_of_not_due k fun f hf e => absurd e (hidle f hf), hv]
  | succ n ih =>
    rw [Nat.add_right_comm, Function.iterate_succ_apply]
    exact ih h.landed_flying

end

/-- Settles O10: until its bundle the result is the only one for the register, and not due; from then on it is the last one. -/
theorem resultsBecomeVisibleAtTheirLatency : Obligations.ResultsBecomeVisibleAtTheirLatency := by
  intro c r v n k h0 h32 hn hf
  have hr : r.toNat % 32 ≠ 0 := reg_not_void (n := 5) h0 fun e => h32 (BitVec.eq_of_toNat_eq e)
  constructor
  · intro hk
    refine Ctx.readS_iterate_of_not_due (c := c.schedule (.s r) v n) k fun f hm e => ?_
    rcases List.mem_append.mp hm with hm | hm
    · exact absurd e (hf f hm)
    · rw [List.mem_singleton.mp hm]
      exact hk
  · intro hk
    obtain ⟨m, rfl⟩ := Nat.exists_eq_succ_of_ne_zero hn.ne'
    obtain ⟨j, rfl⟩ := Nat.exists_eq_add_of_le hk
    exact Ctx.Last.readS_iterate hr ⟨c.flight, [], rfl, fun f hm e => absurd e (hf f hm), fun _ hm => absurd hm List.not_mem_nil⟩ j

/-- Settles O11: the later-issued result is the last one in flight for the register. -/
theorem laterResultStands : Obligations.LaterResultStands := by
  intro c x y z r u v n h0 h32 hn hl hz hxy
  have hr : r.toNat % 32 ≠ 0 := reg_not_void (n := 5) h0 fun e => h32 (BitVec.eq_of_toNat_eq e)
  obtain ⟨m, rfl⟩ := Nat.exists_eq_succ_of_ne_zero hn.ne'
  have hlast : c.Last r v (m + 1) := by
    refine ⟨x ++ ⟨.s r, u, m + 1⟩ :: y, z, hl, fun f hf e => ?_, hz⟩
    rw [List.mem_append, List.mem_cons] at hf
    rcases hf with hf | rfl | hf
    · exact hxy f (List.mem_append_left y hf) e
    · exact Nat.le_refl _
    · exact hxy f (List.mem_append_right x hf) e
  exact hlast.readS_iterate hr 0

end Sys2Proof.Machine
end

section
/-!
PROOF. Transfers of control (O24): where a context goes on after its bundle, and what each transfer outside a loop does.
-/

namespace Sys2Proof.Machine

open Sys2Proof

/-! ### The next bundle (R97 step 6, R154) -/

/-- A taken transfer goes on at its target, whatever loop runs. -/
theorem State.ended_taken (s t : State) (p : Pair) :
    (s.ended t (some p)).c.pc = p ∧ (s.ended t (some p)).c.last = t.c.pc ∧ (s.ended t (some p)).c.loop = t.c.loop := by
  simp [State.ended, State.advance]

/-- With no transfer and no loop at the bundle's issue the context goes on at the pair after it. -/
theorem State.ended_falls {s : State} (hl : s.c.looping = false) (t : State) :
    (s.ended t none).c.pc = t.pairAfter ∧ (s.ended t none).c.last = t.c.pc ∧ (s.ended t none).c.loop = t.c.loop := by
  simp [State.ended, State.advance, hl]

theorem State.ended_core (s t : State) (p : Option Pair) : (s.ended t p).core = t.core := rfl

/-! ### What a bundle that begins to issue finds -/

theorem State.seen_looping (s : State) : s.seen.c.looping = s.c.looping := by
  obtain ⟨-, hl, -⟩ := s.c.landed_rest
  rw [State.seen, State.modC_c, Ctx.looping, hl, Ctx.looping]

theorem State.begun_looping (s : State) : s.begun.c.looping = s.c.looping := by
  obtain ⟨-, hl, -⟩ := s.begun_fields
  rw [Ctx.looping, hl, Ctx.looping]

theorem State.begun_reg (s : State) (side : Bool) (a : BitVec 5) : s.begun.c.reg side a = s.seen.c.reg side a := by
  obtain ⟨y, r, k, hc⟩ := s.begun_c
  rw [hc, State.seen, State.modC_c]
  rfl

theorem State.begun_pairAfter (s : State) : s.begun.pairAfter = s.c.pc + BitVec.ofNat 14 s.bundleLen := by
  obtain ⟨hpc, -⟩ := s.begun_fields
  obtain ⟨-, -, hlen⟩ := s.begun_place
  rw [State.pairAfter, hpc, hlen]

theorem State.begun_offTarget (s : State) (o : BitVec 16) : s.begun.offTarget o = s.c.pc + o.truncate 14 := by
  obtain ⟨hpc, -⟩ := s.begun_fields
  rw [State.offTarget, hpc]

theorem State.begun_mem (s : State) : s.begun.core.mem = s.core.mem := congrArg (·.mem) s.begun_core

/-- A grant that an instruction's touch brings about leaves its context as it finds it otherwise. -/
theorem Op.begun_c (o : Op) (s : State) : ∃ y r k, (o.begun s).c = s.c.landed.aside3 y r k := by
  have hg : (resolveAll s.seen s.replayBack [o.alone]).c = s.replayBack.c := State.resolve_c _ _ _
  have hb : (o.begun s).c = (resolveAll s.seen s.replayBack [o.alone]).noteIssue.c.landed := State.modC_c _ _
  obtain ⟨r, k, h1⟩ := s.replayBack_c
  obtain ⟨y, h2⟩ := (resolveAll s.seen s.replayBack [o.alone]).noteIssue_c
  rw [hb, h2, hg, h1, Ctx.landed_aside3, Ctx.landed_aside3]
  exact ⟨_, _, _, rfl⟩

/-! ### Transfers outside a loop (R86, R155, R156) -/

/-- The state in which a CALL or CALLI has scheduled its link (R155). -/
def State.linked (s : State) : State := s.begun.result (.s 31) ((s.c.pc + BitVec.ofNat 14 s.bundleLen).zeroExtend 64) 1

section
variable {h : CHdr} {s : State} (hf : s.freeC h 1 = true)
include hf

theorem execNop_free : exec (.nop h) s = .next (s.ended s.begun none) :=
  runOne_free (opNop h) s (s.free_mono _ _ 0 1 hf (by decide)) (fun _ => rfl) (fun _ => rfl) rfl rfl rfl rfl rfl rfl fun _ => rfl

variable (hl : s.c.looping = false)
include hl

/-- A transfer that writes no link. -/
theorem runOne_opJump (ra : State → Word) (t : State → Pair) : runOne (opJump h ra t) s = .next (s.ended s.begun (some (t s.begun))) :=
  runOne_free (opJump h ra t) s (s.free_mono _ _ 0 1 hf (by decide)) (fun n => by show illegalIf s.seen.c.looping n _ = none; rw [s.seen_looping, hl]; rfl)
    (fun _ => rfl) rfl rfl rfl rfl rfl rfl fun _ => rfl

/-- A transfer that writes the link. -/
theorem runOne_withLink (ra : State → Word) (t : State → Pair) : runOne (withLink (opJump h ra t)) s = .next (s.ended s.linked (some (t s.linked))) := by
  rw [State.linked, ← s.begun_pairAfter]
  exact runOne_free (withLink (opJump h ra t)) s hf (fun n => by show illegalIf s.seen.c.looping n _ = none; rw [s.seen_looping, hl]; rfl)
    (fun _ => rfl) rfl rfl rfl rfl rfl rfl fun _ => rfl

theorem execBr_free (o : BitVec 16) : exec (.br h o) s = .next (s.ended s.begun (some (s.c.pc + o.truncate 14))) := by
  rw [← s.begun_offTarget]
  exact runOne_opJump hf hl _ _

theorem execBri_free (a : BitVec 5) (i : BitVec 6) : exec (.bri h a i) s = .next (s.ended s.begun (some ((s.begun.c.reg h.s a + i.signExtend 64).truncate 14))) :=
  runOne_opJump hf hl _ _

/-- The target is computed from the register, which the link does not change before it lands. -/
theorem execCalli_free (a : BitVec 5) (i : BitVec 6) : exec (.calli h a i) s = .next (s.ended s.linked (some ((s.begun.c.reg h.s a + i.signExtend 64).truncate 14))) := by
  have ht : s.linked.regTarget h a i = s.begun.regTarget h a i := by rw [State.regTarget, State.linked, State.result_c]; rfl
  have hc := runOne_withLink hf hl (fun s => s.c.reg h.s a) fun s => s.regTarget h a i
  rw [ht] at hc
  exact hc

theorem execRet_free (a : BitVec 5) : exec (.ret h a) s = .next (s.ended s.begun (some ((s.begun.c.reg h.s a).truncate 14))) := by
  have ht : s.begun.regTarget h a 0 = (s.begun.c.reg h.s a).truncate 14 := by rw [State.regTarget, show BitVec.signExtend 64 (0 : BitVec 6) = 0#64 from rfl, BitVec.add_zero]
  rw [← ht]
  exact runOne_opJump hf hl _ _

end

section
variable {h : CHdr} {a b : BitVec 5} {len : BitVec 16} {s : State}

/-- JTAB with an index past its table falls through (R156). -/
theorem execJtab_outside (hf : s.freeC h 1 = true) (hi : len.toNat ≤ (s.seen.c.reg h.s b).toNat) : exec (.jtab h a b len) s = .next (s.ended s.begun none) := by
  have hout : ∀ t : State, t.c.reg h.s b = s.seen.c.reg h.s b → jtabIn h b len t = false := fun t ht => by simp [jtabIn, ht, hi]
  have hseen := hout s.seen rfl
  have hnow := hout s.begun (s.begun_reg _ _)
  have hreplay := hout (s.replayBack.modC Ctx.landed) (s.replayBack_landed.2 _ _)
  obtain ⟨hr, hb⟩ := (opJtab h a b len).ready_of_free_at s (fun n => by simp [opJtab, hseen]) (by simp [opJtab, hseen]) (by simp [opJtab, hreplay]) rfl rfl rfl rfl
    (by simp [opJtab, hseen]) rfl (s.free_mono _ _ 0 1 hf (by decide))
  have hnext : (opJtab h a b len).next s.begun = none := by simp [opJtab, hnow]
  have he : exec (.jtab h a b len) s = .next ((opJtab h a b len).issued s) := runOne_ready _ s hr rfl
  rw [he, Op.issued, hb, show (opJtab h a b len).late ((opJtab h a b len).eff s.begun) = s.begun from rfl, show (opJtab h a b len).eff s.begun = s.begun from rfl, hnext]

/-- JTAB with an index in its table goes on at the pair that the entry names (R156). -/
theorem execJtab_inside (hi : (s.seen.c.reg h.s b).toNat < len.toNat) (hr : (opJtab h a b len).ready s = true) :
    let t := (opJtab h a b len).begun s
    exec (.jtab h a b len) s = .next (s.ended t (some (s.c.pc +
      (BitVec.ofNat 16 (t.readLocal (ptrOff (ptrAdd (t.c.reg h.s a) (2 * (t.c.reg h.s b).toNat : Nat))) 2)).truncate 14))) := by
  intro t
  obtain ⟨y, r, k, hc⟩ := (opJtab h a b len).begun_c s
  have hpc : t.c.pc = s.c.pc := by rw [hc]; exact s.c.landed_rest.1
  have hreg : t.c.reg h.s b = s.seen.c.reg h.s b := by rw [hc, State.seen, State.modC_c]; rfl
  have hin : jtabIn h b len t = true := by simp [jtabIn, hreg, hi]
  have he : exec (.jtab h a b len) s = .next (s.ended t ((opJtab h a b len).next t)) := runOne_ready _ s hr rfl
  rw [he, ← hpc]
  simp only [opJtab, hin, if_true]
  rfl

end

/-! ### Loops (R159, R162) -/

theorem Nest.zero_eq_false_iff (n : Nest) : n.zero = false ↔ ∀ d : Fin 6, n.bound.get d ≠ 0 := by
  simp [Nest.zero]

theorem Nest.zero_eq_true_iff (n : Nest) : n.zero = true ↔ ∃ d : Fin 6, n.bound.get d = 0 := by
  simp [Nest.zero]

section
variable {h : CHdr} {s : State} (hf : s.freeC h 0 = true)
include hf

/-- LOOP where no loop is active. -/
theorem execLoop_free (hl : s.c.looping = false) (k : BitVec 3) (cnt : BitVec 5) :
    exec (.loop h k cnt) s = .next (s.ended ((opLoop h k cnt).eff s.begun) ((opLoop h k cnt).next ((opLoop h k cnt).eff s.begun))) :=
  runOne_free (opLoop h k cnt) s hf (fun n => by show illegalIf s.seen.c.looping n _ = none; rw [s.seen_looping, hl]; rfl)
    (fun _ => rfl) rfl rfl rfl rfl rfl rfl fun _ => rfl

/-- LOOPX where one is. -/
theorem execLoopx_free (hl : s.c.looping = true) (o : BitVec 16) :
    exec (.loopx h o) s = .next (s.ended ((opLoopx h o).eff s.begun) (some (s.c.pc + o.truncate 14))) := by
  have ht : ((opLoopx h o).eff s.begun).offTarget o = s.c.pc + o.truncate 14 := by
    rw [← s.begun_offTarget, State.offTarget, State.offTarget]
    exact congrArg (·.pc + _) (State.modC_c _ _)
  rw [← ht]
  exact runOne_free (opLoopx h o) s hf (fun n => by show illegalIf (!s.seen.c.looping) n _ = none; rw [s.seen_looping, hl]; rfl)
    (fun _ => rfl) rfl rfl rfl rfl rfl rfl fun _ => rfl

end

/-- What LOOP does to its context: the loop that it sets up runs from the next bundle where no bound is 0, and its body is skipped where one is (R159). -/
theorem loopBegun_results {h : CHdr} {k : BitVec 3} {cnt : BitVec 5} {s t : State} (hl : s.c.looping = false)
    (ht : t = s.ended ((opLoop h k cnt).eff s.begun) ((opLoop h k cnt).next ((opLoop h k cnt).eff s.begun))) :
    t.core.mem = s.core.mem ∧ t.c.last = s.c.pc ∧
    ((∀ d : Fin 6, (s.begun.r.nest k).bound.get d ≠ 0) → t.c.pc = s.begun.pairAfter ∧ t.c.loop.active = true ∧ t.c.loop.first = s.begun.pairAfter ∧ t.c.loop.count = cnt) ∧
    ((∃ d : Fin 6, (s.begun.r.nest k).bound.get d = 0) → t.c.loop.active = false) := by
  subst ht
  have hc : ((opLoop h k cnt).eff s.begun).c =
      { s.begun.c with loop := ⟨s.begun.r.nest k, Vector.replicate 6 0, s.begun.c.streamBase (s.begun.r.nest k), s.begun.pairAfter, cnt, !(s.begun.r.nest k).zero, 0⟩ } :=
    State.modC_c _ _
  generalize he : (opLoop h k cnt).eff s.begun = e at hc ⊢
  have hpc : e.c.pc = s.c.pc := by rw [hc]; exact s.begun_fields.1
  have hnext : (opLoop h k cnt).next e = if (!(s.begun.r.nest k).zero) = true then none else some (e.skipBundles (cnt.toNat + 1) e.pairAfter) := by
    show (if e.c.loop.active = true then _ else _) = _
    rw [hc]
  have hmem : e.core.mem = s.core.mem := by rw [← he]; exact s.begun_mem
  have hafter : e.pairAfter = s.begun.pairAfter := by rw [State.pairAfter, State.pairAfter, hc, ← he]; rfl
  cases hz : (s.begun.r.nest k).zero with
  | false =>
    have hn : (opLoop h k cnt).next e = none := by rw [hnext, hz]; rfl
    obtain ⟨h1, h2, h3⟩ := State.ended_falls hl e
    rw [hn, h1, h2, h3, hpc, hafter, hc]
    exact ⟨hmem, rfl, fun _ => ⟨rfl, by rw [hz]; rfl, rfl, rfl⟩, fun hd => absurd ((Nest.zero_eq_true_iff _).mpr hd) (by rw [hz]; exact Bool.false_ne_true)⟩
  | true =>
    have hn : (opLoop h k cnt).next e = some (e.skipBundles (cnt.toNat + 1) e.pairAfter) := by rw [hnext, hz]; rfl
    obtain ⟨h1, h2, h3⟩ := s.ended_taken e (e.skipBundles (cnt.toNat + 1) e.pairAfter)
    rw [hn, h1, h2, h3, hpc, hc]
    exact ⟨hmem, rfl, fun hd => absurd ((Nest.zero_eq_false_iff _).mpr hd) (by rw [hz]; simp), fun _ => by rw [hz]; rfl⟩

/-- Settles O24: each transfer from the lemma on its issue, and where the context goes on from the lemmas on its next bundle. -/
theorem transferResults : Obligations.TransferResults := by
  refine ⟨⟨fun h o len a b i s hf hl => ?jumps, fun h o k cnt s hf => ⟨fun hl => ?loop, fun hl => ?loopx⟩⟩, fun s t p _ _ hpc hlen => ?next⟩
  case jumps =>
    exact ⟨execNop_free hf, execBr_free hf hl o, execBri_free hf hl a i, execCall_free h o s hf hl, execCalli_free hf hl a i, execRet_free hf hl a,
      execJtab_outside hf, execJtab_inside⟩
  case loop => exact ⟨_, execLoop_free hf hl k cnt, loopBegun_results hl rfl⟩
  case loopx =>
    obtain ⟨h1, h2, h3⟩ := s.ended_taken ((opLoopx h o).eff s.begun) (s.c.pc + o.truncate 14)
    have hc : ((opLoopx h o).eff s.begun).c = { s.begun.c with loop := { s.begun.c.loop with active := false, done := 0 } } := State.modC_c _ _
    refine ⟨_, execLoopx_free hf hl o, s.begun_mem, h1, ?_, ?_⟩
    · rw [h2, hc]
      exact s.begun_fields.1
    · rw [h3, hc]
  case next =>
    obtain ⟨h1, h2, -⟩ := s.ended_taken t p
    refine ⟨h1, h2.trans hpc, fun hl => ?_⟩
    obtain ⟨h3, h4, -⟩ := State.ended_falls hl t
    exact ⟨by rw [h3, State.pairAfter, hpc, hlen], h4.trans hpc⟩

end Sys2Proof.Machine
end

section
/-!
PROOF. Context records, spills and control-page writes (O33): what a supervisor store of a whole word to the control page does.
-/

namespace Sys2Proof.Machine

open Sys2Proof

/-! ### Privileged instructions (R41, R130, R210, R211) -/

theorem supervisorOnly_none {ra : State → Word} {n : Nat} {t : State} (h : supervisorOnly ra n t = none) : t.c.mode = true := by
  by_contra hm
  rw [Bool.not_eq_true] at hm
  rw [supervisorOnly_user hm] at h
  exact Option.some_ne_none _ h

/-- An instruction whose check begins with that of privilege is ready in supervisor mode alone. -/
theorem Op.ready_supervisor {o : Op} {s : State} {ra : State → Word} {x : Option TrapReq} (hr : o.ready s = true)
    (hc : o.check (o.slot.num 0) s.seen = (supervisorOnly ra (o.slot.num 0) s.seen <|> x)) : s.c.mode = true := by
  have h := o.ready_check s hr
  rw [hc] at h
  exact s.seen_mode.symm.trans (supervisorOnly_none (orElse_none _ _ h).1)

section
variable {h : CHdr} {a : BitVec 5} {k : BitVec 4} {j : BitVec 3} {s : State}

theorem opCtxsv_supervisor (hr : (opCtxsv h a k).ready s = true) : s.c.mode = true := Op.ready_supervisor hr rfl

theorem opCtxld_supervisor (hr : (opCtxld h a k).ready s = true) : s.c.mode = true := Op.ready_supervisor hr rfl

theorem opAccfill_supervisor (hr : (opAccfill h a j).ready s = true) : s.c.mode = true := Op.ready_supervisor hr rfl

/-- The check of ACCSPILL is that of its store first. -/
theorem opAccspill_supervisor (hr : (opAccspill h a j).ready s = true) : s.c.mode = true := by
  have hc := (orElse_none _ _ ((opAccspill h a j).ready_check s hr)).1
  exact s.seen_mode.symm.trans (supervisorOnly_none (orElse_none _ _ hc).1)

end

/-- A grant that an instruction's touch brings about leaves the context that issues. -/
theorem Op.begun_curCtx (o : Op) (s : State) : (o.begun s).curCtx = s.curCtx := by
  have hg : (resolveAll s.seen s.replayBack [o.alone]).curCtx = s.replayBack.curCtx := (State.granted_resolve _ _ _).curCtx
  have hb : (o.begun s).curCtx = (resolveAll s.seen s.replayBack [o.alone]).noteIssue.curCtx := rfl
  rw [hb, (State.noteIssue_place _).2.1, hg, s.replayBack_place.2.1]

/-- A ready instruction that only has effects goes on to the pair after its bundle. -/
theorem exec_of_effects {i : Instr} {o : Op} {s t : State} (ho : opOf i = some o) (hr : o.ready s = true) (ha : ∀ u, o.after u = none) (hl : ∀ u, o.late u = u)
    (hn : ∀ u, o.next u = none) (he : o.eff (o.begun s) = t) : exec i s = .next (s.ended t none) := by
  rw [exec_eq_runOne i o s ho, runOne_ready o s hr (ha _), Op.issued, hl, hn, he]

/-- CTXSV writes the image of the context; its own is the one before the bundle (R210). -/
theorem opCtxsv_eff {h : CHdr} {a : BitVec 5} {k : BitVec 4} {s t : State} (ht : (opCtxsv h a k).begun s = t) :
    (opCtxsv h a k).eff t = t.writeBytes (ptrOff (t.c.reg h.s a)) ((if ctxOf k = s.curCtx then t.modC fun _ => t.core.before else t).ctxImage (ctxOf k)) := by
  rw [← Op.begun_curCtx (opCtxsv h a k) s, ht]
  rfl

/-! ### A store of a whole word of the control page (R388, R389) -/

theorem State.regionOf_control {s : State} {o : Nat} (hl : s.r.limit ≤ 0x200000) (ho : o < 0xE000) : s.regionOf (0x800000 + o) = some (.control, 0x800000, 0x80DFFF) := by
  have hu : s.r.userEnd ≤ s.r.limit := by rw [Res.userEnd]; omega
  rw [State.regionOf, if_neg (by omega), if_neg (by omega), if_neg (by omega), if_neg (by omega), if_neg (by omega), if_neg (by omega), if_pos (by omega)]

/-- All eight bytes of the word are the stored ones. -/
theorem mergeWord_whole (old : Nat) {o : Nat} (h8 : o % 8 = 0) (v : Nat) : mergeWord old o (leBytes 8 v) = v % 2 ^ 64 := by
  rw [mergeWord, h8, length_leBytes, leNat_leBytes]
  have hm : (2 ^ (8 * 8) - 1) <<< (8 * 0) = 2 ^ 64 - 1 := rfl
  have h0 : old &&& (2 ^ 64 - 1 - (2 ^ 64 - 1)) = 0 := Nat.and_zero old
  rw [hm, h0, Nat.zero_or, Nat.and_two_pow_sub_one_eq_mod]
  exact Nat.mod_mod _ _

theorem State.writeLocal_control {s : State} {o : Nat} (hl : s.r.limit ≤ 0x200000) (ho : o < 0xE000) (h8 : o % 8 = 0) (v : Nat) :
    s.writeLocal (0x800000 + o) 8 v = s.setCtrlWord o (v % 2 ^ 64) := by
  have hp : 0x800000 + o - 0x800000 = o := by omega
  have ha : o / 8 * 8 = o := by omega
  rw [State.writeLocal, State.writeBytes_of_region _ (State.regionOf_control hl ho), if_neg (by simp [leBytes]), if_pos rfl, State.writeCtrl, hp, ha, mergeWord_whole _ h8]

theorem State.setCtrlWord_release (s : State) (k : ResNo) (v : Nat) :
    s.setCtrlWord (0x3400 + 0x80 * k.val + 0x28) v =
      let s1 := if v.testBit 0 then s.releaseAcc k else s
      if v.testBit 1 then s1.releaseTile k else s1 := by
  have hk : (⟨(0x3400 + 0x80 * k.val + 0x28 - 0x3400) / 0x80 % 4, Nat.mod_lt _ (by decide)⟩ : ResNo) = k := Fin.ext (by simp only; omega)
  rw [State.setCtrlWord, if_neg (by omega), if_neg (by omega), if_neg (by omega), if_neg (by omega), if_neg (by omega), if_pos (by omega), hk]

theorem State.setCtrlWord_dptimeout (s : State) (v : Nat) : s.setCtrlWord 0x3300 v = s.setDptimeout (BitVec.ofNat 16 v) := rfl

/-- A pending-result word of a context takes its value, or its four tags (R102, R388). -/
theorem State.setCtrlWord_pending (s : State) (c : CtxNo) (value : Bool) (i : BitVec 5) (v : Nat) :
    s.setCtrlWord (pendingOff c value i) v =
      s.modCtx c fun x => x.setShown (if value then setValue x.shown i.toNat (BitVec.ofNat 64 v) else setTags x.shown (i.toNat / 4 * 4) v) := by
  have hi := i.isLt
  have hc := c.isLt
  have hk : (⟨pendingOff c value i / 0x400 % 11, Nat.mod_lt _ (by decide)⟩ : CtxNo) = c := Fin.ext (by simp only [pendingOff]; split <;> omega)
  have hlt : pendingOff c value i < 0x2C00 := by simp only [pendingOff]; split <;> omega
  rw [State.setCtrlWord, if_pos hlt]
  dsimp only
  rw [hk]
  cases value with
  | true =>
    have hp : pendingOff c true i % 0x400 = 0x100 + 8 * i.toNat := by simp only [pendingOff, if_true]; omega
    have hx : (0x100 + 8 * i.toNat - 0x100) / 8 = i.toNat := by omega
    rw [if_neg (by omega), if_neg (by omega), if_pos (by omega), hp, hx]
    rfl
  | false =>
    have hp : pendingOff c false i % 0x400 = 0x80 + 8 * (i.toNat / 4) := by simp only [pendingOff, Bool.false_eq_true, if_false]; omega
    have hx : (0x80 + 8 * (i.toNat / 4) - 0x80) / 2 = i.toNat / 4 * 4 := by omega
    rw [if_neg (by omega), if_pos (by omega), hp, hx]
    rfl

/-- What a supervisor store of a word of the control page does where it is ready. -/
theorem opCtrl_issued {s : State} (hl : s.r.limit ≤ 0x200000) {o : Nat} (ho : o < 0xE000) (h8 : o % 8 = 0) (v : Nat) (hr : (opCtrl o fun _ => v).ready s = true) :
    runOne (opCtrl o fun _ => v) s = .next (s.ended (s.begun.setCtrlWord o (v % 2 ^ 64)) none) := by
  have hb : (opCtrl o fun _ => v).begun s = s.begun := Op.begun_eq (fun _ => rfl) s
  have hl' : s.begun.r.limit ≤ 0x200000 := by
    have h := congrArg Res.limit (s.apart_begun.rest s.curRes)
    rw [State.r, s.apart_begun.curRes]
    exact h.trans_le hl
  rw [runOne_ready _ s hr rfl, Op.issued, hb, ← State.writeLocal_control hl' ho h8]
  rfl

/-! ### What a released group and a pending result leave -/

theorem Ctx.shown_setShown (c : Ctx) (l : List Flight) : (c.setShown l).shown = l := by
  cases hm : c.mode <;> simp [Ctx.shown, Ctx.setShown, hm]

/-- Going on to the next bundle leaves every residency's groups. -/
theorem State.ended_groups (s t : State) (p : Option Pair) (k : ResNo) :
    ((s.ended t p).res.get k).accOwn = (t.res.get k).accOwn ∧ ((s.ended t p).res.get k).accLive = (t.res.get k).accLive ∧
    ((s.ended t p).res.get k).tileOwn = (t.res.get k).tileOwn ∧ ((s.ended t p).res.get k).tlive = (t.res.get k).tlive := by
  have h := (t.apart_advance s.c.looping p).rest k
  exact ⟨congrArg (·.accOwn) h, congrArg (·.accLive) h, congrArg (·.tileOwn) h, congrArg (·.tlive) h⟩

/-- Another context shows the same results whether or not the bundle has begun to issue. -/
theorem State.begun_shown (s : State) {c : CtxNo} (hc : c ≠ s.curCtx) : (s.begun.r.ctx.get c).shown = (s.r.ctx.get c).shown := by
  have h := congrArg Ctx.shown (s.apart_begun.ctx s.curRes c fun e => hc e.2)
  rw [State.r, s.apart_begun.curRes]
  exact h

theorem State.ended_shown (s t : State) (p : Option Pair) {c : CtxNo} (hc : c ≠ t.curCtx) : ((s.ended t p).r.ctx.get c).shown = (t.r.ctx.get c).shown := by
  have h := congrArg Ctx.shown ((t.apart_advance s.c.looping p).ctx t.curRes c fun e => hc e.2)
  have hr : (s.ended t p).curRes = t.curRes := rfl
  rw [State.r, hr]
  exact h

theorem State.modCtx_r_get (s : State) (c : CtxNo) (f : Ctx → Ctx) : (s.modCtx c f).r.ctx.get c = f (s.r.ctx.get c) := by
  simp [State.r]

/-! ### The control-page writes -/

section
variable {s : State} (hl : s.r.limit ≤ 0x200000)
include hl

theorem execReleaseAcc_ready {k : ResNo} (hr : (opReleaseAcc k).ready s = true) : exec (.releaseAcc k) s = .next (s.ended (s.begun.releaseAcc k) none) := by
  have hk := k.isLt
  have h := opCtrl_issued hl (by omega) (by omega) 1 hr
  rw [State.setCtrlWord_release] at h
  exact h

theorem execReleaseTile_ready {k : ResNo} (hr : (opReleaseTile k).ready s = true) : exec (.releaseTile k) s = .next (s.ended (s.begun.releaseTile k) none) := by
  have hk := k.isLt
  have h := opCtrl_issued hl (by omega) (by omega) 2 hr
  rw [State.setCtrlWord_release] at h
  exact h

theorem execDptimeoutWrite_ready {v : Word} (hr : (opDptimeoutWrite v).ready s = true) :
    exec (.dptimeoutWrite v) s = .next (s.ended (s.begun.setDptimeout (v.truncate 16)) none) := by
  have h := opCtrl_issued hl (by decide) (by decide) v.toNat hr
  rw [State.setCtrlWord_dptimeout, Nat.mod_eq_of_lt v.isLt, ofNat_toNat_truncate] at h
  exact h

theorem execPendingResultWrite_ready {c : CtxNo} {value : Bool} {i : BitVec 5} {v : Word} (hr : (opPendingResultWrite c value i v).ready s = true) :
    exec (.pendingResultWrite c value i v) s = .next (s.ended (s.begun.modCtx c fun x =>
      x.setShown (if value then setValue x.shown i.toNat v else setTags x.shown (i.toNat / 4 * 4) v.toNat)) none) := by
  have hi := i.isLt
  have hc := c.isLt
  have hlt : pendingOff c value i < 0xE000 := by simp only [pendingOff]; split <;> omega
  have h8 : pendingOff c value i % 8 = 0 := by simp only [pendingOff]; split <;> omega
  have h := opCtrl_issued hl hlt h8 v.toNat hr
  rw [State.setCtrlWord_pending, Nat.mod_eq_of_lt v.isLt, BitVec.ofNat_toNat, BitVec.setWidth_eq] at h
  exact h

end

theorem State.setDptimeout_core (s : State) (v : BitVec 16) :
    (s.setDptimeout v).core.mem = s.core.mem ∧ (s.setDptimeout v).core.dptimeout = if v = 0 then s.core.dptimeout else v := by
  unfold State.setDptimeout
  split <;> exact ⟨rfl, rfl⟩

/-- Settles O33: records and spills are the effects of ready instructions, and each control-page write is the store of one word. -/
theorem recordSpillAndPageResults : Obligations.RecordSpillAndPageResults := by
  refine ⟨fun h a k j s => ⟨fun hr => ?ctxsv, fun hr => ?ctxld, fun hr => ?accspill, fun hr => ?accfill⟩,
    fun k c value i v s hl => ⟨fun hr => ?releaseAcc, fun hr => ?releaseTile, fun hr => ?dptimeout, fun hr hc => ?pending⟩⟩
  case ctxsv => exact ⟨opCtxsv_supervisor hr, exec_of_effects rfl hr (fun _ => rfl) (fun _ => rfl) (fun _ => rfl) (opCtxsv_eff rfl)⟩
  case ctxld => exact ⟨opCtxld_supervisor hr, exec_of_effects rfl hr (fun _ => rfl) (fun _ => rfl) (fun _ => rfl) rfl⟩
  case accspill => exact ⟨opAccspill_supervisor hr, exec_of_effects rfl hr (fun _ => rfl) (fun _ => rfl) (fun _ => rfl) rfl⟩
  case accfill => exact ⟨opAccfill_supervisor hr, exec_of_effects rfl hr (fun _ => rfl) (fun _ => rfl) (fun _ => rfl) rfl⟩
  case releaseAcc =>
    obtain ⟨hown, hlive, htile, -⟩ := s.ended_groups (s.begun.releaseAcc k) none k
    refine ⟨_, execReleaseAcc_ready hl hr, hown.trans ?_, hlive.trans ?_, htile.trans ?_, s.begun_mem⟩
    · simp [State.releaseAcc]
    · simp [State.releaseAcc]
    · simpa [State.releaseAcc] using congrArg (·.tileOwn) (s.apart_begun.rest k)
  case releaseTile =>
    obtain ⟨hacc, -, hown, hlive⟩ := s.ended_groups (s.begun.releaseTile k) none k
    refine ⟨_, execReleaseTile_ready hl hr, hown.trans ?_, hlive.trans ?_, hacc.trans ?_, s.begun_mem⟩
    · simp [State.releaseTile]
    · simp [State.releaseTile]
    · simpa [State.releaseTile] using congrArg (·.accOwn) (s.apart_begun.rest k)
  case dptimeout =>
    obtain ⟨hmem, hdp⟩ := s.begun.setDptimeout_core (v.truncate 16)
    have hwas : s.begun.core.dptimeout = s.core.dptimeout := congrArg (·.dptimeout) s.begun_core
    exact ⟨_, execDptimeoutWrite_ready hl hr, hmem.trans s.begun_mem, by rw [State.ended_core, hdp, hwas]⟩
  case pending =>
    refine ⟨_, execPendingResultWrite_ready hl hr, ?_, ?_⟩
    · rw [State.ended_core, State.modCtx_core, s.begun_mem]
    · rw [State.ended_shown _ _ _ (by rwa [State.modCtx_curCtx, s.apart_begun.curCtx]), State.modCtx_r_get, Ctx.shown_setShown, s.begun_shown hc]

end Sys2Proof.Machine
end

section
/-!
PROOF. Comparisons, predicate logic and predicate moves (O17): the image of a side's predicates, and the fifteen results of PMOV.put.
-/

namespace Sys2Proof.Machine

open Sys2Proof

/-- A sum of the powers of two that a predicate selects is below the next power. -/
theorem sum_two_pow_lt (f : Nat → Bool) (n : Nat) : ((List.range n).map fun j => if f j then 2 ^ j else 0).sum < 2 ^ n := by
  induction n with
  | zero => simp
  | succ n ih =>
    rw [List.range_succ, List.map_append, List.sum_append, Nat.pow_succ]
    cases hf : f n <;> simp [hf] <;> omega

/-- Bit i of such a sum is set where the predicate selects i. -/
theorem testBit_sum_two_pow (f : Nat → Bool) (n i : Nat) : ((List.range n).map fun j => if f j then 2 ^ j else 0).sum.testBit i = (decide (i < n) && f i) := by
  induction n with
  | zero => simp
  | succ n ih =>
    have hsum : ((List.range (n + 1)).map fun j => if f j then 2 ^ j else 0).sum = 2 ^ n * (f n).toNat + ((List.range n).map fun j => if f j then 2 ^ j else 0).sum := by
      rw [List.range_succ, List.map_append, List.sum_append]
      cases hf : f n <;> simp [hf, Nat.add_comm]
    rw [hsum, Nat.testBit_two_pow_mul_add _ (sum_two_pow_lt f n), ih]
    split
    case isTrue hi => simp [hi, Nat.lt_succ_of_lt hi]
    case isFalse hi =>
      rcases Nat.eq_or_lt_of_le (Nat.le_of_not_lt hi) with rfl | hlt
      · cases f n <;> simp
      · have hb : (f n).toNat < 2 ^ (i - n) := (Bool.toNat_lt _).trans_le (Nat.pow_le_pow_right Nat.two_pos (Nat.sub_pos_of_lt hlt))
        rw [Nat.testBit_lt_two_pow hb, decide_eq_false (by omega), Bool.false_and]

/-- The image has bit j where predicate j of the side is true (R142). -/
theorem getLsbD_predImage (c : Ctx) (side : Bool) {j : Nat} (hj : j < 64) : (predImage c side).getLsbD j = (decide (j < 16) && c.pred side (BitVec.ofNat 4 j)) := by
  rw [predImage, BitVec.getLsbD_ofNat, decide_eq_true hj, Bool.true_and, testBit_sum_two_pow fun j => c.pred side (BitVec.ofNat 4 j)]

/-- Two changes of the present context that agree on it are one. -/
theorem State.modC_congr {s : State} {f g : Ctx → Ctx} (h : f s.c = g s.c) : s.modC f = s.modC g := by
  have h' : f ((s.res.get s.curRes).ctx.get s.curCtx) = g ((s.res.get s.curRes).ctx.get s.curCtx) := h
  simp only [State.modC, State.modCtx, State.modR, State.modRes, Res.modCtx, h']

/-- The results that PMOV.put schedules: bits 1 to 15 of a word (R142). -/
def predFlights (side : Bool) (v : Word) : List Flight :=
  (List.range 15).map fun j => ⟨.p (predOf side (BitVec.ofNat 4 (j + 1))), BitVec.ofNat 64 (v.getLsbD (j + 1)).toNat, 1⟩

theorem predFlights_getElem? (side : Bool) (v : Word) {j : Nat} (h1 : 1 ≤ j) (hj : j < 16) :
    (predFlights side v)[j - 1]? = some ⟨.p (predOf side (BitVec.ofNat 4 j)), BitVec.ofNat 64 (v.getLsbD j).toNat, 1⟩ := by
  have hs : j - 1 + 1 = j := Nat.sub_add_cancel h1
  rw [predFlights, List.getElem?_map, List.getElem?_range (by omega), Option.map_some, hs]

theorem execPmovPut_free {h : AHdr} {a : BitVec 5} {s : State} (hf : s.freeA h 15 = true) :
    exec (.pmovPut h a) s = .next (s.ended (s.begun.modC fun c => { c with flight := c.flight ++ predFlights h.s (s.opA h.s a) }) none) := by
  have he : s.begun.modC (fun c => schedPreds h.s (c.reg h.s a) c) = s.begun.modC fun c => { c with flight := c.flight ++ predFlights h.s (s.opA h.s a) } :=
    State.modC_congr rfl
  rw [← he]
  exact opA_issued h (predDests h.s) _ s hf

/-- Settles O17: each instruction writes its one result, and PMOV.put its fifteen. -/
theorem compareAndPredicateResults : Obligations.CompareAndPredicateResults := by
  refine ⟨fun h p q t cc d a b i x s hf => ⟨?cmp, ?cmpi, ?plog, ?pmovGet, ?xmov, ?xmovP, ?fcmp⟩,
    fun h a s hf => ⟨predFlights h.s (s.opA h.s a), execPmovPut_free hf, rfl, fun j h1 hj => predFlights_getElem? h.s _ h1 hj⟩⟩
  case cmp => rw [← condOf_eq]; exact opPred_wrote h p 1 _ s hf
  case cmpi => rw [← condOf_eq]; exact opPred_wrote h p 1 _ s hf
  case plog => exact opPred_wrote h p 1 _ s hf
  case pmovGet => exact ⟨_, opAlu_wrote h d 1 _ s hf, fun j hj => getLsbD_predImage _ _ hj⟩
  case xmov => exact opAlu_wrote h d 2 _ s hf
  case xmovP => exact opPred_wrote h p 2 _ s hf
  case fcmp => exact opPred_wrote h p 4 _ s hf

end Sys2Proof.Machine
end

section
/-!
PROOF. Loads and stores (O13, O20, O21): what each leaves, and that a load changes no memory and a store none but its own bytes.
-/

namespace Sys2Proof.Machine

open Sys2Proof

/-! ### One access at a register and an offset (R176, R178, R179) -/

/-- The local offset that a load or a store names: register b stepped by an offset (R176). -/
def State.addrOf (t : State) (h : CHdr) (b : BitVec 5) (off : Int) : Nat := ptrOff (ptrAdd (t.c.reg h.s b) off)

/-- An instruction with one local access there, whose effects are all in slot order. -/
structure Op.Accesses (o : Op) (h : CHdr) (b : BitVec 5) (off : Int) : Prop where
  touch : ∃ n al w, ∀ s, o.touch s = s.touches (s.accessRegion (memAccess h b off n al w 0 s))
  after : ∀ t, o.after t = none
  late : ∀ t, o.late t = t
  next : ∀ t, o.next t = none

namespace Op.Accesses

variable {i : Instr} {o : Op} {h : CHdr} {b : BitVec 5} {off : Int} {s t : State} (hA : o.Accesses h b off)
include hA

/-- The groups that it touches do not depend on the grant. -/
theorem stable (s : State) : o.Stable s := by
  obtain ⟨n, al, w, ht⟩ := hA.touch
  intro a t
  have hR := s.reads_resolved a t
  rw [ht, ht, hR.touches, hR.accessRegion (b := memAccess h b off n al w 0 s.seen) (congrArg (ptrAdd · off) (hR.reg h.s b))]

/-- Where it is ready it is its effect. -/
theorem issues (ho : opOf i = some o) (hr : o.ready s = true) (he : o.eff (o.begun s) = t) : exec i s = .next (s.ended t none) :=
  exec_of_effects ho hr hA.after hA.late hA.next he

end Op.Accesses

theorem opLdAt_accesses (h : CHdr) (a b : BitVec 5) (z : BitVec 2) (k : Bool) (off : Int) : (opLdAt h a b z k off).Accesses h b off :=
  ⟨⟨_, _, _, fun _ => rfl⟩, fun _ => rfl, fun _ => rfl, fun _ => rfl⟩

theorem opLdpAt_accesses (h : CHdr) (a b : BitVec 5) (off : Int) : (opLdpAt h a b off).Accesses h b off := ⟨⟨_, _, _, fun _ => rfl⟩, fun _ => rfl, fun _ => rfl, fun _ => rfl⟩

theorem opStAt_accesses (h : CHdr) (a b : BitVec 5) (z : BitVec 2) (off : Int) : (opStAt h a b z off).Accesses h b off :=
  ⟨⟨_, _, _, fun _ => rfl⟩, fun _ => rfl, fun _ => rfl, fun _ => rfl⟩

theorem opStpAt_accesses (h : CHdr) (a b : BitVec 5) (off : Int) : (opStpAt h a b off).Accesses h b off := ⟨⟨_, _, _, fun _ => rfl⟩, fun _ => rfl, fun _ => rfl, fun _ => rfl⟩

theorem opLdFe_accesses (h : CHdr) (a b : BitVec 5) (off : Int) (empty : Bool) : (opLdFe h a b off empty).Accesses h b off :=
  ⟨⟨_, _, _, fun _ => rfl⟩, fun _ => rfl, fun _ => rfl, fun _ => rfl⟩

theorem opStFe_accesses (h : CHdr) (a b : BitVec 5) (off : Int) (waits : Bool) : (opStFe h a b off waits).Accesses h b off :=
  ⟨⟨_, _, _, fun _ => rfl⟩, fun _ => rfl, fun _ => rfl, fun _ => rfl⟩

/-! ### What each leaves (R176, R178) -/

/-- The signed reading of m bits, at 64 bits, is their sign extension. -/
theorem ofInt_signedOf {m : Nat} (hm : 0 < m) (x : Nat) : BitVec.ofInt 64 (signedOf m x) = (BitVec.ofNat m x).signExtend 64 := by
  rw [signedOf_ofNat m hm, BitVec.signExtend]

/-- The register value of a load: its bytes, with or without their sign (R176). -/
theorem opLdAt_eff (h : CHdr) (a b : BitVec 5) (z : BitVec 2) (k : Bool) (off : Int) (t : State) :
    (opLdAt h a b z k off).eff t = t.result (.s (regOf h.s a))
      (if k then (BitVec.ofNat (8 * 2 ^ z.toNat) (t.readLocal (t.addrOf h b off) (2 ^ z.toNat))).signExtend 64
       else BitVec.ofNat 64 (t.readLocal (t.addrOf h b off) (2 ^ z.toNat))) 4 := by
  rw [← ofInt_signedOf (Nat.mul_pos (by decide) (Nat.two_pow_pos _))]
  rfl

theorem opLdpAt_eff (h : CHdr) (a b : BitVec 5) (off : Int) (t : State) :
    (opLdpAt h a b off).eff t = (t.result (.s (regOf h.s a)) (BitVec.ofNat 64 (leNat ((t.readBytes (t.addrOf h b off) 16).take 8))) 4).result
      (.s (regOf h.s (a + 1))) (BitVec.ofNat 64 (leNat ((t.readBytes (t.addrOf h b off) 16).drop 8))) 4 := rfl

theorem opStAt_eff (h : CHdr) (a b : BitVec 5) (z : BitVec 2) (off : Int) (t : State) :
    (opStAt h a b z off).eff t = t.writeBytes (t.addrOf h b off) (leBytes (2 ^ z.toNat) (t.c.reg h.s a).toNat) := rfl

theorem opStpAt_eff (h : CHdr) (a b : BitVec 5) (off : Int) (t : State) :
    (opStpAt h a b off).eff t = t.writeBytes (t.addrOf h b off) (leBytes 8 (t.c.reg h.s a).toNat ++ leBytes 8 (t.c.reg h.s (a + 1)).toNat) := rfl

/-- Settles O20: a ready load or store is its effect, and the signed reading of a load is a sign extension. -/
theorem loadAndStoreResults : Obligations.LoadAndStoreResults := by
  refine ⟨fun h a b z k o off s => ⟨fun hr => ?ld, fun hr => ?ldExt, fun hr => ?ldp, fun hr => ?ldpExt⟩,
    fun h a b z o off s => ⟨fun hr => ?st, fun hr => ?stExt, fun hr => ?stp, fun hr => ?stpExt⟩⟩
  case ld | ldExt => exact (opLdAt_accesses h a b z k _).issues rfl hr (opLdAt_eff h a b z k _ _)
  case ldp | ldpExt => exact (opLdpAt_accesses h a b _).issues rfl hr (opLdpAt_eff h a b _ _)
  case st | stExt => exact (opStAt_accesses h a b z _).issues rfl hr (opStAt_eff h a b z _ _)
  case stp | stpExt => exact (opStpAt_accesses h a b _).issues rfl hr (opStpAt_eff h a b _ _)

/-! ### Full/empty words (R179) -/

theorem State.setFull_mem (s : State) (p : Nat) (v : Bool) : (s.setFull p v).core.mem = s.core.mem := rfl

section
variable {h : CHdr} {a b : BitVec 5} {off : Int} {s : State}

/-- LDFE and LDFF issue where the word is full. -/
theorem opLdFe_full {empty : Bool} (hr : (opLdFe h a b off empty).ready s = true) : s.seen.isFull (s.seen.addrOf h b off) = true := by
  have hw := (opLdFe h a b off empty).ready_wait s hr
  exact bne_eq_false_iff_eq.mp (Bool.or_eq_false_iff.mp hw).2

/-- STFE issues where the word is empty. -/
theorem opStFe_empty (hr : (opStFe h a b off true).ready s = true) : s.seen.isFull (s.seen.addrOf h b off) = false := by
  have hw := (opStFe h a b off true).ready_wait s hr
  exact bne_eq_false_iff_eq.mp (Bool.or_eq_false_iff.mp hw).2

end

theorem opLdFe_eff (h : CHdr) (a b : BitVec 5) (off : Int) (empty : Bool) (t : State) :
    (opLdFe h a b off empty).eff t =
      if empty then (t.result (.s (regOf h.s a)) (BitVec.ofNat 64 (t.readLocal (t.addrOf h b off) 8)) 4).setFull (t.addrOf h b off) false
      else t.result (.s (regOf h.s a)) (BitVec.ofNat 64 (t.readLocal (t.addrOf h b off) 8)) 4 := rfl

theorem opStFe_eff (h : CHdr) (a b : BitVec 5) (off : Int) (waits : Bool) (t : State) :
    (opStFe h a b off waits).eff t = (t.writeBytes (t.addrOf h b off) (leBytes 8 (t.c.reg h.s a).toNat)).setFull (t.addrOf h b off) true := rfl

/-- The memory after the store, whose bit has no part in it. -/
theorem opStFe_mem (h : CHdr) (a b : BitVec 5) (off : Int) (waits : Bool) (t : State) :
    ((opStFe h a b off waits).eff t).core.mem = (t.writeBytes (t.addrOf h b off) (leBytes 8 (t.c.reg h.s a).toNat)).core.mem := by
  rw [opStFe_eff, State.setFull_mem]

/-! ### Atomics and nests (R123, R180, R201) -/

theorem opLat_eff (h : CHdr) (a b c : BitVec 5) (x : Bool) (w : BitVec 2) (op : BitVec 4) (t : State) :
    (opLat h a b c x w op).eff t = (t.writeLocal (ptrOff (t.c.reg h.s b)) (4 * 2 ^ w.toNat) (atomicNew op (4 * 2 ^ w.toNat)
      (t.readLocal (ptrOff (t.c.reg h.s b)) (4 * 2 ^ w.toNat)) (t.c.regX h.s c x).toNat (t.c.reg h.s a).toNat)).result
        (.s (regOf h.s a)) (BitVec.ofNat 64 (t.readLocal (ptrOff (t.c.reg h.s b)) (4 * 2 ^ w.toNat))) 4 := rfl

theorem opNdld_eff (h : CHdr) (a : BitVec 5) (k : BitVec 3) (t : State) :
    (opNdld h a k).eff t = t.modR fun r => { r with nests := r.nests.set k.toNat (nestOf (t.readBytes (ptrOff (t.c.reg h.s a)) 64)) k.isLt } := rfl

/-- The value of an atomic whose operand fits in its bytes (R123). -/
theorem atomicNew_of_lt (n old v cmp : Nat) (hv : v < 2 ^ (8 * n)) :
    atomicNew 0 n old v cmp = (old + v) % 2 ^ (8 * n) ∧ atomicNew 3 n old v cmp = min old v ∧ atomicNew 4 n old v cmp = max old v ∧
    atomicNew 5 n old v cmp = old &&& v ∧ atomicNew 6 n old v cmp = old ||| v ∧ atomicNew 7 n old v cmp = old ^^^ v ∧
    atomicNew 8 n old v cmp = v ∧ atomicNew 9 n old v cmp = if old = cmp % 2 ^ (8 * n) then v else old := by
  have hm : v % 2 ^ (8 * n) = v := Nat.mod_eq_of_lt hv
  have hmin : atomicNew 3 n old v cmp = if v % 2 ^ (8 * n) < old then v % 2 ^ (8 * n) else old := rfl
  have hmax : atomicNew 4 n old v cmp = if old < v % 2 ^ (8 * n) then v % 2 ^ (8 * n) else old := rfl
  refine ⟨congrArg (fun x => (old + x) % 2 ^ (8 * n)) hm, ?_, ?_, congrArg (old &&& ·) hm, congrArg (old ||| ·) hm, congrArg (old ^^^ ·) hm, hm,
    congrArg (fun x => if old = cmp % 2 ^ (8 * n) then x else old) hm⟩
  · rw [hmin, hm]
    split <;> omega
  · rw [hmax, hm]
    split <;> omega

theorem leNat_lt (bs : List Byte) : leNat bs < 256 ^ bs.length := by
  induction bs with
  | nil => exact Nat.one_pos
  | cons b t ih =>
    rw [leNat, List.length_cons, Nat.pow_succ']
    have := b.isLt
    omega

theorem toNat_ofNat_leNat_take (bs : List Byte) (w n : Nat) (hw : w = 8 * n) : (BitVec.ofNat w (leNat (bs.take n))).toNat = leNat (bs.take n) := by
  subst hw
  have hlt : leNat (bs.take n) < 2 ^ (8 * n) := by
    rw [Nat.pow_mul]
    exact (leNat_lt _).trans_le (Nat.pow_le_pow_right (by decide) (List.length_take_le n bs))
  rw [BitVec.toNat_ofNat, Nat.mod_eq_of_lt hlt]

/-- A descriptor holds the bounds and the strides of its record (R201). -/
theorem nestOf_bound (bs : List Byte) (d : Fin 6) : ((nestOf bs).bound.get d).toNat = leNat ((bs.drop (2 * d.val)).take 2) := by
  rw [nestOf, Vector.get_ofFn]
  exact toNat_ofNat_leNat_take _ 16 2 rfl

theorem nestOf_stride (bs : List Byte) (d : Fin 6) : ((nestOf bs).stride.get d).toNat = leNat ((bs.drop (16 + 4 * d.val)).take 4) := by
  rw [nestOf, Vector.get_ofFn]
  exact toNat_ofNat_leNat_take _ 32 4 rfl

/-- Settles O21: each instruction is its effect where it is ready, and its wait says how the word's bit stands. -/
theorem fullEmptyAndAtomicResults : Obligations.FullEmptyAndAtomicResults := by
  refine ⟨fun h a b o off s => ⟨fun hr => ⟨opLdFe_full hr, ?ldfe⟩, fun hr => ⟨opLdFe_full hr, ?ldfeExt⟩, fun hr => ⟨opLdFe_full hr, ?ldff⟩, fun hr => ⟨opLdFe_full hr, ?ldffExt⟩,
      fun hr => ⟨opStFe_empty hr, ?stfe⟩, fun hr => ⟨opStFe_empty hr, ?stfeExt⟩, fun hr => ?stf, fun hr => ?stfExt⟩,
    fun h a b c x w op k s => ⟨fun hr => ?lat, fun hr => ⟨_, ?ndld, fun d => ⟨nestOf_bound _ d, nestOf_stride _ d⟩⟩, fun n old v cmp _ hv => atomicNew_of_lt n old v cmp hv⟩⟩
  case ldfe | ldfeExt => exact (opLdFe_accesses h a b _ true).issues rfl hr (opLdFe_eff h a b _ true _)
  case ldff | ldffExt => exact (opLdFe_accesses h a b _ false).issues rfl hr (opLdFe_eff h a b _ false _)
  case stfe | stfeExt => exact (opStFe_accesses h a b _ true).issues rfl hr (opStFe_eff h a b _ true _)
  case stf | stfExt => exact (opStFe_accesses h a b _ false).issues rfl hr (opStFe_eff h a b _ false _)
  case lat => exact exec_of_effects rfl hr (fun _ => rfl) (fun _ => rfl) (fun _ => rfl) (opLat_eff h a b c x w op _)
  case ndld => exact exec_of_effects rfl hr (fun _ => rfl) (fun _ => rfl) (fun _ => rfl) (opNdld_eff h a k _)

/-! ### The frame of loads and stores -/

/-- No byte of the core's memory changes outside the n bytes at register b and an offset, where they lie in a memory region. -/
def State.KeptOutside (s t u : State) (h : CHdr) (b : BitVec 5) (off : Int) (n : Nat) : Prop :=
  ∀ (g : Region) (lo hi : Nat), u.regionOf (u.addrOf h b off) = some (g, lo, hi) → g ≠ .control → u.auxTags g = false →
    ∀ x, (x < u.keyOf g (u.addrOf h b off) ∨ u.keyOf g (u.addrOf h b off) + n ≤ x) → memGet t.core.mem x = memGet s.core.mem x

namespace Op.Accesses

variable {i : Instr} {o : Op} {h : CHdr} {b : BitVec 5} {off : Int} {s t : State} (hA : o.Accesses h b off) (ho : opOf i = some o) (hr : o.ready s = true)
  (he : exec i s = .next t)
include hA ho hr he

/-- Where the effects leave the core and the servers, the instruction leaves the memories and the full/empty bits. -/
theorem keeps (hcore : ∀ u, (o.eff u).core = u.core) (hsrv : ∀ u, (o.eff u).srv = u.srv) :
    t.core.mem = s.core.mem ∧ t.core.full = s.core.full ∧ t.srv.mem = s.srv.mem := by
  have hB := Op.begins hr (hA.stable s)
  cases he.symm.trans (hA.issues ho hr rfl)
  exact ⟨(congrArg (·.mem) (hcore _)).trans hB.mem, (congrArg (·.full) (hcore _)).trans (congrArg (·.full) hB.core :), (congrArg (·.mem) (hsrv _)).trans (congrArg (·.mem) hB.srv)⟩

/-- Where the effects on memory are one write there, the instruction leaves every byte outside it. -/
theorem keptOutside (hi : s.Inv) {n : Nat} {bs : State → List Byte} (hw : ∀ u, (o.eff u).core.mem = (u.writeBytes (u.addrOf h b off) (bs u)).core.mem)
    (hlen : ∀ u, (bs u).length = n) : State.KeptOutside s t (o.begun s) h b off n := by
  intro g lo hi' hreg hc ht x hx
  have hB := Op.begins hr (hA.stable s)
  cases he.symm.trans (hA.issues ho hr rfl)
  rw [State.ended_core, hw, State.writeBytes_mem _ hreg hc ht, hB.mem]
  exact memGet_memPut_other _ _ _ x hi.1 (by rwa [hlen])

end Op.Accesses

/-- Settles O13: the loads' effects are results alone, and the stores' one write changes its own bytes. -/
theorem loadStoreFrame : Obligations.LoadStoreFrame := by
  intro h a b z k o off s t hi
  refine ⟨?ld, ?ldExt, ?ldp, ?ldpExt, ?ldff, ?ldffExt, ?st, ?stExt, ?stp, ?stpExt, ?stfe, ?stfeExt, ?stf, ?stfExt⟩
  case ld | ldExt => exact fun hr he => (opLdAt_accesses h a b z k _).keeps rfl hr he (fun _ => rfl) fun _ => rfl
  case ldp | ldpExt => exact fun hr he => (opLdpAt_accesses h a b _).keeps rfl hr he (fun _ => rfl) fun _ => rfl
  case ldff | ldffExt => exact fun hr he => (opLdFe_accesses h a b _ false).keeps rfl hr he (fun _ => rfl) fun _ => rfl
  case st | stExt => exact fun hr he => (opStAt_accesses h a b z _).keptOutside rfl hr he hi (fun u => congrArg (·.core.mem) (opStAt_eff h a b z _ u)) fun _ => length_leBytes _ _
  case stp | stpExt => exact fun hr he => (opStpAt_accesses h a b _).keptOutside rfl hr he hi (fun u => congrArg (·.core.mem) (opStpAt_eff h a b _ u)) fun _ => rfl
  case stfe | stfeExt => exact fun hr he => (opStFe_accesses h a b _ true).keptOutside rfl hr he hi (fun u => opStFe_mem h a b _ true u) fun _ => length_leBytes 8 _
  case stf | stfExt => exact fun hr he => (opStFe_accesses h a b _ false).keptOutside rfl hr he hi (fun u => opStFe_mem h a b _ false u) fun _ => length_leBytes 8 _

end Sys2Proof.Machine
end

section
/-!
PROOF. The servers and the Weighhouse (O42): where an answer goes, what a server does with a request, and the three steps of an atomic in the Weighhouse.
-/

namespace Sys2Proof.Machine

open Sys2Proof

/-! ### Answers (R191 to R195, R434, R437) -/

/-- The answer of a server is on its way to the core, on the channel of requests' answers (R421). -/
def State.Returns (t : State) (ev : Instr) : Prop := ∃ p ∈ t.core.router, p.item = .answer ev ∧ p.vc = 1

theorem State.returns_reply (s : State) (q : ServerReq) (wh : Bool) (ev : Instr) (hv : answerVc ev = 1) : (s.reply q wh ev).Returns ev :=
  ⟨_, List.mem_append_right _ (List.mem_singleton_self _), rfl, hv⟩

/-- What is no packet of the mesh is among the outputs once it has been sent. -/
theorem State.mem_emit_out (s : State) {o : Out} (h : s.itemTarget s.r.order o = none) : o ∈ (s.emit o).env.out := by
  rw [State.emit, State.emitFor_out s _ o h]
  exact List.mem_append_right _ (List.mem_singleton_self _)

section
variable (s : State) (q : ServerReq) (old : Nat) (data : List Byte) (f : Option ServerFail)

/-- An atomic's answer leaves the servers and the core's memory. -/
theorem State.answerAtomic_kept : (s.answerAtomic q old f).srv = s.srv ∧ (s.answerAtomic q old f).core.mem = s.core.mem := by
  unfold State.answerAtomic
  split
  · exact ⟨State.emit_srv _ _, rfl⟩
  · split
    · exact ⟨rfl, rfl⟩
    · split <;> exact ⟨rfl, rfl⟩

/-- A write's answer leaves the servers and the core's memory. -/
theorem State.answerWrite_kept : (s.answerWrite q f).srv = s.srv ∧ (s.answerWrite q f).core.mem = s.core.mem := by
  unfold State.answerWrite
  split
  · exact ⟨State.emit_srv _ _, rfl⟩
  · split
    · exact ⟨rfl, rfl⟩
    · split <;> exact ⟨rfl, rfl⟩

theorem State.answerAtomic_other (ho : q.own = false) : Out.servedAtomic q.id old f ∈ (s.answerAtomic q old f).env.out := by
  rw [State.answerAtomic, if_pos (by rw [ho]; rfl)]
  exact State.mem_emit_out _ rfl

theorem State.answerWrite_other (ho : q.own = false) : Out.servedWrite q.id q.part f ∈ (s.answerWrite q f).env.out := by
  rw [State.answerWrite, if_pos (by rw [ho]; rfl)]
  exact State.mem_emit_out _ rfl

theorem State.answerRead_other (ho : q.own = false) : Out.served q.id data f ∈ (s.answerRead q data f).env.out := by
  rw [State.answerRead, if_pos (by rw [ho]; rfl)]
  exact State.mem_emit_out _ rfl

variable {q} {r : Req} (ho : q.own = true) (hq : s.reqOf q.id = some r)
include ho hq

theorem State.answerAtomic_xatr (hk : r.kind = 3) : (s.answerAtomic q old f).Returns (.xatrResponse q.id old f) := by
  rw [State.answerAtomic, if_neg (by simp [ho]), hq]
  dsimp only
  rw [if_pos hk]
  exact s.returns_reply _ _ _ rfl

theorem State.answerAtomic_ack (hk : r.kind = 2) : (s.answerAtomic q old f).Returns (.serverAck q.id q.part f) := by
  rw [State.answerAtomic, if_neg (by simp [ho]), hq]
  dsimp only
  rw [if_neg (by simp [hk])]
  exact s.returns_reply _ _ _ rfl

theorem State.answerWrite_ack (hk : r.kind = 1) : (s.answerWrite q f).Returns (.serverAck q.id q.part f) := by
  rw [State.answerWrite, if_neg (by simp [ho]), hq]
  dsimp only
  rw [if_pos hk]
  exact s.returns_reply _ _ _ rfl

theorem State.answerRead_load (hk : r.kind = 0) : (s.answerRead q data f).Returns (.xldResponse q.id q.part data f) := by
  rw [State.answerRead, if_neg (by simp [ho]), hq]
  dsimp only
  rw [if_pos hk]
  exact s.returns_reply _ _ _ rfl

end

/-! ### The words in error stay through the work on a copy (R434) -/

theorem State.leavePorter_bad (s : State) (own : Bool) (id : Nat) : (s.leavePorter own id).srv.bad = s.srv.bad := by
  unfold State.leavePorter
  split
  · rfl
  · dsimp only
    split <;> rfl

theorem State.copyPart_bad (s : State) (id : Nat) (f : Option ServerFail) : (s.copyPart id f).srv.bad = s.srv.bad := by
  unfold State.copyPart State.report
  split
  · rfl
  · dsimp only
    repeat' split
    · exact State.leavePorter_bad _ _ _
    · exact State.leavePorter_bad _ _ _
    · rfl

theorem State.landPiece_bad (s : State) (q : Req) (c : Chunk) (data : List Byte) : (s.landPiece q c data).srv.bad = s.srv.bad := by
  have hc : ∀ f, (s.copyPart q.id f).srv.bad = s.srv.bad := s.copyPart_bad q.id
  unfold State.landPiece
  dsimp only
  repeat' split
  all_goals simp only [hc, State.toLand, State.post_srv]

theorem landAll_bad (q : Req) (l : List (Chunk × List Byte × Option ServerFail)) (s : State) : (landAll q l s).srv.bad = s.srv.bad := by
  induction l generalizing s with
  | nil => rfl
  | cons x l ih =>
    obtain ⟨c, d, _ | f⟩ := x
    · exact (ih _).trans (s.landPiece_bad q c d)
    · exact (ih _).trans (s.copyPart_bad _ _)

theorem State.pieceRead_bad (s : State) (id k : Nat) (data : List Byte) (f : Option ServerFail) : (s.pieceRead id k data f).srv.bad = s.srv.bad := by
  unfold State.pieceRead
  split
  · rfl
  · dsimp only
    split
    · rfl
    · exact landAll_bad _ _ _

theorem readMore_bad (n : Nat) (porter : Rank) (s : State) : (readMore n porter s).srv.bad = s.srv.bad := by
  induction n generalizing s with
  | zero => rfl
  | succ n ih =>
    unfold readMore
    split
    · rfl
    · split
      · rfl
      · refine (ih _).trans ?_
        split
        · exact State.pieceRead_bad _ _ _ _ _
        · rfl

/-- The answer to a read leaves the memories and the words in error. -/
theorem State.answerRead_kept (s : State) (q : ServerReq) (data : List Byte) (f : Option ServerFail) :
    (s.answerRead q data f).srv.mem = s.srv.mem ∧ (s.answerRead q data f).srv.bad = s.srv.bad ∧ (s.answerRead q data f).core.mem = s.core.mem := by
  unfold State.answerRead
  split
  · rw [State.emit_srv]
    exact ⟨rfl, rfl, rfl⟩
  · split
    · exact ⟨rfl, rfl, rfl⟩
    · rename_i r _
      split
      · exact ⟨rfl, rfl, rfl⟩
      · have hp : State.Ported s ((s.pieceRead q.id q.part data f).readOn r.porter) := (State.Ported.pieceRead s _ _ _ _).trans (.readOn _ _)
        exact ⟨hp.servers, (readMore_bad _ _ _).trans (s.pieceRead_bad _ _ _ _), hp.mem⟩

/-! ### What a server does with a request (R293, R431, R435, R440) -/

/-- A request that is turned away is answered with the failure, and changes no server memory. -/
theorem State.serveFail_results (s : State) (q : ServerReq) (f : ServerFail) :
    (s.serveFail q f).srv.mem = s.srv.mem ∧
      (q.own = false → (∀ n, q.op = .read n → Out.served q.id [] (some f) ∈ (s.serveFail q f).env.out) ∧
        (∀ d, q.op = .write d → Out.servedWrite q.id q.part (some f) ∈ (s.serveFail q f).env.out) ∧
        ∀ a, q.op = .atomic a → Out.servedAtomic q.id 0 (some f) ∈ (s.serveFail q f).env.out) := by
  unfold State.serveFail
  cases q.op with
  | read n => exact ⟨(s.answerRead_kept _ _ _).1, fun ho => ⟨fun _ _ => s.answerRead_other _ _ _ ho, nofun, nofun⟩⟩
  | write d => exact ⟨congrArg (·.mem) (s.answerWrite_kept _ _).1, fun ho => ⟨nofun, fun _ _ => s.answerWrite_other _ _ ho, nofun⟩⟩
  | atomic a => exact ⟨congrArg (·.mem) (s.answerAtomic_kept _ _ _).1, fun ho => ⟨nofun, nofun, fun _ _ => s.answerAtomic_other _ _ _ ho⟩⟩

section
variable {s : State} {q : ServerReq}

/-- The byte at an offset that a read answers with: for another core of the cluster that of the store buffer, where it has one (R293). -/
def State.readByte (s : State) (q : ServerReq) (i : Nat) : Byte :=
  (if q.own then none else (forward (s.bufferFor q) (serverKey q.pkg q.addr + i)).map (·.2)).getD (memGet s.srv.mem (serverKey q.pkg q.addr + i))

/-- A read of sound words answers with its bytes. -/
theorem serveRead_sound {n : Nat} (hb : s.srv.badIn (serverKey q.pkg q.addr) n = false) :
    ∃ u : State, u.core = s.core ∧ u.srv = s.srv ∧ s.serveRead q n = u.answerRead q ((List.range n).map (s.readByte q)) none := by
  unfold State.serveRead
  extract_lets k buf got missing f data seen cl s1
  have hf : f = none := if_neg <| by
    rw [List.any_eq_true]
    rintro ⟨o, ho, hbad⟩
    exact absurd hbad (ne_true_of_eq_false (Servers.badIn_byte hb (List.mem_range.mp (List.mem_filter.mp ho).1)))
  have hd : data = (List.range n).map (s.readByte q) := by
    refine (List.map_map (l := List.range n)).trans (List.map_congr_left fun o _ => ?_)
    simp only [Function.comp_apply, State.readByte, buf, k]
    cases q.own with
    | true => rfl
    | false => cases hfw : forward (s.bufferFor q) (serverKey q.pkg q.addr + o) <;> simp [hfw]
  exact ⟨s1, rfl, rfl, by rw [hf, hd]; rfl⟩

/-- The state in which a server turns to a request: the flipped bits of its words have been corrected (R431). -/
def State.serving (s : State) (q : ServerReq) : State := { s with srv := s.srv.correct fun w => meets (w, 8) (reqSpan q) }

theorem serve_of_read {n : Nat} (hop : q.op = .read n) : s.serve q = (s.serving q).serveRead q n := by
  rw [State.serve, hop]
  rfl

/-- Bytes have been written at a key of the servers' memory (R431). -/
def State.putServers (s : State) (k : Nat) (bs : List Byte) : State := { s with srv := s.srv.put k bs }

/-- What a server has in answer to a write of a list of bytes: an error where it covers only part of a bad word (R431). -/
def Servers.writeFail (v : Servers) (k n : Nat) : Option ServerFail := if v.badPart k n then some (.serverError 1) else none

theorem serve_of_write {d : List Byte} (hop : q.op = .write d) :
    s.serve q = (if s.srv.badPart (serverKey q.pkg q.addr) d.length then s.serving q else (s.serving q).putServers (serverKey q.pkg q.addr) d).answerWrite q (s.srv.writeFail (serverKey q.pkg q.addr) d.length) := by
  rw [State.serve, hop]
  have hb : (s.srv.correct fun w => meets (w, 8) (reqSpan q)).badPart (serverKey q.pkg q.addr) d.length = s.srv.badPart (serverKey q.pkg q.addr) d.length := rfl
  dsimp only
  rw [hb, Servers.writeFail]
  cases s.srv.badPart (serverKey q.pkg q.addr) d.length <;> rfl

/-- What a server has in answer to an atomic: it lacks the operation, or a word is in error (R431, R437). -/
def Servers.atomicFail (v : Servers) (pkg k : Nat) (a : Atomic) : Option ServerFail :=
  if atomicNeedsB a && !Config.revisionB pkg then some .notImplemented else if v.badIn k a.bytes then some (.serverError 1) else none

/-- The value that an atomic leaves in its bytes. -/
def Servers.atomicValue (v : Servers) (k : Nat) (a : Atomic) : Nat := atomicNew a.op a.bytes (memNat v.mem k a.bytes) a.val a.cmp

theorem serve_of_atomic {a : Atomic} (hop : q.op = .atomic a) :
    s.serve q = (s.srv.atomicFail q.pkg (serverKey q.pkg q.addr) a).elim
      (((s.serving q).putServers (serverKey q.pkg q.addr) (leBytes a.bytes (s.srv.atomicValue (serverKey q.pkg q.addr) a))).answerAtomic q
        (memNat s.srv.mem (serverKey q.pkg q.addr) a.bytes) none)
      fun f => (s.serving q).answerAtomic q 0 (some f) := by
  have hb : (s.srv.correct fun w => meets (w, 8) (reqSpan q)).badIn (serverKey q.pkg q.addr) a.bytes = s.srv.badIn (serverKey q.pkg q.addr) a.bytes := rfl
  rw [State.serve, hop]
  dsimp only
  rw [hb, Servers.atomicFail]
  cases atomicNeedsB a && !Config.revisionB q.pkg <;> cases s.srv.badIn (serverKey q.pkg q.addr) a.bytes <;> rfl

theorem not_other_held (hh : q.own = true ∨ s.heldBack q = false) : ¬((!q.own && s.heldBack q) = true) := by
  rcases hh with h | h <;> simp [h]

section
variable (ht : s.turnedAway q = none)
include ht

/-- A request of another core that an earlier access or the buffer holds comes back (R292, R293). -/
theorem execServerRequest_held (ho : q.own = false) (hh : s.heldBack q = true) : execServerRequest q s = .next (s.after 1 (.serverRequest q)) := by
  rw [execServerRequest, ht]
  exact if_pos (by rw [ho, hh]; rfl)

theorem execWeighhouseAtomic_held (ho : q.own = false) (hh : s.heldBack q = true) : execWeighhouseAtomic q s = .next (s.after 1 (.weighhouseAtomic q)) := by
  rw [execWeighhouseAtomic, ht]
  exact if_pos (by rw [ho, hh]; rfl)

variable (hh : q.own = true ∨ s.heldBack q = false)
include hh

/-- Behind a lock on its granule a request waits at the server (R435). -/
theorem execServerRequest_locked (hl : ∃ l ∈ s.srv.locks, l.1 = reqGranule q) :
    execServerRequest q s = .next { s with srv := { s.srv with pending := s.srv.pending ++ [q] } } := by
  rw [execServerRequest, ht]
  dsimp only
  rw [if_neg (not_other_held hh), if_pos (by simpa using hl)]

theorem execServerRequest_serves (hl : ∀ l ∈ s.srv.locks, l.1 ≠ reqGranule q) : execServerRequest q s = .next (s.serve q) := by
  rw [execServerRequest, ht]
  dsimp only
  rw [if_neg (not_other_held hh), if_neg (ne_true_of_eq_false (List.any_eq_false.mpr fun l hm => by simpa using hl l hm))]

theorem execWeighhouseAtomic_takes : execWeighhouseAtomic q s = .next ((s.modWeigh fun l => l ++ [⟨q, .waiting⟩]).startWeigh q.pkg) := by
  rw [execWeighhouseAtomic, ht]
  exact if_neg (not_other_held hh)

end

theorem State.reqOf_of_core {u : State} (h : u.core = s.core) (id : Nat) : u.reqOf id = s.reqOf id := by rw [State.reqOf, h, State.reqOf]

/-- What a read of sound words leaves, and its answer. -/
theorem serve_read_results {n : Nat} (hop : q.op = .read n) (hb : s.srv.badIn (serverKey q.pkg q.addr) n = false) :
    (s.serve q).srv.mem = s.srv.mem ∧ (s.serve q).srv.bad = s.srv.bad ∧ (s.serve q).core.mem = s.core.mem ∧
      (q.own = false → Out.served q.id ((List.range n).map (s.readByte q)) none ∈ (s.serve q).env.out) ∧
      ∀ r, q.own = true → s.reqOf q.id = some r → r.kind = 0 → (s.serve q).Returns (.xldResponse q.id q.part ((List.range n).map (s.readByte q)) none) := by
  obtain ⟨u, hc, hv, he⟩ := serveRead_sound (s := s.serving q) (q := q) hb
  obtain ⟨hmem, hbad, hcore⟩ := u.answerRead_kept q ((List.range n).map (s.readByte q)) none
  rw [serve_of_read hop, he]
  have hreq := State.reqOf_of_core hc q.id
  exact ⟨hmem.trans (congrArg (·.mem) hv), hbad.trans (congrArg (·.bad) hv), hcore.trans (congrArg (·.mem) hc), fun ho => u.answerRead_other q _ _ ho,
    fun r ho hq hk => u.answerRead_load _ _ ho (hreq.trans hq) hk⟩

/-- What a write leaves, and its answer. -/
theorem serve_write_results {d : List Byte} (hop : q.op = .write d) :
    (s.serve q).core.mem = s.core.mem ∧
      (s.srv.badPart (serverKey q.pkg q.addr) d.length = false → (s.serve q).srv.mem = memPut s.srv.mem (serverKey q.pkg q.addr) d ∧
        (s.serve q).srv.bad = s.srv.bad.filter fun x => !(decide (serverKey q.pkg q.addr ≤ x) && decide (x + 8 ≤ serverKey q.pkg q.addr + d.length))) ∧
      (s.srv.badPart (serverKey q.pkg q.addr) d.length = true → (s.serve q).srv.mem = s.srv.mem ∧ (s.serve q).srv.bad = s.srv.bad) ∧
      (q.own = false → Out.servedWrite q.id q.part (s.srv.writeFail (serverKey q.pkg q.addr) d.length) ∈ (s.serve q).env.out) ∧
      ∀ r, q.own = true → s.reqOf q.id = some r → r.kind = 1 → (s.serve q).Returns (.serverAck q.id q.part (s.srv.writeFail (serverKey q.pkg q.addr) d.length)) := by
  have hserve := serve_of_write (s := s) hop
  generalize hu : (if s.srv.badPart (serverKey q.pkg q.addr) d.length then s.serving q else (s.serving q).putServers (serverKey q.pkg q.addr) d) = u at hserve
  have hc : u.core = s.core := by rw [← hu]; split <;> rfl
  have hreq := State.reqOf_of_core hc q.id
  obtain ⟨hsrv, hcore⟩ := u.answerWrite_kept q (s.srv.writeFail (serverKey q.pkg q.addr) d.length)
  rw [hserve, hsrv]
  refine ⟨hcore.trans (congrArg (·.mem) hc), fun hb => ?_, fun hb => ?_, fun ho => u.answerWrite_other q _ ho, fun r ho hq hk => u.answerWrite_ack _ ho (hreq.trans hq) hk⟩
  · rw [← hu, if_neg (ne_true_of_eq_false hb)]
    exact ⟨rfl, rfl⟩
  · rw [← hu, if_pos hb]
    exact ⟨rfl, rfl⟩

/-- What an atomic leaves, and its answer. -/
theorem serve_atomic_results {a : Atomic} {f : Option ServerFail} (hop : q.op = .atomic a) (hf : s.srv.atomicFail q.pkg (serverKey q.pkg q.addr) a = f) :
    (s.serve q).core.mem = s.core.mem ∧
      (f = none → (s.serve q).srv.mem = memPut s.srv.mem (serverKey q.pkg q.addr) (leBytes a.bytes (s.srv.atomicValue (serverKey q.pkg q.addr) a))) ∧
      (f ≠ none → (s.serve q).srv.mem = s.srv.mem) ∧
      (q.own = false → Out.servedAtomic q.id (if f = none then memNat s.srv.mem (serverKey q.pkg q.addr) a.bytes else 0) f ∈ (s.serve q).env.out) ∧
      ∀ r, q.own = true → s.reqOf q.id = some r →
        (r.kind = 3 → (s.serve q).Returns (.xatrResponse q.id (if f = none then memNat s.srv.mem (serverKey q.pkg q.addr) a.bytes else 0) f)) ∧
        (r.kind = 2 → (s.serve q).Returns (.serverAck q.id q.part f)) := by
  obtain ⟨u, hserve, hc, hsound, hfails⟩ : ∃ u : State, s.serve q = u.answerAtomic q (if f = none then memNat s.srv.mem (serverKey q.pkg q.addr) a.bytes else 0) f ∧ u.core = s.core ∧
      (f = none → u.srv.mem = memPut s.srv.mem (serverKey q.pkg q.addr) (leBytes a.bytes (s.srv.atomicValue (serverKey q.pkg q.addr) a))) ∧ (f ≠ none → u.srv.mem = s.srv.mem) := by
    rw [serve_of_atomic hop, hf]
    cases f with
    | none => exact ⟨_, rfl, rfl, fun _ => rfl, fun hn => absurd rfl hn⟩
    | some f => exact ⟨_, rfl, rfl, nofun, fun _ => rfl⟩
  obtain ⟨hsrv, hcore⟩ := u.answerAtomic_kept q (if f = none then memNat s.srv.mem (serverKey q.pkg q.addr) a.bytes else 0) f
  have hreq := State.reqOf_of_core hc q.id
  rw [hserve, hsrv]
  exact ⟨hcore.trans (congrArg (·.mem) hc), hsound, hfails, fun ho => u.answerAtomic_other q _ _ ho,
    fun r ho hq => ⟨fun hk => u.answerAtomic_xatr _ _ ho (hreq.trans hq) hk, fun hk => u.answerAtomic_ack _ _ ho (hreq.trans hq) hk⟩⟩

end

/-! ### The Weighhouse (R435, R436) -/

/-- Starting lock-reads leaves the atomics and their order. -/
theorem startWeigh_reqs (pkg n : Nat) (busy : List Nat) (l : List Weigh) : (startWeigh pkg n busy l).map (·.req) = l.map (·.req) := by
  induction l generalizing n busy with
  | nil => rfl
  | cons w l ih =>
    unfold startWeigh
    dsimp only
    repeat' split
    all_goals simp only [List.map_cons, ih]

/-- Starting lock-reads changes only the steps of the atomics. -/
theorem State.startWeigh_srv (s : State) (pkg : Nat) : ∃ l : List Weigh, l.map (·.req) = s.srv.weigh.map (·.req) ∧ (s.startWeigh pkg).srv = { s.srv with weigh := l } := by
  unfold State.startWeigh
  extract_lets live next s1
  refine ⟨next, startWeigh_reqs pkg _ _ _, ?_⟩
  split <;> rfl

theorem stepFirst_append_cons {p : WeighStep → Bool} {f : Weigh → Weigh} {l r : List Weigh} {w : Weigh} (hl : ∀ y ∈ l, p y.step = false) (hw : p w.step = true) :
    stepFirst p f (l ++ w :: r) = l ++ f w :: r := by
  induction l with
  | nil => exact if_pos hw
  | cons y l ih =>
    rw [List.forall_mem_cons] at hl
    rw [List.cons_append, stepFirst, if_neg (ne_true_of_eq_false hl.1), ih hl.2]
    rfl

section
variable {s : State} {w : Weigh} {a : Atomic} {l r : List Weigh} (hop : w.req.op = .atomic a) (hw : s.srv.weigh = l ++ w :: r)

theorem reqAtom_of_atomic {q : ServerReq} (hop : q.op = .atomic a) : reqAtom q = a := by rw [reqAtom, hop]

include hw in
/-- Whether a write-unlock may go is seen from the earlier atomics of its package. -/
theorem State.mayUnlock_iff : s.mayUnlock w = true ↔ ∀ y ∈ l.takeWhile (fun y => y != w), y.req.pkg = w.req.pkg → ∃ z ∈ s.srv.locks, z.1 = reqGranule y.req := by
  have hearlier : (l ++ w :: r).takeWhile (fun y => y != w) = l.takeWhile fun y => y != w := by
    rw [List.takeWhile_append]
    split
    case isTrue hlen => rw [List.takeWhile_cons, if_neg (by simp), List.append_nil, (List.takeWhile_prefix _).eq_of_length hlen]
    case isFalse => rfl
  rw [State.mayUnlock, hw, hearlier, List.all_eq_true]
  simp [imp_iff_not_or]

include hw in
/-- Taking the atomic out leaves the others. -/
theorem erase_writing (hl : ∀ y ∈ l, y.step.isWriting = false) (hs : w.step.isWriting = true) : s.srv.weigh.erase w = l ++ r := by
  have hn : w ∉ l := fun hm => Bool.false_ne_true ((hl w hm).symm.trans hs)
  rw [hw, List.erase_append_right _ hn, List.erase_cons_head]

include hop hw

/-- The lock-read locks its granule and returns its bytes. -/
theorem execServerLockRead_locks (hl : ∀ y ∈ l, y.step ≠ .locking) (hs : w.step = .locking) (hg : s.serverGone w.req.pkg w.req.addr = false)
    (hb : s.srv.badIn (serverKey w.req.pkg w.req.addr) a.bytes = false) :
    ∃ t, execServerLockRead s = .next t ∧
      t.srv.weigh = l ++ { w with step := .locked (memNat s.srv.mem (serverKey w.req.pkg w.req.addr) a.bytes) } :: r ∧
      t.srv.locks = (if s.srv.locks.any fun y => y.1 == reqGranule w.req then s.srv.locks else s.srv.locks ++ [(reqGranule w.req, w.req.id)]) ∧
      t.srv.mem = s.srv.mem ∧ Instr.weighhouseLockData ∈ t.env.agenda := by
  have hl' : ∀ y ∈ l, (y.step == .locking) = false := fun y hy => beq_false_of_ne (hl y hy)
  have hs' : (w.step == .locking) = true := beq_iff_eq.mpr hs
  have hf : (s.srv.weigh.find? fun w => w.step == .locking) = some w := List.find?_eq_some_iff_append.mpr ⟨hs', l, r, hw, fun y hy => by rw [hl' y hy]; rfl⟩
  rw [← reqAtom_of_atomic hop] at hb ⊢
  rw [execServerLockRead, hf]
  refine ⟨_, (if_neg (ne_true_of_eq_false hg)).trans (if_neg (ne_true_of_eq_false hb)), ?_, rfl, rfl, List.mem_append_right _ (List.mem_singleton_self _)⟩
  exact (congrArg (stepFirst _ _) hw).trans (stepFirst_append_cons hl' hs')

/-- The Weighhouse computes the new value. -/
theorem execWeighhouseLockData_computes {old : Nat} (hl : ∀ y ∈ l, y.step.isLocked = false) (hs : w.step = .locked old) :
    ∃ t, execWeighhouseLockData s = .next t ∧ t.srv.weigh = l ++ { w with step := .writing old (atomicNew a.op a.bytes old a.val a.cmp) } :: r ∧
      t.srv.mem = s.srv.mem ∧ Instr.serverWriteUnlock ∈ t.env.agenda := by
  have hs' : w.step.isLocked = true := by rw [hs]; rfl
  have hf : (s.srv.weigh.find? fun w => w.step.isLocked) = some w := List.find?_eq_some_iff_append.mpr ⟨hs', l, r, hw, fun y hy => by rw [hl y hy]; rfl⟩
  rw [execWeighhouseLockData, hf]
  refine ⟨_, rfl, ?_, rfl, List.mem_append_right _ (List.mem_singleton_self _)⟩
  refine (congrArg (stepFirst _ _) hw).trans ((stepFirst_append_cons hl hs').trans ?_)
  rw [hs, reqAtom_of_atomic hop]

end

/-- Some atomic of a list is at a granule. -/
theorem any_granule_eq (l : List Weigh) (g : Nat) : (l.any fun x => reqGranule x.req == g) = ((l.map (·.req)).any fun q => reqGranule q == g) := by
  rw [List.any_map]
  rfl

section
variable {s : State} {w : Weigh}

/-- An atomic that leaves with no other at its granule leaves it unlocked; what waited there is served, here nothing (R435). -/
theorem weighEnd_frees (hp : ∀ q ∈ s.srv.pending, reqGranule q ≠ reqGranule w.req) (ho : ∀ y ∈ s.srv.weigh.erase w, reqGranule y.req ≠ reqGranule w.req) :
    (s.weighEnd w).srv.mem = s.srv.mem ∧ ∀ y ∈ (s.weighEnd w).srv.locks, y.1 ≠ reqGranule w.req := by
  obtain ⟨l, hreqs, hsrv⟩ := (s.modWeigh fun l => l.erase w).startWeigh_srv w.req.pkg
  unfold State.weighEnd
  extract_lets g s1
  change s1.srv = _ at hsrv
  clear_value s1
  have hany : (s1.srv.weigh.any fun x => reqGranule x.req == g) = false := by
    rw [hsrv, any_granule_eq, hreqs, ← any_granule_eq]
    exact List.any_eq_false.mpr fun y hy => by simpa using ho y hy
  have hpend : s1.srv.pending.filter (fun q => reqGranule q == g) = [] := by
    rw [hsrv]
    exact List.filter_eq_nil_iff.mpr fun q hq => by simpa using hp q hq
  rw [hany, if_neg Bool.false_ne_true, hpend]
  refine ⟨congrArg (·.mem) hsrv, fun y hy => ?_⟩
  simpa using (List.mem_filter.mp hy).2

/-- An atomic that leaves while another waits for its granule leaves it locked (R436). -/
theorem weighEnd_keeps (ho : ∃ y ∈ s.srv.weigh.erase w, reqGranule y.req = reqGranule w.req) :
    (s.weighEnd w).srv.mem = s.srv.mem ∧ ((∃ y ∈ s.srv.locks, y.1 = reqGranule w.req) → ∃ y ∈ (s.weighEnd w).srv.locks, y.1 = reqGranule w.req) := by
  obtain ⟨l, hreqs, hsrv⟩ := (s.modWeigh fun l => l.erase w).startWeigh_srv w.req.pkg
  unfold State.weighEnd
  extract_lets g s1
  change s1.srv = _ at hsrv
  clear_value s1
  have hany : (s1.srv.weigh.any fun x => reqGranule x.req == g) = true := by
    rw [hsrv, any_granule_eq, hreqs, ← any_granule_eq]
    exact List.any_eq_true.mpr (ho.imp fun y hy => hy.imp_right beq_iff_eq.mpr)
  have hlocks : s1.srv.locks = s.srv.locks := congrArg (·.locks) hsrv
  rw [hany, if_pos rfl]
  refine ⟨congrArg (·.mem) hsrv, fun ⟨y, hy, hg⟩ => ⟨_, List.mem_map_of_mem (hlocks ▸ hy), ?_⟩⟩
  rw [if_pos hg]

/-- The write-unlock writes the new value, answers the requester and takes the atomic out. -/
theorem execServerWriteUnlock_eq {a : Atomic} {l r : List Weigh} {old new : Nat} (hop : w.req.op = .atomic a) (hw : s.srv.weigh = l ++ w :: r) (hl : ∀ y ∈ l, y.step.isWriting = false)
    (hs : w.step = .writing old new) (hm : s.mayUnlock w = true) :
    execServerWriteUnlock s = .next (((s.putServers (serverKey w.req.pkg w.req.addr) (leBytes a.bytes new)).answerAtomic w.req old none).weighEnd w) := by
  have hf : (s.srv.weigh.find? fun w => w.step.isWriting && s.mayUnlock w) = some w :=
    List.find?_eq_some_iff_append.mpr ⟨by rw [hs, hm]; rfl, l, r, hw, fun y hy => by rw [hl y hy]; rfl⟩
  rw [execServerWriteUnlock, hf, ← reqAtom_of_atomic hop]
  dsimp only
  rw [hs]
  rfl

/-- What the write-unlock leaves of the memory and of the locks. -/
theorem execServerWriteUnlock_results {a : Atomic} {l r : List Weigh} {old new : Nat} (hop : w.req.op = .atomic a) (hw : s.srv.weigh = l ++ w :: r) (hl : ∀ y ∈ l, y.step.isWriting = false)
    (hs : w.step = .writing old new) (hm : s.mayUnlock w = true) (hp : ∀ q ∈ s.srv.pending, reqGranule q ≠ reqGranule w.req) :
    ∃ t, execServerWriteUnlock s = .next t ∧ t.srv.mem = memPut s.srv.mem (serverKey w.req.pkg w.req.addr) (leBytes a.bytes new) ∧
      ((∀ y ∈ l ++ r, reqGranule y.req ≠ reqGranule w.req) → ∀ y ∈ t.srv.locks, y.1 ≠ reqGranule w.req) ∧
      ((∃ y ∈ l ++ r, reqGranule y.req = reqGranule w.req) → (∃ y ∈ s.srv.locks, y.1 = reqGranule w.req) → ∃ y ∈ t.srv.locks, y.1 = reqGranule w.req) := by
  obtain ⟨hsrv, -⟩ := (s.putServers (serverKey w.req.pkg w.req.addr) (leBytes a.bytes new)).answerAtomic_kept w.req old none
  refine ⟨_, execServerWriteUnlock_eq hop hw hl hs hm, ?_⟩
  generalize State.answerAtomic _ w.req old none = u at hsrv
  have hmem : u.srv.mem = memPut s.srv.mem (serverKey w.req.pkg w.req.addr) (leBytes a.bytes new) := congrArg (·.mem) hsrv
  have hlocks : u.srv.locks = s.srv.locks := congrArg (·.locks) hsrv
  have hrest : u.srv.weigh.erase w = l ++ r := (congrArg (·.weigh.erase w) hsrv).trans (erase_writing hw hl (by rw [hs]; rfl))
  have hpend : ∀ q ∈ u.srv.pending, reqGranule q ≠ reqGranule w.req := (congrArg (·.pending) hsrv : u.srv.pending = s.srv.pending) ▸ hp
  by_cases ho : ∃ y ∈ l ++ r, reqGranule y.req = reqGranule w.req
  · obtain ⟨hm', hk⟩ := weighEnd_keeps (hrest ▸ ho)
    exact ⟨hm'.trans hmem, fun hn => absurd ho fun ⟨y, hy, he⟩ => hn y hy he, fun _ hlk => hk (hlocks ▸ hlk)⟩
  · have hn : ∀ y ∈ l ++ r, reqGranule y.req ≠ reqGranule w.req := fun y hy he => ho ⟨y, hy, he⟩
    obtain ⟨hm', hk⟩ := weighEnd_frees hpend (hrest ▸ hn)
    exact ⟨hm'.trans hmem, fun _ => hk, fun hy => absurd hy ho⟩

end

/-- A scrub corrects and counts every flipped bit (R431). -/
theorem execScrub_results (s : State) :
    ∃ t, execScrub s = .next t ∧ t.srv.mem = s.srv.mem ∧ t.core = s.core ∧ t.res = s.res ∧ t.srv.soft = [] ∧ t.srv.corrected = s.srv.corrected + s.srv.soft.length := by
  refine ⟨_, rfl, rfl, rfl, rfl, List.filter_eq_nil_iff.mpr fun _ _ => by simp, ?_⟩
  simp [Servers.correct]

/-- What a server answers to a read lists its bytes in order. -/
theorem getD_map_readByte (s : State) (q : ServerReq) {n i : Nat} (hi : i < n) : ((List.range n).map (s.readByte q)).getD i 0 = s.readByte q i := by
  simp [hi]

/-- Settles O42: each way that a request can go has its equation, and the Weighhouse's steps act on the first atomic that stands there. -/
theorem serverResults : Obligations.ServerResults := by
  refine ⟨fun s q => ⟨fun f hf => ?away, fun ht => ⟨fun ho hh => ⟨execServerRequest_held ht ho hh, execWeighhouseAtomic_held ht ho hh⟩,
      fun hh => ⟨fun hl => execServerRequest_locked ht hh hl, fun hl => ⟨fun n hop hb => ?read, fun d hop => ?write, fun a hop => ?atomic⟩, ?takes⟩⟩⟩,
    fun s w a l r hop hw => ⟨fun hl hs hg hb => ?lockRead, fun old hl hs => execWeighhouseLockData_computes hop hw hl hs,
      fun old new hl hs hm hp => execServerWriteUnlock_results hop hw hl hs hm hp, State.mayUnlock_iff hw, execScrub_results s⟩⟩
  case away =>
    refine ⟨s.serveFail q f, ?_, s.serveFail_results q f⟩
    show execServerRequest q s = _
    rw [execServerRequest, hf]
  case read =>
    obtain ⟨hmem, hbad, hcore, hother, hown⟩ := serve_read_results hop hb
    exact ⟨_, _, execServerRequest_serves ht hh hl, hmem, hbad, hcore, by simp, hother, hown, fun i hi => getD_map_readByte s q hi⟩
  case write => exact ⟨_, execServerRequest_serves ht hh hl, serve_write_results hop⟩
  case atomic =>
    obtain ⟨hcore, hsound, hfails, hother, hown⟩ := serve_atomic_results (s := s) hop rfl
    refine ⟨_, execServerRequest_serves ht hh hl, hcore, hsound, hfails, fun ⟨hn, hr⟩ => ?_, hother, hown⟩
    exact if_pos (by rw [hn, hr]; rfl)
  case takes =>
    obtain ⟨l, hreqs, hsrv⟩ := (s.modWeigh fun l => l ++ [⟨q, .waiting⟩]).startWeigh_srv q.pkg
    refine ⟨_, execWeighhouseAtomic_takes ht hh, ?_, congrArg (·.mem) hsrv⟩
    rw [hsrv]
    exact hreqs.trans List.map_append
  case lockRead =>
    obtain ⟨t, he, hweigh, hlocks, hmem, hagenda⟩ := execServerLockRead_locks hop hw hl hs hg hb
    refine ⟨t, he, hweigh, ?_, fun hn => ?_, hmem, hagenda⟩
    · rw [hlocks]
      split
      case isTrue hany => simpa using hany
      case isFalse => exact ⟨_, List.mem_append_right _ (List.mem_singleton_self _), rfl⟩
    · rw [hlocks, if_neg (ne_true_of_eq_false (List.any_eq_false.mpr fun y hy => by simpa using hn y hy))]

end Sys2Proof.Machine
end

section
/-!
PROOF. Integer arithmetic, logic and fields, pointers and distribution (O15, O16, O18): each instruction is one result of its operands, and the number readings of its operands are operations on bit vectors.
-/

namespace Sys2Proof.Machine

open Sys2Proof

/-! ### Operations at the width of an IW field (R135) -/

section
variable {h : AHdr} {s : State} (hf : s.freeA h 1 = true)
include hf

/-- A binary integer operation writes the operation on bit vectors that it is at both widths. -/
theorem opInt_wrote (d a b : BitVec 5) (x : Bool) (w : BitVec 3) (n : Nat) {f : Nat → Word → Word → Int} {g : Word → Word → Word} {k : BitVec 32 → BitVec 32 → BitVec 32}
    (h64 : ∀ u v, BitVec.ofInt 64 (f 64 u v) = g u v) (h32 : ∀ u v, BitVec.ofInt 32 (f 32 u v) = k (u.truncate 32) (v.truncate 32)) :
    runOne (opInt h d a b x w n f) s = .next (s.wrote (.s (regOf h.s d)) (atWidth w g k (s.opA h.s a) (s.opB h.s b x)) n) := by
  rw [← at_eq w f g k _ _ (h64 _ _) (h32 _ _)]
  exact opAlu_wrote h d n _ s hf

/-- A count of bits writes a number, which is at most its width (R136). -/
theorem opInt1_wrote (d a : BitVec 5) (w : BitVec 3) {f : Nat → Word → Nat} {m : Nat} (hle : f 32 (s.opA h.s a) ≤ 32)
    (hm : f (iwBits w) (s.opA h.s a) = m) : runOne (opInt1 h d a w fun n u => f n u) s = .next (s.wrote (.s (regOf h.s d)) (BitVec.ofNat 64 m) 1) := by
  have hv : widen (iwBits w) (f (iwBits w) (s.opA h.s a)) = BitVec.ofNat 64 m := by
    rw [← hm, iwBits]
    split
    · rw [widen_64, BitVec.ofInt_natCast]
    · rw [widen_32, small32 _ hle]
  rw [← hv]
  exact opAlu_wrote h d 1 _ s hf

/-- A shift by an immediate writes the shift on bit vectors that it is at both widths (R117). -/
theorem opShiftImm_wrote (d a : BitVec 5) (w : Bool) (sh : BitVec 6) {f : Nat → Word → Nat → Int} {g : Word → Nat → Word} {k : BitVec 32 → Nat → BitVec 32}
    (h64 : ∀ u n, BitVec.ofInt 64 (f 64 u n) = g u n) (h32 : ∀ u n, BitVec.ofInt 32 (f 32 u n) = k (u.truncate 32) n) :
    runOne (opShiftImm h d a w sh f) s = .next (s.wrote (.s (regOf h.s d))
      (if w then (k ((s.opA h.s a).truncate 32) sh.toNat).signExtend 64 else g (s.opA h.s a) sh.toNat) 1) := by
  have hv : widen (if w then 32 else 64) (f (if w then 32 else 64) (s.opA h.s a) sh.toNat) =
      if w then (k ((s.opA h.s a).truncate 32) sh.toNat).signExtend 64 else g (s.opA h.s a) sh.toNat := by
    cases w
    · exact (widen_64 _).trans (h64 _ _)
    · exact (widen_32 _).trans (congrArg _ (h32 _ _))
  rw [← hv]
  exact opAlu_wrote h d 1 _ s hf

end

/-! ### Integer arithmetic (R136, R137) -/

theorem ofInt_toInt_sub {n : Nat} (p q : BitVec n) : BitVec.ofInt n (p.toInt - q.toInt) = p - q := by
  apply BitVec.eq_of_toInt_eq; simp

theorem ofInt_toInt_mul {n : Nat} (p q : BitVec n) : BitVec.ofInt n (p.toInt * q.toInt) = p * q := by
  rw [BitVec.ofInt_mul, BitVec.ofInt_toInt, BitVec.ofInt_toInt]

/-- Settles O15: each operation on the operands' numbers is that operation on bit vectors, the corners of division included. -/
theorem integerArithmeticResults : Obligations.IntegerArithmeticResults := by
  refine ⟨fun h d a b x w imm s hf => ⟨?add, ?sub, ?addi, ?mul, ?mulh, ?mulhu⟩, fun h d a b x w s hf => ⟨?div, ?divu, ?rem, ?remu⟩⟩
  case add => exact opInt_wrote hf d a b x w 1 (fun u v => by rw [sval_64, sval_64, ofInt_toInt_add]) fun u v => by rw [sval_32, sval_32, ofInt_toInt_add]
  case sub => exact opInt_wrote hf d a b x w 1 (fun u v => by rw [sval_64, sval_64, ofInt_toInt_sub]) fun u v => by rw [sval_32, sval_32, ofInt_toInt_sub]
  case addi => exact opAlu_wrote h d 1 _ s hf
  case mul => exact opInt_wrote hf d a b x w 3 (fun u v => by rw [sval_64, sval_64, ofInt_toInt_mul]) fun u v => by rw [sval_32, sval_32, ofInt_toInt_mul]
  case mulh => rw [← mulh_eq]; exact opAlu_wrote h d 3 _ s hf
  case mulhu => rw [← mulhu_eq]; exact opAlu_wrote h d 3 _ s hf
  case div => exact opInt_wrote hf d a b x w 18 (fun u v => by rw [sval_64, sval_64, div_eq]) fun u v => by rw [sval_32, sval_32, div_eq]
  case divu => exact opInt_wrote hf d a b x w 18 (fun u v => by rw [uval_64, uval_64, divu_eq]) fun u v => by rw [uval_32, uval_32, divu_eq]
  case rem => exact opInt_wrote hf d a b x w 18 (fun u v => by rw [sval_64, sval_64, rem_eq]) fun u v => by rw [sval_32, sval_32, rem_eq]
  case remu => exact opInt_wrote hf d a b x w 18 (fun u v => by rw [uval_64, uval_64, remu_eq]) fun u v => by rw [uval_32, uval_32, remu_eq]

/-! ### Shifts, counts and bit fields (R136, R138) -/

/-- The low half of a word gives a 32-bit shift the same amount. -/
theorem toNat_truncate_mod_32 (v : Word) : (v.truncate 32 : BitVec 32).toNat % 32 = v.toNat % 32 := by
  rw [BitVec.truncate, BitVec.toNat_setWidth, Nat.mod_mod_of_dvd _ (by decide)]

theorem rotateLeft_mod {n : Nat} (hn : 0 < n) (p q : BitVec n) (k : Nat) (hk : k = q.toNat % n) :
    BitVec.ofInt n ((p.toNat * 2 ^ k + p.toNat / 2 ^ (n - k) : Nat) : Int) = p.rotateLeft (q.toNat % n) := by
  rw [hk, rol_nat n _ (Nat.mod_lt _ hn)]

theorem popOf_uval {n : Nat} (u : Word) : popOf n (uval n u) = (List.range n).countP fun j => u.getLsbD j := by
  rw [popOf_eq]
  refine List.countP_congr fun j hj => ?_
  rw [uval, Nat.testBit_mod_two_pow, decide_eq_true (List.mem_range.mp hj), Bool.true_and, BitVec.getLsbD]

/-- Settles O16: shifts, counts, minima and maxima are their bit-vector operations at either width, and the fields of R138 are read bit by bit. -/
theorem logicAndFieldResults : Obligations.LogicAndFieldResults := by
  refine ⟨fun h d a b x w k sh s hf => ⟨?and, ?or, ?xor, ?andn, ?shl, ?shr, ?sar, ?rol, ?shli, ?shri, ?sari⟩,
    fun h d a b x w p s hf => ⟨?clz, ?ctz, ?popc, ?bfx, ?bfi, ?min, ?max, ?minu, ?maxu, ?sel, ?mov⟩⟩
  case and | or | xor | andn | sel | mov => exact opAlu_wrote h d 1 _ s hf
  case shl => exact opInt_wrote hf d a b x w 1 (fun u v => shl_eq64 u _) fun u v => by rw [shl_eq32, shiftBy, toNat_truncate_mod_32]
  case shr => exact opInt_wrote hf d a b x w 1 (fun u v => shr_eq64 u _) fun u v => by rw [shr_eq32, shiftBy, toNat_truncate_mod_32]
  case sar => exact opInt_wrote hf d a b x w 1 (fun u v => sar_eq64 u _) fun u v => by rw [sar_eq32, shiftBy, toNat_truncate_mod_32]
  case rol =>
    exact opInt_wrote hf d a b x w 1 (fun u v => by rw [rolOf, uval_64]; exact rotateLeft_mod (by decide) u v _ rfl)
      fun u v => by rw [rolOf, uval_32]; exact rotateLeft_mod (by decide) _ _ _ (toNat_truncate_mod_32 v).symm
  case shli => exact opShiftImm_wrote hf d a k sh shl_eq64 shl_eq32
  case shri => exact opShiftImm_wrote hf d a k sh shr_eq64 shr_eq32
  case sari => exact opShiftImm_wrote hf d a k sh sar_eq64 sar_eq32
  case clz =>
    refine opInt1_wrote (f := fun n u => clzOf n (uval n u)) hf d a w (clzOf_le _ _) ?_
    rw [iwBits]
    split
    · rw [uval_64, clz_eq 64 (by decide)]
    · rw [uval_32, clz_eq 32 (by decide)]
  case ctz =>
    refine opInt1_wrote (f := fun n u => ctzOf n (uval n u)) hf d a w (ctzOf_le _ _) ?_
    rw [iwBits]
    split
    · rw [uval_64, ctz_eq 64 (by decide)]
    · rw [uval_32, ctz_eq 32 (by decide)]
  case popc => exact opInt1_wrote (f := fun n u => popOf n (uval n u)) hf d a w (popOf_le _ _) (popOf_uval _)
  case bfx => exact ⟨_, opAlu_wrote h d 1 _ s hf, fun j hj => bfx_bits _ _ j hj⟩
  case bfi => exact ⟨_, opAlu_wrote h d 1 _ s hf, fun j hj => bfi_bits _ _ _ j hj⟩
  case min => exact opInt_wrote hf d a b x w 1 (fun u v => by rw [sval_64, sval_64, min_eq]) fun u v => by rw [sval_32, sval_32, min_eq]
  case max => exact opInt_wrote hf d a b x w 1 (fun u v => by rw [sval_64, sval_64, max_eq]) fun u v => by rw [sval_32, sval_32, max_eq]
  case minu => exact opInt_wrote hf d a b x w 1 (fun u v => by rw [uval_64, uval_64, minu_eq]) fun u v => by rw [uval_32, uval_32, minu_eq]
  case maxu => exact opInt_wrote hf d a b x w 1 (fun u v => by rw [uval_64, uval_64, maxu_eq]) fun u v => by rw [uval_32, uval_32, maxu_eq]

/-! ### Pointers and distribution (R144, R145, R147) -/

theorem ofInt_toInt_48 (v : Word) : BitVec.ofInt 48 v.toInt = v.truncate 48 := by
  apply BitVec.eq_of_toNat_eq
  rw [BitVec.toNat_ofInt, BitVec.truncate, BitVec.toNat_setWidth, BitVec.toInt_eq_toNat_cond]
  have := v.isLt
  split <;> omega

theorem ptrFmt_eq (u : Word) : ptrFmt u = u.toNat / 2 ^ 59 := by
  have := u.isLt
  rw [ptrFmt, field, Nat.shiftRight_eq_div_pow]
  omega

/-- The fields of a pointer, as PFLD writes them (R145). -/
theorem pfldOf_eq (f : BitVec 2) (u : Word) : BitVec.ofNat 64 (pfldOf f u) =
    if f = 0 then u >>> 59 else if f = 1 then (u >>> 56) &&& 7 else if f = 2 then (u >>> 48) &&& 0xFF else u &&& 0xFFFFFFFFFFFF := by
  have hand (n : Nat) (x : Word) (m : Word) (hm : m.toNat = 2 ^ n - 1) : BitVec.ofNat 64 (x.toNat % 2 ^ n) = x &&& m := by
    apply BitVec.eq_of_toNat_eq
    rw [BitVec.toNat_and, hm, Nat.and_two_pow_sub_one_eq_mod, BitVec.toNat_ofNat]
    exact Nat.mod_eq_of_lt ((Nat.mod_le _ _).trans_lt x.isLt)
  have hfield (lo n : Nat) (m : Word) (hm : m.toNat = 2 ^ n - 1) : BitVec.ofNat 64 (field u lo n) = (u >>> lo) &&& m := by
    rw [← hand n (u >>> lo) m hm, field, BitVec.toNat_ushiftRight]
  have hfmt : BitVec.ofNat 64 (ptrFmt u) = u >>> 59 := by
    rw [ptrFmt_eq, ← Nat.shiftRight_eq_div_pow, ← BitVec.toNat_ushiftRight, BitVec.ofNat_toNat, BitVec.setWidth_eq]
  have hoff := hfield 0 48 0xFFFFFFFFFFFF rfl
  rw [BitVec.ushiftRight_zero] at hoff
  obtain rfl | rfl | rfl | rfl : f = 0 ∨ f = 1 ∨ f = 2 ∨ f = 3 := by revert f; decide
  · exact hfmt
  · exact hfield 56 3 7 rfl
  · exact hfield 48 8 0xFF rfl
  · exact hoff

theorem opDist_wrote {h : AHdr} {s : State} (hf : s.freeA h 1 = true) (d a b : BitVec 5) (x : Bool) (n : BitVec 2) (f : Nat × Nat → Word → Word) :
    runOne (opDist h d a b x n f) s = .next (s.wrote (.s (regOf h.s d)) (f (distOf (s.begun.r.dtReg n) (s.opA h.s a)) (s.opB h.s b x)) 3) :=
  opA_issued h [.s (regOf h.s d)] _ s hf

/-- The sums over the four dimensions of a distribution table (R147). -/
theorem distOf_eq (dt : Nat → Word) (u : Word) : distOf dt u =
    ((distDim (dt 0) (field u 0 16)).1 + (distDim (dt 1) (field u 16 16)).1 + (distDim (dt 2) (field u 32 16)).1 + (distDim (dt 3) (field u 48 16)).1,
     (distDim (dt 0) (field u 0 16)).2 + (distDim (dt 1) (field u 16 16)).2 + (distDim (dt 2) (field u 32 16)).2 + (distDim (dt 3) (field u 48 16)).2) := by
  simp [distOf, List.range_succ, Nat.add_assoc]

/-- Settles O18: pointer steps change the offset alone, and a distribution is the sum over its four dimensions. -/
theorem pointerAndDistributionResults : Obligations.PointerAndDistributionResults := by
  intro h d a b x i f n s hf
  refine ⟨?addp, ?addpE, ?pfmt, ?pfld, ?core, ?off⟩
  case addp => rw [← ofInt_toInt_48, ← ptrAdd_eq]; exact opAlu_wrote h d 1 _ s hf
  case addpE => rw [← ptrFmt_eq, ← ptrAdd_eq]; exact opAlu_wrote h d 1 _ s hf
  case pfmt => exact opAlu_wrote h d 1 _ s hf
  case pfld => rw [← pfldOf_eq]; exact opAlu_wrote h d 1 _ s hf
  case core => exact (opDist_wrote hf d a b x n _).trans (by rw [distOf_eq]; rfl)
  case off => exact (opDist_wrote hf d a b x n _).trans (by rw [ptrAdd_eq, BitVec.ofInt_natCast, distOf_eq]; rfl)

end Sys2Proof.Machine
end

section
/-!
PROOF. Loops (O25, O26): what LOOP and LOOPX do, the transfers that raise ILLEGAL_OPERAND, and the order in which the loop unit runs a nest.
-/

namespace Sys2Proof.Machine

open Sys2Proof

/-! ### LOOP and LOOPX, and the transfers that a loop forbids (R153, R159, R161, R162) -/

theorem illegalIf_true {b : Bool} (hb : b = true) (n : Nat) (v : Word) : illegalIf b n v = some (issueTrap Cause.illegalOperand n v) := if_pos hb

section
variable {h : CHdr} {s : State}

/-- The loop that LOOP sets up, active or not. -/
def State.loopSet (s : State) (k : BitVec 3) (cnt : BitVec 5) (act : Bool) : State :=
  s.begun.modC fun c => { c with loop := ⟨s.begun.r.nest k, Vector.replicate 6 0, c.streamBase (s.begun.r.nest k), s.begun.pairAfter, cnt, act, 0⟩ }

theorem State.loopSet_looping (s : State) (k : BitVec 3) (cnt : BitVec 5) (act : Bool) : (s.loopSet k cnt act).c.looping = act := by
  rw [State.loopSet, State.modC_c]
  rfl

/-- LOOP goes on at the next bundle where no bound is 0 (R159). -/
theorem execLoop_runs (hf : s.freeC h 0 = true) (hl : s.c.looping = false) (k : BitVec 3) (cnt : BitVec 5) (hz : (s.begun.r.nest k).zero = false) :
    exec (.loop h k cnt) s = .next (s.ended (s.loopSet k cnt true) none) := by
  have heff : (opLoop h k cnt).eff s.begun = s.loopSet k cnt (!(s.begun.r.nest k).zero) := rfl
  have hnext : (opLoop h k cnt).next (s.loopSet k cnt true) = none := if_pos (s.loopSet_looping k cnt true)
  rw [execLoop_free hf hl, heff, hz, Bool.not_false, hnext]

/-- It skips the body where one is (R159). -/
theorem execLoop_skips (hf : s.freeC h 0 = true) (hl : s.c.looping = false) (k : BitVec 3) (cnt : BitVec 5) (hz : (s.begun.r.nest k).zero = true) :
    exec (.loop h k cnt) s = .next (s.ended (s.loopSet k cnt false) (some ((s.loopSet k cnt false).skipBundles (cnt.toNat + 1) (s.loopSet k cnt false).pairAfter))) := by
  have heff : (opLoop h k cnt).eff s.begun = s.loopSet k cnt (!(s.begun.r.nest k).zero) := rfl
  have hnext : (opLoop h k cnt).next (s.loopSet k cnt false) = some ((s.loopSet k cnt false).skipBundles (cnt.toNat + 1) (s.loopSet k cnt false).pairAfter) :=
    if_neg (ne_true_of_eq_false (s.loopSet_looping k cnt false))
  rw [execLoop_free hf hl, heff, hz, Bool.not_true, hnext]

/-- An instruction of slot K whose check fails raises ILLEGAL_OPERAND. -/
theorem runOne_illegal {o : Op} {v : Word} (hf : s.freeC h 1 = true) (hn : o.neg = h.n) (hg : o.guard = cGuard h)
    (hc : o.check (o.slot.num 0) s.seen = some (issueTrap Cause.illegalOperand 0 v)) : runOne o s = .next (s.takeTrap (issueTrap Cause.illegalOperand 0 v)) :=
  runOne_trap_free o s h.n (cGuard h) 1 _ hf hn hg hc

section
variable (hf : s.freeC h 1 = true) (hl : s.c.looping = true)
include hf hl

/-- A transfer, with or without a link, is refused inside a loop. -/
theorem runOne_opJump_looping (ra : State → Word) (t : State → Pair) :
    runOne (opJump h ra t) s = .next (s.takeTrap (issueTrap Cause.illegalOperand 0 (ra s.seen))) ∧
    runOne (withLink (opJump h ra t)) s = .next (s.takeTrap (issueTrap Cause.illegalOperand 0 (ra s.seen))) :=
  ⟨runOne_illegal hf rfl rfl (illegalIf_true (s.seen_looping.trans hl) 0 _), runOne_illegal hf rfl rfl (illegalIf_true (s.seen_looping.trans hl) 0 _)⟩

theorem execJtab_looping {a b : BitVec 5} {len : BitVec 16} (hi : (s.seen.c.reg h.s b).toNat < len.toNat) :
    exec (.jtab h a b len) s = .next (s.takeTrap (issueTrap Cause.illegalOperand 0 (s.seen.c.reg h.s a))) := by
  refine runOne_illegal (o := opJtab h a b len) hf rfl rfl ?_
  have hin : jtabIn h b len s.seen = true := decide_eq_true hi
  show (if jtabIn h b len s.seen then illegalIf s.seen.c.looping 0 (s.seen.c.reg h.s a) <|> _ else none) = _
  rw [if_pos hin, illegalIf_true (s.seen_looping.trans hl)]
  rfl

theorem execLoop_looping (k : BitVec 3) (cnt : BitVec 5) : exec (.loop h k cnt) s = .next (s.takeTrap (issueTrap Cause.illegalOperand 0 0)) :=
  runOne_illegal (o := opLoop h k cnt) hf rfl rfl (illegalIf_true (s.seen_looping.trans hl) 0 0)

end

theorem execLoopx_outside (hf : s.freeC h 1 = true) (hl : s.c.looping = false) (o : BitVec 16) :
    exec (.loopx h o) s = .next (s.takeTrap (issueTrap Cause.illegalOperand 0 0)) :=
  runOne_illegal (o := opLoopx h o) hf rfl rfl (illegalIf_true (congrArg (!·) (s.seen_looping.trans hl)) 0 0)

end

/-- Settles O25: LOOP and LOOPX from the lemmas on their issue, and each forbidden form from its first check. -/
theorem loopResults : Obligations.LoopResults := by
  refine ⟨fun h o k cnt s hf => ⟨fun hl => ⟨fun hb => ?runs, fun hb => ?skips⟩, fun hl => ?ends⟩,
    fun h o len a b i k cnt s hf => ⟨fun hl => ⟨?br, ?bri, ?call, ?calli, ?ret, fun hi => ?jtab, ?loop⟩, fun hl => ?loopx⟩⟩
  case runs => exact execLoop_runs hf hl k cnt ((Nest.zero_eq_false_iff _).mpr hb)
  case skips => exact execLoop_skips hf hl k cnt ((Nest.zero_eq_true_iff _).mpr hb)
  case ends => exact execLoopx_free hf hl o
  case br | bri | ret => exact (runOne_opJump_looping hf hl _ _).1
  case call | calli => exact (runOne_opJump_looping hf hl _ _).2
  case jtab => exact execJtab_looping hf hl hi
  case loop => exact execLoop_looping hf hl k cnt
  case loopx => exact execLoopx_outside hf hl o

/-! ### The order of a nest (R160) -/

/-- The dimension that a step looks at when `k` are left after it. -/
def nestDim (k : Nat) : Fin 6 := ⟨(5 - k) % 6, Nat.mod_lt _ (by decide)⟩

/-- The dimensions that a step still has to look at when `k` are left: the last `k`, the innermost first. -/
def nestDims : Nat → List (Fin 6)
  | 0 => []
  | k + 1 => nestDim k :: nestDims k

/-- The place of an index among those of the given dimensions, and the number of places. -/
def rankOn (n : Nest) (i : Vector (BitVec 16) 6) (l : List (Fin 6)) : Nat := l.foldr (fun d r => (i.get d).toNat + (n.bound.get d).toNat * r) 0
def passesOn (n : Nest) (l : List (Fin 6)) : Nat := l.foldr (fun d r => (n.bound.get d).toNat * r) 1

theorem nestDims_six : nestDims 6 = List.finRange 6 := by decide

theorem nestDims_ge {k : Nat} (hk : k ≤ 6) {d : Fin 6} (hd : d ∈ nestDims k) : 6 - k ≤ d.val := by
  induction k with
  | zero => cases hd
  | succ k ih =>
    rcases List.mem_cons.mp hd with rfl | hd
    · simp only [nestDim]
      omega
    · have := ih (Nat.le_of_succ_le hk) hd
      omega

/-- The dimension looked at is none of those that are left after it. -/
theorem nestDims_fresh {k : Nat} (hk : k < 6) : nestDim k ∉ nestDims k := fun hd => by
  have := nestDims_ge (Nat.le_of_lt hk) hd
  simp only [nestDim] at this
  omega

theorem rankOn_congr (n : Nest) {i j : Vector (BitVec 16) 6} {l : List (Fin 6)} (h : ∀ d ∈ l, i.get d = j.get d) : rankOn n i l = rankOn n j l := by
  induction l with
  | nil => rfl
  | cons d l ih =>
    obtain ⟨hd, hl⟩ := List.forall_mem_cons.mp h
    exact congrArg₂ (fun x r => BitVec.toNat x + (n.bound.get d).toNat * r) hd (ih hl)

/-- An index below the bounds has a place below their number. -/
theorem rankOn_lt (n : Nest) {i : Vector (BitVec 16) 6} {l : List (Fin 6)} (h : ∀ d ∈ l, (i.get d).toNat < (n.bound.get d).toNat) : rankOn n i l < passesOn n l := by
  induction l with
  | nil => exact Nat.one_pos
  | cons d l ih =>
    obtain ⟨hd, hl⟩ := List.forall_mem_cons.mp h
    calc (i.get d).toNat + (n.bound.get d).toNat * rankOn n i l
        < (n.bound.get d).toNat + (n.bound.get d).toNat * rankOn n i l := Nat.add_lt_add_right hd _
      _ = (n.bound.get d).toNat * (rankOn n i l + 1) := by rw [Nat.mul_succ, Nat.add_comm]
      _ ≤ (n.bound.get d).toNat * passesOn n l := Nat.mul_le_mul_left _ (ih hl)

/-- What a step does to an index in the dimensions that it looks at: past the last place every one wraps, else the place is one higher; the other dimensions keep their index. -/
structure Steps (n : Nest) (l : List (Fin 6)) (i : Vector (BitVec 16) 6) (r : Vector (BitVec 16) 6 × Bool) : Prop where
  ends : r.2 = true ↔ rankOn n i l + 1 = passesOn n l
  next : r.2 = false → rankOn n r.1 l = rankOn n i l + 1
  below : r.2 = false → ∀ d ∈ l, (r.1.get d).toNat < (n.bound.get d).toNat
  others : ∀ d, d ∉ l → r.1.get d = i.get d

/-- An index that can rise in the innermost dimension rises there. -/
theorem Steps.rise {n : Nest} {l : List (Fin 6)} {i : Vector (BitVec 16) 6} {d : Fin 6} (hd : d ∉ l) (hi : ∀ e ∈ d :: l, (i.get e).toNat < (n.bound.get e).toNat)
    (hr : (i.get d).toNat + 1 < (n.bound.get d).toNat) : Steps n (d :: l) i (i.set d.val (i.get d + 1) d.isLt, false) := by
  obtain ⟨hid, hil⟩ := List.forall_mem_cons.mp hi
  have hsame : ∀ e ∈ l, (i.set d.val (i.get d + 1) d.isLt).get e = i.get e := fun e he => vec_get_set_other i d e _ fun h => hd (h ▸ he)
  have hone : (i.get d + 1).toNat = (i.get d).toNat + 1 := by
    have := (n.bound.get d).isLt
    rw [BitVec.toNat_add, show (1 : BitVec 16).toNat = 1 from rfl, Nat.mod_eq_of_lt (by omega)]
  refine ⟨⟨fun h => absurd h Bool.false_ne_true, fun h => ?_⟩, fun _ => ?_, fun _ => List.forall_mem_cons.mpr ⟨?_, fun e he => ?_⟩, fun e he => ?_⟩
  · have hlt : rankOn n i (d :: l) + 1 < passesOn n (d :: l) := calc
      (i.get d).toNat + (n.bound.get d).toNat * rankOn n i l + 1
        < (n.bound.get d).toNat * (rankOn n i l + 1) := by rw [Nat.mul_succ]; omega
      _ ≤ (n.bound.get d).toNat * passesOn n l := Nat.mul_le_mul_left _ (rankOn_lt n hil)
    exact absurd h hlt.ne
  · show ((i.set d.val (i.get d + 1) d.isLt).get d).toNat + _ * rankOn n _ l = (i.get d).toNat + _ * rankOn n i l + 1
    rw [vec_get_set_same, hone, rankOn_congr n hsame]
    omega
  · rw [vec_get_set_same, hone]
    exact hr
  · rw [hsame e he]
    exact hil e he
  · exact vec_get_set_other i d e _ fun h => he (h ▸ List.mem_cons_self)

/-- One that cannot wraps there, and the step goes on in the dimensions that are left. -/
theorem Steps.wrap {n : Nest} {l : List (Fin 6)} {i : Vector (BitVec 16) 6} {r : Vector (BitVec 16) 6 × Bool} {d : Fin 6} (hd : d ∉ l)
    (hid : (i.get d).toNat + 1 = (n.bound.get d).toNat) (h : Steps n l (i.set d.val 0 d.isLt) r) : Steps n (d :: l) i r := by
  have hsame : rankOn n (i.set d.val 0 d.isLt) l = rankOn n i l := rankOn_congr n fun e he => vec_get_set_other i d e _ fun h => hd (h ▸ he)
  have hzero : r.1.get d = 0 := (h.others d hd).trans (vec_get_set_same i d 0)
  have hrank : rankOn n i (d :: l) + 1 = (n.bound.get d).toNat * (rankOn n i l + 1) := by
    show (i.get d).toNat + (n.bound.get d).toNat * rankOn n i l + 1 = _
    rw [Nat.mul_succ]
    omega
  refine ⟨?_, fun hr => ?_, fun hr => List.forall_mem_cons.mpr ⟨?_, h.below hr⟩, fun e he => ?_⟩
  · rw [h.ends, hsame, hrank]
    exact (Nat.mul_right_inj (by omega)).symm
  · rw [hrank, ← hsame, ← h.next hr]
    show (r.1.get d).toNat + _ = _
    rw [hzero]
    exact Nat.zero_add _
  · rw [hzero]
    show 0 < _
    omega
  · rw [List.mem_cons, not_or] at he
    exact (h.others e he.2).trans (vec_get_set_other i d e _ he.1)

theorem loopCarry_succ (n : Nest) (k : Nat) (i : Vector (BitVec 16) 6) : loopCarry n (k + 1) i =
    if (i.get (nestDim k)).toNat + 1 < (n.bound.get (nestDim k)).toNat then (i.set (nestDim k).val (i.get (nestDim k) + 1) (nestDim k).isLt, false)
    else loopCarry n k (i.set (nestDim k).val 0 (nestDim k).isLt) := rfl

theorem loopCarry_steps (n : Nest) {k : Nat} (hk : k ≤ 6) (i : Vector (BitVec 16) 6) (hi : ∀ d ∈ nestDims k, (i.get d).toNat < (n.bound.get d).toNat) :
    Steps n (nestDims k) i (loopCarry n k i) := by
  induction k generalizing i with
  | zero => exact ⟨⟨fun _ => rfl, fun _ => rfl⟩, fun h => absurd h.symm Bool.false_ne_true, fun _ _ hd => absurd hd List.not_mem_nil, fun _ _ => rfl⟩
  | succ k ih =>
    have hfresh := nestDims_fresh (Nat.lt_of_succ_le hk)
    obtain ⟨hid, hil⟩ := List.forall_mem_cons.mp hi
    rw [loopCarry_succ]
    split
    case isTrue hr => exact .rise hfresh hi hr
    case isFalse hr =>
      refine .wrap hfresh (by omega) (ih (Nat.le_of_succ_le hk) _ fun e he => ?_)
      rw [vec_get_set_other i (nestDim k) e _ fun h => hfresh (h ▸ he)]
      exact hil e he

/-- Settles O26: a step looks at all six dimensions, innermost first. -/
theorem loopRunsTheNestInOrder : Obligations.LoopRunsTheNestInOrder := by
  intro n i hi
  have h := loopCarry_steps n (Nat.le_refl 6) i fun d _ => hi d
  rw [nestDims_six] at h
  exact ⟨h.ends, fun hr => ⟨h.next hr, fun d => h.below hr d (List.mem_finRange d)⟩⟩

end Sys2Proof.Machine
end

section
/-!
PROOF. Waits, helper contexts, yielding and HALT (O27, O28): what the check and the wait of a ready instruction have let pass, and its effect.
-/

namespace Sys2Proof.Machine

open Sys2Proof

/-- A ready instruction that raises no later cause issues with its effects. -/
theorem exec_issued {i : Instr} {o : Op} {s : State} (ho : opOf i = some o) (hr : o.ready s = true) (ha : o.after (o.eff (o.begun s)) = none) :
    exec i s = .next (o.issued s) := by
  rw [exec_eq_runOne i o s ho, runOne_ready o s hr ha]

/-! ### Waits (R163 to R166) -/

section
variable {i : Instr} {h : CHdr} {s : State}

/-- A WAIT that issues finds its condition, and no entry that stalls its access. -/
theorem opWait_holds {ra : State → Word} {k : WaitKind} (hr : (opWait h ra k).ready s = true) : k.stall s.seen = false ∧ k.cond s.seen = true := by
  have hw : (k.stall s.seen || !k.cond s.seen) = false := (opWait h ra k).ready_wait s hr
  simpa using hw

/-- It then only goes on. -/
theorem exec_opWait {ra : State → Word} {k : WaitKind} (ho : opOf i = some (opWait h ra k)) (hr : (opWait h ra k).ready s = true) :
    exec i s = .next (s.ended ((opWait h ra k).begun s) none) :=
  exec_of_effects ho hr (fun _ => rfl) (fun _ => rfl) (fun _ => rfl) rfl

/-- A WAIT for helpers finds the named ones FREE. -/
theorem waitFree_free {a : BitVec 5} {t : State} (hc : (waitFree h a).cond t = true) {j : CtxNo} (hj : j ≠ 0) (hb : (t.c.reg h.s a).getLsbD j.val = true) :
    (t.r.ctx.get j).status = .free := by
  have hj' := List.all_eq_true.mp hc j (List.mem_finRange j)
  simpa [hj, hb] using hj'

/-- The value of a WAIT with a limit: the verdict kept, or the condition as it is (R164). -/
theorem ofNat_verdict (o : Option Bool) (stall cond : Bool) :
    BitVec.ofNat 64 (o.getD (!stall && cond)).toNat = if o = some true ∨ (o = none ∧ stall = false ∧ cond = true) then 1 else 0 := by
  cases o with
  | none => cases stall <;> cases cond <;> rfl
  | some v => cases v <;> simp

theorem opWaitLimit_eff (h : CHdr) (a : BitVec 5) (t : BitVec 4) (k : BitVec 7) (lim : BitVec 32) (v : State) :
    (opWaitLimit h a t k lim).eff v = v.result (.s (regOf h.s a))
      (if v.c.verdict = some true ∨ (v.c.verdict = none ∧ (waitKind h a t k).stall v = false ∧ (waitKind h a t k).cond v = true) then 1 else 0) 4 := by
  rw [← ofNat_verdict]
  rfl

/-- A WAIT with a limit issues where the limit has lapsed or the condition holds. -/
theorem opWaitLimit_holds {a : BitVec 5} {t : BitVec 4} {k : BitVec 7} {lim : BitVec 32} (hr : (opWaitLimit h a t k lim).ready s = true) :
    lim.toNat ≤ s.seen.heldFor ∨ ((waitKind h a t k).stall s.seen = false ∧ (waitKind h a t k).cond s.seen = true) := by
  have hw : (!s.seen.lapsed lim && ((waitKind h a t k).stall s.seen || !(waitKind h a t k).cond s.seen)) = false := (opWaitLimit h a t k lim).ready_wait s hr
  simpa [State.lapsed, Classical.or_iff_not_imp_left] using hw

/-- IDs compare by the sign of their difference (R165). -/
theorem idLe_iff (x y : BitVec 32) : idLe x y = true ↔ 0 ≤ (y - x).toInt := by
  have hm : (y - x).getLsbD 31 = (y - x).msb := (BitVec.msb_eq_getLsbD_last _).symm
  rw [idLe, hm, BitVec.msb_eq_toInt]
  simp

end

/-- Settles O27: a ready WAIT has found its condition and goes on; the limit and the mailbox add one effect each. -/
theorem waitResults : Obligations.WaitResults := by
  intro h a f c m t k lim s
  refine ⟨fun hr => ⟨?full, exec_opWait rfl hr⟩, fun hr => ⟨?empty, exec_opWait rfl hr⟩, fun hr => ⟨?ftime, exec_opWait rfl hr⟩, fun hr => ⟨?errq, exec_opWait rfl hr⟩,
    fun hr => ⟨?cyc, exec_opWait rfl hr⟩, fun hr => ⟨fun j => waitFree_free (opWait_holds hr).2, exec_opWait rfl hr⟩, fun hr => ⟨?limit, opWaitLimit_holds hr⟩,
    fun hr => ⟨?chan, ?waitch⟩, fun hr => ⟨?trips, ?waitmb⟩⟩
  case full | empty => exact beq_iff_eq.mp (opWait_holds hr).2
  case ftime | cyc => exact of_decide_eq_true (opWait_holds hr).2
  case errq =>
    have hc : (!s.seen.r.errq.isEmpty) = true := (opWait_holds hr).2
    simpa using hc
  case limit => exact exec_of_effects rfl hr (fun _ => rfl) (fun _ => rfl) (fun _ => rfl) (opWaitLimit_eff h a t k lim _)
  case chan =>
    have hw : (!s.seen.r.chanDone c ((s.seen.c.reg h.s a).truncate 32)) = false := (opWaitch h a c).ready_wait s hr
    exact (idLe_iff _ _).mp ((Bool.not_eq_false' _).mp hw)
  case trips =>
    have hw : ((s.seen.r.mbox m).trips == 0) = false := (opWaitmb h m).ready_wait s hr
    exact beq_eq_false_iff_ne.mp hw
  case waitch | waitmb => exact exec_of_effects rfl hr (fun _ => rfl) (fun _ => rfl) (fun _ => rfl) rfl

/-! ### Helper contexts, YIELD and HALT (R167 to R170) -/

section
variable {h : CHdr} {s : State}

/-- The bar of context 0 passes: the issuing context is context 0. -/
theorem State.notControl_eq_false {t : State} (hc : t.notControl = false) : t.curCtx = 0 := bne_eq_false_iff_eq.mp hc

theorem opStart_check {a : BitVec 5} {k : BitVec 4} (hr : (opStart h a k).ready s = true) : s.curCtx = 0 ∧ (s.seen.r.ctx.get (ctxOf k)).status = .free := by
  have hb := illegalIf_none _ _ _ ((opStart h a k).ready_check s hr)
  rw [Bool.or_eq_false_iff, Bool.or_eq_false_iff] at hb
  exact ⟨State.notControl_eq_false hb.1.1, bne_eq_false_iff_eq.mp hb.1.2⟩

theorem opHend_check (hr : (opHend h).ready s = true) : s.curCtx ≠ 0 := by
  have hb := illegalIf_none _ _ _ (orElse_none _ _ ((opHend h).ready_check s hr)).1
  exact bne_iff_ne.mp ((Bool.not_eq_false' _).mp hb)

theorem opHalt_check (hr : (opHalt h).ready s = true) : s.curCtx = 0 := by
  have hb := (orElse_none _ _ ((opHalt h).ready_check s hr)).1
  exact State.notControl_eq_false (illegalIf_none _ _ _ hb)

theorem opYield_eff (h : CHdr) (v : State) : (opYield h).eff v =
    if v.core.gang.isSome then v
    else if v.core.ready.filter (· != v.curCtx) = [] then (if v.core.readyRes = [] then v else v.post .residencySwitch)
    else v.modC fun c => { c with yields := v.core.ready.filter (· != v.curCtx) } := by
  simp only [opYield, List.isEmpty_iff]

end

/-- Settles O28: each instruction's effect, at its place in the bundle, and the first of its checks. -/
theorem contextLifeResults : Obligations.ContextLifeResults := by
  intro h a k s
  refine ⟨fun hr => ?start, fun hr => ⟨opHend_check hr, exec_issued rfl hr rfl⟩, fun hr => ?yield, fun hr => ⟨opHalt_check hr, ?ready, exec_issued rfl hr rfl⟩⟩
  case start =>
    obtain ⟨hc, hs⟩ := opStart_check hr
    exact ⟨hc, hs, exec_issued rfl hr rfl⟩
  case yield => exact exec_of_effects rfl hr (fun _ => rfl) (fun _ => rfl) (fun _ => rfl) (opYield_eff h _)
  case ready =>
    have hw : (!s.seen.haltReady) = false := (opHalt h).ready_wait s hr
    exact (Bool.not_eq_false' _).mp hw

end Sys2Proof.Machine
end

section
/-!
PROOF. Gangs, bells and exchange phases (O29): what an arrival at a bell leaves of its context, and the phase that EXCHEND closes.
-/

namespace Sys2Proof.Machine

open Sys2Proof

/-! ### An arrival at a bell (R173, R336, R337) -/

section
variable (s : State)

/-- An item that leaves changes no context. -/
theorem State.emit_c (o : Out) : (s.emit o).c = s.c := (State.Sends.of_passes (s.passes_emitFor s.r.order o)).c

theorem Die.ask_bell (d : Die) (x : LeaveAsk) (cross : Bool) (k : BitVec 5) : (d.ask x).bell cross k = d.bell cross k := by
  unfold Die.ask
  split <;> rfl

/-- A phase that asks for leave changes no bell and no context. -/
theorem State.askPhase_keeps (cross : Bool) (k : BitVec 5) : s.askPhase.c = s.c ∧ s.askPhase.die.bell cross k = s.die.bell cross k := by
  unfold State.askPhase
  extract_lets s1
  have h1 : s1.c = s.c ∧ s1.die.bell cross k = s.die.bell cross k := ⟨rfl, rfl⟩
  clear_value s1
  split
  · exact h1
  · split
    · exact h1
    · unfold State.askLeave
      split
      · exact h1
      · exact ⟨h1.1, (Die.ask_bell _ _ _ _).trans h1.2⟩

/-- What an arrival notes of the episode leaves whether this core has arrived. -/
theorem Bell.arrived_here (b : Bell) (cross x : Bool) (now : BitVec 64) : (b.arrived cross x now).here = b.here := by
  unfold Bell.arrived
  extract_lets b1
  have h1 : b1.here = b.here := by cases cross <;> rfl
  clear_value b1
  split <;> exact h1

/-- The arrival is counted at its bell (R336). -/
theorem State.countBell_here (cross : Bool) (k : BitVec 5) (x : Bool) :
    (s.countBell cross k x fun b => { b with here := true }).c = s.c ∧ ((s.countBell cross k x fun b => { b with here := true }).die.bell cross k).here = true := by
  unfold State.countBell
  extract_lets b s1
  have hb : b.here = true := Bell.arrived_here _ _ _ _
  have h1 : s1.c = s.c ∧ (s1.die.bell cross k).here = true := ⟨rfl, (congrArg Bell.here (Die.modBell_bell _ _ _ _)).trans hb⟩
  clear_value s1
  split <;> exact h1

/-- An arrival blocks its context at the bell, which has heard this core. -/
theorem State.arriveBell_keeps (cross : Bool) (n : BitVec 4) (x : Bool) :
    (s.arriveBell cross n x).c = { s.c with blocked := s.c.blocked ++ [(.bell cross (s.r.bellNo cross n), s.c.mode)] } ∧
    ((s.arriveBell cross n x).die.bell cross (s.r.bellNo cross n)).here = true := by
  unfold State.arriveBell
  extract_lets k s1 s2
  obtain ⟨hc, hh⟩ := s.countBell_here cross k x
  have h1 : s1.c = { s.c with blocked := s.c.blocked ++ [(.bell cross k, s.c.mode)] } ∧ (s1.die.bell cross k).here = true :=
    ⟨by simp only [s1, State.modC_c, hc], hh⟩
  clear_value s1
  have h2 : s2.c = s1.c ∧ s2.die.bell cross k = s1.die.bell cross k := by
    simp only [s2, State.emit_c, State.emit_die]
    split
    · exact s1.askPhase_keeps cross k
    · exact ⟨rfl, rfl⟩
  clear_value s2
  rw [← h1.1, ← h2.1, ← h1.2, ← h2.2]
  split
  · exact ⟨s2.emit_c _, by rw [State.emit_die]⟩
  · exact ⟨rfl, rfl⟩

/-! ### The end of a phase (R174) -/

theorem State.leaveDone_exch (b : Bool) : (s.leaveDone b).core.exch = s.core.exch := by
  unfold State.leaveDone
  split
  · split <;> rfl
  · rfl

theorem State.closePhase_mode : s.closePhase.core.exch.mode = false := by
  unfold State.closePhase
  extract_lets s1
  rw [State.leaveDone_exch]
  split <;> rfl

end

section
variable {h : CHdr} {s : State}

theorem execUncouple_free (hf : s.freeC h 0 = true) : exec (.uncouple h) s = .next (s.ended (s.begun.disband false) none) :=
  runOne_free (opUncouple h) s hf (fun _ => rfl) (fun _ => rfl) rfl rfl rfl rfl rfl rfl fun _ => rfl

/-- BELL, BELL.d and BELL.x arrive at their bell. -/
theorem exec_opBellAt {i : Instr} {n : BitVec 4} {cross x bad : Bool} (ho : opOf i = some (opBellAt h n cross x bad)) (hr : (opBellAt h n cross x bad).ready s = true) :
    exec i s = .next (s.ended (((opBellAt h n cross x bad).begun s).arriveBell cross n x) none) :=
  exec_of_effects ho hr (fun _ => rfl) (fun _ => rfl) (fun _ => rfl) rfl

/-- BELL.x with its cross-die flag would be refused (R173). -/
theorem opBellAt_good {n : BitVec 4} {cross x bad : Bool} (hr : (opBellAt h n cross x bad).ready s = true) : bad = false := by
  have hb := (orElse_none _ _ ((opBellAt h n cross x bad).ready_check s hr)).1
  exact (Bool.or_eq_false_iff.mp (illegalIf_none _ _ _ hb)).2

theorem opExch_mode (hr : (opExch h).ready s = true) : s.seen.core.exch.mode = true := by
  have hb := (orElse_none _ _ ((opExch h).ready_check s hr)).1
  exact (Bool.not_eq_false' _).mp (Bool.or_eq_false_iff.mp (illegalIf_none _ _ _ hb)).2

/-- EXCHEND closes a phase without a collision. -/
theorem execExchend_closes (hr : (opExchend h).ready s = true) (hc : ((opExchend h).begun s).core.exch.collision = none) :
    exec (.exchend h) s = .next (s.ended ((opExchend h).begun s).closePhase none) := by
  refine exec_issued (o := opExchend h) rfl hr ?_
  show Option.map _ ((opExchend h).begun s).core.exch.collision = none
  rw [hc]
  rfl

end

/-- Settles O29: each instruction's effect, and what an arrival and the end of a phase leave. -/
theorem gangBellExchangeResults : Obligations.GangBellExchangeResults := by
  intro h w k d s
  refine ⟨fun hr => ⟨?coupled, ?couple⟩, execUncouple_free, exec_opBellAt rfl, exec_opBellAt rfl, fun hr => ⟨opBellAt_good hr, exec_opBellAt rfl hr⟩,
    fun t cross x => ?arrive, fun hr => ⟨opExch_mode hr, ?exch⟩, fun hr hc => ⟨execExchend_closes hr hc, State.closePhase_mode _⟩⟩
  case coupled =>
    have hw : (!s.seen.coupled w) = false := (opCouple h w).ready_wait s hr
    exact (Bool.not_eq_false' _).mp hw
  case couple | exch => exact exec_of_effects rfl hr (fun _ => rfl) (fun _ => rfl) (fun _ => rfl) rfl
  case arrive =>
    obtain ⟨hc, hh⟩ := t.arriveBell_keeps cross k x
    refine ⟨by rw [hc], ?_, hh⟩
    rw [hc]
    simp [Ctx.barred]

end Sys2Proof.Machine
end

section
/-!
PROOF. Timed exchange movements (O51): what XSND and XRCV enter, and what the judgement of a phase cycle does with the flits of that cycle.
-/

namespace Sys2Proof.Machine

open Sys2Proof

/-! ### XSND and XRCV (R272, R273) -/

/-- The peers of the slots of a direction. -/
def Res.exchSlots (r : Res) (send : Bool) : Vector (Option Nat) 16 := if send then r.sendSlots else r.recvSlots

/-- The slots are those that the residency had before the bundle. -/
theorem State.Apart.exchSlots {s t : State} (h : Apart s t) (send : Bool) : t.r.exchSlots send = s.r.exchSlots send := by
  have hr : { t.r with ctx := s.r.ctx, lfsr := s.r.lfsr } = s.r := by
    rw [State.r, h.curRes]
    exact h.rest s.curRes
  exact congrArg (·.exchSlots send) hr

section
variable {i : Instr} {h : CHdr} {a : BitVec 5} {t4 : BitVec 4} {flits : BitVec 8} {cyc : BitVec 20} {send : Bool} {s : State}

/-- A movement that issues finds its phase open, and a peer in its slot. -/
theorem opExchMove_check (hr : (opExchMove h a t4 flits cyc send).ready s = true) :
    s.core.exch.opened = true ∧ ∃ p, (s.r.exchSlots send).get ⟨t4.toNat, t4.isLt⟩ = some p := by
  have hb := illegalIf_none _ _ _ (orElse_none _ _ ((opExchMove h a t4 flits cyc send).ready_check s hr)).1
  rw [Bool.or_eq_false_iff, Bool.or_eq_false_iff, Option.isNone_eq_false_iff] at hb
  obtain ⟨⟨ho, hp⟩, -⟩ := hb
  refine ⟨(Bool.not_eq_false' _).mp ho, ?_⟩
  rw [← (s.apart_modC Ctx.landed).exchSlots]
  exact Option.isSome_iff_exists.mp hp

/-- The movement that it enters. -/
def State.exchEntry (b : State) (h : CHdr) (a : BitVec 5) (t4 : BitVec 4) (flits : BitVec 8) (cyc : BitVec 20) (send : Bool) : Exch :=
  ⟨send, ((b.r.exchSlots send).get ⟨t4.toNat, t4.isLt⟩).getD 0, cyc.toNat, flits.toNat + 1, ptrOff (b.c.reg h.s a),
    (b.guardArea (if send then .trap else .stall) (b.c.reg h.s a) (64 * (flits.toNat + 1))).2, 0⟩

/-- It adds the movement to the phase's, and guards its area. -/
theorem opExchMove_eff (b : State) : ((opExchMove h a t4 flits cyc send).eff b).core.mem = b.core.mem ∧
    ((opExchMove h a t4 flits cyc send).eff b).core.exch.moves = b.core.exch.moves ++ [b.exchEntry h a t4 flits cyc send] := by
  have hg := b.sends_guardArea (if send then .trap else .stall) (b.c.reg h.s a) (64 * (flits.toNat + 1))
  exact ⟨hg.mem, congrArg (fun x : Phase2 => x.moves ++ [b.exchEntry h a t4 flits cyc send]) (congrArg (·.exch) hg.core)⟩

theorem execExchMove_enters (ho : opOf i = some (opExchMove h a t4 flits cyc send)) (hr : (opExchMove h a t4 flits cyc send).ready s = true) :
    s.core.exch.opened = true ∧ ∃ t m p, exec i s = .next t ∧
      (s.r.exchSlots send).get ⟨t4.toNat, t4.isLt⟩ = some p ∧ t.core.exch.moves = s.core.exch.moves ++ [m] ∧ m.send = send ∧ m.peer = p ∧ m.cycle = cyc.toNat ∧
      m.flits = flits.toNat + 1 ∧ m.addr = ptrOff (s.seen.c.reg h.s a) ∧ m.done = 0 ∧ t.core.mem = s.core.mem := by
  obtain ⟨hopen, p, hp⟩ := opExchMove_check hr
  have hb : (opExchMove h a t4 flits cyc send).begun s = s.begun := Op.begun_eq (fun _ => rfl) s
  obtain ⟨hmem, hmoves⟩ := opExchMove_eff (h := h) (a := a) (t4 := t4) (flits := flits) (cyc := cyc) (send := send) s.begun
  have hexch : s.begun.core.exch = s.core.exch := congrArg (·.exch) s.begun_core
  refine ⟨hopen, _, _, p, exec_of_effects ho hr (fun _ => rfl) (fun _ => rfl) (fun _ => rfl) (congrArg _ hb), hp, hexch ▸ hmoves, rfl, ?_, rfl, rfl, ?_, rfl, hmem.trans s.begun_mem⟩
  · show ((s.begun.r.exchSlots send).get _).getD 0 = p
    rw [s.apart_begun.exchSlots, hp]
    rfl
  · show ptrOff (s.begun.c.reg h.s a) = _
    rw [s.begun_reg]

end

/-! ### What a local write leaves alone -/

section
variable (s : State)

/-- A write of a control-page word touches neither memory nor the exchange, and sends nothing. -/
theorem State.setCtrlWord_keeps (o v : Nat) :
    (s.setCtrlWord o v).core.mem = s.core.mem ∧ (s.setCtrlWord o v).core.exch = s.core.exch ∧ (s.setCtrlWord o v).env = s.env := by
  unfold State.setCtrlWord State.setDptimeout
  dsimp only
  repeat' split
  all_goals exact ⟨rfl, rfl, rfl⟩

theorem State.writeTags_keeps (k : Nat) (bs : List Byte) :
    (s.writeTags k bs).core.mem = s.core.mem ∧ (s.writeTags k bs).core.exch = s.core.exch ∧ (s.writeTags k bs).env = s.env := by
  have hone (c : CoreSt) (n : Nat) (b : Byte) : (c.setTagByte n b).mem = c.mem ∧ (c.setTagByte n b).exch = c.exch := by
    unfold CoreSt.setTagByte
    repeat' split
    all_goals exact ⟨rfl, rfl⟩
  have hall (l : List Nat) (c : CoreSt) : (l.foldl (fun c n => c.setTagByte (k + n) (bs.getD n 0)) c).mem = c.mem ∧
      (l.foldl (fun c n => c.setTagByte (k + n) (bs.getD n 0)) c).exch = c.exch := by
    induction l generalizing c with
    | nil => exact ⟨rfl, rfl⟩
    | cons n l ih =>
      obtain ⟨hm, he⟩ := ih (c.setTagByte (k + n) (bs.getD n 0))
      obtain ⟨hm', he'⟩ := hone c (k + n) (bs.getD n 0)
      exact ⟨hm.trans hm', he.trans he'⟩
  obtain ⟨hm, he⟩ := hall (List.range bs.length) s.core
  exact ⟨hm, he, rfl⟩

theorem State.windowLive_env (g : Region) (o n : Nat) : (s.windowLive g o n).env = s.env := by
  unfold State.windowLive
  repeat' split
  all_goals rfl

/-- A local write changes bytes, tags or the control page: not the exchange, and it sends nothing. -/
theorem State.writeBytes_keeps (o : Nat) (bs : List Byte) : (s.writeBytes o bs).core.exch = s.core.exch ∧ (s.writeBytes o bs).env = s.env := by
  cases hr : s.regionOf o with
  | none => rw [State.writeBytes, hr]; exact ⟨rfl, rfl⟩
  | some g =>
    rw [State.writeBytes_of_region bs hr]
    split
    · exact ⟨rfl, rfl⟩
    · split
      · exact (s.setCtrlWord_keeps _ _).2
      · split
        · exact (s.writeTags_keeps _ _).2
        · rw [State.windowLive_core, State.windowLive_env]
          exact ⟨rfl, rfl⟩

/-- What it leaves in memory does not depend on the exchange. -/
theorem State.writeBytes_modExch_mem (f : Phase2 → Phase2) (o : Nat) (bs : List Byte) : ((s.modExch f).writeBytes o bs).core.mem = (s.writeBytes o bs).core.mem := by
  have hreg : (s.modExch f).regionOf o = s.regionOf o := rfl
  cases hr : s.regionOf o with
  | none => rw [State.writeBytes, State.writeBytes, hreg, hr]; rfl
  | some g =>
    rw [State.writeBytes_of_region bs hr, State.writeBytes_of_region bs (hreg.trans hr)]
    have ha : (s.modExch f).auxTags g.1 = s.auxTags g.1 := rfl
    rw [ha]
    split
    · rfl
    · split
      · exact (State.setCtrlWord_keeps _ _ _).1.trans (State.setCtrlWord_keeps s _ _).1.symm
      · split
        · exact (State.writeTags_keeps _ _ _).1.trans (State.writeTags_keeps s _ _).1.symm
        · rw [State.windowLive_core, State.windowLive_core]
          rfl

end

/-! ### Collisions (R274, R339) -/

section
variable (s : State)

/-- A collision is told to the other members, and marks a phase that is open with its first one. -/
theorem State.collide_eq (cycle me : Nat) : s.collide cycle me = (s.markPhase cycle me).modEnv fun e => { e with out := e.out ++ [.collision cycle me] } :=
  State.emitFor_out (s.markPhase cycle me) (s.markPhase cycle me).r.order (.collision cycle me) rfl

theorem State.markPhase_closed {s : State} (hm : s.core.exch.mode = false) (cycle me : Nat) : s.markPhase cycle me = s := by
  rw [State.markPhase, if_neg (ne_true_of_eq_false hm)]

theorem State.markPhase_open {s : State} (hm : s.core.exch.mode = true) (cycle me : Nat) :
    s.markPhase cycle me = s.modExch fun e => { e with collision := some (e.collision.getD (cycle, me)) } := by rw [State.markPhase, if_pos hm]

theorem State.markPhase_keeps (cycle me : Nat) :
    (s.markPhase cycle me).core.mem = s.core.mem ∧ (s.markPhase cycle me).core.exch.flits = s.core.exch.flits ∧ (s.markPhase cycle me).env = s.env := by
  unfold State.markPhase
  split <;> exact ⟨rfl, rfl, rfl⟩

/-- EXCH_FLIT waits for its judgement while the phase is open (R273). -/
theorem execExchFlit_open {s : State} (hm : s.core.exch.mode = true) (peer cycle : Nat) (data : List Byte) :
    exec (.exchFlit peer cycle data) s = .next (s.modExch fun e => { e with flits := e.flits ++ [(peer, cycle, data)] }) :=
  congrArg Host.Outcome.next (if_pos hm)

/-- Afterwards it is a collision for the others (R339). -/
theorem execExchFlit_closed {s : State} (hm : s.core.exch.mode = false) (peer cycle : Nat) (data : List Byte) :
    exec (.exchFlit peer cycle data) s = .next (s.modEnv fun e => { e with out := e.out ++ [.collision cycle s.core.exch.me] }) := by
  have he : exec (.exchFlit peer cycle data) s = .next (s.collide cycle s.core.exch.me) := congrArg Host.Outcome.next (if_neg (ne_true_of_eq_false hm))
  rw [he, State.collide_eq, State.markPhase_closed hm]

/-! ### The judgement of a phase cycle (R274) -/

/-- The flits of a cycle, and the state without them. -/
def State.flitsAt (cycle : Nat) : List (Nat × Nat × List Byte) := s.core.exch.flits.filter fun f => f.2.1 == cycle
def State.withoutFlits (cycle : Nat) : State := s.modExch fun e => { e with flits := e.flits.filter fun f => f.2.1 != cycle }

/-- The one flit of a cycle, with the receive that expects it. -/
def State.Expected (cycle : Nat) (m : Exch) (f : Nat × Nat × List Byte) : Prop :=
  coveringMove s.core.exch.moves cycle = some m ∧ s.flitsAt cycle = [f] ∧ m.peer = f.1

/-- No flit, the one expected flit, or a collision. -/
theorem State.judgeFlits_cases (me cycle : Nat) :
    (s.flitsAt cycle = [] ∧ s.judgeFlits me cycle = s.withoutFlits cycle) ∨
    (∃ m f, s.Expected cycle m f ∧ s.judgeFlits me cycle = (s.withoutFlits cycle).writeBytes (m.addr + 64 * (cycle - m.cycle)) f.2.2) ∨
    (s.flitsAt cycle ≠ [] ∧ (∀ m f, ¬s.Expected cycle m f) ∧ s.judgeFlits me cycle = (s.withoutFlits cycle).collide cycle me) := by
  have hj : s.judgeFlits me cycle = match s.flitsAt cycle, coveringMove s.core.exch.moves cycle with
      | [f], some m => if f.1 = m.peer then (s.withoutFlits cycle).writeBytes (m.addr + 64 * (cycle - m.cycle)) f.2.2 else (s.withoutFlits cycle).collide cycle me
      | [], _ => s.withoutFlits cycle
      | _, _ => (s.withoutFlits cycle).collide cycle me := rfl
  unfold State.Expected
  rcases hf : s.flitsAt cycle with _ | ⟨f, _ | ⟨g, l⟩⟩
  · exact .inl ⟨rfl, by rw [hj, hf]⟩
  · cases hc : coveringMove s.core.exch.moves cycle with
    | none => exact .inr (.inr ⟨by simp, fun m g hm => by simp at hm, by rw [hj, hf, hc]⟩)
    | some m =>
      rw [hf, hc] at hj
      by_cases hp : f.1 = m.peer
      · exact .inr (.inl ⟨m, f, ⟨rfl, rfl, hp.symm⟩, hj.trans (if_pos hp)⟩)
      · refine .inr (.inr ⟨by simp, ?_, hj.trans (if_neg hp)⟩)
        rintro m' f' ⟨hm, hf', hp'⟩
        cases hm
        cases hf'
        exact hp hp'.symm
  · exact .inr (.inr ⟨by simp, fun m g hm => by simp at hm, by rw [hj, hf]⟩)

theorem State.withoutFlits_flits (cycle : Nat) : ∀ f ∈ (s.withoutFlits cycle).core.exch.flits, f.2.1 ≠ cycle := fun f hf => by
  simpa using (List.mem_filter.mp hf).2

/-- The judgement leaves no flit of the cycle. -/
theorem State.judgeFlits_flits (me cycle : Nat) : ∀ f ∈ (s.judgeFlits me cycle).core.exch.flits, f.2.1 ≠ cycle := by
  rcases s.judgeFlits_cases me cycle with ⟨-, h⟩ | ⟨m, f, -, h⟩ | ⟨-, -, h⟩
  · rw [h]
    exact s.withoutFlits_flits cycle
  · rw [h, (State.writeBytes_keeps _ _ _).1]
    exact s.withoutFlits_flits cycle
  · rw [h, State.collide_eq, State.modEnv_core, (State.markPhase_keeps _ _ _).2.1]
    exact s.withoutFlits_flits cycle

variable {s}

/-- The one expected flit is written into its place. -/
theorem State.judgeFlits_expected {cycle : Nat} {m : Exch} {f : Nat × Nat × List Byte} (h : s.Expected cycle m f) (me : Nat) :
    (s.judgeFlits me cycle).core.mem = (s.writeBytes (m.addr + 64 * (cycle - m.cycle)) f.2.2).core.mem ∧
    (s.judgeFlits me cycle).core.exch.collision = s.core.exch.collision ∧ (s.judgeFlits me cycle).env.out = s.env.out := by
  rcases s.judgeFlits_cases me cycle with ⟨hn, -⟩ | ⟨m', f', ⟨hc, hf, -⟩, hj⟩ | ⟨-, hn, -⟩
  · rw [h.2.1] at hn
    cases hn
  · obtain rfl : m = m' := Option.some.inj (h.1.symm.trans hc)
    obtain rfl : f = f' := List.singleton_inj.mp (h.2.1.symm.trans hf)
    obtain ⟨hexch, henv⟩ := (s.withoutFlits cycle).writeBytes_keeps (m.addr + 64 * (cycle - m.cycle)) f.2.2
    rw [hj, hexch, henv]
    exact ⟨s.writeBytes_modExch_mem _ _ _, rfl, rfl⟩
  · exact absurd h (hn m f)

/-- Any other flits of a cycle are a collision. -/
theorem State.judgeFlits_collision {cycle : Nat} (hn : s.flitsAt cycle ≠ []) (he : ∀ m f, ¬s.Expected cycle m f) (me : Nat) :
    (s.judgeFlits me cycle).core.mem = s.core.mem ∧ (s.judgeFlits me cycle).env.out = s.env.out ++ [.collision cycle me] ∧
    (s.core.exch.mode = true → (s.judgeFlits me cycle).core.exch.collision = some (s.core.exch.collision.getD (cycle, me))) := by
  rcases s.judgeFlits_cases me cycle with ⟨hz, -⟩ | ⟨m, f, hx, -⟩ | ⟨-, -, hj⟩
  · exact absurd hz hn
  · exact absurd hx (he m f)
  · obtain ⟨hmem, -, henv⟩ := (s.withoutFlits cycle).markPhase_keeps cycle me
    rw [hj, State.collide_eq]
    refine ⟨hmem, congrArg (fun e : Env => e.out ++ [Out.collision cycle me]) henv, fun hm => ?_⟩
    have hm' : (s.withoutFlits cycle).core.exch.mode = true := hm
    rw [State.markPhase_open hm']
    rfl

end

end Sys2Proof.Machine
end

section
/-!
PROOF. Rounds (O51): a marker that is queued stays in the core's queue or has reached its network interface, and what the edge of a round leaves.
-/

namespace Sys2Proof.Machine

open Sys2Proof

/-! ### What a departing item leaves of the queue (R299, R423) -/

/-- The queue of what leaves is the same, and what stands at the network interface stays there. -/
structure State.Queues (s t : State) : Prop where
  leaving : t.core.leaving = s.core.leaving
  ni : ∀ y ∈ s.core.ni, y ∈ t.core.ni

namespace State.Queues

variable {s t u : State}

theorem refl (s : State) : Queues s s := ⟨rfl, fun _ h => h⟩

theorem trans (h : Queues s t) (g : Queues t u) : Queues s u := ⟨g.leaving.trans h.leaving, fun y hy => g.ni y (h.ni y hy)⟩

/-- A change that leaves both. -/
theorem of_core (hl : t.core.leaving = s.core.leaving) (hn : t.core.ni = s.core.ni) : Queues s t := ⟨hl, fun _ hy => hn ▸ hy⟩

end State.Queues

section
variable (s : State)

theorem State.queues_foldl {α : Type} (f : State → α → State) (h : ∀ s x, Queues s (f s x)) (l : List α) : Queues s (l.foldl f s) := by
  induction l generalizing s with
  | nil => exact .refl s
  | cons x l ih => exact (h s x).trans (ih _)

theorem State.queues_deliverHere (order : Nat) (o : Out) : Queues s (s.deliverHere order o) := by
  cases o with
  | cast m ds => exact s.queues_foldl (fun t x => t.post (arrivalOf { m with dst := x.dst, seq := x.seq, scaleSeq := x.seq, sendId := x.sendId })) (fun t x => .of_core rfl rfl) ds
  | _ =>
    simp only [State.deliverHere]
    repeat' split
    all_goals exact .of_core rfl rfl

theorem State.queues_emitFor (order : Nat) (o : Out) : Queues s (s.emitFor order o) := by
  unfold State.emitFor
  split
  · exact .of_core rfl rfl
  · split
    · exact s.queues_deliverHere order o
    · exact ⟨rfl, fun _ hy => List.mem_append_left _ hy⟩

theorem State.queues_timeSend (q : Send) : Queues s (s.timeSend q) := by
  unfold State.timeSend State.answerCut
  repeat' split
  all_goals exact .of_core rfl rfl

theorem State.queues_firstAttempt (q : Send) : Queues s (s.firstAttempt q) :=
  have h1 : Queues s (s.underWay q q.msg.rdv) := .of_core rfl rfl
  (h1.trans (State.queues_emitFor _ _ _)).trans (State.queues_timeSend _ _)

theorem State.queues_rangeRemove (i : Option (Fin 32)) : Queues s (s.rangeRemove i) := by
  cases i with
  | none => exact .refl s
  | some i => exact .of_core rfl rfl

theorem State.queues_localDone (q : Send) : Queues s (s.localDone q) := by
  unfold State.localDone
  split
  · exact .refl s
  · extract_lets s1 shared s2 s3
    have h1 : Queues s s1 := .of_core rfl rfl
    have h2 : Queues s1 s2 := by
      simp only [s2]
      split
      · exact .refl s1
      · exact s1.queues_rangeRemove _
    clear_value s1 s2
    have h3 : Queues s2 s3 := .of_core rfl rfl
    exact (h1.trans h2).trans (h3.trans (.of_core rfl rfl))

theorem State.queues_closeSend (q : Send) : Queues s (s.closeSend q) := by
  unfold State.closeSend State.uncharge
  split <;> exact .of_core rfl rfl

theorem State.queues_failBad (id : Nat) : Queues s (s.failBad id) := by
  unfold State.failBad
  split
  · exact .refl s
  next q _ =>
    split
    · have h1 : Queues (s.localDone q) ((s.localDone q).sendError q Cause.memoryUncorrectable (BitVec.ofNat 64 (ptrOff q.buf))) := .of_core rfl rfl
      exact ((s.queues_localDone q).trans h1).trans (State.queues_closeSend _ q)
    · exact .refl s

theorem State.queues_number (q : Send) : Queues s (s.number q).1 := .of_core rfl rfl

theorem State.queues_envelopeOut (id : Nat) : Queues s (s.envelopeOut id) := by
  unfold State.envelopeOut
  split
  · exact s.queues_failBad id
  next q _ => exact (s.queues_number q).trans (State.queues_firstAttempt _ _)

theorem queues_numberCopies (l : List Nat) : State.Queues s (numberCopies l s).1 := by
  induction l generalizing s with
  | nil => exact .refl s
  | cons id l ih =>
    unfold numberCopies
    split
    · exact (s.queues_failBad id).trans (ih _)
    next q _ => exact (s.queues_number q).trans (ih (s.number q).1)

theorem queues_allUnderWay (l : List Send) : State.Queues s (allUnderWay l s) := by
  induction l generalizing s with
  | nil => exact .refl s
  | cons q l ih =>
    have h1 : State.Queues s (s.underWay q q.msg.rdv) := .of_core rfl rfl
    exact (h1.trans (State.queues_timeSend _ q)).trans (ih ((s.underWay q q.msg.rdv).timeSend q))

theorem State.queues_emitCast (m : Message) (ds : List CastDst) : Queues s (s.emitCast m ds) := by
  unfold State.emitCast
  extract_lets here away s1
  have h1 : Queues s s1 := by
    simp only [s1]
    split
    · exact .refl s
    · exact s.queues_deliverHere _ _
  clear_value s1
  split
  · exact h1
  · exact h1.trans ⟨rfl, fun _ hy => List.mem_append_left _ hy⟩

theorem State.queues_depart (l : Leaving) : Queues s (s.depart l) := by
  unfold State.depart
  split
  · exact s.queues_envelopeOut _
  · unfold State.castOut
    extract_lets r
    have hr : Queues s r.1 := queues_numberCopies s _
    split
    · exact hr
    · exact (hr.trans (queues_allUnderWay _ _)).trans (State.queues_emitCast _ _ _)
  · exact s.queues_emitFor _ _

end

/-! ### Markers that leave (R175, R347) -/

/-- The item waits to leave residency k, or stands at the network interface. -/
def State.Outgoing (s : State) (k : ResNo) (o : Out) : Prop := (∃ l ∈ s.core.leaving, l.item = o ∧ l.res = k) ∨ ∃ y ∈ s.core.ni, y.item = o

section
variable {s t : State} {k : ResNo} {src d : Rank} {n : BitVec 32} {closing : Bool}

/-- Sends that go on or end move no rank of a work order. -/
theorem State.Sends.targetOf (h : Sends s t) (order : Nat) (d : Rank) : t.targetOf order d = s.targetOf order d := by
  have hp (k : ResNo) : (t.res.get k).phase = (s.res.get k).phase := congrArg (·.phase) (h.res k)
  have ho (k : ResNo) : (t.res.get k).order = (s.res.get k).order := congrArg (·.order) (h.res k)
  have hr (k : ResNo) : (t.res.get k).rank = (s.res.get k).rank := congrArg (·.rank) (h.res k)
  simp only [State.targetOf, State.physicalOf, h.srv, h.pkg, hp, ho, hr]

/-- A marker for another core that departs is at the network interface. -/
theorem State.emitFor_marker {order : Nat} (hd : s.targetOf order d ≠ .core s.pkg.self) :
    ∃ y ∈ (s.emitFor order (.marker src d n closing)).core.ni, y.item = .marker src d n closing := by
  have hi : s.itemTarget order (.marker src d n closing) = some (s.targetOf order d) := rfl
  rw [State.emitFor, hi]
  simp only [if_neg hd]
  exact ⟨_, List.mem_append_right _ (List.mem_singleton_self _), rfl⟩

/-- Letting items out keeps it outgoing. -/
theorem flushOut_outgoing (m : Nat) (hd : s.targetOf (s.res.get k).order d ≠ .core s.pkg.self) (h : s.Outgoing k (.marker src d n closing)) :
    (flushOut m s).Outgoing k (.marker src d n closing) := by
  induction m generalizing s with
  | zero => exact h
  | succ m ih =>
    unfold flushOut
    split
    · exact h
    next l _ =>
      generalize hv : (s.modCore fun c => { c with leaving := c.leaving.erase l }) = v
      have hsv : State.Sends s v := hv ▸ .modCore s _ fun _ => rfl
      have hl : v.core.leaving = s.core.leaving.erase l := hv ▸ rfl
      have hn : v.core.ni = s.core.ni := hv ▸ rfl
      have hst := hsv.trans (lets_sends.depart v l)
      have hq := v.queues_depart l
      refine ih ?_ ?_
      · rw [hst.targetOf, hst.pkg, congrArg Res.order (hst.res k)]
        exact hd
      · rcases h with ⟨x, hx, hitem, hres⟩ | ⟨y, hy, hitem⟩
        · by_cases he : x = l
          · subst he
            have hdep : v.depart x = v.emitFor (v.res.get x.res).order (.marker src d n closing) := by rw [State.depart, hitem]
            rw [hdep]
            refine .inr (State.emitFor_marker ?_)
            rw [hres, hsv.targetOf, hsv.pkg, congrArg Res.order (hsv.res k)]
            exact hd
          · exact .inl ⟨x, hq.leaving.symm ▸ hl.symm ▸ (List.mem_erase_of_ne he).mpr hx, hitem, hres⟩
        · exact .inr ⟨y, hq.ni y (hn.symm ▸ hy), hitem⟩

/-- The markers of a round are queued behind what the core has queued. -/
theorem sends_sendMarkers (n : BitVec 32) (l : List Rank) (s : State) : State.Sends s (sendMarkers n l s) := by
  induction l generalizing s with
  | nil => exact .refl s
  | cons d l ih =>
    have h1 : State.Sends s (s.queueOut (.marker s.r.rank d n false) [] (!(s.core.packet.any fun p => p.res == s.curRes))) := .modCore s _ fun _ => rfl
    exact h1.trans (ih _)

theorem sendMarkers_leaving (n : BitVec 32) (l : List Rank) (s : State) : ∀ x ∈ s.core.leaving, x ∈ (sendMarkers n l s).core.leaving := by
  induction l generalizing s with
  | nil => exact fun _ h => h
  | cons d l ih => exact fun x hx => ih _ x (List.mem_append_left _ hx)

theorem sendMarkers_outgoing {l : List Rank} (hd : d ∈ l) (n : BitVec 32) (s : State) : (sendMarkers n l s).Outgoing s.curRes (.marker s.r.rank d n false) := by
  induction l generalizing s with
  | nil => cases hd
  | cons e l ih =>
    rcases List.mem_cons.mp hd with rfl | hd
    · exact .inl ⟨_, sendMarkers_leaving n l _ _ (List.mem_append_right _ (List.mem_singleton_self _)), rfl, rfl⟩
    · exact ih hd _

end

/-! ### The edge of a round (R175, R348, R349) -/

/-- What the core holds for its channels. -/
def CoreSt.channels (c : CoreSt) : List Host.Cell × List Waiting × List Leaving × List Inject := (c.mem, c.inbox, c.leaving, c.ni)

/-- Where a residency stands in its rounds: the counter, the markers of its inputs, and what its contexts wait for. -/
def Res.rounds (r : Res) : BitVec 32 × List Input × Vector (List (Block × Bool)) 11 := (r.round, r.inputs, r.ctx.map (·.blocked))

/-- Rounds and channels are the same. -/
structure State.SameRounds (s t : State) : Prop where
  curRes : t.curRes = s.curRes
  curCtx : t.curCtx = s.curCtx
  channels : t.core.channels = s.core.channels
  rounds : ∀ k, (t.res.get k).rounds = (s.res.get k).rounds

namespace State.SameRounds

variable {s t u : State}

theorem refl (s : State) : SameRounds s s := ⟨rfl, rfl, rfl, fun _ => rfl⟩

theorem trans (h : SameRounds s t) (g : SameRounds t u) : SameRounds s u :=
  ⟨g.curRes.trans h.curRes, g.curCtx.trans h.curCtx, g.channels.trans h.channels, fun k => (g.rounds k).trans (h.rounds k)⟩

/-- A change of a residency's other parts. -/
theorem modRes (s : State) (k : ResNo) (f : Res → Res) (hf : ∀ r, (f r).rounds = r.rounds) : SameRounds s (s.modRes k f) :=
  ⟨rfl, rfl, rfl, fun j => by
    by_cases h : j = k
    · subst h; rw [State.modRes_res, vec_get_set_same]; exact hf _
    · rw [State.modRes_res, vec_get_set_other _ _ _ _ h]⟩

theorem blocked (h : SameRounds s t) (k : ResNo) (c : CtxNo) : ((t.res.get k).ctx.get c).blocked = ((s.res.get k).ctx.get c).blocked := by
  have hv : (t.res.get k).ctx.map (·.blocked) = (s.res.get k).ctx.map (·.blocked) := congrArg (·.2.2) (h.rounds k)
  simpa [Vector.get_eq_getElem] using congrArg (·.get c) hv

end State.SameRounds

section
variable (s : State)

theorem Res.rounds_freeHelpers (r : Res) : r.freeHelpers.rounds = r.rounds := by
  have hb : (r.ctx.map fun c => if c.status = .held then { c with status := .live } else c).map (·.blocked) = r.ctx.map (·.blocked) := by
    rw [Vector.map_map]
    refine Vector.map_congr_left fun c _ => ?_
    show (if _ then _ else _ : Ctx).blocked = _
    split <;> rfl
  exact congrArg (r.round, r.inputs, ·) hb

theorem State.sameRounds_giveLfsr (t : Task) : SameRounds s (s.giveLfsr t) := by
  unfold State.giveLfsr
  split
  · exact .modRes s _ _ fun _ => rfl
  · exact .refl s

theorem State.sameRounds_wake : SameRounds s s.wake := by
  unfold State.wake
  split <;> exact ⟨rfl, rfl, rfl, fun _ => rfl⟩

theorem State.sameRounds_freeLane (t : Task) : SameRounds s (s.freeLane t) := by
  unfold State.freeLane
  split <;> exact ⟨rfl, rfl, rfl, fun _ => rfl⟩

theorem State.sameRounds_leaveDone (heavy : Bool) : SameRounds s (s.leaveDone heavy) := by
  unfold State.leaveDone
  repeat' split
  all_goals exact ⟨rfl, rfl, rfl, fun _ => rfl⟩

theorem State.sameRounds_modTask (id : Nat) (f : Task → Task) : SameRounds s (s.modTask id f) := ⟨rfl, rfl, rfl, fun _ => rfl⟩

theorem State.sameRounds_stopTask (t : Task) (fault : Bool) : SameRounds s (s.stopTask t fault) :=
  ((((s.sameRounds_giveLfsr t).trans (State.sameRounds_modTask _ _ _)).trans (State.sameRounds_freeLane _ t)).trans (State.sameRounds_leaveDone _ _)).trans
    (State.sameRounds_wake _)

theorem sameRounds_stopTasks (l : List Task) : State.SameRounds s (stopTasks l s) := by
  induction l generalizing s with
  | nil => exact .refl s
  | cons t l ih =>
    refine .trans ?_ (ih _)
    split
    · exact s.sameRounds_stopTask _ _
    · exact .refl s

theorem State.sameRounds_kick : SameRounds s s.kick := by
  unfold State.kick
  repeat' split
  all_goals exact ⟨rfl, rfl, rfl, fun _ => rfl⟩

theorem State.sameRounds_after (n : Nat) (i : Instr) : SameRounds s (s.after n i) := ⟨rfl, rfl, rfl, fun _ => rfl⟩

/-- Beside the counter, the markers and the wait of context 0 an edge changes neither rounds nor channels. -/
theorem State.sameRounds_roundEdge (k : ResNo) : SameRounds (s.modRes k Res.edge) (s.roundEdge k) := by
  unfold State.roundEdge
  extract_lets r s1 s2
  change SameRounds s1 _
  have h2 : SameRounds s1 s2 := by
    simp only [s2]
    split
    · exact .refl s1
    · exact .modRes s1 _ _ Res.rounds_freeHelpers
  clear_value s1 s2
  split
  · exact ((SameRounds.modRes s1 k (fun r => { r with phase := .frozen }) fun _ => rfl).trans (sameRounds_stopTasks _ _)).trans (State.sameRounds_after _ 1 _)
  · split
    · exact (h2.trans (State.sameRounds_after _ 1 _)).trans (State.sameRounds_kick _)
    · exact h2.trans (State.sameRounds_kick _)

/-- The edge: the counter steps, context 0 waits for it no longer, and only closed inputs count as marked. -/
theorem State.roundEdge_results (k : ResNo) :
    ((s.roundEdge k).res.get k).round = (s.res.get k).round + 1 ∧
    (∀ b ∈ (((s.roundEdge k).res.get k).ctx.get 0).blocked, b.1 ≠ .round) ∧ ∀ i ∈ ((s.roundEdge k).res.get k).inputs, i.marked = i.closed := by
  have h := s.sameRounds_roundEdge k
  have hk : (s.modRes k Res.edge).res.get k = (s.res.get k).edge := vec_get_set_same _ _ _
  have hround := congrArg (·.1) (h.rounds k)
  have hinputs := congrArg (·.2.1) (h.rounds k)
  have hblocked := h.blocked k 0
  rw [hk] at hround hinputs hblocked
  refine ⟨hround, fun b hb => ?_, fun i hi => ?_⟩
  · rw [hblocked, Res.edge, Res.modCtx_get] at hb
    simpa using (List.mem_filter.mp hb).2
  · have hi' : i ∈ (s.res.get k).inputs.map fun i => ⟨i.peer, i.closed, i.closed⟩ := by rw [← show _ = List.map _ _ from hinputs]; exact hi
    obtain ⟨j, -, rfl⟩ := List.mem_map.mp hi'
    rfl

end

/-- An input keeps the edge from coming until its marker is in or it is closed. -/
theorem Res.edgeReady_iff (r : Res) : r.edgeReady = true ↔ ∀ i ∈ r.inputs, i.marked = true ∨ i.closed = true := by
  simp [Res.edgeReady]

theorem Res.edgeReady_eq_false {r : Res} {i : Input} (hi : i ∈ r.inputs) (hm : i.marked = false) (hc : i.closed = false) : r.edgeReady = false := by
  refine Bool.eq_false_iff.mpr fun h => ?_
  have := (Res.edgeReady_iff r).mp h i hi
  simp [hm, hc] at this

end Sys2Proof.Machine
end

section
/-!
PROOF. ROUND (O51): the markers that it sends, the wait that it leaves, and the edge where nothing is missing.
-/

namespace Sys2Proof.Machine

open Sys2Proof

/-- Helpers alone are held: context 0 goes on as it is. -/
theorem Res.holdHelpers_ctx_zero (r : Res) : r.holdHelpers.ctx.get 0 = r.ctx.get 0 := by
  unfold Res.holdHelpers
  dsimp only
  refine List.foldlRecOn (motive := fun v : Vector Ctx 11 => v.get 0 = r.ctx.get 0) _ _ rfl fun v hv k _ => ?_
  split
  next hk => rw [vec_get_set_other _ _ _ _ (Ne.symm hk.1), hv]
  · exact hv

theorem Res.holdHelpers_rest (r : Res) : r.holdHelpers.round = r.round ∧ r.holdHelpers.inputs = r.inputs := by
  unfold Res.holdHelpers
  exact ⟨rfl, rfl⟩

/-- ROUND's markers are queued, and those that may go have left (R175). -/
def State.roundSent (b : State) : State := (sendMarkers b.r.round b.r.outputs b).flush

/-- Then the context waits for the edge, and the helpers are held (R25, R175). -/
def State.roundBlocked (b : State) : State := (b.roundSent.modC fun c => { c with blocked := c.blocked ++ [(.round, c.mode)] }).modR Res.holdHelpers

section
variable {b : State} {h : CHdr} {s : State}

theorem State.sends_roundSent (b : State) : Sends b b.roundSent := (sends_sendMarkers _ _ b).trans (State.sends_flush _)

theorem State.roundSent_outgoing {d : Rank} (hd : d ∈ b.r.outputs) (ht : b.targetOf b.r.order d ≠ .core b.pkg.self) :
    b.roundSent.Outgoing b.curRes (.marker b.r.rank d b.r.round false) := by
  have hs := sends_sendMarkers b.r.round b.r.outputs b
  refine flushOut_outgoing _ ?_ (sendMarkers_outgoing hd _ b)
  rw [hs.targetOf, hs.pkg, congrArg Res.order (hs.res b.curRes)]
  exact ht

theorem State.roundBlocked_r (b : State) : b.roundBlocked.r.round = b.r.round ∧ b.roundBlocked.r.inputs = b.r.inputs := by
  have hs := b.sends_roundSent
  have hr : { b.roundSent.r with mboxes := b.r.mboxes, errq := b.r.errq, errOvf := b.r.errOvf } = b.r := by
    rw [State.r, hs.curRes]
    exact hs.res b.curRes
  have hround : b.roundSent.r.round = b.r.round := congrArg (·.round) hr
  have hinputs : b.roundSent.r.inputs = b.r.inputs := congrArg (·.inputs) hr
  rw [State.roundBlocked, State.modR_r, State.modC_r]
  exact ⟨(Res.holdHelpers_rest _).1.trans hround, (Res.holdHelpers_rest _).2.trans hinputs⟩

theorem State.holdHelpers_c {u : State} (hc : u.curCtx = 0) : (u.modR Res.holdHelpers).c = u.c := by
  have hr : (u.modR Res.holdHelpers).c = (u.modR Res.holdHelpers).r.ctx.get u.curCtx := rfl
  have hu : u.c = u.r.ctx.get u.curCtx := rfl
  rw [hr, hu, hc, State.modR_r, Res.holdHelpers_ctx_zero]

theorem State.roundBlocked_c (hc : b.curCtx = 0) : b.roundBlocked.c = { b.c with blocked := b.c.blocked ++ [(.round, b.c.mode)] } := by
  have hs := b.sends_roundSent
  rw [State.roundBlocked, State.holdHelpers_c (by rw [State.modC_curCtx, hs.curCtx, hc]), State.modC_c, hs.c]

/-- What ROUND leaves of the state: the edge where no marker is missing. -/
def State.roundDone (b : State) : State := if b.roundBlocked.r.edgeReady then b.roundBlocked.roundEdge b.roundBlocked.curRes else b.roundBlocked

theorem opRound_late (h : CHdr) (b : State) : (opRound h).late ((opRound h).eff b) = b.roundDone := rfl

/-- The edge moves nothing of what leaves. -/
theorem State.roundEdge_outgoing {k j : ResNo} {o : Out} (h : s.Outgoing j o) : (s.roundEdge k).Outgoing j o := by
  have hc : (s.roundEdge k).core.channels = s.core.channels := (s.sameRounds_roundEdge k).channels
  have hl : (s.roundEdge k).core.leaving = s.core.leaving := congrArg (·.2.2.1) hc
  have hn : (s.roundEdge k).core.ni = s.core.ni := congrArg (·.2.2.2) hc
  rw [State.Outgoing, hl, hn]
  exact h

theorem State.roundDone_outgoing {d : Rank} (hd : d ∈ b.r.outputs) (ht : b.targetOf b.r.order d ≠ .core b.pkg.self) :
    b.roundDone.Outgoing b.curRes (.marker b.r.rank d b.r.round false) := by
  have h : b.roundBlocked.Outgoing b.curRes (.marker b.r.rank d b.r.round false) := State.roundSent_outgoing hd ht
  unfold State.roundDone
  split
  · exact State.roundEdge_outgoing h
  · exact h

/-- An open input without its marker: the round goes on, and context 0 waits. -/
theorem State.roundDone_waits (hc : b.curCtx = 0) (hi : ∃ i ∈ b.r.inputs, i.marked = false ∧ i.closed = false) :
    b.roundDone.r.round = b.r.round ∧ (.round, b.c.mode) ∈ b.roundDone.c.blocked ∧ b.roundDone.c.barred = true := by
  obtain ⟨i, hi, hm, hcl⟩ := hi
  obtain ⟨hround, hinputs⟩ := b.roundBlocked_r
  have he : b.roundBlocked.r.edgeReady = false := Res.edgeReady_eq_false (hinputs ▸ hi) hm hcl
  have hl : (Block.round, b.c.mode) ∈ b.c.blocked ++ [(Block.round, b.c.mode)] := List.mem_append_right _ (List.mem_singleton_self _)
  rw [State.roundDone, he, if_neg Bool.false_ne_true, State.roundBlocked_c hc]
  exact ⟨hround, hl, List.any_eq_true.mpr ⟨_, hl, beq_self_eq_true _⟩⟩

/-- Every input marked or closed: the round ends. -/
theorem State.roundDone_edge (hc : b.curCtx = 0) (hi : ∀ i ∈ b.r.inputs, i.marked = true ∨ i.closed = true) :
    b.roundDone.r.round = b.r.round + 1 ∧ ∀ x ∈ b.roundDone.c.blocked, x.1 ≠ .round := by
  obtain ⟨hround, hinputs⟩ := b.roundBlocked_r
  have he : b.roundBlocked.r.edgeReady = true := (Res.edgeReady_iff _).mpr (hinputs ▸ hi)
  have hs := b.roundBlocked.sameRounds_roundEdge b.roundBlocked.curRes
  obtain ⟨hn, hb, -⟩ := b.roundBlocked.roundEdge_results b.roundBlocked.curRes
  have h0 : b.roundBlocked.curCtx = 0 := b.sends_roundSent.curCtx.trans hc
  rw [State.roundDone, he, if_pos rfl, State.c, State.r, hs.curRes, hs.curCtx, State.modRes_curRes, State.modRes_curCtx, h0]
  exact ⟨hn.trans (congrArg (· + 1) hround), hb⟩

end

/-! ### ROUND issues -/

section
variable {h : CHdr} {s : State}

theorem opRound_check (hr : (opRound h).ready s = true) : s.curCtx = 0 :=
  State.notControl_eq_false (illegalIf_none _ _ _ (orElse_none _ _ ((opRound h).ready_check s hr)).1)

theorem execRound_next (hr : (opRound h).ready s = true) : exec (.round h) s = .next (s.ended s.begun.roundDone none) := by
  rw [exec_issued (o := opRound h) rfl hr rfl, Op.issued, opRound_late, Op.begun_eq fun _ => rfl]
  rfl

/-- A bundle that begins to issue finds its residency's rounds, and the places of its ranks, as they were. -/
theorem State.begun_round (s : State) : s.begun.r.rank = s.r.rank ∧ s.begun.r.round = s.r.round ∧ s.begun.r.inputs = s.r.inputs ∧ s.begun.r.outputs = s.r.outputs ∧ s.begun.r.order = s.r.order := by
  have h := s.apart_begun.rest s.curRes
  rw [State.r, s.apart_begun.curRes]
  exact ⟨congrArg (·.rank) h, congrArg (·.round) h, congrArg (·.inputs) h, congrArg (·.outputs) h, congrArg (·.order) h⟩

theorem State.Apart.targetOf {t : State} (h : Apart s t) (order : Nat) (d : Rank) : t.targetOf order d = s.targetOf order d := by
  have hp (k : ResNo) : (t.res.get k).phase = (s.res.get k).phase := congrArg (·.phase) (h.rest k)
  have ho (k : ResNo) : (t.res.get k).order = (s.res.get k).order := congrArg (·.order) (h.rest k)
  have hr (k : ResNo) : (t.res.get k).rank = (s.res.get k).rank := congrArg (·.rank) (h.rest k)
  simp only [State.targetOf, State.physicalOf, h.srv, h.pkg, hp, ho, hr]

theorem State.ended_round (s t : State) (n : Option Pair) : (s.ended t n).r.round = t.r.round := congrArg (·.round) (s.ended_r t n)

theorem State.ended_blocked (s t : State) (n : Option Pair) : (s.ended t n).c.blocked = t.c.blocked ∧ (s.ended t n).c.barred = t.c.barred := by
  have h := s.ended_rest t n
  generalize (s.ended t n).c = d at h
  have hd : (t.c.stand d).barred = d.barred := rfl
  exact ⟨congrArg (·.blocked) h, hd.symm.trans (congrArg Ctx.barred h)⟩

theorem State.ended_outgoing (s t : State) (n : Option Pair) (k : ResNo) (o : Out) : (s.ended t n).Outgoing k o ↔ t.Outgoing k o := by
  rw [State.Outgoing, State.Outgoing, State.ended_core]

/-- ROUND sends its markers, and then its context waits, or the round ends. -/
theorem execRound_results (hr : (opRound h).ready s = true) : ∃ t, exec (.round h) s = .next t ∧
    (∀ d ∈ s.r.outputs, s.targetOf s.r.order d ≠ .core s.pkg.self → t.Outgoing s.curRes (.marker s.r.rank d s.r.round false)) ∧
    ((∃ i ∈ s.r.inputs, i.marked = false ∧ i.closed = false) → t.r.round = s.r.round ∧ (.round, s.c.mode) ∈ t.c.blocked ∧ t.c.barred = true) ∧
    ((∀ i ∈ s.r.inputs, i.marked = true ∨ i.closed = true) → t.r.round = s.r.round + 1 ∧ ∀ b ∈ t.c.blocked, b.1 ≠ .round) := by
  refine ⟨_, execRound_next hr, ?_⟩
  have ha := s.apart_begun
  obtain ⟨hrank, hround, hinputs, houtputs, horder⟩ := s.begun_round
  obtain ⟨-, -, hmode, -⟩ := s.begun_fields
  have hc : s.begun.curCtx = 0 := ha.curCtx.trans (opRound_check hr)
  obtain ⟨hblocked, hbarred⟩ := s.ended_blocked s.begun.roundDone none
  rw [State.ended_round, hblocked, hbarred, ← hround, ← hinputs, ← houtputs, ← hrank, ← horder, ← hmode]
  refine ⟨fun d hd ht => ?_, State.roundDone_waits hc, State.roundDone_edge hc⟩
  rw [State.ended_outgoing, ← ha.curRes]
  rw [← ha.targetOf, ← ha.pkg] at ht
  exact State.roundDone_outgoing hd ht

end

end Sys2Proof.Machine
end

section
/-!
PROOF. A marker that arrives (O51): an empty buffer takes it at once, or keeps it where its input has this round's already; what it leaves of the round.
-/

namespace Sys2Proof.Machine

open Sys2Proof

/-! ### The buffer with one marker (R325, R347, R348) -/

/-- The receive buffer holds these items. -/
def State.withItems (s : State) (l : List Waiting) : State := s.modCore fun c => { c with inbox := l }

section
variable {s : State} {k : ResNo} {peer : Rank} {n : BitVec 32} {closing : Bool}

theorem State.withItems_nil (hin : s.core.inbox = []) : s.withItems [] = s := by
  have h : s.withItems s.core.inbox = s := rfl
  rwa [hin] at h

/-- An item that comes to an empty buffer, with no envelope still to come in this cycle. -/
theorem State.receive_empty (hin : s.core.inbox = []) (ha : (s.env.agenda.any fun j => (envelopeOf j).isSome) = false) (i : Instr) :
    s.receive i = drainOn 1 (s.withItems [⟨i, none⟩]) := by
  have hr : s.receive i = if s.env.agenda.any fun j => (envelopeOf j).isSome then s.withItems (s.core.inbox ++ [⟨i, none⟩])
    else drainOn (s.core.inbox ++ [(⟨i, none⟩ : Waiting)]).length (s.withItems (s.core.inbox ++ [⟨i, none⟩])) := rfl
  rw [hr, ha, hin, if_neg Bool.false_ne_true]
  rfl

/-- No refused stream of the channel: the marker follows nothing. -/
theorem State.owedPlaces_eq_nil {src dst : Rank} (h : ∀ x ∈ s.core.streamsIn, x.src = src → x.dst = dst → x.owed = none) : s.owedPlaces (src, dst) = [] := by
  refine List.filterMap_eq_nil_iff.mpr fun x hx => ?_
  obtain ⟨hm, hc⟩ := List.mem_filter.mp hx
  obtain ⟨hs, hd⟩ := Bool.and_eq_true_iff.mp hc
  rw [h x hm (beq_iff_eq.mp hs) (beq_iff_eq.mp hd)]
  rfl

/-- A marker that follows nothing is taken where its residency can take it. -/
theorem State.canTake_marker : s.canTake [] ⟨.markerArrival k peer n closing, some []⟩ = s.markerRoom k peer := Bool.true_and _

/-- It notes that it follows nothing. -/
theorem State.noteMarkers_marker (hn : s.owedPlaces (peer, (s.res.get k).rank) = []) :
    s.noteMarkers [] [⟨.markerArrival k peer n closing, none⟩] = [⟨.markerArrival k peer n closing, some []⟩] := by
  have hy : s.noteMarker [] ⟨.markerArrival k peer n closing, none⟩ = ⟨.markerArrival k peer n closing, some (s.owedPlaces (peer, (s.res.get k).rank))⟩ := rfl
  rw [State.noteMarkers, hy, hn]
  rfl

theorem State.takeables_marker :
    s.takeables [] [⟨.markerArrival k peer n closing, some []⟩] = if s.markerRoom k peer then [⟨.markerArrival k peer n closing, some []⟩] else [] := by
  rw [State.takeables, State.canTake_marker, State.takeables, List.append_nil]

theorem State.takeOut_marker : (s.withItems [⟨.markerArrival k peer n closing, some []⟩]).takeOut ⟨.markerArrival k peer n closing, some []⟩ =
    (s.withItems []).takeItem (.markerArrival k peer n closing) := by
  have h : (s.withItems [⟨.markerArrival k peer n closing, some []⟩]).takeOut ⟨.markerArrival k peer n closing, some []⟩ =
      (s.withItems ([(⟨.markerArrival k peer n closing, some []⟩ : Waiting)].erase ⟨.markerArrival k peer n closing, some []⟩)).takeItem (.markerArrival k peer n closing) := rfl
  rw [h, List.erase_cons_head]

/-- One look at the buffer. -/
theorem State.drainOn_marker (hn : s.owedPlaces (peer, (s.res.get k).rank) = []) :
    drainOn 1 (s.withItems [⟨.markerArrival k peer n closing, none⟩]) =
      if s.markerRoom k peer then (s.withItems []).takeItem (.markerArrival k peer n closing) else s.withItems [⟨.markerArrival k peer n closing, some []⟩] := by
  have hv : ((s.withItems [⟨.markerArrival k peer n closing, none⟩]).modCore fun c =>
      { c with inbox := (s.withItems [⟨.markerArrival k peer n closing, none⟩]).noteMarkers [] c.inbox }) = s.withItems [⟨.markerArrival k peer n closing, some []⟩] :=
    congrArg s.withItems (State.noteMarkers_marker hn)
  have ht : (s.withItems [⟨.markerArrival k peer n closing, some []⟩]).takeables [] (s.withItems [⟨.markerArrival k peer n closing, some []⟩]).core.inbox =
      if s.markerRoom k peer then [⟨.markerArrival k peer n closing, some []⟩] else [] := State.takeables_marker
  rw [drainOn, hv]
  simp only [ht]
  cases s.markerRoom k peer with
  | false => rfl
  | true => exact State.takeOut_marker

end

/-! ### What a marker leaves of the round (R348, R352) -/

section
variable (s : State) {k : ResNo} {peer : Rank} {n : BitVec 32} {closing : Bool}

/-- The bytes that come free change no residency, no memory and no buffer. -/
theorem State.roomBack_keeps (order : Nat) (src dst : Rank) (m : Nat) :
    (s.roomBack order src dst m).res = s.res ∧ (s.roomBack order src dst m).core.mem = s.core.mem ∧ (s.roomBack order src dst m).core.inbox = s.core.inbox := by
  unfold State.roomBack State.emitFor
  repeat' split
  all_goals exact ⟨rfl, rfl, rfl⟩

theorem State.markerIn_channels : (s.markerIn k peer n closing).core.channels = s.core.channels := by
  unfold State.markerIn
  extract_lets x s1
  split
  · rfl
  · split
    · exact (s1.sameRounds_roundEdge k).channels
    · rfl

end

section
variable {s : State} {k : ResNo} {peer : Rank} {n : BitVec 32} {closing : Bool}

/-- A marker of another round that closes nothing. -/
theorem State.markerIn_ignored (hn : n ≠ (s.res.get k).round) : s.markerIn k peer n false = s := by
  have h : (n != (s.res.get k).round) = true := bne_iff_ne.mpr hn
  rw [State.markerIn]
  simp [h]

/-- This round's marker, or a closing one, on an open input. -/
theorem State.markerIn_accepted (ha : (s.res.get k).phase.alive = true) (hi : ∃ i ∈ (s.res.get k).inputs, i.peer = peer ∧ i.closed = false)
    (hn : closing = true ∨ n = (s.res.get k).round) : s.markerIn k peer n closing =
      if ((s.res.get k).mark peer closing).edgeReady && ((s.res.get k).ctx.get 0).blocked.any (fun b => b.1 == .round) then (s.modRes k (·.mark peer closing)).roundEdge k
      else s.modRes k (·.mark peer closing) := by
  obtain ⟨i, hi, hp, hc⟩ := hi
  have hopen : ((s.res.get k).inputs.any fun i => i.peer == peer && !i.closed) = true := List.any_eq_true.mpr ⟨i, hi, by simp [hp, hc]⟩
  have hround : (!closing && n != (s.res.get k).round) = false := by
    rcases hn with rfl | rfl
    · rfl
    · rw [bne_self_eq_false, Bool.and_false]
  have hk : (s.modRes k (·.mark peer closing)).res.get k = (s.res.get k).mark peer closing := vec_get_set_same _ _ _
  rw [State.markerIn]
  simp only [ha, hopen, hround, hk]
  rfl

end

section
variable (r : Res) (peer : Rank) (closing : Bool)

/-- The inputs after a marker: those of its peer are marked, and closed by a closing one. -/
theorem Res.mark_inputs : (∀ i ∈ (r.mark peer closing).inputs, i.peer = peer → i.marked = true) ∧
    (closing = true → ∀ i ∈ (r.mark peer closing).inputs, i.peer = peer → i.closed = true) := by
  refine ⟨fun i hi hp => ?_, fun hc i hi hp => ?_⟩
  all_goals
    obtain ⟨j, -, rfl⟩ := List.mem_map.mp hi
    by_cases h : j.peer = peer
    · simp_all
    · rw [if_neg h] at hp
      exact absurd hp h

variable {r peer closing}

/-- Another open input still misses its marker. -/
theorem Res.mark_waits (h : ∃ i ∈ r.inputs, i.peer ≠ peer ∧ i.marked = false ∧ i.closed = false) : (r.mark peer closing).edgeReady = false := by
  obtain ⟨i, hi, hp, hm, hc⟩ := h
  exact Res.edgeReady_eq_false (List.mem_map.mpr ⟨i, hi, if_neg hp⟩) hm hc

/-- No other input misses its marker. -/
theorem Res.mark_ready (h : ∀ i ∈ r.inputs, i.peer = peer ∨ i.marked = true ∨ i.closed = true) : (r.mark peer closing).edgeReady = true := by
  refine (Res.edgeReady_iff _).mpr fun i hi => ?_
  obtain ⟨j, hj, rfl⟩ := List.mem_map.mp hi
  by_cases hp : j.peer = peer
  · rw [if_pos hp]
    exact .inl rfl
  · rw [if_neg hp]
    exact (h j hj).resolve_left hp

end

end Sys2Proof.Machine
end

section
/-!
PROOF. Exchange movements and rounds together (O51).
-/

namespace Sys2Proof.Machine

open Sys2Proof

section
variable {s : State} {k : ResNo} {peer : Rank} {n : BitVec 32} {closing : Bool}

/-- A marker behind one of its input that is still to be used waits in the buffer. -/
theorem execMarkerArrival_waits (ha : (s.res.get k).phase.alive = true) (hin : s.core.inbox = []) (he : (s.env.agenda.any fun j => (envelopeOf j).isSome) = false)
    (hn : s.owedPlaces (peer, (s.res.get k).rank) = []) (hs : (s.res.get k).inputShut peer = true) :
    exec (.markerArrival k peer n closing) s = .next (s.withItems [⟨.markerArrival k peer n closing, some []⟩]) := by
  have hroom : s.markerRoom k peer = false := by rw [State.markerRoom, ha, hs]; rfl
  have hx : exec (.markerArrival k peer n closing) s = .next (s.receive (.markerArrival k peer n closing)) := rfl
  rw [hx, State.receive_empty hin he, State.drainOn_marker hn, hroom, if_neg Bool.false_ne_true]

/-- Otherwise it is taken, and its bytes come free. -/
theorem execMarkerArrival_taken (hin : s.core.inbox = []) (he : (s.env.agenda.any fun j => (envelopeOf j).isSome) = false)
    (hn : s.owedPlaces (peer, (s.res.get k).rank) = []) (hs : (s.res.get k).inputShut peer = false) :
    exec (.markerArrival k peer n closing) s = .next ((s.roomBack (s.res.get k).order peer (s.res.get k).rank 16).markerIn k peer n closing) := by
  have hroom : s.markerRoom k peer = true := by rw [State.markerRoom, hs, Bool.not_false, Bool.or_true]
  have hx : exec (.markerArrival k peer n closing) s = .next (s.receive (.markerArrival k peer n closing)) := rfl
  rw [hx, State.receive_empty hin he, State.drainOn_marker hn, hroom, if_pos rfl, State.withItems_nil hin]
  rfl

/-- What a marker that is taken does to the round. -/
theorem State.markerIn_results (ha : (s.res.get k).phase.alive = true) :
    (closing = false → n ≠ (s.res.get k).round → (s.markerIn k peer n closing).res = s.res) ∧
    ((∃ i ∈ (s.res.get k).inputs, i.peer = peer ∧ i.closed = false) → (closing = true ∨ n = (s.res.get k).round) →
      ((∃ i ∈ (s.res.get k).inputs, i.peer ≠ peer ∧ i.marked = false ∧ i.closed = false) → ((s.markerIn k peer n closing).res.get k).round = (s.res.get k).round ∧
        (∀ i ∈ ((s.markerIn k peer n closing).res.get k).inputs, i.peer = peer → i.marked = true) ∧
        (closing = true → ∀ i ∈ ((s.markerIn k peer n closing).res.get k).inputs, i.peer = peer → i.closed = true)) ∧
      ((∀ i ∈ (s.res.get k).inputs, i.peer = peer ∨ i.marked = true ∨ i.closed = true) → (∃ m, (.round, m) ∈ ((s.res.get k).ctx.get 0).blocked) →
        ((s.markerIn k peer n closing).res.get k).round = (s.res.get k).round + 1 ∧
        (∀ b ∈ (((s.markerIn k peer n closing).res.get k).ctx.get 0).blocked, b.1 ≠ .round) ∧
        ∀ i ∈ ((s.markerIn k peer n closing).res.get k).inputs, i.marked = i.closed)) := by
  have hk : (s.modRes k (·.mark peer closing)).res.get k = (s.res.get k).mark peer closing := vec_get_set_same _ _ _
  refine ⟨?_, fun hi hn => ?_⟩
  · rintro rfl hn
    rw [State.markerIn_ignored hn]
  · rw [State.markerIn_accepted ha hi hn]
    refine ⟨fun hw => ?_, fun hall hb => ?_⟩
    · rw [Res.mark_waits hw, Bool.false_and, if_neg Bool.false_ne_true, hk]
      exact ⟨rfl, (s.res.get k).mark_inputs peer closing⟩
    · obtain ⟨m, hb⟩ := hb
      have hany : (((s.res.get k).ctx.get 0).blocked.any fun b => b.1 == .round) = true := List.any_eq_true.mpr ⟨_, hb, beq_self_eq_true _⟩
      rw [Res.mark_ready hall, hany, Bool.and_self, if_pos rfl]
      have h := (s.modRes k (·.mark peer closing)).roundEdge_results k
      rw [hk] at h
      exact h

end

/-- Settles O51: the movements of a phase, its flits, ROUND, and a marker at an empty buffer. -/
theorem exchangeAndRoundResults : Obligations.ExchangeAndRoundResults := by
  refine ⟨fun h a t4 flits cyc peer cycle data s => ⟨execExchMove_enters rfl, execExchMove_enters rfl, fun hm => execExchFlit_open hm peer cycle data,
      fun hm => execExchFlit_closed hm peer cycle data, fun me => ⟨s.judgeFlits_flits me cycle, fun m hh hc hp => ?expected, fun hh => ?collision⟩⟩,
    fun h s => ⟨fun hr => ⟨opRound_check hr, ?round⟩, fun k peer n closing => ?marker⟩⟩
  case expected => exact State.judgeFlits_expected (f := (peer, cycle, data)) ⟨hc, hh, hp⟩ me
  case collision =>
    rcases hh with hlen | ⟨hne, hp⟩
    · change 2 ≤ (s.flitsAt cycle).length at hlen
      refine State.judgeFlits_collision (fun hz => ?_) (fun m f ⟨_, hf, _⟩ => ?_) me
      · simp [hz] at hlen
      · simp [hf] at hlen
    · exact State.judgeFlits_collision hne (fun m f ⟨hc, hf, hpeer⟩ => hp m f hc hf hpeer) me
  case round =>
    obtain ⟨t, hx, hout, hwait, hedge⟩ := execRound_results hr
    refine ⟨t, hx, fun d hd ht => ?_, hwait, hedge⟩
    rcases hout d hd ht with ⟨l, hl, hitem, -⟩ | hy
    · exact .inl ⟨l, hl, hitem⟩
    · exact .inr hy
  case marker =>
    intro r ha hin he ho
    have hn := State.owedPlaces_eq_nil ho
    cases hs : r.inputShut peer with
    | true => exact ⟨_, execMarkerArrival_waits ha hin he hn hs, rfl, fun _ => ⟨rfl, rfl⟩, fun hf => absurd hf.symm Bool.false_ne_true⟩
    | false =>
      refine ⟨_, execMarkerArrival_taken hin he hn hs, ?_⟩
      obtain ⟨hres, hmem, hbox⟩ := s.roomBack_keeps r.order peer r.rank 16
      generalize s.roomBack (s.res.get k).order peer (s.res.get k).rank 16 = b at *
      have hc := b.markerIn_channels (k := k) (peer := peer) (n := n) (closing := closing)
      have hmr := State.markerIn_results (s := b) (k := k) (peer := peer) (n := n) (closing := closing) (hres ▸ ha)
      rw [hres] at hmr
      exact ⟨(congrArg (·.1) hc).trans hmem, fun hf => absurd hf Bool.false_ne_true, fun _ => ⟨((congrArg (·.2.1) hc).trans hbox).trans hin, hmr⟩⟩

end Sys2Proof.Machine
end

section
/-!
PROOF. System instructions (O32): a cause raised after its bundle, and the return from a handler.
-/

namespace Sys2Proof.Machine

open Sys2Proof

/-! ### A cause after the bundle (R204, R368) -/

/-- The mode of a context does not change with where it stands. -/
theorem State.ended_mode (s t : State) (n : Option Pair) : (s.ended t n).c.mode = t.c.mode := congrArg (·.mode) (s.ended_rest t n)

/-- The issue of one instruction that raises a cause after its bundle, in user mode. -/
theorem State.issue_raises {g : State} {o : Op} {q : TrapReq} (ha : o.after (o.eff (g.noteIssue.modC Ctx.landed).atFirst) = some q)
    (hm : (o.late (o.eff (g.noteIssue.modC Ctx.landed).atFirst)).c.mode = false) :
    g.issue [o.alone] = (g.ended (o.late (o.eff (g.noteIssue.modC Ctx.landed).atFirst)) (o.next (o.eff (g.noteIssue.modC Ctx.landed).atFirst))).takeTrap q := by
  have hn : ∀ t, firstNext t [o.alone] = o.next t := fun t => by
    simp only [firstNext, Op.alone]
    cases o.next t <;> rfl
  have hf : firstAfter (o.eff (g.noteIssue.modC Ctx.landed).atFirst) [o.alone] = some q := by simp [firstAfter, Op.alone, ha]
  have he : ∀ t, applyEff [o.alone] t = o.eff t.atFirst := fun _ => rfl
  have hl : ∀ t, applyLate [o.alone] t = o.late t := fun _ => rfl
  rw [State.issue, slotOrder_alone]
  simp only [he, hl, hf, hn]
  exact if_neg (by rw [show ∀ t p, State.advance t g.c.looping p = g.ended t p from fun _ _ => rfl, State.ended_mode, hm]; exact Bool.false_ne_true)

/-- An instruction that issues in user mode and raises a cause after its bundle: the context has gone on, and takes the trap there. -/
theorem runOne_raises {o : Op} {s : State} {q : TrapReq} (hr : o.ready s = true) (ha : o.after (o.eff (o.begun s)) = some q) (hm : (o.late (o.eff (o.begun s))).c.mode = false) :
    runOne o s = .next ((o.issued s).takeTrap q) := by
  simp only [Op.ready, Bool.and_eq_true, Bool.not_eq_true', State.unheld, Option.isNone_iff_eq_none] at hr
  obtain ⟨⟨⟨⟨⟨hp, hw⟩, hl⟩, hb⟩, hmw⟩, hh⟩ := hr
  have hlive := liveOps_alone_of_live hl
  have hrun : runPlaced [o.alone] s = (resolveAll s.seen s.replayBack [o.alone]).issue [o.alone] := by
    rw [runPlaced_passes hp (.inr (by rw [hlive, hb])), hlive, hw, hmw, hh]
    rfl
  have hloop : (resolveAll s.seen s.replayBack [o.alone]).c.looping = s.c.looping := by
    simp only [Ctx.looping, resolveAll, State.resolve_c, State.replayBack_loop]
  rw [show runOne o s = .next (runPlaced [o.alone] s) from rfl, hrun, State.issue_raises ha hm, State.ended, hloop]
  rfl

section
variable {h : CHdr} {s : State}

/-- TRAP goes on to the pair after its bundle and takes USER_TRAP there (R204). -/
theorem execTrap_user (a : BitVec 5) (i : BitVec 7) (hf : s.freeC h 1 = true) (hm : s.c.mode = false) :
    exec (.trap h a i) s = .next ((s.ended s.begun none).takeTrap (trapWith Cause.userTrap (i.zeroExtend 64) (s.begun.c.reg h.s a))) := by
  obtain ⟨hr, hb⟩ := (opTrap h a i).ready_of_free s (fun _ => rfl) (fun _ => rfl) rfl rfl rfl rfl rfl rfl (s.free_mono _ _ 0 1 hf (by decide))
  have hmode : s.begun.c.mode = false := s.begun_fields.2.2.1.trans hm
  have hrun := runOne_raises hr rfl (by rw [hb]; exact hmode)
  rw [Op.issued, hb] at hrun
  exact hrun

/-- BKPT is trapped before any effect (R204). -/
theorem execBkpt_free (hf : s.freeC h 1 = true) : exec (.bkpt h) s = .next (s.takeTrap (trapWith Cause.breakpoint 0 0)) :=
  runOne_trap_free (opBkpt h) s _ _ 1 _ hf rfl rfl rfl

theorem execLimm_free (a : BitVec 5) (sx : Bool) (imm : BitVec 32) (hf : s.freeC h 1 = true) :
    exec (.limm h a sx imm) s = .next (s.wrote (.s (regOf h.s a)) (if sx then imm.signExtend 64 else imm.zeroExtend 64) 1) :=
  runOne_wrote (opLimm h a sx imm) s _ _ _ (fun _ => rfl) (fun _ => rfl) rfl rfl rfl rfl rfl rfl (fun _ => rfl) (fun _ => rfl) (fun _ => rfl) rfl rfl hf

theorem execLimmHi_free (a : BitVec 5) (imm : BitVec 32) (hf : s.freeC h 1 = true) :
    exec (.limmHi h a imm) s = .next (s.wrote (.s (regOf h.s a)) (imm ++ (s.begun.c.reg h.s a).extractLsb' 0 32) 1) :=
  runOne_wrote (opLimmHi h a imm) s _ _ _ (fun _ => rfl) (fun _ => rfl) rfl rfl rfl rfl rfl rfl (fun _ => rfl) (fun _ => rfl) (fun _ => rfl) rfl rfl hf

end

/-! ### SYSRET (R101, R205) -/

theorem Ctx.write_handler (c : Ctx) (d : Dest) (v : Word) : (c.write d v).frozen = c.frozen ∧ (c.write d v).loop = c.loop ∧ (c.write d v).aside = c.aside := by
  cases d <;> simp only [Ctx.write] <;> split <;> exact ⟨rfl, rfl, rfl⟩

/-- Results that land leave what a handler has put aside. -/
theorem landList_handler (l : List Flight) (c : Ctx) : (landList l c).frozen = c.frozen ∧ (landList l c).loop = c.loop ∧ (landList l c).aside = c.aside := by
  induction l generalizing c with
  | nil => exact ⟨rfl, rfl, rfl⟩
  | cons f l ih =>
    obtain ⟨hf, hl, ha⟩ := ih (c.write f.dest f.val)
    obtain ⟨gf, gl, ga⟩ := c.write_handler f.dest f.val
    exact ⟨hf.trans gf, hl.trans gl, ha.trans ga⟩

/-- A return gives the user its results in flight and its loop back. -/
theorem Ctx.back_fields (c : Ctx) : c.back.mode = false ∧ c.back.flight = c.frozen ∧ c.back.frozen = [] ∧ c.back.loop = c.aside.getD c.loop := by
  obtain ⟨hf, hl, ha⟩ := landList_handler c.flight c
  refine ⟨rfl, hf, rfl, ?_⟩
  show (landList c.flight c).aside.getD (landList c.flight c).loop = _
  rw [ha, hl]

theorem State.letGo_c (s : State) : s.letGo.c = s.c := by
  unfold State.letGo
  split
  · exact State.modRes_c s s.curRes _ fun _ => rfl
  · rfl

theorem State.steady_unpark (s : State) : Steady s s.unpark := by
  unfold State.unpark
  split
  · exact s.steady_modCore _
  · exact .refl s

theorem State.steady_wake (s : State) : Steady s s.wake := by
  unfold State.wake
  split <;> exact ⟨rfl, rfl, rfl⟩

theorem State.steady_kick (s : State) : Steady s s.kick := by
  unfold State.kick
  repeat' split
  all_goals exact ⟨rfl, rfl, rfl⟩

/-- At the end of its bundle SYSRET turns the context back. -/
theorem opSysret_late_c (h : CHdr) (t : State) : ((opSysret h).late t).c = t.c.back := by
  simp only [opSysret]
  rw [(State.steady_kick _).c, (State.steady_wake _).c, State.modC_c, (State.steady_unpark _).c, State.letGo_c]

section
variable {h : CHdr} {s : State}

theorem execSysret_supervisor (hf : s.freeC h 1 = true) (hm : s.c.mode = true) :
    exec (.sysret h) s = .next (s.ended ((opSysret h).late s.begun) (some s.c.trap.pc)) := by
  rw [← s.begun_fields.2.2.2.1]
  exact runOne_free (opSysret h) s (s.free_mono _ _ 0 1 hf (by decide)) (fun n => if_pos (s.seen_mode.trans hm)) (fun _ => rfl) rfl rfl rfl rfl rfl rfl fun _ => rfl

theorem execSysret_returns (hf : s.freeC h 1 = true) (hm : s.c.mode = true) : ∃ t, exec (.sysret h) s = .next t ∧ t.c.mode = false ∧ t.c.pc = s.c.trap.pc ∧
    t.c.flight = s.c.frozen ∧ t.c.frozen = [] ∧ t.c.loop = s.c.aside.getD s.c.loop := by
  refine ⟨_, execSysret_supervisor hf hm, ?_⟩
  obtain ⟨y, r, k, hc⟩ := s.begun_c
  obtain ⟨-, ha, hz, -⟩ := s.c.landed_held
  obtain ⟨-, hl, -⟩ := s.c.landed_rest
  obtain ⟨bm, bf, bz, bl⟩ := s.begun.c.back_fields
  generalize he : s.ended ((opSysret h).late s.begun) (some s.c.trap.pc) = t
  have hpc : t.c.pc = s.c.trap.pc := he ▸ (s.ended_taken _ _).1
  have hloop : t.c.loop = s.begun.c.back.loop := by rw [← he, (s.ended_taken _ _).2.2, opSysret_late_c]
  have hflight : t.c.flight = s.begun.c.back.flight := by simp [← he, State.ended, State.advance, opSysret_late_c]
  have hrest := s.ended_rest ((opSysret h).late s.begun) (some s.c.trap.pc)
  rw [he, opSysret_late_c] at hrest
  refine ⟨(congrArg (·.mode) hrest).trans bm, hpc, ?_, (congrArg (·.frozen) hrest).trans bz, ?_⟩
  · rw [hflight, bf, hc]
    exact hz
  · rw [hloop, bl, hc]
    exact congrArg₂ Option.getD ha hl

end

/-! ### ERRQ and PEERCLR (R209, R212) -/

theorem opPeerclr_supervisor {h : CHdr} {a : BitVec 5} {s : State} (hr : (opPeerclr h a).ready s = true) : s.c.mode = true := Op.ready_supervisor hr rfl

/-- The word that ERRQ writes: the number of entries and the overflow bit. -/
theorem errqCount_eq (n : Nat) (ovf : Bool) : n + ovf.toNat <<< 6 = n + if ovf then 64 else 0 := by cases ovf <;> rfl

theorem opErrq_eff_empty {h : CHdr} {a b : BitVec 5} {t : State} (he : t.r.errq = []) :
    (opErrq h a b).eff t = t.result (.s (regOf h.s a)) (BitVec.ofNat 64 (t.r.errq.length + if t.r.errOvf then 64 else 0)) 4 := by
  rw [← errqCount_eq]
  simp only [opErrq, he]
  rfl

theorem opErrq_eff_entry {h : CHdr} {a b : BitVec 5} {t : State} {e : ErrEntry} {l : List ErrEntry} (he : t.r.errq = e :: l) :
    (opErrq h a b).eff t = ((t.result (.s (regOf h.s a)) (BitVec.ofNat 64 (t.r.errq.length + if t.r.errOvf then 64 else 0)) 4).writeBytes (ptrOff (t.c.reg h.s b))
      e.image).modR fun r => { r with errq := l, errOvf := false } := by
  rw [← errqCount_eq]
  simp only [opErrq, he]
  rfl

/-- Settles O32: each instruction from the lemma on its issue, SYSRET by what a return leaves of its context. -/
theorem systemInstructionResults : Obligations.SystemInstructionResults := by
  intro h a b i sx imm s
  refine ⟨execTrap_user a i, execBkpt_free, execLimm_free a sx imm, execLimmHi_free a imm, execSysret_returns, fun hr => ⟨fun he => ?empty, fun e l he => ?entry⟩, fun hr => ⟨opPeerclr_supervisor hr, ?peerclr⟩⟩
  case empty => exact exec_of_effects rfl hr (fun _ => rfl) (fun _ => rfl) (fun _ => rfl) (opErrq_eff_empty he)
  case entry => exact exec_of_effects rfl hr (fun _ => rfl) (fun _ => rfl) (fun _ => rfl) (opErrq_eff_entry he)
  case peerclr => exact exec_of_effects rfl hr (fun _ => rfl) (fun _ => rfl) (fun _ => rfl) rfl

end Sys2Proof.Machine
end

section
/-!
PROOF. The format tags at issue (O37): the tags that a form notes are written at the end of its bundle, as the tags and shapes stand at its issue.
-/

namespace Sys2Proof.Machine

open Sys2Proof

/-! ### The tags of a form (R97, R214) -/

/-- The tags after a list of writes are decided by the tags before it. -/
theorem CoreSt.putTags_tags (l : List TagWrite) {c d : CoreSt} (hf : c.fmt = d.fmt) (hb : c.blg = d.blg) :
    (c.putTags l).fmt = (d.putTags l).fmt ∧ (c.putTags l).blg = (d.putTags l).blg := by
  induction l generalizing c d with
  | nil => exact ⟨hf, hb⟩
  | cons x l ih =>
    obtain ⟨n, f, b⟩ := x
    refine ih (congrArg (·.set n.toNat f n.isLt) hf) ?_
    cases b with
    | none => exact hb
    | some b => exact congrArg (·.set n.toNat b n.isLt) hb

section
variable {s b : State} (h : State.Begins s b)
include h

theorem State.Begins.fmt : b.core.fmt = s.core.fmt := congrArg (·.fmt) h.core
theorem State.Begins.blg : b.core.blg = s.core.blg := congrArg (·.blg) h.core
theorem State.Begins.tagWrites : b.core.tagWrites = [] := congrArg (·.tagWrites) h.core

theorem State.Begins.tag (n : BitVec 4) : b.tag n = s.tag n := by rw [State.tag, State.tag, h.fmt]

theorem State.Begins.shape (n : BitVec 4) : b.shape n = s.shape n := by rw [State.shape, State.shape, h.tshape]

end

/-- The tags with which a bundle of one tile-acting instruction ends. -/
theorem exec_putsTags {i : Instr} {o : Op} {f : TileForm} {s : State} (ho : opOf i = some o) (he : o.Enters f) (hr : o.ready s = true) :
    ∃ b t, State.Begins s b ∧ exec i s = .next t ∧ t.core.fmt = (s.core.putTags (f.tags b)).fmt ∧ t.core.blg = (s.core.putTags (f.tags b)).blg := by
  obtain ⟨a, t, ht⟩ := he.touch
  have hB := Op.begins hr fun a' t' => (ht _).trans (ht _).symm
  refine ⟨o.begun s, _, hB, (exec_eq_runOne i o s ho).trans (runOne_ready o s hr (he.after _)), ?_⟩
  rw [Op.issued, he.late, he.eff]
  show (CoreSt.putTags _ ((o.begun s).core.tagWrites ++ f.tags (o.begun s))).fmt = _ ∧ (CoreSt.putTags _ ((o.begun s).core.tagWrites ++ f.tags (o.begun s))).blg = _
  rw [hB.tagWrites, List.nil_append]
  exact CoreSt.putTags_tags _ hB.fmt hB.blg

/-- The instruction gives tile `n` the tag `x`, and leaves the tags of the others. -/
def State.SetsTag (s : State) (i : Instr) (o : Op) (n : BitVec 4) (x : BitVec 5) : Prop :=
  o.ready s = true → ∃ t, exec i s = .next t ∧ t.core.fmt = s.core.fmt.set n.toNat x n.isLt

/-- The instruction leaves every tag. -/
def State.KeepsTags (s : State) (i : Instr) (o : Op) : Prop :=
  o.ready s = true → ∃ t, exec i s = .next t ∧ t.core.fmt = s.core.fmt ∧ t.core.blg = s.core.blg

section
variable {s : State} {i : Instr} {o : Op} {f : TileForm} {n : BitVec 4} {y : State → Option (BitVec 3)} (ho : opOf i = some (opTile o f)) (ha : ∀ t, o.after t = none)
include ho ha

theorem setsTag_of_write {x : State → BitVec 5} {z : BitVec 5} (hf : ∀ v, f.tags v = [(n, x v, y v)]) (hx : ∀ b, State.Begins s b → x b = z) :
    s.SetsTag i (opTile o f) n z := fun hr => by
  obtain ⟨b, t, hB, ht, hfmt, -⟩ := exec_putsTags ho (opTile_enters o f ha) hr
  refine ⟨t, ht, ?_⟩
  rw [hfmt, hf, hx b hB]
  rfl

/-- A tag that the encoding names. -/
theorem setsTag_named (z : BitVec 5) (hf : ∀ v, f.tags v = [(n, z, y v)]) : s.SetsTag i (opTile o f) n z :=
  setsTag_of_write ho ha hf fun _ _ => rfl

/-- The tag of a tile, as it stands at issue. -/
theorem setsTag_source (a : BitVec 4) (hf : ∀ v, f.tags v = [(n, v.tag a, y v)]) : s.SetsTag i (opTile o f) n (s.tag a) :=
  setsTag_of_write ho ha hf fun _ hB => hB.tag a

/-- A tag that goes by the shape of a tile, as it stands at issue. -/
theorem setsTag_shape (g : Shape → BitVec 5) (a : BitVec 4) (hf : ∀ v, f.tags v = [(n, g (v.shape a), y v)]) : s.SetsTag i (opTile o f) n (g (s.shape a)) :=
  setsTag_of_write ho ha hf fun _ hB => congrArg g (hB.shape a)

theorem keepsTags_of_none (hf : ∀ v, f.tags v = []) : s.KeepsTags i (opTile o f) := fun hr => by
  obtain ⟨b, t, -, ht, hfmt, hblg⟩ := exec_putsTags ho (opTile_enters o f ha) hr
  refine ⟨t, ht, ?_⟩
  rw [hfmt, hblg, hf]
  exact ⟨rfl, rfl⟩

end

/-! ### The obligation -/

/-- Settles O37: each instruction by the one tag that its form notes, if any: that of a source, one that the encoding or a shape names, or its destination's own. -/
theorem tileTagsAtIssue : Obligations.TileTagsAtIssue := by
  intro h g d a b k m j q v c r s
  refine ⟨⟨?_, ?_, ?_, ?_, ?_, ?_, ?_, ?_, ?_⟩, ⟨?_, ?_, ?_, ?_, ?_, ?_, ?_, ?_, ?_, ?_⟩, ⟨?tcvt, ?tdq, ?tqnt, ?tmaxi, ?tmini, ?tidx, ?mcnt, ?accrd, ?tredSum, ?tredMax, ?tredMin⟩,
    ⟨?tfill, ?tcmp, ?tcas, ?mlog, ?accwr, ?accwrAdd, ?mma, ?mmaX, ?sft⟩⟩
  case tcvt | tdq | tqnt => exact setsTag_named rfl (fun _ => rfl) _ fun _ => rfl
  case tmaxi | tmini => exact setsTag_shape rfl (fun _ => rfl) (fun sh => indexTag sh.ew) b fun _ => rfl
  case tidx | mcnt => exact setsTag_shape rfl (fun _ => rfl) (fun sh => indexTag sh.ew) d fun _ => rfl
  case accrd => exact setsTag_shape rfl (fun _ => rfl) (fun sh => accrdTag sh.ew v) d fun _ => rfl
  case tredSum | tredMax | tredMin => exact setsTag_source rfl (fun _ => rfl) d fun _ => rfl
  case tfill | tcmp | tcas | mlog | accwr | accwrAdd | mma | mmaX | sft => exact keepsTags_of_none rfl (fun _ => rfl) fun _ => rfl
  all_goals exact setsTag_source rfl (fun _ => rfl) a fun _ => rfl

end Sys2Proof.Machine
end

section
/-!
PROOF. A step of a matrix task (O39): the words that a list of accumulations writes, and the words of a block.
-/

namespace Sys2Proof.Machine

open Sys2Proof

/-! ### Words of a rectangle (R186) -/

theorem AccDesc.key_apart (d : AccDesc) {p q : Nat × Nat} (hp : 32 * d.cblk.toNat + p.2 < 256) (hq : 32 * d.cblk.toNat + q.2 < 256) (h : p ≠ q) :
    d.key p.1 p.2 + 4 ≤ d.key q.1 q.2 ∨ d.key q.1 q.2 + 4 ≤ d.key p.1 p.2 := by
  have hne : p.1 ≠ q.1 ∨ p.2 ≠ q.2 := by
    by_contra hc
    push Not at hc
    exact h (Prod.ext hc.1 hc.2)
  simp only [AccDesc.key, accKey]
  omega

theorem memNat_congr {m m' : List Host.Cell} {a n : Nat} (h : ∀ k < n, memGet m (a + k) = memGet m' (a + k)) : memNat m a n = memNat m' a n := by
  rw [memNat, memNat, memBytes_eq_map, memBytes_eq_map]
  exact congrArg leNat (List.map_congr_left fun k hk => h k (List.mem_range.mp hk))

theorem memGet_accPut_other {d : AccDesc} {m : List Host.Cell} (hm : Memory.wf m = true) (i j v : Nat) {x : Nat} (hx : x < d.key i j ∨ d.key i j + 4 ≤ x) :
    memGet (accPut d i j v m) x = memGet m x := memGet_memPut_other _ m _ x hm (by rwa [length_leBytes])

theorem accGet_accPut_same {d : AccDesc} {m : List Host.Cell} (hm : Memory.wf m = true) (i j v : Nat) : accGet (accPut d i j v m) d i j = v % 2 ^ 32 :=
  memNat_memPut_leBytes hm _ 4 v

/-! ### A list of words written one after another -/

/-- The words `ps` of a rectangle, each written with the value that `f` gives it under the LFSR as it then stands. -/
def accPuts (d : AccDesc) (f : Nat × Nat → BitVec 32 → Nat × BitVec 32) (ps : List (Nat × Nat)) (w : Work) : Work :=
  ps.foldl (fun acc p => (accPut d p.1 p.2 (f p acc.2).1 acc.1, (f p acc.2).2)) w

section
variable {d : AccDesc} {f : Nat × Nat → BitVec 32 → Nat × BitVec 32} {ps : List (Nat × Nat)} {w : Work}

theorem accPuts_other (hw : Memory.wf w.1 = true) {x : Nat} (hx : ∀ p ∈ ps, x < d.key p.1 p.2 ∨ d.key p.1 p.2 + 4 ≤ x) : memGet (accPuts d f ps w).1 x = memGet w.1 x := by
  induction ps generalizing w with
  | nil => rfl
  | cons p ps ih =>
    exact (ih (inv_accPut _ _ _ _ _ hw) fun q hq => hx q (List.mem_cons_of_mem p hq)).trans (memGet_accPut_other hw _ _ _ (hx p List.mem_cons_self))

/-- A word outside the list keeps its value, where the words lie apart. -/
theorem accPuts_outside (hw : Memory.wf w.1 = true) {q : Nat × Nat} (hc : ∀ p ∈ ps, 32 * d.cblk.toNat + p.2 < 256) (hq : 32 * d.cblk.toNat + q.2 < 256) (hn : q ∉ ps) :
    accGet (accPuts d f ps w).1 d q.1 q.2 = accGet w.1 d q.1 q.2 :=
  memNat_congr fun k hk => accPuts_other hw fun p hp => by
    have := d.key_apart (hc p hp) hq fun e => hn (e ▸ hp)
    omega

/-- A word of the list takes its value, where no value changes the LFSR. -/
theorem accPuts_at (hw : Memory.wf w.1 = true) (hf : ∀ p, (f p w.2).2 = w.2) {q : Nat × Nat} (hc : ∀ p ∈ ps, 32 * d.cblk.toNat + p.2 < 256) (hq : q ∈ ps) :
    accGet (accPuts d f ps w).1 d q.1 q.2 = (f q w.2).1 % 2 ^ 32 := by
  induction ps generalizing w with
  | nil => cases hq
  | cons p ps ih =>
    have hw' : Memory.wf (accPut d p.1 p.2 (f p w.2).1 w.1) = true := inv_accPut _ _ _ _ _ hw
    have hps : ∀ r ∈ ps, 32 * d.cblk.toNat + r.2 < 256 := fun r hr => hc r (List.mem_cons_of_mem p hr)
    have hstep : accPuts d f (p :: ps) w = accPuts d f ps (accPut d p.1 p.2 (f p w.2).1 w.1, w.2) := by rw [accPuts, List.foldl_cons, hf, accPuts]
    rw [hstep]
    by_cases hin : q ∈ ps
    · exact ih (w := (_, w.2)) hw' hf hps hin
    · obtain rfl : q = p := (List.mem_cons.mp hq).resolve_right hin
      exact (accPuts_outside hw' hps (hc q hq) hin).trans (accGet_accPut_same hw _ _ _)

end

/-! ### The accumulations of one word (R71 to R74) -/

theorem foldl_lfsr {α : Type} {f : Nat × BitVec 32 → α → Nat × BitVec 32} (hf : ∀ c k, (f c k).2 = c.2) (ks : List α) (c : Nat × BitVec 32) : (ks.foldl f c).2 = c.2 := by
  induction ks generalizing c with
  | nil => rfl
  | cons k ks ih => exact (ih _).trans (hf c k)

/-- Only stochastic rounding takes a value of the LFSR (R68). -/
theorem accTerm_lfsr {rm : BitVec 3} (h : rm ≠ 4) (acc : Nat × BitVec 32) (v : Val) : (accTerm rm acc v).2 = acc.2 :=
  if_neg fun e => h (BitVec.eq_of_toNat_eq e)

theorem mmaElem_lfsr {rm : BitVec 3} (h : rm ≠ 4) (oa ob : Opnd) (m : List Host.Cell) (i j k0 k1 : Nat) (acc : Nat × BitVec 32) :
    (mmaElem oa ob rm m i j k0 k1 acc).2 = acc.2 := by
  unfold mmaElem
  extract_lets av bv ks bl
  split
  · refine foldl_lfsr (fun c k => ?_) _ acc
    extract_lets d
    split
    · rfl
    · exact accTerm_lfsr h _ _
  split
  · refine foldl_lfsr (fun c k => ?_) _ acc
    rfl
  split
  · exact foldl_lfsr (fun _ _ => accTerm_lfsr h _ _) _ acc
  · exact foldl_lfsr (fun _ _ => accTerm_lfsr h _ _) _ acc

theorem mem_blockElems {ib jb m n i j : Nat} : (i, j) ∈ blockElems ib jb m n ↔ i < m ∧ j < n ∧ i / 32 = ib ∧ j / 32 = jb := by
  have hb : ∀ {x b n : Nat}, x ∈ ((List.range 32).map (32 * b + ·)).filter (· < n) ↔ x < n ∧ x / 32 = b := fun {x b n} => by
    simp only [List.mem_filter, List.mem_map, List.mem_range, decide_eq_true_eq]
    constructor
    · rintro ⟨⟨y, hy, rfl⟩, hn⟩
      exact ⟨hn, by omega⟩
    · rintro ⟨hn, rfl⟩
      exact ⟨⟨x % 32, by omega, by omega⟩, hn⟩
  simp only [blockElems, List.mem_flatMap, List.mem_map, hb, Prod.mk.injEq]
  constructor
  · rintro ⟨a, ⟨hm, hi⟩, b, ⟨hn, hj⟩, rfl, rfl⟩
    exact ⟨hm, hn, hi, hj⟩
  · rintro ⟨hm, hn, hi, hj⟩
    exact ⟨i, ⟨hm, hi⟩, j, ⟨hn, hj⟩, rfl, rfl⟩

/-- The value that the present step of a matrix task gives a word: the block's accumulation onto the word before it (R227). -/
def Task.mmaWord (t : Task) (a b : BitVec 4) (rm : BitVec 3) (m : List Host.Cell) (p : Nat × Nat) (l : BitVec 32) : Nat × BitVec 32 :=
  let kl := kBlock (t.opnd 0 a).fmt
  mmaElem (t.opnd 0 a) (t.opnd 1 b) rm m p.1 p.2 (t.kb * kl) (min (mmaDims t a b false).2.2 ((t.kb + 1) * kl)) (accGet m t.desc p.1 p.2, l)

theorem taskWork_mma (t : Task) (h : CHdr) (k : BitVec 3) (a b : BitVec 4) (rm : BitVec 3) (w : Work) : taskWork { t with instr := .mma h k a b rm } w =
    accPuts t.desc (t.mmaWord a b rm w.1) (blockElems t.pos t.jb (mmaDims t a b false).1 (mmaDims t a b false).2.1) w := rfl

/-- Settles O39: a step is a list of words written, those of its block, each with its accumulation. -/
theorem matrixStepWritesItsBlock : Obligations.MatrixStepWritesItsBlock := by
  intro t h k a b rm m l hm _ hcols m' dims kl
  have hstep : m' = (accPuts t.desc (t.mmaWord a b rm m) (blockElems t.pos t.jb dims.1 dims.2.1) (m, l)).1 := congrArg (·.1) (taskWork_mma t h k a b rm (m, l))
  have hcol : dims.2.1 ≤ t.desc.cols.toNat := Nat.min_le_right _ _
  have hc : ∀ p ∈ blockElems t.pos t.jb dims.1 dims.2.1, 32 * t.desc.cblk.toNat + p.2 < 256 := fun p hp => by
    obtain ⟨-, hn, -⟩ := mem_blockElems.mp hp
    omega
  rw [hstep]
  refine ⟨fun i j hi hj hb hjb hrm => ?_, fun x hx => ?_⟩
  · exact accPuts_at hm (fun p => mmaElem_lfsr hrm ..) hc (q := (i, j)) (mem_blockElems.mpr ⟨hi, hj, hb, hjb⟩)
  · refine accPuts_other hm fun p hp => ?_
    obtain ⟨hi, hj, hb, hjb⟩ := mem_blockElems.mp hp
    exact hx p.1 p.2 hi hj hb hjb

end Sys2Proof.Machine
end

section
/-!
PROOF. What leaves the core for the servers (O41, O43): requests that are sent are held at the network interface or enter the router, and nothing that was on its way is lost.
-/

namespace Sys2Proof.Machine

open Sys2Proof

/-! ### Requests on their way -/

/-- A request but for what the store buffer has served of it and its source timer. -/
def Req.fixed (q : Req) : Req := { q with got := [], due := none }

/-- A request as it was issued, whether the store buffer holds it or not. -/
def Req.issued (q : Req) : Req := { q.fixed with buffered := false }

/-- What is on its way stays so; the channels and the awaited results of the present context are the same. -/
structure State.Grows (s t : State) : Prop where
  ni : ∀ n ∈ s.core.ni, n ∈ t.core.ni
  router : ∀ p ∈ s.core.router, p ∈ t.core.router
  agenda : ∀ i ∈ s.env.agenda, i ∈ t.env.agenda
  chans : t.r.chans = s.r.chans
  awaits : t.c.awaits = s.c.awaits

/-- Requests or copies have left the core, or are held at its network interface. -/
structure State.Leaves (s t : State) : Prop extends State.Grows s t where
  reqs : t.core.reqs.map Req.fixed = s.core.reqs.map Req.fixed
  buffer : t.cl.buffer = s.cl.buffer

/-- Atomics and copies may have entered the store buffer beside. -/
structure State.Enters (s t : State) : Prop extends State.Grows s t where
  reqs : t.core.reqs.map Req.issued = s.core.reqs.map Req.issued
  buffer : s.cl.buffer <+: t.cl.buffer

section
variable {s t u : State}

theorem State.Grows.refl (s : State) : Grows s s := ⟨fun _ h => h, fun _ h => h, fun _ h => h, rfl, rfl⟩

theorem State.Grows.trans (h : Grows s t) (g : Grows t u) : Grows s u :=
  ⟨fun n hn => g.ni n (h.ni n hn), fun p hp => g.router p (h.router p hp), fun i hi => g.agenda i (h.agenda i hi), g.chans.trans h.chans, g.awaits.trans h.awaits⟩

theorem State.Leaves.refl (s : State) : Leaves s s := ⟨.refl s, rfl, rfl⟩

theorem State.Leaves.trans (h : Leaves s t) (g : Leaves t u) : Leaves s u :=
  ⟨h.toGrows.trans g.toGrows, g.reqs.trans h.reqs, g.buffer.trans h.buffer⟩

theorem State.Enters.refl (s : State) : Enters s s := ⟨.refl s, rfl, List.prefix_refl _⟩

theorem State.Enters.trans (h : Enters s t) (g : Enters t u) : Enters s u :=
  ⟨h.toGrows.trans g.toGrows, g.reqs.trans h.reqs, h.buffer.trans g.buffer⟩

theorem State.Leaves.enters (h : Leaves s t) : Enters s t where
  toGrows := h.toGrows
  reqs := by
    have e := congrArg (List.map Req.issued) h.reqs
    rwa [List.map_map, List.map_map] at e
  buffer := h.buffer ▸ List.prefix_refl _

/-- A request is still in the list, as it was issued. -/
theorem State.Enters.mem (h : Enters s t) {q : Req} (hq : q ∈ s.core.reqs) : ∃ y ∈ t.core.reqs, y.issued = q.issued :=
  List.mem_map.mp (h.reqs ▸ List.mem_map_of_mem (f := Req.issued) hq)

/-- Two lists of requests that look the same through `f` answer a question alike that sees no more. -/
theorem any_of_map_eq {f : Req → Req} {l m : List Req} (h : l.map f = m.map f) (p : Req → Bool) (hp : ∀ x, p (f x) = p x) : l.any p = m.any p := by
  have e := congrArg (List.any · p) h
  rwa [List.any_map, List.any_map, show p ∘ f = p from funext hp] at e

theorem find?_of_map_eq {f : Req → Req} {l m : List Req} (h : l.map f = m.map f) (p : Req → Bool) (hp : ∀ x, p (f x) = p x) : (l.find? p).map f = (m.find? p).map f := by
  have e := congrArg (List.find? p) h
  rwa [List.find?_map, List.find?_map, show p ∘ f = p from funext hp] at e

theorem State.Enters.reqOf (h : Enters s t) (id : Nat) : (t.reqOf id).map Req.issued = (s.reqOf id).map Req.issued := find?_of_map_eq h.reqs _ fun _ => rfl

theorem State.Leaves.reqOf (h : Leaves s t) (id : Nat) : (t.reqOf id).map Req.fixed = (s.reqOf id).map Req.fixed := find?_of_map_eq h.reqs _ fun _ => rfl

theorem State.Enters.reqOf_isSome (h : Enters s t) {id : Nat} (hs : (s.reqOf id).isSome = true) : (t.reqOf id).isSome = true := by
  have e := congrArg Option.isSome (h.reqOf id)
  rw [Option.isSome_map, Option.isSome_map] at e
  exact e.trans hs

/-! ### What holds a request is the same after others have left -/

/-- The request of a number is missing in both states, or looks the same in both. -/
theorem reqOf_cases {f : Req → Req} {id : Nat} (e : (t.reqOf id).map f = (s.reqOf id).map f) :
    (t.reqOf id = none ∧ s.reqOf id = none) ∨ ∃ x y, t.reqOf id = some x ∧ s.reqOf id = some y ∧ f x = f y := by
  cases ht : t.reqOf id with
  | none =>
    rw [ht] at e
    exact .inl ⟨rfl, Option.map_eq_none_iff.mp e.symm⟩
  | some x =>
    rw [ht] at e
    obtain ⟨y, hy, hxy⟩ := Option.map_eq_some_iff.mp e.symm
    exact .inr ⟨x, y, rfl, hy, hxy.symm⟩

theorem State.Leaves.behindOwn (h : Leaves s t) (q : ServerReq) : t.behindOwn q = s.behindOwn q := by
  unfold State.behindOwn
  obtain ⟨ht, hs⟩ | ⟨x, y, ht, hs, hxy⟩ := reqOf_cases (h.reqOf q.id)
  · rw [ht, hs]
  · rw [ht, hs]
    dsimp only
    rw [show x.res = y.res from congrArg (·.res) hxy, show x.ctx = y.ctx from congrArg (·.ctx) hxy]
    exact any_of_map_eq h.reqs _ fun _ => rfl

theorem State.Leaves.heldBack (h : Leaves s t) {q : ServerReq} (hq : q.own = true) : t.heldBack q = s.heldBack q := by
  unfold State.heldBack State.bufferBefore State.bufferFor
  rw [if_pos hq, if_pos hq, if_pos hq, if_pos hq, h.behindOwn, h.buffer]

theorem State.Leaves.copyWaits (h : Leaves s t) {p q : Req} (hq : p.fixed = q.fixed) : t.copyWaits p = s.copyWaits q := by
  have e : t.copyWaits p = t.copyWaits q := (congrArg t.copyWaits hq : t.copyWaits p.fixed = t.copyWaits q.fixed)
  rw [e]
  unfold State.copyWaits
  rw [h.buffer]
  exact congrArg _ (any_of_map_eq h.reqs _ fun _ => rfl)

theorem State.Leaves.holdsCopy (h : Leaves s t) (p : PorterCopy) : t.holds (.copyRequest p) = s.holds (.copyRequest p) := by
  show (t.reqOf p.id).any t.copyWaits = (s.reqOf p.id).any s.copyWaits
  obtain ⟨ht, hs⟩ | ⟨x, y, ht, hs, hxy⟩ := reqOf_cases (h.reqOf p.id)
  · rw [ht, hs]
    rfl
  · rw [ht, hs]
    exact h.copyWaits hxy

/-- Whether an earlier read is left does not depend on what the store buffer holds (R292). -/
theorem State.readsBefore_eq {p q : Req} (h : t.core.reqs.map Req.issued = s.core.reqs.map Req.issued) (hq : p.issued = q.issued) : t.readsBefore p = s.readsBefore q := by
  have e : t.readsBefore p = t.readsBefore q := (congrArg t.readsBefore hq : t.readsBefore p.issued = t.readsBefore q.issued)
  rw [e]
  exact any_of_map_eq h _ fun _ => rfl

end

/-! ### Each step towards the network -/

section
variable (s : State)

theorem State.leaves_pin (p c : Nat) : Leaves s (s.pin p c) := by
  unfold State.pin
  dsimp only
  split <;> exact ⟨⟨fun _ h => h, fun _ h => h, fun _ h => h, rfl, rfl⟩, rfl, rfl⟩

theorem State.leaves_openContext (o : Out) (t : Target) : Leaves s (s.openContext o t) := by
  unfold State.openContext
  split
  · split
    · exact s.leaves_pin _ _
    · unfold State.spread
      dsimp only
      split <;> exact ⟨⟨fun _ h => h, fun _ h => h, fun _ h => h, rfl, rfl⟩, rfl, rfl⟩
    · exact .refl s
  · exact .refl s

theorem State.leaves_enterRouter (p : Parcel) : Leaves s (s.enterRouter p) := by
  unfold State.enterRouter
  split <;> exact ⟨⟨fun _ h => h, fun _ h => List.mem_append_left _ h, fun _ h => h, rfl, rfl⟩, rfl, rfl⟩

theorem State.leaves_toRouter (x : Inject) : Leaves s (s.toRouter x) := by
  unfold State.toRouter
  dsimp only
  split
  · exact (s.leaves_openContext _ _).trans (State.leaves_enterRouter _ _)
  · exact .refl s

theorem State.leaves_post (i : Instr) : Leaves s (s.post i) := ⟨⟨fun _ h => h, fun _ h => h, fun _ h => List.mem_append_left _ h, rfl, rfl⟩, rfl, rfl⟩

theorem State.leaves_after (n : Nat) (i : Instr) : Leaves s (s.after n i) := ⟨⟨fun _ h => h, fun _ h => h, fun _ h => h, rfl, rfl⟩, rfl, rfl⟩

theorem State.leaves_answerCut (id pkg : Nat) : Leaves s (s.answerCut id pkg) := by
  unfold State.answerCut
  split
  · exact s.leaves_post _
  · exact .refl s

theorem State.leaves_goesOut (id pkg cls : Nat) : Leaves s (s.goesOut id pkg cls) := (s.leaves_pin _ _).trans (State.leaves_answerCut _ _ _)

/-- A change of a request that `g` does not see. -/
theorem State.map_modReq (id : Nat) (f g : Req → Req) (hf : ∀ q, g (f q) = g q) : (s.modReq id f).core.reqs.map g = s.core.reqs.map g := by
  show (s.core.reqs.map _).map g = _
  rw [List.map_map]
  refine List.map_congr_left fun q _ => ?_
  show g (if q.id = id then f q else q) = g q
  split
  · exact hf q
  · rfl

theorem State.leaves_modReq (id : Nat) (f : Req → Req) (hf : ∀ q, (f q).fixed = q.fixed) : Leaves s (s.modReq id f) :=
  ⟨⟨fun _ h => h, fun _ h => h, fun _ h => h, rfl, rfl⟩, s.map_modReq id f _ hf, rfl⟩

theorem State.leaves_startTimer (id : Nat) : Leaves s (s.startTimer id) := by
  unfold State.startTimer
  split
  · exact .refl s
  · split
    · exact .refl s
    · next q _ _ =>
      have hd : Leaves s (s.modReq id fun x => { x with due := s.timerEnd (s.farPkg x) }) := s.leaves_modReq _ _ fun _ => rfl
      have ha := hd.trans (State.leaves_after _ (2250 * s.core.dptimeout.toNat) .sourceTimeout)
      exact ha.trans (State.leaves_goesOut _ _ _ _)

/-- A change of one context that neither the channels nor the awaited results see. -/
theorem State.leaves_modCtx (k : ResNo) (c : CtxNo) (f : Ctx → Ctx) (hf : ∀ x, (f x).awaits = x.awaits) : Leaves s (s.modRes k fun r => r.modCtx c f) := by
  refine ⟨⟨fun _ h => h, fun _ h => h, fun _ h => h, ?_, ?_⟩, rfl, rfl⟩
  · by_cases hk : s.curRes = k
    · subst hk
      have e := congrArg Res.chans (State.modR_r s fun r => r.modCtx c f)
      exact e
    · exact congrArg Res.chans (vec_get_set_other _ _ _ _ hk)
  · by_cases hk : s.curRes = k
    · subst hk
      show (((s.modR _).r).ctx.get s.curCtx).awaits = _
      rw [State.modR_r]
      by_cases hc : s.curCtx = c
      · subst hc; rw [Res.modCtx_get]; exact hf _
      · rw [Res.modCtx_get_other _ _ _ _ hc]; rfl
    · exact congrArg (fun r : Res => (r.ctx.get s.curCtx).awaits) (vec_get_set_other _ _ _ _ hk)

theorem State.leaves_forwardRead (q : ServerReq) (n : Nat) : Leaves s (s.forwardRead q n).1 := by
  unfold State.forwardRead
  split
  · exact .refl s
  · next me _ =>
    extract_lets got s1
    have h1 : Leaves s s1 := s.leaves_modCtx me.res me.ctx _ fun _ => rfl
    clear_value s1
    split
    · exact h1.trans (s1.leaves_post _)
    · exact h1.trans (s1.leaves_modReq _ _ fun _ => rfl)

theorem State.leaves_leaveNi (x : Inject) : Leaves s (s.leaveNi x) := by
  unfold State.leaveNi
  split
  · split
    · exact .refl s
    · split
      · split
        · exact s.leaves_forwardRead _ _
        · exact ((s.leaves_forwardRead _ _).trans (State.leaves_startTimer _ _)).trans (State.leaves_toRouter _ _)
      · exact (s.leaves_startTimer _).trans (State.leaves_toRouter _ _)
  · exact (s.leaves_startTimer _).trans (State.leaves_toRouter _ _)
  · exact s.leaves_toRouter _

theorem State.leaves_sendOut (o : Out) : Leaves s (s.sendOut o) := by
  unfold State.sendOut
  split
  · exact ⟨⟨fun _ h => List.mem_append_left _ h, fun _ h => h, fun _ h => h, rfl, rfl⟩, rfl, rfl⟩
  · exact s.leaves_leaveNi _

theorem State.leaves_sendPieces (q : Req) (op : Nat → Nat → ServerOp) (l : List (Nat × Nat × Nat)) (k : Nat) : Leaves s (s.sendPieces q op l k) := by
  induction l generalizing s k with
  | nil => exact .refl s
  | cons x l ih => exact (s.leaves_sendOut _).trans (ih _ _)

theorem State.leaves_sendCopy (q : Req) : Leaves s (s.sendCopy q) := by
  unfold State.sendCopy
  extract_lets p
  split
  · exact s.leaves_post _
  · exact s.leaves_sendOut _

/-- The bundle ends. -/
theorem State.leaves_ended (v : State) (n : Option Pair) : Leaves v (s.ended v n) :=
  ⟨⟨fun _ h => h, fun _ h => h, fun _ h => h, congrArg (·.chans) (s.ended_r v n), s.ended_awaits v n⟩, rfl, rfl⟩

end

/-! ### Where a request or a copy is after it has been sent (R292, R423, R481) -/

/-- An item stands at the network interface while something holds it, else in the router. -/
def State.OnWay (t : State) (o : Out) : Prop :=
  (t.holds o = true → ∃ n ∈ t.core.ni, n.item = o) ∧ (t.holds o = false → ∃ p ∈ t.core.router, p.item = o ∧ p.vc = 0 ∧ p.port = portLocal)

theorem State.Grows.onWay {t u : State} {o : Out} (h : Grows t u) (ho : u.holds o = t.holds o) (ht : t.OnWay o) : u.OnWay o := by
  refine ⟨fun hu => ?_, fun hu => ?_⟩
  · obtain ⟨n, hn, hi⟩ := ht.1 (ho ▸ hu)
    exact ⟨n, h.ni n hn, hi⟩
  · obtain ⟨p, hp, hi⟩ := ht.2 (ho ▸ hu)
    exact ⟨p, h.router p hp, hi⟩

theorem State.toRouter_request (s : State) (q : ServerReq) (wh : Bool) (n m : Nat) :
    ∃ p ∈ (s.toRouter ⟨.request q wh, n, m⟩).core.router, p.item = .request q wh ∧ p.vc = 0 ∧ p.port = portLocal :=
  ⟨_, List.mem_append_right _ (List.mem_singleton_self _), rfl, rfl, rfl⟩

theorem State.toRouter_copyRequest (s : State) (c : PorterCopy) (n m : Nat) :
    ∃ p ∈ (s.toRouter ⟨.copyRequest c, n, m⟩).core.router, p.item = .copyRequest c ∧ p.vc = 0 ∧ p.port = portLocal :=
  ⟨_, List.mem_append_right _ (List.mem_singleton_self _), rfl, rfl, rfl⟩

section
variable {s : State}

/-- What is held is put to the network interface, what is not goes on. -/
theorem State.sendOut_onWay {o : Out} (ho : (s.sendOut o).holds o = s.holds o)
    (hl : ∃ p ∈ (s.leaveNi ⟨o, 0, o.size⟩).core.router, p.item = o ∧ p.vc = 0 ∧ p.port = portLocal) : (s.sendOut o).OnWay o := by
  refine ⟨fun h => ?_, fun h => ?_⟩
  · rw [ho] at h
    rw [State.sendOut, if_pos h]
    exact ⟨_, List.mem_append_right _ (List.mem_singleton_self _), rfl⟩
  · rw [ho] at h
    rwa [State.sendOut, if_neg (by rw [h]; exact Bool.false_ne_true)]

theorem State.sendOut_copyRequest (p : PorterCopy) : (s.sendOut (.copyRequest p)).OnWay (.copyRequest p) :=
  State.sendOut_onWay ((s.leaves_sendOut _).holdsCopy p) (State.toRouter_copyRequest _ p _ _)

/-- A write or an atomic of a request of the core. -/
theorem State.sendOut_request {q : ServerReq} {wh : Bool} (hq : q.own = true) (hs : (s.reqOf q.id).isSome = true) (hr : ∀ n, q.op ≠ .read n) :
    (s.sendOut (.request q wh)).OnWay (.request q wh) := by
  refine State.sendOut_onWay ((s.leaves_sendOut _).heldBack hq) ?_
  obtain ⟨me, hme⟩ := Option.isSome_iff_exists.mp hs
  unfold State.leaveNi
  dsimp only
  rw [hme]
  dsimp only
  split
  · next n hn => exact absurd hn (hr n)
  · exact State.toRouter_request _ q wh _ _

/-- The active message of a copy has come to its Porter, or is on its way there. -/
def State.CopySent (t : State) (q : Req) : Prop :=
  let p : PorterCopy := ⟨q.id, true, q.kind == 5, q.porter⟩
  if Rank.core q.porter = 0 then Instr.porterActiveMessage p ∈ t.env.agenda else t.OnWay (.copyRequest p)

theorem State.Leaves.copySent {t u : State} {p q : Req} (h : Leaves t u) (hq : p.issued = q.issued) (ht : t.CopySent q) : u.CopySent p := by
  suffices hu : u.CopySent q from (congrArg u.CopySent hq : u.CopySent p.issued = u.CopySent q.issued) ▸ hu
  unfold State.CopySent at ht ⊢
  dsimp only at ht ⊢
  split
  · rw [if_pos ‹_›] at ht
    exact h.agenda _ ht
  · rw [if_neg ‹_›] at ht
    exact h.onWay (h.holdsCopy _) ht

theorem State.sendCopy_sent (q : Req) : (s.sendCopy q).CopySent q := by
  unfold State.CopySent State.sendCopy
  dsimp only
  split
  · exact List.mem_append_right _ (List.mem_singleton_self _)
  · exact State.sendOut_copyRequest _

/-- A read is held, or on its way to its server, or the store buffer has answered it whole (R293). -/
def State.ReadSent (t : State) (buf : List Buffered) (q : ServerReq) (n : Nat) : Prop :=
  (t.heldBack q = true → ∃ x ∈ t.core.ni, x.item = .request q false) ∧
  (t.heldBack q = false → (∃ p ∈ t.core.router, p.item = .request q false ∧ p.vc = 0) ∨
    ∃ data, data.length = n ∧ (∀ i, i < n → (forward buf (serverKey q.pkg q.addr + i)).map (·.2) = some (data.getD i 0)) ∧ Instr.xldResponse q.id q.part data none ∈ t.env.agenda)

theorem State.Leaves.readSent {t u : State} {buf : List Buffered} {q : ServerReq} {n : Nat} (h : Leaves t u) (hq : q.own = true) (ht : t.ReadSent buf q n) : u.ReadSent buf q n := by
  rw [State.ReadSent, h.heldBack hq]
  refine ⟨fun hu => ?_, fun hu => (ht.2 hu).imp (fun ⟨p, hp, hi⟩ => ⟨p, h.router p hp, hi⟩) fun ⟨d, hd, hf, ha⟩ => ⟨d, hd, hf, h.agenda _ ha⟩⟩
  obtain ⟨x, hx, hi⟩ := ht.1 hu
  exact ⟨x, h.ni x hx, hi⟩

/-- A read of which the store buffer holds every byte is answered with those bytes (R293). -/
theorem State.forwardRead_whole {q : ServerReq} {n : Nat} (hs : (s.reqOf q.id).isSome = true) (hw : (s.forwardRead q n).2 = true) :
    ∃ data, data.length = n ∧ (∀ i, i < n → (forward s.cl.buffer (serverKey q.pkg q.addr + i)).map (·.2) = some (data.getD i 0)) ∧
      Instr.xldResponse q.id q.part data none ∈ (s.forwardRead q n).1.env.agenda := by
  obtain ⟨me, hme⟩ := Option.isSome_iff_exists.mp hs
  unfold State.forwardRead at hw ⊢
  rw [hme] at hw ⊢
  dsimp only at hw ⊢
  split at hw
  case isFalse => exact absurd hw Bool.false_ne_true
  case isTrue hc =>
    rw [if_pos hc]
    refine ⟨_, (List.length_map _).trans hc.2, fun i hi => ?_, List.mem_append_right _ (List.mem_singleton_self _)⟩
    have hsome : ∀ o < n, ∃ x, forward s.cl.buffer (serverKey q.pkg q.addr + o) = some x := fun o ho => by
      have h := List.filterMap_length_eq_length.mp (hc.2.trans List.length_range.symm) o (List.mem_range.mpr ho)
      rwa [Option.isSome_map, Option.isSome_iff_exists] at h
    have hg : ((List.range n).filterMap fun o => (forward s.cl.buffer (serverKey q.pkg q.addr + o)).map fun x => (o, x)) =
        (List.range n).map fun o => (o, (forward s.cl.buffer (serverKey q.pkg q.addr + o)).getD (0, 0)) :=
      List.filterMap_eq_map_iff_forall_eq_some.mpr fun o ho => by
        obtain ⟨x, hx⟩ := hsome o (List.mem_range.mp ho)
        simp [hx]
    obtain ⟨x, hx⟩ := hsome i hi
    simp [hg, hx, hi]

theorem State.sendOut_read {q : ServerReq} {n : Nat} (hq : q.own = true) (hs : (s.reqOf q.id).isSome = true) (hr : q.op = .read n) :
    (s.sendOut (.request q false)).ReadSent s.cl.buffer q n := by
  have hh := (s.leaves_sendOut (.request q false)).heldBack hq
  refine ⟨fun h => ?_, fun h => ?_⟩
  · rw [hh] at h
    rw [State.sendOut, if_pos (show s.holds (.request q false) = true from h)]
    exact ⟨_, List.mem_append_right _ (List.mem_singleton_self _), rfl⟩
  · rw [hh] at h
    obtain ⟨me, hme⟩ := Option.isSome_iff_exists.mp hs
    rw [State.sendOut, if_neg (show ¬s.holds (.request q false) = true by rw [State.holds, h]; exact Bool.false_ne_true), State.leaveNi]
    simp only [hme, hr]
    split
    case isTrue hw => exact .inr (State.forwardRead_whole hs hw)
    case isFalse =>
      obtain ⟨p, hp, hi, hv, -⟩ := State.toRouter_request (((s.forwardRead q n).1).startTimer q.id) q false 0 (Out.request q false).size
      exact .inl ⟨p, hp, hi, hv⟩

/-- A piece is sent from a state that the earlier ones have led to, and the later ones go after it. -/
theorem State.sendPieces_at (s : State) (q : Req) (op : Nat → Nat → ServerOp) {l : List (Nat × Nat × Nat)} {i k : Nat} {y : Nat × Nat × Nat} (hy : l[i]? = some y) :
    ∃ u, Leaves s u ∧ Leaves (u.sendOut (.request ⟨q.id, k + i, true, q.pkg, y.2.1, op y.1 y.2.2, .own⟩ false)) (s.sendPieces q op l k) := by
  induction l generalizing s i k with
  | nil => exact absurd hy (by simp)
  | cons x l ih =>
    cases i with
    | zero =>
      obtain rfl : x = y := by simpa using hy
      exact ⟨s, .refl s, State.leaves_sendPieces _ _ _ _ _⟩
    | succ i =>
      obtain ⟨u, hu, hl⟩ := ih (s.sendOut (.request ⟨q.id, k, true, q.pkg, x.2.1, op x.1 x.2.2, .own⟩ false)) (i := i) (k := k + 1) (by simpa using hy)
      rw [show k + 1 + i = k + (i + 1) by omega] at hl
      exact ⟨u, (s.leaves_sendOut _).trans hu, hl⟩

end

/-! ### Atomics and copies enter the store buffer (R293) -/

/-- The turn of an atomic or a copy has come: its entries stand in the store buffer. -/
def State.entering (s : State) (q : Req) : State :=
  let t := s.modReq q.id fun x => { x with buffered := true }
  { t with cl := { t.cl with buffer := t.cl.buffer ++ q.holdEntries } }

/-- An atomic or a copy in the store buffer goes on its way. -/
def State.sendEntered (s : State) (q : Req) : State :=
  match q.atom, q.spans with
  | some a, p :: _ => s.sendOut (.request ⟨q.id, 0, true, q.pkg, p.1 % 2 ^ 41, .atomic a, .own⟩ (q.endpoint == 2032))
  | _, _ => s.sendCopy q

theorem State.enterUpTo_succ (n : Nat) (s : State) : s.enterUpTo (n + 1) =
    match s.core.reqs.find? Req.unentered with
    | none => s
    | some q => if q.kind = 1 ∨ s.readsBefore q then s else ((s.entering q).sendEntered q).enterUpTo n := rfl

section
variable (s : State)

theorem State.leaves_sendEntered (q : Req) : Leaves s (s.sendEntered q) := by
  unfold State.sendEntered
  split
  · exact s.leaves_sendOut _
  · exact s.leaves_sendCopy q

theorem State.enters_entering (q : Req) : Enters s (s.entering q) :=
  ⟨⟨fun _ h => h, fun _ h => h, fun _ h => h, rfl, rfl⟩, s.map_modReq q.id _ Req.issued fun _ => rfl, List.prefix_append _ _⟩

theorem State.enters_enterUpTo (n : Nat) : Enters s (s.enterUpTo n) := by
  induction n generalizing s with
  | zero => exact .refl s
  | succ n ih =>
    rw [State.enterUpTo_succ]
    split
    · exact .refl s
    · split
      · exact .refl s
      · exact ((s.enters_entering _).trans (State.leaves_sendEntered _ _).enters).trans (ih _)

theorem State.enters_enterWrites : Enters s s.enterWrites := s.enters_enterUpTo _

theorem State.enterUpTo_entered (n : Nat) {s : State} (h : ∀ y ∈ s.core.reqs, y.unentered = false) : s.enterUpTo n = s := by
  cases n with
  | zero => rfl
  | succ n =>
    have hf : s.core.reqs.find? Req.unentered = none := List.find?_eq_none.mpr fun y hy => by simp [h y hy]
    rw [State.enterUpTo_succ, hf]

/-- A request that is the only one that has not entered the store buffer enters it, and nothing beside. -/
theorem State.enterWrites_last {s : State} {l : List Req} {q : Req} (hs : s.core.reqs = l ++ [q]) (hl : ∀ y ∈ l, y.unentered = false) (hq : q.unentered = true)
    (hk : q.kind ≠ 1) (hr : s.readsBefore q = false) : s.enterWrites = (s.entering q).sendEntered q := by
  have hf : s.core.reqs.find? Req.unentered = some q := by
    rw [hs, List.find?_append, List.find?_eq_none.mpr fun y hy => by simp [hl y hy]]
    simp [hq]
  have hn : ¬(q.kind = 1 ∨ s.readsBefore q = true) := fun h => h.elim hk (by rw [hr]; exact Bool.false_ne_true)
  rw [State.enterWrites, hs, List.length_append, List.length_singleton, State.enterUpTo_succ, hf]
  dsimp only
  rw [if_neg hn]
  refine State.enterUpTo_entered _ fun y hy => ?_
  obtain ⟨z, hz, hzy⟩ := List.mem_map.mp ((State.leaves_sendEntered (s.entering q) q).reqs ▸ List.mem_map_of_mem (f := Req.fixed) hy)
  have hyz : y.unentered = z.unentered := (congrArg Req.unentered hzy.symm : y.fixed.unentered = z.fixed.unentered)
  rw [hyz]
  obtain ⟨w, hw, rfl⟩ := List.mem_map.mp hz
  dsimp only
  split
  · exact Bool.and_false _
  · next hi =>
    rw [hs] at hw
    rcases List.mem_append.mp hw with hw | hw
    · exact hl w hw
    · exact absurd (congrArg (·.id) (List.mem_singleton.mp hw)) hi

end

end Sys2Proof.Machine
end

section
/-!
PROOF. Server instructions enter one request each (O41): relocation, the six server instructions, and the fences.
-/

namespace Sys2Proof.Machine

open Sys2Proof

/-! ### Relocation (R190, R430) -/

theorem relocate_none {es : Vector Extent 16} {w r first last : Nat} (h : ∀ n, (es.get n).covers w first last = false) : relocate es w r first last = .error .extentMiss := by
  rw [relocate, List.find?_eq_none.mpr fun n _ => by simp [h n]]

/-- The first entry that covers a range decides. -/
theorem relocate_first {es : Vector Extent 16} {w r first last : Nat} {n : Fin 16} (hn : (es.get n).covers w first last = true)
    (hm : ∀ m, m < n → (es.get m).covers w first last = false) :
    relocate es w r first last = if (es.get n).a.getLsbD r then .ok (field (es.get n).c 12 36 * 4096 + (first - field (es.get n).a 12 36 * 4096))
      else .error (.extentRights (BitVec.ofNat 3 (2 ^ r)) (BitVec.ofNat 4 n.val)) := by
  have hf : ((List.finRange 16).find? fun n => (es.get n).covers w first last) = some n := by
    refine List.find?_eq_some_iff_getElem.mpr ⟨hn, n.val, by simp, by simp, fun j hj => ?_⟩
    have := hm ⟨j, hj.trans n.isLt⟩ hj
    simpa using this
  rw [relocate, hf]

/-- Fields of at most n bits fold to a number of n bits. -/
theorem foldl_xor_lt (g n : Nat) (l : List (Nat × Nat)) (hl : ∀ p ∈ l, p.2 ≤ n) (x : Nat) (hx : x < 2 ^ n) : l.foldl (fun x p => x ^^^ (g >>> p.1) % 2 ^ p.2) x < 2 ^ n := by
  induction l generalizing x with
  | nil => exact hx
  | cons p l ih =>
    have hp : (g >>> p.1) % 2 ^ p.2 < 2 ^ n := (Nat.mod_lt _ (Nat.two_pow_pos _)).trans_le (Nat.pow_le_pow_right (by decide) (hl p List.mem_cons_self))
    exact ih (fun q hq => hl q (List.mem_cons_of_mem _ hq)) _ (Nat.xor_lt_two_pow hx hp)

theorem hbmServer_lt (g : Nat) : hbmServer g < 128 := foldl_xor_lt g 7 _ (by decide) 0 (by decide)

theorem lpddrServer_lt (g : Nat) : lpddrServer g < 32 := foldl_xor_lt g 5 _ (by decide) 0 (by decide)

/-- An address that routes lies in its package's space, and its server is not the Weighhouse (R429, R430). -/
theorem routeTo_bounds {w a last : Nat} {p : Nat × Nat} (hl : a ≤ last) (h : routeTo w a last = some p) : p.1 < 2 ^ 41 ∧ p.2 ≠ 2032 := by
  have h1 := hbmServer_lt (a / 4096)
  have h2 := lpddrServer_lt (a / 4096)
  have h3 := lpddrServer_lt ((a - 0x8000000000) / 4096)
  unfold routeTo at h
  dsimp only at h
  split at h
  · split at h
    · obtain rfl := Option.some.inj h; dsimp only; omega
    · exact absurd h (by simp)
  · split at h
    · split at h
      · obtain rfl := Option.some.inj h; dsimp only; omega
      · exact absurd h (by simp)
    · split at h
      · obtain rfl := Option.some.inj h; dsimp only; omega
      · exact absurd h (by simp)

theorem State.place_bounds {s : State} {es : Vector Extent 16} {ptr : Word} {r pkg len order : Nat} {p : Nat × Nat} (h : s.place es ptr r pkg len order = .ok p) :
    p.1 < 2 ^ 41 ∧ p.2 ≠ 2032 := by
  unfold State.place at h
  dsimp only at h
  split at h
  · exact absurd h (by simp)
  · next a _ =>
    split at h
    · exact absurd h (by simp)
    · next x hx =>
      split at h
      · exact absurd h (by simp)
      · obtain rfl : x = p := by simpa using h
        exact routeTo_bounds (by omega) hx

/-! ### What a server instruction reads at issue -/

section
variable {s b : State} (hB : State.Begins s b)
include hB

theorem State.Begins.order : b.r.order = s.r.order := congrArg (·.order) hB.r
theorem State.Begins.extents : b.r.extents = s.r.extents := congrArg (·.extents) hB.r
theorem State.Begins.reqs : b.core.reqs = s.core.reqs := congrArg (·.reqs) hB.core
theorem State.Begins.orderCores : b.r.orderCores = s.r.orderCores := congrArg (·.orderCores) hB.r

theorem State.Begins.nextTid (ch : BitVec 3) : b.nextTid ch = s.nextTid ch := by rw [State.nextTid, State.nextTid, hB.chans]

theorem State.Begins.place (es : Vector Extent 16) (ptr : Word) (r pkg len order : Nat) : b.place es ptr r pkg len order = s.place es ptr r pkg len order := by
  unfold State.place
  rw [hB.srv]

/-- A copy finds its nest as it stood before the bundle (R97). -/
theorem State.Begins.nestAt (ne : Bool) (k : BitVec 3) : b.nestAt ne k = s.r.nestIf ne k := by
  rw [State.nestAt, show b.core.nestsBefore = s.r.nests from congrArg (·.nestsBefore) hB.core]
  rfl

theorem State.Begins.physicalOf (order x : Nat) : b.physicalOf order x = s.physicalOf order x := by
  have hph : ∀ k, (b.res.get k).phase = (s.res.get k).phase := fun k => congrArg (·.phase) (hB.rest k)
  have hor : ∀ k, (b.res.get k).order = (s.res.get k).order := fun k => congrArg (·.order) (hB.rest k)
  have hra : ∀ k, (b.res.get k).rank = (s.res.get k).rank := fun k => congrArg (·.rank) (hB.rest k)
  simp only [State.physicalOf, hph, hor, hra, hB.pkg]

end

/-- What goes before the effects of a bundle moves requests in the SFU's queues alone: the store buffer is the same. -/
theorem State.replayBack_buffer (s : State) : s.replayBack.cl.buffer = s.cl.buffer := by
  have hk : ∀ t : State, t.sfuKick.cl = t.cl := fun t => by unfold State.sfuKick; split <;> rfl
  unfold State.replayBack
  dsimp only
  split
  · split
    · rfl
    · rw [hk]; rfl
  · split
    · rw [hk]; rfl
    · split <;> rfl

theorem Op.begun_buffer (o : Op) (s : State) : (o.begun s).cl.buffer = s.cl.buffer := by
  have hn : ∀ t : State, t.noteIssue.cl = t.cl := fun t => by unfold State.noteIssue; dsimp only; split <;> rfl
  have hg : (resolveAll s.seen s.replayBack [o.alone]).cl = s.replayBack.cl := (State.granted_resolve _ _ _).cl
  have hb : (o.begun s).cl = (resolveAll s.seen s.replayBack [o.alone]).noteIssue.cl := rfl
  rw [hb, hn, hg, s.replayBack_buffer]

/-! ### The request that a server instruction enters -/

/-- A request as its instruction makes it, before it is placed: without its server, parts and bytes. -/
def Req.stem (q : Req) : Req := { q.issued with endpoint := 0, parts := 0, spans := [], atom := none, fail := none }

theorem Req.stem_of_issued {p q : Req} (h : p.issued = q.issued) : p.stem = q.stem := congrArg (fun x : Req => { x with endpoint := 0, parts := 0, spans := [], atom := none, fail := none }) h

/-- A request of the present context made in a state `b` (R185, R191, R193, R194, R197). -/
structure Req.MadeIn (q : Req) (b : State) (h : CHdr) (kind : BitVec 3) (ptr : BitVec 5) : Prop where
  id : q.id = b.fresh
  kind : q.kind = kind
  res : q.res = b.curRes
  ctx : q.ctx = b.curCtx
  pair : q.pair = b.core.atPair
  order : q.order = b.r.order
  ptr : q.ptr = b.c.reg h.s ptr
  dropped : q.dropped = false

theorem Req.MadeIn.of_stem {p q : Req} {b : State} {h : CHdr} {kind : BitVec 3} {ptr : BitVec 5} (hq : q.MadeIn b h kind ptr) (e : p.stem = q.stem) : p.MadeIn b h kind ptr where
  id := (congrArg Req.id e : _).trans hq.id
  kind := (congrArg Req.kind e : _).trans hq.kind
  res := (congrArg Req.res e : _).trans hq.res
  ctx := (congrArg Req.ctx e : _).trans hq.ctx
  pair := (congrArg Req.pair e : _).trans hq.pair
  order := (congrArg Req.order e : _).trans hq.order
  ptr := (congrArg Req.ptr e : _).trans hq.ptr
  dropped := (congrArg Req.dropped e : _).trans hq.dropped

/-- A ready instruction enters a request `q` of the present context and then `more` holds (O41). -/
def State.EntersReq (s : State) (h : CHdr) (i : Instr) (kind : BitVec 3) (ptr : BitVec 5) (more : State → Req → Prop) : Prop :=
  ∃ (t : State) (q : Req), exec i s = .next t ∧ q ∈ t.core.reqs ∧ q.id = s.core.nextId ∧ q.kind = kind ∧ q.res = s.curRes ∧ q.ctx = s.curCtx ∧ q.pair = s.c.pc ∧
    q.order = s.r.order ∧ q.ptr = s.seen.c.reg h.s ptr ∧ q.dropped = false ∧ t.core.mem = s.core.mem ∧ more t q

/-- The effect of a quiet instruction enters the request. -/
theorem entersReq_of {s : State} {i : Instr} {o : Op} {ds : List Dest} {h : CHdr} {kind : BitVec 3} {ptr : BitVec 5} {more : State → Req → Prop}
    (ho : opOf i = some o) (hr : o.ready s = true) (hq : o.Quiet ds s) (hl : ∀ u, o.late u = u) (hn : ∀ u, o.next u = none)
    (he : ∀ b, State.Begins s b → b.cl.buffer = s.cl.buffer → ∃ q p : Req, q ∈ (o.eff b).core.reqs ∧ q.stem = p.stem ∧ p.MadeIn b h kind ptr ∧ more (s.ended (o.eff b) none) q) :
    s.EntersReq h i kind ptr more := by
  have hB := Op.begins hr hq.stable
  have hm := (hq.handOver hr).mem
  rw [Op.issued, hl, hn] at hm
  obtain ⟨q, p, hmem, hs, hp, hmore⟩ := he _ hB (o.begun_buffer s)
  have hM := hp.of_stem hs
  exact ⟨_, q, exec_of_effects ho hr hq.after hl hn rfl, hmem, hM.id.trans hB.nextId, hM.kind, hM.res.trans hB.curRes, hM.ctx.trans hB.curCtx, hM.pair.trans hB.atPair,
    hM.order.trans hB.order, hM.ptr.trans (hB.reg h.s ptr), hM.dropped, hm, hmore⟩

/-! ### A transfer takes its channel's next ID (R185) -/

/-- The range table may have one more entry. -/
theorem State.guardArea_eq (s : State) (k : RangeKind) (p : Word) (n : Nat) : ∃ r, (s.guardArea k p n).1 = s.modCore fun c => { c with range := r } := by
  unfold State.guardArea
  split
  · exact ⟨s.core.range, rfl⟩
  · unfold State.rangeAdd
    split
    · exact ⟨s.core.range, rfl⟩
    · exact ⟨_, rfl⟩

/-- A state in which a transfer of a channel has taken its ID and entered its request. -/
structure State.Transfers (s : State) (ch : BitVec 3) (q : Req) (t : State) : Prop where
  reqs : t.core.reqs = s.core.reqs ++ [q]
  cl : t.cl = s.cl
  next : (t.r.chans.get ⟨ch.toNat, ch.isLt⟩).next = s.nextTid ch + 1

theorem State.transfers (s : State) (ch : BitVec 3) (q : Req) (r : Vector (Option RangeEnt) 32) :
    s.Transfers ch q (((s.modCore fun c => { c with range := r }).takeTid ch).enterReq q) :=
  ⟨rfl, rfl, State.takeTid_next (s.modCore fun c => { c with range := r }) ch⟩

theorem State.guarded_transfers (s : State) (k : RangeKind) (p : Word) (n : Nat) (ch : BitVec 3) (q : Req) : s.Transfers ch q (((s.guardArea k p n).1.takeTid ch).enterReq q) := by
  obtain ⟨r, hr⟩ := s.guardArea_eq k p n
  rw [hr]
  exact s.transfers ch q r

/-- What O41 says of the channel of a request. -/
def State.Takes (s : State) (ch : BitVec 3) (t : State) (q : Req) : Prop :=
  q.chan = some (ch, (s.r.chans.get ⟨ch.toNat, ch.isLt⟩).next) ∧ (t.r.chans.get ⟨ch.toNat, ch.isLt⟩).next = (s.r.chans.get ⟨ch.toNat, ch.isLt⟩).next + 1

theorem State.Transfers.takes {s b t u : State} {ch : BitVec 3} {p q : Req} (h : b.Transfers ch p t) (hB : State.Begins s b) (hp : p.chan = some (ch, b.nextTid ch)) (hq : q.stem = p.stem)
    (hg : Grows t u) : s.Takes ch u q := by
  refine ⟨(congrArg Req.chan hq : _).trans (hp.trans ?_), ?_⟩
  · rw [hB.nextTid]; rfl
  · rw [hg.chans, h.next, hB.nextTid]; rfl

/-- The request of a transfer as the bundle's end finds it, after it or others have entered the store buffer and left. -/
theorem State.Transfers.entered {s b t u : State} {ch : BitVec 3} {p : Req} (h : b.Transfers ch p t) (hB : State.Begins s b) (hp : p.chan = some (ch, b.nextTid ch)) (hE : Enters t u) :
    ∃ q ∈ u.core.reqs, q.issued = p.issued ∧ s.Takes ch (s.ended u none) q := by
  obtain ⟨q, hq, hi⟩ := hE.mem (h.reqs ▸ List.mem_append_right _ (List.mem_singleton_self _))
  exact ⟨q, hq, hi, h.takes hB hp (Req.stem_of_issued hi) (hE.toGrows.trans (s.leaves_ended u none).toGrows)⟩

theorem State.Transfers.reqOf_isSome {b t : State} {ch : BitVec 3} {p : Req} (h : b.Transfers ch p t) : (t.reqOf p.id).isSome = true := by
  rw [State.reqOf, List.find?_isSome]
  exact ⟨p, h.reqs ▸ List.mem_append_right _ (List.mem_singleton_self _), beq_self_eq_true _⟩

/-! ### XLD and XST (R191, R193) -/

/-- A transfer placed at a server address. -/
def Req.placedAt (q : Req) (p : Nat × Nat) : Req := { q with endpoint := p.2, parts := (pieces 3 0 p.1 q.len).length, spans := [(serverKey q.pkg p.1, q.len)] }

section
variable (h : CHdr) (a b c : BitVec 5) (x : Bool) (ch : BitVec 3) (len : BitVec 9)

/-- The request of an XLD, not placed yet. -/
def xldReq (v : State) : Req :=
  { v.newReq h 0 b a with chan := some (ch, v.nextTid ch), pkg := v.pkgOf (v.c.reg h.s b) (pkgWord (v.c.regX h.s c x)), len := len.toNat,
                          range := (v.guardArea .stall (v.c.reg h.s a) len.toNat).2, slot := true }

/-- The XLD with its ID and its request entered. -/
def xldEntered (v : State) (q : Req) : State := ((v.guardArea .stall (v.c.reg h.s a) len.toNat).1.takeTid ch).enterReq q

/-- Where an XLD's bytes lie at the servers. -/
abbrev xldPlace (v : State) : Except ServerFail (Nat × Nat) :=
  v.place v.r.extents (v.c.reg h.s b) 0 (v.pkgOf (v.c.reg h.s b) (pkgWord (v.c.regX h.s c x))) len.toNat v.r.order

theorem opXld_eff_error {v : State} {f : ServerFail} (hp : xldPlace h b c x len v = .error f) :
    (opXld h a b c x ch len).eff v = (xldEntered h a ch len v (xldReq h a b c x ch len v)).post (.xldResponse v.fresh 0 [] (some f)) := by
  dsimp only [opXld]
  rw [show v.place v.r.extents (v.c.reg h.s b) 0 (v.pkgOf (v.c.reg h.s b) (pkgWord (v.c.regX h.s c x))) len.toNat v.r.order = _ from hp]
  rfl

theorem opXld_eff_ok {v : State} {p : Nat × Nat} (hp : xldPlace h b c x len v = .ok p) :
    (opXld h a b c x ch len).eff v = (xldEntered h a ch len v ((xldReq h a b c x ch len v).placedAt p)).sendPieces ((xldReq h a b c x ch len v).placedAt p) (fun _ n => .read n)
      (pieces 3 0 p.1 len.toNat) 0 := by
  dsimp only [opXld]
  rw [show v.place v.r.extents (v.c.reg h.s b) 0 (v.pkgOf (v.c.reg h.s b) (pkgWord (v.c.regX h.s c x))) len.toNat v.r.order = _ from hp]
  rfl

theorem xldReq_madeIn (v : State) : (xldReq h a b c x ch len v).MadeIn v h 0 b := ⟨rfl, rfl, rfl, rfl, rfl, rfl, rfl, rfl⟩

theorem State.Begins.xldPlace {s v : State} (hB : State.Begins s v) {q : Req} (e : q.stem = (xldReq h a b c x ch len v).stem) :
    s.place s.r.extents q.ptr 0 q.pkg len.toNat s.r.order = Machine.xldPlace h b c x len v := by
  have hptr : q.ptr = v.c.reg h.s b := congrArg Req.ptr e
  have hpkg : q.pkg = v.pkgOf (v.c.reg h.s b) (pkgWord (v.c.regX h.s c x)) := congrArg Req.pkg e
  rw [hptr, hpkg, ← hB.place, ← hB.extents, ← hB.order]

/-- An XLD that does not relocate is answered at once; the pieces of one that does are sent (R190, R191). -/
theorem execXld_enters {s : State} (hr : (opXld h a b c x ch len).ready s = true) :
    s.EntersReq h (.xld h a b c x ch len) 0 b fun t q => s.Takes ch t q ∧ q.len = len.toNat ∧ q.slot = true ∧
      (∀ f, s.place s.r.extents q.ptr 0 q.pkg len.toNat s.r.order = .error f → Instr.xldResponse q.id 0 [] (some f) ∈ t.env.agenda) ∧
      (∀ p, s.place s.r.extents q.ptr 0 q.pkg len.toNat s.r.order = .ok p → ∀ k y, (pieces 3 0 p.1 len.toNat)[k]? = some y →
        t.ReadSent s.cl.buffer ⟨q.id, k, true, q.pkg, y.2.1, .read y.2.2, .own⟩ y.2.2) := by
  refine entersReq_of rfl hr (opXld_quiet h a b c x s [] ch len) (fun _ => rfl) (fun _ => rfl) fun v hB hbuf => ?_
  have hM := xldReq_madeIn h a b c x ch len v
  have hx := fun q => hB.xldPlace h a b c x ch len (q := q)
  cases hp : xldPlace h b c x len v with
  | error f =>
    rw [opXld_eff_error h a b c x ch len hp]
    have hT : v.Transfers ch _ (xldEntered h a ch len v (xldReq h a b c x ch len v)) := v.guarded_transfers .stall (v.c.reg h.s a) len.toNat ch _
    obtain ⟨q, hq, hi, htake⟩ := hT.entered hB rfl (State.leaves_post _ (.xldResponse v.fresh 0 [] (some f))).enters
    have hs := Req.stem_of_issued hi
    have hpl := (hx q hs).trans hp
    refine ⟨q, _, hq, hs, hM, htake, congrArg Req.len hs, congrArg Req.slot hs, fun g hg => ?_, fun p hg => ?_⟩
    · obtain rfl := Except.error.inj (hpl.symm.trans hg)
      rw [show q.id = v.fresh from congrArg Req.id hs]
      exact List.mem_append_right _ (List.mem_singleton_self _)
    · exact absurd (hpl.symm.trans hg) (by simp)
  | ok p =>
    rw [opXld_eff_ok h a b c x ch len hp]
    set q0 := (xldReq h a b c x ch len v).placedAt p with hq0
    have hT : v.Transfers ch q0 (xldEntered h a ch len v q0) := v.guarded_transfers .stall (v.c.reg h.s a) len.toNat ch _
    obtain ⟨q, hq, hi, htake⟩ := hT.entered hB rfl (State.leaves_sendPieces _ q0 (fun _ n => .read n) (pieces 3 0 p.1 len.toNat) 0).enters
    have hs : q.stem = (xldReq h a b c x ch len v).stem := (Req.stem_of_issued hi : q.stem = q0.stem)
    have hpl := (hx q hs).trans hp
    refine ⟨q, _, hq, hs, hM, htake, congrArg Req.len hs, congrArg Req.slot hs, fun g hg => absurd (hpl.symm.trans hg) (by simp), fun p' hg k y hy => ?_⟩
    obtain rfl := Except.ok.inj (hpl.symm.trans hg)
    obtain ⟨u, hu, hl⟩ := State.sendPieces_at (xldEntered h a ch len v q0) q0 (fun _ n => .read n) (k := 0) hy
    have hsent := State.sendOut_read (s := u) (q := ⟨q0.id, 0 + k, true, q0.pkg, y.2.1, .read y.2.2, .own⟩) rfl (hu.enters.reqOf_isSome hT.reqOf_isSome) rfl
    rw [hu.buffer, hT.cl, hbuf] at hsent
    have hid : q.id = q0.id := (congrArg Req.id hi : q.issued.id = q0.issued.id)
    have hpkg : q.pkg = q0.pkg := (congrArg Req.pkg hi : q.issued.pkg = q0.issued.pkg)
    rw [hid, hpkg, ← Nat.zero_add k]
    exact (hl.trans (s.leaves_ended _ none)).readSent rfl hsent

/-- The request of an XST, not placed yet. -/
def xstReq (v : State) : Req :=
  { v.newReq h 1 a b with chan := some (ch, v.nextTid ch), pkg := v.pkgOf (v.c.reg h.s a) (pkgWord (v.c.regX h.s c x)), len := len.toNat,
                          range := (v.guardArea .trap (v.c.reg h.s b) len.toNat).2, ack := true }

/-- An XST is entered, placed or failed, and its source is to be read. -/
theorem opXst_eff (v : State) : ∃ q, q.stem = (xstReq h a b c x ch len v).stem ∧
    (opXst h a b c x ch len).eff v = (((v.guardArea .trap (v.c.reg h.s b) len.toNat).1.takeTid ch).enterReq q).post .xstSourceRead := by
  refine ⟨_, ?_, rfl⟩
  dsimp only
  split <;> rfl

theorem execXst_enters {s : State} (hr : (opXst h a b c x ch len).ready s = true) :
    s.EntersReq h (.xst h a b c x ch len) 1 a fun t q => s.Takes ch t q ∧ q.len = len.toNat ∧ q.ack = true ∧ Instr.xstSourceRead ∈ t.env.agenda := by
  refine entersReq_of rfl hr (opXst_quiet h a b c x s [] ch len) (fun _ => rfl) (fun _ => rfl) fun v hB _ => ?_
  obtain ⟨p, hp, he⟩ := opXst_eff h a b c x ch len v
  rw [he]
  have hT : v.Transfers ch p _ := v.guarded_transfers .trap (v.c.reg h.s b) len.toNat ch p
  have hc : p.chan = some (ch, v.nextTid ch) := (congrArg Req.chan hp : _)
  obtain ⟨q, hq, hi, htake⟩ := hT.entered hB hc (State.leaves_post _ .xstSourceRead).enters
  have hs : q.stem = (xstReq h a b c x ch len v).stem := (Req.stem_of_issued hi).trans hp
  exact ⟨q, _, hq, hs, ⟨rfl, rfl, rfl, rfl, rfl, rfl, rfl, rfl⟩, htake, congrArg Req.len hs, congrArg Req.ack hs, List.mem_append_right _ (List.mem_singleton_self _)⟩

end

/-! ### XAT and XATR (R194, R195) -/

/-- An atomic placed at a server address, for its server or for the Weighhouse. -/
def Req.atomAt (q : Req) (pk : Bool) (p : Nat × Nat) (n : Nat) (x : Atomic) : Req :=
  { q with endpoint := if pk then 2032 else p.2, spans := [(serverKey q.pkg p.1, n)], atom := some x }

section
variable (h : CHdr) (a b : BitVec 5) (pk : Bool) (w : BitVec 2) (op : BitVec 4)

/-- Where an atomic's bytes lie at the servers. -/
abbrev atomPlace (v : State) (q : Req) : Except ServerFail (Nat × Nat) := v.place v.r.extents (v.c.reg h.s a) 2 q.pkg (atomBytes w) v.r.order

theorem State.sendAtomic_error {v : State} {q : Req} {f : ServerFail} (hp : atomPlace h a w v q = .error f) :
    v.sendAtomic h q a b pk w op = (v.enterReq { q with buffered := true }).post (if q.kind = 3 then .xatrResponse q.id 0 (some f) else .serverAck q.id 0 (some f)) := by
  unfold State.sendAtomic
  rw [show v.place v.r.extents (v.c.reg h.s a) 2 q.pkg (atomBytes w) v.r.order = _ from hp]
  dsimp only
  split <;> rfl

theorem State.sendAtomic_ok {v : State} {q : Req} {p : Nat × Nat} (hp : atomPlace h a w v q = .ok p) :
    v.sendAtomic h q a b pk w op = (v.enterReq (q.atomAt pk p (atomBytes w) (atomOf h b w op v.c))).enterWrites := by
  unfold State.sendAtomic
  rw [show v.place v.r.extents (v.c.reg h.s a) 2 q.pkg (atomBytes w) v.r.order = _ from hp]
  rfl

/-- An atomic whose turn has come goes to its server, or to the Weighhouse. -/
theorem State.sendAtomic_entered {v : State} {q : Req} {p : Nat × Nat} (hp : atomPlace h a w v q = .ok p) (hk : q.kind = 2 ∨ q.kind = 3) (hb : q.buffered = false)
    (he : ∀ y ∈ v.core.reqs, y.unentered = false) {y : Req} (hy : y.issued = (q.atomAt pk p (atomBytes w) (atomOf h b w op v.c)).issued)
    (hn : (v.sendAtomic h q a b pk w op).readsBefore y = false) :
    (v.sendAtomic h q a b pk w op).OnWay (.request ⟨q.id, 0, true, q.pkg, p.1, .atomic (atomOf h b w op v.c), .own⟩ pk) := by
  obtain ⟨h41, hwh⟩ := State.place_bounds hp
  rw [State.sendAtomic_ok h a b pk w op hp] at hn ⊢
  set z := q.atomAt pk p (atomBytes w) (atomOf h b w op v.c)
  have hz : z.unentered = true := by
    have hw : q.writes = true := by obtain hk | hk := hk <;> simp [Req.writes, hk]
    exact (congrArg₂ (fun x y => x && !y) hw hb : _)
  have hk1 : z.kind ≠ 1 := fun h1 => by
    have h1 : q.kind = 1 := h1
    obtain hk | hk := hk <;> exact absurd (hk.symm.trans h1) (by decide)
  have hr : (v.enterReq z).readsBefore z = false := by rwa [State.readsBefore_eq (v.enterReq z).enters_enterWrites.reqs hy] at hn
  have hi : (((v.enterReq z).entering z).reqOf z.id).isSome = true := ((v.enterReq z).enters_entering z).reqOf_isSome (by
    rw [State.reqOf, List.find?_isSome]
    exact ⟨z, List.mem_append_right _ (List.mem_singleton_self _), beq_self_eq_true _⟩)
  have haddr : serverKey q.pkg p.1 % 2 ^ 41 = p.1 := by rw [serverKey]; omega
  have hend : (z.endpoint == 2032) = pk := by
    show ((if pk = true then 2032 else p.2) == 2032) = pk
    cases pk
    · exact beq_eq_false_iff_ne.mpr hwh
    · rfl
  have hsend : ∀ t : State, t.sendEntered z = t.sendOut (.request ⟨q.id, 0, true, q.pkg, p.1, .atomic (atomOf h b w op v.c), .own⟩ pk) := fun t => by
    rw [← haddr, ← hend]
    rfl
  rw [State.enterWrites_last (l := v.core.reqs) rfl he hz hk1 hr, hsend]
  exact State.sendOut_request rfl hi fun n hn => by cases hn

/-- What O41 says of an atomic `q` in the state `t` after its bundle. -/
def State.AtomSent (s t : State) (q : Req) : Prop :=
  ∀ p, s.place s.r.extents q.ptr 2 q.pkg (atomBytes w) s.r.order = .ok p → (∀ y ∈ s.core.reqs, y.unentered = false) → t.readsBefore q = false →
    t.OnWay (.request ⟨q.id, 0, true, q.pkg, p.1, .atomic (atomOf h b w op s.seen.c), .own⟩ pk)

/-- A state that an atomic sees as the bundle finds it. -/
structure State.AtomSees (s v : State) : Prop where
  srv : v.srv = s.srv
  extents : v.r.extents = s.r.extents
  order : v.r.order = s.r.order
  reqs : v.core.reqs = s.core.reqs
  reg : ∀ k, v.c.reg h.s k = s.seen.c.reg h.s k

theorem State.sendAtomic_sent {s v : State} {q : Req} (hv : s.AtomSees h v) (hq : q.ptr = v.c.reg h.s a) (hk : q.kind = 2 ∨ q.kind = 3) (hb : q.buffered = false) :
    ∃ y ∈ (v.sendAtomic h q a b pk w op).core.reqs, y.stem = q.stem ∧ s.AtomSent h b pk w op (s.ended (v.sendAtomic h q a b pk w op) none) y ∧
      (v.sendAtomic h q a b pk w op).c.awaits = v.c.awaits ∧
      ∀ f, s.place s.r.extents y.ptr 2 y.pkg (atomBytes w) s.r.order = .error f →
        (if q.kind = 3 then Instr.xatrResponse q.id 0 (some f) else .serverAck q.id 0 (some f)) ∈ (v.sendAtomic h q a b pk w op).env.agenda := by
  have hx : ∀ y : Req, y.stem = q.stem → s.place s.r.extents y.ptr 2 y.pkg (atomBytes w) s.r.order = atomPlace h a w v q := fun y e => by
    have hptr : y.ptr = q.ptr := (congrArg Req.ptr e : y.stem.ptr = q.stem.ptr)
    have hpkg : y.pkg = q.pkg := (congrArg Req.pkg e : y.stem.pkg = q.stem.pkg)
    rw [hptr, hpkg, hq, atomPlace, hv.extents, hv.order]
    unfold State.place
    rw [hv.srv]
  have hat : atomOf h b w op v.c = atomOf h b w op s.seen.c := by simp only [atomOf, hv.reg]
  cases hp : atomPlace h a w v q with
  | error f =>
    rw [State.sendAtomic_error h a b pk w op hp]
    have hL := State.leaves_post (v.enterReq { q with buffered := true }) (if q.kind = 3 then .xatrResponse q.id 0 (some f) else .serverAck q.id 0 (some f))
    obtain ⟨y, hy, hi⟩ := hL.enters.mem (List.mem_append_right _ (List.mem_singleton_self _))
    have hs : y.stem = q.stem := (Req.stem_of_issued hi : y.stem = ({ q with buffered := true } : Req).stem)
    refine ⟨y, hy, hs, fun p hg => absurd (((hx y hs).trans hp).symm.trans hg) (by simp), hL.awaits, fun g hg => ?_⟩
    obtain rfl := Except.error.inj (((hx y hs).trans hp).symm.trans hg)
    exact List.mem_append_right _ (List.mem_singleton_self _)
  | ok p =>
    set z := q.atomAt pk p (atomBytes w) (atomOf h b w op v.c) with hz
    have hE : Enters (v.enterReq z) (v.sendAtomic h q a b pk w op) := by
      rw [State.sendAtomic_ok h a b pk w op hp]
      exact State.enters_enterWrites _
    obtain ⟨y, hy, hi⟩ := hE.mem (List.mem_append_right _ (List.mem_singleton_self z))
    have hs : y.stem = q.stem := (Req.stem_of_issued hi : y.stem = z.stem)
    have hid : y.id = q.id := (congrArg Req.id hi : y.issued.id = z.issued.id)
    have hpkg : y.pkg = q.pkg := (congrArg Req.pkg hi : y.issued.pkg = z.issued.pkg)
    refine ⟨y, hy, hs, fun p' hg he hn => ?_, hE.awaits, fun g hg => absurd (((hx y hs).trans hp).symm.trans hg) (by simp)⟩
    obtain rfl := Except.ok.inj (((hx y hs).trans hp).symm.trans hg)
    have hL := s.leaves_ended (v.sendAtomic h q a b pk w op) none
    have hn' : (v.sendAtomic h q a b pk w op).readsBefore y = false := hn
    have hw := State.sendAtomic_entered h a b pk w op hp hk hb (hv.reqs ▸ he) hi hn'
    rw [hid, hpkg, ← hat]
    exact hL.onWay (hL.heldBack rfl) hw

section
variable {s v : State} (hB : State.Begins s v)
include hB

theorem State.Begins.atomSees : s.AtomSees h v := ⟨hB.srv, hB.extents, hB.order, hB.reqs, fun k => hB.reg h.s k⟩

/-- The context waits for one more result: an atomic sees the same. -/
theorem State.Begins.atomSees_awaits (l : Ctx → List Await) : s.AtomSees h (v.modC fun c => { c with awaits := c.awaits ++ l c }) where
  srv := hB.srv
  extents := (congrArg Res.extents (State.modC_r v _)).trans hB.extents
  order := (congrArg Res.order (State.modC_r v _)).trans hB.order
  reqs := hB.reqs
  reg k := (congrArg (fun c : Ctx => c.reg h.s k) (State.modC_c v fun c => { c with awaits := c.awaits ++ l c })).trans (hB.reg h.s k)

end

/-- The request of an XAT or an XATR, not placed yet. -/
def atomReq (kind : BitVec 3) (c : BitVec 5) (x : Bool) (v : State) : Req :=
  { v.newReq h kind a b with pkg := v.pkgOf (v.c.reg h.s a) (pkgWord (v.c.regX h.s c x)), len := atomBytes w, slot := kind == 3, ack := kind == 2, ext := atomExt pk w op }

variable (c : BitVec 5) (x : Bool) {s : State}

theorem execXat_enters (hr : (opXat h a b c x pk w op).ready s = true) :
    s.EntersReq h (.xat h a b c x pk w op) 2 a fun t q => q.ack = true ∧ s.AtomSent h b pk w op t q ∧
      (∀ f, s.place s.r.extents q.ptr 2 q.pkg (atomBytes w) s.r.order = .error f → Instr.serverAck q.id 0 (some f) ∈ t.env.agenda) := by
  refine entersReq_of rfl hr (opXat_quiet h a b c x s [] pk w op) (fun _ => rfl) (fun _ => rfl) fun v hB _ => ?_
  rw [show (opXat h a b c x pk w op).eff v = v.sendAtomic h (atomReq h a b pk w op 2 c x v) a b pk w op from rfl]
  obtain ⟨y, hy, hs, hsent, -, hf⟩ := State.sendAtomic_sent h a b pk w op (q := atomReq h a b pk w op 2 c x v) (hB.atomSees h) rfl (.inl rfl) rfl
  refine ⟨y, _, hy, hs, ⟨rfl, rfl, rfl, rfl, rfl, rfl, rfl, rfl⟩, (congrArg Req.ack hs : _), hsent, fun f hp => ?_⟩
  have hid : y.id = v.fresh := (congrArg Req.id hs : _)
  rw [hid]
  exact hf f hp

theorem execXatr_enters (hr : (opXatr h a b c x pk w op).ready s = true) :
    s.EntersReq h (.xatr h a b c x pk w op) 3 a fun t q => q.slot = true ∧ (∃ y ∈ t.c.awaits, y.id = q.id ∧ y.dest = .s (regOf h.s a)) ∧ s.AtomSent h b pk w op t q ∧
      (∀ f, s.place s.r.extents q.ptr 2 q.pkg (atomBytes w) s.r.order = .error f → Instr.xatrResponse q.id 0 (some f) ∈ t.env.agenda) := by
  refine entersReq_of rfl hr (opXatr_quiet h a b c x s [] pk w op) (fun _ => rfl) (fun _ => rfl) fun v hB _ => ?_
  let aw (c : Ctx) : List Await := [⟨v.fresh, .s (regOf h.s a), if w = 2 then some (.s (regOf h.s (a + 1))) else none, c.mode, false⟩]
  let u := v.modC fun c => { c with awaits := c.awaits ++ aw c }
  have hptr : (atomReq h a b pk w op 3 c x v).ptr = u.c.reg h.s a := (congrArg (fun c : Ctx => c.reg h.s a) (v.modC_c fun c => { c with awaits := c.awaits ++ aw c })).symm
  rw [show (opXatr h a b c x pk w op).eff v = u.sendAtomic h (atomReq h a b pk w op 3 c x v) a b pk w op from rfl]
  obtain ⟨y, hy, hs, hsent, haw, hf⟩ := State.sendAtomic_sent h a b pk w op (q := atomReq h a b pk w op 3 c x v) (hB.atomSees_awaits h aw) hptr (.inr rfl) rfl
  have hid : y.id = v.fresh := (congrArg Req.id hs : _)
  refine ⟨y, _, hy, hs, ⟨rfl, rfl, rfl, rfl, rfl, rfl, rfl, rfl⟩, (congrArg Req.slot hs : _), ?_, hsent, fun f hp => ?_⟩
  · rw [State.ended_awaits, haw, State.modC_c, hid]
    exact ⟨_, List.mem_append_right _ (List.mem_singleton_self _), rfl, rfl⟩
  · rw [hid]
    exact hf f hp

end

/-! ### CPY and CPYD (R197 to R199) -/

section
variable (h : CHdr) (a b c : BitVec 5) (x aw : Bool) (nest : BitVec 3) (ne : Bool) (ch : BitVec 3)

/-- A CPY enters its request and goes to its Porter at once where its destination is local, else by way of the store buffer. -/
theorem opCpy_eff (v : State) : ∃ (q : Req) (u : State), v.Transfers ch q u ∧ q.MadeIn v h 4 b ∧ q.chan = some (ch, v.nextTid ch) ∧ q.add = aw ∧ q.dst = v.c.reg h.s a ∧
    q.nest = v.nestAt ne nest ∧ q.atom = none ∧ q.buffered = cpyLocal h a v ∧
    (opCpy h a b c x aw nest ne ch).eff v = if cpyLocal h a v then u.sendCopy q else u.enterWrites := by
  refine ⟨_, _, ?_, ⟨rfl, rfl, rfl, rfl, rfl, rfl, rfl, rfl⟩, rfl, rfl, rfl, rfl, rfl, rfl, rfl⟩
  dsimp only
  split
  · exact v.guarded_transfers _ _ _ ch _
  · exact v.transfers ch _ v.core.range

theorem execCpy_enters {s : State} (hr : (opCpy h a b c x aw nest ne ch).ready s = true) :
    s.EntersReq h (.cpy h a b c x aw nest ne ch) 4 b fun t q => s.Takes ch t q ∧ q.add = aw ∧ q.dst = s.seen.c.reg h.s a ∧ q.nest = s.r.nestIf ne nest ∧
      (ptrWin q.dst = 0 ∨ ((∀ y ∈ s.core.reqs, y.unentered = false) ∧ t.readsBefore q = false) → t.CopySent q) := by
  refine entersReq_of rfl hr (opCpy_quiet h a b c x s [] aw nest ne ch) (fun _ => rfl) (fun _ => rfl) fun v hB _ => ?_
  obtain ⟨p, u, hT, hM, hc, hadd, hdst, hnest, hatom, hbuf, he⟩ := opCpy_eff h a b c x aw nest ne ch v
  have hE : State.Enters u ((opCpy h a b c x aw nest ne ch).eff v) := by
    rw [he]
    split
    · exact (u.leaves_sendCopy p).enters
    · exact u.enters_enterWrites
  obtain ⟨q, hq, hi, htake⟩ := hT.entered hB hc hE
  have hs := Req.stem_of_issued hi
  have hd : q.dst = p.dst := (congrArg Req.dst hs : q.stem.dst = p.stem.dst)
  refine ⟨q, p, hq, hs, hM, htake, (congrArg Req.add hs : q.stem.add = p.stem.add).trans hadd, hd.trans (hdst.trans (hB.reg h.s a)),
    (congrArg Req.nest hs : q.stem.nest = p.stem.nest).trans (hnest.trans (hB.nestAt ne nest)), fun hgo => ?_⟩
  have hL := s.leaves_ended ((opCpy h a b c x aw nest ne ch).eff v) none
  refine hL.copySent hi ?_
  by_cases hl : cpyLocal h a v = true
  · rw [he, if_pos hl]
    exact u.sendCopy_sent p
  · have hw : ptrWin p.dst ≠ 0 := fun h0 => hl (by rw [cpyLocal, ← hdst, h0]; rfl)
    obtain ⟨hent, hn⟩ := hgo.resolve_left (by rwa [hd])
    have hn' : ((opCpy h a b c x aw nest ne ch).eff v).readsBefore q = false := hn
    rw [State.readsBefore_eq hE.reqs hi] at hn'
    have hu : p.unentered = true := by
      rw [Req.unentered, Req.writes, hM.kind, hbuf, Bool.eq_false_iff.mpr hl]
      simpa using hw
    have hk : p.kind ≠ 1 := by rw [hM.kind]; decide
    rw [he, if_neg hl, State.enterWrites_last hT.reqs (hB.reqs ▸ hent) hu hk hn', State.sendEntered, hatom]
    exact State.sendCopy_sent p

end

section
variable (h : CHdr) (a b c : BitVec 5) (x : Bool) (core : BitVec 11) (mb : BitVec 4) (me : Bool) (dt : BitVec 2) (nest : BitVec 3) (ne : Bool) (ch : BitVec 3)

theorem opCpyd_eff (v : State) : ∃ (q : Req) (u : State), v.Transfers ch q u ∧ q.MadeIn v h 5 b ∧ q.chan = some (ch, v.nextTid ch) ∧ q.core0 = core.toNat ∧
    q.mbox = (if me then some mb else none) ∧ q.nest = v.nestAt ne nest ∧ q.binding = v.r.orderCores.map (fun x => (x, v.physicalOf v.r.order x)) ∧
    (opCpyd h a b c x core mb me dt nest ne ch).eff v = u.sendDeal q :=
  ⟨_, _, v.transfers ch _ v.core.range, ⟨rfl, rfl, rfl, rfl, rfl, rfl, rfl, rfl⟩, rfl, rfl, rfl, rfl, rfl, rfl⟩

theorem State.enters_sendDeal (s : State) (q : Req) : Enters s (s.sendDeal q) := by
  unfold State.sendDeal
  split
  · exact (s.leaves_sendCopy q).enters
  · split
    · have h1 : Leaves s (s.modCore fun c => { c with leaveUse := c.leaveUse + 1 }) := ⟨⟨fun _ h => h, fun _ h => h, fun _ h => h, rfl, rfl⟩, rfl, rfl⟩
      exact (h1.trans (State.leaves_sendCopy _ q)).enters
    · unfold State.askLeave
      split <;> exact ⟨⟨fun _ h => h, fun _ h => h, fun _ h => h, rfl, rfl⟩, rfl, List.prefix_refl _⟩

theorem execCpyd_enters {s : State} (hr : (opCpyd h a b c x core mb me dt nest ne ch).ready s = true) :
    s.EntersReq h (.cpyd h a b c x core mb me dt nest ne ch) 5 b fun t q => s.Takes ch t q ∧ q.core0 = core.toNat ∧ q.mbox = (if me then some mb else none) ∧
      q.nest = s.r.nestIf ne nest ∧ q.binding = s.r.orderCores.map (fun x => (x, s.physicalOf s.r.order x)) ∧ (q.total ≤ 16384 → t.CopySent q) := by
  refine entersReq_of rfl hr (opCpyd_quiet h a b c x s [] core mb me dt nest ne ch) (fun _ => rfl) (fun _ => rfl) fun v hB _ => ?_
  obtain ⟨p, u, hT, hM, hc, hcore, hmb, hnest, hbind, he⟩ := opCpyd_eff h a b c x core mb me dt nest ne ch v
  rw [he]
  obtain ⟨q, hq, hi, htake⟩ := hT.entered hB hc (u.enters_sendDeal p)
  have hs := Req.stem_of_issued hi
  have hb : p.binding = s.r.orderCores.map (fun x => (x, s.physicalOf s.r.order x)) := by
    rw [hbind, hB.orderCores, hB.order]
    exact List.map_congr_left fun y _ => by rw [hB.physicalOf]
  refine ⟨q, p, hq, hs, hM, htake, (congrArg Req.core0 hs : q.stem.core0 = p.stem.core0).trans hcore, (congrArg Req.mbox hs : q.stem.mbox = p.stem.mbox).trans hmb,
    (congrArg Req.nest hs : q.stem.nest = p.stem.nest).trans (hnest.trans (hB.nestAt ne nest)), (congrArg Req.binding hs : q.stem.binding = p.stem.binding).trans hb, fun ht => ?_⟩
  have htot : q.total = p.total := (congrArg Req.total hs : q.stem.total = p.stem.total)
  have hh : heavyCopy p.total = false := by rw [heavyCopy, ← htot]; simpa using ht
  refine (s.leaves_ended (u.sendDeal p) none).copySent hi ?_
  rw [State.sendDeal, hh]
  exact u.sendCopy_sent p

end

/-! ### Fences (R202, R203, R298) -/

theorem Ctx.landed_served (c : Ctx) : c.landed.served = c.served := by
  have hw : ∀ (c : Ctx) (d : Dest) (v : Word), (c.write d v).served = c.served := fun c d v => by
    cases d <;> simp only [Ctx.write] <;> split <;> rfl
  have h : ∀ (l : List Flight) (c : Ctx), (landDue l c).served = c.served := by
    intro l
    induction l with
    | nil => exact fun _ => rfl
    | cons f t ih =>
      intro c
      rw [landDue]
      split
      · exact (ih _).trans (hw _ _ _)
      · exact ih c
  exact h _ _

section
variable {s : State}

theorem State.mem_mine (s : State) (q : Req) : q ∈ s.seen.mine ↔ q ∈ s.core.reqs ∧ q.res = s.curRes ∧ q.ctx = s.curCtx := by
  rw [State.mine, List.mem_filter, Bool.and_eq_true, beq_iff_eq, beq_iff_eq]
  rfl

/-- What O41 says of the answers that FENCE.acq waits for, and of the writes that FENCE.rel waits for. -/
def State.Answered (s : State) : Prop := ∀ q, (q ∈ s.core.reqs ∧ q.res = s.curRes ∧ q.ctx = s.curCtx) → (q.kind = 0 ∨ q.kind = 3) → q.parts = 0

def State.Written (s : State) (k : BitVec 4) : Prop :=
  (∀ q, (q ∈ s.core.reqs ∧ q.res = s.curRes ∧ q.ctx = s.curCtx) → q.writes = true → k.toNat < 3 ∧ q.buffered = true) ∧ (3 ≤ k.toNat → ∀ b ∈ s.cl.buffer, b.key ∉ s.c.served)

theorem State.answered_of_acquired (ha : s.seen.acquired = true) : s.Answered := fun q hq hk => by
  have h := List.all_eq_true.mp ha q ((s.mem_mine q).mpr hq)
  have hk : (q.kind == 0 || q.kind == 3) = true := by rwa [Bool.or_eq_true, beq_iff_eq, beq_iff_eq]
  rw [hk] at h
  simpa using h

theorem State.written_of_released {k : BitVec 4} (hr : s.seen.released (decide (3 ≤ k.toNat)) = true) : s.Written k := by
  have hs : s.seen.c.served = s.c.served := by rw [State.seen, State.modC_c, Ctx.landed_served]
  unfold State.released at hr
  by_cases hk : 3 ≤ k.toNat
  · rw [decide_eq_true hk, if_pos rfl, Bool.and_eq_true, hs] at hr
    obtain ⟨hm, hb⟩ := hr
    refine ⟨fun q hq hw => ?_, fun _ b hb' hin => ?_⟩
    · have h := List.all_eq_true.mp hm q ((s.mem_mine q).mpr hq)
      rw [hw] at h
      exact absurd h (by decide)
    · have h : (s.cl.buffer.any fun b => s.c.served.contains b.key) = true := List.any_eq_true.mpr ⟨b, hb', List.contains_iff_mem.mpr hin⟩
      rw [show s.seen.cl.buffer = s.cl.buffer from rfl, h] at hb
      exact absurd hb (by decide)
  · rw [decide_eq_false hk, if_neg Bool.false_ne_true] at hr
    refine ⟨fun q hq hw => ⟨by omega, ?_⟩, fun h3 => absurd h3 hk⟩
    have h := List.all_eq_true.mp hr q ((s.mem_mine q).mpr hq)
    rwa [hw] at h

/-- A fence that issues only goes on. -/
theorem exec_fence {i : Instr} {h : CHdr} {ok : State → Bool} (ho : opOf i = some (opFence h ok)) (hr : (opFence h ok).ready s = true) :
    ok s.seen = true ∧ exec i s = .next (s.ended s.begun none) := by
  have hw : (!ok s.seen) = false := Op.ready_wait _ s hr
  exact ⟨by simpa using hw, exec_of_effects ho hr (fun _ => rfl) (fun _ => rfl) (fun _ => rfl) (Op.begun_eq (fun _ => rfl) s)⟩

/-- FENCE.ext waits for every transfer of the residency, and makes the pending extent registers current (R203). -/
theorem execFenceExt_current {h : CHdr} (hr : (opFenceExt h).ready s = true) :
    (∀ q ∈ s.core.reqs, q.res ≠ s.curRes) ∧ exec (.fenceExt h) s = .next (s.ended (s.begun.modR fun r => { r with extents := r.extentsPending }) none) := by
  refine ⟨fun q hq hres => ?_, ?_⟩
  · have hw : (!!(s.core.reqs.any fun q => q.res == s.curRes)) = false := Op.ready_wait _ s hr
    rw [Bool.not_not, List.any_eq_false] at hw
    exact hw q hq (beq_iff_eq.mpr hres)
  · have hb := Op.begun_eq (o := opFenceExt h) (fun _ => rfl) s
    exact exec_of_effects rfl hr (fun _ => rfl) (fun _ => rfl) (fun _ => rfl) (congrArg (fun t : State => t.modR fun r => { r with extents := r.extentsPending }) hb)

end

/-- Settles O41: each server instruction enters its request and sends it on its way; relocation by the first entry that covers; the fences go on once what they wait for is done. -/
theorem serverInstructionsEnterRequests : Obligations.ServerInstructionsEnterRequests := by
  unfold Obligations.ServerInstructionsEnterRequests
  refine ⟨fun h a b c x pk aw ne me ch nest len w dt op mb core s => ⟨fun hr => ?_, fun hr => ?_, fun hr => ?_, fun hr => ?_, fun hr => ?_, fun hr => ?_⟩,
    fun es w r first last => ⟨relocate_none, fun n hn hm => relocate_first hn hm⟩,
    fun h k s => ⟨fun hr => ?_, fun hr => ?_, fun hr => ?_, fun hr => execFenceExt_current hr⟩⟩
  · exact execXld_enters h a b c x ch len hr
  · exact execXst_enters h a b c x ch len hr
  · exact execXat_enters h a b pk w op c x hr
  · exact execXatr_enters h a b pk w op c x hr
  · exact execCpy_enters h a b c x aw nest ne ch hr
  · exact execCpyd_enters h a b c x core mb me dt nest ne ch hr
  · obtain ⟨hok, he⟩ := exec_fence (i := .fenceAcq h k) rfl hr
    exact ⟨State.answered_of_acquired hok, he⟩
  · obtain ⟨hok, he⟩ := exec_fence (i := .fenceRel h k) rfl hr
    exact ⟨State.written_of_released hok, he⟩
  · obtain ⟨hok, he⟩ := exec_fence (i := .fenceFull h k) rfl hr
    obtain ⟨ha, hw⟩ := Bool.and_eq_true_iff.mp hok
    exact ⟨State.answered_of_acquired ha, State.written_of_released hw, he⟩

end Sys2Proof.Machine
end

section
/-!
PROOF. What a core does with a server's answer (O43).
-/

namespace Sys2Proof.Machine

open Sys2Proof

/-! ### What the end of a request leaves alone -/

section
variable (s : State)

theorem State.doneTid_cl (q : Req) : (s.doneTid q).cl = s.cl := by
  unfold State.doneTid
  split <;> rfl

theorem State.dropReq_mem (id : Nat) : (s.dropReq id).core.mem = s.core.mem := rfl

/-- A request that is dropped is gone, and so is any other of its number. -/
theorem State.dropReq_none (id : Nat) : ∀ y ∈ (s.dropReq id).core.reqs, y.id ≠ id := fun _ hy => bne_iff_ne.mp (List.mem_filter.mp hy).2

theorem State.leaveBuffer_none (id : Nat) : ∀ y ∈ (s.leaveBuffer id).cl.buffer, ¬(y.own = true ∧ y.id = id) := fun y hy ⟨ho, hi⟩ => by
  have h := (List.mem_filter.mp hy).2
  rw [ho, hi] at h
  simp at h

/-- A changed request stands in the list. -/
theorem State.mem_modReq {q : Req} (f : Req → Req) (hq : q ∈ s.core.reqs) : f q ∈ (s.modReq q.id f).core.reqs := List.mem_map.mpr ⟨q, hq, if_pos rfl⟩

/-- Nothing of a settled write is left, in the list or in the store buffer. -/
theorem State.settleWrite_none (q : Req) : (∀ y ∈ (s.settleWrite q).core.reqs, y.id ≠ q.id) ∧ (∀ y ∈ (s.settleWrite q).cl.buffer, ¬(y.own = true ∧ y.id = q.id)) := by
  unfold State.settleWrite
  rw [State.rangeRemove_reqs, State.doneTid_core, (State.sends_rangeRemove _ _).cl, State.doneTid_cl]
  exact ⟨State.dropReq_none _ q.id, (s.dropReq q.id).leaveBuffer_none q.id⟩

/-- The one awaited result of a context comes. -/
theorem Ctx.took_alone {c : Ctx} {w : Await} {id old : Nat} (hw : c.awaits = [w]) (hi : w.id = id) (h2 : w.dest2 = none) (hm : w.mode = c.mode) :
    (c.took id old false).awaits = [] ∧ ⟨w.dest, BitVec.ofNat 64 old, latLoad⟩ ∈ (c.took id old false).flight := by
  have hf : (c.awaits.find? fun a => a.id == id) = some w := by rw [hw, List.find?_cons, beq_iff_eq.mpr hi]
  have hr : (c.awaits.filter fun x => x.id != id) = [] := by simp [hw, hi]
  have hmode : (c.mode && !w.mode) = false := by rw [hm]; cases c.mode <;> rfl
  unfold Ctx.took
  rw [hf]
  dsimp only
  rw [if_neg Bool.false_ne_true, hmode, if_neg Bool.false_ne_true, h2, hr]
  exact ⟨rfl, List.mem_append_right _ List.mem_cons_self⟩

end

/-! ### The answer to an XLD (R191, R192) -/

theorem State.mem_reqs {s : State} {q : Req} {l r : List Req} (hs : s.core.reqs = l ++ q :: r) : q ∈ s.core.reqs := hs ▸ List.mem_append_right _ List.mem_cons_self

/-- The bytes of an answer stand at their place in the slot. -/
theorem Req.answered_got (q : Req) (part : Nat) (data : List Byte) (f : Option ServerFail) {i : Nat} (hi : i < data.length) :
    (q.partOff part + i, data.getD i 0) ∈ (q.answered part data f).got :=
  List.mem_append_right _ (List.mem_map.mpr ⟨(data.getD i 0, i), List.mk_mem_zipIdx_iff_getElem?.mpr (by simp [hi]), rfl⟩)

section
variable {s : State} {q : Req} {l r : List Req} (hs : s.core.reqs = l ++ q :: r) (hl : ∀ y ∈ l, y.id ≠ q.id)
include hs hl

/-- The last part of an XLD lets its slot be copied. -/
theorem execXldResponse_last {part : Nat} {data : List Byte} (hd : q.dropped = false) (hk : q.kind = 0) (hp : q.parts = 1) (hf : q.fail = none) :
    ∃ t, exec (.xldResponse q.id part data none) s = .next t ∧
      (∃ y ∈ t.core.reqs, y.id = q.id ∧ y.copying = true ∧ y.parts = 0 ∧ ∀ i, i < data.length → (q.partOff part + i, data.getD i 0) ∈ y.got) ∧ Instr.slotCopyDone ∈ t.env.agenda := by
  set q1 := q.answered part data none with hq1
  have h0 : q1.parts = 0 := by show q.parts - 1 = 0; omega
  have hf1 : q1.fail = none := by show (q.fail <|> none) = none; rw [hf]; rfl
  have he : exec (.xldResponse q.id part data none) s = .next (((s.modReq q.id fun _ => q1).modReq q1.id fun x => { x with copying := true }).post .slotCopyDone) := by
    show execXldResponse q.id part data none s = _
    rw [execXldResponse, s.reqOf_eq hs hl]
    dsimp only
    rw [if_pos ⟨hk, by omega⟩, if_pos h0, State.settleLoad, show q1.dropped = false from hd, if_neg Bool.false_ne_true, hf1]
  have hm : q1 ∈ (s.modReq q.id fun _ => q1).core.reqs := s.mem_modReq (fun _ => q1) (State.mem_reqs hs)
  exact ⟨_, he, ⟨_, State.mem_modReq _ (fun x => { x with copying := true }) hm, rfl, rfl, h0, fun i hi => q.answered_got part data none hi⟩,
    List.mem_append_right _ (List.mem_singleton_self _)⟩

/-- An earlier part leaves the XLD waiting for the others. -/
theorem execXldResponse_part {part : Nat} {data : List Byte} (hk : q.kind = 0) (hp : 1 < q.parts) :
    ∃ t, exec (.xldResponse q.id part data none) s = .next t ∧ (∃ y ∈ t.core.reqs, y.id = q.id ∧ y.parts + 1 = q.parts ∧ y.copying = q.copying) := by
  set q1 := q.answered part data none with hq1
  have h1 : q1.parts + 1 = q.parts := by show q.parts - 1 + 1 = q.parts; omega
  have he : exec (.xldResponse q.id part data none) s = .next (s.modReq q.id fun _ => q1) := by
    show execXldResponse q.id part data none s = _
    rw [execXldResponse, s.reqOf_eq hs hl]
    dsimp only
    rw [if_pos ⟨hk, by omega⟩, if_neg (show q1.parts ≠ 0 by omega)]
  exact ⟨_, he, q1, s.mem_modReq (fun _ => q1) (State.mem_reqs hs), rfl, h1, rfl⟩

omit hl in
/-- The slot is copied to its destination, and the XLD is over (R481). -/
theorem execSlotCopyDone_copies (hd : q.dropped = false) (hk : q.kind = 0) (hc : q.copying = true) (hl : ∀ y ∈ l, y.kind ≠ 0 ∨ y.copying = false) :
    ∃ t, exec .slotCopyDone s = .next t ∧ t.core.mem = (s.as q.res fun s => s.writeBytes (ptrOff q.local_) q.bytes).core.mem ∧ (∀ y ∈ t.core.reqs, y.id ≠ q.id) := by
  have hf : (s.core.reqs.find? fun q => q.kind == 0 && q.copying) = some q := by
    have hn : ∀ y ∈ l, ¬(y.kind == 0 && y.copying) = true := fun y hy => by
      rw [Bool.and_eq_true, beq_iff_eq]
      exact fun ⟨h0, h1⟩ => (hl y hy).elim (· h0) fun h => absurd (h.symm.trans h1) Bool.false_ne_true
    rw [hs, List.find?_append, List.find?_eq_none.mpr hn]
    simp [hk, hc]
  set u := s.as q.res fun s => s.writeBytes (ptrOff q.local_) q.bytes
  have he : exec .slotCopyDone s = .next (((u.dropReq q.id).rangeRemove q.range).doneTid q) := by
    show execSlotCopyDone s = _
    rw [execSlotCopyDone, hf]
    dsimp only
    rw [hd, if_neg Bool.false_ne_true]
  clear_value u
  refine ⟨_, he, ?_, ?_⟩
  · rw [State.doneTid_core, (State.sends_rangeRemove _ _).mem, State.dropReq_mem]
  · rw [State.doneTid_core, State.rangeRemove_reqs]; exact u.dropReq_none q.id

/-! ### Acknowledgements, and the answer to an XATR (R193, R195) -/

/-- The last acknowledgement ends a write or an atomic. -/
theorem execServerAck_ends {part : Nat} (hk : q.kind = 1 ∨ q.kind = 2) (hp : q.parts = 1) :
    ∃ t, exec (.serverAck q.id part none) s = .next t ∧ (∀ y ∈ t.core.reqs, y.id ≠ q.id) ∧ (∀ y ∈ t.cl.buffer, ¬(y.own = true ∧ y.id = q.id)) := by
  set q1 : Req := { q with parts := q.parts - 1 }
  have h0 : q1.parts = 0 := by show q.parts - 1 = 0; omega
  have he : ∃ u : State, exec (.serverAck q.id part none) s = .next (u.settleWrite q1) := by
    show ∃ u : State, execServerAck q.id part none s = _
    rw [execServerAck, s.reqOf_eq hs hl]
    dsimp only
    rw [if_pos hk, if_pos h0]
    exact ⟨_, rfl⟩
  obtain ⟨u, he⟩ := he
  exact ⟨_, he, u.settleWrite_none q1⟩

/-- An XATR is over with its answer: the old value becomes a result of its context, which no longer waits (R195). -/
theorem execXatrResponse_lands {old : Nat} {w : Await} (hd : q.dropped = false) (hk : q.kind = 3) (hw : ((s.res.get q.res).ctx.get q.ctx).awaits = [w]) (hi : w.id = q.id)
    (h2 : w.dest2 = none) (hm : w.mode = ((s.res.get q.res).ctx.get q.ctx).mode) :
    ∃ t, exec (.xatrResponse q.id old none) s = .next t ∧ (∀ y ∈ t.core.reqs, y.id ≠ q.id) ∧
      ((t.res.get q.res).ctx.get q.ctx).awaits = [] ∧ ⟨w.dest, BitVec.ofNat 64 old, latLoad⟩ ∈ ((t.res.get q.res).ctx.get q.ctx).flight := by
  have he : exec (.xatrResponse q.id old none) s =
      .next (((s.dropReq q.id).leaveBuffer q.id).modRes q.res fun r => r.modCtx q.ctx fun c => c.took q.id old false) := by
    show execXatrResponse q.id old none s = _
    rw [execXatrResponse, s.reqOf_eq hs hl]
    dsimp only
    rw [if_pos hk, State.settleAtomic, hd, if_neg Bool.false_ne_true]
    rfl
  have hc : (((((s.dropReq q.id).leaveBuffer q.id).modRes q.res fun r => r.modCtx q.ctx fun c => c.took q.id old false).res.get q.res).ctx.get q.ctx) =
      ((s.res.get q.res).ctx.get q.ctx).took q.id old false := by
    rw [State.modRes_res, vec_get_set_same, Res.modCtx_get]
    rfl
  obtain ⟨ha, hfl⟩ := Ctx.took_alone (old := old) hw hi h2 hm
  exact ⟨_, he, s.dropReq_none q.id, hc ▸ ha, hc ▸ hfl⟩

end

/-! ### An XST whose source is read enters the store buffer (R193, R292, R293) -/

/-- What holds a write, once its entries stand in the store buffer, does not change as later writes enter. -/
theorem State.Enters.heldBack {s t : State} (h : Enters s t) {q : ServerReq} (hq : q.own = true) (hr : reqIsRead q = false)
    (hb : ∃ b ∈ s.cl.buffer, b.own = true ∧ b.id = q.id) : t.heldBack q = s.heldBack q := by
  have hown : t.behindOwn q = s.behindOwn q := by
    unfold State.behindOwn
    obtain ⟨ht, hs⟩ | ⟨x, y, ht, hs, hxy⟩ := reqOf_cases (h.reqOf q.id)
    · rw [ht, hs]
    · rw [ht, hs, hr]
      dsimp only
      rw [show x.res = y.res from congrArg (·.res) hxy, show x.ctx = y.ctx from congrArg (·.ctx) hxy]
      exact any_of_map_eq h.reqs _ fun _ => rfl
  have hbuf : t.bufferBefore q = s.bufferBefore q := by
    obtain ⟨m, hm⟩ := h.buffer
    unfold State.bufferBefore State.bufferFor
    rw [if_pos hq, if_pos hq, ← hm, List.takeWhile_append, if_neg]
    intro hlen
    obtain ⟨b, hb, ho, hi⟩ := hb
    have hall := List.takeWhile_eq_self_iff.mp ((List.takeWhile_prefix _).eq_of_length hlen) b hb
    simp [hq, ho, hi] at hall
  rw [State.heldBack, State.heldBack, if_pos hq, if_pos hq, hown, hbuf]

/-- The state in which an XST has entered the store buffer and its range is free. -/
def State.xstRead (s : State) (q : Req) : State := (s.rangeRemove q.range).modReq q.id fun x => { x with buffered := true, range := none }

theorem State.still_xstRead (s : State) (q : Req) : Still (fun _ => False) s (s.xstRead q) := (Still.of_sends (s.sends_rangeRemove _)).trans (State.still_modReq _ _ _)

section
variable {s : State} {q : Req} {l r : List Req} (hs : s.core.reqs = l ++ q :: r) (hk : q.kind = 1) (hb : q.buffered = false) (hl : ∀ y ∈ l, y.unentered = false)
include hs hk hb hl

theorem find?_unentered : s.core.reqs.find? Req.unentered = some q := by
  have hu : q.unentered = true := by simp [Req.unentered, Req.writes, hk, hb]
  rw [hs, List.find?_append, List.find?_eq_none.mpr fun y hy => by simp [hl y hy]]
  simp [hu]

/-- An XST behind an earlier read of the location waits (R292). -/
theorem execXstSourceRead_waits (hr : s.readsBefore q = true) : exec .xstSourceRead s = .next (s.after 1 .xstSourceRead) := by
  show execXstSourceRead s = _
  rw [execXstSourceRead, find?_unentered hs hk hb hl]
  dsimp only
  rw [if_pos (.inr hr)]

variable (hr : s.readsBefore q = false) (hbad : ({ s with curRes := q.res } : State).badAt (ptrOff q.local_) q.len = false)
include hr hbad

/-- An XST that did not relocate is answered at once. -/
theorem execXstSourceRead_failed (hp : q.spans = []) : exec .xstSourceRead s = .next ((s.xstRead q).post (.serverAck q.id 0 q.fail)).enterWrites := by
  show execXstSourceRead s = _
  rw [execXstSourceRead, find?_unentered hs hk hb hl]
  dsimp only
  rw [if_neg (by simp [hk, hr]), hbad, if_neg Bool.false_ne_true, hp]
  rfl

theorem execXstSourceRead_sends {p : Nat × Nat} (hp : q.spans = [p]) : exec .xstSourceRead s = .next
    ((((s.xstRead q).buffered q (({ s with curRes := q.res } : State).readBytes (ptrOff q.local_) q.len) (pieces 3 0 (p.1 % 2 ^ 41) q.len)).sendPieces q
      (fun o n => .write (((({ s with curRes := q.res } : State).readBytes (ptrOff q.local_) q.len).drop o).take n)) (pieces 3 0 (p.1 % 2 ^ 41) q.len) 0).enterWrites) := by
  show execXstSourceRead s = _
  rw [execXstSourceRead, find?_unentered hs hk hb hl]
  dsimp only
  rw [if_neg (by simp [hk, hr]), hbad, if_neg Bool.false_ne_true, hp]
  rfl

/-- An XST whose turn has come stands in the store buffer piece by piece, and each piece is on its way or held. -/
theorem execXstSourceRead_enters {p : Nat × Nat} (hp : q.spans = [p]) :
    ∃ t, exec .xstSourceRead s = .next t ∧ t.core.mem = s.core.mem ∧ ∀ k y, (pieces 3 0 (p.1 % 2 ^ 41) q.len)[k]? = some y →
      let d := ((({ s with curRes := q.res } : State).readBytes (ptrOff q.local_) q.len).drop y.1).take y.2.2
      (⟨q.id, true, k, q.pkg, y.2.1, d, false⟩ : Buffered) ∈ t.cl.buffer ∧ t.OnWay (.request ⟨q.id, k, true, q.pkg, y.2.1, .write d, .own⟩ false) := by
  have he := execXstSourceRead_sends hs hk hb hl hr hbad hp
  generalize ({ s with curRes := q.res } : State).readBytes (ptrOff q.local_) q.len = data at he ⊢
  set ps := pieces 3 0 (p.1 % 2 ^ 41) q.len
  set v := (s.xstRead q).buffered q data ps
  set w := v.sendPieces q (fun o n => .write ((data.drop o).take n)) ps 0
  have hvw : State.Leaves v w := v.leaves_sendPieces q _ ps 0
  have hwt : State.Enters w w.enterWrites := w.enters_enterWrites
  have hid : (v.reqOf q.id).isSome = true := by
    have hq : q ∈ (s.rangeRemove q.range).core.reqs := by
      rw [State.rangeRemove_reqs]
      exact State.mem_reqs hs
    rw [State.reqOf, List.find?_isSome]
    exact ⟨_, State.mem_modReq _ (fun x => { x with buffered := true, range := none }) hq, beq_self_eq_true _⟩
  have hsv : State.Still (fun _ => False) s v := (s.still_xstRead q).trans (.of_ctx rfl rfl rfl rfl fun _ => rfl)
  have hmem : State.Still (fun _ => False) s w.enterWrites := (hsv.trans (State.still_sendPieces _ _ _ _ _)).trans (State.still_enterUpTo _ _)
  refine ⟨_, he, hmem.mem, fun k y hy => ?_⟩
  intro d
  have hbv : (⟨q.id, true, k, q.pkg, y.2.1, d, false⟩ : Buffered) ∈ v.cl.buffer :=
    List.mem_append_right _ (List.mem_map.mpr ⟨(y, k), List.mk_mem_zipIdx_iff_getElem?.mpr hy, rfl⟩)
  have hbw := hvw.buffer ▸ hbv
  refine ⟨hwt.buffer.subset hbw, ?_⟩
  obtain ⟨u, hu, hl⟩ := v.sendPieces_at q (fun o n => .write ((data.drop o).take n)) (k := 0) hy
  rw [Nat.zero_add] at hl
  have hsent : (u.sendOut (.request ⟨q.id, k, true, q.pkg, y.2.1, .write d, .own⟩ false)).OnWay (.request ⟨q.id, k, true, q.pkg, y.2.1, .write d, .own⟩ false) :=
    State.sendOut_request rfl (hu.enters.reqOf_isSome hid) fun n hn => by cases hn
  exact hwt.onWay (hwt.heldBack rfl rfl ⟨_, hbw, rfl, rfl⟩) (hl.onWay (hl.heldBack rfl) hsent)

end

/-- Settles O43: what each answer of a server does with the request that waits for it. -/
theorem serverResponseResults : Obligations.ServerResponseResults := by
  unfold Obligations.ServerResponseResults
  intro s q l r part old data hs hl hd bytes
  refine ⟨fun hk hp hf => execXldResponse_last hs hl hd hk hp hf, fun hk hp => execXldResponse_part hs hl hk hp, fun hk hc hn => execSlotCopyDone_copies hs hd hk hc hn,
    fun hk hb hn => ⟨fun hr => execXstSourceRead_waits hs hk hb hn hr, fun hr hbad => ⟨fun hp => ?_, fun p hp => ?_⟩⟩, fun hk hp => execServerAck_ends hs hl hk hp,
    fun w hk hw hi h2 hm => execXatrResponse_lands hs hl hd hk hw hi h2 hm⟩
  · exact ⟨_, execXstSourceRead_failed hs hk hb hn hr hbad hp, (State.enters_enterWrites _).agenda _ (List.mem_append_right _ (List.mem_singleton_self _))⟩
  · obtain ⟨t, he, hm, hw⟩ := execXstSourceRead_enters hs hk hb hn hr hbad hp
    refine ⟨t, he, hm, fun k y hy => ?_⟩
    obtain ⟨hbuf, hheld, hgone⟩ := hw k y hy
    refine ⟨hbuf, hheld, fun hx => ?_⟩
    obtain ⟨n, hn, hi, hv, -⟩ := hgone hx
    exact ⟨n, hn, hi, hv⟩

end Sys2Proof.Machine
end

section
/-!
PROOF. A step of a tile-vector task (O38): the elements of a tile as the bytes they stand in, the elements that a list of positions writes, and the values of the integer and layout instructions.
-/

namespace Sys2Proof.Machine

open Sys2Proof

/-! ### Elements of a tile as bytes (R32, R33, R218) -/

section
variable {n : Nat} {sh : Shape} {m : List Host.Cell}

theorem Shape.has_iff {i j : Nat} : sh.has i j = true ↔ i < sh.rows.toNat ∧ j < sh.cols.toNat := by
  rw [Shape.has, Bool.and_eq_true, decide_eq_true_eq, decide_eq_true_eq]

theorem Shape.width_nibble (h : sh.ew = 0) : sh.width = 4 := by
  rw [Shape.width, h]
  rfl

/-- Elements wider than a nibble are whole bytes. -/
theorem Shape.width_bytes (h : sh.ew ≠ 0) : sh.width = 8 * (sh.width / 8) := by
  obtain ⟨e, he⟩ : ∃ e, sh.ew.toNat = e + 1 := Nat.exists_eq_add_one_of_ne_zero fun h0 => h (BitVec.eq_of_toNat_eq h0)
  have hw : sh.width = 8 * 2 ^ e := by rw [Shape.width, he, Nat.shiftLeft_eq, Nat.pow_succ]; omega
  rw [hw, Nat.mul_div_cancel_left _ (by decide)]

theorem Shape.rowBytes_nibble (h : sh.ew = 0) : sh.rowBytes = (sh.cols.toNat + 1) / 2 := by
  rw [Shape.rowBytes, Shape.width_nibble h]
  omega

theorem Shape.rowBytes_bytes (h : sh.ew ≠ 0) : sh.rowBytes = sh.cols.toNat * (sh.width / 8) := by
  have hw : sh.cols.toNat * sh.width = 8 * (sh.cols.toNat * (sh.width / 8)) := by rw [Nat.mul_left_comm, ← Shape.width_bytes h]
  rw [Shape.rowBytes, hw]
  omega

/-- Byte `o` of row `i` and byte `o'` of another row are not the same. -/
theorem row_apart {r i i' o o' : Nat} (ho : o < r) (ho' : o' < r) (h : i ≠ i') : i * r + o ≠ i' * r + o' := fun e => by
  have hr : 0 < r := by omega
  have hd : ∀ {i o : Nat}, o < r → (i * r + o) / r = i := fun {i o} ho => by rw [Nat.mul_comm, Nat.mul_add_div hr, Nat.div_eq_of_lt ho, Nat.add_zero]
  exact h (by rw [← hd (i := i) ho, e, hd ho'])

/-- The number of bytes that element (i, j) stands in. -/
def Shape.bytes (sh : Shape) : Nat := if sh.ew = 0 then 1 else sh.width / 8

/-- Byte `b` of those that an element of column `j` stands in, from the start of its row. -/
def Shape.column (sh : Shape) (j b : Nat) : Nat := if sh.ew = 0 then j / 2 else j * (sh.width / 8) + b

/-- The key of byte `b` of those that element (i, j) of tile `n` stands in. -/
def Shape.elemKey (sh : Shape) (n i j b : Nat) : Nat := tileKey n (i * sh.rowBytes + sh.column j b)

theorem Shape.column_lt {i j b : Nat} (h : sh.has i j = true) (hb : b < sh.bytes) : sh.column j b < sh.rowBytes := by
  have hj := (Shape.has_iff.mp h).2
  by_cases he : sh.ew = 0
  · rw [Shape.column, if_pos he, Shape.rowBytes_nibble he]
    omega
  · rw [Shape.bytes, if_neg he] at hb
    rw [Shape.column, if_neg he, Shape.rowBytes_bytes he]
    calc j * (sh.width / 8) + b < (j + 1) * (sh.width / 8) := by rw [Nat.succ_mul]; omega
      _ ≤ sh.cols.toNat * (sh.width / 8) := Nat.mul_le_mul_right _ hj

/-- An element stands in the bytes of its tile. -/
theorem Shape.elemKey_mem {i j b : Nat} (hs : sh.rows.toNat * sh.rowBytes ≤ 32768) (h : sh.has i j = true) (hb : b < sh.bytes) :
    tileKey n 0 ≤ sh.elemKey n i j b ∧ sh.elemKey n i j b < tileKey n 0x8000 := by
  have hc := Shape.column_lt h hb
  have hr : (i + 1) * sh.rowBytes ≤ sh.rows.toNat * sh.rowBytes := Nat.mul_le_mul_right _ (Shape.has_iff.mp h).1
  rw [Nat.succ_mul] at hr
  simp only [Shape.elemKey, tileKey]
  omega

/-- Two elements stand in different bytes, unless they are the two nibbles of one. -/
theorem Shape.elemKey_ne {p q : Nat × Nat} {b b' : Nat} (hp : sh.has p.1 p.2 = true) (hq : sh.has q.1 q.2 = true) (hb : b < sh.bytes) (hb' : b' < sh.bytes)
    (h : p.1 ≠ q.1 ∨ (if sh.ew = 0 then p.2 / 2 ≠ q.2 / 2 else p.2 ≠ q.2)) : sh.elemKey n p.1 p.2 b ≠ sh.elemKey n q.1 q.2 b' := fun e => by
  have e : p.1 * sh.rowBytes + sh.column p.2 b = q.1 * sh.rowBytes + sh.column q.2 b' := Nat.add_left_cancel e
  by_cases hi : p.1 = q.1
  · rw [hi, Nat.add_left_cancel_iff] at e
    have h := h.resolve_left (not_not_intro hi)
    by_cases he : sh.ew = 0
    · simp only [he, Shape.column, if_true] at e h
      exact h e
    · simp only [he, Shape.column, Shape.bytes, if_false] at e h hb hb'
      exact row_apart hb hb' h e
  · exact row_apart (Shape.column_lt hp hb) (Shape.column_lt hq hb') hi e

/-! ### Writing one element -/

theorem tileGet_nibble (he : sh.ew = 0) {i j : Nat} (h : sh.has i j = true) : tileGet m n sh i j = (memGet m (sh.elemKey n i j 0)).toNat / (if j % 2 = 0 then 1 else 16) % 16 := by
  rw [tileGet, if_pos h, if_pos he, Shape.elemKey, Shape.column, if_pos he]

theorem tileGet_bytes (he : sh.ew ≠ 0) {i j : Nat} (h : sh.has i j = true) : tileGet m n sh i j = memNat m (sh.elemKey n i j 0) (sh.width / 8) := by
  rw [tileGet, if_pos h, if_neg he, Shape.elemKey, Shape.column, if_neg he]
  rfl

theorem tilePut_nibble (he : sh.ew = 0) {i j : Nat} (h : sh.has i j = true) (v : Nat) : tilePut n sh i j v m = memSet m (sh.elemKey n i j 0) (BitVec.ofNat 8
    (if j % 2 = 0 then (memGet m (sh.elemKey n i j 0)).toNat / 16 * 16 + v % 16 else v % 16 * 16 + (memGet m (sh.elemKey n i j 0)).toNat % 16)) := by
  rw [tilePut, if_pos h, if_pos he, Shape.elemKey, Shape.column, if_pos he]

theorem tilePut_bytes (he : sh.ew ≠ 0) {i j : Nat} (h : sh.has i j = true) (v : Nat) :
    tilePut n sh i j v m = memPut m (sh.elemKey n i j 0) (leBytes (sh.width / 8) v) := by
  rw [tilePut, if_pos h, if_neg he, Shape.elemKey, Shape.column, if_neg he]
  rfl

theorem tilePut_outside {i j : Nat} (h : ¬ sh.has i j = true) (v : Nat) : tilePut n sh i j v m = m := if_neg h

theorem elemKey_add (he : sh.ew ≠ 0) (i j b : Nat) : sh.elemKey n i j 0 + b = sh.elemKey n i j b := by
  simp only [Shape.elemKey, Shape.column, tileKey, if_neg he, Nat.add_zero, Nat.add_assoc]

theorem memGet_tilePut_other (hm : Memory.wf m = true) {i j : Nat} (v : Nat) {x : Nat} (hx : sh.has i j = true → ∀ b < sh.bytes, x ≠ sh.elemKey n i j b) :
    memGet (tilePut n sh i j v m) x = memGet m x := by
  by_cases h : sh.has i j = true
  · by_cases he : sh.ew = 0
    · rw [tilePut_nibble he h]
      exact memGet_memSet_other m _ _ _ none hm (hx h 0 (by rw [Shape.bytes, if_pos he]; decide))
    · rw [tilePut_bytes he h]
      refine memGet_memPut_other _ m _ _ hm ?_
      rw [length_leBytes]
      by_contra hc
      refine hx h (x - sh.elemKey n i j 0) (by rw [Shape.bytes, if_neg he]; omega) ?_
      rw [← elemKey_add he]
      omega
  · rw [tilePut_outside h]

theorem tileGet_congr {m' : List Host.Cell} {i j : Nat} (h : sh.has i j = true → ∀ b < sh.bytes, memGet m (sh.elemKey n i j b) = memGet m' (sh.elemKey n i j b)) :
    tileGet m n sh i j = tileGet m' n sh i j := by
  by_cases hin : sh.has i j = true
  · by_cases he : sh.ew = 0
    · rw [tileGet_nibble he hin, tileGet_nibble he hin, h hin 0 (by rw [Shape.bytes, if_pos he]; decide)]
    · rw [tileGet_bytes he hin, tileGet_bytes he hin]
      refine memNat_congr fun b hb => ?_
      rw [elemKey_add he]
      exact h hin b (by rwa [Shape.bytes, if_neg he])
  · rw [tileGet, tileGet, if_neg hin, if_neg hin]

/-- The element written reads as written, in its width. -/
theorem tileGet_tilePut_same (hm : Memory.wf m = true) {i j : Nat} (h : sh.has i j = true) (v : Nat) : tileGet (tilePut n sh i j v m) n sh i j = v % 2 ^ sh.width := by
  by_cases he : sh.ew = 0
  · rw [tileGet_nibble he h, tilePut_nibble he h, memGet_memSet_same _ _ _ none hm, Shape.width_nibble he, BitVec.toNat_ofNat]
    have := (memGet m (sh.elemKey n i j 0)).isLt
    split <;> omega
  · rw [tileGet_bytes he h, tilePut_bytes he h, memNat_memPut_leBytes hm, Shape.width_bytes he, Nat.pow_mul, Nat.mul_div_cancel_left _ (by decide)]

/-- The other nibble of a byte keeps its value. -/
theorem tileGet_tilePut_twin (hm : Memory.wf m = true) (he : sh.ew = 0) {i j k : Nat} (hj : sh.has i j = true) (hk : sh.has i k = true) (hb : j / 2 = k / 2) (hn : j ≠ k) (v : Nat) :
    tileGet (tilePut n sh i j v m) n sh i k = tileGet m n sh i k := by
  have hkey : sh.elemKey n i k 0 = sh.elemKey n i j 0 := by rw [Shape.elemKey, Shape.elemKey, Shape.column, Shape.column, if_pos he, if_pos he, hb]
  rw [tileGet_nibble he hk, tileGet_nibble he hk, tilePut_nibble he hj, hkey, memGet_memSet_same _ _ _ none hm, BitVec.toNat_ofNat]
  have := (memGet m (sh.elemKey n i j 0)).isLt
  split <;> split <;> omega

/-- Every other element keeps its value. -/
theorem tileGet_tilePut_other (hm : Memory.wf m = true) {p q : Nat × Nat} (hn : p ≠ q) (v : Nat) : tileGet (tilePut n sh p.1 p.2 v m) n sh q.1 q.2 = tileGet m n sh q.1 q.2 := by
  by_cases hp : sh.has p.1 p.2 = true
  · have apart : (p.1 ≠ q.1 ∨ (if sh.ew = 0 then p.2 / 2 ≠ q.2 / 2 else p.2 ≠ q.2)) → tileGet (tilePut n sh p.1 p.2 v m) n sh q.1 q.2 = tileGet m n sh q.1 q.2 := fun h =>
      tileGet_congr fun hq b hb => memGet_tilePut_other hm v fun _ b' hb' e => Shape.elemKey_ne hp hq hb' hb h e.symm
    by_cases hi : p.1 = q.1
    · have hj : p.2 ≠ q.2 := fun hj => hn (Prod.ext hi hj)
      by_cases he : sh.ew = 0
      · by_cases hb : p.2 / 2 = q.2 / 2
        · by_cases hq : sh.has q.1 q.2 = true
          · rw [hi] at hp ⊢
            exact tileGet_tilePut_twin hm he hp hq hb hj v
          · rw [tileGet, tileGet, if_neg hq, if_neg hq]
        · exact apart (.inr (by rwa [if_pos he]))
      · exact apart (.inr (by rwa [if_neg he]))
    · exact apart (.inl hi)
  · rw [tilePut_outside hp]

end

/-! ### The elements that a list of positions writes (R218, R220) -/

theorem mem_rowBlock {b rows cols i j : Nat} : (i, j) ∈ rowBlock b rows cols ↔ i < rows ∧ j < cols ∧ i / 8 = b := by
  have hrow : ∀ x, x ∈ ((List.range 8).map (8 * b + ·)).filter (· < rows) ↔ x < rows ∧ x / 8 = b := fun x => by
    simp only [List.mem_filter, List.mem_map, List.mem_range, decide_eq_true_eq]
    constructor
    · rintro ⟨⟨y, hy, rfl⟩, hn⟩
      exact ⟨hn, by omega⟩
    · rintro ⟨hn, rfl⟩
      exact ⟨⟨x % 8, by omega, by omega⟩, hn⟩
  simp only [rowBlock, List.mem_flatMap, List.mem_map, List.mem_range, hrow, Prod.mk.injEq]
  constructor
  · rintro ⟨x, ⟨hx, hb⟩, y, hy, rfl, rfl⟩
    exact ⟨hx, hy, hb⟩
  · rintro ⟨hi, hj, hb⟩
    exact ⟨i, ⟨hi, hb⟩, j, hj, rfl, rfl⟩

/-- The memory after position `p` of a step, where `m` is the memory before the step. -/
def Task.vecPut (t : Task) (d : Opnd) (m : List Host.Cell) (p : Nat × Nat) (w : Work) : List Host.Cell :=
  match (vecElem t m w.2 p.1 p.2).1 with
  | some v => if maskGet m (gateOf t.instr) p.1 p.2 then tilePut d.n d.sh p.1 p.2 v w.1 else w.1
  | none => w.1

section
variable {t : Task} {d : Opnd} {m : List Host.Cell} {p q : Nat × Nat} {ps : List (Nat × Nat)} {w : Work}

theorem vecWrite_cons : vecWrite t d m (p :: ps) w = vecWrite t d m ps (t.vecPut d m p w, (vecElem t m w.2 p.1 p.2).2) := rfl

/-- A position writes its element, or nothing where its mask bit is clear or it has no result. -/
theorem Task.vecPut_cases : t.vecPut d m p w = w.1 ∨ (maskGet m (gateOf t.instr) p.1 p.2 = true ∧ ∃ v, t.vecPut d m p w = tilePut d.n d.sh p.1 p.2 v w.1) := by
  unfold Task.vecPut
  split
  next v _ =>
    split
    next hg => exact .inr ⟨hg, v, rfl⟩
    next => exact .inl rfl
  next => exact .inl rfl

theorem Task.vecPut_of_result {v : Nat} (hv : (vecElem t m w.2 p.1 p.2).1 = some v) (hg : maskGet m (gateOf t.instr) p.1 p.2 = true) :
    t.vecPut d m p w = tilePut d.n d.sh p.1 p.2 v w.1 := by simp only [Task.vecPut, hv, hg, if_true]

theorem Task.vecPut_wf (hw : Memory.wf w.1 = true) : Memory.wf (t.vecPut d m p w) = true := by
  rcases t.vecPut_cases (d := d) (m := m) (p := p) (w := w) with h | ⟨-, v, h⟩
  · rwa [h]
  · rw [h]
    exact inv_tilePut _ _ _ _ _ _ hw

theorem vecWrite_other (hw : Memory.wf w.1 = true) {x : Nat} (hx : ∀ p ∈ ps, d.sh.has p.1 p.2 = true → ∀ b < d.sh.bytes, x ≠ d.sh.elemKey d.n p.1 p.2 b) :
    memGet (vecWrite t d m ps w).1 x = memGet w.1 x := by
  induction ps generalizing w with
  | nil => rfl
  | cons p ps ih =>
    have hput : memGet (t.vecPut d m p w) x = memGet w.1 x := by
      rcases t.vecPut_cases (d := d) (m := m) (p := p) (w := w) with h | ⟨-, v, h⟩
      · rw [h]
      · rw [h, memGet_tilePut_other hw v (hx p List.mem_cons_self)]
    rw [vecWrite_cons, ih (Task.vecPut_wf hw) fun q hq => hx q (List.mem_cons_of_mem p hq), hput]

/-- An element that is not in the list, or whose mask bit is clear, keeps its value. -/
theorem vecWrite_kept (hw : Memory.wf w.1 = true) (hq : q ∉ ps ∨ maskGet m (gateOf t.instr) q.1 q.2 = false) :
    tileGet (vecWrite t d m ps w).1 d.n d.sh q.1 q.2 = tileGet w.1 d.n d.sh q.1 q.2 := by
  induction ps generalizing w with
  | nil => rfl
  | cons p ps ih =>
    have hput : tileGet (t.vecPut d m p w) d.n d.sh q.1 q.2 = tileGet w.1 d.n d.sh q.1 q.2 := by
      rcases t.vecPut_cases (d := d) (m := m) (p := p) (w := w) with h | ⟨hg, v, h⟩
      · rw [h]
      · have hne : p ≠ q := by
          rintro rfl
          exact hq.elim (fun hn => hn List.mem_cons_self) fun hc => absurd hg (by rw [hc]; decide)
        rw [h, tileGet_tilePut_other hw hne]
    rw [vecWrite_cons, ih (Task.vecPut_wf hw) (hq.imp_left fun hn hc => hn (List.mem_cons_of_mem p hc)), hput]

/-- An element in the list whose mask bit is set takes its result. -/
theorem vecWrite_at (hw : Memory.wf w.1 = true) (hin : d.sh.has q.1 q.2 = true) (hq : q ∈ ps) (hg : maskGet m (gateOf t.instr) q.1 q.2 = true)
    {v : Nat} (hv : ∀ l, (vecElem t m l q.1 q.2).1 = some v) : tileGet (vecWrite t d m ps w).1 d.n d.sh q.1 q.2 = v % 2 ^ d.sh.width := by
  induction ps generalizing w with
  | nil => cases hq
  | cons p ps ih =>
    rw [vecWrite_cons]
    by_cases hps : q ∈ ps
    · exact ih (Task.vecPut_wf hw) hps
    · obtain rfl : q = p := (List.mem_cons.mp hq).resolve_right hps
      rw [vecWrite_kept (Task.vecPut_wf hw) (.inl hps), Task.vecPut_of_result (hv _) hg, tileGet_tilePut_same hw hin]

end

/-! ### Integer elements (R43, R242) -/

theorem isFl_of_isIn : ∀ {f : BitVec 5}, isIn f = true → isFl f = false := by decide

theorem tagWidth_of_isIn : ∀ {f : BitVec 5}, isIn f = true → 0 < tagWidth f := by decide

theorem signedOf_range {n : Nat} (hn : 0 < n) (x : Nat) : -(2 ^ (n - 1) : Int) ≤ signedOf n x ∧ signedOf n x ≤ 2 ^ (n - 1) - 1 := by
  have hN : 2 ^ n = 2 * 2 ^ (n - 1) := by rw [← pow_succ', Nat.sub_add_cancel hn]
  have hy := Nat.mod_lt x (Nat.two_pow_pos n)
  simp only [signedOf]
  split <;> push_cast <;> zify at * <;> omega

theorem signedOf_modEq (n x : Nat) : signedOf n x ≡ x [ZMOD (2 ^ n : Nat)] := by
  have hmod : ((x % 2 ^ n : Nat) : Int) ≡ x [ZMOD (2 ^ n : Nat)] := by
    rw [Int.natCast_mod]
    exact Int.mod_modEq _ _
  simp only [signedOf]
  split
  · exact hmod
  · exact (Int.modEq_iff_dvd.mpr ⟨1, by ring⟩).trans hmod

theorem cast_patternOf (n : Nat) (z : Int) : (patternOf n z : Int) = z % (2 ^ n : Nat) := Int.toNat_of_nonneg (Int.emod_nonneg _ (by positivity))

theorem signedOf_patternOf {n : Nat} (hn : 0 < n) {z : Int} (hl : -(2 ^ (n - 1) : Int) ≤ z) (hh : z ≤ 2 ^ (n - 1) - 1) : signedOf n (patternOf n z) = z := by
  have hN : (2 ^ n : Int) = 2 * 2 ^ (n - 1) := by rw [← pow_succ', Nat.sub_add_cancel hn]
  obtain ⟨ha, hb⟩ := signedOf_range hn (patternOf n z)
  have hd : signedOf n (patternOf n z) ≡ z [ZMOD (2 ^ n : Nat)] := (signedOf_modEq n _).trans (by rw [cast_patternOf]; exact Int.mod_modEq _ _)
  have h0 := Int.eq_zero_of_abs_lt_dvd hd.symm.dvd (by rw [abs_lt]; push_cast; omega)
  omega

section
variable {f : BitVec 5}

/-- An element's integer is its pattern, modulo its width. -/
theorem intElem_modEq (f : BitVec 5) (x : Nat) : intElem f x ≡ x [ZMOD (2 ^ tagWidth f : Nat)] := by
  unfold intElem
  split
  · rfl
  · exact signedOf_modEq _ _

theorem patternOf_of_modEq {n : Nat} {z : Int} {x : Nat} (h : z ≡ x [ZMOD (2 ^ n : Nat)]) : patternOf n z = x % 2 ^ n := by
  zify
  rw [cast_patternOf, h]
  push_cast
  rfl

theorem intElem_range (hf : isIn f = true) {x : Nat} (hx : x < 2 ^ tagWidth f) : intMin f ≤ intElem f x ∧ intElem f x ≤ intMax f := by
  by_cases hu : f = fmtU8
  · subst hu
    simp only [intElem, intMin, intMax, if_true]
    have hx : x < 256 := hx
    omega
  · simp only [intElem, intMin, intMax, if_neg hu]
    exact signedOf_range (tagWidth_of_isIn hf) x

/-- The pattern of an integer in the range of a format is that integer. -/
theorem intElem_patternOf (hf : isIn f = true) {z : Int} (hl : intMin f ≤ z) (hh : z ≤ intMax f) : intElem f (patternOf (tagWidth f) z) = z := by
  by_cases hu : f = fmtU8
  · subst hu
    simp only [intElem, intMin, intMax, if_true] at hl hh ⊢
    rw [cast_patternOf]
    exact Int.emod_eq_of_lt hl (lt_of_le_of_lt hh (by decide))
  · simp only [intElem, intMin, intMax, if_neg hu] at hl hh ⊢
    exact signedOf_patternOf (tagWidth_of_isIn hf) hl hh

theorem intMin_le_intMax (hf : isIn f = true) : intMin f ≤ intMax f :=
  (intElem_range hf (Nat.two_pow_pos _)).1.trans (intElem_range hf (Nat.two_pow_pos _)).2

/-- A saturated result is the integer of the format nearest to the exact one. -/
theorem intElem_intFit (hf : isIn f = true) (z : Int) : intElem f (intFit f true z) = max (intMin f) (min (intMax f) z) :=
  intElem_patternOf hf (le_max_left _ _) (max_le (intMin_le_intMax hf) (min_le_left _ _))

theorem intElem_extreme (hf : isIn f = true) (mx : Bool) (a b : Nat) :
    intElem f (extreme mx f a b) = if mx then max (intElem f a) (intElem f b) else min (intElem f a) (intElem f b) := by
  rw [extreme, isFl_of_isIn hf, if_neg Bool.false_ne_true]
  cases mx <;> simp only [if_true, Bool.false_eq_true, if_false] <;> split <;> omega

/-- The exact integer of an arithmetic instruction (R242). -/
def Arith.onInts (a b d : Int) : Arith → Int
  | .add => a + b
  | .sub => a - b
  | .mul => a * b
  | .fma => a * b + d

theorem arithElem_int (hf : isIn f = true) (k : Arith) (rm : BitVec 3) (sat : Bool) (l : BitVec 32) (a b d : Nat) :
    (arithElem k f rm sat l a b d).1 = intFit f sat (k.onInts (intElem f a) (intElem f b) (intElem f d)) := by
  rw [arithElem, isFl_of_isIn hf, if_neg Bool.false_ne_true]
  cases k <;> rfl

theorem shiftElem_left (f : BitVec 5) (a c : Nat) : shiftElem f true false a c = (a <<< c) % 2 ^ tagWidth f := by
  simp only [shiftElem, if_true]
  split
  next h =>
    obtain ⟨e, rfl⟩ := Nat.exists_eq_add_of_le h
    rw [Nat.shiftLeft_eq, Nat.pow_add, Nat.mul_left_comm, Nat.mul_mod_right]
  next => rfl

theorem shiftElem_right {a : Nat} (ha : a < 2 ^ tagWidth f) (c : Nat) : shiftElem f false false a c = a >>> c := by
  simp only [shiftElem, Bool.false_eq_true, if_false]
  split
  next h => rw [Nat.shiftRight_eq_div_pow, Nat.div_eq_of_lt (ha.trans_le (Nat.pow_le_pow_right (by decide) h))]
  next => rfl

/-- A quotient by a power of two past the width of an integer is that by the width. -/
theorem ediv_two_pow_min {z : Int} {w c : Nat} (hl : -(2 ^ w : Int) ≤ z) (hh : z < 2 ^ w) : z / 2 ^ min c w = z / 2 ^ c := by
  rcases le_total c w with h | h
  · rw [min_eq_left h]
  · have hp : (2 ^ w : Int) ≤ 2 ^ c := pow_le_pow_right₀ (by decide) h
    rw [min_eq_right h]
    by_cases hz : 0 ≤ z
    · rw [Int.ediv_eq_zero_of_lt hz hh, Int.ediv_eq_zero_of_lt hz (hh.trans_le hp)]
    · have hm : ∀ {p : Int}, 2 ^ w ≤ p → z / p = -1 := fun {p} hwp => by
        rw [Int.ediv_eq_iff_of_pos (lt_of_lt_of_le (by positivity) hwp)]
        omega
      rw [hm le_rfl, hm hp]

theorem intRange_of_isIn : ∀ {f : BitVec 5}, isIn f = true → intMin f ≤ 0 ∧ 0 ≤ intMax f ∧ -(2 ^ tagWidth f : Int) ≤ intMin f ∧ intMax f < 2 ^ tagWidth f := by decide

theorem intElem_shiftElem (hf : isIn f = true) {a : Nat} (ha : a < 2 ^ tagWidth f) (c : Nat) : intElem f (shiftElem f false true a c) = intElem f a / 2 ^ c := by
  obtain ⟨hl, hh⟩ := intElem_range hf ha
  obtain ⟨h0, h1, hlo, hhi⟩ := intRange_of_isIn hf
  have hp : (0 : Int) < 2 ^ c := by positivity
  have hdiv : shiftElem f false true a c = patternOf (tagWidth f) (intElem f a / 2 ^ c) := by
    rw [← ediv_two_pow_min (hlo.trans hl) (hh.trans_lt hhi)]
    rfl
  rw [hdiv]
  refine intElem_patternOf hf ?_ ?_
  · rw [Int.le_ediv_iff_mul_le hp]
    nlinarith
  · refine Int.ediv_le_of_le_mul hp ?_
    nlinarith

theorem intElem_tabs (hf : isIn f = true) (x : Nat) : intElem f (intFit f true (intElem f x).natAbs) = min (intMax f) (intElem f x).natAbs := by
  obtain ⟨h0, h1, -⟩ := intRange_of_isIn hf
  rw [intElem_intFit hf]
  omega

end

/-! ### The obligation -/

theorem vecStep_writes (t : Task) (d : BitVec 4) (b : Nat) {m : List Host.Cell} (l : BitVec 32) (hm : Memory.wf m = true) {i j : Nat} (h : (t.opnd 0 d).sh.has i j = true)
    (hb : i / 8 = b) (hg : maskGet m (gateOf t.instr) i j = true) {v : Nat} (hv : ∀ x, (vecElem t m x i j).1 = some v) :
    tileGet (vecStep t d b (m, l)).1 (t.opnd 0 d).n (t.opnd 0 d).sh i j = v % 2 ^ (t.opnd 0 d).sh.width := by
  obtain ⟨hi, hj⟩ := Shape.has_iff.mp h
  exact vecWrite_at (q := (i, j)) hm h (mem_rowBlock.mpr ⟨hi, hj, hb⟩) hg hv

theorem vecStep_keeps (t : Task) (d : BitVec 4) (b : Nat) {m : List Host.Cell} (l : BitVec 32) (hm : Memory.wf m = true) {i j : Nat}
    (h : i / 8 ≠ b ∨ maskGet m (gateOf t.instr) i j = false) :
    tileGet (vecStep t d b (m, l)).1 (t.opnd 0 d).n (t.opnd 0 d).sh i j = tileGet m (t.opnd 0 d).n (t.opnd 0 d).sh i j :=
  vecWrite_kept (q := (i, j)) hm (h.imp_left fun hb hp => hb (mem_rowBlock.mp hp).2.2)

theorem vecStep_outside (t : Task) (d : BitVec 4) (b : Nat) {m : List Host.Cell} (l : BitVec 32) (hm : Memory.wf m = true)
    (hs : (t.opnd 0 d).sh.rows.toNat * (t.opnd 0 d).sh.rowBytes ≤ 32768) {k : Nat} (hk : k < tileKey (t.opnd 0 d).n 0 ∨ tileKey (t.opnd 0 d).n 0x8000 ≤ k) :
    memGet (vecStep t d b (m, l)).1 k = memGet m k :=
  vecWrite_other hm fun p _ hp c hc => by
    have := Shape.elemKey_mem (n := (t.opnd 0 d).n) hs hp hc
    omega

/-- Settles O38: a step is a list of elements written, those of its row block; and each integer result is its exact value, narrowed to the format. -/
theorem tileElementResults : Obligations.TileElementResults := by
  unfold Obligations.TileElementResults
  constructor
  · intro t d b m l hm o m' _ hs
    exact ⟨fun i j h => ⟨fun hb hg v hv => vecStep_writes t d b l hm h hb hg hv, fun hk => vecStep_keeps t d b l hm hk⟩, fun k hk => vecStep_outside t d b l hm hs hk⟩
  · intro t h d a b g c r m l i j oa f w x y z el hf hx
    have wraps {q : Int} {n : Nat} (hq : q ≡ n [ZMOD (2 ^ w : Nat)]) : intFit f false q = n % 2 ^ w := patternOf_of_modEq hq
    have hX : intElem f x ≡ x [ZMOD (2 ^ w : Nat)] := intElem_modEq f x
    have hY : intElem f y ≡ y [ZMOD (2 ^ w : Nat)] := intElem_modEq f y
    have hZ : intElem f z ≡ z [ZMOD (2 ^ w : Nat)] := intElem_modEq f z
    have hfl : ¬ isFl f = true := by rw [isFl_of_isIn hf]; decide
    have arith (k : Arith) (v : Bool) (q : Nat) (hq : (arithElem k f r v l x y z).1 = q) : some (arithElem k f r v l x y z).1 = some q := congrArg some hq
    refine ⟨fun hy hz => ⟨arith .add false _ ?_, arith .sub false _ ?_, arith .mul false _ ?_, arith .fma false _ ?_⟩,
      ⟨_, arith .add true _ rfl, ?_⟩, ⟨_, arith .sub true _ rfl, ?_⟩, ⟨_, rfl, intElem_extreme hf true x y⟩, ⟨_, rfl, intElem_extreme hf false x y⟩,
      ⟨_, congrArg some (if_neg hfl), intElem_tabs hf x⟩, ⟨_, congrArg some (if_neg hfl), intElem_intFit hf _⟩, ⟨rfl, rfl, rfl⟩, ⟨congrArg some (shiftElem_left f x y), congrArg some (shiftElem_right hx y)⟩, ⟨_, rfl, intElem_shiftElem hf hx y⟩,
      ⟨rfl, rfl, rfl⟩, rfl, rfl, rfl⟩
    · rw [arithElem_int hf]
      refine wraps ?_
      rw [Nat.cast_add]
      exact hX.add hY
    · rw [arithElem_int hf]
      refine wraps ?_
      rw [Nat.cast_sub (by omega), Nat.cast_add]
      exact (hX.sub hY).trans (Int.modEq_iff_dvd.mpr ⟨1, by ring⟩)
    · rw [arithElem_int hf]
      refine wraps ?_
      rw [Nat.cast_mul]
      exact hX.mul hY
    · rw [arithElem_int hf]
      refine wraps ?_
      rw [Nat.cast_add, Nat.cast_mul]
      exact (hX.mul hY).add hZ
    · rw [arithElem_int hf]
      exact intElem_intFit hf _
    · rw [arithElem_int hf]
      exact intElem_intFit hf _

end Sys2Proof.Machine
end

section
/-!
PROOF. The receive buffer with one item that is no marker (O47, O48): it is taken where it can be, and its bytes come free.
-/

namespace Sys2Proof.Machine

open Sys2Proof

section
variable {s : State} {i : Instr}

/-- One look at the buffer: the item is taken, unless it has to wait or is the second envelope of its cycle. -/
theorem State.drainOn_item (hm : isMarker i = false) : drainOn 1 (s.withItems [⟨i, none⟩]) =
    if s.canTake [] ⟨i, none⟩ then
      if (envelopeOf i).isSome && s.core.accepted then s.withItems [⟨i, none⟩] else (s.withItems [⟨i, none⟩]).takeOut ⟨i, none⟩
    else s.withItems [⟨i, none⟩] := by
  have hnote : (s.withItems [⟨i, none⟩]).noteMarkers [] [⟨i, none⟩] = [⟨i, none⟩] := by
    rw [State.noteMarkers, State.noteMarkers, State.noteMarker, hm]
    rfl
  have hv : ((s.withItems [⟨i, none⟩]).modCore fun c => { c with inbox := (s.withItems [⟨i, none⟩]).noteMarkers [] c.inbox }) = s.withItems [⟨i, none⟩] :=
    congrArg s.withItems hnote
  have ht : (s.withItems [⟨i, none⟩]).takeables [] (s.withItems [⟨i, none⟩]).core.inbox = if s.canTake [] ⟨i, none⟩ then [⟨i, none⟩] else [] := by
    have hc : (s.withItems [⟨i, none⟩]).canTake [] ⟨i, none⟩ = s.canTake [] ⟨i, none⟩ := rfl
    show (s.withItems [⟨i, none⟩]).takeables [] [⟨i, none⟩] = _
    rw [State.takeables, State.takeables, hc, List.append_nil]
  rw [drainOn, hv]
  simp only [ht]
  cases s.canTake [] ⟨i, none⟩ <;> rfl

/-- The same of an item that comes to an empty buffer, with no envelope still to come in this cycle. -/
theorem State.receive_item (hin : s.core.inbox = []) (ha : (s.env.agenda.any fun j => (envelopeOf j).isSome) = false) (hm : isMarker i = false) : s.receive i =
    if s.canTake [] ⟨i, none⟩ then
      if (envelopeOf i).isSome && s.core.accepted then s.withItems [⟨i, none⟩] else (s.withItems [⟨i, none⟩]).takeOut ⟨i, none⟩
    else s.withItems [⟨i, none⟩] := (State.receive_empty hin ha i).trans (State.drainOn_item hm)

/-- The core with other bytes in flight, and other items at its network interface. -/
def State.withRoom (s : State) (f : List (Rank × Nat × Nat)) (n : List Inject) : State := s.modCore fun c => { c with inFlight := f, ni := n }

/-- Bytes that come free change what is in flight or go to the network interface (R423). -/
theorem State.emitFor_room (s : State) (order : Nat) (src dst : Rank) (vc m : Nat) : ∃ f n, s.emitFor order (.room src dst vc m) = s.withRoom f n := by
  have hi : s.itemTarget order (.room src dst vc m) = some (s.targetOf order src) := rfl
  rw [State.emitFor, hi]
  dsimp only
  split
  · exact ⟨_, s.core.ni, rfl⟩
  · exact ⟨s.core.inFlight, _, rfl⟩

end

end Sys2Proof.Machine
end

section
/-!
PROOF. Matrix commands (O47): a command that MMAR queues stays on its way while the queue is let out, and what its target's receive buffer does with it.
-/

namespace Sys2Proof.Machine

open Sys2Proof

/-! ### Letting items out takes no event off the agenda -/

section
variable (s : State)

theorem State.agenda_post (i : Instr) : s.env.agenda ⊆ (s.post i).env.agenda := List.subset_append_left _ _

theorem State.agenda_foldl {α : Type} (f : State → α → State) (h : ∀ s x, s.env.agenda ⊆ (f s x).env.agenda) (l : List α) : s.env.agenda ⊆ (l.foldl f s).env.agenda := by
  induction l generalizing s with
  | nil => exact List.Subset.refl _
  | cons x l ih => exact List.Subset.trans (h s x) (ih _)

theorem State.agenda_deliverHere (order : Nat) (o : Out) : s.env.agenda ⊆ (s.deliverHere order o).env.agenda := by
  cases o with
  | cast m ds =>
    refine s.agenda_foldl (fun t x => t.post (arrivalOf { m with dst := x.dst, seq := x.seq, scaleSeq := x.seq, sendId := x.sendId })) ?_ ds
    exact fun t x => t.agenda_post _
  | report d id cause info =>
    simp only [State.deliverHere]
    split
    · split
      · exact s.agenda_post _
      · refine List.Subset.trans ?_ (State.agenda_post _ _)
        exact List.Subset.refl _
    · exact List.Subset.refl _
  | credit d mb =>
    simp only [State.deliverHere]
    split <;> exact List.Subset.refl _
  | bulk | refusal | marker =>
    simp only [State.deliverHere]
    split
    · exact s.agenda_post _
    · exact List.Subset.refl _
  | message | clearToSend | notice | event | command | token | answer => exact s.agenda_post _
  | _ => exact List.Subset.refl _

theorem State.agenda_emitFor (order : Nat) (o : Out) : s.env.agenda ⊆ (s.emitFor order o).env.agenda := by
  unfold State.emitFor
  split
  · exact List.Subset.refl _
  · split
    · exact s.agenda_deliverHere order o
    · exact List.Subset.refl _

theorem State.agenda_timeSend (q : Send) : s.env.agenda ⊆ (s.timeSend q).env.agenda := by
  unfold State.timeSend State.answerCut
  split
  · exact s.agenda_post _
  · split
    · exact List.Subset.refl _
    · split
      · refine List.Subset.trans ?_ (State.agenda_post _ _)
        exact List.Subset.refl _
      · exact List.Subset.refl _

theorem State.localDone_env (q : Send) : (s.localDone q).env = s.env := by
  unfold State.localDone
  split
  · rfl
  · extract_lets s1 shared s2 s3
    have h2 : s2.env = s.env := by
      simp only [s2]
      split
      · rfl
      · rw [State.rangeRemove.eq_def]
        split <;> rfl
    exact h2

theorem State.failBad_env (id : Nat) : (s.failBad id).env = s.env := by
  unfold State.failBad
  split
  · rfl
  next q _ =>
    split
    · rw [State.closeSend, State.uncharge]
      split <;> exact s.localDone_env q
    · rfl

theorem State.agenda_firstAttempt (q : Send) : s.env.agenda ⊆ (s.firstAttempt q).env.agenda :=
  List.Subset.trans (State.agenda_emitFor (s.underWay q q.msg.rdv) _ _) (State.agenda_timeSend _ _)

theorem State.agenda_envelopeOut (id : Nat) : s.env.agenda ⊆ (s.envelopeOut id).env.agenda := by
  unfold State.envelopeOut
  split
  · rw [s.failBad_env id]
    exact List.Subset.refl _
  next q _ => exact State.agenda_firstAttempt (s.number q).1 _

theorem agenda_numberCopies (l : List Nat) : (numberCopies l s).1.env = s.env := by
  induction l generalizing s with
  | nil => rfl
  | cons id l ih =>
    unfold numberCopies
    split
    · exact (ih _).trans (s.failBad_env id)
    next q _ => exact ih (s.number q).1

theorem agenda_allUnderWay (l : List Send) : s.env.agenda ⊆ (allUnderWay l s).env.agenda := by
  induction l generalizing s with
  | nil => exact List.Subset.refl _
  | cons q l ih => exact List.Subset.trans (State.agenda_timeSend (s.underWay q q.msg.rdv) q) (ih _)

theorem State.agenda_emitCast (m : Message) (ds : List CastDst) : s.env.agenda ⊆ (s.emitCast m ds).env.agenda := by
  unfold State.emitCast
  extract_lets here away s1
  have h1 : s.env.agenda ⊆ s1.env.agenda := by
    simp only [s1]
    split
    · exact List.Subset.refl _
    · exact s.agenda_deliverHere _ _
  clear_value s1
  split <;> exact h1

theorem State.agenda_depart (l : Leaving) : s.env.agenda ⊆ (s.depart l).env.agenda := by
  unfold State.depart
  split
  · exact s.agenda_envelopeOut _
  · unfold State.castOut
    extract_lets r
    have hr : r.1.env = s.env := agenda_numberCopies s _
    rw [← hr]
    split
    · exact List.Subset.refl _
    · exact List.Subset.trans (agenda_allUnderWay r.1 _) (State.agenda_emitCast _ _ _)
  · exact s.agenda_emitFor _ _

end

/-! ### A command that is queued (R229, R299) -/

/-- The command waits to leave, stands at the network interface, or arrives at this core. -/
def State.Goes (t : State) (core : Nat) (m : MatrixCommand) : Prop :=
  (∃ l ∈ t.core.leaving, l.item = .command core m) ∨ (∃ y ∈ t.core.ni, y.item = .command core m) ∨ Instr.mmarCommandArrival m ∈ t.env.agenda

section
variable {s : State} {core : Nat} {m : MatrixCommand}

theorem State.emitFor_command (order : Nat) : (s.emitFor order (.command core m)).Goes core m := by
  have hi : s.itemTarget order (.command core m) = some (s.targetOf order (BitVec.ofNat 27 (Rank.pkg m.src <<< 11 + core))) := rfl
  rw [State.emitFor, hi]
  dsimp only
  split
  · exact .inr (.inr (List.mem_append_right _ (List.mem_singleton_self _)))
  · exact .inr (.inl ⟨_, List.mem_append_right _ (List.mem_singleton_self _), rfl⟩)

/-- Letting items out keeps it on its way. -/
theorem flushOut_goes (n : Nat) (h : s.Goes core m) : (flushOut n s).Goes core m := by
  induction n generalizing s with
  | zero => exact h
  | succ n ih =>
    unfold flushOut
    split
    · exact h
    next l _ =>
      generalize hv : (s.modCore fun c => { c with leaving := c.leaving.erase l }) = v
      have hl : v.core.leaving = s.core.leaving.erase l := hv ▸ rfl
      have hn : v.core.ni = s.core.ni := hv ▸ rfl
      have ha : v.env = s.env := hv ▸ rfl
      have hq := v.queues_depart l
      refine ih ?_
      rcases h with ⟨x, hx, hitem⟩ | ⟨y, hy, hitem⟩ | he
      · by_cases hxl : x = l
        · subst hxl
          rw [State.depart, hitem]
          exact State.emitFor_command _
        · exact .inl ⟨x, hq.leaving.symm ▸ hl.symm ▸ (List.mem_erase_of_ne hxl).mpr hx, hitem⟩
      · exact .inr (.inl ⟨y, hq.ni y (hn.symm ▸ hy), hitem⟩)
      · exact .inr (.inr (v.agenda_depart l (ha.symm ▸ he)))

theorem State.flush_goes (s : State) (after : List Nat) : ((s.queueOut (.command core m) after true).flush).Goes core m :=
  flushOut_goes _ (.inl ⟨_, List.mem_append_right _ (List.mem_singleton_self _), rfl⟩)

theorem State.Goes.ended {t : State} (h : t.Goes core m) (n : Option Pair) : (s.ended t n).Goes core m := h

end

/-- The command that MMAR sends to a core (R229). -/
def State.commandOf (s : State) (cap : Word) (core : Nat) (w : Word) (k : BitVec 3) (ta tb : BitVec 4) (v : Bool) (r : BitVec 3) : MatrixCommand :=
  ⟨s.rankHere core, cap, k, ta, tb, v, r, if w.getLsbD 4 then some (w.truncate 4) else none, s.r.rank, s.r.order, s.curCtx, s.c.pc, 0, portLocal⟩

section
variable {h : CHdr} {a b c : BitVec 5} {x v : Bool} {k : BitVec 3} {ta tb : BitVec 4} {r : BitVec 3} {s : State}

theorem opMmar_begins (hr : (opMmar h a b c x k ta tb v r).ready s = true) : State.Begins s ((opMmar h a b c x k ta tb v r).begun s) := Op.begins hr fun _ _ => rfl

/-- The effect of MMAR in the state in which it acts, in the terms of the state of issue. -/
theorem opMmar_eff {u : State} (hB : State.Begins s u) : (opMmar h a b c x k ta tb v r).eff u =
    let core := (s.seen.c.reg h.s b).toNat
    let m := s.commandOf (s.seen.c.reg h.s a) core (s.seen.c.regX h.s c x) k ta tb v r
    if s.outsideOrder s.curRes (s.rankHere core) then u.modR fun q => q.postError (commandError m Cause.illegalOperand (s.rankHere core))
    else (u.queueOut (.command core m) u.releaseIds true).flush := by
  have hrank : ∀ n, u.rankHere n = s.rankHere n := fun n => by rw [State.rankHere, State.rankHere, hB.srv]
  have hr : u.r.rank = s.r.rank := congrArg (·.rank) hB.r
  have ho : u.r.order = s.r.order := congrArg (·.order) hB.r
  simp only [opMmar, State.commandOf, hB.reg, hB.regX, hrank, hr, ho, hB.curCtx, hB.atPair, hB.outsideOrder, hB.curRes]

theorem execMmar_eq (hr : (opMmar h a b c x k ta tb v r).ready s = true) : exec (.mmar h a b c x k ta tb v r) s =
    .next (s.ended ((opMmar h a b c x k ta tb v r).eff ((opMmar h a b c x k ta tb v r).begun s)) none) :=
  (exec_eq_runOne _ _ s rfl).trans (runOne_ready _ s hr rfl)

/-- A core outside the work order is refused at issue (R52, R229). -/
theorem execMmar_refused (hr : (opMmar h a b c x k ta tb v r).ready s = true) (ho : s.outsideOrder s.curRes (s.rankHere (s.seen.c.reg h.s b).toNat) = true) :
    ∃ t, exec (.mmar h a b c x k ta tb v r) s = .next t ∧ t.core.mem = s.core.mem ∧ t.core.ni = s.core.ni ∧ t.core.leaving = s.core.leaving ∧ (s.r.errq.length < 32 →
      errEntry Cause.illegalOperand s.curCtx s.c.pc 0 0 (s.rankHere (s.seen.c.reg h.s b).toNat).toNat 0 (s.seen.c.reg h.s a &&& 0xFFFFFFFFE0000000) ∈ t.r.errq) := by
  have hB := opMmar_begins hr
  have he := execMmar_eq hr
  rw [opMmar_eff hB] at he
  dsimp only at he
  rw [if_pos ho] at he
  refine ⟨_, he, hB.mem, congrArg (·.ni) hB.core, congrArg (·.leaving) hB.core, fun hl => ?_⟩
  rw [State.ended_errq, State.modR_r, Res.postError, if_pos (hB.errq ▸ hl)]
  exact List.mem_append_right _ (List.mem_singleton_self _)

/-- A command for another core is on its way after the issue (R229, R299). -/
theorem execMmar_goes (hr : (opMmar h a b c x k ta tb v r).ready s = true) (ho : s.outsideOrder s.curRes (s.rankHere (s.seen.c.reg h.s b).toNat) = false) :
    ∃ t, exec (.mmar h a b c x k ta tb v r) s = .next t ∧ t.core.mem = s.core.mem ∧
      t.Goes (s.seen.c.reg h.s b).toNat (s.commandOf (s.seen.c.reg h.s a) (s.seen.c.reg h.s b).toNat (s.seen.c.regX h.s c x) k ta tb v r) := by
  have hB := opMmar_begins hr
  have he := execMmar_eq hr
  rw [opMmar_eff hB] at he
  dsimp only at he
  rw [if_neg (by rw [ho]; decide)] at he
  refine ⟨_, he, ?_, (State.flush_goes _ _).ended none⟩
  exact (State.sends_flush _).mem.trans hB.mem

end

/-! ### A command that arrives (R231, R348, R409) -/

section
variable {s : State} {c : MatrixCommand}

/-- A command that comes to an empty buffer enters where it can be taken, and its bytes come free. -/
theorem execMmarCommandArrival_taken (hin : s.core.inbox = []) (ha : (s.env.agenda.any fun j => (envelopeOf j).isSome) = false)
    (hr : ∀ k, s.resOf c.order = some k → (s.res.get k).inputShut c.src = false ∧ s.commandRoom k c = true) :
    ∃ f n, exec (.mmarCommandArrival c) s = .next ((s.withRoom f n).commandIn c) := by
  have hx : exec (.mmarCommandArrival c) s = .next (s.receive (.mmarCommandArrival c)) := rfl
  have hcan : s.canTake [] ⟨.mmarCommandArrival c, none⟩ = true := by
    show (true && match s.resOf c.order with | none => true | some k => !(s.res.get k).inputShut c.src && s.commandRoom k c) = true
    cases hk : s.resOf c.order with
    | none => rfl
    | some k =>
      obtain ⟨h1, h2⟩ := hr k hk
      simp only [h1, h2]
      rfl
  have hout : (s.withItems [⟨.mmarCommandArrival c, none⟩]).takeOut ⟨.mmarCommandArrival c, none⟩ = s.takeItem (.mmarCommandArrival c) := by
    show (s.withItems ([(⟨.mmarCommandArrival c, none⟩ : Waiting)].erase ⟨.mmarCommandArrival c, none⟩)).takeItem (.mmarCommandArrival c) = _
    rw [List.erase_cons_head, State.withItems_nil hin]
  have hroom : ∃ f n, s.takeItem (.mmarCommandArrival c) = (s.withRoom f n).commandIn c := by
    rw [State.takeItem]
    split
    next x _ =>
      obtain ⟨f, n, h⟩ := s.emitFor_room c.order x.1 x.2 2 16
      exact ⟨f, n, congrArg (·.commandIn c) h⟩
    next => exact ⟨s.core.inFlight, s.core.ni, rfl⟩
  obtain ⟨f, n, h⟩ := hroom
  refine ⟨f, n, ?_⟩
  rw [hx, State.receive_item hin ha rfl, if_pos hcan]
  exact congrArg Host.Outcome.next (hout.trans h)

/-- A refused command changes no task and no memory; its cause is in its sender's error queue, or goes back to it (R231). -/
def State.Refuses (s : State) (c : MatrixCommand) (rank : Rank) (cause : BitVec 7) : Prop :=
  ∃ t, exec (.mmarCommandArrival c) s = .next t ∧ t.core.tasks = s.core.tasks ∧ t.core.mem = s.core.mem ∧
    (∀ j, s.resByRank c.order c.src = some j → (t.res.get j).errq = ((s.res.get j).postError (errEntry cause c.ctx c.pair 0 0 rank.toNat 0 (c.cap &&& 0xFFFFFFFFE0000000))).errq) ∧
    (s.resByRank c.order c.src = none → s.targetOf c.order c.src ≠ .core s.pkg.self →
      ⟨.refusal c.src cause c.ctx c.pair rank (c.cap &&& 0xFFFFFFFFE0000000), c.order, 16⟩ ∈ t.core.ni)

theorem State.refuses_of_exec {f : List (Rank × Nat × Nat)} {n : List Inject} {rank : Rank} {cause : BitVec 7}
    (he : exec (.mmarCommandArrival c) s = .next ((s.withRoom f n).refuseCommand c cause rank)) : s.Refuses c rank cause := by
  have hby : (s.withRoom f n).resByRank c.order c.src = s.resByRank c.order c.src := rfl
  rw [State.refuseCommand, hby] at he
  cases hj : s.resByRank c.order c.src with
  | some j =>
    rw [hj] at he
    refine ⟨_, he, rfl, rfl, fun i hi => ?_, fun h => absurd (hj.symm.trans h) (Option.some_ne_none _)⟩
    obtain rfl : j = i := Option.some.inj (hj.symm.trans hi)
    rw [State.modRes_res, vec_get_set_same]
    rfl
  | none =>
    rw [hj] at he
    have hi : (s.withRoom f n).itemTarget c.order (.refusal c.src cause c.ctx c.pair rank (capClear c.cap)) = some (s.targetOf c.order c.src) := rfl
    have hp := (s.withRoom f n).passes_emitFor c.order (.refusal c.src cause c.ctx c.pair rank (capClear c.cap))
    refine ⟨_, he, congrArg (·.tasks) hp.core, congrArg (·.mem) hp.core, fun i h => absurd (h.symm.trans hj) (Option.some_ne_none _), fun _ ht => ?_⟩
    rw [State.emitFor, hi]
    simp only [show (s.withRoom f n).pkg = s.pkg from rfl, if_neg ht]
    exact List.mem_append_right _ (List.mem_singleton_self _)

/-- A core without a residency of the work order refuses the command (R231). -/
theorem execMmarCommandArrival_stranger (hin : s.core.inbox = []) (ha : (s.env.agenda.any fun j => (envelopeOf j).isSome) = false) (hk : s.resOf c.order = none) :
    s.Refuses c c.dst Cause.capabilityRefused := by
  obtain ⟨f, n, he⟩ := execMmarCommandArrival_taken hin ha fun k h => absurd (h.symm.trans hk) (Option.some_ne_none _)
  have hr : (s.withRoom f n).resOf c.order = none := hk
  rw [State.commandIn, hr] at he
  exact State.refuses_of_exec he

section
variable {k : ResNo} (hin : s.core.inbox = []) (ha : (s.env.agenda.any fun j => (envelopeOf j).isSome) = false) (hk : s.resOf c.order = some k)
  (hs : (s.res.get k).inputShut c.src = false)
include hin ha hk hs

theorem execMmarCommandArrival_room (hr : s.commandRoom k c = true) : ∃ f n, exec (.mmarCommandArrival c) s = .next ((s.withRoom f n).commandIn c) :=
  execMmarCommandArrival_taken hin ha fun j h => by
    obtain rfl : k = j := Option.some.inj (hk.symm.trans h)
    exact ⟨hs, hr⟩

/-- A command that the residency does not admit needs no room, and is refused (R231). -/
theorem execMmarCommandArrival_refused (hd : (s.res.get k).admits c = false) : s.Refuses c (s.res.get k).rank Cause.capabilityRefused := by
  obtain ⟨f, n, he⟩ := execMmarCommandArrival_room hin ha hk hs (by rw [State.commandRoom, hd]; rfl)
  have hr : (s.withRoom f n).resOf c.order = some k := hk
  have hd' : ((s.withRoom f n).res.get k).admits c = false := hd
  rw [State.commandIn, hr] at he
  simp only [hd'] at he
  exact State.refuses_of_exec he

section
variable (hd : (s.res.get k).admits c = true) (hi : s.core.issuing = some k) (hw : s.core.switch = none) (ht : (s.core.tasks.filter fun t => t.res == k).length < 64)
include hd hi hw ht

theorem execMmarCommandArrival_admitted : ∃ f n, exec (.mmarCommandArrival c) s = .next (match ({ s with curRes := k } : State).commandCheck c with
    | some cause => (s.withRoom f n).refuseCommand c cause (s.res.get k).rank
    | none => (s.withRoom f n).enqueue (({ s with curRes := k } : State).commandTask c)) := by
  have hroom : s.commandRoom k c = true := by
    rw [State.commandRoom, hd, hi, hw, decide_eq_true ht]
    simp
  obtain ⟨f, n, he⟩ := execMmarCommandArrival_room hin ha hk hs hroom
  have hr : (s.withRoom f n).resOf c.order = some k := hk
  have hd' : ((s.withRoom f n).res.get k).admits c = true := hd
  rw [State.commandIn, hr] at he
  simp only [hd'] at he
  exact ⟨f, n, he⟩

/-- An admitted command that passes the checks is a task of context 0 (R231). -/
theorem execMmarCommandArrival_enters (hc : ({ s with curRes := k } : State).commandCheck c = none) :
    ∃ t x, exec (.mmarCommandArrival c) s = .next t ∧ t.core.tasks = s.core.tasks ++ [x] ∧ x.res = k ∧ x.ctx = 0 ∧ x.pair = c.pair ∧ x.remote = true ∧
      x.instr = commandInstr c ∧ t.core.mem = s.core.mem ∧ Instr.foremanDispatch ∈ t.env.agenda := by
  obtain ⟨f, n, he⟩ := execMmarCommandArrival_admitted hin ha hk hs hd hi hw ht
  rw [hc] at he
  exact ⟨_, _, he, State.enqueue_tasks _ _, rfl, rfl, rfl, rfl, rfl, rfl, State.mem_enqueue _ _⟩

theorem execMmarCommandArrival_fails {cause : BitVec 7} (hc : ({ s with curRes := k } : State).commandCheck c = some cause) : s.Refuses c (s.res.get k).rank cause := by
  obtain ⟨f, n, he⟩ := execMmarCommandArrival_admitted hin ha hk hs hd hi hw ht
  rw [hc] at he
  exact State.refuses_of_exec he

end

end

end

theorem Res.admits_iff (r : Res) (c : MatrixCommand) : r.admits c = true ↔ BitVec.ofNat 16 (field c.cap 48 16) = r.crew ∧ field c.cap 29 11 = Rank.core r.rank ∧
    c.cap.getLsbD 40 = true ∧ capabilityCheck r.capkey (c.cap &&& 0xFFFFFFFFE0000000) = c.cap.truncate 29 := by
  rw [Res.admits, capClear]
  simp only [Bool.and_eq_true, beq_iff_eq, and_assoc]

/-- Settles O47: MMAR by the core that it names, an arrival by the checks of R231 in their order. -/
theorem remoteMatrixCommandResults : Obligations.RemoteMatrixCommandResults := by
  unfold Obligations.RemoteMatrixCommandResults
  constructor
  · intro h a b c x k ta tb v r s hr w core m
    cases ho : s.outsideOrder s.curRes (s.rankHere core) with
    | true =>
      obtain ⟨t, he, hmem, hni, hleaving, herr⟩ := execMmar_refused hr ho
      exact ⟨t, he, hmem, fun _ => ⟨hni, hleaving, herr⟩, fun h => Bool.noConfusion h⟩
    | false =>
      obtain ⟨t, he, hmem, hgoes⟩ := execMmar_goes hr ho
      exact ⟨t, he, hmem, fun h => Bool.noConfusion h, fun _ => hgoes⟩
  · intro c k s r v refuses hin ha
    exact ⟨fun hk => execMmarCommandArrival_stranger hin ha hk, fun hk hs => ⟨fun hd hi hw ht =>
      ⟨fun hc => execMmarCommandArrival_enters hin ha hk hs hd hi hw ht hc, fun cause hc => execMmarCommandArrival_fails hin ha hk hs hd hi hw ht hc⟩,
      fun hd => execMmarCommandArrival_refused hin ha hk hs hd⟩, r.admits_iff c⟩

end Sys2Proof.Machine
end

section
/-!
PROOF. Landings that begin (O48): what the Postmaster's answers and a look at the matched messages change, and the reduction messages that are ready after it.
-/

namespace Sys2Proof.Machine

open Sys2Proof

/-! ### What a look at the matched messages changes (R265, R303, R326) -/

/-- A matched message but for how far its landing has come. -/
def Landed.fixed (l : Landed) : Landed := { l with range := none, started := false, due := none }

/-- A matched message whose landing may have come further. -/
def Landed.Further (l y : Landed) : Prop := y.fixed = l.fixed ∧ (l.started = true → y.started = true)

/-- Landings have come further: the core keeps all but its range table and network interface, where items are only added, and so it is with the agenda, which no write of a bank has joined. -/
structure State.Lands (s t : State) : Prop where
  beside : Beside s t
  core : { t.core with range := s.core.range, ni := s.core.ni } = s.core
  ni : s.core.ni ⊆ t.core.ni
  agenda : s.env.agenda ⊆ t.env.agenda
  banks : t.env.agenda.any writesBank = s.env.agenda.any writesBank
  res : ∀ k, { t.res.get k with matched := (s.res.get k).matched } = s.res.get k
  matched : ∀ k, List.Forall₂ Landed.Further (s.res.get k).matched (t.res.get k).matched

theorem Landed.Further.refl (l : Landed) : l.Further l := ⟨rfl, id⟩

theorem Landed.Further.trans {l y z : Landed} (h : l.Further y) (g : y.Further z) : l.Further z := ⟨g.1.trans h.1, fun hs => g.2 (h.2 hs)⟩

theorem forall₂_trans {α : Type} {R : α → α → Prop} (hR : ∀ a b c, R a b → R b c → R a c) {l m n : List α} (h : List.Forall₂ R l m) (g : List.Forall₂ R m n) : List.Forall₂ R l n := by
  induction h generalizing n with
  | nil => exact g
  | cons hab _ ih =>
    cases g with
    | cons hbc g => exact .cons (hR _ _ _ hab hbc) (ih g)

namespace State.Lands

variable {s t u : State}

theorem of_env (hb : Beside s t) (hc : { t.core with range := s.core.range, ni := s.core.ni } = s.core) (hn : s.core.ni ⊆ t.core.ni) (hr : t.res = s.res)
    (ha : s.env.agenda ⊆ t.env.agenda) (hw : t.env.agenda.any writesBank = s.env.agenda.any writesBank) : Lands s t :=
  ⟨hb, hc, hn, ha, hw, fun k => by rw [hr], fun k => by rw [hr]; exact List.forall₂_same.mpr fun l _ => .refl l⟩

theorem refl (s : State) : Lands s s := .of_env (.refl s) rfl (List.Subset.refl _) rfl (List.Subset.refl _) rfl

theorem trans (h : Lands s t) (g : Lands t u) : Lands s u where
  beside := h.beside.trans g.beside
  core := by
    have e := h.core
    rw [← g.core] at e
    exact e
  ni := List.Subset.trans h.ni g.ni
  agenda := List.Subset.trans h.agenda g.agenda
  banks := g.banks.trans h.banks
  res k := by
    have e := h.res k
    rw [← g.res k] at e
    exact e
  matched k := forall₂_trans (R := Landed.Further) (fun _ _ _ => Landed.Further.trans) (h.matched k) (g.matched k)

theorem post (s : State) {i : Instr} (hi : writesBank i = false) : Lands s (s.post i) := by
  refine .of_env ⟨rfl, rfl, rfl, rfl, rfl, rfl, rfl⟩ rfl (List.Subset.refl _) rfl (s.agenda_post i) ?_
  show (s.env.agenda ++ [i]).any writesBank = _
  rw [List.any_append, List.any_cons, hi]
  simp

theorem inject (s : State) (n : Inject) : Lands s (s.modCore fun c => { c with ni := c.ni ++ [n] }) :=
  .of_env ⟨rfl, rfl, rfl, rfl, rfl, rfl, rfl⟩ rfl (List.subset_append_left _ _) rfl (List.Subset.refl _) rfl

theorem modLanded (s : State) (k : ResNo) (no : Nat) {f : Landed → Landed} (hf : ∀ l : Landed, l.Further (f l)) : Lands s (s.modRes k (·.modLanded no f)) where
  beside := ⟨rfl, rfl, rfl, rfl, rfl, rfl, rfl⟩
  core := rfl
  ni := List.Subset.refl _
  agenda := List.Subset.refl _
  banks := rfl
  res j := by
    by_cases h : j = k
    · subst h
      simp only [State.modRes_res, vec_get_set_same]
      rfl
    · simp only [State.modRes_res, vec_get_set_other _ _ _ _ h]
  matched j := by
    by_cases h : j = k
    · subst h
      simp only [State.modRes_res, vec_get_set_same]
      refine List.forall₂_map_right_iff.mpr (List.forall₂_same.mpr fun l _ => ?_)
      split
      · exact hf l
      · exact .refl l
    · simp only [State.modRes_res, vec_get_set_other _ _ _ _ h]
      exact List.forall₂_same.mpr fun l _ => .refl l

/-- An item for a core is posted here or goes to the network interface. -/
theorem emitFor (s : State) {order : Nat} {o : Out} {d : Rank} {i : Instr} (ht : s.itemTarget order o = some (s.targetOf order d)) (ho : s.deliverHere order o = s.post i)
    (hi : writesBank i = false) : Lands s (s.emitFor order o) := by
  rw [State.emitFor, ht]
  dsimp only
  split
  · rw [ho]
    exact .post s hi
  · exact .inject s _

/-- So with an answer to a sender. -/
theorem answer (s : State) {m : Message} {own i : Instr} {o : Out} (ht : s.itemTarget m.order o = some (s.targetOf m.order m.src)) (ho : s.deliverHere m.order o = s.post i)
    (hown : writesBank own = false) (hi : writesBank i = false) : Lands s (s.answer m own o) := by
  rw [State.answer]
  split
  · exact .post s hown
  · exact .emitFor s ht ho hi

theorem noticed (s : State) (m : Message) (c : BitVec 3) : Lands s (s.answer m (noticeEvent m.sendId c) (.notice m.src m.sendId c)) := by
  have hn : writesBank (noticeEvent m.sendId c) = false := by
    unfold noticeEvent
    repeat' split
    all_goals rfl
  exact .answer s rfl rfl hn hn

end State.Lands

section
variable (s : State) (k : ResNo)

theorem State.lands_rangeAdd (g : RangeKind) (lo hi : Nat) (r : ResNo) : Lands s (s.rangeAdd g lo hi r).1 := by
  unfold State.rangeAdd
  split
  · exact .refl s
  · refine .of_env ⟨rfl, rfl, rfl, rfl, rfl, rfl, rfl⟩ ?_ (List.Subset.refl _) rfl (List.Subset.refl _) rfl
    exact rfl

theorem State.lands_guardLanding (l : Landed) : Lands s (s.guardLanding k l).1 := by
  unfold State.guardLanding
  split
  · exact .refl s
  · exact (s.lands_rangeAdd _ _ _ _).trans (.modLanded _ k l.no fun _ => ⟨rfl, id⟩)

/-- The landings of a number have begun. -/
def State.begunAt (s : State) (k : ResNo) (no : Nat) : State := s.modRes k (·.modLanded no fun x => { x with started := true })

/-- What else the begin of a landing does. -/
theorem State.lands_begunAt (l : Landed) : Lands (s.begunAt k l.no) (s.beginLanding k l) := by
  unfold State.beginLanding
  extract_lets s1 n done core s2
  have h1 : Lands (s.begunAt k l.no) s1 := .refl _
  have h2 : Lands (s.begunAt k l.no) s2 := h1.trans (.answer s1 (i := .clearToSend l.msg.sendId ⟨n, core, l.addr⟩) rfl rfl rfl rfl)
  clear_value s1 s2
  split
  · split
    · exact h2.trans (.post s2 rfl)
    · exact h2
  · split
    · split
      · exact h1
      · exact h1.trans (.post s1 rfl)
    · refine h1.trans ((Lands.modLanded s1 k l.no (f := fun x => { x with due := some (s.core.cycle + BitVec.ofNat 64 (max 1 ((n + 63) / 64))) }) fun _ => ⟨rfl, id⟩).trans ?_)
      exact .of_env ⟨rfl, rfl, rfl, rfl, rfl, rfl, rfl⟩ rfl (List.Subset.refl _) rfl (List.Subset.refl _) rfl

theorem State.lands_beginLanding (l : Landed) : Lands s (s.beginLanding k l) :=
  (Lands.modLanded s k l.no (f := fun x => { x with started := true }) fun _ => ⟨rfl, fun _ => rfl⟩).trans (s.lands_begunAt k l)

theorem State.lands_tryLanding (l : Landed) : Lands s (s.tryLanding k l) := by
  unfold State.tryLanding
  split
  · exact .refl s
  · have h := s.lands_guardLanding k l
    dsimp only
    split
    · exact h
    · exact h.trans (State.lands_beginLanding _ k l)

theorem lands_tryAll (L : List Landed) : State.Lands s (tryAll k L s) := by
  induction L generalizing s with
  | nil => exact .refl s
  | cons l L ih => exact (s.lands_tryLanding k l).trans (ih _)

/-- One residency's turn in a look at the matched messages. -/
def State.landingsOf (s : State) (k : ResNo) : State := if (s.res.get k).phase.alive then tryAll k (s.res.get k).matched s else s

theorem State.lands_landingsOf : Lands s (s.landingsOf k) := by
  unfold State.landingsOf
  split
  · exact lands_tryAll s k _
  · exact .refl s

theorem lands_foldl (L : List ResNo) : State.Lands s (L.foldl State.landingsOf s) := by
  induction L generalizing s with
  | nil => exact .refl s
  | cons j L ih => exact (s.lands_landingsOf j).trans (ih _)

theorem State.lands_startLandings : Lands s s.startLandings := lands_foldl s (List.finRange 4)

end

/-! ### Reduction messages are ready at once (R235, R331) -/

/-- The landings of the residency's matched messages of a number have begun. -/
def State.Begun (s : State) (k : ResNo) (no : Nat) : Prop := ∀ y ∈ (s.res.get k).matched, y.no = no → y.started = true

section
variable {s t : State} {k : ResNo}

/-- Each matched message was there before, and its landing has come further. -/
theorem State.Lands.was (h : Lands s t) {y : Landed} (hy : y ∈ (t.res.get k).matched) : ∃ x ∈ (s.res.get k).matched, x.Further y := by
  obtain ⟨i, hi, rfl⟩ := List.mem_iff_getElem.mp hy
  obtain ⟨hl, hr⟩ := List.forall₂_iff_get.mp (h.matched k)
  exact ⟨_, List.getElem_mem (hl ▸ hi), hr i (hl ▸ hi) hi⟩

/-- Each matched message is still there. -/
theorem State.Lands.still (h : Lands s t) {x : Landed} (hx : x ∈ (s.res.get k).matched) : ∃ y ∈ (t.res.get k).matched, x.Further y := by
  obtain ⟨i, hi, rfl⟩ := List.mem_iff_getElem.mp hx
  obtain ⟨hl, hr⟩ := List.forall₂_iff_get.mp (h.matched k)
  exact ⟨_, List.getElem_mem (hl ▸ hi), hr i hi (hl ▸ hi)⟩

theorem State.Begun.lands {no : Nat} (hb : s.Begun k no) (h : Lands s t) : t.Begun k no := fun y hy hn => by
  obtain ⟨x, hx, hxy⟩ := h.was hy
  have hno : y.no = x.no := congrArg (·.no) hxy.1
  exact hxy.2 (hb x hx (hno.symm.trans hn))

theorem State.begun_begunAt (no : Nat) : (s.begunAt k no).Begun k no := fun y hy hn => by
  have hm : ((s.begunAt k no).res.get k).matched = ((s.res.get k).modLanded no fun x => { x with started := true }).matched :=
    congrArg Res.matched (vec_get_set_same _ _ _)
  rw [hm] at hy
  obtain ⟨x, -, rfl⟩ := List.mem_map.mp hy
  by_cases hx : x.no = no
  · rw [if_pos hx]
  · rw [if_neg hx] at hn
    exact absurd hn hx

/-- No range entry, copy or trap holds a reduction message back. -/
theorem State.begun_tryLanding {l : Landed} (hc : l.msg.cls = 2) (hd : l.dropped = false) (hs : l.started = false) : (s.tryLanding k l).Begun k l.no := by
  have hg : s.guardLanding k l = (s, true) := by rw [State.guardLanding, if_pos (.inr (.inr hc))]
  have ht : s.tryLanding k l = s.beginLanding k l := by
    rw [State.tryLanding, hs, hd, hg]
    simp [hc]
  rw [ht]
  exact State.begun_begunAt l.no |>.lands (s.lands_begunAt k l)

theorem begun_tryAll {L : List Landed} {l : Landed} (hl : l ∈ L) (hc : l.msg.cls = 2) (hd : l.dropped = false) (hs : l.started = false) : (tryAll k L s).Begun k l.no := by
  induction L generalizing s with
  | nil => cases hl
  | cons x L ih =>
    rcases List.mem_cons.mp hl with rfl | hl
    · exact (State.begun_tryLanding hc hd hs).lands (lands_tryAll _ k L)
    · exact ih hl

/-- A residency's turn begins the landings of its reduction messages. -/
theorem State.landingsOf_starts (ha : (s.res.get k).phase.alive = true) {y : Landed} (hy : y ∈ ((s.landingsOf k).res.get k).matched) (hc : y.msg.cls = 2) (hd : y.dropped = false) :
    y.started = true := by
  obtain ⟨x, hx, hf, hxy⟩ := (s.lands_landingsOf k).was hy
  have e {α : Type} (f : Landed → α) : f y.fixed = f x.fixed := congrArg f hf
  cases hs : x.started with
  | true => exact hxy hs
  | false =>
    have hb : (s.landingsOf k).Begun k x.no := by
      rw [State.landingsOf, if_pos ha]
      exact begun_tryAll hx ((e (·.msg.cls)).symm.trans hc) ((e (·.dropped)).symm.trans hd) hs
    exact hb y hy (e (·.no))

theorem State.startLandings_starts (ha : (s.res.get k).phase.alive = true) {y : Landed} (hy : y ∈ (s.startLandings.res.get k).matched) (hc : y.msg.cls = 2) (hd : y.dropped = false) :
    y.started = true := by
  have hall : ∀ (L : List ResNo) (u : State), k ∈ L → (u.res.get k).phase.alive = true → ∀ y ∈ ((L.foldl State.landingsOf u).res.get k).matched,
      y.msg.cls = 2 → y.dropped = false → y.started = true := fun L => by
    induction L with
    | nil => exact fun _ h => absurd h List.not_mem_nil
    | cons j L ih =>
      intro u hk hu y hy hc hd
      rcases List.mem_cons.mp hk with rfl | hk
      · obtain ⟨x, hx, hf, hxy⟩ := (lands_foldl (u.landingsOf k) L).was hy
        have e {α : Type} (f : Landed → α) : f y.fixed = f x.fixed := congrArg f hf
        exact hxy (State.landingsOf_starts hu hx ((e (·.msg.cls)).symm.trans hc) ((e (·.dropped)).symm.trans hd))
      · exact ih _ hk ((congrArg (fun r : Res => r.phase.alive) ((u.lands_landingsOf j).res k)).trans hu) y hy hc hd
  exact hall _ s (List.mem_finRange k) ha y hy hc hd

end

end Sys2Proof.Machine
end

section
/-!
PROOF. The Postmaster's bookkeeping (O48): where a stream stands, what its sender is told, and an envelope that is matched, held, refused, or failed.
-/

namespace Sys2Proof.Machine

open Sys2Proof

/-! ### Streams (R315, R324) -/

theorem streamOf_keys (l : List Stream) (src dst : Rank) (g : BitVec 16) : (Machine.streamOf l src dst g).src = src ∧ (Machine.streamOf l src dst g).dst = dst ∧ (Machine.streamOf l src dst g).group = g := by
  rw [Machine.streamOf]
  cases hf : l.find? fun x => x.src == src && x.dst == dst && x.group == g with
  | none => exact ⟨rfl, rfl, rfl⟩
  | some x =>
    have hx := List.find?_some hf
    simp only [Bool.and_eq_true, beq_iff_eq] at hx
    exact ⟨hx.1.1, hx.1.2, hx.2⟩

section
variable {s t : State} {x : Message}

/-- The stream of a message stands at this SEQ, refused or not. -/
def State.StreamAt (t : State) (x : Message) (q : BitVec 16) (refused : Option (BitVec 16)) : Prop := (t.streamIn x).seq = q ∧ (t.streamIn x).refused = refused

theorem State.streamIn_putIn {y : Stream} (hs : y.src = x.src) (hd : y.dst = x.dst) (hg : y.group = x.group) : (s.putIn y).streamIn x = y := by
  have h : (s.putIn y).streamIn x = Machine.streamOf (y :: s.core.streamsIn.filter fun z => !(z.src == y.src && z.dst == y.dst && z.group == y.group)) x.src x.dst x.group := rfl
  rw [h, Machine.streamOf, List.find?_cons_of_pos (by simp [hs, hd, hg])]
  rfl

theorem State.streamIn_pass (s : State) (x : Message) : (s.pass x).StreamAt x (x.seq + 1) none := by
  obtain ⟨hs, hd, hg⟩ := streamOf_keys s.core.streamsIn x.src x.dst x.group
  rw [StreamAt, State.pass, State.streamIn_putIn (y := (s.streamIn x).passed x.seq) hs hd hg]
  exact ⟨rfl, rfl⟩

theorem State.streamIn_shut (s : State) (x : Message) : (s.putIn ((s.streamIn x).shut x.seq)).StreamAt x (s.streamIn x).seq (some ((s.streamIn x).refused.getD x.seq)) := by
  obtain ⟨hs, hd, hg⟩ := streamOf_keys s.core.streamsIn x.src x.dst x.group
  rw [StreamAt, State.streamIn_putIn (y := (s.streamIn x).shut x.seq) hs hd hg]
  exact ⟨rfl, rfl⟩

/-- The message is next in its stream, or is the retry of the SEQ at which the stream is refused. -/
def State.InTurn (s : State) (x : Message) : Prop :=
  ((s.streamIn x).refused = none ∧ (s.streamIn x).seq = x.seq) ∨ ((s.streamIn x).refused = some x.seq ∧ x.retry = true)

theorem State.InTurn.fate (h : s.InTurn x) : s.seqFate x = .take := by
  rw [State.seqFate]
  rcases h with ⟨hr, hq⟩ | ⟨hr, ht⟩
  · simp [hr, hq]
  · simp [hr, ht]

/-- A message in turn that is refused holds its stream at its own SEQ. -/
theorem State.InTurn.refusedAt (h : s.InTurn x) : (s.streamIn x).refused.getD x.seq = x.seq := by
  rcases h with ⟨hr, -⟩ | ⟨hr, -⟩ <;> rw [hr] <;> rfl

theorem seqBefore_self (q : BitVec 16) : seqBefore q q = false := by simp [seqBefore]

/-! ### What the sender is told (R327) -/

/-- The sends of the core are the same, and the places of the work orders' ranks. -/
structure State.Peers (s t : State) : Prop where
  sends : t.core.sends = s.core.sends
  srv : t.srv = s.srv
  pkg : t.pkg = s.pkg
  places : ∀ k, (t.res.get k).phase = (s.res.get k).phase ∧ (t.res.get k).order = (s.res.get k).order ∧ (t.res.get k).rank = (s.res.get k).rank

theorem State.Peers.trans {u : State} (h : Peers s t) (g : Peers t u) : Peers s u where
  sends := g.sends.trans h.sends
  srv := g.srv.trans h.srv
  pkg := g.pkg.trans h.pkg
  places k := ⟨(g.places k).1.trans (h.places k).1, (g.places k).2.1.trans (h.places k).2.1, (g.places k).2.2.trans (h.places k).2.2⟩

theorem State.Peers.modRes (s : State) (k : ResNo) (f : Res → Res) (hf : ∀ r, (f r).phase = r.phase ∧ (f r).order = r.order ∧ (f r).rank = r.rank) : Peers s (s.modRes k f) :=
  ⟨rfl, rfl, rfl, fun j => by
    by_cases h : j = k
    · subst h
      rw [State.modRes_res, vec_get_set_same]
      exact hf _
    · rw [State.modRes_res, vec_get_set_other _ _ _ _ h]
      exact ⟨rfl, rfl, rfl⟩⟩

theorem State.Peers.targetOf (h : Peers s t) (order : Nat) (d : Rank) : t.targetOf order d = s.targetOf order d := by
  simp only [State.targetOf, State.physicalOf, h.srv, h.pkg, fun k => (h.places k).1, fun k => (h.places k).2.1, fun k => (h.places k).2.2]

theorem State.Peers.ownMessage (h : Peers s t) (x : Message) : t.ownMessage x = s.ownMessage x := by rw [State.ownMessage, State.ownMessage, h.sends]

/-- The sender of a message is told: by an event of this core, or by an item for another. -/
def State.Tells (s : State) (x : Message) (t : State) (own : Instr) (o : Out) : Prop :=
  if s.ownMessage x then own ∈ t.env.agenda else s.targetOf x.order x.src ≠ .core s.pkg.self → ⟨o, x.order, 16⟩ ∈ t.core.ni

/-- It is told with a notice of this code. -/
def State.Notices (s : State) (x : Message) (t : State) (c : BitVec 3) : Prop := s.Tells x t (noticeEvent x.sendId c) (.notice x.src x.sendId c)

theorem State.emitFor_away {o : Out} {order : Nat} {d : Rank} (ht : s.itemTarget order o = some (s.targetOf order d)) (hz : o.size = 16) (hn : s.targetOf order d ≠ .core s.pkg.self) :
    ⟨o, order, 16⟩ ∈ (s.emitFor order o).core.ni := by
  rw [State.emitFor, ht]
  dsimp only
  rw [if_neg hn, ← hz]
  exact List.mem_append_right _ (List.mem_singleton_self _)

theorem State.answer_tells (s : State) (x : Message) (own : Instr) {o : Out} (ht : s.itemTarget x.order o = some (s.targetOf x.order x.src)) (hz : o.size = 16) :
    s.Tells x (s.answer x own o) own o := by
  rw [State.Tells, State.answer]
  split
  · exact List.mem_append_right _ (List.mem_singleton_self _)
  · exact State.emitFor_away ht hz

theorem State.Tells.from {u : State} {own : Instr} {o : Out} (hp : Peers s u) (h : u.Tells x t own o) : s.Tells x t own o := by
  rw [State.Tells, hp.ownMessage, hp.targetOf, hp.pkg] at h
  exact h

/-- What has been told stays told. -/
theorem State.Tells.more {u : State} {own : Instr} {o : Out} (h : s.Tells x t own o) (ha : t.env.agenda ⊆ u.env.agenda) (hn : t.core.ni ⊆ u.core.ni) : s.Tells x u own o := by
  rw [State.Tells] at h ⊢
  split at h
  case isTrue ho => rw [if_pos ho]; exact ha h
  case isFalse ho => rw [if_neg ho]; exact fun ht => hn (h ht)

/-- The sender hears a notice whichever state sends it, as long as it knows the same sends and places. -/
theorem State.answer_notices {u : State} (hp : Peers s u) (x : Message) (c : BitVec 3) :
    s.Notices x (u.answer x (noticeEvent x.sendId c) (.notice x.src x.sendId c)) c := (u.answer_tells x _ rfl rfl).from hp

theorem State.sayAccepted_notices {u : State} (hp : Peers s u) (x : Message) : s.Notices x (u.sayAccepted x) 0 := State.answer_notices hp x 0
theorem State.sayDemoted_notices {u : State} (hp : Peers s u) (x : Message) : s.Notices x (u.sayDemoted x) 1 := State.answer_notices hp x 1
theorem State.sayRefused_notices {u : State} (hp : Peers s u) (x : Message) : s.Notices x (u.sayRefused x) 2 := State.answer_notices hp x 2

theorem State.lands_sayAccepted (s : State) (x : Message) : Lands s (s.sayAccepted x) := .noticed s x 0
theorem State.lands_sayDemoted (s : State) (x : Message) : Lands s (s.sayDemoted x) := .noticed s x 1
theorem State.lands_sayDone (s : State) (x : Message) : Lands s (s.sayDone x) := .noticed s x 3

namespace State.Lands

variable (h : Lands s t)
include h

theorem mem : t.core.mem = s.core.mem := congrArg (·.mem) h.core
theorem inbox : t.core.inbox = s.core.inbox := congrArg (·.inbox) h.core
theorem streamAt {q : BitVec 16} {r : Option (BitVec 16)} (hs : s.StreamAt x q r) : t.StreamAt x q r := by
  have e : t.streamIn x = s.streamIn x := congrArg (Machine.streamOf · x.src x.dst x.group) (congrArg (·.streamsIn) h.core)
  rwa [StreamAt, e]
theorem posted (k : ResNo) : (t.res.get k).posted = (s.res.get k).posted := congrArg (·.posted) (h.res k)
theorem held (k : ResNo) : (t.res.get k).held = (s.res.get k).held := congrArg (·.held) (h.res k)
theorem reductions (k : ResNo) : (t.res.get k).reductions = (s.res.get k).reductions := congrArg (·.reductions) (h.res k)

end State.Lands

/-- A message of this number stands among the matched ones, as it was bound. -/
def State.Matched (t : State) (k : ResNo) (v : Recv) (x : Message) (no : Nat) : Prop := ∃ y ∈ (t.res.get k).matched, y.recv = v ∧ y.msg = x ∧ y.units = [] ∧ y.no = no

end

/-! ### An envelope that is matched, held or refused (R318, R321, R323, R324) -/

theorem takeFirst_append {α : Type} {p : α → Bool} {l : List α} {v : α} (r : List α) (hl : ∀ y ∈ l, p y = false) (hv : p v = true) : takeFirst p (l ++ v :: r) = some (v, l ++ r) := by
  induction l with
  | nil => rw [List.nil_append, takeFirst, if_pos hv]; rfl
  | cons y l ih =>
    rw [List.cons_append, takeFirst, hl y List.mem_cons_self, if_neg Bool.false_ne_true, ih fun z hz => hl z (List.mem_cons_of_mem y hz)]
    rfl

theorem takeFirst_none {α : Type} {p : α → Bool} {l : List α} (hl : ∀ y ∈ l, p y = false) : takeFirst p l = none := by
  induction l with
  | nil => rfl
  | cons y l ih =>
    rw [takeFirst, hl y List.mem_cons_self, if_neg Bool.false_ne_true, ih fun z hz => hl z (List.mem_cons_of_mem y hz)]
    rfl

theorem State.modRes_get (s : State) (k : ResNo) (f : Res → Res) : (s.modRes k f).res.get k = f (s.res.get k) := vec_get_set_same _ _ _

section
variable (s : State) (k : ResNo) (x : Message)

theorem State.peers_putIn (y : Stream) : Peers s (s.putIn y) := ⟨rfl, rfl, rfl, fun _ => ⟨rfl, rfl, rfl⟩⟩

theorem State.peers_accepted : Peers s (s.accepted k x) := by
  have hp : Peers s (s.pass x) := s.peers_putIn _
  exact hp.trans (.modRes _ k _ fun _ => ⟨rfl, rfl, rfl⟩)

theorem State.accepted_get : (s.accepted k x).res.get k = { s.res.get k with arrivals := (s.res.get k).arrivals + 1 } := State.modRes_get _ _ _

theorem State.accepted_streamAt : (s.accepted k x).StreamAt x (x.seq + 1) none := s.streamIn_pass x

/-- The landings that begin when a message is bound leave it among the matched ones. -/
theorem State.bindMsg_matched {v : Recv} (no : Nat) : (s.bindMsg k v x [] no).Matched k v x no := by
  obtain ⟨y, hy, hf, -⟩ := (State.lands_startLandings (s.modRes k fun r => { r with matched := r.matched ++ [⟨v, x, [], none, no, false, none, false⟩] })).still (k := k)
    (x := ⟨v, x, [], none, no, false, none, false⟩) (by rw [State.modRes_get]; exact List.mem_append_right _ (List.mem_singleton_self _))
  have e {α : Type} (f : Landed → α) : f y.fixed = f _ := congrArg f hf
  exact ⟨y, hy, e (·.recv), e (·.msg), e (·.units), e (·.no)⟩

end

end Sys2Proof.Machine
end

section
/-!
PROOF. An envelope that comes to an empty receive buffer (O48): it is taken or waits, and what the Postmaster does with one that it takes.
-/

namespace Sys2Proof.Machine

open Sys2Proof

/-! ### Taken, or left in the buffer (R315, R316, R348) -/

section
variable {s : State} {i : Instr} {x : Message}

/-- The event by which an envelope arrives, in the form that its kind gives the message. -/
def Instr.Brings (i : Instr) (x : Message) : Prop :=
  (i = .eagerArrival x ∧ { x with rdv := false } = x) ∨ (i = .rendezvousArrival x ∧ { x with rdv := true } = x) ∨ (i = .accxMessageArrival x ∧ { x with cls := 2 } = x)

/-- The state in which an envelope that came to an empty buffer is matched: it has been taken out, and its bytes have come free. -/
def State.taken (s : State) (f : List (Rank × Nat × Nat)) (n : List Inject) : State :=
  s.modCore fun c => { c with inbox := [], accepted := true, inFlight := f, ni := n }

/-- The event of an envelope, where the buffer is empty and no other envelope comes in the cycle, answers a state of this kind. -/
def State.Arrives (s : State) (i : Instr) (p : State → Prop) : Prop :=
  s.core.inbox = [] → s.core.accepted = false → (s.env.agenda.any fun j => (envelopeOf j).isSome) = false → ∃ t, exec i s = .next t ∧ p t

theorem Instr.Brings.exec (h : Instr.Brings i x) (s : State) : exec i s = .next (s.receive i) := by
  rcases h with ⟨rfl, hx⟩ | ⟨rfl, hx⟩ | ⟨rfl, hx⟩
  · exact congrArg (fun y => Host.Outcome.next (s.receive (.eagerArrival y))) hx
  · exact congrArg (fun y => Host.Outcome.next (s.receive (.rendezvousArrival y))) hx
  · exact congrArg (fun y => Host.Outcome.next (s.receive (.accxMessageArrival y))) hx

theorem Instr.Brings.kind (h : Instr.Brings i x) (s : State) : isMarker i = false ∧ envelopeOf i = some x ∧ s.canTake [] ⟨i, none⟩ = s.takeable x := by
  rcases h with ⟨rfl, -⟩ | ⟨rfl, -⟩ | ⟨rfl, -⟩ <;> exact ⟨rfl, rfl, Bool.and_true _⟩

theorem Instr.Brings.takeOut (h : Instr.Brings i x) (s : State) : ∃ f n, (s.withItems [⟨i, none⟩]).takeOut ⟨i, none⟩ = (s.taken f n).envelopeIn x := by
  have hb : (s.withItems [⟨i, none⟩]).takeOut ⟨i, none⟩ = (((s.withItems ([(⟨i, none⟩ : Waiting)].erase ⟨i, none⟩)).modCore fun c => { c with accepted := true }).freeRoom x).envelopeIn x := by
    simp only [State.takeOut, (h.kind s).2.1]
    rfl
  rw [hb, List.erase_cons_head, State.freeRoom]
  split
  · exact ⟨s.core.inFlight, s.core.ni, rfl⟩
  · obtain ⟨f, n, hr⟩ := ((s.withItems []).modCore fun c => { c with accepted := true }).emitFor_room x.order x.src x.dst 2 (16 + x.data.length)
    exact ⟨f, n, congrArg (·.envelopeIn x) hr⟩

/-- An envelope that can be taken is matched in the same cycle. -/
theorem State.arrives_taken (h : Instr.Brings i x) (ht : s.takeable x = true) {p : State → Prop} (hp : ∀ f n, p ((s.taken f n).envelopeIn x)) : s.Arrives i p := fun hin ha hg => by
  obtain ⟨hm, he, hc⟩ := h.kind s
  obtain ⟨f, n, ho⟩ := h.takeOut s
  refine ⟨_, h.exec s, ?_⟩
  rw [State.receive_item hin hg hm, hc, if_pos ht, he, ha, ho]
  exact hp f n

/-- One that cannot stays in the buffer, and nothing else changes. -/
theorem State.arrives_left (h : Instr.Brings i x) (ht : s.takeable x = false) : s.Arrives i fun t => t.res = s.res ∧ t.core.inbox = [⟨i, none⟩] := fun hin _ hg => by
  obtain ⟨hm, -, hc⟩ := h.kind s
  refine ⟨_, h.exec s, ?_⟩
  rw [State.receive_item hin hg hm, hc, if_neg (by simp [ht])]
  exact ⟨rfl, rfl⟩

end

/-! ### The fate of one that is taken (R255, R314, R315, R324) -/

section
variable {s t : State} {k : ResNo} {x : Message}

/-- An answer to a sender changes no residency, no memory, no stream and not the buffer. -/
structure State.Told (s t : State) : Prop where
  res : t.res = s.res
  mem : t.core.mem = s.core.mem
  streams : t.core.streamsIn = s.core.streamsIn
  inbox : t.core.inbox = s.core.inbox

theorem State.Told.streamAt (h : Told s t) {q : BitVec 16} {r : Option (BitVec 16)} (hs : s.StreamAt x q r) : t.StreamAt x q r := by
  have e : t.streamIn x = s.streamIn x := congrArg (Machine.streamOf · x.src x.dst x.group) h.streams
  rwa [StreamAt, e]

theorem State.told_emitFor {order : Nat} {o : Out} {d : Rank} (ht : s.itemTarget order o = some (s.targetOf order d)) (ho : Told s (s.deliverHere order o)) : Told s (s.emitFor order o) := by
  rw [State.emitFor, ht]
  dsimp only
  split
  · exact ho
  · exact ⟨rfl, rfl, rfl, rfl⟩

theorem State.told_sayRefused (s : State) (x : Message) : Told s (s.sayRefused x) := by
  rw [State.sayRefused, State.answer]
  split
  · exact ⟨rfl, rfl, rfl, rfl⟩
  · exact State.told_emitFor (d := x.src) rfl ⟨rfl, rfl, rfl, rfl⟩

theorem State.told_report (s : State) (order : Nat) (d : Rank) (id : Nat) (c : BitVec 7) (info : Word) : Told s (s.emitFor order (.report d id c info)) := by
  refine State.told_emitFor (d := d) rfl ?_
  rw [State.deliverHere]
  split
  · split
    · exact ⟨rfl, rfl, rfl, rfl⟩
    · exact ⟨rfl, rfl, rfl, rfl⟩
  · exact ⟨rfl, rfl, rfl, rfl⟩

theorem State.sayFailed_away (ho : s.ownMessage x = false) (c : BitVec 7) : s.sayFailed x c = s.emitFor x.order (.report x.src x.sendId c (failInfo x c)) := by
  rw [State.sayFailed, ho]
  split <;> rfl

/-- The message is given up, and its cause goes back. -/
def State.Failed (s : State) (x : Message) (t : State) (c : BitVec 7) : Prop := t.StreamAt x (x.seq + 1) none ∧ t.res = s.res ∧ t.core.mem = s.core.mem ∧
  (s.ownMessage x = false → s.targetOf x.order x.src ≠ .core s.pkg.self → ⟨.report x.src x.sendId c (failInfo x c), x.order, 16⟩ ∈ t.core.ni)

theorem State.failed_pass (ho : s.ownMessage x = false) (c : BitVec 7) : s.Failed x ((s.pass x).sayFailed x c) c := by
  have hp : (s.pass x).ownMessage x = false := ho
  have ha := (s.pass x).told_report x.order x.src x.sendId c (failInfo x c)
  rw [State.sayFailed_away hp]
  exact ⟨ha.streamAt (s.streamIn_pass x), ha.res, ha.mem, fun _ ht => State.emitFor_away (s := s.pass x) rfl rfl ht⟩

theorem Message.cls_plain (hc : x.cls.toNat ≤ 1) : x.cls ≠ 2 ∧ x.cls ≠ 3 := by
  constructor <;> (intro h; rw [h] at hc; exact absurd hc (by decide))

theorem State.envelopeIn_failed (hc : x.cls.toNat ≤ 1) (ht : s.takerOf x = none) (hs : s.InTurn x) (ho : s.ownMessage x = false) :
    s.Failed x (s.envelopeIn x) (if x.bad then Cause.malformed else Cause.noGroup) := by
  have h3 := (Message.cls_plain hc).2
  rw [State.envelopeIn, hs.fate, ht]
  cases hb : x.bad with
  | true =>
    rw [if_pos (.inr rfl), if_pos rfl]
    exact State.failed_pass ho _
  | false =>
    rw [if_neg (not_or.mpr ⟨h3, Bool.false_ne_true⟩)]
    exact State.failed_pass ho _

theorem State.takeable_of_taker (ht : s.takerOf x = some k) : s.takeable x = (s.seqFate x != .wait && !(s.res.get k).inputShut x.src) := by
  rw [State.takeable, ht]
  rfl

theorem State.seqFate_open (hr : (s.streamIn x).refused = none) :
    s.seqFate x = if x.seq = (s.streamIn x).seq then .take else if seqBefore x.seq (s.streamIn x).seq then .drop else .wait := by
  simp only [State.seqFate, hr]

theorem State.seqFate_shut {q : BitVec 16} (hr : (s.streamIn x).refused = some q) (hq : x.seq ≠ q ∨ x.retry = false) : s.seqFate x = .refuse := by
  simp only [State.seqFate, hr]
  by_cases h : x.seq = q
  · rw [if_pos h, hq.resolve_left (absurd h)]
    rfl
  · rw [if_neg h]

theorem State.seqFate_past (hr : (s.streamIn x).refused = none) (hb : seqBefore x.seq (s.streamIn x).seq = true) : s.seqFate x = .drop := by
  have hne : x.seq ≠ (s.streamIn x).seq := fun h => by rw [h, seqBefore_self] at hb; cases hb
  rw [State.seqFate_open hr, if_neg hne, if_pos hb]

theorem State.seqFate_early (hr : (s.streamIn x).refused = none) (hb : seqBefore x.seq (s.streamIn x).seq = false) (hne : x.seq ≠ (s.streamIn x).seq) : s.seqFate x = .wait := by
  rw [State.seqFate_open hr, if_neg hne, if_neg (by simp [hb])]

/-- With good fields the SEQ alone decides what becomes of the message. -/
theorem State.envelopeIn_drop (hc : x.cls ≠ 3) (hb : x.bad = false) (hf : s.seqFate x = .drop) : s.envelopeIn x = s := by
  rw [State.envelopeIn, if_neg (not_or.mpr ⟨hc, by simp [hb]⟩), hf]

theorem State.envelopeIn_refuse (hc : x.cls ≠ 3) (hb : x.bad = false) (hf : s.seqFate x = .refuse) : s.envelopeIn x = s.refuse x := by
  rw [State.envelopeIn, if_neg (not_or.mpr ⟨hc, by simp [hb]⟩), hf]

theorem State.envelopeIn_take (hc : x.cls ≠ 3) (hb : x.bad = false) (hf : s.InTurn x) (ht : s.takerOf x = some k) :
    s.envelopeIn x = if x.cls = 2 then s.matchReduction k x else s.matchMsg k x := by
  rw [State.envelopeIn, if_neg (not_or.mpr ⟨hc, by simp [hb]⟩), hf.fate, ht]

theorem State.sayRefused_keeps {u : State} (hp : Peers s u) (hr : u.res = s.res) {q : BitVec 16} {r : Option (BitVec 16)} (hs : u.StreamAt x q r) :
    (u.sayRefused x).res = s.res ∧ (u.sayRefused x).StreamAt x q r ∧ s.Notices x (u.sayRefused x) 2 :=
  ⟨(u.told_sayRefused x).res.trans hr, (u.told_sayRefused x).streamAt hs, State.sayRefused_notices hp x⟩

/-- A later message of a refused stream is refused, and the stream stays where it is (R324). -/
theorem State.refuse_stays {q : BitVec 16} (hr : (s.streamIn x).refused = some q) (hf : x.fin = false) :
    (s.refuse x).res = s.res ∧ (s.refuse x).StreamAt x (s.streamIn x).seq (some q) ∧ s.Notices x (s.refuse x) 2 := by
  have hs := s.streamIn_shut x
  rw [hr] at hs
  rw [State.refuse, if_neg (by simp [hf])]
  exact State.sayRefused_keeps (s.peers_putIn _) rfl hs

/-- A message in turn that is refused is given up with FIN, and else holds its stream at its own SEQ. -/
theorem State.refuse_inTurn (hs : s.InTurn x) : (s.refuse x).res = s.res ∧
    (s.refuse x).StreamAt x (if x.fin then x.seq + 1 else (s.streamIn x).seq) (if x.fin then none else some x.seq) ∧ s.Notices x (s.refuse x) 2 := by
  rw [State.refuse]
  cases x.fin with
  | true => exact State.sayRefused_keeps (s.peers_putIn _) rfl (s.streamIn_pass x)
  | false =>
    have hq := s.streamIn_shut x
    rw [hs.refusedAt] at hq
    exact State.sayRefused_keeps (s.peers_putIn _) rfl hq

end

end Sys2Proof.Machine
end

section
/-!
PROOF. An envelope that is matched or held (O48).
-/

namespace Sys2Proof.Machine

open Sys2Proof

/-! ### Held in arrival order: in the pigeonholes, in the pool, or not at all (R321, R323, R324) -/

theorem putUnits_keeps (r : Res) (us : List Nat) (bs : List Byte) (c : CoreSt) : (putUnits r us bs c).streamsIn = c.streamsIn ∧ (putUnits r us bs c).sends = c.sends := by
  induction us generalizing bs c with
  | nil => exact ⟨rfl, rfl⟩
  | cons u us ih => exact ih _ _

section
variable {s : State} {k : ResNo} {x : Message}

/-- An accepted message joins the held ones, its bytes in units or nowhere. -/
def State.heldAs (s : State) (k : ResNo) (x : Message) (f : CoreSt → CoreSt) (h : Held) : State :=
  ((s.accepted k x).modCore f).modRes k fun r => { r with held := r.held ++ [h] }

theorem State.heldAs_get (f : CoreSt → CoreSt) (h : Held) :
    (s.heldAs k x f h).res.get k = { s.res.get k with arrivals := (s.res.get k).arrivals + 1, held := (s.res.get k).held ++ [h] } := by
  rw [State.heldAs, State.modRes_get]
  exact congrArg (fun r : Res => { r with held := r.held ++ [h] }) (s.accepted_get k x)

theorem State.heldAs_peers {f : CoreSt → CoreSt} (h : Held) (hf : ∀ c, (f c).sends = c.sends) : Peers s (s.heldAs k x f h) := by
  have hm : Peers (s.accepted k x) ((s.accepted k x).modCore f) := ⟨hf _, rfl, rfl, fun _ => ⟨rfl, rfl, rfl⟩⟩
  exact ((s.peers_accepted k x).trans hm).trans (.modRes _ k _ fun _ => ⟨rfl, rfl, rfl⟩)

theorem State.heldAs_streamAt {f : CoreSt → CoreSt} (h : Held) (hf : ∀ c, (f c).streamsIn = c.streamsIn) : (s.heldAs k x f h).StreamAt x (x.seq + 1) none := by
  have e : (s.heldAs k x f h).streamIn x = (s.accepted k x).streamIn x := congrArg (Machine.streamOf · x.src x.dst x.group) (hf (s.accepted k x).core)
  rw [State.StreamAt, e]
  exact s.accepted_streamAt k x

/-- A message is held: the posted receives stay, it is accepted, joins the held messages, and its sender is told. -/
structure State.HeldAs (s : State) (k : ResNo) (x : Message) (h : Held) (c : BitVec 3) (t : State) : Prop where
  posted : (t.res.get k).posted = (s.res.get k).posted
  stream : t.StreamAt x (x.seq + 1) none
  held : (t.res.get k).held = (s.res.get k).held ++ [h]
  notice : s.Notices x t c

theorem State.heldAs_answered {f : CoreSt → CoreSt} (h : Held) (hf : ∀ c, (f c).streamsIn = c.streamsIn ∧ (f c).sends = c.sends) {c : BitVec 3} {t : State}
    (hl : Lands (s.heldAs k x f h) t) (hn : ∀ u : State, Peers u (s.heldAs k x f h) → u.Notices x t c) : s.HeldAs k x h c t where
  posted := by rw [hl.posted k, State.heldAs_get]
  stream := hl.streamAt (State.heldAs_streamAt h fun c => (hf c).1)
  held := by rw [hl.held k, State.heldAs_get]
  notice := hn s (State.heldAs_peers h fun c => (hf c).2)

/-- R321: an eager message for which there are units. -/
theorem State.holdMsg_units (hr : x.rdv = false) (hu : unitsOf x.len ≤ (s.res.get k).unitsFree.length) :
    s.HeldAs k x ⟨(s.res.get k).arrivals, { x with data := [] }, (s.res.get k).unitsFree.take (unitsOf x.len)⟩ 0 (s.holdMsg k x) := by
  have ht : s.holdMsg k x = (s.heldAs k x (putUnits (s.res.get k) ((s.res.get k).unitsFree.take (unitsOf x.len)) (Message.envelope x ++ x.data))
      ⟨(s.res.get k).arrivals, { x with data := [] }, (s.res.get k).unitsFree.take (unitsOf x.len)⟩).sayAccepted x := if_pos (by simp [hr, hu])
  rw [ht]
  exact State.heldAs_answered _ (putUnits_keeps _ _ _) (State.lands_sayAccepted _ x) fun _ hp => State.sayAccepted_notices hp x

theorem State.no_units (h : x.rdv = true ∨ (s.res.get k).unitsFree.length < unitsOf x.len) : ¬ (!x.rdv && decide (unitsOf x.len ≤ (s.res.get k).unitsFree.length)) = true := by
  rcases h with h | h
  · simp [h]
  · simp [Nat.not_le.mpr h]

/-- R323: a rendezvous message, or one without units, for which the pool has room. -/
theorem State.holdMsg_pool (h : x.rdv = true ∨ (s.res.get k).unitsFree.length < unitsOf x.len) (hp : ((s.res.get k).held.filter fun h => h.units.isEmpty).length < 1024) :
    s.HeldAs k x ⟨(s.res.get k).arrivals, { x with rdv := true, data := [] }, []⟩ (if x.rdv then 0 else 1) (s.holdMsg k x) ∧ (s.holdMsg k x).core.mem = s.core.mem := by
  have ht : s.holdMsg k x = if x.rdv then (s.heldAs k x id ⟨(s.res.get k).arrivals, { x with rdv := true, data := [] }, []⟩).sayAccepted x
      else (s.heldAs k x id ⟨(s.res.get k).arrivals, { x with rdv := true, data := [] }, []⟩).sayDemoted x := (if_neg (State.no_units h)).trans (if_pos hp)
  rw [ht]
  cases x.rdv with
  | true => exact ⟨State.heldAs_answered _ (fun _ => ⟨rfl, rfl⟩) (State.lands_sayAccepted _ x) fun _ hp => State.sayAccepted_notices hp x, (State.lands_sayAccepted _ x).mem⟩
  | false => exact ⟨State.heldAs_answered _ (fun _ => ⟨rfl, rfl⟩) (State.lands_sayDemoted _ x) fun _ hp => State.sayDemoted_notices hp x, (State.lands_sayDemoted _ x).mem⟩

/-- R324: one for which there is neither. -/
theorem State.holdMsg_full (h : x.rdv = true ∨ (s.res.get k).unitsFree.length < unitsOf x.len) (hp : 1024 ≤ ((s.res.get k).held.filter fun h => h.units.isEmpty).length) :
    s.holdMsg k x = s.refuse x := (if_neg (State.no_units h)).trans (if_neg (Nat.not_lt.mpr hp))

/-- What a message in turn that nothing takes comes to. -/
def State.Holds (s : State) (k : ResNo) (x : Message) (t : State) : Prop :=
  (t.res.get k).posted = (s.res.get k).posted ∧
  (x.rdv = false → unitsOf x.len ≤ (s.res.get k).unitsFree.length → t.StreamAt x (x.seq + 1) none ∧ s.Notices x t 0 ∧
    (t.res.get k).held = (s.res.get k).held ++ [⟨(s.res.get k).arrivals, { x with data := [] }, (s.res.get k).unitsFree.take (unitsOf x.len)⟩]) ∧
  ((x.rdv = true ∨ (s.res.get k).unitsFree.length < unitsOf x.len) → ((s.res.get k).held.filter fun h => h.units.isEmpty).length < 1024 →
    t.StreamAt x (x.seq + 1) none ∧ t.core.mem = s.core.mem ∧ s.Notices x t (if x.rdv then 0 else 1) ∧
    (t.res.get k).held = (s.res.get k).held ++ [⟨(s.res.get k).arrivals, { x with rdv := true, data := [] }, []⟩]) ∧
  ((x.rdv = true ∨ (s.res.get k).unitsFree.length < unitsOf x.len) → 1024 ≤ ((s.res.get k).held.filter fun h => h.units.isEmpty).length →
    t.StreamAt x (if x.fin then x.seq + 1 else (s.streamIn x).seq) (if x.fin then none else some x.seq) ∧ (t.res.get k).held = (s.res.get k).held ∧ s.Notices x t 2)

/-- The posted receives stay as they are, however a message is held. -/
theorem State.holdMsg_posted (hs : s.InTurn x) : ((s.holdMsg k x).res.get k).posted = (s.res.get k).posted := by
  rcases Nat.lt_or_ge ((s.res.get k).held.filter fun h => h.units.isEmpty).length 1024 with hp | hp
  · by_cases h : x.rdv = true ∨ (s.res.get k).unitsFree.length < unitsOf x.len
    · exact (State.holdMsg_pool h hp).1.posted
    · obtain ⟨hr, hu⟩ := not_or.mp h
      exact (State.holdMsg_units (by simpa using hr) (Nat.not_lt.mp hu)).posted
  · by_cases h : x.rdv = true ∨ (s.res.get k).unitsFree.length < unitsOf x.len
    · rw [State.holdMsg_full h hp, (State.refuse_inTurn hs).1]
    · obtain ⟨hr, hu⟩ := not_or.mp h
      exact (State.holdMsg_units (by simpa using hr) (Nat.not_lt.mp hu)).posted

theorem State.holdMsg_holds (hs : s.InTurn x) : s.Holds k x (s.holdMsg k x) := by
  refine ⟨State.holdMsg_posted hs, fun hr hu => ?_, fun h hp => ?_, fun h hp => ?_⟩
  · have hh := State.holdMsg_units hr hu
    exact ⟨hh.stream, hh.notice, hh.held⟩
  · obtain ⟨hh, hm⟩ := State.holdMsg_pool h hp
    exact ⟨hh.stream, hm, hh.notice, hh.held⟩
  · obtain ⟨hres, hst, hn⟩ := State.refuse_inTurn hs
    rw [State.holdMsg_full h hp]
    exact ⟨hst, congrArg (fun v : Vector Res 4 => (v.get k).held) hres, hn⟩

/-! ### Matched with a posted receive (R318, R321) -/

theorem State.matchMsg_bound {l p : List Recv} {v : Recv} (hp : (s.res.get k).posted = l ++ v :: p) (hl : ∀ y ∈ l, y.accepts x = false) (hv : v.accepts x = true) :
    ((s.matchMsg k x).res.get k).posted = l ++ p ∧ (s.matchMsg k x).StreamAt x (x.seq + 1) none ∧ (s.matchMsg k x).Matched k v x (s.res.get k).arrivals := by
  have hb : s.matchMsg k x = (((s.accepted k x).modRes k fun r => { r with posted := l ++ p }).sayAccepted x).bindMsg k v x [] (s.res.get k).arrivals := by
    rw [State.matchMsg, hp, takeFirst_append p hl hv]
  have ha := ((s.accepted k x).modRes k fun r => { r with posted := l ++ p }).lands_sayAccepted x
  rw [hb]
  refine ⟨?_, ?_, State.bindMsg_matched _ _ _ _⟩
  · rw [State.bindMsg, (State.lands_startLandings _).posted, State.modRes_get]
    exact (ha.posted k).trans (congrArg Res.posted (State.modRes_get _ _ _))
  · exact (State.lands_startLandings _).streamAt (ha.streamAt (s.accepted_streamAt k x))

theorem State.matchMsg_unmatched (hp : ∀ y ∈ (s.res.get k).posted, y.accepts x = false) : s.matchMsg k x = s.holdMsg k x := by
  rw [State.matchMsg, takeFirst_none hp]

end

end Sys2Proof.Machine
end

section
/-!
PROOF. A reduction message that an open reduction takes (O48): it is the one matched message of its kind, applied whole or waiting.
-/

namespace Sys2Proof.Machine

open Sys2Proof

section
variable {s c : State} {k : ResNo} {x : Message} {y : Landed}

/-! ### Bound to its reduction (R318, R346) -/

/-- The residency's one matched reduction message is this one. -/
def Res.OnlyPartial (r : Res) (y : Landed) : Prop := ∃ M, r.matched = M ++ [y] ∧ y.msg.cls = 2 ∧ ∀ z ∈ M, z.msg.cls ≠ 2

theorem Res.OnlyPartial.partials_self {r : Res} (h : r.OnlyPartial y) : r.partials y.msg.tag = [y] := by
  obtain ⟨M, hm, hy, hM⟩ := h
  have hn : M.filter (fun l => l.msg.cls == 2 && l.msg.tag == y.msg.tag) = [] := List.filter_eq_nil_iff.mpr fun z hz => by
    simp only [Bool.and_eq_true, beq_iff_eq]
    exact fun h => hM z hz h.1
  rw [Res.partials, hm, List.filter_append, hn]
  simp [hy]

theorem Res.partials_other {r : Res} {tag : BitVec 32} (h : ∀ z ∈ r.matched, z.msg.cls = 2 → z.msg.tag ≠ tag) : r.partials tag = [] :=
  List.filter_eq_nil_iff.mpr fun z hz => by
    simp only [Bool.and_eq_true, beq_iff_eq]
    exact fun hc => h z hz hc.1 hc.2

theorem Res.OnlyPartial.partials_other {r : Res} (h : r.OnlyPartial y) {tag : BitVec 32} (ht : y.msg.tag ≠ tag) : r.partials tag = [] := by
  obtain ⟨M, hm, -, hM⟩ := h
  refine Res.partials_other fun z hz hc => ?_
  rw [hm] at hz
  rcases List.mem_append.mp hz with hz | hz
  · exact absurd hc (hM z hz)
  · exact List.mem_singleton.mp hz ▸ ht

/-- What of a core the binding of a reduction message may change. -/
def CoreSt.unbound (q : CoreSt) (s : State) : CoreSt := { q with range := s.core.range, ni := s.core.ni, streamsIn := s.core.streamsIn }

/-- What of its residency. -/
def Res.unbound (q r : Res) : Res := { q with matched := r.matched, arrivals := r.arrivals }

theorem State.Lands.unbound {b : State} (h : Lands b c) : c.core.unbound s = b.core.unbound s := congrArg (·.unbound s) h.core

theorem State.Lands.res_unbound {b : State} (h : Lands b c) (r : Res) : (c.res.get k).unbound r = (b.res.get k).unbound r := congrArg (·.unbound r) (h.res k)

/-- A reduction message has been bound to its reduction: what it has changed, and how it stands among the matched messages. -/
structure State.Reduces (s : State) (k : ResNo) (x : Message) (y : Landed) (c : State) : Prop where
  core : c.core.unbound s = s.core
  banks : c.env.agenda.any writesBank = s.env.agenda.any writesBank
  res : (c.res.get k).unbound (s.res.get k) = s.res.get k
  only : (c.res.get k).OnlyPartial y
  others : ∀ j, j ≠ k → ∀ z ∈ (c.res.get j).matched, z.msg.cls ≠ 2
  msg : y.msg = x
  units : y.units = []
  no : y.no = (s.res.get k).arrivals
  started : y.started = true
  notice : s.Notices x c 0

/-- Landings come further in an appended list: the last message stays the last. -/
theorem further_append {l m : List Landed} (h : List.Forall₂ Landed.Further (l ++ [y]) m) : ∃ n z, m = n ++ [z] ∧ List.Forall₂ Landed.Further l n ∧ y.Further z := by
  have hf : List.Forall₂ (flip Landed.Further) m (l ++ [y]) := h.flip
  have hd := List.forall₂_drop_append m l [y] hf
  obtain ⟨z, n, hz, hn, he⟩ := List.forall₂_cons_right_iff.mp hd
  rw [List.forall₂_nil_right_iff.mp hn] at he
  exact ⟨_, z, by rw [← he, List.take_append_drop], (List.forall₂_take_append m l [y] hf).flip, hz⟩

theorem further_cls {l m : List Landed} (h : List.Forall₂ Landed.Further l m) (hl : ∀ z ∈ l, z.msg.cls ≠ 2) : ∀ z ∈ m, z.msg.cls ≠ 2 := fun z hz => by
  obtain ⟨i, hi, rfl⟩ := List.mem_iff_getElem.mp hz
  obtain ⟨he, hr⟩ := List.forall₂_iff_get.mp h
  have e : m[i].msg.cls = (l[i]'(he ▸ hi)).msg.cls := congrArg (·.msg.cls) (hr i (he ▸ hi) hi).1
  rw [e]
  exact hl _ (List.getElem_mem _)

/-- A reduction message has been accepted and its sender told, where no other is matched. -/
structure State.Accepts (s : State) (k : ResNo) (x : Message) (b : State) : Prop where
  core : b.core.unbound s = s.core
  banks : b.env.agenda.any writesBank = s.env.agenda.any writesBank
  res : (b.res.get k).unbound (s.res.get k) = s.res.get k
  unmatched : ∀ j, ∀ l ∈ (b.res.get j).matched, l.msg.cls ≠ 2
  notice : s.Notices x b 0

theorem State.accepts_sayAccepted (hno : ∀ j, ∀ l ∈ (s.res.get j).matched, l.msg.cls ≠ 2) : s.Accepts k x ((s.accepted k x).sayAccepted x) := by
  have hb := (s.accepted k x).lands_sayAccepted x
  have hka := s.accepted_get k x
  refine ⟨hb.unbound, hb.banks, (hb.res_unbound _).trans ?_, fun j => further_cls (hb.matched j) ?_, State.sayAccepted_notices (s.peers_accepted k x) x⟩
  · rw [hka]
    rfl
  · by_cases hj : j = k
    · subst hj
      rw [hka]
      exact hno j
    · rw [show (s.accepted k x).res.get j = s.res.get j from vec_get_set_other _ _ _ _ hj]
      exact hno j

/-- A reduction message as it joins the matched ones. -/
def Message.bound (x : Message) (no : Nat) : Landed := ⟨Message.whole x, x, [], none, no, false, none, false⟩

theorem State.Accepts.alive {b : State} (h : s.Accepts k x b) : (b.res.get k).phase.alive = (s.res.get k).phase.alive := by
  have e := congrArg (fun r : Res => r.phase.alive) h.res
  exact e

theorem State.Accepts.bindMsg {b : State} (h : s.Accepts k x b) (ha : (s.res.get k).phase.alive = true) (hc : x.cls = 2) :
    ∃ y, s.Reduces k x y (b.bindMsg k (Message.whole x) x [] (s.res.get k).arrivals) := by
  have hl := State.lands_startLandings (b.modRes k fun r => { r with matched := r.matched ++ [Message.bound x (s.res.get k).arrivals] })
  have hget := b.modRes_get k fun r => { r with matched := r.matched ++ [Message.bound x (s.res.get k).arrivals] }
  have hlm := hl.matched k
  rw [hget] at hlm
  obtain ⟨M, y, hy, hM, hxy⟩ := further_append hlm
  have e {α : Type} (f : Landed → α) : f y.fixed = f _ := congrArg f hxy.1
  have hcls : y.msg.cls = 2 := (congrArg Message.cls (e (·.msg))).trans hc
  unfold State.bindMsg
  refine ⟨y, ?_, hl.banks.trans h.banks, ?_, ⟨M, hy, hcls, further_cls hM (h.unmatched k)⟩, fun j hj => further_cls (hl.matched j) ?_, e (·.msg), e (·.units), e (·.no), ?_, ?_⟩
  · exact hl.unbound.trans h.core
  · refine (hl.res_unbound _).trans ?_
    rw [hget]
    exact h.res
  · rw [State.modRes_res, vec_get_set_other _ _ _ _ hj]
    exact h.unmatched j
  · have hb := h.alive.trans ha
    have hb' := congrArg (fun r : Res => r.phase.alive) hget
    exact State.startLandings_starts (k := k) (hb'.trans hb) (hy ▸ List.mem_append_right _ (List.mem_singleton_self y)) hcls (e (·.dropped))
  · exact h.notice.more hl.agenda hl.ni

/-! ### Applied, or left matched (R235, R331) -/

theorem State.Reduces.mem (h : s.Reduces k x y c) : c.core.mem = s.core.mem := by
  have e := congrArg (·.mem) h.core
  exact e

theorem State.Reduces.inbox (h : s.Reduces k x y c) : c.core.inbox = s.core.inbox := by
  have e := congrArg (·.inbox) h.core
  exact e

theorem State.Reduces.issuing (h : s.Reduces k x y c) : c.core.issuing = s.core.issuing := by
  have e := congrArg (·.issuing) h.core
  exact e

theorem State.Reduces.reductions (h : s.Reduces k x y c) : (c.res.get k).reductions = (s.res.get k).reductions := by
  have e := congrArg (·.reductions) h.res
  exact e

theorem State.Reduces.held (h : s.Reduces k x y c) : (c.res.get k).held = (s.res.get k).held := by
  have e := congrArg (·.held) h.res
  exact e

theorem State.Reduces.accReady (h : s.Reduces k x y c) : c.accReady k = s.accReady k := by
  have e := congrArg (fun q : CoreSt => (q.issuing, q.accClear)) h.core
  have e2 := congrArg (·.accOwn) h.res
  have h1 : c.core.issuing = s.core.issuing := congrArg Prod.fst e
  have h2 : c.core.accClear = s.core.accClear := congrArg Prod.snd e
  have h3 : (c.res.get k).accOwn = (s.res.get k).accOwn := e2
  rw [State.accReady, State.accReady, h1, h2, h3]

theorem State.Reduces.banksTaken (h : s.Reduces k x y c) : c.banksTaken = s.banksTaken := by
  have e := congrArg (fun q : CoreSt => q.engineBanks ++ q.landingBanks ++ q.seqBanks) h.core
  exact e

theorem State.Reduces.reductionOf (h : s.Reduces k x y c) (tag : BitVec 32) : (c.res.get k).reductionOf tag = (s.res.get k).reductionOf tag := by
  rw [Res.reductionOf, h.reductions]
  rfl

theorem State.Reduces.busy (h : s.Reduces k x y c) (tag : BitVec 32) : c.reductionBusy k tag = s.reductionBusy k tag := by
  rw [State.reductionBusy, h.accReady, h.banks, h.banksTaken, h.reductionOf]
  rfl

theorem State.applyPartial_none {tag : BitVec 32} (h : (s.res.get k).partials tag = []) : s.applyPartial k tag = s := by rw [State.applyPartial, h]

/-- A reduction message whose data have still to come, or whose accumulators cannot be written, stays matched. -/
theorem State.Reduces.waits (h : s.Reduces k x y c) (hw : x.rdv = true ∨ s.accReady k = false) : c.applyPartials = c := by
  rw [State.applyPartials]
  split
  · rfl
  next j _ =>
    refine List.foldl_fixed' (fun tag => ?_) _
    by_cases hj : j = k
    · subst hj
      by_cases ht : y.msg.tag = tag
      · subst ht
        have hr : (y.ready && !c.reductionBusy j y.msg.tag) = false := by
          rcases hw with hw | hw
          · simp [Landed.ready, h.msg, hw]
          · simp [State.reductionBusy, h.accReady, hw]
        rw [State.applyPartial, h.only.partials_self]
        simp [hr]
      · exact State.applyPartial_none (h.only.partials_other ht)
    · exact State.applyPartial_none (Res.partials_other fun z hz hc => absurd hc (h.others j hj z hz))

/-- Of a list with one member that changes the state, after which none does, the fold is that one's. -/
theorem foldl_once {α : Type} {f : State → α → State} {t : State} {a : α} {l : List α} (ha : a ∈ l) (ho : ∀ b, b ≠ a → f s b = s) (hf : f s a = t) (ht : ∀ b, f t b = t) : l.foldl f s = t := by
  induction l with
  | nil => cases ha
  | cons b l ih =>
    by_cases hb : b = a
    · rw [List.foldl_cons, hb, hf, List.foldl_fixed' ht]
    · rw [List.foldl_cons, ho b hb]
      exact ih ((List.mem_cons.mp ha).resolve_left (Ne.symm hb))

/-- What the application of a reduction message leaves. -/
theorem State.applyReduction_whole {d : Reduction} {data : List Byte} (hd : (s.res.get k).reductionOf x.tag = some d) (hn : data.length / 8 = (accxElems d.rect).length) :
    let t := s.applyReduction k x data
    t.core.mem = accxMessage d.rect (accxElems d.rect) data s.core.mem ∧ (t.res.get k).reductions = countArrival x.tag (s.res.get k).reductions ∧
    (t.res.get k).matched = (s.res.get k).matched ∧ s.env.agenda ⊆ t.env.agenda ∧ t.core.ni = s.core.ni := by
  simp only [State.applyReduction, hd, if_pos hn]
  refine ⟨?_, ?_, ?_, ?_, ?_⟩
  · rw [State.wake_core]
    rfl
  · rw [State.wake_res, State.modCore_res, State.modRes_get]
    rfl
  · rw [State.wake_res, State.modCore_res, State.modRes_get]
    rfl
  · unfold State.wake
    split
    · exact State.agenda_post _ _
    · exact List.Subset.refl _
  · rw [State.wake_core]
    rfl

/-- A matched message leaves the list. -/
def State.unmatch (s : State) (k : ResNo) (y : Landed) : State := s.modRes k fun r => { r with matched := r.matched.filter fun z => z.no != y.no }

theorem State.Reduces.applied (h : s.Reduces k x y c) {d : Reduction} (hd : (s.res.get k).reductionOf x.tag = some d) (ha : s.accReady k = true)
    (hw : s.env.agenda.any writesBank = false) (hs : share d.rect.banks s.banksTaken = false) (hr : x.rdv = false) (hn : x.data.length / 8 = (accxElems d.rect).length) :
    c.applyPartials.core.mem = accxMessage d.rect (accxElems d.rect) x.data s.core.mem ∧ (c.applyPartials.res.get k).reductions = countArrival x.tag (s.res.get k).reductions ∧
    (∀ l ∈ (c.applyPartials.res.get k).matched, l.no ≠ (s.res.get k).arrivals) ∧ s.Notices x c.applyPartials 0 := by
  have hi : c.core.issuing = some k := by
    rw [h.issuing]
    have := ha
    simp only [State.accReady, Bool.and_eq_true, beq_iff_eq] at this
    exact this.1.1
  have hmem : x.tag ∈ ((c.res.get k).reductions.map (·.tag)).eraseDups := by
    have hx := List.find?_some hd
    have hx' : d.tag = x.tag := by
      simp only [Bool.and_eq_true, beq_iff_eq] at hx
      exact hx.1.1
    rw [List.mem_eraseDups, h.reductions, ← hx']
    exact List.mem_map_of_mem (List.mem_of_find?_eq_some hd)
  have hget : (c.unmatch k y).res.get k = { c.res.get k with matched := (c.res.get k).matched.filter fun z => z.no != y.no } := c.modRes_get k _
  have hdu : ((c.unmatch k y).res.get k).reductionOf x.tag = some d := by
    rw [hget, ← hd, ← h.reductionOf]
    rfl
  obtain ⟨hm, hred, hmat, hag, hni⟩ := State.applyReduction_whole (s := c.unmatch k y) (data := x.data) hdu hn
  have hone : c.applyPartial k x.tag = (c.unmatch k y).applyReduction k x x.data := by
    have hready : (y.ready && !c.reductionBusy k x.tag) = true := by
      have hb : s.reductionBusy k x.tag = false := by simp [State.reductionBusy, ha, hw, hd, hs]
      simp [Landed.ready, h.started, h.units, h.msg, hr, h.busy, hb]
    have hp := h.only.partials_self
    rw [h.msg] at hp
    rw [State.applyPartial, hp]
    simp only [hready, if_true, h.msg]
    rfl
  rw [hget] at hmat hred
  have hnone : ∀ z ∈ (((c.unmatch k y).applyReduction k x x.data).res.get k).matched, z.msg.cls ≠ 2 ∧ z.no ≠ y.no := fun z hz => by
    obtain ⟨M, hcm, -, hM⟩ := h.only
    rw [hmat] at hz
    obtain ⟨hz, hno⟩ := List.mem_filter.mp hz
    have hno : z.no ≠ y.no := by simpa using hno
    rw [hcm] at hz
    rcases List.mem_append.mp hz with hz | hz
    · exact ⟨hM z hz, hno⟩
    · exact absurd (congrArg Landed.no (List.mem_singleton.mp hz)) hno
  have hall : c.applyPartials = (c.unmatch k y).applyReduction k x x.data := by
    rw [State.applyPartials, hi]
    refine foldl_once hmem (fun b hb => ?_) hone fun b => State.applyPartial_none (Res.partials_other fun z hz hc => absurd hc (hnone z hz).1)
    exact State.applyPartial_none (h.only.partials_other (h.msg ▸ hb.symm))
  rw [hall]
  refine ⟨hm.trans ?_, hred.trans ?_, fun l hl => h.no ▸ (hnone l hl).2, h.notice.more hag ?_⟩
  · exact congrArg _ h.mem
  · exact congrArg _ h.reductions
  · rw [hni]
    exact List.Subset.refl _

end

end Sys2Proof.Machine
end

section
/-!
PROOF. The end of a landing (O48): its data, its status record, and what may still land.
-/

namespace Sys2Proof.Machine

open Sys2Proof

/-! ### The local map of a residency (R18, R46, R389) -/

section
variable {s t v : State} {k : ResNo}

/-- The local offsets of the residencies have the same meaning. -/
structure State.SameMap (s v : State) : Prop where
  spbase : ∀ k, (v.res.get k).spbase = (s.res.get k).spbase
  ends : ∀ k, (v.res.get k).userEnd = (s.res.get k).userEnd ∧ (v.res.get k).limit = (s.res.get k).limit
  curRes : v.curRes = s.curRes
  aux : v.core.auxKind = s.core.auxKind ∧ v.core.auxN = s.core.auxN ∧ v.core.auxPage = s.core.auxPage
  foreign : v.core.fwEn = s.core.fwEn ∧ v.core.fwPage = s.core.fwPage ∧ v.core.fwRes = s.core.fwRes

theorem State.SameMap.refl (s : State) : SameMap s s := ⟨fun _ => rfl, fun _ => ⟨rfl, rfl⟩, rfl, ⟨rfl, rfl, rfl⟩, ⟨rfl, rfl, rfl⟩⟩

theorem State.SameMap.trans (h : SameMap s t) (g : SameMap t v) : SameMap s v where
  spbase k := (g.spbase k).trans (h.spbase k)
  ends k := ⟨(g.ends k).1.trans (h.ends k).1, (g.ends k).2.trans (h.ends k).2⟩
  curRes := g.curRes.trans h.curRes
  aux := ⟨g.aux.1.trans h.aux.1, g.aux.2.1.trans h.aux.2.1, g.aux.2.2.trans h.aux.2.2⟩
  foreign := ⟨g.foreign.1.trans h.foreign.1, g.foreign.2.1.trans h.foreign.2.1, g.foreign.2.2.trans h.foreign.2.2⟩

theorem State.SameMap.as (h : SameMap s v) (k : ResNo) : SameMap { s with curRes := k } { v with curRes := k } := ⟨h.spbase, h.ends, rfl, h.aux, h.foreign⟩

theorem State.SameMap.regionOf (h : SameMap s v) (o : Nat) : v.regionOf o = s.regionOf o := by
  obtain ⟨hk, hn, -⟩ := h.aux
  obtain ⟨he, hp, hr⟩ := h.foreign
  have hl : ∀ k, (v.res.get k).limit = (s.res.get k).limit := fun k => (h.ends k).2
  have hu : v.r.userEnd = s.r.userEnd := by
    rw [State.r, h.curRes]
    exact (h.ends _).1
  have hm : v.r.limit = s.r.limit := by
    rw [State.r, h.curRes]
    exact (h.ends _).2
  rw [State.regionOf.eq_1, State.regionOf.eq_1, hk, hn, he, hp, hr, hl, hu, hm]

theorem State.SameMap.keyOf (h : SameMap s v) (g : Region) (o : Nat) : v.keyOf g o = s.keyOf g o := by
  obtain ⟨hk, hn, hg⟩ := h.aux
  obtain ⟨-, hp, hr⟩ := h.foreign
  have hs : v.r.spbase = s.r.spbase := by
    rw [State.r, h.curRes]
    exact h.spbase _
  unfold State.keyOf
  rw [hs, hk, hn, hg, hp, hr, h.spbase]

/-- What a local write leaves in memory depends on the map and the memory alone. -/
theorem State.SameMap.writeBytes_mem (h : SameMap s v) (hm : v.core.mem = s.core.mem) (o : Nat) (bs : List Byte) : (v.writeBytes o bs).core.mem = (s.writeBytes o bs).core.mem := by
  have hreg := h.regionOf o
  cases hr : s.regionOf o with
  | none => rw [State.writeBytes, State.writeBytes, hreg, hr]; exact hm
  | some g =>
    have ha : v.auxTags g.1 = s.auxTags g.1 := by rw [State.auxTags, State.auxTags, h.aux.1]
    rw [State.writeBytes_of_region bs hr, State.writeBytes_of_region bs (hreg.trans hr), ha]
    split
    · exact hm
    · split
      · exact ((State.setCtrlWord_keeps _ _ _).1.trans hm).trans (State.setCtrlWord_keeps s _ _).1.symm
      · split
        · exact ((State.writeTags_keeps _ _ _).1.trans hm).trans (State.writeTags_keeps s _ _).1.symm
        · rw [State.windowLive_core, State.windowLive_core, h.keyOf]
          exact congrArg (memPut · _ _) hm

theorem State.as_core (s : State) (k : ResNo) (f : State → Nat → List Byte → State) (o : Nat) (bs : List Byte) :
    (s.as k fun u => f u o bs).core = (f { s with curRes := k } o bs).core := rfl

theorem State.SameMap.as_writeBytes_mem (h : SameMap s v) (hm : v.core.mem = s.core.mem) (k : ResNo) (o : Nat) (bs : List Byte) :
    (v.as k fun u => u.writeBytes o bs).core.mem = (s.as k fun u => u.writeBytes o bs).core.mem := by
  rw [State.as_core v k State.writeBytes o bs, State.as_core s k State.writeBytes o bs]
  exact (h.as k).writeBytes_mem hm o bs

/-! ### What a local write leaves of the residencies -/

/-- The residencies' scratchpads and matched messages are the same. -/
def State.Settled (s t : State) : Prop := ∀ k, (t.res.get k).spbase = (s.res.get k).spbase ∧ (t.res.get k).matched = (s.res.get k).matched

theorem State.Settled.of_res (h : t.res = s.res) : Settled s t := fun k => by rw [h]; exact ⟨rfl, rfl⟩

theorem State.Settled.trans (h : Settled s t) (g : Settled t v) : Settled s v := fun k => ⟨(g k).1.trans (h k).1, (g k).2.trans (h k).2⟩

theorem State.settled_modRes (s : State) (k : ResNo) (f : Res → Res) (hf : ∀ r, (f r).spbase = r.spbase ∧ (f r).matched = r.matched) : Settled s (s.modRes k f) := fun j => by
  by_cases h : j = k
  · subst h
    rw [State.modRes_get]
    exact hf _
  · rw [State.modRes_res, vec_get_set_other _ _ _ _ h]
    exact ⟨rfl, rfl⟩

theorem State.settled_modR (s : State) (f : Res → Res) (hf : ∀ r, (f r).spbase = r.spbase ∧ (f r).matched = r.matched) : Settled s (s.modR f) := s.settled_modRes s.curRes f hf

/-- A write of a control-page word: to a context's record, a mailbox, the core alone, or the register that releases the groups. -/
theorem State.settled_setCtrlWord (s : State) (o w : Nat) : Settled s (s.setCtrlWord o w) := by
  have hsame : Settled s s := .of_res rfl
  have hctx (j : CtxNo) (f : Ctx → Ctx) : Settled s (s.modCtx j f) := s.settled_modR _ fun _ => ⟨rfl, rfl⟩
  have hrel (u : State) (j : ResNo) : Settled u (u.releaseAcc j) ∧ Settled u (u.releaseTile j) := ⟨u.settled_modRes j _ fun _ => ⟨rfl, rfl⟩, u.settled_modRes j _ fun _ => ⟨rfl, rfl⟩⟩
  unfold State.setCtrlWord State.setDptimeout
  dsimp only
  split
  · split
    · exact hctx _ _
    split
    · exact hctx _ _
    split
    · exact hctx _ _
    · exact hsame
  split
  · exact s.settled_modR _ fun _ => ⟨rfl, rfl⟩
  split
  · split <;> exact .of_res rfl
  split
  · exact .of_res rfl
  split
  · exact .of_res rfl
  split
  · have hacc : Settled s (if w.testBit 0 then s.releaseAcc ⟨(o - 0x3400) / 0x80 % 4, Nat.mod_lt _ (by decide)⟩ else s) := by
      split
      · exact (hrel _ _).1
      · exact hsame
    split
    · exact hacc.trans (hrel _ _).2
    · exact hacc
  · exact hsame

theorem State.settled_windowLive (s : State) (g : Region) (o n : Nat) : Settled s (s.windowLive g o n) := by
  have hsame : Settled s s := .of_res rfl
  unfold State.windowLive
  split
  · exact hsame
  split
  · exact s.settled_modR _ fun _ => ⟨rfl, rfl⟩
  · split
    · exact s.settled_modR _ fun _ => ⟨rfl, rfl⟩
    split
    · exact s.settled_modR _ fun _ => ⟨rfl, rfl⟩
    · exact hsame
  · exact hsame

theorem State.settled_writeBytes (s : State) (o : Nat) (bs : List Byte) : Settled s (s.writeBytes o bs) := by
  cases hr : s.regionOf o with
  | none => rw [State.writeBytes, hr]; exact .of_res rfl
  | some g =>
    rw [State.writeBytes_of_region bs hr]
    split
    · exact .of_res rfl
    split
    · exact s.settled_setCtrlWord _ _
    split
    · exact .of_res rfl
    · exact .trans (t := s.modCore fun c => c.put (s.keyOf g.1 o) bs) (.of_res rfl) (State.settled_windowLive _ _ _ _)

theorem State.settled_as {f : State → State} (h : Settled { s with curRes := k } (f { s with curRes := k })) : Settled s (s.as k f) := fun j => h j

theorem State.settled_as_writeBytes (s : State) (k : ResNo) (o : Nat) (bs : List Byte) : Settled s (s.as k fun u => u.writeBytes o bs) :=
  State.settled_as (State.settled_writeBytes { s with curRes := k } o bs)

theorem State.writeRecord_mem {buf : Word} {m n st tag src : Nat} (hm : v.core.mem = s.core.mem) (hs : (v.res.get k).spbase = (s.res.get k).spbase) :
    (v.writeRecord k buf m n st tag src).core.mem = (s.writeRecord k buf m n st tag src).core.mem := by
  simp only [State.writeRecord, CoreSt.putFull, State.modCore_core, hm, hs]

/-! ### The receive completes (R63, R265, R326) -/

theorem State.rangeRemove_mem (s : State) (i : Option (Fin 32)) : (s.rangeRemove i).core.mem = s.core.mem := (State.sends_rangeRemove s i).mem

section
variable {l : Landed} {data : List Byte} {sc : BitVec 16}

/-- The data have their scales: the bytes are written, and the record says whether the buffer was too short. -/
theorem State.completeRecv_written (h : l.msg.blg = 0 ∨ sc = l.msg.seq) : (s.completeRecv k l data sc).core.mem =
    ((s.as k fun s => s.writeBytes (ptrOff l.recv.buf) data).writeRecord k l.recv.buf l.msg.len data.length
      (if l.recv.len < l.msg.len then 1 else 0) l.msg.tag.toNat l.msg.src.toNat).core.mem := by
  have hb : ¬(l.msg.blg ≠ 0 ∧ sc ≠ l.msg.seq) := fun hb => h.elim hb.1 hb.2
  simp only [State.completeRecv, if_neg hb, State.modRes_core, State.rangeRemove_mem]

/-- The scales are another message's: only the record is written. -/
theorem State.completeRecv_scaleless (h : l.msg.blg ≠ 0) (hs : sc ≠ l.msg.seq) : (s.completeRecv k l data sc).core.mem =
    (s.writeRecord k l.recv.buf l.msg.len 0 6 l.msg.tag.toNat l.msg.src.toNat).core.mem := by
  simp only [State.completeRecv, if_pos (And.intro h hs), State.modRes_core, State.rangeRemove_mem]

theorem State.settled_completeRecv (s : State) (k : ResNo) (l : Landed) (data : List Byte) (sc : BitVec 16) : Settled s (s.completeRecv k l data sc) := by
  have hw : Settled s (if l.msg.blg ≠ 0 ∧ sc ≠ l.msg.seq then s else s.as k fun s => s.writeBytes (ptrOff l.recv.buf) data) := by
    split
    · exact .of_res rfl
    · exact s.settled_as_writeBytes k _ _
  have hrec (u : State) (n st : Nat) : Settled u ((u.writeRecord k l.recv.buf l.msg.len n st l.msg.tag.toNat l.msg.src.toNat).rangeRemove l.range) := .of_res (State.rangeRemove_res _)
  have hcredit (r : Res) (o : Option (BitVec 4)) (n : Nat) : (r.credit o n).spbase = r.spbase ∧ (r.credit o n).matched = r.matched := by
    cases o <;> exact ⟨rfl, rfl⟩
  refine (hw.trans (hrec _ _ _)).trans (State.settled_modRes _ k _ fun r => ?_)
  dsimp only
  split
  · exact hcredit _ _ _
  · exact hcredit _ _ _

/-- The sender hears of the end, and its bytes come free (R327, R423). -/
def State.landedSaid (s : State) (l : Landed) (n : Nat) : State := if l.msg.rdv then (s.sayDone l.msg).backRoom l.msg.order l.msg.src l.msg.dst 3 n else s

theorem State.Lands.sameMap (h : Lands s t) : SameMap s t where
  spbase j := congrArg (·.spbase) (h.res j)
  ends j := by
    have e := congrArg (fun r : Res => (r.userEnd, r.limit)) (h.res j)
    exact ⟨congrArg Prod.fst e, congrArg Prod.snd e⟩
  curRes := h.beside.curRes
  aux := ⟨congrArg (·.auxKind) h.core, congrArg (·.auxN) h.core, congrArg (·.auxPage) h.core⟩
  foreign := ⟨congrArg (·.fwEn) h.core, congrArg (·.fwPage) h.core, congrArg (·.fwRes) h.core⟩

theorem State.backRoom_same (s : State) (order : Nat) (src dst : Rank) (vc n : Nat) : SameMap s (s.backRoom order src dst vc n) ∧ (s.backRoom order src dst vc n).core.mem = s.core.mem := by
  rw [State.backRoom]
  split
  · exact ⟨.refl s, rfl⟩
  · obtain ⟨f, m, h⟩ := s.emitFor_room order src dst vc n
    rw [h]
    exact ⟨⟨fun _ => rfl, fun _ => ⟨rfl, rfl⟩, rfl, ⟨rfl, rfl, rfl⟩, ⟨rfl, rfl, rfl⟩⟩, rfl⟩

theorem State.landedSaid_same (s : State) (l : Landed) (n : Nat) : SameMap s (s.landedSaid l n) ∧ (s.landedSaid l n).core.mem = s.core.mem := by
  rw [State.landedSaid]
  split
  · have hd := s.lands_sayDone l.msg
    obtain ⟨hm, he⟩ := (s.sayDone l.msg).backRoom_same l.msg.order l.msg.src l.msg.dst 3 n
    exact ⟨hd.sameMap.trans hm, he.trans hd.mem⟩
  · exact ⟨.refl s, rfl⟩

/-- A matched message leaves the list without a change of the local map. -/
theorem State.sameMap_modRes (s : State) (k : ResNo) (f : Res → Res) (hf : ∀ r, (f r).spbase = r.spbase ∧ (f r).userEnd = r.userEnd ∧ (f r).limit = r.limit) : SameMap s (s.modRes k f) := by
  have hr : ∀ j, ((s.modRes k f).res.get j).spbase = (s.res.get j).spbase ∧ ((s.modRes k f).res.get j).userEnd = (s.res.get j).userEnd ∧
      ((s.modRes k f).res.get j).limit = (s.res.get j).limit := fun j => by
    by_cases h : j = k
    · subst h
      rw [State.modRes_get]
      exact hf _
    · rw [State.modRes_res, vec_get_set_other _ _ _ _ h]
      exact ⟨rfl, rfl, rfl⟩
  exact ⟨fun j => (hr j).1, fun j => (hr j).2, rfl, ⟨rfl, rfl, rfl⟩, ⟨rfl, rfl, rfl⟩⟩

/-- The last byte of a matched message is there: it leaves the matched ones, its receive completes, and others may land. -/
theorem execLandingComplete_completes {no : Nat} (hf : ((s.res.get k).matched.find? fun l => l.no == no && l.started && l.units.isEmpty && decide (data.length = l.take)) = some l)
    (hc : l.msg.cls ≠ 2) (hd : l.dropped = false) (ha : (s.res.get k).phase.alive = true) :
    ∃ u : State, exec (.landingComplete k no data sc) s = .next (u.completeRecv k l data sc).startLandings ∧ s.SameMap u ∧ u.core.mem = s.core.mem ∧ ∀ y ∈ (u.res.get k).matched, y.no ≠ no := by
  obtain ⟨hm, he⟩ := s.landedSaid_same l data.length
  refine ⟨(s.landedSaid l data.length).modRes k fun r => { r with matched := r.matched.filter fun y => y.no != no }, ?_,
    hm.trans (State.sameMap_modRes _ k _ fun _ => ⟨rfl, rfl, rfl⟩), he, fun y hy => ?_⟩
  · show execLandingComplete k no data sc s = _
    rw [execLandingComplete, hf]
    dsimp only
    rw [if_neg fun h => hc h.1, if_neg (by simp [hd, ha])]
    rfl
  · rw [State.modRes_get] at hy
    simpa using (List.mem_filter.mp hy).2

end

/-! ### A copy from the pigeonholes ends (R321) -/

/-- Core residency k stands behind the lower ones. -/
theorem finRange_four (k : ResNo) : List.finRange 4 = (List.finRange 4).take k ++ k :: (List.finRange 4).drop (k + 1) ∧ ∀ j ∈ (List.finRange 4).take k, j < k := by
  revert k
  decide

theorem execPigeonholeCopyDone_copies {l : Landed} (hl : (s.res.get k).copiedOut s.core.cycle = some l) (hj : ∀ j, j < k → (s.res.get j).copiedOut s.core.cycle = none) (hc : l.msg.cls ≠ 2) :
    exec .pigeonholeCopyDone s = .next ((s.modRes k (·.modLanded l.no fun x => { x with units := [], due := none })).post
      (.landingComplete k l.no (takeBytes l.msg.blg l.msg.len l.take (s.unitBytes k l.units l.msg.len)) l.msg.scaleSeq)) := by
  obtain ⟨hk, hlt⟩ := finRange_four k
  have hf : ((List.finRange 4).findSome? fun j => ((s.res.get j).copiedOut s.core.cycle).map fun l => (j, l)) = some (k, l) := by
    refine List.findSome?_eq_some_iff.mpr ⟨_, k, _, hk, by rw [hl]; rfl, fun j hm => by rw [hj j (hlt j hm)]; rfl⟩
  show execPigeonholeCopyDone s = _
  rw [execPigeonholeCopyDone, hf]
  dsimp only
  rw [if_neg hc]

end

end Sys2Proof.Machine
end

section
/-!
PROOF. What the Postmaster does with an envelope that comes to an empty buffer (O48), case by case.
-/

namespace Sys2Proof.Machine

open Sys2Proof

section
variable {s : State} {k : ResNo} {i : Instr} {x : Message}

theorem State.InTurn.takeable (h : s.InTurn x) (ht : s.takerOf x = some k) (hi : (s.res.get k).inputShut x.src = false) : s.takeable x = true := by
  rw [State.takeable_of_taker ht, h.fate, hi]
  rfl

section
variable (hb : Instr.Brings i x)
include hb

theorem State.arrives_failed (hc : x.cls.toNat ≤ 1) (ht : s.takerOf x = none) (hs : s.InTurn x) (ho : s.ownMessage x = false) :
    s.Arrives i fun t => s.Failed x t (if x.bad then Cause.malformed else Cause.noGroup) := by
  have htake : s.takeable x = true := by rw [State.takeable, hs.fate, ht]; rfl
  exact State.arrives_taken hb htake fun f n => State.envelopeIn_failed (s := s.taken f n) hc ht hs ho

theorem State.arrives_shut (ht : s.takerOf x = some k) (hi : (s.res.get k).inputShut x.src = true) : s.Arrives i fun t => t.res = s.res ∧ t.core.inbox = [⟨i, none⟩] :=
  State.arrives_left hb (by rw [State.takeable_of_taker ht, hi]; exact Bool.and_false _)

theorem State.arrives_early (ht : s.takerOf x = some k) (hr : (s.streamIn x).refused = none) (hq : seqBefore x.seq (s.streamIn x).seq = false) (hne : x.seq ≠ (s.streamIn x).seq) :
    s.Arrives i fun t => t.res = s.res ∧ t.core.inbox = [⟨i, none⟩] :=
  State.arrives_left hb (by rw [State.takeable_of_taker ht, State.seqFate_early hr hq hne]; rfl)

section
variable (hc : x.cls ≠ 3) (hx : x.bad = false) (ht : s.takerOf x = some k) (hi : (s.res.get k).inputShut x.src = false)
include hc hx ht hi

theorem State.arrives_duplicate (hr : (s.streamIn x).refused = none) (hq : seqBefore x.seq (s.streamIn x).seq = true) :
    s.Arrives i fun t => t.res = s.res ∧ t.core.mem = s.core.mem ∧ t.core.inbox = [] ∧ t.core.streamsIn = s.core.streamsIn := by
  have hf := State.seqFate_past hr hq
  have htake : s.takeable x = true := by rw [State.takeable_of_taker ht, hf, hi]; rfl
  refine State.arrives_taken hb htake fun f n => ?_
  rw [State.envelopeIn_drop (s := s.taken f n) hc hx hf]
  exact ⟨rfl, rfl, rfl, rfl⟩

theorem State.arrives_refused {q : BitVec 16} (hr : (s.streamIn x).refused = some q) (hq : x.seq ≠ q ∨ x.retry = false) (hn : x.fin = false) :
    s.Arrives i fun t => t.res = s.res ∧ t.StreamAt x (s.streamIn x).seq (some q) ∧ s.Notices x t 2 := by
  have hf := State.seqFate_shut hr hq
  have htake : s.takeable x = true := by rw [State.takeable_of_taker ht, hf, hi]; rfl
  refine State.arrives_taken hb htake fun f n => ?_
  rw [State.envelopeIn_refuse (s := s.taken f n) hc hx hf]
  exact State.refuse_stays (s := s.taken f n) hr hn

variable (hs : s.InTurn x)
include hs

theorem State.arrives_matched (h2 : x.cls ≠ 2) {l p : List Recv} {v : Recv} (hp : (s.res.get k).posted = l ++ v :: p) (hl : ∀ y ∈ l, y.accepts x = false) (hv : v.accepts x = true) :
    s.Arrives i fun t => (t.res.get k).posted = l ++ p ∧ t.StreamAt x (x.seq + 1) none ∧ t.Matched k v x (s.res.get k).arrivals := by
  refine State.arrives_taken hb (hs.takeable ht hi) fun f n => ?_
  rw [State.envelopeIn_take (s := s.taken f n) hc hx hs ht, if_neg h2]
  exact State.matchMsg_bound (s := s.taken f n) hp hl hv

theorem State.arrives_unmatched (h2 : x.cls ≠ 2) (hp : ∀ y ∈ (s.res.get k).posted, y.accepts x = false) : s.Arrives i (s.Holds k x) := by
  refine State.arrives_taken hb (hs.takeable ht hi) fun f n => ?_
  rw [State.envelopeIn_take (s := s.taken f n) hc hx hs ht, if_neg h2, State.matchMsg_unmatched (s := s.taken f n) hp]
  exact State.holdMsg_holds (s := s.taken f n) hs

end

section
variable (h2 : x.cls = 2) (hx : x.bad = false) (ht : s.takerOf x = some k) (hi : (s.res.get k).inputShut x.src = false) (hs : s.InTurn x)
include h2 hx ht hi hs

/-- A reduction message is matched in the cycle in which it comes. -/
theorem State.arrives_reduction {p : State → Prop} (hp : ∀ f n, p ((s.taken f n).matchReduction k x)) : s.Arrives i p := by
  refine State.arrives_taken hb (hs.takeable ht hi) fun f n => ?_
  rw [State.envelopeIn_take (s := s.taken f n) (by rw [h2]; decide) hx hs ht, if_pos h2]
  exact hp f n

theorem State.arrives_untaken (hr : (s.res.get k).takesReduction x = false) : s.Arrives i (s.Holds k x) := by
  refine State.arrives_reduction hb h2 hx ht hi hs fun f n => ?_
  have hm : (s.taken f n).matchReduction k x = (s.taken f n).holdMsg k x := if_neg (by rw [show ((s.taken f n).res.get k).takesReduction x = false from hr]; exact Bool.false_ne_true)
  rw [hm]
  exact State.holdMsg_holds (s := s.taken f n) hs

/-- One that an open reduction takes is bound to it, and the reductions then apply what they can. -/
theorem State.arrives_reduces (hr : (s.res.get k).takesReduction x = true) (hno : ∀ j, ∀ l ∈ (s.res.get j).matched, l.msg.cls ≠ 2) {p : State → Prop}
    (hp : ∀ f n y c, (s.taken f n).Reduces k x y c → p c.applyPartials) : s.Arrives i p := by
  refine State.arrives_reduction hb h2 hx ht hi hs fun f n => ?_
  have ha : ((s.taken f n).res.get k).phase.alive = true := by
    have hk : s.resOf x.order = some k := by rwa [State.takerOf, if_pos h2] at ht
    have := List.find?_some hk
    simp only [Bool.and_eq_true] at this
    exact this.1
  obtain ⟨y, hy⟩ := (State.accepts_sayAccepted (s := s.taken f n) (k := k) (x := x) hno).bindMsg ha h2
  have hm : (s.taken f n).matchReduction k x = ((((s.taken f n).accepted k x).sayAccepted x).bindMsg k (Message.whole x) x [] ((s.taken f n).res.get k).arrivals).applyPartials := if_pos hr
  rw [hm]
  exact hp f n y _ hy

end

end

end

/-- Settles O48: an envelope in an empty buffer is taken in the same cycle or left in it, by its SEQ and its input; what it then comes to is the Postmaster's case for it. A landing's memory depends on the local map and the memory alone, and a matched message's other state only comes further. -/
theorem postmasterResults : Obligations.PostmasterResults := by
  unfold Obligations.PostmasterResults
  intro s k m r arrives inTurn next tells notice holds failed plain
  have hplain (i : Instr) (x : Message) (hb : Instr.Brings i x) : plain i x := fun hc => by
    obtain ⟨h2, h3⟩ := Message.cls_plain hc
    refine ⟨State.arrives_failed hb hc, State.arrives_shut hb, fun ht hi hx => ⟨State.arrives_duplicate hb h3 hx ht hi, State.arrives_early hb ht,
      fun q => State.arrives_refused hb h3 hx ht hi, fun hs => ⟨fun l v p => State.arrives_matched hb h3 hx ht hi hs h2, State.arrives_unmatched hb h3 hx ht hi hs h2⟩⟩⟩
  refine ⟨hplain _ _ (.inl ⟨rfl, rfl⟩), hplain _ _ (.inr (.inl ⟨rfl, rfl⟩)), ?_, ?_, fun l => execPigeonholeCopyDone_copies⟩
  · intro x hs hx ht hi
    have hb : Instr.Brings (.accxMessageArrival x) x := .inr (.inr ⟨rfl, rfl⟩)
    refine ⟨State.arrives_untaken hb rfl hx ht hi hs, fun hr hno => ⟨fun d hd ha hw hbk hrdv hn => ?_, fun hw => ?_⟩⟩
    · exact State.arrives_reduces hb rfl hx ht hi hs hr hno fun f n y c h => h.applied hd ha hw hbk hrdv hn
    · refine State.arrives_reduces hb rfl hx ht hi hs hr hno fun f n y c h => ?_
      rw [h.waits hw]
      obtain ⟨M, hM, -⟩ := h.only
      exact ⟨h.mem, h.inbox, h.reductions, h.held, ⟨y, hM ▸ List.mem_append_right _ (List.mem_singleton_self y), h.msg, h.no⟩, h.notice⟩
  · intro no data sc l hf hc hd ha
    obtain ⟨u, he, hmap, hmem, hno⟩ := execLandingComplete_completes hf hc hd ha (sc := sc)
    have hl := (u.completeRecv k l data sc).lands_startLandings
    refine ⟨_, he, fun y hy => ?_, fun hsc => ?_, fun hb hsc => ?_⟩
    · obtain ⟨z, hz, hf, -⟩ := hl.was hy
      rw [(u.settled_completeRecv k l data sc k).2] at hz
      have hn : y.no = z.no := congrArg (·.no) hf
      exact hn ▸ hno z hz
    · rw [hl.mem, State.completeRecv_written hsc]
      refine State.writeRecord_mem ?_ ?_
      · exact hmap.as_writeBytes_mem hmem k _ _
      · rw [(u.settled_as_writeBytes k _ _ k).1, (s.settled_as_writeBytes k _ _ k).1, hmap.spbase]
    · rw [hl.mem, State.completeRecv_scaleless hb hsc]
      exact State.writeRecord_mem hmem (hmap.spbase k)

end Sys2Proof.Machine
end
